-- ==== Sys2Proof/Word.lean ====
section
/-! DEFINITION. The words of the TQ8 manual and their plainest arithmetic: bytes, 32-bit register words, 512-byte rows (R8, R82),
and the saturating and modular counts its registers use. -/

namespace Sys2Proof

/-- One byte. -/
abbrev Byte := BitVec 8
/-- One 32-bit register word. -/
abbrev Word := BitVec 32
/-- One 512-byte row (R82); bit n of the row is bit n mod 8 of byte n / 8 (R8). -/
abbrev Row := BitVec 4096
/-- One 16-byte instruction word (R29). -/
abbrev IWord := BitVec 128
/-- One 256-byte link flit (R361). -/
abbrev Flit := BitVec 2048

/-- A count that saturates at `top`. -/
def satAdd (top n k : Nat) : Nat := if n + k ≤ top then n + k else top

/-- The number in bits [hi:lo] of `n`. -/
def bitsOf (n lo len : Nat) : Nat := (n / 2 ^ lo) % 2 ^ len

/-- Bit `i` of `n`. -/
def bitOf (n i : Nat) : Bool := n.testBit i

/-- `n` with its bits [lo+len-1:lo] replaced by `v`. -/
def setBits (n lo len v : Nat) : Nat :=
  n - bitsOf n lo len * 2 ^ lo + (v % 2 ^ len) * 2 ^ lo

/-- The signed value of the low `w` bits of `n`. -/
def signedOf (w n : Nat) : Int :=
  if n % 2 ^ w < 2 ^ (w - 1) then (n % 2 ^ w : Nat) else ((n % 2 ^ w : Nat) : Int) - 2 ^ w

/-- `z` reduced modulo 2^w, as R13 reduces a value of stated width. -/
def wrap (w : Nat) (z : Int) : Nat := (z % (2 ^ w : Int)).toNat

/-- `n` held within `lo` .. `hi`. -/
def clampN (lo hi n : Nat) : Nat := if n < lo then lo else if hi < n then hi else n

/-- Ceiling of a quotient. -/
def ceilDiv (a b : Nat) : Nat := (a + b - 1) / b

/-- The bytes of `n`, `k` of them, byte 0 first (little-endian, R8). -/
def leBytes : Nat → Nat → List Byte
  | 0, _ => []
  | k + 1, n => BitVec.ofNat 8 n :: leBytes k (n / 256)

/-- The number that little-endian bytes spell. -/
def ofLe : List Byte → Nat
  | [] => 0
  | b :: bs => b.toNat + 256 * ofLe bs

/-- The bytes of `n`, `k` of them, most significant first. -/
def beBytes (k n : Nat) : List Byte := (leBytes k n).reverse

/-- The number that big-endian bytes spell. -/
def ofBe (bs : List Byte) : Nat := ofLe bs.reverse

/-- The field of `len` bytes at byte offset `off` of a row, little-endian. -/
def Row.field (r : Row) (off len : Nat) : Nat := (r.toNat / 2 ^ (8 * off)) % 2 ^ (8 * len)

/-- The element of `n` bits with index `i` in its row (R131). -/
def Row.elem (r : Row) (n i : Nat) : Nat := (r.toNat / 2 ^ (n * i)) % 2 ^ n

/-- The row with `len` bytes at offset `off` replaced. -/
def Row.put (r : Row) (off len v : Nat) : Row := BitVec.ofNat 4096 (setBits r.toNat (8 * off) (8 * len) v)

/-- A number made of elements of `n` bits, element 0 lowest (R131). -/
def packNat (n : Nat) : List Nat → Nat
  | [] => 0
  | e :: es => e % 2 ^ n + 2 ^ n * packNat n es

/-- The row that packs elements of `n` bits under R131. -/
def packRow (n : Nat) (es : List Nat) : Row := BitVec.ofNat 4096 (packNat n es)

/-- The 512 bytes of a row, byte 0 first. -/
def Row.bytes (r : Row) : List Byte := leBytes 512 r.toNat

/-- The row that 512 bytes spell (missing bytes are 0). -/
def Row.ofBytes (bs : List Byte) : Row := BitVec.ofNat 4096 (ofLe (bs.take 512))

/-- The field [lo+len-1:lo] of an instruction word or handle. -/
def IWord.fld (w : IWord) (lo len : Nat) : Nat := bitsOf w.toNat lo len

/-- Cut a list into pieces of `k` (the last may be short); `fuel` bounds the number of pieces. -/
def chunksOf {α : Type} (k : Nat) : Nat → List α → List (List α)
  | 0, _ => []
  | _ + 1, [] => []
  | fuel + 1, x :: xs => (x :: xs).take k :: chunksOf k fuel ((x :: xs).drop k)

/-- The indices of the set bits of `n` below `k`. -/
def maskList (k n : Nat) : List Nat := (List.range k).filter (fun i => n.testBit i)

/-- The number of set bits of `n` below `k`. -/
def popcount (k n : Nat) : Nat := (maskList k n).length

end Sys2Proof
end

