-- ==== Sys2Proof/Syntax.lean ====
section
/-! DEFINITION. The commands of the block: one constructor of Instr for every row of spec/opcode_table.json, with its operands.
`c` is a core number (R5), `d` a compute die, `p` a link port, `x` a module context, `t` the wall furrow cycle of the die
concerned, `ns` the wall time in nanoseconds at the hub (R7). An `Ecc` operand is what the error code finds in the row that the
step reads (R116 to R119), a `ReadErr` what it finds in each of several rows. -/

namespace Sys2Proof

abbrev CoreId := Fin 128
abbrev DieId := Fin 8
abbrev PortId := Fin 28
abbrev CtxId := Fin 8
abbrev RingId := Fin 16
abbrev Reg := Fin 32

/-- The four instruction queues of a core (R23), in the order MQ, VQ, UQ, TQ. -/
inductive Queue where
  | mq | vq | uq | tq
  deriving DecidableEq, Repr

/-- What the row code or the Reed-Solomon code finds in a row that is read (R116 to R119): no error, an error corrected in codeword
`cw`, an uncorrectable codeword `cw`, or errors beyond the guarantees of the code, which deliver the row with the bits of `flip` wrong,
either as a corrected error of codeword `cw` or with no report. -/
inductive Ecc where
  | clean
  | corrected (cw : Nat)
  | bad (cw : Nat)
  | wrong (flip : Row) (cw : Option Nat)
  deriving DecidableEq, Repr

/-- What the reads of one step find: each row in error with its number among the rows the step reads; a row that is not listed reads
clean (R118, R119). -/
abbrev ReadErr := List (Nat × Ecc)

/-- An operand of a step together with what the rows that the step reads meet. -/
structure Reading (α : Type) where
  of  : α
  err : ReadErr
  deriving DecidableEq, Repr

/-- An operand of a step together with the wall furrow cycle in which the step comes to the core concerned. -/
structure Timed (α : Type) where
  of : α
  t  : Nat
  deriving DecidableEq, Repr

/-- Who sends a Headland command (R493): the host, the system manager, or a control core. -/
inductive Who where
  | host
  | manager
  | core (c : CoreId)
  deriving DecidableEq, Repr

/-- A Headland command's sender with the tag and reply ring that its answer carries (R494). -/
structure CmdSrc where
  who  : Who
  tag  : Nat
  ring : RingId
  ctx  : CtxId
  deriving DecidableEq, Repr

/-- Who writes a register (R9 to R12 and the writers each chapter names). -/
inductive Writer where
  | headland
  | host
  | manager
  | core (c : CoreId)
  deriving DecidableEq, Repr

/-- The bank that a scrub serves (R120). -/
inductive ScrubUnit where
  | plot (c : CoreId) (bank : Fin 16)
  | commons (d : DieId) (bank : Fin 256)
  | deep (d : DieId) (dev : Fin 3)
  deriving DecidableEq, Repr

/-- One link frame (R361, R362): the lead flit, 13 descriptors and 13 data flits. -/
structure Frame where
  lead  : BitVec 384          -- bytes 0x00..0x2F of the lead flit
  descs : List (BitVec 128)
  flits : List Flit
  deriving DecidableEq, Repr

/-- What FEC finds in a received frame (R367, R368). -/
inductive Fec where
  | good (corrected : Nat)
  | uncorrectable (codewords corrected : Nat)
  deriving DecidableEq, Repr

/-- A weight load's items (R413). -/
structure WgtCmd where
  slot      : Fin 2
  loadId    : Word
  manifest  : Nat
  chainIdx  : Nat
  pred      : Nat
  succ      : Nat
  keep      : BitVec 64
  forward   : BitVec 64
  relay     : Nat
  succRelay : Nat
  regions   : List (Nat × Nat)    -- die d and tier t at index 2d + t: base row, row count
  deriving DecidableEq, Repr

/-- A restore command's items (R450). -/
structure RestoreCmd where
  pos      : Nat
  sources  : List Nat
  jsources : List Nat
  keyRsa   : Nat
  keySlh   : Nat
  remap    : Nat
  deriving DecidableEq, Repr

/-- The commands, in the order of spec/opcode_table.json. -/
inductive Instr where
  -- strips, launch, credit, wake (02, 16)
  | ctlStage (c : CoreId) (t : Nat) (rd rs1 : Reg)
  | stagingRowRead (c : CoreId) (t : Nat) (ecc : Ecc)
  | stagingComplete (c : CoreId) (t : Nat)
  | ctlLaunch (c : CoreId) (t : Nat) (rd : Reg)
  | ctlUnstage (c : CoreId) (t : Nat) (rd : Reg)
  | pageInComplete (c : CoreId) (t : Nat) (h : Reading (Fin 64))
  | creditGrant (d : DieId) (t : Nat)
  | wakeBegin (c : CoreId) (t : Nat)
  | wakeComplete (c : CoreId) (t : Nat) (drillOk : Bool)
  | launchReady (c : CoreId) (t : Nat)
  | stripStart (c : CoreId) (t : Nat)
  | stripEnd (c : CoreId) (t : Nat)
  | wait (c : CoreId) (q : Queue) (t : Nat)
  | stkSet (c : CoreId) (q : Queue) (t : Nat)
  | stkWait (c : CoreId) (q : Queue) (t : Nat)
  | hqPush (c : CoreId) (q : Queue) (t : Nat)
  | hqPop (c : CoreId) (q : Queue) (t : Nat)
  | stallResume (c : CoreId) (t : Nat)
  | creditLend (c : CoreId) (t : Nat)
  | reclaimGrant (c : CoreId) (t : Nat)
  | reclaimComplete (c : CoreId) (t : Nat)
  | creditIdleReturn (c : CoreId) (t : Nat)
  | powerGateTimeout (c : CoreId) (t : Nat)
  | watchdogFault (c : CoreId) (t : Nat)
  | deadlineMiss (c : CoreId) (t : Nat)
  | instructionComplete (c : CoreId) (q : Queue) (t : Nat)
  -- late items, landing, Commons (02, 03)
  | lateArrival (c : CoreId) (t : Nat) (i : Nat)
  | heldArrivalRetry (c : CoreId) (t : Nat) (q : Fin 8)
  | inboundRowArrival (c : CoreId) (t : Nat) (i : Nat) (ecc : Ecc)
  | plotRowLanding (c : CoreId) (t : Nat)
  | hopperRowLanding (c : CoreId) (t : Nat) (portB : Bool)
  | commonsBankAccess (c : CoreId) (t : Nat) (i : Nat) (waited : Nat) (ecc : Ecc)
  | commonsRowLands (c : CoreId) (t : Nat) (i : Nat)
  | commonsInboundRowPerform (c : CoreId) (t : Nat)
  | scrubRead (u : ScrubUnit) (t : Nat) (ecc : Ecc)
  | scrubWriteBack (u : ScrubUnit) (t : Nat)
  | pageOutComplete (d : DieId) (t : Nat) (i : Reading Nat)
  | gateArrival (d : DieId) (t : Nat) (g : Fin 16)
  | ungateArrival (d : DieId) (t : Nat) (g : Fin 16)
  -- Plough (06)
  | plgMm (c : CoreId) (t : Nat)
  | plgSqd (c : CoreId) (t : Nat)
  | plgAbd (c : CoreId) (t : Nat)
  | plgMinplus (c : CoreId) (t : Nat)
  | plgMaxplus (c : CoreId) (t : Nat)
  | plgXorpop (c : CoreId) (t : Nat)
  | plgCmpcnt (c : CoreId) (t : Nat)
  | plgExecutionStart (c : CoreId) (t : Nat) (err : ReadErr)
  | plgFeedRelease (c : CoreId) (t : Nat)
  | plgDrainRow (c : CoreId) (t : Nat)
  | plgCounterClear (c : CoreId)
  -- Harrow (07)
  | hrwChain (c : CoreId) (t : Nat) (err : ReadErr)
  | hrwBload (c : CoreId) (t : Nat) (err : ReadErr)
  | hrwWriteRow (c : CoreId) (t : Nat)
  | hrwCounterClear (c : CoreId)
  | hrwSumClear (c : CoreId)
  -- Tiller and schedule engine (08)
  | tlrUpd (c : CoreId) (t : Nat) (err : ReadErr)
  | tlrRecordWrite (c : CoreId) (t : Nat)
  | tlrRootfin (c : CoreId) (t : Reading Nat)
  | tlrCounterClear (c : CoreId)
  | stepAdvance (src : CmdSrc) (x : CtxId) (target : Nat)
  | stepAdvanceEvaluate (x : CtxId)
  | stepAdvanceCommit (x : CtxId)
  | privStepArm (w : Writer) (x : CtxId) (k : Fin 8) (par : Fin 2) (hi : Word)
  -- transfers and trace (09)
  | xfFill (c : CoreId) (t : Nat) (err : ReadErr)
  | xfMove (c : CoreId) (t : Nat) (err : ReadErr)
  | xfGate (c : CoreId) (t : Nat)
  | xfUngate (c : CoreId) (t : Nat)
  | traceRowWrite (c : CoreId) (t : Nat)
  | traceEnable (c : CoreId) (v : Word)
  | traceDropClear (c : CoreId)
  | loadImage (src : CmdSrc) (x : CtxId) (addr : Nat)
  | loadCheckComplete (x : CtxId)
  -- control core and handlers (10)
  | ccInstruction (c : CoreId) (t : Nat) (fetch data : Ecc)
  | ccStart (c : CoreId) (pc : BitVec 16)
  | ccHalt (c : CoreId)
  | ctlWfe (c : CoreId) (t : Nat) (rd rs1 : Reg)
  | ctlHret (c : CoreId) (t : Nat)
  | ctlFclr (c : CoreId) (t : Nat)
  | ctlSum (c : CoreId) (t : Nat) (rd rs1 : Reg)
  | ctlStkrd (c : CoreId) (t : Nat) (rd rs1 : Reg)
  | ctlStkadd (c : CoreId) (t : Nat) (rs1 rs2 : Reg)
  | ctlStkclr (c : CoreId) (t : Nat) (rd rs1 : Reg)
  | ctlHset (c : CoreId) (t : Nat) (rd rs1 : Reg) (rs2 : Reading Reg)
  | ctlHrel (c : CoreId) (t : Nat) (rs1 : Reg)
  | ctlHalloc (c : CoreId) (t : Nat) (rd rs1 rs2 : Reg)
  | allocatorAnswer (d : DieId) (t : Nat)
  | ctlSend (c : CoreId) (t : Nat) (rd rs1 : Reg)
  | ringSetRptr (c : CoreId) (t : Nat) (rd rs1 rs2 : Reg)
  | ringOpen (c : CoreId) (t : Nat) (rd rs1 rs2 : Reg)
  | ringClose (c : CoreId) (t : Nat) (rd rs1 rs2 : Reg)
  | ctlWrd (c : CoreId) (t : Nat) (rd rs1 : Reg)
  | ctlWwr (c : CoreId) (t : Nat) (rs1 : Reg)
  | rowWindowAccess (c : CoreId) (t : Nat) (ecc : Ecc)
  | ctlFpop (c : CoreId) (t : Nat) (rd rs1 : Reg)
  | handlerDispatch (c : CoreId) (t : Nat)
  | faultLostClear (c : CoreId)
  | coreProgram (src : CmdSrc) (mask : BitVec 128) (plotRow dataRows : Nat) (digest : BitVec 256)
  | coreProgramCopyDone (c : Reading (Timed CoreId))
  -- messages (11)
  | sendRowRead (c : CoreId) (t : Nat) (ecc : Ecc)
  | orderedRelease (c : CoreId) (t : Nat) (i : Nat)
  | messageHeaderArrival (c : CoreId) (t : Nat) (i : Nat)
  | messageRowArrival (c : CoreId) (t : Nat) (i : Nat)
  | messageLanded (c : CoreId) (t : Nat) (r : RingId)
  | spillWriteComplete (c : CoreId) (t : Nat) (r : RingId)
  | spillDrain (c : CoreId) (t : Nat) (r : RingId) (err : ReadErr)
  | holdGrant (c : CoreId) (t : Nat) (r : RingId)
  | holdGrantArrival (i : Nat)
  | landingAckArrival (t : Nat) (i : Nat)
  | bounceArrival (i : Nat)
  | lossNoticeArrival (i : Nat)
  | msgCounterClear (c : CoreId)
  -- links, routes, time base (12)
  | frameTransmit (p : PortId) (ns : Nat)
  | frameReceive (p : PortId) (ns : Nat) (f : Frame) (fec : Fec)
  | leadFlitTimeout (p : PortId) (ns : Nat)
  | portTrainingComplete (p : PortId) (ns : Nat) (peerPos : BitVec 16) (peerPort : PortId) (flight : Nat)
  | portTrain (p : PortId)
  | portDisable (p : PortId)
  | lnkCounterClear (p : PortId)
  | routeEntryWrite (pos : BitVec 16) (v : BitVec 8)
  | lnkTorusWrite (v : Word)
  | remoteReadRequest (i : Nat) (err : ReadErr)
  | remoteWriteArrival (i : Nat)
  | tbSetWrite (v : BitVec 64)
  | extRefLock (ns : Nat)
  | extRefLockTimeout (ns : Nat)
  | upstreamTimeout (ns : Nat)
  | referenceInputLoss (ns : Nat)
  | heartbeatSend (ns : Nat)
  | heartbeatTimeout (p : PortId) (ns : Nat)
  | identFlit (p : PortId) (pos : BitVec 16) (identity : Nat) (f : Flit)
  | surveyFlit (p : PortId) (ns : Nat) (f : Flit)
  | reportFlit (p : PortId) (f : Flit)
  | powerFailFlit (p : PortId) (ns : Nat)
  | partnerFlit (p : PortId) (f : Flit)
  | adoptFlit (p : PortId) (f : Flit)
  -- lock-step (13)
  | lsEnable (v : Word)
  | foldMessageSend (ns : Nat)
  | foldMessageArrival (hdr : Row) (payload : List Row)
  -- weights (14)
  | weightLoad (src : CmdSrc) (x : CtxId) (w : WgtCmd)
  | weightKeys (src : CmdSrc) (x : CtxId) (rsa slh : BitVec 384)
  | weightVerify (src : CmdSrc) (x : CtxId) (w : WgtCmd)
  | chunkNotice (ns : Nat) (hdr : Row)
  | chunkReleaseSend (x : CtxId) (chunk : Nat)
  | releaseNotice (hdr : Row)
  | reRequestNotice (hdr : Row)
  | waitNotice (ns : Nat) (hdr : Row)
  | unavailableNotice (hdr : Row)
  | shardDigestStart (d : DieId)
  | shardDigestComplete (d : DieId) (ns : Nat) (e : Fin 4)
  | weightWindowExpiry (x : CtxId) (ns : Nat) (shard : Nat)
  | turn (src : CmdSrc) (x : CtxId)
  | reqBegin (c : CoreId)
  | reqJoin (c : CoreId)
  | reqEnd (c : CoreId)
  | recheckDue (x : CtxId) (slot : Fin 2) (ns : Nat) (shard : Nat)
  -- journal, snapshots, restore (15)
  | journalCommand (src : CmdSrc) (x : CtxId) (step rows : Nat)
  | mirrorHeaderLand (fromPos : BitVec 16) (addr : Nat)
  | mirrorAnswer (x : CtxId) (ok : Bool)
  | updEnd (w : Writer) (x : CtxId)
  | snapshotNow (w : Writer) (x : CtxId) (ns : Nat)
  | snapshotStart (x : CtxId) (ns : Nat)
  | snapshotChunkCopied (x : CtxId) (chunk : Reading Nat)
  | partnerChunkNotice (fromPos : BitVec 16) (ctx : CtxId) (slotAddr : Nat) (entry : BitVec 512)
  | partnerNoticeTimeout (x : CtxId) (ns : Nat)
  | snapshotSigned (x : CtxId)
  | commitPageWritten (x : CtxId) (copy : Fin 3) (ok : Bool)
  | partnerCheck (x : CtxId) (second : Bool) (v : Word)
  | riskEvaluation (ns : Nat)
  | restore (src : CmdSrc) (x : CtxId) (r : RestoreCmd)
  | restoreFetchComplete (x : CtxId) (isJournal : Bool) (idx : Nat) (source : Nat) (rows : List Row)
  | replayStep (x : CtxId)
  -- clocks, power, supplies (16)
  | stepChangeRequest (d : DieId) (target : Fin 8)
  | clockStop (d : DieId) (refEdge : Nat)
  | clockRestart (d : DieId) (refEdge : Nat)
  | diePoolWrite (w : Writer) (d : DieId) (v : Word)
  | pwrBudgetWrite (w : Writer) (v : Word)
  | expPoolWrite (w : Writer) (d : DieId) (v : Word)
  | overheadUpdate (watts : Nat)
  | inputPowerCheck (ns : Nat) (watts : Nat)
  | sensorSample (readings : List Int)
  | thermalCheck (ns : Nat)
  | pwrTjClear (d : DieId)
  | supplyOutOfRange (backup : Bool) (ns : Nat)
  | supplyReturn (ns : Nat)
  | droopEvent (ns : Nat)
  | mateSenseChange (isOpen : Bool) (ns : Nat)
  | coldStart (ns : Nat)
  | powerFail (ns : Nat)
  | shutdownRailsOff (ns : Nat)
  | powerFailRestart (ns : Nat)
  | boot (ns : Nat)
  | strapSample (pos : BitVec 16) (main bkp : BitVec 8) (master : Bool)
  -- host link, commands, resets, trust (17)
  | hostRowWrite (addr : Nat) (row : Row)
  | hostRowRead (addr count tag : Nat) (err : ReadErr)
  | hostMessage (hdr : Row) (payload : List Row)
  | hostRegisterOp (op : Timed (BitVec 128))
  | hostInboxPlace
  | hostInboxRptrWrite (v : Word)
  | hostFaultRptrWrite (v : Word)
  | resetNEdge (lowNs : Nat) (ns : Nat)
  | smbSegmentWrite (i : Fin 16) (data : BitVec 256)
  | smbSubmit
  | smbReplyRead
  | contextCfg (src : CmdSrc) (x : CtxId) (mask : BitVec 128) (slot : Fin 4) (shared rt : Bool) (seed : BitVec 64) (map : List (BitVec 8))
  | ctxCfgCommit (c : CoreId) (v : Word)
  | contextReset (src : CmdSrc) (x : CtxId)
  | coreReset (src : CmdSrc) (mask : BitVec 128)
  | moduleReset (src : CmdSrc)
  | resetComplete
  | attest (src : CmdSrc) (nonce : BitVec 256) (addr : Nat)
  | calExport (src : CmdSrc) (addr : Nat)
  | calImport (src : CmdSrc) (addr rows : Nat)
  | calSelf (src : CmdSrc) (mask : BitVec 6)
  | fwUpdate (src : CmdSrc) (addr rows : Nat)
  | rollbackCommit (src : CmdSrc)
  | survey (src : CmdSrc) (ns : Nat)
  | censusClose (ns : Nat)
  -- Drill test, counters, registers, ticks
  | drlTestGo (c : CoreId) (ccCycle : Nat)
  | drlTestDone (c : CoreId) (ccCycle : Nat)
  | errCounterClear (u : ScrubUnit)
  | cmnFixedWrite (w : Writer) (d : DieId) (v : Word)
  | registerWrite (w : Writer) (addr : Timed Nat) (v : Word)
  | timeBaseTick
  | supplyInRange (backup : Bool) (ns : Nat)
  | powerGateCommand (c : CoreId) (t : Nat)
  deriving DecidableEq, Repr

end Sys2Proof
end

