-- ==== Sys2Proof/Config.lean ====
section
/-! DEFINITION. What the manual leaves open: the free values (opaque constants, with no body) and the functions that published
standards or the module's own secrets fix. Nothing in Lean can evaluate them, so every statement holds whatever they are. -/

namespace Sys2Proof.Config

/-- The frequency estimate that successive offsets give (R382 states no rule for it), in units of 2^-32; indexed by the
free-value counter. Free value. -/
opaque freeRho : Nat → Int
/-- The slewing term that R382 leaves open, in units of 2^-32. Free value. -/
opaque freeSigma : Nat → Int
/-- The rate adjustment of a master locked to its external reference (R381 gives no number), in units of 2^-32. Free value. -/
opaque freeExtRate : Nat → Int
/-- Does the SLH-DSA-SHA2-192s signature (R412) verify: public key, message, signature. The standard is published, the manual
does not restate it. -/
opaque slhVerify : List Byte → List Byte → List Byte → Bool
/-- The module's SLH-DSA identity signature over a message (R500: its private half never leaves the module). -/
opaque slhSign : List Byte → List Byte
/-- The module's RSA-3072 PSS identity signature over a 48-byte digest (R442, R501), 384 bytes as a number. -/
opaque rsaSign : List Byte → Nat
/-- SHA-384 of the module's RSA identity public key (R442 KEY_RSA), as a number of 384 bits. -/
opaque keyRsaHash : Nat
/-- SHA-384 of the module's SLH-DSA identity public key (R442 KEY_SLH). -/
opaque keySlhHash : Nat
/-- The identity certificate that ATTEST writes after the report (R500), as rows. -/
opaque certificate : List Row
/-- The translator versions that the firmware accepts (R304 check 3 leaves the list to the firmware). -/
opaque toolAccepted : Nat → Bool
/-- Do the chain ranges of a canonical strip match R162 (R163 refuses one that does not and R304 gives the check no form): header and
descriptor area, and the four instruction lists. -/
opaque chainRangesMatch : List Row → List (List IWord) → Bool
/-- The format check of a calibration set (R503; R502 gives no layout). -/
opaque calWellFormed : List Row → Bool
/-- The calibration set's credit power, in mW, of each die and step (R502 gives no layout). -/
opaque calCreditMw : List Row → Nat → Nat → Nat
/-- The calibration set's asymmetry of a port, in 2^-4 ns (R382, R502). -/
opaque calAsymmetry : List Row → Nat → Int
/-- The set that CAL_SELF's measurement gives (R504: a measurement): free-value index, mask of the parts rebuilt, old set. Free value. -/
opaque freeCalibration : Nat → Nat → List Row → List Row
/-- A row whose contents no rule states, by the free-value counter: what a converting fill stores where R147 and R295 state no result, and
what a hardware copy takes from an uncorrectable row. Free value. -/
opaque freeRow : Nat → Row
/-- SOURCE of a watchdog or deadline record that no blocked instruction causes (R325 and R326 name none): by class. Free value. -/
opaque idleSource : Nat → Nat
/-- SEQ of a record that the Headland itself makes (R325 numbers the records of each core only): by its index in the Headland's log.
Free value. -/
opaque headlandSeq : Nat → Nat

/-- Bytes 1 to 255 of a management flit of a kind with the listed contents (R505 names the contents and gives no offsets), as a
number. Free value. -/
opaque mgmtBody : Nat → List Nat → Nat
/-- Content number `i` of a received management flit (R505 gives no offsets): flit, content. Free value. -/
opaque mgmtField : Flit → Nat → Nat
/-- The positions that a REPORT flit names (R505 gives no offsets). Free value. -/
opaque mgmtPositions : Flit → List Nat

/-- Command-specific codes that R494 leaves without a number: of a failed core program (R316), a failed weight load (R420), a refused
turn (R424), a failed restore (R450). Free values. -/
opaque progFailCode : Nat
opaque loadFailCode : Nat
opaque turnCode : Nat
opaque restoreCode : Nat

/-- The snapshot relay area of a partner for a context (R445 names it and gives no address): partner position, context; the module
address of its first row. Free value. -/
opaque partnerRelay : Nat → Nat → Nat
/-- The Headland ring of a partner that takes chunk notices (R445 and R492 name none). Free value. -/
opaque partnerRing : Nat
/-- First store page of a hosted chunk, and store byte address of its chunk-table entry: the partner's Headland assigns the area (R440,
R445). Position, context, entry. Free values. -/
opaque hostedPage : Nat → Nat → BitVec 512 → Nat
opaque hostedEntry : Nat → Nat → BitVec 512 → Nat
/-- The commit page of the slot of a hosted copy that an entry belongs to (R440, R443, R445). Position, context, entry. Free value. -/
opaque hostedCommit : Nat → Nat → BitVec 512 → Nat
/-- Do the signatures of a commit record verify under the identity keys with these SHA-384 hashes (R442; no structure of the manual
carries another module's public keys): key hash, digest, signature. -/
opaque identRsaOk : Nat → List Byte → List Byte → Bool
opaque identSlhOk : Nat → List Byte → List Byte → Bool
/-- The new module address of a source row under a remap table (R454 gives no format): address of the table, its first row, source
address. Free value. -/
opaque remapAddr : Nat → Row → Nat → Nat

/-- The pool of a die whose PWR_CREDIT_MW at its step is 0 (R473 divides by it). Free value, by die. -/
opaque poolOfNone : Nat → Nat

/-- mtval of an exception (R311 states none; the published specification allows 0 or the address or instruction concerned): cause, and
the address or instruction. Free value. -/
opaque trapVal : Nat → Word → Word

/-- A row that the Malob host adapter returns for a transfer whose source lies in the host window: host memory lies outside the device (R488).
Indexed by the free-value counter. Free value. -/
opaque hostRow : Nat → Row
/-- Is a send to another module, its header given, held there in this wall cycle (R345)? The hold queue is the other module's, and no item
tells the sender. Free value. -/
opaque heldThere : Row → Nat → Bool

/-- The voltage that the module measures at the input in use, in 0.1 V (R484 gives VIN and no source of its value). Free value. -/
opaque inputVolts : Nat → Nat
/-- The devices of a die that fail GDDR7 training, by bit (R129 says that a device may and not when). Free counter, die. Free value. -/
opaque dmFailed : Nat → Nat → BitVec 3

end Sys2Proof.Config
end

