-- ==== Sys2Proof/Machine/State.lean ====
section
/-! DEFINITION. The state of one TQ8 module as plain data: 128 core positions, 8 compute dies, 28 link ports, the hub with the
Headland, the memories, the items under way, and the queue of waiting commands. Docstrings of fields read
name's meaning | width | file and rule of spec/ | value after reset. -/

namespace Sys2Proof.Machine

open Sys2Proof

/-- Why a step could stop with a fault. The manual gives every command of the table an effect on the block, so no meaning
raises one: the type has the one constructor below and nothing answers it. -/
inductive Fault where
  /-- Reserved for a repair: raised by no meaning (safe: a stop proves nothing false). -/
  | unreachable
  deriving DecidableEq, Repr

/-- Why a step could be refused. -/
inductive Refusal where
  /-- The command has no meaning yet; raised by Machine/Dispatch.lean alone (safe). -/
  | notModelled (mnemonic : String)
  deriving DecidableEq, Repr

/-! ### Parts of a core: strips and the schedule (02) -/

/-- CORE_STATUS.STATE (R80). -/
inductive CoreRun where
  | idle | running | stalled | faulted
  deriving DecidableEq, Repr

/-- CORE_STATUS.CAUSE (R80). -/
inductive Cause where
  | none | stake | hqPop | hqPush | staging | pageIn | credit | wake | reclaim
  deriving DecidableEq, Repr

/-- The staged copy of a strip (R30, R31): what the queue stores and the loop store hold. -/
structure Strip where
  row   : Nat              -- Plot row of its header
  slot  : Fin 4            -- context slot whose directory lists it (R305)
  hdr   : Row
  mq    : List IWord
  vq    : List IWord
  uq    : List IWord
  tq    : List IWord
  area  : List Row         -- the descriptor area (R283)
  deriving DecidableEq, Repr

/-- A staging in progress (R30). -/
structure Staging where
  row      : Nat
  slot     : Fin 4
  start    : Nat           -- wall cycle s of R30
  got      : List Row      -- rows copied so far, in order
  lastRead : Nat           -- wall cycle of the last read
  deriving DecidableEq, Repr

/-- A pending launch (R32, R33). -/
structure Launch where
  point    : Option Nat    -- launch point: issue, or end of the previous strip; none while that strip runs
  credited : Bool          -- the credit step of R68 has been taken
  granted  : Option Nat    -- wall cycle of the grant
  wakeReq  : Option Nat    -- wall cycle in which the wake is requested (R469)
  ready    : Option Nat    -- r of R33
  lent     : Bool          -- lent in this launch wait (R71)
  since    : Option Nat    -- wall cycle in which the last condition of R32 came to hold
  deriving DecidableEq, Repr

/-- What a queue waits for in a stall (R50). -/
inductive Want where
  | stake (k n : Nat)
  | pop (q : Nat)
  | push (q h : Nat)
  deriving DecidableEq, Repr

/-- One queue's blocked wait. `feed` marks the implicit feed-stake wait of R195. -/
structure Blocked where
  q    : Queue
  want : Want
  tag  : Nat
  feed : Bool
  deriving DecidableEq, Repr

/-- A stall at a stake or handle queue (R50 to R54, R71, R72). -/
structure Stall where
  start    : Nat           -- wall cycle of its first stall cycle
  blocked  : List Blocked
  released : Option Nat    -- wall cycle a of its last releasing event
  lent     : Nat           -- credit lent
  granted  : Option Nat    -- wall cycle g of the reclaim grant
  level    : Nat           -- the Plough's activity per array when the stall began (R73)
  deriving DecidableEq, Repr

/-- A queue's place in its list (R37, R38, R41). -/
structure QPos where
  idx  : Nat               -- next instruction word
  base : Nat               -- schedule cycle from which its DELAY counts
  busy : Nat               -- first cycle free of the last occupancy
  deriving DecidableEq, Repr

/-- An issued instruction not yet complete (R39). -/
structure Flight where
  q     : Queue
  tag   : Nat
  comp  : Nat              -- completion cycle
  cstk  : Nat              -- physical stake, 63 for none
  cstkN : Nat
  own   : Bool             -- an instruction of the queue's own unit (not queue-neutral)
  sum   : Bool             -- posts a summary
  deriving DecidableEq, Repr

/-- A handle-queue entry (R57). -/
structure HqEntry where
  h   : Nat
  gen : Nat
  deriving DecidableEq, Repr

/-- An arrival held at the Square (R60). -/
structure Held where
  q    : Nat
  h    : Nat
  stk  : Nat
  n    : Nat
  tag  : Nat
  deriving DecidableEq, Repr

/-! ### Engines in flight (06, 07, 08, 09) -/

/-- A Plough instruction in progress (R188, R197). -/
structure PlgRun where
  word   : IWord
  block  : BitVec 512      -- its Plough block (R286)
  loop   : BitVec 512      -- its loop descriptor, 0 without one
  drill  : BitVec 512      -- its Drill descriptor
  slot   : Fin 4
  shared : Bool
  seed   : BitVec 64
  draw   : BitVec 64       -- latched global step (R172)
  op     : Nat
  tag    : Nat
  t0     : Nat
  rho    : Nat
  set0   : Bool            -- accumulator set of pass 0
  execs  : Nat             -- feed windows begun
  rels   : Nat             -- feed windows released
  drained : Nat            -- drain rows produced, over all passes
  passes : List (Nat × List (BitVec 48)) -- accumulated passes not yet drained: pass, its 4,096 cells
  scales : Row             -- the scale staging row (R208)
  rows   : List (Nat × Nat × Row) -- hopper rows read in the present feed window (R194): hopper, row of the half, data
  err    : ReadErr         -- what the present feed window's reads meet, numbered in the order of their cycles
  deriving DecidableEq, Repr

/-- A Harrow chain in progress (R219, R223). -/
structure HrwRun where
  word   : IWord
  block  : BitVec 512
  loop   : BitVec 512
  chain  : BitVec 2048     -- the chain descriptor (R220)
  area   : List Row        -- Drill descriptors are read from here
  slot   : Fin 4
  shared : Bool
  seed   : BitVec 64
  draw   : BitVec 64
  tag    : Nat
  t0     : Nat
  acc0   : Option (BitVec 64)  -- summary start value taken from the slot (R240)
  mism   : Bool
  xs     : List (Nat × Row)    -- X rows read: global row index
  ys     : List (Nat × Row)    -- Y rows read
  xn     : Nat                 -- X rows read so far
  yn     : Nat
  wrote  : Nat                 -- output rows written
  err    : ReadErr         -- a read that meets an error
  deriving DecidableEq, Repr

/-- A hrw.bload in progress (R226). -/
structure BloadRun where
  tag : Nat
  h   : Nat                -- physical handle
  row : Nat
  q   : Nat
  t0  : Nat
  n   : Nat                -- rows read so far
  err    : ReadErr         -- a read that meets an error
  deriving DecidableEq, Repr

/-- A Tiller instruction in progress (R250, R251). -/
structure TlrRun where
  word   : IWord
  block  : BitVec 512
  loop   : BitVec 512
  drill  : BitVec 512
  slot   : Fin 4
  shared : Bool
  ctx    : Nat
  seed   : BitVec 64
  draw   : BitVec 64
  entry  : BitVec 256      -- step-table entry (R253, R276)
  desc   : BitVec 512      -- group descriptor (R264)
  good   : Bool            -- STATUS 0 and the strip's context (R253)
  tag    : Nat
  t0     : Nat
  feeds  : Nat             -- feed windows begun (hopper rows captured)
  rels   : Nat
  trs    : List (Nat × Row)    -- record rows read: execution * 128 + row
  tgs    : List (Nat × Row)    -- gradient rows
  tts    : List (Nat × Row)    -- touch rows: execution * 2 + row
  ths    : List (Nat × Row)    -- header row of each execution
  wrote  : Nat                 -- rows written (records, then the two touch rows, per execution)
  err    : ReadErr         -- a read that meets an error
  deriving DecidableEq, Repr

/-- A tlr.rootfin between its read and its write (R262). -/
structure RootRun where
  hdr  : Row
  h    : Nat               -- physical handle of the header row
  row  : Nat
  ok   : Bool
  tag  : Nat
  t0   : Nat
  half : Nat               -- half of TH that it reads
  deriving DecidableEq, Repr

/-- The kind of a transfer by its ends (R293). -/
inductive XKind where
  | plotFill | cmnFill | plotPlot | cmnPlot | plotCmn | outPlot | outCmn | inLate | reorder | gate | ungate | none
  deriving DecidableEq, Repr

/-- A transfer of TQ (R290, R292, R293). -/
structure Xfer where
  id     : Nat
  tag    : Nat
  slot   : Fin 4
  kind   : XKind
  t0     : Nat             -- issue cycle
  s      : Nat             -- start cycle
  srcH   : Nat             -- physical handles
  dstH   : Nat
  block  : BitVec 512      -- the transfer block (R290)
  drill  : BitVec 512
  seed   : BitVec 64
  draw   : BitVec 64
  offs   : List (Int × Int)    -- source and destination row offsets of each execution (R298)
  hop    : Nat             -- hopper of a fill (R289), 8 for a move
  half   : Nat
  astk   : Nat
  astkN  : Nat
  ahq    : Option Nat
  comp   : Nat
  other  : Option Nat      -- ring distance when the Commons end is another die's
  rd     : Nat             -- rows read
  wr     : Nat             -- rows written or handed over
  buf    : List (Nat × Row)
  err    : ReadErr         -- a read that meets an error
  deriving DecidableEq, Repr

/-- A Commons request under way (R95, R101). -/
structure CmnReq where
  xfer    : Nat            -- transfer id
  k       : Nat            -- row of the transfer
  addr    : Nat            -- module row address as formed
  ok      : Bool           -- the row is populated (R107)
  h       : Nat            -- physical handle, for an address record
  logical : Int            -- logical row
  isWrite : Bool
  req     : Nat            -- request cycle
  made    : Nat            -- wall cycle of the request
  land    : Nat            -- cycle in which it lands or is performed
  data    : Row
  done    : Bool           -- the bank access has been made
  tag     : Nat
  deriving DecidableEq, Repr

/-- A late item (R49, R293): an inbound or outbound transfer whose arrival is outstanding. -/
structure LateItem where
  x       : Xfer
  inbound : Bool
  total   : Nat
  arrived : Nat            -- rows that reached the Square (inbound) or were acknowledged (outbound)
  placed  : Nat            -- inbound rows written to their place
  runs    : List (Nat × Nat × Nat) -- read requests not yet sent (R375): first row of the transfer, rows, module address
  out     : List (Nat × Nat × Nat) -- read requests outstanding: REQ, first row of the transfer, rows
  cut     : Bool           -- an uncorrectable or lost row has ended it: the rows before it are still written, no arrival is made (R119)
  deriving DecidableEq, Repr

/-- Where a row of the landing buffer goes (R88). -/
inductive LandDst where
  | plot (row : Nat)
  | hopper (portB : Bool) (row : Nat)
  | source (portB : Bool) (k : Nat)   -- source row of a converting fill: its conversions are written through the port
  deriving DecidableEq, Repr

/-- Whose row it is: a late item, a message of a ring, or a write from elsewhere that is acknowledged. -/
inductive LandOwner where
  | late (id : Nat)
  | msg (r : RingId) (seq sendCore sendPos : Nat)
  | write (srcPos srcCore tag plane : Nat)
  deriving DecidableEq, Repr

/-- A row waiting in the landing buffer (R88). -/
structure LandRow where
  dst     : LandDst
  data    : Row
  arrived : Nat
  owner   : LandOwner
  deriving DecidableEq, Repr

/-- An inbound row bound for the Commons (R293). -/
structure CmnIn where
  addr  : Nat
  data  : Row
  owner : LandOwner
  at_   : Nat              -- wall cycle in which it reached the stop Square of its die
  deriving DecidableEq, Repr

/-! ### Control core, messages (10, 11) -/

/-- CORE_CC_STATUS.RUN (R331). -/
inductive CcRun where
  | halted | running | wfe | handler
  deriving DecidableEq, Repr

/-- A window access waiting for its slot-7 opportunity (R314). -/
structure WinOp where
  write : Bool
  row   : Nat
  rd    : Nat
  issued : Nat
  deriving DecidableEq, Repr

/-- A core program's copy in progress (R316). -/
structure ProgCopy where
  row      : Nat           -- first Plot row
  dataRows : Nat
  digest   : BitVec 256    -- the command's digest
  start    : Nat           -- wall cycle in which the copy starts
  got      : List Row      -- rows copied, in order
  lastRead : Nat           -- wall cycle of the last read
  deriving DecidableEq, Repr

/-- A message placed in a ring or its spill area (R339, R341). -/
structure RMsg where
  at_    : Nat             -- first row, relative to the area
  len    : Nat             -- rows reserved
  got    : Nat             -- rows landed or written
  hdr    : Row
  filler : Bool
  void   : Bool
  rows   : List Row        -- rows of a spilled message not yet written to its area
  done   : Bool            -- the spilled message is written whole (R342)
  wait   : Bool            -- a granted message whose retransmission has not arrived (R345)
  cyc    : Nat             -- wall cycle in which its last row landed (R321)
  time   : Nat             -- time base in that cycle (R333)
  deriving DecidableEq, Repr

/-- A landed message not yet dispatched (R320, R321). -/
structure Landed where
  at_   : Nat
  hdr   : Row
  cyc   : Nat              -- landing cycle
  deriving DecidableEq, Repr

/-- MSG_RING_STATE.STATE (R356). -/
inductive RingState where
  | closed | opened | resetting
  deriving DecidableEq, Repr

/-- One inbox ring (R336 to R345, R356). -/
structure Ring where
  /-- first Plot row | 14 | 11 R356 | 0 -/
  base : Nat
  /-- rows | 11 | 11 R356 | 0 -/
  size : Nat
  /-- SIZE and SPILL_SIZE as last written | 11 + 21 | 11 R356 | 0 -/
  raw : Nat × Nat
  /-- owning context slot | 2 | 11 R356 | 0 -/
  slot : Fin 4
  /-- first Commons row of the spill area | 22 | 11 R356 | 0 -/
  spillBase : Nat
  /-- spill rows | 21 | 11 R356 | 0 -/
  spillSize : Nat
  /-- bound stake | 6 | 11 R356 | 0 -/
  stk : Nat
  /-- binding enabled | 1 | 11 R356 | 0 -/
  stkEn : Bool
  /-- ring state | 2 | 11 R356 | closed -/
  state : RingState
  /-- epoch | 8 | 11 R337, R356 | 0 -/
  epoch : Nat
  /-- write pointer | 10 | 11 R356 | 0 -/
  wptr : Nat
  /-- reservation pointer | 10 | 11 R339 | 0 -/
  resv : Nat
  /-- read pointer | 10 | 11 R356 | 0 -/
  rptr : Nat
  /-- messages reserved and not yet passed by WPTR, in order | list | 11 R339, R340 | empty -/
  msgs : List RMsg
  /-- spilled messages, in order | list | 11 R342 | empty -/
  spill : List RMsg
  /-- reservation pointer of the spill area | 20 | 11 R339 | 0 -/
  spillResv : Nat
  /-- read pointer of the spill area | 20 | 11 R339 | 0 -/
  spillRptr : Nat
  /-- headers of held messages, in arrival order | 16 entries | 11 R345 | empty -/
  hold : List Row
  /-- landed messages at or after the dispatch pointer | list | 11 R320 | empty -/
  landed : List Landed
  /-- wall cycle of the last RPTR change, and RPTR before it | - | 11 R355 (the model's own) | none -/
  rptr0 : Option (Nat × Nat)
  /-- wall cycle of the last opening | - | 11 R337 (the model's own) | none -/
  openAt : Option Nat
  /-- wall cycle of the last grant from the hold queue | - | 11 R345, R355 (the model's own) | none -/
  grantAt : Option Nat
  /-- wall cycle in which WPTR last passed a message | - | 11 R340 (the model's own) | none -/
  passAt : Option Nat
  /-- wall cycle of the last header taken, and the rank of the input it came by | - | 11 R347 (the model's own) | 0 -/
  headAt : Nat × Nat
  deriving DecidableEq, Repr

/-- The state of an outstanding send (R334, R345, R349). -/
inductive SendState where
  | queued        -- waiting for the send engine
  | reading
  | sent          -- every row handed over
  deriving DecidableEq, Repr

/-- An outstanding send (R334). -/
structure Send where
  row     : Nat            -- Plot row of the header
  hdr     : Row            -- the outgoing header, stamped
  k       : Nat            -- rows read
  state   : SendState
  ordered : List (Nat × Nat × Nat) -- earlier writes it still waits for (R349): id, destination position, row address
  rows    : List Row       -- rows read that wait at the Square (R349)
  due     : Nat            -- wall cycle in which its departure or retransmission became due
  retx    : Bool           -- a retransmission (R345)
  again   : Option Nat     -- a grant that arrived while its rows were being read
  freeAt  : Nat            -- wall cycle in which the last write it waited for was performed or acknowledged (R349)
  deriving DecidableEq, Repr

/-- The kind of an item under way between Squares, hub and links (R363, R364). -/
inductive ItemKind where
  | msgRow | write | readReq | readRet | writeAck | msgAck | bounce | grant | loss | mgmt
  deriving DecidableEq, Repr

/-- An item under way (R363, R364): rows travel whole inside the module. -/
structure Item where
  kind    : ItemKind
  plane   : Nat
  destPos : Nat
  destCore : Nat
  srcPos  : Nat
  srcCore : Nat
  tag     : Nat
  row     : Nat            -- row address; SEQ for message items
  k       : Nat            -- row index in its message or request
  count   : Nat            -- rows, for requests and acknowledgements
  aux     : Nat            -- REQ, bounce reason, lost kind
  last    : Bool
  data    : Row
  deriving DecidableEq, Repr

/-- A summary slot (R240, R244). -/
structure SumSlot where
  /-- value | 64 | 07 R244 | 0 -/
  value : BitVec 64
  /-- posted value held | 1 | 07 R244 | 0 -/
  valid : Bool
  /-- KIND mismatch | 1 | 07 R244 | 0 -/
  mism : Bool
  /-- kind | 3 | 07 R244 | 0 -/
  kind : Nat
  /-- postings modulo 256 | 8 | 07 R244 | 0 -/
  seq : Nat
  /-- tag | 24 | 07 R244 | 0 -/
  tag : Nat
  deriving DecidableEq, Repr

/-- An error-counter register and its address record (R126 to R129). -/
structure ErrReg where
  /-- corrected errors | 16 | 03 R126 | 0 -/
  ce : Nat
  /-- uncorrectable errors | 8 | 03 R126 | 0 -/
  ue : Nat
  /-- scrubs carried forward | 7 | 03 R126 | 0 -/
  late : Nat
  /-- ERR_ADDR word | 32 | 03 R127, R128, R129 | 0 -/
  addr : Word
  /-- scrubbing enabled | 1 | 03 R126 | 1 -/
  scrubEn : Bool
  /-- scrub interval exponent | 5 | 03 R126 | 16 (12 for deep memory) -/
  scrubLog2 : Nat
  deriving DecidableEq, Repr

/-- The schedule part of a core (02). -/
structure Sched where
  /-- CORE_STATUS.STATE | 2 | 02 R80 | idle -/
  run : CoreRun
  /-- CORE_STATUS.CAUSE | 4 | 02 R80 | none -/
  cause : Cause
  /-- CORE_STATUS.WHICH | 6 | 02 R80 | 0 -/
  which : Nat
  /-- CORE_SCHED_CYC | 64 | 02 R56 | 0 -/
  schedCyc : Nat
  /-- CORE_STALL_CYC | 64 | 02 R56 | 0 -/
  stallCyc : Nat
  /-- CORE_STRIP_CYC | 32 | 02 R56 | 0 -/
  stripCyc : Nat
  /-- CORE_STRIP_STALL | 32 | 02 R56 | 0 -/
  stripStall : Nat
  /-- CORE_STRIP_ID | 32 | 02 R80 | 0 -/
  stripId : Nat
  /-- CORE_STALL_TAG | 24 | 02 R80 | 0 -/
  stallTag : Nat
  /-- CORE_WDOG.LOG2_LIMIT | 6 | 02 R80 | 24 -/
  wdog : Nat
  /-- CORE_CREDIT.HELD | 5 | 02 R80 | 0 -/
  held : Nat
  /-- CORE_CREDIT.CLASS | 5 | 02 R80 | 0 -/
  cls : Nat
  /-- CORE_CREDIT.LENT | 1 | 02 R80 | 0 -/
  lent : Bool
  /-- CORE_CREDIT.REQUEST | 5 | 02 R80 | 0 -/
  request : Nat
  /-- CORE_CTX_CFG without COMMIT | 31 | 02 R80 | 0 -/
  ctxCfg : Word
  /-- CORE_CTX_CFG.COMMIT | 1 | 02 R80 | 0 -/
  commit : Bool
  /-- CORE_STK_MAP, slot s and logical stake k at 12 s + k | 48 x 6 | 02 R80 | 0 -/
  stkMap : Vector (BitVec 6) 48
  /-- the stakes (CORE_STK_VAL) | 48 x 8 | 02 R42, R80 | 0 -/
  stk : Vector (BitVec 8) 48
  /-- the stakes as they stood at the start of the present wall cycle | 48 x 8 | 02 R42 (the model's own snapshot) | 0 -/
  stk0 : Vector (BitVec 8) 48
  /-- handle queues | 8 x 8 entries | 02 R57 | empty -/
  hq : Vector (List HqEntry) 8
  /-- their occupancy at the start of the present wall cycle | 8 x 4 | 02 R58 (the model's own snapshot) | 0 -/
  hq0 : Vector Nat 8
  /-- entries pushed in the present wall cycle, by hq.push and by arrivals | 8 x 4 | 02 R60 (the model's own count) | 0 -/
  hqp : Vector Nat 8
  /-- CORE_DLMISS_CNT | 16 | 02 R80 | 0 -/
  dlMiss : Nat
  /-- CORE_LEND_CNT | 32 | 02 R80 | 0 -/
  lends : Nat
  /-- CORE_DEBUG_STS.STK_OVF | 1 | 02 R44, R80 | 0 -/
  stkOvf : Bool
  /-- CORE_DEBUG_STS.HAZARD | 1 | 02 R80 | 0 -/
  hazard : Bool
  /-- CORE_DEBUG_STS.CHECK | 3 | 02 R80 | 0 -/
  check : Nat
  /-- staging in progress | - | 02 R30 | none -/
  staging : Option Staging
  /-- the staged strip | - | 02 R30, R80 STAGED | none -/
  staged : Option Strip
  /-- the pending launch | - | 02 R32, R80 PENDING | none -/
  launch : Option Launch
  /-- the running strip | - | 02 R31 | none -/
  strip : Option Strip
  /-- wall cycle of the running strip's launch point (deadline, R75) | - | 02 R75 | 0 -/
  launchPoint : Nat
  /-- the running strip's deadline event has been posted | 1 | 02 R75 | 0 -/
  dlPosted : Bool
  /-- queue positions of MQ, VQ, UQ, TQ | 4 | 02 R37 | 0 -/
  qpos : Vector QPos 4
  /-- instructions in flight | list | 02 R39 | empty -/
  flights : List Flight
  /-- the stall in progress | - | 02 R50 | none -/
  stall : Option Stall
  /-- arrivals held at the Square, oldest first | list | 02 R60 | empty -/
  heldArr : List Held
  /-- handles pushed: handle, generation pushed, queue that holds it, pushed in this strip; for checks 2 and 4 | list | 02 R77, 03 R108 |
  empty -/
  pushed : List (Nat × Nat × Option Queue × Bool)
  /-- wall cycle to which this core's counts have been brought | - | 00 R7 (the model's own) | 0 -/
  wall : Nat
  /-- wall cycle of the core's last reset, from which its slots and its control-core cycles count | - | 03 R87, 10 R309 | 0 -/
  origin : Nat
  /-- bits that hardware set in the control-core cycle named first: register offset, mask | list | 00 R12 (the model's own) | none -/
  hwSet : Nat × List (Nat × Nat)
  /-- handles that software wrote in the control-core cycle named first | list | 00 R12 (the model's own) | none -/
  swSet : Nat × List Nat
  /-- wall cycle of the core's last strip end, while its credit is kept | - | 02 R69 | none -/
  ended : Option Nat
  /-- step latched at strip launch | 64 | 05 R172 | 0 -/
  draw : BitVec 64
  /-- launches counted for the allocator's order | - | 03 R112 | 0 -/
  launches : Nat
  /-- the core is in the faulted state while its strip completes | 1 | 02 R119, 13 R404 | 0 -/
  stopping : Bool
  deriving DecidableEq, Repr

/-- The memory-side part of a core (03). -/
structure Mem1 where
  /-- handle table | 64 x 128 | 03 R105 | 0 -/
  handles : Vector IWord 64
  /-- launch count at which a strip last named the handle | 64 | 03 R112 | 0 -/
  lastNamed : Vector Nat 64
  /-- first page, plus 1, of the extent that the allocator gave the handle; 0 for none | 64 | 03 R108, R110 | 0 -/
  owned : Vector Nat 64
  /-- hopper bytes, by 512 row + byte | 1,280 rows | 03 R91, 06 R190 | zero -/
  hop : List Host.Cell
  /-- landing buffer | 64 rows | 03 R88 | empty -/
  land : List LandRow
  /-- inbound rows bound for the Commons | list | 09 R293 | empty -/
  cmnIn : List CmnIn
  /-- Plot error counters and scrub configuration | 3 x 32 | 03 R127 | EN 1, LOG2 16 -/
  err : ErrReg
  /-- scrub write-back due, per bank | list of bank, row, contents | 03 R120 | empty -/
  scrub : List (Nat × Nat × Row)
  /-- next row index to scrub of each bank, and the wall cycle of its last turn | 16 x 10 | 03 R120 | 0 -/
  scrubNext : Vector (Nat × Nat) 16
  /-- wall cycle of the last slot-6 landing, with the banks landed in then | - | 03 R88 (the model's own) | none -/
  landedAt : Nat × List Nat
  /-- wall cycle of the last slot-7 access, with the banks accessed in slot 7 then | - | 03 R90 (the model's own) | none -/
  used7 : Nat × List Nat
  /-- wall cycle, plus 1, of each bank's last slot-7 opportunity before the present cycle that no access took | 16 | 02 R30, 03 R90 (the
  model's own) | 0 -/
  free7 : Vector Nat 16
  /-- wall cycle of the last late write through a fill port, with the ports written through then | - | 03 R88, R91 (the model's own) | none -/
  late6 : Nat × List Bool
  /-- rows written in the wall cycle named first, with their contents at its start: module address, or 2^60 and the hopper row | list | 07
  R224 (the model's own) | none -/
  was : Nat × List (Nat × Row)
  deriving DecidableEq, Repr

/-- The engines of a core (05 to 09). -/
structure Eng where
  /-- accumulator sets, 4,096 cells each (empty: initial) | 2 x 4,096 x 48 | 06 R184 | initial -/
  acc : Vector (List (BitVec 48)) 2
  /-- accumulator set of the pass in feed | 1 | 06 R215 SET | 0 -/
  set : Bool
  /-- Plough instructions in progress | list | 06 R197 | empty -/
  plg : List PlgRun
  /-- last active Plough cycle of the strip, plus 1 | - | 02 R74 | none -/
  plgActive : Option Nat
  /-- activity of the last Plough instruction, in units of the activity model | 6 | 02 R74, 06 R212 | 0 -/
  plgAu : Nat
  /-- PLG_STATUS.ARRAYS | 4 | 06 R215 | 0 -/
  plgArrays : Nat
  /-- PLG_STATUS.FOLD | 2 | 06 R215 | 0 -/
  plgFold : Nat
  /-- PLG_LAST_TAG | 24 | 06 R215 | 0 -/
  plgTag : Nat
  /-- PLG_INST_CNT | 64 | 06 R215 | 0 -/
  plgInst : Nat
  /-- PLG_FEED_CYC | 64 | 06 R215 | 0 -/
  plgFeed : Nat
  /-- PLG_FILLER_CYC | 64 | 06 R215 | 0 -/
  plgFiller : Nat
  /-- PLG_RAMP_CNT | 32 | 06 R215 | 0 -/
  plgRamps : Nat
  /-- PLG_SAT_CNT | 32 | 06 R215 | 0 -/
  plgSat : Nat
  /-- PLG_NONFIN_CNT | 32 | 06 R215 | 0 -/
  plgNonfin : Nat
  /-- Harrow chains in progress | list | 07 R223 | empty -/
  hrw : List HrwRun
  /-- broadcast-buffer loads in progress | list | 07 R226 | empty -/
  bload : List BloadRun
  /-- broadcast buffer: schedule cycle loaded, buffer row, data; newest first | 32 rows | 07 R226 | zeros -/
  bbuf : List (Nat × Nat × Row)
  /-- HRW_STATUS.STAGES | 3 | 07 R244 | 0 -/
  hrwStages : Nat
  /-- HRW_STATUS.CHAIN | 6 | 07 R244 | 0 -/
  hrwChain : Nat
  /-- HRW_LAST_TAG | 24 | 07 R244 | 0 -/
  hrwTag : Nat
  /-- HRW_BEAT_CNT | 64 | 07 R244 | 0 -/
  hrwBeats : Nat
  /-- HRW_SAT_CNT | 32 | 07 R244 | 0 -/
  hrwSat : Nat
  /-- HRW_NONFIN_CNT | 32 | 07 R244 | 0 -/
  hrwNonfin : Nat
  /-- summary slots | 8 | 07 R240 | 0 -/
  sums : Vector SumSlot 8
  /-- the slots before the postings of wall cycle `sumsAt` | 8 | 07 R240 (the model's own snapshot) | 0 -/
  sums0 : Vector SumSlot 8
  /-- wall cycle of the last posting | - | 07 R240 (the model's own) | none -/
  sumsAt : Option Nat
  /-- words 1 to 3 of each slot as its word 0 was last read by ctl.sum | 8 x 3 x 32 | 10 R317 | none -/
  sumLatch : Vector (Option (Word × Word × Word)) 8
  /-- Tiller instructions in progress | list | 08 R251 | empty -/
  tlr : List TlrRun
  /-- root commits in progress | list | 08 R262 | empty -/
  root : List RootRun
  /-- TLR_STATUS.MODE | 2 | 08 R275 | 0 -/
  tlrMode : Nat
  /-- TLR_STATUS.GROUP_BAD | 1 | 08 R275 | 0 -/
  tlrGroupBad : Bool
  /-- TLR_STATUS.HEADER_BAD | 1 | 08 R275 | 0 -/
  tlrHeaderBad : Bool
  /-- TLR_STATUS.ROOT_FAIL | 1 | 08 R275 | 0 -/
  tlrRootFail : Bool
  /-- TLR_STATUS.NONFIN | 1 | 08 R275 | 0 -/
  tlrNonfinSt : Bool
  /-- TLR_LAST_TAG | 24 | 08 R275 | 0 -/
  tlrTag : Nat
  /-- TLR_ROW_CNT | 64 | 08 R275 | 0 -/
  tlrRows : Nat
  /-- TLR_NONFIN_CNT | 32 | 08 R275 | 0 -/
  tlrNonfin : Nat
  /-- TLR_SAT_CNT | 32 | 08 R275 | 0 -/
  tlrSat : Nat
  /-- TLR_EMB_CNT.DUP | 16 | 08 R275 | 0 -/
  tlrDup : Nat
  /-- TLR_EMB_CNT.HORIZON | 16 | 08 R275 | 0 -/
  tlrHorizon : Nat
  /-- TLR_ROOT_CNT.OK | 16 | 08 R275 | 0 -/
  tlrOk : Nat
  /-- TLR_ROOT_CNT.FAIL | 16 | 08 R275 | 0 -/
  tlrFail : Nat
  /-- TLR_CFG | 32 | 08 R275 | 0x3F3F3F3F -/
  tlrCfg : Word
  /-- transfers in progress | list | 09 R292 | empty -/
  xfers : List Xfer
  /-- id of the next transfer or late item | - | the model's own | 0 -/
  nextId : Nat
  /-- REQ of the next remote read request | 8 | 12 R375 | 0 -/
  nextReq : Nat
  /-- first free cycle of the streams P, W, CR, CW, CX, FA, FB, L | 8 | 09 R292 | 0 -/
  streams : Vector Nat 8
  /-- Commons requests under way | list | 03 R95 | empty -/
  cmn : List CmnReq
  /-- late items outstanding | list | 02 R49 | empty -/
  late : List LateItem
  /-- row writes handed to the Square and not yet performed or acknowledged: id, destination position, row address | list | 11 R349 |
  empty -/
  writes : List (Nat × Nat × Nat)
  /-- DRL_SEED of each slot | 4 x 64 | 05 R183 | 0 -/
  seeds : Vector (BitVec 64) 4
  /-- DRL_TEST_KEY | 64 | 05 R183 | 0 -/
  drlKey : Vector Word 2
  /-- DRL_TEST_CTR | 128 | 05 R183 | 0 -/
  drlCtr : Vector Word 4
  /-- the test evaluation in progress: its start cycle, key and counter | - | 05 R183 BUSY | none -/
  drlBusy : Option (Nat × Vector Word 2 × Vector Word 4)
  /-- DRL_TEST_CTRL.DONE | 1 | 05 R183 | 0 -/
  drlDone : Bool
  /-- DRL_TEST_OUT | 128 | 05 R183 | 0 -/
  drlOut : Vector Word 4
  /-- DRL_STATUS.FAIL | 1 | 05 R183 | 0 -/
  drlFail : Bool
  /-- DRL_STATUS.TESTED | 1 | 05 R183 | 0 -/
  drlTested : Bool
  /-- CORE_FOLD | 4 x 64 | 13 R406 | 0 -/
  fold : Vector (BitVec 64) 4
  /-- CORE_FOLD_TAG | 4 x 24 | 13 R406 | 0 -/
  foldTag : Vector Nat 4
  /-- CORE_STRIP_ORD | 64 | 13 R406 | 0 -/
  stripOrd : Nat
  /-- CORE_FOLD_STS.EPOCH | 8 | 13 R406 | 0 -/
  foldEpoch : Nat
  /-- CORE_FOLD_STS.FINAL | 1 | 13 R406 | 0 -/
  foldFinal : Bool
  /-- CORE_FOLD_STS.FAULT_END | 1 | 13 R406 | 0 -/
  foldFault : Bool
  deriving DecidableEq, Repr

/-- One context slot's image registers (R306) with the directory accepted for it (R305). -/
structure ImgSlot where
  /-- first row of the region | 14 | 09 R306 | 0 -/
  base : Nat
  /-- rows of the region | 14 | 09 R306 | 0 -/
  rows : Nat
  /-- accepted | 1 | 09 R306 | 0 -/
  accepted : Bool
  /-- locked | 1 | 09 R306 | 0 -/
  locked : Bool
  /-- context | 3 | 09 R306 | 0 -/
  ctx : Nat
  /-- header rows of its directory | list | 09 R282, R305 | empty -/
  headers : List Nat
  deriving DecidableEq, Repr

/-- The control core, its handlers and fault ring, trace unit and messages (09, 10, 11, 14). -/
structure Cc where
  /-- x0..x31 | 32 x 32 | 10 R308 | 0 -/
  regs : Vector Word 32
  /-- program counter | 32 | 10 R308, R524 | 0 -/
  pc : Word
  /-- mcycle | 64 | 10 R308 | 0 -/
  mcycle : BitVec 64
  /-- minstret | 64 | 10 R308 | 0 -/
  minstret : BitVec 64
  /-- mcause | 32 | 10 R308 | 0 -/
  mcause : Word
  /-- mepc | 32 | 10 R308 | 0 -/
  mepc : Word
  /-- mtval | 32 | 10 R308 | 0 -/
  mtval : Word
  /-- instruction memory bytes | 64 KiB | 10 R312 | zero -/
  imem : List Host.Cell
  /-- data memory bytes | 64 KiB | 10 R312 | zero -/
  dmem : List Host.Cell
  /-- row window buffer | 4,096 | 10 R314 | 0 -/
  win : Row
  /-- window access waiting | - | 10 R314 | none -/
  winOp : Option WinOp
  /-- CORE_CC_STATUS.RUN | 2 | 10 R331 | halted -/
  run : CcRun
  /-- CORE_CC_STATUS.TRAPPED | 1 | 10 R331 | 0 -/
  trapped : Bool
  /-- CORE_CC_STATUS.WIN_UE | 1 | 10 R331 | 0 -/
  winUe : Bool
  /-- CORE_CC_CTRL.START_PC | 16 | 10 R331 | 0 -/
  startPc : Nat
  /-- CORE_CC_TAG | 24 | 10 R331 | 0 -/
  tag : Nat
  /-- CORE_CC_EVENTS | 6 | 10 R331 | 0 -/
  events : BitVec 6
  /-- wall cycle in which each event bit last came up | 6 | 10 R319 (the model's own) | 0 -/
  evAt : Vector Nat 6
  /-- CORE_CC_TRAP_CAUSE, PC and VAL | 3 x 32 | 10 R331 | 0 -/
  trap : Word × Word × Word
  /-- CORE_HDL_EN | 16 | 10 R331 | 0 -/
  hdlEn : BitVec 16
  /-- CORE_HDL_PRIO | 32 | 10 R331 | 0 -/
  hdlPrio : Word
  /-- CORE_HDL_CUR.ACTIVE | 1 | 10 R331 | 0 -/
  hdlActive : Bool
  /-- CORE_HDL_CUR.RING | 4 | 10 R331 | 0 -/
  hdlRing : Nat
  /-- CORE_HDL_CUR.CLASS | 8 | 10 R331 | 0 -/
  hdlClass : Nat
  /-- CORE_HDL_CNT | 32 | 10 R331 | 0 -/
  hdlCnt : Nat
  /-- CORE_HDL_DPTR | 16 x 10 | 10 R331 | 0 -/
  dptr : Vector Nat 16
  /-- CORE_HDL_TABLE | 256 x 16 | 10 R331 | 0 -/
  hdlTable : Vector (BitVec 16) 256
  /-- pc of the ctl.wfe that waits or was interrupted by a handler | 32 | 10 R321 | 0 -/
  wfePc : Word
  /-- mask and destination of the waiting ctl.wfe | - | 10 R319 | 0 -/
  wfeMask : BitVec 6
  /-- destination register of the waiting ctl.wfe | 5 | 10 R319 | 0 -/
  wfeRd : Nat
  /-- first wall cycle at which the next instruction may issue | - | 10 R309, R310 | 0 -/
  readyAt : Nat
  /-- fault ring | 32 x 512 | 10 R328 | empty -/
  ring : List (BitVec 512)
  /-- CORE_FAULT_STS.LOST | 16 | 10 R331 | 0 -/
  lost : Nat
  /-- the next accepted record carries LOST_BEFORE | 1 | 10 R328 | 0 -/
  lostBefore : Bool
  /-- wall cycle of the last ctl.fpop that moved a record | - | 10 R328 | none -/
  popAt : Option Nat
  /-- CORE_FAULT_SEQ | 16 | 10 R331 | 0 -/
  seq : Nat
  /-- a core program has been accepted since the last cold or module reset | 1 | 10 R524 | 0 -/
  progOk : Bool
  /-- its recorded digest | 256 | 10 R316 | 0 -/
  progDigest : BitVec 256
  /-- core-program copy in progress | - | 10 R316 | none -/
  progCopy : Option ProgCopy
  /-- ctl.halloc waiting for the allocator: rd, handle, slot, pages, PAGEABLE | - | 10 R318 | none -/
  halloc : Option (Nat × Nat × Fin 4 × Nat × Bool)
  /-- image slots | 4 | 09 R306 | 0 -/
  img : Vector ImgSlot 4
  /-- CORE_TRACE_CFG | 9 | 09 R306 | 0 -/
  traceCfg : BitVec 9
  /-- CORE_TRACE_MATCH | 24 | 09 R306 | 0 -/
  traceMatch : BitVec 24
  /-- CORE_TRACE_MASK | 24 | 09 R306 | 0 -/
  traceMask : BitVec 24
  /-- CORE_TRACE_BASE | 14 | 09 R306 | 0 -/
  traceBase : Nat
  /-- CORE_TRACE_ROWS | 14 | 09 R306 | 0 -/
  traceRows : Nat
  /-- CORE_TRACE_WPTR | 32 | 09 R306 | 0 -/
  traceWptr : Nat
  /-- CORE_TRACE_DROP | 32 | 09 R306 | 0 -/
  traceDrop : Nat
  /-- trace record buffer | 64 x 128 | 09 R300 | empty -/
  traceBuf : List (BitVec 128)
  /-- inbox rings | 16 | 11 R336 | closed -/
  rings : Vector Ring 16
  /-- MSG_SEQ of each slot | 4 x 16 | 11 R335 | 0 -/
  msgSeq : Vector Nat 4
  /-- outstanding sends | 4 | 11 R334 | empty -/
  sends : List Send
  /-- sends that have ended while rows of theirs wait at the Square | list | 11 R349, R355 | empty -/
  ending : List Send
  /-- wall cycle of the send engine's last read | - | 11 R354 | none -/
  sendRead : Option Nat
  /-- MSG_BOUNCE_CNT | 32 | 11 R357 | 0 -/
  bounceCnt : Nat
  /-- MSG_RX_BOUNCE_CNT | 32 | 11 R357 | 0 -/
  rxBounce : Nat
  /-- MSG_SPILL_CNT | 32 | 11 R357 | 0 -/
  spillCnt : Nat
  /-- MSG_HOLD_CNT | 32 | 11 R357 | 0 -/
  holdCnt : Nat
  /-- WGT_REQ_CTRL.CSLOT | 2 | 14 R428 | 0 -/
  reqCslot : Fin 4
  /-- WGT_REQ_CTRL.SLOT | 1 | 14 R428 | 0 -/
  reqSlot : Fin 2
  /-- WGT_REQ_STS.DONE | 1 | 14 R428 | 0 -/
  reqDone : Bool
  /-- WGT_REQ_STS.SLOT | 1 | 14 R428 | 0 -/
  reqLatched : Fin 2
  /-- WGT_REQ_STS.RESULT | 2 | 14 R428 | 0 -/
  reqResult : Nat
  /-- a reset of this core is in progress | 1 | 17 R496 | 0 -/
  resetting : Bool
  deriving DecidableEq, Repr

/-- PWR_CORE_STATE codes (R468). -/
inductive Gate where
  | powerGated | waking | clockGated | awake
  deriving DecidableEq, Repr

/-- One core position. -/
structure Core where
  sc   : Sched
  m    : Mem1
  e    : Eng
  cc   : Cc
  /-- furrow state | 2 | 16 R468 | power-gated -/
  gate : Gate
  /-- wall cycle in which a wake from POWER-GATED completes, or from which the power-gating delay counts | - | 16 R468, R469, R471 | 0 -/
  gatedAt : Nat
  /-- the Headland's command to power-gate the core waits | 1 | 16 R471 | 0 -/
  gateCmd : Bool
  deriving DecidableEq, Repr

/-- A page-out or page-in of a die's allocator (R113, R114). -/
structure PageJob where
  core : CoreId
  h    : Nat
  src  : Nat               -- first Commons row
  pages : Nat
  area : Nat               -- first deep-memory row of the copy
  deriving DecidableEq, Repr

/-- A request at a die's allocator (R111): of ctl.halloc, or of the page-in of handle `h`. -/
structure AllocReq where
  core : CoreId
  made : Nat               -- wall cycle in which it was made
  h    : Option Nat
  deriving DecidableEq, Repr

/-- A gate or ungate command that reached its bank group (R121). -/
structure GateJob where
  g    : Fin 16
  core : CoreId
  stk  : Nat
  un   : Bool
  tag  : Nat
  at_  : Nat
  deriving DecidableEq, Repr

/-- One compute die (02, 03, 08, 16). -/
structure Die where
  /-- PWR_DIE_POOL | 9 | 02 R81 | 0 -/
  pool : Nat
  /-- credit requests waiting, in order: core, amount, cycle made | list | 02 R68 | empty -/
  reqs : List (CoreId × Nat × Nat)
  /-- CORE_DIE_DEBUG | 1 | 02 R81 | 0 -/
  debug : Bool
  /-- CMN_CTX_GROUPS | 8 x 16 | 03 R128 | 0 -/
  ctxGroups : Vector (BitVec 16) 8
  /-- CMN_FIXED | 16 | 03 R128 | 0 -/
  fixed : BitVec 16
  /-- CMN_GROUP_STATE: 0 on, 1 closing, 2 off, 3 ungating | 16 x 2 | 03 R128 | 0 -/
  groupState : Vector Nat 16
  /-- allocated extents: first page, pages | list | 03 R110 | empty -/
  extents : List (Nat × Nat)
  /-- CMN_OVR_CNT | 32 | 03 R128 | 0 -/
  ovr : Nat
  /-- CMN_PAGE_AREA base | 8 x 25 | 03 R128 | 0 -/
  pageBase : Vector Nat 8
  /-- CMN_PAGE_AREA rows | 8 x 25 | 03 R128 | 0 -/
  pageRows : Vector Nat 8
  /-- backing-area extents in use, with the handle each holds | list | 03 R113 | empty -/
  backing : List PageJob
  /-- page-outs in progress | list | 03 R113 | empty -/
  pageOuts : List PageJob
  /-- page-ins in progress: their extents are allocated | list | 03 R114 | empty -/
  pageIns : List PageJob
  /-- allocator requests waiting, in their order | list | 03 R111 | empty -/
  allocQ : List AllocReq
  /-- gate commands in progress | list | 03 R121 | empty -/
  gates : List GateJob
  /-- Commons error counters and scrub configuration | 3 x 32 | 03 R128 | EN 1, LOG2 16 -/
  cmnErr : ErrReg
  /-- deep-memory error counters and scrub configuration | 3 x 32 | 03 R129 | EN 1, LOG2 12 -/
  dmErr : ErrReg
  /-- DM_STATUS | 6 | 03 R129 | 0 -/
  dmStatus : BitVec 6
  /-- scrub write-backs due: unit (bank or 256 + device), row, contents | list | 03 R120 | empty -/
  scrub : List (Nat × Nat × Row)
  /-- next row index to scrub of each Commons bank or deep-memory device, and the time of its last turn | list of unit, index, time |
  03 R120 | empty (0) -/
  scrubNext : List (Nat × Nat × Nat)
  /-- TLR_SCHED_MASK | 4,096 | 08 R276 | 0 -/
  schedMask : BitVec 4096
  /-- parameter-group descriptors written: group, descriptor | 4,096 x 512 | 08 R264, R276 | 0 -/
  descs : List (Nat × BitVec 512)
  /-- TLR_SCHED_STATUS.BUSY | 1 | 08 R276 | 0 -/
  schedBusy : Bool
  /-- TLR_SCHED_STATUS.CTX | 3 | 08 R276 | 0 -/
  schedCtx : Nat
  /-- TLR_SCHED_STATUS.COUNT | 13 | 08 R276 | 0 -/
  schedCount : Nat
  /-- step-table entries of the current step: group, entry, descriptor evaluated | 4,096 x (256 + 512) | 08 R253, R276 | 0 -/
  tabCur : List (Nat × BitVec 256 × BitVec 512)
  /-- step-table entries of the previous step | 4,096 x (256 + 512) | 08 R253, R276 | 0 -/
  tabPrev : List (Nat × BitVec 256 × BitVec 512)
  /-- entries evaluated for an advance in progress | list | 08 R266 | empty -/
  tabNext : List (Nat × BitVec 256 × BitVec 512)
  /-- PWR_STEP.CUR | 3 | 16 R483 | 7 -/
  stepCur : Nat
  /-- PWR_STEP.TARGET | 3 | 16 R483 | 7 -/
  stepTarget : Nat
  /-- PWR_STEP.CHANGING | 1 | 16 R483 | 0 -/
  changing : Bool
  /-- reference edge at which the clocks stopped | - | 16 R466 | none -/
  stopped : Option Nat
  /-- die-reference edge of the last wake from POWER-GATED | - | 16 R469 | none -/
  lastWake : Option Nat
  /-- wakes waiting, in order | list | 16 R469 | empty -/
  wakeQ : List CoreId
  /-- PWR_GATE_CFG.PG_LOG2 | 5 | 16 R483 | 16 -/
  pgLog2 : Nat
  /-- PWR_DIE_CNT.WAKES | 16 | 16 R483 | 0 -/
  wakes : Nat
  /-- PWR_DIE_CNT.STEPS | 16 | 16 R483 | 0 -/
  steps : Nat
  /-- PWR_CREDIT_MW | 8 x 16 | 16 R483 | 0 -/
  creditMw : Vector Nat 8
  /-- PWR_TJ.TJ, signed, 0.125 C | 12 | 16 R483 | 0 -/
  tj : Int
  /-- PWR_TJ.TJ_MAX | 12 | 16 R483 | 0 -/
  tjMax : Int
  /-- thermal limit step | 3 | 16 R475 | 0 -/
  thermal : Nat
  /-- wall ns since which the die has stayed below THROTTLE - HYST | - | 16 R475 | none -/
  coolSince : Option Nat
  /-- input-power limit step | 3 | 16 R474 | 0 -/
  inputLim : Nat
  deriving DecidableEq, Repr

/-- LNK_PORT_STATUS.STATE (R369). -/
inductive PortState where
  | down | training | up | failed
  deriving DecidableEq, Repr

/-- A message being received on a port (R363). -/
structure RxMsg where
  destPos  : Nat
  srcPos   : Nat
  srcCore  : Nat
  tag      : Nat
  destCore : Nat
  seq      : Nat
  len      : Nat
  next     : Nat           -- index of its next row
  deriving DecidableEq, Repr

/-- A flit that waits at a port: descriptor, contents, and the SEQ of the message that a half of kind 3 belongs to, which the gate die
keeps for the loss notice (R364, R370). -/
abbrev OutFlit := BitVec 128 × Flit × Nat

/-- One link port (12). -/
structure Port where
  /-- STATE | 2 | 12 R386 | down -/
  state : PortState
  /-- CREDIT | 11 | 12 R386 | 0 -/
  credit : Nat
  /-- unacknowledged frames with their FSEQ (UNACK) | 256 | 12 R367 | empty -/
  replay : List (Nat × Frame)
  /-- frames of the replay buffer still to be resent | 9 | 12 R367 | 0 -/
  resend : Nat
  /-- NAK_OUT: this receiver waits for a resend | 1 | 12 R386 | 0 -/
  nakOut : Bool
  /-- the next lead flit carries NAK | 1 | 12 R367 | 0 -/
  nakDue : Bool
  /-- consecutive NAKs received of one frame, with that frame | 12 + 4 | 12 R369 | 0 -/
  naks : Nat × Nat
  /-- next FSEQ to send | 12 | 12 R362 | 0 -/
  fseq : Nat
  /-- last frame received whole | 12 | 12 R362 ASEQ | 4,095 -/
  rseq : Nat
  /-- next data-slot number modulo 3 | 2 | 12 R365 | 0 -/
  slot : Nat
  /-- flits waiting, by source | 3 lists | 12 R365 | empty -/
  out : Vector (List OutFlit) 3
  /-- what the sender keeps beside its unacknowledged frames: FSEQ, the SEQs of the frame's message halves | 256 | 12 R364, R370 | empty -/
  seqs : List (Nat × List Nat)
  /-- the last frame that was discarded and is to be resent | 12 | 12 R367 | none -/
  resentTo : Option Nat
  /-- data flits freed since the last lead flit sent | 12 | 12 R362 CREDIT | 0 -/
  freed : Nat
  /-- frames sent since the last timed lead flit | 14 | 12 R382 | 0 -/
  sinceTs : Nat
  /-- FSEQ and arrival time of the last timed lead flit received | 12 + 64 | 12 R382 | none -/
  echo : Option (Nat × Nat)
  /-- FSEQ and TS_TX of the last timed lead flit sent | 12 + 64 | 12 R382 | none -/
  tsSent : Option (Nat × Nat)
  /-- messages being received | list | 12 R363 | empty -/
  rxMsg : List RxMsg
  /-- first halves received that await their second half | list | 12 R363 | empty -/
  halves : List (BitVec 128 × Flit)
  /-- the frame last sent, as it is on the wire | - | 12 R361 | none -/
  wire : Option Frame
  /-- ENABLE | 1 | 12 R386 | 0 -/
  enable : Bool
  /-- MANUAL_EQ | 1 | 12 R386 | 0 -/
  manualEq : Bool
  /-- PEER.POS | 16 | 12 R386 | 0xFFFF -/
  peerPos : Nat
  /-- PEER.PORT | 5 | 12 R386 | 0 -/
  peerPort : Nat
  /-- PEER.FLIGHT | 11 | 12 R386 | 0 -/
  flight : Nat
  /-- FEC CORR | 24 | 12 R386 | 0 -/
  corr : Nat
  /-- FEC UNCORR | 8 | 12 R386 | 0 -/
  uncorr : Nat
  /-- RETRY | 16 | 12 R386 | 0 -/
  retry : Nat
  /-- FAILS | 8 | 12 R386 | 0 -/
  fails : Nat
  /-- LNK_EQ_PRESET | 12 | 12 R386 | 0 -/
  eq : BitVec 12
  /-- LNK_TS_DELAY | 32 | 12 R386 | 0 -/
  tsDelay : Word
  /-- wall ns of the last correctable lead flit | - | 12 R369 | 0 -/
  lastLead : Nat
  /-- wall ns of the last heartbeat received | - | 15 R449 | 0 -/
  lastBeat : Nat
  /-- identity, position and state of the IDENT exchange | - | 17 R506 | none -/
  ident : Option (Nat × Nat)
  deriving DecidableEq, Repr

/-! ### The hub (08, 12 to 17) -/

/-- Step advance and privileged values of one context (R266, R267, R277). -/
structure AdvCtx where
  /-- global step (TLR_STEP) | 64 | 08 R277 | 0 -/
  step : BitVec 64
  /-- TLR_ADV.PENDING, with the target and the command | 1 | 08 R277 | none -/
  pending : Option (Nat × CmdSrc)
  /-- every die's engine has evaluated the pending target (TLR_ADV.WAIT follows) | 1 | 08 R266 | 0 -/
  evald : Bool
  /-- TLR_PRIV_VALUE, entry k and parity p at 2 k + p | 16 x 32 | 08 R277 | 0 -/
  privVal : Vector Word 16
  /-- TLR_PRIV_STEP | 16 x 64 | 08 R277 | 0 -/
  privStep : Vector (BitVec 64) 16
  /-- armed copies: step, value | 16 | 08 R267 | none -/
  armed : Vector (Option (Nat × Word)) 16
  deriving DecidableEq, Repr

/-- Image load of one context (R303, R307). -/
structure LoadCtx where
  /-- HL_LOAD_STATUS.STATE | 2 | 09 R307 | 0 -/
  state : Nat
  /-- HL_LOAD_STATUS.CODE | 4 | 09 R307 | 0 -/
  code : Nat
  /-- HL_LOAD_WHERE | 32 | 09 R307 | 0 -/
  where_ : Nat
  /-- HL_LOAD_DIGEST | 256 | 09 R307 | 0 -/
  digest : BitVec 256
  /-- the load in progress: manifest address and command | - | 09 R303 | none -/
  busy : Option (Nat × CmdSrc)
  /-- regions locked for the load in progress: core, base row, rows | list | 09 R303 | empty -/
  locks : List (Nat × Nat × Nat)
  /-- regions of the accepted image | list | 09 R303 | empty -/
  regions : List (Nat × Nat × Nat)
  /-- accepted loads | - | 13 R401 | 0 -/
  accepted : Nat
  /-- STEP_MASK of the accepted image (0xFF without one) | 8 | 09 R281 | 0xFF -/
  stepMask : Nat
  /-- dies coupled by the accepted image's other-die Commons transfers | 8 x 8 | 16 R465 | empty -/
  coupled : List (Nat × Nat)
  /-- MODE byte and QUAHAM_ID of the accepted image's stamp | 72 | 09 R279 | 0 -/
  mode : Nat
  /-- QUAHAM_ID | 64 | 09 R279 | 0 -/
  quahamId : Nat
  deriving DecidableEq, Repr

/-- Weight-slot state (R408). -/
inductive WSlot where
  | empty | loading | verified | active | draining | failed
  deriving DecidableEq, Repr

/-- One shard of a slot's manifest with its progress (R411, R417 to R420). -/
structure Shard where
  entry   : BitVec 512     -- the shard entry
  chunks  : Nat            -- chunks copied in the current attempt
  passed  : Bool
  tries   : Nat            -- failed attempts at the present source
  fromHost : Bool
  waiting : Bool           -- the successor waits for its resending (kind 4 was answered)
  lastPass : Nat           -- wall ns of the last passed check
  lastTb  : Nat            -- time base at the last passed check
  lastChunk : Option Nat   -- wall ns from which its window counts
  recheck : Bool           -- a re-check is queued or running
  late    : Bool           -- counted as late since its last passed check
  deriving DecidableEq, Repr

/-- One weight slot: its last load (R409, R413). -/
structure WLoad where
  /-- state | 3 | 14 R408 | empty -/
  state : WSlot
  /-- regions: base row, rows at 2 d + t (WGT_REGION) | 16 x 50 | 14 R429 | 0 -/
  regions : List (Nat × Nat)
  /-- the load command that filled it | - | 14 R413 | none -/
  cmd : Option WgtCmd
  /-- filled in place (WEIGHT_VERIFY) | 1 | 14 R419 | 0 -/
  inPlace : Bool
  /-- shards of its manifest | list | 14 R411 | empty -/
  shards : List Shard
  /-- chunks whose copy is performed | list | 14 R415 | empty -/
  copied : List Nat
  /-- chunks sent to the successor and not yet released | list | 14 R415 | empty -/
  forwarded : List Nat
  /-- chunks waiting to be sent to the successor: number, resent from the slot, RESEND set | list | 14 R415, R420 | empty -/
  toForward : List (Nat × Bool × Bool)
  /-- chunks noticed whose release is still to be sent: number, sent by the host | list | 14 R415 | empty -/
  toRelease : List (Nat × Bool)
  /-- who sent the load command, until its second reply | - | 17 R494 | none -/
  src : Option CmdSrc
  /-- SHA-384 of header and entries | 384 | 14 R412 | 0 -/
  digest : BitVec 384
  deriving DecidableEq, Repr

/-- Weights of one context (R408, R423 to R429). -/
structure WgtCtx where
  /-- active slot | 1 | 14 R429 | 0 -/
  active : Fin 2
  /-- the two slots | 2 | 14 R408 | EMPTY -/
  slots : Vector WLoad 2
  /-- QUARANTINE | 1 | 14 R429 | 0 -/
  quarantine : Bool
  /-- request counts | 2 x 16 | 14 R429 | 0 -/
  refs : Vector Nat 2
  /-- WGT_LOAD_STATUS.STATE | 2 | 14 R429 | 0 -/
  loadState : Nat
  /-- WGT_LOAD_STATUS.CODE | 3 | 14 R429 | 0 -/
  loadCode : Nat
  /-- slot of the load in progress, or of the refetch of a verified slot | 1 | 14 R413, R426 | none -/
  loading : Option (Fin 2)
  /-- a refetch of the active slot is in progress | 1 | 14 R426 | 0 -/
  refetching : Bool
  /-- the last turn: always-on cycle, the slot active before it, that slot's state and QUARANTINE | - | 14 R427 | none -/
  turn0 : Option (Nat × Fin 2 × WSlot × Bool)
  /-- WGT_LOAD_ID | 32 | 14 R429 | 0 -/
  loadId : Word
  /-- RETRY.PRED | 16 | 14 R429 | 0 -/
  retryPred : Nat
  /-- RETRY.HOST | 16 | 14 R429 | 0 -/
  retryHost : Nat
  /-- WGT_TURN_CNT | 32 | 14 R429 | 0 -/
  turns : Nat
  /-- weight-key hashes, RSA and SLH-DSA | 2 x 384 | 14 R412 | 0 -/
  keyRsa : BitVec 384
  /-- SLH-DSA weight-key hash | 384 | 14 R412 | 0 -/
  keySlh : BitVec 384
  deriving DecidableEq, Repr

/-- A shard at a digest engine or waiting for one (R417): context, slot, shard, re-check. -/
structure DigJob where
  x     : CtxId
  slot  : Fin 2
  shard : Nat
  re    : Bool
  deriving DecidableEq, Repr

/-- A snapshot in progress (R438 to R445). -/
structure SnpRun where
  slot    : Fin 2
  seq     : Nat
  chunks  : Nat
  table   : List (Nat × BitVec 512) -- chunks copied with their chunk-table entries
  signed  : Bool
  record  : List Row                -- the commit record page, 8 rows
  commits : List (Fin 3)            -- copies whose commit page is written: 0 local, 1 and 2 the partners
  notices : List (Nat × Nat × Nat)  -- unanswered notices: partner (1 or 2), chunk, wall ns sent
  mism    : List (Nat × Nat × Nat)  -- digest mismatches: partner, chunk, count
  window  : Nat                     -- chunks started in the present window
  deriving DecidableEq, Repr

/-- A restore in progress (R450 to R453). -/
structure RstRun where
  cmd      : RestoreCmd
  src      : CmdSrc
  heads    : List (Nat × Nat × List Row)  -- header pages fetched: source, slot, rows of commit page, signature pages and table pages
  seq      : Option Nat                   -- the SEQ being restored
  excluded : List Nat                     -- SEQs excluded or given up
  bad      : List (Nat × Nat)             -- copies of chunks that failed: chunk, source
  chunks   : List Nat                     -- chunks fetched and checked
  jGot     : List (Nat × Nat)             -- journal slots fetched: source, slot
  entries  : List (Nat × Nat × Nat × Row) -- valid entries: step, JSEQ, source, header row
  next     : Nat                          -- step to replay next
  deriving DecidableEq, Repr

/-- Snapshot and journal registers of one context (R457, R459). -/
structure SnpCtx where
  /-- SNP_CFG.EN | 1 | 15 R457 | 0 -/
  en : Bool
  /-- SNP_CFG.LEVEL | 1 | 15 R457 | 0 -/
  level : Bool
  /-- SNP_CFG.PHASE | 2 | 15 R457 | 1 -/
  phase : Nat
  /-- SNP_STATUS.STATE | 2 | 15 R457 | 0 -/
  state : Nat
  /-- SNP_STATUS.SLOT | 1 | 15 R457 | 0 -/
  slot : Fin 2
  /-- SNP_STATUS.WINDOW, with the window's step | 1 | 15 R457 | none -/
  window : Option Nat
  /-- RESTORED | 1 | 15 R457 | 0 -/
  restored : Bool
  /-- GRADE_CHANGED | 1 | 15 R457 | 0 -/
  gradeChanged : Bool
  /-- WORN | 1 | 15 R457 | 0 -/
  worn : Bool
  /-- CORRELATED | 1 | 15 R457 | 0 -/
  correlated : Bool
  /-- SNP_SEQ | 64 | 15 R457 | 0 -/
  seq : Nat
  /-- last SEQ used, abandoned ones included | 64 | 15 R443 | 0 -/
  lastSeq : Nat
  /-- a snapshot has been committed | 1 | 15 R444 | 0 -/
  committed : Bool
  /-- SNP_BMIN | 64 | 15 R457 | 0 -/
  bmin : Nat
  /-- SNP_INTERVAL | 32 | 15 R457 | 0 -/
  interval : Nat
  /-- SNP_PACE | 16 | 15 R457 | 0 -/
  pace : Nat
  /-- SNP_PARTNER.POS | 16 | 15 R457 | 0xFFFF -/
  partner : Nat
  /-- SNP_PARTNER.ENABLE | 1 | 15 R457 | 0 -/
  partnerEn : Bool
  /-- SNP_PARTNER.RESULT | 2 | 15 R457 | 0 -/
  partnerRes : Nat
  /-- SNP_PARTNER2.POS | 16 | 15 R457 | 0xFFFF -/
  partner2 : Nat
  /-- SNP_PARTNER2.ENABLE | 1 | 15 R457 | 0 -/
  partner2En : Bool
  /-- SNP_PARTNER2.RESULT | 2 | 15 R457 | 0 -/
  partner2Res : Nat
  /-- SNP_RTAB_CNT | 11 | 15 R457 | 0 -/
  rtabCnt : Nat
  /-- SNP_RTAB | 48 | 15 R457 | 0 -/
  rtab : Nat
  /-- SNP_AREA_BASE | 32 | 15 R457 | 0 -/
  areaBase : Nat
  /-- SNP_AREA_SIZE | 32 | 15 R457 | 0 -/
  areaSize : Nat
  /-- snapshot in progress | - | 15 R443 | none -/
  snp : Option SnpRun
  /-- time base, in ns, at the last snapshot start | - | 15 R447 | 0 -/
  lastStart : Nat
  /-- the step that is repeated after a restore | - | 15 R433 REPEAT, R453 | none -/
  again : Option Nat
  /-- restore in progress | - | 15 R450 | none -/
  rst : Option RstRun
  /-- JNL_BASE | 48 | 15 R459 | 0 -/
  jBase : Nat
  /-- JNL_ENTRY_ROWS | 24 | 15 R459 | 0 -/
  jRows : Nat
  /-- JNL_ENTRIES | 11 | 15 R459 | 0 -/
  jEntries : Nat
  /-- JNL_MIRROR_POS | 16 | 15 R459 | 0xFFFF -/
  jMirrorPos : Nat
  /-- JNL_MIRROR_BASE | 48 | 15 R459 | 0 -/
  jMirrorBase : Nat
  /-- journal command in progress (BUSY): step, rows, command, retried | - | 15 R459 | none -/
  jBusy : Option (Nat × Nat × CmdSrc × Bool)
  /-- journal command held (HELD): step, rows, command | - | 15 R459 | none -/
  jHeld : Option (Nat × Nat × CmdSrc)
  /-- MIRROR_BAD | 1 | 15 R459 | 0 -/
  jMirrorBad : Bool
  /-- JNL_STEP | 64 | 15 R459 | 0 -/
  jStep : Nat
  /-- JNL_SEQ | 64 | 15 R459 | 0 -/
  jSeq : Nat
  /-- JNL_WAIT_CNT | 32 | 15 R459 | 0 -/
  jWaits : Nat
  deriving DecidableEq, Repr

/-- The time base (R380 to R387). -/
structure Tb where
  /-- count in units of 2^-32 ns (64 + 32 bits) | 96 | 12 R380 | 0 -/
  count : Nat
  /-- TB_CFG.MASTER | 1 | 12 R387 | strap -/
  master : Bool
  /-- TB_CFG.EXT_REF | 1 | 12 R387 | 0 -/
  extRef : Bool
  /-- TB_CFG.UP_PRI | 5 | 12 R387 | 0 -/
  upPri : Nat
  /-- TB_CFG.UP_BAK | 5 | 12 R387 | 0 -/
  upBak : Nat
  /-- TB_CFG.BAK_EN | 1 | 12 R387 | 0 -/
  bakEn : Bool
  /-- LOCKED | 1 | 12 R387 | 0 -/
  locked : Bool
  /-- REF_LOST | 1 | 12 R387 | 0 -/
  refLost : Bool
  /-- HOLDOVER | 1 | 12 R387 | 0 -/
  holdover : Bool
  /-- ON_BACKUP | 1 | 12 R387 | 0 -/
  onBackup : Bool
  /-- ALARMS | 8 | 12 R387 | 0 -/
  alarms : Nat
  /-- TB_OFFSET in 2^-4 ns, signed | 32 | 12 R387 | 0 -/
  offset : Int
  /-- TB_ADJ, a in 2^-32, signed | 32 | 12 R387 | 0 -/
  adj : Int
  /-- frequency estimate rho in 2^-32 | - | 12 R382 | 0 -/
  rho : Int
  /-- TB_SET as last written | 64 | 12 R387 | 0 -/
  set : BitVec 64
  /-- wall ns of the last usable upstream exchange | - | 12 R384 | 0 -/
  lastGood : Nat
  /-- a strip has launched since reset | 1 | 12 R381, R383 | 0 -/
  launched : Bool
  /-- the count has been set once from a locked upstream | 1 | 12 R383 | 0 -/
  wasSet : Bool
  deriving DecidableEq, Repr

/-- A record of the fold comparator (R400): 64 bytes. -/
abbrev FoldRec := BitVec 512

/-- The lock-step comparator (R401 to R407). -/
structure Ls where
  /-- ENABLE | 1 | 13 R407 | 0 -/
  enable : Bool
  /-- STOP | 1 | 13 R407 | 0 -/
  stop : Bool
  /-- RING | 4 | 13 R407 | 0 -/
  ring : Nat
  /-- PEER_POS | 16 | 13 R407 | 0xFFFF -/
  peer : Nat
  /-- CONFIG_OK | 1 | 13 R407 | 0 -/
  configOk : Bool
  /-- GAP | 1 | 13 R407 | 0 -/
  gap : Bool
  /-- DIVERGED | 1 | 13 R407 | 0 -/
  diverged : Bool
  /-- HL_LS_DIV_CNT | 32 | 13 R407 | 0 -/
  divCnt : Nat
  /-- HL_LS_GAP_CNT | 32 | 13 R407 | 0 -/
  gapCnt : Nat
  /-- HL_LS_MATCHED | 64 | 13 R407 | 0 -/
  matched : Nat
  /-- records waiting to be sent, oldest first | list | 13 R401 | empty -/
  waiting : List FoldRec
  /-- wall ns of their arrivals | list | 13 R401 | empty -/
  arrived : List Nat
  /-- unmatched local records with the local context and last schedule cycle | 32,768 | 13 R402 | empty -/
  locals : List (FoldRec × Nat × Nat)
  /-- unmatched peer records | 32,768 | 13 R402 | empty -/
  peers : List FoldRec
  /-- latest epoch of each core's local records: core, epoch | list | 13 R402 | empty -/
  lastL : List (Nat × Nat)
  /-- latest epoch of each core's peer records: core, epoch | list | 13 R402 | empty -/
  lastP : List (Nat × Nat)
  /-- messages sent | 16 | 13 R401 | 0 -/
  msgs : Nat
  /-- the next message carries configuration records | 1 | 13 R401 | 0 -/
  configDue : Bool
  deriving DecidableEq, Repr

/-- Power and supplies at the hub (R484, R477, R478). -/
structure Pwr where
  /-- LEVEL | 1 | 16 R484 | 0 -/
  level : Bool
  /-- PROFILE | 3 | 16 R484 | 0 -/
  profile : Nat
  /-- SPREAD | 1 | 16 R484 | 0 -/
  spread : Bool
  /-- the spread that the reference PLL applies | 1 | 16 R461 | 0 -/
  spreadOn : Bool
  /-- REFSEL | 1 | 16 R484 | 0 -/
  refsel : Bool
  /-- PWR_BUDGET | 11 | 16 R484 | 900 -/
  budget : Nat
  /-- PWR_OVERHEAD | 11 | 16 R484 | 0 -/
  overhead : Nat
  /-- PWR_INPUT | 11 | 16 R484 | 0 -/
  input : Nat
  /-- BUDGET_LOW | 1 | 16 R484 | 0 -/
  budgetLow : Bool
  /-- OVER_LIMIT | 1 | 16 R484 | 0 -/
  overLimit : Bool
  /-- EXP_REFUSED | 1 | 16 R484 | 0 -/
  expRefused : Bool
  /-- EXT_MISSING | 1 | 16 R484 | 0 -/
  extMissing : Bool
  /-- THERMAL_TRIP, with t0 | 1 | 16 R484 | none -/
  trip : Option Nat
  /-- THROTTLE | 8 | 16 R484 | 95 -/
  throttle : Nat
  /-- HYST | 4 | 16 R484 | 5 -/
  hyst : Nat
  /-- CRIT | 8 | 16 R484 | 110 -/
  crit : Nat
  /-- PREFER | 1 | 16 R484 | 0 -/
  prefer : Bool
  /-- RETURN_MS | 16 | 16 R484 | 100 -/
  returnMs : Nat
  /-- MAIN_OK | 1 | 16 R484 | 0 -/
  mainOk : Bool
  /-- BACKUP_OK | 1 | 16 R484 | 0 -/
  backupOk : Bool
  /-- ON_BACKUP | 1 | 16 R484 | 0 -/
  onBackup : Bool
  /-- POWER_FAIL, with t0 | 1 | 16 R484 | none -/
  fail : Option Nat
  /-- VIN | 10 | 16 R484 | 0 -/
  vin : Nat
  /-- SWITCH | 16 | 16 R484 | 0 -/
  switches : Nat
  /-- DROOP | 16 | 16 R484 | 0 -/
  droops : Nat
  /-- wall ns since which the main and the backup input have been in range | - | 16 R477 | none -/
  mainSince : Option Nat
  /-- as above, backup | - | 16 R477 | none -/
  backupSince : Option Nat
  /-- wall ns since which both inputs have been out of range | - | 16 R478 | none -/
  outSince : Option Nat
  /-- S1 is open | 1 | 18 R513 | closed -/
  mateOpen : Bool
  /-- the rails of compute dies, gate dies and GDDR7 are up | 1 | 16 R478 | 1 -/
  railsUp : Bool
  /-- the hub's rails are up | 1 | 16 R478 | 1 -/
  hubUp : Bool
  /-- the always-on domain runs | 1 | 16 R477 | 1 -/
  alwaysOn : Bool
  /-- PWR_EXP_STEP | 8 x 3 | 16 R484 | 0 -/
  expStep : Vector Nat 8
  /-- PWR_EXP_POOL | 8 x 9 | 16 R484 | 0 -/
  expPool : Vector Nat 8
  /-- Tj of the four gate dies and the hub, 0.125 C | 5 | 16 R475 | 0 -/
  otherTj : Vector Int 5
  /-- wall ns since which input power has stayed at or below PWR_BUDGET | - | 16 R474 | none -/
  lowSince : Option Nat
  deriving DecidableEq, Repr

/-- A reset in progress (R496): kind 1 context, 2 core, 3 module, 0 one that merged into another. -/
structure ResetRun where
  kind  : Nat
  mask  : BitVec 128               -- cores of a core reset
  x     : CtxId                    -- context of a context reset
  src   : Option CmdSrc            -- its command
  rings : List (CoreId × Nat)      -- rings of a context reset (R352)
  deriving DecidableEq, Repr

/-- The host link, commands, boot and trust (R485 to R510). -/
structure Hl where
  /-- Malob STATE | 2 | 17 R510 | down -/
  malob : PortState
  /-- FLT_LOST | 16 | 17 R510 | 0 -/
  fltLost : Nat
  /-- HLK_IN_BASE | 48 | 17 R510 | 0 -/
  inBase : Nat
  /-- HLK_IN_ROWS | 11 | 17 R510 | 0 -/
  inRows : Nat
  /-- HLK_IN_PTR.WPTR | 10 | 17 R510 | 0 -/
  inWptr : Nat
  /-- HLK_IN_RPTR | 10 | 17 R510 | 0 -/
  inRptr : Nat
  /-- messages for the host waiting in the hub | 64 | 17 R490 | empty -/
  inQ : List (List Row)
  /-- HLK_FLT_BASE | 48 | 17 R510 | 0 -/
  fltBase : Nat
  /-- HLK_FLT_ROWS | 11 | 17 R510 | 0 -/
  fltRows : Nat
  /-- HLK_FLT_RPTR.RPTR | 14 | 17 R510 | 0 -/
  fltRptr : Nat
  /-- HLK_FLT_RPTR.WPTR | 14 | 17 R510 | 0 -/
  fltWptr : Nat
  /-- HLK_FLT_MASK | 32 | 17 R510 | 0 -/
  fltMask : Word
  /-- HLK_SEQ.SEQ | 16 | 17 R510 | 0 -/
  seq : Nat
  /-- HLK_SEQ.HL_SEQ | 16 | 17 R510 | 0 -/
  hlSeq : Nat
  /-- HL_ATTN.CAUSE | 8 | 17 R510 | 0 -/
  attn : BitVec 8
  /-- HL_ATTN.MASK | 8 | 17 R510 | 0xFF -/
  attnMask : BitVec 8
  /-- HL_BOOT.DONE | 1 | 17 R510 | 0 -/
  bootDone : Bool
  /-- wall ns in which the boot completed | - | 12 R381 (the model's own) | 0 -/
  bootAt : Nat
  /-- HL_BOOT.COPY | 1 | 17 R510 | 0 -/
  copy : Bool
  /-- HL_BOOT.RECOVERY | 1 | 17 R510 | 0 -/
  recovery : Bool
  /-- HL_BOOT.MASTER_CONFLICT | 1 | 17 R510 | 0 -/
  conflict : Bool
  /-- HL_BOOT.PHASE | 8 | 17 R510 | 0 -/
  phase : Nat
  /-- HL_BOOT.LATE | 12 | 17 R510 | 0 -/
  late : Nat
  /-- SVN of the running firmware | 16 | 17 R498, R501 | 0 -/
  svn : Nat
  /-- SHA-384 of the running firmware image | 384 | 17 R501 | 0 -/
  fwDigest : BitVec 384
  /-- HL_SURVEY_WINDOW | 16 | 17 R510 | 2,500 -/
  window : Nat
  /-- CAL_STATUS.VALID | 1 | 17 R510 | 0 -/
  calValid : Bool
  /-- CAL_MISSING | 1 | 17 R510 | 0 -/
  calMissing : Bool
  /-- CAL_STATUS.SELF | 6 | 17 R510 | 0 -/
  calSelf : BitVec 6
  /-- the Headland's row writes to other modules that nothing has acknowledged: position, row address, tag | list | 11 R349, 14 R414 | empty -/
  wout : List (Nat × Nat × Nat)
  /-- the Headland's ORDERED messages that wait for such writes: rows, positions and row addresses | list | 11 R349, 14 R414 | empty -/
  held : List (List Row × List (Nat × Nat))
  /-- writes to the host window under way: address, row | list | 17 R488, R490 | empty -/
  toHost : List (Nat × Row)
  /-- register-operation responses and short items for the host | list | 17 R486, R487 | empty -/
  responses : List (BitVec 128)
  /-- row returns for the host: tag, index, row | list | 17 R487 | empty -/
  returns : List (Nat × Nat × Row)
  /-- core-program commands whose copies run: sender, cores still copying, one has failed | list | 10 R316 | empty -/
  progs : List (CmdSrc × BitVec 128 × Bool)
  /-- messages landed in the Headland's command rings and not yet performed | list | 17 R492, R494 | empty -/
  cmds : List (List Row)
  /-- messages of the host and the Headland outstanding in the hub: header and payload | list | 11 R345 | empty -/
  hostMsgs : List (List Row)
  /-- the two-wire command row image | 4,096 | 17 R492 | 0 -/
  smbRow : Row
  /-- the 64-byte reply to the system manager | 512 | 17 R492 | 0 -/
  smbReply : BitVec 512
  /-- the reply as last read over the bus | 512 | 17 R492 | 0 -/
  smbRead : BitVec 512
  /-- the Headland's copies of fault records | list | 10 R327 | empty -/
  faults : List (BitVec 512)
  /-- resets in progress | list | 17 R496, 11 R352 | empty -/
  resets : List ResetRun
  /-- the straps have been sampled | 1 | 18 R515 | 0 -/
  strapped : Bool
  /-- sampled position strap | 16 | 18 R515 | 0xFFFF -/
  strapPos : Nat
  /-- survey: parent port, forwarded | - | 17 R506 | none -/
  parent : Option Nat
  /-- survey: the census is open until this wall ns | - | 17 R506 | none -/
  censusEnd : Option Nat
  /-- survey: reported positions | list | 17 R506 | empty -/
  census : List Nat
  /-- position adopted for by this module as neighbour | 16 | 12 R379 | none -/
  adopted : Option Nat
  /-- training identity carried by ADOPT | 2,048 | 12 R378 | none -/
  adoptId : Option Flit
  /-- positions of the modules whose copies this module hosts | 2 | 15 R446 | empty -/
  hosted : List Nat
  deriving DecidableEq, Repr

/-- Fuses (R4, R499, R500). -/
structure Fuses where
  /-- grade: 0x80 for M128, 0x78 for M120 | 8 | 17 R500, 09 R279 | 0x80 -/
  grade : Nat
  /-- fused-off position of each die, 0xFF for none | 8 x 8 | 17 R510 | 0xFF -/
  map : Vector Nat 8
  /-- rollback fuses blown | 8 | 17 R499 | 0 -/
  rollback : Nat
  /-- trust-anchor variant | 1 | 17 R500 | 0 -/
  variant : Bool
  /-- anchor hashes, RSA and SLH-DSA | 2 x 384 | 17 R500 | 0 -/
  anchorRsa : BitVec 384
  /-- SLH-DSA anchor hash | 384 | 17 R500 | 0 -/
  anchorSlh : BitVec 384
  deriving DecidableEq, Repr

/-- The hub die. -/
structure Hub where
  /-- wall time in ns | - | 00 R7 (the model's own clock) | 0 -/
  ns : Nat
  /-- step advances | 8 | 08 R277 | 0 -/
  adv : Vector AdvCtx 8
  /-- TLR_PRIV_REJECT | 32 | 08 R277 | 0 -/
  privReject : Nat
  /-- image loads | 8 | 09 R307 | 0 -/
  loads : Vector LoadCtx 8
  /-- LNK_POSITION | 16 | 12 R387 | 0xFFFF -/
  position : Nat
  /-- LNK_TORUS | 32 | 12 R387 | 0 -/
  torus : Word
  /-- route table entries that differ from the reset value: position, entry | 65,536 x 8 | 12 R372 | 0x0F each -/
  routes : List (Nat × Nat)
  /-- always-on cycle of the last route writes, and the entries that they replaced: position, entry | list | 12 R374, R385 (the model's own)
  | none -/
  route0 : Nat × List (Nat × Nat)
  tb : Tb
  ls : Ls
  /-- weights | 8 | 14 R429 | EMPTY -/
  wgt : Vector WgtCtx 8
  /-- re-check interval in s | 16 | 14 R429 | 600 -/
  recheckInt : Nat
  /-- re-checks enabled | 1 | 14 R429 | 1 -/
  recheckEn : Bool
  /-- failed re-checks | 16 | 14 R429 | 0 -/
  recheckFail : Nat
  /-- late re-checks | 16 | 14 R429 | 0 -/
  recheckLate : Nat
  /-- WGT_WINDOW in ms | 16 | 14 R429 | 20 -/
  wgtWindow : Nat
  /-- WGT_DISCARD_CNT | 32 | 14 R429 | 0 -/
  wgtDiscard : Nat
  /-- digest queues of the eight groups | 8 lists | 14 R417 | empty -/
  digQ : Vector (List DigJob) 8
  /-- digest engines, engine e of group d at 4 d + e | 32 | 14 R417 | idle -/
  digEng : Vector (Option DigJob) 32
  /-- snapshots and journals | 8 | 15 R457, R459 | 0 -/
  snp : Vector SnpCtx 8
  /-- SNP_FAILRATE | 32 | 15 R458 | 0 -/
  failRate : Nat
  /-- SNP_FEED.MAIN | 8 | 15 R458 | strap 0xFF -/
  feedMain : Nat
  /-- SNP_FEED.BACKUP | 8 | 15 R458 | strap 0xFF -/
  feedBkp : Nat
  /-- SNP_RISK.LEVEL | 2 | 15 R458 | 0 -/
  riskLevel : Nat
  /-- SNP_RISK.WARN | 4 | 15 R458 | 0 -/
  riskWarn : Nat
  /-- SNP_RISK.ALARM | 4 | 15 R458 | 0 -/
  riskAlarm : Nat
  /-- SNP_RISK_TH: warn, alarm | 4 x 32 | 15 R448, R458 | R448's defaults -/
  riskTh : Vector (Nat × Nat) 4
  /-- input readings counted since the last evaluation: corrected errors, retries, droops | 3 | 15 R448 | 0 -/
  riskIn : Nat × Nat × Nat
  /-- wall ns of the last evaluation | - | 15 R448 | 0 -/
  riskAt : Nat
  /-- snapshots abandoned | 16 | 15 R458 | 0 -/
  abandoned : Nat
  /-- page programs repeated | 16 | 15 R458 | 0 -/
  pageFail : Nat
  /-- spare blocks left in the store | - | 15 R444 | 1,024 -/
  spares : Nat
  /-- snapshot store bytes, by 4,096 page + byte | 1.25 TiB | 15 R440 | zero -/
  store : List Host.Cell
  /-- firmware copies A and B: header and image rows, with the commit page present | 2 | 17 R497 | none -/
  firmware : Vector (List Row × Bool) 2
  /-- calibration set rows, with the commit page present | - | 17 R502 | none -/
  cal : List Row × Bool
  /-- rows of the calibration set whose values are in use | - | 17 R503 | none -/
  calUsed : List Row
  /-- an imported set waits for the next module reset | 1 | 17 R503 | 0 -/
  calNew : Bool
  pwr : Pwr
  hl : Hl
  fuses : Fuses
  /-- bits of the hub's and the dies' registers that hardware set in the nanosecond named first: address, mask | list | 00 R12 (the
  model's own) | none -/
  hwSet : Nat × List (Nat × Nat)
  /-- high words latched by reads of low words, by the low word's address | 32 each | 02 R80 (R56's low-word latch) | none -/
  latches : List (Nat × Word)
  deriving DecidableEq, Repr

/-- The module. -/
structure State where
  /-- commands waiting, first in first out | list | this model's block form | empty -/
  pending : List Instr
  /-- core positions | 128 | 00 R5 | reset -/
  cores : Vector Core 128
  /-- compute dies | 8 | 01 R14 | reset -/
  dies : Vector Die 8
  /-- link ports | 28 | 01 R15 | reset -/
  ports : Vector Port 28
  hub : Hub
  /-- Plot, Commons and deep memory by module byte address | 860 GiB space | 03 R124 | nothing listed -/
  mem : List Host.Cell
  /-- items under way in the module | list | 11, 12 R363, R364 | empty -/
  net : List Item
  /-- index of the next free value | - | the MODEL's own field (Config.free...) | 0 -/
  free : Nat
  deriving DecidableEq, Repr

/-! ### Reset values -/

def ErrReg.reset (log2 : Nat) : ErrReg :=
  { ce := 0, ue := 0, late := 0, addr := 0, scrubEn := true, scrubLog2 := log2 }

def Sched.reset : Sched :=
  { run := .idle, cause := .none, which := 0, schedCyc := 0, stallCyc := 0, stripCyc := 0, stripStall := 0, stripId := 0,
    stallTag := 0, wdog := 24, held := 0, cls := 0, lent := false, request := 0, ctxCfg := 0, commit := false,
    stkMap := Vector.replicate 48 0, stk := Vector.replicate 48 0, stk0 := Vector.replicate 48 0,
    hq := Vector.replicate 8 [], hq0 := Vector.replicate 8 0, hqp := Vector.replicate 8 0, dlMiss := 0, lends := 0, stkOvf := false, hazard := false,
    check := 0, staging := none, staged := none, launch := none, strip := none, launchPoint := 0, dlPosted := false,
    qpos := Vector.replicate 4 ⟨0, 0, 0⟩, flights := [], stall := none, heldArr := [], pushed := [], wall := 0, origin := 0, hwSet := (0, []), swSet := (0, []),
    ended := none, draw := 0, launches := 0, stopping := false }

def Mem1.reset : Mem1 :=
  { handles := Vector.replicate 64 0, lastNamed := Vector.replicate 64 0, owned := Vector.replicate 64 0, hop := [],
    land := [], cmnIn := [], err := ErrReg.reset 16, scrub := [], scrubNext := Vector.replicate 16 (0, 0), landedAt := (0, []), used7 := (0, []),
    free7 := Vector.replicate 16 0, late6 := (0, []), was := (0, []) }

def SumSlot.reset : SumSlot := { value := 0, valid := false, mism := false, kind := 0, seq := 0, tag := 0 }

def Eng.reset : Eng :=
  { acc := Vector.replicate 2 [], set := false, plg := [], plgActive := none, plgAu := 0, plgArrays := 0, plgFold := 0, plgTag := 0,
    plgInst := 0, plgFeed := 0, plgFiller := 0, plgRamps := 0, plgSat := 0, plgNonfin := 0, hrw := [], bload := [],
    bbuf := [], hrwStages := 0, hrwChain := 0, hrwTag := 0, hrwBeats := 0, hrwSat := 0, hrwNonfin := 0,
    sums := Vector.replicate 8 SumSlot.reset, sums0 := Vector.replicate 8 SumSlot.reset, sumsAt := none, sumLatch := Vector.replicate 8 none, tlr := [], root := [], tlrMode := 0,
    tlrGroupBad := false, tlrHeaderBad := false, tlrRootFail := false, tlrNonfinSt := false, tlrTag := 0, tlrRows := 0,
    tlrNonfin := 0, tlrSat := 0, tlrDup := 0, tlrHorizon := 0, tlrOk := 0, tlrFail := 0, tlrCfg := 0x3F3F3F3F#32,
    xfers := [], nextId := 0, nextReq := 0, streams := Vector.replicate 8 0, cmn := [], late := [], writes := [],
    seeds := Vector.replicate 4 0, drlKey := Vector.replicate 2 0, drlCtr := Vector.replicate 4 0, drlBusy := none,
    drlDone := false, drlOut := Vector.replicate 4 0, drlFail := false, drlTested := false,
    fold := Vector.replicate 4 0, foldTag := Vector.replicate 4 0, stripOrd := 0, foldEpoch := 0, foldFinal := false,
    foldFault := false }

def ImgSlot.reset : ImgSlot := { base := 0, rows := 0, accepted := false, locked := false, ctx := 0, headers := [] }

def Ring.reset : Ring :=
  { base := 0, size := 0, raw := (0, 0), slot := 0, spillBase := 0, spillSize := 0, stk := 0, stkEn := false, state := .closed, epoch := 0,
    wptr := 0, resv := 0, rptr := 0, msgs := [], spill := [], spillResv := 0, spillRptr := 0, hold := [], landed := [], rptr0 := none,
    openAt := none, grantAt := none, passAt := none, headAt := (0, 0) }

def Cc.reset : Cc :=
  { regs := Vector.replicate 32 0, pc := 0, mcycle := 0, minstret := 0, mcause := 0, mepc := 0, mtval := 0, imem := [],
    dmem := [], win := 0, winOp := none, run := .halted, trapped := false, winUe := false, startPc := 0, tag := 0,
    events := 0, evAt := Vector.replicate 6 0, trap := (0, 0, 0), hdlEn := 0, hdlPrio := 0, hdlActive := false, hdlRing := 0, hdlClass := 0, hdlCnt := 0,
    dptr := Vector.replicate 16 0, hdlTable := Vector.replicate 256 0, popAt := none, wfePc := 0, wfeMask := 0, wfeRd := 0, readyAt := 0,
    ring := [], lost := 0, lostBefore := false, seq := 0, progOk := false, progDigest := 0, progCopy := none,
    halloc := none, img := Vector.replicate 4 ImgSlot.reset, traceCfg := 0, traceMatch := 0, traceMask := 0, traceBase := 0,
    traceRows := 0, traceWptr := 0, traceDrop := 0, traceBuf := [], rings := Vector.replicate 16 Ring.reset,
    msgSeq := Vector.replicate 4 0, sends := [], ending := [], sendRead := none, bounceCnt := 0, rxBounce := 0,
    spillCnt := 0, holdCnt := 0, reqCslot := 0, reqSlot := 0, reqDone := false, reqLatched := 0, reqResult := 0,
    resetting := false }

def Core.reset : Core :=
  { sc := Sched.reset, m := Mem1.reset, e := Eng.reset, cc := Cc.reset, gate := .powerGated, gatedAt := 0, gateCmd := false }

def Die.reset : Die :=
  { pool := 0, reqs := [], debug := false, ctxGroups := Vector.replicate 8 0, fixed := 0, groupState := Vector.replicate 16 0,
    extents := [], ovr := 0, pageBase := Vector.replicate 8 0, pageRows := Vector.replicate 8 0, backing := [],
    pageOuts := [], pageIns := [], allocQ := [], gates := [], cmnErr := ErrReg.reset 16, dmErr := ErrReg.reset 12,
    dmStatus := 0, scrub := [], scrubNext := [], schedMask := 0, descs := [], schedBusy := false, schedCtx := 0, schedCount := 0,
    tabCur := [], tabPrev := [], tabNext := [], stepCur := 7, stepTarget := 7, changing := false, stopped := none,
    lastWake := none, wakeQ := [], pgLog2 := 16, wakes := 0, steps := 0, creditMw := Vector.replicate 8 0, tj := 0,
    tjMax := 0, thermal := 0, coolSince := none, inputLim := 0 }

def Port.reset : Port :=
  { state := .down, credit := 0, replay := [], resend := 0, nakOut := false, nakDue := false, naks := (0, 0), fseq := 0,
    rseq := 4095, slot := 0, out := Vector.replicate 3 [], seqs := [], resentTo := none, freed := 0, sinceTs := 0, echo := none, tsSent := none, rxMsg := [], halves := [],
    wire := none, enable := false, manualEq := false, peerPos := 0xFFFF, peerPort := 0, flight := 0, corr := 0, uncorr := 0,
    retry := 0, fails := 0, eq := 0, tsDelay := 0, lastLead := 0, lastBeat := 0, ident := none }

def AdvCtx.reset : AdvCtx :=
  { step := 0, pending := none, evald := false, privVal := Vector.replicate 16 0, privStep := Vector.replicate 16 0,
    armed := Vector.replicate 16 none }

def LoadCtx.reset : LoadCtx :=
  { state := 0, code := 0, where_ := 0, digest := 0, busy := none, locks := [], regions := [], accepted := 0,
    stepMask := 0xFF, coupled := [], mode := 0, quahamId := 0 }

def WLoad.reset : WLoad :=
  { state := .empty, regions := [], cmd := none, inPlace := false, shards := [], copied := [], forwarded := [],
    toForward := [], toRelease := [], src := none, digest := 0 }

def WgtCtx.reset : WgtCtx :=
  { active := 0, slots := Vector.replicate 2 WLoad.reset, quarantine := false, refs := Vector.replicate 2 0, loadState := 0,
    loadCode := 0, loading := none, refetching := false, turn0 := none, loadId := 0, retryPred := 0, retryHost := 0, turns := 0, keyRsa := 0, keySlh := 0 }

def SnpCtx.reset : SnpCtx :=
  { en := false, level := false, phase := 1, state := 0, slot := 0, window := none, restored := false, gradeChanged := false,
    worn := false, correlated := false, seq := 0, lastSeq := 0, committed := false, bmin := 0, interval := 0,
    pace := 0, partner := 0xFFFF, partnerEn := false, partnerRes := 0, partner2 := 0xFFFF, partner2En := false,
    partner2Res := 0, rtabCnt := 0, rtab := 0, areaBase := 0, areaSize := 0, snp := none, lastStart := 0, again := none, rst := none,
    jBase := 0, jRows := 0, jEntries := 0, jMirrorPos := 0xFFFF, jMirrorBase := 0, jBusy := none, jHeld := none,
    jMirrorBad := false, jStep := 0, jSeq := 0, jWaits := 0 }

def Tb.reset : Tb :=
  { count := 0, master := false, extRef := false, upPri := 0, upBak := 0, bakEn := false, locked := false, refLost := false,
    holdover := false, onBackup := false, alarms := 0, offset := 0, adj := 0, rho := 0, set := 0, lastGood := 0,
    launched := false, wasSet := false }

def Ls.reset : Ls :=
  { enable := false, stop := false, ring := 0, peer := 0xFFFF, configOk := false, gap := false, diverged := false, divCnt := 0,
    gapCnt := 0, matched := 0, waiting := [], arrived := [], locals := [], peers := [], lastL := [], lastP := [], msgs := 0, configDue := false }

def Pwr.reset : Pwr :=
  { level := false, profile := 0, spread := false, spreadOn := false, refsel := false, budget := 900, overhead := 0,
    input := 0, budgetLow := false, overLimit := false, expRefused := false, extMissing := false, trip := none, throttle := 95,
    hyst := 5, crit := 110, prefer := false, returnMs := 100, mainOk := false, backupOk := false, onBackup := false,
    fail := none, vin := 0, switches := 0, droops := 0, mainSince := none, backupSince := none, outSince := none,
    mateOpen := false, railsUp := true, hubUp := true, alwaysOn := true, expStep := Vector.replicate 8 0,
    expPool := Vector.replicate 8 0, otherTj := Vector.replicate 5 0, lowSince := none }

def Hl.reset : Hl :=
  { malob := .down, fltLost := 0, inBase := 0, inRows := 0, inWptr := 0, inRptr := 0, inQ := [], fltBase := 0, fltRows := 0,
    fltRptr := 0, fltWptr := 0, fltMask := 0, seq := 0, hlSeq := 0, attn := 0, attnMask := 0xFF, bootDone := false, bootAt := 0,
    copy := false, recovery := false, conflict := false, phase := 0, late := 0, svn := 0, fwDigest := 0, window := 2500,
    calValid := false, calMissing := false, calSelf := 0, wout := [], held := [], toHost := [], responses := [], returns := [], progs := [], cmds := [], hostMsgs := [],
    smbRow := 0, smbReply := 0, smbRead := 0, faults := [], resets := [], strapped := false, strapPos := 0xFFFF, parent := none,
    censusEnd := none, census := [], adopted := none, adoptId := none, hosted := [] }

def Fuses.reset : Fuses :=
  { grade := 0x80, map := Vector.replicate 8 0xFF, rollback := 0, variant := false, anchorRsa := 0, anchorSlh := 0 }

def Hub.reset : Hub :=
  { ns := 0, adv := Vector.replicate 8 AdvCtx.reset, privReject := 0, loads := Vector.replicate 8 LoadCtx.reset,
    position := 0xFFFF, torus := 0, routes := [], route0 := (0, []), tb := Tb.reset, ls := Ls.reset, wgt := Vector.replicate 8 WgtCtx.reset,
    recheckInt := 600, recheckEn := true, recheckFail := 0, recheckLate := 0, wgtWindow := 20, wgtDiscard := 0,
    digQ := Vector.replicate 8 [], digEng := Vector.replicate 32 none, snp := Vector.replicate 8 SnpCtx.reset, failRate := 0,
    feedMain := 0xFF, feedBkp := 0xFF, riskLevel := 0, riskWarn := 0, riskAlarm := 0,
    riskTh := #v[(1000, 10000), (100, 1000), (10, 5), (1, 10)], riskIn := (0, 0, 0), riskAt := 0, abandoned := 0, pageFail := 0,
    spares := 1024, store := [], firmware := Vector.replicate 2 ([], false), cal := ([], false), calUsed := [], calNew := false, pwr := Pwr.reset,
    hl := Hl.reset, fuses := Fuses.reset, hwSet := (0, []), latches := [] }

/-- The module right after a cold reset: every field at the value its docstring names. -/
def State.reset : State :=
  { pending := [], cores := Vector.replicate 128 Core.reset, dies := Vector.replicate 8 Die.reset,
    ports := Vector.replicate 28 Port.reset, hub := Hub.reset, mem := [], net := [], free := 0 }

end Sys2Proof.Machine
end

