-- ==== Sys2Proof/Machine/Ops.lean ====
section
/-! DEFINITION. The named operations over the block's state that every family shares: access to a core, die, port and the hub;
rows of the addressed memory (R82 to R84, R124); error counters (R118, R126 to R129); fault records (R325 to R328); trace
records (R300); stakes, handle queues and arrivals (R42 to R44, R57 to R60); the image locks (R303). -/

namespace Sys2Proof.Machine

open Sys2Proof

/-- A meaning's answer: the next state. -/
abbrev Answer := Host.Outcome State Fault Refusal

/-! ### Access to parts of the state -/

/-- Element `i` of a vector, `d` outside it. -/
def vget {α : Type} {n : Nat} (v : Vector α n) (d : α) (i : Nat) : α := v.toArray.getD i d

/-- The vector with element `i` replaced; unchanged outside it. -/
def vset {α : Type} {n : Nat} (v : Vector α n) (i : Nat) (x : α) : Vector α n := v.setIfInBounds i x

def State.core (s : State) (c : CoreId) : Core := s.cores.get c
def State.die (s : State) (d : DieId) : Die := s.dies.get d
def State.port (s : State) (p : PortId) : Port := s.ports.get p

def State.setCore (s : State) (c : CoreId) (k : Core) : State := { s with cores := s.cores.set c.val k c.isLt }
def State.setDie (s : State) (d : DieId) (k : Die) : State := { s with dies := s.dies.set d.val k d.isLt }
def State.setPort (s : State) (p : PortId) (k : Port) : State := { s with ports := s.ports.set p.val k p.isLt }

def State.onCore (s : State) (c : CoreId) (f : Core → Core) : State := s.setCore c (f (s.core c))
def State.onSc (s : State) (c : CoreId) (f : Sched → Sched) : State := s.onCore c fun k => { k with sc := f k.sc }
def State.onM (s : State) (c : CoreId) (f : Mem1 → Mem1) : State := s.onCore c fun k => { k with m := f k.m }
def State.onE (s : State) (c : CoreId) (f : Eng → Eng) : State := s.onCore c fun k => { k with e := f k.e }
def State.onCc (s : State) (c : CoreId) (f : Cc → Cc) : State := s.onCore c fun k => { k with cc := f k.cc }
def State.onDie (s : State) (d : DieId) (f : Die → Die) : State := s.setDie d (f (s.die d))
def State.onPort (s : State) (p : PortId) (f : Port → Port) : State := s.setPort p (f (s.port p))
def State.onHub (s : State) (f : Hub → Hub) : State := { s with hub := f s.hub }
def State.onHl (s : State) (f : Hl → Hl) : State := s.onHub fun h => { h with hl := f h.hl }
def State.onPwr (s : State) (f : Pwr → Pwr) : State := s.onHub fun h => { h with pwr := f h.pwr }
def State.onTb (s : State) (f : Tb → Tb) : State := s.onHub fun h => { h with tb := f h.tb }
def State.onLs (s : State) (f : Ls → Ls) : State := s.onHub fun h => { h with ls := f h.ls }

/-- The schedule part of a core. -/
def State.sc (s : State) (c : CoreId) : Sched := (s.core c).sc
/-- The memory part of a core. -/
def State.cm (s : State) (c : CoreId) : Mem1 := (s.core c).m
/-- The engines of a core. -/
def State.en (s : State) (c : CoreId) : Eng := (s.core c).e
/-- The control core of a core. -/
def State.cc (s : State) (c : CoreId) : Cc := (s.core c).cc

/-- Core position from its number (R5). -/
def posOf (c : CoreId) : Nat := c.val % 16
/-- Compute die from a core number (R5). -/
def dieOf (c : CoreId) : DieId := ⟨c.val / 16, by omega⟩
/-- Core number `n`, core 0 where there is none. -/
def coreNo (n : Nat) : CoreId := Fin.ofNat 128 n
/-- The cores of die `d`, in increasing position. -/
def coresOf (d : DieId) : List CoreId := (List.range 16).map fun p => coreNo (16 * d.val + p)
/-- All core positions. -/
def allCores : List CoreId := List.finRange 128
/-- All compute dies. -/
def allDies : List DieId := List.finRange 8
/-- All link ports. -/
def allPorts : List PortId := List.finRange 28

/-- Fold a state change over a list. -/
def forAll {α : Type} (xs : List α) (f : α → State → State) (s : State) : State := xs.foldl (fun t x => f x t) s

/-- A position is fused off (R6, R4). -/
def fusedOff (s : State) (c : CoreId) : Bool := vget s.hub.fuses.map 0xFF (dieOf c).val == posOf c

/-- The furrow cycles of one die-reference cycle at the die's step (R462). -/
def stepK (s : State) (d : DieId) : Nat := 8 - (s.die d).stepCur

/-- The ring distance between two dies (R17, R95). -/
def ringDist (a b : Nat) : Nat :=
  let d := (a + 8 - b) % 8
  if d ≤ 4 then d else 8 - d

/-- The dies on the fixed path from die `a` to die `b`, ends included (R17). -/
def ringPath (a b : Nat) : List Nat :=
  let up := (b + 8 - a) % 8
  if up ≤ 4 then (List.range (up + 1)).map fun i => (a + i) % 8
  else (List.range (9 - up)).map fun i => (a + 8 - i) % 8

/-- The time base now, in ns (R380). -/
def tbNow (s : State) : Nat := (s.hub.tb.count / 2 ^ 32) % 2 ^ 64

/-! ### Addressed memory (R82 to R84, R124) -/

/-- What an unlisted address reads as (log entry 5). -/
def memDefault : Byte := 0

/-- The byte at `a`. -/
def cellGet (m : List Host.Cell) (a : Nat) : Byte :=
  match m.find? (fun x => x.1 == a) with
  | some x => x.2
  | none => memDefault

/-- The cells of `m` at `a` .. `a + n - 1`. -/
def cellsIn (m : List Host.Cell) (a n : Nat) : List Host.Cell := m.filter fun x => a ≤ x.1 && x.1 < a + n

/-- The `n` bytes from `a` on, as a little-endian number. -/
def readCells (m : List Host.Cell) (a n : Nat) : Nat :=
  (cellsIn m a n).foldl (fun acc x => acc + x.2.toNat * 2 ^ (8 * (x.1 - a))) 0

/-- The listed cells of bytes `bs` from `a` on. -/
def newCells (a : Nat) : List Byte → List Host.Cell
  | [] => []
  | b :: bs => if b == memDefault then newCells (a + 1) bs else (a, b) :: newCells (a + 1) bs

/-- Memory after the bytes `bs` are written from `a` on. -/
def writeCells (m : List Host.Cell) (a : Nat) (bs : List Byte) : List Host.Cell :=
  m.filter (fun x => x.1 < a) ++ newCells a bs ++ m.filter (fun x => a + bs.length ≤ x.1)

/-- Memory with `n` bytes from `a` on zeroed. -/
def clearCells (m : List Host.Cell) (a n : Nat) : List Host.Cell := m.filter fun x => x.1 < a || a + n ≤ x.1

/-- Strictly rising addresses, from `lo` on, with no cell at the default value. -/
def cellsOk (lo : Nat) : List Host.Cell → Bool
  | [] => true
  | x :: xs => lo ≤ x.1 && x.2 != memDefault && cellsOk (x.1 + 1) xs

/-- The canonical form of a memory. -/
def Memory.wf (m : List Host.Cell) : Bool := cellsOk 0 m

/-- The row at byte address `a`. -/
def readRowAt (m : List Host.Cell) (a : Nat) : Row := BitVec.ofNat 4096 (readCells m a 512)
/-- Memory with the row at byte address `a` written whole (R84). -/
def writeRowAt (m : List Host.Cell) (a : Nat) (r : Row) : List Host.Cell := writeCells m a r.bytes

/-- Where a module address lies (R124). -/
inductive Place where
  | plot (c : CoreId) (row : Nat)
  | commons (d : DieId) (row : Nat)
  | deep (d : DieId) (row : Nat)
  | control
  | window
  | unpopulated
  deriving DecidableEq, Repr

def plotAddr (c : CoreId) (row : Nat) : Nat := c.val * 0x1000000 + row * 0x200
def cmnAddr (d : DieId) (row : Nat) : Nat := 0x100000000 + d.val * 0x80000000 + row * 0x200
def deepAddr (d : DieId) (row : Nat) : Nat := 0x1000000000 + d.val * 0x300000000 + row * 0x200

/-- The place of the row that holds module byte address `a` (R124; the low nine bits are ignored, R83). -/
def placeOf (a : Nat) : Place :=
  if a < 0x80000000 then
    if a % 0x1000000 / 0x200 < 12288 then .plot (Fin.ofNat 128 (a / 0x1000000)) (a % 0x1000000 / 0x200) else .unpopulated
  else if a < 0x100000000 then .unpopulated
  else if a < 0x500000000 then
    .commons (Fin.ofNat 8 ((a - 0x100000000) / 0x80000000)) ((a - 0x100000000) % 0x80000000 / 0x200)
  else if a < 0x1000000000 then .unpopulated
  else if a < 0x2800000000 then
    if (a - 0x1000000000) % 0x300000000 / 0x200 < 23592960 then
      .deep (Fin.ofNat 8 ((a - 0x1000000000) / 0x300000000)) ((a - 0x1000000000) % 0x300000000 / 0x200)
    else .unpopulated
  else if a < 0xF000000000 then .unpopulated
  else if a < 0xF100000000 then .control
  else if a < 0x10000000000 then .unpopulated
  else if a < 0x1000000000000 then .window
  else .unpopulated

/-- The row holds storage. -/
def populated (a : Nat) : Bool :=
  match placeOf a with
  | .plot _ _ | .commons _ _ | .deep _ _ => true
  | .control | .window | .unpopulated => false

/-- The byte address of byte 0 of the row that holds `a`. -/
def rowBase (a : Nat) : Nat := a / 512 * 512

/-- The row at module address `a`: zeros where there is no row (R107, R126). -/
def readRow (s : State) (a : Nat) : Row := if populated a then readRowAt s.mem (rowBase a) else 0

/-- A write to a row drops the scrub write-backs that wait for it (R120). -/
def dropScrub (s : State) (a : Nat) : State :=
  match placeOf a with
  | .plot c r => if (s.cm c).scrub.isEmpty then s
      else s.onM c fun m => { m with scrub := m.scrub.filter fun x => x.2.1 != r }
  | .commons d r => if (s.die d).scrub.isEmpty then s
      else s.onDie d fun k => { k with scrub := k.scrub.filter fun x => !(x.1 < 256 && x.2.1 == r) }
  | .deep d r => if (s.die d).scrub.isEmpty then s
      else s.onDie d fun k => { k with scrub := k.scrub.filter fun x => !(256 ≤ x.1 && x.2.1 == r) }
  | .control | .window | .unpopulated => s

/-- The row at module address `a` is written whole; an unpopulated row discards it. -/
def writeRow (s : State) (a : Nat) (r : Row) : State :=
  if populated a then dropScrub { s with mem := writeRowAt s.mem (rowBase a) r } a else s

/-- Rows `a`, `a + 1`, ... (byte address of the first) read in order. -/
def readRows (s : State) (a n : Nat) : List Row := (List.range n).map fun i => readRow s (a + 512 * i)

/-- Rows written in order from `a` on. -/
def writeRows (s : State) (a : Nat) : List Row → State
  | [] => s
  | r :: rs => writeRows (writeRow s a r) (a + 512) rs

/-- The bank group of a Commons row (R93). -/
def groupOf (row : Nat) : Nat := row / 2 ^ 18
/-- The bank of a Commons row (R93). -/
def bankOf (row : Nat) : Nat := 16 * groupOf row + row % 16

/-- The row lies in a locked image region (R303): of an accepted image or of a load in progress. -/
def lockedRow (s : State) (a : Nat) : Bool :=
  match placeOf a with
  | .plot c r =>
      ((s.cc c).img.toList.any fun i => i.locked && i.base ≤ r && r < i.base + i.rows) ||
      (s.hub.loads.toList.any fun l => l.locks.any fun x => x.1 == c.val && x.2.1 ≤ r && r < x.2.1 + x.2.2)
  | .commons _ _ | .deep _ _ | .control | .window | .unpopulated => false

/-! ### Error counters (R118, R126 to R129) -/

/-- The address record of an error: is it uncorrectable? (PLT bit 18, CMN bit 26, DM bit 27). -/
def keepUe (e : ErrReg) (ueBit : Nat) : Bool := e.addr.getLsbD 31 && e.addr.getLsbD ueBit

/-- Count a corrected or an uncorrectable error in an error register (R118, R127 to R129): an uncorrectable record is never
overwritten by a corrected one. -/
def ErrReg.note (e : ErrReg) (ueBit : Nat) (base : Nat) (ecc : Ecc) (cwBit : Nat) : ErrReg :=
  match ecc with
  | .clean => e
  | .corrected cw =>
      { e with ce := satAdd 0xFFFF e.ce 1,
               addr := if keepUe e ueBit then e.addr else BitVec.ofNat 32 (2 ^ 31 + base + cw * 2 ^ cwBit) }
  | .bad cw =>
      { e with ue := satAdd 0xFF e.ue 1, addr := BitVec.ofNat 32 (2 ^ 31 + base + cw * 2 ^ cwBit + 2 ^ ueBit) }
  | .wrong _ none => e
  | .wrong _ (some cw) =>
      { e with ce := satAdd 0xFFFF e.ce 1,
               addr := if keepUe e ueBit then e.addr else BitVec.ofNat 32 (2 ^ 31 + base + cw * 2 ^ cwBit) }

/-- The codeword number of an error, held below `n` codewords. -/
def eccWithin (n : Nat) : Ecc → Ecc
  | .clean => .clean
  | .corrected w => .corrected (w % n)
  | .bad w => .bad (w % n)
  | .wrong f w => .wrong f (w.map (· % n))

/-- The row that a read delivers (R116 to R118): corrected errors leave no trace in it, and errors beyond the guarantees of the code may
deliver wrong bits. -/
def eccRow (e : Ecc) (r : Row) : Row :=
  match e with
  | .wrong f _ => r ^^^ f
  | .clean | .corrected _ | .bad _ => r

/-- What a step's read number `k` finds. -/
def errAt (err : ReadErr) (k : Nat) : Ecc :=
  match err.find? (fun x => x.1 == k) with
  | some x => x.2
  | none => .clean

/-- Corrected errors feed the failure risk (R448). -/
def noteRisk (s : State) (ecc : Ecc) : State :=
  match ecc with
  | .corrected _ | .wrong _ (some _) => s.onHub fun h => { h with riskIn := (h.riskIn.1 + 1, h.riskIn.2.1, h.riskIn.2.2) }
  | .clean | .bad _ | .wrong _ none => s

/-! ### Writes and hardware events of one cycle (R12) -/

/-- The control-core cycle of a core's present wall cycle (R309): four furrow cycles, counted from the core's reset. -/
def ccCyc (sc : Sched) : Nat := (sc.wall - sc.origin) / 4

/-- Hardware sets bits `mask` of the core-block register at `off`. -/
def setBit (off mask : Nat) (sc : Sched) : Sched :=
  { sc with hwSet := (ccCyc sc, (off, mask) :: (if sc.hwSet.1 == ccCyc sc then sc.hwSet.2 else [])) }

/-- Hardware has set bit `i` of the core-block register at `off` in the present control-core cycle. -/
def bitSet (sc : Sched) (off i : Nat) : Bool :=
  sc.hwSet.1 == ccCyc sc && sc.hwSet.2.any fun x => x.1 == off && x.2.testBit i

/-- Hardware sets bits `mask` of the hub or die register at module address `a`. -/
def hubSetBit (a mask : Nat) (s : State) : State :=
  s.onHub fun h => { h with hwSet := (h.ns, (a, mask) :: (if h.hwSet.1 == h.ns then h.hwSet.2 else [])) }

/-- Hardware has set bit `i` of the hub or die register at `a` in the present nanosecond. -/
def hubBitSet (s : State) (a i : Nat) : Bool :=
  s.hub.hwSet.1 == s.hub.ns && s.hub.hwSet.2.any fun x => x.1 == a && x.2.testBit i

/-- Module address of offset `off` of the die block of `d` (R125). -/
def dieBlock (d : DieId) (off : Nat) : Nat := 0xF001000000 + d.val * 0x100000 + off
/-- Module address of offset `off` of the hub block (R125). -/
def hubBlock (off : Nat) : Nat := 0xF080000000 + off

/-- The row read at module address `a` meets `ecc`: the tier's registers record it (R118). -/
def noteEcc (s : State) (a : Nat) (ecc : Ecc) : State :=
  match ecc with
  | .clean | .wrong _ none => s
  | e =>
    let s := noteRisk s e
    match placeOf a with
    | .plot c r => (s.onM c fun m => { m with err := m.err.note 18 r (eccWithin 16 e) 14 }).onSc c (setBit 0x808 (2 ^ 31))
    | .commons d r => hubSetBit (dieBlock d 0x288) (2 ^ 31) (s.onDie d fun k => { k with cmnErr := k.cmnErr.note 26 r (eccWithin 16 e) 22 })
    | .deep d r => hubSetBit (dieBlock d 0x40C) (2 ^ 31) (s.onDie d fun k => { k with dmErr := k.dmErr.note 27 r (eccWithin 4 e) 25 })
    | .control | .window | .unpopulated => s

/-- A hopper row read meets `ecc` (R92, R127: HOPPER is bit 19). -/
def noteHopperEcc (s : State) (c : CoreId) (row : Nat) (ecc : Ecc) : State :=
  match ecc with
  | .clean | .wrong _ none => s
  | e => ((noteRisk s e).onM c fun m => { m with err := m.err.note 18 (row + 2 ^ 19) (eccWithin 16 e) 14 }).onSc c (setBit 0x808 (2 ^ 31))

/-- What the row code makes of errors in the physical bits `errs` of a row (R116): bit p belongs to codeword p mod 16, one error of a
codeword is corrected, two are detected; beyond that the manual defines no outcome. -/
def rowCode (errs : List Nat) : Option Ecc :=
  let n := fun c => (errs.filter fun p => p % 16 == c).length
  let cs := List.range 16
  if cs.all fun c => n c == 0 then some .clean
  else if cs.all fun c => n c ≤ 1 then (cs.find? fun c => n c == 1).map .corrected
  else if cs.all fun c => n c ≤ 2 then (cs.find? fun c => n c == 2).map .bad
  else none

/-- What RS(136,128) makes of errors in the stored bytes `errs` of a deep-memory row (R117): byte b of granule g (272 g + b, check bytes
included) belongs to codeword 2 g + b mod 2, and up to 4 bytes of a codeword are corrected; beyond that no outcome is guaranteed. -/
def deepCode (errs : List Nat) : Option Ecc :=
  let n := fun c => (errs.filter fun b => 2 * (b / 272) + b % 272 % 2 == c).length
  let cs := List.range 4
  if cs.all fun c => n c == 0 then some .clean
  else if cs.all fun c => n c ≤ 4 then (cs.find? fun c => n c != 0).map .corrected
  else none

/-- The read is uncorrectable. -/
def eccBad : Ecc → Bool
  | .bad _ => true
  | .clean | .corrected _ | .wrong _ _ => false

/-- The codeword an ECC outcome names. -/
def eccCw : Ecc → Nat
  | .bad w | .corrected w | .wrong _ (some w) => w
  | .clean | .wrong _ none => 0

/-- The tier code of R326 for a module address: 0 Plot, 2 Commons, 3 deep memory. -/
def tierOf (a : Nat) : Nat :=
  match placeOf a with
  | .plot _ _ => 0
  | .commons _ _ => 2
  | .deep _ _ => 3
  | .control | .window | .unpopulated => 0

/-! ### Trace records (R300) -/

/-- A bit as a number. -/
def b2n (b : Bool) : Nat := if b then 1 else 0

/-- The schedule cycle of a trace record: a strip's end belongs to the last cycle of its LENGTH (R35). -/
def traceCyc (sc : Sched) (kind : Nat) : Nat :=
  match sc.strip with
  | some st => if kind == 6 then min sc.stripCyc (st.hdr.field 0x00C 4 - 1) else sc.stripCyc
  | none => sc.stripCyc

/-- Record a trace event: kinds 0 issue, 1 completion, 2 arrival, 3 stall begin, 4 stall end, 5 launch, 6 strip end, 7 fault. -/
def trace (c : CoreId) (q kind tag : Nat) (s : State) : State :=
  let cc := s.cc c
  let sc := s.sc c
  if cc.traceCfg.getLsbD 0 && cc.traceCfg.getLsbD (1 + kind) &&
      ((BitVec.ofNat 24 tag ^^^ cc.traceMatch) &&& cc.traceMask) == 0 then
    s.onCc c fun k =>
      if k.traceBuf.length < 64 then
        { k with traceBuf := k.traceBuf ++ [BitVec.ofNat 128 (tag % 2 ^ 24 + q % 4 * 2 ^ 24 + kind % 8 * 2 ^ 26 +
            traceCyc sc kind % 2 ^ 32 * 2 ^ 32 + sc.stripId % 2 ^ 32 * 2 ^ 64 + sc.stripStall % 2 ^ 32 * 2 ^ 96)] }
      else { k with traceDrop := satAdd 0xFFFFFFFF k.traceDrop 1 }
  else s

/-- The number of a queue in the order MQ, VQ, UQ, TQ. -/
def qIdx : Queue → Nat
  | .mq => 0 | .vq => 1 | .uq => 2 | .tq => 3

/-! ### Fault records (R325 to R328) -/

/-- What a rule gives for a fault record; the recording core adds the rest. -/
structure Flt where
  cls    : Nat
  source : Nat
  tag    : Nat
  ctx    : Nat
  ended  : Bool := false
  faulted : Bool := false
  row    : Nat := 0            -- bits [47:0] address, [63:48] position
  detail : Nat := 0            -- 24 bytes, byte 0 lowest
  strip  : Option (Nat × Nat) := none   -- STRIP_ID and SCHED_CYC where a rule names them
  deriving DecidableEq, Repr

/-- ROW of a record for a row of this module. -/
def rowField (s : State) (a : Nat) : Nat := rowBase a % 2 ^ 48 + s.hub.position % 2 ^ 16 * 2 ^ 48

/-- The 64 bytes of a fault record (R325). -/
def faultBits (f : Flt) (flags stripId cyc core seq time : Nat) : BitVec 512 :=
  BitVec.ofNat 512 (f.cls % 2 ^ 16 + f.source % 256 * 2 ^ 16 + flags % 256 * 2 ^ 24 + f.tag % 2 ^ 24 * 2 ^ 32 +
    f.ctx % 8 * 2 ^ 56 + stripId % 2 ^ 32 * 2 ^ 64 + cyc % 2 ^ 32 * 2 ^ 96 + f.row % 2 ^ 64 * 2 ^ 128 +
    core % 2 ^ 16 * 2 ^ 192 + seq % 2 ^ 16 * 2 ^ 208 + time % 2 ^ 64 * 2 ^ 256 + f.detail % 2 ^ 192 * 2 ^ 320)

/-- The host fault ring takes a record (R490): 8 records per row, lost when the ring is full. -/
def hostFault (bits : BitVec 512) (s : State) : State :=
  s.onHl fun h =>
    let cap := 8 * h.fltRows
    if cap == 0 || (h.fltWptr + cap - h.fltRptr % cap) % cap == cap - 1 then { h with fltLost := satAdd 0xFFFF h.fltLost 1 }
    else
      let addr := h.fltBase + 512 * (h.fltWptr / 8)
      let old := match h.toHost.reverse.find? (fun x => x.1 == addr) with
        | some x => x.2
        | none => 0
      { h with fltWptr := (h.fltWptr + 1) % cap,
               toHost := h.toHost ++ [(addr, Row.put old (64 * (h.fltWptr % 8)) 64 bits.toNat)] }

/-- Raise a cause of HL_ATTN (R510). -/
def attention (bit : Nat) (s : State) : State :=
  hubSetBit (hubBlock 0xA0030) (2 ^ bit) (s.onHl fun h => { h with attn := h.attn ||| BitVec.ofNat 8 (2 ^ bit) })

/-- The Headland keeps its copy of a record (R327). -/
def keepRecord (bits : BitVec 512) (s : State) : State := attention 0 (s.onHl fun h => { h with faults := h.faults ++ [bits] })

/-- The Headland's copy of a record (R327, R490): kept, and written to the host when its class is in HLK_FLT_MASK. -/
def headlandCopy (cls : Nat) (bits : BitVec 512) (s : State) : State :=
  let s := keepRecord bits s
  if 1 ≤ cls && s.hub.hl.fltMask.getLsbD (cls - 1) then hostFault bits s else s

/-- A record that no core makes: the Headland's (SOURCE as given, CORE 0xFFFF as R403 writes where no core is
concerned, SEQ free; log entry 42). -/
def headlandFault (f : Flt) (s : State) : State :=
  headlandCopy f.cls (faultBits f (b2n f.ended + 2 * b2n f.faulted) (f.strip.getD (0, 0)).1 (f.strip.getD (0, 0)).2 0xFFFF
    (Config.headlandSeq s.hub.hl.faults.length) (tbNow s)) s

/-- Event bit `b` of R319 is set; the cycle in which it came up stays with it. -/
def raiseEvent (b : Nat) (k : Core) : Core :=
  { k with cc := { k.cc with events := k.cc.events ||| BitVec.ofNat 6 (2 ^ b),
                             evAt := if k.cc.events.getLsbD b then k.cc.evAt else vset k.cc.evAt b k.sc.wall },
           sc := setBit 0xE0C (2 ^ b) k.sc }

/-- Core `c` makes a fault record: its ring takes it while it has room (R328), the Headland gets a copy (R327). -/
def postFault (c : CoreId) (f : Flt) (s : State) : State :=
  let sc := s.sc c
  let cc := s.cc c
  let room := cc.ring.length + (if cc.popAt == some sc.wall then 1 else 0) < 32
  let inStall := sc.run == .stalled
  let flags := b2n f.ended + 2 * b2n f.faulted + 4 * b2n (room && cc.lostBefore) + 8 * b2n inStall
  let at_ := f.strip.getD (if sc.strip.isSome then (sc.stripId, sc.stripCyc) else (0, 0))
  let bits := faultBits f flags at_.1 at_.2 c.val cc.seq (tbNow s)
  let s := s.onCc c fun k =>
    if room then { k with ring := k.ring ++ [bits], lostBefore := false, seq := (k.seq + 1) % 2 ^ 16 }
    else { k with lost := satAdd 0xFFFF k.lost 1, lostBefore := true, seq := (k.seq + 1) % 2 ^ 16 }
  let s := if room then s.onCore c (raiseEvent 2) else s
  trace c 0 7 f.tag (headlandCopy f.cls bits s)

/-! ### Contexts of a core (R80) -/

/-- The module context of a core's context slot (CORE_CTX_CFG). -/
def slotCtx (s : State) (c : CoreId) (slot : Nat) : Nat := bitsOf (s.sc c).ctxCfg.toNat (8 + 3 * slot) 3
/-- The slot is valid. -/
def slotValid (s : State) (c : CoreId) (slot : Nat) : Bool := slot < 4 && (s.sc c).ctxCfg.getLsbD (4 + slot)
/-- The slot is in real-time serving mode. -/
def slotRt (s : State) (c : CoreId) (slot : Nat) : Bool := slot < 4 && (s.sc c).ctxCfg.getLsbD (20 + slot)
/-- The valid slot of a core that holds module context `x`. -/
def slotOf (s : State) (c : CoreId) (x : Nat) : Option (Fin 4) :=
  (List.finRange 4).find? fun k => slotValid s c k.val && slotCtx s c k.val == x
/-- The cores that hold context `x`. -/
def ctxCores (s : State) (x : Nat) : List CoreId := allCores.filter fun c => (slotOf s c x).isSome

/-! ### A write by an agent, with the checks of its place (R107, R126, R303) -/

/-- A fault record of class address (R326). `h` is the handle, `logical` the logical row. -/
def addressFault (source tag ctx h cause logical row : Nat) : Flt :=
  { cls := 0x04, source := source, tag := tag, ctx := ctx, row := row,
    detail := h % 256 + cause % 256 * 256 + logical % 2 ^ 32 * 2 ^ 32 }

/-- A record of class image-write (R303). -/
def imageWriteFault (source tag ctx row : Nat) : Flt := { cls := 0x0B, source := source, tag := tag, ctx := ctx, row := row }

/-- Core `c` writes a row: a locked image row and an unpopulated row discard it, with a record to the writer. -/
def coreWrite (c : CoreId) (source tag ctx : Nat) (h logical : Nat) (a : Nat) (r : Row) (s : State) : State :=
  if !populated a then postFault c (addressFault source tag ctx h 0 logical (rowField s a)) s
  else if lockedRow s a then postFault c (imageWriteFault source tag ctx (rowField s a)) s
  else writeRow s a r

/-- Core `c` reads a row: an unpopulated row reads zeros, with a record to the reader. -/
def coreRead (c : CoreId) (source tag ctx : Nat) (h logical : Nat) (a : Nat) (s : State) : Row × State :=
  if populated a then (readRow s a, s)
  else (0, postFault c (addressFault source tag ctx h 0 logical (rowField s a)) s)

/-! ### Stakes and handle queues (R42 to R44, R50, R54, R57 to R60) -/

/-- Does a blocked wait see what it needs in the counts as they stand? Waits on one stake are satisfied together (R43). -/
def wantsMet (sc : Sched) (bs : List Blocked) : Bool :=
  bs.all fun b => match b.want with
    | .stake k _ => (bs.foldl (fun n x => match x.want with
        | .stake k' m => if k' == k then n + m else n
        | .pop _ | .push _ _ => n) 0) ≤ (vget sc.stk 0 k).toNat
    | .pop q => (vget sc.hq [] q).length != 0
    | .push q _ => (vget sc.hq [] q).length < 8

/-- A credit request takes its place: in the order made, same-cycle requests in increasing core position (R68). -/
def insertReq (e : CoreId × Nat × Nat) : List (CoreId × Nat × Nat) → List (CoreId × Nat × Nat)
  | [] => [e]
  | x :: xs => if e.2.2 < x.2.2 || (e.2.2 == x.2.2 && posOf e.1 < posOf x.1) then e :: x :: xs else x :: insertReq e xs

/-- Core `c` requests `n` credits in its present wall cycle: a request that waits grows in its place (R71). -/
def pushReq (c : CoreId) (n : Nat) (s : State) : State :=
  let w := (s.sc c).wall
  let s := s.onDie (dieOf c) fun d =>
    { d with reqs := if d.reqs.any (fun r => r.1 == c) then
        d.reqs.map (fun r => if r.1 == c then (c, r.2.1 + n, r.2.2) else r) else insertReq (c, n, w) d.reqs }
  s.onSc c fun sc => { sc with request := sc.request + n }

/-- An event may have released the stall: the releasing wall cycle is recorded (R54), and a core that has lent credit requests it
back (R72), which is what it then waits for (R49). -/
def checkRelease (c : CoreId) (s : State) : State :=
  match (s.sc c).stall with
  | some st =>
    if st.released.isNone && wantsMet (s.sc c) st.blocked then
      let s := s.onSc c fun sc => { sc with stall := some { st with released := some sc.wall } }
      if st.lent == 0 then s else pushReq c st.lent (s.onSc c fun sc => { sc with cause := .reclaim, which := 0 })
    else s
  | none => s

/-- Fault records of class hazard (R77). -/
def hazardFlt (source tag ctx check row : Nat) : Flt :=
  { cls := 0x02, source := source, tag := tag, ctx := ctx, ended := true, faulted := true, row := row, detail := check }

/-- Add `n` to physical stake `k`, visible from the next cycle (R42, R44). -/
def stakeAdd (sc : Sched) (k n : Nat) : Sched :=
  if k < 48 then
    let v := (vget sc.stk 0 k).toNat + n
    let sc := if 255 < v then setBit 0x03C 2 sc else sc
    { sc with stk := vset sc.stk k (BitVec.ofNat 8 (if v ≤ 255 then v else 255)), stkOvf := sc.stkOvf || 255 < v }
  else sc

/-- An addition made by an arrival, a completion or the control core: it may release a stall (R42, R54). -/
def arriveStake (c : CoreId) (k n : Nat) (s : State) : State := checkRelease c (s.onSc c fun sc => stakeAdd sc k n)

/-- A stake that has just been added to went beyond 255. -/
def stakeOverflows (s : State) (c : CoreId) (k n : Nat) : Bool := k < 48 && 255 < (vget (s.sc c).stk 0 k).toNat + n

/-- The generation the handle table holds for physical handle `h` (R105). -/
def handleGen (m : Mem1) (h : Nat) : Nat := (vget m.handles 0 h).fld 6 8

/-- Append physical handle `h` with its present generation to queue `q` (R57). A queue of eight entries takes no ninth: two `hq.push` of
one cycle that both find seven entries leave eight, and the later is lost (the manual does not say which; DESIGN CHOICE, log
entry 110). -/
def hqAppend (m : Mem1) (sc : Sched) (q h : Nat) : Sched :=
  let l := vget sc.hq [] q
  let sc := { sc with hqp := vset sc.hqp q (vget sc.hqp 0 q + 1) }
  if l.length < 8 then
    { sc with hq := vset sc.hq q (l ++ [⟨h, handleGen m h⟩]),
              pushed := (h, handleGen m h, none, true) :: sc.pushed.filter fun x => x.1 != h }
  else sc

/-! ### The covered-write folds' address and data are in Machine/Drill.lean. -/

/-- Fresh index of a free value. -/
def State.fresh (s : State) : State := { s with free := s.free + 1 }

/-- The meaning of a command whose condition the spec does not find met: no event takes place (log entry 3). -/
def whenDue (due : Bool) (f : State → State) (s : State) : Answer := .next (if due then f s else s)

end Sys2Proof.Machine
end

