-- ==== Sys2Proof/Machine/Operands.lean ====
section
/-! DEFINITION. Operand forms: strip headers (R27, R279), instruction words (R36, R285 to R289), the blocks of the entry table
(R284, R286 to R288, R290), loop descriptors (R46, R47), handles (R105, R106) and the numbers that shared mode maps (R45, R106). -/

namespace Sys2Proof.Machine

open Sys2Proof

/-! ### Strip header (R27, R279) -/

def hdrFillerOff (h : Row) : Bool := bitOf (h.field 0x006 2) 0
def hdrDeadlineEn (h : Row) : Bool := bitOf (h.field 0x006 2) 1
def hdrShared (h : Row) : Bool := bitOf (h.field 0x006 2) 2
def hdrDebugReq (h : Row) : Bool := bitOf (h.field 0x006 2) 3
def hdrStripId (h : Row) : Nat := h.field 0x008 4
def hdrLength (h : Row) : Nat := h.field 0x00C 4
/-- LENGTH of the running strip. -/
def stripLen (sc : Sched) : Nat :=
  match sc.strip with
  | some st => hdrLength st.hdr
  | none => 0

def hdrDeadline (h : Row) : Nat := h.field 0x010 4
def hdrClass (h : Row) : Nat := h.field 0x014 1
def hdrContext (h : Row) : Nat := h.field 0x015 1
def hdrLoopCount (h : Row) : Nat := h.field 0x016 1
def hdrStkClear (h : Row) : Nat := h.field 0x018 8
def hdrStkCarry (h : Row) : Nat := h.field 0x020 8
def hdrHqClear (h : Row) : Nat := h.field 0x028 1
def hdrHqCarry (h : Row) : Nat := h.field 0x029 1
/-- First instruction row of queue `q` in the order MQ, VQ, UQ, TQ. -/
def hdrListRow (h : Row) (q : Nat) : Nat := h.field (0x030 + 16 * q) 4
/-- Instruction words of queue `q`. -/
def hdrListLen (h : Row) (q : Nat) : Nat := h.field (0x034 + 16 * q) 4
def hdrLoopRow (h : Row) : Nat := h.field 0x070 4
/-- The 32-byte translation stamp. -/
def hdrStamp (h : Row) : Nat := h.field 0x1E0 32
def hdrChainCount (h : Row) : Nat := h.field 0x1E7 1
def hdrAreaRows (h : Row) : Nat := h.field 0x1FC 2

/-- The instruction words of `n` in the rows that hold a list (R29). -/
def wordsOf (rows : List Row) (n : Nat) : List IWord :=
  (rows.flatMap fun r => (List.range 32).map fun i => BitVec.ofNat 128 (r.field (16 * i) 16)).take n

/-- The Plot rows that staging copies, in order (R30): header, instruction rows of MQ, VQ, UQ, TQ, descriptor-area rows. -/
def stageRows (row : Nat) (h : Row) : List Nat :=
  [row] ++ ((List.range 4).flatMap fun q => (List.range (ceilDiv (hdrListLen h q) 32)).map fun i => hdrListRow h q + i) ++
    (List.range (hdrAreaRows h)).map fun i => hdrLoopRow h + i

/-- The strip that staged rows make. -/
def stripOf (row : Nat) (slot : Fin 4) (rows : List Row) : Strip :=
  let h := rows.headD 0
  let n := fun q => ceilDiv (hdrListLen h q) 32
  let part := fun (from_ k : Nat) => (rows.drop from_).take k
  { row := row, slot := slot, hdr := h,
    mq := wordsOf (part 1 (n 0)) (hdrListLen h 0),
    vq := wordsOf (part (1 + n 0) (n 1)) (hdrListLen h 1),
    uq := wordsOf (part (1 + n 0 + n 1) (n 2)) (hdrListLen h 2),
    tq := wordsOf (part (1 + n 0 + n 1 + n 2) (n 3)) (hdrListLen h 3),
    area := part (1 + n 0 + n 1 + n 2 + n 3) (hdrAreaRows h) }

/-- The list of a queue. -/
def Strip.list (st : Strip) : Queue → List IWord
  | .mq => st.mq | .vq => st.vq | .uq => st.uq | .tq => st.tq

/-- Entry `j` of the entry table, 1 to 63 (R283); zero where there is none. -/
def Strip.entry (st : Strip) (j : Nat) : BitVec 512 :=
  if j == 0 then 0 else BitVec.ofNat 512 ((st.area.getD ((j - 1) / 8) 0).field (64 * ((j - 1) % 8)) 64)

/-- Chain descriptor `k`, numbered from 1 (R220, R283). -/
def Strip.chain (st : Strip) (k : Nat) : BitVec 2048 :=
  if k == 0 then 0 else
    BitVec.ofNat 2048 ((st.area.getD (ceilDiv (hdrLoopCount st.hdr) 8 + (k - 1) / 2) 0).field (256 * ((k - 1) % 2)) 256)

/-! ### Common fields of a word (R36) -/

def wDelay (w : IWord) : Nat := w.fld 0 12
def wOp (w : IWord) : Nat := w.fld 12 8
def wTag (w : IWord) : Nat := w.fld 20 24
def wLoop (w : IWord) : Nat := w.fld 44 6
def wCstk (w : IWord) : Nat := w.fld 50 6
def wCstkN (w : IWord) : Nat := w.fld 56 4

/-- Is the word a wait (opcode 0x00)? -/
def wIsWait (w : IWord) : Bool := wOp w == 0
/-- N of a wait (R285). -/
def wWaitN (w : IWord) : Nat := w.fld 64 20 + 1
/-- Stake and amount of stk.set and stk.wait (R285). -/
def wStk (w : IWord) : Nat := w.fld 64 6
def wStkN (w : IWord) : Nat := w.fld 70 8
/-- Queue and handle of hq.push and hq.pop (R285). -/
def wHq (w : IWord) : Nat := w.fld 64 3
def wHqH (w : IWord) : Nat := w.fld 67 6

/-! ### Blocks as byte fields -/

/-- The field of `len` bytes at `off` of a 64-byte entry. -/
def bfld (b : BitVec 512) (off len : Nat) : Nat := (b.toNat / 2 ^ (8 * off)) % 2 ^ (8 * len)

/-! ### Loop descriptors (R46, R47) -/

/-- Iterations of level `l`; 1 when there is no descriptor (a zero descriptor has counts 1). -/
def loopCnt (d : BitVec 512) (l : Nat) : Nat := bitsOf d.toNat (128 * l) 16 + 1
/-- Signed stride of operand `p` at level `l`. -/
def loopStride (d : BitVec 512) (l p : Nat) : Int := signedOf 28 (bitsOf d.toNat (128 * l + 16 + 28 * p) 28)
/-- Executions of the nest. -/
def loopTotal (d : BitVec 512) : Nat := loopCnt d 0 * loopCnt d 1 * loopCnt d 2 * loopCnt d 3
/-- Index of level `l` in execution `e`, level 0 varying fastest. -/
def loopIdx (d : BitVec 512) (e l : Nat) : Nat :=
  e / (List.range l).foldl (fun n i => n * loopCnt d i) 1 % loopCnt d l
/-- Row offset of operand `p` in execution `e`. -/
def loopOff (d : BitVec 512) (p e : Nat) : Int :=
  (List.range 4).foldl (fun z l => z + (loopIdx d e l : Int) * loopStride d l p) 0

/-! ### Stakes, handles (R45, R105, R106) -/

/-- The physical stake that stake `k` of a strip names (R28, R45); 63 stands for none. -/
def physStk (sc : Sched) (st : Strip) (k : Nat) : Nat :=
  if k == 63 then 63
  else if hdrShared st.hdr then (vget sc.stkMap 0 (12 * st.slot.val + k)).toNat
  else k

/-- The physical handle that handle `h` of a strip names (R106). -/
def physH (shared : Bool) (slot : Fin 4) (h : Nat) : Nat := if shared then 16 * slot.val + h % 16 else h

def hRegion (h : IWord) : Nat := h.fld 0 3
def hPageable (h : IWord) : Bool := h.getLsbD 3
def hRes (h : IWord) : Nat := h.fld 4 2
def hGen (h : IWord) : Nat := h.fld 6 8
def hDie (h : IWord) : Nat := h.fld 14 3
def hPos (h : IWord) : Nat := h.fld 17 4
def hCtx (h : IWord) : Nat := h.fld 21 3
def hBase (h : IWord) : Nat := h.fld 32 25
def hCount (h : IWord) : Nat := h.fld 64 24 + 1
def hStride (h : IWord) : Nat := h.fld 96 16

/-- The handle with a field replaced. -/
def hPut (h : IWord) (lo len v : Nat) : IWord := BitVec.ofNat 128 (setBits h.toNat lo len v)

/-- The core whose Plot a handle names. -/
def hCore (h : IWord) : CoreId := coreNo (16 * hDie h + hPos h)

/-- Logical row `i` through a handle (R106): the module address as formed, and whether the row is populated (R107). -/
def hAddr (h : IWord) (i : Int) : Nat × Bool :=
  let row : Int := (hBase h : Int) + i * (hStride h : Int)
  let formed := fun (base : Nat) => wrap 48 ((base : Int) + row * 512)
  match hRegion h with
  | 1 => (formed (plotAddr (hCore h) 0), 0 ≤ row && row < 12288)
  | 2 => (formed (cmnAddr (Fin.ofNat 8 (hDie h)) 0), 0 ≤ row && row < 4194304)
  | 3 => (formed (deepAddr (Fin.ofNat 8 (hDie h)) 0), 0 ≤ row && row < 23592960)
  | _ => (formed 0, false)

/-- The handle table's entry for physical handle `h` of core `c`. -/
def handle (s : State) (c : CoreId) (h : Nat) : IWord := vget (s.cm c).handles 0 h

/-- The contents `old` that a row of key `key` (its module address, or 2^60 and a hopper row) has at the start of wall cycle `w`, in which
it is written, are kept for the reads of that cycle (R194, R224). -/
def noteWas (w key : Nat) (old : Row) (m : Mem1) : Mem1 :=
  let l := if m.was.1 == w then m.was.2 else []
  { m with was := (w, if l.any (fun x => x.1 == key) then l else (key, old) :: l) }

/-- The row of key `key` as it stood at the start of wall cycle `w`; `now` is what it holds now. -/
def startRow (m : Mem1) (w key : Nat) (now : Row) : Row :=
  match m.was.2.find? (fun x => m.was.1 == w && x.1 == key) with
  | some x => x.2
  | none => now

/-- Read a row through a handle, as it stood at the start of the cycle (R224): zeros and an address fault outside the populated part
(R107). -/
def readH (c : CoreId) (source tag ctx h : Nat) (i : Int) (s : State) : Row × State :=
  let (a, ok) := hAddr (handle s c h) i
  if ok then (startRow (s.cm c) (s.sc c).wall (rowBase a) (readRow s a), s)
  else (0, postFault c (addressFault source tag ctx h 0 (wrap 32 i) (rowField s a)) s)

/-- Write a row through a handle: discarded with a record outside the populated part (R107) and in a locked image row (R303). -/
def writeH (c : CoreId) (source tag ctx h : Nat) (i : Int) (r : Row) (s : State) : State :=
  let (a, ok) := hAddr (handle s c h) i
  if !ok then postFault c (addressFault source tag ctx h 0 (wrap 32 i) (rowField s a)) s
  else if lockedRow s a then postFault c (imageWriteFault source tag ctx (rowField s a)) s
  else writeRow (s.onM c (noteWas (s.sc c).wall (rowBase a) (readRow s a))) a r

/-! ### The strip of a core and its place in its lists (R36 to R41) -/

/-- The context of the running strip, 0 without one. -/
def stripCtx (s : State) (c : CoreId) : Nat :=
  match (s.sc c).strip with
  | some st => hdrContext st.hdr % 8
  | none => 0

/-- The next instruction of queue `q`. -/
def nextWord (sc : Sched) (q : Queue) : Option IWord :=
  match sc.strip with
  | some st => (st.list q)[(vget sc.qpos ⟨0, 0, 0⟩ (qIdx q)).idx]?
  | none => none

/-- The schedule cycle in which the next instruction of queue `q` issues (R37, R41). -/
def dueCyc (sc : Sched) (q : Queue) (w : IWord) : Nat := (vget sc.qpos ⟨0, 0, 0⟩ (qIdx q)).base + wDelay w

/-- The next instruction of `q` when it issues in the present schedule cycle. -/
def dueWord (sc : Sched) (q : Queue) : Option IWord :=
  match nextWord sc q with
  | some w => if dueCyc sc q w == sc.stripCyc then some w else none
  | none => none

/-- An entry of the strip names handles: the handle fields of a word of queue `q` (R286 to R289). -/
def wordHandles (q : Queue) (w : IWord) : List Nat :=
  match q, wOp w with
  | _, 3 | _, 4 => [wHqH w]
  | .mq, op => if 0x10 ≤ op && op ≤ 0x16 then
      w.fld 91 6 :: (if w.getLsbD 103 then [w.fld 97 6] else []) else []
  | .vq, 0x10 => [w.fld 86 6] ++ (if w.getLsbD 98 then [w.fld 92 6] else []) ++ (if w.getLsbD 105 then [w.fld 99 6] else [])
  | .vq, 0x11 => [w.fld 64 6]
  | .uq, 0x10 => w.fld 106 6 :: (if w.getLsbD 118 then [w.fld 112 6] else [])
  | .uq, 0x11 => [w.fld 65 6]
  | .tq, 0x10 => [w.fld 70 6]
  | .tq, 0x11 => [w.fld 70 6, w.fld 76 6]
  | _, _ => []

/-- The physical handles that a strip's instructions name (R114), without repeats. -/
def stripHandles (st : Strip) : List Nat :=
  (([Queue.mq, .vq, .uq, .tq].flatMap fun q => (st.list q).flatMap (wordHandles q)).map
    (physH (hdrShared st.hdr) st.slot)).eraseDups

end Sys2Proof.Machine
end

