-- ==== Sys2Proof/Machine/Drill.lean ====
section
/-! DEFINITION. The Drill (R164 to R177): the function F, keys, counters and shares; the test evaluator's commands (R183); and the
row hash of the folds (R398, R399). -/

namespace Sys2Proof.Machine

open Sys2Proof

def drlM0 : BitVec 32 := 0xA7C31E5B
def drlM1 : BitVec 32 := 0x8E2DF4B9
def drlW0 : BitVec 32 := 0x6F1B93C5
def drlW1 : BitVec 32 := 0x3D8AE64F

/-- The four counter or output words. -/
structure Quad where
  x0 : BitVec 32
  x1 : BitVec 32
  x2 : BitVec 32
  x3 : BitVec 32
  deriving DecidableEq, Repr

/-- Round `r` of F (R164). -/
def drlRound (k0 k1 : BitVec 32) (r : Nat) (x : Quad) : Quad :=
  let a := k0 ^^^ (BitVec.ofNat 32 r * drlW0)
  let b := k1 + drlW1.rotateLeft r
  let p := drlM0.toNat * (x.x1 ^^^ a).toNat
  let q := drlM1.toNat * (x.x3 + b).toNat
  ⟨BitVec.ofNat 32 q, (x.x2 ^^^ BitVec.ofNat 32 (p / 2 ^ 32)).rotateLeft 9, BitVec.ofNat 32 p,
    x.x0 + BitVec.ofNat 32 (q / 2 ^ 32)⟩

/-- F of R164. -/
def drlF (k0 k1 : BitVec 32) (x : Quad) : Quad :=
  let y := (List.range 10).foldl (fun z i => drlRound k0 k1 (i + 1) z) x
  ⟨y.x0 + k0, y.x1 ^^^ k1, y.x2 + k1, y.x3 ^^^ k0⟩

/-- The 128 output bits (R166). -/
def Quad.bits (q : Quad) : Nat :=
  q.x0.toNat + q.x1.toNat * 2 ^ 32 + q.x2.toNat * 2 ^ 64 + q.x3.toNat * 2 ^ 96

/-- The key of a seed (R168). -/
def drlKeyOf (seed : BitVec 64) : BitVec 32 × BitVec 32 :=
  (BitVec.ofNat 32 seed.toNat ^^^ 0x7B1D24C9, BitVec.ofNat 32 (seed.toNat / 2 ^ 32) ^^^ 0xE4A06F83)

/-- Fields of a Drill descriptor (R174). -/
def ddStream (d : BitVec 512) : Nat := bfld d 0x00 4
def ddDraw (d : BitVec 512) : Nat := bfld d 0x04 4
def ddBase (d : BitVec 512) : Nat := bfld d 0x08 8
def ddRow (d : BitVec 512) : Int := signedOf 64 (bfld d 0x10 8)
def ddStride (d : BitVec 512) (l : Nat) : Int := signedOf 64 (bfld d (0x18 + 8 * l) 8)
def ddUseStep (d : BitVec 512) : Bool := bitOf (bfld d 0x38 1) 0

/-- The draw index (R172): `g` is the step latched at the strip's launch. -/
def ddDrawIdx (d : BitVec 512) (g : BitVec 64) : Nat :=
  (ddDraw d + (if ddUseStep d then g.toNat % 2 ^ 32 else 0)) % 2 ^ 32

/-- The counter coordinate of R175: row `j`, lane position `l`, loop indices `is`. -/
def ddCoord (d : BitVec 512) (j l : Nat) (is : List Nat) : Nat :=
  wrap 64 ((ddBase d : Int) + (j : Int) * ddRow d +
    ((List.range 4).foldl (fun z k => z + (is.getD k 0 : Int) * ddStride d k) 0) + (l : Int))

/-- One evaluation: 128 bits (R164, R167). -/
def drlEval (seed g : BitVec 64) (d : BitVec 512) (j l : Nat) (is : List Nat) : Nat :=
  let key := drlKeyOf seed
  let c := ddCoord d j l is
  (drlF key.1 key.2 ⟨BitVec.ofNat 32 c, BitVec.ofNat 32 (c / 2 ^ 32), BitVec.ofNat 32 (ddDrawIdx d g),
    BitVec.ofNat 32 (ddStream d)⟩).bits

/-- The loop indices of execution `e`. -/
def loopIdxs (d : BitVec 512) (e : Nat) : List Nat := (List.range 4).map (loopIdx d e)

/-- The share of element `j` of the `e` elements of one evaluation (R177). -/
def drlShare (bits e j : Nat) : Nat := bitsOf bits (128 / e * j) (128 / e)

/-! ### Folds (R398, R399) -/

/-- row_hash of R399. -/
def rowHash (a : Nat) (d : Row) : Nat :=
  (List.range 32).foldl (fun h i =>
    let k0 := BitVec.ofNat 32 (a ||| i) ^^^ 0x3C6EF372
    let k1 := BitVec.ofNat 32 (a / 2 ^ 32 % 2 ^ 16) ^^^ 0xA54FF53A
    let w := fun k => BitVec.ofNat 32 (d.toNat / 2 ^ (128 * i + 32 * k))
    let o := drlF k0 k1 ⟨w 0, w 1, w 2, w 3⟩
    (h + ((o.x1 ^^^ o.x3).toNat * 2 ^ 32 + (o.x0 ^^^ o.x2).toNat)) % 2 ^ 64) 0

/-- A covered write of queue `q` enters its fold (R399), as formed. -/
def foldWrite (c : CoreId) (q tag a : Nat) (d : Row) (s : State) : State :=
  s.onE c fun e => { e with
    fold := vset e.fold q (BitVec.ofNat 64 ((vget e.fold 0 q).toNat + rowHash (rowBase a) d)),
    foldTag := vset e.foldTag q tag }

/-! ### The test evaluator (R183) -/

/-- DRL_TEST_CTRL.GO: latches key and counter; ignored while busy. -/
def execDrlTestGo (c : CoreId) (ccCycle : Nat) (s : State) : Answer :=
  whenDue ((s.en c).drlBusy.isNone) (fun s =>
    s.onE c fun e => { e with drlBusy := some (ccCycle, e.drlKey, e.drlCtr) }) s

/-- DRL_TEST done: 12 control-core cycles after GO the result is in DRL_TEST_OUT. -/
def execDrlTestDone (c : CoreId) (ccCycle : Nat) (s : State) : Answer :=
  match (s.en c).drlBusy with
  | none => .next s
  | some (t0, key, ctr) =>
    whenDue (ccCycle == t0 + 12) (fun s => (s.onE c fun e =>
      let o := drlF (vget key 0 0) (vget key 0 1) ⟨vget ctr 0 0, vget ctr 0 1, vget ctr 0 2, vget ctr 0 3⟩
      { e with drlBusy := none, drlDone := true, drlOut := #v[o.x0, o.x1, o.x2, o.x3] }).onSc c (setBit 0x938 4)) s

end Sys2Proof.Machine
end

