-- ==== Sys2Proof/Machine/Float.lean ====
section
/-! DEFINITION. Numbers: the formats of R130 to R141, rounding (R143, R144), conversion (R142, R147), exact arithmetic on dyadic
numbers with one rounding (R148 to R153, R160), and the functions of one argument that R229 names. Values are exact; every
rounding is one call of `Fmt.round`. -/

namespace Sys2Proof.Machine

open Sys2Proof

/-! ### Exact values -/

/-- A value: NaN, an infinity, or the dyadic number (-1)^neg * man * 2^exp (a zero keeps its sign). -/
inductive Num where
  | nan
  | inf (neg : Bool)
  | fin (neg : Bool) (man : Nat) (exp : Int)
  deriving DecidableEq, Repr

/-- The integer `z`. -/
def Num.ofInt (z : Int) : Num := .fin (decide (z < 0)) z.natAbs 0

def Num.zero : Num := .fin false 0 0

def Num.isNan : Num → Bool
  | .nan => true
  | .inf _ | .fin _ _ _ => false

/-- Infinite or NaN. -/
def Num.nonfinite : Num → Bool
  | .nan | .inf _ => true
  | .fin _ _ _ => false

def Num.neg? : Num → Bool
  | .nan => false
  | .inf n | .fin n _ _ => n

/-- Shift a magnitude left by a non-negative integer. -/
def shl (m : Nat) (k : Int) : Nat := m * 2 ^ k.toNat

/-- The sum, exact. A sum of two opposite numbers is +0 (round to nearest). -/
def Num.add : Num → Num → Num
  | .nan, _ | _, .nan => .nan
  | .inf a, .inf b => if a == b then .inf a else .nan
  | .inf a, .fin _ _ _ => .inf a
  | .fin _ _ _, .inf b => .inf b
  | .fin na ma ea, .fin nb mb eb =>
    let e := if ea ≤ eb then ea else eb
    let x : Int := shl ma (ea - e)
    let y : Int := shl mb (eb - e)
    let z := (if na then -x else x) + (if nb then -y else y)
    if z == 0 then .fin (na && nb) 0 0 else .fin (decide (z < 0)) z.natAbs e

/-- The product, exact. -/
def Num.mul : Num → Num → Num
  | .nan, _ | _, .nan => .nan
  | .inf a, .inf b => .inf (a != b)
  | .inf a, .fin n m _ => if m == 0 then .nan else .inf (a != n)
  | .fin n m _, .inf b => if m == 0 then .nan else .inf (n != b)
  | .fin na ma ea, .fin nb mb eb => .fin (na != nb) (ma * mb) (ea + eb)

def Num.negate : Num → Num
  | .nan => .nan
  | .inf n => .inf !n
  | .fin n m e => .fin (!n) m e

def Num.abs : Num → Num
  | .nan => .nan
  | .inf _ => .inf false
  | .fin _ m e => .fin false m e

def Num.sub (a b : Num) : Num := a.add b.negate

/-- The value times 2^k, exact. -/
def Num.scale (a : Num) (k : Int) : Num :=
  match a with
  | .fin n m e => .fin n m (e + k)
  | .nan => .nan
  | .inf n => .inf n

/-- The order of two numbers that are no NaN: negative, zero or positive difference, zeros equal. -/
def Num.cmp : Num → Num → Int
  | .inf a, .inf b => if a == b then 0 else if a then -1 else 1
  | .inf a, .fin _ _ _ => if a then -1 else 1
  | .fin _ _ _, .inf b => if b then 1 else -1
  | .fin na ma ea, .fin nb mb eb =>
    let e := if ea ≤ eb then ea else eb
    let x : Int := shl ma (ea - e)
    let y : Int := shl mb (eb - e)
    (if na then -x else x) - (if nb then -y else y)
  | .nan, _ | _, .nan => 0

def Num.lt (a b : Num) : Bool := !a.isNan && !b.isNan && a.cmp b < 0
def Num.eq (a b : Num) : Bool := !a.isNan && !b.isNan && a.cmp b == 0

/-- Maximum and minimum of R160: NaN wins, and -0 lies below +0. -/
def Num.max (a b : Num) : Num :=
  if a.isNan || b.isNan then .nan
  else if a.cmp b == 0 then (if a.neg? then b else a)
  else if a.cmp b < 0 then b else a
def Num.min (a b : Num) : Num :=
  if a.isNan || b.isNan then .nan
  else if a.cmp b == 0 then (if a.neg? then a else b)
  else if a.cmp b < 0 then a else b

/-- The floor of log2 of a non-zero magnitude. -/
def log2Floor (man : Nat) (exp : Int) : Int := (Nat.log2 man : Int) + exp

/-! ### Rounding (R143, R144) -/

/-- A rounding mode with the random bits of SR4. -/
inductive Rnd where
  | rne
  | rtz
  | sr4 (r : Nat)
  deriving DecidableEq, Repr

/-- RMODE with its random bits; 3 is reserved and refused at load. -/
def rndOf (rmode r : Nat) : Rnd :=
  match rmode with
  | 0 => .rne
  | 1 => .rtz
  | _ => .sr4 (r % 16)

/-- Round man * 2^exp to a whole number of 2^q: lo or lo + 1. -/
def roundUnits (mode : Rnd) (man : Nat) (exp q : Int) : Nat :=
  if q ≤ exp then shl man (exp - q)
  else
    let sh := (q - exp).toNat
    let lo := man / 2 ^ sh
    let rest := man % 2 ^ sh
    match mode with
    | .rtz => lo
    | .rne => if 2 * rest < 2 ^ sh then lo else if 2 ^ sh < 2 * rest then lo + 1 else lo + lo % 2
    | .sr4 r => if r < (32 * rest / 2 ^ sh + 1) / 2 then lo + 1 else lo

/-- How a format encodes its top codes (R133). -/
inductive Top where
  | ieee       -- infinities and NaNs
  | e4m3       -- one NaN, no infinity
  | finite     -- neither
  deriving DecidableEq, Repr

/-- A floating-point format (R133). -/
structure Fmt where
  ebits : Nat
  mbits : Nat
  bias  : Int
  top   : Top
  deriving DecidableEq, Repr

def fp64 : Fmt := ⟨11, 52, 1023, .ieee⟩
def fp32 : Fmt := ⟨8, 23, 127, .ieee⟩
def bf16 : Fmt := ⟨8, 7, 127, .ieee⟩
def fp16 : Fmt := ⟨5, 10, 15, .ieee⟩
def e4m3 : Fmt := ⟨4, 3, 7, .e4m3⟩
def e5m2 : Fmt := ⟨5, 2, 15, .ieee⟩
def e3m2 : Fmt := ⟨3, 2, 3, .finite⟩
def e2m3 : Fmt := ⟨2, 3, 1, .finite⟩
def e2m1 : Fmt := ⟨2, 1, 1, .finite⟩

/-- Bits of an element. -/
def Fmt.bits (f : Fmt) : Nat := 1 + f.ebits + f.mbits
/-- The code of the largest finite magnitude. -/
def Fmt.maxCode (f : Fmt) : Nat :=
  match f.top with
  | .ieee => (2 ^ f.ebits - 1) * 2 ^ f.mbits - 1
  | .e4m3 => 2 ^ (f.ebits + f.mbits) - 2
  | .finite => 2 ^ (f.ebits + f.mbits) - 1
/-- The sign bit. -/
def Fmt.sign (f : Fmt) (neg : Bool) : Nat := if neg then 2 ^ (f.ebits + f.mbits) else 0
/-- Canonical NaN (R137); a format without NaN has none, and no conversion to it meets one outside R142. -/
def Fmt.nan (f : Fmt) : Nat :=
  match f.top with
  | .ieee => (2 ^ f.ebits - 1) * 2 ^ f.mbits + 2 ^ (f.mbits - 1)
  | .e4m3 => 2 ^ (f.ebits + f.mbits) - 1
  | .finite => 0

/-- The value of a code (R134). -/
def Fmt.decode (f : Fmt) (code : Nat) : Num :=
  let neg := code.testBit (f.ebits + f.mbits)
  let mag := code % 2 ^ (f.ebits + f.mbits)
  let e := mag / 2 ^ f.mbits
  let m := mag % 2 ^ f.mbits
  if f.maxCode < mag then
    match f.top with
    | .ieee => if m == 0 then .inf neg else .nan
    | .e4m3 | .finite => .nan
  else if e == 0 then .fin neg m (1 - f.bias - f.mbits)
  else .fin neg (2 ^ f.mbits + m) ((e : Int) - f.bias - f.mbits)

/-- What an overflow gives (R147): the largest finite value, infinity, or canonical NaN. -/
def Fmt.overflow (f : Fmt) (sat neg : Bool) : Nat :=
  if sat || f.top == .finite then f.sign neg + f.maxCode
  else match f.top with
    | .ieee => f.sign neg + (f.maxCode + 1)
    | .e4m3 | .finite => f.nan

/-- The magnitude code of a rounded magnitude, possibly beyond the largest finite code. -/
def Fmt.magCode (f : Fmt) (mode : Rnd) (man : Nat) (exp : Int) : Nat :=
  if man == 0 then 0
  else
    let low : Int := 1 - f.bias - f.mbits
    let e := log2Floor man exp
    let q := if e - f.mbits ≤ low then low else e - f.mbits
    (q - low).toNat * 2 ^ f.mbits + roundUnits mode man exp q

/-- The code of a value in a format (R144, R147). -/
def Fmt.round (f : Fmt) (mode : Rnd) (sat : Bool) (x : Num) : Nat :=
  match x with
  | .nan => f.nan
  | .inf neg => f.overflow sat neg
  | .fin neg man exp =>
    let c := f.magCode mode man exp
    if c ≤ f.maxCode then f.sign neg + c
    else match mode with
      | .rtz => f.sign neg + f.maxCode
      | .rne | .sr4 _ => f.overflow sat neg

/-- Does the conversion saturate: a value beyond the largest finite one, or an infinite source under SAT (R235, R147)? -/
def Fmt.saturates (f : Fmt) (mode : Rnd) (sat : Bool) (x : Num) : Bool :=
  match x with
  | .nan => false
  | .inf _ => sat
  | .fin _ man exp => f.maxCode < f.magCode mode man exp && (sat || mode == .rtz)

/-- The code is an infinity or a NaN. -/
def Fmt.isNonfinite (f : Fmt) (code : Nat) : Bool := f.maxCode < code % 2 ^ (f.ebits + f.mbits)

/-- Round to nearest even with IEEE overflow: the rule of every arithmetic stage (R146). -/
def Fmt.rne (f : Fmt) (x : Num) : Nat := f.round .rne false x

/-- A value rounded to an integer (R144). -/
def roundInt (mode : Rnd) (neg : Bool) (man : Nat) (exp : Int) : Int :=
  let u := roundUnits mode man exp 0
  if neg then -(u : Int) else u

/-- Clamp to a range. -/
def clampInt (lo hi z : Int) : Int := if z < lo then lo else if hi < z then hi else z

/-- Conversion to an integer range: saturated whatever SAT, NaN gives 0 (R147). -/
def toIntRange (lo hi : Int) (mode : Rnd) (x : Num) : Int :=
  match x with
  | .nan => 0
  | .inf neg => if neg then lo else hi
  | .fin neg man exp => clampInt lo hi (roundInt mode neg man exp)

/-- Did the conversion to an integer range saturate? -/
def intSaturates (lo hi : Int) (mode : Rnd) (x : Num) : Bool :=
  match x with
  | .nan => false
  | .inf _ => true
  | .fin neg man exp => let z := roundInt mode neg man exp; decide (z < lo) || decide (hi < z)

/-! ### Formats by FMT code (R130) -/

/-- The floating-point format of a FMT code: scalar formats and MX element types. -/
def fmtOf : Nat → Option Fmt
  | 0x00 => some fp32 | 0x01 => some bf16 | 0x02 => some fp16 | 0x03 => some e4m3 | 0x04 => some e5m2
  | 0x08 => some e4m3 | 0x09 => some e5m2 | 0x0A => some e3m2 | 0x0B => some e2m3 | 0x0C => some e2m1
  | 0x0E => some fp64 | _ => none

/-- Element bits of a FMT code. -/
def fmtBits : Nat → Nat
  | 0x00 | 0x10 => 32
  | 0x01 | 0x02 => 16
  | 0x07 | 0x0C => 4
  | 0x0A | 0x0B => 6
  | 0x0E | 0x0F => 64
  | _ => 8

/-- Block-scaled formats. -/
def isMx (f : Nat) : Bool := 0x08 ≤ f && f ≤ 0x0D

/-- Range of an integer FMT code (R135); INT48 signed. -/
def intRange : Nat → Int × Int
  | 0x05 | 0x12 | 0x0D => (-128, 127)
  | 0x06 | 0x11 => (0, 255)
  | 0x07 => (-8, 7)
  | 0x10 => (-2147483648, 2147483647)
  | _ => (-140737488355328, 140737488355327)

/-- The value of an element code (an MX element without its scale). -/
def fmtDecode (f code : Nat) : Num :=
  match fmtOf f with
  | some g => g.decode (code % 2 ^ g.bits)
  | none =>
    if f == 0x06 || f == 0x11 then Num.ofInt (code % 256)
    else if f == 0x0D then (Num.ofInt (signedOf 8 code)).scale (-6)
    else if f == 0x0F then Num.ofInt (signedOf 64 code)
    else Num.ofInt (signedOf (fmtBits f) code)

/-- The code of a value in a format that is not block-scaled (R147). -/
def fmtRound (f : Nat) (mode : Rnd) (sat : Bool) (x : Num) : Nat :=
  match fmtOf f with
  | some g => g.round mode sat x
  | none => wrap (fmtBits f) (toIntRange (intRange f).1 (intRange f).2 mode x)

/-- Did that conversion saturate? -/
def fmtSaturates (f : Nat) (mode : Rnd) (sat : Bool) (x : Num) : Bool :=
  match fmtOf f with
  | some g => g.saturates mode sat x
  | none => intSaturates (intRange f).1 (intRange f).2 mode x

/-- Is a written code an infinity or a NaN? -/
def fmtNonfinite (f code : Nat) : Bool :=
  match fmtOf f with
  | some g => g.isNonfinite code
  | none => false

/-- The elements of a row in a format (R131, R140): MXFP6 packs four elements into three bytes. -/
def unpackRow (f : Nat) (r : Row) : List Nat :=
  let n := fmtBits f
  if n == 6 then (List.range 672).map fun i => (r.toNat / 2 ^ (24 * (i / 4) + 6 * (i % 4))) % 64
  else (List.range (4096 / n)).map fun i => r.elem n i

/-- Elements per row of a format. -/
def perRow (f : Nat) : Nat := if fmtBits f == 6 then 672 else 4096 / fmtBits f

/-- The row that packs element codes of a format. -/
def packFmt (f : Nat) (es : List Nat) : Row :=
  if fmtBits f == 6 then BitVec.ofNat 4096 (packNat 6 (es.take 672)) else packRow (fmtBits f) (es.take (perRow f))

/-! ### MX scales (R138, R139, R142) -/

/-- Largest exponent of an MX element type. R232 names only MX element types; an FMT that is none has exponent 0 (DESIGN CHOICE, log
entry 120). -/
def mxEmax : Nat → Int
  | 0x08 => 8 | 0x09 => 15 | 0x0A => 4 | 0x0B => 2 | 0x0C => 2 | _ => 0

/-- The largest magnitude of a block. -/
def amaxOf (vs : List Num) : Num := vs.foldl (fun a v => if a.cmp v.abs < 0 then v.abs else a) .zero

/-- The exponent x of R142 for element type `f`: none when a value is not finite. -/
def mxExp (f : Nat) (vs : List Num) : Option Int :=
  if vs.any Num.nonfinite then none
  else match amaxOf vs with
    | .fin _ m e => some (clampInt (-127) 127 (if m == 0 then -127 else log2Floor m e - mxEmax f))
    | .nan | .inf _ => none

/-- A block converted to MX: its scale byte and element codes (R142); `r` gives the random bits of each element. -/
def mxBlock (f rmode : Nat) (vs : List (Num × Nat)) : Nat × List Nat :=
  match mxExp f (vs.map (·.1)) with
  | none => (0xFF, vs.map fun _ => 0)
  | some x => ((x + 127).toNat, vs.map fun v =>
      if f == 0x0D then wrap 8 (toIntRange (-128) 127 (rndOf rmode v.2) ((v.1.scale (-x)).scale 6))
      else fmtRound f (rndOf rmode v.2) true (v.1.scale (-x)))

/-- The value of an MX element under a scale byte (R139). -/
def mxValue (f scale code : Nat) : Num :=
  if scale == 0xFF then .nan else (fmtDecode f code).scale ((scale : Int) - 127)

/-! ### FP32 split (R153) and FP64 slices (R154) -/

/-- a_hi and a_lo of R153 as BF16 codes. -/
def splitFp32 (code : Nat) : Nat × Nat :=
  match fp32.decode code with
  | .nan => (bf16.nan, 0)
  | .inf n => (bf16.round .rne false (.inf n), 0)
  | .fin n m e =>
    let hi := bf16.round .rne true (.fin n m e)
    (hi, bf16.rne ((Num.fin n m e).sub (bf16.decode hi)))

/-- The shared exponent of a vector (R154); 0x7FFF marks a vector with a non-finite element. -/
def sliceExp (vs : List Num) : Int :=
  if vs.any Num.nonfinite then 0x7FFF
  else match amaxOf vs with
    | .fin _ m e => if m == 0 then 0 else log2Floor m e + 1
    | .nan | .inf _ => 0x7FFF

/-- Slices 6 down to 1 of `big`, then slice 0 in front. -/
def sliceDigits : Nat → Int → List Int → List Int
  | 0, big, acc => big :: acc
  | k + 1, big, acc =>
    let d := (big + 64) % 128 - 64
    sliceDigits k ((big - d) / 128) (d :: acc)

/-- The seven slices of one element under exponent `e` (R154). -/
def slicesOf (e : Int) (v : Num) : List Int :=
  match v with
  | .fin n m x => if e == 0x7FFF then List.replicate 7 0 else sliceDigits 6 (roundInt .rne n m (x + 48 - e)) []
  | .nan | .inf _ => List.replicate 7 0

/-! ### Sums (R151, R152, R162, R237) -/

/-- One group: the exact sum added with one rounding. -/
def groupAdd (f : Fmt) (acc : Nat) (g : Num) : Nat := f.rne ((f.decode acc).add g)

/-- The exact sum of a list. A sum of zeros is +0 unless all are -0. -/
def exactSum : List Num → Num
  | [] => .zero
  | x :: xs => xs.foldl Num.add x

/-- A chain over values in increasing index from `acc`: groups of 32, one rounding each (R151, R237). -/
def chainSum (f : Fmt) (acc : Nat) (vs : List Num) : Nat :=
  (chunksOf 32 vs.length vs).foldl (fun a g =>
    groupAdd f a (exactSum (g ++ List.replicate (32 - g.length) Num.zero))) acc

/-- The fixed binary tree of R162 step 4. -/
def treeSum (f : Fmt) : Nat → List Nat → Nat
  | 0, xs => xs.headD 0
  | k + 1, xs =>
    treeSum f k ((chunksOf 2 xs.length xs).map fun p =>
      match p with
      | [a, b] => f.rne ((f.decode a).add (f.decode b))
      | [a] => a
      | _ => 0)

/-- The canonical sum of R162 with width W = 2^log2w. -/
def canonSum (f : Fmt) (log2w : Nat) (vs : List Num) : Nat :=
  let w := 2 ^ log2w
  let nb := ceilDiv vs.length 32
  treeSum f log2w ((List.range w).map fun s =>
    let lo := s * nb / w
    let hi := (s + 1) * nb / w
    chainSum f 0 ((vs.drop (32 * lo)).take (32 * (hi - lo))))

/-! ### Functions of one argument (R229, R231), on exact values, correctly rounded -/

/-- The integer square root, bit by bit from bit `k` down. -/
def isqrtBits : Nat → Nat → Nat → Nat
  | 0, n, r => if (r + 1) * (r + 1) ≤ n then r + 1 else r
  | k + 1, n, r => isqrtBits k n (if (r + 2 ^ (k + 1)) * (r + 2 ^ (k + 1)) ≤ n then r + 2 ^ (k + 1) else r)

/-- The integer square root. -/
def isqrt (n : Nat) : Nat := isqrtBits (Nat.log2 n / 2) n 0

/-- A positive number known to lie strictly between man * 2^exp and (man + 1) * 2^exp. -/
def between (neg : Bool) (man : Nat) (exp : Int) : Num := .fin neg (2 * man + 1) (exp - 1)

/-- The number floor = q * 2^exp, exact when `exact`. -/
def approx (neg : Bool) (q : Nat) (exp : Int) (exact : Bool) : Num := if exact then .fin neg q exp else between neg q exp

/-- The quotient a / b of magnitudes with 300 bits kept. -/
def Num.div (a b : Num) : Num :=
  match a, b with
  | .nan, _ | _, .nan => .nan
  | .inf _, .inf _ => .nan
  | .inf x, .fin y _ _ => .inf (x != y)
  | .fin x _ _, .inf y => .fin (x != y) 0 0
  | .fin x ma ea, .fin y mb eb =>
    if mb == 0 then (if ma == 0 then .nan else .inf (x != y))
    else if ma == 0 then .fin (x != y) 0 0
    else
      let k := 300 + Nat.log2 mb
      let q := ma * 2 ^ k / mb
      approx (x != y) q (ea - eb - k) (q * mb == ma * 2 ^ k)

/-- The square root with 300 bits kept (negative numbers but -0 give NaN). -/
def Num.sqrt (a : Num) : Num :=
  match a with
  | .nan => .nan
  | .inf n => if n then .nan else .inf false
  | .fin n m e =>
    if m == 0 then .fin n 0 0
    else if n then .nan
    else
      let k : Nat := 600 + (if (e % 2) == 0 then 0 else 1)
      let v := m * 2 ^ k
      let q := isqrt v
      approx false q ((e - k) / 2) (q * q == v)

/-- 1 / sqrt of R229. -/
def Num.rsqrt (a : Num) : Num :=
  match a with
  | .nan => .nan
  | .inf n => if n then .nan else .zero
  | .fin n m e =>
    if m == 0 then .inf n
    else if n then .nan
    else
      let odd := (e % 2) != 0
      let m' := if odd then 2 * m else m
      let e' := if odd then e - 1 else e
      let v := 2 ^ (800 + 2 * Nat.log2 m') / m'
      let q := isqrt v
      approx false q (-(e' / 2) - 400 - Nat.log2 m') (q * q * m' == 2 ^ (800 + 2 * Nat.log2 m'))

/-- The precision of the fixed-point evaluations below. -/
def fixBits : Nat := 320

/-- 2^frac, frac = n / 2^k in [0, 1), as a fixed-point number of `fixBits` fraction bits: the product of the repeated square
roots of 2 at the set bits of n, highest first. -/
def exp2Frac (n : Nat) : Nat → Nat → Nat → Nat
  | 0, _, acc => acc
  | k + 1, root, acc =>
    let root' := isqrt (root * 2 ^ fixBits)
    exp2Frac n k root' (if n.testBit k then acc * root' / 2 ^ fixBits else acc)

/-- 2^a, to more than 200 bits (exact when a is an integer). Magnitudes beyond 2^12 are cut to an overflow or underflow. -/
def Num.exp2 (a : Num) : Num :=
  match a with
  | .nan => .nan
  | .inf n => if n then .zero else .inf false
  | .fin neg m e =>
    if m == 0 then .fin false 1 0
    else if 12 < log2Floor m e then (if neg then .fin false 1 (-4096) else .fin false 1 4096)
    else if log2Floor m e < -100 then (if neg then between false (2 ^ 200 - 1) (-200) else between false (2 ^ 200) (-200))
    else
      let k : Nat := if e < 0 then (-e).toNat else 0
      let z : Int := (if neg then -1 else 1) * (if e < 0 then (m : Int) else (shl m e : Nat))
      let i := z / (2 ^ k : Int)
      let f := (z % (2 ^ k : Int)).toNat
      if f == 0 then .fin false 1 i
      else between false (exp2Frac f k (2 * 2 ^ fixBits) (2 ^ fixBits)) (i - fixBits)

/-- The fraction bits of log2 of y in [1, 2), y in fixed point, `k` bits, by repeated squaring. -/
def log2Bits : Nat → Nat → Nat → Nat
  | 0, _, acc => acc
  | k + 1, y, acc =>
    let y2 := y * y / 2 ^ fixBits
    if 2 * 2 ^ fixBits ≤ y2 then log2Bits k (y2 / 2) (2 * acc + 1) else log2Bits k y2 (2 * acc)

/-- log2 a, to 140 fraction bits (exact when a is a power of two). -/
def Num.log2 (a : Num) : Num :=
  match a with
  | .nan => .nan
  | .inf n => if n then .nan else .inf false
  | .fin neg m e =>
    if m == 0 then .inf true
    else if neg then .nan
    else
      let l := Nat.log2 m
      let i : Int := (l : Int) + e
      if m == 2 ^ l then Num.ofInt i
      else
        let y := m * 2 ^ fixBits / 2 ^ l
        let t : Int := i * 2 ^ 140 + (log2Bits 140 y 0 : Nat)
        let z := 2 * t + 1
        .fin (decide (z < 0)) z.natAbs (-141)

/-- The correctly rounded FP32 functions, on codes. -/
def exp2F (a : Nat) : Nat := fp32.rne (fp32.decode a).exp2
def log2F (a : Nat) : Nat := fp32.rne (fp32.decode a).log2
def rcpF (a : Nat) : Nat := fp32.rne (Num.div (.fin false 1 0) (fp32.decode a))
def rsqrtF (a : Nat) : Nat := fp32.rne (fp32.decode a).rsqrt

def addF (a b : Nat) : Nat := fp32.rne ((fp32.decode a).add (fp32.decode b))
def subF (a b : Nat) : Nat := fp32.rne ((fp32.decode a).sub (fp32.decode b))
def mulF (a b : Nat) : Nat := fp32.rne ((fp32.decode a).mul (fp32.decode b))
def fmaF (a b c : Nat) : Nat := fp32.rne (((fp32.decode a).mul (fp32.decode b)).add (fp32.decode c))
def divF (a b : Nat) : Nat := fp32.rne ((fp32.decode a).div (fp32.decode b))
def sqrtF (a : Nat) : Nat := fp32.rne (fp32.decode a).sqrt
/-- The sign of an FP32 code flipped (exact). -/
def negF (a : Nat) : Nat := a ^^^ 0x80000000
/-- An FP32 code without its sign. -/
def absF (a : Nat) : Nat := a % 0x80000000

/-- FP32 one. -/
def oneF : Nat := 0x3F800000
/-- L2E, C3 and C5 of R231. -/
def l2e : Nat := 0x3FB8AA3B

/-- SIGMOID of R231 on FP32 codes. -/
def sigmoidF (x : Nat) : Nat :=
  match fp32.decode x with
  | .nan => fp32.nan
  | v =>
    if !(v.lt .zero) then
      let e := exp2F (negF (mulF x l2e))
      rcpF (addF oneF e)
    else
      let e := exp2F (mulF x l2e)
      mulF e (rcpF (addF oneF e))

/-- TANH of R231 on FP32 codes. -/
def tanhF (x : Nat) : Nat :=
  match fp32.decode x with
  | .nan => fp32.nan
  | v =>
    if v.abs.lt (.fin false 1 (-5)) then
      let x2 := mulF x x
      let p := fmaF x2 0x3E088889 0xBEAAAAAB
      let q := mulF x x2
      fmaF q p x
    else
      let e := exp2F (fp32.rne (((fp32.decode (mulF (absF x) l2e)).scale 1).negate))
      let t := mulF (subF oneF e) (rcpF (addF oneF e))
      absF t + (if v.neg? then 0x80000000 else 0)

end Sys2Proof.Machine
end

