-- ==== Sys2Proof/Machine/HarrowMath.lean ====
section
/-! DEFINITION. The Harrow's arithmetic: chain descriptors and stage words (R220 to R222), lanes and beats (R216, R217), the stage
operations (R229 to R234), reductions and summaries (R235 to R240), and the schedule cycles of a chain's events (R223, R227). -/

namespace Sys2Proof.Machine

open Sys2Proof

/-! ### Chain descriptor (R220) and stage words (R221) -/

def chFld (d : BitVec 2048) (off len : Nat) : Nat := (d.toNat / 2 ^ (8 * off)) % 2 ^ (8 * len)
def chStages (d : BitVec 2048) : Nat := chFld d 0x00 1
def chLane (d : BitVec 2048) : Nat := chFld d 0x01 1
def chXfmt (d : BitVec 2048) : Nat := chFld d 0x02 1
def chYfmt (d : BitVec 2048) : Nat := chFld d 0x03 1
def chWfmt (d : BitVec 2048) : Nat := chFld d 0x04 1
def chYmode (d : BitVec 2048) : Nat := chFld d 0x05 1
def chRed (d : BitVec 2048) : Nat := chFld d 0x06 1
def chWconv (d : BitVec 2048) : Nat := chFld d 0x07 1
def chSeg (d : BitVec 2048) : Nat := chFld d 0x08 4
def chValid (d : BitVec 2048) : Nat := chFld d 0x0C 4
def chZq (d : BitVec 2048) : Nat := chFld d 0x10 1
def chLog2w (d : BitVec 2048) : Nat := chFld d 0x11 1
def chWdrill (d : BitVec 2048) : Nat := chFld d 0x12 1
/-- Stage word `i`. -/
def chStage (d : BitVec 2048) (i : Nat) : IWord := BitVec.ofNat 128 (chFld d (0x40 + 16 * i) 16)

def stOp (w : IWord) : Nat := w.fld 0 8
def stSrc (w : IWord) (k : Nat) : Nat := w.fld (8 + 3 * k) 3
def stSave (w : IWord) : Bool := w.getLsbD 17
def stFmt (w : IWord) : Nat := w.fld 18 5
def stRmode (w : IWord) : Nat := w.fld 23 2
def stSat (w : IWord) : Bool := w.getLsbD 25
def stParam (w : IWord) : Nat := w.fld 26 3
def stP (w : IWord) : Nat := w.fld 32 24
def stDrill (w : IWord) : Nat := w.fld 56 6
def stImm (w : IWord) : Nat := w.fld 64 64
def stImm32 (w : IWord) : Int := signedOf 32 (w.fld 64 32)

/-- Bits of a lane type. -/
def laneBits (lane : Nat) : Nat := fmtBits lane
/-- The lane type is floating point, with its format. -/
def laneFmt (lane : Nat) : Option Fmt := fmtOf lane

/-- The widest element of a chain (R216). -/
def chWmax (d : BitVec 2048) : Nat :=
  let m := fun (a b : Nat) => if a < b then b else a
  m (laneBits (chLane d)) (m (fmtBits (chXfmt d))
    (m (if chYfmt d == 0xFF then 0 else fmtBits (chYfmt d)) (if chWfmt d == 0xFF then 0 else fmtBits (chWfmt d))))
/-- Lanes N. -/
def chN (d : BitVec 2048) : Nat := 4096 / chWmax d
/-- Beats that one row of format width w spans. -/
def chG (d : BitVec 2048) (f : Nat) : Nat := chWmax d / fmtBits f

/-! ### The word of hrw.chain (R287) -/

def hwChain (w : IWord) : Nat := w.fld 64 6
def hwBeats (w : IWord) : Nat := w.fld 70 16 + 1
def hwXH (w : IWord) : Nat := w.fld 86 6
def hwYH (w : IWord) : Nat := w.fld 92 6
def hwYen (w : IWord) : Bool := w.getLsbD 98
def hwWH (w : IWord) : Nat := w.fld 99 6
def hwWen (w : IWord) : Bool := w.getLsbD 105
def hwSlot (w : IWord) : Nat := w.fld 106 3
def hwAcc (w : IWord) : Bool := w.getLsbD 109
def hwPb (w : IWord) : Nat := w.fld 110 6

/-- Executions E of a chain. -/
def HrwRun.execs (r : HrwRun) : Nat := loopTotal r.loop
/-- Beats per execution B. -/
def HrwRun.beats (r : HrwRun) : Nat := hwBeats r.word
/-- L of R223. -/
def HrwRun.lat (r : HrwRun) : Nat := 5 + 3 * chStages r.chain
/-- The summary operation of the chain's last stage, if it is one. -/
def chSummary (d : BitVec 2048) : Option Nat :=
  let op := stOp (chStage d (chStages d - 1))
  if 0x30 ≤ op && op ≤ 0x37 then some (op - 0x30) else none
/-- D of R223. -/
def chDelay (d : BitVec 2048) : Nat :=
  if chRed d == 2 || chRed d == 5 || chSummary d == some 1 || chSummary d == some 7 then 4 * chLog2w d else 0
/-- Completion cycle (R223). -/
def HrwRun.comp (r : HrwRun) : Nat := r.t0 + r.lat + r.execs * r.beats - 1 + chDelay r.chain

/-- A random draw of the strip: the entry `j` of the descriptor area names a Drill descriptor. -/
def areaEntry (area : List Row) (j : Nat) : BitVec 512 :=
  if j == 0 then 0 else BitVec.ofNat 512 ((area.getD ((j - 1) / 8) 0).field (64 * ((j - 1) % 8)) 64)

/-! ### Reads (R223, R227) -/

/-- The X row that the chain reads in schedule cycle `cyc`: its number over all executions and its logical row. -/
def HrwRun.xRead (r : HrwRun) (cyc : Nat) : Option (Nat × Int) :=
  let g := chG r.chain (chXfmt r.chain)
  let n := cyc - r.t0
  let e := n / r.beats
  let b := n % r.beats
  if r.t0 ≤ cyc && e < r.execs && b % g == 0 then
    some (e * (r.beats / g) + b / g, (bfld r.block 0x00 4 : Int) + loopOff r.loop 0 e + (b / g : Nat))
  else none

/-- The Y row that the chain reads in schedule cycle `cyc`. -/
def HrwRun.yRead (r : HrwRun) (cyc : Nat) : Option (Nat × Int) :=
  let n := cyc - r.t0
  let e := n / r.beats
  let b := n % r.beats
  if !(r.t0 ≤ cyc && e < r.execs) then none
  else if chYmode r.chain == 1 then
    let g := chG r.chain (chYfmt r.chain)
    if b % g == 0 then some (e * (r.beats / g) + b / g, (bfld r.block 0x04 4 : Int) + loopOff r.loop 1 e + (b / g : Nat)) else none
  else if chYmode r.chain == 2 then
    let k := b / chSeg r.chain
    let per := perRow (chYfmt r.chain)
    if b % chSeg r.chain == 0 && k % per == 0 then
      some (e * ceilDiv (r.beats / chSeg r.chain) per + k / per, (bfld r.block 0x04 4 : Int) + loopOff r.loop 1 e + (k / per : Nat))
    else none
  else none

/-! ### Lanes -/

/-- A stream element converted exactly to the lane type (R217): NaN becomes canonical (R137). -/
def toLane (lane f code : Nat) : Nat :=
  match laneFmt lane with
  | some g => g.rne (fmtDecode f code)
  | none => match fmtDecode f code with
    | .fin n m e => wrap (laneBits lane) (roundInt .rtz n m e)
    | .nan | .inf _ => 0

/-- The value of a lane code. -/
def laneVal (lane code : Nat) : Num := fmtDecode lane code

def rowOf (rows : List (Nat × Row)) (i : Nat) : Row :=
  match rows.find? (fun x => x.1 == i) with
  | some x => x.2
  | none => 0

/-- X of lane `l` in local beat `b` of execution `e` (R216). -/
def HrwRun.xLane (r : HrwRun) (e b l : Nat) : Nat :=
  let f := chXfmt r.chain
  let i := b * chN r.chain + l
  toLane (chLane r.chain) f ((rowOf r.xs (e * (r.beats / chG r.chain f) + i / perRow f)).elem (fmtBits f) (i % perRow f))

/-- Y of lane `l` in local beat `b` of execution `e`: stream or column broadcast (R227). -/
def HrwRun.yLane (r : HrwRun) (e b l : Nat) : Nat :=
  let f := chYfmt r.chain
  if chYmode r.chain == 1 then
    let i := b * chN r.chain + l
    toLane (chLane r.chain) f ((rowOf r.ys (e * (r.beats / chG r.chain f) + i / perRow f)).elem (fmtBits f) (i % perRow f))
  else if chYmode r.chain == 2 then
    let k := b / chSeg r.chain
    toLane (chLane r.chain) f
      ((rowOf r.ys (e * ceilDiv (r.beats / chSeg r.chain) (perRow f) + k / perRow f)).elem (fmtBits f) (k % perRow f))
  else 0

/-- The broadcast buffer's row `k` as a read in schedule cycle `cyc` finds it: a load in that cycle is not seen (R226). -/
def bbufRow (buf : List (Nat × Nat × Row)) (cyc k : Nat) : Row :=
  match buf.find? (fun x => x.1 < cyc && x.2.1 == k) with
  | some x => x.2.2
  | none => 0

/-- Z of lane `l` in local beat `b`, taken in schedule cycle `cyc` (R228). -/
def HrwRun.zLane (r : HrwRun) (buf : List (Nat × Nat × Row)) (cyc b l : Nat) : Nat :=
  let n := laneBits (chLane r.chain)
  if chZq r.chain == 0 then 0
  else
    let i := (b % chZq r.chain) * chN r.chain + l
    (bbufRow buf cyc (i / (4096 / n))).elem n (i % (4096 / n))

/-! ### Stage operations (R229 to R234) -/

/-- The one of a lane type. -/
def laneOne (lane : Nat) : Nat :=
  match laneFmt lane with
  | some g => g.rne (.fin false 1 0)
  | none => 1

/-- An integer result modulo 2^n, or saturated (R229). -/
def laneInt (lane : Nat) (sat : Bool) (z : Int) : Nat :=
  let n := laneBits lane
  wrap n (if sat then clampInt (-(2 ^ (n - 1) : Int)) (2 ^ (n - 1) - 1) z else z)

def laneSigned (lane code : Nat) : Int := signedOf (laneBits lane) code

/-- A function stage: computed in FP32, rounded once to the lane type (R231). -/
def laneFun (lane : Nat) (fn : Nat → Nat) (a : Nat) : Nat :=
  match laneFmt lane with
  | some g => if lane == 0x00 then fn a else g.rne (fp32.decode (fn (fp32.rne (g.decode a))))
  | none => a

/-- CMP under its PARAM code (R230). -/
def cmpCode (param : Nat) (a b : Num) : Bool :=
  let un := a.isNan || b.isNan
  let c := a.cmp b
  match param with
  | 0 => !un && c == 0
  | 1 => un || c != 0
  | 2 => !un && c < 0
  | 3 => !un && c ≤ 0
  | 4 => !un && 0 < c
  | 5 => !un && 0 ≤ c
  | 6 => un
  | _ => !un

/-- A stage of one lane that needs no other lane: operands a, b, c as lane codes; `share` is the element's random share. -/
def stageLane (lane : Nat) (w : IWord) (a b c share : Nat) : Nat :=
  let va := laneVal lane a
  let vb := laneVal lane b
  let vc := laneVal lane c
  match laneFmt lane with
  | some g =>
    match stOp w with
    | 0x00 => a
    | 0x01 => g.rne (va.add vb)
    | 0x02 => g.rne (va.sub vb)
    | 0x03 => g.rne (va.mul vb)
    | 0x04 => g.rne ((va.mul vb).add vc)
    | 0x05 => g.rne (va.min vb)
    | 0x06 => g.rne (va.max vb)
    | 0x07 => g.rne va.abs
    | 0x08 => g.rne va.negate
    | 0x09 => if cmpCode (stParam w) va vb then laneOne lane else 0
    | 0x0A => if c != 0 then a else b
    | 0x10 => laneFun lane exp2F a
    | 0x11 => laneFun lane log2F a
    | 0x12 => laneFun lane rcpF a
    | 0x13 => laneFun lane rsqrtF a
    | 0x14 => laneFun lane sigmoidF a
    | 0x15 => laneFun lane tanhF a
    | 0x18 => g.rne (fmtDecode (stFmt w) (fmtRound (stFmt w) (rndOf (stRmode w) share) (stSat w) va))
    | 0x19 =>
      if stSrc w 1 == 6 then g.rne (va.scale (clampInt (-100000) 100000 (stImm32 w)))
      else match vb with
        | .fin n m e => g.rne (va.scale (clampInt (-100000) 100000 (stImm32 w +
            (if 40 < log2Floor m e && m != 0 then (if n then -(2 ^ 40) else 2 ^ 40) else roundInt .rtz n m e))))
        | .nan | .inf _ => g.nan
    | 0x1A => g.rne ((va.mul vb).scale (clampInt (-100000) 100000 (stImm32 w)))
    | 0x1D => if share % 2 ^ 24 < stP w then 0 else g.rne (va.mul (laneVal lane (stImm w)))
    | 0x1E => if lane == 0x0E then g.rne (.fin false (bitsOf share 11 53) (-53)) else g.rne (.fin false (bitsOf share 8 24) (-24))
    | 0x1F =>
      let z : Int := (bitsOf share 0 24 : Int) + bitsOf share 32 24 + bitsOf share 64 24 + bitsOf share 96 24 - 2 ^ 25
      g.rne (((Num.ofInt z).mul (fp32.decode 0x3FDDB3D7)).scale (-24))
    | _ => a
  | none =>
    let x := laneSigned lane a
    let y := laneSigned lane b
    let z := laneSigned lane c
    match stOp w with
    | 0x01 => laneInt lane (stSat w) (x + y)
    | 0x02 => laneInt lane (stSat w) (x - y)
    | 0x03 => laneInt lane (stSat w) (x * y)
    | 0x04 => laneInt lane false (x * y + z)
    | 0x05 => laneInt lane false (if x ≤ y then x else y)
    | 0x06 => laneInt lane false (if x ≤ y then y else x)
    | 0x07 => laneInt lane (stSat w) (if x < 0 then -x else x)
    | 0x08 => laneInt lane (stSat w) (-x)
    | 0x09 => if cmpCode (stParam w) va vb then 1 else 0
    | 0x0A => if c != 0 then a else b
    | 0x18 => wrap (laneBits lane) (toIntRange (intRange (stFmt w)).1 (intRange (stFmt w)).2 .rne va)
    | _ => a

/-- SHUF (R233). -/
def shufLane (w : IWord) (n : Nat) (as : List Nat) (l : Nat) : Nat :=
  let k := stP w
  match stParam w with
  | 0 => as.getD ((l + k) % n) 0
  | 1 => as.getD (l ^^^ k) 0
  | 2 => as.getD k 0
  | _ => as.getD (l ^^^ (2 ^ k - 1)) 0

/-- SCX: the exponent of each block of 32 lanes (R232). -/
def scxLane (lane : Nat) (w : IWord) (as : List Nat) (l : Nat) : Nat :=
  let blk := ((as.drop (32 * (l / 32))).take 32).map (laneVal lane)
  match laneFmt lane with
  | some g => g.rne (Num.ofInt (match mxExp (stFmt w) blk with
    | some x => x
    | none => 128))
  | none => 0

/-- The random share of lane `l` in local beat `b` of execution `e` (R175, R177, R234). -/
def HrwRun.share (r : HrwRun) (drill e b l : Nat) : Nat :=
  let n := laneBits (chLane r.chain)
  let dd := areaEntry r.area drill
  let is := loopIdxs r.loop e
  if n == 64 then drlEval r.seed r.draw dd b l is
  else drlShare (drlEval r.seed r.draw dd b (l * n / 32) is) (32 / n) (l % (32 / n))

/-- Does the stage draw random bits? -/
def stRandom (w : IWord) : Bool :=
  stOp w == 0x1D || stOp w == 0x1E || stOp w == 0x1F || (stOp w == 0x18 && stRmode w == 2)

/-- The beat after stages `i`, `i + 1`, ... : V and T as lane lists. -/
def HrwRun.runStages (r : HrwRun) (buf : List (Nat × Nat × Row)) (e b : Nat) (xs ys : List Nat) :
    Nat → Nat → List Nat → List Nat → List Nat
  | 0, _, v, _ => v
  | k + 1, i, v, t =>
    let w := chStage r.chain i
    let n := chN r.chain
    let lane := chLane r.chain
    let cyc := r.t0 + (e * r.beats + b) + 2 + 3 * i
    let src := fun (code l : Nat) =>
      match code with
      | 0 => v.getD l 0
      | 1 => xs.getD l 0
      | 2 => ys.getD l 0
      | 3 => r.zLane buf cyc b l
      | 4 => t.getD l 0
      | 5 => stImm w % 2 ^ laneBits lane
      | _ => 0
    let as := (List.range n).map (src (stSrc w 0))
    let out := (List.range n).map fun l =>
      if stOp w == 0x1C then shufLane w n as l
      else if stOp w == 0x1B then scxLane lane w as l
      else stageLane lane w (as.getD l 0) (src (stSrc w 1) l) (src (stSrc w 2) l)
        (if stRandom w then r.share (stDrill w) e b l else 0)
    r.runStages buf e b xs ys k (i + 1) out (if stSave w then out else t)

/-- V of every lane in local beat `b` of execution `e` after all stages. A summary stage passes A through (R239). -/
def HrwRun.beat (r : HrwRun) (buf : List (Nat × Nat × Row)) (e b : Nat) : List Nat :=
  let n := chN r.chain
  let xs := (List.range n).map (r.xLane e b)
  let ys := (List.range n).map (r.yLane e b)
  r.runStages buf e b xs ys (chStages r.chain) 0 xs (List.replicate n 0)

/-! ### Writes (R235, R236) -/

/-- Conversion of one written value: its code, and whether it saturated or is not finite. -/
def convW (d : BitVec 2048) (share : Nat) (x : Num) : Nat × Bool × Bool :=
  let mode := rndOf (bitsOf (chWconv d) 0 2) (share % 16)
  let sat := bitOf (chWconv d) 2
  let code := fmtRound (chWfmt d) mode sat x
  (code, fmtSaturates (chWfmt d) mode sat x, fmtNonfinite (chWfmt d) code)

/-- The valid elements of segment `k` of execution `e`, in logical order. -/
def HrwRun.segVals (r : HrwRun) (buf : List (Nat × Nat × Row)) (e k : Nat) : List Nat :=
  ((List.range (chSeg r.chain)).flatMap fun j => r.beat buf e (k * chSeg r.chain + j)).take (chValid r.chain)

/-- The sum of lane codes by a rule: 1 SUM, 2 CSUM, 5 TREE; floating-point sums from `start` (R237, R238). -/
def sumVals (rule lane log2w start : Nat) (vs : List Nat) : Num :=
  match laneFmt lane with
  | some g =>
    let acc := if lane == 0x0E then fp64 else fp32
    let ns := vs.map g.decode
    acc.decode (match rule with
      | 2 => canonSum acc log2w ns
      | 5 => treeSum acc log2w (ns.map acc.rne)
      | _ => chainSum acc start ns)
  | none => Num.ofInt (signedOf 48 (wrap 48 (vs.foldl (fun z c => z + laneSigned lane c) (signedOf 48 start))))

/-- Maximum or minimum of a non-empty list (R160). -/
def extremum (big : Bool) (vs : List Num) : Num :=
  match vs with
  | [] => .zero
  | x :: xs => xs.foldl (if big then Num.max else Num.min) (x.max x)

/-- The reduction value of a segment (R236). -/
def HrwRun.segValue (r : HrwRun) (buf : List (Nat × Nat × Row)) (e k : Nat) : Num :=
  let vs := r.segVals buf e k
  let lane := chLane r.chain
  match chRed r.chain with
  | 3 => extremum true (vs.map (laneVal lane))
  | 4 => extremum false (vs.map (laneVal lane))
  | rule => sumVals rule lane (chLog2w r.chain) 0 vs

/-- Rows that one execution writes. -/
def HrwRun.rowsPer (r : HrwRun) : Nat :=
  if !hwWen r.word then 0
  else if chRed r.chain == 0 then r.beats / chG r.chain (chWfmt r.chain)
  else ceilDiv (r.beats / chSeg r.chain) (perRow (chWfmt r.chain))

/-- The schedule cycle in which row `x` of execution `e` is written (R223, R236). -/
def HrwRun.writeCyc (r : HrwRun) (e x : Nat) : Nat :=
  if chRed r.chain == 0 then
    let g := chG r.chain (chWfmt r.chain)
    r.t0 + r.lat + e * r.beats + g * x + g - 1
  else
    let segs := r.beats / chSeg r.chain
    let last := (if (x + 1) * perRow (chWfmt r.chain) < segs then (x + 1) * perRow (chWfmt r.chain) else segs) - 1
    r.t0 + r.lat + e * r.beats + (last + 1) * chSeg r.chain - 1 + chDelay r.chain

/-- Row `x` of execution `e` as written, with the numbers of saturated and of non-finite values. -/
def HrwRun.writeRowOf (r : HrwRun) (buf : List (Nat × Nat × Row)) (e x : Nat) : Row × Nat × Nat :=
  let d := r.chain
  let vals : List (Nat × Bool × Bool) :=
    if chRed d == 0 then
      let g := chG d (chWfmt d)
      ((List.range g).flatMap fun i =>
        let b := x * g + i
        (r.beat buf e b).zipIdx.map fun v =>
          convW d (if bitsOf (chWconv d) 0 2 == 2 then r.share (chWdrill d) e b v.2 else 0) (laneVal (chLane d) v.1))
    else
      let per := perRow (chWfmt d)
      let segs := r.beats / chSeg d
      (List.range per).map fun i =>
        let k := x * per + i
        if k < segs then
          convW d (if bitsOf (chWconv d) 0 2 == 2 then
            drlEval r.seed r.draw (areaEntry r.area (chWdrill d)) k 0 (loopIdxs r.loop e) else 0) (r.segValue buf e k)
        else (0, false, false)
  (packFmt (chWfmt d) (vals.map (·.1)), (vals.filter (·.2.1)).length, (vals.filter (·.2.2)).length)

/-! ### Summaries (R239, R240) -/

/-- All valid elements of the stream, segment after segment, execution after execution. -/
def HrwRun.allVals (r : HrwRun) (buf : List (Nat × Nat × Row)) : List Nat :=
  (List.range r.execs).flatMap fun e => (List.range (r.beats / chSeg r.chain)).flatMap fun k => r.segVals buf e k

/-- A value as the 64 bits of a summary slot: FP32 or FP64 for floating sums, INT48 sign-extended for integer ones. -/
def sumBits (lane : Nat) (x : Num) : Nat :=
  match laneFmt lane with
  | some _ => (if lane == 0x0E then fp64 else fp32).rne x
  | none => match x with
    | .fin n m e => wrap 64 (roundInt .rtz n m e)
    | .nan | .inf _ => 0

/-- A lane-type value in its low bits. -/
def laneLow (lane : Nat) (x : Num) : Nat :=
  match laneFmt lane with
  | some g => g.rne x
  | none => match x with
    | .fin n m e => wrap (laneBits lane) (roundInt .rtz n m e)
    | .nan | .inf _ => 0

/-- The posted value of summary `kind` (OP - 0x30); `start` is the slot's value under ACC (R240). -/
def HrwRun.summary (r : HrwRun) (buf : List (Nat × Nat × Row)) (kind : Nat) : Nat :=
  let lane := chLane r.chain
  let w := chStage r.chain (chStages r.chain - 1)
  let vs := r.allVals buf
  let ns := vs.map (laneVal lane)
  let start := r.acc0.map (·.toNat)
  match kind with
  | 0 => sumBits lane (sumVals 1 lane 0 (start.getD 0) vs)
  | 1 => sumBits lane (sumVals 2 lane (chLog2w r.chain) 0 vs)
  | 2 => laneLow lane (extremum true (match start with
      | some v => laneVal lane (v % 2 ^ laneBits lane) :: ns
      | none => ns))
  | 3 => laneLow lane (extremum false (match start with
      | some v => laneVal lane (v % 2 ^ laneBits lane) :: ns
      | none => ns))
  | 4 => if ns.any Num.nonfinite || start.getD 0 != 0 then 1 else 0
  | 5 => (start.getD 0 + (ns.filter fun x => (laneVal lane (stImm w % 2 ^ laneBits lane)).lt x).length) % 2 ^ 64
  | 6 => match start with
    | some v => if v != 2 ^ 64 - 1 then v else
        (match vs.findIdx? (· != 0) with
          | some i => i
          | none => 2 ^ 64 - 1)
    | none => match vs.findIdx? (· != 0) with
      | some i => i
      | none => 2 ^ 64 - 1
  | _ => sumBits lane (sumVals 5 lane (chLog2w r.chain) 0 vs)

end Sys2Proof.Machine
end

