-- ==== Sys2Proof/Machine/Net.lean ====
section
/-! DEFINITION. Items between modules: routes and planes (R15, R371 to R373), the descriptors and short items that carry an item over
a link (R361 to R364), and where an item goes when it is handed over (R370, R372). -/

namespace Sys2Proof.Machine

open Sys2Proof

/-! ### Routes (R372, R373) -/

/-- The route table's entry for a position. -/
def routeEntry (s : State) (pos : Nat) : Nat :=
  match s.hub.routes.find? (fun x => x.1 == pos) with
  | some x => x.2
  | none => 0x0F

/-- The entry that items are routed by: a write of the present always-on cycle acts from the next (R374, R385). -/
def routeNow (s : State) (pos : Nat) : Nat :=
  match s.hub.route0.2.find? (fun x => s.hub.route0.1 == s.hub.ns / 10 && x.1 == pos) with
  | some x => x.2
  | none => routeEntry s pos

/-- A port that routes may use (R369). -/
def portUsable (s : State) (p : PortId) : Bool := (s.port p).state == .up && (s.port p).enable

/-- Where an item for a position goes. -/
inductive Way where
  | here
  | port (p : PortId)
  | refused
  deriving DecidableEq, Repr

/-- The way of an item of plane `k` to position `pos` (R372, R373): the first plane from `k` on whose port of the direction works. -/
def wayTo (s : State) (pos k : Nat) : Way :=
  if pos == s.hub.position then .here
  else
    let e := routeNow s pos
    if bitOf e 3 then .refused
    else if e % 8 == 7 then .here
    else
      match (List.range 4).find? (fun i => portUsable s (Fin.ofNat 28 (7 * ((k + i) % 4) + e % 8))) with
      | some i => .port (Fin.ofNat 28 (7 * ((k + i) % 4) + e % 8))
      | none => .refused

/-- The source of R365 for an item that enters a gate die from this module: the bridge of the port's compute die (R359). -/
def portSource (p : PortId) : Nat := p.val % 7 % 2

/-! ### Descriptors and short items (R363, R364) -/

/-- KIND of a descriptor: 1 write half, 2 read-return half, 3 message-row half, 4 short-item flit, 5 management flit. -/
def ItemKind.desc : ItemKind → Nat
  | .write => 1
  | .readRet => 2
  | .msgRow => 3
  | .mgmt => 5
  | .readReq | .writeAck | .msgAck | .bounce | .grant | .loss => 4

/-- KIND of a short item; 0 for the kinds that are none. -/
def ItemKind.short : ItemKind → Nat
  | .readReq => 1
  | .writeAck => 2
  | .msgAck => 3
  | .bounce => 4
  | .grant => 5
  | .loss => 6
  | .write | .readRet | .msgRow | .mgmt => 0

/-- A descriptor. -/
def descBits (kind half last destPos srcPos srcCore tag row : Nat) : BitVec 128 :=
  BitVec.ofNat 128 (kind % 16 + half % 2 * 2 ^ 4 + last % 2 * 2 ^ 5 + destPos % 2 ^ 16 * 2 ^ 8 + srcPos % 2 ^ 16 * 2 ^ 24 +
    srcCore % 256 * 2 ^ 40 + tag % 2 ^ 24 * 2 ^ 48 + row % 2 ^ 39 * 2 ^ 72)

def dKind (d : BitVec 128) : Nat := bitsOf d.toNat 0 4
def dHalf (d : BitVec 128) : Nat := bitsOf d.toNat 4 1
def dLast (d : BitVec 128) : Bool := bitOf d.toNat 5
def dDest (d : BitVec 128) : Nat := bitsOf d.toNat 8 16
def dSrcPos (d : BitVec 128) : Nat := bitsOf d.toNat 24 16
def dSrcCore (d : BitVec 128) : Nat := bitsOf d.toNat 40 8
def dTag (d : BitVec 128) : Nat := bitsOf d.toNat 48 24
def dRow (d : BitVec 128) : Nat := bitsOf d.toNat 72 39

/-- ROW of a short item: a row address, or the SEQ of a message item. Of a loss notice it is the SEQ (AUX 3), or the address of a row that a
target reports, which R364 gives no form: AUX 0 an uncorrectable row, 7 and 9 a write to and a read from a gated group, 8 a locked row (log entry 118). -/
def Item.shortRow (i : Item) : Nat :=
  match i.kind with
  | .readReq | .writeAck => i.row / 512
  | .msgAck | .bounce | .grant => i.row % 2 ^ 16
  | .loss => if i.aux == 3 then i.row % 2 ^ 16 else if i.aux == 0 || 7 ≤ i.aux then i.row / 512 else 0
  | .write | .readRet | .msgRow | .mgmt => 0

/-- The 16 bytes of a short item. -/
def Item.shortBits (i : Item) : Nat :=
  i.kind.short % 16 + i.destCore % 256 * 2 ^ 4 + i.srcPos % 2 ^ 16 * 2 ^ 12 + i.srcCore % 256 * 2 ^ 28 + i.tag % 2 ^ 24 * 2 ^ 36 +
    i.shortRow % 2 ^ 39 * 2 ^ 60 +
    (if i.kind == .readReq || i.kind == .writeAck || (i.kind == .loss && i.aux == 0) then (i.count - 1) % 256 * 2 ^ 99 else 0) +
    i.aux % 256 * 2 ^ 107

/-- The short item that 128 bits spell, at position `destPos`, on plane `plane`. -/
def shortItem (destPos plane n : Nat) : Option Item :=
  let row := bitsOf n 60 39
  let mk := fun (k : ItemKind) (row count : Nat) =>
    some (⟨k, plane, destPos, bitsOf n 4 8, bitsOf n 12 16, bitsOf n 28 8, bitsOf n 36 24, row, 0, count, bitsOf n 107 8, true, 0⟩ : Item)
  match bitsOf n 0 4 with
  | 1 => mk .readReq (512 * row) (bitsOf n 99 8 + 1)
  | 2 => mk .writeAck (512 * row) (bitsOf n 99 8 + 1)
  | 3 => mk .msgAck (row % 2 ^ 16) 0
  | 4 => mk .bounce (row % 2 ^ 16) 0
  | 5 => mk .grant (row % 2 ^ 16) 0
  | 6 => if bitsOf n 107 8 == 0 then mk .loss (512 * row) (bitsOf n 99 8 + 1)
    else if bitsOf n 107 8 == 3 then mk .loss (row % 2 ^ 16) 0
    else mk .loss (512 * row) 0
  | _ => none

/-- The flits that carry an item (R363, R364): a row travels as two halves, HALF 0 first. A short item travels in a flit of its own. -/
def Item.flits (i : Item) : List OutFlit :=
  let half : Nat → Flit := fun h => BitVec.ofNat 2048 (i.data.toNat / 2 ^ (2048 * h))
  let row := match i.kind with
    | .write => i.row / 512
    | .readRet => i.aux % 256 + i.k % 256 * 256
    | _ => 0
  let d := fun (h : Nat) => descBits i.kind.desc h (b2n i.last) i.destPos i.srcPos i.srcCore i.tag row
  match i.kind with
  | .write | .readRet => [(d 0, half 0, 0), (d 1, half 1, 0)]
  | .msgRow => [(d 0, half 0, i.row), (d 1, half 1, i.row)]
  | .mgmt => [(d 0, half 0, 0)]
  | .readReq | .writeAck | .msgAck | .bounce | .grant | .loss => [(d 0, BitVec.ofNat 2048 i.shortBits, 0)]

/-! ### Handing over -/

/-- SRC_CORE of a gate die's loss notice, codes that no core has: for a write, a read request, a read return or a message, whose loss its
originator answers, 0xFD where the item was lost (cause 2) and 0xFB where it was refused (cause 1); 0xFC for any other short item (log entry
118). -/
def ItemKind.lossMark (cause : Nat) : ItemKind → Nat
  | .write | .readReq | .readRet | .msgRow | .mgmt => if cause == 1 then 0xFB else 0xFD
  | .writeAck | .msgAck | .bounce | .grant | .loss => 0xFC

/-- The answer to an item that is refused (R372, cause 1) or lost (R370, cause 2): a message bounces, NO_ROUTE or LOST; a row
transaction or a short item gives a loss notice to its originator, AUX its descriptor KIND. The `k` of a loss notice in its
own module is one more than the local port, 0 when none applies. -/
def Item.answer (i : Item) (own cause : Nat) : Item :=
  match i.kind with
  | .msgRow => ⟨.bounce, i.plane, i.srcPos, i.srcCore, own, i.destCore, i.tag, i.row, 0, 0, if cause == 1 then 10 else 9, true, 0⟩
  | k => ⟨.loss, i.plane, i.srcPos, i.srcCore, own, k.lossMark cause, i.tag, 0, 0, 0, k.desc, true, 0⟩

/-- An item on its way: kept for delivery in this module, queued at its port, or refused (R372). `depth` bounds the answers to refused
answers: a refused loss notice is dropped. -/
def putItemAt (depth : Nat) (i : Item) (s : State) : State :=
  match depth, wayTo s i.destPos i.plane with
  | _, .here => { s with net := s.net ++ [i] }
  | _, .port p => s.onPort p fun k => { k with out := vset k.out (portSource p) (vget k.out [] (portSource p) ++ i.flits) }
  | 0, .refused => s
  | n + 1, .refused =>
    let a := i.answer s.hub.position 1
    if i.kind == .loss || s.net.contains a then s else putItemAt n a s

/-- An item is handed over. -/
def putItem (i : Item) (s : State) : State := putItemAt 2 i s

end Sys2Proof.Machine
end

