-- ==== Sys2Proof/Machine/Lockstep.lean ====
section
/-! DEFINITION. Fold records and their comparison (R400 to R404): the record a strip's end hands over, matching and divergence. -/

namespace Sys2Proof.Machine

open Sys2Proof

/-! ### Records (R400) -/

def frCore (r : FoldRec) : Nat := bfld r 0x00 2
def frEpoch (r : FoldRec) : Nat := bfld r 0x02 1
def frFault (r : FoldRec) : Bool := bitOf (bfld r 0x03 1) 0
def frStrip (r : FoldRec) : Nat := bfld r 0x04 4
def frOrd (r : FoldRec) : Nat := bfld r 0x08 8
def frFold (r : FoldRec) (q : Nat) : Nat := bfld r (0x10 + 8 * q) 8
def frTag (r : FoldRec) (q : Nat) : Nat := bfld r (0x30 + 3 * q) 3

/-- The 64 bytes of a record. -/
def foldRec (core epoch : Nat) (fault : Bool) (strip ord : Nat) (folds : List Nat) (tags : List Nat) : FoldRec :=
  BitVec.ofNat 512 (core % 2 ^ 16 + epoch % 256 * 2 ^ 16 + b2n fault * 2 ^ 24 + strip % 2 ^ 32 * 2 ^ 32 + ord % 2 ^ 64 * 2 ^ 64 +
    packNat 64 folds * 2 ^ 128 + packNat 24 tags * 2 ^ 384)

/-- The records of one core and ordinal match; configuration records also by the context in their STRIP_ID (log entry 20). -/
def frMatch (a b : FoldRec) : Bool :=
  frCore a == frCore b && frEpoch a == frEpoch b && frOrd a == frOrd b && (frCore a != 0xFFFF || frStrip a == frStrip b)

/-- Is record `a` of an older epoch of its core than `b` (counted modulo 256)? -/
def frOlder (a b : FoldRec) : Bool :=
  frCore a == frCore b && frEpoch a != frEpoch b && (frEpoch b + 256 - frEpoch a) % 256 < 128

/-- The record's core has a record of a later epoch among the latest epochs `l`. -/
def frStale (r : FoldRec) (l : List (Nat × Nat)) : Bool :=
  l.any fun x => x.1 == frCore r && x.2 != frEpoch r && (x.2 + 256 - frEpoch r) % 256 < 128

/-- The latest epochs with a record's own. -/
def frLatest (r : FoldRec) (l : List (Nat × Nat)) : List (Nat × Nat) :=
  if frStale r l then l else (frCore r, frEpoch r) :: l.filter fun x => x.1 != frCore r

/-- The queues whose folds differ. -/
def foldDiff (a b : FoldRec) : List Nat := (List.range 4).filter fun q => frFold a q != frFold b q

/-- Kind of divergence of a pair (R403), none when it agrees. -/
def divKind (a b : FoldRec) : Option Nat :=
  if frCore a == 0xFFFF then (if (foldDiff a b).isEmpty then none else some 4)
  else if frStrip a != frStrip b then some 2
  else if frFault a != frFault b then some 3
  else if (foldDiff a b).isEmpty then none else some 1

/-- The divergence record of R403: the queues that differ stand in it whatever its kind. -/
def divFlt (s : State) (kind : Nat) (a b : FoldRec) (ctx cyc : Nat) (stop : Bool) : Flt :=
  let d := foldDiff a b
  { cls := 0x12, source := 6, tag := d.head?.elim 0 (frTag a), ctx := ctx, faulted := stop,
    strip := some (if kind == 4 then 0 else frStrip a, cyc),
    detail := kind + (d.foldl (fun m q => m + 2 ^ q) 0) * 2 ^ 8 + s.hub.ls.peer * 2 ^ 16 + frOrd a * 2 ^ 32 +
      (match d with
        | q :: _ => frFold a q * 2 ^ 96
        | [] => 0) }

/-- The core enters the faulted state; a running strip completes (R404). -/
def faultCore (c : CoreId) (s : State) : State :=
  s.onSc c fun sc =>
    match sc.run with
    | .running => { sc with stopping := true }
    | .stalled => if sc.strip.isSome then { sc with stopping := true } else { sc with run := .faulted, cause := .none }
    | .idle | .faulted => { sc with run := .faulted }

/-- A local and a peer record have met (R402 to R404). -/
def lsCompare (a b : FoldRec) (ctx cyc : Nat) (s : State) : State :=
  let s := s.onLs fun l => { l with matched := l.matched + 1 }
  match divKind a b with
  | none => if frCore a == 0xFFFF then s.onLs fun l => { l with configOk := true } else s
  | some kind =>
    let stop := s.hub.ls.stop && kind ≤ 3
    let s := attention 4 (hubSetBit (hubBlock 0x50004) 8 (s.onLs fun l => { l with diverged := true, divCnt := satAdd 0xFFFFFFFF l.divCnt 1 }))
    let f := divFlt s kind a b ctx cyc stop
    if kind == 4 then
      (headlandFault f s).onLs fun l =>
        { l with configOk := false, enable := false, waiting := [], arrived := [], locals := [], peers := [], lastL := [], lastP := [] }
    else
      let c := coreNo (frCore a)
      let s := postFault c f s
      if stop then faultCore c s else s

/-- `n` records dropped or discarded (R402). -/
def lsGap (n : Nat) (s : State) : State :=
  if n == 0 then s else hubSetBit (hubBlock 0x50004) 4 (s.onLs fun l => { l with gap := true, gapCnt := satAdd 0xFFFFFFFF l.gapCnt n })

/-- A local record waits for its peer record, or meets it (R402). -/
def lsKeep (r : FoldRec) (ctx cyc : Nat) (s : State) : State :=
  let l := s.hub.ls
  let old := (l.peers.filter fun p => frOlder p r).length
  let s := lsGap old (s.onLs fun l => { l with peers := l.peers.filter fun p => !frOlder p r, lastL := frLatest r l.lastL })
  match l.peers.find? (frMatch r) with
  | some p => lsCompare r p ctx cyc (s.onLs fun l => { l with peers := l.peers.eraseP (frMatch r) })
  | none =>
    if frStale r l.lastP then lsGap 1 s
    else if l.locals.length < 32768 then s.onLs fun l => { l with locals := l.locals ++ [(r, ctx, cyc)] }
    else lsGap 1 s

/-- A local record reaches the comparator, and waits to be sent (R401, R402). -/
def lsLocal (r : FoldRec) (ctx cyc : Nat) (s : State) : State :=
  if !s.hub.ls.enable then s
  else
    let now := s.hub.ns
    lsKeep r ctx cyc (s.onLs fun l =>
      { l with arrived := l.arrived ++ [now], waiting := l.waiting ++ [r] })

/-- A peer record reaches the comparator (R402). -/
def lsPeer (r : FoldRec) (s : State) : State :=
  let l := s.hub.ls
  if !l.enable then s
  else
    let old := (l.locals.filter fun p => frOlder p.1 r).length
    let s := lsGap old (s.onLs fun l => { l with locals := l.locals.filter fun p => !frOlder p.1 r, lastP := frLatest r l.lastP })
    match l.locals.find? (fun p => frMatch p.1 r) with
    | some p => lsCompare p.1 r p.2.1 p.2.2 (s.onLs fun l => { l with locals := l.locals.eraseP fun p => frMatch p.1 r })
    | none =>
      if frStale r l.lastL then lsGap 1 s
      else if l.peers.length < 32768 then s.onLs fun l => { l with peers := l.peers ++ [r] }
      else lsGap 1 s

/-- A strip's end hands the fold record to the comparator (R400); `fault` says that it ended by a fault. -/
def handFold (c : CoreId) (fault : Bool) (s : State) : State :=
  let e := s.en c
  let sc := s.sc c
  let r := foldRec c.val e.foldEpoch fault sc.stripId e.stripOrd (e.fold.toList.map (·.toNat)) e.foldTag.toList
  let s := s.onE c fun e => { e with foldFinal := true, foldFault := fault }
  lsLocal r (stripCtx s c) (if fault then sc.stripCyc else sc.stripCyc - 1) s

end Sys2Proof.Machine
end

