-- ==== Sys2Proof/Machine/WgtBase.lean ====
section
/-! DEFINITION. Weight slots and their shards (R408 to R411): shared operations, and the re-check that an uncorrectable read asks for (R427). -/

namespace Sys2Proof.Machine

open Sys2Proof

def State.wgt (s : State) (x : CtxId) : WgtCtx := s.hub.wgt.get x
def State.onWgt (s : State) (x : CtxId) (f : WgtCtx → WgtCtx) : State :=
  s.onHub fun h => { h with wgt := vset h.wgt x.val (f (h.wgt.get x)) }
def slotW (w : WgtCtx) (k : Nat) : WLoad := vget w.slots WLoad.reset k
def State.onSlot (s : State) (x : CtxId) (k : Nat) (f : WLoad → WLoad) : State :=
  s.onWgt x fun w => { w with slots := vset w.slots k (f (slotW w k)) }
def State.onShard (s : State) (x : CtxId) (k j : Nat) (f : Shard → Shard) : State :=
  s.onSlot x k fun l => { l with shards := l.shards.modify j f }

/-! ### Shard entries (R411) -/

def wePart (e : BitVec 512) : Nat := bfld e 0x00 1
def weTier (e : BitVec 512) : Nat := bfld e 0x01 1
def weDie (e : BitVec 512) : Nat := bfld e 0x02 1
def weOff (e : BitVec 512) : Nat := bfld e 0x04 4
def weRows (e : BitVec 512) : Nat := bfld e 0x08 4
def weDigest (e : BitVec 512) : Nat := bfld e 0x20 32

/-! ### Shards in their slot (R409, R417) -/

/-- Region of die `d` and tier `t` (0 Commons, 1 deep memory). -/
def regionW (rs : List (Nat × Nat)) (d t : Nat) : Nat × Nat := rs.getD (2 * d + t) (0, 0)

def keptPart (l : WLoad) (e : BitVec 512) : Bool := l.cmd.any fun w => w.keep.getLsbD (wePart e)
def fwdPart (l : WLoad) (e : BitVec 512) : Bool := l.cmd.any fun w => w.forward.getLsbD (wePart e)

/-- Module address of a shard's first row in its slot. -/
def shardAddr (l : WLoad) (e : BitVec 512) : Nat :=
  let d : DieId := Fin.ofNat 8 (weDie e)
  let base := (regionW l.regions d.val (weTier e - 2)).1 + weOff e
  if weTier e == 2 then cmnAddr d base else deepAddr d base

/-- Shard `j` has all its chunks: it joins its die's digest queue (R417). -/
def queueDigest (x : CtxId) (k j : Nat) (re : Bool) (s : State) : State :=
  match (slotW (s.wgt x) k).shards[j]? with
  | none => s
  | some sh => s.onHub fun h => { h with digQ := vset h.digQ (weDie sh.entry) (vget h.digQ [] (weDie sh.entry) ++ [⟨x, Fin.ofNat 2 k, j, re⟩]) }

/-- Slot state whose shards are re-checked (R425). -/
def WSlot.checked : WSlot → Bool
  | .verified | .active | .draining => true
  | .empty | .loading | .failed => false

/-- A strip's read of the row at module address `a` was uncorrectable: a kept shard of a checked slot that holds it is re-checked at the next
idle engine (R427). -/
def recheckRow (a : Nat) (s : State) : State :=
  forAll (List.finRange 8) (fun x s => forAll [0, 1] (fun k s =>
    let l := slotW (s.wgt x) k
    if !l.state.checked then s
    else forAll ((List.range l.shards.length).filter fun j => (l.shards[j]?).any fun sh => keptPart l sh.entry && sh.passed && !sh.recheck &&
        shardAddr l sh.entry ≤ a && a < shardAddr l sh.entry + 512 * weRows sh.entry)
      (fun j s => queueDigest x k j true (s.onShard x k j fun sh => { sh with recheck := true })) s) s) s

end Sys2Proof.Machine
end

