-- ==== Sys2Proof/Machine/StripFault.lean ====
section
/-! DEFINITION. The end of a strip by a fault (R64, R119, R77), stake additions and arrivals with check 6 of debug mode (R42, R44, R60),
and reads that meet an error (R118, R119). -/

namespace Sys2Proof.Machine

open Sys2Proof

/-! ### A strip ends -/

/-- Event bit `b` of R319. -/
def ccEvent (c : CoreId) (b : Nat) (s : State) : State := s.onCore c (raiseEvent b)

/-- Everything in flight in the furrow is discarded (R64): engines, exact transfers and their requests. -/
def dropEngines (e : Eng) : Eng :=
  { e with plg := [], hrw := [], bload := [], tlr := [], root := [], xfers := [], cmn := [], plgActive := none,
           writes := e.writes.filter fun w => e.late.any fun l => l.x.id == w.1 }

/-- An ORDERED message no longer waits for a discarded write (R349). -/
def dropOrdered (c : CoreId) (s : State) : State :=
  let late := (s.en c).late
  s.onCc c fun k => { k with sends := k.sends.map fun x =>
    { x with ordered := x.ordered.filter fun w => late.any fun l => l.x.id == w.1 } }

/-- The core's credit requests leave its die's list. -/
def dropRequests (c : CoreId) (s : State) : State :=
  (s.onDie (dieOf c) fun d => { d with reqs := d.reqs.filter fun r => r.1 != c }).onSc c fun sc => { sc with request := 0 }

/-- The strip of core `c` ends at its present schedule cycle by a fault (R64): in-flight work is discarded, all credit is returned,
and the core is faulted. Stakes, handle queues and late items stay. A launch wait ends with its launch. The cycle in which the strip
ends counts as a schedule or a stall cycle (R56, R63; log entry 43). -/
def endByFault (c : CoreId) (s : State) : State :=
  let ran := (s.sc c).strip.isSome
  let s := if (s.sc c).run != .stalled then s
    else s.onSc c fun sc => { sc with stallCyc := sc.stallCyc + 1, stripStall := satAdd 0xFFFFFFFF sc.stripStall 1 }
  let s := if ran then ccEvent c 0 (trace c 0 6 0 (handFold c true s)) else s
  let s := dropOrdered c (dropRequests c (s.onE c dropEngines))
  s.onSc c fun sc =>
    let sc := if sc.run == .running && ran && sc.stripCyc < stripLen sc then
        { sc with schedCyc := sc.schedCyc + 1, stripCyc := sc.stripCyc + 1 } else sc
    let next := if ran then sc.launch.map fun l => { l with point := some sc.wall } else none
    { sc with run := .faulted, cause := .none, strip := none, stall := none, flights := [], held := 0, lent := false,
              stopping := false, launch := next, ended := if next.isSome then none else some sc.wall,
              launchPoint := if next.isSome then sc.wall else sc.launchPoint, dlPosted := if next.isSome then false else sc.dlPosted }

/-- A hazard stops the core (R77): `row` is ROW of its record. -/
def hazardStop (c : CoreId) (source tag check row : Nat) (s : State) : State :=
  let f := hazardFlt source tag (stripCtx s c) check row
  let s := postFault c (if check == 7 then { f with strip := some ((s.sc c).stripId, (s.sc c).stripCyc - 1) } else f) s
  endByFault c (s.onSc c fun sc => setBit 0x03C 4 { sc with hazard := true, check := check })

/-- The die of core `c` is in debug mode. -/
def debugMode (s : State) (c : CoreId) : Bool := (s.die (dieOf c)).debug

/-! ### Additions and arrivals (R42, R44, R60) -/

/-- An addition of `n` to physical stake `k` is performed: it may release a stall (R42, R54), and debug mode stops the core of a strip
when the stake goes beyond 255 (R44, check 6). -/
def addStake (c : CoreId) (k n source tag : Nat) (s : State) : State :=
  let beyond := stakeOverflows s c k n && debugMode s c && (s.sc c).strip.isSome
  let s := arriveStake c k n s
  if beyond then hazardStop c source tag 6 0 s else s

/-- An arrival is performed: its push to queue `ahq` and its addition together (R60). -/
def performArrival (c : CoreId) (ahq : Option Nat) (h stk n tag : Nat) (s : State) : State :=
  let s := match ahq with
    | some q => s.onCore c fun k => { k with sc := hqAppend k.m k.sc q h }
    | none => s
  addStake c stk n 5 tag (trace c 3 2 tag s)

/-- Queue `q` has room for an arrival in the present cycle (R60): its occupancy at the cycle's start with what was pushed in it, and with
`more` pushes of the cycle still to be performed, is less than 8. -/
def arrivalRoom (sc : Sched) (q more : Nat) : Bool := vget sc.hq0 0 q + vget sc.hqp 0 q + more < 8

/-- A late transfer's arrival: performed, or held at the Square while its queue has no room or an earlier arrival waits for it (R60).
`more` counts the cycle's pushes on each queue that are still to be performed. -/
def arrive (c : CoreId) (ahq : Option Nat) (h stk n tag : Nat) (more : Nat → Nat) (s : State) : State :=
  match ahq with
  | none => performArrival c none h stk n tag s
  | some q =>
    if (s.sc c).heldArr.all (fun x => x.q != q) && arrivalRoom (s.sc c) q (more q) then performArrival c (some q) h stk n tag s
    else s.onSc c fun k => { k with heldArr := k.heldArr ++ [⟨q, h, stk, n, tag⟩] }

/-! ### Reads of an instruction that meet an error -/

/-- The strip ends at an uncorrectable read (R119, first line). `tier` is its DETAIL byte. -/
def readFault (c : CoreId) (source tag ctx tier row : Nat) (ecc : Ecc) (s : State) : State :=
  endByFault c (postFault c { cls := 0x03, source := source, tag := tag, ctx := ctx, ended := true, faulted := true,
                              row := row, detail := tier + eccCw ecc * 256 + 1 * 65536 } s)

/-- A furrow engine or TQ has read `d` from the Plot row at `a` as row `k` of its instruction (R118, R119): the row that the code
delivers; a corrected error is counted, an uncorrectable one ends the strip at this schedule cycle. -/
def readErr (c : CoreId) (source tag ctx k a : Nat) (err : ReadErr) (d : Row) (s : State) : Row × State :=
  let ecc := errAt err k
  let s := noteEcc s a ecc
  (eccRow ecc d, if eccBad ecc then readFault c source tag ctx (tierOf a) (rowField s a) ecc s else s)

/-- An engine has read `d` from hopper row `hrow` as row `k` of its instruction (R92, R119). The record's ROW holds the core hopper row
number (R190; log entry 112). -/
def readHopErr (c : CoreId) (source tag ctx k hrow : Nat) (err : ReadErr) (d : Row) (s : State) : Row × State :=
  let ecc := errAt err k
  let s := noteHopperEcc s c hrow ecc
  (eccRow ecc d, if eccBad ecc then readFault c source tag ctx 1 (hrow + s.hub.position % 2 ^ 16 * 2 ^ 48) ecc s else s)

end Sys2Proof.Machine
end

