-- ==== Sys2Proof/Machine/Transfer.lean ====
section
/-! DEFINITION. Transfers of TQ: the transfer block (R290), Commons request slots (R95), the schedule cycles and rows of every kind of
transfer (R293), conversion on fill (R193, R295), REORDER moves (R297), and what a transfer does in one schedule cycle. -/

namespace Sys2Proof.Machine

open Sys2Proof

/-! ### The transfer block (R290) -/

def xbSrc (b : BitVec 512) : Nat := bfld b 0x00 4
def xbDst (b : BitVec 512) : Nat := bfld b 0x04 4
/-- COUNT, 1 to 2^24. The manual gives another COUNT no effect and no check: 0 runs as 1, a larger one as 2^24 (DESIGN CHOICE, log
entry 113). -/
def xbCount (b : BitVec 512) : Nat := if bfld b 0x08 4 == 0 then 1 else if bfld b 0x08 4 ≤ 2 ^ 24 then bfld b 0x08 4 else 2 ^ 24
def xbPos (b : BitVec 512) : Nat := bfld b 0x0C 2
def xbSfmt (b : BitVec 512) : Nat := bfld b 0x0E 1
def xbHfmt (b : BitVec 512) : Nat := bfld b 0x0F 1
def xbRmode (b : BitVec 512) : Nat := bitsOf (bfld b 0x10 1) 0 2
def xbSat (b : BitVec 512) : Bool := bitOf (bfld b 0x10 1) 2
def xbDrill (b : BitVec 512) : Nat := bfld b 0x11 1
def xbLines (b : BitVec 512) : Nat := bfld b 0x12 1
def xbRecords (b : BitVec 512) : Bool := bitOf (bfld b 0x13 1) 0
def xbRdst (b : BitVec 512) : Bool := bitOf (bfld b 0x13 1) 1
def xbRsrc (b : BitVec 512) : Bool := bitOf (bfld b 0x13 1) 2
def xbReorder (b : BitVec 512) : Nat := bitsOf (bfld b 0x13 1) 3 2
def xbScaleOff (b : BitVec 512) : Nat := bfld b 0x14 4
def xbSetStride (b : BitVec 512) : Nat := bfld b 0x18 4

/-- T of R297: rows per unit of a REORDER move, 1 without REORDER. -/
def xbT (b : BitVec 512) : Nat :=
  match xbReorder b with
  | 1 => xbLines b * fmtBits (xbSfmt b) / 32
  | 2 => xbLines b / 32
  | _ => 1

/-- Rows that one execution moves. -/
def xbRows (b : BitVec 512) : Nat := xbCount b * xbT b

/-- Rows of the whole transfer. -/
def Xfer.total (x : Xfer) : Nat := x.offs.length * xbRows x.block

/-- Logical source row of row `k` of the transfer (R47, R297, R298). -/
def Xfer.srcRow (x : Xfer) (k : Nat) : Int :=
  let b := x.block
  let j := k % xbRows b
  let base := (xbSrc b : Int) + (x.offs.getD (k / xbRows b) (0, 0)).1
  let u := j / xbT b
  let y := j % xbT b
  let n := fmtBits (xbSfmt b)
  match xbReorder b with
  | 1 => base + (y / n * xbSetStride b + u * n + y % n : Nat)
  | 2 => base + (y * xbSetStride b + u : Nat)
  | _ => base + (j : Nat)

/-- Logical destination row of row `k` of the transfer. -/
def Xfer.dstRow (x : Xfer) (k : Nat) : Int :=
  (xbDst x.block : Int) + (x.offs.getD (k / xbRows x.block) (0, 0)).2 + (k % xbRows x.block : Nat)

/-! ### Commons slots (R95) -/

/-- Kinds of Commons request by own or other die (ring distance) and direction. -/
def cmnFrame (s : Nat) : Nat := s + (8 - s % 8) % 8
/-- Request cycle of row `k`. -/
def cmnReqCyc (isWrite : Bool) (other : Option Nat) (s k : Nat) : Nat :=
  match other with
  | some _ => cmnFrame s + 8 * (k / 2) + 6 + k % 2
  | none => if isWrite then cmnFrame s + 8 * (k / 2) + 4 + k % 2 else cmnFrame s + 8 * (k / 4) + k % 4
/-- Cycle in which row `k` lands or is performed. -/
def cmnLandCyc (isWrite : Bool) (other : Option Nat) (s k : Nat) : Nat :=
  cmnReqCyc isWrite other s k + 22 + (match other with
    | some h => 8 + 16 * h
    | none => 0)

/-! ### Streams (R292), in the order P, W, CR, CW, CX, FA, FB, L -/

/-- Does a fill of hopper `hop` go through port B (R190, R248)? -/
def hopPortB (hop : Nat) : Bool := hop == 1 || hop == 3 || hop == 5

/-- First core hopper row of half `half` of hopper `hop` (R190, R248). -/
def hopBase (hop half : Nat) : Nat :=
  match hop with
  | 0 => 64 * half
  | 1 => 128 + 256 * half
  | 2 => 640 + 4 * half
  | 3 => 648 + 16 * half
  | 4 => 680 + 128 * half
  | 5 => 936 + 64 * half
  | 6 => 1064 + 2 * half
  | _ => 1068 + half

/-- The hopper row `r` of a core, as it stood at the start of wall cycle `w` (R194). -/
def hopRow (w : Nat) (m : Mem1) (r : Nat) : Row := startRow m w (2 ^ 60 + r) (readRowAt m.hop (512 * r))
/-- A hopper row written through a fill port. -/
def hopWrite (c : CoreId) (r : Nat) (d : Row) (s : State) : State :=
  let w := (s.sc c).wall
  s.onM c fun m =>
    let m := noteWas w (2 ^ 60 + r) (readRowAt m.hop (512 * r)) m
    { m with hop := writeRowAt m.hop (512 * r) d }

/-! ### Conversion on fill (R193, R295) -/

/-- A fill that converts: into A or B from another format, from FP32 (the split of R153) or from record rows. -/
def Xfer.conv (x : Xfer) : Bool :=
  x.hop < 2 && (xbRecords x.block || xbSfmt x.block != xbHfmt x.block || xbHfmt x.block == 0)
/-- A converting fill into an MX format, in group order. -/
def Xfer.group (x : Xfer) : Bool := x.conv && isMx (xbHfmt x.block) && !isMx (xbSfmt x.block)
/-- Container bits of a hopper element (R191). -/
def hopBits (f : Nat) : Nat := if fmtBits f == 6 then 8 else fmtBits f
/-- Source elements of one source row. -/
def Xfer.srcPer (x : Xfer) : Nat := if xbRecords x.block then 64 else perRow (xbSfmt x.block)
/-- Source format: the w fields of record rows are FP32. -/
def Xfer.sfmt (x : Xfer) : Nat := if xbRecords x.block then 0 else xbSfmt x.block
/-- Row `k` among those read so far. -/
def Xfer.got (x : Xfer) (k : Nat) : Row :=
  match x.buf.find? (fun y => y.1 == k) with
  | some y => y.2
  | none => 0
/-- Source element `j` of the fill. -/
def Xfer.srcElem (x : Xfer) (j : Nat) : Nat :=
  let r := x.got (j / x.srcPer)
  let i := j % x.srcPer
  if xbRecords x.block then r.field (256 * (i / 32) + 4 * (i % 32)) 4 else r.elem (fmtBits x.sfmt) i
/-- The random share of source element `j` (R175, R295). -/
def Xfer.share (x : Xfer) (j : Nat) : Nat :=
  if xbRmode x.block == 2 then drlEval x.seed x.draw x.drill (j / x.srcPer) (j % x.srcPer) [] % 16 else 0
/-- Hopper element of source element `j` of an elementwise fill; an FP32 element is split (R153). -/
def Xfer.hopElem (x : Xfer) (j : Nat) : Nat :=
  let v := fmtDecode x.sfmt (x.srcElem j)
  let code := fmtRound (xbHfmt x.block) (rndOf (xbRmode x.block) (x.share j)) (xbSat x.block) v
  if xbHfmt x.block == 0 then
    let p := splitFp32 (if x.sfmt == 0 then x.srcElem j else code)
    p.1 + 2 ^ 16 * p.2
  else code
/-- Scale and codes of line `i` in group `q` (R142). -/
def Xfer.groupBlock (x : Xfer) (q i : Nat) : Nat × List Nat :=
  mxBlock (xbHfmt x.block) (xbRmode x.block) ((List.range 32).map fun e =>
    let j := (q * xbLines x.block + i) * 32 + e
    (fmtDecode x.sfmt (x.srcElem j), x.share j))

/-- A fill that slices FP64 into SLICE8 (R154, R155), each line under its own exponent. -/
def Xfer.slice (x : Xfer) : Bool := x.conv && x.sfmt == 0x0E && xbHfmt x.block == 0x12 && xbLines x.block != 0
/-- Source elements of the whole fill. -/
def Xfer.elems (x : Xfer) : Nat := x.total * x.srcPer
/-- Rows of one SLICE8 plane, with an INT8 matrix's layout (R155). -/
def Xfer.planeRows (x : Xfer) : Nat := ceilDiv x.elems 512

/-- One write of a fill: a row of the element half or of the scale half, the first and the last source row it needs, and how many cycles
after the last one's arrival it is due. -/
structure FillWrite where
  scale : Bool
  idx   : Nat
  first : Nat
  last  : Nat
  off   : Nat
  deriving DecidableEq, Repr

/-- The writes of a fill, as they fall due (R293: 3 after its source row; R295: a group from 2 after its last source row, its scale row
after it). The manual gives no cycles for an elementwise conversion, which is taken to need 3 cycles as well, and no places and cycles
for the SLICE8 planes and exponents, which follow one another from DST_ROW on (DESIGN CHOICE, log entry 114). -/
def Xfer.fillWrites (x : Xfer) : List FillWrite :=
  let n := x.total
  if !x.conv then (List.range n).map fun k => ⟨false, k, k, k, 3⟩
  else if x.group then
    let l := xbLines x.block
    let groups := n * x.srcPer / (32 * l)
    let per := l * 32 * hopBits (xbHfmt x.block) / 4096
    let srcFirst := fun q => q * 32 * l / x.srcPer
    let srcLast := fun q => ((q + 1) * 32 * l - 1) / x.srcPer
    (List.range groups).flatMap (fun q =>
      ((List.range per).map fun y => ⟨false, q * per + y, srcFirst q, srcLast q, 2 + y⟩) ++
      ((List.range (ceilDiv (groups * l) 512)).filter fun r =>
        q == (if 512 * (r + 1) ≤ groups * l then ceilDiv (512 * (r + 1)) l else groups) - 1).map fun r =>
          ⟨true, r, srcLast q, srcLast q, 2 + per⟩)
  else if x.slice then
    (List.range (7 * x.planeRows + ceilDiv (xbLines x.block) 256)).map fun j => ⟨false, j, 0, n - 1, 3 + j⟩
  else
    let eh := 4096 / hopBits (xbHfmt x.block)
    (List.range (ceilDiv (n * x.srcPer) eh)).map fun j =>
      ⟨false, j, j * eh / x.srcPer, (let k := ((j + 1) * eh - 1) / x.srcPer; if k < n then k else n - 1), 3⟩

/-- The exponent of line `i` of a sliced fill (R154): its elements are the source elements whose number is `i` modulo LINES. -/
def Xfer.sliceExpOf (x : Xfer) (i : Nat) : Int :=
  let l := xbLines x.block
  sliceExp ((List.range (x.elems / l)).map fun k => fmtDecode x.sfmt (x.srcElem (k * l + i)))

/-- Row `j` of a sliced fill (R155): seven planes, then the lines' INT16 exponents. -/
def Xfer.sliceRow (x : Xfer) (j : Nat) : Row :=
  let l := xbLines x.block
  let exps := (List.range l).map x.sliceExpOf
  if j < 7 * x.planeRows then
    packRow 8 ((List.range 512).map fun i =>
      let n := 512 * (j % x.planeRows) + i
      if n < x.elems then
        wrap 8 ((slicesOf (exps.getD (n % l) 0) (fmtDecode x.sfmt (x.srcElem n))).getD (j / x.planeRows) 0) else 0)
  else packRow 16 (((exps.drop (256 * (j - 7 * x.planeRows))).take 256).map (wrap 16))

/-- The row that a fill write stores. -/
def Xfer.fillRow (x : Xfer) (w : FillWrite) : Row :=
  let nb := hopBits (xbHfmt x.block)
  if !x.conv then x.got w.idx
  else if x.slice then x.sliceRow w.idx
  else if x.group then
    let l := xbLines x.block
    if w.scale then
      packRow 8 ((List.range 512).map fun i =>
        let j := 512 * w.idx + i
        if j < x.elems / 32 then (x.groupBlock (j / l) (j % l)).1 else 0)
    else
      let per := l * 32 * nb / 4096
      let q := w.idx / per
      let blocks := (List.range l).map fun i => (x.groupBlock q i).2
      packRow nb ((List.range (4096 / nb)).map fun i =>
        let j := (w.idx % per) * (4096 / nb) + i
        (blocks.getD (j % l) []).getD (j / l) 0)
  else
    packRow nb ((List.range (4096 / nb)).map fun i =>
      let j := w.idx * (4096 / nb) + i
      if j < x.elems then x.hopElem j else 0)

/-- The core hopper row that a fill write stores to (R190): the scale half is SA for port A, SB for port B. -/
def Xfer.fillDst (x : Xfer) (w : FillWrite) : Nat :=
  if w.scale then hopBase (if x.hop == 0 then 2 else 3) x.half + xbScaleOff x.block + w.idx
  else hopBase x.hop x.half + xbDst x.block + w.idx

/-- A floating-point format that is not block-scaled. -/
def isFp (f : Nat) : Bool := (fmtOf f).isSome && !isMx f
/-- An integer format that R147 converts from. -/
def isInt (f : Nat) : Bool := f == 0x05 || f == 0x06 || f == 0x07 || f == 0x0F || f == 0x10

/-- A conversion whose result R147 and R295 do not state: a block-scaled or sliced source in another format, packed bits, integers
between integer formats, SLICE8 without lines. The load check refuses those that R295 accepts in no layout (log entry 104). -/
def Xfer.unstated (x : Xfer) : Bool :=
  let f := x.sfmt
  let h := xbHfmt x.block
  x.conv && !x.slice &&
    !((isFp f && (isFp h || isMx h || h == 0x05 || h == 0x06 || h == 0x07 || h == 0x10)) || (isInt f && (isFp h || isMx h)) ||
      (f == 0x0F && h == 0x10))

/-- The row that a fill write stores; where the manual states no result, a free value. -/
def fillData (x : Xfer) (w : FillWrite) (s : State) : Row × State :=
  if x.unstated then (Config.freeRow s.free, s.fresh) else (x.fillRow w, s)

/-! ### REORDER (R297) -/

/-- Destination row `k` of a REORDER move. -/
def Xfer.reorderRow (x : Xfer) (k : Nat) : Row :=
  let b := x.block
  let t := xbT b
  let u := k / t
  let m := xbLines b
  let y := k % t
  if xbReorder b == 1 then
    let n := fmtBits (xbSfmt b)
    let g := 32 / n
    packRow n ((List.range (4096 / n)).map fun i =>
      let j := y * (4096 / n) + i
      let col := j / m
      let line := j % m
      let d := line % 32
      (x.got (u * t + line / 32 * n + d / g)).elem n (d % g * 128 + col))
  else
    packRow 8 ((List.range 512).map fun i =>
      let j := 512 * y + i
      let q := j / m
      let line := j % m
      (x.got (u * t + line / 32)).elem 8 (128 * (q / 4) + 4 * (line % 32) + q % 4))

/-! ### Cycles (R293) -/

/-- The transfer reads its source rows from Plot. -/
def XKind.fromPlot : XKind → Bool
  | .plotFill | .plotPlot | .plotCmn | .outPlot | .reorder => true
  | .cmnFill | .cmnPlot | .outCmn | .inLate | .gate | .ungate | .none => false
/-- The transfer requests its source rows from the Commons. -/
def XKind.fromCmn : XKind → Bool
  | .cmnFill | .cmnPlot | .outCmn => true
  | .plotFill | .plotPlot | .plotCmn | .outPlot | .reorder | .inLate | .gate | .ungate | .none => false
/-- The transfer is a fill from Plot or the Commons. -/
def XKind.isFill : XKind → Bool
  | .plotFill | .cmnFill => true
  | .plotPlot | .cmnPlot | .plotCmn | .outPlot | .outCmn | .inLate | .reorder | .gate | .ungate | .none => false

/-- Schedule cycle in which source row `k` is read, requested, or (at a Commons source) lands. -/
def Xfer.readCyc (x : Xfer) (k : Nat) : Nat :=
  match x.kind with
  | .plotCmn => cmnReqCyc true x.other x.s k - 2
  | .cmnFill | .cmnPlot | .outCmn => cmnReqCyc false x.other x.s k
  | .plotFill | .plotPlot | .outPlot | .reorder | .inLate | .gate | .ungate | .none => x.s + k
/-- Schedule cycle in which source row `k` is in hand. -/
def Xfer.handCyc (x : Xfer) (k : Nat) : Nat :=
  if x.kind.fromCmn then cmnLandCyc false x.other x.s k else x.readCyc k

/-- Last cycle of a list of cycles. -/
def maxOf (l : List Nat) : Nat := l.foldl (fun a b => if a < b then b else a) 0

/-- Give each due write the first cycle from its own on that no earlier write of the fill has: one row per cycle and port (R193). -/
def placeWrites : List (Nat × FillWrite) → Nat → List (Nat × FillWrite)
  | [], _ => []
  | w :: ws, free => let u := if w.1 < free then free else w.1; (u, w.2) :: placeWrites ws (u + 1)

/-- The writes of a scheduled fill with their schedule cycles (R193, R293, R295). The rows of a group keep the cycles of R295; the other
rows of a conversion wait for the port (log entry 114). -/
def Xfer.fillCycs (x : Xfer) : List (Nat × FillWrite) :=
  let due := x.fillWrites.map fun w => (x.handCyc w.last + w.off, w)
  if !x.conv then due
  else if x.group then
    let rows := due.filter fun w => !w.2.scale
    let take := fun (us : List Nat) (u : Nat) => ((List.range (us.length + 1)).map (u + ·)).find? fun v => !us.contains v
    rows ++ ((due.filter fun w => w.2.scale).foldl (fun (l : List Nat × List (Nat × FillWrite)) w =>
      let v := (take l.1 w.1).getD w.1
      (v :: l.1, l.2 ++ [(v, w.2)])) (rows.map (·.1), [])).2
  else placeWrites due 0

/-- Completion cycle of a transfer (R193, R293, R297). A fill from the Commons completes as R193 and R293 say, 6 or 10 cycles after its
last landing, where R96 and its worked example have the last landing itself (DESIGN CHOICE, log entry 115). -/
def Xfer.compCyc (x : Xfer) : Nat :=
  let n := x.total
  match x.kind with
  | .plotFill | .cmnFill => x.handCyc (n - 1) + (if x.conv then 10 else 6)
  | .plotPlot => x.s + n + 3
  | .reorder => x.s + (n / xbT x.block + 1) * xbT x.block + 1
  | .cmnPlot | .outCmn => cmnLandCyc false x.other x.s (n - 1)
  | .plotCmn => cmnLandCyc true x.other x.s (n - 1)
  | .outPlot => x.s + n + 1
  | .inLate | .gate | .ungate | .none => x.s + 1

/-- Streams that a transfer uses (R292). -/
def Xfer.streams (x : Xfer) : List Nat :=
  let cr := if x.other.isSome then 4 else 2
  let cw := if x.other.isSome then 4 else 3
  let f := if hopPortB x.hop then 6 else 5
  match x.kind with
  | .plotFill => [0, f]
  | .cmnFill => [cr, f]
  | .plotPlot | .reorder => [0, 1]
  | .cmnPlot => [cr, 1]
  | .plotCmn => [0, cw]
  | .outPlot => [0, 7]
  | .outCmn => [cr, 7]
  | .inLate | .gate | .ungate => [7]
  | .none => []

/-- Last access of a transfer on each stream it uses. -/
def Xfer.lastUse (x : Xfer) (st : Nat) : Nat :=
  let n := x.total
  match st with
  | 0 => x.readCyc (n - 1)
  | 1 => if x.kind == .reorder then x.compCyc else if x.kind == .plotPlot then x.s + n + 3 else x.compCyc
  | 2 | 3 | 4 => if x.kind == .plotCmn then cmnReqCyc true x.other x.s (n - 1) else cmnReqCyc false x.other x.s (n - 1)
  | 5 | 6 => maxOf (x.fillCycs.map (·.1))
  | _ => x.compCyc

/-! ### What a transfer does in one schedule cycle -/

/-- A module address as a system address's row on another die or module: the module address that a handle forms. -/
def xAddr (s : State) (c : CoreId) (h : Nat) (i : Int) : Nat × Bool := hAddr (handle s c h) i

/-- Replace transfer `id` of core `c`. -/
def setXfer (c : CoreId) (x : Xfer) (s : State) : State :=
  s.onE c fun e => { e with xfers := e.xfers.map fun y => if y.id == x.id then x else y }

/-- Logical position of a transfer's far end: its own module's unless the block names another (R290). -/
def Xfer.farPos (x : Xfer) (s : State) : Nat :=
  if xbRdst x.block || xbRsrc x.block then xbPos x.block else s.hub.position

/-- The plane of a row transaction (R373). -/
def rowPlane (srcCore a : Nat) : Nat := (srcCore + a / 512) % 4

/-- The transfer's remote end lies in the host window, whatever its POS (R488): so does its first row (log entry 62). -/
def Xfer.hostEnd (s : State) (c : CoreId) (x : Xfer) : Bool :=
  (xbRdst x.block && placeOf (xAddr s c x.dstH (x.dstRow 0)).1 == .window) ||
    (xbRsrc x.block && placeOf (xAddr s c x.srcH (x.srcRow 0)).1 == .window)

/-- Row `k` is handed to the Square toward its destination: a late write, awaited by ORDERED messages (R349). A row of the host window goes
to the Malob link (R488). A row outside the populated memory is discarded with an address record, and counts as done (R107, R126). -/
def handOut (c : CoreId) (x : Xfer) (k : Nat) (d : Row) (s : State) : State :=
  let (a, ok) := xAddr s c x.dstH (x.dstRow k)
  let s := foldWrite c 3 x.tag a d s
  let s := if k == 0 then s.onE c fun e => { e with late := e.late ++ [⟨x, false, x.total, 0, 0, [], [], false⟩] } else s
  if x.hostEnd s c then s.onHl fun l => { l with toHost := l.toHost ++ [(rowBase a, d)] }
  else if !(ok && populated a) then
    (postFault c (addressFault 3 x.tag (slotCtx s c x.slot.val) x.dstH 0 (wrap 32 (x.dstRow k))
      (rowBase a % 2 ^ 48 + x.farPos s % 2 ^ 16 * 2 ^ 48)) s).onE c fun e =>
      { e with late := e.late.map fun l => if l.x.id == x.id then { l with arrived := l.arrived + 1 } else l }
  else
  let s := s.onE c fun e => { e with writes := e.writes ++ [(x.id, x.farPos s, rowBase a)] }
  putItem ⟨.write, rowPlane c.val a, x.farPos s, a / 0x1000000 % 128, s.hub.position, c.val, x.tag, a, k, x.total,
      0, k + 1 == x.total, d⟩ s

/-- The requests of a remote read: maximal runs of consecutive rows, at most 256 each (R375): first row of the transfer, rows,
module address; last run first. -/
def addRun (addr : Nat → Nat) (l : List (Nat × Nat × Nat)) (k : Nat) : List (Nat × Nat × Nat) :=
  match l with
  | (f, n, a) :: r => if addr k == a + 512 * n && n < 256 then (f, n + 1, a) :: r else (k, 1, addr k) :: (f, n, a) :: r
  | [] => [(k, 1, addr k)]

/-- Read requests leave while the core has fewer than 256 outstanding (R375). -/
def sendReqs (c : CoreId) : Nat → State → State
  | 0, s => s
  | n + 1, s =>
    let e := s.en c
    if 256 ≤ (e.late.map fun l => l.out.length).sum then s
    else match e.late.find? (fun l => !l.runs.isEmpty) with
    | none => s
    | some l =>
      match l.runs with
      | [] => s
      | (f, m, a) :: rs =>
        let s := s.onE c fun e =>
          { e with nextReq := (e.nextReq + 1) % 256,
                   late := e.late.map fun y => if y.x.id == l.x.id then { y with runs := rs, out := y.out ++ [(e.nextReq, f, m)] } else y }
        sendReqs c n (putItem ⟨.readReq, rowPlane c.val a, l.x.farPos s, a / 0x1000000 % 128, s.hub.position, c.val,
          l.x.tag, a, 0, m, e.nextReq, true, 0⟩ s)

/-- The source of a late read lies in another module. -/
def Xfer.remoteSrc (x : Xfer) (c : CoreId) (s : State) : Bool := xbRsrc x.block && x.farPos s != s.hub.position && !x.hostEnd s c

/-- The request of an inbound late transfer is handed to the Square (R293); rows of another module are asked for there (R375). -/
def handIn (c : CoreId) (x : Xfer) (s : State) : State :=
  let runs := if x.remoteSrc c s then
      ((List.range x.total).foldl (addRun fun k => (xAddr s c x.srcH (x.srcRow k)).1) []).reverse else []
  sendReqs c 256 (s.onE c fun e => { e with late := e.late ++ [⟨x, true, x.total, 0, 0, runs, [], false⟩] })

/-- A gate command is handed over (R121, R293): its group stops accepting writes, or starts to be zeroed. A command for a group outside
the context's mask is refused. `dstH` is the group. -/
def gateCommand (c : CoreId) (x : Xfer) (un : Bool) (s : State) : State :=
  let d := dieOf c
  let g := x.dstH
  let ctx := slotCtx s c x.slot.val
  if (vget (s.die d).ctxGroups 0 ctx).getLsbD g then
    let w := (s.sc c).wall
    s.onDie d fun k => { k with groupState := vset k.groupState g (if un then 3 else 1),
                                gates := k.gates ++ [⟨Fin.ofNat 16 g, c, x.astk, un, x.tag, w⟩] }
  else postFault c { cls := 0x06, source := 3, tag := x.tag, ctx := ctx, detail := g + 2 * 256 } s

/-- The reads, requests, writes and hand-overs of transfer `x` of core `c` in schedule cycle `u`. -/
def xferCycle (c : CoreId) (u : Nat) (x : Xfer) (s : State) : State :=
  let ctx := slotCtx s c x.slot.val
  let n := x.total
  -- reads and read requests
  let (x, s) :=
    if x.rd < n && x.readCyc x.rd == u then
      if x.kind.fromPlot then
        let (d, s) := readH c 3 x.tag ctx x.srcH (x.srcRow x.rd) s
        let (d, s) := readErr c 3 x.tag ctx x.rd (hAddr (handle s c x.srcH) (x.srcRow x.rd)).1 x.err d s
        ({ x with rd := x.rd + 1, buf := (x.rd, d) :: x.buf }, s)
      else if x.kind.fromCmn then
        let a := xAddr s c x.srcH (x.srcRow x.rd)
        ({ x with rd := x.rd + 1 }, s.onE c fun e => { e with cmn := e.cmn ++ 
          [⟨x.id, x.rd, a.1, a.2, x.srcH, x.srcRow x.rd, false, u, (s.sc c).wall, cmnLandCyc false x.other x.s x.rd, 0, false, x.tag⟩] })
      else (x, s)
    else (x, s)
  -- writes
  let (x, s) :=
    match x.kind with
    | .plotFill | .cmnFill =>
      let due := x.fillCycs.filter fun w => w.1 == u
      ({ x with wr := x.wr + due.length },
        forAll (due.map (·.2)) (fun w s => if x.fillDst w < 1280 then hopWrite c (x.fillDst w) (fillData x w s).1 (fillData x w s).2 else s) s)
    | .plotPlot =>
      if x.s + x.wr + 4 == u && x.wr < n then
        let d := x.got x.wr
        let s := foldWrite c 3 x.tag (xAddr s c x.dstH (x.dstRow x.wr)).1 d s
        ({ x with wr := x.wr + 1 }, writeH c 3 x.tag ctx x.dstH (x.dstRow x.wr) d s)
      else (x, s)
    | .reorder =>
      if x.s + x.wr + xbT x.block + 2 == u && x.wr < n then
        let d := x.reorderRow x.wr
        let s := foldWrite c 3 x.tag (xAddr s c x.dstH (x.dstRow x.wr)).1 d s
        ({ x with wr := x.wr + 1 }, writeH c 3 x.tag ctx x.dstH (x.dstRow x.wr) d s)
      else (x, s)
    | .plotCmn =>
      if cmnReqCyc true x.other x.s x.wr == u && x.wr < n then
        let a := xAddr s c x.dstH (x.dstRow x.wr)
        let s := s.onE c fun e => { e with
          cmn := e.cmn ++ 
            [⟨x.id, x.wr, a.1, a.2, x.dstH, x.dstRow x.wr, true, u, (s.sc c).wall, cmnLandCyc true x.other x.s x.wr, x.got x.wr, false, x.tag⟩],
          writes := if x.other.isSome then e.writes ++ [(x.id, s.hub.position, rowBase a.1)] else e.writes }
        ({ x with wr := x.wr + 1 }, s)
      else (x, s)
    | .outPlot =>
      if x.s + x.wr + 2 == u && x.wr < n then ({ x with wr := x.wr + 1 }, handOut c x x.wr (x.got x.wr) s) else (x, s)
    | .inLate => if x.s + 1 == u && x.wr == 0 then ({ x with wr := 1 }, handIn c x s) else (x, s)
    | .none =>
      if x.s + 1 == u && x.wr == 0 then ({ x with wr := 1 }, arrive c x.ahq x.dstH x.astk x.astkN x.tag (fun _ => 0) s) else (x, s)
    | .gate => if x.s + 1 == u && x.wr == 0 then ({ x with wr := 1 }, gateCommand c x false s) else (x, s)
    | .ungate => if x.s + 1 == u && x.wr == 0 then ({ x with wr := 1 }, gateCommand c x true s) else (x, s)
    | .cmnPlot | .outCmn => (x, s)
  setXfer c x s

/-- Nothing of the transfer is left for the schedule: a Commons source keeps it until its last row has landed. -/
def Xfer.over (x : Xfer) : Bool :=
  match x.kind with
  | .plotFill | .cmnFill => x.wr == x.fillWrites.length
  | .plotPlot | .reorder | .outPlot | .plotCmn | .cmnPlot | .outCmn => x.wr == x.total
  | .inLate | .gate | .ungate | .none => x.wr == 1

/-- TQ's scheduled accesses of schedule cycle `u`. -/
def tqCycle (c : CoreId) (u : Nat) (s : State) : State :=
  let s := forAll (s.en c).xfers (fun x s => if (s.sc c).strip.isNone then s else xferCycle c u x s) s
  s.onE c fun e => { e with xfers := e.xfers.filter fun x => !x.over }

end Sys2Proof.Machine
end

