-- ==== Sys2Proof/Machine/PloughMath.lean ====
section
/-! DEFINITION. The Plough's arithmetic: operand fields (R286), classes and feed cycles (R189, R197), hopper elements (R191), the
cell operations (R149 to R153, R199 to R201), and the drain (R203 to R210). -/

namespace Sys2Proof.Machine

open Sys2Proof

/-! ### Operand fields (R286) -/

def pwPb (w : IWord) : Nat := w.fld 64 6
def pwHalf0 (w : IWord) : Nat := w.fld 70 1
def pwFstk (w : IWord) : Nat := w.fld 71 6
def pwFstkN (w : IWord) : Nat := w.fld 77 4
def pwRstk (w : IWord) : Nat := w.fld 81 6
def pwRstkN (w : IWord) : Nat := w.fld 87 4
def pwW0H (w : IWord) : Nat := w.fld 91 6
def pwW1H (w : IWord) : Nat := w.fld 97 6
def pwW1En (w : IWord) : Bool := w.getLsbD 103

def pbFold (b : BitVec 512) : Nat := bfld b 0x00 1
def pbFmtA (b : BitVec 512) : Nat := bfld b 0x01 1
def pbFmtB (b : BitVec 512) : Nat := bfld b 0x02 1
def pbKc (b : BitVec 512) : Nat := 32 * (bfld b 0x03 1 + 1)
def pbKlevels (b : BitVec 512) : Nat := bfld b 0x04 1
def pbArrays (b : BitVec 512) : Nat := bitsOf (bfld b 0x05 1) 0 4
def pbOfmt (b : BitVec 512) : Nat := bfld b 0x06 1
def pbRmode (b : BitVec 512) : Nat := bitsOf (bfld b 0x07 1) 0 2
def pbSat (b : BitVec 512) : Bool := bitOf (bfld b 0x07 1) 2
def pbDshift (b : BitVec 512) : Int := signedOf 8 (bfld b 0x08 1)
def pbDrill (b : BitVec 512) : Nat := bfld b 0x09 1
def pbW0Row (b : BitVec 512) : Nat := bfld b 0x10 4
def pbW1Row (b : BitVec 512) : Nat := bfld b 0x14 4

/-! ### Classes and cycles (R189, R196, R197) -/

/-- The classes of R189. -/
inductive PClass where
  | i8 | i4 | f8 | mx | mx4 | f16 | f32 | sl | b8
  deriving DecidableEq, Repr

/-- The class that two formats form, none where they form none. -/
def pclass (fa fb : Nat) : Option PClass :=
  if (fa == 5 || fa == 6) && (fb == 5 || fb == 6) then some .i8
  else if fa == 7 && fb == 7 then some .i4
  else if (fa == 3 || fa == 4) && (fb == 3 || fb == 4) then some .f8
  else if fa == 0x0C && fb == 0x0C then some .mx4
  else if isMx fa && isMx fb then some .mx
  else if (fa == 1 && fb == 1) || (fa == 2 && fb == 2) then some .f16
  else if fa == 0 && fb == 0 then some .f32
  else if fa == 0x12 && fb == 0x12 then some .sl
  else if fa == 0x11 && fb == 0x11 then some .b8
  else none

/-- Feed cycles of `k` indices: k × c_f. -/
def feedCycles (c : Option PClass) (k : Nat) : Nat :=
  match c with
  | some .i4 | some .mx4 => k / 2
  | some .f16 => 2 * k
  | some .f32 => 6 * k
  | some .i8 | some .f8 | some .mx | some .sl | some .b8 | none => k

def PlgRun.cls (r : PlgRun) : Option PClass := pclass (pbFmtA r.block) (pbFmtB r.block)
/-- F of R197. -/
def PlgRun.feed (r : PlgRun) : Nat := feedCycles r.cls (pbKc r.block)
/-- E of R196. -/
def PlgRun.total (r : PlgRun) : Nat := loopTotal r.loop
/-- C of R196. -/
def PlgRun.chunks (r : PlgRun) : Nat := (List.range (pbKlevels r.block)).foldl (fun n l => n * loopCnt r.loop l) 1
/-- P of R196. -/
def PlgRun.npass (r : PlgRun) : Nat := r.total / r.chunks
/-- a of R197. -/
def PlgRun.passCyc (r : PlgRun) : Nat := if r.chunks * r.feed < 32 then 32 else r.chunks * r.feed
/-- First cycle of the feed window of execution `e`. -/
def PlgRun.begin_ (r : PlgRun) (e : Nat) : Nat := r.t0 + r.rho + e / r.chunks * r.passCyc + e % r.chunks * r.feed
/-- Cycle of drain row `d` of pass `p`. -/
def PlgRun.drainCyc (r : PlgRun) (p d : Nat) : Nat := r.t0 + r.rho + (p + 1) * r.passCyc + 62 + d
/-- First cycle after its occupancy. -/
def PlgRun.occEnd (r : PlgRun) : Nat := r.t0 + r.rho + r.npass * r.passCyc
/-- Completion cycle. -/
def PlgRun.comp (r : PlgRun) : Nat := r.occEnd + 93

/-- Tile shape Ma × Nb of a fold (R185). -/
def foldMa (f : Nat) : Nat := match f with | 0 => 32 | 1 => 64 | _ => 128
def foldNb (f : Nat) : Nat := match f with | 0 => 128 | 1 => 64 | _ => 32
/-- A row of cell row `r` in array `a`. -/
def cellI (f a r : Nat) : Nat := match f with | 0 => r | 1 => 32 * (a / 2) + r | _ => 32 * a + r
/-- B column of cell column `j` in array `a`. -/
def cellJ (f a j : Nat) : Nat := match f with | 0 => 32 * a + j | 1 => 32 * (a % 2) + j | _ => j

/-- Does the operation accumulate in INT48? -/
def accInt (op : Nat) (c : Option PClass) : Bool :=
  op == 0x16 || c == some .i8 || c == some .i4 || c == some .sl || c == some .b8
/-- Is an INT48 accumulator unsigned (R150, R200)? -/
def accUns (op : Nat) (b : BitVec 512) : Bool :=
  if op == 0x10 then pbFmtA b == 6 && pbFmtB b == 6 else op != 0x13 && op != 0x14

/-- The initial value of a cell (R184, R200). -/
def cellInit (op : Nat) (c : Option PClass) : Nat :=
  if op == 0x13 then (if accInt op c then 2 ^ 47 - 1 else 0x7F800000)
  else if op == 0x14 then (if accInt op c then 2 ^ 47 else 0xFF800000)
  else 0

/-! ### Hopper elements (R191) -/

/-- Element number `n` of a half: `rows` are the half's rows. -/
def hopElemOf (rows : List Row) (f n : Nat) : Nat :=
  let nb := hopBits f
  (rows.getD (n / (4096 / nb)) 0).elem nb (n % (4096 / nb)) % 2 ^ (if fmtBits f == 6 then 6 else nb)

/-- Rows of a half that a chunk fills. -/
def chunkRows (f lines kc : Nat) : Nat := ceilDiv (lines * kc * hopBits f) 4096

/-- Scale byte `n` of a scale half. -/
def scaleOf (rows : List Row) (n : Nat) : Nat := (rows.getD (n / 512) 0).elem 8 (n % 512)

/-! ### Cell operations (R149 to R153, R199 to R201) -/

/-- One integer step. -/
def intStep (op : Nat) (acc a b : Int) : Int :=
  match op with
  | 0x10 => acc + a * b
  | 0x11 => acc + (a - b) * (a - b)
  | 0x12 => acc + (if a ≤ b then b - a else a - b)
  | 0x13 => if a + b ≤ acc then a + b else acc
  | _ => if acc ≤ a + b then a + b else acc

/-- An FP32 operation under its code. -/
def fpDiff (op : Nat) (a b : Num) : Num :=
  match op with
  | 0x10 => a.mul b
  | 0x11 => let d := a.sub b; d.mul d
  | _ => (a.sub b).abs

/-- One index of class F16 (R152, R200). -/
def f16Step (op : Nat) (acc : Nat) (a b : Num) : Nat :=
  let c := fp32.decode acc
  match op with
  | 0x10 => fp32.rne (c.add (a.mul b))
  | 0x11 => let d := fp32.decode (fp32.rne (a.sub b)); fp32.rne (c.add (d.mul d))
  | 0x12 => let d := fp32.decode (fp32.rne (a.sub b)); fp32.rne (c.add d.abs)
  | 0x13 => fp32.rne ((fp32.decode (fp32.rne (a.add b))).min c)
  | _ => fp32.rne ((fp32.decode (fp32.rne (a.add b))).max c)

/-- The three fused operations of one FP32 index (R153). -/
def f32Step (acc a b : Nat) : Nat :=
  let hi := fun x => bf16.decode (x % 2 ^ 16)
  let lo := fun x => bf16.decode (x / 2 ^ 16)
  let f := fun acc (x y : Num) => fp32.rne ((fp32.decode acc).add (x.mul y))
  f (f (f acc (lo a) (hi b)) (hi a) (lo b)) (hi a) (hi b)

/-- The operands of one cell: its A and B element codes in increasing index, and the scales of each group. -/
def cellStep (op : Nat) (c : Option PClass) (b : BitVec 512) (acc : Nat) (as bs : List Nat) (sc : List (Nat × Nat)) : Nat :=
  let fa := pbFmtA b
  let fb := pbFmtB b
  let ps := as.zip bs
  if op == 0x15 then (acc + (ps.map fun p => popcount 8 (p.1 ^^^ p.2)).sum) % 2 ^ 48
  else if op == 0x16 then (acc + (ps.filter fun p => (fmtDecode fa p.1).lt (fmtDecode fb p.2)).length) % 2 ^ 48
  else if accInt op c then
    let z : Int := ps.foldl (fun x p => intStep op x (intVal fa p.1) (intVal fb p.2))
      (if op == 0x11 || op == 0x12 then (acc : Int) else signedOf 48 acc)
    if op == 0x11 || op == 0x12 then (if z ≤ 2 ^ 48 - 1 then z.toNat else 2 ^ 48 - 1) else wrap 48 z
  else match c with
    | some .f16 => ps.foldl (fun x p => f16Step op x (fmtDecode fa p.1) (fmtDecode fb p.2)) acc
    | some .f32 => ps.foldl (fun x p => f32Step x p.1 p.2) acc
    | _ => ((chunksOf 32 ps.length ps).zip sc).foldl (fun x g =>
        let sum := exactSum (g.1.map fun p => fpDiff op (fmtDecode fa p.1) (fmtDecode fb p.2))
        groupAdd fp32 x (if g.2.1 == 0xFF || g.2.2 == 0xFF then .nan else sum.scale ((g.2.1 : Int) + g.2.2 - 254))) acc
where
  intVal (f code : Nat) : Int := if f == 0x06 then (code % 256 : Nat) else signedOf (fmtBits f) code

/-- Does the class use scales? -/
def PlgRun.scaled (r : PlgRun) : Bool := r.cls == some .mx || r.cls == some .mx4

/-- The hopper rows that an execution reads in cycle `k` of its feed window (R194): hopper and row of the half. -/
def PlgRun.readsAt (r : PlgRun) (k : Nat) : List (Nat × Nat) :=
  let b := r.block
  let kc := pbKc b
  let part := fun (hop f lines : Nat) =>
    ((List.range (chunkRows f lines kc)).filter fun j => feedCycles r.cls (j * (4096 / hopBits f) / lines) == k).map fun j => (hop, j)
  let sc := fun (hop lines : Nat) =>
    ((List.range (ceilDiv (kc / 32 * lines) 512)).filter fun j => feedCycles r.cls (32 * (512 * j / lines)) == k).map fun j => (hop, j)
  part 0 (pbFmtA b) (foldMa (pbFold b)) ++ part 1 (pbFmtB b) (foldNb (pbFold b)) ++
    (if r.scaled then sc 2 (foldMa (pbFold b)) ++ sc 3 (foldNb (pbFold b)) else [])

/-- The rows of hopper `hop` that the window has read, in order. -/
def PlgRun.rowsOf (r : PlgRun) (hop n : Nat) : List Row :=
  (List.range n).map fun j => ((r.rows.find? fun y => y.1 == hop && y.2.1 == j).elim 0 fun y => y.2.2)

/-- The cells after one execution, over the hopper rows that its feed window has read. -/
def PlgRun.accumulate (r : PlgRun) (cells : List (BitVec 48)) : List (BitVec 48) :=
  let b := r.block
  let f := pbFold b
  let kc := pbKc b
  let ma := foldMa f
  let nb := foldNb f
  let ra := r.rowsOf 0 (chunkRows (pbFmtA b) ma kc)
  let rb := r.rowsOf 1 (chunkRows (pbFmtB b) nb kc)
  let sa := r.rowsOf 2 (ceilDiv (kc / 32 * ma) 512)
  let sb := r.rowsOf 3 (ceilDiv (kc / 32 * nb) 512)
  let mx := r.scaled
  let aRow := fun i => (List.range kc).map fun k => hopElemOf ra (pbFmtA b) (k * ma + i)
  let bCol := fun j => (List.range kc).map fun k => hopElemOf rb (pbFmtB b) (k * nb + j)
  let aRows := (List.range ma).map aRow
  let bCols := (List.range nb).map bCol
  let scales := fun i j => (List.range (kc / 32)).map fun q =>
    if mx then (scaleOf sa (q * ma + i), scaleOf sb (q * nb + j)) else (127, 127)
  (List.range 4096).map fun n =>
    let a := n / 1024
    let i := cellI f a (n / 32 % 32)
    let j := cellJ f a (n % 32)
    let old := (cells.getD n (BitVec.ofNat 48 (cellInit r.op r.cls)))
    if bitOf (pbArrays b) a then
      BitVec.ofNat 48 (cellStep r.op r.cls b old.toNat (aRows.getD i []) (bCols.getD j []) (scales i j))
    else old

/-! ### Activity and filler (R73, R74, R197, R212) -/

/-- Activity of an enabled array in a class's feed (R301). -/
def classAu : Option PClass → Nat
  | some .f16 | some .f32 => 36
  | some .b8 => 24
  | some .i8 | some .i4 | some .f8 | some .mx | some .mx4 | some .sl | none => 40

/-- Cycles of feed windows and of pass filler that the instruction has passed before schedule cycle `u` (R197, R215). -/
def PlgRun.spent (r : PlgRun) (u : Nat) : Nat × Nat :=
  let y := if u - (r.t0 + r.rho) < r.npass * r.passCyc then u - (r.t0 + r.rho) else r.npass * r.passCyc
  let f := r.chunks * r.feed
  let fed := y / r.passCyc * f + (if y % r.passCyc < f then y % r.passCyc else f)
  (fed, y - fed)

/-- A drain row is produced in schedule cycle `u` (R197). -/
def PlgRun.drainsAt (r : PlgRun) (u : Nat) : Bool :=
  let z := r.t0 + r.rho + r.passCyc + 62
  z ≤ u && (u - z) / r.passCyc < r.npass && (u - z) % r.passCyc < 32

/-- Schedule cycle in which the next Plough instruction of a list issues, `base` being the cycle from which its DELAY counts (R37, R41). -/
def nextPlgFrom : List IWord → Nat → Option Nat
  | [], _ => none
  | w :: ws, base =>
    if 0x10 ≤ wOp w then some (base + wDelay w)
    else nextPlgFrom ws (base + wDelay w + (if wIsWait w then wWaitN w else 0))

/-- Schedule cycle in which the running strip's next Plough instruction issues. -/
def nextPlg (sc : Sched) : Option Nat :=
  match sc.strip with
  | some st => nextPlgFrom (st.mq.drop (vget sc.qpos ⟨0, 0, 0⟩ 0).idx) (vget sc.qpos ⟨0, 0, 0⟩ 0).base
  | none => none

/-- The short gap that runs filler (R74): first cycle, and the cycle of the instruction that ends it. -/
def gapOf (sc : Sched) (e : Eng) : Option (Nat × Nat) :=
  match e.plgActive, nextPlg sc, sc.strip with
  | some a, some t, some st => if a < t && t - a < 64 && !hdrFillerOff st.hdr then some (a, t) else none
  | _, _, _ => none

/-- Gap-filler cycles among the `n` schedule cycles from `u` on. -/
def gapCycles (sc : Sched) (e : Eng) (u n : Nat) : Nat :=
  match gapOf sc e with
  | some (a, t) => (if u + n < t then u + n else t) - (if a < u then u else a)
  | none => 0

/-- The Plough's activity per array in schedule cycle `u` (R74, R197, R212): an instruction's, a ramp's eighths of it, gap filler's. -/
def plgLevel (sc : Sched) (e : Eng) (u : Nat) : Nat :=
  match e.plg.reverse.find? (fun r => r.t0 ≤ u && u ≤ r.comp) with
  | some r =>
    if r.rho != 0 && u < r.t0 + 32 then classAu r.cls * ((u - r.t0) / 4 + 1) / 8 else if u < r.occEnd then classAu r.cls else 12
  | none => if e.plgActive.any (u < ·) then 12 else if gapCycles sc e u 1 == 1 then e.plgAu else 0

/-! ### Drain (R203 to R210) -/

/-- The exact value of an accumulator (R204). -/
def PlgRun.accVal (r : PlgRun) (code : Nat) : Num :=
  if accInt r.op r.cls then Num.ofInt (if accUns r.op r.block then (code : Int) else signedOf 48 code) else fp32.decode code

/-- One drained value: its code, saturated, non-finite. -/
structure Drained where
  code   : Nat
  sat    : Bool
  nonfin : Bool
  deriving DecidableEq, Repr

/-- An sqd or abd accumulator at its limit (R210). -/
def PlgRun.limit (r : PlgRun) (code : Nat) : Bool :=
  (r.op == 0x11 || r.op == 0x12) && accInt r.op r.cls && code == 2 ^ 48 - 1

/-- Drill bits of drain row `d`, drain column `col`, pass `p` (R209). -/
def PlgRun.share (r : PlgRun) (p d col : Nat) : Nat :=
  if pbRmode r.block == 2 then
    drlEval r.seed r.draw r.drill d col (loopIdxs r.loop (p * r.chunks + r.chunks - 1)) % 16 else 0

/-- Segment `a` of drain row `d` of pass `p`: its scale byte and 32 values. -/
def PlgRun.segment (r : PlgRun) (p : Nat) (cells : List (BitVec 48)) (d a : Nat) : Nat × List Drained :=
  let b := r.block
  let codes := (List.range 32).map fun j => (cells.getD (1024 * a + 32 * d + j) 0).toNat
  if !bitOf (pbArrays b) a then (0, codes.map fun _ => ⟨0, false, false⟩)
  else
    let vals := codes.map fun c => (r.accVal c).scale (pbDshift b)
    let sh := fun j => r.share p d (32 * a + j)
    if isMx (pbOfmt b) then
      let blk := mxBlock (pbOfmt b) (pbRmode b) (vals.zipIdx.map fun v => (v.1, sh v.2))
      let bad := blk.1 == 0xFF
      (blk.1, (codes.zip (vals.zip blk.2)).zipIdx.map fun v =>
        ⟨v.1.2.2, r.limit v.1.1 || (!bad && fmtSaturates (pbOfmt b) (rndOf (pbRmode b) (sh v.2)) true
          (v.1.2.1.scale (127 - (blk.1 : Int)))), bad⟩)
    else if pbOfmt b == 0x0F then
      (0, codes.map fun (c : Nat) => ⟨wrap 64 (if accUns r.op b then (c : Int) else signedOf 48 c), r.limit c, false⟩)
    else
      (0, (codes.zip vals).zipIdx.map fun v =>
        let mode := rndOf (pbRmode b) (sh v.2)
        let code := fmtRound (pbOfmt b) mode (pbSat b) v.1.2
        ⟨code, r.limit v.1.1 || fmtSaturates (pbOfmt b) mode (pbSat b) v.1.2, fmtNonfinite (pbOfmt b) code⟩)

/-- Drain row `d` of pass `p`: its four segments. -/
def PlgRun.drainRow (r : PlgRun) (p : Nat) (cells : List (BitVec 48)) (d : Nat) : List (Nat × List Drained) :=
  (List.range 4).map (r.segment p cells d)

/-- g of R206: drain rows in one Plot row. -/
def PlgRun.group (r : PlgRun) : Nat := 32 / fmtBits (pbOfmt r.block)

/-- The W0 row that is written at drain row `d` of a format of at most 32 bits: drain rows d - g + 1 .. d. -/
def PlgRun.w0Data (r : PlgRun) (p : Nat) (cells : List (BitVec 48)) (d : Nat) : Row :=
  packRow (fmtBits (pbOfmt r.block)) ((List.range r.group).flatMap fun i =>
    (r.drainRow p cells (d + 1 - r.group + i)).flatMap fun s => s.2.map (·.code))

/-- The two INT48 rows of a drain row (R207). -/
def PlgRun.int48Data (r : PlgRun) (p : Nat) (cells : List (BitVec 48)) (d : Nat) : Row × Row :=
  let segs := (r.drainRow p cells d).map fun s => s.2.map (·.code)
  (packRow 64 ((segs.take 2).flatten), packRow 64 ((segs.drop 2).flatten))

end Sys2Proof.Machine
end

