-- ==== Sys2Proof/Machine/TillerMath.lean ====
section
/-! DEFINITION. The Tiller's arithmetic: operand fields (R250, R288), update records (R245, R247), the rules (R254 to R256), embedding
rows (R268 to R270), header rows (R260, R262), and the schedule engine's quantities (R264, R265). -/

namespace Sys2Proof.Machine

open Sys2Proof

/-! ### Operand fields (R288) -/

def twGroup (w : IWord) : Nat := w.fld 64 12
def twRows (w : IWord) : Nat := w.fld 76 7 + 1
def twMode (w : IWord) : Nat := w.fld 83 2
def twHalf0 (w : IWord) : Nat := w.fld 85 1
def twFstk (w : IWord) : Nat := w.fld 86 6
def twFstkN (w : IWord) : Nat := w.fld 92 4
def twRstk (w : IWord) : Nat := w.fld 96 6
def twRstkN (w : IWord) : Nat := w.fld 102 4
def twW0H (w : IWord) : Nat := w.fld 106 6
def twW1H (w : IWord) : Nat := w.fld 112 6
def twW1En (w : IWord) : Bool := w.getLsbD 118
def twPb (w : IWord) : Nat := w.fld 119 6

def TlrRun.rows (r : TlrRun) : Nat := twRows r.word
def TlrRun.mode (r : TlrRun) : Nat := twMode r.word
def TlrRun.execs (r : TlrRun) : Nat := loopTotal r.loop
def TlrRun.emblen (r : TlrRun) : Nat := bfld r.block 0x08 1 + 1
def TlrRun.gradBf16 (r : TlrRun) : Bool := bfld r.block 0x09 1 == 1
def TlrRun.mrnd (r : TlrRun) : Nat := bfld r.block 0x0A 1
/-- L_T of R251. -/
def TlrRun.lat (r : TlrRun) : Nat := if r.mode == 0 then 24 else 30
/-- Completion (R251). -/
def TlrRun.comp (r : TlrRun) : Nat := r.t0 + r.lat + r.execs * r.rows - 1 + (if r.mode == 0 then 0 else 1)
/-- Rows written by one execution: record rows, then two touch rows in modes 1 and 2. -/
def TlrRun.perExec (r : TlrRun) : Nat := r.rows + (if r.mode == 0 then 0 else 2)
/-- Schedule cycle of write `j` of execution `e`. -/
def TlrRun.writeCyc (r : TlrRun) (e j : Nat) : Nat :=
  if j < r.rows then r.t0 + r.lat + e * r.rows + j else r.t0 + r.lat + e * r.rows + r.rows - 1 + (j - r.rows)

/-! ### Parameter-group descriptors (R264) and step-table entries (R276) -/

def gdKind (d : BitVec 512) : Nat := bfld d 0x00 1
def gdRule (d : BitVec 512) : Nat := bfld d 0x01 1
def gdContext (d : BitVec 512) : Nat := bfld d 0x02 1
def gdValid (d : BitVec 512) : Bool := bitOf (bfld d 0x03 1) 0
def gdPriv (d : BitVec 512) : Bool := bitOf (bfld d 0x03 1) 1
def gdBias (d : BitVec 512) : Bool := bitOf (bfld d 0x03 1) 2
def gdPrivIndex (d : BitVec 512) : Nat := bitsOf (bfld d 0x03 1) 3 3
def gdEtaMax (d : BitVec 512) : Nat := bfld d 0x04 4
def gdEtaMin (d : BitVec 512) : Nat := bfld d 0x08 4
def gdWarmup (d : BitVec 512) : Nat := bfld d 0x0C 4
def gdPeriod (d : BitVec 512) : Nat := bfld d 0x10 4
def gdTmult (d : BitVec 512) : Nat := bfld d 0x14 2
def gdRestarts (d : BitVec 512) : Nat := bfld d 0x16 2
def gdStart (d : BitVec 512) : Nat := bfld d 0x18 8
def gdBeta1 (d : BitVec 512) : Nat := bfld d 0x20 4
def gdBeta2 (d : BitVec 512) : Nat := bfld d 0x24 4
def gdEps (d : BitVec 512) : Nat := bfld d 0x28 4
def gdLambda (d : BitVec 512) : Nat := bfld d 0x2C 4

/-- Word `i` of a step-table entry. -/
def entryWord (e : BitVec 256) (i : Nat) : Nat := bitsOf e.toNat (32 * i) 32
/-- STATUS of an entry. -/
def entryStatus (e : BitVec 256) : Nat := bitsOf e.toNat 224 2

/-- The descriptor of group `j` in a die's table. -/
def groupDesc (k : Die) (j : Nat) : BitVec 512 :=
  match k.descs.find? (fun x => x.1 == j) with
  | some x => x.2
  | none => 0

/-- An entry of a step table with the descriptor it was computed from (R253); entries never computed are 0. -/
def tabEntry (t : List (Nat × BitVec 256 × BitVec 512)) (j : Nat) : BitVec 256 × BitVec 512 :=
  match t.find? (fun x => x.1 == j) with
  | some x => x.2
  | none => (0, 0)

/-! ### FP32 helpers on codes -/

def f32Finite (a : Nat) : Bool := !(fp32.decode a).nonfinite
/-- An integer rounded to FP32. -/
def rne32Int (z : Int) : Nat := fp32.rne (Num.ofInt z)
/-- A BF16 code widened to FP32. -/
def widen (b : Nat) : Nat := b % 2 ^ 16 * 2 ^ 16

/-! ### Record rows (R245, R247) -/

def recW (row : Row) (l : Nat) : Nat := row.field (256 * (l / 32) + 4 * (l % 32)) 4
def recM (row : Row) (l : Nat) : Nat := row.field (256 * (l / 32) + 128 + 2 * (l % 32)) 2
def recV (row : Row) (l : Nat) : Nat := row.field (256 * (l / 32) + 192 + 2 * (l % 32)) 2

/-- The record row of 64 elements (w, m, v). -/
def recRow (es : List (Nat × Nat × Nat)) : Row :=
  let half := fun (xs : List (Nat × Nat × Nat)) =>
    packNat 32 (xs.map (·.1)) + 2 ^ 1024 * packNat 16 (xs.map (·.2.1)) + 2 ^ 1536 * packNat 16 (xs.map (·.2.2))
  BitVec.ofNat 4096 (half (es.take 32) + 2 ^ 2048 * half (es.drop 32))

/-- An element of a rows-by-key list. -/
def keyRow (l : List (Nat × Row)) (k : Nat) : Row :=
  match l.find? (fun x => x.1 == k) with
  | some x => x.2
  | none => 0

/-- FP32 code of the gradient of element `l` of record row `j` in execution `e`. -/
def TlrRun.grad (r : TlrRun) (e j l : Nat) : Nat :=
  if r.gradBf16 then widen ((keyRow r.tgs (e * 64 + j / 4)).elem 16 (64 * (j % 4) + l))
  else (keyRow r.tgs (e * 64 + j / 2)).elem 32 (64 * (j % 2) + l)

/-- Touch entry `q` of execution `e`: last-touched step and embedding-row index (R268). -/
def TlrRun.touch (r : TlrRun) (e q : Nat) : Nat × Nat :=
  let row := keyRow r.tts (e * 2 + q / 64)
  (row.field (8 * (q % 64)) 4, row.field (8 * (q % 64) + 4) 4)

/-- G of R269. -/
def TlrRun.g32 (r : TlrRun) : Nat := r.draw.toNat % 2 ^ 32
/-- gap of touch entry `q`. -/
def TlrRun.gap (r : TlrRun) (e q : Nat) : Nat := (r.g32 + 2 ^ 32 - (r.touch e q).1) % 2 ^ 32

/-! ### Headers (R260) -/

def hdMagic (h : Row) : Nat := h.field 0x00 4
def hdActive (h : Row) : Nat := h.field 0x04 1
def hdFlags (h : Row) : Nat := h.field 0x05 1
/-- ROOT_VALID of the header of execution `e`, 0 under a wrong MAGIC. -/
def TlrRun.rootValid (r : TlrRun) (e : Nat) : Bool :=
  let h := keyRow r.ths e
  hdMagic h == 0x544C4844 && bitOf (hdFlags h) 0

/-! ### The rules (R254, R255, R256) -/

/-- One element: new w, new m and v as FP32 codes, none where the moment is written unchanged. `b` are β1, β2, c1, c2, bc1, bc2. -/
structure Elem where
  w : Nat
  m : Option Nat
  v : Option Nat
  deriving DecidableEq, Repr

/-- The rule that applies: rule 3 without a valid root is rule 1. -/
def ruleOf (d : BitVec 512) (rootValid : Bool) : Nat := if gdRule d == 3 && !rootValid then 1 else gdRule d

/-- R255 on FP32 codes. -/
def ruleStep (rule : Nat) (d : BitVec 512) (t : BitVec 256) (w m0 v0 g : Nat) : Elem :=
  let eta := negF (entryWord t 0)
  let b1 := gdBeta1 d
  let b2 := gdBeta2 d
  let c1 := entryWord t 3
  let c2 := entryWord t 4
  let lam := gdLambda d
  match rule with
  | 0 =>
    let m1 := fmaF b1 m0 g
    ⟨fmaF eta (fmaF lam w m1) w, some m1, none⟩
  | 1 =>
    let m1 := fmaF b1 m0 (mulF c1 g)
    let v1 := fmaF b2 v0 (mulF c2 (mulF g g))
    let dd := addF (sqrtF (mulF v1 (entryWord t 2))) (gdEps d)
    ⟨fmaF eta (fmaF lam w (divF (mulF m1 (entryWord t 1)) dd)) w, some m1, some v1⟩
  | 2 =>
    let c := fp32.decode (fmaF b1 m0 (mulF c1 g))
    let s := if Num.zero.lt c then oneF else if c.lt Num.zero then negF oneF else 0
    ⟨fmaF eta (fmaF lam w s) w, some (fmaF b2 m0 (mulF c2 g)), none⟩
  | _ =>
    let m1 := fmaF b1 m0 (mulF c1 g)
    ⟨fmaF eta (fmaF lam w (mulF m1 (entryWord t 1))) w, some m1, none⟩

/-- The moments brought forward by `gap` (R269): FP32 codes of m and v. -/
def bringForward (rule : Nat) (t : BitVec 256) (gap m0 v0 : Nat) : Nat × Nat :=
  if gap < 2 then (m0, v0)
  else if 2 ^ 31 ≤ gap then (0, 0)
  else
    let dec := fun (l2b : Nat) => exp2F (mulF (rne32Int (gap - 1 : Nat)) l2b)
    let m := mulF m0 (dec (if rule == 2 then entryWord t 6 else entryWord t 5))
    (m, if rule == 1 then mulF v0 (dec (entryWord t 6)) else v0)

/-- One evaluation at a coordinate with a draw index (R164, R167, R256). -/
def drlAt (seed : BitVec 64) (coord draw stream : Nat) : Nat :=
  let key := drlKeyOf seed
  (drlF key.1 key.2 ⟨BitVec.ofNat 32 coord, BitVec.ofNat 32 (coord / 2 ^ 32), BitVec.ofNat 32 draw, BitVec.ofNat 32 stream⟩).bits

/-- The random bits of element `l` of record row `j` of execution `e` for m (0) or v (1). -/
def TlrRun.bits (r : TlrRun) (e j l which : Nat) : Nat :=
  if r.mrnd != 2 then 0
  else
    let d := r.drill
    let coord := if r.mode == 0 then ddCoord d j l (loopIdxs r.loop e)
      else wrap 64 ((ddBase d : Int) + (r.touch e (j / r.emblen)).2 * ddRow d + (j % r.emblen * 64 + l : Nat))
    drlAt r.seed coord ((ddDrawIdx d r.draw + 2 ^ 31 * which) % 2 ^ 32) (ddStream d) % 16

/-- The outcome of one element: stored w, m, v; saturated moments; counted as non-finite. -/
def TlrRun.elem (r : TlrRun) (e j l : Nat) (row : Row) : (Nat × Nat × Nat) × Nat × Nat :=
  let w := recW row l
  let m := recM row l
  let v := recV row l
  let g := r.grad e j l
  let same := ((w, m, v), 0, 0)
  let rule := ruleOf r.desc (r.rootValid e)
  let store := fun (old : Nat) (which : Nat) (x : Option Nat) =>
    match x with
    | none => (old, 0)
    | some c => (bf16.round (rndOf r.mrnd (r.bits e j l which)) true (fp32.decode c),
        b2n (bf16.saturates (rndOf r.mrnd (r.bits e j l which)) true (fp32.decode c)))
  if !r.good then same
  else if r.mode == 2 then
    let gap := r.gap e (j / r.emblen)
    if gap < 2 then same
    else
      let f := bringForward rule r.entry gap (widen m) (widen v)
      let sm := store m 0 (some f.1)
      let sv := store v 1 (if rule == 1 || 2 ^ 31 ≤ gap then some f.2 else none)
      ((w, sm.1, sv.1), sm.2 + sv.2, 0)
  else if !f32Finite g then (same.1, 0, 1)
  else
    let gap := if r.mode == 1 then r.gap e (j / r.emblen) else 0
    let f := bringForward rule r.entry gap (widen m) (widen v)
    let x := ruleStep rule r.desc r.entry w f.1 f.2 g
    let sm := store m 0 x.m
    let sv := store v 1 (match x.v with
      | some c => some c
      | none => if 2 ^ 31 ≤ gap then some f.2 else none)
    ((x.w, sm.1, sv.1), sm.2 + sv.2,
      b2n (!f32Finite x.w && f32Finite w && f32Finite f.1 && (rule != 1 || f32Finite f.2)))

/-- Record row `j` of execution `e` as written, with the counts of R254. -/
def TlrRun.recordRow (r : TlrRun) (e j : Nat) : Row × Nat × Nat :=
  let row := keyRow r.trs (e * 128 + j)
  let es := (List.range 64).map fun l => r.elem e j l row
  (recRow (es.map (·.1)), (es.map (·.2.1)).sum, (es.map (·.2.2)).sum)

/-- Touch row `x` of execution `e` as written, with the entries of gap 0 and beyond the horizon (R268 to R270). -/
def TlrRun.touchRow (r : TlrRun) (e x : Nat) : Row × Nat × Nat :=
  let row := keyRow r.tts (e * 2 + x)
  let used := r.rows / r.emblen
  if !r.good then (row, 0, 0)
  else
    let qs := (List.range 64).map fun i => 64 * x + i
    let new := qs.map fun q =>
      let old := r.touch e q
      let gap := r.gap e q
      let t := if q < used then
          (if r.mode == 1 then r.g32 else if 2 ≤ gap then (r.g32 + 2 ^ 32 - 1) % 2 ^ 32 else old.1) else old.1
      t + 2 ^ 32 * old.2
    let live := qs.filter (· < used)
    (packRow 64 new, if r.mode == 1 then (live.filter fun q => r.gap e q == 0).length else 0,
      (live.filter fun q => 2 ^ 31 ≤ r.gap e q).length)

/-! ### Reads of an execution (R194, R251) -/

/-- Execution and window cycle of schedule cycle `u`, while the instruction feeds. -/
def TlrRun.window (r : TlrRun) (u : Nat) : Option (Nat × Nat) :=
  if r.t0 ≤ u && u < r.t0 + r.execs * r.rows then some ((u - r.t0) / r.rows, (u - r.t0) % r.rows) else none

/-- The hopper rows read in cycle `k` of execution `e`'s feed window: which row of the instruction's (0 TR, 1 TG, 2 and 4 TT, 3 TH), and
its core hopper row. -/
def TlrRun.readsAt (r : TlrRun) (e k : Nat) : List (Nat × Nat) :=
  let half := (twHalf0 r.word + e) % 2
  let per := if r.gradBf16 then 4 else 2
  let tt1 := if 64 * r.emblen < r.rows then 64 * r.emblen else 0
  [(0, hopBase 4 half + k)] ++ (if r.mode != 2 && k % per == 0 then [(1, hopBase 5 half + k / per)] else []) ++
    (if r.mode != 0 && k == 0 then [(2, hopBase 6 half)] else []) ++
    (if k == 0 && gdRule r.desc == 3 then [(3, hopBase 7 half)] else []) ++
    (if r.mode != 0 && k == tt1 then [(4, hopBase 6 half + 1)] else [])

/-- Row `d` has been read as row `j` of cycle `k` of execution `e`. -/
def TlrRun.take (r : TlrRun) (e k j : Nat) (d : Row) : TlrRun :=
  match j with
  | 0 => { r with trs := (e * 128 + k, d) :: r.trs, feeds := if k == 0 then r.feeds + 1 else r.feeds }
  | 1 => { r with tgs := (e * 64 + k / (if r.gradBf16 then 4 else 2), d) :: r.tgs }
  | 2 => { r with tts := (e * 2, d) :: r.tts }
  | 3 => { r with ths := (e, d) :: r.ths }
  | _ => { r with tts := (e * 2 + 1, d) :: r.tts }

/-! ### The schedule engine (R264, R265) -/

/-- A descriptor keeps every range of R264. Reserved bits take no part: they read 0 (R11). -/
def gdInRange (d : BitVec 512) : Bool :=
  let f := fp32.decode
  let fin := fun a => f32Finite a
  let nonneg := fun a => !(f a).lt Num.zero
  gdKind d ≤ 3 && gdRule d ≤ 3 && gdContext d ≤ 7 &&
  fin (gdEtaMax d) && nonneg (gdEtaMax d) && fin (gdEtaMin d) && nonneg (gdEtaMin d) && !(f (gdEtaMax d)).lt (f (gdEtaMin d)) &&
  1 ≤ gdPeriod d && 1 ≤ gdTmult d &&
  fin (gdBeta1 d) && nonneg (gdBeta1 d) && (f (gdBeta1 d)).lt (f oneF) &&
  fin (gdBeta2 d) && nonneg (gdBeta2 d) && (f (gdBeta2 d)).lt (f oneF) &&
  fin (gdEps d) && nonneg (gdEps d) && ((gdRule d != 1 && gdRule d != 3) || Num.zero.lt (f (gdEps d))) &&
  fin (gdLambda d)

/-- RNE to FP64 after an operation (R265). -/
def r64 (x : Num) : Num := fp64.decode (fp64.rne x)

/-- Multiply magnitudes keeping 320 bits; the flag says that bits were lost. -/
def bigMul (a b : Nat × Int × Bool) : Nat × Int × Bool :=
  let p := a.1 * b.1
  let ex := a.2.1 + b.2.1
  let k := Nat.log2 p - 320
  (p / 2 ^ k, ex + k, a.2.2 || b.2.2 || p % 2 ^ k != 0)

/-- base^n by squaring, over the bits of `n`. -/
def bigPow (b : Nat × Int × Bool) : Nat → Nat → Nat × Int × Bool
  | 0, _ => (1, 0, false)
  | k + 1, n =>
    if n == 0 then (1, 0, false)
    else
      let h := bigPow b k (n / 2)
      let h2 := bigMul h h
      if n % 2 == 1 then bigMul h2 b else h2

/-- pow(beta, t) for 0 ≤ beta < 1 and t ≥ 1. -/
def powNum (b : Num) (t : Nat) : Num :=
  match b with
  | .fin _ m e => if m == 0 then .zero else
      let p := bigPow (m, e, false) 70 t
      approx false p.1 p.2.1 (!p.2.2)
  | .nan => .nan
  | .inf n => .inf n

/-- π with 400 fraction bits. -/
def piFix : Nat := 0x3243f6a8885a308d313198a2e03707344a4093822299f31d0082efa98ec4e6c89452821e638d01377be5466cf34e90c6cc0ac

/-- The Taylor sum of cos in fixed point of 400 fraction bits: terms alternate in sign. -/
def cosTerms (x2 : Nat) : Nat → Nat → Int → Int → Int
  | 0, _, _, acc => acc
  | n + 1, k, term, acc =>
    let term' := -(term * (x2 : Int) / 2 ^ 400 / ((2 * k + 1) * (2 * k + 2) : Nat))
    cosTerms x2 n (k + 1) term' (acc + term')

/-- cos(π x) for 0 ≤ x < 1. -/
def cospi (x : Num) : Num :=
  match x with
  | .fin _ m e =>
    if m == 0 then .fin false 1 0
    else if x.cmp (.fin false 1 (-1)) == 0 then .zero
    else
      let sh : Int := 400 + e
      let xf : Nat := if 0 ≤ sh then m * 2 ^ sh.toNat else m / 2 ^ (-sh).toNat
      -- cos(π x) = -cos(π (1 - x)) brings the argument to [0, 1/2]
      let neg := 2 ^ 399 < xf
      let y := if neg then 2 ^ 400 - xf else xf
      let a := y * piFix / 2 ^ 400
      let a2 := a * a / 2 ^ 400
      let c := cosTerms a2 60 0 (2 ^ 400) (2 ^ 400)
      between neg (c.toNat / 2 ^ 40) (-360)
  | .nan => .nan
  | .inf _ => .nan

/-- Cycle index search of R265: u within its cycle and the cycle's length. -/
def cycleOf (tmult restarts : Nat) : Nat → Nat → Nat → Nat → Nat × Nat
  | 0, u, _, len => (u, len)
  | n + 1, u, i, len =>
    if len ≤ u && (restarts == 0xFFFF || i < restarts) then
      if tmult == 1 then
        let k := u / len
        let k := if restarts == 0xFFFF || k ≤ restarts - i then k else restarts - i
        (u - k * len, len)
      else cycleOf tmult restarts n (u - len) (i + 1) (if len * tmult < 2 ^ 63 then len * tmult else 2 ^ 63)
    else (u, len)

/-- η of R265 in FP64 for k = g' - s0. -/
def etaNum (d : BitVec 512) (k : Int) : Num :=
  let emax := fp32.decode (gdEtaMax d)
  let emin := fp32.decode (gdEtaMin d)
  let one := Num.ofInt 1
  if k < 0 then .zero
  else if k < gdWarmup d then r64 ((r64 (emax.mul (Num.ofInt (k + 1)))).div (Num.ofInt (gdWarmup d)))
  else
    let c := cycleOf (gdTmult d) (gdRestarts d) 80 (k.toNat - gdWarmup d) 0 (gdPeriod d)
    if c.2 ≤ c.1 then emin
    else
      let x := r64 ((Num.ofInt c.1).div (Num.ofInt c.2))
      let range := r64 (emax.sub emin)
      match gdKind d with
      | 0 => emax
      | 1 => r64 (emin.add (r64 ((r64 (range.mul (r64 (one.add (r64 (cospi x)))))).div (Num.ofInt 2))))
      | 2 => r64 (emax.sub (r64 (range.mul x)))
      | _ => emin.max (r64 (emax.mul (r64 (r64 (one.div (r64 (one.add x)))).sqrt)))

/-- The step-table entry of a descriptor for target step `g'`; `priv` is the privileged value (R265, R267). A descriptor that is not VALID
gets STATUS 1 also where it breaks a range: R253 and R264 do not say which holds (DESIGN CHOICE, log entry 122). -/
def schedEntry (d : BitVec 512) (target : Nat) (priv : Nat) : BitVec 256 :=
  let k : Int := (target : Int) - gdStart d
  let t : Nat := if k + 1 < 1 then 1 else (k + 1).toNat
  let one := Num.ofInt 1
  let b1 := fp32.decode (gdBeta1 d)
  let b2 := fp32.decode (gdBeta2 d)
  let bc := fun (b : Num) => if gdBias d then r64 (one.div (r64 (one.sub (r64 (powNum b t))))) else one
  let eta := if gdPriv d then priv else fp32.rne (etaNum d k)
  let status := if !gdValid d then 1 else if !gdInRange d then 2
    else if gdPriv d && (!f32Finite priv || (fp32.decode priv).lt Num.zero) then 2 else 0
  BitVec.ofNat 256 (packNat 32 [eta, fp32.rne (bc b1), fp32.rne (bc b2), fp32.rne (r64 (one.sub b1)), fp32.rne (r64 (one.sub b2)),
    fp32.rne (r64 b1.log2), fp32.rne (r64 b2.log2), status])

end Sys2Proof.Machine
end

