-- ==== Sys2Proof/Machine/Hazard.lean ====
section
/-! DEFINITION. Debug mode's hazard detector (R77, checks 1 to 4): the scheduled accesses of the instructions in flight, and what is
checked in every schedule cycle (log entry 12). -/

namespace Sys2Proof.Machine

open Sys2Proof

/-! ### Scheduled accesses -/

/-- An access of schedule cycles `lo` to `hi` by the instruction of queue `q` that issued at `t0`. `bank`: Plot banks 0 to 15, then the
hopper halves, none for a row elsewhere. `key`: module address of the row, or 2^60 and the core hopper row; 0 for a reserved half.
`land`: last cycle in which a write has not landed. -/
structure Acc where
  q     : Queue
  tag   : Nat
  t0    : Nat
  lo    : Nat
  hi    : Nat
  bank  : Option Nat
  key   : Nat
  h     : Option Nat
  write : Bool
  land  : Nat
  deriving DecidableEq, Repr

/-- Key of core hopper row `r`. -/
def hopKey (r : Nat) : Nat := 2 ^ 60 + r

/-- An access of one cycle through physical handle `h`: only rows of the own Plot use a bank of the frame. -/
def accH (s : State) (c : CoreId) (q : Queue) (tag t0 cyc h : Nat) (i : Int) (write : Bool) (land : Nat) : Acc :=
  let a := hAddr (handle s c h) i
  let bank := match placeOf a.1 with
    | .plot k r => if a.2 && k == c then some (r % 16) else none
    | .commons _ _ | .deep _ _ | .control | .window | .unpopulated => none
  ⟨q, tag, t0, cyc, cyc, bank, rowBase a.1, some h, write, land⟩

/-- Bank of a hopper half. -/
def hopBank (hop half : Nat) : Nat := 16 + 2 * hop + half

def plgAccs (s : State) (c : CoreId) (r : PlgRun) : List Acc :=
  let w := r.word
  let b := r.block
  let sl := r.slot
  let drain := fun (cyc h : Nat) (i : Int) => accH s c .mq r.tag r.t0 cyc (physH r.shared sl h) i true cyc
  let feeds := (List.range r.total).flatMap fun e =>
    let half := (pwHalf0 w + e) % 2
    let lo := r.begin_ e
    let hi := lo + r.feed - 1
    ([0, 1] ++ (if r.scaled then [2, 3] else [])).map (fun hop =>
      (⟨.mq, r.tag, r.t0, lo, hi, some (hopBank hop half), 0, none, false, 0⟩ : Acc)) ++
    (List.range r.feed).flatMap fun k => (r.readsAt k).map fun y =>
      (⟨.mq, r.tag, r.t0, lo + k, lo + k, none, hopKey (hopBase y.1 half + y.2), none, false, 0⟩ : Acc)
  let drains := (List.range r.npass).flatMap fun p =>
    let off := fun op => loopOff r.loop op (p * r.chunks + r.chunks - 1)
    (List.range 32).flatMap fun d =>
      let cyc := r.drainCyc p d
      if pbOfmt b == 0x0F then
        [drain cyc (pwW0H w) (pbW0Row b + d + off 0), drain cyc (pwW1H w) (pbW1Row b + d + off 1)]
      else
        (if (d + 1) % r.group == 0 then [drain cyc (pwW0H w) (pbW0Row b + (d / r.group : Nat) + off 0)] else []) ++
        (if isMx (pbOfmt b) && d == 31 && (p % 4 == 3 || p + 1 == r.npass) then
          [drain cyc (pwW1H w) (pbW1Row b + (p / 4 : Nat))] else [])
  feeds ++ drains

def hrwAccs (s : State) (c : CoreId) (r : HrwRun) : List Acc :=
  let acc := fun (cyc h : Nat) (i : Int) (write : Bool) => accH s c .vq r.tag r.t0 cyc (physH r.shared r.slot h) i write cyc
  ((List.range (r.execs * r.beats)).flatMap fun n =>
    (match r.xRead (r.t0 + n) with
      | some x => [acc (r.t0 + n) (hwXH r.word) x.2 false]
      | none => []) ++
    (match (if hwYen r.word then r.yRead (r.t0 + n) else none) with
      | some x => [acc (r.t0 + n) (hwYH r.word) x.2 false]
      | none => [])) ++
  (List.range r.execs).flatMap fun e => (List.range r.rowsPer).map fun x =>
    acc (r.writeCyc e x) (hwWH r.word) ((bfld r.block 0x08 4 : Int) + loopOff r.loop 2 e + (x : Nat)) true

def tlrAccs (s : State) (c : CoreId) (r : TlrRun) : List Acc :=
  let acc := fun (cyc h : Nat) (i : Int) => accH s c .uq r.tag r.t0 cyc (physH r.shared r.slot h) i true cyc
  (List.range r.execs).flatMap fun e =>
    let half := (twHalf0 r.word + e) % 2
    let lo := r.t0 + e * r.rows
    ((List.range 4).map fun i => (⟨.uq, r.tag, r.t0, lo, lo + r.rows - 1, some (hopBank (4 + i) half), 0, none, false, 0⟩ : Acc)) ++
    ((List.range r.rows).flatMap fun k => (r.readsAt e k).map fun y =>
      (⟨.uq, r.tag, r.t0, lo + k, lo + k, none, hopKey y.2, none, false, 0⟩ : Acc)) ++
    (List.range r.perExec).map fun j =>
      if j < r.rows then acc (r.writeCyc e j) (twW0H r.word) ((bfld r.block 0 4 : Int) + loopOff r.loop 0 e + (j : Nat))
      else acc (r.writeCyc e j) (twW1H r.word) ((bfld r.block 4 4 : Int) + loopOff r.loop 1 e + (j - r.rows : Nat))

def xferAccs (s : State) (c : CoreId) (t0 : Nat) (x : Xfer) : List Acc :=
  let n := x.total
  let acc := fun (cyc h : Nat) (i : Int) (write : Bool) (land : Nat) => accH s c .tq x.tag t0 cyc h i write land
  (if x.kind.fromPlot || x.kind.fromCmn then (List.range n).map fun k => acc (x.readCyc k) x.srcH (x.srcRow k) false 0 else []) ++
  (match x.kind with
    | .plotFill | .cmnFill => x.fillCycs.map fun w =>
        ⟨.tq, x.tag, t0, w.1, w.1, some (hopBank (if w.2.scale then (if x.hop == 0 then 2 else 3) else x.hop) x.half),
          hopKey (x.fillDst w.2), none, true, w.1⟩
    | .plotPlot => (List.range n).map fun k => acc (x.s + k + 4) x.dstH (x.dstRow k) true (x.s + k + 4)
    | .reorder => (List.range n).map fun k => acc (x.s + k + xbT x.block + 2) x.dstH (x.dstRow k) true (x.s + k + xbT x.block + 2)
    | .cmnPlot => (List.range n).map fun k => acc (x.handCyc k) x.dstH (x.dstRow k) true (x.handCyc k)
    | .plotCmn => (List.range n).map fun k =>
        acc (cmnReqCyc true x.other x.s k) x.dstH (x.dstRow k) true (cmnLandCyc true x.other x.s k)
    | .outPlot => (List.range n).map fun k => acc (x.s + k + 2) x.dstH (x.dstRow k) true 0
    | .outCmn => (List.range n).map fun k => acc (x.handCyc k) x.dstH (x.dstRow k) true 0
    | .inLate => [acc (x.s + 1) x.srcH (x.srcRow 0) false 0, acc (x.s + 1) x.dstH (x.dstRow 0) true 0]
    | .gate | .ungate | .none => [])

def bloadAccs (s : State) (c : CoreId) (r : BloadRun) : List Acc :=
  (List.range r.q).map fun k => accH s c .vq 0 r.t0 (r.t0 + k) r.h (r.row + k : Nat) false 0

/-- A root commit's header read and write (R262). -/
def rootAccs (s : State) (c : CoreId) (r : RootRun) : List Acc :=
  [⟨.uq, r.tag, r.t0, r.t0, r.t0, some (hopBank 7 r.half), hopKey (hopBase 7 r.half), none, false, 0⟩,
   accH s c .uq r.tag r.t0 (r.t0 + 8) r.h (r.row : Nat) true (r.t0 + 8)]

/-- Accesses of everything in flight. -/
def flightAccs (s : State) (c : CoreId) : List Acc :=
  let e := s.en c
  e.plg.flatMap (plgAccs s c) ++ e.hrw.flatMap (hrwAccs s c) ++ e.bload.flatMap (bloadAccs s c) ++ e.tlr.flatMap (tlrAccs s c) ++
    e.root.flatMap (rootAccs s c) ++ e.xfers.flatMap fun x => xferAccs s c x.t0 x

/-- Keys of the rows that inbound late items have still to write: rows of Plot and the Commons, and hopper rows. -/
def lateRows (s : State) (c : CoreId) : List Nat :=
  (s.en c).late.flatMap fun l =>
    if !l.inbound then []
    else if l.x.hop == 8 then
      (List.range (l.total - l.placed)).map fun k => rowBase (hAddr (handle s c l.x.dstH) (l.x.dstRow (l.placed + k))).1
    else (l.x.fillWrites.drop l.placed).map fun w => hopKey (l.x.fillDst w)

/-! ### The checks -/

/-- The first violation of checks 1 to 4 that the accesses of the present schedule cycle make: its check code and the access (R77). A read
of a row that is being written is check 3 (R214), whatever bank they share. An instruction's own later write is not one issued before its
read. -/
def hazardNow (s : State) (c : CoreId) : Option (Nat × Acc) :=
  let sc := s.sc c
  let u := sc.stripCyc
  let all := flightAccs s c
  let now := all.filter fun a => a.lo ≤ u && u ≤ a.hi
  let late := lateRows s c
  let stale := fun (a : Acc) => !a.write && a.key != 0 &&
    (late.contains a.key || all.any fun b => b.write && b.key == a.key && b.t0 < u && u ≤ b.land && (b.q != a.q || b.t0 != a.t0))
  let clash := fun (a : Acc × Nat) => a.1.bank.any fun k => (k < 16 && 6 ≤ (u + 16 - k) % 8) ||
    now.zipIdx.any fun b => b.2 != a.2 && b.1.bank == some k && (b.1.t0 < a.1.t0 || (b.1.t0 == a.1.t0 && b.2 < a.2))
  let old := fun (a : Acc) => a.h.any fun h => sc.pushed.any fun x => x.1 == h && x.2.1 != handleGen (s.cm c) h
  let free := fun (a : Acc) => a.h.any fun h => sc.pushed.any fun x => x.1 == h && x.2.2.2 && x.2.2.1 != some a.q
  match now.find? stale, now.zipIdx.find? clash, now.find? old, now.find? free with
  | some a, _, _, _ => some (3, a)
  | none, some a, _, _ => some (1, a.1)
  | none, none, some a, _ => some (2, a)
  | none, none, none, some a => some (4, a)
  | none, none, none, none => none

/-- ROW of a hazard record: the row's address, or the core hopper row number (log entry 112). -/
def accField (s : State) (a : Acc) : Nat :=
  if a.key == 0 then 0 else if a.key < 2 ^ 60 then rowField s a.key else a.key - 2 ^ 60 + s.hub.position % 2 ^ 16 * 2 ^ 48

/-- Debug mode checks the accesses of the present schedule cycle, and stops the core before they take effect (R77). -/
def hazardCheck (c : CoreId) (s : State) : State :=
  if debugMode s c && (s.sc c).strip.isSome then
    match hazardNow s c with
    | some v => hazardStop c (qIdx v.2.q) v.2.tag v.1 (accField s v.2) s
    | none => s
  else s

end Sys2Proof.Machine
end

