-- ==== Sys2Proof/Machine/Advance.lean ====
section
/-! DEFINITION. How a core's clock reaches the wall cycle of a command (log entry 2): schedule and stall cycles are counted (R56), and
the scheduled accesses of the cycles passed are made (R21, R193, R223, R226, R251, R293), with debug mode's checks (R77), the Plough's
filler (R73, R74), a core program's copy (R316) and the slot-7 opportunities that pass unused (R90). Which waits are due in a cycle, and
how a stall begins (R42, R43, R50, R58, R59, R195). -/

namespace Sys2Proof.Machine

open Sys2Proof

/-! ### Waits of the present schedule cycle -/

/-- What the next instruction of a queue waits for, when it is due now. -/
def queueWant (sc : Sched) (q : Queue) : List Blocked :=
  match dueWord sc q, sc.strip with
  | some w, some st =>
    match wOp w with
    | 2 => [⟨q, .stake (physStk sc st (wStk w)) (wStkN w), wTag w, false⟩]
    | 3 => [⟨q, .push (wHq w) (physH (hdrShared st.hdr) st.slot (wHqH w)), wTag w, false⟩]
    | 4 => [⟨q, .pop (wHq w), wTag w, false⟩]
    | _ => []
  | _, _ => []

/-- The implicit feed wait of a Plough execution that begins now (R195). -/
def plgWant (sc : Sched) (r : PlgRun) : List Blocked :=
  match sc.strip with
  | some st =>
    if 1 ≤ r.execs && r.execs < r.total && r.begin_ r.execs == sc.stripCyc && pwFstk r.word != 63 then
      [⟨.mq, .stake (physStk sc st (pwFstk r.word)) (pwFstkN r.word), r.tag, true⟩] else []
  | none => []

/-- The implicit feed wait of a Tiller execution that begins now (R195, R250). -/
def tlrWant (sc : Sched) (r : TlrRun) : List Blocked :=
  match sc.strip with
  | some st =>
    let e := (sc.stripCyc - r.t0) / r.rows
    if r.t0 < sc.stripCyc && (sc.stripCyc - r.t0) % r.rows == 0 && e < r.execs && twFstk r.word != 63 then
      [⟨.uq, .stake (physStk sc st (twFstk r.word)) (twFstkN r.word), r.tag, true⟩] else []
  | none => []

/-- Every wait, pop and push due in the present schedule cycle, in the order MQ, VQ, UQ, TQ. -/
def dueWants (s : State) (c : CoreId) : List Blocked :=
  let sc := s.sc c
  let e := s.en c
  queueWant sc .mq ++ e.plg.flatMap (plgWant sc) ++ queueWant sc .vq ++ queueWant sc .uq ++ e.tlr.flatMap (tlrWant sc) ++
    queueWant sc .tq

/-- Does a wait fail on the counts of the start of the cycle? Waits on one stake are taken together (R43). -/
def wantFails (sc : Sched) (all : List Blocked) (b : Blocked) : Bool :=
  match b.want with
  | .stake k _ =>
    (vget sc.stk0 0 k).toNat < all.foldl (fun n x => match x.want with
      | .stake k' m => if k' == k then n + m else n
      | .pop _ | .push _ _ => n) 0
  | .pop q => vget sc.hq0 0 q == 0
  | .push q _ => 8 ≤ vget sc.hq0 0 q

/-- The waits that block the present cycle. -/
def blockedNow (s : State) (c : CoreId) : List Blocked :=
  let all := dueWants s c
  all.filter (wantFails (s.sc c) all)

/-- CORE_STATUS.CAUSE and WHICH of a wait (R80). -/
def wantCause : Want → Cause × Nat
  | .stake k _ => (.stake, k)
  | .pop q => (.hqPop, q)
  | .push q _ => (.hqPush, q)

/-- The core stalls in the present schedule cycle on the waits `bs` (R50). -/
def beginStall (c : CoreId) (bs : List Blocked) (s : State) : State :=
  match bs with
  | [] => s
  | b :: _ =>
    let s := s.onSc c fun sc =>
      { sc with run := .stalled, cause := (wantCause b.want).1, which := (wantCause b.want).2, stallTag := b.tag,
                stall := some ⟨sc.wall, bs, none, 0, none, if sc.stripCyc == 0 then 0 else plgLevel sc (s.en c) (sc.stripCyc - 1)⟩ }
    checkRelease c (trace c (qIdx b.q) 3 b.tag s)

/-! ### Scheduled reads of the engines in one schedule cycle -/

/-- A row read through a handle by an engine: row `k` of its instruction, with what the code makes of it (R118, R119). -/
def engRead (c : CoreId) (source tag ctx h k : Nat) (i : Int) (err : ReadErr) (s : State) : Row × State :=
  let (d, s) := readH c source tag ctx h i s
  readErr c source tag ctx k (hAddr (handle s c h) i).1 err d s

/-- VQ's reads of schedule cycle `u`: chain rows (R223, R227) and broadcast-buffer loads (R226); beats are counted. -/
def hrwCycle (c : CoreId) (u : Nat) (s : State) : State :=
  let one := fun (r : HrwRun) (s : State) =>
    let ctx := slotCtx s c r.slot.val
    let (r, s) := match r.xRead u with
      | some (n, i) =>
        let (d, s) := engRead c 1 r.tag ctx (physH r.shared r.slot (hwXH r.word)) (2 * n) i r.err s
        ({ r with xs := (n, d) :: r.xs, xn := r.xn + 1 }, s)
      | none => (r, s)
    let (r, s) := match (if hwYen r.word then r.yRead u else none) with
      | some (n, i) =>
        let (d, s) := engRead c 1 r.tag ctx (physH r.shared r.slot (hwYH r.word)) (2 * n + 1) i r.err s
        ({ r with ys := (n, d) :: r.ys, yn := r.yn + 1 }, s)
      | none => (r, s)
    let inBeat := r.t0 ≤ u && u < r.t0 + r.execs * r.beats
    s.onE c fun e => { e with hrw := e.hrw.map (fun y => if y.t0 == r.t0 then r else y),
                              hrwBeats := e.hrwBeats + (if inBeat then 1 else 0) }
  let ld := fun (r : BloadRun) (s : State) =>
    if r.t0 + r.n == u && r.n < r.q then
      let (d, s) := engRead c 1 r.tag (stripCtx s c) r.h r.n (r.row + r.n : Nat) r.err s
      s.onE c fun e => { e with bbuf := (u, r.n, d) :: e.bbuf,
                                bload := e.bload.map fun y => if y.t0 == r.t0 then { y with n := y.n + 1 } else y }
    else s
  let s := forAll (s.en c).hrw one s
  let s := forAll (s.en c).bload ld s
  s.onE c fun e => { e with bload := e.bload.filter fun r => r.n < r.q }

/-- The hopper rows that a Tiller instruction reads in cycle `k` of execution `e` enter it (R92, R251). -/
def tlrReads (c : CoreId) (e k : Nat) (r : TlrRun) (s : State) : TlrRun × State :=
  (r.readsAt e k).foldl (fun (a : TlrRun × State) y =>
    let d := readHopErr c 2 r.tag (slotCtx a.2 c r.slot.val) (5 * (e * r.rows + k) + y.1) y.2 r.err
      (hopRow (a.2.sc c).wall (a.2.cm c) y.2) a.2
    (a.1.take e k y.1 d.1, d.2)) (r, s)

/-- UQ's reads of schedule cycle `u` (R251), with the release of R195 in the last cycle of each feed window, and the header check of
R260. -/
def tlrCycle (c : CoreId) (u : Nat) (s : State) : State :=
  let one := fun (r : TlrRun) (s : State) =>
    match r.window u with
    | none => s
    | some (e, k) =>
      let (r', s) := tlrReads c e k r s
      let s := s.onE c fun e => { e with tlr := e.tlr.map fun y => if y.t0 == r.t0 then r' else y }
      let s := if (s.sc c).strip.isSome && k == 0 && r.good && gdRule r.desc == 3 && hdMagic (keyRow r'.ths e) != 0x544C4844 then
          postFault c { cls := 0x0D, source := 2, tag := r.tag, ctx := slotCtx s c r.slot.val,
                        detail := hdMagic (keyRow r'.ths e) }
            (s.onCore c fun k => { k with e := { k.e with tlrHeaderBad := true }, sc := setBit 0xC00 16 k.sc })
        else s
      match (s.sc c).strip with
      | some st => if k + 1 == r.rows && twRstk r.word != 63 then
          addStake c (physStk (s.sc c) st (twRstk r.word)) (twRstkN r.word) 2 r.tag s else s
      | none => s
  forAll (s.en c).tlr one s

/-- The implicit feed waits of the present cycle that are satisfied subtract their counts (R42, R195). -/
def takeTlrFeeds (c : CoreId) (s : State) : State :=
  let ws := (s.en c).tlr.flatMap (tlrWant (s.sc c))
  forAll ws (fun b s => match b.want with
    | .stake k n => s.onSc c fun sc => { sc with stk := vset sc.stk k (vget sc.stk 0 k - BitVec.ofNat 8 n) }
    | .pop _ | .push _ _ => s) s

/-- The hopper rows that a Plough instruction reads in cycle `k` of its present feed window (R92, R194): the window's reads so far number
the next. -/
def plgReads (c : CoreId) (k half : Nat) (r : PlgRun) (s : State) : PlgRun × State :=
  (r.readsAt k).foldl (fun (a : PlgRun × State) y =>
    let row := hopBase y.1 half + y.2
    let d := readHopErr c 0 r.tag (slotCtx a.2 c r.slot.val) a.1.rows.length row r.err (hopRow (a.2.sc c).wall (a.2.cm c) row) a.2
    ({ a.1 with rows := (y.1, y.2, d.1) :: a.1.rows }, d.2)) (r, s)

/-- The Plough's hopper reads of schedule cycle `u` (R194), and the accumulation of a feed window at its last cycle (R199). -/
def plgCycle (c : CoreId) (u : Nat) (s : State) : State :=
  let one := fun (r : PlgRun) (s : State) =>
    if r.execs == 0 then s
    else
      let x := r.execs - 1
      let k := u - r.begin_ x
      if u < r.begin_ x || r.feed ≤ k then s
      else
        let (r, s) := plgReads c k ((pwHalf0 r.word + x) % 2) r s
        if (s.sc c).strip.isNone then s
        else if k + 1 < r.feed then s.onE c fun e => { e with plg := e.plg.map fun y => if y.t0 == r.t0 then r else y }
        else
          let set := if x / r.chunks % 2 == 1 then !r.set0 else r.set0
          let i := b2n set
          s.onE c fun e =>
            let old := if x % r.chunks == 0 then [] else vget e.acc [] i
            let cells := r.accumulate old
            let r := { r with rows := [], passes := if (x + 1) % r.chunks == 0 then r.passes ++ [(x / r.chunks, cells)] else r.passes }
            { e with acc := vset e.acc i cells, plg := e.plg.map fun y => if y.t0 == r.t0 then r else y }
  forAll (s.en c).plg one s

/-- Anything left to do in schedule cycles from `u` on; debug mode checks every cycle in which an instruction is in flight. -/
def engBusy (debug : Bool) (e : Eng) (u : Nat) : Bool :=
  !(e.xfers.isEmpty && e.hrw.isEmpty && e.bload.isEmpty && e.tlr.isEmpty) ||
    (e.plg.any fun r => r.execs != 0 && u < r.begin_ (r.execs - 1) + r.feed) || (debug && !(e.plg.isEmpty && e.root.isEmpty))

/-! ### Slot 7 while cycles pass (R86, R87, R90, R316) -/

/-- How the cycles that pass are served: schedule cycles from strip cycle `u` on, or non-schedule cycles. -/
inductive Pass where
  | sched (u : Nat)
  | idle
  deriving DecidableEq, Repr

/-- First wall cycle, at or after `from_`, of a slot-7 opportunity of bank `b`, when wall cycle `sc.wall` is served as `p` says and the
cycles after it in the same way (R86, R87). -/
def next7 (sc : Sched) (p : Pass) (b from_ : Nat) : Nat :=
  match p with
  | .sched u => from_ + (b % 16 + 23 - (u + (from_ - sc.wall)) % 8) % 8
  | .idle => from_ + (from_ + 1 - sc.origin) % 2

/-- The bank's slot-7 opportunity of the present wall cycle has been taken. -/
def taken7 (m : Mem1) (w b : Nat) : Bool := m.used7.1 == w && m.used7.2.contains (b % 16)

/-- The last opportunity of bank `b` among the `n` cycles from the present one on that no access takes: its wall cycle plus 1. -/
def lastFree7 (sc : Sched) (m : Mem1) (p : Pass) (n b : Nat) : Nat :=
  let w := sc.wall
  let step := match p with
    | .sched _ => 8
    | .idle => 2
  let v := next7 sc p b w
  if w + n ≤ v then vget m.free7 0 b
  else
    let last := v + (w + n - 1 - v) / step * step
    if last == w && taken7 m w b then vget m.free7 0 b else last + 1

/-- The next row of a core program's copy and the first wall cycle in which it may be read: one row per 8 fcyc (R316). -/
def nextProgRow (g : ProgCopy) : Option (Nat × Nat) :=
  let k := g.got.length
  if 128 + g.dataRows ≤ k then none
  else some (g.row + k, if k == 0 || g.lastRead + 1 ≤ g.start + 8 * k then g.start + 8 * k else g.lastRead + 1)

/-- Row `d` of a core program is copied: into instruction memory, then data memory (R316). -/
def takeProg (g : ProgCopy) (w : Nat) (d : Row) (k : Cc) : Cc :=
  let i := g.got.length
  let k := { k with progCopy := some { g with got := g.got ++ [d], lastRead := w } }
  if i < 128 then { k with imem := writeCells k.imem (512 * i) d.bytes } else { k with dmem := writeCells k.dmem (512 * (i - 128)) d.bytes }

/-- The rows of a core program's copy whose opportunities fall before wall cycle `end_` are copied (R90, R316); `fuel` bounds them. -/
def progPass (c : CoreId) (p : Pass) (end_ : Nat) : Nat → State → State
  | 0, s => s
  | fuel + 1, s =>
    match (s.cc c).progCopy.bind fun g => (nextProgRow g).map fun r => (g, r) with
    | none => s
    | some (g, row, from_) =>
      let sc := s.sc c
      let b := row % 16
      let f := if from_ ≤ sc.wall then (if taken7 (s.cm c) sc.wall b then sc.wall + 1 else sc.wall) else from_
      let v := next7 sc p b f
      if end_ ≤ v then s
      else progPass c p end_ fuel (s.onCc c (takeProg g v (readRow s (plotAddr c row))))

/-- `n` wall cycles pass at the core: the copy of a core program goes on, and opportunities that no access takes are noted. -/
def pass7 (c : CoreId) (p : Pass) (n : Nat) (s : State) : State :=
  let s := if (s.cc c).progCopy.isNone then s else progPass c p ((s.sc c).wall + n) 256 s
  s.onCore c fun k => { k with m := { k.m with free7 := Vector.ofFn fun b : Fin 16 => lastFree7 k.sc k.m p n b.val } }

/-! ### The clock -/

/-- Counts and occupancies as they stand at the start of a cycle. -/
def snap (sc : Sched) : Sched := { sc with stk0 := sc.stk, hq0 := sc.hq.map List.length, hqp := Vector.replicate 8 0 }

/-- Cycles of a stall in which the Plough runs filler (R73): while it holds its level, or raises it again after the reclaim grant. -/
def stallFiller (sc : Sched) (n : Nat) : Nat :=
  match sc.stall with
  | some st => if st.level != 0 && (st.lent == 0 || st.granted.isSome) then n else 0
  | none => 0

/-- `n` stall cycles are counted (R56); Plough filler runs through them unless the credit is lent (R73). -/
def stallPass (c : CoreId) (n : Nat) (s : State) : State :=
  (pass7 c .idle n s).onCore c fun k =>
    let sc := k.sc
    { k with sc := snap { sc with stallCyc := sc.stallCyc + n, stripStall := satAdd 0xFFFFFFFF sc.stripStall n, wall := sc.wall + n },
             e := { k.e with plgFiller := k.e.plgFiller + stallFiller sc n } }

/-- The Plough's feed and filler cycles among `n` schedule cycles are counted (R215). -/
def countPlg (n : Nat) (k : Core) : Eng :=
  let u := k.sc.stripCyc
  let each := fun (f : Nat × Nat → Nat) => (k.e.plg.map fun r => f (r.spent (u + n)) - f (r.spent u)).sum
  { k.e with plgFeed := k.e.plgFeed + each (·.1), plgFiller := k.e.plgFiller + each (·.2) + gapCycles k.sc k.e u n }

/-- `n` cycles pass with nothing scheduled in them: schedule cycles up to the end of the strip. -/
def schedJump (c : CoreId) (n : Nat) (s : State) : State :=
  let len := stripLen (s.sc c)
  let u := (s.sc c).stripCyc
  let k := if u + n ≤ len then n else len - u
  (pass7 c (if u < len then .sched u else .idle) n s).onCore c fun (x : Core) =>
    { x with e := countPlg k x,
             sc := snap { x.sc with schedCyc := x.sc.schedCyc + k, stripCyc := x.sc.stripCyc + k, wall := x.sc.wall + n } }

/-- `n` cycles pass in which no strip runs. -/
def idlePass (c : CoreId) (n : Nat) (s : State) : State :=
  (pass7 c .idle n s).onSc c fun sc => snap { sc with wall := sc.wall + n }

/-- `n` wall cycles of a running strip, cycle by cycle while an engine has scheduled accesses. -/
def runCycles (c : CoreId) : Nat → State → State
  | 0, s => s
  | n + 1, s =>
    let s := hazardCheck c s
    let sc := s.sc c
    if sc.strip.isNone then idlePass c (n + 1) s
    else if !engBusy (debugMode s c) (s.en c) sc.stripCyc || stripLen sc ≤ sc.stripCyc then schedJump c (n + 1) s
    else
      let bs := (blockedNow s c).filter fun b => b.feed && b.q == .uq
      if bs.isEmpty then
        let u := sc.stripCyc
        runCycles c n (schedJump c 1 (tqCycle c u (tlrCycle c u (hrwCycle c u (plgCycle c u (takeTlrFeeds c s))))))
      else stallPass c (n + 1) (beginStall c bs s)

/-- Core `c` reaches wall cycle `t` (an earlier cycle is the present one). No cycle passes while its die's clocks are stopped (R466). -/
def advance (c : CoreId) (t : Nat) (s : State) : State :=
  let sc := s.sc c
  let n := t - sc.wall
  if n == 0 || (s.die (dieOf c)).stopped.isSome then s
  else match sc.run with
    | .running => runCycles c n s
    | .stalled => stallPass c n s
    | .idle | .faulted => idlePass c n s

/-! ### Arrivals and the pushes of their cycle (R60) -/

/-- `hq.push` instructions on queue `q` that the present cycle has still to perform: those due in a cycle that is not blocked, and those of
a stall that resumes in it. -/
def pushesDue (s : State) (c : CoreId) (q : Nat) : Nat :=
  let sc := s.sc c
  let isPush := fun (b : Blocked) => match b.want with
    | .push k _ => k == q
    | .stake _ _ | .pop _ => false
  match sc.run, sc.stall with
  | .running, _ => if (blockedNow s c).isEmpty then ((dueWants s c).filter isPush).length else 0
  | .stalled, some st =>
    if (st.lent == 0 && st.released.any fun a => a + 3 == sc.wall) || st.granted.any fun g => g + 64 == sc.wall then
      (st.blocked.filter isPush).length else 0
  | _, _ => 0

/-- An arrival at core `c` in its present cycle (R60). -/
def arriveNow (c : CoreId) (ahq : Option Nat) (h stk n tag : Nat) (s : State) : State :=
  arrive c ahq h stk n tag (pushesDue s c) s

end Sys2Proof.Machine
end

