-- ==== Sys2Proof/Machine/Slots.lean ====
section
/-! DEFINITION. Who uses the asynchronous slots of a Plot bank (R86, R87, R90): slot 6 and slot 7, the accesses that wait for slot 7 in
their ranks, and the first opportunity that each may take. -/

namespace Sys2Proof.Machine

open Sys2Proof

/-- The core performs a schedule cycle in its present wall cycle: a strip runs and no wait blocks it. -/
def schedNow (s : State) (c : CoreId) : Bool :=
  let sc := s.sc c
  sc.run == .running && sc.stripCyc < stripLen sc && (blockedNow s c).isEmpty

/-- Bank `b` of the core's Plot is in slot `slot` (6 or 7) of its frame now (R86), or serves its traffic in a non-schedule cycle: slot
6 in even and slot 7 in odd wall cycles, counted from the core's reset (R87). -/
def slotNow (s : State) (c : CoreId) (slot b : Nat) : Bool :=
  let sc := s.sc c
  if schedNow s c then (sc.stripCyc + 16 - b % 16) % 8 == slot else (sc.wall - sc.origin) % 2 == slot - 6

/-! ### Accesses that wait for slot 7 -/

/-- The Plot row that the staging reads next, with the first cycle in which it may (R30). -/
def nextStageRow (g : Staging) : Option (Nat × Nat) :=
  let k := g.got.length
  match g.got with
  | [] => some (g.row, g.start)
  | h :: _ => (stageRows g.row h)[k]?.map fun r => (r, if g.start + 8 * k ≤ g.lastRead + 1 then g.lastRead + 1 else g.start + 8 * k)

/-- The wall cycle in which a staging that has read all its rows is complete (R30). -/
def stagingDone (g : Staging) : Option Nat :=
  match g.got with
  | [] => none
  | h :: _ =>
    let n := (stageRows g.row h).length
    if g.got.length == n then some (if g.start + 8 * n ≤ g.lastRead + 1 then g.lastRead + 1 else g.start + 8 * n) else none

/-- Index of the send that the engine reads next: the one in progress, else the first due; a retransmission before a departure of the
same cycle (R334). -/
def sendPick (l : List Send) : Option (Nat × Send) :=
  match l.zipIdx.find? fun x => x.1.state == .reading with
  | some x => some (x.2, x.1)
  | none => l.zipIdx.foldl (fun best x =>
      if x.1.state != .queued then best
      else match best with
        | none => some (x.2, x.1)
        | some b => if x.1.due < b.2.due || (x.1.due == b.2.due && x.1.retx && !b.2.retx) then some (x.2, x.1) else best) none

/-- First wall cycle in which the send engine may read the next row of a send: the cycle after it became due, and 8 cycles after its last
read (R354). -/
def sendFrom (k : Cc) (x : Send) : Nat :=
  match k.sendRead with
  | some l => if l + 8 ≤ x.due + 1 then x.due + 1 else l + 8
  | none => x.due + 1

/-- The Plot row that the trace unit writes next (R300). -/
def traceRow (k : Cc) : Nat := k.traceBase + k.traceWptr % k.traceRows

/-- The accesses that wait for slot 7, down to the trace unit: rank of R90, Plot row, first wall cycle. -/
def waits7 (s : State) (c : CoreId) : List (Nat × Nat × Nat) :=
  let k := s.cc c
  ((s.sc c).staging.bind nextStageRow).toList.map (fun r => (1, r.1, r.2)) ++
  (k.progCopy.bind nextProgRow).toList.map (fun r => (2, r.1, r.2)) ++
  k.winOp.toList.map (fun o => (3, o.row, o.issued + 1)) ++
  (sendPick k.sends).toList.map (fun x => (4, x.2.row + x.2.k, sendFrom k x.2)) ++
  (if 32 ≤ k.traceBuf.length && k.traceRows != 0 then [(5, traceRow k, 0)] else [])

/-- The bank of Plot row `row` has a slot-7 opportunity now for an access of rank `rank` (R86, R90): none has taken it, and no access of a
higher rank waits for it. -/
def free7Now (s : State) (c : CoreId) (rank row : Nat) : Bool :=
  let w := (s.sc c).wall
  slotNow s c 7 row && !taken7 (s.cm c) w row &&
    (waits7 s c).all fun a => !(a.1 < rank && a.2.1 % 16 == row % 16 && a.2.2 ≤ w)

/-- This is the first slot-7 opportunity of the bank at or after wall cycle `from_` that an access of rank `rank` may take (R30, R314,
R354). -/
def first7 (s : State) (c : CoreId) (rank row from_ : Nat) : Bool :=
  from_ ≤ (s.sc c).wall && vget (s.cm c).free7 0 (row % 16) ≤ from_ && free7Now s c rank row

/-- An access takes the slot-7 opportunity of the bank of Plot row `row`. -/
def use7 (c : CoreId) (row : Nat) (s : State) : State :=
  let w := (s.sc c).wall
  s.onM c fun m => { m with used7 := (w, row % 16 :: (if m.used7.1 == w then m.used7.2 else [])) }

end Sys2Proof.Machine
end

