-- ==== Sys2Proof/Machine/TillerBase.lean ====
section
/-! DEFINITION. A root commit's new header row (R260, R262). -/

namespace Sys2Proof.Machine

open Sys2Proof

/-- The residual slot's value is at most ROOT_TOL, the non-finite value is 0, and both slots hold a value (R262). -/
def rootAccepted (hdr : Row) (res nf : SumSlot) : Bool :=
  let r := fp32.decode (res.value.toNat % 2 ^ 32)
  let tol := fp32.decode (hdr.field 0x24 4)
  res.valid && nf.valid && nf.value == 0 && !r.isNan && !tol.isNan && !tol.lt r

/-- The header that tlr.rootfin writes (R262). -/
def rootHeader (hdr : Row) (res nf : SumSlot) (step : Nat) : Row :=
  let flags := hdr.field 0x05 1
  let hdr := hdr.put 0x18 4 (res.value.toNat % 2 ^ 32)
  if rootAccepted hdr res nf then
    ((((hdr.put 0x04 1 (if hdr.field 0x04 1 == 0 then 1 else 0)).put 0x05 1 (flags - flags % 4 + 1)).put 0x08 8 step).put 0x10 4
      (satAdd 0xFFFFFFFF (hdr.field 0x10 4) 1))
  else
    ((hdr.put 0x05 1 (flags / 8 * 8 + flags % 2 + 2 + (if nf.value == 0 then 0 else 4))).put 0x14 4
      (satAdd 0xFFFFFFFF (hdr.field 0x14 4) 1))

/-- The new header of a root commit is written, and its outcome counted (R262, R398). -/
def rootWrite (c : CoreId) (r : RootRun) (s : State) : State :=
  let w := handle s c r.h
  let s := foldWrite c 2 r.tag (hAddr w (r.row : Nat)).1 r.hdr (writeH c 2 r.tag (stripCtx s c) r.h (r.row : Nat) r.hdr s)
  let s := if r.ok then s else s.onSc c (setBit 0xC00 32)
  s.onE c fun e =>
    let e := { e with root := e.root.filter fun x => x.t0 != r.t0 }
    if r.ok then { e with tlrOk := satAdd 0xFFFF e.tlrOk 1 } else { e with tlrFail := satAdd 0xFFFF e.tlrFail 1, tlrRootFail := true }

end Sys2Proof.Machine
end

