-- ==== Sys2Proof/Machine/Alloc.lean ====
section
/-! DEFINITION. The Commons allocator of a die (R110 to R114): extents of 64-row pages, page-outs into the backing areas and
page-ins. -/

namespace Sys2Proof.Machine

open Sys2Proof

/-- Pages of one bank group (R93, R110). -/
def groupPages : Nat := 4096

/-- Free extents between pages `lo` and `hi`, given the allocated ones there in rising order. -/
def freeRuns : List (Nat × Nat) → Nat → Nat → List (Nat × Nat)
  | [], lo, hi => if lo < hi then [(lo, hi - lo)] else []
  | e :: es, lo, hi => (if lo < e.1 then [(lo, e.1 - lo)] else []) ++ freeRuns es (e.1 + e.2) hi

/-- An extent put in its place. -/
def insertExt (e : Nat × Nat) : List (Nat × Nat) → List (Nat × Nat)
  | [] => [e]
  | x :: xs => if e.1 ≤ x.1 then e :: x :: xs else x :: insertExt e xs

/-- The groups in which context `x` may allocate (R110): in its mask, not fixed, not gated. -/
def groupOpen (d : Die) (x g : Nat) : Bool :=
  (vget d.ctxGroups 0 x).getLsbD g && !d.fixed.getLsbD g && vget d.groupState 0 g == 0

/-- The first page of the extent that R110 chooses for `n` pages of context `x`. -/
def findExtent (d : Die) (x n : Nat) : Option Nat :=
  ((List.range 16).filter (groupOpen d x)).findSome? fun g =>
    (freeRuns (d.extents.filter fun e => e.1 / groupPages == g) (groupPages * g) (groupPages * (g + 1))).findSome? fun r =>
      if n ≤ r.2 then some r.1 else none

/-- Pages that a handle's rows fill. -/
def hPages (h : IWord) : Nat := ceilDiv (hCount h) 64

/-- The first backing row that R113 chooses for `n` pages of context `x`: first fit in the context's area. -/
def findArea (d : Die) (x n : Nat) : Option Nat :=
  let base := vget d.pageBase 0 x
  let used := d.backing.filter fun j => base ≤ j.area && j.area < base + vget d.pageRows 0 x
  let ext := used.foldl (fun l j => insertExt ((j.area - base) / 64, j.pages) l) []
  (freeRuns ext 0 (vget d.pageRows 0 x / 64)).findSome? fun r => if n ≤ r.2 then some (base + 64 * r.1) else none

/-- Handles that a staged, pending or running strip of core `c` names, and those that the rows of a staging in progress name so far. -/
def namedHandles (s : State) (c : CoreId) : List Nat :=
  let sc := s.sc c
  let names := fun (o : Option Strip) => o.elim [] stripHandles
  names sc.staged ++ names sc.strip ++
    names (sc.staging.bind fun g => if g.got.isEmpty then none else some (stripOf g.row g.slot g.got))

/-- A candidate for a page-out goes in its order: launch count, core, handle (R112). -/
def insertCand (e : Nat × CoreId × Nat) : List (Nat × CoreId × Nat) → List (Nat × CoreId × Nat)
  | [] => [e]
  | x :: xs =>
    if e.1 < x.1 || (e.1 == x.1 && (e.2.1.val < x.2.1.val || (e.2.1 == x.2.1 && e.2.2 ≤ x.2.2))) then e :: x :: xs
    else x :: insertCand e xs

/-- Pages of the extent that begins at page `p`. -/
def extPages (d : Die) (p : Nat) : Nat := ((d.extents.find? fun e => e.1 == p).map (·.2)).getD 0

/-- The extents of context `x` on die `d` that may be paged out, in the order of R112. A handle that was rewritten to name other rows than
its extent's has none (log entry 47). -/
def pageOutCands (s : State) (d : DieId) (x : Nat) : List (Nat × CoreId × Nat) :=
  let all := (coresOf d).flatMap fun c =>
    let named := namedHandles s c
    ((List.range 64).filter fun h =>
      let w := handle s c h
      let o := vget (s.cm c).owned 0 h
      o != 0 && hBase w == 64 * (o - 1) && hRegion w == 2 && hPageable w && hRes w == 0 && hCtx w == x && !named.contains h).map
      fun h => (vget (s.cm c).lastNamed 0 h, c, h)
  all.foldl (fun l e => insertCand e l) []

/-- A field of a handle is changed by the hardware. -/
def setHandle (c : CoreId) (h : Nat) (w : IWord) (s : State) : State := s.onM c fun m => { m with handles := vset m.handles h w }

/-- RES of a handle is changed by the hardware. A software write of the handle in the same control-core cycle wins (R12). -/
def setRes (c : CoreId) (h v : Nat) (s : State) : State :=
  if (s.sc c).swSet.1 == ccCyc (s.sc c) && (s.sc c).swSet.2.contains h then s else setHandle c h (hPut (handle s c h) 4 2 v) s

/-- A page-out starts (R113). Without room in the backing area the extent stays. -/
def startPageOut (d : DieId) (c : CoreId) (h : Nat) (s : State) : State :=
  let w := handle s c h
  let n := extPages (s.die d) (vget (s.cm c).owned 0 h - 1)
  match findArea (s.die d) (hCtx w) n with
  | none => s
  | some a =>
    let j : PageJob := ⟨c, h, hBase w, n, a⟩
    setRes c h 2 (s.onDie d fun k => { k with backing := k.backing ++ [j], pageOuts := k.pageOuts ++ [j] })

/-- The die as it will be when the page-outs in progress have freed their extents. -/
def afterPageOuts (d : Die) : Die :=
  { d with extents := d.extents.filter fun e => !d.pageOuts.any fun j => j.src / 64 == e.1 }

/-- Page-outs start until a request of `n` pages for context `x` can be met (R112). -/
def makeRoom (d : DieId) (x n : Nat) (s : State) : State :=
  forAll (pageOutCands s d x) (fun e s =>
    if (findExtent (afterPageOuts (s.die d)) x n).isSome then s else startPageOut d e.2.1 e.2.2 s) s

/-- The die's allocator is still paging out extents of context `x`. -/
def pagingOut (s : State) (d : DieId) (x : Nat) : Bool :=
  (s.die d).pageOuts.any fun j => hCtx (handle s j.core j.h) == x

/-! ### The allocator's requests, served one after another (R111) -/

/-- A request takes its place: in the order made, same-cycle requests in increasing core position (R111). -/
def insertAlloc (e : AllocReq) : List AllocReq → List AllocReq
  | [] => [e]
  | x :: xs => if e.made < x.made || (e.made == x.made && posOf e.core < posOf x.core) then e :: x :: xs else x :: insertAlloc e xs

/-- The job is that of handle `h` of core `c`. -/
def PageJob.of (c : CoreId) (h : Nat) (j : PageJob) : Bool := j.core == c && j.h == h

/-- Context and pages of the extent that a request wants; none for a ctl.halloc that needs none. -/
def allocWant (s : State) (r : AllocReq) : Option (Nat × Nat) :=
  match r.h with
  | some h =>
    let w := handle s r.core h
    some (hCtx w, (((s.die (dieOf r.core)).backing.find? (PageJob.of r.core h)).map (·.pages)).getD (hPages w))
  | none => (s.cc r.core).halloc.bind fun q =>
      if hRes (handle s r.core q.2.1) == 3 then some (slotCtx s r.core q.2.2.1.val, q.2.2.2.1) else none

/-- A page-in begins with the `n` pages from `p` on (R114). -/
def beginPageIn (c : CoreId) (h p n : Nat) (s : State) : State :=
  let s := s.onDie (dieOf c) fun k =>
    { k with extents := insertExt (p, n) k.extents, allocQ := k.allocQ.tail,
             pageIns := k.pageIns ++ [⟨c, h, 64 * p, n, ((k.backing.find? (PageJob.of c h)).map (·.area)).getD 0⟩] }
  s.onM c fun m => { m with owned := vset m.owned h (p + 1) }

/-- The allocator of die `d` serves its requests in order (R110 to R112, R114): a page-in that finds an extent begins, a ctl.halloc waits
for its answer, and a request that finds none makes room. The first request that waits holds the later ones; `fuel` bounds the loop. -/
def serveAlloc (d : DieId) : Nat → State → State
  | 0, s => s
  | fuel + 1, s =>
    match (s.die d).allocQ with
    | [] => s
    | r :: _ =>
      match allocWant s r with
      | none => s
      | some (x, n) =>
        match r.h, findExtent (s.die d) x n with
        | some h, some p =>
          if (s.die d).pageOuts.any (PageJob.of r.core h) then s else serveAlloc d fuel (beginPageIn r.core h p n s)
        | none, some _ => s
        | _, none => makeRoom d x n s

/-- The allocator goes on. -/
def serve (d : DieId) (s : State) : State := serveAlloc d ((s.die d).allocQ.length + 1) s

/-- A request of the present cycle joins the die's list. -/
def askAlloc (c : CoreId) (h : Option Nat) (s : State) : State :=
  serve (dieOf c) (s.onDie (dieOf c) fun k => { k with allocQ := insertAlloc ⟨c, (s.sc c).wall, h⟩ k.allocQ })

/-- The first request of the die is done. -/
def allocDone (d : DieId) (s : State) : State := serve d (s.onDie d fun k => { k with allocQ := k.allocQ.tail })

/-- The first request cannot be met: no extent fits, and no page-out is left to start or to finish (R112). -/
def allocFails (s : State) (d : DieId) (x n : Nat) : Bool := (findExtent (s.die d) x n).isNone && !pagingOut s d x

/-- A page-in of handle `h` of core `c` is requested or in progress. -/
def pagingIn (s : State) (c : CoreId) (h : Nat) : Bool :=
  (s.die (dieOf c)).pageIns.any (PageJob.of c h) || (s.die (dieOf c)).allocQ.any fun r => r.core == c && r.h == some h

/-- The core requests the page-in of each handle of `hs` that is paged out or in transit (R114). -/
def startPageIns (c : CoreId) (hs : List Nat) (s : State) : State :=
  forAll hs (fun h s =>
    let w := handle s c h
    if (hRes w == 1 || hRes w == 2) && !pagingIn s c h then askAlloc c (some h) (setRes c h 2 s) else s) s

/-- A handle gives up its extent and its page copies (R108): an allocator-owned extent is freed. -/
def freeHandle (c : CoreId) (h : Nat) (s : State) : State :=
  let d := dieOf c
  let o := vget (s.cm c).owned 0 h
  let s := s.onDie d fun k =>
    { k with extents := k.extents.filter fun e => !(o != 0 && e.1 + 1 == o),
             backing := k.backing.filter fun j => !j.of c h, pageOuts := k.pageOuts.filter fun j => !j.of c h,
             pageIns := k.pageIns.filter fun j => !j.of c h, allocQ := k.allocQ.filter fun r => !(r.core == c && r.h == some h) }
  serve d (s.onM c fun m => { m with owned := vset m.owned h 0 })

/-! ### Copies of pages (R100, R113, R118) -/

/-- A Commons request waits at the bank of Commons row `row` of die `d` (R98, R100). -/
def bankWaits (s : State) (d : DieId) (row : Nat) : Bool :=
  allCores.any fun c => (s.en c).cmn.any fun r => !r.done && r.ok &&
    (match placeOf r.addr with
      | .commons e k => e == d && bankOf k == bankOf row
      | .plot _ _ | .deep _ _ | .control | .window | .unpopulated => false)

/-- What a read of the row at `a` meets: a deep-memory device that failed training gives uncorrectable reads (R129). -/
def readEcc (s : State) (a : Nat) (ecc : Ecc) : Ecc :=
  match placeOf a with
  | .deep d r => if (s.die d).dmStatus.getLsbD (3 + r % 3) then .bad (eccCw ecc) else ecc
  | .plot _ _ | .commons _ _ | .control | .window | .unpopulated => ecc

/-- The row at `a` as a read delivers it that meets `ecc` (R116 to R118); the error is counted. -/
def readNoted (s : State) (a : Nat) (ecc : Ecc) : Row × State := (eccRow ecc (readRow s a), noteEcc s a ecc)

/-- The hardware reads `n` rows from module address `a` on to copy them. An uncorrectable row is counted; what is copied for it is not
stated: a free value (log entry 116). -/
def readCopied (a n : Nat) (err : ReadErr) (s : State) : List Row × State :=
  (List.range n).foldl (fun (x : List Row × State) k =>
    let e := readEcc x.2 (a + 512 * k) (errAt err k)
    let r := readNoted x.2 (a + 512 * k) e
    if eccBad e then (x.1 ++ [Config.freeRow r.2.free], r.2.fresh) else (x.1 ++ [r.1], r.2)) ([], s)

/-- The hardware copies `n` rows from module address `a` to `b`. An uncorrectable row is counted; what is copied for it is not stated: a
free value (log entry 116). -/
def copyRows (a b n : Nat) (err : ReadErr) (s : State) : State :=
  forAll (List.range n) (fun k s =>
    let e := readEcc s (a + 512 * k) (errAt err k)
    let r := readNoted s (a + 512 * k) e
    if eccBad e then writeRow r.2.fresh (b + 512 * k) (Config.freeRow r.2.free) else writeRow r.2 (b + 512 * k) r.1) s

end Sys2Proof.Machine
end

