-- ==== Sys2Proof/Machine/CcBase.lean ====
section
/-! DEFINITION. The control core's registers, when it issues an instruction and what it does when one retires or traps (R308 to R311,
R319, R324), shared by its commands. -/

namespace Sys2Proof.Machine

open Sys2Proof

/-- Register `r`; x0 reads 0. -/
def regGet (cc : Cc) (r : Nat) : Word := if r == 0 then 0 else vget cc.regs 0 r
/-- Write register `r`; x0 discards it. -/
def regSet (r : Nat) (v : Word) (cc : Cc) : Cc := if r == 0 then cc else { cc with regs := vset cc.regs r v }

/-- The value of register `r` of core `c`. -/
def State.reg (s : State) (c : CoreId) (r : Reg) : Nat := (regGet (s.cc c) r.val).toNat
/-- A status in register `r` of core `c`. -/
def setReg (c : CoreId) (r : Reg) (v : Nat) (s : State) : State := s.onCc c (regSet r.val (BitVec.ofNat 32 v))

/-- The control core executes instructions: running, or in a handler. -/
def CcRun.executes : CcRun → Bool
  | .running | .handler => true
  | .halted | .wfe => false

/-- First wall cycle of the `n`-th control-core cycle after the present one (R309). -/
def ccStart (sc : Sched) (n : Nat) : Nat := sc.origin + 4 * (ccCyc sc + n)

/-- The present wall cycle is the first of a control-core cycle (R309). -/
def ccEdge (sc : Sched) : Bool := (sc.wall - sc.origin) % 4 == 0

/-- The control core of `c` issues an instruction in the present wall cycle: the first fcyc of a control-core cycle (R309) in which
the instruction before it has taken its cycles (R310). A fused-off position has none (R6). -/
def ccIssues (s : State) (c : CoreId) : Bool :=
  let cc := s.cc c
  let w := (s.sc c).wall
  cc.run.executes && cc.readyAt ≤ w && ccEdge (s.sc c) && cc.winOp.isNone && cc.halloc.isNone && !cc.resetting &&
    (s.die (dieOf c)).stopped.isNone && !fusedOff s c

/-- The instruction retires after `n` control-core cycles with the program counter at `pc`. -/
def ccRetire (c : CoreId) (pc : Word) (n : Nat) (s : State) : State :=
  let w := (s.sc c).wall
  s.onCc c fun k => { k with pc := pc, minstret := k.minstret + 1, readyAt := w + 4 * n }

/-- A custom instruction retires. -/
def ccNext (c : CoreId) (n : Nat) (s : State) : State := ccRetire c ((s.cc c).pc + 4) n s

/-- An exception halts the control core at the instruction (R311). `info` is the address or the instruction concerned: what mtval
records of it is open. A running strip and a pending launch go on. -/
def ccTrap (c : CoreId) (cause : Nat) (info : Word) (s : State) : State :=
  let pc := (s.cc c).pc
  let val := Config.trapVal cause info
  let s := s.onCc c fun k =>
    { k with mcause := BitVec.ofNat 32 cause, mepc := pc, mtval := val, trap := (BitVec.ofNat 32 cause, pc, val), trapped := true,
             run := .halted, hdlActive := false }
  postFault c { cls := 0x0F, source := 4, tag := (s.cc c).tag, ctx := stripCtx s c,
                detail := cause + pc.toNat * 2 ^ 32 + val.toNat * 2 ^ 64 } s

/-- An illegal instruction with bits `w`. -/
def ccIllegal (c : CoreId) (w : Word) (s : State) : State := ccTrap c 2 w s

/-- A word of control-core memory is read: a corrected error is counted in PLT_ERR_CNT, an uncorrectable one is recorded (R313, which names
no other outcome of its code). -/
def ccMemEcc (c : CoreId) (ecc : Ecc) (s : State) : State :=
  match ecc with
  | .clean | .wrong _ none => s
  | .corrected _ | .wrong _ (some _) => (noteRisk s ecc).onM c fun m => { m with err := { m.err with ce := satAdd 0xFFFF m.err.ce 1 } }
  | .bad cw => postFault c { cls := 0x03, source := 4, tag := (s.cc c).tag, ctx := stripCtx s c, detail := 4 + cw % 256 * 256 } s

/-- A custom-0 instruction's bits (R317). -/
def ctlWord (f3 f7 rd rs1 rs2 : Nat) : Word :=
  BitVec.ofNat 32 (0x0B + rd * 2 ^ 7 + f3 * 2 ^ 12 + rs1 * 2 ^ 15 + rs2 * 2 ^ 20 + f7 * 2 ^ 25)

/-- A command in which core `c` reaches wall cycle `t`, then does `f` when `due` holds there. -/
def atCore (c : CoreId) (t : Nat) (due : State → Bool) (f : State → State) (s : State) : Answer :=
  let s := advance c t s
  .next (if due s then f s else s)

/-- A control-core instruction issues at wall cycle `t`. -/
def ccCommand (c : CoreId) (t : Nat) (f : State → State) (s : State) : Answer := atCore c t (ccIssues · c) f s

end Sys2Proof.Machine
end

