-- ==== Sys2Proof/Machine/Launch.lean ====
section
/-! DEFINITION. Staging, launch, credit and wake (R30 to R35, R65 to R72, R78, R305, R468, R469): the shared operations of their
commands. -/

namespace Sys2Proof.Machine

open Sys2Proof

/-- PWR_DIE_FREE: the pool less the credit held on the die (R70, R81). -/
def dieFree (s : State) (d : DieId) : Int :=
  (clampN 0 256 (s.die d).pool : Int) - ((coresOf d).map fun c => (s.sc c).held).sum

/-- A debug-only strip on a die that is not in debug mode (R78). -/
def debugRefused (s : State) (c : CoreId) (hdr : Row) : Bool := hdrDebugReq hdr && !debugMode s c

/-- The header row of the staged strip, or of the staging once it has read it. -/
def stagedHdr (sc : Sched) : Option Row :=
  match sc.staged, sc.staging with
  | some st, _ => some st.hdr
  | none, some g => g.got.head?
  | none, none => none

/-- The core waits for a condition of R32: a stall of the new strip (R33). -/
def launchWait (c : CoreId) (cause : Cause) (s : State) : State :=
  s.onSc c fun sc => { sc with run := .stalled, cause := cause, which := 0 }

/-- The pending launch of class `k` holds its credit from this cycle on (R33), and any above it goes back to the pool (R68); its wake is
requested in the next (R469). -/
def setGranted (c : CoreId) (k : Nat) (s : State) : State :=
  let w := (s.sc c).wall
  let g := (s.core c).gate
  let first := (s.sc c).launch.any fun l => l.wakeReq.isNone
  let s := s.onSc c fun sc => { sc with held := if k ≤ sc.held then k else sc.held, launch := sc.launch.map fun l =>
    { l with credited := true, granted := some w,
             wakeReq := if l.wakeReq.isNone && g != .awake then some (w + 1) else l.wakeReq } }
  if first && g == .powerGated then s.onDie (dieOf c) fun d => { d with wakeQ := d.wakeQ ++ [c] } else s

/-- The credit step of a launch of class `k` (R68): surplus goes back to the pool at once, a shortage is requested. What the launch lent
before this step is already requested (R71): that request grows where it is too small, and the launch waits for its grant. -/
def creditStep (c : CoreId) (k : Nat) (s : State) : State :=
  let s := s.onSc c fun sc => { sc with cls := k, launch := sc.launch.map fun l => { l with credited := true } }
  let h := (s.sc c).held
  let r := (s.sc c).request
  if r == 0 && k ≤ h then setGranted c k s else if k ≤ h + r then s else pushReq c (k - h - r) s

/-- The dies reachable in `n` rounds of coupling (R465). -/
def coupledDies (pairs : List (Nat × Nat)) : Nat → List Nat → List Nat
  | 0, ds => ds
  | n + 1, ds => coupledDies pairs n ((List.range 8).filter fun d => ds.contains d ||
      pairs.any fun p => (p.1 == d && ds.contains p.2) || (p.2 == d && ds.contains p.1))

/-- An image of the context is accepted: it stays so while another load of the context is checked or refused (R303). -/
def LoadCtx.inForce (l : LoadCtx) : Bool := !l.regions.isEmpty

/-- The step set of die `d` (R465): coupled by the accepted images. -/
def stepSet (s : State) (d : DieId) : List DieId :=
  let pairs := s.hub.loads.toList.flatMap fun l => if l.inForce then l.coupled else []
  (coupledDies pairs 8 [d.val]).map fun k => Fin.ofNat 8 k

/-- The fourth condition of R32 is withheld on die `d`: a step change is in progress, or wanted by a new coupling (R465, R466), or the
module shuts down (R476, R478). -/
def wakeWithheld (s : State) (d : DieId) : Bool :=
  (s.die d).changing || s.hub.pwr.fail.isSome || s.hub.pwr.trip.isSome ||
    (stepSet s d).any fun e => (s.die e).stepCur != (s.die d).stepCur

/-- The conditions of R32 are established in order as far as they hold. With the last one the launch is ready. -/
def launchStep (c : CoreId) (s : State) : State :=
  match (s.sc c).launch with
  | none => s
  | some l =>
    if l.point.isNone || l.since.isSome || (s.sc c).run == .faulted then s
    else match (s.sc c).staged with
    | none => launchWait c .staging s
    | some st =>
      let named := stripHandles st
      if named.any (pagingIn s c) then launchWait c .pageIn s
      else
        let s := if l.credited then s else creditStep c (hdrClass st.hdr) s
        if (s.sc c).launch.all (fun l => l.granted.isNone) then launchWait c .credit s
        else if (s.core c).gate != .awake || wakeWithheld s (dieOf c) then launchWait c .wake s
        else s.onSc c fun sc => { sc with run := .idle, cause := .none,
                                          launch := sc.launch.map fun l => { l with since := some sc.wall } }

/-- The launch point is the present wall cycle (R33): the new strip's counts start (R56). -/
def launchPoint (c : CoreId) (s : State) : State :=
  launchStep c (s.onSc c fun sc =>
    { sc with stripCyc := 0, stripStall := 0, launchPoint := sc.wall, dlPosted := false, lent := false,
              launch := sc.launch.map fun l => { l with point := some sc.wall } })

/-- A pending launch is refused: it is no longer pending and its credit request is withdrawn; a staged strip stays (R78, R114, R119,
R182). The delay of R69 starts again. -/
def refuseLaunch (c : CoreId) (s : State) : State :=
  let ran := (s.sc c).strip.isSome
  let s := if ran then s else dropRequests c s
  s.onSc c fun sc =>
    if ran then { sc with launch := none }
    else { sc with launch := none, run := if sc.run == .faulted then .faulted else .idle, cause := .none, lent := false,
                   ended := some sc.wall }

/-- A launch fault record of the control core (R326). -/
def launchFault (c : CoreId) (cls detail : Nat) (s : State) : State :=
  postFault c { cls := cls, source := 4, tag := (s.cc c).tag, ctx := stripCtx s c, detail := detail } s

/-- The slot whose accepted directory lists header row `row`, with the context that the header names (R305). -/
def imageSlot (s : State) (c : CoreId) (row : Nat) : Option (Fin 4) :=
  let ctx := hdrContext (readRow s (plotAddr c row))
  (List.finRange 4).find? fun k =>
    let i := vget (s.cc c).img ImgSlot.reset k.val
    i.accepted && i.headers.contains row && i.ctx == ctx && slotValid s c k.val && slotCtx s c k.val == ctx

/-- The strip that the Plot rows of header row `row` hold now. -/
def plotStrip (s : State) (c : CoreId) (row : Nat) (slot : Fin 4) : Strip :=
  stripOf row slot ((stageRows row (readRow s (plotAddr c row))).map fun r => readRow s (plotAddr c r))

/-- ctl.stage of header row `row`: the status, and the state after it. -/
def stageOp (c : CoreId) (row : Nat) (s : State) : Nat × State :=
  let sc := s.sc c
  if sc.staged.isSome || sc.staging.isSome then (1, s)
  else match imageSlot s c row with
  | none => (2, launchFault c 0x0A row s)
  | some slot => (0, s.onSc c fun sc => { sc with staging := some ⟨row, slot, sc.wall, [], sc.wall⟩ })

/-- Header row and slot of the staged strip, or of the staging in progress. -/
def stagedAt (sc : Sched) : Option (Nat × Fin 4) :=
  match sc.staged, sc.staging with
  | some st, _ => some (st.row, st.slot)
  | none, some g => some (g.row, g.slot)
  | none, none => none

/-- The accepted directory of slot `slot` still lists header row `row` for the slot's context (R26, R305). -/
def stillListed (s : State) (c : CoreId) (row : Nat) (slot : Fin 4) : Bool :=
  let i := vget (s.cc c).img ImgSlot.reset slot.val
  i.accepted && i.headers.contains row && slotValid s c slot.val && i.ctx == slotCtx s c slot.val

/-- ctl.launch: the status, and the state after it. A refused launch answers 0 and leaves the strip staged (R26, R78). -/
def launchOp (c : CoreId) (s : State) : Nat × State :=
  let sc := s.sc c
  if sc.staged.isNone && sc.staging.isNone then (1, s)
  else if sc.launch.isSome then (2, s)
  else if sc.run == .faulted || sc.stopping || (s.en c).drlFail then (3, s)
  else if (stagedAt sc).any fun x => !stillListed s c x.1 x.2 then (0, launchFault c 0x0A ((stagedAt sc).elim 0 (·.1)) s)
  else if (stagedHdr sc).any (debugRefused s c) then (0, launchFault c 0x07 0 s)
  else
    let s := s.onSc c fun sc => { sc with launch := some ⟨none, false, none, none, none, false, none⟩, ended := none }
    let s := match sc.staged with
      | some st => startPageIns c (stripHandles st) s
      | none => s
    (0, if sc.strip.isNone then launchPoint c s else s)

/-- ctl.unstage: the status, and the state after it. -/
def unstageOp (c : CoreId) (s : State) : Nat × State :=
  if (s.sc c).launch.isSome then (1, s) else (0, s.onSc c fun sc => { sc with staged := none, staging := none })

/-! ### A schedule cycle's commands -/

/-- A command of the present schedule cycle: debug mode checks the cycle first (R77), and a blocked wait stalls the core instead (R50);
otherwise `f`. -/
def inCycle (c : CoreId) (t : Nat) (f : State → State) (s : State) : Answer :=
  let s := hazardCheck c (advance c t s)
  let sc := s.sc c
  .next (if sc.run != .running || stripLen sc ≤ sc.stripCyc then s
    else match blockedNow s c with
    | [] => f s
    | bs => beginStall c bs s)

/-- The instruction `w` of queue `q` issues now: its place in the queue moves on, and its completion is due in cycle `comp` (R37 to
R39). `base` is the cycle from which the next DELAY counts, `busy` the end of its occupancy. -/
def issueWord (c : CoreId) (q : Queue) (w : IWord) (base busy comp : Nat) (own sum : Bool) (s : State) : State :=
  let sc := s.sc c
  match sc.strip with
  | none => s
  | some st =>
    let i := (vget sc.qpos ⟨0, 0, 0⟩ (qIdx q)).idx
    trace c (qIdx q) 0 (wTag w) (s.onSc c fun sc =>
      { sc with qpos := vset sc.qpos (qIdx q) ⟨i + 1, base, busy⟩,
                flights := sc.flights ++ [⟨q, wTag w, comp, physStk sc st (wCstk w), wCstkN w, own, sum⟩] })

/-- A queue-neutral operation of one cycle issues and completes now (R40). -/
def issueNeutral (c : CoreId) (q : Queue) (w : IWord) (s : State) : State :=
  let u := (s.sc c).stripCyc
  issueWord c q w u (u + 1) u false false s

/-- A command that issues the due instruction of `q` when its opcode is `op`. -/
def issueCmd (c : CoreId) (q : Queue) (op t : Nat) (f : IWord → Strip → State → State) (s : State) : Answer :=
  inCycle c t (fun s =>
    match dueWord (s.sc c) q, (s.sc c).strip with
    | some w, some st => if wOp w == op then f w st s else s
    | _, _ => s) s

/-- stk.wait `w` completes (R42): the count is subtracted. -/
def takeStake (c : CoreId) (k n : Nat) (s : State) : State :=
  s.onSc c fun sc => { sc with stk := vset sc.stk k (vget sc.stk 0 k - BitVec.ofNat 8 n),
                               stk0 := vset sc.stk0 k (vget sc.stk0 0 k - BitVec.ofNat 8 n) }

def performWait (c : CoreId) (q : Queue) (w : IWord) (s : State) : State :=
  let u := (s.sc c).stripCyc
  issueWord c q w (u + wWaitN w) (u + wWaitN w) (u + wWaitN w - 1) false false s

def performStkSet (c : CoreId) (q : Queue) (w : IWord) (st : Strip) (s : State) : State :=
  addStake c (physStk (s.sc c) st (wStk w)) (wStkN w) (qIdx q) (wTag w) (issueNeutral c q w s)

def performStkWait (c : CoreId) (q : Queue) (w : IWord) (st : Strip) (s : State) : State :=
  issueNeutral c q w (takeStake c (physStk (s.sc c) st (wStk w)) (wStkN w) s)

def performHqPush (c : CoreId) (q : Queue) (w : IWord) (st : Strip) (s : State) : State :=
  issueNeutral c q w (s.onCore c fun k => { k with sc := hqAppend k.m k.sc (wHq w) (physH (hdrShared st.hdr) st.slot (wHqH w)) })

/-- hq.pop: in debug mode the popped handle and generation must be the expected ones (R61, check 5). A second pop in one cycle of a queue
that held one entry at the cycle's start finds none left: it removes nothing and goes on, and in debug mode check 5 fails, as the handle
is not the expected one (DESIGN CHOICE, log entry 111). -/
def performHqPop (c : CoreId) (q : Queue) (w : IWord) (st : Strip) (s : State) : State :=
  let h := physH (hdrShared st.hdr) st.slot (wHqH w)
  match vget (s.sc c).hq [] (wHq w) with
  | [] => if debugMode s c then hazardStop c (qIdx q) (wTag w) 5 0 s else issueNeutral c q w s
  | e :: es =>
    if debugMode s c && (e.h != h || e.gen != handleGen (s.cm c) h) then hazardStop c (qIdx q) (wTag w) 5 0 s
    else issueNeutral c q w (s.onSc c fun sc =>
      { sc with hq := vset sc.hq (wHq w) es, pushed := sc.pushed.map fun x => if x.1 == e.h then (x.1, x.2.1, some q, x.2.2.2) else x })

/-- The waits that stalled the core are performed in the pending schedule cycle (R54). The implicit feed waits belong to their engines'
steps. -/
def performBlocked (c : CoreId) (b : Blocked) (s : State) : State :=
  match dueWord (s.sc c) b.q, (s.sc c).strip, b.feed with
  | some w, some st, false =>
    match wOp w with
    | 2 => performStkWait c b.q w st s
    | 3 => performHqPush c b.q w st s
    | 4 => performHqPop c b.q w st s
    | _ => s
  | _, _, _ => s

/-- The core performs its pending schedule cycle (R54, R72). -/
def resume (c : CoreId) (s : State) : State :=
  match (s.sc c).stall with
  | none => s
  | some st =>
    let tag := (s.sc c).stallTag
    let q := (st.blocked.head?.map (fun b => qIdx b.q)).getD 0
    let s := trace c q 4 tag (s.onSc c fun sc => { sc with run := .running, cause := .none, which := 0, stall := none, lent := false })
    forAll st.blocked (performBlocked c) s

end Sys2Proof.Machine
end

