-- ==== Sys2Proof/Machine/Strip.lean ====
section
/-! DEFINITION. The commands of strips, launch, credit and stalls: rows CTL_STAGE to INSTRUCTION_COMPLETE of the table
(02, 16 R468 to R471). -/

namespace Sys2Proof.Machine

open Sys2Proof

/-! ### Staging and launch -/

/-- ctl.stage rd, rs1. A row above 12,287 is an illegal instruction. -/
def instStage (c : CoreId) (rd rs1 : Reg) (s : State) : State :=
  let row := s.reg c rs1
  if 12288 ≤ row then ccIllegal c (ctlWord 0 0 rd.val rs1.val 0) s
  else
    let r := stageOp c row s
    ccNext c 1 (setReg c rd r.1 r.2)

/-- CTL_STAGE (R30, R305, R317). -/
def execCtlStage (c : CoreId) (t : Nat) (rd rs1 : Reg) (s : State) : Answer := ccCommand c t (instStage c rd rs1) s

/-- STAGING_ROW_READ (R30, R31, R90): the next row is copied at the first slot-7 opportunity of its bank from its cycle on. An uncorrectable row abandons the
staging (R119); a debug-only header refuses a pending launch (R78). -/
def execStagingRowRead (c : CoreId) (t : Nat) (ecc : Ecc) (s : State) : Answer :=
  let s := advance c t s
  match (s.sc c).staging with
  | none => .next s
  | some g =>
    match nextStageRow g with
    | none => .next s
    | some (row, from_) =>
      let w := (s.sc c).wall
      whenDue (first7 s c 1 row from_) (fun s =>
        let s := use7 c row s
        let a := plotAddr c row
        let (d, s) := readNoted s a ecc
        if eccBad ecc then
          let s := postFault c { cls := 0x03, source := 4, tag := (s.cc c).tag, ctx := slotCtx s c g.slot.val, row := rowField s a,
                                 detail := eccCw ecc * 256 + 6 * 65536 } s
          let s := s.onSc c fun sc => { sc with staging := none }
          if (s.sc c).launch.isSome then refuseLaunch c s else s
        else
          let s := s.onSc c fun sc => { sc with staging := some { g with got := g.got ++ [d], lastRead := w } }
          if g.got.isEmpty && (s.sc c).launch.isSome && debugRefused s c d then refuseLaunch c (launchFault c 0x07 0 s)
          else s) s

/-- STAGING_COMPLETE (R30, R319 bit 5): the first condition of R32. -/
def execStagingComplete (c : CoreId) (t : Nat) (s : State) : Answer :=
  let s := advance c t s
  match (s.sc c).staging with
  | none => .next s
  | some g =>
    whenDue (stagingDone g == some (s.sc c).wall) (fun s =>
      let st := stripOf g.row g.slot g.got
      let s := ccEvent c 5 (s.onSc c fun sc => { sc with staging := none, staged := some st })
      launchStep c (startPageIns c (stripHandles st) s)) s

/-- ctl.launch rd. -/
def instLaunch (c : CoreId) (rd : Reg) (s : State) : State :=
  let r := launchOp c s
  ccNext c 1 (setReg c rd r.1 r.2)

/-- CTL_LAUNCH (R33, R68, R78, R317). -/
def execCtlLaunch (c : CoreId) (t : Nat) (rd : Reg) (s : State) : Answer := ccCommand c t (instLaunch c rd) s

/-- ctl.unstage rd. -/
def instUnstage (c : CoreId) (rd : Reg) (s : State) : State :=
  let r := unstageOp c s
  ccNext c 1 (setReg c rd r.1 r.2)

/-- CTL_UNSTAGE (R317). -/
def execCtlUnstage (c : CoreId) (t : Nat) (rd : Reg) (s : State) : Answer := ccCommand c t (instUnstage c rd) s

/-- The page-in of handle `h` of core `c` is complete (R114): its backing copy has been read back, and BASE_ROW is the new extent's. A
handle without a copy reads as its rows stand. -/
def pageIn (c : CoreId) (h : Nat) (j : PageJob) (err : ReadErr) (s : State) : State :=
  let d := dieOf c
  let s := if (s.die d).backing.any (PageJob.of c h) then copyRows (deepAddr d j.area) (cmnAddr d j.src) (64 * j.pages) err s else s
  let s := s.onDie d fun k => { k with backing := k.backing.filter fun j => !j.of c h, pageIns := k.pageIns.filter fun j => !j.of c h }
  setRes c h 0 (setHandle c h (hPut (handle s c h) 32 25 j.src) s)

/-- PAGE_IN_COMPLETE (R100, R112, R114): the page-in of handle `h` has its extent and its rows, or fails when it is the first of the die's
requests and the allocator can make no room. -/
def execPageInComplete (c : CoreId) (t : Nat) (h : Reading (Fin 64)) (s : State) : Answer :=
  let s := serve (dieOf c) (advance c t s)
  let d := dieOf c
  match (s.die d).pageIns.find? (PageJob.of c h.of.val) with
  | some j =>
    whenDue (!(List.range 16).any fun b => bankWaits s d (j.src / 16 * 16 + b)) (fun s => launchStep c (pageIn c h.of.val j h.err s)) s
  | none =>
    match (s.die d).allocQ with
    | [] => .next s
    | r :: _ =>
      match allocWant s r with
      | none => .next s
      | some (x, n) =>
        whenDue (r.core == c && r.h == some h.of.val && allocFails s d x n) (fun s =>
          let s := launchFault c 0x08 h.of.val (setRes c h.of.val 1 (allocDone d s))
          if (s.sc c).launch.isSome then refuseLaunch c s else s) s

/-! ### Credit and wake -/

/-- The head of the die's request list is granted (R68): the credit is held from this cycle on. -/
def grantHead (d : DieId) (c : CoreId) (n : Nat) (s : State) : State :=
  (s.onDie d fun k => { k with reqs := k.reqs.tail }).onSc c fun sc => { sc with held := sc.held + n, lent := false, request := sc.request - n }

/-- The core waits for a reclaim grant (R72). -/
def reclaiming (sc : Sched) : Bool := sc.stall.any fun st => st.released.isSome && st.lent != 0 && st.granted.isNone

/-- CREDIT_GRANT (R68, R70, R71, R469): the first request of the die is granted whole, once the free credit is at least it. What a launch
lent and requested before its credit step comes back before it. -/
def execCreditGrant (d : DieId) (t : Nat) (s : State) : Answer :=
  match (s.die d).reqs with
  | [] => .next s
  | (c, n, made) :: _ =>
    let s := advance c t s
    whenDue (made ≤ (s.sc c).wall && (n : Int) ≤ dieFree s d && !reclaiming (s.sc c)) (fun s =>
      let s := grantHead d c n s
      launchStep c (if (s.sc c).launch.any (·.credited) then setGranted c (s.sc c).cls s else s)) s

/-- Wake requests of a die that come before that of core `c`: earlier, or of the same cycle at a lower position (R469). -/
def wakeBefore (s : State) (c : CoreId) : List CoreId :=
  let key := fun k => ((s.sc k).launch.bind (·.wakeReq)).getD 0
  (s.die (dieOf c)).wakeQ.filter fun k => key k < key c || (key k == key c && posOf k < posOf c)

/-- WAKE_BEGIN (R469): at a die-reference edge at or after the request, at least 8 reference cycles after the die's last one. -/
def execWakeBegin (c : CoreId) (t : Nat) (s : State) : Answer :=
  let s := advance c t s
  let d := dieOf c
  let w := (s.sc c).wall
  let k := stepK s d
  let spaced := match (s.die d).lastWake with
    | some l => l + 8 * k ≤ w
    | none => true
  let asked := match (s.sc c).launch.bind (·.wakeReq) with
    | some r => r ≤ w
    | none => false
  whenDue ((s.core c).gate == .powerGated && !fusedOff s c && (s.die d).wakeQ.contains c && asked && w % k == 0 && spaced &&
      (wakeBefore s c).isEmpty) (fun s =>
    (s.onDie d fun k => { k with wakeQ := k.wakeQ.filter (· != c), lastWake := some w, wakes := satAdd 0xFFFF k.wakes 1 }).onCore c
      fun c => { c with gate := .waking, gatedAt := w + 1000 * k }) s

/-- WAKE_COMPLETE (R182, R469): from CLOCK-GATED 12 fcyc after the request; from POWER-GATED 1,000 die-reference cycles after the
wake began, with every hopper row zeroed and the Drill self-test run. A failed test refuses the launch; where the launch has ended by a
fault while the furrow woke, the record of class drill is made all the same (DESIGN CHOICE, log entry 117). -/
def execWakeComplete (c : CoreId) (t : Nat) (drillOk : Bool) (s : State) : Answer :=
  let s := advance c t s
  let w := (s.sc c).wall
  match (s.core c).gate with
  | .clockGated =>
    whenDue ((s.sc c).launch.any fun l => l.wakeReq.any fun r => r + 12 == w) (fun s =>
      launchStep c (s.onCore c fun k => { k with gate := .awake })) s
  | .waking =>
    whenDue (w == (s.core c).gatedAt) (fun s =>
      let s := s.onCore c fun k =>
        { k with gate := .awake, m := { k.m with hop := [] }, e := { k.e with drlTested := true, drlFail := !drillOk } }
      let s := s.onSc c fun sc => { sc with ended := if sc.launch.isNone then some w else sc.ended }
      if drillOk then launchStep c s
      else if (s.sc c).launch.isSome then refuseLaunch c (launchFault c 0x09 0 s) else launchFault c 0x09 0 s) s
  | .awake | .powerGated => .next s

/-- LAUNCH_READY (R32, R33): cycle r, in which the last condition comes to hold. -/
def execLaunchReady (c : CoreId) (t : Nat) (s : State) : Answer :=
  atCore c t (fun s => (s.sc c).launch.any fun l => l.since == some (s.sc c).wall && l.ready.isNone)
    (fun s => s.onSc c fun sc => { sc with launch := sc.launch.map fun l => { l with ready := l.since } }) s

/-! ### A strip starts and ends -/

/-- The stakes that a mask of a strip names (R28, R45). -/
def maskStakes (sc : Sched) (st : Strip) (mask : Nat) : List Nat :=
  (maskList (if hdrShared st.hdr then 12 else 48) mask).map (physStk sc st)

/-- The pushed handles that the queues `hq` still hold, as pushed before the strip that starts. -/
def carriedPushes (hq : Vector (List HqEntry) 8) (pushed : List (Nat × Nat × Option Queue × Bool)) :
    List (Nat × Nat × Option Queue × Bool) :=
  (pushed.filter fun x => hq.toList.any fun l => l.any fun e => e.h == x.1 && e.gen == x.2.1).map fun x => (x.1, x.2.1, none, false)

/-- A strip's start (R34): named stakes and handle queues lose what they held at the start of the cycle, the strip cycle counter is 0,
folds at 0 (R398), the broadcast buffer cleared (R226), the ordinal counted (R400), the global step latched (R172). -/
def startStrip (c : CoreId) (st : Strip) (s : State) : State :=
  let n := (s.sc c).launches + 1
  let g := (vget s.hub.adv AdvCtx.reset (hdrContext st.hdr % 8)).step
  let hs := stripHandles st
  let s := s.onSc c fun sc =>
    let ks := maskStakes sc st (hdrStkClear st.hdr)
    let qs := maskList 8 (hdrHqClear st.hdr)
    let stk := ks.foldl (fun v k => vset v k (BitVec.ofNat 8 ((vget sc.stk 0 k).toNat - (vget sc.stk0 0 k).toNat))) sc.stk
    let hq := qs.foldl (fun v q => vset v q ((vget sc.hq [] q).drop (vget sc.hq0 0 q))) sc.hq
    { sc with run := .running, cause := .none, which := 0, stripCyc := 0, stripId := hdrStripId st.hdr, staged := none,
              launch := none, strip := some st, qpos := Vector.replicate 4 ⟨0, 0, 0⟩, flights := [], stall := none,
              pushed := carriedPushes hq sc.pushed, stk := stk, hq := hq, stk0 := ks.foldl (fun v k => vset v k 0) sc.stk0,
              hq0 := qs.foldl (fun v q => vset v q 0) sc.hq0, cls := hdrClass st.hdr, draw := g, launches := n, stopping := false }
  let s := s.onE c fun e =>
    { e with fold := Vector.replicate 4 0, foldTag := Vector.replicate 4 0, foldFinal := false, foldFault := false,
             stripOrd := e.stripOrd + 1, bbuf := [], plgActive := none, plgAu := 0, streams := Vector.replicate 8 0 }
  let s := s.onM c fun m => { m with lastNamed := hs.foldl (fun v h => vset v h n) m.lastNamed }
  trace c 0 5 0 (s.onTb fun b => { b with launched := true })

/-- STRIP_START (R33, R34): 8 fcyc after the later of launch point and readiness. -/
def execStripStart (c : CoreId) (t : Nat) (s : State) : Answer :=
  let s := advance c t s
  let sc := s.sc c
  match sc.launch, sc.staged with
  | some l, some st =>
    match l.point, l.ready with
    | some p, some r => whenDue (sc.wall == (if p ≤ r then r else p) + 8 && sc.run == .idle) (startStrip c st) s
    | _, _ => .next s
  | _, _ => .next s

/-- A stake outside STK_CARRY is not zero, or a handle queue outside HQ_CARRY is not empty (check 7 of R77). -/
def carryBroken (sc : Sched) (st : Strip) : Bool :=
  let keep := maskStakes sc st (hdrStkCarry st.hdr)
  let mine := maskStakes sc st (2 ^ 48 - 1)
  (mine.any fun k => !keep.contains k && vget sc.stk 0 k != 0) ||
    (List.range 8).any fun q => !(hdrHqCarry st.hdr).testBit q && !(vget sc.hq [] q).isEmpty

/-- The strip has ended: its fold record goes to the comparator, event bit 0 is set; the next launch has its launch point here, or
the delay of R69 starts. -/
def endStrip (c : CoreId) (s : State) : State :=
  let s := ccEvent c 0 (trace c 0 6 0 (handFold c false s))
  let s := s.onE c dropEngines
  let s := s.onSc c fun sc =>
    { sc with run := if sc.stopping then .faulted else .idle, cause := .none, strip := none, flights := [], stopping := false }
  if (s.sc c).launch.isSome then launchPoint c s else s.onSc c fun sc => { sc with ended := some sc.wall }

/-- STRIP_END (R35, R77 check 7, R400). -/
def execStripEnd (c : CoreId) (t : Nat) (s : State) : Answer :=
  let s := advance c t s
  let sc := s.sc c
  match sc.strip with
  | none => .next s
  | some st =>
    whenDue (sc.run == .running && sc.stripCyc == hdrLength st.hdr) (fun s =>
      if debugMode s c && carryBroken sc st then hazardStop c 4 0 7 0 s else endStrip c s) s

/-! ### Queue-neutral operations (R40) -/

/-- WAIT: holds its queue for N schedule cycles. -/
def execWait (c : CoreId) (q : Queue) (t : Nat) (s : State) : Answer :=
  issueCmd c q 0 t (fun w _ => performWait c q w) s

/-- STK_SET: adds at issue, visible from the next cycle (R42, R44). -/
def execStkSet (c : CoreId) (q : Queue) (t : Nat) (s : State) : Answer := issueCmd c q 1 t (performStkSet c q) s

/-- STK_WAIT (R42, R43, R50). -/
def execStkWait (c : CoreId) (q : Queue) (t : Nat) (s : State) : Answer := issueCmd c q 2 t (performStkWait c q) s

/-- HQ_PUSH (R57 to R59). -/
def execHqPush (c : CoreId) (q : Queue) (t : Nat) (s : State) : Answer := issueCmd c q 3 t (performHqPush c q) s

/-- HQ_POP (R58, R59, R61). -/
def execHqPop (c : CoreId) (q : Queue) (t : Nat) (s : State) : Answer := issueCmd c q 4 t (performHqPop c q) s

/-! ### Stalls -/

/-- STALL_RESUME (R54): a stall that has not lent performs its pending cycle 3 fcyc after its last releasing event. -/
def execStallResume (c : CoreId) (t : Nat) (s : State) : Answer :=
  atCore c t (fun s => (s.sc c).stall.any fun st => st.lent == 0 && st.released.any fun a => a + 3 == (s.sc c).wall) (resume c) s

/-- First cycle of the stall or launch wait that goes on (R63, R71). -/
def stallStart (sc : Sched) : Option Nat :=
  if sc.run != .stalled then none
  else match sc.stall with
  | some st => some st.start
  | none => sc.launch.bind (·.point)

/-- CREDIT_LEND (R71): in the 257th stall cycle, with no release by then, all credit above 1 goes back to the pool. -/
def execCreditLend (c : CoreId) (t : Nat) (s : State) : Answer :=
  atCore c t (fun s =>
      let sc := s.sc c
      stallStart sc == some (sc.wall - 256) && 256 ≤ sc.wall && 1 < sc.held &&
        (match sc.stall with
          | some st => st.released.isNone
          | none => true))
    (fun s =>
      let n := (s.sc c).held - 1
      let s := s.onSc c fun sc => { sc with held := 1, lent := true, lends := satAdd 0xFFFFFFFF sc.lends 1 }
      match (s.sc c).stall with
      | some st => s.onSc c fun sc => { sc with stall := some { st with lent := n } }
      | none =>
        let asked := (s.sc c).launch.any (·.credited)
        let s := pushReq c n (s.onSc c fun sc => { sc with launch := sc.launch.map fun l => { l with lent := true, granted := none } })
        if asked then launchWait c .credit s else s) s

/-- RECLAIM_GRANT (R72): the lent credit is granted back in cycle g. -/
def execReclaimGrant (c : CoreId) (t : Nat) (s : State) : Answer :=
  let s := advance c t s
  let d := dieOf c
  match (s.die d).reqs with
  | [] => .next s
  | (k, n, _) :: _ =>
    whenDue (k == c && reclaiming (s.sc c) && (n : Int) ≤ dieFree s d) (fun s =>
      (grantHead d c n s).onSc c fun sc =>
        { sc with cause := .reclaim, lent := false, stall := sc.stall.map fun st => { st with granted := some sc.wall } }) s

/-- RECLAIM_COMPLETE (R72): the pending schedule cycle is performed at g + 64. -/
def execReclaimComplete (c : CoreId) (t : Nat) (s : State) : Answer :=
  atCore c t (fun s => (s.sc c).stall.any fun st => st.granted.any fun g => g + 64 == (s.sc c).wall) (resume c) s

/-- CREDIT_IDLE_RETURN (R69, R468): 256 fcyc after a strip's end with no strip pending, the core keeps 1 credit and its furrow is
clock-gated. -/
def execCreditIdleReturn (c : CoreId) (t : Nat) (s : State) : Answer :=
  atCore c t (fun s =>
      let sc := s.sc c
      sc.ended.any (fun e => e + 256 == sc.wall) && sc.launch.isNone && sc.strip.isNone)
    (fun s =>
      let w := (s.sc c).wall
      (s.onSc c fun sc => { sc with ended := none, held := if 1 < sc.held then 1 else sc.held }).onCore c fun k =>
        if k.gate == .awake then { k with gate := .clockGated, gatedAt := w } else k) s

/-- An inbound transfer bound for one of the core's hoppers is outstanding (R471). -/
def hopperLate (s : State) (c : CoreId) : Bool := (s.en c).late.any fun l => l.inbound && l.x.hop != 8

/-- The furrow loses its power (R468 to R470): hopper contents and accumulators are lost, the last credit goes back. -/
def powerGate (c : CoreId) (s : State) : State :=
  s.onCore c fun k =>
    { k with gate := .powerGated, gateCmd := false, m := { k.m with hop := [] }, e := { k.e with acc := Vector.replicate 2 [] },
             sc := { k.sc with held := 0 } }

/-- POWER_GATE_TIMEOUT (R468, R471): 2^PG_LOG2 fcyc in CLOCK-GATED with no launch pending. -/
def execPowerGateTimeout (c : CoreId) (t : Nat) (s : State) : Answer :=
  atCore c t (fun s =>
      let lg := clampN 10 31 (s.die (dieOf c)).pgLog2
      (s.core c).gate == .clockGated && (s.sc c).launch.isNone && !hopperLate s c && lg != 31 &&
        (s.sc c).wall == (s.core c).gatedAt + 2 ^ lg) (powerGate c) s

/-- STRIP_ID and SCHED_CYC of a deadline miss in a launch wait: the waiting strip's, once its header is staged (R75). -/
def waitStrip (sc : Sched) : Option (Nat × Nat) :=
  if sc.strip.isSome then none else (stagedHdr sc).map fun h => (hdrStripId h, 0)

/-- The context of the running strip, or of the one whose launch waits. -/
def waitCtx (s : State) (c : CoreId) : Nat :=
  if (s.sc c).strip.isSome then stripCtx s c else ((stagedHdr (s.sc c)).map fun h => hdrContext h % 8).getD 0

/-- WATCHDOG_FAULT (R63, R64): the unreleased stall has lasted more than 2^LOG2_LIMIT cycles. -/
def execWatchdogFault (c : CoreId) (t : Nat) (s : State) : Answer :=
  atCore c t (fun s =>
      let sc := s.sc c
      (stallStart sc).any (fun a => 2 ^ clampN 16 40 sc.wdog < sc.wall - a + 1) &&
        (match sc.stall with
          | some st => if st.lent == 0 then st.released.isNone else st.granted.isNone
          | none => true))
    (fun s =>
      let sc := s.sc c
      let inStrip := sc.stall.isSome
      let causeCode := match sc.cause with
        | .none => 0 | .stake => 1 | .hqPop => 2 | .hqPush => 3 | .staging => 4 | .pageIn => 5 | .credit => 6 | .wake => 7
        | .reclaim => 8
      let q := ((sc.stall.bind fun st => st.blocked.head?).map fun b => qIdx b.q).getD (Config.idleSource 0x01)
      let f : Flt := { cls := 0x01, source := q, tag := if inStrip then sc.stallTag else 0, ctx := waitCtx s c, ended := inStrip,
                       faulted := true, detail := causeCode + sc.which * 256 }
      endByFault c (postFault c f s)) s

/-- The deadline that applies now (R75): of the running strip, or of a launch past its launch point whose header is staged. -/
def deadlineOf (s : State) (c : CoreId) : Option Nat :=
  let sc := s.sc c
  let use := fun (hdr : Row) (slot : Fin 4) =>
    if hdrDeadlineEn hdr && slotRt s c slot.val then some (sc.launchPoint + hdrDeadline hdr) else none
  match sc.strip with
  | some st => use st.hdr st.slot
  | none =>
    if sc.launch.any fun l => l.point.isSome then
      match sc.staged, sc.staging with
      | some st, _ => use st.hdr st.slot
      | none, some g => g.got.head?.bind fun h => use h g.slot
      | none, none => none
    else none

/-- DEADLINE_MISS (R75): the first wall cycle past the deadline, while the strip's last schedule cycle is still to come. -/
def execDeadlineMiss (c : CoreId) (t : Nat) (s : State) : Answer :=
  atCore c t (fun s =>
      let sc := s.sc c
      !sc.dlPosted && (sc.strip.isNone || sc.stripCyc < stripLen sc) &&
        (deadlineOf s c).any fun d => if sc.strip.isSome then sc.wall == d + 1 else d < sc.wall)
    (fun s =>
      let sc := s.sc c
      let tag := if sc.stall.isSome then sc.stallTag else 0
      let src := ((sc.stall.bind fun st => st.blocked.head?).map fun b => qIdx b.q).getD (Config.idleSource 0x0E)
      let s := s.onSc c fun sc => { sc with dlPosted := true, dlMiss := satAdd 0xFFFF sc.dlMiss 1 }
      ccEvent c 3 (postFault c { cls := 0x0E, source := src, tag := tag, ctx := waitCtx s c, strip := waitStrip sc } s)) s

/-! ### Completion -/

/-- A chain's summary is posted to its slot (R240). -/
def postSummary (c : CoreId) (r : HrwRun) (s : State) : State :=
  match chSummary r.chain with
  | none => s
  | some kind =>
    let v := r.summary (s.en c).bbuf kind
    let k := hwSlot r.word
    let w := (s.sc c).wall
    let s := s.onSc c (setBit (0xB48 + 16 * k) (1 + 2 * b2n r.mism))
    ccEvent c 1 (s.onE c fun e =>
      let e := if e.sumsAt == some w then e else { e with sums0 := e.sums, sumsAt := some w }
      let old := vget e.sums SumSlot.reset k
      { e with sums := vset e.sums k ⟨BitVec.ofNat 64 v, true, old.mism || r.mism, kind, (old.seq + 1) % 256, r.tag⟩ })

/-- Instructions that have completed (R39) and have written all their rows leave their engines. -/
def retireRuns (sc : Sched) (e : Eng) : Eng :=
  let past := fun (q : Queue) (tag comp : Nat) => comp < sc.stripCyc || (comp == sc.stripCyc &&
    !sc.flights.any fun f => f.q == q && f.own && f.comp == comp && f.tag == tag)
  { e with plg := e.plg.filter fun r => !(past .mq r.tag r.comp && r.drained == 32 * r.npass),
           hrw := e.hrw.filter fun r => !(past .vq r.tag r.comp && r.wrote == r.execs * r.rowsPer),
           tlr := e.tlr.filter fun r => !(past .uq r.tag r.comp && r.wrote == r.execs * r.perExec) }

/-- The engines of core `c` let go what is over. -/
def retire (c : CoreId) (s : State) : State := s.onCore c fun k => { k with e := retireRuns k.sc k.e }

/-- What a unit's own instruction does at its completion: last tags and counts (R215, R244, R275), and a summary (R240). -/
def unitComplete (c : CoreId) (q : Queue) (f : Flight) (s : State) : State :=
  let u := (s.sc c).stripCyc
  if !f.own then s
  else match q with
  | .mq => retire c (s.onE c fun e => { e with plgTag := f.tag, plgInst := e.plgInst + 1 })
  | .vq =>
    let s := if f.sum then
        match (s.en c).hrw.find? (fun r => r.comp == u && r.tag == f.tag) with
        | some r => postSummary c r s
        | none => s
      else s
    retire c (s.onE c fun e => { e with hrwTag := f.tag })
  | .uq =>
    let s := match (s.en c).root.find? (fun r => r.t0 + 8 == u && r.tag == f.tag) with
      | some r => rootWrite c r s
      | none => s
    retire c (s.onE c fun e => { e with tlrTag := f.tag })
  | .tq => s

/-- INSTRUCTION_COMPLETE (R39): the first instruction of queue `q` whose completion cycle is the present one adds CSTK_N to CSTK. -/
def execInstructionComplete (c : CoreId) (q : Queue) (t : Nat) (s : State) : Answer :=
  inCycle c t (fun s =>
    let u := (s.sc c).stripCyc
    let due := fun (f : Flight) => f.q == q && f.comp == u
    match (s.sc c).flights.find? due with
    | none => s
    | some f =>
      let s := s.onSc c fun sc => { sc with flights := sc.flights.eraseP due }
      let s := trace c (qIdx q) 1 f.tag (unitComplete c q f s)
      addStake c f.cstk f.cstkN (qIdx q) f.tag s) s

end Sys2Proof.Machine
end

