-- ==== Sys2Proof/Machine/Memory.lean ====
section
/-! DEFINITION. Late items, the landing buffer, Commons accesses, scrubbing, paging and bank-group power: rows LATE_ARRIVAL to
UNGATE_ARRIVAL of the table (R49, R60, R88, R95 to R101, R113, R119 to R122, R293). -/

namespace Sys2Proof.Machine

open Sys2Proof

/-! ### Arrivals -/

/-- Late item `l` of core `c` arrives (R49, R294), unless a bad row ended it (R119). The last arrival bound for a hopper restarts the
delay of R468, and a power-gate command that waits for it is performed (R471). -/
def lateArrive (c : CoreId) (l : LateItem) (s : State) : State :=
  let x := l.x
  let s := s.onE c fun e => { e with late := e.late.filter fun y => y.x.id != x.id }
  let s := if l.inbound && x.hop != 8 && (s.core c).gate == .clockGated then
      s.onCore c fun k => { k with gatedAt := k.sc.wall } else s
  let s := if (s.core c).gateCmd && (s.core c).gate == .clockGated && !hopperLate s c then powerGate c s else s
  if l.cut then s else arriveNow c x.ahq x.dstH x.astk x.astkN x.tag s

/-- All rows of the item are in place, or acknowledged; of an item that a bad row ended, those before it. -/
def LateItem.whole (l : LateItem) : Bool :=
  if !l.inbound then l.arrived == l.total
  else if l.x.hop != 8 && l.x.conv then
    l.arrived == l.total && l.placed == (l.x.fillWrites.filter fun w => !l.cut || w.last < l.total).length
  else l.placed == l.total

/-- Items that a bad row ended go when their rows are in place. -/
def sweepLate (c : CoreId) (s : State) : State :=
  match (s.en c).late.find? (fun l => l.cut && l.whole) with
  | some l => lateArrive c l s
  | none => s

/-- The write of transfer `id` to row `a` is over for a send that waited for it (R349). -/
def Send.written (id a w : Nat) (x : Send) : Send :=
  if x.ordered.any (fun y => y.1 == id && y.2.2 == a) then
    { x with ordered := x.ordered.eraseP fun y => y.1 == id && y.2.2 == a, freeAt := w }
  else x

/-- The write of transfer `id` to row `a` that the core's Square took has been performed or acknowledged (R349). -/
def writeOut (c : CoreId) (id a : Nat) (s : State) : State :=
  let w := (s.sc c).wall
  (s.onE c fun e => { e with writes := e.writes.eraseP fun y => y.1 == id && y.2.2 == a }).onCc c fun k =>
    { k with sends := k.sends.map (Send.written id a w), ending := k.ending.map (Send.written id a w) }

/-- The transfer writes the row at module address `a`. -/
def Xfer.writes (s : State) (c : CoreId) (x : Xfer) (a : Nat) : Bool :=
  (List.range x.total).any fun k => rowBase (xAddr s c x.dstH (x.dstRow k)).1 == rowBase a

/-- The outbound item of core `c` that an acknowledgement of tag `tag` for the row at `a` concerns: the oldest of that tag that writes the
row, else the oldest of that tag. -/
def ackedItem (s : State) (c : CoreId) (tag a : Nat) : Option LateItem :=
  let mine := fun (l : LateItem) => !l.inbound && l.x.tag == tag && l.arrived < l.total
  match (s.en c).late.find? (fun l => mine l && l.x.writes s c a) with
  | some l => some l
  | none => (s.en c).late.find? mine

/-- One row of a late write of core `c` is acknowledged (R293, R349). -/
def ackLocal (c : CoreId) (tag a : Nat) (s : State) : State :=
  match ackedItem s c tag a with
  | none => s
  | some l => writeOut c l.x.id (rowBase a) (s.onE c fun e =>
    { e with late := e.late.map fun y => if y.x.id == l.x.id then { y with arrived := y.arrived + 1 } else y })

/-- A row write from elsewhere has been performed: its sender is acknowledged (R375). -/
def ackWrite (srcPos srcCore tag plane a : Nat) (s : State) : State :=
  if srcPos == s.hub.position && srcCore < 128 then ackLocal (coreNo srcCore) tag a s
  else putItem ⟨.writeAck, plane, srcPos, srcCore, s.hub.position, a / 0x1000000 % 128, tag, a, 0, 1, 0, true, 0⟩ s

/-- A message's sender and sequence number match its header (R525). -/
def hdrKey (h : Row) (pos core seq : Nat) : Bool := h.field 0x0C 2 == pos && h.field 0x0E 1 == core && h.field 0x10 2 == seq

/-- One more row of a placed message has landed, in wall cycle `w` at time `time`. -/
def RMsg.land (m : RMsg) (w time : Nat) : RMsg := { m with got := m.got + 1, cyc := w, time := time }

/-- A landed row counts for its late item, its message or its sender's write. `a` is its module address. -/
def rowPlaced (c : CoreId) (o : LandOwner) (a : Nat) (s : State) : State :=
  match o with
  | .late id => sweepLate c (s.onE c fun e =>
      { e with late := e.late.map fun l => if l.x.id == id then { l with placed := l.placed + 1 } else l })
  | .msg r seq sendCore sendPos =>
    let now := tbNow s
    s.onCore c fun k => { k with cc := { k.cc with rings := vset k.cc.rings r.val (let g := vget k.cc.rings Ring.reset r.val
          { g with msgs := g.msgs.map fun m =>
              if !m.void && !m.filler && !m.wait && hdrKey m.hdr sendPos sendCore seq then m.land k.sc.wall now else m }) } }
  | .write srcPos srcCore tag plane => ackWrite srcPos srcCore tag plane a s

/-- A record about a row of an inbound write goes to the writer: the core that issued it, or the Headland's copy alone where the writer is
no core. What tells a writer in another module is not stated: a loss notice whose lost kind is `kind`, 7 for a gated write and 8 for a
locked row, with the row's address (log entry 118). -/
def tellWriter (c : CoreId) (o : LandOwner) (kind a : Nat) (f : Flt) (s : State) : State :=
  match o with
  | .late _ | .msg _ _ _ _ => postFault c f s
  | .write srcPos srcCore tag plane =>
    if srcPos != s.hub.position then putItem ⟨.loss, plane, srcPos, srcCore, s.hub.position, 0xFD, tag, a, 0, 1, kind, true, 0⟩ s
    else if srcCore < 128 then postFault (coreNo srcCore) f s
    else headlandFault f s

/-- Tag of an inbound row's record. -/
def ownerTag (s : State) (c : CoreId) : LandOwner → Nat
  | .late id => ((s.en c).late.find? fun l => l.x.id == id).elim 0 fun l => l.x.tag
  | .msg _ _ _ _ => 0
  | .write _ _ tag _ => tag

/-- An inbound row is written: a locked image row discards it, with a record to the writer (R303). -/
def inboundWrite (c : CoreId) (o : LandOwner) (a : Nat) (d : Row) (s : State) : State :=
  if lockedRow s a then tellWriter c o 8 a (imageWriteFault 5 (ownerTag s c o) 0 (rowField s a)) s else writeRow s a d

/-- LATE_ARRIVAL (R49, R119, R293, R488): the acknowledgements that have reached the core are taken, those of the Malob host adapter once
every row is handed over; a whole item arrives. -/
def execLateArrival (c : CoreId) (t : Nat) (i : Nat) (s : State) : Answer :=
  let s := advance c t s
  match (s.en c).late[i]? with
  | none => .next s
  | some l =>
    let mine := fun (x : Item) => x.kind == .writeAck && x.destPos == s.hub.position && x.destCore == c.val && x.tag == l.x.tag
    let acks := s.net.filter mine
    let take := fun (x : Item) (s : State) => forAll (List.range x.count) (fun k s => ackLocal c x.tag (x.row + 512 * k) s) s
    let s := if !l.inbound && l.x.hostEnd s c then
        (if (s.en c).xfers.any (fun y => y.id == l.x.id) then s
        else s.onE c fun e => { e with late := e.late.map fun y => if y.x.id == l.x.id then { y with arrived := y.total } else y })
      else if l.inbound || acks.isEmpty then s
      else (forAll acks take s |> fun s => { s with net := s.net.filter fun x => !mine x })
    match (s.en c).late[i]? with
    | none => .next s
    | some l => .next (if l.whole then lateArrive c l s else s)

/-- HELD_ARRIVAL_RETRY (R60): the oldest held arrival of queue `q` is performed, once the queue has room for it. -/
def execHeldArrivalRetry (c : CoreId) (t : Nat) (q : Fin 8) (s : State) : Answer :=
  let s := advance c t s
  match (s.sc c).heldArr.find? (fun x => x.q == q.val) with
  | none => .next s
  | some h =>
    whenDue (arrivalRoom (s.sc c) q.val (pushesDue s c q.val)) (fun s =>
      performArrival c (some q.val) h.h h.stk h.n h.tag
        (s.onSc c fun sc => { sc with heldArr := sc.heldArr.eraseP fun x => x.q == q.val })) s

/-! ### Inbound rows (R88, R119, R293) -/

/-- The core is put in the faulted state by a late item (R119, R370): a running strip or a launch wait ends. -/
def lateFault (c : CoreId) (f : Flt) (s : State) : State :=
  let sc := s.sc c
  let ran := sc.strip.isSome
  let s := postFault c { f with ended := ran, faulted := true } s
  if ran || sc.run == .stalled then endByFault c s else s.onSc c fun sc => { sc with run := .faulted }

/-- The group of a Commons row accepts no write, or gives no data (R122). -/
def gatedFor (s : State) (d : DieId) (row : Nat) (isWrite : Bool) : Bool :=
  let g := vget (s.die d).groupState 0 (groupOf row)
  g == 2 || g == 3 || (isWrite && g == 1)

/-- A gated-bank record (R326). -/
def gatedFlt (s : State) (source tag ctx row kind a : Nat) : Flt :=
  { cls := 0x06, source := source, tag := tag, ctx := ctx, row := rowField s a, detail := groupOf row + kind * 256 }

/-- A late item ends at a bad row (R119, R370): the rows that reached the Square before it are still written, and the core is faulted. -/
def cutLate (c : CoreId) (id : Nat) (f : Flt) (s : State) : State :=
  let s := s.onE c fun e => { e with late := e.late.map fun y => if y.x.id == id then
      { y with cut := true, total := y.arrived, runs := [], out := [] } else y }
  sweepLate c (lateFault c f s)

/-- The core hopper row of row `k` of an inbound fill (R190). -/
def Xfer.hopDst (x : Xfer) (k : Nat) : Nat := hopBase x.hop x.half + xbDst x.block + k

/-- Where in the core's landing buffer row `k` of an inbound transfer waits (R88); none for a row that goes elsewhere. -/
def Xfer.landAt (s : State) (c : CoreId) (x : Xfer) (k : Nat) : Option LandDst :=
  if x.hop != 8 then some (if x.conv then .source (hopPortB x.hop) k else .hopper (hopPortB x.hop) (x.hopDst k))
  else
    let (a, ok) := xAddr s c x.dstH (x.dstRow k)
    match if ok then placeOf a else .unpopulated with
    | .plot p r => if p == c then some (.plot r) else none
    | .commons _ _ | .deep _ _ | .control | .window | .unpopulated => none

/-- Row `k` of late item `l` has reached the Square with data `d`: it waits for its place. A row without a place counts as placed. -/
def takeIn (c : CoreId) (l : LateItem) (k : Nat) (d : Row) (s : State) : State :=
  let x := l.x
  let s := s.onE c fun e => { e with late := e.late.map fun y => if y.x.id == x.id then { y with arrived := y.arrived + 1 } else y }
  let w := (s.sc c).wall
  match x.landAt s c k with
  | some p => s.onM c fun m => { m with land := m.land ++ [⟨p, d, w, .late x.id⟩] }
  | none =>
    let (a, ok) := xAddr s c x.dstH (x.dstRow k)
    match if ok then placeOf a else .unpopulated with
    | .commons _ _ => s.onM c fun m => { m with cmnIn := m.cmnIn ++ [⟨a, d, .late x.id, w⟩] }
    | .plot _ _ | .deep _ _ => rowPlaced c (.late x.id) a (inboundWrite c (.late x.id) a d s)
    | .control | .window | .unpopulated =>
      rowPlaced c (.late x.id) a
        (postFault c (addressFault 5 x.tag (slotCtx s c x.slot.val) x.dstH 0 (wrap 32 (x.dstRow k)) (rowField s a)) s)

/-- Late items touch the deep memory of die `d` of this module: an inbound one reads it, an outbound one writes it. -/
def LateItem.deepOn (s : State) (c : CoreId) (d : Nat) (l : LateItem) : Bool :=
  let h := handle s c (if l.inbound then l.x.srcH else l.x.dstH)
  hRegion h == 3 && hDie h == d && l.x.farPos s == s.hub.position

/-- The core's requests to the deep memory of die `d` that it made before its late item `i` are performed (R104). -/
def deepTurn (s : State) (c : CoreId) (d i : Nat) : Bool :=
  ((s.en c).late.take i).all fun l => !l.deepOn s c d || l.total ≤ l.arrived

/-- A row that a late item reads in this module: the data, zeros with a record from a group that gives none (R122), or from no row
(R107, R126). A row of the host window is what the Malob host adapter returns (R488). -/
def lateRead (c : CoreId) (x : Xfer) (k : Nat) (ecc : Ecc) (s : State) : Row × State :=
  let ctx := slotCtx s c x.slot.val
  let (a, ok) := xAddr s c x.srcH (x.srcRow k)
  if x.hostEnd s c then (Config.hostRow s.free, s.fresh)
  else match if ok then placeOf a else .unpopulated with
  | .commons d row =>
    if gatedFor s d row false then (0, postFault c (gatedFlt s 5 x.tag ctx row 0 a) s) else readNoted s a ecc
  | .plot _ _ | .deep _ _ => readNoted s a ecc
  | .control | .window | .unpopulated =>
    (0, postFault c (addressFault 5 x.tag ctx x.srcH 0 (wrap 32 (x.srcRow k)) (rowField s a)) s)

/-- INBOUND_ROW_ARRIVAL (R88, R104, R107, R119, R375): the next row of late item `i` reaches the Square, read from this module's memory now,
or taken from the returns of another module. A full landing buffer lets no row of its own in. The first uncorrectable row ends the item
and faults the core. -/
def execInboundRowArrival (c : CoreId) (t : Nat) (i : Nat) (ecc : Ecc) (s : State) : Answer :=
  let s := advance c t s
  match (s.en c).late[i]? with
  | none => .next s
  | some l =>
    let x := l.x
    let ctx := slotCtx s c x.slot.val
    let full := fun (k : Nat) => 64 ≤ (s.cm c).land.length && (x.landAt s c k).isSome
    if !l.inbound || l.total ≤ l.arrived then .next s
    else if x.remoteSrc c s then
      let mine := fun (y : Item) => y.kind == .readRet && y.destPos == s.hub.position && y.destCore == c.val &&
        l.out.any fun o => o.1 == y.aux && y.k < o.2.2
      match s.net.find? mine with
      | none => .next s
      | some y =>
        let k := ((l.out.find? fun o => o.1 == y.aux).elim 0 fun o => o.2.1) + y.k
        let n := (l.out.find? fun o => o.1 == y.aux).elim 0 fun o => o.2.2
        whenDue (!full k) (fun s =>
          let s := { s with net := s.net.eraseP mine }
          let s := if y.k + 1 == n then
              sendReqs c 256 (s.onE c fun e => { e with late := e.late.map fun z =>
                if z.x.id == x.id then { z with out := z.out.filter fun o => o.1 != y.aux } else z })
            else s
          let (a, ok) := xAddr s c x.srcH (x.srcRow k)
          if ok && populated a then takeIn c l k y.data s
          else takeIn c l k 0 (postFault c
            (addressFault 5 x.tag ctx x.srcH 0 (wrap 32 (x.srcRow k)) (rowBase a % 2 ^ 48 + x.farPos s % 2 ^ 16 * 2 ^ 48)) s)) s
    else
      let k := l.arrived
      let (a, ok) := xAddr s c x.srcH (x.srcRow k)
      let turn := match placeOf a with
        | .deep d _ => deepTurn s c d.val i
        | .plot _ _ | .commons _ _ | .control | .window | .unpopulated => true
      whenDue (!full k && (!ok || turn)) (fun s =>
        let e := if ok then readEcc s a ecc else .clean
        let (d, s) := lateRead c x k e s
        if eccBad e then
          cutLate c x.id { cls := 0x03, source := 5, tag := x.tag, ctx := ctx, row := rowField s a,
                           detail := tierOf a + eccCw ecc * 256 + 2 * 65536 } (recheckRow a s)
        else takeIn c l k d s) s

/-- PLOT_ROW_LANDING but for the hub's messages that wait for the row (R88): the oldest waiting Plot-bound row lands in slot 6 of its bank, at the earliest in the cycle after its
arrival, and at most one row lands in a bank in a cycle. -/
def landPlotRow (c : CoreId) (t : Nat) (s : State) : Answer :=
  let s := advance c t s
  let w := (s.sc c).wall
  let isPlot := fun (x : LandRow) => match x.dst with
    | .plot _ => true
    | .hopper _ _ | .source _ _ => false
  match (s.cm c).land.find? isPlot with
  | none => .next s
  | some x =>
    match x.dst with
    | .hopper _ _ | .source _ _ => .next s
    | .plot row =>
      let banks := if (s.cm c).landedAt.1 == w then (s.cm c).landedAt.2 else []
      whenDue (x.arrived < w && slotNow s c 6 row && !banks.contains (row % 16)) (fun s =>
        let a := plotAddr c row
        let s := s.onM c fun m => { m with land := m.land.eraseP isPlot, landedAt := (w, row % 16 :: banks) }
        rowPlaced c x.owner a (inboundWrite c x.owner a x.data s)) s

/-- Hopper and half of a core hopper row (R190, R248). -/
def hopOf (row : Nat) : Nat × Nat :=
  if row < 128 then (0, row / 64) else if row < 640 then (1, (row - 128) / 256) else if row < 648 then (2, (row - 640) / 4)
  else if row < 680 then (3, (row - 648) / 16) else if row < 936 then (4, (row - 680) / 128)
  else if row < 1064 then (5, (row - 936) / 64) else if row < 1068 then (6, (row - 1064) / 2) else (7, row - 1068)

/-- The half is reserved for its engine in the present cycle (R194, R248). A feed window whose first cycle is still to be performed, in a
cycle that stalls, has not begun. -/
def hopReserved (s : State) (c : CoreId) (row : Nat) : Bool :=
  let (hop, half) := hopOf row
  let u := (s.sc c).stripCyc
  let e := s.en c
  let within := fun (lo n : Nat) => (lo < u || (lo == u && schedNow s c)) && u < lo + n
  if hop < 4 then e.plg.any fun r =>
    (hop < 2 || r.scaled) && (List.range r.total).any fun k => within (r.begin_ k) r.feed && (pwHalf0 r.word + k) % 2 == half
  else e.tlr.any fun r =>
    (List.range r.execs).any fun k => within (r.t0 + k * r.rows) r.rows && (twHalf0 r.word + k) % 2 == half

/-- A fill port carries a write in the present cycle: a scheduled fill's, or a late row's (R88, R91, R296). -/
def portBusy (s : State) (c : CoreId) (portB : Bool) : Bool :=
  let u := (s.sc c).stripCyc
  (schedNow s c && (s.en c).xfers.any fun x => x.kind.isFill && hopPortB x.hop == portB && x.fillCycs.any fun w => w.1 == u) ||
    ((s.cm c).late6.1 == (s.sc c).wall && (s.cm c).late6.2.contains portB)

/-- A late row is written through its fill port, once its half is not reserved and its port is free (R88, R194). -/
def lateWrite (c : CoreId) (portB : Bool) (row : Nat) (d : Row) (s : State) : State :=
  let w := (s.sc c).wall
  let s := s.onM c fun m => { m with late6 := (w, portB :: (if m.late6.1 == w then m.late6.2 else [])) }
  if row < 1280 then hopWrite c row d s else s

/-- Source row `k` of a converting late fill is the oldest row of its port. The next write of the conversion that it completes takes the
port; a row with no write left to complete leaves the buffer for the converter, which holds what later writes need (DESIGN CHOICE, log
entry 114). -/
def convertLate (c : CoreId) (portB : Bool) (k : Nat) (r : LandRow) (l : LateItem) (leave : State → State) (s : State) : State :=
  let x := { l.x with buf := (k, r.data) :: l.x.buf }
  let ws := x.fillWrites
  let keep := fun (n : Nat) => x.buf.filter fun y => (ws.drop n).any fun w => w.first ≤ y.1 && y.1 ≤ w.last
  let done := fun (n : Nat) (s : State) => leave (s.onE c fun e =>
    { e with late := e.late.map fun y => if y.x.id == x.id then { y with x := { y.x with buf := keep n } } else y })
  let completes := fun (n : Nat) => ws[n]?.any fun w => w.last ≤ k
  match ws[l.placed]? with
  | some w =>
    if !completes l.placed then done l.placed s
    else if hopReserved s c (x.fillDst w) || portBusy s c portB then s
    else
      let f := fillData x w s
      let s := lateWrite c portB (x.fillDst w) f.1 f.2
      rowPlaced c r.owner 0 (if completes (l.placed + 1) then s else done (l.placed + 1) s)
  | none => done l.placed s

/-- HOPPER_ROW_LANDING (R88, R91, R194, R296): the oldest hopper-bound row of a port is written through it, at the earliest in the cycle
after its arrival, once its half is not reserved and no other row uses the port. -/
def execHopperRowLanding (c : CoreId) (t : Nat) (portB : Bool) (s : State) : Answer :=
  let s := advance c t s
  let w := (s.sc c).wall
  let mine := fun (x : LandRow) => match x.dst with
    | .plot _ => false
    | .hopper b _ | .source b _ => b == portB
  let leave := fun (s : State) => s.onM c fun m => { m with land := m.land.eraseP mine }
  match (s.cm c).land.find? mine with
  | none => .next s
  | some x =>
    match x.dst with
    | .plot _ => .next s
    | .hopper _ row =>
      whenDue (x.arrived < w && !hopReserved s c row && !portBusy s c portB) (fun s =>
        rowPlaced c x.owner 0 (lateWrite c portB row x.data (leave s))) s
    | .source _ k =>
      whenDue (x.arrived < w) (fun s =>
        match (s.en c).late.find? (fun l => x.owner == .late l.x.id) with
        | some l => convertLate c portB k x l leave s
        | none => leave s) s

/-! ### Commons (R95 to R101, R122) -/

/-- A Commons request is done at its bank, with the row that a read returns. -/
def bankDone (c : CoreId) (i : Nat) (d : Row) (s : State) : State :=
  s.onE c fun e => { e with cmn := e.cmn.zipIdx.map fun y => if y.2 == i then { y.1 with done := true, data := d } else y.1 }

/-- A write that reached its bank in wall cycle `at_` was accepted by its closing group (R121): at or before the cycle of the gate command. -/
def acceptedBefore (s : State) (d : DieId) (row at_ : Nat) : Bool :=
  (s.die d).gates.any fun j => !j.un && j.g.val == groupOf row && at_ ≤ j.at_

/-- COMMONS_BANK_ACCESS (R99, R101, R107, R118, R119, R121, R122): request `i` of the core reaches its bank after `waited` cycles of
waiting there; the accesses of one core to one row keep the order of their requests. -/
def execCommonsBankAccess (c : CoreId) (t : Nat) (i : Nat) (waited : Nat) (ecc : Ecc) (s : State) : Answer :=
  let s := advance c t s
  match (s.en c).cmn[i]? with
  | none => .next s
  | some r =>
    let sc := s.sc c
    let u := sc.stripCyc
    let before := ((s.en c).cmn.take i).all fun x => x.done || x.addr != r.addr
    let ctx := stripCtx s c
    let give := if r.isWrite then r.data else 0
    whenDue (!r.done && r.req < u && (u < r.land || (sc.run == .stalled && u == r.land)) && before && r.made + waited < sc.wall) (fun s =>
      match if r.ok then placeOf r.addr else .unpopulated with
      | .commons d row =>
        if 7 < waited then
          bankDone c i give (postFault c { cls := 0x05, source := 3, tag := r.tag, ctx := ctx, row := rowField s r.addr,
                                           detail := bankOf row }
            (s.onDie d fun k => { k with ovr := satAdd 0xFFFFFFFF k.ovr 1 }))
        else if gatedFor s d row r.isWrite && !(r.isWrite && acceptedBefore s d row (sc.wall - waited)) then
          bankDone c i give (postFault c (gatedFlt s 3 r.tag ctx row (if r.isWrite then 1 else 0) r.addr) s)
        else if r.isWrite then bankDone c i r.data (writeRow s r.addr r.data)
        else
          let x := readNoted s r.addr ecc
          if eccBad ecc then readFault c 3 r.tag ctx 2 (rowField s r.addr) ecc (recheckRow r.addr x.2) else bankDone c i x.1 x.2
      | .plot _ _ | .deep _ _ | .control | .window | .unpopulated =>
        bankDone c i give (postFault c (addressFault 3 r.tag ctx r.h 0 (wrap 32 r.logical) (rowField s r.addr)) s)) s

/-- A Commons row read lands for its transfer: kept for a fill, written to Plot by a move, or handed to the Square. -/
def landRead (c : CoreId) (r : CmnReq) (s : State) : State :=
  match (s.en c).xfers.find? (fun x => x.id == r.xfer) with
  | none => s
  | some x =>
    match x.kind with
    | .cmnPlot =>
      let a := (xAddr s c x.dstH (x.dstRow r.k)).1
      let s := foldWrite c 3 x.tag a r.data (writeH c 3 x.tag (slotCtx s c x.slot.val) x.dstH (x.dstRow r.k) r.data s)
      setXfer c { x with wr := x.wr + 1 } s
    | .outCmn => setXfer c { x with wr := x.wr + 1 } (handOut c x r.k r.data s)
    | .plotFill | .cmnFill | .plotPlot | .plotCmn | .outPlot | .inLate | .reorder | .gate | .ungate | .none =>
      setXfer c { x with buf := (r.k, r.data) :: x.buf } s

/-- COMMONS_ROW_LANDS (R95, R96, R293, R398): at its published cycle a read row lands; a write is performed, or acknowledged from
another die. -/
def execCommonsRowLands (c : CoreId) (t : Nat) (i : Nat) (s : State) : Answer :=
  inCycle c t (fun s =>
    match (s.en c).cmn[i]? with
    | none => s
    | some r =>
      if r.done && r.land == (s.sc c).stripCyc then
        let s := s.onE c fun e => { e with cmn := e.cmn.eraseIdx i }
        let s := if r.isWrite then
            writeOut c r.xfer (rowBase r.addr) (foldWrite c 3 r.tag r.addr r.data s)
          else landRead c r s
        s.onE c fun e => { e with xfers := e.xfers.filter fun x => !x.over }
      else s) s

/-- COMMONS_INBOUND_ROW_PERFORM but for the hub's messages that wait for the row (R100, R122, R293): the oldest inbound row bound for the Commons is performed, at the earliest 22 fcyc
after it reached the stop Square and in a cycle in which no request waits at its bank; the last row of a late item makes its arrival. -/
def performCmnRow (c : CoreId) (t : Nat) (s : State) : Answer :=
  let s := advance c t s
  match (s.cm c).cmnIn with
  | [] => .next s
  | x :: rest =>
    let idle := match placeOf x.addr with
      | .commons d row => !bankWaits s d row
      | .plot _ _ | .deep _ _ | .control | .window | .unpopulated => true
    whenDue (x.at_ + 22 ≤ (s.sc c).wall && idle) (fun s =>
      let s := s.onM c fun m => { m with cmnIn := rest }
      let s := match placeOf x.addr with
        | .commons d row =>
          if gatedFor s d row true then tellWriter c x.owner 7 x.addr (gatedFlt s 5 (ownerTag s c x.owner) 0 row 1 x.addr) s
          else writeRow s x.addr x.data
        | .plot _ _ | .deep _ _ | .control | .window | .unpopulated => s
      let s := rowPlaced c x.owner x.addr s
      match (s.en c).late.find? (fun l => x.owner == .late l.x.id) with
      | some l => if l.whole then lateArrive c l s else s
      | none => s) s

/-! ### Scrubbing (R120) -/

/-- The register, next index and last turn of a scrubbed unit. -/
def scrubState (s : State) : ScrubUnit → ErrReg × Nat × Nat
  | .plot c b => ((s.cm c).err, (vget (s.cm c).scrubNext (0, 0) b.val))
  | .commons d b => ((s.die d).cmnErr, (((s.die d).scrubNext.find? fun x => x.1 == b.val).elim (0, 0) (·.2)))
  | .deep d v => ((s.die d).dmErr, (((s.die d).scrubNext.find? fun x => x.1 == 256 + v.val).elim (0, 0) (·.2)))

/-- Row and module address of the unit's next scrub. -/
def scrubRow (u : ScrubUnit) (i : Nat) : Nat × Nat :=
  match u with
  | .plot c b => (16 * i + b.val, plotAddr c (16 * i + b.val))
  | .commons d b =>
    let r := b.val / 16 * 2 ^ 18 + 16 * i + b.val % 16
    (r, cmnAddr d r)
  | .deep d v => (3 * i + v.val, deepAddr d (3 * i + v.val))

/-- Rows of a scrubbed unit. -/
def scrubRows : ScrubUnit → Nat
  | .plot _ _ => 768
  | .commons _ _ => 16384
  | .deep _ _ => 7864320

def setScrub (u : ScrubUnit) (i turn late : Nat) (s : State) : State :=
  let bump := fun (e : ErrReg) => { e with late := satAdd 0x7F e.late late }
  let put := fun (k : Nat) (l : List (Nat × Nat × Nat)) => (k, i, turn) :: l.filter fun x => x.1 != k
  match u with
  | .plot c b => s.onM c fun m => { m with scrubNext := vset m.scrubNext b.val (i, turn), err := bump m.err }
  | .commons d b => s.onDie d fun k => { k with scrubNext := put b.val k.scrubNext, cmnErr := bump k.cmnErr }
  | .deep d v => s.onDie d fun k => { k with scrubNext := put (256 + v.val) k.scrubNext, dmErr := bump k.dmErr }

/-- A deep-memory request of this module or another waits at device `v` of die `d`. -/
def deviceWaits (s : State) (d : DieId) (v : Nat) : Bool :=
  s.net.any fun x => x.destPos == s.hub.position && (x.kind == .write || x.kind == .readReq) &&
    (match placeOf x.row with
      | .deep e r => e == d && r % 3 == v
      | .plot _ _ | .commons _ _ | .control | .window | .unpopulated => false)

/-- The unit has an opportunity (R90, R100, R120): slot 7 of a Plot bank that no access of a higher rank wants, an idle cycle of a Commons
bank or of a device's controller. -/
def scrubSlot (s : State) (u : ScrubUnit) (row : Nat) : Bool :=
  match u with
  | .plot c _ => free7Now s c 6 row
  | .commons d _ => !bankWaits s d row
  | .deep d v => !deviceWaits s d v.val

/-- The scrub takes the slot-7 opportunity. -/
def useScrubSlot (u : ScrubUnit) (row : Nat) (s : State) : State :=
  match u with
  | .plot c _ => use7 c row s
  | .commons _ _ | .deep _ _ => s

/-- A corrected row waits for its write-back. -/
def queueScrub (u : ScrubUnit) (row : Nat) (d : Row) (s : State) : State :=
  match u with
  | .plot c b => s.onM c fun m => { m with scrub := m.scrub ++ [(b.val, row, d)] }
  | .commons e b => s.onDie e fun k => { k with scrub := k.scrub ++ [(b.val, row, d)] }
  | .deep e v => s.onDie e fun k => { k with scrub := k.scrub ++ [(256 + v.val, row, d)] }

/-- A scrub's record of an uncorrectable row goes to the owning core's ring, and to the Headland alone where no core owns the row. -/
def scrubFault (u : ScrubUnit) (f : Flt) (s : State) : State :=
  match u with
  | .plot c _ => postFault c f s
  | .commons _ _ | .deep _ _ => headlandFault f s

/-- The core of a scrubbed Plot bank reaches the command's cycle. -/
def scrubTime (u : ScrubUnit) (t : Nat) (s : State) : State :=
  match u with
  | .plot c _ => advance c t s
  | .commons _ _ | .deep _ _ => s

/-- SCRUB_READ (R118 to R120): at the unit's turn its next row is read; an error is recorded, a correctable one waits for its
write-back. A turn passed over is counted in SCRUB_LATE and carried forward. -/
def execScrubRead (u : ScrubUnit) (t : Nat) (ecc : Ecc) (s : State) : Answer :=
  let s := scrubTime u t s
  let (e, i, last) := scrubState s u
  let (row, a) := scrubRow u i
  let turn := last + 2 ^ clampN 8 28 e.scrubLog2
  whenDue (e.scrubEn && turn ≤ t && scrubSlot s u row) (fun s =>
    let s := useScrubSlot u row s
    let s := setScrub u ((i + 1) % scrubRows u) turn (if turn + 2 ^ clampN 8 28 e.scrubLog2 ≤ t then 1 else 0) s
    let x := readEcc s a ecc
    let (d, s) := readNoted s a x
    match x with
    | .clean | .wrong _ none => s
    | .corrected _ | .wrong _ (some _) => queueScrub u row d s
    | .bad cw => scrubFault u { cls := 0x03, source := 7, tag := 0, ctx := 0, row := rowField s a,
                                detail := tierOf a + cw * 256 + 5 * 65536 } s) s

/-- The unit's oldest corrected row, with what is to be written back. -/
def scrubDue (s : State) : ScrubUnit → Option (Nat × Row)
  | .plot c b => ((s.cm c).scrub.find? fun x => x.1 == b.val).map (·.2)
  | .commons d b => ((s.die d).scrub.find? fun x => x.1 == b.val).map (·.2)
  | .deep d v => ((s.die d).scrub.find? fun x => x.1 == 256 + v.val).map (·.2)

/-- Module address of row `row` of the unit's memory. -/
def unitAddr (u : ScrubUnit) (row : Nat) : Nat :=
  match u with
  | .plot c _ => plotAddr c row
  | .commons d _ => cmnAddr d row
  | .deep d _ => deepAddr d row

/-- The unit's oldest corrected row is written back as the read delivered it, which takes it off the list (R120). -/
def writeBack (u : ScrubUnit) (row : Nat) (d : Row) (s : State) : State := writeRow (useScrubSlot u row s) (unitAddr u row) d

/-- SCRUB_WRITE_BACK (R120): at the unit's next opportunity its oldest corrected row is written back. -/
def execScrubWriteBack (u : ScrubUnit) (t : Nat) (s : State) : Answer :=
  let s := scrubTime u t s
  match scrubDue s u with
  | none => .next s
  | some x => whenDue (scrubSlot s u x.1) (writeBack u x.1 x.2) s

/-! ### Paging and bank-group power -/

/-- PAGE_OUT_COMPLETE (R100, R113): the copy is in the backing area, the handle is paged out and its extent is free. -/
def execPageOutComplete (d : DieId) (t : Nat) (i : Reading Nat) (s : State) : Answer :=
  match (s.die d).pageOuts[i.of]? with
  | none => .next s
  | some j =>
    let s := advance j.core t s
    whenDue (!(List.range 16).any fun b => bankWaits s d (j.src / 16 * 16 + b)) (fun s =>
      let s := copyRows (cmnAddr d j.src) (deepAddr d j.area) (64 * j.pages) i.err s
      let s := s.onDie d fun k =>
        { k with pageOuts := k.pageOuts.eraseIdx i.of, extents := k.extents.filter fun e => !(e.1 == j.src / 64) }
      let s := s.onM j.core fun m => { m with owned := vset m.owned j.h 0 }
      serve d (setRes j.core j.h (if pagingIn s j.core j.h then 2 else 1) s)) s

/-- The cells of bank group `g` of die `d` are lost, or zeroed (R121). -/
def zeroGroup (d : DieId) (g : Nat) (s : State) : State :=
  { s with mem := clearCells s.mem (cmnAddr d (g * 2 ^ 18)) (2 ^ 18 * 512) }

def setGroup (d : DieId) (g v : Nat) (s : State) : State := s.onDie d fun k => { k with groupState := vset k.groupState g v }

/-- A gate command's arrival adds 1 to its stake (R121). -/
def gateArrive (d : DieId) (j : GateJob) (s : State) : State :=
  let s := s.onDie d fun k => { k with gates := k.gates.eraseP fun x => x == j }
  arriveNow j.core none 0 j.stk 1 j.tag s

/-- A write that the closing group `g` may have accepted by wall cycle `at_` has not reached its bank (R121). -/
def writesIn (s : State) (d : DieId) (g at_ : Nat) : Bool :=
  allCores.any fun c => (s.en c).cmn.any fun r => !r.done && r.isWrite && r.made ≤ at_ &&
    (match placeOf r.addr with
      | .commons e row => e == d && groupOf row == g
      | .plot _ _ | .deep _ _ | .control | .window | .unpopulated => false)

/-- GATE_ARRIVAL (R121): the closing group's writes are drained, it powers down and its contents are lost. -/
def execGateArrival (d : DieId) (t : Nat) (g : Fin 16) (s : State) : Answer :=
  match (s.die d).gates.find? (fun j => j.g == g && !j.un) with
  | none => .next s
  | some j =>
    let s := advance j.core t s
    whenDue (j.at_ ≤ (s.sc j.core).wall && vget (s.die d).groupState 0 g.val == 1 && !writesIn s d g.val j.at_) (fun s =>
      gateArrive d j (zeroGroup d g.val (setGroup d g.val 2 s))) s

/-- UNGATE_ARRIVAL (R121, R123): 16,384 fcyc after the command reached the group, every row of it is zero and it is in service. -/
def execUngateArrival (d : DieId) (t : Nat) (g : Fin 16) (s : State) : Answer :=
  match (s.die d).gates.find? (fun j => j.g == g && j.un) with
  | none => .next s
  | some j =>
    let s := advance j.core t s
    whenDue (j.at_ + 16384 ≤ (s.sc j.core).wall && vget (s.die d).groupState 0 g.val == 3) (fun s =>
      gateArrive d j (zeroGroup d g.val (setGroup d g.val 0 s))) s

end Sys2Proof.Machine
end

