-- ==== Sys2Proof/Machine/Plough.lean ====
section
/-! DEFINITION. The Plough's commands (R186 to R215). -/

namespace Sys2Proof.Machine

open Sys2Proof

/-- A strip's loop descriptor, 0 (one execution) without one. -/
def Strip.loopOf (st : Strip) (w : IWord) : BitVec 512 := st.entry (wLoop w)

/-- Idle time of an instruction issued at `u` (R74). -/
def plgIdle (e : Eng) (u : Nat) : Nat :=
  match e.plgActive with
  | none => 64 + u
  | some a => u - a

/-- The Plough instruction of word `w` of strip `st`, issued at `u` with or without a ramp. The sets alternate from pass to pass (R184); which
of the two the first pass after reset uses is not stated: set 1 (DESIGN CHOICE, log entry 119). -/
def plgOf (s : State) (c : CoreId) (op : Nat) (w : IWord) (st : Strip) (u : Nat) (ramp : Bool) : PlgRun :=
  let e := s.en c
  let b := st.entry (pwPb w)
  { word := w, block := b, loop := st.loopOf w, drill := st.entry (pbDrill b), slot := st.slot, shared := hdrShared st.hdr,
    seed := vget e.seeds 0 st.slot.val, draw := (s.sc c).draw, op := op, tag := wTag w, t0 := u, rho := if ramp then 14 else 0,
    set0 := !e.set, execs := 0, rels := 0, drained := 0, passes := [], scales := 0, rows := [], err := [] }

/-- Does an instruction with this idle time start with a ramp (R74)? -/
def plgRamp (st : Strip) (idle : Nat) : Bool := (if hdrFillerOff st.hdr then 8 else 64) ≤ idle

/-- A Plough instruction issues (R74, R188, R197, R212): ramp, occupancy and completion. Its feed and filler are counted as its cycles
pass (R215). -/
def issuePlough (c : CoreId) (op : Nat) (w : IWord) (st : Strip) (s : State) : State :=
  let u := (s.sc c).stripCyc
  let ramp := plgRamp st (plgIdle (s.en c) u)
  let r := plgOf s c op w st u ramp
  let s := s.onE c fun e =>
    { e with plg := e.plg ++ [r], plgActive := some (r.comp + 1), plgAu := classAu r.cls, plgRamps := satAdd 0xFFFFFFFF e.plgRamps (b2n ramp),
             plgArrays := pbArrays r.block, plgFold := pbFold r.block }
  issueWord c .mq w u r.occEnd r.comp true false s

/-- PLG_MM (R199). -/
def execPlgMm (c : CoreId) (t : Nat) (s : State) : Answer := issueCmd c .mq 0x10 t (issuePlough c 0x10) s
/-- PLG_SQD (R200). -/
def execPlgSqd (c : CoreId) (t : Nat) (s : State) : Answer := issueCmd c .mq 0x11 t (issuePlough c 0x11) s
/-- PLG_ABD (R200). -/
def execPlgAbd (c : CoreId) (t : Nat) (s : State) : Answer := issueCmd c .mq 0x12 t (issuePlough c 0x12) s
/-- PLG_MINPLUS (R200). -/
def execPlgMinplus (c : CoreId) (t : Nat) (s : State) : Answer := issueCmd c .mq 0x13 t (issuePlough c 0x13) s
/-- PLG_MAXPLUS (R200). -/
def execPlgMaxplus (c : CoreId) (t : Nat) (s : State) : Answer := issueCmd c .mq 0x14 t (issuePlough c 0x14) s
/-- PLG_XORPOP (R201). -/
def execPlgXorpop (c : CoreId) (t : Nat) (s : State) : Answer := issueCmd c .mq 0x15 t (issuePlough c 0x15) s
/-- PLG_CMPCNT (R201). -/
def execPlgCmpcnt (c : CoreId) (t : Nat) (s : State) : Answer := issueCmd c .mq 0x16 t (issuePlough c 0x16) s

/-- A run of the Plough replaced. -/
def setPlg (c : CoreId) (r : PlgRun) (s : State) : State :=
  s.onE c fun e => { e with plg := e.plg.map fun y => if y.t0 == r.t0 then r else y }

/-- A run of the Plough changed in place. -/
def onPlg (c : CoreId) (t0 : Nat) (f : PlgRun → PlgRun) (s : State) : State :=
  s.onE c fun e => { e with plg := e.plg.map fun y => if y.t0 == t0 then f y else y }

/-- PLG_EXECUTION_START (R119, R194, R195, R197): the feed window of the next execution begins; from execution 1 on its implicit wait on
the feed stake is taken. `err` is what the window's reads meet, each in its own cycle. -/
def execPlgExecutionStart (c : CoreId) (t : Nat) (err : ReadErr) (s : State) : Answer :=
  inCycle c t (fun s =>
    let u := (s.sc c).stripCyc
    match (s.en c).plg.find? (fun r => r.execs < r.total && r.begin_ r.execs == u) with
    | none => s
    | some r =>
      let s := forAll (plgWant (s.sc c) r) (fun b s => match b.want with
        | .stake k n => takeStake c k n s
        | .pop _ | .push _ _ => s) s
      let set := if r.execs / r.chunks % 2 == 1 then !r.set0 else r.set0
      onPlg c r.t0 (fun r => { r with execs := r.execs + 1, rows := [], err := err }) (s.onE c fun e => { e with set := set })) s

/-- PLG_FEED_RELEASE (R195): in the last cycle of a feed window RSTK_N is added to RSTK. -/
def execPlgFeedRelease (c : CoreId) (t : Nat) (s : State) : Answer :=
  inCycle c t (fun s =>
    let u := (s.sc c).stripCyc
    match (s.en c).plg.find? (fun r => r.rels < r.execs && r.begin_ r.rels + r.feed == u + 1), (s.sc c).strip with
    | some r, some st =>
      let s := onPlg c r.t0 (fun r => { r with rels := r.rels + 1 }) s
      if pwRstk r.word == 63 then s else addStake c (physStk (s.sc c) st (pwRstk r.word)) (pwRstkN r.word) 0 r.tag s
    | _, _ => s) s

/-- A drain row's Plot write through W0 or W1, folded (R398). -/
def drainWrite (c : CoreId) (r : PlgRun) (h : Nat) (row : Int) (d : Row) (s : State) : State :=
  let ph := physH r.shared r.slot h
  let a := (hAddr (handle s c ph) row).1
  foldWrite c 0 r.tag a d (writeH c 0 r.tag (slotCtx s c r.slot.val) ph row d s)

/-- The writes that drain row `d` of pass `p` makes (R206 to R208). -/
def drainWrites (c : CoreId) (r : PlgRun) (p d : Nat) (cells : List (BitVec 48)) (s : State) : State :=
  let b := r.block
  let last := p * r.chunks + r.chunks - 1
  let off := fun op => loopOff r.loop op last
  if pbOfmt b == 0x0F then
    let rows := r.int48Data p cells d
    drainWrite c r (pwW1H r.word) ((pbW1Row b : Int) + d + off 1) rows.2
      (drainWrite c r (pwW0H r.word) ((pbW0Row b : Int) + d + off 0) rows.1 s)
  else
    let s := if (d + 1) % r.group == 0 then
        drainWrite c r (pwW0H r.word) ((pbW0Row b : Int) + (d / r.group : Nat) + off 0) (r.w0Data p cells d) s
      else s
    if isMx (pbOfmt b) && d == 31 && (p % 4 == 3 || p + 1 == r.npass) then
      drainWrite c r (pwW1H r.word) ((pbW1Row b : Int) + (p / 4 : Nat)) r.scales s
    else s

/-- The scale staging row after drain row `d` of pass `p` (R208). -/
def PlgRun.stageScales (r : PlgRun) (p d : Nat) (cells : List (BitVec 48)) : Row :=
  if isMx (pbOfmt r.block) then
    let old := if p % 4 == 0 && d == 0 then 0 else r.scales
    Row.put old (128 * (p % 4) + 4 * d) 4 (packNat 8 ((r.drainRow p cells d).map (·.1)))
  else r.scales

/-- PLG_DRAIN_ROW (R203 to R210): the next drain row is produced, counted and written. -/
def execPlgDrainRow (c : CoreId) (t : Nat) (s : State) : Answer :=
  inCycle c t (fun s =>
    let u := (s.sc c).stripCyc
    match (s.en c).plg.find? (fun r => r.drained < 32 * r.npass && r.drainCyc (r.drained / 32) (r.drained % 32) == u) with
    | none => s
    | some r =>
      let p := r.drained / 32
      let d := r.drained % 32
      let cells := (r.passes.find? fun x => x.1 == p).elim [] (·.2)
      let vals := (r.drainRow p cells d).flatMap (·.2)
      let r := { r with scales := r.stageScales p d cells, drained := r.drained + 1,
                        passes := if d == 31 then r.passes.filter (fun x => x.1 != p) else r.passes }
      let s := drainWrites c r p d cells (setPlg c r s)
      retire c (s.onE c fun e =>
        { e with plgSat := satAdd 0xFFFFFFFF e.plgSat (vals.filter (·.sat)).length,
                 plgNonfin := satAdd 0xFFFFFFFF e.plgNonfin (vals.filter (·.nonfin)).length })) s

/-- PLG_COUNTER_CLEAR (R215). -/
def execPlgCounterClear (c : CoreId) (s : State) : Answer :=
  .next (s.onE c fun e => { e with plgRamps := 0, plgSat := 0, plgNonfin := 0 })

end Sys2Proof.Machine
end

