-- ==== Sys2Proof/Machine/Harrow.lean ====
section
/-! DEFINITION. The Harrow's commands (R218 to R244). -/

namespace Sys2Proof.Machine

open Sys2Proof

/-- The summary slots as they stand at the start of the present wall cycle: a posting of this cycle is not seen (R240). -/
def sumsNow (s : State) (c : CoreId) : Vector SumSlot 8 :=
  let e := s.en c
  if e.sumsAt == some (s.sc c).wall then e.sums0 else e.sums

/-- The start value of a chain of summary kind `kind` from its slot, and whether the slot holds another kind (R240). -/
def accStart (slot : SumSlot) (acc : Bool) (kind : Option Nat) : Option (BitVec 64) × Bool :=
  match kind with
  | none => (none, false)
  | some k =>
    if !acc || k == 1 || k == 7 || !slot.valid then (none, false)
    else if slot.kind == k then (some slot.value, false) else (none, true)

/-- The chain instruction of word `w` of strip `st`, issued at `u`. -/
def hrwOf (s : State) (c : CoreId) (a : Option (BitVec 64) × Bool) (err : ReadErr) (w : IWord) (st : Strip) (u : Nat) : HrwRun :=
  { word := w, block := st.entry (hwPb w), loop := st.loopOf w, chain := st.chain (hwChain w), area := st.area, slot := st.slot,
    shared := hdrShared st.hdr, seed := vget (s.en c).seeds 0 st.slot.val, draw := (s.sc c).draw, tag := wTag w, t0 := u,
    acc0 := a.1, mism := a.2, xs := [], ys := [], xn := 0, yn := 0, wrote := 0, err := err }

/-- hrw.chain issues (R219, R223, R240). -/
def issueChain (c : CoreId) (err : ReadErr) (w : IWord) (st : Strip) (s : State) : State :=
  let u := (s.sc c).stripCyc
  let d := st.chain (hwChain w)
  let a := accStart (vget (sumsNow s c) SumSlot.reset (hwSlot w)) (hwAcc w) (chSummary d)
  let r := hrwOf s c a err w st u
  issueWord c .vq w u (u + r.execs * r.beats) r.comp true (chSummary d).isSome
    (s.onE c fun e => { e with hrw := e.hrw ++ [r], hrwStages := chStages d - 1, hrwChain := hwChain w })

/-- HRW_CHAIN (R219, R223). -/
def execHrwChain (c : CoreId) (t : Nat) (err : ReadErr) (s : State) : Answer := issueCmd c .vq 0x10 t (issueChain c err) s

/-- hrw.bload issues: Q rows through read port 1, complete at t0 + Q (R226). -/
def issueBload (c : CoreId) (err : ReadErr) (w : IWord) (st : Strip) (s : State) : State :=
  let u := (s.sc c).stripCyc
  let h := physH (hdrShared st.hdr) st.slot (w.fld 64 6)
  let q := w.fld 94 5 + 1
  let r : BloadRun := { tag := wTag w, h := h, row := w.fld 70 24, q := q, t0 := u, n := 0, err := err }
  issueWord c .vq w u (u + q) (u + q) true false (s.onE c fun e => { e with bload := e.bload ++ [r] })

/-- HRW_BLOAD (R226). -/
def execHrwBload (c : CoreId) (t : Nat) (err : ReadErr) (s : State) : Answer := issueCmd c .vq 0x11 t (issueBload c err) s

/-- A chain changed in place. -/
def onHrw (c : CoreId) (t0 : Nat) (f : HrwRun → HrwRun) (s : State) : State :=
  s.onE c fun e => { e with hrw := e.hrw.map fun y => if y.t0 == t0 then f y else y }

/-- HRW_WRITE_ROW (R223, R235, R236): the next elementwise or reduction row is written in its cycle, counted (R235) and folded
(R398). -/
def execHrwWriteRow (c : CoreId) (t : Nat) (s : State) : Answer :=
  inCycle c t (fun s =>
    let u := (s.sc c).stripCyc
    match (s.en c).hrw.find? (fun r => r.wrote < r.execs * r.rowsPer && r.writeCyc (r.wrote / r.rowsPer) (r.wrote % r.rowsPer) == u) with
    | none => s
    | some r =>
      let e := r.wrote / r.rowsPer
      let x := r.wrote % r.rowsPer
      let d := r.writeRowOf (s.en c).bbuf e x
      let h := physH r.shared r.slot (hwWH r.word)
      let i : Int := (bfld r.block 0x08 4 : Int) + loopOff r.loop 2 e + (x : Nat)
      let s := foldWrite c 1 r.tag (hAddr (handle s c h) i).1 d.1 (writeH c 1 r.tag (slotCtx s c r.slot.val) h i d.1 s)
      retire c ((onHrw c r.t0 (fun r => { r with wrote := r.wrote + 1 }) s).onE c fun e =>
        { e with hrwSat := satAdd 0xFFFFFFFF e.hrwSat d.2.1, hrwNonfin := satAdd 0xFFFFFFFF e.hrwNonfin d.2.2 })) s

/-- HRW_COUNTER_CLEAR (R244). -/
def execHrwCounterClear (c : CoreId) (s : State) : Answer := .next (s.onE c fun e => { e with hrwSat := 0, hrwNonfin := 0 })

/-- Slot `k` with VALID and MISMATCH cleared as the masks say; a bit that a posting has set in the present control-core cycle stays (R12,
R240). -/
def clearSum (s : State) (c : CoreId) (k : Nat) (valid mism : Bool) : SumSlot :=
  let now := vget (s.en c).sums SumSlot.reset k
  let kept := bitSet (s.sc c) (0xB48 + 16 * k)
  { now with valid := now.valid && !(valid && !kept 0), mism := now.mism && !(mism && !kept 1) }

/-- HRW_SUM_CLEAR (R244): VALID and MISMATCH of every slot are cleared. -/
def execHrwSumClear (c : CoreId) (s : State) : Answer :=
  .next (s.onE c fun e => { e with sums := Vector.ofFn fun k : Fin 8 => clearSum s c k.val true true })

end Sys2Proof.Machine
end

