-- ==== Sys2Proof/Machine/Headland.lean ====
section
/-! DEFINITION. Message headers (R333, R338), messages of the hub (R345, R489, R490), bounces (R351), and the Headland's commands and
replies (R492 to R494): shared operations. -/

namespace Sys2Proof.Machine

open Sys2Proof

/-! ### The message header (R333) -/

def mhDestPos (h : Row) : Nat := h.field 0x00 2
def mhDestCore (h : Row) : Nat := h.field 0x02 1
/-- Ring index with its reserved bits. -/
def mhRingByte (h : Row) : Nat := h.field 0x03 1
def mhRing (h : Row) : Nat := mhRingByte h % 16
def mhTag (h : Row) : Nat := h.field 0x04 3
def mhLen (h : Row) : Nat := h.field 0x07 1
def mhFlags (h : Row) : Nat := h.field 0x08 1
def mhOrdered (h : Row) : Bool := bitOf (mhFlags h) 0
def mhAnyEpoch (h : Row) : Bool := bitOf (mhFlags h) 1
def mhNotify (h : Row) : Bool := bitOf (mhFlags h) 2
def mhFill (h : Row) : Bool := bitOf (mhFlags h) 7
def mhEpoch (h : Row) : Nat := h.field 0x09 1
def mhSlotByte (h : Row) : Nat := h.field 0x0A 1
def mhSlot (h : Row) : Nat := mhSlotByte h % 4
def mhNotifyStk (h : Row) : Nat := h.field 0x0B 1
def mhSendPos (h : Row) : Nat := h.field 0x0C 2
def mhSendCore (h : Row) : Nat := h.field 0x0E 1
def mhSendCtx (h : Row) : Nat := h.field 0x0F 1
def mhSeq (h : Row) : Nat := h.field 0x10 2
/-- `len` INLINE bytes at `off`. -/
def mhInline (h : Row) (off len : Nat) : Nat := h.field (0x20 + off) len

/-- The outgoing copy of a header with the fields that the sending side stamps. -/
def stampHdr (h : Row) (pos core ctx seq : Nat) : Row :=
  (((h.put 0x0C 2 pos).put 0x0E 1 core).put 0x0F 1 ctx).put 0x10 2 seq

/-- Line 1 of R338. `slotOk` says that a core's SEND_SLOT names a valid slot; the host may use bits [4:2] of SEND_SLOT, and the host
and the Headland no bits [1:0]. FILL must be 0 (R333). -/
def mhMalformed (h : Row) (sender : Nat) (slotOk : Bool) : Bool :=
  mhRingByte h / 16 != 0 || bitsOf (mhFlags h) 3 4 != 0 || mhFill h || mhSlotByte h / 32 != 0 || h.field 0x12 6 != 0 ||
  (sender != 0xFF && bitsOf (mhSlotByte h) 2 3 != 0) || (128 ≤ sender && mhSlot h != 0) ||
  mhLen h == 0 || 32 < mhLen h || (128 ≤ mhDestCore h && mhDestCore h != 0xFE && mhDestCore h != 0xFF) ||
  (sender < 128 && !slotOk) || (mhNotify h && 47 < mhNotifyStk h)

/-- DEST_POS, with 0xFFFF resolved to the sender's own module. -/
def mhDest (s : State) (h : Row) : Nat := if mhDestPos h == 0xFFFF then s.hub.position else mhDestPos h

/-- A bounce record (R351). -/
def bounceFlt (s : State) (h : Row) (reason : Nat) : Flt :=
  { cls := 0x11, source := 5, tag := mhTag h, ctx := mhSendCtx h % 8,
    detail := reason + mhRing h * 2 ^ 8 + mhDest s h * 2 ^ 16 + mhDestCore h * 2 ^ 32 + mhSeq h * 2 ^ 40 + mhEpoch h * 2 ^ 56 }

/-- The plane of a message's rows (R373). -/
def msgPlane (h : Row) : Nat := (mhSendCore h + mhDestCore h) % 4

/-- The rows of a message leave as items. -/
def msgItems (s : State) (rows : List Row) : List Item :=
  match rows with
  | [] => []
  | h :: _ => rows.zipIdx.map fun x =>
    ⟨.msgRow, msgPlane h, mhDest s h, mhDestCore h, mhSendPos h, mhSendCore h, mhTag h, mhSeq h, x.2, mhLen h, 0, x.2 + 1 == mhLen h, x.1⟩

/-- A short item about the message of header `h` goes back to its sender. -/
def answerMsg (kind : ItemKind) (plane aux : Nat) (h : Row) (s : State) : State :=
  putItem ⟨kind, plane, mhSendPos h, mhSendCore h, s.hub.position, mhDestCore h, mhTag h, mhSeq h, 0, 0, aux, true, 0⟩ s

/-! ### Messages of the hub -/

/-- A module reset is in progress (R496). -/
def moduleResetting (s : State) : Bool := s.hub.hl.resets.any fun r => r.kind == 3

/-- A core's reset, or one of the context of ring slot `slot`, is in progress (R338 line 3, R496). -/
def coreResetting (s : State) (c : CoreId) (slot : Nat) : Bool :=
  s.hub.hl.resets.any fun r => r.kind == 3 || (r.kind == 2 && r.mask.getLsbD c.val) || (r.kind == 1 && slotCtx s c slot == r.x.val)

/-- The message with this sender and SEQ is no longer outstanding in the hub. -/
def hubDone (core seq : Nat) (s : State) : State :=
  s.onHl fun h => { h with hostMsgs := h.hostMsgs.eraseP fun m => match m with
    | x :: _ => mhSendCore x == core && mhSeq x == seq
    | [] => false }

/-- A bounce of a message of the host or the Headland: the host's goes to its fault ring (R490) with a copy at the
Headland (R327), the Headland's is recorded there; the records of a bounced fold message are lost (R405). -/
def hubBounce (h : Row) (reason : Nat) (s : State) : State :=
  let f := bounceFlt s h reason
  let s := hubDone (mhSendCore h) (mhSeq h) s
  let s := if mhSendCore h == 0xFE && mhTag h / 2 ^ 16 == 0x7E then lsGap (mhInline h 0 2) s else s
  let bits := faultBits f 0 0 0 0xFFFF (Config.headlandSeq s.hub.hl.faults.length) (tbNow s)
  if mhSendCore h == 0xFF then hostFault bits (keepRecord bits s) else headlandFault f s

/-- A message that cannot be kept is bounced at its sender. -/
def bounceMsg (plane reason : Nat) (h : Row) (s : State) : State :=
  if 128 ≤ mhSendCore h && mhSendPos h == s.hub.position then hubBounce h reason s else answerMsg .bounce plane reason h s

/-- A whole message for the host: it waits in the hub's queue of 64, or bounces (R338, R490). -/
def hostEnqueue (plane : Nat) (rows : List Row) (s : State) : State :=
  match rows with
  | [] => s
  | h :: _ =>
    let l := s.hub.hl
    if moduleResetting s then bounceMsg plane 7 h s
    else if l.inRows == 0 then bounceMsg plane 1 h s
    else if l.inRows - 1 < mhLen h then bounceMsg plane 5 h s
    else if 64 ≤ l.inQ.length then bounceMsg plane 6 h s
    else s.onHl fun l => { l with inQ := l.inQ ++ [rows] }

/-- A whole message for the Headland: kept in its command ring and acknowledged, or bounced (R492). -/
def headlandLand (plane : Nat) (rows : List Row) (s : State) : State :=
  match rows with
  | [] => s
  | h :: _ =>
    if moduleResetting s then bounceMsg plane 7 h s
    else if 4 ≤ mhRing h then bounceMsg plane 1 h s
    else
      let s := s.onHl fun l => { l with cmds := l.cmds ++ [(h.put 0x18 8 (tbNow s)) :: rows.drop 1] }
      if 128 ≤ mhSendCore h && mhSendPos h == s.hub.position then hubDone (mhSendCore h) (mhSeq h) s
      else answerMsg .msgAck plane 0 h s

/-- A stamped message of the hub departs (R345, R490): its copy is kept until it lands or bounces. -/
def hubDepart (rows : List Row) (s : State) : State :=
  match rows with
  | [] => s
  | h :: _ =>
    let s := s.onHl fun l => { l with hostMsgs := l.hostMsgs ++ [rows] }
    if mhDest s h == s.hub.position && mhDestCore h == 0xFF then hostEnqueue (msgPlane h) rows s
    else if mhDest s h == s.hub.position && mhDestCore h == 0xFE then headlandLand (msgPlane h) rows s
    else forAll (msgItems s rows) putItem s

/-- A header of the Headland (R489), stamped from HL_SEQ. -/
def headlandHdr (s : State) (flags destPos destCore ring tag len inline : Nat) : Row :=
  stampHdr (((((((0 : Row).put 0x00 2 destPos).put 0x02 1 destCore).put 0x03 1 ring).put 0x04 3 tag).put 0x07 1 len).put 0x08 1 flags |>.put 0x20 480 inline)
    s.hub.position 0xFE 0 s.hub.hl.hlSeq

/-- The Headland sends a message with FLAGS `flags`. With ORDERED it waits for the Headland's row writes to the destination module that
nothing has acknowledged (R349). -/
def headlandSendF (flags destPos destCore ring tag : Nat) (inline : Nat) (payload : List Row) (s : State) : State :=
  let h := headlandHdr s flags destPos destCore ring tag (1 + payload.length) inline
  let set := if bitOf flags 0 then (s.hub.hl.wout.filter fun y => y.1 == mhDest s h).map fun y => (y.1, y.2.1) else []
  let s := s.onHl fun l => { l with hlSeq := (l.hlSeq + 1) % 2 ^ 16 }
  if set.isEmpty then hubDepart (h :: payload) s else s.onHl fun l => { l with held := l.held ++ [(h :: payload, set)] }

/-- The Headland writes rows to consecutive row addresses from `a` of the module at position `pos` (R414, R443). -/
def hubWrites (pos a tag : Nat) (rows : List Row) (s : State) : State :=
  forAll rows.zipIdx (fun y s =>
    let a := a + 512 * y.2
    putItem ⟨.write, rowPlane 0xFE a, pos, a / 0x1000000 % 128, s.hub.position, 0xFE, tag, a, y.2, rows.length, 0, y.2 + 1 == rows.length, y.1⟩
      (s.onHl fun l => { l with wout := l.wout ++ [(pos, a, tag)] })) s

/-- Row addresses that an acknowledgement covers. -/
def Item.acked (i : Item) : List (Nat × Nat) := (List.range i.count).map fun k => (i.srcPos, i.row + 512 * k)

/-- The acknowledgements of the Headland's and the host's row writes that have arrived are taken up, and the messages that waited for the
last of their writes depart (R349, R487). -/
def hubRelease (s : State) : State :=
  let mine := fun (i : Item) => i.kind == .writeAck && i.destPos == s.hub.position && 0xFE ≤ i.destCore &&
    i.acked.any fun y => s.hub.hl.wout.any fun w => (w.1, w.2.1) == y
  let got := (s.net.filter mine).flatMap Item.acked
  if got.isEmpty then s
  else
    let s := { s with net := s.net.filter fun i => !mine i }
    let held := s.hub.hl.held.map fun m => (m.1, m.2.filter fun y => !got.contains y)
    let s := s.onHl fun l => { l with wout := l.wout.filter fun w => !got.contains (w.1, w.2.1), held := held.filter fun m => !m.2.isEmpty }
    forAll (held.filter fun m => m.2.isEmpty) (fun m s => hubDepart m.1 s) s

/-- A row has been performed: the hub's messages that waited for it depart. -/
def thenRelease : Answer → Answer
  | .next s => .next (hubRelease s)
  | .fault f => .fault f
  | .refused r => .refused r

/-- PLOT_ROW_LANDING (R88, R487). -/
def execPlotRowLanding (c : CoreId) (t : Nat) (s : State) : Answer := thenRelease (landPlotRow c t s)

/-- COMMONS_INBOUND_ROW_PERFORM (R100, R122, R293, R487). -/
def execCommonsInboundRowPerform (c : CoreId) (t : Nat) (s : State) : Answer := thenRelease (performCmnRow c t s)

/-- The Headland sends a message with ANY_EPOCH set. -/
def headlandSend (destPos destCore ring tag : Nat) (inline : Nat) (payload : List Row) (s : State) : State :=
  headlandSendF 2 destPos destCore ring tag inline payload s

/-! ### Commands and replies (R493, R494) -/

/-- A reply to a command's sender with the given INLINE bytes. The system manager reads the first 64 of them. -/
def replyInline (src : CmdSrc) (inline : Nat) (s : State) : State :=
  match src.who with
  | .manager => attention 5 (s.onHl fun l => { l with smbReply := BitVec.ofNat 512 inline })
  | .host => headlandSend s.hub.position 0xFF 0 src.tag inline [] s
  | .core c => headlandSend s.hub.position c.val src.ring.val src.tag inline [] s

/-- The reply of R494: CMD, STATUS and a detail word. -/
def reply (src : CmdSrc) (cmd status detail : Nat) (s : State) : State :=
  replyInline src (cmd % 2 ^ 16 + status % 2 ^ 16 * 2 ^ 16 + detail % 2 ^ 32 * 2 ^ 32) s

/-- The second reply of a command whose work outlasts its first. -/
def replyDone (src : CmdSrc) (cmd status : Nat) (s : State) : State := reply src cmd status 0xFFFFFFFF s

/-- SEND_CORE of a command's sender; 0xFD, a reserved code, marks a command of the two-wire bus (log entry 40). -/
def whoCode : Who → Nat
  | .host => 0xFF
  | .core c => c.val
  | .manager => 0xFD

/-- A command that is performed leaves the Headland's ring. -/
def takeCmd (ring cmd : Nat) (src : CmdSrc) (s : State) : State :=
  s.onHl fun h => { h with cmds := h.cmds.eraseP fun m => match m with
    | x :: _ => mhRing x == ring && (ring != 0 || mhInline x 0 2 == cmd) && mhSendCore x == whoCode src.who && mhTag x == src.tag
    | [] => false }

/-- Senders H and S of R493. -/
def whoHS : Who → Bool
  | .host | .manager => true
  | .core _ => false
/-- Sender S alone. -/
def whoS : Who → Bool
  | .manager => true
  | .host | .core _ => false
/-- Senders H, S and C. -/
def whoHSC : Who → Bool
  | .host | .manager | .core _ => true

/-- The Headland answers every command but a module reset with status 1 after a thermal trip (R476), and accepts only FW_UPDATE and
RESET in recovery (R497); ROLLBACK_COMMIT has a code of its own there (R499). -/
def hlBusy (s : State) (cmd : Nat) : Bool := s.hub.pwr.trip.isSome || (s.hub.hl.recovery && cmd != 0x0E && cmd != 0x09 && cmd != 0x0F)

/-- A Headland command: a sender that may not send it is answered with status 2 (R493, R494). After POWER_FAIL none is accepted
(R478), nor while the always-on domain has no supply (R24). -/
def hlCommand (cmd : Nat) (allowed : Who → Bool) (src : CmdSrc) (f : State → State) (s : State) : Answer :=
  whenDue (s.hub.pwr.fail.isNone && s.hub.pwr.alwaysOn) (fun s =>
    let s := takeCmd 0 cmd src s
    if !allowed src.who then reply src cmd 2 0 s else if hlBusy s cmd then reply src cmd 1 0 s else f s) s

/-- A message of the Headland's rings has been taken up (R492): the first with this sender and SEQ leaves. -/
def takeMsg (hdr : Row) (s : State) : State :=
  s.onHl fun h => { h with cmds := h.cmds.eraseP fun m => match m with
    | x :: _ => hdrKey x (mhSendPos hdr) (mhSendCore hdr) (mhSeq hdr)
    | [] => false }

end Sys2Proof.Machine
end

