-- ==== Sys2Proof/Machine/Tiller.lean ====
section
/-! DEFINITION. The Tiller's and the schedule engine's commands (R249 to R277). -/

namespace Sys2Proof.Machine

open Sys2Proof

/-! ### tlr.upd and tlr.rootfin -/

/-- The step-table entry of group `j` for the latched step, with the descriptor it was computed from (R252, R253, R276). -/
def latchedEntry (s : State) (c : CoreId) (x : Nat) (draw : BitVec 64) (j : Nat) : BitVec 256 × BitVec 512 :=
  let d := s.die (dieOf c)
  if draw == (vget s.hub.adv AdvCtx.reset x).step then tabEntry d.tabCur j else tabEntry d.tabPrev j

/-- The tlr.upd of word `w` of strip `st`, issued at `u`: its quantities are those of the latched step's table (R253). -/
def tlrOf (s : State) (c : CoreId) (err : ReadErr) (w : IWord) (st : Strip) (u : Nat) : TlrRun :=
  let x := hdrContext st.hdr % 8
  let draw := (s.sc c).draw
  let t := latchedEntry s c x draw (twGroup w)
  let b := st.entry (twPb w)
  { word := w, block := b, loop := st.loopOf w, drill := st.entry (bfld b 0x0B 1), slot := st.slot, shared := hdrShared st.hdr,
    ctx := x, seed := vget (s.en c).seeds 0 st.slot.val, draw := draw, entry := t.1, desc := t.2,
    good := entryStatus t.1 == 0 && gdContext t.2 == x, tag := wTag w, t0 := u, feeds := 0, rels := 0, trs := [], tgs := [],
    tts := [], ths := [], wrote := 0, err := err }

/-- tlr.upd issues (R250 to R253, R300): a bad group leaves its record after the issue. -/
def issueTiller (c : CoreId) (err : ReadErr) (w : IWord) (st : Strip) (s : State) : State :=
  let u := (s.sc c).stripCyc
  let r := tlrOf s c err w st u
  let s := s.onE c fun e => { e with tlr := e.tlr ++ [r], tlrMode := r.mode }
  let s := issueWord c .uq w u (u + r.execs * r.rows) r.comp true false s
  if r.good then s
  else
    postFault c { cls := 0x0C, source := 2, tag := wTag w, ctx := r.ctx, detail := twGroup w + entryStatus r.entry * 2 ^ 16 }
      (s.onCore c fun k => { k with e := { k.e with tlrGroupBad := true }, sc := setBit 0xC00 8 k.sc })

/-- TLR_UPD (R251). -/
def execTlrUpd (c : CoreId) (t : Nat) (err : ReadErr) (s : State) : Answer := issueCmd c .uq 0x10 t (issueTiller c err) s

/-- TLR_RECORD_WRITE (R251, R254, R268): the next record row or touch row is written in its cycle, counted and folded. -/
def execTlrRecordWrite (c : CoreId) (t : Nat) (s : State) : Answer :=
  inCycle c t (fun s =>
    let u := (s.sc c).stripCyc
    match (s.en c).tlr.find? (fun r => r.wrote < r.execs * r.perExec && r.writeCyc (r.wrote / r.perExec) (r.wrote % r.perExec) == u) with
    | none => s
    | some r =>
      let e := r.wrote / r.perExec
      let j := r.wrote % r.perExec
      let isRec := j < r.rows
      let d := if isRec then r.recordRow e j else r.touchRow e (j - r.rows)
      let h := physH r.shared r.slot (if isRec then twW0H r.word else twW1H r.word)
      let i : Int := if isRec then (bfld r.block 0 4 : Int) + loopOff r.loop 0 e + (j : Nat)
        else (bfld r.block 4 4 : Int) + loopOff r.loop 1 e + (j - r.rows : Nat)
      let s := foldWrite c 2 r.tag (hAddr (handle s c h) i).1 d.1 (writeH c 2 r.tag (slotCtx s c r.slot.val) h i d.1 s)
      let s := if isRec && d.2.2 != 0 then s.onSc c (setBit 0xC00 64) else s
      retire c (s.onE c fun (y : Eng) =>
        let y : Eng := { y with tlr := y.tlr.map fun z => if z.t0 == r.t0 then { z with wrote := z.wrote + 1 } else z }
        if isRec then
          { y with tlrRows := y.tlrRows + 1, tlrSat := satAdd 0xFFFFFFFF y.tlrSat d.2.1,
                   tlrNonfin := satAdd 0xFFFFFFFF y.tlrNonfin d.2.2, tlrNonfinSt := y.tlrNonfinSt || d.2.2 != 0 }
        else { y with tlrDup := satAdd 0xFFFF y.tlrDup d.2.1, tlrHorizon := satAdd 0xFFFF y.tlrHorizon d.2.2 })) s

/-- tlr.rootfin issues: it reads the TH half and both summary slots now; the header is written at its completion (R262). An uncorrectable
hopper read ends the strip (R119). -/
def issueRootfin (c : CoreId) (ecc : Ecc) (w : IWord) (st : Strip) (s : State) : State :=
  let u := (s.sc c).stripCyc
  let half := w.fld 64 1
  let sums := sumsNow s c
  let (hdr, s) := readHopErr c 2 (wTag w) (slotCtx s c st.slot.val) 0 (hopBase 7 half) [(0, ecc)]
    (hopRow (s.sc c).wall (s.cm c) (hopBase 7 half)) s
  if (s.sc c).strip.isNone then s
  else
    let res := vget sums SumSlot.reset (w.fld 95 3)
    let nf := vget sums SumSlot.reset (w.fld 98 3)
    let r : RootRun := { hdr := rootHeader hdr res nf (s.sc c).draw.toNat, h := physH (hdrShared st.hdr) st.slot (w.fld 65 6),
                         row := w.fld 71 24, ok := rootAccepted hdr res nf, tag := wTag w, t0 := u, half := half }
    issueWord c .uq w u (u + 1) (u + 8) true false (s.onE c fun e => { e with root := e.root ++ [r] })

/-- TLR_ROOTFIN (R262). -/
def execTlrRootfin (c : CoreId) (t : Reading Nat) (s : State) : Answer := issueCmd c .uq 0x11 t.of (issueRootfin c (errAt t.err 0)) s

/-- TLR_COUNTER_CLEAR (R275). -/
def execTlrCounterClear (c : CoreId) (s : State) : Answer :=
  .next (s.onE c fun e => { e with tlrNonfin := 0, tlrSat := 0, tlrDup := 0, tlrHorizon := 0, tlrOk := 0, tlrFail := 0 })

/-! ### Step advances (R266, R267, R436) -/

def State.advOf (s : State) (x : CtxId) : AdvCtx := s.hub.adv.get x
def State.onAdv (s : State) (x : CtxId) (f : AdvCtx → AdvCtx) : State :=
  s.onHub fun h => { h with adv := vset h.adv x.val (f (h.adv.get x)) }

/-- STEP_ADVANCE (R266, R493): the target is g + 1. -/
def execStepAdvance (src : CmdSrc) (x : CtxId) (target : Nat) (s : State) : Answer :=
  hlCommand 4 whoHSC src (fun s =>
    let a := s.advOf x
    if a.pending.isSome then reply src 4 1 0 s
    else if target != a.step.toNat + 1 then reply src 4 3 0 s
    else reply src 4 0 0 (s.onAdv x fun a => { a with pending := some (target, src), evald := false })) s

/-- Entry `k` of context `x` holds its value for step `g` (R267). -/
def privReady (a : AdvCtx) (k g : Nat) : Bool := (vget a.armed none (2 * k + g % 2)).any fun v => v.1 == g

/-- The privileged entries that lack their value for step `g` (R266 step 2; TLR_ADV.MISSING). -/
def privMissing (s : State) (x : CtxId) (g : Nat) : List Nat :=
  (List.range 8).filter fun k => !privReady (s.advOf x) k g &&
    allDies.any fun d => (s.die d).descs.any fun y => gdValid y.2 && gdPriv y.2 && gdContext y.2 == x.val && gdPrivIndex y.2 == k

/-- A running strip of context `x` has latched a step before `g` (R266 step 3): a strip latches its step as it launches (R172), so a staged or
pending one has latched none. -/
def olderStrip (s : State) (x : CtxId) (g : Nat) : Bool :=
  allCores.any fun c => (s.sc c).strip.any fun st => hdrContext st.hdr % 8 == x.val && (s.sc c).draw.toNat < g

/-- The descriptors of context `x` in a die's mask. -/
def dieGroups (d : Die) (x : CtxId) : List (Nat × BitVec 512) :=
  ((maskList 4096 d.schedMask.toNat).map fun j => (j, groupDesc d j)).filter fun y => gdContext y.2 == x.val

/-- The entries that the engine of die `d` computes for context `x` and step `g` (R264, R265, R267), each with its descriptor. -/
def evalDie (s : State) (d : Die) (x : CtxId) (g : Nat) : List (Nat × BitVec 256 × BitVec 512) :=
  (dieGroups d x).map fun y =>
    (y.1, schedEntry y.2 g (((vget (s.advOf x).armed none (2 * gdPrivIndex y.2 + g % 2)).map fun v => v.2.toNat).getD 0), y.2)

/-- STEP_ADVANCE_EVALUATE (R266 steps 2 to 4, R436): once the journal, the privileged values and the earlier strips allow it. -/
def execStepAdvanceEvaluate (x : CtxId) (s : State) : Answer :=
  let a := s.advOf x
  match a.pending with
  | none => .next s
  | some (g, _) =>
    let j := vget s.hub.snp SnpCtx.reset x.val
    whenDue (!a.evald && (j.jEntries == 0 || g ≤ j.jStep) && (privMissing s x g).isEmpty && !olderStrip s x a.step.toNat) (fun s =>
      let s := forAll allDies (fun d s =>
        let es := evalDie s (s.die d) x g
        s.onDie d fun k => { k with schedBusy := true, schedCtx := x.val, schedCount := es.length,
                                    tabNext := es ++ k.tabNext.filter fun y => !es.any fun e => e.1 == y.1 }) s
      s.onAdv x fun a => { a with evald := true }) s

/-- Entries of a step table that are not context `x`'s and that no entry of `new` replaces. -/
def otherEntries (x : CtxId) (new old : List (Nat × BitVec 256 × BitVec 512)) : List (Nat × BitVec 256 × BitVec 512) :=
  old.filter fun y => gdContext y.2.2 != x.val && new.all fun z => z.1 != y.1

/-- Context `x`'s entries of a step table. -/
def ctxEntries (x : CtxId) (l : List (Nat × BitVec 256 × BitVec 512)) : List (Nat × BitVec 256 × BitVec 512) :=
  l.filter fun y => gdContext y.2.2 == x.val

/-- The new table of context `x` is kept beside that of the step before; the table before that is discarded, with the entries of groups
that are evaluated no longer (R266 step 5; log entry 123). -/
def turnTables (x : CtxId) (d : Die) : Die :=
  let new := ctxEntries x d.tabNext
  let old := ctxEntries x d.tabCur
  { d with schedBusy := false, tabNext := d.tabNext.filter fun y => gdContext y.2.2 != x.val,
           tabPrev := old ++ otherEntries x old d.tabPrev, tabCur := new ++ otherEntries x new d.tabCur }

/-- The physical stake that TLR_CFG names for a slot of core `c`, 63 for none (R275). -/
def advStake (s : State) (c : CoreId) (slot : Fin 4) : Nat :=
  let k := bitsOf (s.en c).tlrCfg.toNat (8 * slot.val) 6
  if (s.sc c).ctxCfg.getLsbD 0 then (if k < 12 then (vget (s.sc c).stkMap 0 (12 * slot.val + k)).toNat else 63) else k

/-- Each advance stake of context `x` receives 1, as an arrival (R266 step 6). -/
def adviseCores (x : CtxId) (tag : Nat) (s : State) : State :=
  forAll (ctxCores s x.val) (fun c s =>
    match slotOf s c x.val with
    | some k => arriveNow c none 0 (advStake s c k) 1 tag s
    | none => s) s

/-- STEP_ADVANCE_COMMIT (R266 steps 5 and 6, R438): the global step advances, and the open copy window closes. -/
def execStepAdvanceCommit (x : CtxId) (s : State) : Answer :=
  let a := s.advOf x
  match a.pending with
  | none => .next s
  | some (g, src) =>
    whenDue a.evald (fun s =>
      let s := forAll allDies (fun d s => s.onDie d (turnTables x)) s
      let s := s.onAdv x fun a => { a with step := BitVec.ofNat 64 g, pending := none, evald := false }
      let n := vget s.hub.snp SnpCtx.reset x.val
      let n := { n with window := none, snp := n.snp.map fun r => { r with window := 0 } }
      let s := s.onHub fun h => { h with snp := vset h.snp x.val n }
      adviseCores x src.tag s) s

/-- The host or the Headland. -/
def byHost : Writer → Bool
  | .host | .headland => true
  | .manager | .core _ => false

/-- The copy of privileged entry `k`, parity `par` (`i` counts both) is armed with STEP high `hi`, unless it still holds an unconsumed
value for another step (R267, R277). -/
def privArm (x : CtxId) (i : Nat) (hi : Word) (s : State) : State :=
  let a := s.advOf x
  let new := (vget a.privStep 0 i).toNat % 2 ^ 32 + hi.toNat * 2 ^ 32
  if (vget a.armed none i).any (fun v => a.step.toNat < v.1 && v.1 != new) then
    s.onHub fun h => { h with privReject := satAdd 0xFFFFFFFF h.privReject 1 }
  else s.onAdv x fun a => { a with privStep := vset a.privStep i (BitVec.ofNat 64 new),
                                   armed := vset a.armed i (some (new, vget a.privVal 0 i)) }

/-- PRIV_STEP_ARM (R267, R277): a write of STEP high by the host or the Headland. -/
def execPrivStepArm (w : Writer) (x : CtxId) (k : Fin 8) (par : Fin 2) (hi : Word) (s : State) : Answer :=
  .next (if byHost w then privArm x (2 * k.val + par.val) hi s else s)

end Sys2Proof.Machine
end

