-- ==== Sys2Proof/Machine/Xf.lean ====
section
/-! DEFINITION. TQ's transfer commands (R289 to R298) and the trace unit (R300, R306). -/

namespace Sys2Proof.Machine

open Sys2Proof

/-! ### Transfers -/

/-- An end of a transfer, judged from the fields and the handle table (R293, R298). A handle whose REGION names no memory is timed as
an end in the own Plot; its rows are unpopulated. -/
inductive XEnd where
  | own
  | cmn (other : Option Nat)
  | late
  deriving DecidableEq, Repr

def xEnd (c : CoreId) (h : IWord) (remote : Bool) : XEnd :=
  if remote then .late
  else match hRegion h with
  | 1 => if hCore h == c then .own else .late
  | 2 => .cmn (if hDie h == (dieOf c).val then none else some (ringDist (dieOf c).val (hDie h)))
  | 3 => .late
  | _ => .own

def xwPb (w : IWord) : Nat := w.fld 64 6
def xwSrcH (w : IWord) : Nat := w.fld 70 6
/-- Fields of xf.fill (R289). -/
def xfHop (w : IWord) : Nat := w.fld 76 4
def xfHalf (w : IWord) : Nat := w.fld 80 1
def xfAstk (w : IWord) : Nat := w.fld 81 6
def xfAstkN (w : IWord) : Nat := w.fld 87 4
/-- Fields of xf.move (R289). -/
def xmDstH (w : IWord) : Nat := w.fld 76 6
def xmAstk (w : IWord) : Nat := w.fld 82 6
def xmAstkN (w : IWord) : Nat := w.fld 88 4
def xmAhq (w : IWord) : Option Nat := if w.getLsbD 95 then some (w.fld 92 3) else none
/-- Fields of xf.gate and xf.ungate (R289). -/
def xgGroup (w : IWord) : Nat := w.fld 64 4
def xgStk (w : IWord) : Nat := w.fld 68 6

/-- The kind of a fill by its source end (R293). -/
def fillKind : XEnd → XKind × Option Nat
  | .own => (.plotFill, none)
  | .cmn o => (.cmnFill, o)
  | .late => (.inLate, none)

/-- The kind of a move by its ends (R293, R297, R298); `none` for a move that breaks R298. -/
def moveKind (reorder : Nat) (src dst : XEnd) : XKind × Option Nat :=
  match src, dst with
  | .own, .own => (if reorder == 0 then .plotPlot else .reorder, none)
  | .cmn o, .own => (if reorder == 0 then .cmnPlot else .none, o)
  | .own, .cmn o => (if reorder == 0 then .plotCmn else .none, o)
  | .own, .late => (if reorder == 0 then .outPlot else .none, none)
  | .cmn o, .late => (if reorder == 0 then .outCmn else .none, o)
  | .late, .own => (if reorder == 0 then .inLate else .none, none)
  | .late, .cmn _ => (if reorder == 0 then .inLate else .none, none)
  | .cmn _, .cmn _ => (.none, none)
  | .late, .late => (.none, none)

/-- Start cycle of a transfer issued at `u` (R292): after the last access of the earlier transfers on its streams. -/
def Xfer.startAt (x : Xfer) (streams : Vector Nat 8) (u : Nat) : Nat := maxOf (u :: x.streams.map fun st => vget streams 0 st)

/-- The streams after transfer `x` has taken its place on them. -/
def Xfer.occupy (x : Xfer) (streams : Vector Nat 8) : Vector Nat 8 :=
  x.streams.foldl (fun v st => vset v st (x.lastUse st + 1)) streams

/-- Transfer `x` takes its start cycle and its completion cycle, and is issued (R292, R293). -/
def startXfer (c : CoreId) (w : IWord) (x : Xfer) (s : State) : State :=
  let u := (s.sc c).stripCyc
  let x := { x with id := (s.en c).nextId, t0 := u, s := x.startAt (s.en c).streams u }
  let x := { x with comp := x.compCyc }
  let s := s.onE c fun e => { e with xfers := e.xfers ++ [x], nextId := e.nextId + 1, streams := x.occupy e.streams }
  issueWord c .tq w u (u + 1) x.comp true false s

/-- The transfer that word `w` of strip `st` describes, before it has its place on the streams. -/
def xferOf (c : CoreId) (w : IWord) (st : Strip) (err : ReadErr) (s : State) : Xfer :=
  let b := st.entry (xwPb w)
  { id := 0, tag := wTag w, slot := st.slot, kind := .none, t0 := 0, s := 0, srcH := physH (hdrShared st.hdr) st.slot (xwSrcH w), dstH := 0,
    block := b, drill := st.entry (xbDrill b), seed := vget (s.en c).seeds 0 st.slot.val, draw := (s.sc c).draw, offs := [(0, 0)],
    hop := 8, half := 0, astk := 63, astkN := 0, ahq := none, comp := 0, other := none, rd := 0, wr := 0, buf := [], err := err }

/-- A fill (R295). -/
def fillOf (c : CoreId) (w : IWord) (st : Strip) (err : ReadErr) (s : State) : Xfer :=
  let x := xferOf c w st err s
  let k := fillKind (xEnd c (handle s c x.srcH) (xbRsrc x.block))
  { x with kind := k.1, other := k.2, hop := xfHop w % 8, half := xfHalf w, astk := physStk (s.sc c) st (xfAstk w), astkN := xfAstkN w }

/-- A move (R293, R297, R298). -/
def moveOf (c : CoreId) (w : IWord) (st : Strip) (err : ReadErr) (s : State) : Xfer :=
  let x := xferOf c w st err s
  let dstH := physH (hdrShared st.hdr) st.slot (xmDstH w)
  let loop := st.loopOf w
  let k := moveKind (xbReorder x.block) (xEnd c (handle s c x.srcH) (xbRsrc x.block)) (xEnd c (handle s c dstH) (xbRdst x.block))
  { x with kind := k.1, other := k.2, dstH := dstH, offs := (List.range (loopTotal loop)).map fun e => (loopOff loop 0 e, loopOff loop 1 e),
           astk := physStk (s.sc c) st (xmAstk w), astkN := xmAstkN w, ahq := xmAhq w }

def issueFill (c : CoreId) (err : ReadErr) (w : IWord) (st : Strip) (s : State) : State :=
  startXfer c w (fillOf c w st err s) s

/-- XF_FILL (R292, R293, R295): into the hopper half the word names, at its start cycle. -/
def execXfFill (c : CoreId) (t : Nat) (err : ReadErr) (s : State) : Answer := issueCmd c .tq 0x10 t (issueFill c err) s

/-- A move issues; one whose ends break R298 moves no row and leaves an address record with cause 1, after its issue (R300). -/
def issueMove (c : CoreId) (err : ReadErr) (w : IWord) (st : Strip) (s : State) : State :=
  let x := moveOf c w st err s
  let s := startXfer c w x s
  if x.kind == .none then postFault c (addressFault 3 x.tag (slotCtx s c x.slot.val) x.srcH 1 (wrap 32 (x.srcRow 0)) 0) s else s

/-- XF_MOVE (R292, R293, R297, R298). -/
def execXfMove (c : CoreId) (t : Nat) (err : ReadErr) (s : State) : Answer := issueCmd c .tq 0x11 t (issueMove c err) s

/-- A gate command takes its place on stream L and is handed over at s + 1 (R293). -/
def issueGate (c : CoreId) (kind : XKind) (w : IWord) (st : Strip) (s : State) : State :=
  let x := xferOf c w st [] s
  startXfer c w { x with kind := kind, srcH := 0, dstH := xgGroup w, block := 0, astk := physStk (s.sc c) st (xgStk w), astkN := 1 } s

/-- XF_GATE (R121, R293). -/
def execXfGate (c : CoreId) (t : Nat) (s : State) : Answer := issueCmd c .tq 0x12 t (issueGate c .gate) s

/-- XF_UNGATE (R121, R293). -/
def execXfUngate (c : CoreId) (t : Nat) (s : State) : Answer := issueCmd c .tq 0x13 t (issueGate c .ungate) s

/-! ### Trace (R300, R306) -/

/-- TRACE_ROW_WRITE (R90, R300): the oldest 32 records are written as the next row of the ring, at a slot-7 opportunity that no access of a
higher rank takes. A ring of no rows takes none. -/
def execTraceRowWrite (c : CoreId) (t : Nat) (s : State) : Answer :=
  let s := advance c t s
  let k := s.cc c
  let row := traceRow k
  whenDue (32 ≤ k.traceBuf.length && k.traceRows != 0 && free7Now s c 5 row) (fun s =>
    let data : Row := packRow 128 ((k.traceBuf.take 32).map BitVec.toNat)
    let s := (use7 c row s).onCc c fun k => { k with traceBuf := k.traceBuf.drop 32, traceWptr := (k.traceWptr + 1) % 2 ^ 32 }
    if row < 12288 then coreWrite c 4 0 0 0 row (plotAddr c row) data s
    else postFault c (addressFault 4 0 0 0 0 row (rowField s (plotAddr c 0 + 512 * row))) s) s

/-- CORE_TRACE_CFG written: EN going from 0 to 1 clears the write pointer and empties the buffer (R306). -/
def traceCfgWrite (c : CoreId) (v : Word) (s : State) : State :=
  s.onCc c fun k =>
    let k := if v.getLsbD 0 && !k.traceCfg.getLsbD 0 then { k with traceWptr := 0, traceBuf := [] } else k
    { k with traceCfg := v.setWidth 9 }

/-- TRACE_ENABLE (R306). -/
def execTraceEnable (c : CoreId) (v : Word) (s : State) : Answer := .next (traceCfgWrite c v s)

/-- TRACE_DROP_CLEAR (R306). -/
def execTraceDropClear (c : CoreId) (s : State) : Answer := .next (s.onCc c fun k => { k with traceDrop := 0 })

end Sys2Proof.Machine
end

