-- ==== Sys2Proof/Machine/LoadPlan.lean ====
section
/-! DEFINITION. The static plan of a strip as the load check sees it: issue, occupancy and completion cycles of every instruction word
(R37, R38, R41, R292, R293), and the activity model (R301). -/

namespace Sys2Proof.Machine

open Sys2Proof

/-- What an instruction word does, for the load check. -/
inductive PlanRun where
  | neutral
  | plg (r : PlgRun)
  | hrw (r : HrwRun)
  | bload (q : Nat)
  | tlr (r : TlrRun)
  | root
  | xf (x : Xfer)
  | unknown
  deriving DecidableEq, Repr

/-- A planned instruction word. -/
structure Plan where
  w     : IWord
  issue : Nat
  occ   : Nat          -- first cycle after its occupancy
  comp  : Nat
  after : Bool         -- it follows a wait
  prev  : Option Nat   -- occupancy end of the word before it
  run   : PlanRun
  deriving DecidableEq, Repr

/-- The state of planning a queue: base and occupancy end of the last word, whether it is a wait, the Plough's last activity and the
streams, and the words planned, newest first. -/
structure PlanAcc where
  base    : Nat
  occ     : Option Nat
  wait    : Bool
  active  : Option Nat
  streams : Vector Nat 8
  done    : List Plan
  deriving DecidableEq, Repr

/-- The run, occupancy end and completion of word `w` issued at `u`. -/
def planWord (s : State) (c : CoreId) (st : Strip) (q : Queue) (a : PlanAcc) (w : IWord) (u : Nat) : PlanRun × Nat × Nat :=
  let op := wOp w
  let xf := fun (x : Xfer) =>
    let x := { x with s := x.startAt a.streams u }
    let x := { x with comp := x.compCyc }
    (PlanRun.xf x, u + 1, x.comp)
  if op == 0 then (.neutral, u + wWaitN w, u + wWaitN w - 1)
  else if op ≤ 4 then (.neutral, u + 1, u)
  else match q with
  | .mq =>
    if 0x10 ≤ op && op ≤ 0x16 then
      let idle := match a.active with
        | none => 64 + u
        | some v => u - v
      let r := plgOf s c op w st u (plgRamp st idle)
      (.plg r, r.occEnd, r.comp)
    else (.unknown, u + 1, u)
  | .vq =>
    if op == 0x10 then
      let r := hrwOf s c (none, false) [] w st u
      (.hrw r, u + r.execs * r.beats, r.comp)
    else if op == 0x11 then (.bload (w.fld 94 5 + 1), u + w.fld 94 5 + 1, u + w.fld 94 5 + 1)
    else (.unknown, u + 1, u)
  | .uq =>
    if op == 0x10 then
      let r := tlrOf s c [] w st u
      (.tlr r, u + r.execs * r.rows, r.comp)
    else if op == 0x11 then (.root, u + 1, u + 8)
    else (.unknown, u + 1, u)
  | .tq =>
    if op == 0x10 then xf (fillOf c w st [] s)
    else if op == 0x11 then xf (moveOf c w st [] s)
    else if op == 0x12 || op == 0x13 then xf { xferOf c w st [] s with kind := .gate }
    else (.unknown, u + 1, u)

/-- One word is planned (R37, R41). -/
def planStep (s : State) (c : CoreId) (st : Strip) (q : Queue) (a : PlanAcc) (w : IWord) : PlanAcc :=
  let u := a.base + wDelay w
  let p := planWord s c st q a w u
  { base := if wIsWait w then p.2.1 else u, occ := some p.2.1, wait := wIsWait w,
    active := match p.1 with
      | .plg r => some (r.comp + 1)
      | _ => a.active,
    streams := match p.1 with
      | .xf x => x.occupy a.streams
      | _ => a.streams,
    done := ⟨w, u, p.2.1, p.2.2, a.wait, a.occ, p.1⟩ :: a.done }

/-- The plan of queue `q`, in list order. -/
def planQueue (s : State) (c : CoreId) (st : Strip) (q : Queue) : List Plan :=
  ((st.list q).foldl (planStep s c st q) ⟨0, none, false, none, Vector.replicate 8 0, []⟩).done.reverse

/-! ### The activity model (R301) -/

/-- Activity of one unit over schedule cycles `lo` to `hi`: the unit is an array of the Plough (0 to 3), the Harrow (4), the Tiller
(5), a fill port (6 and 7) or other transfers (8). Activities of one unit do not add. -/
structure Act where
  lo   : Nat
  hi   : Nat
  unit : Nat
  au   : Nat
  deriving DecidableEq, Repr

/-- The arrays of a Plough instruction, over `lo` to `hi`. -/
def arrayActs (r : PlgRun) (lo hi au : Nat) : List Act := (maskList 4 (pbArrays r.block)).map fun a => ⟨lo, hi, a, au⟩

/-- Activity of the Plough's instructions in order: full in feed, ramp and pass filler, 12 in skew and drain, and gap filler at the
activity of the instruction that ended (R74). -/
def plgActs (filler : Bool) : List PlgRun → List Act
  | [] => []
  | r :: rs =>
    let au := classAu r.cls
    arrayActs r r.t0 (r.occEnd - 1) au ++ arrayActs r r.occEnd r.comp 12 ++
      (match rs with
        | n :: _ => if filler && r.comp + 1 < n.t0 && n.t0 - (r.comp + 1) < 64 then arrayActs r (r.comp + 1) (n.t0 - 1) au else []
        | [] => []) ++ plgActs filler rs

/-- Activity of a planned word, the Plough's apart: the Tiller's in its feed windows and in its writes. -/
def planActs (p : Plan) : List Act :=
  match p.run with
  | .hrw r => [⟨p.issue, p.comp, 4, 8 + 4 * chStages r.chain⟩]
  | .bload q => [⟨p.issue, p.issue + q - 1, 4, 4⟩]
  | .tlr r => [⟨p.issue, p.occ - 1, 5, 24⟩, ⟨r.writeCyc 0 0, p.comp, 5, 24⟩]
  | .root => [⟨p.comp, p.comp, 5, 24⟩]
  | .xf x =>
    if x.kind.isFill then x.fillCycs.map fun w => ⟨w.1, w.1, if hopPortB x.hop then 7 else 6, 6⟩
    else [⟨x.s, p.comp, 8, 4⟩]
  | .neutral | .plg _ | .unknown => []

/-- All activity of a strip. -/
def stripActs (s : State) (c : CoreId) (st : Strip) : List Act :=
  let plans := [Queue.mq, .vq, .uq, .tq].flatMap (planQueue s c st)
  plgActs (!hdrFillerOff st.hdr) (plans.filterMap fun p => match p.run with
    | .plg r => some r
    | _ => none) ++ plans.flatMap planActs

/-- Activity in schedule cycle `u`: the core base and each unit's largest. -/
def activityAt (acts : List Act) (u : Nat) : Nat :=
  16 + ((List.range 9).map fun n => maxOf ((acts.filter fun a => a.unit == n && a.lo ≤ u && u ≤ a.hi).map (·.au))).sum

/-- Peak activity: it can only rise where an activity begins. -/
def peakActivity (s : State) (c : CoreId) (st : Strip) : Nat :=
  let acts := stripActs s c st
  maxOf (16 :: acts.map fun a => activityAt acts a.lo)

end Sys2Proof.Machine
end

