-- ==== Sys2Proof/Machine/LoadCheck.lean ====
section
/-! DEFINITION. The Headland's check of a translated image (R76, R213, R243, R274, R279 to R283, R291, R298, R302 to R304): one
function for each code of R304, each giving the first failure in reading order. -/

namespace Sys2Proof.Machine

open Sys2Proof

/-- A refusal: code, core, strip index, word index and queue (R304, R307). -/
structure LoadFail where
  code  : Nat
  core  : Nat := 0
  strip : Nat := 0
  word  : Nat := 0
  queue : Nat := 0
  deriving DecidableEq, Repr

/-- A region of the manifest. -/
structure Region where
  core   : Nat
  first  : Nat
  rows   : Nat
  digest : Nat
  deriving DecidableEq, Repr

/-- A strip of a region, as staging would copy it. -/
structure LStrip where
  core : CoreId
  idx  : Nat
  reg  : Region
  st   : Strip
  deriving DecidableEq, Repr

/-- The first failure of a list of checks. -/
def firstFail {α : Type} (xs : List α) (f : α → Option LoadFail) : Option LoadFail := xs.findSome? f

/-- A check at a place: fails unless `ok`. -/
def need (ok : Bool) (f : LoadFail) : Option LoadFail := if ok then none else some f

/-- Place of word `i` of queue `q` of strip `l`. -/
def LStrip.at_ (l : LStrip) (code i : Nat) (q : Queue) : LoadFail := ⟨code, l.core.val, l.idx, i, qIdx q⟩
def LStrip.fail (l : LStrip) (code : Nat) : LoadFail := ⟨code, l.core.val, l.idx, 0, 0⟩

def queues : List Queue := [.mq, .vq, .uq, .tq]

/-! ### The manifest (R302) -/

def mfEntries (h : Row) : Nat := h.field 0x08 2
def mfPhases (h : Row) : Nat := h.field 0x0A 2
def mfStamp (h : Row) : Nat := h.field 0x10 32

/-- The manifest's rows from its header's module address on: header, entry rows, phase rows. -/
def manifestRows (s : State) (addr : Nat) : List Row :=
  let h := readRow s (rowBase addr)
  h :: readRows s (rowBase addr + 512) (ceilDiv (mfEntries h) 8 + ceilDiv (mfPhases h) 32)

/-- Entry `i` of a manifest, 64 bytes. -/
def mfEntry (rows : List Row) (i : Nat) : BitVec 512 := BitVec.ofNat 512 ((rows.getD (1 + i / 8) 0).field (64 * (i % 8)) 64)

def regionOf (e : BitVec 512) : Region := ⟨bfld e 0 1, bfld e 4 4, bfld e 8 4, bfld e 32 32⟩

/-- The regions that a manifest names. -/
def manifestRegions (rows : List Row) : List Region :=
  (List.range (mfEntries (rows.headD 0))).map fun i => regionOf (mfEntry rows i)

/-- Credit sum of die `d` in phase `p` (R302). -/
def mfPhase (rows : List Row) (p d : Nat) : Nat :=
  (rows.getD (1 + ceilDiv (mfEntries (rows.headD 0)) 8 + p / 32) 0).field (16 * (p % 32) + 2 * d) 2

/-- Code 2: format, counts and reserved fields; the manifest names the command's context. -/
def checkManifest (x : CtxId) (rows : List Row) : Option LoadFail :=
  let h := rows.headD 0
  (need (h.field 0 4 == 0x494D414E && h.field 4 2 == 1 && h.field 6 1 == x.val && h.field 7 1 == 0 &&
    1 ≤ mfEntries h && mfEntries h ≤ 512 && 1 ≤ mfPhases h && mfPhases h ≤ 1024 && h.field 0x0C 4 == 0 && h.field 0x30 464 == 0)
    ⟨2, 0, 0, 0, 0⟩).or
  (firstFail ((List.range (mfEntries h)).map (mfEntry rows)) fun e =>
    need (bfld e 0 1 < 128 && bfld e 1 3 == 0 && bfld e 12 20 == 0) ⟨2, bfld e 0 1 % 128, 0, 0, 0⟩)

/-! ### Regions and strips -/

/-- The row of a region's core: zeros outside Plot. -/
def plotRow (s : State) (c : CoreId) (r : Nat) : Row := if r < 12288 then readRow s (plotAddr c r) else 0

def Region.c (r : Region) : CoreId := coreNo r.core

/-- The directory row of a region is well formed (R282). -/
def dirOk (d : Row) : Bool := d.field 0 4 == 0x44495254 && 1 ≤ d.field 4 2 && d.field 4 2 ≤ 126 && d.field 6 2 == 0

/-- Header rows that a directory lists. -/
def dirHeaders (d : Row) : List Nat := if dirOk d then (List.range (d.field 4 2)).map fun i => d.field (8 + 4 * i) 4 else []

/-- The context slot that the region belongs to on its core; slot 0 where there is none. -/
def regionSlot (s : State) (x : CtxId) (r : Region) : Fin 4 := (slotOf s r.c x.val).getD 0

/-- The strips of a region in directory order. -/
def regionStrips (s : State) (x : CtxId) (r : Region) : List LStrip :=
  (dirHeaders (plotRow s r.c r.first)).zipIdx.map fun y => ⟨r.c, y.2, r, plotStrip s r.c y.1 (regionSlot s x r)⟩

/-- Regions by increasing core, entry order within a core. -/
def byCore (rs : List Region) : List Region := (List.range 128).flatMap fun c => rs.filter fun r => r.core == c

/-! ### Code 3: the stamp (R279 to R281) -/

/-- A stamp with CHAIN_COUNT and AREA_ROWS as 0. -/
def stampBase (n : Nat) : Nat := setBits (setBits n 56 8 0) 224 16 0

def stStepMask (n : Nat) : Nat := bitsOf n 40 8
def stLog2w (n : Nat) : Nat := bitsOf n 49 4

/-- The stamp fits the module: reserved bits, GRADE, FUSE_MAP, STEP_MASK with step 7 and with the present step of each die that holds
a region, TOOL. -/
def stampOk (s : State) (rs : List Region) (n : Nat) : Bool :=
  stampBase n == n && bitsOf n 53 3 == 0 && bitsOf n 240 16 == 0 && stLog2w n ≤ 10 &&
  bitsOf n 32 8 == s.hub.fuses.grade &&
  (List.range 8).all (fun d => bitsOf n (64 + 8 * d) 8 == vget s.hub.fuses.map 0xFF d) &&
  bitOf (stStepMask n) 7 && rs.all (fun r => bitOf (stStepMask n) (s.die (dieOf r.c)).stepCur) && Config.toolAccepted (bitsOf n 0 32)

def checkStamp (s : State) (rows : List Row) (rs : List Region) (ls : List LStrip) : Option LoadFail :=
  let n := mfStamp (rows.headD 0)
  (need (stampOk s rs n) ⟨3, 0, 0, 0, 0⟩).or (firstFail ls fun l => need (stampBase (hdrStamp l.st.hdr) == n) (l.fail 3))

/-! ### Code 4: digests -/

def checkDigest (s : State) (rs : List Region) : Option LoadFail :=
  firstFail rs fun r =>
    need (digestNat (sha256 (rowBytes ((List.range r.rows).map fun i => plotRow s r.c (r.first + i)))) == r.digest) ⟨4, r.core, 0, 0, 0⟩

/-! ### Code 5: directories (R282) -/

/-- Runs of rows that a strip names: first row and rows. -/
def stripSpans (st : Strip) : List (Nat × Nat) :=
  (st.row, 1) :: ((List.range 4).filterMap fun q =>
      if hdrListLen st.hdr q == 0 then none else some (hdrListRow st.hdr q, ceilDiv (hdrListLen st.hdr q) 32)) ++
    (if hdrAreaRows st.hdr == 0 then [] else [(hdrLoopRow st.hdr, hdrAreaRows st.hdr)])

def checkDirectory (s : State) (x : CtxId) (rs : List Region) : Option LoadFail :=
  firstFail rs fun r =>
    let c := r.c
    let fused := fusedOff s c
    (need (dirOk (plotRow s c r.first) && (fused || (slotOf s c x.val).isSome) && (rs.filter fun y => y.core == r.core).length == 1)
      ⟨5, r.core, 0, 0, 0⟩).or
    (firstFail (regionStrips s x r) fun l =>
      need (((dirHeaders (plotRow s c r.first)).take l.idx).all (· != l.st.row) && hdrContext l.st.hdr == x.val &&
        (fused || hdrShared l.st.hdr == (s.sc c).ctxCfg.getLsbD 0) &&
        (stripSpans l.st).all fun y => r.first ≤ y.1 && y.1 + y.2 ≤ r.first + r.rows) (l.fail 5))

/-! ### Code 6: headers (R27, R76, R283) -/

def headerOk (h : Row) : Bool :=
  let top := if hdrShared h then 12 else 48
  h.field 0 4 == 0x53545250 && h.field 4 2 == 1 && h.field 6 2 < 16 && 1 ≤ hdrLength h && hdrLength h ≤ 2 ^ 20 &&
  hdrClass h ≤ 16 && hdrLoopCount h ≤ 63 && h.field 0x17 1 == 0 && hdrStkClear h < 2 ^ top && hdrStkCarry h < 2 ^ top &&
  h.field 0x2A 6 == 0 && (List.range 4).all (fun q => hdrListLen h q ≤ 1024 && h.field (0x38 + 16 * q) 8 == 0) &&
  h.field 0x74 364 == 0 && hdrChainCount h ≤ 63 &&
  hdrAreaRows h == ceilDiv (hdrLoopCount h) 8 + ceilDiv (hdrChainCount h) 2 && (!hdrDeadlineEn h || hdrLength h ≤ hdrDeadline h)

def checkHeader (ls : List LStrip) : Option LoadFail := firstFail ls fun l => need (headerOk l.st.hdr) (l.fail 6)

/-! ### Code 7: encodings (R36, R187, R218, R249, R284 to R291) -/

/-- Kinds of entry (R284). -/
inductive EntryKind where
  | loop | drill | plough | harrow | tiller | transfer
  deriving DecidableEq, Repr

/-- First reserved bit of an instruction word; none for a reserved opcode. -/
def wordTop (q : Queue) (op : Nat) : Option Nat :=
  if op == 0 then some 84 else if op ≤ 2 then some 78 else if op ≤ 4 then some 73
  else match q with
  | .mq => if 0x10 ≤ op && op ≤ 0x16 then some 104 else none
  | .vq => if op == 0x10 then some 116 else if op == 0x11 then some 99 else none
  | .uq => if op == 0x10 then some 125 else if op == 0x11 then some 101 else none
  | .tq => if op == 0x10 then some 91 else if op == 0x11 then some 96 else if op == 0x12 || op == 0x13 then some 74 else none

/-- Reserved bits of an entry used as `k` are 0. -/
def entryOk (k : EntryKind) (b : BitVec 512) : Bool :=
  match k with
  | .loop => true
  | .drill => bfld b 0x38 1 < 2 && bfld b 0x39 7 == 0
  | .plough => bfld b 0x05 1 < 16 && bfld b 0x07 1 < 8 && bfld b 0x0A 6 == 0 && bfld b 0x18 40 == 0
  | .harrow => bfld b 0x0C 52 == 0
  | .tiller => bfld b 0x0C 52 == 0
  | .transfer => bfld b 0x10 1 < 8 && bfld b 0x13 1 < 32 && xbReorder b != 3 && bfld b 0x1C 36 == 0

/-- Reserved bits of a chain descriptor and its stage words are 0 (R220, R221). -/
def chainOk (d : BitVec 2048) : Bool :=
  chFld d 0x07 1 < 8 && chFld d 0x13 45 == 0 && chFld d 0xC0 64 == 0 &&
    (List.range 8).all fun i => (chStage d i).fld 29 3 == 0 && (chStage d i).fld 62 2 == 0

/-- An entry number with its kind, none for 0. -/
def named (j : Nat) (k : EntryKind) : List (Nat × EntryKind) := if j == 0 then [] else [(j, k)]

/-- The Drill descriptors that a chain descriptor names. -/
def chainEntries (d : BitVec 2048) : List (Nat × EntryKind) :=
  named (chWdrill d) .drill ++ (List.range 8).flatMap fun i => named (stDrill (chStage d i)) .drill

/-- Entries that a word names, with their kinds: DRILL 0 and LOOP 0 name none. -/
def wordEntries (q : Queue) (w : IWord) (st : Strip) : List (Nat × EntryKind) :=
  let op := wOp w
  let lp := if wLoop w ≤ hdrLoopCount st.hdr then named (wLoop w) .loop else []
  lp ++ (match q with
  | .mq => if 0x10 ≤ op then (pwPb w, .plough) :: named (pbDrill (st.entry (pwPb w))) .drill else []
  | .vq => if op == 0x10 then (hwPb w, .harrow) :: chainEntries (st.chain (hwChain w)) else []
  | .uq => if op == 0x10 then (twPb w, .tiller) :: named (bfld (st.entry (twPb w)) 0x0B 1) .drill else []
  | .tq => if op == 0x10 || op == 0x11 then (xwPb w, .transfer) :: named (xbDrill (st.entry (xwPb w))) .drill else [])

/-- An entry number lies within the table, and its entry's reserved bits are 0. -/
def entryFits (st : Strip) (e : Nat × EntryKind) : Bool := 1 ≤ e.1 && e.1 ≤ hdrLoopCount st.hdr && entryOk e.2 (st.entry e.1)

/-- No entry is named as two kinds. -/
def kindsAgree (old new : List (Nat × EntryKind)) : Bool := new.all fun e => (old ++ new).all fun k => k.1 != e.1 || k.2 == e.2

/-- The word's own encoding: opcode, reserved bits, handles of a shared strip, CHAIN, entry numbers and reserved bits of entries. -/
def wordOk (q : Queue) (w : IWord) (st : Strip) : Bool :=
  match wordTop q (wOp w) with
  | none => false
  | some top =>
    w.fld 60 4 == 0 && w.toNat < 2 ^ top && (!hdrShared st.hdr || (wordHandles q w).all (· < 16)) &&
    (!(q == .vq && wOp w == 0x10) || (1 ≤ hwChain w && hwChain w ≤ hdrChainCount st.hdr && chainOk (st.chain (hwChain w)))) &&
    (!(q == .tq && wOp w == 0x10) || xfHop w < 8) &&
    (wordEntries q w st).all (entryFits st)

/-- The words of a strip in reading order: queue, index, word. -/
def stripWords (st : Strip) : List (Queue × Nat × IWord) :=
  queues.flatMap fun q => (st.list q).zipIdx.map fun y => (q, y.2, y.1)

/-- The descriptors of a strip's chain table (R283). -/
def stripChains (st : Strip) : List (BitVec 2048) := (List.range (hdrChainCount st.hdr)).map fun i => st.chain (i + 1)

/-- The chain table against the kinds that the words gave the entries: descriptors that no word names are checked as well. They have no
place in the reading order of R304: they come after the strip's words, at VQ's word 0 (DESIGN CHOICE, log entry 44). -/
def chainsFrom (l : LStrip) (kinds : List (Nat × EntryKind)) : List (BitVec 2048) → Option LoadFail
  | [] => none
  | d :: rest =>
    let es := chainEntries d
    if chainOk d && es.all (entryFits l.st) && kindsAgree kinds es then chainsFrom l (es ++ kinds) rest else some (l.at_ 7 0 .vq)

/-- The words of a strip against the kinds that earlier words gave the entries, then its chain table. -/
def encodingFrom (l : LStrip) (kinds : List (Nat × EntryKind)) : List (Queue × Nat × IWord) → Option LoadFail
  | [] => chainsFrom l kinds (stripChains l.st)
  | (q, i, w) :: rest =>
    let es := wordEntries q w l.st
    if wordOk q w l.st && kindsAgree kinds es then encodingFrom l (es ++ kinds) rest else some (l.at_ 7 i q)

def checkEncoding (ls : List LStrip) : Option LoadFail := firstFail ls fun l => encodingFrom l [] (stripWords l.st)

/-! ### Code 8: timing (R37, R38, R41, R35, R292, R293, R296) -/

/-- Rows of a hopper half. -/
def halfRows (hop : Nat) : Nat :=
  match hop with
  | 0 => 64 | 1 => 256 | 2 => 4 | 3 => 16 | 4 => 128 | 5 => 64 | 6 => 2 | _ => 1

/-- A fill names no loop and stays within its halves (R296). -/
def fillInside (w : IWord) (x : Xfer) : Bool :=
  wLoop w == 0 &&
  (if x.conv then
    x.fillWrites.all fun f => if f.scale then xbScaleOff x.block + f.idx < halfRows (if x.hop == 0 then 2 else 3)
      else xbDst x.block + f.idx < halfRows x.hop
  else xbDst x.block + x.total ≤ halfRows x.hop)

/-- Two scheduled fills write through one port in one cycle (R296). -/
def fillsClash (x y : Xfer) : Bool :=
  hopPortB x.hop == hopPortB y.hop && x.fillCycs.any fun f => y.fillCycs.any fun g => f.1 == g.1

/-- A scheduled fill writes two rows in one cycle (R296). -/
def ownClash (x : Xfer) : Bool := (x.fillCycs.map (·.1)).eraseDups.length != x.fillCycs.length

/-- The scheduled fills of a plan. -/
def planFills (ps : List Plan) : List Xfer :=
  ps.filterMap fun p => match p.run with
    | .xf x => if x.kind.isFill then some x else none
    | _ => none

def timingOk (len i : Nat) (before : List Plan) (p : Plan) : Bool :=
  (i == 0 || p.after || 1 ≤ wDelay p.w) && (p.prev.all fun o => o ≤ p.issue) && p.comp < len &&
  (match p.run with
    | .xf x => x.hop == 8 || (fillInside p.w x && (!x.kind.isFill || (!ownClash x && (planFills before).all fun y => !fillsClash y x)))
    | _ => true)

def checkTiming (s : State) (ls : List LStrip) : Option LoadFail :=
  firstFail ls fun l => firstFail queues fun q =>
    let ps := planQueue s l.core l.st q
    firstFail ps.zipIdx fun y => need (timingOk (hdrLength l.st.hdr) y.2 (ps.take y.2) y.1) (l.at_ 8 y.2 q)

/-! ### Code 9: the units (R76, R213, R243, R274, R298) -/

/-- A stake field with its amount: 63 for none, else a stake of the strip and an amount of 1 or more. -/
def stakeOk (st : Strip) (k n : Nat) : Bool := k == 63 || (k < (if hdrShared st.hdr then 12 else 48) && 1 ≤ n)

/-- The stake of a transfer's word: ASTK of xf.fill and xf.move, and the stake of xf.gate and xf.ungate; 63 elsewhere. -/
def xfStake (w : IWord) : Nat :=
  match wOp w with
  | 0x10 => xfAstk w
  | 0x11 => xmAstk w
  | 0x12 | 0x13 => xgStk w
  | _ => 63

/-- R76's stake and loop lines: CSTK_N is 1 to 15 also where CSTK names no stake. -/
def commonOk (q : Queue) (w : IWord) (st : Strip) : Bool :=
  stakeOk st (wCstk w) (wCstkN w) && 1 ≤ wCstkN w && wLoop w ≤ hdrLoopCount st.hdr &&
    (!(wOp w == 1 || wOp w == 2) || (wStk w != 63 && stakeOk st (wStk w) (wStkN w))) && (q != .tq || stakeOk st (xfStake w) 1)

/-- The opcode is one that the class allows (R189). -/
def classAllows (k : PClass) (op : Nat) : Bool :=
  match k with
  | .i8 | .f16 => 0x10 ≤ op && op ≤ 0x16 && op != 0x15
  | .i4 => op == 0x10 || op == 0x11 || op == 0x12
  | .f8 => op == 0x10 || op == 0x11 || op == 0x12 || op == 0x16
  | .mx | .mx4 | .f32 | .sl => op == 0x10
  | .b8 => op == 0x15

/-- KC is at most Kc_max (R192). -/
def depthOk (b : BitVec 512) (scaled : Bool) : Bool :=
  let kc := pbKc b
  let ma := foldMa (pbFold b)
  let nb := foldNb (pbFold b)
  kc * ma * hopBits (pbFmtA b) ≤ 262144 && kc * nb * hopBits (pbFmtB b) ≤ 1048576 &&
    (!scaled || (kc * ma ≤ 65536 && kc * nb ≤ 262144))

/-- The output format and W1 (R205). -/
def outputOk (int : Bool) (b : BitVec 512) (w1 : Bool) : Bool :=
  let f := pbOfmt b
  if int then (f == 0x0F || f == 0x10 || f == 0 || f == 1 || f == 3 || f == 4) && (w1 == (f == 0x0F)) && ((f != 0x0F && f != 0x10) || pbDshift b == 0)
  else (f ≤ 4 || f == 8 || f == 9 || f == 0x0C) && w1 == isMx f

/-- R213: the strides of chunk levels (R196), and STRIDE1 for MX outputs (R208), are 0 at every level, used or not. -/
def ploughOk (w : IWord) (st : Strip) (r : PlgRun) : Bool :=
  let b := r.block
  let used := ((List.range 4).filter fun l => loopCnt r.loop l != 1).length
  match r.cls with
  | none => false
  | some k =>
    classAllows k r.op && pbFold b ≤ 2 && pbArrays b != 0 && depthOk b r.scaled && pbKlevels b ≤ used &&
    (List.range (pbKlevels b)).all (fun l => loopStride r.loop l 0 == 0 && loopStride r.loop l 1 == 0 &&
      (pbDrill b == 0 || ddStride r.drill l == 0)) &&
    (!isMx (pbOfmt b) || (List.range 4).all fun l => loopStride r.loop l 1 == 0) &&
    outputOk (accInt r.op r.cls) b (pwW1En w) && pbRmode b ≤ 2 && (pbRmode b != 2 || (pbFold b == 0 && pbDrill b != 0)) &&
    stakeOk st (pwFstk w) (pwFstkN w) && stakeOk st (pwRstk w) (pwRstkN w)

/-- Source formats that a lane type permits (R217). -/
def laneReads (lane f : Nat) : Bool :=
  match lane with
  | 0x0E => f == 0x0E || f ≤ 6 || f == 0x10 || f == 0x0F
  | 0x00 => f ≤ 6
  | 0x01 => f == 1 || (3 ≤ f && f ≤ 6)
  | 0x02 => 2 ≤ f && f ≤ 6
  | 0x10 => f == 0x10 || f == 5 || f == 6
  | 0x05 => f == 5
  | _ => false

/-- CVT targets of a lane type (R232). -/
def laneCvt (lane f : Nat) : Bool :=
  match lane with
  | 0x0E => f ≤ 5 || f == 0x10
  | 0x00 => 1 ≤ f && f ≤ 5
  | 0x01 | 0x02 => 3 ≤ f && f ≤ 5
  | 0x10 => f == 5
  | _ => false

def laneFp (lane : Nat) : Bool := lane == 0x0E || lane ≤ 2
def lane32 (lane : Nat) : Bool := lane ≤ 2

/-- The stage operation is in R229 and permitted for the lane type. -/
def opAllowed (lane op : Nat) : Bool :=
  if op ≤ 0x0A then true
  else if 0x10 ≤ op && op ≤ 0x15 then lane32 lane
  else if op == 0x18 then lane != 0x05
  else if op == 0x19 || op == 0x1A || op == 0x1D then laneFp lane
  else if op == 0x1B || op == 0x1E || op == 0x1F then lane == 0 || lane == 0x0E
  else op == 0x1C || (0x30 ≤ op && op ≤ 0x37)

/-- Stage `i` of a chain (R222, R229, R232 to R234, R239). -/
def stageOk (d : BitVec 2048) (i : Nat) : Bool :=
  let w := chStage d i
  let op := stOp w
  let lane := chLane d
  let n := chN d
  let srcs := [stSrc w 0, stSrc w 1, stSrc w 2]
  opAllowed lane op && srcs.all (· != 7) && (chYmode d != 0 || srcs.all (· != 2)) && (chZq d != 0 || srcs.all (· != 3)) &&
  ((List.range i).any (fun j => stSave (chStage d j)) || srcs.all (· != 4)) &&
  (!(0x30 ≤ op) || i + 1 == chStages d) &&
  (op != 0x18 || (laneCvt lane (stFmt w) && stRmode w ≤ 2 && (stRmode w != 2 || stDrill w != 0))) &&
  (op != 0x1B || stFmt w ≤ 0x12) &&
  (op != 0x1C || (stParam w ≤ 3 && (if stParam w == 3 then stP w < 64 && 2 ^ stP w ≤ n else stP w < n))) &&
  (!(op == 0x1D || op == 0x1E || op == 0x1F) || stDrill w != 0) &&
  (op != 0x1F || n * 32 / laneBits lane ≤ 128)

/-- R243 for a chain descriptor, whether an instruction names it or not. `log2w` is the stamp's. YFMT and WFMT may name no format (R220). -/
def chainDescOk (log2w : Nat) (d : BitVec 2048) : Bool :=
  let lane := chLane d
  let wfmt := chWfmt d
  let canon := chRed d == 2 || chRed d == 5 || chSummary d == some 1 || chSummary d == some 7
  let intLane := lane == 0x10 || lane == 0x05
  let sumRed := chRed d == 1 || chRed d == 2 || chRed d == 5
  1 ≤ chStages d && chStages d ≤ 8 && (laneFp lane || intLane) && laneReads lane (chXfmt d) && chYmode d ≤ 2 &&
  (if chYmode d == 0 then chYfmt d == 0xFF || laneReads lane (chYfmt d) else laneReads lane (chYfmt d)) &&
  (wfmt == 0xFF || wfmt == 0x0E || wfmt ≤ 5 || wfmt == 0x10 || (chRed d != 0 && sumRed && intLane && wfmt == 0x0F)) &&
  chRed d ≤ 5 && chWconv d % 4 ≤ 2 && (chWconv d % 4 != 2 || chWdrill d != 0) && chLog2w d ≤ 10 &&
  (List.range (chStages d)).all (stageOk d) && 1 ≤ chSeg d && 1 ≤ chValid d && chValid d ≤ chSeg d * chN d &&
  chZq d ≤ 32 && chZq d * chN d * laneBits lane ≤ 131072 &&
  (!canon || chLog2w d == log2w) && (chRed d != 5 || chValid d == 2 ^ chLog2w d)

/-- R243 for one chain instruction. -/
def chainInstOk (log2w : Nat) (r : HrwRun) : Bool :=
  let d := r.chain
  let b := r.beats
  let divs := fun g => g != 0 && b % g == 0
  chainDescOk log2w d && (chYmode d == 0 || hwYen r.word) && (!hwWen r.word || chWfmt d != 0xFF) &&
  divs (chSeg d) && divs (chG d (chXfmt d)) && (chYmode d != 1 || divs (chG d (chYfmt d))) &&
  (!hwWen r.word || chRed d != 0 || divs (chG d (chWfmt d))) &&
  (chSummary d != some 7 || r.execs * (b / chSeg d) * chValid d == 2 ^ chLog2w d)

/-- R274 for one tlr.upd. In mode 2, which reads no gradient, the multiples of ROWS that GFMT needs are not asked for: R250 does not say
(DESIGN CHOICE, log entry 121). -/
def updOk (s : State) (l : LStrip) (w : IWord) (r : TlrRun) (before : List IWord) : Bool :=
  let x := hdrContext l.st.hdr
  let jnl := (vget s.hub.snp SnpCtx.reset x).jEntries != 0
  r.mode ≤ 2 && bfld r.block 0x09 1 ≤ 1 && (r.mrnd == 0 || (r.mrnd == 2 && bfld r.block 0x0B 1 != 0)) &&
  (r.mode == 2 || (if r.gradBf16 then r.rows % 4 == 0 else r.rows % 2 == 0)) &&
  (r.mode == 0 || (r.emblen ≤ 128 && r.rows % r.emblen == 0 && twW1En w)) &&
  stakeOk l.st (twFstk w) (twFstkN w) && stakeOk l.st (twRstk w) (twRstkN w) &&
  (s.die (dieOf l.core)).schedMask.getLsbD (twGroup w) && gdContext (groupDesc (s.die (dieOf l.core)) (twGroup w)) == x &&
  (!jnl || before.any fun y => wOp y == 2)

/-- The formats of a transfer: no reserved code (R130), no reserved RMODE (R143), and for a fill that converts, a source layout that R295
accepts and no INT48 target (R147). -/
def xferFmtOk (x : Xfer) : Bool :=
  let f := xbSfmt x.block
  let h := xbHfmt x.block
  f ≤ 0x12 && h ≤ 0x12 && xbRmode x.block ≤ 2 && (!x.conv || ((xbRecords x.block || !isMx f) && h != 0x0F))

/-- A transfer's ends and formats (R298): a handle whose REGION is 0 is refused. -/
def xferOk (s : State) (l : LStrip) (w : IWord) (x : Xfer) : Bool :=
  let inUse := fun h => hRegion (handle s l.core h) != 0
  xferFmtOk x && inUse x.srcH && (wOp w == 0x10 || (inUse x.dstH && x.kind != .none && xbSfmt x.block == xbHfmt x.block))

/-- The stream of a Drill descriptor has no reserved purpose code (R170; log entry 44). -/
def purposeOk (b : BitVec 512) : Bool :=
  let p := bfld b 0x03 1
  p != 0 && (p < 7 || 0x80 ≤ p)

/-- The unit's own checks of word `p` after the words `before` of its queue. -/
def unitOk (s : State) (log2w : Nat) (l : LStrip) (q : Queue) (before : List Plan) (p : Plan) : Bool :=
  let w := p.w
  let last := maxOf (before.map (·.comp))
  let inOrder := before.isEmpty || last ≤ p.comp
  commonOk q w l.st && (wordEntries q w l.st).all (fun e => e.2 != .drill || purposeOk (l.st.entry e.1)) &&
  (match p.run with
    | .plg r => ploughOk w l.st r
    | .hrw r => chainInstOk log2w r && inOrder && (before.isEmpty || !hwWen w || last < r.writeCyc 0 0)
    | .bload _ => inOrder
    | .tlr r => updOk s l w r (before.map (·.w)) && inOrder && (before.isEmpty || last < r.writeCyc 0 0)
    | .root => inOrder && (before.isEmpty || last < p.comp)
    | .xf x => wOp w == 0x12 || wOp w == 0x13 || xferOk s l w x
    | .neutral => q != .vq || inOrder
    | .unknown => false)

/-- The words of queue `q` of a strip against their unit's checks. -/
def checkQueue (s : State) (log2w : Nat) (l : LStrip) (q : Queue) : Option LoadFail :=
  let ps := planQueue s l.core l.st q
  firstFail ps.zipIdx fun y => need (unitOk s log2w l q (ps.take y.2) y.1) (l.at_ 9 y.2 q)

/-- What a canonical image's chain ranges are held to (R163): LOG2W and TREE above, and whether they match R162, which the image's rows
alone do not tell, as the manual gives the check no form (log entry 124). -/
def chainRangesOk (l : LStrip) : Bool :=
  !bitOf (hdrStamp l.st.hdr) 48 || Config.chainRangesMatch (l.st.hdr :: l.st.area) [l.st.mq, l.st.vq, l.st.uq, l.st.tq]

/-- Code 9: the words, then the chain table and the chain ranges of the strip. -/
def checkUnit (s : State) (log2w : Nat) (ls : List LStrip) : Option LoadFail :=
  firstFail ls fun l => (firstFail queues (checkQueue s log2w l)).or
    (need ((stripChains l.st).all (chainDescOk log2w) && chainRangesOk l) (l.at_ 9 0 .vq))

/-! ### Code 10: power (R66, R67), code 11: placement (R6, R282) -/

def checkPower (s : State) (rows : List Row) (ls : List LStrip) : Option LoadFail :=
  (firstFail ls fun l => need (ceilDiv (peakActivity s l.core l.st) 16 ≤ hdrClass l.st.hdr) (l.fail 10)).or
  (need ((List.range (mfPhases (rows.headD 0))).all fun p => allDies.all fun d => mfPhase rows p d.val ≤ clampN 0 256 (s.die d).pool) ⟨10, 0, 0, 0, 0⟩)

def checkPlacement (s : State) (x : CtxId) (rs : List Region) : Option LoadFail :=
  firstFail rs fun r =>
    let slot := regionSlot s x r
    need (!fusedOff s r.c && r.first + r.rows ≤ 12288 &&
      (List.finRange 4).all fun k =>
        let i := vget (s.cc r.c).img ImgSlot.reset k.val
        k == slot || !i.accepted || r.first + r.rows ≤ i.base || i.base + i.rows ≤ r.first) ⟨11, r.core, 0, 0, 0⟩

/-! ### The whole check -/

/-- The lowest code that the image fails, with its first failure (R304). -/
def loadCheck (s : State) (x : CtxId) (rows : List Row) : Option LoadFail :=
  (checkManifest x rows).or <|
  let rs := manifestRegions rows
  let cs := byCore rs
  let ls := cs.flatMap (regionStrips s x)
  let log2w := stLog2w (mfStamp (rows.headD 0))
  (checkStamp s rows rs ls).or <| (checkDigest s rs).or <| (checkDirectory s x cs).or <| (checkHeader ls).or <|
  (checkEncoding ls).or <| (checkTiming s ls).or <| (checkUnit s log2w ls).or <| (checkPower s rows ls).or <| checkPlacement s x rs

end Sys2Proof.Machine
end

