-- ==== Sys2Proof/Machine/Load.lean ====
section
/-! DEFINITION. The image commands of the Headland (R303 to R305, R307). -/

namespace Sys2Proof.Machine

open Sys2Proof

def State.loadOf (s : State) (x : CtxId) : LoadCtx := s.hub.loads.get x
def State.onLoad (s : State) (x : CtxId) (f : LoadCtx → LoadCtx) : State :=
  s.onHub fun h => { h with loads := vset h.loads x.val (f (h.loads.get x)) }

/-- Context `x` has a strip staged, pending or running (R303). -/
def stripActive (s : State) (x : Nat) : Bool :=
  allCores.any fun c =>
    let sc := s.sc c
    (sc.strip.any fun st => hdrContext st.hdr == x) || (sc.staged.any fun st => hdrContext st.hdr == x) ||
      (sc.staging.any fun g => slotCtx s c g.slot.val == x)

/-- HL_LOAD_WHERE (R307). -/
def LoadFail.where_ (f : LoadFail) : Nat := f.core % 128 + f.strip % 128 * 2 ^ 7 + f.word % 1024 * 2 ^ 14 + f.queue % 4 * 2 ^ 24

/-- A load of context `x` is refused with a code (R303, R304, R307): its locks are released and the sender gets the code. -/
def loadRefused (x : CtxId) (src : CmdSrc) (f : LoadFail) (s : State) : State :=
  reply src 1 (0x100 + f.code) f.where_ (s.onLoad x fun l =>
    { l with state := 3, code := f.code, where_ := f.where_, busy := none, locks := [] })

/-- LOAD_IMAGE (R303): refused as BUSY, or every region that the manifest names is locked and the check begins. -/
def execLoadImage (src : CmdSrc) (x : CtxId) (addr : Nat) (s : State) : Answer :=
  hlCommand 1 whoHS src (fun s =>
    let l := s.loadOf x
    if l.busy.isSome then reply src 1 1 0 s
    else if stripActive s x.val then reply src 1 1 0 (s.onLoad x fun l => { l with state := 3, code := 1, where_ := 0 })
    else
      let rs := manifestRegions (manifestRows s addr)
      s.onLoad x fun l => { l with state := 1, code := 0, where_ := 0, busy := some (addr, src), 
                                   locks := (rs.take 512).map fun r => (r.core, r.first, r.rows) }) s

/-- Dies coupled by the other-die Commons transfers of an image (R465): each die of the path with the core's die. -/
def imageCoupled (s : State) (ls : List LStrip) : List (Nat × Nat) :=
  (ls.flatMap fun l => (planQueue s l.core l.st .tq).flatMap fun p =>
    match p.run with
    | .xf x =>
      if x.other.isSome then
        let h := if x.kind == .plotCmn then x.dstH else x.srcH
        (ringPath (dieOf l.core).val (hDie (handle s l.core h))).map fun d => ((dieOf l.core).val, d)
      else []
    | _ => []).eraseDups

/-- The image registers of context `x` are released on every core (R303). -/
def releaseImage (x : Nat) (s : State) : State :=
  forAll allCores (fun c s => s.onCc c fun k =>
    { k with img := k.img.map fun i => if i.accepted && i.ctx == x then ImgSlot.reset else i }) s

/-- An accepted image replaces the context's previous one (R303, R305 to R307). -/
def acceptImage (x : CtxId) (rows : List Row) (s : State) : State :=
  let rs := manifestRegions rows
  let ls := (byCore rs).flatMap (regionStrips s x)
  let stamp := mfStamp (rows.headD 0)
  let pairs := imageCoupled s ls
  let s := releaseImage x.val s
  let s := forAll rs (fun r s =>
    let i : ImgSlot := { base := r.first, rows := r.rows, accepted := true, locked := true, ctx := x.val,
                         headers := dirHeaders (plotRow s r.c r.first) }
    s.onCc r.c fun k => { k with img := vset k.img (regionSlot s x r).val i }) s
  let s := s.onLoad x fun l =>
    { l with state := 2, code := 0, where_ := 0, digest := BitVec.ofNat 256 (digestNat (sha256 (rowBytes rows))), busy := none,
             locks := [], regions := rs.map fun r => (r.core, r.first, r.rows), accepted := l.accepted + 1,
             stepMask := stStepMask stamp, coupled := pairs, mode := bitsOf stamp 48 8, quahamId := bitsOf stamp 128 64 }
  s.onLs fun l => { l with configDue := true }

/-- LOAD_CHECK_COMPLETE (R303, R304). -/
def execLoadCheckComplete (x : CtxId) (s : State) : Answer :=
  match (s.loadOf x).busy with
  | none => .next s
  | some (addr, src) =>
    let rows := manifestRows s addr
    match loadCheck s x rows with
    | some f => .next (loadRefused x src f s)
    | none => .next (reply src 1 0 0 (acceptImage x rows s))

end Sys2Proof.Machine
end

