-- ==== Sys2Proof/Machine/Ctl.lean ====
section
/-! DEFINITION. The control core's commands (R309 to R324, R328 to R331): starting and halting, the custom instructions of R317 but
those of rings and sends, window accesses, allocator answers, handler dispatch and core programs. -/

namespace Sys2Proof.Machine

open Sys2Proof

/-! ### Start and halt (R311, R331) -/

/-- What the control core waits for is given up: a window access and an allocator request. -/
def ccDrop (c : CoreId) (s : State) : State :=
  let s := s.onDie (dieOf c) fun d => { d with allocQ := d.allocQ.filter fun x => !(x.core == c && x.h.isNone) }
  serve (dieOf c) (s.onCc c fun k => { k with winOp := none, halloc := none })

/-- The control core is halted: a handler is abandoned, its dispatch pointer stays moved (R330). -/
def ccHaltOp (c : CoreId) (s : State) : State := (ccDrop c s).onCc c fun k => { k with run := .halted, hdlActive := false }

/-- The control core starts at `pc`, with TRAPPED cleared (R311, R331). A fused-off position has none (R6). -/
def ccStartOp (c : CoreId) (pc : Nat) (s : State) : State :=
  let w := (s.sc c).wall
  if fusedOff s c then s
  else (ccDrop c s).onCc c fun k =>
    { k with pc := BitVec.ofNat 32 (pc / 2 * 2), trapped := false, run := .running, hdlActive := false, readyAt := w }

/-- CC_START (R331). -/
def execCcStart (c : CoreId) (pc : BitVec 16) (s : State) : Answer :=
  .next (ccStartOp c pc.toNat (s.onCc c fun k => { k with startPc := pc.toNat / 2 * 2 }))

/-- CC_HALT (R330, R331). -/
def execCcHalt (c : CoreId) (s : State) : Answer := .next (ccHaltOp c s)

/-! ### Custom instructions (R317) -/

/-- A custom instruction whose operands must meet `ok`; otherwise it is illegal. -/
def ctlGuard (ok : Bool) (c : CoreId) (word : Word) (f : State → State) (s : State) : State := if ok then f s else ccIllegal c word s

/-- The control-core cycle that contains wall cycle `w` (R309). -/
def ccOf (sc : Sched) (w : Nat) : Nat := (w - sc.origin) / 4

/-- The oldest landed message of ring `r`, when its ring may dispatch: from the control-core cycle after its landing (R320, R340). -/
def ringHead (s : State) (c : CoreId) (r : Nat) : Option Landed :=
  let cc := s.cc c
  let sc := s.sc c
  if cc.hdlEn.getLsbD r then ((vget cc.rings Ring.reset r).landed.head?).filter fun l => ccOf sc l.cyc < ccCyc sc else none

/-- Priority of ring `r`. -/
def ringPrio (cc : Cc) (r : Nat) : Nat := bitsOf cc.hdlPrio.toNat (2 * r) 2

/-- The message that R321 selects: highest priority, then earliest landing, then lower ring. -/
def dispatchPick (s : State) (c : CoreId) : Option (Nat × Landed) :=
  let prio := ringPrio (s.cc c)
  (List.range 16).foldl (fun best r =>
    match ringHead s c r, best with
    | none, _ => best
    | some l, none => some (r, l)
    | some l, some b => if prio b.1 < prio r || (prio b.1 == prio r && l.cyc < b.2.cyc) then some (r, l) else best) none

/-- The first control-core cycle in which the core is idle or faulted with no launch pending, where that began with the end of a strip or of
a pending launch: the next after it (R321, R330). -/
def freeFrom (sc : Sched) : Nat :=
  match sc.ended with
  | some w => ccOf sc w + 1
  | none => 0

/-- The conditions of R321 but for ctl.wfe itself. -/
def mayDispatch (s : State) (c : CoreId) : Bool :=
  let sc := s.sc c
  !(s.cc c).hdlActive && (sc.run == .idle || sc.run == .faulted) && sc.launch.isNone && freeFrom sc ≤ ccCyc sc

/-- A message is selected in the present control-core cycle (R321). -/
def dispatches (s : State) (c : CoreId) : Bool := mayDispatch s c && (dispatchPick s c).isSome

/-- The first control-core cycle in which all of R321's conditions hold while ctl.wfe executes (R322): a ctl.wfe that waits has its first
cycle in `readyAt`. -/
def dispatchFirst (s : State) (c : CoreId) : Nat :=
  let sc := s.sc c
  if freeFrom sc ≤ ccOf sc (s.cc c).readyAt then ccOf sc (s.cc c).readyAt else freeFrom sc

/-- The handler entry of class `k` (R322, R331). -/
def hdlEntry (cc : Cc) (k : Nat) : BitVec 16 := vget cc.hdlTable 0 k

/-- The control-core cycle after that of event `b`, while it is pending (R319). -/
def eventCyc (s : State) (c : CoreId) (b : Nat) : Option Nat :=
  let cc := s.cc c
  if cc.events.getLsbD b then some (ccOf (s.sc c) (vget cc.evAt 0 b) + 1) else none

/-- The pending events that ctl.wfe sees in the present control-core cycle: those of earlier cycles (R319). -/
def eventsSeen (s : State) (c : CoreId) : BitVec 6 :=
  BitVec.ofNat 6 ((List.range 6).foldl (fun n b => if (eventCyc s c b).any (· ≤ ccCyc (s.sc c)) then n + 2 ^ b else n) 0)

/-- The control-core cycle in which a waiting ctl.wfe returns: the first that begins after one of its events, and not before its own first
(R319). -/
def wfeDue (s : State) (c : CoreId) : Option Nat :=
  let cc := s.cc c
  let first := ccOf (s.sc c) cc.readyAt
  ((List.range 6).filterMap fun b => if cc.wfeMask.getLsbD b then eventCyc s c b else none).foldl
    (fun m n => let n := if n < first then first else n; some ((m.filter (· ≤ n)).getD n)) none

/-- ctl.wfe returns the pending masked events and clears them (R319). -/
def wfeReturn (c : CoreId) (rd : Nat) (mask : BitVec 6) (s : State) : State :=
  let ev := eventsSeen s c &&& mask
  ccNext c 1 (s.onCc c fun k =>
    regSet rd (BitVec.ofNat 32 ev.toNat) { k with events := k.events &&& ~~~ev, run := .running })

/-- ctl.wfe rd, rs1 begins (R319, R321, R324): with an event pending and no message to dispatch it returns at once; otherwise it waits. -/
def instWfe (c : CoreId) (rd rs1 : Reg) (s : State) : State :=
  let m := s.reg c rs1
  let w := (s.sc c).wall
  ctlGuard ((s.cc c).run == .running && m < 64) c (ctlWord 1 0 rd.val rs1.val 0) (fun s =>
    let mask := BitVec.ofNat 6 m
    if eventsSeen s c &&& mask != 0 && !dispatches s c then wfeReturn c rd.val mask s
    else s.onCc c fun k => { k with run := .wfe, wfePc := k.pc, wfeMask := mask, wfeRd := rd.val, readyAt := w }) s

/-- CTL_WFE (R319): the instruction begins, or the one that waits returns in the first control-core cycle that begins after its event. -/
def execCtlWfe (c : CoreId) (t : Nat) (rd rs1 : Reg) (s : State) : Answer :=
  let s := advance c t s
  let cc := s.cc c
  if cc.run == .wfe then
    whenDue (ccEdge (s.sc c) && wfeDue s c == some (ccCyc (s.sc c)) && !dispatches s c) (wfeReturn c cc.wfeRd cc.wfeMask) s
  else whenDue (ccIssues s c) (instWfe c rd rs1) s

/-- ctl.hret (R317, R321): the handler ends and ctl.wfe is executed again; outside a handler it is illegal. -/
def instHret (c : CoreId) (s : State) : State :=
  ctlGuard ((s.cc c).run == .handler) c (ctlWord 1 1 0 0 0) (fun s =>
    ccRetire c (s.cc c).wfePc 2 (s.onCc c fun k => { k with run := .running, hdlActive := false })) s

/-- CTL_HRET. -/
def execCtlHret (c : CoreId) (t : Nat) (s : State) : Answer := ccCommand c t (instHret c) s

/-- The faulted state is cleared (R329): CORE_STATUS.STATE becomes 0, and a pending launch goes on with R32's conditions. -/
def clearFaulted (c : CoreId) (s : State) : State :=
  let sc := s.sc c
  let s := s.onSc c fun sc => { sc with stopping := false }
  if sc.run == .faulted then launchStep c (s.onSc c fun sc => { sc with run := .idle, cause := .none, which := 0 }) else s

def instFclr (c : CoreId) (s : State) : State := ccNext c 1 (clearFaulted c s)

/-- CTL_FCLR (R329). -/
def execCtlFclr (c : CoreId) (t : Nat) (s : State) : Answer := ccCommand c t (instFclr c) s

/-- HRW_SUM_INFO of a slot (R244). -/
def sumInfo (x : SumSlot) : Nat := b2n x.valid + 2 * b2n x.mism + x.kind % 8 * 4 + x.seq % 256 * 2 ^ 8
/-- Words 0 to 3 of a slot (R317). -/
def sumWord (x : SumSlot) : Nat → Nat
  | 0 => x.value.toNat % 2 ^ 32
  | 1 => x.value.toNat / 2 ^ 32
  | 2 => sumInfo x
  | _ => x.tag

/-- ctl.sum rd, rs1 (R317, R330): word 0 latches the slot's other words; a slot whose word 0 has not been read gives them as they are. -/
def instSum (c : CoreId) (rd rs1 : Reg) (s : State) : State :=
  let n := s.reg c rs1
  ctlGuard (n < 32) c (ctlWord 2 0 rd.val rs1.val 0) (fun s =>
    let k := n % 8
    let x := vget (sumsNow s c) SumSlot.reset k
    let w : Nat → Word := fun i => BitVec.ofNat 32 (sumWord x i)
    let l := (vget (s.en c).sumLatch none k).getD (w 1, w 2, w 3)
    let v : Word := match n / 8 with
      | 0 => w 0
      | 1 => l.1
      | 2 => l.2.1
      | _ => l.2.2
    let s := if n / 8 == 0 then s.onE c fun e => { e with sumLatch := vset e.sumLatch k (some (w 1, w 2, w 3)) } else s
    ccNext c 1 (setReg c rd v.toNat s)) s

/-- CTL_SUM. -/
def execCtlSum (c : CoreId) (t : Nat) (rd rs1 : Reg) (s : State) : Answer := ccCommand c t (instSum c rd rs1) s

/-- ctl.stkrd rd, rs1. -/
def instStkrd (c : CoreId) (rd rs1 : Reg) (s : State) : State :=
  let k := s.reg c rs1
  ctlGuard (k < 48) c (ctlWord 3 0 rd.val rs1.val 0) (fun s =>
    ccNext c 1 (setReg c rd (vget (s.sc c).stk0 0 k).toNat s)) s

/-- CTL_STKRD (R317). -/
def execCtlStkrd (c : CoreId) (t : Nat) (rd rs1 : Reg) (s : State) : Answer := ccCommand c t (instStkrd c rd rs1) s

/-- ctl.stkadd rs1, rs2: an arrival (R42, R44, R54, R330). -/
def instStkadd (c : CoreId) (rs1 rs2 : Reg) (s : State) : State :=
  let k := s.reg c rs1
  let n := s.reg c rs2
  ctlGuard (k < 48 && 1 ≤ n && n ≤ 255) c (ctlWord 3 1 0 rs1.val rs2.val) (fun s =>
    ccNext c 1 (arriveNow c none 0 k n (s.cc c).tag s)) s

/-- CTL_STKADD (R317). -/
def execCtlStkadd (c : CoreId) (t : Nat) (rs1 rs2 : Reg) (s : State) : Answer := ccCommand c t (instStkadd c rs1 rs2) s

/-- ctl.stkclr rd, rs1: no effect while a strip is running or pending. -/
def instStkclr (c : CoreId) (rd rs1 : Reg) (s : State) : State :=
  let k := s.reg c rs1
  ctlGuard (k < 48) c (ctlWord 3 2 rd.val rs1.val 0) (fun s =>
    if (s.sc c).strip.isSome || (s.sc c).launch.isSome then ccNext c 1 (setReg c rd 1 s)
    else ccNext c 1 (setReg c rd 0 (s.onSc c fun sc => { sc with stk := vset sc.stk k 0 }))) s

/-- CTL_STKCLR (R317). -/
def execCtlStkclr (c : CoreId) (t : Nat) (rd rs1 : Reg) (s : State) : Answer := ccCommand c t (instStkclr c rd rs1) s

/-- Base of data memory in the control core's addresses (R312). -/
def dmemBase : Nat := 0x10000

/-- The handle that a write of `v` leaves in place of `old`: GEN is kept, reserved bits read 0 (R105, R108, R317). -/
def handleWrite (old v : IWord) : IWord :=
  hPut (hPut (hPut (hPut (hPut v 6 8 (hGen old)) 24 8 0) 57 7 0) 88 8 0) 112 16 0

/-- Software has written handle `h` in the present control-core cycle (R12). -/
def noteSwSet (h : Nat) (sc : Sched) : Sched :=
  { sc with swSet := (ccCyc sc, h :: (if sc.swSet.1 == ccCyc sc then sc.swSet.2 else [])) }

/-- A handle is written (R109): an extent that the allocator gave it stays recorded with it, and is freed with its release (log entry
47). -/
def writeHandle (c : CoreId) (h : Nat) (v : IWord) (s : State) : State :=
  s.onCore c fun k =>
    { k with m := { k.m with handles := vset k.m.handles h (handleWrite (vget k.m.handles 0 h) v) }, sc := noteSwSet h k.sc }

/-- ctl.hset rd, rs1, rs2: 16 bytes of data memory into a handle. An address that is not 16-byte aligned is illegal, one outside data
memory a load access fault, as is data that the memory's code cannot correct (R313). -/
def instHset (c : CoreId) (rd rs1 rs2 : Reg) (data : Ecc) (s : State) : State :=
  let h := s.reg c rs1
  let a := s.reg c rs2
  ctlGuard (h < 64 && a % 16 == 0) c (ctlWord 4 0 rd.val rs1.val rs2.val) (fun s =>
    if a < dmemBase || 2 * dmemBase ≤ a then ccTrap c 5 (BitVec.ofNat 32 a) s
    else
      let s := ccMemEcc c data s
      if eccBad data then ccTrap c 5 (BitVec.ofNat 32 a) s
      else ccNext c 5 (setReg c rd 0 (writeHandle c h (BitVec.ofNat 128 (readCells (s.cc c).dmem (a - dmemBase) 16)) s))) s

/-- CTL_HSET (R108, R109, R317). -/
def execCtlHset (c : CoreId) (t : Nat) (rd rs1 : Reg) (rs2 : Reading Reg) (s : State) : Answer :=
  ccCommand c t (instHset c rd rs1 rs2.of (errAt rs2.err 0)) s

/-- A handle is released (R108). -/
def releaseHandle (c : CoreId) (h : Nat) (s : State) : State :=
  let s := freeHandle c h s
  (setHandle c h (hPut (hPut (handle s c h) 6 8 (hGen (handle s c h) + 1)) 4 2 3) s).onSc c (noteSwSet h)

/-- ctl.hrel rs1. -/
def instHrel (c : CoreId) (rs1 : Reg) (s : State) : State :=
  let h := s.reg c rs1
  ctlGuard (h < 64) c (ctlWord 4 1 0 rs1.val 0) (fun s => ccNext c 1 (releaseHandle c h s)) s

/-- CTL_HREL (R108). -/
def execCtlHrel (c : CoreId) (t : Nat) (rs1 : Reg) (s : State) : Answer := ccCommand c t (instHrel c rs1) s

/-- ctl.halloc rd, rs1, rs2: the request goes to the die's allocator, and the instruction waits for its answer (R111, R318). -/
def instHalloc (c : CoreId) (rd rs1 rs2 : Reg) (s : State) : State :=
  let a := s.reg c rs1
  let b := s.reg c rs2
  ctlGuard (a < 1024 && bitsOf a 6 2 == 0 && bitsOf b 0 16 != 0 && bitsOf b 16 15 == 0) c
    (ctlWord 4 2 rd.val rs1.val rs2.val) (fun s =>
      let w := (s.sc c).wall
      askAlloc c none (s.onCc c fun k =>
        { k with halloc := some (rd.val, a % 64, Fin.ofNat 4 (a / 256), b % 2 ^ 16, bitOf b 31), readyAt := w })) s

/-- CTL_HALLOC (R317, R318). -/
def execCtlHalloc (c : CoreId) (t : Nat) (rd rs1 rs2 : Reg) (s : State) : Answer := ccCommand c t (instHalloc c rd rs1 rs2) s

/-- A waiting instruction retires as the `n`-th control-core cycle after the present one begins. -/
def ccLate (c : CoreId) (n : Nat) (s : State) : State :=
  let sc := s.sc c
  s.onCc c fun k => { k with pc := k.pc + 4, minstret := k.minstret + 1, readyAt := ccStart sc n }

/-- The allocator answers the first request with a status (R318). -/
def allocAnswer (d : DieId) (c : CoreId) (rd status : Nat) (s : State) : State :=
  ccLate c 1 (allocDone d (s.onCc c fun k => regSet rd (BitVec.ofNat 32 status) { k with halloc := none }))

/-- The handle of a new extent (R318): GEN is kept. -/
def allocHandle (old : IWord) (d : DieId) (ctx page pages : Nat) (pageable : Bool) : IWord :=
  BitVec.ofNat 128 (2 + b2n pageable * 2 ^ 3 + hGen old * 2 ^ 6 + d.val * 2 ^ 14 + ctx % 8 * 2 ^ 21 + 64 * page * 2 ^ 32 +
    (64 * pages - 1) * 2 ^ 64 + 2 ^ 96)

/-- The answer to ctl.halloc `q` of core `c`, the first request of die `d` (R318): none while page-outs may still make room (R112). -/
def hallocAnswer (d : DieId) (c : CoreId) (q : Nat × Nat × Fin 4 × Nat × Bool) (s : State) : State :=
  let (rd, h, slot, pages, pageable) := q
  let x := slotCtx s c slot.val
  if hRes (handle s c h) != 3 then allocAnswer d c rd 2 s
  else match findExtent (s.die d) x pages with
  | some p =>
    let s := s.onDie d fun k => { k with extents := insertExt (p, pages) k.extents }
    let s := setHandle c h (allocHandle (handle s c h) d x p pages pageable) s
    allocAnswer d c rd 0 (s.onM c fun m => { m with owned := vset m.owned h (p + 1) })
  | none => if allocFails s d x pages then allocAnswer d c rd 1 s else s

/-- ALLOCATOR_ANSWER (R110 to R112, R318): the oldest request is served. Where no extent fits, page-outs begin; when none is left to
start or to finish, the answer is NO_SPACE. -/
def execAllocatorAnswer (d : DieId) (t : Nat) (s : State) : Answer :=
  let s := serve d s
  match (s.die d).allocQ with
  | [] => .next s
  | r :: _ =>
    let s := advance r.core t s
    match r.h, (s.cc r.core).halloc with
    | some _, _ => .next s
    | none, none => .next (allocDone d s)
    | none, some q => .next (hallocAnswer d r.core q s)

/-! ### The row window (R314, R315) -/

/-- A window access of row `row` waits for its bank. -/
def winRequest (c : CoreId) (write : Bool) (row rd : Nat) (s : State) : State :=
  let w := (s.sc c).wall
  s.onCc c fun k => { k with winOp := some ⟨write, row, rd, w⟩ }

/-- ctl.wrd rd, rs1. -/
def instWrd (c : CoreId) (rd rs1 : Reg) (s : State) : State :=
  let row := s.reg c rs1
  ctlGuard (row < 12288) c (ctlWord 6 0 rd.val rs1.val 0) (winRequest c false row rd.val) s

/-- CTL_WRD (R314). -/
def execCtlWrd (c : CoreId) (t : Nat) (rd rs1 : Reg) (s : State) : Answer := ccCommand c t (instWrd c rd rs1) s

/-- ctl.wwr rs1. -/
def instWwr (c : CoreId) (rs1 : Reg) (s : State) : State :=
  let row := s.reg c rs1
  ctlGuard (row < 12288) c (ctlWord 6 1 0 rs1.val 0) (winRequest c true row 0) s

/-- CTL_WWR (R314). -/
def execCtlWwr (c : CoreId) (t : Nat) (rs1 : Reg) (s : State) : Answer := ccCommand c t (instWwr c rs1) s

/-- ROW_WINDOW_ACCESS (R84, R90, R314, R315): the waiting access is made at the first slot-7 opportunity of its bank after its issue that no
access of a higher rank takes, and the instruction retires at the end of the next control-core cycle. -/
def execRowWindowAccess (c : CoreId) (t : Nat) (ecc : Ecc) (s : State) : Answer :=
  let s := advance c t s
  match (s.cc c).winOp with
  | none => .next s
  | some op =>
    whenDue (first7 s c 3 op.row (op.issued + 1)) (fun s =>
      let s := (use7 c op.row s).onCc c fun k => { k with winOp := none }
      let a := plotAddr c op.row
      let tag := (s.cc c).tag
      if op.write then ccLate c 2 (coreWrite c 4 tag (stripCtx s c) 0 0 a (s.cc c).win s)
      else
        let (d, s) := readNoted s a ecc
        if eccBad ecc then
          ccLate c 2 (postFault c { cls := 0x03, source := 4, tag := tag, ctx := stripCtx s c, row := rowField s a,
                                    detail := eccCw ecc * 256 + 4 * 65536 }
            (s.onCore c fun k => { k with cc := regSet op.rd 1 { k.cc with winUe := true }, sc := setBit 0xE00 64 k.sc }))
        else ccLate c 2 (s.onCc c fun k => regSet op.rd 0 { k with win := d })) s

/-! ### The fault ring (R328, R331) -/

/-- ctl.fpop rd, rs1: the occupancy before the pop; the head record goes to data memory. -/
def instFpop (c : CoreId) (rd rs1 : Reg) (s : State) : State :=
  let a := s.reg c rs1
  ctlGuard (a % 64 == 0) c (ctlWord 7 0 rd.val rs1.val 0) (fun s =>
    match (s.cc c).ring with
    | [] => ccNext c 1 (setReg c rd 0 s)
    | r :: rs =>
      if a < dmemBase || 2 * dmemBase ≤ a then ccTrap c 7 (BitVec.ofNat 32 a) s
      else
        let w := (s.sc c).wall
        ccNext c 17 (s.onCc c fun k => regSet rd.val (BitVec.ofNat 32 (rs.length + 1))
          { k with ring := rs, popAt := some w, dmem := writeCells k.dmem (a - dmemBase) (leBytes 64 r.toNat) })) s

/-- CTL_FPOP (R317, R328). -/
def execCtlFpop (c : CoreId) (t : Nat) (rd rs1 : Reg) (s : State) : Answer := ccCommand c t (instFpop c rd rs1) s

/-- FAULT_LOST_CLEAR (R331). -/
def execFaultLostClear (c : CoreId) (s : State) : Answer := .next (s.onCc c fun k => { k with lost := 0 })

/-! ### Handler dispatch (R320 to R323) -/

/-- The dispatch pointer of ring `r` moves past its oldest landed message. -/
def passLanded (c : CoreId) (r : Nat) (l : Landed) (s : State) : State :=
  s.onCc c fun k =>
    let g := vget k.rings Ring.reset r
    { k with dptr := vset k.dptr r (if g.size == 0 then 0 else (l.at_ + mhLen l.hdr) % g.size),
             rings := vset k.rings r { g with landed := g.landed.tail } }

/-- The handler of the message starts: its first instruction issues 12 control-core cycles after the latest of its landing's cycle and the
first in which R321's conditions hold (R322). -/
def startHandler (c : CoreId) (r : Nat) (l : Landed) (entry : BitVec 16) (s : State) : State :=
  let sc := s.sc c
  let first := dispatchFirst s c
  let from_ := if first < ccOf sc l.cyc then ccOf sc l.cyc else first
  s.onCc c fun k =>
    let g := vget k.rings Ring.reset r
    let set : Nat → Nat → Cc → Cc := fun x v => regSet x (BitVec.ofNat 32 v)
    set 13 (mhLen l.hdr) (set 12 (mhTag l.hdr) (set 11 (g.base + l.at_) (set 10 r
      { k with pc := BitVec.ofNat 32 (entry.toNat / 2 * 2), run := .handler, hdlActive := true, hdlRing := r,
               hdlClass := mhTag l.hdr / 2 ^ 16, hdlCnt := satAdd 0xFFFFFFFF k.hdlCnt 1, readyAt := sc.origin + 4 * (from_ + 12) })))

/-- A message whose entry is disabled is passed over with a record (R323). -/
def noHandler (c : CoreId) (r k : Nat) (tag : Nat) (s : State) : State :=
  postFault c { cls := 0x10, source := 4, tag := tag, ctx := stripCtx s c, detail := r + k * 256 } s

/-- Selection goes on until a message has a handler (R321 to R323); `n` bounds the messages looked at. -/
def dispatchFrom (c : CoreId) : Nat → State → State
  | 0, s => s
  | n + 1, s =>
    match dispatchPick s c with
    | none => s
    | some (r, l) =>
      let k := mhTag l.hdr / 2 ^ 16
      let e := hdlEntry (s.cc c) k
      let s := passLanded c r l s
      if e.getLsbD 0 then startHandler c r l e s else dispatchFrom c n (noHandler c r k (mhTag l.hdr) s)

/-- Landed messages that a core's rings hold. -/
def landedCount (cc : Cc) : Nat := (cc.rings.toList.map fun g => g.landed.length).sum

/-- The control-core cycle in which a waiting ctl.wfe selects a message: the first in which R321's conditions hold and a message is
dispatchable, from the cycle after its landing on (R322, R330, R340). -/
def dispatchDue (s : State) (c : CoreId) : Option Nat :=
  let sc := s.sc c
  let first := dispatchFirst s c
  ((List.range 16).filterMap (ringHead s c)).foldl
    (fun m l => let n := if ccOf sc l.cyc < first then first else ccOf sc l.cyc + 1; some ((m.filter (· ≤ n)).getD n)) none

/-- HANDLER_DISPATCH (R321 to R323). -/
def execHandlerDispatch (c : CoreId) (t : Nat) (s : State) : Answer :=
  let s := advance c t s
  whenDue ((s.cc c).run == .wfe && mayDispatch s c && dispatchDue s c == some (ccCyc (s.sc c)))
    (fun s => dispatchFrom c (landedCount (s.cc c)) s) s

/-! ### Core programs (R316, R524) -/

/-- CORE_PROGRAM (R316, R493): the named cores' control cores are halted and their copies begin. Fused-off positions are passed over. -/
def execCoreProgram (src : CmdSrc) (mask : BitVec 128) (plotRow dataRows : Nat) (digest : BitVec 256) (s : State) : Answer :=
  hlCommand 2 whoHS src (fun s =>
    let cs := allCores.filter fun c => mask.getLsbD c.val && !fusedOff s c
    if 128 < dataRows || 12288 < plotRow + 128 + dataRows || cs.isEmpty then reply src 2 3 0 s
    else if cs.any fun c => (s.cc c).progCopy.isSome then reply src 2 1 0 s
    else
      let s := forAll cs (fun c s => (ccHaltOp c s).onCc c fun k => 
        { k with progCopy := some ⟨plotRow, dataRows, digest, (s.sc c).wall, [], 0⟩ }) s
      let named : BitVec 128 := BitVec.ofNat 128 (cs.foldl (fun n c => n + 2 ^ c.val) 0)
      reply src 2 0 0 (s.onHl fun l => { l with progs := l.progs ++ [(src, named, false)] })) s

/-- Core `c`'s copy of a core-program command is done; the command's second reply follows its last one (R494). -/
def progDone (c : CoreId) (failed : Bool) (s : State) : State :=
  match s.hub.hl.progs.find? fun p => p.2.1.getLsbD c.val with
  | none => s
  | some (src, mask, bad) =>
    let left := mask &&& ~~~(BitVec.ofNat 128 (2 ^ c.val))
    let rest := s.hub.hl.progs.eraseP fun p => p.2.1.getLsbD c.val
    if left == 0 then replyDone src 2 (if bad || failed then 0x100 + Config.progFailCode else 0) (s.onHl fun l => { l with progs := rest })
    else s.onHl fun l => { l with progs := rest ++ [(src, left, bad || failed)] }

/-- The rows of a core program as its copy read them, numbered from 0, with their errors counted (R118). -/
def progRows (c : CoreId) (g : ProgCopy) (err : ReadErr) (s : State) : List Row × State :=
  g.got.zipIdx.foldl (fun (a : List Row × State) y =>
    let e := errAt err y.2
    (a.1 ++ [eccRow e y.1], noteEcc a.2 (plotAddr c (g.row + y.2)) e)) ([], s)

/-- Every row of core `c`'s program is copied and the digest computed. Data memory beyond the rows is zeroed. An uncorrectable row fails the
program as a wrong digest does (log entry 116). -/
def copyDone (c : CoreId) (err : ReadErr) (s : State) : Answer :=
  match (s.cc c).progCopy with
  | none => .next s
  | some g =>
    whenDue (g.got.length == 128 + g.dataRows) (fun s =>
      let (rows, s) := progRows c g err s
      let bytes := rows.flatMap Row.bytes
      let s := s.onCc c fun k => { k with progCopy := none, imem := newCells 0 (bytes.take 65536), dmem := newCells 0 (bytes.drop 65536) }
      if BitVec.ofNat 256 (digestNat (sha256 bytes)) == g.digest && (List.range g.got.length).all fun k => !eccBad (errAt err k) then
        progDone c false (ccStartOp c 0 (s.onCc c fun k => { k with progOk := true, progDigest := g.digest }))
      else progDone c true (s.onCc c fun k => { k with imem := [] })) s

/-- CORE_PROGRAM_COPY_DONE (R316). -/
def execCoreProgramCopyDone (c : Reading (Timed CoreId)) (s : State) : Answer := copyDone c.of.of c.err (advance c.of.of c.of.t s)

end Sys2Proof.Machine
end

