-- ==== Sys2Proof/Machine/Messages.lean ====
section
/-! DEFINITION. Messages and inbox rings (11): sends, placement, landing, spill, hold, bounces and loss notices, and the ring and send
instructions of the control core. -/

namespace Sys2Proof.Machine

open Sys2Proof

def State.ring (s : State) (c : CoreId) (r : Nat) : Ring := vget (s.cc c).rings Ring.reset r
def State.onRing (s : State) (c : CoreId) (r : Nat) (f : Ring → Ring) : State :=
  s.onCc c fun k => { k with rings := vset k.rings r (f (vget k.rings Ring.reset r)) }

/-! ### Placement (R339, R341, R342) -/

/-- Where `n` rows go in an area of `size` rows under R339: whether a filler comes first, and the first row. -/
def fitAt (size resv rptr n : Nat) : Option (Bool × Nat) :=
  let free := size - 1 - (resv + size - rptr) % size
  let tail := size - resv
  if size == 0 then none
  else if n ≤ tail && n ≤ free then some (false, resv)
  else if tail < n && tail + n ≤ free then some (true, 0)
  else none

/-- RPTR as it stood at the start of wall cycle `w` (R355). -/
def Ring.rptrAt (g : Ring) (w : Nat) : Nat :=
  match g.rptr0 with
  | some (v, p) => if v == w then p else g.rptr
  | none => g.rptr

def Ring.fit (g : Ring) (w n : Nat) : Option (Bool × Nat) := fitAt g.size g.resv (g.rptrAt w) n
def Ring.spillFit (g : Ring) (n : Nat) : Option (Bool × Nat) := fitAt g.spillSize g.spillResv g.spillRptr n

/-- The filler row (R341). -/
def fillerRow : Row := (0 : Row).put 0x08 1 0x80

/-- The row that marks a void of the message of header `h` with `n` reserved rows (R341). -/
def voidRow (h : Row) (n : Nat) : Row :=
  ((((((0 : Row).put 0x07 1 n).put 0x08 1 0x80).put 0x0C 2 (mhSendPos h)).put 0x0E 1 (mhSendCore h)).put 0x10 2 (mhSeq h))

/-- Plot address of ring row `at_`. -/
def ringAddr (s : State) (c : CoreId) (r at_ : Nat) : Nat := plotAddr c ((s.ring c r).base + at_)
/-- Commons address of spill row `at_`. -/
def spillAddr (s : State) (c : CoreId) (r at_ : Nat) : Nat := cmnAddr (dieOf c) ((s.ring c r).spillBase + at_)

/-- An entry for a filler placed in wall cycle `w`. -/
def fillerMsg (at_ len w : Nat) : RMsg := ⟨at_, len, len, fillerRow, true, false, [], true, false, w, 0⟩

/-- The ring writes a row of its own: a locked image row discards it, with a record (R303). -/
def ringWrite (c : CoreId) (a : Nat) (d : Row) (s : State) : State := inboundWrite c (.msg 0 0 0 0) a d s

/-- `n` rows are reserved in the ring, behind a filler where the fit needs one. -/
def reserveRing (c : CoreId) (r : Nat) (h : Row) (wait : Bool) (fit : Bool × Nat) (s : State) : State :=
  let g := s.ring c r
  let n := mhLen h
  let w := (s.sc c).wall
  let s := if fit.1 then ringWrite c (ringAddr s c r g.resv) fillerRow s else s
  let fill := if fit.1 then [fillerMsg g.resv (g.size - g.resv) w] else []
  s.onRing c r fun g =>
    { g with resv := (fit.2 + n) % g.size, msgs := g.msgs ++ fill ++ [⟨fit.2, n, 0, h, false, false, [], false, wait, w, 0⟩] }

/-- A message joins the spill area (R339, R342). -/
def appendSpill (c : CoreId) (r : Nat) (h : Row) (wait : Bool) (fit : Bool × Nat) (s : State) : State :=
  let g := s.ring c r
  let n := mhLen h
  let s := if fit.1 then writeRow s (spillAddr s c r g.spillResv) fillerRow else s
  let w := (s.sc c).wall
  let fill := if fit.1 then [fillerMsg g.spillResv (g.spillSize - g.spillResv) w] else []
  let s := s.onRing c r fun g =>
    { g with spillResv := (fit.2 + n) % g.spillSize,
             spill := g.spill ++ fill ++ [⟨fit.2, n, 0, h, false, false, if wait then [] else [h], false, wait, w, 0⟩] }
  s.onCc c fun k => { k with spillCnt := satAdd 0xFFFFFFFF k.spillCnt 1 }

/-- Spilled messages, without fillers. -/
def Ring.spillMsgs (g : Ring) : Nat := (g.spill.filter fun m => !m.filler).length

/-- A row of a placed message waits to land (R88, R339). -/
def landMsgRow (c : CoreId) (r : RingId) (h : Row) (at_ : Nat) (d : Row) (s : State) : State :=
  let w := (s.sc c).wall
  let row := (s.ring c r.val).base + at_
  s.onM c fun m => { m with land := m.land ++ [⟨.plot row, d, w, .msg r (mhSeq h) (mhSendCore h) (mhSendPos h)⟩] }

/-- The receiving core counts a bounce and sends it back (R351). -/
def rxBounce (c : CoreId) (plane reason : Nat) (h : Row) (s : State) : State :=
  bounceMsg plane reason h (s.onCc c fun k => { k with rxBounce := satAdd 0xFFFFFFFF k.rxBounce 1 })

/-- A message that neither ring nor spill takes is held, or bounced by a full queue (R345). -/
def holdMsg (c : CoreId) (r plane : Nat) (h : Row) (s : State) : State :=
  if 16 ≤ (s.ring c r).hold.length then rxBounce c plane 6 h s
  else (s.onRing c r fun g => { g with hold := g.hold ++ [h] }).onCc c fun k => { k with holdCnt := satAdd 0xFFFFFFFF k.holdCnt 1 }

/-- place(n) of R339 for a header that passed R338. The hold queue counts as it stood at the start of the cycle: a header stays behind an
entry granted in its own cycle (R355). -/
def placeMsg (c : CoreId) (r : RingId) (plane : Nat) (h : Row) (s : State) : State :=
  let g := s.ring c r.val
  let n := mhLen h
  let w := (s.sc c).wall
  let held := !g.hold.isEmpty || g.grantAt == some w
  match if 0 < g.spillMsgs || held then none else g.fit w n with
  | some f => landMsgRow c r h f.2 h (reserveRing c r.val h false f s)
  | none =>
    match if held then none else g.spillFit n with
    | some f => appendSpill c r.val h false f s
    | none => holdMsg c r.val plane h s

/-! ### Header checks (R338) -/

/-- The bounce reason of the first check of R338 that fails; a ring takes landings from the cycle after its opening (R337). -/
def headerBounce (s : State) (c : CoreId) (h : Row) : Option Nat :=
  let g := s.ring c (mhRing h)
  if mhMalformed h (mhSendCore h) true then some 8
  else if fusedOff s c then some 3
  else if coreResetting s c g.slot.val || g.state == .resetting then some 7
  else if g.state != .opened || g.openAt == some (s.sc c).wall then some 1
  else if mhSendCore h != 0xFE && mhSendCtx h != slotCtx s c g.slot.val then some 4
  else if !mhAnyEpoch h && mhEpoch h != g.epoch then some 2
  else if g.size - 1 < mhLen h then some 5
  else none

/-- The placed message that the key names. -/
def keyed (pos core seq : Nat) (m : RMsg) : Bool := !m.filler && !m.void && hdrKey m.hdr pos core seq

/-- The granted reservation that a retransmitted header fills is no longer waiting (R345). -/
def unwait (pos core seq : Nat) (m : RMsg) : RMsg := if m.wait && keyed pos core seq m then { m with wait := false } else m

/-- A header reaches core `c`'s Square. -/
def coreHeader (c : CoreId) (plane : Nat) (h : Row) (s : State) : State :=
  let r : RingId := Fin.ofNat 16 (mhRing h)
  let g := s.ring c r.val
  let mine := fun (m : RMsg) => m.wait && keyed (mhSendPos h) (mhSendCore h) (mhSeq h) m
  match g.msgs.find? mine, g.spill.find? mine with
  | some m, _ => landMsgRow c r h m.at_ h (s.onRing c r.val fun g =>
      { g with msgs := g.msgs.map (unwait (mhSendPos h) (mhSendCore h) (mhSeq h)) })
  | none, some _ => s.onRing c r.val fun g =>
      { g with spill := g.spill.map fun m => if mine m then { m with wait := false, rows := [h] } else m }
  | none, none =>
    match headerBounce s c h with
    | some reason => rxBounce c plane reason h s
    | none => placeMsg c r plane h s

/-! ### Items of messages -/

/-- The Square that serves the quadrant of position `p` at the ring-road stop (R19): one of 5, 6, 9, 10. -/
def stopSquare (p : Nat) : Nat := 5 + p % 4 / 2 + 4 * (p / 8)

/-- The order of a Square's inputs (R347): own core 0, mesh X− 1, X+ 2, Y− 3, Y+ 4, ring-road stop 5, hub spoke 6; the input by which an
item of that sender reaches the Square at position `p` of die `d`, X before Y from the Square at which it enters the die (R19). -/
def inputRank (own : Nat) (d p srcPos srcCore : Nat) : Nat :=
  let near := srcPos == own && srcCore < 128 && srcCore / 16 == d
  let e := if near then srcCore % 16 else stopSquare p
  if e == p then (if near then 0 else if srcPos == own && 128 ≤ srcCore then 6 else 5)
  else if e / 4 != p / 4 then (if e / 4 < p / 4 then 3 else 4)
  else if e % 4 < p % 4 then 1 else 2

/-- The oldest spilled message that is no filler or void is written whole and fits the ring: the drain of this cycle comes first (R343). -/
def drainDue (g : Ring) (w : Nat) : Bool :=
  match g.spill.find? fun m => !m.filler && !m.void with
  | some m => m.done && (g.fit w m.len).isSome
  | none => false

/-- A header that came by input `rank` may be taken now: after the drain (R343), and after those of the same cycle that came by the inputs
before (R347). -/
def headerTurn (s : State) (c : CoreId) (r rank : Nat) : Bool :=
  let g := s.ring c r
  let w := (s.sc c).wall
  !drainDue g w && !(g.headAt.1 == w && rank < g.headAt.2)

/-- What becomes of an item leaves core `c`'s landing buffer within its 64 rows (R88), or does not add to it. -/
def landRoom (c : CoreId) (s t : State) : Bool := (t.cm c).land.length ≤ 64 || (t.cm c).land.length ≤ (s.cm c).land.length

/-- Item `i` of the net is the first of its message's sender to its receiver here, as R347 asks. -/
def firstOfPath (s : State) (i : Nat) (x : Item) : Bool :=
  (s.net.take i).all fun y => !(y.kind == .msgRow && y.destPos == x.destPos && y.destCore == x.destCore && y.srcPos == x.srcPos &&
    y.srcCore == x.srcCore)

/-- Item `i` of the net, when it is of kind `k` and for this module. -/
def itemHere (s : State) (k : ItemKind) (i : Nat) : Option Item :=
  match s.net[i]? with
  | some x => if x.kind == k && x.destPos == s.hub.position then some x else none
  | none => none

def dropItem (i : Nat) (s : State) : State := { s with net := s.net.eraseIdx i }

/-- The rows of one message in the net. -/
def sameMsg (x y : Item) : Bool :=
  y.kind == .msgRow && y.destPos == x.destPos && y.destCore == x.destCore && y.srcPos == x.srcPos && y.srcCore == x.srcCore && y.row == x.row

/-- A header for the Headland or the host: taken with its rows once all of them are there (R338, R490, R492). -/
def hubHeader (x : Item) (s : State) : State :=
  let h := x.data
  let rows := (s.net.filter (sameMsg x)).map (·.data)
  if mhMalformed h (mhSendCore h) true then bounceMsg x.plane 8 h { s with net := s.net.filter fun y => !sameMsg x y }
  else if rows.length < mhLen h then s
  else
    let s := { s with net := s.net.filter fun y => !sameMsg x y }
    if x.destCore == 0xFE then headlandLand x.plane rows s else hostEnqueue x.plane rows s

/-- A header reaches its core's Square by input `rank`. -/
def takeHeader (c : CoreId) (i rank : Nat) (x : Item) (s : State) : State :=
  let w := (s.sc c).wall
  (coreHeader c x.plane x.data (dropItem i s)).onRing c (mhRing x.data) fun g => { g with headAt := (w, rank) }

/-- MESSAGE_HEADER_ARRIVAL (R338, R339, R343, R345, R347, R490, R492): header item `i` of the net. -/
def execMessageHeaderArrival (c : CoreId) (t : Nat) (i : Nat) (s : State) : Answer :=
  let s := advance c t s
  match itemHere s .msgRow i with
  | none => .next s
  | some x =>
    if x.k != 0 || !firstOfPath s i x then .next s
    else if x.destCore == 0xFE || x.destCore == 0xFF then .next (hubHeader x s)
    else
      let rank := inputRank s.hub.position (dieOf c).val (posOf c) x.srcPos x.srcCore
      let t := takeHeader c i rank x s
      .next (if x.destCore == c.val && headerTurn s c (mhRing x.data) rank && landRoom c s t then t else s)

/-- A payload row waits to land, joins its spilled message, or is discarded. -/
def takePayload (c : CoreId) (i : Nat) (x : Item) (s : State) : State :=
  let s := dropItem i s
  let mine := fun (m : RMsg) => !m.wait && keyed x.srcPos x.srcCore x.row m
  match (List.finRange 16).find? fun r => (s.ring c r.val).msgs.any mine || (s.ring c r.val).spill.any mine with
  | none => s
  | some r =>
    match (s.ring c r.val).msgs.find? mine with
    | some m => landMsgRow c r m.hdr (m.at_ + x.k) x.data s
    | none => s.onRing c r.val fun g =>
        { g with spill := g.spill.map fun m => if mine m then { m with rows := m.rows ++ [x.data] } else m }

/-- MESSAGE_ROW_ARRIVAL (R339, R342, R525): payload row item `i` of the net. -/
def execMessageRowArrival (c : CoreId) (t : Nat) (i : Nat) (s : State) : Answer :=
  let s := advance c t s
  match itemHere s .msgRow i with
  | none => .next s
  | some x =>
    let u := takePayload c i x s
    .next (if x.k != 0 && x.destCore == c.val && firstOfPath s i x && landRoom c s u then u else s)

/-! ### Landing (R340) -/

/-- The entry is whole: WPTR may pass it. -/
def RMsg.whole (m : RMsg) : Bool := m.void || m.filler || (!m.wait && m.got == m.len)

/-- WPTR passes one entry. LAND_TIME is the time base in the cycle in which the message's last row landed (R333). -/
def passEntry (c : CoreId) (r : Nat) (m : RMsg) (s : State) : State :=
  let w := (s.sc c).wall
  let s := s.onRing c r fun g => { g with msgs := g.msgs.tail, wptr := (m.at_ + m.len) % g.size, passAt := some w }
  if m.void || m.filler then s
  else
    let a := ringAddr s c r m.at_
    let s := ringWrite c a ((readRow s a).put 0x18 8 m.time) s
    let s := s.onRing c r fun g => { g with landed := g.landed ++ [⟨m.at_, m.hdr.put 0x18 8 m.time, m.cyc⟩] }
    let g := s.ring c r
    let s := if g.stkEn then arriveNow c none 0 g.stk 1 (mhTag m.hdr) s else s
    let s := if (s.cc c).hdlEn.getLsbD r then s else ccEvent c 4 s
    answerMsg .msgAck (msgPlane m.hdr) 0 m.hdr s

/-- The entries that WPTR passes with the next message: fillers before it, then the message or void. -/
def passNext (c : CoreId) (r : Nat) : List RMsg → State → State
  | [], s => s
  | m :: ms, s => if m.filler then (if ms.head?.any RMsg.whole then passNext c r ms (passEntry c r m s) else s)
    else if m.whole then passEntry c r m s else s

/-- WPTR passes the ring's next message or void in wall cycle `w` (R340): its last row lands in that cycle, or WPTR has just passed what
was reserved before it. -/
def passDue (g : Ring) (w : Nat) : Bool :=
  match g.msgs.find? fun m => !m.filler with
  | some m => m.whole && (m.cyc == w || g.passAt == some w)
  | none => false

/-- MESSAGE_LANDED (R340, R341): WPTR passes the next wholly landed message of ring `r`. -/
def execMessageLanded (c : CoreId) (t : Nat) (r : RingId) (s : State) : Answer :=
  let s := advance c t s
  whenDue (passDue (s.ring c r.val) (s.sc c).wall) (fun s => passNext c r.val (s.ring c r.val).msgs s) s

/-! ### Spill (R342 to R344) -/

/-- A spilled message becomes a void. -/
def voidSpill (c : CoreId) (r : Nat) (m : RMsg) (s : State) : State :=
  let s := writeRow s (spillAddr s c r m.at_) (voidRow m.hdr m.len)
  s.onRing c r fun g => { g with spill := g.spill.map fun x => if x.at_ == m.at_ && !x.filler then { x with void := true, done := true, rows := [] } else x }

/-- The rows of a message of ring `r` leave the landing buffer. -/
def dropRows (c : CoreId) (r : Nat) (h : Row) (s : State) : State :=
  s.onM c fun k => { k with land := k.land.filter fun x => match x.owner with
    | .msg q seq core pos => !(q.val == r && hdrKey h pos core seq)
    | .late _ | .write _ _ _ _ => true }

/-- A ring message becomes a void, which counts as landed in the present cycle (R341). -/
def voidRing (c : CoreId) (r : Nat) (m : RMsg) (s : State) : State :=
  let w := (s.sc c).wall
  let s := ringWrite c (ringAddr s c r m.at_) (voidRow m.hdr m.len) s
  dropRows c r m.hdr (s.onRing c r fun g =>
    { g with msgs := g.msgs.map fun x => if x.at_ == m.at_ && !x.filler then { x with void := true, cyc := w } else x })

/-- The rows of spilled message `m` reach their area. A gated group discards them: the message bounces LOST and its reservation becomes a
void. -/
def writeSpill (c : CoreId) (r : Nat) (m : RMsg) (s : State) : State :=
  let row := (s.ring c r).spillBase + m.at_
  let a := cmnAddr (dieOf c) row
  if gatedFor s (dieOf c) row true then
    rxBounce c (msgPlane m.hdr) 9 m.hdr (postFault c (gatedFlt s 5 (mhTag m.hdr) (mhSendCtx m.hdr) row 1 a) (voidSpill c r m s))
  else
    (writeRows s a m.rows).onRing c r fun g =>
      { g with spill := g.spill.map fun x => if x.at_ == m.at_ && !x.filler then { x with done := true, rows := [] } else x }

/-- SPILL_WRITE_COMPLETE (R342, R344): the last row of the first spilled message that has all its rows is written, in a cycle in which no
request waits at its bank. -/
def execSpillWriteComplete (c : CoreId) (t : Nat) (r : RingId) (s : State) : Answer :=
  let s := advance c t s
  match (s.ring c r.val).spill.find? fun m => !m.done && m.rows.length == m.len with
  | none => .next s
  | some m => whenDue (!bankWaits s (dieOf c) ((s.ring c r.val).spillBase + m.at_ + m.len - 1)) (writeSpill c r.val m) s

/-- The head of the spill area leaves it. -/
def popSpill (c : CoreId) (r : Nat) (m : RMsg) (s : State) : State :=
  s.onRing c r fun g => { g with spill := g.spill.tail, spillRptr := (m.at_ + m.len) % g.spillSize }

/-- Rows read back from the spill area wait to land. -/
def landRows (c : CoreId) (r : RingId) (h : Row) (at_ : Nat) : List Row → State → State
  | [], s => s
  | d :: ds, s => landRows c r h (at_ + 1) ds (landMsgRow c r h at_ d s)

/-- The rows of a drained message as the drain read them, with their errors counted, and the first uncorrectable one (R118, R119). -/
def spillRows (a n : Nat) (err : ReadErr) (s : State) : List Row × Option (Nat × Ecc) × State :=
  (List.range n).foldl (fun (x : List Row × Option (Nat × Ecc) × State) k =>
    let y := readNoted x.2.2 (a + 512 * k) (errAt err k)
    (x.1 ++ [y.1], if x.2.1.isNone && eccBad (errAt err k) then some (k, errAt err k) else x.2.1, y.2)) ([], none, s)

/-- A message that the drain reserved cannot be read: it bounces LOST and its reservation becomes a void (R344). -/
def drainLost (c : CoreId) (r at_ : Nat) (m : RMsg) (f : Flt) (s : State) : State :=
  match (s.ring c r).msgs.find? fun x => x.at_ == at_ && !x.filler with
  | some x => rxBounce c (msgPlane m.hdr) 9 m.hdr (postFault c f (voidRing c r x s))
  | none => s

/-- Spilled message `m` is reserved in the ring at `f`, and its rows are read and wait to land (R343, R344). -/
def drainMsg (c : CoreId) (r : RingId) (err : ReadErr) (m : RMsg) (f : Bool × Nat) (s : State) : State :=
  let row := (s.ring c r.val).spillBase + m.at_
  let a := spillAddr s c r.val m.at_
  let ctx := mhSendCtx m.hdr % 8
  let s := popSpill c r.val m (reserveRing c r.val m.hdr false f s)
  if gatedFor s (dieOf c) row false then drainLost c r.val f.2 m (gatedFlt s 5 (mhTag m.hdr) ctx row 0 a) s
  else
    let x := spillRows a m.len err s
    match x.2.1 with
    | some (k, e) => drainLost c r.val f.2 m
        { cls := 0x03, source := 5, tag := mhTag m.hdr, ctx := ctx, row := rowField s (a + 512 * k), detail := 2 + eccCw e * 256 + 2 * 65536 } x.2.2
    | none => landRows c r m.hdr f.2 x.1 x.2.2

/-- The head spilled message is tried: fillers and voids are passed over, a message that fits is reserved in the ring and read back. -/
def drainSpill (c : CoreId) (r : RingId) (err : ReadErr) : List RMsg → State → State
  | [], s => s
  | m :: ms, s =>
    if m.filler || m.void then drainSpill c r err ms (popSpill c r.val m s)
    else match if m.done then (s.ring c r.val).fit (s.sc c).wall m.len else none with
    | none => s
    | some f => drainMsg c r err m f s

/-- SPILL_DRAIN (R343, R344). The reads are made with the reservation; their own time is not fixed (log entry 126). -/
def execSpillDrain (c : CoreId) (t : Nat) (r : RingId) (err : ReadErr) (s : State) : Answer :=
  let s := advance c t s
  .next (drainSpill c r err (s.ring c r.val).spill s)

/-! ### Hold and grant (R345) -/

/-- The space of the head entry `h` is reserved, in the ring or the spill area, where it fits (R339, R345). -/
def grantSpace (c : CoreId) (r : Nat) (h : Row) (s : State) : Option State :=
  let g := s.ring c r
  match if 0 < g.spillMsgs then none else g.fit (s.sc c).wall (mhLen h) with
  | some f => some (reserveRing c r h true f s)
  | none => (g.spillFit (mhLen h)).map fun f => appendSpill c r h true f s

/-- HOLD_GRANT (R345): the head entry is granted when it fits, and its space is reserved; one entry of a ring in a cycle. -/
def execHoldGrant (c : CoreId) (t : Nat) (r : RingId) (s : State) : Answer :=
  let s := advance c t s
  let w := (s.sc c).wall
  let g := s.ring c r.val
  match if g.grantAt == some w then none else g.hold.head? with
  | none => .next s
  | some h =>
    match grantSpace c r.val h s with
    | some s => .next (answerMsg .grant (msgPlane h) 0 h (s.onRing c r.val fun g => { g with hold := g.hold.tail, grantAt := some w }))
    | none => .next s

/-- A short item about a message concerns this outstanding send. A bounce for a message lost or without a route comes from the module
where that happened (R370, R372). -/
def sendOf (s : State) (i : Item) (x : Send) : Bool :=
  x.hdr != 0 && mhSeq x.hdr == i.row && mhTag x.hdr == i.tag && mhDestCore x.hdr == i.srcCore &&
    (mhDest s x.hdr == i.srcPos || (i.kind == .bounce && 9 ≤ i.aux))

/-- The sending core ends a send. -/
def endSend (c : CoreId) (i : Item) (s : State) : State :=
  s.onCc c fun k => { k with sends := k.sends.eraseP (sendOf s i) }

/-- A loss notice about a message to `pos`, `core` (R525). -/
def sendLoss (plane pos core src tag seq : Nat) (s : State) : State :=
  putItem ⟨.loss, plane, pos, core, s.hub.position, src, tag, seq, 0, 0, 3, true, 0⟩ s

/-- The loss notice about the send of header `h`. -/
def lossOf (h : Row) (s : State) : State := sendLoss (msgPlane h) (mhDest s h) (mhDestCore h) (mhSendCore h) (mhTag h) (mhSeq h) s

/-- The copy of a message that the hub keeps. -/
def hubMsg (s : State) (core seq : Nat) : Option (List Row) :=
  s.hub.hl.hostMsgs.find? fun m => match m with
    | h :: _ => mhSendCore h == core && mhSeq h == seq
    | [] => false

/-- The send becomes due for retransmission in cycle `w`, or once the rows it is sending are read. -/
def granted (w : Nat) (y : Send) : Send :=
  if y.state == .reading then { y with again := some w }
  else { y with k := 0, state := .queued, due := w, retx := true, rows := [] }

/-- HOLD_GRANT_ARRIVAL (R334, R345, R355, R525): the send becomes due for retransmission from its first row; a grant of an abandoned
send is answered with a loss notice. The hub sends its copy again. -/
def execHoldGrantArrival (i : Nat) (s : State) : Answer :=
  match itemHere s .grant i with
  | none => .next s
  | some x =>
    let s := dropItem i s
    let lost := sendLoss x.plane x.srcPos x.srcCore x.destCore x.tag x.row s
    if 128 ≤ x.destCore then
      match hubMsg s x.destCore x.row with
      | some rows => .next (forAll (msgItems s rows) putItem s)
      | none => .next lost
    else
      let c := coreNo x.destCore
      let w := (s.sc c).wall
      if (s.cc c).sends.any (sendOf s x) then
        .next (s.onCc c fun k => { k with sends := k.sends.map fun y => if sendOf s x y then granted w y else y })
      else .next lost

/-! ### Acknowledgements, bounces, loss notices (R346, R351, R370, R525) -/

/-- LANDING_ACK_ARRIVAL (R334, R346): the send ends, and NOTIFY adds to its stake. -/
def execLandingAckArrival (t : Nat) (i : Nat) (s : State) : Answer :=
  match itemHere s .msgAck i with
  | none => .next s
  | some x =>
    let s := dropItem i s
    if 128 ≤ x.destCore then .next (hubDone x.destCore x.row s)
    else
      let c := coreNo x.destCore
      let s := advance c t s
      match (s.cc c).sends.find? (sendOf s x) with
      | none => .next s
      | some y =>
        let s := endSend c x s
        .next (if mhNotify y.hdr then arriveNow c none 0 (mhNotifyStk y.hdr) 1 (mhTag y.hdr) s else s)

/-- The sender's bounce record (R351). -/
def bounced (c : CoreId) (h : Row) (reason : Nat) (s : State) : State :=
  postFault c (bounceFlt s h reason) (s.onCc c fun k => { k with bounceCnt := satAdd 0xFFFFFFFF k.bounceCnt 1 })

/-- BOUNCE_ARRIVAL (R351, R355): the record is written and the send ends. A bounce of an abandoned send is discarded. -/
def execBounceArrival (i : Nat) (s : State) : Answer :=
  match itemHere s .bounce i with
  | none => .next s
  | some x =>
    let s := dropItem i s
    if 128 ≤ x.destCore then
      match hubMsg s x.destCore x.row with
      | some (h :: _) => .next (hubBounce h x.aux s)
      | _ => .next s
    else
      let c := coreNo x.destCore
      match (s.cc c).sends.find? (sendOf s x) with
      | none => .next s
      | some y => .next (bounced c y.hdr x.aux (endSend c x s))

/-- A loss notice of a message reaches its receiver (R525). -/
def msgLost (c : CoreId) (x : Item) (s : State) : State :=
  let mine := keyed x.srcPos x.srcCore x.row
  forAll (List.range 16) (fun r s =>
    let g := s.ring c r
    let s := match g.msgs.find? mine with
      | some m => voidRing c r m s
      | none => s
    let s := match g.spill.find? mine with
      | some m => voidSpill c r m s
      | none => s
    s.onRing c r fun g => { g with hold := g.hold.filter fun h => !hdrKey h x.srcPos x.srcCore x.row }) s

/-- Cause of a gate die's loss notice (R326): 1 no route, 2 lost on a port that left UP. -/
def lossCause (x : Item) : Nat := if x.srcCore == 0xFB then 1 else 2

/-- The late item of core `c` that loss notice `x` is about: of its tag, outbound for a lost or discarded write, else inbound; a read that
names its row is the one that has asked for it. -/
def lossItem (s : State) (c : CoreId) (x : Item) : Option LateItem :=
  let mine := fun (l : LateItem) => l.x.tag == x.tag && !l.x.hostEnd s c && l.arrived < l.total
  if x.aux == 1 || x.aux == 7 || x.aux == 8 then (s.en c).late.find? fun l => mine l && !l.inbound
  else (s.en c).late.find? fun l => mine l && l.inbound && l.x.remoteSrc c s &&
    (x.aux != 0 || (List.range l.total).any fun k => rowBase (xAddr s c l.x.srcH (l.x.srcRow k)).1 == x.row)

/-- One row of outbound item `id` will not be acknowledged: the item ends with its other rows, without its arrival (R119, R370). -/
def cutWrite (c : CoreId) (id : Nat) (f : Flt) (s : State) : State :=
  let s := s.onE c fun e => { e with late := e.late.map fun y => if y.x.id == id then { y with cut := true, total := y.total - 1 } else y }
  sweepLate c (lateFault c f s)

/-- A lost or refused row transaction faults its issuing core (R370, R372), as does a row that its target found uncorrectable (R119). -/
def rowLost (c : CoreId) (x : Item) (s : State) : State :=
  match lossItem s c x with
  | none => s
  | some l =>
    let ctx := slotCtx s c l.x.slot.val
    let row := rowBase x.row % 2 ^ 48 + x.srcPos % 2 ^ 16 * 2 ^ 48
    if x.aux == 0 then cutLate c l.x.id { cls := 0x03, source := 5, tag := x.tag, ctx := ctx, row := row,
                                          detail := tierOf x.row + (x.count - 1) * 256 + 2 * 65536 } s
    else
      let f : Flt := { cls := 0x14, source := 5, tag := x.tag, ctx := ctx,
                       detail := lossCause x + (if x.k == 0 then 0xFF else x.k - 1) * 2 ^ 8 + l.x.farPos s % 2 ^ 16 * 2 ^ 16 }
      if l.inbound then cutLate c l.x.id f s else cutWrite c l.x.id f s

/-- The target reports that a gated group (AUX 7) or a locked image row (AUX 8) discarded a row, or that a gated group gave zeros for one
(AUX 9) (R122, R303): the issuer's record, without effect on the core. -/
def rowDiscarded (c : CoreId) (x : Item) (s : State) : State :=
  let ctx := (lossItem s c x).elim 0 fun l => slotCtx s c l.x.slot.val
  let row := rowBase x.row % 2 ^ 48 + x.srcPos % 2 ^ 16 * 2 ^ 48
  let group := match placeOf x.row with
    | .commons _ r => groupOf r
    | .plot _ _ | .deep _ _ | .control | .window | .unpopulated => 0
  postFault c (if x.aux != 8 then { cls := 0x06, source := 5, tag := x.tag, ctx := ctx, row := row, detail := group + (if x.aux == 7 then 256 else 0) }
    else { cls := 0x0B, source := 5, tag := x.tag, ctx := ctx, row := row }) s

/-- A gate die reports that a message of this sender was lost or refused on its way (R370, R372): it bounces LOST or NO_ROUTE at its
sender, which sends the loss notice of R525. -/
def sendLost (x : Item) (s : State) : State :=
  let reason := if lossCause x == 1 then 10 else 9
  if 128 ≤ x.destCore then
    match hubMsg s x.destCore x.row with
    | some (h :: _) => hubBounce h reason (lossOf h s)
    | _ => s
  else
    let c := coreNo x.destCore
    let mine := fun (y : Send) => y.hdr != 0 && mhTag y.hdr == x.tag && mhSeq y.hdr == x.row && mhDest s y.hdr != s.hub.position
    match (s.cc c).sends.find? mine with
    | none => s
    | some y => bounced c y.hdr reason (lossOf y.hdr (s.onCc c fun k => { k with sends := k.sends.eraseP mine }))

/-- The rows of the message that a loss notice names. -/
def rowsOf (x y : Item) : Bool :=
  y.kind == .msgRow && y.destPos == x.destPos && y.destCore == x.destCore && y.srcPos == x.srcPos && y.srcCore == x.srcCore && y.row == x.row

/-- A loss notice `x` of AUX 3 at its receiver (R525): rows of the message that came before it stay ahead of it; the Headland and the host
drop what they hold of the message. -/
def messageLoss (i : Nat) (x : Item) (s : State) : State :=
  if 128 ≤ x.destCore then let s := dropItem i s; { s with net := s.net.filter fun y => !rowsOf x y }
  else if (s.net.take i).any (rowsOf x) then s
  else msgLost (coreNo x.destCore) x (dropItem i s)

/-- A notice names writes of the Headland that are lost: no later ORDERED message waits for them. One that waits already never leaves (R349,
R385). -/
def hubWriteLost (x : Item) (s : State) : State :=
  if x.destCore == 0xFE && x.aux == 1 then s.onHl fun l => { l with wout := l.wout.filter fun w => w.2.2 != x.tag } else s

/-- LOSS_NOTICE_ARRIVAL (R119, R122, R303, R370, R372, R525). A lost acknowledgement, bounce or grant has no effect at its originator; a read
return that came before the notice is taken first. -/
def execLossNoticeArrival (i : Nat) (s : State) : Answer :=
  match itemHere s .loss i with
  | none => .next s
  | some x =>
    let gate := x.srcCore == 0xFD || x.srcCore == 0xFB
    .next (if x.aux == 3 then (if gate then sendLost x (dropItem i s) else messageLoss i x s)
      else if 128 ≤ x.destCore then hubWriteLost x (dropItem i s)
      else if !gate then dropItem i s
      else if 7 ≤ x.aux then rowDiscarded (coreNo x.destCore) x (dropItem i s)
      else if (s.net.take i).any fun y => y.kind == .readRet && y.destPos == x.destPos && y.destCore == x.destCore && y.tag == x.tag then s
      else rowLost (coreNo x.destCore) x (dropItem i s))

/-- MSG_COUNTER_CLEAR (R357). -/
def execMsgCounterClear (c : CoreId) (s : State) : Answer :=
  .next (s.onCc c fun k => { k with bounceCnt := 0, rxBounce := 0, spillCnt := 0, holdCnt := 0 })

/-! ### Sending (R334, R335, R349, R354, R355) -/

/-- ctl.send rd, rs1. -/
def instSend (c : CoreId) (rd rs1 : Reg) (s : State) : State :=
  let row := s.reg c rs1
  ctlGuard (row < 12288) c (ctlWord 5 0 rd.val rs1.val 0) (fun s =>
    if 4 ≤ (s.cc c).sends.length then ccNext c 1 (setReg c rd 1 s)
    else
      let w := (s.sc c).wall
      let ws := (s.en c).writes
      ccNext c 1 (setReg c rd 0 (s.onCc c fun k =>
        { k with sends := k.sends ++ [⟨row, 0, 0, .queued, ws, [], w, false, none, 0⟩] }))) s

/-- CTL_SEND (R317, R334). -/
def execCtlSend (c : CoreId) (t : Nat) (rd rs1 : Reg) (s : State) : Answer := ccCommand c t (instSend c rd rs1) s

/-- The rows of a message leave for the net. -/
def departRows (h : Row) (k0 : Nat) (rows : List Row) (s : State) : State :=
  forAll rows.zipIdx (fun x s => putItem ⟨.msgRow, msgPlane h, mhDest s h, mhDestCore h, mhSendPos h, mhSendCore h, mhTag h, mhSeq h,
    k0 + x.2, mhLen h, 0, k0 + x.2 + 1 == mhLen h, x.1⟩ s) s

def setSend (c : CoreId) (i : Nat) (x : Send) (s : State) : State := s.onCc c fun k => { k with sends := k.sends.set i x }

/-- A send ends without an answer. -/
def dropSend (c : CoreId) (i : Nat) (s : State) : State := s.onCc c fun k => { k with sends := k.sends.eraseIdx i }

/-- Two headers of one sender are for the same ring. -/
def sameRing (s : State) (g h : Row) : Bool := mhDest s g == mhDest s h && mhDestCore g == mhDestCore h && mhRing g == mhRing h

/-- Rows of an earlier message to the same ring wait at the Square: those of `x` stay behind them (R347). -/
def behindEarlier (s : State) (earlier : List Send) (x : Send) : Bool := earlier.any fun y => !y.rows.isEmpty && sameRing s y.hdr x.hdr

/-- The sends before send `i` of core `c`, those that have ended with rows at the Square first. -/
def sendsBefore (s : State) (c : CoreId) (i : Nat) : List Send := (s.cc c).ending ++ (s.cc c).sends.take i

/-- Row `d` of send `i` has been read: it leaves, or waits at the Square behind earlier writes (R349) or an earlier message (R347). -/
def sendRow (c : CoreId) (i : Nat) (x : Send) (d : Row) (s : State) : State :=
  let x := { x with k := x.k + 1, state := .reading }
  let hold := (mhOrdered x.hdr && !x.ordered.isEmpty) || !x.rows.isEmpty || behindEarlier s (sendsBefore s c i) x
  let x := if hold then { x with rows := x.rows ++ [d] } else x
  let x := if x.k != mhLen x.hdr then x
    else match x.again with
      | some w => { x with k := 0, state := .queued, due := w, retx := true, again := none, rows := [] }
      | none => { x with state := .sent }
  let k0 := if x.k == 0 then mhLen x.hdr - 1 else x.k - 1
  let s := setSend c i x s
  if hold then s else departRows x.hdr k0 [d] s

/-- The header row of send `i` is read: stamped, numbered and checked (R335, R338 line 1). -/
def sendHeader (c : CoreId) (i : Nat) (x : Send) (d : Row) (s : State) : State :=
  let slot := mhSlot d
  let fresh := x.hdr == 0
  let seq := if fresh then vget (s.cc c).msgSeq 0 slot else mhSeq x.hdr
  let s := if fresh then s.onCc c fun k => { k with msgSeq := vset k.msgSeq slot ((vget k.msgSeq 0 slot + 1) % 2 ^ 16) } else s
  let h := stampHdr d s.hub.position c.val (slotCtx s c slot) seq
  if mhMalformed h c.val (slotValid s c slot) then bounced c h 8 (dropSend c i s)
  else
    let dest := mhDest s h
    sendRow c i { x with hdr := h, ordered := if mhOrdered h then x.ordered.filter fun w => w.2.1 == dest else [] } h s

/-- Send `i` ends at an uncorrectable row (R355): a record, and the loss notice behind the rows already handed over (R525); those that wait
at the Square leave first. -/
def sendCut (c : CoreId) (i : Nat) (x : Send) (f : Flt) (s : State) : State :=
  let s := postFault c f (dropSend c i s)
  if x.hdr == 0 then s
  else if x.rows.isEmpty then lossOf x.hdr s
  else s.onCc c fun k => { k with ending := k.ending ++ [x] }

/-- The send engine reads row `row`, row `x.k` of send `i`. -/
def sendRead (c : CoreId) (i : Nat) (x : Send) (ecc : Ecc) (s : State) : State :=
  let row := x.row + x.k
  let w := (s.sc c).wall
  let s := (use7 c row s).onCc c fun k => { k with sendRead := some w }
  let a := plotAddr c row
  let (d, s) := if row < 12288 then readNoted s a ecc
    else (0, postFault c (addressFault 4 (s.cc c).tag 0 0 0 row (rowField s a)) s)
  if eccBad ecc && row < 12288 then
    sendCut c i x { cls := 0x03, source := 4, tag := if x.hdr == 0 then (s.cc c).tag else mhTag x.hdr,
                    ctx := if x.hdr == 0 then 0 else mhSendCtx x.hdr % 8, row := rowField s a, detail := eccCw ecc * 256 + 3 * 65536 } s
  else if x.k == 0 then sendHeader c i x d s
  else sendRow c i x d s

/-- SEND_ROW_READ (R90, R119, R334, R354, R355): the send engine's next row, at the first slot-7 opportunity of its bank that no access of a
higher rank claims, from one cycle after it became due and 8 cycles after the engine's last read on. -/
def execSendRowRead (c : CoreId) (t : Nat) (ecc : Ecc) (s : State) : Answer :=
  let s := advance c t s
  match sendPick (s.cc c).sends with
  | none => .next s
  | some (i, x) => whenDue (first7 s c 4 (x.row + x.k) (sendFrom (s.cc c) x)) (sendRead c i x ecc) s

/-- A message whose rows wait at the Square may leave (R347, R349): in the cycle after that of the last write it waited for, and behind the
earlier messages to its ring. -/
def releaseDue (s : State) (c : CoreId) (earlier : List Send) (x : Send) : Bool :=
  x.ordered.isEmpty && !x.rows.isEmpty && x.freeAt < (s.sc c).wall && !behindEarlier s earlier x

/-- ORDERED_RELEASE (R347, R349): the rows of send `i` that wait at the Square leave; from the number of outstanding sends on, `i` counts the
sends that have ended, whose loss notice follows their rows (R525). -/
def execOrderedRelease (c : CoreId) (t : Nat) (i : Nat) (s : State) : Answer :=
  let s := advance c t s
  let j := i - (s.cc c).sends.length
  match (s.cc c).sends[i]? with
  | some x => whenDue (releaseDue s c (sendsBefore s c i) x) (fun s => departRows x.hdr 0 x.rows (setSend c i { x with rows := [] } s)) s
  | none =>
    match (s.cc c).ending[j]? with
    | some x => whenDue (releaseDue s c ((s.cc c).ending.take j) x)
        (fun s => lossOf x.hdr (departRows x.hdr 0 x.rows (s.onCc c fun k => { k with ending := k.ending.eraseIdx j }))) s
    | none => .next s

/-! ### ctl.ring (R337, R348, R350) -/

/-- Op 0: the read pointer is set to `v`; the dispatch pointer is never behind it (R348). -/
def ringSetRptrOp (c : CoreId) (r v : Nat) (s : State) : Nat × State :=
  let g := s.ring c r
  let w := (s.sc c).wall
  let d := fun (p : Nat) => (p + g.size - g.rptr) % g.size
  if g.size ≤ v || d g.wptr < d v then (1, s)
  else
    let dp := vget (s.cc c).dptr 0 r
    let s := s.onRing c r fun g => { g with rptr := v, rptr0 := some (w, g.rptrAt w), landed := g.landed.filter fun l => d v ≤ d l.at_ }
    (0, if d dp < d v then s.onCc c fun k => { k with dptr := vset k.dptr r v } else s)

/-- The spill area lies within one bank group that is set in CMN_FIXED (R337, R342). -/
def spillOk (s : State) (c : CoreId) (g : Ring) : Bool :=
  g.spillSize == 0 ||
    (g.spillBase + g.spillSize ≤ 2 ^ 22 && groupOf g.spillBase == groupOf (g.spillBase + g.spillSize - 1) &&
      (s.die (dieOf c)).fixed.getLsbD (groupOf g.spillBase))

/-- Ring rows overlap a locked image region. -/
def ringLocked (s : State) (c : CoreId) (g : Ring) : Bool :=
  (List.range g.size).any fun i => lockedRow s (plotAddr c (g.base + i))

/-- The ring opens with zero pointers and the next epoch (R337, R352), by ctl.ring in wall cycle `at_`. -/
def openRing (at_ : Option Nat) (g : Ring) : Ring :=
  { g with state := .opened, openAt := at_, rptr0 := none, passAt := none, grantAt := none, epoch := (g.epoch + 1) % 256, wptr := 0, resv := 0, rptr := 0, msgs := [], spill := [], spillResv := 0,
           spillRptr := 0, hold := [], landed := [] }

/-- Op 1 (R337). -/
def ringOpenOp (c : CoreId) (r : Nat) (s : State) : Nat × State :=
  let g := s.ring c r
  if g.state != .closed then (1, s)
  else if g.size == 0 || 12288 < g.base + g.size || ringLocked s c g || !spillOk s c g then (2, s)
  else (0, (s.onRing c r (openRing (some (s.sc c).wall))).onCc c fun k => { k with dptr := vset k.dptr r 0 })

/-- Spilled messages and held entries of a ring are bounced in order (R350, R352). -/
def bounceWaiting (c : CoreId) (r reason : Nat) (s : State) : State :=
  let g := s.ring c r
  let hs := ((g.spill.filter fun m => !m.filler && !m.void).map (·.hdr)) ++ g.hold
  let s := s.onRing c r fun g => { g with spill := [], spillRptr := g.spillResv, hold := [] }
  forAll hs (fun h s => rxBounce c (msgPlane h) reason h s) s

/-- The entry was placed in wall cycle `w` and nothing of it has landed. -/
def RMsg.fresh (w : Nat) (m : RMsg) : Bool := m.cyc == w && (m.filler || m.got == 0) && !m.void && !m.wait

/-- A message whose header arrived in the close's own cycle is bounced, and its reservation is taken back (R350, R355). -/
def unplace (c : CoreId) (r : Nat) (s : State) : State :=
  let w := (s.sc c).wall
  let late := (s.ring c r).msgs.dropWhile fun m => !m.fresh w
  let s := s.onRing c r fun g => { g with msgs := g.msgs.takeWhile fun m => !m.fresh w, resv := late.head?.elim g.resv fun m => m.at_ }
  forAll (late.filter fun m => !m.filler) (fun m s => rxBounce c (msgPlane m.hdr) 1 m.hdr (dropRows c r m.hdr s)) s

/-- Op 2 (R350). -/
def ringCloseOp (c : CoreId) (r : Nat) (s : State) : Nat × State :=
  if (s.ring c r).state != .opened then (1, s)
  else (0, bounceWaiting c r 1 (unplace c r (s.onRing c r fun g => { g with state := .closed })))

/-- ctl.ring rd, rs1, rs2; op 3 is illegal. -/
def instRing (c : CoreId) (rd rs1 rs2 : Reg) (s : State) : State :=
  let r := s.reg c rs1
  let b := s.reg c rs2
  ctlGuard (r < 16 && b % 4 != 3 && bitsOf b 2 14 == 0 && b < 2 ^ 26) c (ctlWord 5 1 rd.val rs1.val rs2.val) (fun s =>
    let x := if b % 4 == 0 then ringSetRptrOp c r (b / 2 ^ 16) s else if b % 4 == 1 then ringOpenOp c r s else ringCloseOp c r s
    ccNext c 1 (setReg c rd x.1 x.2)) s

/-- A ctl.ring whose op is `op` issues. -/
def ringCommand (c : CoreId) (t op : Nat) (rd rs1 rs2 : Reg) (s : State) : Answer :=
  atCore c t (fun s => ccIssues s c && s.reg c rs2 % 4 == op) (instRing c rd rs1 rs2) s

/-- RING_SET_RPTR (R337, R348). -/
def execRingSetRptr (c : CoreId) (t : Nat) (rd rs1 rs2 : Reg) (s : State) : Answer := ringCommand c t 0 rd rs1 rs2 s
/-- RING_OPEN (R337, R342). -/
def execRingOpen (c : CoreId) (t : Nat) (rd rs1 rs2 : Reg) (s : State) : Answer := ringCommand c t 1 rd rs1 rs2 s
/-- RING_CLOSE (R337, R350). -/
def execRingClose (c : CoreId) (t : Nat) (rd rs1 rs2 : Reg) (s : State) : Answer := ringCommand c t 2 rd rs1 rs2 s

end Sys2Proof.Machine
end

