-- ==== Sys2Proof/Machine/Links.lean ====
section
/-! DEFINITION. Links (R358 to R379): frames, replay and credit, ports, routes, remote row transactions, management flits. -/

namespace Sys2Proof.Machine

open Sys2Proof

/-- The hub reaches wall time `ns`; an earlier time is the present one. -/
def State.atNs (ns : Nat) (s : State) : State := s.onHub fun h => { h with ns := if h.ns ≤ ns then ns else h.ns }

/-- The time base in units of 2^-4 ns (R362). -/
def tb16 (s : State) : Nat := s.hub.tb.count / 2 ^ 28 % 2 ^ 64

/-! ### Frames (R361, R362) -/

def ldField (l : BitVec 384) (off len : Nat) : Nat := bitsOf l.toNat (8 * off) (8 * len)
def ldFseq (l : BitVec 384) : Nat := ldField l 0 2 % 2 ^ 12
def ldIdle (l : BitVec 384) : Bool := bitOf (ldField l 0 2) 15
def ldAseq (l : BitVec 384) : Nat := ldField l 2 2 % 2 ^ 12
def ldNak (l : BitVec 384) : Bool := bitOf (ldField l 2 2) 15
def ldEcho (l : BitVec 384) : Option Nat := if bitOf (ldField l 4 2) 15 then some (ldField l 4 2 % 2 ^ 12) else none
def ldTs (l : BitVec 384) : Option Nat := if bitOf (ldField l 6 1) 0 then some (ldField l 8 8) else none
def ldLocked (l : BitVec 384) : Bool := bitOf (ldField l 6 1) 1
def ldPort (l : BitVec 384) : Nat := ldField l 7 1
def ldEchoRx (l : BitVec 384) : Nat := ldField l 0x10 8
def ldSrcPos (l : BitVec 384) : Nat := ldField l 0x18 2
def ldCredit (l : BitVec 384) : Nat := ldField l 0x1A 2 % 2 ^ 12

/-- Bytes 0x00 to 0x2F of a lead flit. -/
def leadBits (fseq : Nat) (idle : Bool) (aseq : Nat) (nak : Bool) (echo : Option (Nat × Nat)) (ts : Option Nat) (locked : Bool)
    (port srcPos credit : Nat) : BitVec 384 :=
  BitVec.ofNat 384 (fseq % 2 ^ 12 + b2n idle * 2 ^ 15 + aseq % 2 ^ 12 * 2 ^ 16 + b2n nak * 2 ^ 31 +
    (match echo with
      | some e => e.1 % 2 ^ 12 * 2 ^ 32 + 2 ^ 47 + e.2 % 2 ^ 64 * 2 ^ 128
      | none => 0) +
    (match ts with
      | some t => 2 ^ 48 + t % 2 ^ 64 * 2 ^ 64
      | none => 0) + b2n locked * 2 ^ 49 + port % 2 ^ 8 * 2 ^ 56 + srcPos % 2 ^ 16 * 2 ^ 192 + credit % 2 ^ 12 * 2 ^ 208)

/-- The flits of a frame with their descriptors; empty ones apart (R363). -/
def frameItems (f : Frame) : List (BitVec 128 × Flit) := (f.descs.zip f.flits).filter fun x => dKind x.1 != 0

/-- LOCKED in outgoing lead flits (R381, R384). -/
def sendsLocked (t : Tb) : Bool := t.locked && (t.master || !t.holdover)

/-- The slot's flit under R365: of the owner, else of the next source, else of the one after. -/
def slotFlit (out : Vector (List OutFlit) 3) (owner : Nat) : Option (Nat × OutFlit) :=
  [owner, (owner + 1) % 3, (owner + 2) % 3].findSome? fun i => (vget out [] i).head?.map fun x => (i, x)

/-- `n` data slots of a frame are filled from slot number `slot` on, as far as credit goes. -/
def fillSlots : Nat → Port → List OutFlit → Port × List OutFlit
  | 0, k, acc => (k, acc)
  | n + 1, k, acc =>
    match if k.credit == 0 then none else slotFlit k.out (k.slot % 3) with
    | none => fillSlots n { k with slot := (k.slot + 1) % 3 } acc
    | some (i, x) => fillSlots n { k with slot := (k.slot + 1) % 3, credit := k.credit - 1, out := vset k.out i (vget k.out [] i).tail } (acc ++ [x])

/-- A frame of these flits, padded with empty descriptors. -/
def frameOf (lead : BitVec 384) (xs : List OutFlit) : Frame :=
  ⟨lead, (List.range 13).map fun i => (xs.getD i (0, 0, 0)).1, (List.range 13).map fun i => (xs.getD i (0, 0, 0)).2.1⟩

/-- The lead flit of a resent frame (R367): unchanged but for the time fields; a NAK that is due goes with the next lead flit, with its ASEQ. -/
def resentLead (l : BitVec 384) (k : Port) (locked : Bool) : BitVec 384 :=
  leadBits (ldFseq l) (ldIdle l) (if k.nakDue then k.rseq else ldAseq l) (ldNak l || k.nakDue) k.echo none locked (ldPort l) (ldSrcPos l) (ldCredit l)

/-- FRAME_TRANSMIT (R361, R362, R365 to R367, R382): a resent frame goes ahead of every source; a new one is numbered while the replay
buffer has room; without data it is IDLE. -/
def execFrameTransmit (p : PortId) (ns : Nat) (s : State) : Answer :=
  let s := s.atNs ns
  let k := s.port p
  whenDue (k.state == .up) (fun s =>
    let now := tb16 s
    let lk := sendsLocked s.hub.tb
    if 0 < k.resend then
      match k.replay[k.replay.length - k.resend]? with
      | none => s.setPort p { k with resend := 0 }
      | some (_, f) =>
        let lead := resentLead f.lead k lk
        s.setPort p { k with resend := k.resend - 1, nakDue := false, sinceTs := satAdd (2 ^ 14) k.sinceTs 1, slot := (k.slot + 1) % 3,
                             wire := some { f with lead := lead } }
    else
      let (k', xs) := if k.replay.length < 256 then fillSlots 13 k [] else ({ k with slot := (k.slot + 1) % 3 }, [])
      let timed := 2 ^ 14 ≤ k.sinceTs + 1
      let idle := xs.isEmpty
      let f := frameOf (leadBits k.fseq idle k.rseq k.nakDue k.echo (if timed then some now else none) lk p.val s.hub.position k.freed) xs
      s.setPort p { k' with wire := some f, nakDue := false, freed := 0, sinceTs := if timed then 0 else k.sinceTs + 1,
                            tsSent := if timed then some (k.fseq, now) else k.tsSent,
                            fseq := if idle then k.fseq else (k.fseq + 1) % 4096,
                            replay := if idle then k.replay else k.replay ++ [(k.fseq, f)],
                            seqs := if idle then k.seqs else k.seqs ++ [(k.fseq, xs.map fun x => x.2.2)] }) s

/-! ### Loss (R370, R372) -/

/-- The notices for a lost (cause 2) or refused (cause 1) flit on plane `pl`, with the local port that left UP (`port` one more, 0 for
none). A message's notice carries its SEQ (R364). A lost loss notice is not reported. -/
def lostFlit (own pl cause port : Nat) (x : OutFlit) : List Item :=
  let d := x.1
  let note := fun (pos core tag row kind mark : Nat) => (⟨.loss, pl, pos, core, own, mark, tag, row, port, 0, kind, true, 0⟩ : Item)
  match dKind d with
  | 1 | 2 => [note (dSrcPos d) (dSrcCore d) (dTag d) 0 (dKind d) (ItemKind.write.lossMark cause)]
  | 3 => [note (dSrcPos d) (dSrcCore d) (dTag d) x.2.2 3 (ItemKind.msgRow.lossMark cause)]
  | 4 => (List.range 16).filterMap fun i => (shortItem (dDest d) pl (bitsOf x.2.1.toNat (128 * i) 128)).bind fun y =>
      if y.kind == .loss then none else some (note y.srcPos y.srcCore y.tag 0 4 (y.kind.lossMark cause))
  | _ => []

/-- The lost rows of a list of lost flits, each by one of its halves: the first half of a row whose second half is lost too is left out. -/
def lostRows : List OutFlit → List OutFlit
  | [] => []
  | x :: xs =>
    if (dKind x.1 == 1 || dKind x.1 == 2 || dKind x.1 == 3) && dHalf x.1 == 0 && xs.any fun y => y.1.toNat == x.1.toNat + 16 then lostRows xs
    else x :: lostRows xs

/-- A flit that waited at a port is routed again (R373). -/
def reroute (pl : Nat) (x : OutFlit) (s : State) : State :=
  match wayTo s (dDest x.1) pl with
  | .port q => s.onPort q fun k => { k with out := vset k.out (portSource q) (vget k.out [] (portSource q) ++ [x]) }
  | .here | .refused => forAll (lostFlit s.hub.position pl 1 0 x) putItem s

/-- The record and attention of a port that leaves UP, or that hears no heartbeat (R449, R456). -/
def linkAlarm (p : PortId) (s : State) : State :=
  attention 3 (headlandFault { cls := 0x15, source := 6, tag := 0, ctx := 0, detail := 11 + (s.port p).peerPos % 2 ^ 16 * 2 ^ 176 } s)

/-- The flits of the replay buffer in the order sent. -/
def replayFlits (k : Port) : List OutFlit :=
  k.replay.flatMap fun r =>
    (frameItems r.2).zipIdx.map fun y => (y.1.1, y.1.2, ((k.seqs.find? fun q => q.1 == r.1).elim [] (·.2)).getD y.2 0)

/-- A port leaves UP for state `st` (R369, R370): its replay buffer is lost, waiting flits are routed again. -/
def leaveUp (p : PortId) (st : PortState) (s : State) : State :=
  let k := s.port p
  let pl := p.val / 7
  let lost := (lostRows (replayFlits k)).flatMap (lostFlit s.hub.position pl 2 (p.val + 1))
  let waiting := (List.range 3).flatMap fun i => vget k.out [] i
  let s := s.setPort p { k with state := st, replay := [], seqs := [], resend := 0, nakOut := false, nakDue := false, naks := (0, 0),
                                halves := [], resentTo := none, echo := none, tsSent := none, out := Vector.replicate 3 [], wire := none,
                                fails := if st == .failed then satAdd 0xFF k.fails 1 else k.fails }
  linkAlarm p (forAll waiting (reroute pl) (forAll lost putItem s))

/-- A port goes to state `st`, with R370's losses when it was UP. -/
def portTo (p : PortId) (st : PortState) (s : State) : State :=
  if (s.port p).state == .up then leaveUp p st s else s.onPort p fun k => { k with state := st }

/-! ### Ports (R369, R386) -/

/-- LEAD_FLIT_TIMEOUT (R369): 4 µs without a correctable lead flit. -/
def execLeadFlitTimeout (p : PortId) (ns : Nat) (s : State) : Answer :=
  let s := s.atNs ns
  whenDue ((s.port p).state == .up && (s.port p).lastLead + 4000 ≤ s.hub.ns) (leaveUp p .failed) s

/-- PORT_TRAINING_COMPLETE (R366, R369, R386): the port is UP with full credit, its peer and flight recorded. -/
def execPortTrainingComplete (p : PortId) (ns : Nat) (peerPos : BitVec 16) (peerPort : PortId) (flight : Nat) (s : State) : Answer :=
  let s := s.atNs ns
  whenDue ((s.port p).state == .training || (s.port p).state == .failed) (fun s =>
    let now := s.hub.ns
    s.onPort p fun k =>
      { k with state := .up, credit := 1024, fseq := 0, rseq := 4095, slot := 0, freed := 0, sinceTs := 0, replay := [], seqs := [],
               resend := 0, rxMsg := [], resentTo := none,
               nakOut := false, nakDue := false, naks := (0, 0), peerPos := peerPos.toNat, peerPort := peerPort.val,
               flight := satAdd 2047 flight 0, lastLead := now, lastBeat := now }) s

/-- PORT_TRAIN (R386). -/
def execPortTrain (p : PortId) (s : State) : Answer := .next (portTo p .training s)

/-- PORT_DISABLE (R386). -/
def execPortDisable (p : PortId) (s : State) : Answer := .next (portTo p .down s)

/-- LNK_COUNTER_CLEAR (R386). -/
def execLnkCounterClear (p : PortId) (s : State) : Answer :=
  .next (s.onPort p fun k => { k with corr := 0, uncorr := 0, retry := 0, fails := 0 })

/-! ### Routes (R371, R372, R374) -/

/-- The route table with one entry written. -/
def setRoute (pos e : Nat) : List (Nat × Nat) → List (Nat × Nat)
  | [] => if e == 0x0F then [] else [(pos, e)]
  | x :: xs =>
    if pos < x.1 then (if e == 0x0F then x :: xs else (pos, e) :: x :: xs)
    else if pos == x.1 then (if e == 0x0F then xs else (pos, e) :: xs)
    else x :: setRoute pos e xs

/-- A route entry is written: items routed in the same always-on cycle use the old entry (R374, R385). -/
def writeRoute (pos e : Nat) (s : State) : State :=
  let old := routeEntry s pos
  s.onHub fun h =>
    let l := if h.route0.1 == h.ns / 10 then h.route0.2 else []
    { h with routes := setRoute pos e h.routes, route0 := (h.ns / 10, if l.any (fun x => x.1 == pos) then l else (pos, old) :: l) }

/-- ROUTE_ENTRY_WRITE (R372, R374). -/
def execRouteEntryWrite (pos : BitVec 16) (v : BitVec 8) (s : State) : Answer :=
  whenDue s.hub.pwr.alwaysOn (writeRoute pos.toNat (v.toNat % 16)) s

/-- LNK_TORUS_WRITE (R371, R387): ignored when the dimensions' product is above 65,535. -/
def torusWrite (v : Word) (s : State) : State :=
  let x := bitsOf v.toNat 0 6
  let y := bitsOf v.toNat 8 6
  let z := bitsOf v.toNat 16 6
  if 65535 < (x + 1) * (y + 1) * (z + 1) then s
  else s.onHub fun h => { h with torus := BitVec.ofNat 32 (x + y * 2 ^ 8 + z * 2 ^ 16) }

def execLnkTorusWrite (v : Word) (s : State) : Answer := .next (torusWrite v s)

/-! ### Receiving (R363, R364, R366 to R369) -/

/-- A loss notice of a message ends its reception here: what comes after it is another message's (R525). -/
def endRx (i : Item) (s : State) : State :=
  if i.kind == .loss && i.aux == 3 then
    forAll allPorts (fun p s => if (s.port p).rxMsg.isEmpty then s else s.onPort p fun k =>
      { k with rxMsg := k.rxMsg.filter fun m =>
          !(m.destPos == i.destPos && m.srcPos == i.srcPos && m.srcCore == i.srcCore && m.tag == i.tag && m.seq == i.row) }) s
  else s

/-- An item received on port `p` goes on its way (R360, R372, R373): transit inside the gate die is source 2.
An acknowledgement of the hub's own writes is taken at once. -/
def itemIn (p : PortId) (i : Item) (s : State) : State :=
  let s := endRx i s
  match wayTo s i.destPos i.plane with
  | .here => if i.kind == .writeAck && 128 ≤ i.destCore then s else { s with net := s.net ++ [i] }
  | .port q =>
    let src := if q.val / 7 == p.val / 7 then 2 else portSource q
    s.onPort q fun k => { k with out := vset k.out src (vget k.out [] src ++ i.flits) }
  | .refused => if i.kind == .loss then s else putItem (i.answer s.hub.position 1) s

/-- The message being received that a row of descriptor `d` belongs to, with the port that keeps it: a substituted plane brings its later rows
on another port (R373). -/
def rxOf (d : BitVec 128) (s : State) : Option (PortId × RxMsg) :=
  allPorts.findSome? fun p => ((s.port p).rxMsg.find? fun m =>
    m.destPos == dDest d && m.srcPos == dSrcPos d && m.srcCore == dSrcCore d && m.tag == dTag d).map fun m => (p, m)

/-- A whole row with its descriptor (R363): a message's header carries the addressing of its rows. -/
def rowIn (p : PortId) (d : BitVec 128) (r : Row) (s : State) : State :=
  let pl := p.val / 7
  match dKind d with
  | 1 => itemIn p ⟨.write, pl, dDest d, 512 * dRow d / 0x1000000 % 128, dSrcPos d, dSrcCore d, dTag d, 512 * dRow d, 0, 1, 0, dLast d, r⟩ s
  | 2 => itemIn p ⟨.readRet, pl, dDest d, dSrcCore d, dSrcPos d, dSrcCore d, dTag d, 0, dRow d / 256 % 256, 1, dRow d % 256, dLast d, r⟩ s
  | _ =>
    let (q, m) := (rxOf d s).getD (p, ⟨dDest d, dSrcPos d, dSrcCore d, dTag d, mhDestCore r, mhSeq r, mhLen r, 0⟩)
    let s := s.onPort q fun k =>
      let rest := k.rxMsg.filter fun y => y != m
      { k with rxMsg := if dLast d then rest else rest ++ [{ m with next := m.next + 1 }] }
    itemIn p ⟨.msgRow, pl, m.destPos, m.destCore, m.srcPos, m.srcCore, m.tag, m.seq, m.next, m.len, 0, dLast d, r⟩ s

/-- One data flit received on port `p`: halves make rows, short items go one by one, a heartbeat is noted (R363, R364, R449). -/
def flitIn (p : PortId) (x : BitVec 128 × Flit) (s : State) : State :=
  let d := x.1
  let pl := p.val / 7
  let now := s.hub.ns
  match dKind d with
  | 1 | 2 | 3 =>
    if dHalf d == 0 then s.onPort p fun k => { k with halves := k.halves ++ [x] }
    else
      let mine := fun (y : BitVec 128 × Flit) => y.1.toNat + 16 == d.toNat
      match (s.port p).halves.find? mine with
      | none => s
      | some y => rowIn p d (BitVec.ofNat 4096 (y.2.toNat + x.2.toNat * 2 ^ 2048)) (s.onPort p fun k => { k with halves := k.halves.eraseP mine })
  | 4 => forAll ((List.range 16).filterMap fun i => shortItem (dDest d) pl (bitsOf x.2.toNat (128 * i) 128)) (itemIn p) s
  | 5 =>
    if x.2.toNat % 256 == 4 then s.onPort p fun k => { k with lastBeat := now }
    else if dDest d == s.hub.position || (s.port p).peerPos == dSrcPos d then
      { s with net := s.net ++ [⟨.mgmt, pl, s.hub.position, 0xFE, dSrcPos d, dSrcCore d, dTag d, 0, 0, 1, 0, true, BitVec.ofNat 4096 x.2.toNat⟩] }
    else itemIn p ⟨.mgmt, pl, dDest d, 0xFE, dSrcPos d, dSrcCore d, dTag d, 0, 0, 1, 0, true, BitVec.ofNat 4096 x.2.toNat⟩ s
  | _ => s

/-- Frame `a` is frame `b` or precedes it (R367). -/
def fseqLe (a b : Nat) : Bool := (b + 4096 - a) % 4096 ≤ 2047

/-- A discarded frame gives its credit back, and the next lead flit says NAK (R366, R367). The frames discarded since the NAK are those that
come again: an uncorrectable frame is taken for the next in order. -/
def discardFrame (p : PortId) (f : Frame) (nak : Bool) (s : State) : State :=
  s.onPort p fun k =>
    let top := if nak then some ((k.resentTo.getD k.rseq + 1) % 4096)
      else if k.nakOut && !fseqLe (ldFseq f.lead) k.rseq then some (ldFseq f.lead) else k.resentTo
    { k with freed := satAdd 4095 k.freed (frameItems f).length, nakOut := k.nakOut || nak, nakDue := k.nakDue || nak, resentTo := top }

/-- ASEQ acknowledges every frame up to it; NAK asks for the frames after it again (R367). Eight NAKs of one frame fail the port. -/
def ackFrames (p : PortId) (aseq : Nat) (nak : Bool) (s : State) : State :=
  let k := s.port p
  let left := k.replay.filter fun r => let b := (r.1 + 4096 - aseq) % 4096; 1 ≤ b && b ≤ 2047
  let kept := fun (q : Nat × List Nat) => left.any fun r => r.1 == q.1
  let f := (aseq + 1) % 4096
  let n := if k.naks.2 == f && 0 < k.naks.1 then k.naks.1 + 1 else 1
  if nak then
    let s := (s.setPort p { k with replay := left, seqs := k.seqs.filter kept, resend := left.length, naks := (n, f), retry := satAdd 0xFFFF k.retry 1 }).onHub fun h =>
      { h with riskIn := (h.riskIn.1, h.riskIn.2.1 + 1, h.riskIn.2.2) }
    if 8 ≤ n then leaveUp p .failed s else s
  else s.setPort p { k with replay := left, seqs := k.seqs.filter kept, resend := if k.resend ≤ left.length then k.resend else left.length,
                            naks := if left.length < k.replay.length then (0, 0) else k.naks }

/-! ### The time base (R380 to R384) -/

/-- The upstream port in use. -/
def upstream (t : Tb) : Nat := if t.onBackup then t.upBak else t.upPri

/-- The applied adjustment is at most 50e-6, in units of 2^-32. -/
def clipAdj (z : Int) : Int := if z < -214748 then -214748 else if 214748 < z then 214748 else z

/-- TB_OFFSET saturates to 32 bits. -/
def clip32 (z : Int) : Int := if z < -2 ^ 31 then -2 ^ 31 else if 2 ^ 31 - 1 < z then 2 ^ 31 - 1 else z

/-- A usable exchange with offset `o`, in 2^-4 ns (R382 to R384): the count is set once, steps forward before any launch when it is more
than 1 µs behind, and is slewed in every other case. The frequency estimate and the slew are free values. -/
def tbExchange (o : Int) (s : State) : State :=
  let n := s.free
  let now := s.hub.ns
  let t := s.hub.tb
  let est := ((t.count : Int) + o * 2 ^ 28).toNat
  let rho := Config.freeRho n
  let t := { t with lastGood := now, offset := clip32 o, rho := rho, adj := clipAdj (rho + Config.freeSigma n), holdover := false,
                    refLost := t.refLost && !(-64 < o && o < 64) }
  let t := if !t.wasSet then { t with count := if t.count ≤ est then est else t.count, locked := true, wasSet := true }
    else if !t.launched && 16000 < o then { t with count := est }
    else t
  (s.onTb fun _ => t).fresh

/-- The time fields of a lead flit received at `t4` (R382). -/
def timeFields (p : PortId) (l : BitVec 384) (t4 : Nat) (s : State) : State :=
  let k := s.port p
  let s := match ldTs l with
    | some _ => s.onPort p fun k => { k with echo := some (ldFseq l, t4) }
    | none => s
  match ldTs l, ldEcho l, k.tsSent with
  | some t3, some n, some (m, t1) =>
    if n != m then s
    else
      let a : Int := (ldEchoRx l : Int) - t1
      let b : Int := (t4 : Int) - t3
      let s := s.onPort p fun k => { k with tsDelay := BitVec.ofNat 32 ((a + b) / 2).toNat }
      let t := s.hub.tb
      if !t.master && upstream t == p.val && ldLocked l then
        tbExchange ((a - b) / 2 - Config.calAsymmetry s.hub.calUsed p.val) s
      else s
  | _, _, _ => s

/-- A frame received in order on an UP port: acknowledgements, credit, time, then its flits. TS_TX counts neither in a resent frame nor while a
NAK is outstanding (R367). -/
def acceptFrame (p : PortId) (f : Frame) (s : State) : State :=
  let now := tb16 s
  let k := s.port p
  let again := k.nakOut || (!ldIdle f.lead && k.resentTo.any fun b => fseqLe (ldFseq f.lead) b)
  let s := s.onPort p fun k => { k with credit := satAdd 1024 k.credit (ldCredit f.lead), freed := satAdd 4095 k.freed (frameItems f).length,
                                        nakOut := if ldIdle f.lead then k.nakOut else false,
                                        resentTo := if ldIdle f.lead || k.resentTo != some (ldFseq f.lead) then k.resentTo else none }
  let s := if again then s else timeFields p f.lead now s
  let s := ackFrames p (ldAseq f.lead) (ldNak f.lead) s
  hubRelease (forAll (frameItems f) (flitIn p) s)

/-- FRAME_RECEIVE (R362 to R369, R382). -/
def execFrameReceive (p : PortId) (ns : Nat) (f : Frame) (fec : Fec) (s : State) : Answer :=
  let s := s.atNs ns
  let now := s.hub.ns
  whenDue ((s.port p).state == .up) (fun s =>
    match fec with
    | .uncorrectable n m =>
      discardFrame p f true (s.onPort p fun k => { k with uncorr := satAdd 0xFF k.uncorr n, corr := satAdd 0xFFFFFF k.corr m })
    | .good n =>
      let s := s.onPort p fun k => { k with corr := satAdd 0xFFFFFF k.corr n, lastLead := now }
      let k := s.port p
      if ldSrcPos f.lead != k.peerPos || ldPort f.lead != k.peerPort then leaveUp p .failed s
      else if ldIdle f.lead then acceptFrame p f s
      else if ldFseq f.lead == (k.rseq + 1) % 4096 then acceptFrame p f (s.onPort p fun k => { k with rseq := (k.rseq + 1) % 4096 })
      else discardFrame p f false s) s

/-- A value set in TB_SET: the base moves forward to the whole second it names, at the master before any launch (R381). -/
def tbSet (v : BitVec 64) (s : State) : State :=
  s.onTb fun t =>
    let c := if t.master && !t.launched && t.count < v.toNat * 2 ^ 32 then v.toNat * 2 ^ 32 else t.count
    { t with set := v, count := c }

/-- TB_SET_WRITE (R381, R387): the master alone, forward only, before any launch. -/
def execTbSetWrite (v : BitVec 64) (s : State) : Answer := .next (tbSet v s)

/-- EXT_REF_LOCK (R381, R384): the rate follows the reference, and the master is locked. -/
def execExtRefLock (ns : Nat) (s : State) : Answer :=
  let s := s.atNs ns
  whenDue (s.hub.tb.master && s.hub.tb.extRef) (fun s =>
    let n := s.free
    (s.onTb fun t => { t with locked := true, refLost := false, holdover := false, adj := clipAdj (Config.freeExtRate n) }).fresh) s

/-- REF_LOST is set (R384, R387). -/
def loseRef (s : State) : State := hubSetBit (hubBlock 0x40014) 2 (s.onTb fun t => { t with refLost := true })

/-- EXT_REF_LOCK_TIMEOUT (R381): the reference has not locked within 10 ms of boot. -/
def execExtRefLockTimeout (ns : Nat) (s : State) : Answer :=
  let s := s.atNs ns
  whenDue (s.hub.tb.master && s.hub.tb.extRef && !s.hub.tb.locked && s.hub.hl.bootDone && s.hub.hl.bootAt + 10000000 ≤ s.hub.ns)
    (fun s => loseRef (s.onTb fun t => { t with locked := true, holdover := true })) s

/-- A module holds over (R384): the last corrected rate, the flags, the alarm and a link record of cause 4. -/
def holdOver (port : Nat) (s : State) : State :=
  headlandFault { cls := 0x14, source := 6, tag := 0, ctx := 0, detail := 4 + port % 256 * 2 ^ 8 + 0xFFFF * 2 ^ 16 }
    (loseRef (s.onTb fun t => { t with adj := clipAdj t.rho, holdover := true, alarms := satAdd 0xFF t.alarms 1 }))

/-- UPSTREAM_TIMEOUT (R384): 10 ms without a usable exchange: the backup port, or holdover. -/
def execUpstreamTimeout (ns : Nat) (s : State) : Answer :=
  let s := s.atNs ns
  let t := s.hub.tb
  let now := s.hub.ns
  whenDue (!t.master && !t.holdover && t.lastGood + 10000000 ≤ now) (fun s =>
    if t.bakEn && !t.onBackup then s.onTb fun t => { t with onBackup := true, lastGood := now }
    else holdOver (upstream t) s) s

/-- REFERENCE_INPUT_LOSS (R384). -/
def execReferenceInputLoss (ns : Nat) (s : State) : Answer :=
  let s := s.atNs ns
  whenDue (s.hub.tb.master && s.hub.tb.extRef) (holdOver 0xFF) s

/-- TIME_BASE_TICK (R380): one tick of 10 ns of the always-on domain, while it has a supply (R477). -/
def execTimeBaseTick (s : State) : Answer :=
  .next (if !s.hub.pwr.alwaysOn then s.onHub fun h => { h with ns := h.ns + 10 } else s.onHub fun h => { h with ns := h.ns + 10, tb := { h.tb with count := (((h.tb.count : Int) + 10 * 2 ^ 32 + 10 * h.tb.adj).toNat) } })

/-! ### Remote row transactions (R375, R376) -/

/-- No earlier request of the same core to the same die's deep memory is on its way to it (R104). -/
def deepFirst (s : State) (i : Nat) (x : Item) : Bool :=
  match placeOf x.row with
  | .deep d _ => (s.net.take i).all fun y => !((y.kind == .write || y.kind == .readReq) && y.destPos == x.destPos && y.srcPos == x.srcPos &&
      y.srcCore == x.srcCore && (match placeOf y.row with
        | .deep e _ => e == d
        | .plot _ _ | .commons _ _ | .control | .window | .unpopulated => false))
  | .plot _ _ | .commons _ _ | .control | .window | .unpopulated => true

/-- A notice of the target to the requester about row `a` (log entry 118). -/
def notice (x : Item) (kind a count : Nat) (s : State) : State :=
  putItem ⟨.loss, x.plane, x.srcPos, x.srcCore, s.hub.position, 0xFD, x.tag, a, 0, count, kind, true, 0⟩ s

/-- The rows of read request `x` from row `k` on are returned, `n` of them: one of a group that gives no data as zeros with a notice (R122);
the first uncorrectable one ends the return (R119). -/
def serveRead (x : Item) (err : ReadErr) : Nat → Nat → State → State
  | 0, _, s => s
  | n + 1, k, s =>
    let a := x.row + 512 * k
    let ret := fun (d : Row) (s : State) => putItem ⟨.readRet, x.plane, x.srcPos, x.srcCore, x.srcPos, x.srcCore, x.tag, a, k, x.count, x.aux,
      k + 1 == x.count, d⟩ s
    let gated := match placeOf a with
      | .commons d row => gatedFor s d row false
      | .plot _ _ | .deep _ _ | .control | .window | .unpopulated => false
    if !populated a then serveRead x err n (k + 1) (ret 0 s)
    else if gated then serveRead x err n (k + 1) (ret 0 (notice x 9 a 0 s))
    else
      let e := readEcc s a (errAt err k)
      let (d, s) := readNoted s a e
      if eccBad e then notice x 0 a (eccCw e + 1) s else serveRead x err n (k + 1) (ret d s)

/-- REMOTE_READ_REQUEST (R104, R107, R119, R122, R375): the rows are read in order and returned; an unpopulated row returns zeros. -/
def execRemoteReadRequest (i : Nat) (err : ReadErr) (s : State) : Answer :=
  match itemHere s .readReq i with
  | none => .next s
  | some x => whenDue (deepFirst s i x) (fun s => serveRead x err x.count 0 (dropItem i s)) s

/-- A row write from another core, module or the hub reaches its place: a Plot row waits in its core's landing buffer, a Commons row for its
bank, a deep-memory row is written; an unpopulated row is discarded and acknowledged. -/
def takeWrite (x : Item) (s : State) : State :=
  let o : LandOwner := .write x.srcPos x.srcCore x.tag x.plane
  match if populated x.row then placeOf x.row else .unpopulated with
  | .plot c r =>
    let w := (s.sc c).wall
    s.onM c fun m => { m with land := m.land ++ [⟨.plot r, x.data, w, o⟩] }
  | .commons d _ =>
    let c := coreNo (16 * d.val)
    let w := (s.sc c).wall
    s.onM c fun m => { m with cmnIn := m.cmnIn ++ [⟨rowBase x.row, x.data, o, w⟩] }
  | .deep d _ =>
    let c := coreNo (16 * d.val)
    rowPlaced c o x.row (inboundWrite c o (rowBase x.row) x.data s)
  | .control | .window | .unpopulated => ackWrite x.srcPos x.srcCore x.tag x.plane x.row s

/-- The landing buffer that the row would enter has room (R88). -/
def writeRoom (s : State) (x : Item) : Bool :=
  match placeOf x.row with
  | .plot c _ => (s.cm c).land.length < 64
  | .commons _ _ | .deep _ _ | .control | .window | .unpopulated => true

/-- No earlier write of the host waits: its transactions are performed in arrival order (R487). -/
def hostFirst (s : State) (i : Nat) (x : Item) : Bool :=
  x.srcCore != 0xFF || (s.net.take i).all fun y => y.kind != .write || y.srcCore != 0xFF || y.srcPos != x.srcPos

/-- REMOTE_WRITE_ARRIVAL (R84, R88, R104, R293, R375, R487). -/
def execRemoteWriteArrival (i : Nat) (s : State) : Answer :=
  match itemHere s .write i with
  | none => .next s
  | some x => whenDue (writeRoom s x && deepFirst s i x && hostFirst s i x) (fun s => hubRelease (takeWrite x (dropItem i s))) s

/-! ### Management flits (R449, R478, R505 to R507, R378, R379) -/

/-- A management flit: its kind in byte 0. -/
def mgmtFlit (kind : Nat) (content : List Nat) : Flit := BitVec.ofNat 2048 (kind % 256 + Config.mgmtBody kind content * 256)

/-- A management flit for the neighbour at port `p` waits there. -/
def putMgmt (p : PortId) (f : Flit) (s : State) : State :=
  let k := s.port p
  let x : OutFlit := (descBits 5 0 1 k.peerPos s.hub.position 0xFE 0 0, f, 0)
  s.setPort p { k with out := vset k.out (portSource p) (vget k.out [] (portSource p) ++ [x]) }

/-- A received management flit leaves the net. -/
def takeMgmt (f : Flit) (s : State) : State :=
  { s with net := s.net.eraseP fun x => x.kind == .mgmt && x.data.toNat % 2 ^ 2048 == f.toNat }

/-- Ports that are UP. -/
def upPorts (s : State) : List PortId := allPorts.filter fun p => (s.port p).state == .up

/-- HEARTBEAT_SEND (R449). -/
def execHeartbeatSend (ns : Nat) (s : State) : Answer :=
  let s := s.atNs ns
  .next (forAll (upPorts s) (fun p s => putMgmt p (mgmtFlit 4 []) s) s)

/-- HEARTBEAT_TIMEOUT (R449): 40 ms without a heartbeat on an UP port. -/
def execHeartbeatTimeout (p : PortId) (ns : Nat) (s : State) : Answer :=
  let s := s.atNs ns
  let now := s.hub.ns
  whenDue ((s.port p).state == .up && (s.port p).lastBeat + 40000000 ≤ now)
    (fun s => linkAlarm p (s.onPort p fun k => { k with lastBeat := now })) s

/-- IDENT_FLIT (R505, R506 phase 3): mismatched identities or duplicate positions hold the port DOWN. -/
def execIdentFlit (p : PortId) (pos : BitVec 16) (identity : Nat) (f : Flit) (s : State) : Answer :=
  let s := takeMgmt f s
  let n := pos.toNat
  let twin := n != 0xFFFF && n == s.hub.position
  let clash := allPorts.any fun q => q != p && (s.port q).ident.any fun y => n != 0xFFFF && y.2 == n && y.1 != identity
  let moved := (s.port p).ident.any fun y => y.2 == n && y.1 != identity
  let s := s.onPort p fun k => { k with ident := some (identity, n) }
  .next (if twin || clash || moved then portTo p .down s else s)

/-- SURVEY goes on over every UP port but `p`, and this module's REPORT to its parent (R506). Contents: wave, hops, master position. -/
def forwardSurvey (p : Option PortId) (wave hop master : Nat) (s : State) : State :=
  forAll ((upPorts s).filter fun q => some q != p) (fun q s => putMgmt q (mgmtFlit 2 [wave, hop, master]) s) s

/-- SURVEY_FLIT (R506, R507): the first receipt records the parent. A master strapped at a higher position answers as an ordinary
module. -/
def execSurveyFlit (p : PortId) (ns : Nat) (f : Flit) (s : State) : Answer :=
  let s := takeMgmt f (s.atNs ns)
  let master := Config.mgmtField f 2
  let floods := s.hub.tb.master && !s.hub.hl.conflict
  if floods && s.hub.position ≤ master then .next s
  else
    let s := if floods then hubSetBit (hubBlock 0xA0034) 8 (s.onHl fun h => { h with conflict := true }) else s
    if s.hub.hl.parent.isSome then .next s
    else
      let s := s.onHl fun h => { h with parent := some p.val }
      let s := forwardSurvey (some p) (Config.mgmtField f 0) (Config.mgmtField f 1 + 1) master s
      .next (putMgmt p (mgmtFlit 3 [s.hub.position]) s)

/-- REPORT_FLIT (R506, R507): toward the parent, into the master's open census, or counted as late. -/
def execReportFlit (p : PortId) (f : Flit) (s : State) : Answer :=
  let s := takeMgmt f s
  match s.hub.hl.parent with
  | some q => .next (if q == p.val then s else putMgmt (Fin.ofNat 28 q) f s)
  | none =>
    if s.hub.hl.censusEnd.isSome then
      .next (s.onHl fun h => { h with census := (h.census ++ Config.mgmtPositions f).eraseDups })
    else .next (s.onHl fun h => { h with late := satAdd 0xFFF h.late 1 })

/-- POWER_FAIL_FLIT (R478): a neighbour's power failure is link loss. -/
def execPowerFailFlit (p : PortId) (ns : Nat) (s : State) : Answer :=
  let s := s.atNs ns
  whenDue ((s.port p).state == .up) (leaveUp p .failed) s

/-- ADOPT_FLIT (R378, R379): the spare's training identity for position P; a neighbour serves at most one adopted position. -/
def execAdoptFlit (_p : PortId) (f : Flit) (s : State) : Answer :=
  let s := takeMgmt f s
  let pos := Config.mgmtField f 0
  .next (if s.hub.hl.adopted.any fun q => q != pos then s
    else s.onHl fun h => { h with adopted := some pos, adoptId := some f })

end Sys2Proof.Machine
end

