-- ==== Sys2Proof/Machine/Fold.lean ====
section
/-! DEFINITION. Lock-step commands (R401 to R407): enabling the comparator, sending and receiving fold messages. -/

namespace Sys2Proof.Machine

open Sys2Proof

/-- HL_LS_CFG is written (R401, R405, R407): enabling asks for configuration records, disabling discards every record. -/
def lsCfgWrite (v : Word) (s : State) : State :=
  s.onLs fun l =>
    let on := v.getLsbD 0
    let l := { l with enable := on, stop := v.getLsbD 1, ring := bitsOf v.toNat 2 4, peer := bitsOf v.toNat 16 16 }
    if !on then { l with waiting := [], arrived := [], locals := [], peers := [], lastL := [], lastP := [], configDue := false }
    else { l with configDue := l.configDue || !s.hub.ls.enable }

/-- LS_ENABLE (R401). -/
def execLsEnable (v : Word) (s : State) : Answer := .next (lsCfgWrite v s)

/-- The configuration record of context `x` (R401, log entry 20). -/
def configRec (s : State) (x : Nat) : FoldRec :=
  let l := vget s.hub.loads LoadCtx.reset x
  foldRec 0xFFFF 0 false x l.accepted ((List.range 4).map fun q => bitsOf l.digest.toNat (64 * q) 64) []

/-- Records packed 8 to a row. -/
def recRows (rs : List FoldRec) : List Row := (chunksOf 8 32 rs).map fun p => packRow 512 (p.map (·.toNat))

/-- A fold message leaves for the peer. -/
def sendFolds (rs : List FoldRec) (s : State) : State :=
  let l := s.hub.ls
  headlandSend l.peer 0xFE l.ring (0x7E0000 + l.msgs % 2 ^ 16) rs.length (recRows rs) (s.onLs fun l => { l with msgs := (l.msgs + 1) % 2 ^ 16 })

/-- FOLD_MESSAGE_SEND (R401): the configuration message when it is due; else 248 records, or fewer after 8 µs. -/
def execFoldMessageSend (ns : Nat) (s : State) : Answer :=
  let s := s.atNs ns
  let l := s.hub.ls
  let now := s.hub.ns
  if !l.enable then .next s
  else if l.configDue then
    let rs := (List.range 8).map (configRec s)
    let s := sendFolds rs (s.onLs fun l => { l with configDue := false })
    .next (forAll rs (fun r s => if s.hub.ls.enable then lsKeep r (frStrip r) 0 s else s) s)
  else
    whenDue (248 ≤ l.waiting.length || l.arrived.head?.any (· + 8000 ≤ now)) (fun s =>
      sendFolds (l.waiting.take 248) (s.onLs fun l => { l with waiting := l.waiting.drop 248, arrived := l.arrived.drop 248 })) s

/-- The records of a fold message. -/
def msgRecs (hdr : Row) (payload : List Row) : List FoldRec :=
  (payload.flatMap fun r => (List.range 8).map fun i => BitVec.ofNat 512 (r.field (64 * i) 64)).take (mhInline hdr 0 2)

/-- FOLD_MESSAGE_ARRIVAL (R402): the peer's records are matched and compared. -/
def execFoldMessageArrival (hdr : Row) (payload : List Row) (s : State) : Answer :=
  let s := takeMsg hdr s
  whenDue (mhSendPos hdr == s.hub.ls.peer && mhSendCore hdr == 0xFE) (forAll (msgRecs hdr payload) lsPeer) s

end Sys2Proof.Machine
end

