-- ==== Sys2Proof/Machine/Rsa.lean ====
section
/-! DEFINITION. The RSA-3072 PSS signature check with SHA-384, MGF1 with SHA-384 and a 48-byte salt (R412, R442, R497). -/

namespace Sys2Proof.Machine

open Sys2Proof

/-- `b ^ e mod n` over the low `fuel` bits of `e`. -/
def powMod (n : Nat) : Nat → Nat → Nat → Nat
  | 0, _, _ => 1 % n
  | fuel + 1, b, e => (if e % 2 == 1 then b else 1) * powMod n fuel (b * b % n) (e / 2) % n

/-- MGF1 with SHA-384: the first `len` bytes of the digests of the seed with a counter. -/
def mgf1 (seed : List Byte) (len : Nat) : List Byte :=
  ((List.range (ceilDiv len 48)).flatMap fun i => sha384 (seed ++ beBytes 4 i)).take len

/-- Bytes combined by exclusive or. -/
def xorBytes (a b : List Byte) : List Byte := List.zipWith (fun x y => x ^^^ y) a b

/-- The PSS check: modulus and exponent, the signature's 384 bytes, the 48-byte digest that was signed. -/
def rsaVerify (n e : Nat) (sig digest : List Byte) : Bool :=
  let s := ofBe sig
  if n ≤ s || n == 0 then false
  else
    let em := beBytes 384 (powMod n 32 s e)
    let masked := em.take 335
    let h := (em.drop 335).take 48
    let db := match xorBytes masked (mgf1 h 335) with
      | [] => []
      | b :: bs => (b &&& 0x7F) :: bs
    em.getLast? == some 0xBC && (em.headD 0).toNat < 128 && (db.take 286).all (· == 0) && (db.drop 286).headD 0 == 1 &&
      sha384 (List.replicate 8 0 ++ digest ++ db.drop 287) == h

/-- The two public keys of a key row (R410): the RSA key is its modulus with its exponent, 388 bytes. -/
def keyRsaBytes (k : Row) : List Byte := k.bytes.take 388
def keySlhBytes (k : Row) : List Byte := (k.bytes.drop 388).take 48
def keyModulus (k : Row) : Nat := ofBe (k.bytes.take 384)
def keyExponent (k : Row) : Nat := k.field 384 4

/-- Both signatures of R412 over a digest: the RSA signature row, and the rows of the SLH-DSA signature. -/
def signaturesOk (key sig : Row) (slh : List Row) (digest : List Byte) : Bool :=
  rsaVerify (keyModulus key) (keyExponent key) (sig.bytes.take 384) digest &&
    Config.slhVerify (keySlhBytes key) digest ((rowBytes slh).take 16224)

end Sys2Proof.Machine
end

