-- ==== Sys2Proof/Machine/Weights.lean ====
section
/-! DEFINITION. Weights (14): the load command's checks, the relay chain, digest checks, attempts, requests, turns and re-checks. -/

namespace Sys2Proof.Machine

open Sys2Proof

/-! ### The manifest (R410 to R412) -/

def wmShards (h : Row) : Nat := h.field 0x08 4
def wmTotal (h : Row) : Nat := h.field 0x20 8
/-- The shard entries of the manifest at `a`. -/
def wmEntries (s : State) (a : Nat) : List (BitVec 512) :=
  let n := wmShards (readRow s a)
  ((readRows s (a + 512) (ceilDiv n 8)).flatMap fun r => (List.range 8).map fun i => BitVec.ofNat 512 (r.field (64 * i) 64)).take n

/-- Rows of the header and the entries; the key row follows them. -/
def wmHead (s : State) (a : Nat) : Nat := 1 + ceilDiv (wmShards (readRow s a)) 8

def entryFieldsOk (e : BitVec 512) : Bool :=
  wePart e ≤ 63 && (weTier e == 2 || weTier e == 3) && weDie e ≤ 7 && 1 ≤ weRows e && weRows e ≤ 2 ^ 24 && bfld e 0x03 1 == 0 &&
    bfld e 0x0C 20 == 0

/-- No two shards of one PART, DIE and TIER overlap (R411). -/
def entriesApart : List (BitVec 512) → Bool
  | [] => true
  | e :: es => es.all (fun f => wePart e != wePart f || weTier e != weTier f || weDie e != weDie f ||
      weOff e + weRows e ≤ weOff f || weOff f + weRows f ≤ weOff e) && entriesApart es

/-- Code 2 of R413 does not apply. An entry outside the ranges of R411, or one that overlaps another, counts as a wrong field (log entry
127). -/
def manifestOk (s : State) (a : Nat) : Bool :=
  let h := readRow s a
  let n := wmShards h
  h.field 0 4 == 0x5747544D && h.field 4 2 == 1 && h.field 6 2 == 0 && 1 ≤ n && n ≤ 65536 && h.field 0x0C 4 == 0 && h.field 0x28 472 == 0 &&
    (let es := wmEntries s a
     let k := readRow s (a + 512 * wmHead s a)
     let g := readRow s (a + 512 * (wmHead s a + 1))
     let z := readRow s (a + 512 * (wmHead s a + 33))
     es.all entryFieldsOk && entriesApart es && wmTotal h == (es.map weRows).sum && k.field 436 76 == 0 && g.field 384 128 == 0 &&
       z.field 352 160 == 0)

/-- SHA-384 of the header and entry rows (R412). -/
def wmDigest (s : State) (a : Nat) : List Byte := sha384 (rowBytes (readRows s a (wmHead s a)))
def wmKey (s : State) (a : Nat) : Row := readRow s (a + 512 * wmHead s a)

/-- Codes 3 and 4 of R413. -/
def keysOk (s : State) (x : CtxId) (a : Nat) : Bool :=
  let w := s.wgt x
  digestNat (sha384 (keyRsaBytes (wmKey s a))) == w.keyRsa.toNat && digestNat (sha384 (keySlhBytes (wmKey s a))) == w.keySlh.toNat

def wmSigned (s : State) (a : Nat) : Bool :=
  signaturesOk (wmKey s a) (readRow s (a + 512 * (wmHead s a + 1))) (readRows s (a + 512 * (wmHead s a + 2)) 32) (wmDigest s a)

/-! ### Regions (R409) -/

def overlaps (a b : Nat × Nat) : Bool := a.2 != 0 && b.2 != 0 && a.1 < b.1 + b.2 && b.1 < a.1 + a.2

/-- A Commons region lies inside fixed groups, a deep-memory one inside the populated part and outside every page area. -/
def regionPlaced (s : State) (d t : Nat) (r : Nat × Nat) : Bool :=
  let k := s.die (Fin.ofNat 8 d)
  r.2 == 0 ||
    (if t == 0 then r.1 + r.2 ≤ 2 ^ 22 &&
        (List.range 16).all fun g => k.fixed.getLsbD g || !overlaps r (g * 2 ^ 18, 2 ^ 18)
     else r.1 + r.2 ≤ 23592960 && (List.range 8).all fun x => !overlaps r (vget k.pageBase 0 x, vget k.pageRows 0 x))

/-- The regions and relay area that other slots and loads hold: die, tier, range. -/
def heldRegions (s : State) (x : CtxId) (slot : Nat) : List (Nat × Nat × Nat × Nat) :=
  (List.finRange 8).flatMap fun y => (List.range 2).flatMap fun k =>
    let l := slotW (s.wgt y) k
    if (y == x && k == slot) || l.state == .empty then []
    else (List.range 16).map fun i => (i / 2, i % 2, (l.regions.getD i (0, 0)).1, (l.regions.getD i (0, 0)).2)

/-- The deep-memory rows of a relay area: die, first row, rows. -/
def relayArea (a : Nat) : Option (Nat × Nat × Nat) :=
  match placeOf a with
  | .deep d r => some (d.val, r, 8192)
  | .plot _ _ | .commons _ _ | .control | .window | .unpopulated => none

/-- Chunks of the slot's load are still on their way through the relay area. -/
def WLoad.relaying (l : WLoad) : Bool := !l.toForward.isEmpty || !l.toRelease.isEmpty

/-- Relay areas of the loads in progress and of command `w`. -/
def relays (s : State) (w : WgtCmd) : List (Nat × Nat × Nat) :=
  (if w.relay == 0 then [] else (relayArea w.relay).toList) ++ (List.finRange 8).flatMap fun y => (List.range 2).flatMap fun k =>
    let c := s.wgt y
    let l := slotW c k
    if c.loading == some (Fin.ofNat 2 k) || (c.refetching && c.active.val == k) || l.relaying then
      ((l.cmd.map (·.relay)).bind relayArea).toList
    else []

/-- Code 5 of R413 does not apply. -/
def regionsOk (s : State) (x : CtxId) (w : WgtCmd) (es : List (BitVec 512)) : Bool :=
  let held := heldRegions s x w.slot.val
  ((List.range 16).all fun i =>
    let r := w.regions.getD i (0, 0)
    regionPlaced s (i / 2) (i % 2) r && held.all (fun h => !(h.1 == i / 2 && h.2.1 == i % 2 && overlaps r (h.2.2.1, h.2.2.2))) &&
      (i % 2 == 0 || (relays s w).all fun a => !(a.1 == i / 2 && overlaps r (a.2.1, a.2.2)))) &&
    es.all fun e => !w.keep.getLsbD (wePart e) || weOff e + weRows e ≤ (regionW w.regions (weDie e) (weTier e - 2)).2

/-- The first failing code of R413, 0 for none. -/
def wgtCode (s : State) (x : CtxId) (w : WgtCmd) : Nat :=
  let c := s.wgt x
  let st := (slotW c w.slot.val).state
  if c.loading.isSome || st == .active || st == .draining then 1
  else if !manifestOk s w.manifest then 2
  else if !keysOk s x w.manifest then 3
  else if !wmSigned s w.manifest then 4
  else if !regionsOk s x w (wmEntries s w.manifest) then 5
  else 0

/-! ### Shards and chunks (R414, R417, R418) -/

/-- Chunks of a shard. -/
def shardChunks (e : BitVec 512) : Nat := ceilDiv (weRows e) 128

/-- The shard that holds chunk `c`, with the chunk's index in it. -/
def chunkShard : List Shard → Nat → Option (Nat × Nat)
  | [], _ => none
  | sh :: shs, c => if c < shardChunks sh.entry then some (0, c) else (chunkShard shs (c - shardChunks sh.entry)).map fun r => (r.1 + 1, r.2)

/-- The first chunk of shard `j`. -/
def firstChunk (l : WLoad) (j : Nat) : Nat := ((l.shards.take j).map fun sh => shardChunks sh.entry).sum

/-- A weight fault record (R421). -/
def wgtFlt (x : CtxId) (kind slot attempt host shard : Nat) (loadId : Word) (reqs tb : Nat) : Flt :=
  { cls := 0x13, source := 6, tag := 0, ctx := x.val,
    detail := kind + slot * 2 ^ 8 + attempt * 2 ^ 16 + host * 2 ^ 24 + shard * 2 ^ 32 + loadId.toNat * 2 ^ 64 + reqs * 2 ^ 96 + tb * 2 ^ 128 }

/-- A notice of R414; to the host when `pos` is 0xFFFF. -/
def wgtNotice (x : CtxId) (pos : Nat) (loadId : Word) (kind : Nat) (resend : Bool) (n rows : Nat) (s : State) : State :=
  let inline := loadId.toNat + x.val * 2 ^ 32 + kind * 2 ^ 40 + b2n resend * 2 ^ 48 + n % 2 ^ 32 * 2 ^ 64 + rows % 2 ^ 16 * 2 ^ 96
  if pos == 0xFFFF then headlandSendF 3 s.hub.position 0xFF 2 (0x7D0000 + n % 2 ^ 16) inline [] s
  else headlandSendF 3 pos 0xFE 2 (0x7D0000 + n % 2 ^ 16) inline [] s

/-- Digest work of a slot is dropped. -/
def dropDigests (x : CtxId) (k : Nat) (s : State) : State :=
  s.onHub fun h =>
    { h with digQ := h.digQ.map fun q => q.filter fun j => !(j.x == x && j.slot.val == k),
             digEng := h.digEng.map fun e => if e.any fun j => j.x == x && j.slot.val == k then none else e }

/-- The load's second reply (R494). -/
def wgtReply (x : CtxId) (k : Nat) (status : Nat) (s : State) : State :=
  let l := slotW (s.wgt x) k
  match l.src with
  | none => s
  | some src => replyDone src (if l.inPlace then 0x11 else 5) status (s.onSlot x k fun l => { l with src := none })

/-- The slot's load or refetch is in progress. -/
def wgtBusy (w : WgtCtx) (k : Nat) : Bool := w.loading == some (Fin.ofNat 2 k) || (w.refetching && w.active.val == k)

/-- The load (LOAD_STATUS `st`) or refetch of slot `k` is over; a refetch of the active slot ends the quarantine (R426). -/
def wgtOver (k st : Nat) (w : WgtCtx) : WgtCtx :=
  if w.refetching && w.active.val == k then { w with refetching := false, quarantine := false } else { w with loadState := st, loading := none }

/-- A load or refetch ends well (R418, R426). -/
def wgtDone (x : CtxId) (k : Nat) (s : State) : State :=
  wgtReply x k 0 ((s.onWgt x (wgtOver k 2)).onSlot x k fun l => { l with state := if l.state == .loading then .verified else l.state })

/-- A load (record 3) or refetch (record 5) fails at shard `j` (R420, R426). -/
def wgtFail (x : CtxId) (k j : Nat) (s : State) : State :=
  let l := slotW (s.wgt x) k
  let re := l.shards.any fun sh => sh.recheck && !sh.passed
  let s := if l.inPlace && !re then s
    else headlandFault (wgtFlt x (if re then 5 else 3) k 3 1 j (l.cmd.elim 0 (·.loadId)) 0 0) s
  let s := s.onWgt x (wgtOver k 3)
  let s := s.onSlot x k fun l => { l with state := .failed, toForward := [], toRelease := [] }
  wgtReply x k (0x100 + Config.loadFailCode) (dropDigests x k s)

/-- The shard is asked for again, from the predecessor or the host (R420). -/
def askShard (x : CtxId) (k j : Nat) (s : State) : State :=
  let l := slotW (s.wgt x) k
  let now := s.hub.ns
  match l.cmd, l.shards[j]? with
  | some w, some sh =>
    let first := firstChunk l j
    let s := s.onSlot x k fun l => { l with copied := l.copied.filter fun c => !(first ≤ c && c < first + shardChunks sh.entry) }
    let s := s.onShard x k j fun sh => { sh with chunks := 0, lastChunk := some now }
    wgtNotice x (if sh.fromHost then 0xFFFF else w.pred) w.loadId 3 false j 0 s
  | _, _ => s

/-- The shard's attempts pass to the host. -/
def toHostShard (x : CtxId) (k j : Nat) (s : State) : State := askShard x k j (s.onShard x k j fun sh => { sh with fromHost := true, tries := 0 })

/-- An attempt of shard `j` fails: kind 1 digest mismatch, 2 window expired (R420). -/
def failAttempt (x : CtxId) (k j kind : Nat) (s : State) : State :=
  let l := slotW (s.wgt x) k
  match l.shards[j]? with
  | none => s
  | some sh =>
    let host := sh.fromHost || l.cmd.any fun w => w.pred == 0xFFFF
    let s := headlandFault (wgtFlt x kind k (sh.tries + 1) (b2n (host || l.inPlace)) j (l.cmd.elim 0 (·.loadId)) 0 0) s
    let s := s.onWgt x fun w => if host then { w with retryHost := satAdd 0xFFFF w.retryHost 1 } else { w with retryPred := satAdd 0xFFFF w.retryPred 1 }
    let s := s.onShard x k j fun sh => { sh with tries := sh.tries + 1 }
    if l.inPlace && !sh.recheck then wgtFail x k j s
    else if sh.tries + 1 < 3 then askShard x k j s
    else if sh.fromHost then wgtFail x k j s
    else toHostShard x k j s

/-- Shard `j`, whose re-check failed, is fetched again (R426): from the chain, or from the host when the slot was checked in place (R419). -/
def refetchShard (x : CtxId) (k j : Nat) (s : State) : State :=
  askShard x k j (s.onShard x k j fun sh => { sh with tries := 0, fromHost := (slotW (s.wgt x) k).inPlace })

/-- A refetch of the shards whose re-check failed begins (R426): of the active slot, or of a slot that was verified. -/
def refetch (x : CtxId) (k : Nat) (s : State) : State :=
  let l := slotW (s.wgt x) k
  let js := (List.range l.shards.length).filter fun j => (l.shards[j]?).any fun sh => sh.recheck && !sh.passed
  let s := s.onWgt x fun w => if w.active.val == k then { w with refetching := true } else { w with loading := some (Fin.ofNat 2 k), loadState := 1 }
  forAll js (refetchShard x k) s

/-! ### Commands (R412, R413, R419) -/

/-- An accepted load or check: the slot becomes LOADING with its regions and shards. -/
def wgtAccept (src : CmdSrc) (x : CtxId) (w : WgtCmd) (inPlace : Bool) (s : State) : State :=
  let k := w.slot.val
  let es := wmEntries s w.manifest
  let l : WLoad := { WLoad.reset with state := .loading, regions := w.regions, cmd := some w, inPlace := inPlace, src := some src,
                                      shards := es.map fun e => ⟨e, 0, false, 0, false, false, 0, 0, none, false, false⟩,
                                      digest := BitVec.ofNat 384 (digestNat (wmDigest s w.manifest)) }
  let s := dropDigests x k s
  s.onWgt x fun c => { c with slots := vset c.slots k l, loading := some w.slot, loadState := 1, loadCode := 0, loadId := w.loadId }

/-- Indices of the kept shards of a slot. -/
def keptShards (l : WLoad) : List Nat := (List.range l.shards.length).filter fun j => (l.shards[j]?).any fun sh => keptPart l sh.entry

/-- The last chunk that goes on to the successor. -/
def lastForward (l : WLoad) : Option Nat :=
  ((List.range l.shards.length).filter fun j => (l.shards[j]?).any fun sh => fwdPart l sh.entry).getLast?.map fun j =>
    firstChunk l (j + 1) - 1

/-- The answer to a load command (R413): accepted, and `go` runs on, or the first failing code. -/
def wgtCommand (cmd : Nat) (src : CmdSrc) (x : CtxId) (w : WgtCmd) (inPlace : Bool) (go : State → State) (s : State) : State :=
  let code := wgtCode s x w
  if code != 0 then reply src cmd (0x100 + code) 0 (s.onWgt x fun c => { c with loadCode := code })
  else go (reply src cmd 0 0 (wgtAccept src x w inPlace s))

/-- WEIGHT_LOAD (R413, R418): a slot that keeps no shard and forwards none is verified at once. -/
def execWeightLoad (src : CmdSrc) (x : CtxId) (w : WgtCmd) (s : State) : Answer :=
  hlCommand 5 whoHS src (fun s =>
    if 64 ≤ w.chainIdx then reply src 5 3 0 s
    else wgtCommand 5 src x w false (fun s =>
      let l := slotW (s.wgt x) w.slot.val
      if (keptShards l).isEmpty && (lastForward l).isNone then wgtDone x w.slot.val s else s) s) s

/-- WEIGHT_KEYS (R412). -/
def execWeightKeys (src : CmdSrc) (x : CtxId) (rsa slh : BitVec 384) (s : State) : Answer :=
  hlCommand 7 whoHS src (fun s => reply src 7 0 0 (s.onWgt x fun c => { c with keyRsa := rsa, keySlh := slh })) s

/-- WEIGHT_VERIFY (R419): every kept shard is ready for its check at once, in manifest order. -/
def execWeightVerify (src : CmdSrc) (x : CtxId) (w : WgtCmd) (s : State) : Answer :=
  hlCommand 0x11 whoHS src (fun s =>
    if w.pred != 0xFFFF || w.succ != 0xFFFF || w.chainIdx != 0 || w.forward != 0 || w.relay != 0 || w.succRelay != 0 then reply src 0x11 3 0 s
    else wgtCommand 0x11 src x w true (fun s =>
      let k := w.slot.val
      let l := slotW (s.wgt x) k
      if (keptShards l).isEmpty then wgtDone x k s else forAll (keptShards l) (fun j s => queueDigest x k j false s) s) s) s

/-! ### Notices (R414 to R416, R420) -/

def wnLoadId (h : Row) : Word := BitVec.ofNat 32 (mhInline h 0 4)
def wnCtx (h : Row) : CtxId := Fin.ofNat 8 (mhInline h 4 1)
def wnResend (h : Row) : Bool := bitOf (mhInline h 6 1) 0
def wnNum (h : Row) : Nat := mhInline h 8 4
def wnRows (h : Row) : Nat := mhInline h 12 2

/-- The slot whose load the notice's LOAD_ID names: the one whose load is in progress, else one whose last load has not failed, since a
member that is done still serves the chain (R416, R420; log entry 128). -/
def noticeSlot (s : State) (h : Row) : Option Nat :=
  let w := s.wgt (wnCtx h)
  let named := fun (k : Nat) => (slotW w k).cmd.any (fun c => c.loadId == wnLoadId h) && (slotW w k).state != .failed && (slotW w k).state != .empty
  match (List.range 2).find? fun k => named k && wgtBusy w k with
  | some k => some k
  | none => (List.range 2).find? named

/-- A notice of no load is discarded and counted (R416). -/
def onNotice (h : Row) (f : Nat → State → State) (s : State) : Answer :=
  let s := takeMsg h s
  match noticeSlot s h with
  | some k => .next (f k s)
  | none => .next (s.onHub fun h => { h with wgtDiscard := satAdd 0xFFFFFFFF h.wgtDiscard 1 })

/-- Rows of chunk `c` of slot `k`. -/
def wChunkRows (l : WLoad) (c : Nat) : Nat :=
  match chunkShard l.shards c with
  | some (j, i) => (l.shards[j]?).elim 0 fun sh => if weRows sh.entry ≤ 128 * i + 128 then weRows sh.entry - 128 * i else 128
  | none => 0

/-- Chunk `c` leaves for the successor: its rows as remote writes, then its notice. Its rows come from the relay area, or from the slot
when it is resent from there. A notice of the chunk that still waits for lost writes is given up. -/
def sendChunk (x : CtxId) (k : Nat) (w : WgtCmd) (c : Nat) (fromSlot resend : Bool) (s : State) : State :=
  let l := slotW (s.wgt x) k
  let n := wChunkRows l c
  let src := if fromSlot then
      (match chunkShard l.shards c with
        | some (j, i) => (l.shards[j]?).elim 0 fun sh => shardAddr l sh.entry + 512 * 128 * i
        | none => 0)
    else w.relay + 512 * 128 * (c % 64)
  let dst := w.succRelay + 512 * 128 * (c % 64)
  let tag := 0x7D0000 + c % 2 ^ 16
  let s := s.onHl fun h => { h with held := h.held.filter fun m => match m.1 with
    | y :: _ => mhTag y != tag || wnLoadId y != w.loadId || mhInline y 5 1 != 1
    | [] => true }
  wgtNotice x w.succ w.loadId 1 resend c n (hubWrites w.succ dst tag (readRows s src n) s)

/-- Chunks that wait go to the successor while the relay slot they need is free there (R415): the release of the chunk 64 before it has
come. A chunk sent again uses its own slot. -/
def forwardChunks (x : CtxId) (k : Nat) : Nat → State → State
  | 0, s => s
  | n + 1, s =>
    let l := slotW (s.wgt x) k
    match l.toForward, l.cmd with
    | (c, fromSlot, resend) :: rest, some w =>
      if l.forwarded.any fun y => y != c && y % 64 == c % 64 then s
      else forwardChunks x k n (sendChunk x k w c fromSlot resend (s.onSlot x k fun l =>
        { l with toForward := rest, forwarded := if l.forwarded.contains c then l.forwarded else l.forwarded ++ [c] }))
    | _, _ => s

/-- The kept chunk is copied into its shard (R415 step 1); a complete shard is ready (R417). -/
def copyChunk (x : CtxId) (k c : Nat) (s : State) : State :=
  let l := slotW (s.wgt x) k
  let now := s.hub.ns
  match l.cmd, chunkShard l.shards c with
  | some w, some (j, i) =>
    match l.shards[j]? with
    | none => s
    | some sh =>
      if !keptPart l sh.entry || sh.passed || !wgtBusy (s.wgt x) k then s
      else
        let rows := readRows s (w.relay + 512 * 128 * (c % 64)) (wChunkRows l c)
        let s := writeRows s (shardAddr l sh.entry + 512 * 128 * i) rows
        if l.copied.contains c then s.onShard x k j fun sh => { sh with lastChunk := some now }
        else
          let s := s.onSlot x k fun l => { l with copied := l.copied ++ [c] }
          let s := s.onShard x k j fun sh => { sh with chunks := sh.chunks + 1, lastChunk := some now }
          if sh.chunks + 1 == shardChunks sh.entry then queueDigest x k j false s else s
  | _, _ => s

/-- The windows of incomplete kept shards before shard `j` run from now on when they had not begun. -/
def startWindows (x : CtxId) (k j : Nat) (s : State) : State :=
  let now := s.hub.ns
  s.onSlot x k fun l => { l with shards := l.shards.zipIdx.map fun y =>
    if y.2 < j && y.1.lastChunk.isNone then { y.1 with lastChunk := some now } else y.1 }

/-- CHUNK_NOTICE (R415, R420). -/
def execChunkNotice (ns : Nat) (hdr : Row) (s : State) : Answer :=
  onNotice hdr (fun k s =>
    let x := wnCtx hdr
    let c := wnNum hdr
    let l := slotW (s.wgt x) k
    match chunkShard l.shards c with
    | none => s
    | some (j, _) =>
      let e := (l.shards[j]?).elim 0 (·.entry)
      let s := startWindows x k j (copyChunk x k c s)
      let fwd := fwdPart l e && (!wnResend hdr || !keptPart l e)
      let s := s.onSlot x k fun l =>
        { l with toForward := if fwd then l.toForward ++ [(c, false, wnResend hdr)] else l.toForward, toRelease := l.toRelease ++ [(c, mhSendCore hdr == 0xFF)] }
      forwardChunks x k 64 s) (s.atNs ns)

/-- The notice of chunk `c` has not been acknowledged. -/
def noticeOut (s : State) (l : WLoad) (c : Nat) : Bool :=
  (s.hub.hl.hostMsgs ++ s.hub.hl.held.map (·.1)).any fun m => match m with
    | h :: _ => mhSendCore h == 0xFE && mhTag h / 2 ^ 16 == 0x7D && mhInline h 5 1 == 1 && wnNum h == c && l.cmd.any fun w => w.loadId == wnLoadId h
    | [] => false

/-- CHUNK_RELEASE_SEND (R415 step 3): the copy is performed and the forwarded notice acknowledged. The release goes to the chunk's sender,
which a chunk fetched from the host has there (log entry 128). -/
def execChunkReleaseSend (x : CtxId) (chunk : Nat) (s : State) : Answer :=
  match (List.range 2).find? fun k => (slotW (s.wgt x) k).toRelease.any fun y => y.1 == chunk with
  | none => .next s
  | some k =>
    let l := slotW (s.wgt x) k
    match l.cmd with
    | none => .next s
    | some w =>
      whenDue (!(l.toForward.any fun y => y.1 == chunk) && !noticeOut s l chunk) (fun s =>
        let host := (l.toRelease.find? fun y => y.1 == chunk).any (·.2)
        wgtNotice x (if host then 0xFFFF else w.pred) w.loadId 2 false chunk 0
          (s.onSlot x k fun l => { l with toRelease := l.toRelease.eraseP fun y => y.1 == chunk })) s

/-- RELEASE_NOTICE (R415, R418): the relay slot is free for the next chunk; a slot that keeps no shard is verified with the last one. -/
def execReleaseNotice (hdr : Row) (s : State) : Answer :=
  onNotice hdr (fun k s =>
    let x := wnCtx hdr
    let c := wnNum hdr
    let s := forwardChunks x k 64 (s.onSlot x k fun l => { l with forwarded := l.forwarded.erase c })
    let l := slotW (s.wgt x) k
    if l.state == .loading && !l.inPlace && (keptShards l).isEmpty && lastForward l == some c then wgtDone x k s else s) s

/-- The chunks of shard `j` are sent again from the slot (R420). -/
def resendShard (x : CtxId) (k j : Nat) (s : State) : State :=
  let l := slotW (s.wgt x) k
  let first := firstChunk l j
  let n := (l.shards[j]?).elim 0 fun sh => shardChunks sh.entry
  forwardChunks x k 64 (s.onSlot x k fun l => { l with toForward := l.toForward ++ (List.range n).map fun i => (first + i, true, true) })

/-- RE_REQUEST_NOTICE (R420). -/
def execReRequestNotice (hdr : Row) (s : State) : Answer :=
  let x := wnCtx hdr
  let j := wnNum hdr
  let failed := (List.range 2).any fun k => (slotW (s.wgt x) k).cmd.any (fun c => c.loadId == wnLoadId hdr) && (slotW (s.wgt x) k).state == .failed
  if failed then .next (wgtNotice x (mhSendPos hdr) (wnLoadId hdr) 5 false j 0 (takeMsg hdr s))
  else onNotice hdr (fun k s =>
    let l := slotW (s.wgt x) k
    match l.cmd, l.shards[j]? with
    | some w, some sh =>
      if !keptPart l sh.entry then wgtNotice x w.pred w.loadId 3 false j 0 s
      else if sh.passed then resendShard x k j s
      else wgtNotice x w.succ w.loadId 4 false j 0 (s.onShard x k j fun sh => { sh with waiting := true })
    | _, _ => s) s

/-- WAIT_NOTICE (R420): the requester's window starts again; a request passed on passes the answer back. -/
def execWaitNotice (ns : Nat) (hdr : Row) (s : State) : Answer :=
  onNotice hdr (fun k s =>
    let x := wnCtx hdr
    let now := s.hub.ns
    let l := slotW (s.wgt x) k
    match l.cmd, l.shards[wnNum hdr]? with
    | some w, some sh =>
      if keptPart l sh.entry then s.onShard x k (wnNum hdr) fun sh => { sh with lastChunk := some now }
      else wgtNotice x w.succ w.loadId 4 false (wnNum hdr) 0 s
    | _, _ => s) (s.atNs ns)

/-- UNAVAILABLE_NOTICE (R420): the host is asked; a request passed on passes the answer back. -/
def execUnavailableNotice (hdr : Row) (s : State) : Answer :=
  onNotice hdr (fun k s =>
    let x := wnCtx hdr
    let l := slotW (s.wgt x) k
    match l.cmd, l.shards[wnNum hdr]? with
    | some w, some sh =>
      if keptPart l sh.entry then (if sh.fromHost then wgtFail x k (wnNum hdr) s else toHostShard x k (wnNum hdr) s)
      else wgtNotice x w.succ w.loadId 5 false (wnNum hdr) 0 s
    | _, _ => s) s

/-! ### Digest engines (R417, R418, R425, R426) -/

/-- The job that starts next on a die: the first load digest, else the first re-check. -/
def nextDigest (q : List DigJob) : Option DigJob :=
  match q.find? fun j => !j.re with
  | some j => some j
  | none => q.head?

/-- The engine it takes: the lowest free one; a load digest takes the lowest that runs a re-check when none is free. -/
def pickEngine (h : Hub) (d : DieId) (j : DigJob) : Option Nat :=
  let es := (List.range 4).map fun e => 4 * d.val + e
  match es.find? fun e => (vget h.digEng none e).isNone with
  | some e => some e
  | none => if j.re then none else es.find? fun e => (vget h.digEng none e).any (·.re)

/-- SHARD_DIGEST_START (R417, R425): an abandoned re-check is queued again. -/
def execShardDigestStart (d : DieId) (s : State) : Answer :=
  let q := vget s.hub.digQ [] d.val
  match nextDigest q with
  | none => .next s
  | some j =>
    if j.re && (List.finRange 8).any fun x => (s.wgt x).loading.isSome then .next s
    else match pickEngine s.hub d j with
    | none => .next s
    | some e => .next (s.onHub fun h =>
        { h with digQ := vset h.digQ d.val (q.erase j ++ (vget h.digEng none e).toList), digEng := vset h.digEng e (some j) })

/-- Every kept shard has passed. -/
def allPassed (l : WLoad) : Bool := l.shards.all fun sh => !keptPart l sh.entry || sh.passed

/-- A shard's load or refetch digest agrees. -/
def shardPassed (x : CtxId) (k j : Nat) (s : State) : State :=
  let now := s.hub.ns
  let tb := tbNow s
  let owed := ((slotW (s.wgt x) k).shards[j]?).any (·.waiting)
  let s := s.onShard x k j fun sh => { sh with
    passed := true, lastPass := now, lastTb := tb, tries := 0, fromHost := false, waiting := false, recheck := false, late := false }
  let s := if owed then resendShard x k j s else s
  let l := slotW (s.wgt x) k
  if allPassed l && wgtBusy (s.wgt x) k then wgtDone x k s else s

/-- The re-check interval in ns: 0 acts as 1 s (R429). -/
def recheckGap (s : State) : Nat := (if s.hub.recheckInt == 0 then 1 else s.hub.recheckInt) * 1000000000

/-- A shard whose last passed check lies more than twice the interval back is counted as late, once (R425). -/
def noteLate (x : CtxId) (k j : Nat) (s : State) : State :=
  let old := ((slotW (s.wgt x) k).shards[j]?).any fun sh => !sh.late && sh.lastPass + 2 * recheckGap s < s.hub.ns
  if s.hub.recheckEn && old then
    (s.onShard x k j fun sh => { sh with late := true }).onHub fun h => { h with recheckLate := satAdd 0xFFFF h.recheckLate 1 }
  else s

/-- A re-check failed (R426). -/
def recheckFailed (x : CtxId) (k j : Nat) (s : State) : State :=
  let w := s.wgt x
  let l := slotW w k
  let tb := (l.shards[j]?).elim 0 (·.lastTb)
  let s := headlandFault (wgtFlt x 4 k 0 0 j (l.cmd.elim 0 (·.loadId)) (vget w.refs 0 k) tb)
    (s.onHub fun h => { h with recheckFail := satAdd 0xFFFF h.recheckFail 1 })
  let bad := fun (s : State) => s.onShard x k j fun sh => { sh with passed := false, recheck := true }
  match l.state with
  | .active =>
    if w.refetching then refetchShard x k j (bad s)
    else
      let s := (bad s).onWgt x fun w => { w with quarantine := true }
      if vget w.refs 0 k == 0 then refetch x k s else s
  | .verified => refetch x k ((bad s).onSlot x k fun l => { l with state := .loading })
  | .loading => refetchShard x k j (bad s)
  | .empty | .draining | .failed => s.onShard x k j fun sh => { sh with recheck := false }

/-- SHARD_DIGEST_COMPLETE (R418, R419, R420, R425, R426). -/
def execShardDigestComplete (d : DieId) (ns : Nat) (e : Fin 4) (s : State) : Answer :=
  let s := s.atNs ns
  let n := 4 * d.val + e.val
  match vget s.hub.digEng none n with
  | none => .next s
  | some job =>
    let s := s.onHub fun h => { h with digEng := vset h.digEng n none }
    let k := job.slot.val
    let l := slotW (s.wgt job.x) k
    match l.shards[job.shard]? with
    | none => .next s
    | some sh =>
      let good := digestNat (sha256 (rowBytes (readRows s (shardAddr l sh.entry) (weRows sh.entry)))) == weDigest sh.entry
      let now := s.hub.ns
      let tb := tbNow s
      .next (if job.re then
          (let s := noteLate job.x k job.shard s
           if good then s.onShard job.x k job.shard fun sh => { sh with lastPass := now, lastTb := tb, recheck := false, late := false }
           else recheckFailed job.x k job.shard s)
        else if good then shardPassed job.x k job.shard s
        else failAttempt job.x k job.shard 1 s)

/-- The window of shard `j` of slot `k` has passed (R420). WGT_WINDOW 0 acts as 1 ms. -/
def windowPassed (s : State) (x : CtxId) (j k : Nat) : Bool :=
  let l := slotW (s.wgt x) k
  let win := (if s.hub.wgtWindow == 0 then 1 else s.hub.wgtWindow) * 1000000
  wgtBusy (s.wgt x) k && (l.shards[j]?).any fun sh => keptPart l sh.entry && !sh.passed && sh.chunks < shardChunks sh.entry &&
    (!l.inPlace || sh.recheck) && sh.lastChunk.any (fun a => a + win ≤ s.hub.ns)

/-- WEIGHT_WINDOW_EXPIRY (R420). -/
def execWeightWindowExpiry (x : CtxId) (ns : Nat) (shard : Nat) (s : State) : Answer :=
  let s := s.atNs ns
  match [0, 1].find? (windowPassed s x shard) with
  | some k => .next (failAttempt x k shard 2 s)
  | none => .next s

/-- RECHECK_DUE (R425): a shard is queued again; beyond twice the interval it is counted as late. -/
def execRecheckDue (x : CtxId) (slot : Fin 2) (ns : Nat) (shard : Nat) (s : State) : Answer :=
  let s := s.atNs ns
  let l := slotW (s.wgt x) slot.val
  match l.shards[shard]? with
  | none => .next s
  | some sh =>
    let busy := (List.finRange 8).any fun y => (s.wgt y).loading.isSome
    let s := if l.state.checked && keptPart l sh.entry && sh.passed then noteLate x slot.val shard s else s
    whenDue (s.hub.recheckEn && !busy && l.state.checked && keptPart l sh.entry && sh.passed && !sh.recheck &&
        sh.lastPass + recheckGap s ≤ s.hub.ns) (fun s =>
      queueDigest x slot.val shard true (s.onShard x slot.val shard fun sh => { sh with recheck := true })) s

/-! ### Requests and the turn (R423, R424, R427) -/

/-- A slot that nothing refers to any more becomes EMPTY: no shard of it is checked again (R424, R425). -/
def emptySlot (x : CtxId) (k : Nat) (s : State) : State := dropDigests x k (s.onSlot x k fun l => { l with state := .empty })

/-- The present always-on cycle (10 ns). -/
def aonCycle (s : State) : Nat := s.hub.ns / 10

/-- TURN (R424, R427): not while a load of the context is in progress. A refetch of the active slot ends with the quarantine. -/
def execTurn (src : CmdSrc) (x : CtxId) (s : State) : Answer :=
  hlCommand 6 whoHSC src (fun s =>
    let w := s.wgt x
    let a := w.active.val
    let b := 1 - a
    if (slotW w b).state != .verified || w.loading.isSome then reply src 6 (0x100 + Config.turnCode) 0 s
    else
      let s := if w.refetching then dropDigests x a s else s
      let s := s.onWgt x fun w =>
        { w with active := Fin.ofNat 2 b, quarantine := false, refetching := false, turns := satAdd 0xFFFFFFFF w.turns 1,
                 turn0 := some (aonCycle s, w.active, (slotW w a).state, w.quarantine) }
      let s := if vget w.refs 0 a == 0 then emptySlot x a s else s.onSlot x a fun l => { l with state := .draining }
      reply src 6 0 0 (s.onSlot x b fun l => { l with state := .active })) s

/-- The answer of the hub to a request operation (R423, R428): hardware sets DONE. -/
def reqAnswer (c : CoreId) (result : Nat) (latch : Option (Fin 2)) (s : State) : State :=
  (s.onCc c fun k => { k with reqDone := true, reqResult := result, reqLatched := latch.getD k.reqLatched }).onSc c (setBit 0x1904 1)

/-- The module context that core `c`'s request register names. -/
def reqCtx (s : State) (c : CoreId) : CtxId := Fin.ofNat 8 (slotCtx s c (s.cc c).reqCslot.val)

def addRef (x : CtxId) (k : Nat) (s : State) : State := s.onWgt x fun w => { w with refs := vset w.refs k (vget w.refs 0 k + 1) }

/-- The active slot that a BEGIN of the present always-on cycle finds, with its state and the quarantine: those before a turn of the same
cycle (R424, R427). -/
def beginView (s : State) (w : WgtCtx) : Fin 2 × WSlot × Bool :=
  match w.turn0 with
  | some (t, a, st, q) => if t == aonCycle s then (a, st, q) else (w.active, (slotW w w.active.val).state, w.quarantine)
  | none => (w.active, (slotW w w.active.val).state, w.quarantine)

/-- BEGIN (R423, R427). A slot that the turn of the same cycle left with no request has one now: it drains. -/
def reqBeginOp (c : CoreId) (s : State) : State :=
  let x := reqCtx s c
  let w := s.wgt x
  let v := beginView s w
  let a := v.1.val
  if v.2.2 then reqAnswer c 1 none s
  else if v.2.1 != .active then reqAnswer c 2 none s
  else if 65535 ≤ vget w.refs 0 a then reqAnswer c 3 none s
  else
    let s := if (slotW w a).state == .empty then s.onSlot x a fun l => { l with state := .draining } else s
    reqAnswer c 0 (some v.1) (addRef x a s)

/-- JOIN (R423). -/
def reqJoinOp (c : CoreId) (s : State) : State :=
  let x := reqCtx s c
  let w := s.wgt x
  let k := (s.cc c).reqSlot.val
  let st := (slotW w k).state
  if (st != .active && st != .draining) || 65535 ≤ vget w.refs 0 k then reqAnswer c 3 none s
  else reqAnswer c 0 none (addRef x k s)

/-- END (R423, R424, R426): a draining slot empties at 0, a quarantined one is refetched. -/
def reqEndOp (c : CoreId) (s : State) : State :=
  let x := reqCtx s c
  let w := s.wgt x
  let k := (s.cc c).reqSlot.val
  let n := vget w.refs 0 k
  if n == 0 then reqAnswer c 3 none s
  else
    let s := s.onWgt x fun w => { w with refs := vset w.refs k (n - 1) }
    let s := if n == 1 && (slotW w k).state == .draining then emptySlot x k s
      else if n == 1 && w.quarantine && w.active.val == k then refetch x k s
      else s
    reqAnswer c 0 none s

/-- REQ_BEGIN (R423, R427). -/
def execReqBegin (c : CoreId) (s : State) : Answer := .next (reqBeginOp c s)
/-- REQ_JOIN (R423). -/
def execReqJoin (c : CoreId) (s : State) : Answer := .next (reqJoinOp c s)
/-- REQ_END (R423). -/
def execReqEnd (c : CoreId) (s : State) : Answer := .next (reqEndOp c s)

/-- A context reset (R427): a load in progress fails, counts become 0, DRAINING slots become EMPTY. The active slot keeps its state: a
quarantine that waited for its count goes on to the refetch (R426). -/
def wgtContextReset (x : CtxId) (s : State) : State :=
  let w := s.wgt x
  let s := match w.loading with
    | some k => wgtFail x k.val 0 s
    | none => s
  let s := s.onWgt x fun w => { w with refs := Vector.replicate 2 0 }
  let s := if w.quarantine && !w.refetching then refetch x w.active.val s else s
  forAll [0, 1] (fun k s => if (slotW (s.wgt x) k).state == .draining then emptySlot x k s else s) s

end Sys2Proof.Machine
end

