-- ==== Sys2Proof/Machine/Journal.lean ====
section
/-! DEFINITION. The step journal and its mirror (R430 to R437, R456), and the shared parts of snapshots: the store (R440), the range
table (R431), resilience records. -/

namespace Sys2Proof.Machine

open Sys2Proof

def State.snp (s : State) (x : CtxId) : SnpCtx := s.hub.snp.get x
def State.onSnp (s : State) (x : CtxId) (f : SnpCtx → SnpCtx) : State :=
  s.onHub fun h => { h with snp := vset h.snp x.val (f (h.snp.get x)) }

/-- A resilience record (R456). What does not apply to a kind is 0. -/
def resFlt (x : CtxId) (kind slot seq step idx pos : Nat) : Flt :=
  { cls := 0x15, source := 6, tag := 0, ctx := x.val,
    detail := kind + slot * 2 ^ 8 + seq % 2 ^ 64 * 2 ^ 16 + step % 2 ^ 64 * 2 ^ 80 + idx % 2 ^ 32 * 2 ^ 144 + pos % 2 ^ 16 * 2 ^ 176 }

/-! ### The store (R440) -/

/-- `n` rows of the store from the start of a page on. -/
def readStore (s : State) (page n : Nat) : List Row := (List.range n).map fun i => readRowAt s.hub.store (4096 * page + 512 * i)
/-- Bytes written to the store from byte address `a` on. -/
def writeStore (a : Nat) (bs : List Byte) (s : State) : State := s.onHub fun h => { h with store := writeCells h.store a bs }
/-- A page is erased. -/
def eraseStore (page : Nat) (s : State) : State := s.onHub fun h => { h with store := clearCells h.store (4096 * page) 4096 }

/-- First page of a slot of the context's own area. -/
def slotPage (n : SnpCtx) (slot : Nat) : Nat := n.areaBase + slot * (n.areaSize / 2)
/-- Pages of the chunk table of `k` chunks. -/
def tablePages (k : Nat) : Nat := ceilDiv k 64

/-! ### The range table (R431) -/

/-- A protected range: first row, link set, rows. -/
structure SRange where
  base : Nat
  link : Nat
  rows : Nat
  deriving DecidableEq, Repr

def snpRanges (s : State) (n : SnpCtx) : List SRange :=
  (List.range n.rtabCnt).map fun i =>
    let e := readCells s.mem (n.rtab + 16 * i) 16
    ⟨bitsOf e 0 48, bitsOf e 48 16, bitsOf e 64 32⟩

/-- A chunk: its range, link set, first row, rows. -/
structure SChunk where
  range : Nat
  link  : Nat
  addr  : Nat
  rows  : Nat
  deriving DecidableEq, Repr

/-- The chunks of a range. -/
def rangeChunks (i : Nat) (r : SRange) : List SChunk :=
  (List.range (ceilDiv r.rows 2048)).map fun k =>
    ⟨i, r.link, r.base + 512 * 2048 * k, if r.rows ≤ 2048 * k + 2048 then r.rows - 2048 * k else 2048⟩

/-- The chunks of a context, chunk 0 first. -/
def snpChunks (s : State) (n : SnpCtx) : List SChunk := (snpRanges s n).zipIdx.flatMap fun r => rangeChunks r.2 r.1

/-! ### Entries of the journal (R432 to R434) -/

/-- The header row of the entry of step `g` in a ring at `base`. -/
def jnlSlotAddr (n : SnpCtx) (base g : Nat) : Nat := base + 512 * (g % n.jEntries * (n.jRows + 1))

/-- The entry digest (R434). -/
def jnlDigest (rows : List Row) : List Byte := sha256 ((chunksOf 32768 (rows.length + 1) rows).flatMap fun seg => sha256 (rowBytes seg))

def jhMagic (h : Row) : Nat := h.field 0x00 4
def jhFormat (h : Row) : Nat := h.field 0x04 2
def jhContext (h : Row) : Nat := h.field 0x06 1
def jhStep (h : Row) : Nat := h.field 0x08 8
def jhSeq (h : Row) : Nat := h.field 0x10 8
def jhRows (h : Row) : Nat := h.field 0x18 4
def jhPrivMask (h : Row) : Nat := h.field 0x1C 1
def jhPriv (h : Row) (k : Nat) : Nat := h.field (0x20 + 4 * k) 4
def jhDigest (h : Row) : Nat := h.field 0x40 32

/-- The header row of the entry for step `g` (R433). -/
def jnlHeader (s : State) (x : CtxId) (g rows : Nat) (data : List Row) : Row :=
  let n := s.snp x
  let a := s.advOf x
  let priv := (List.range 8).map fun k => if privReady a k g then ((vget a.armed none (2 * k + g % 2)).map fun v => v.2.toNat).getD 0 else 0
  let mask := ((List.range 8).map fun k => b2n (privReady a k g) * 2 ^ k).sum
  let again := n.again == some g || (n.jSeq != 0 && g ≤ n.jStep)
  let h : Row := (((((0 : Row).put 0x00 4 0x4A4E4C48).put 0x04 2 1).put 0x06 1 x.val).put 0x07 1 (b2n again)).put 0x08 8 g
  ((((h.put 0x10 8 (n.jSeq + 1)).put 0x18 4 rows).put 0x1C 1 mask).put 0x20 32 (packNat 32 priv)).put 0x40 32 (digestNat (jnlDigest data))
    |>.put 0x60 2 s.hub.position

/-- Steps 3 and 4 of R435: the local rows are digested, the header is written locally and leaves for the mirror. -/
def jnlPerform (x : CtxId) (g rows : Nat) (src : CmdSrc) (retried : Bool) (s : State) : State :=
  let n := s.snp x
  let a := jnlSlotAddr n n.jBase g
  let h := jnlHeader s x g rows (readRows s (a + 512) rows)
  let m := jnlSlotAddr n n.jMirrorBase g
  let s := (writeRow s a h).onSnp x fun n => { n with jBusy := some (g, rows, src, retried) }
  putItem ⟨.write, rowPlane 0xFE m, n.jMirrorPos, m / 0x1000000 % 128, s.hub.position, 0xFE, src.tag, m, 0, 1, 0, true, h⟩ s

/-- Writing the entry for step `g` is permitted (R437). -/
def jnlCovered (n : SnpCtx) (g : Nat) : Bool := g ≤ n.bmin + n.jEntries

/-- F of R437. -/
def jnlFree (n : SnpCtx) : Nat := n.bmin + n.jEntries - n.jStep

/-- F is at most a quarter of the entries of a journal. -/
def jnlPressure (n : SnpCtx) : Bool := n.jEntries != 0 && jnlFree n * 4 ≤ n.jEntries

/-- A journal command without coverage waits (R437). -/
def jnlHold (x : CtxId) (g rows : Nat) (src : CmdSrc) (s : State) : State :=
  let n := s.snp x
  headlandFault (resFlt x 1 0 0 g (g % n.jEntries) 0)
    (s.onSnp x fun n => { n with jHeld := some (g, rows, src), jWaits := satAdd 0xFFFFFFFF n.jWaits 1 })

/-- JOURNAL_COMMAND (R435, R437): taken up when the one before it is done. -/
def execJournalCommand (src : CmdSrc) (x : CtxId) (step rows : Nat) (s : State) : Answer :=
  let n := s.snp x
  whenDue (n.jBusy.isNone && n.jHeld.isNone) (fun s =>
    let s := takeCmd 1 0 src s
    if n.jEntries == 0 || rows == 0 || n.jRows < rows then s
    else if jnlCovered n step then jnlPerform x step rows src false s
    else jnlHold x step rows src s) s

/-- A management flit for the Headland at position `pos`, over the routes. -/
def sendMgmt (pos : Nat) (f : Flit) (s : State) : State :=
  putItem ⟨.mgmt, 0, pos, 0xFE, s.hub.position, 0xFE, 0, 0, 0, 1, 0, true, BitVec.ofNat 4096 f.toNat⟩ s

/-- MIRROR_HEADER_LAND (R434, R435): this module holds the mirror; it digests the rows behind the header and answers. -/
def execMirrorHeaderLand (fromPos : BitVec 16) (addr : Nat) (s : State) : Answer :=
  let h := readRow s addr
  let ok := digestNat (jnlDigest (readRows s (rowBase addr + 512) (jhRows h))) == jhDigest h
  .next (sendMgmt fromPos.toNat (mgmtFlit 6 [4, addr, b2n ok]) s)

/-- The answer of the mirror's holder leaves the net. -/
def takeMirrorAnswer (pos : Nat) (s : State) : State :=
  { s with net := s.net.eraseP fun i => i.kind == .mgmt && i.srcPos == pos && Config.mgmtField (BitVec.ofNat 2048 i.data.toNat) 0 == 4 }

/-- MIRROR_ANSWER (R435 step 5): the entry is committed, repeated once, or given up. -/
def execMirrorAnswer (x : CtxId) (ok : Bool) (s : State) : Answer :=
  let n := s.snp x
  match n.jBusy with
  | none => .next s
  | some (g, rows, src, retried) =>
    let s := takeMirrorAnswer n.jMirrorPos s
    if ok then
      .next (replyInline src 0 (s.onSnp x fun n =>
        { n with jBusy := none, jStep := g, jSeq := n.jSeq + 1, again := if n.again == some g then none else n.again }))
    else if !retried then .next (jnlPerform x g rows src true s)
    else
      .next (headlandFault (resFlt x 4 0 0 g (g % n.jEntries) n.jMirrorPos)
        (hubSetBit (hubBlock (0x8001C + 0x100 * x.val)) 8 (s.onSnp x fun n => { n with jBusy := none, jMirrorBad := true })))

end Sys2Proof.Machine
end

