-- ==== Sys2Proof/Machine/Snapshot.lean ====
section
/-! DEFINITION. Snapshots, partners and the failure risk (R438 to R448). -/

namespace Sys2Proof.Machine

open Sys2Proof

/-! ### Chunk-table entries and the commit record (R441, R442) -/

def ceChunk (e : BitVec 512) : Nat := bfld e 0x00 4
def ceRows (e : BitVec 512) : Nat := bfld e 0x04 2
def ceBase (e : BitVec 512) : Nat := bfld e 0x08 8
def ceSrc (e : BitVec 512) : Nat := bfld e 0x10 8
def ceDigest (e : BitVec 512) : Nat := bfld e 0x20 32

/-- The entry of chunk `c` copied at step `g`. -/
def chunkEntry (c g : Nat) (k : SChunk) (rows : List Row) : BitVec 512 :=
  BitVec.ofNat 512 (c % 2 ^ 32 + k.rows % 2 ^ 16 * 2 ^ 32 + k.range % 2 ^ 16 * 2 ^ 48 + g % 2 ^ 64 * 2 ^ 64 + k.addr % 2 ^ 64 * 2 ^ 128 +
    digestNat (sha256 (rowBytes rows)) * 2 ^ 256)

/-- The entry of chunk `c`, 0 where there is none. -/
def tableEntry (t : List (Nat × BitVec 512)) (c : Nat) : BitVec 512 := ((t.find? fun y => y.1 == c).map (·.2)).getD 0

/-- The chunk-table pages of `n` chunks. -/
def tableRows (t : List (Nat × BitVec 512)) (n : Nat) : List Row :=
  (List.range (8 * tablePages n)).map fun r => packRow 512 ((List.range 8).map fun i => (tableEntry t (8 * r + i)).toNat)

/-- A number as the eight rows of a page. -/
def pageOf (n : Nat) : List Row := (List.range 8).map fun i => BitVec.ofNat 4096 (n / 2 ^ (4096 * i))
/-- A page's rows as a number. -/
def pageNat (rows : List Row) : Nat := packNat 4096 (rows.map (·.toNat))
/-- A field of a page. -/
def pageField (rows : List Row) (off len : Nat) : Nat := pageNat rows / 2 ^ (8 * off) % 2 ^ (8 * len)

/-- Bytes 0x000 to 0x0FF of the commit record (R442). -/
def commitHead (s : State) (x : CtxId) (r : SnpRun) : Nat :=
  let n := s.snp x
  let l := s.loadOf x
  let bs := r.table.map fun y => ceBase y.2
  let lo := bs.foldl min (bs.headD 0)
  let hi := bs.foldl max 0
  let p2 := if n.partner2En && n.partner2Res == 1 then n.partner2 else 0xFFFF
  0x534E5043 + 2 ^ 32 + r.slot.val * 2 ^ 48 + x.val * 2 ^ 56 + r.seq % 2 ^ 64 * 2 ^ 64 + lo % 2 ^ 64 * 2 ^ 128 + hi % 2 ^ 64 * 2 ^ 192 +
    r.chunks % 2 ^ 32 * 2 ^ 256 + s.hub.position % 2 ^ 16 * 2 ^ 288 + s.hub.fuses.grade % 256 * 2 ^ 304 + l.mode % 256 * 2 ^ 312 +
    l.quahamId % 2 ^ 64 * 2 ^ 320 + l.digest.toNat * 2 ^ 384 + digestNat (sha384 (rowBytes (tableRows r.table r.chunks))) * 2 ^ 640 +
    Config.keyRsaHash % 2 ^ 384 * 2 ^ 1024 + Config.keySlhHash % 2 ^ 384 * 2 ^ 1408 + n.partner % 2 ^ 16 * 2 ^ 1792 + p2 % 2 ^ 16 * 2 ^ 1808 +
    b2n n.correlated * 2 ^ 1824

/-- M: the digest that both signatures cover. -/
def commitM (head : Nat) : List Byte := sha384 (leBytes 256 head)

/-- The four signature pages. -/
def sigRows (m : List Byte) : List Row :=
  let bs := (Config.slhSign m).take 16224
  (List.range 32).map fun i => Row.ofBytes ((bs.drop (512 * i)).take 512)

/-- The commit record page. -/
def commitRecord (s : State) (x : CtxId) (r : SnpRun) : List Row :=
  let head := commitHead s x r
  let m := commitM head
  pageOf (head + digestNat (sha384 (rowBytes (sigRows m))) * 2 ^ 2048 + ofLe (beBytes 384 (Config.rsaSign m)) * 2 ^ 2432)

/-! ### Intervals (R447, R457) -/

/-- Snapshot bytes of a context. -/
def snpBytes (s : State) (x : CtxId) : Nat := 512 * ((snpRanges s (s.snp x)).map (·.rows)).sum

/-- R447's interval in ms, for snapshot bytes and failures per 10^6 hours. -/
def basicInterval (bytes rate : Nat) : Nat :=
  if rate == 0 then 86400000
  else
    let i := Nat.sqrt (bytes * 112500 / rate)
    if i < 1000 then 1000 else if 86400000 < i then 86400000 else i

/-- The interval in force, in ms: halved at risk level 3 outside service (R448). -/
def snpIntervalMs (s : State) (x : CtxId) : Nat :=
  let n := s.snp x
  let i := if n.level then n.interval else basicInterval (snpBytes s x) s.hub.failRate
  if s.hub.riskLevel == 3 && n.phase != 0 then i / 2 else i

/-! ### Starting and ending (R439, R443, R444) -/

/-- A snapshot may start: enabled, none in progress, no restore, and the store has not worn out. -/
def snpCanStart (n : SnpCtx) : Bool := n.en && !n.worn && n.snp.isNone && n.rst.isNone && n.rtabCnt != 0

/-- A snapshot starts: the target slot's commit page is erased (R443 step 1). -/
def startSnapshot (x : CtxId) (s : State) : State :=
  let n := s.snp x
  let slot : Fin 2 := if n.committed then Fin.ofNat 2 (1 - n.slot.val) else 0
  let r : SnpRun := { slot := slot, seq := n.lastSeq + 1, chunks := (snpChunks s n).length, table := [], signed := false, record := [],
                      commits := [], notices := [], mism := [], window := 0 }
  let now := tbNow s
  (eraseStore (slotPage n slot.val) s).onSnp x fun n => { n with snp := some r, lastSeq := n.lastSeq + 1, state := 1, lastStart := now }

/-- The snapshot in progress is abandoned (R443). -/
def abandonSnapshot (x : CtxId) (s : State) : State :=
  if (s.snp x).snp.isNone then s
  else (s.onSnp x fun n => { n with snp := none, state := 0 }).onHub fun h => { h with abandoned := satAdd 0xFFFF h.abandoned 1 }

/-- The Headland or the system manager through it. -/
def byManager : Writer → Bool
  | .headland | .manager => true
  | .host | .core _ => false

/-- A core of context `x`, or the Headland (R438). -/
def ofContext (s : State) (x : CtxId) : Writer → Bool
  | .headland | .manager => true
  | .host => false
  | .core c => (slotOf s c x.val).isSome

/-- UPD_END is written: a copy window opens at the present step (R438). -/
def updEndOp (w : Writer) (x : CtxId) (s : State) : State :=
  let g := (s.advOf x).step.toNat
  if !ofContext s x w || (s.snp x).window.isSome then s
  else s.onSnp x fun n => { n with window := some g, snp := n.snp.map fun r => { r with window := 0 } }

/-- UPD_END (R438). -/
def execUpdEnd (w : Writer) (x : CtxId) (s : State) : Answer := .next (updEndOp w x s)

/-- NOW is written (R457). -/
def snapshotNowOp (w : Writer) (x : CtxId) (s : State) : State := if byManager w && snpCanStart (s.snp x) then startSnapshot x s else s

/-- SNAPSHOT_NOW (R457). -/
def execSnapshotNow (w : Writer) (x : CtxId) (ns : Nat) (s : State) : Answer := .next (snapshotNowOp w x (s.atNs ns))

/-- SNAPSHOT_START (R437, R447, R448): at the interval's end in a copy window, or at once under journal pressure. -/
def execSnapshotStart (x : CtxId) (ns : Nat) (s : State) : Answer :=
  let s := s.atNs ns
  let n := s.snp x
  whenDue (snpCanStart n && (jnlPressure n || (n.window.isSome && n.lastStart + snpIntervalMs s x * 1000000 ≤ tbNow s))) (startSnapshot x) s

/-! ### Copying chunks (R438, R439, R443 step 2, R445) -/

/-- Position and RESULT of partner 1 or 2. -/
def partnerOf (n : SnpCtx) (q : Nat) : Nat × Nat := if q == 1 then (n.partner, n.partnerRes) else (n.partner2, n.partner2Res)

/-- CHUNK of the entry that announces a copy's signature pages and commit page: R445 has them travel as chunks do and gives no number (log
entry 129). -/
def commitChunk : Nat := 0xFFFFFFFF

/-- The entry that announces `rows` of signature and commit pages. -/
def commitEntry (rows : List Row) : BitVec 512 := chunkEntry commitChunk 0 ⟨0, 0, 0, rows.length⟩ rows

/-- Rows and their notice leave for a partner, into its relay slot of the number; a partner that is not accepted never answers (R445). -/
def sendPartnerChunk (x : CtxId) (q c : Nat) (e : BitVec 512) (rows : List Row) (s : State) : State :=
  let n := s.snp x
  let now := s.hub.ns
  let pos := (partnerOf n q).1
  let s := s.onSnp x fun n => { n with snp := n.snp.map fun r => { r with notices := r.notices ++ [(q, c, now)] } }
  if (partnerOf n q).2 != 1 then s
  else
    let dst := Config.partnerRelay pos x.val + 512 * 2048 * (c % 16)
    headlandSendF 3 pos 0xFE Config.partnerRing 0 e.toNat [] (hubWrites pos dst 0 rows s)

/-- Partners whose copies the snapshot needs. -/
def partnersOf (n : SnpCtx) : List Nat := if n.correlated then [1, 2] else [1]

/-- A link set's chunks copied in another window are copied again with this one (R431, R438). -/
def dropLinked (cs : List SChunk) (k : SChunk) (g : Nat) (t : List (Nat × BitVec 512)) : List (Nat × BitVec 512) :=
  t.filter fun y => k.link == 0 || ceBase y.2 == g || !(cs[y.1]?).any fun z => z.link == k.link

/-- The chunk is written to the store with its table entry. -/
def storeChunk (page n c : Nat) (e : BitVec 512) (rows : List Row) (s : State) : State :=
  writeStore (4096 * (page + 5) + 64 * c) (leBytes 64 e.toNat) (writeStore (4096 * (page + 5 + tablePages n + 256 * c)) (rowBytes rows) s)

/-- No source's request waits at the bank of the last row of chunk `k` (R100). -/
def chunkIdle (s : State) (k : SChunk) : Bool :=
  match placeOf (k.addr + 512 * (k.rows - 1)) with
  | .commons d row => !bankWaits s d row
  | .plot _ _ | .deep _ _ | .control | .window | .unpopulated => true

/-- SNAPSHOT_CHUNK_COPIED (R100, R438, R439, R441, R445): a partner's relay slot takes the chunk once its last chunk is answered. -/
def execSnapshotChunkCopied (x : CtxId) (chunk : Reading Nat) (s : State) : Answer :=
  let n := s.snp x
  match n.snp, n.window, (snpChunks s n)[chunk.of]? with
  | some r, some g, some k =>
    let free := !n.level || n.pace == 0 || jnlPressure n || r.window < n.pace
    whenDue (!r.signed && free && !(r.table.any fun y => y.1 == chunk.of) && !(r.notices.any fun y => y.2.1 % 16 == chunk.of % 16) && chunkIdle s k)
      (fun s =>
      let y := readCopied k.addr k.rows chunk.err s
      let rows := y.1
      let s := y.2
      let e := chunkEntry chunk.of g k rows
      let t := dropLinked (snpChunks s n) k g r.table ++ [(chunk.of, e)]
      let s := storeChunk (slotPage n r.slot.val) r.chunks chunk.of e rows s
      let s := s.onSnp x fun n => { n with snp := some { r with table := t, window := r.window + 1 } }
      forAll (partnersOf n) (fun q s => sendPartnerChunk x q chunk.of e rows s) s) s
  | _, _, _ => .next s

/-- Rows that agree with their entry go into the hosted copy (R443, R445): a chunk, which leaves the slot without a commit record, or the
signature pages and then the commit record. -/
def hostRows (pos ctx : Nat) (entry : BitVec 512) (rows : List Row) (s : State) : State :=
  let page := Config.hostedCommit pos ctx entry
  if ceChunk entry == commitChunk then
    writeStore (4096 * page) (rowBytes (rows.drop 32)) (writeStore (4096 * (page + 1)) (rowBytes (rows.take 32)) s)
  else
    writeStore (Config.hostedEntry pos ctx entry) (leBytes 64 entry.toNat)
      (writeStore (4096 * Config.hostedPage pos ctx entry) (rowBytes rows) (eraseStore page s))

/-- PARTNER_CHUNK_NOTICE (R444, R445): this module hosts the copy; the relay slot's rows are checked, stored, and the sender told. -/
def execPartnerChunkNotice (fromPos : BitVec 16) (ctx : CtxId) (slotAddr : Nat) (entry : BitVec 512) (s : State) : Answer :=
  let pos := fromPos.toNat
  if !s.hub.hl.hosted.contains pos then .next s
  else whenDue (ceChunk entry != commitChunk || s.hub.pwr.mainOk || s.hub.pwr.backupOk) (fun s =>
    let rows := readRows s slotAddr (ceRows entry)
    let good := digestNat (sha256 (rowBytes rows)) == ceDigest entry
    sendMgmt pos (mgmtFlit 6 [if good then 2 else 3, ctx.val, ceChunk entry, s.hub.position]) (if good then hostRows pos ctx.val entry rows s else s)) s

/-- The entry and the rows of chunk `c` of a snapshot as the store holds them, or its signature pages and commit record. -/
def copyAgain (s : State) (n : SnpCtx) (r : SnpRun) (c : Nat) : BitVec 512 × List Row :=
  let page := slotPage n r.slot.val
  if c == commitChunk then
    let rows := readStore s (page + 1) 32 ++ r.record
    (commitEntry rows, rows)
  else
    let e := tableEntry r.table c
    (e, readStore s (page + 5 + tablePages r.chunks + 256 * c) (ceRows e))

/-- A partner's answer to the notice of chunk `c`: stored, or a mismatch, of which the third abandons the snapshot (R445). -/
def partnerAnswer (x : CtxId) (q c : Nat) (ok : Bool) (s : State) : State :=
  let n := s.snp x
  match n.snp with
  | none => s
  | some r =>
    if !(r.notices.any fun y => y.1 == q && y.2.1 == c) then s
    else
      let rest := r.notices.filter fun y => !(y.1 == q && y.2.1 == c)
      let k := ((r.mism.find? fun y => y.1 == q && y.2.1 == c).elim 0 (·.2.2)) + 1
      if ok then s.onSnp x fun n => { n with snp := some { r with notices := rest } }
      else if 3 ≤ k then abandonSnapshot x s
      else
        let e := copyAgain s n r c
        sendPartnerChunk x q c e.1 e.2 (s.onSnp x fun n =>
          { n with snp := some { r with notices := rest, mism := (q, c, k) :: r.mism.filter fun y => !(y.1 == q && y.2.1 == c) } })

/-- PARTNER_NOTICE_TIMEOUT (R445): 100 ms without an answer. -/
def execPartnerNoticeTimeout (x : CtxId) (ns : Nat) (s : State) : Answer :=
  let s := s.atNs ns
  let n := s.snp x
  match n.snp with
  | none => .next s
  | some r =>
    match r.notices.find? fun y => y.2.2 + 100000000 ≤ s.hub.ns with
    | none => .next s
    | some y =>
      .next (headlandFault (resFlt x 3 r.slot.val r.seq 0 y.2.1 (partnerOf n y.1).1) (abandonSnapshot x s))

/-! ### Signing and committing (R443, R444) -/

/-- Every chunk is written, in every copy. -/
def snpCopied (s : State) (n : SnpCtx) (r : SnpRun) : Bool :=
  (List.range r.chunks).all (fun c => r.table.any fun y => y.1 == c) && r.notices.isEmpty && r.chunks == (snpChunks s n).length

/-- SNAPSHOT_SIGNED (R443 step 3, R445): M is signed and the signature pages are written; they leave for the partners with the commit
record. -/
def execSnapshotSigned (x : CtxId) (s : State) : Answer :=
  let n := s.snp x
  match n.snp with
  | none => .next s
  | some r =>
    whenDue (!r.signed && snpCopied s n r) (fun s =>
      let sig := sigRows (commitM (commitHead s x r))
      let rec8 := commitRecord s x r
      let s := (writeStore (4096 * (slotPage n r.slot.val + 1)) (rowBytes sig) s).onSnp x fun n =>
        { n with state := 2, snp := some { r with signed := true, record := rec8 } }
      forAll (partnersOf n) (fun q s => sendPartnerChunk x q commitChunk (commitEntry (sig ++ rec8)) (sig ++ rec8) s) s) s

/-- The copies a snapshot needs (R443). -/
def copiesOf (n : SnpCtx) : List (Fin 3) := if n.correlated then [0, 1, 2] else [0, 1]

/-- A held journal command goes on once a commit has raised B_min (R437). -/
def jnlRelease (x : CtxId) (s : State) : State :=
  let n := s.snp x
  match n.jHeld with
  | some (g, rows, src) => if jnlCovered n g then jnlPerform x g rows src false (s.onSnp x fun n => { n with jHeld := none }) else s
  | none => s

/-- The snapshot is committed (R443). -/
def commitSnapshot (x : CtxId) (r : SnpRun) (s : State) : State :=
  let b := pageField r.record 0x10 8
  jnlRelease x (s.onSnp x fun n => { n with snp := none, state := 0, slot := r.slot, seq := r.seq, bmin := b, committed := true })

/-- A page program that failed is repeated in a spare block; with none left the store has worn out (R444). -/
def pageFails (x : CtxId) (r : SnpRun) (s : State) : State :=
  let s := s.onHub fun h => { h with pageFail := satAdd 0xFFFF h.pageFail 1, spares := h.spares - 1 }
  if s.hub.spares != 0 then s
  else
    let s := s.onHub fun h => { h with snp := h.snp.map fun n => { n with worn := true } }
    headlandFault (resFlt x 2 r.slot.val r.seq 0 0 0) (forAll (List.finRange 8) abandonSnapshot s)

/-- COMMIT_PAGE_WRITTEN (R443 step 4, R444): the local program needs a supply within its range, a partner's copy its answer. -/
def execCommitPageWritten (x : CtxId) (copy : Fin 3) (ok : Bool) (s : State) : Answer :=
  let n := s.snp x
  match n.snp with
  | none => .next s
  | some r =>
    let q := partnerOf n copy.val
    whenDue (r.signed && (copiesOf n).contains copy && !r.commits.contains copy &&
        (if copy == 0 then s.hub.pwr.mainOk || s.hub.pwr.backupOk else q.2 == 1 && !(r.notices.any fun y => y.1 == copy.val))) (fun s =>
      if !ok then (if copy == 0 then pageFails x r s else s)
      else
        let s := if copy == 0 then writeStore (4096 * slotPage n r.slot.val) (rowBytes r.record) s else s
        let r := { r with commits := r.commits ++ [copy] }
        if (copiesOf n).all r.commits.contains then commitSnapshot x r s
        else s.onSnp x fun n => { n with snp := some r }) s

/-! ### Partners (R446) -/

/-- A write of SNP_PARTNER or SNP_PARTNER2: ENABLE asks the partner for its identifiers. -/
def partnerWrite (w : Writer) (x : CtxId) (second : Bool) (v : Word) (s : State) : State :=
  if !byManager w then s
  else
    let pos := bitsOf v.toNat 0 16
    let en := v.getLsbD 16
    let res := if en && wayTo s pos 0 == .refused then 3 else 0
    let s := s.onSnp x fun n => if second then { n with partner2 := pos, partner2En := en, partner2Res := res }
      else { n with partner := pos, partnerEn := en, partnerRes := res, correlated := false }
    if en && res == 0 then
      sendMgmt pos (mgmtFlit 6 [0, x.val, b2n second, s.hub.feedMain, s.hub.feedBkp, s.hub.position, Config.keyRsaHash, Config.keySlhHash]) s
    else s

/-- PARTNER_CHECK (R446). -/
def execPartnerCheck (x : CtxId) (second : Bool) (v : Word) (s : State) : Answer := .next (partnerWrite .headland x second v s)

/-- The pairing's RESULT, and CORRELATED for a first partner (R446). -/
def pairing (s : State) (n : SnpCtx) (second hosts : Bool) (main bkp : Nat) : Nat × Bool :=
  let shared := s.hub.feedMain == main || s.hub.feedMain == bkp || s.hub.feedBkp == main || s.hub.feedBkp == bkp
  if !hosts then (3, false)
  else if !shared then (1, false)
  else if second || !n.level then (2, false)
  else (1, true)

/-- A partner's answer to the query sets RESULT; a refused pairing is recorded (R446, R456). -/
def pairAnswer (x : CtxId) (second hosts : Bool) (main bkp : Nat) (s : State) : State :=
  let n := s.snp x
  let r := pairing s n second hosts main bkp
  let waits := if second then n.partner2En && n.partner2Res == 0 else n.partnerEn && n.partnerRes == 0
  if !waits then s
  else
    let s := s.onSnp x fun n => if second then { n with partner2Res := r.1 } else { n with partnerRes := r.1, correlated := r.2 }
    if r.1 == 1 then s else headlandFault (resFlt x 9 0 0 0 0 (if second then n.partner2 else n.partner)) s

/-- A query is answered with this module's identifiers; it hosts copies for at most two modules (R446). -/
def partnerQuery (pos ctx second : Nat) (s : State) : State :=
  let hosts := s.hub.hl.hosted.contains pos || s.hub.hl.hosted.length < 2
  let s := s.onHl fun h => { h with hosted := if hosts && !h.hosted.contains pos then h.hosted ++ [pos] else h.hosted }
  sendMgmt pos (mgmtFlit 6 [1, ctx, second, s.hub.feedMain, s.hub.feedBkp, b2n hosts, Config.keyRsaHash, Config.keySlhHash]) s

/-- PARTNER_FLIT (R446, R445): a query, an answer to one, or an answer to a chunk notice. -/
def execPartnerFlit (_p : PortId) (f : Flit) (s : State) : Answer :=
  let s := takeMgmt f s
  let fld := Config.mgmtField f
  let x : CtxId := Fin.ofNat 8 (fld 1)
  .next (match fld 0 with
    | 0 => partnerQuery (fld 5) (fld 1) (fld 2) s
    | 1 => pairAnswer x (fld 2 != 0) (fld 5 != 0) (fld 3) (fld 4) s
    | 2 => partnerAnswer x (if fld 3 == (s.snp x).partner then 1 else 2) (fld 2) true s
    | 3 => partnerAnswer x (if fld 3 == (s.snp x).partner then 1 else 2) (fld 2) false s
    | _ => s)

/-! ### Failure risk (R448) -/

/-- The highest Tj of any die, in 0.125 °C. -/
def hottest (s : State) : Int := (s.hub.pwr.otherTj.toList ++ allDies.map fun d => (s.die d).tj).foldl max (s.die 0).tj

/-- Thermal margin below the throttle point (R475), in 0.125 °C. -/
def thermalMargin (s : State) : Int := (s.hub.pwr.throttle : Int) * 8 - hottest s

/-- Is input `i` beyond its warn or alarm threshold? -/
def riskBeyond (s : State) (i : Nat) (alarm : Bool) : Bool :=
  let th := vget s.hub.riskTh (0, 0) i
  let v := if alarm then th.2 else th.1
  match i with
  | 0 => v ≤ s.hub.riskIn.1
  | 1 => v ≤ s.hub.riskIn.2.1
  | 2 => thermalMargin s < (v : Int) * 8
  | _ => v ≤ s.hub.riskIn.2.2

/-- The level that the inputs give. -/
def riskLevelOf (warn alarm : List Nat) : Nat :=
  if 2 ≤ alarm.length then 3 else if alarm.length == 1 || 2 ≤ warn.length then 2 else if warn.length == 1 then 1 else 0

/-- RISK_EVALUATION (R448): each second. A rise to level 2 or 3 starts snapshots outside service. -/
def execRiskEvaluation (ns : Nat) (s : State) : Answer :=
  let s := s.atNs ns
  let now := s.hub.ns
  whenDue (s.hub.riskAt + 1000000000 ≤ now) (fun s =>
    let warn := (List.range 4).filter fun i => riskBeyond s i false
    let alarm := (List.range 4).filter fun i => riskBeyond s i true
    let old := s.hub.riskLevel
    let new := riskLevelOf warn alarm
    let s := s.onHub fun h => { h with riskLevel := new, riskWarn := (warn.map fun i => 2 ^ i).sum,
                                       riskAlarm := (alarm.map fun i => 2 ^ i).sum, riskIn := (0, 0, 0), riskAt := now }
    if old < new && 2 ≤ new then
      forAll (List.finRange 8) (fun x s => if (s.snp x).phase != 0 && snpCanStart (s.snp x) then startSnapshot x s else s) s
    else s) s

end Sys2Proof.Machine
end

