-- ==== Sys2Proof/Machine/Restore.lean ====
section
/-! DEFINITION. Restore and replay (R450 to R455). A fetched item is a slot's header pages while the snapshot is being selected, a chunk
after that, or a journal entry. -/

namespace Sys2Proof.Machine

open Sys2Proof

/-! ### Commit records (R442, R451) -/

/-- The commit page of fetched header pages. -/
def headPage (rows : List Row) : List Row := rows.take 8
def headField (rows : List Row) (off len : Nat) : Nat := pageField (headPage rows) off len
def headSeq (rows : List Row) : Nat := headField rows 0x008 8
def headBmin (rows : List Row) : Nat := headField rows 0x010 8
def headChunks (rows : List Row) : Nat := headField rows 0x020 4
def headGrade (rows : List Row) : Nat := headField rows 0x026 1
/-- M of a commit record. -/
def headM (rows : List Row) : List Byte := commitM (headField rows 0 256)
/-- The chunk-table entry of chunk `c`. -/
def headEntry (rows : List Row) (c : Nat) : BitVec 512 := BitVec.ofNat 512 ((rows.getD (40 + c / 8) 0).field (64 * (c % 8)) 64)

/-- The commit record is valid (R442), and of the position and context wanted (R451 step 1). -/
def headValid (x : CtxId) (r : RestoreCmd) (rows : List Row) : Bool :=
  let m := headM rows
  let sig := (rows.drop 8).take 32
  let rsa := leBytes 384 (headField rows 0x130 384)
  headField rows 0 4 == 0x534E5043 && headField rows 4 2 == 1 && digestNat (sha384 (rowBytes sig)) == headField rows 0x100 48 &&
    Config.identRsaOk (headField rows 0x080 48) m rsa && Config.identSlhOk (headField rows 0x0B0 48) m ((rowBytes sig).take 16224) &&
    headField rows 0x080 48 == r.keyRsa && headField rows 0x0B0 48 == r.keySlh &&
    digestNat (sha384 (rowBytes ((rows.drop 40).take (8 * tablePages (headChunks rows))))) == headField rows 0x050 48 &&
    headField rows 0x024 2 == r.pos && headField rows 0x007 1 == x.val

/-- The valid copies: source, slot, header pages. -/
def validHeads (x : CtxId) (r : RstRun) : List (Nat × Nat × List Row) := r.heads.filter fun h => headValid x r.cmd h.2.2

/-- The valid copies of a SEQ. -/
def seqHeads (x : CtxId) (r : RstRun) (q : Nat) : List (Nat × Nat × List Row) := (validHeads x r).filter fun h => headSeq h.2.2 == q

/-- The position that source `i` names. -/
def sourcePos (xs : List Nat) (i : Nat) : Nat := xs.getD i 0xFFFF

/-! ### Outcomes -/

def State.onRst (s : State) (x : CtxId) (f : RstRun → RstRun) : State := s.onSnp x fun n => { n with rst := n.rst.map f }

/-- The restore fails (R451 step 5): record and second reply. -/
def restoreFails (x : CtxId) (r : RstRun) (s : State) : State :=
  replyDone r.src 8 (0x100 + Config.restoreCode)
    (headlandFault (resFlt x 7 0 (r.seq.getD 0) 0 0 r.cmd.pos) (s.onSnp x fun n => { n with rst := none, state := 0 }))

/-- A divergence record of kind 0x10 or 0x11 (R451, R452, R456). -/
def restoreDiv (x : CtxId) (kind pos seq : Nat) (s : State) : State :=
  attention 4 (headlandFault { cls := 0x12, source := 6, tag := 0, ctx := x.val,
                               detail := kind + pos % 2 ^ 16 * 2 ^ 16 + seq % 2 ^ 64 * 2 ^ 32 } s)

/-! ### Selection (R451 steps 1 to 3) -/

/-- The SEQs whose copies disagree, each with the holder of the other copy. -/
def splitSeqs (x : CtxId) (r : RstRun) : List (Nat × Nat) :=
  ((validHeads x r).map fun h => headSeq h.2.2).eraseDups.filterMap fun q =>
    match seqHeads x r q with
    | [] => none
    | h :: hs => (hs.find? fun k => headM k.2.2 != headM h.2.2).map fun k => (q, sourcePos r.cmd.sources k.1)

/-- The highest SEQ left. -/
def bestSeq (x : CtxId) (r : RstRun) : Option Nat :=
  (((validHeads x r).map fun h => headSeq h.2.2).filter fun q => !r.excluded.contains q).max?

/-- The winning copy is taken, or the restore fails: also when the grade differs and no remap table is given (R451, R454). -/
def selectSeq (x : CtxId) (s : State) : State :=
  match (s.snp x).rst with
  | none => s
  | some r =>
    match bestSeq x r with
    | none => restoreFails x r s
    | some q =>
      let head := ((seqHeads x r q).map (·.2.2)).headD []
      let other := headGrade head != s.hub.fuses.grade
      if other && r.cmd.remap == 0 then restoreFails x r s
      else
        let s := if other && !(s.snp x).gradeChanged then
            headlandFault (resFlt x 8 0 q 0 0 r.cmd.pos) (s.onSnp x fun n => { n with gradeChanged := true })
          else s
        s.onRst x fun r => { r with seq := some q, chunks := [], bad := [], next := headBmin head + 1 }

/-- The chosen SEQ is given up for the next older one (R451). -/
def fallBack (x : CtxId) (s : State) : State :=
  match (s.snp x).rst with
  | none => s
  | some r =>
    let q := r.seq.getD 0
    selectSeq x (headlandFault (resFlt x 6 0 q 0 0 r.cmd.pos) (s.onRst x fun r => { r with seq := none, excluded := q :: r.excluded }))

/-- Header pages have been fetched: an invalid record is reported, and with the last ones the snapshot is selected. -/
def takeHead (x : CtxId) (source slot : Nat) (rows : List Row) (s : State) : State :=
  match (s.snp x).rst with
  | none => s
  | some r =>
    if r.heads.any (fun h => h.1 == source && h.2.1 == slot) || r.cmd.sources.length ≤ source || 2 ≤ slot then s
    else
      let s := if headValid x r.cmd rows then s
        else headlandFault (resFlt x 10 slot (headSeq rows) 0 0 (sourcePos r.cmd.sources source)) s
      let r := { r with heads := r.heads ++ [(source, slot, rows)] }
      let s := s.onSnp x fun n => { n with rst := some r }
      if r.heads.length < 2 * r.cmd.sources.length then s
      else
        let bad := splitSeqs x r
        let s := forAll bad (fun d s => restoreDiv x 0x10 d.2 d.1 s) s
        selectSeq x (s.onRst x fun r => { r with excluded := bad.map (·.1) ++ r.excluded })

/-! ### Chunks (R451 step 4) -/

/-- The header pages of the copy that wins. -/
def winner (x : CtxId) (r : RstRun) : List Row := ((r.seq.map fun q => ((seqHeads x r q).map (·.2.2)).headD []).getD [])

/-- Where a chunk goes. -/
def restoreAddr (s : State) (r : RstRun) (a : Nat) : Nat := if r.cmd.remap == 0 then a else Config.remapAddr r.cmd.remap (readRow s r.cmd.remap) a

/-- A chunk has been fetched: placed when its digest agrees, else wanted from another copy, else from an older SEQ. -/
def takeChunk (x : CtxId) (source c : Nat) (rows : List Row) (s : State) : State :=
  match (s.snp x).rst with
  | none => s
  | some r =>
    let e := headEntry (winner x r) c
    let srcs := (seqHeads x r (r.seq.getD 0)).map (·.1)
    if headChunks (winner x r) ≤ c || r.chunks.contains c || !srcs.contains source || r.bad.contains (c, source) then s
    else if rows.length == ceRows e && digestNat (sha256 (rowBytes rows)) == ceDigest e then
      let s := forAll rows.zipIdx (fun y s => writeRow s (restoreAddr s r (ceSrc e + 512 * y.2)) y.1) s
      s.onRst x fun r => { r with chunks := r.chunks ++ [c] }
    else
      let s := headlandFault (resFlt x 5 0 (r.seq.getD 0) (ceBase e) c (sourcePos r.cmd.sources source)) s
      let r := { r with bad := (c, source) :: r.bad }
      let s := s.onSnp x fun n => { n with rst := some r }
      if srcs.all fun i => r.bad.contains (c, i) then fallBack x s else s

/-! ### Journal entries (R452) -/

/-- A fetched entry of ring slot `k` is valid: MAGIC, CONTEXT, a STEP of that slot, and its DIGEST. -/
def entryValid (x : CtxId) (n : SnpCtx) (k : Nat) (rows : List Row) : Bool :=
  let h := rows.headD 0
  jhMagic h == 0x4A4E4C48 && jhContext h == x.val && jhStep h % n.jEntries == k && rows.length == jhRows h + 1 &&
    digestNat (jnlDigest (rows.drop 1)) == jhDigest h

/-- The entry joins the context's own ring, where the replay strips read it, unless a later step's entry is in its slot (R432). -/
def placeEntry (n : SnpCtx) (r : RstRun) (rows : List Row) (s : State) : State :=
  let g := jhStep (rows.headD 0)
  if r.entries.any fun e => g < e.1 && e.1 % n.jEntries == g % n.jEntries then s else writeRows s (jnlSlotAddr n n.jBase g) rows

/-- An entry has been fetched: the higher JSEQ of two for one step wins; equal JSEQ with other contents fails the restore. -/
def takeEntry (x : CtxId) (source k : Nat) (rows : List Row) (s : State) : State :=
  let n := s.snp x
  match n.rst with
  | none => s
  | some r =>
    if r.jGot.contains (source, k) || r.cmd.jsources.length ≤ source || n.jEntries ≤ k then s
    else
      let s := s.onRst x fun r => { r with jGot := r.jGot ++ [(source, k)] }
      if !entryValid x n k rows then s
      else
        let h := rows.headD 0
        let put := fun (s : State) => (placeEntry n r rows s).onRst x fun r =>
          { r with entries := (jhStep h, jhSeq h, source, h) :: r.entries.filter fun e => e.1 != jhStep h }
        match r.entries.find? fun e => e.1 == jhStep h with
        | none => put s
        | some e =>
          if e.2.1 < jhSeq h then put s
          else if jhSeq h < e.2.1 || jhDigest e.2.2.2 == jhDigest h then s
          else restoreFails x r (restoreDiv x 0x11 (sourcePos r.cmd.jsources source) (jhSeq h) s)

/-- The highest step with a valid entry; B_min where there is none. -/
def lastEntry (x : CtxId) (r : RstRun) : Nat := (r.entries.map (·.1)).foldl max (headBmin (winner x r))

/-- Everything has been fetched. -/
def fetched (x : CtxId) (n : SnpCtx) (r : RstRun) : Bool :=
  r.seq.isSome && r.chunks.length == headChunks (winner x r) && r.jGot.length == r.cmd.jsources.length * n.jEntries

/-- The journal must cover every step after B_min (R451 step 5). -/
def coverCheck (x : CtxId) (s : State) : State :=
  let n := s.snp x
  match n.rst with
  | none => s
  | some r =>
    let b := headBmin (winner x r)
    if fetched x n r && !(List.range (lastEntry x r - b)).all (fun i => r.entries.any fun e => e.1 == b + 1 + i) then restoreFails x r s else s

/-! ### Commands -/

/-- Positions of a list that name a module. -/
def namedPos (xs : List Nat) : List Nat := xs.filter fun p => p != 0xFFFF

/-- A restore begins (R450, R455): a snapshot in progress is abandoned first. -/
def startRestore (src : CmdSrc) (x : CtxId) (r : RestoreCmd) (s : State) : State :=
  let run : RstRun := { cmd := { r with sources := namedPos (r.sources.take 4), jsources := namedPos (r.jsources.take 2) }, src := src, heads := [],
                        seq := none, excluded := [], bad := [], chunks := [], jGot := [], entries := [], next := 0 }
  let s := reply src 8 0 0 ((abandonSnapshot x s).onSnp x fun n =>
    { n with phase := 3, state := 3, restored := false, gradeChanged := false, rst := some run })
  if run.cmd.sources.isEmpty then restoreFails x run s else s

/-- RESTORE (R450): BUSY while a strip of the context is active; the image must be accepted and the range table set. -/
def execRestore (src : CmdSrc) (x : CtxId) (r : RestoreCmd) (s : State) : Answer :=
  hlCommand 8 whoS src (fun s =>
    if stripActive s x.val || (s.snp x).rst.isSome then reply src 8 1 0 s
    else if (s.loadOf x).state != 2 || (s.snp x).rtabCnt == 0 then reply src 8 (0x100 + Config.restoreCode) 0 s
    else startRestore src x r s) s

/-- RESTORE_FETCH_COMPLETE (R451, R452): `idx` is a slot while the snapshot is being selected, then a chunk; or a journal slot. -/
def execRestoreFetchComplete (x : CtxId) (isJournal : Bool) (idx source : Nat) (rows : List Row) (s : State) : Answer :=
  match (s.snp x).rst with
  | none => .next s
  | some r =>
    .next (coverCheck x (if isJournal then takeEntry x source idx rows s
      else if r.seq.isNone then takeHead x source idx rows s
      else takeChunk x source idx rows s))

/-- The step-table entries of a die for step `g`, privileged values from a journal header (R453 step 2). -/
def replayDie (d : Die) (x : CtxId) (g : Nat) (h : Row) : List (Nat × BitVec 256 × BitVec 512) :=
  (dieGroups d x).map fun y => (y.1, schedEntry y.2 g (jhPriv h (gdPrivIndex y.2)), y.2)

/-- The global step becomes `g` with its tables (R453 steps 1 and 2). -/
def replayTo (x : CtxId) (g : Nat) (h : Row) (s : State) : State :=
  let s := forAll allDies (fun d s => s.onDie d fun k => turnTables x { k with tabNext := replayDie k x g h ++ k.tabNext }) s
  s.onAdv x fun a => { a with step := BitVec.ofNat 64 g }

/-- REPLAY_STEP (R453): the next journalled step once the strips of the one before it have ended; after the last the module is ready. -/
def execReplayStep (x : CtxId) (s : State) : Answer :=
  let n := s.snp x
  match n.rst with
  | none => .next s
  | some r =>
    whenDue (fetched x n r && !stripActive s x.val) (fun s =>
      match r.entries.find? fun e => e.1 == r.next with
      | some e => (replayTo x r.next e.2.2.2 s).onRst x fun r => { r with next := r.next + 1 }
      | none =>
        let g := lastEntry x r
        let s := s.onAdv x fun a => { a with step := BitVec.ofNat 64 g }
        replyDone r.src 8 0 (hubSetBit (hubBlock (0x70004 + 0x100 * x.val)) 0x10
          (s.onSnp x fun n => { n with rst := none, state := 0, restored := true, again := some (g + 1) }))) s

end Sys2Proof.Machine
end

