-- ==== Sys2Proof/Machine/Power.lean ====
section
/-! DEFINITION. Clock steps, credit pools, limits and supply inputs (16: R460 to R484; 18 R513). -/

namespace Sys2Proof.Machine

open Sys2Proof

/-! ### Credit pools (R472, R473) -/

/-- PWR_CREDIT_MW of a die at its present step. -/
def creditNow (k : Die) : Nat := vget k.creditMw 0 k.stepCur

/-- PWR_BUDGET as it acts: values outside 900..1,650 W act as the nearer end (R472). -/
def budgetOf (p : Pwr) : Nat := clampN 900 1650 p.budget

/-- Budget less overhead, in mW. -/
def powerLeft (p : Pwr) : Int := ((budgetOf p : Int) - p.overhead) * 1000

/-- The basic level's pool of die `d` (R473). -/
def basicPool (s : State) (d : DieId) : Nat :=
  let mw := creditNow (s.die d)
  let n := if mw == 0 then Config.poolOfNone d.val else ((powerLeft s.hub.pwr) / (8 * mw : Int)).toNat
  if powerLeft s.hub.pwr < 0 then 0 else if n ≤ 256 then n else 256

/-- Input power at the expert pools, in mW. -/
def expertPower (s : State) : Nat :=
  s.hub.pwr.overhead * 1000 + (allDies.map fun d => clampN 0 256 (vget s.hub.pwr.expPool 0 d.val) * creditNow (s.die d)).sum

/-- The Headland writes the pools (R473). Lowered pools take effect under R70. -/
def recomputePools (s : State) : State :=
  let p := s.hub.pwr
  if !p.level then
    let low := powerLeft p < 0
    forAll allDies (fun d s => let n := basicPool s d; s.onDie d fun k => { k with pool := n }) (s.onPwr fun p => { p with budgetLow := low })
  else if expertPower s ≤ 1650000 then forAll allDies (fun d s => s.onDie d fun k => { k with pool := clampN 0 256 (vget p.expPool 0 d.val) }) s
  else hubSetBit (hubBlock 0x90010) 4 (s.onPwr fun p => { p with expRefused := true })

/-- DIE_POOL_WRITE (R70, R81): only the Headland's write takes effect; values above 256 act as 256. -/
def poolWrite (w : Writer) (d : DieId) (v : Word) (s : State) : State :=
  let n := bitsOf v.toNat 0 9
  if w == .headland then s.onDie d fun k => { k with pool := n } else s

/-- DIE_POOL_WRITE (R24, R70, R81). -/
def execDiePoolWrite (w : Writer) (d : DieId) (v : Word) (s : State) : Answer := whenDue s.hub.pwr.alwaysOn (poolWrite w d v) s

/-- A write of PWR_BUDGET: values outside 900..1,650 act as the nearer end (R472). -/
def budgetWrite (w : Writer) (v : Word) (s : State) : State :=
  let n := bitsOf v.toNat 0 11
  if byManager w then recomputePools (s.onPwr fun p => { p with budget := n }) else s

/-- PWR_BUDGET_WRITE (R24, R472, R473). -/
def execPwrBudgetWrite (w : Writer) (v : Word) (s : State) : Answer := whenDue s.hub.pwr.alwaysOn (budgetWrite w v) s

/-- A write of PWR_EXP_POOL: at the expert level the values are copied if they fit (R473). -/
def expPoolWrite (w : Writer) (d : DieId) (v : Word) (s : State) : State :=
  if !byManager w then s
  else
    let s := s.onPwr fun p => { p with expPool := vset p.expPool d.val (bitsOf v.toNat 0 9) }
    if s.hub.pwr.level then recomputePools s else s

/-- EXP_POOL_WRITE (R24, R473). -/
def execExpPoolWrite (w : Writer) (d : DieId) (v : Word) (s : State) : Answer := whenDue s.hub.pwr.alwaysOn (expPoolWrite w d v) s

/-- OVERHEAD_UPDATE (R472, R473): the Headland's estimate from its sensors. -/
def execOverheadUpdate (watts : Nat) (s : State) : Answer :=
  whenDue s.hub.pwr.alwaysOn (fun s => recomputePools (s.onPwr fun p => { p with overhead := satAdd 0x7FF 0 watts })) s

/-! ### Steps (R461, R462, R465 to R467) -/

/-- The lowest frequency among steps: the largest number. -/
def slowest (ks : List Nat) : Nat := ks.foldl max 0

/-- The step that a die requests (R465). -/
def requestedStep (s : State) (d : DieId) : Nat := if s.hub.pwr.level then vget s.hub.pwr.expStep 0 d.val else s.hub.pwr.profile

/-- Every accepted image on a die of the set permits step `k` (R281, R467). -/
def stepPermitted (s : State) (ds : List DieId) (k : Nat) : Bool :=
  s.hub.loads.toList.all fun l => !l.inForce || bitOf l.stepMask k || !(l.regions.any fun r => ds.any fun d => r.1 / 16 == d.val)

/-- The fastest step that the requests, the limits and debug mode leave (R467). -/
def stepFloor (s : State) (ds : List DieId) : Nat :=
  slowest (ds.flatMap fun d => [requestedStep s d, (s.die d).thermal, (s.die d).inputLim, if (s.die d).debug then 4 else 0])

/-- The step of a set: of dies newly coupled at different steps, the slowest (R465); else the fastest that R467 allows. -/
def wantedStep (s : State) (ds : List DieId) : Option Nat :=
  let cur := ds.map fun d => (s.die d).stepCur
  if cur.any fun k => k != slowest cur then some (slowest cur)
  else (List.range 8).find? fun k => stepFloor s ds ≤ k && stepPermitted s ds k

/-- The dies that change with die `d`: its set, or all eight while SPREAD is to change (R461). -/
def stepGroup (s : State) (d : DieId) : List DieId := if s.hub.pwr.spread != s.hub.pwr.spreadOn then allDies else stepSet s d

/-- The module is not shutting down. -/
def poweredOn (s : State) : Bool := s.hub.pwr.fail.isNone && s.hub.pwr.trip.isNone && s.hub.pwr.railsUp

/-- The set has to change to `k`: another step, another target in a change under way, or the spread (R461, R466). -/
def stepMove (s : State) (ds : List DieId) (k : Nat) : Bool :=
  s.hub.pwr.spread != s.hub.pwr.spreadOn ||
    ds.any fun d => (s.die d).stepCur != k || ((s.die d).changing && (s.die d).stepTarget != k)

/-- STEP_CHANGE_REQUEST (R461, R465 to R467): the target is written to every die of the set, unless its clocks have stopped. -/
def execStepChangeRequest (d : DieId) (target : Fin 8) (s : State) : Answer :=
  let ds := stepSet s d
  let g := stepGroup s d
  whenDue (poweredOn s && wantedStep s ds == some target.val && stepMove s ds target.val &&
      g.all (fun e => (s.die e).stopped.isNone) && g.any fun e => !(s.die e).changing || (ds.contains e && (s.die e).stepTarget != target.val))
    (forAll g fun e s => s.onDie e fun k =>
      { k with stepTarget := if ds.contains e then target.val else if k.changing then k.stepTarget else k.stepCur, changing := true }) s

/-- No core of the dies has a strip running or is inside the 8 launch cycles of R33. -/
def setQuiet (s : State) (ds : List DieId) : Bool :=
  ds.all fun d => (coresOf d).all fun c => (s.sc c).strip.isNone && !(s.sc c).launch.any fun l => l.since.isSome

/-- CLOCK_STOP (R466 step 3). -/
def execClockStop (d : DieId) (refEdge : Nat) (s : State) : Answer :=
  let g := stepGroup s d
  whenDue (poweredOn s && g.all (fun e => (s.die e).changing && (s.die e).stopped.isNone) && setQuiet s g)
    (forAll g fun e s => s.onDie e fun k => { k with stopped := some refEdge }) s

/-- A core of a die whose step changes: a wake keeps its reference cycles, of which 64 passed in the stop (R469). -/
def rewake (old new : Nat) (k : Core) : Core :=
  if k.gate == .waking then { k with gatedAt := k.sc.wall + ((k.gatedAt - k.sc.wall) / old - 64) * new } else k

/-- The clocks of die `d` run again at the new step; STEPS counts a change of the step itself (log entry 130). -/
def restartDie (d : DieId) (s : State) : State :=
  let old := stepK s d
  let s := s.onDie d fun k =>
    { k with stepCur := k.stepTarget, changing := false, stopped := none, lastWake := none,
             steps := if k.stepCur == k.stepTarget then k.steps else satAdd 0xFFFF k.steps 1 }
  forAll (coresOf d) (fun c s => s.onCore c (rewake old (stepK s d))) s

/-- CLOCK_RESTART (R461, R466 step 4): 64 reference cycles after the stop; pools are recomputed and launches may become ready again. -/
def execClockRestart (d : DieId) (refEdge : Nat) (s : State) : Answer :=
  match (s.die d).stopped with
  | none => .next s
  | some e =>
    let g := allDies.filter fun k => (s.die k).stopped == some e
    whenDue (poweredOn s && refEdge == e + 64) (fun s =>
      let s := forAll g restartDie s
      let s := if g.length == 8 then s.onPwr fun p => { p with spreadOn := p.spread } else s
      forAll g (fun k s => forAll (coresOf k) launchStep s) (recomputePools s)) s

/-! ### Input power and temperature (R474 to R476) -/

/-- INPUT_POWER_CHECK (R474): the 10 ms average. -/
def execInputPowerCheck (ns : Nat) (watts : Nat) (s : State) : Answer :=
  let s := s.atNs ns
  let now := s.hub.ns
  let s := s.onPwr fun p => { p with input := satAdd 0x7FF 0 watts }
  let p := s.hub.pwr
  if 1650 < watts then
    .next (forAll allDies (fun d s => s.onDie d fun k => { k with inputLim := satAdd 7 k.inputLim 1 })
      (hubSetBit (hubBlock 0x90010) 2 (s.onPwr fun p => { p with overLimit := true, lowSince := none })))
  else if budgetOf p < watts then .next (s.onPwr fun p => { p with lowSince := none })
  else if p.lowSince.any fun a => a + 1000000000 ≤ now then
    .next (forAll allDies (fun d s => s.onDie d fun k => { k with inputLim := k.inputLim - 1 })
      (s.onPwr fun p => { p with lowSince := some now }))
  else .next (s.onPwr fun p => { p with lowSince := some (p.lowSince.getD now) })

/-- HYST, 0 acting as 1 (R484). -/
def hystOf (p : Pwr) : Nat := if p.hyst == 0 then 1 else p.hyst
/-- CRIT, within 100..115 (R484). -/
def critOf (p : Pwr) : Nat := if p.crit < 100 then 100 else if 115 < p.crit then 115 else p.crit

/-- A core loses its clocks and power, and its strip is abandoned (R478). -/
def abandonCore (c : CoreId) (s : State) : State :=
  let s := dropOrdered c (dropRequests c (s.onE c dropEngines))
  powerGate c (s.onSc c fun sc =>
    { sc with run := .idle, cause := .none, which := 0, strip := none, launch := none, stall := none, flights := [], staging := none,
              ended := none, stopping := false })

/-- The first rows of the shutdown (R476, R478, R479): clocks stop, cores are power-gated, neighbours are told, and what was under way in
the store is abandoned. -/
def shutDown (s : State) : State :=
  let edge := s.hub.ns / 2
  let s := forAll allDies (fun d s => s.onDie d fun k => { k with stopped := some edge, wakeQ := [] }) s
  let s := forAll allCores abandonCore s
  let s := forAll (upPorts s) (fun p s => putMgmt p (mgmtFlit 5 []) s) s
  forAll (List.finRange 8) (fun x s => (abandonSnapshot x s).onSnp x fun n => { n with jBusy := none, jHeld := none }) s

/-- A die has reached CRIT (R476). -/
def thermalTrip (s : State) : State :=
  let now := s.hub.ns
  attention 2 (shutDown (s.onPwr fun p => { p with trip := some now }))

/-- SENSOR_SAMPLE (R475, R476): four readings of each compute die, then one of each gate die and the hub, in 0.125 °C. -/
def execSensorSample (readings : List Int) (s : State) : Answer :=
  let at_ := fun (i : Nat) => readings.getD i 0
  let now := s.hub.ns
  let cool := (((s.hub.pwr.throttle : Int) - hystOf s.hub.pwr) * 8 : Int)
  let s := forAll allDies (fun d s =>
    let t := ((List.range 4).map fun i => at_ (4 * d.val + i)).foldl max (at_ (4 * d.val))
    s.onDie d fun k => { k with tj := t, tjMax := max k.tjMax t, coolSince := if t < cool then some (k.coolSince.getD now) else none }) s
  let s := s.onPwr fun p => { p with otherTj := Vector.ofFn fun i => at_ (32 + i.val) }
  .next (if (critOf s.hub.pwr * 8 : Int) ≤ hottest s && poweredOn s then thermalTrip s else s)

/-- The thermal limit of a die's set moves (R475). -/
def thermalMove (s : State) (d : DieId) (now : Nat) (k : Die) : Die :=
  let ds := stepSet s d
  let limit := slowest (ds.map fun e => (s.die e).thermal)
  if ds.any fun e => (s.hub.pwr.throttle * 8 : Int) ≤ (s.die e).tj then { k with thermal := satAdd 7 limit 1 }
  else if ds.all fun e => (s.die e).coolSince.any fun a => a + 100000000 ≤ now then
    { k with thermal := limit - 1, coolSince := some now }
  else { k with thermal := limit }

/-- THERMAL_CHECK (R475). -/
def execThermalCheck (ns : Nat) (s : State) : Answer :=
  let s := s.atNs ns
  let now := s.hub.ns
  let hot := allDies.any fun d => (s.hub.pwr.throttle * 8 : Int) ≤ (s.die d).tj
  let t := forAll allDies (fun d t => t.onDie d (thermalMove s d now)) s
  .next (if hot then attention 2 t else t)

/-- PWR_TJ_CLEAR (R483). -/
def tjClear (d : DieId) (s : State) : State := s.onDie d fun k => { k with tjMax := k.tj }

/-- PWR_TJ_CLEAR (R483). -/
def execPwrTjClear (d : DieId) (s : State) : Answer := .next (tjClear d s)

/-- POWER_GATE_COMMAND (R468, R471): at once, or once no late item bound for a hopper is outstanding. -/
def execPowerGateCommand (c : CoreId) (t : Nat) (s : State) : Answer :=
  atCore c t (fun s => (s.core c).gate == .clockGated)
    (fun s => if hopperLate s c then s.onCore c fun k => { k with gateCmd := true } else powerGate c s) s

/-! ### Supply inputs (R477, R513) -/

/-- The input is in range. -/
def inputOk (p : Pwr) (backup : Bool) : Bool := if backup then p.backupOk else p.mainOk
/-- Since when it has been in range. -/
def inputSince (p : Pwr) (backup : Bool) : Option Nat := if backup then p.backupSince else p.mainSince

/-- VIN takes the voltage of the input in use: 40 to 60 V in range, below 44 V in a droop event; the value is free (R477, R484; log entry
130). -/
def readVin (droop : Bool) (s : State) : State :=
  let p := s.hub.pwr
  let v := Config.inputVolts s.free
  let v := if droop then v % 440 else if inputOk p p.onBackup then clampN 400 600 v else v % 400
  (s.onPwr fun p => { p with vin := v }).fresh

/-- The module switches to an input: counted, with attention (R477). -/
def switchTo (backup : Bool) (s : State) : State :=
  attention 1 (readVin false (s.onPwr fun p => { p with onBackup := backup, switches := satAdd 0xFFFF p.switches 1 }))

/-- The input in use is out of range while the other is in range: the module switches (R477). -/
def switchOver (s : State) : State :=
  let p := s.hub.pwr
  if !inputOk p p.onBackup && inputOk p (!p.onBackup) then switchTo (!p.onBackup) s else readVin false s

/-- An input leaves its range. -/
def inputOut (backup : Bool) (s : State) : State :=
  let now := s.hub.ns
  switchOver (s.onPwr fun p =>
    let p := if backup then { p with backupOk := false, backupSince := none } else { p with mainOk := false, mainSince := none }
    { p with outSince := if p.mainOk || p.backupOk then none else some (p.outSince.getD now) })

/-- SUPPLY_OUT_OF_RANGE (R477). -/
def execSupplyOutOfRange (backup : Bool) (ns : Nat) (s : State) : Answer := .next (inputOut backup (s.atNs ns))

/-- SUPPLY_IN_RANGE (R477, R513): not while S1 is open. -/
def execSupplyInRange (backup : Bool) (ns : Nat) (s : State) : Answer :=
  let s := s.atNs ns
  let now := s.hub.ns
  whenDue (!s.hub.pwr.mateOpen) (fun s => switchOver (s.onPwr fun p =>
    let p := if backup then { p with backupOk := true, backupSince := some (p.backupSince.getD now) }
      else { p with mainOk := true, mainSince := some (p.mainSince.getD now) }
    { p with outSince := none })) s

/-- SUPPLY_RETURN (R477): the preferred input has stayed in range for RETURN_MS, 0 acting as 1. -/
def execSupplyReturn (ns : Nat) (s : State) : Answer :=
  let s := s.atNs ns
  let now := s.hub.ns
  let p := s.hub.pwr
  whenDue (p.onBackup != p.prefer && inputOk p p.prefer &&
      (inputSince p p.prefer).any fun a => a + (if p.returnMs == 0 then 1 else p.returnMs) * 1000000 ≤ now) (switchTo p.prefer) s

/-- DROOP_EVENT (R448, R477). -/
def execDroopEvent (ns : Nat) (s : State) : Answer :=
  .next (readVin true ((s.atNs ns).onHub fun h =>
    { h with pwr := { h.pwr with droops := satAdd 0xFFFF h.pwr.droops 1 }, riskIn := (h.riskIn.1, h.riskIn.2.1, h.riskIn.2.2 + 1) }))

/-- Both inputs leave range at once. -/
def unmate (s : State) : State :=
  let now := s.hub.ns
  readVin false (s.onPwr fun p =>
    { p with mateOpen := true, mainOk := false, mainSince := none, backupOk := false, backupSince := none, outSince := some (p.outSince.getD now) })

/-- MATE_SENSE_CHANGE (R513): while S1 is open neither input is in range. -/
def execMateSenseChange (isOpen : Bool) (ns : Nat) (s : State) : Answer :=
  let s := s.atNs ns
  .next (if isOpen then unmate s else s.onPwr fun p => { p with mateOpen := false })

end Sys2Proof.Machine
end

