-- ==== Sys2Proof/Machine/Flags.lean ====
section
/-! DEFINITION. Status words that registers and reports compose from the state's flags, counts and modes. -/

namespace Sys2Proof.Machine

open Sys2Proof

/-- A field of a register word. -/
def at_ (lo v len : Nat) : Nat := v % 2 ^ len * 2 ^ lo
/-- A flag of a register word. -/
def flag (i : Nat) (b : Bool) : Nat := b2n b * 2 ^ i

/-- State codes of R408. -/
def WSlot.code : WSlot → Nat
  | .empty => 0 | .loading => 1 | .verified => 2 | .active => 3 | .draining => 4 | .failed => 5

/-- WGT_CTX_STATUS (R429). -/
def wgtCtxStatus (w : WgtCtx) : Nat :=
  w.active.val + at_ 1 (slotW w 0).state.code 3 + at_ 4 (slotW w 1).state.code 3 + flag 7 w.quarantine

end Sys2Proof.Machine
end

