-- ==== Sys2Proof/Machine/Boot.lean ====
section
/-! DEFINITION. Cold start, power failure, boot, firmware, calibration and attestation (16 R477 to R480; 17 R497 to R504; 18 R515). -/

namespace Sys2Proof.Machine

open Sys2Proof

/-! ### Cold reset and power failure (R477 to R480, R495) -/

/-- The supply state that a cold reset finds (R477). -/
def coldPwr (s : State) : Pwr :=
  let p := s.hub.pwr
  { Pwr.reset with mainOk := p.mainOk, backupOk := p.backupOk, mainSince := p.mainSince, backupSince := p.backupSince,
                   mateOpen := p.mateOpen, onBackup := !p.mainOk && p.backupOk, extMissing := p.refsel && s.hub.tb.refLost }

/-- A cold reset (R495): everything at its reset value but the snapshot store, the firmware, the calibration set and the fuses. -/
def coldReset (s : State) : State :=
  { State.reset with
    pending := s.pending
    free := s.free
    hub := { Hub.reset with ns := s.hub.ns, store := s.hub.store, spares := s.hub.spares, firmware := s.hub.firmware, cal := s.hub.cal,
                            fuses := s.hub.fuses, pwr := coldPwr s } }

/-- An input has been in range for `d` ns. -/
def inRangeFor (s : State) (d : Nat) : Bool :=
  s.hub.pwr.mainSince.any (fun a => a + d ≤ s.hub.ns) || s.hub.pwr.backupSince.any (fun a => a + d ≤ s.hub.ns)

/-- COLD_START (R477): the always-on domain starts after 10 ms of an input in range. -/
def execColdStart (ns : Nat) (s : State) : Answer :=
  let s := s.atNs ns
  whenDue (!s.hub.pwr.alwaysOn && inRangeFor s 10000000) coldReset s

/-- POWER_FAIL (R478): both inputs out of range for 2 µs. -/
def execPowerFail (ns : Nat) (s : State) : Answer :=
  let s := s.atNs ns
  let now := s.hub.ns
  whenDue (s.hub.pwr.alwaysOn && s.hub.pwr.fail.isNone && s.hub.pwr.outSince.any fun a => a + 2000 ≤ now)
    (fun s => shutDown (s.onPwr fun p => { p with fail := some now })) s

/-- The rails of compute dies, gate dies and GDDR7 go off: their contents are lost, and every port is down. -/
def railsOff (s : State) : State :=
  let s := forAll allPorts (fun p s => s.setPort p Port.reset) s
  { s with mem := [], net := [] }.onPwr fun p => { p with railsUp := false }

/-- The hub loses its rails: the Malob link goes down, and what waited for it is lost (R478, R488). -/
def hubOff (on : Bool) (s : State) : State :=
  (s.onPwr fun p => { p with hubUp := false, alwaysOn := on, fail := if on then p.fail else none }).onHl fun l =>
    { l with malob := .down, toHost := [], responses := [], returns := [], inQ := [] }

/-- SHUTDOWN_RAILS_OFF (R476, R478): 4 ms after t0. After a power failure the hub follows, and with no input in range the always-on
domain. -/
def execShutdownRailsOff (ns : Nat) (s : State) : Answer :=
  let s := s.atNs ns
  let p := s.hub.pwr
  let late := fun (t : Option Nat) => t.any fun a => a + 4000000 ≤ s.hub.ns
  whenDue (p.railsUp && (late p.fail || late p.trip)) (fun s =>
    let s := railsOff s
    if p.fail.isNone then s else hubOff (p.mainOk || p.backupOk) s) s

/-- POWER_FAIL_RESTART (R480): a cold reset once an input has stayed in range for 100 ms. -/
def execPowerFailRestart (ns : Nat) (s : State) : Answer :=
  let s := s.atNs ns
  whenDue (s.hub.pwr.fail.isSome && !s.hub.pwr.railsUp && inRangeFor s 100000000) coldReset s

/-- STRAP_SAMPLE (R381, R446, R506, R515): once after a cold reset. -/
def execStrapSample (pos : BitVec 16) (main bkp : BitVec 8) (master : Bool) (s : State) : Answer :=
  whenDue (!s.hub.hl.strapped) (fun s =>
    ((s.onHub fun h => { h with position := pos.toNat, feedMain := main.toNat, feedBkp := bkp.toNat }).onHl fun l =>
      { l with strapped := true, strapPos := pos.toNat }).onTb fun t => { t with master := master }) s

/-! ### Firmware (R497 to R499) -/

def fwSvn (rows : List Row) : Nat := (rows.headD 0).field 4 2
/-- Image rows: they follow the header, the key row, the RSA row and the 32 SLH-DSA rows. -/
def fwImage (rows : List Row) : List Row := (rows.drop 35).take ((rows.headD 0).field 8 4)
def fwDigestOf (rows : List Row) : List Byte := sha384 (rowBytes (fwImage rows))

/-- A copy is valid (R497). -/
def fwValid (s : State) (copy : List Row × Bool) : Bool :=
  let rows := copy.1
  let key := rows.getD 1 0
  digestNat (sha384 (keyRsaBytes key)) == s.hub.fuses.anchorRsa.toNat && digestNat (sha384 (keySlhBytes key)) == s.hub.fuses.anchorSlh.toNat &&
    signaturesOk key (rows.getD 2 0) ((rows.drop 3).take 32) (fwDigestOf rows) && s.hub.fuses.rollback ≤ fwSvn rows && copy.2

/-- The two copies in the order in which boot tries them: the higher valid SVN first, copy A when they are equal. -/
def bootOrder (s : State) : List Nat :=
  let svn := fun (i : Nat) => let n := fwSvn (vget s.hub.firmware ([], false) i).1; if n ≤ 128 then n else 0
  if svn 0 < svn 1 then [1, 0] else [0, 1]

/-- The copy that boots. -/
def bootCopy (s : State) : Option Nat := (bootOrder s).find? fun i => fwValid s (vget s.hub.firmware ([], false) i)

/-! ### Calibration (R473, R502 to R504) -/

/-- The set is committed and well formed. -/
def calGood (s : State) : Bool := s.hub.cal.2 && Config.calWellFormed s.hub.cal.1

/-- The set in the store comes into use, an imported one with no part self-calibrated (R503; log entry 131), and PWR_CREDIT_MW of every die
is loaded from it (R473). -/
def useCalibration (s : State) : State :=
  let rows := s.hub.cal.1
  let new := s.hub.calNew
  let s := forAll allDies (fun d s => s.onDie d fun k =>
    { k with creditMw := Vector.ofFn fun i => Config.calCreditMw rows d.val i.val % 2 ^ 16 }) s
  (s.onHub fun h => { h with calUsed := rows, calNew := false }).onHl fun l =>
    { l with calValid := true, calSelf := if new then 0 else l.calSelf, calMissing := if new then false else l.calMissing }

/-- The parts in `mask` are rebuilt from measurement and the result is committed as the set, in use at once (R504). -/
def selfCalibrate (mask : Nat) (s : State) : State :=
  let n := s.free
  let rows := Config.freeCalibration n mask s.hub.cal.1
  ((s.onHub fun h => { h with cal := (rows, true), calUsed := rows, calNew := false }).onHl fun l =>
    { l with calValid := true, calSelf := l.calSelf ||| BitVec.ofNat 6 mask }).fresh

/-- The set at boot: used, or rebuilt with CAL_MISSING set (R504). -/
def bootCalibration (s : State) : State :=
  useCalibration (if calGood s then s else attention 7 ((selfCalibrate 0x3F s).onHl fun l => { l with calMissing := true }))

/-- Deep memory trains (R129, R495): which devices fail is a free value (log entry 131). -/
def trainDeep (s : State) : State :=
  let n := s.free
  (forAll allDies (fun d s => s.onDie d fun k => { k with dmStatus := Config.dmFailed n d.val ++ ~~~(Config.dmFailed n d.val) }) s).fresh

/-- BOOT (R381, R497, R504, R506 phases 1 and 2): the Malob link and the ports train; a master without external reference locks. -/
def execBoot (ns : Nat) (s : State) : Answer :=
  let s := s.atNs ns
  whenDue (!s.hub.hl.bootDone && poweredOn s && s.hub.pwr.alwaysOn) (fun s =>
    match bootCopy s with
    | none => attention 6 (s.onHl fun l => { l with bootDone := true, recovery := true, malob := .up })
    | some i =>
      let rows := (vget s.hub.firmware ([], false) i).1
      let s := bootCalibration (s.onHl fun l =>
        { l with bootDone := true, bootAt := s.hub.ns, copy := i == 1, recovery := false, phase := 1, malob := .up, svn := fwSvn rows,
                 fwDigest := BitVec.ofNat 384 (digestNat (fwDigestOf rows)) })
      let s := s.onTb fun t => { t with locked := t.locked || (t.master && !t.extRef) }
      attention 6 (trainDeep (forAll allPorts (fun p s => portTo p .training s) s))) s

/-- FW_UPDATE (R498): the copy that was not booted is written, verified, and its page committed last. -/
def execFwUpdate (src : CmdSrc) (addr rows : Nat) (s : State) : Answer :=
  hlCommand 0x0E whoS src (fun s =>
    let rs := readRows s addr rows
    let i := if s.hub.hl.copy then 0 else 1
    let ok := fwValid s (rs, true)
    let s := reply src 0x0E 0 0 s
    let s := s.onHub fun h => { h with firmware := vset h.firmware i (rs, ok) }
    replyDone src 0x0E (if ok then 0 else 3) s) s

/-- ROLLBACK_COMMIT (R499): there are 128 fuses; refused with code 1 in recovery. -/
def execRollbackCommit (src : CmdSrc) (s : State) : Answer :=
  hlCommand 0x0F whoS src (fun s =>
    if s.hub.hl.recovery then reply src 0x0F 0x101 0 s
    else reply src 0x0F 0 0 (s.onHub fun h => { h with fuses := { h.fuses with rollback := clampN 0 128 (max h.fuses.rollback h.hl.svn) } })) s

/-- CAL_EXPORT (R503): the set, then a row with its SHA-384. -/
def execCalExport (src : CmdSrc) (addr : Nat) (s : State) : Answer :=
  hlCommand 0x0B whoHS src (fun s =>
    let rs := s.hub.cal.1
    reply src 0x0B 0 0 (writeRows s addr (rs ++ [Row.ofBytes (sha384 (rowBytes rs))]))) s

/-- CAL_IMPORT (R503): `rows` rows of the set, with the digest row behind them; taken when format and digest agree, and used from the next
module reset. -/
def execCalImport (src : CmdSrc) (addr rows : Nat) (s : State) : Answer :=
  hlCommand 0x0C whoS src (fun s =>
    let rs := readRows s addr rows
    let d := readRow s (rowBase addr + 512 * rows)
    if Config.calWellFormed rs && digestNat (sha384 (rowBytes rs)) == d.field 0 48 then
      attention 7 (reply src 0x0C 0 0 (s.onHub fun h => { h with cal := (rs, true), calNew := true }))
    else reply src 0x0C 3 0 s) s

/-- CAL_SELF (R504). -/
def execCalSelf (src : CmdSrc) (mask : BitVec 6) (s : State) : Answer :=
  hlCommand 0x0D whoS src (fun s => attention 7 (replyDone src 0x0D 0 (selfCalibrate mask.toNat (reply src 0x0D 0 0 s)))) s

/-! ### Attestation (R500, R501) -/

/-- The 128 bytes of a context's entry. -/
def attestCtx (s : State) (x : Nat) : Nat :=
  let w := vget s.hub.wgt WgtCtx.reset x
  let progs := (ctxCores s x).flatMap fun c => leBytes 32 (s.cc c).progDigest.toNat
  (vget s.hub.loads LoadCtx.reset x).digest.toNat + digestNat (sha256 progs) * 2 ^ 256 + (slotW w w.active.val).digest.toNat * 2 ^ 512 +
    wgtCtxStatus w % 256 * 2 ^ 896

/-- Bytes 0x000 to 0x57F of the report. -/
def attestBody (s : State) (nonce : BitVec 256) : Nat :=
  let l := s.hub.hl
  let f := s.hub.fuses
  let debug := (allDies.map fun d => b2n (s.die d).debug * 2 ^ d.val).sum
  0x41545354 + 2 ^ 32 + f.grade % 256 * 2 ^ 48 + b2n f.variant * 2 ^ 56 + packNat 8 f.map.toList * 2 ^ 64 + s.hub.position % 2 ^ 16 * 2 ^ 128 +
    l.svn % 2 ^ 16 * 2 ^ 144 + f.rollback % 2 ^ 32 * 2 ^ 160 + tbNow s * 2 ^ 192 + nonce.toNat * 2 ^ 256 + l.fwDigest.toNat * 2 ^ 512 +
    digestNat (sha384 (rowBytes s.hub.cal.1)) * 2 ^ 896 + Config.keyRsaHash % 2 ^ 384 * 2 ^ 1280 + Config.keySlhHash % 2 ^ 384 * 2 ^ 1664 +
    f.anchorRsa.toNat * 2 ^ 2048 + f.anchorSlh.toNat * 2 ^ 2432 +
    (debug + flag 8 l.recovery + flag 9 (l.calSelf != 0) + flag 10 l.calMissing) * 2 ^ 2816 +
    packNat 1024 ((List.range 8).map (attestCtx s)) * 2 ^ 3072

/-- The report's rows: three of body, the RSA row and 32 SLH-DSA rows, and the certificate after them. -/
def attestRows (s : State) (nonce : BitVec 256) : List Row :=
  let n := attestBody s nonce
  let m := sha384 (leBytes 0x580 n)
  ((List.range 3).map fun i => BitVec.ofNat 4096 (n / 2 ^ (4096 * i))) ++ [Row.ofBytes (beBytes 384 (Config.rsaSign m))] ++ sigRows m ++
    Config.certificate

/-- ATTEST (R500, R501). -/
def execAttest (src : CmdSrc) (nonce : BitVec 256) (addr : Nat) (s : State) : Answer :=
  hlCommand 0x0A whoHS src (fun s => reply src 0x0A 0 0 (writeRows s addr (attestRows s nonce))) s

end Sys2Proof.Machine
end

