-- ==== Sys2Proof/Machine/Reset.lean ====
section
/-! DEFINITION. Context configurations (R45, R80, R168, R493) and the resets: of a context, of cores, of the module (R330, R352, R491,
R495, R496, R524). -/

namespace Sys2Proof.Machine

open Sys2Proof

/-! ### Context configurations (R45, R80) -/

/-- The twelve physical stakes of slot `k`. -/
def slotStakes (sc : Sched) (k : Nat) : List Nat := (List.range 12).map fun i => (vget sc.stkMap 0 (12 * k + i)).toNat

/-- The stakes of every valid slot: distinct, physical, and shared by no two slots (R45). -/
def mapsOk (sc : Sched) (cfg : Word) : Bool :=
  let xs := ((List.range 4).filter fun k => cfg.getLsbD (4 + k)).flatMap (slotStakes sc)
  xs.all (· < 48) && xs.eraseDups.length == xs.length

/-- CORE_CTX_CFG is written by the Headland (R80): its fields lock when COMMIT is written, and a commit in shared mode needs R45's maps. -/
def ctxCfgWrite (c : CoreId) (v : Word) (s : State) : State :=
  s.onSc c fun sc =>
    if sc.commit then sc
    else
      let cfg := v &&& 0x00FFFFF1#32
      { sc with ctxCfg := cfg, commit := v.getLsbD 31 && (!cfg.getLsbD 0 || mapsOk sc cfg) }

/-- CTX_CFG_COMMIT (R45, R80). -/
def execCtxCfgCommit (c : CoreId) (v : Word) (s : State) : Answer := .next (ctxCfgWrite c v s)

/-- CORE_CTX_CFG with slot `k` valid and holding context `x` in the given modes. -/
def cfgWithSlot (old : Word) (k x : Nat) (shared rt : Bool) : Word :=
  let n := setBits (setBits old.toNat 0 1 (b2n shared)) (4 + k) 1 1
  BitVec.ofNat 32 (setBits (setBits n (8 + 3 * k) 3 x) (20 + k) 1 (b2n rt))

/-- One core's slot takes a context's configuration (R45, R80, R168). -/
def configCore (x : CtxId) (slot : Fin 4) (shared rt : Bool) (seed : BitVec 64) (map : List (BitVec 8)) (c : CoreId) (s : State) : State :=
  (s.onSc c fun sc =>
    { sc with ctxCfg := cfgWithSlot sc.ctxCfg slot.val x.val shared rt,
              stkMap := (List.range 12).foldl (fun m i => vset m (12 * slot.val + i) (BitVec.ofNat 6 (map.getD i 0).toNat)) sc.stkMap }).onE c
    fun e => { e with seeds := vset e.seeds slot.val seed }

/-- The cores that a command's mask names; fused-off positions are passed over. -/
def maskCores (s : State) (mask : BitVec 128) : List CoreId := allCores.filter fun c => mask.getLsbD c.val && !fusedOff s c

/-- CONTEXT_CFG (R45, R80, R168, R493). The registers of a committed core are locked. -/
def execContextCfg (src : CmdSrc) (x : CtxId) (mask : BitVec 128) (slot : Fin 4) (shared rt : Bool) (seed : BitVec 64)
    (map : List (BitVec 8)) (s : State) : Answer :=
  hlCommand 3 whoHS src (fun s =>
    let cs := maskCores s mask
    if cs.isEmpty || map.length != 12 || map.any (fun k => 48 ≤ k.toNat) then reply src 3 3 0 s
    else if cs.any fun c => (s.sc c).commit then reply src 3 1 0 s
    else reply src 3 0 0 (forAll cs (configCore x slot shared rt seed map) s)) s

/-! ### Rings in a reset (R352) -/

/-- Steps 1 to 3 of R352 for ring `r`: what is reserved and not wholly landed is bounced, then what waits. -/
def resetRing (c : CoreId) (r : Nat) (s : State) : State :=
  let g := s.ring c r
  let s := if g.state == .opened then s.onRing c r fun g => { g with state := .resetting } else s
  let half := (g.msgs.filter fun m => !m.filler && !m.void && !m.whole).map (·.hdr)
  let s := forAll half (fun h s => rxBounce c (msgPlane h) 7 h s) s
  let s := bounceWaiting c r 7 s
  let s := s.onM c fun m => { m with land := m.land.filter fun x => match x.owner with
    | .msg q _ _ _ => q.val != r
    | .late _ | .write _ _ _ _ => true }
  let s := s.onRing c r fun g =>
    { g with msgs := [], landed := [], wptr := 0, resv := 0, rptr := 0, spillResv := 0, spillRptr := 0 }
  s.onCc c fun k => { k with dptr := vset k.dptr r 0 }

/-- Step 4 of R352: a ring that was open reopens with the next EPOCH. -/
def reopenRing (g : Ring) : Ring := if g.state == .resetting then openRing none g else g

/-- The rings of core `c` whose SLOT holds context `x`. -/
def ringsOf (s : State) (c : CoreId) (x : Nat) : List Nat :=
  (List.range 16).filter fun r => let k := (s.ring c r).slot.val; slotValid s c k && slotCtx s c k == x

/-! ### Merging (R496) -/

/-- A reset in progress is at least as wide as a context reset of `x` or a core reset of `mask`. -/
def mergesContext (s : State) (x : CtxId) : Bool := s.hub.hl.resets.any fun r => r.kind == 3 || (r.kind == 1 && r.x == x)
def mergesCores (s : State) (mask : BitVec 128) : Bool :=
  s.hub.hl.resets.any fun r => r.kind == 3 || (r.kind == 2 && mask &&& ~~~r.mask == 0)

/-- A reset is in progress; kind 0 is one that merged into another. A context reset holds the rings whose SLOT has the context as it begins
(R352). -/
def addReset (kind : Nat) (mask : BitVec 128) (x : CtxId) (src : Option CmdSrc) (s : State) : State :=
  let rings := if kind == 1 then (ctxCores s x.val).flatMap fun c => (ringsOf s c x.val).map fun r => (c, r) else []
  s.onHl fun l => { l with resets := l.resets ++ [⟨kind, mask, x, src, rings⟩] }

/-! ### Context reset -/

/-- What a context reset does at once (R80, R303, R352, R427, R455). -/
def contextResetOp (x : CtxId) (s : State) : State :=
  let s := forAll (ctxCores s x.val) (fun c s => forAll (ringsOf s c x.val) (resetRing c) (s.onSc c fun sc => { sc with commit := false })) s
  let s := (releaseImage x.val s).onLoad x fun l =>
    { l with state := if l.state == 2 then 0 else l.state, regions := [], stepMask := 0xFF, coupled := [], mode := 0, quahamId := 0 }
  let s := wgtContextReset x s
  s.onHub fun h => { h with snp := vset h.snp x.val (let n := h.snp.get x; { n with window := none }) }

/-- CONTEXT_RESET (R493, R495, R496). -/
def execContextReset (src : CmdSrc) (x : CtxId) (s : State) : Answer :=
  hlCommand 9 whoHS src (fun s =>
    if mergesContext s x then addReset 0 0 x (some src) s else contextResetOp x (addReset 1 0 x (some src) s)) s

/-! ### Core reset -/

/-- A ring keeps its configuration, EPOCH and state over a core reset (R352). -/
def keepRing (g : Ring) : Ring :=
  { Ring.reset with base := g.base, size := g.size, raw := g.raw, slot := g.slot, spillBase := g.spillBase, spillSize := g.spillSize, stk := g.stk,
                    stkEn := g.stkEn, state := g.state, epoch := g.epoch }

/-- The core at its reset values, with what R352, R406, R495 and R524 keep. The wall count goes on; the core's own cycles are counted from
the reset (R87, R309). -/
def coreAfterReset (k : Core) : Core :=
  { Core.reset with
    sc := { Sched.reset with wall := k.sc.wall, origin := k.sc.wall }
    e := { Eng.reset with foldEpoch := (k.e.foldEpoch + 1) % 256 }
    cc := { Cc.reset with imem := k.cc.imem, dmem := k.cc.dmem, progOk := k.cc.progOk, progDigest := k.cc.progDigest, img := k.cc.img,
                          rings := k.cc.rings.map keepRing, resetting := true, readyAt := k.sc.wall } }

/-- What a core reset does at once (R25, R330, R352, R468, R495). The core's place at its die and its allocator's extents go. -/
def coreResetOp (c : CoreId) (s : State) : State :=
  let s := forAll (List.range 16) (resetRing c) s
  let s := forAll (List.range 64) (freeHandle c) (dropRequests c s)
  let s := s.onDie (dieOf c) fun d =>
    { d with wakeQ := d.wakeQ.filter fun x => x != c, allocQ := d.allocQ.filter fun x => x.core != c }
  s.onCore c coreAfterReset

/-- CORE_RESET (R493, R495, R496). -/
def execCoreReset (src : CmdSrc) (mask : BitVec 128) (s : State) : Answer :=
  hlCommand 9 whoHS src (fun s =>
    let cs := maskCores s mask
    if cs.isEmpty then reply src 9 3 0 s
    else if mergesCores s mask then addReset 0 0 0 (some src) s
    else forAll cs coreResetOp (addReset 2 mask 0 (some src) s)) s

/-! ### Module reset -/

/-- The commands in progress are answered with status 1 (R495). -/
def abortCommands (s : State) : State :=
  let l := s.hub.hl
  let s := forAll l.progs (fun p s => replyDone p.1 2 1 s) s
  let s := forAll (List.finRange 8) (fun x s =>
    let s := match (s.loadOf x).busy with
      | some b => reply b.2 1 1 0 s
      | none => s
    let s := match (s.advOf x).pending with
      | some b => reply b.2 4 1 0 s
      | none => s
    let s := forAll [0, 1] (fun k s => match (slotW (s.wgt x) k).src with
      | some b => replyDone b (if (slotW (s.wgt x) k).inPlace then 0x11 else 5) 1 s
      | none => s) s
    let s := match (s.snp x).rst with
      | some r => replyDone r.src 8 1 s
      | none => s
    let s := match (s.snp x).jBusy with
      | some b => replyInline b.2.2.1 0x10000 s
      | none => s
    match (s.snp x).jHeld with
    | some b => replyInline b.2.2 0x10000 s
    | none => s) s
  forAll l.resets (fun r s => match r.src with
    | some b => reply b 9 1 0 s
    | none => s) s

/-- The registers of a supply that a module reset keeps; THERMAL_TRIP is cleared, and the chosen reference is taken (R461, R476). -/
def modulePwr (s : State) : Pwr :=
  let p := s.hub.pwr
  { p with trip := none, railsUp := true, extMissing := p.refsel && s.hub.tb.refLost, spreadOn := p.spread, overLimit := false,
           lowSince := none, expStep := Vector.replicate 8 0, expPool := Vector.replicate 8 0 }

/-- A port retrains, unless it is disabled (R366, R369, R495). -/
def retrainPort (k : Port) : Port := { Port.reset with enable := k.enable, manualEq := k.manualEq, eq := k.eq, state := if k.enable then .training else .down }

/-- The module right after the reset begins: dies, cores, memories, images, weights, journals and snapshots at their reset values; the
Headland, its straps and routes, the store, firmware, calibration set and fuses go on. The Malob link retrains with the others: what waits
for it is lost (R488, R495). -/
def moduleState (s : State) : State :=
  let h := s.hub
  { State.reset with
    pending := s.pending
    free := s.free
    ports := s.ports.map retrainPort
    hub := { Hub.reset with
             ns := h.ns, position := h.position, torus := h.torus, routes := h.routes, feedMain := h.feedMain, feedBkp := h.feedBkp,
             spares := h.spares, store := h.store, firmware := h.firmware, cal := h.cal, fuses := h.fuses, pwr := modulePwr s,
             tb := { Tb.reset with master := h.tb.master, extRef := h.tb.extRef, upPri := h.tb.upPri, upBak := h.tb.upBak,
                                   bakEn := h.tb.bakEn, refLost := h.tb.refLost },
             calUsed := h.calUsed, calNew := h.calNew,
             hl := { h.hl with resets := [], progs := [], hostMsgs := [], wout := [], held := [], malob := .training, toHost := [], responses := [],
                               returns := [] } } }

/-- A module reset begins; it supersedes the resets in progress (R495, R496). Replies to cores are lost with the module's items. -/
def moduleResetOp (src : Option CmdSrc) (s : State) : State := addReset 3 0 0 src (useCalibration (moduleState (abortCommands s)))

/-- A module reset is possible: after a thermal trip every Tj must be below THROTTLE (R476). -/
def moduleMayReset (s : State) : Bool := s.hub.pwr.trip.isNone || hottest s < 8 * (s.hub.pwr.throttle : Int)

/-- MODULE_RESET (R476, R493, R495, R496). -/
def execModuleReset (src : CmdSrc) (s : State) : Answer :=
  whenDue (s.hub.pwr.fail.isNone && s.hub.pwr.alwaysOn) (fun s =>
    let s := takeCmd 0 9 src s
    if !whoHS src.who then reply src 9 2 0 s
    else if !moduleMayReset s then reply src 9 1 0 s
    else if moduleResetting s then addReset 0 0 0 (some src) s
    else moduleResetOp (some src) s) s

/-- RESET_N_EDGE (R476, R480, R491): the pin rises after at least 1 µs low. -/
def execResetNEdge (lowNs ns : Nat) (s : State) : Answer :=
  let s := s.atNs ns
  whenDue (1000 ≤ lowNs && s.hub.pwr.fail.isNone && s.hub.pwr.alwaysOn && moduleMayReset s && !moduleResetting s) (moduleResetOp none) s

/-! ### Completion (R352, R496, R524) -/

/-- Another reset in progress still holds ring `r` of core `c`. -/
def ringHeld (rest : List ResetRun) (c : CoreId) (r : Nat) : Bool :=
  rest.any fun q => (q.kind == 2 && q.mask.getLsbD c.val) || (q.kind == 1 && q.rings.contains (c, r))

/-- A ring's part of a completed reset: where another reset still holds it, only its EPOCH goes on. -/
def finishRing (rest : List ResetRun) (c : CoreId) (r : Nat) (s : State) : State :=
  if ringHeld rest c r then
    s.onRing c r fun g => if g.state == .resetting then { g with epoch := (g.epoch + 1) % 256 } else g
  else s.onRing c r reopenRing

/-- A core's part of a completed core reset: the control core starts where a program has been accepted (R524). -/
def finishCore (rest : List ResetRun) (c : CoreId) (s : State) : State :=
  let s := forAll (List.range 16) (finishRing rest c) s
  if rest.any fun q => q.kind == 2 && q.mask.getLsbD c.val then s
  else
    let s := s.onCc c fun k => { k with resetting := false }
    if (s.cc c).progOk then ccStartOp c 0 s else s

/-- RESET_COMPLETE (R352, R383, R495, R496, R524): the oldest reset in progress completes and is answered. -/
def execResetComplete (s : State) : Answer :=
  match s.hub.hl.resets with
  | [] => .next s
  | ⟨kind, mask, _, src, rings⟩ :: rest =>
    let s := s.onHl fun l => { l with resets := rest }
    let s := if kind == 1 then
        forAll rings (fun y s => finishRing rest y.1 y.2 s) s
      else if kind == 2 then forAll (maskCores s mask) (finishCore rest) s
      else if kind == 3 then (trainDeep (s.onTb fun t => { t with locked := t.locked || (t.master && !t.extRef) })).onHl fun l =>
        { l with malob := .up }
      else s
    .next (match src with
      | some b => reply b 9 0 0 s
      | none => s)

end Sys2Proof.Machine
end

