-- ==== Sys2Proof/Machine/HostLink.lean ====
section
/-! DEFINITION. The host link (R485 to R490), the two-wire bus (R492), and the survey (R506, R507). -/

namespace Sys2Proof.Machine

open Sys2Proof

/-- The Malob link is UP. -/
def malobUp (s : State) : Bool := s.hub.hl.malob == .up

/-! ### Rows (R88, R107, R119, R122, R303, R364, R487) -/

/-- The item that carries a row write of the host to module address `a`. -/
def hostItem (s : State) (a : Nat) (row : Row) : Item :=
  ⟨.write, rowPlane 0xFF a, s.hub.position, a / 0x1000000 % 128, s.hub.position, 0xFF, 0, a, 0, 1, 0, true, row⟩

/-- A row write of the host goes to its place as any write from outside the core does (R88, R122); it waits while its landing buffer is full
or an earlier write of the host waits. -/
def hostWrite (a : Nat) (row : Row) (s : State) : State :=
  let x := hostItem s a row
  let s := s.onHl fun l => { l with wout := l.wout ++ [(s.hub.position, a, 0)] }
  if writeRoom s x && hostFirst s s.net.length x && deepFirst s s.net.length x then hubRelease (takeWrite x s) else { s with net := s.net ++ [x] }

/-- HOST_ROW_WRITE (R88, R107, R122, R303, R487): begun in arrival order. A locked image row and an unpopulated row discard it, with a
record; rows without power are lost. -/
def execHostRowWrite (addr : Nat) (row : Row) (s : State) : Answer :=
  whenDue (malobUp s) (fun s =>
    if !populated addr then headlandFault (addressFault 5 0 0 0 0 0 (rowField s addr)) s
    else if lockedRow s addr then headlandFault (imageWriteFault 5 0 0 (rowField s addr)) s
    else if !s.hub.pwr.railsUp then s
    else hostWrite (rowBase addr) row s) s

/-- The row of an earlier write of the host to module address `a` that is not performed yet: the host's transactions keep their order
(R487). -/
def hostPending (s : State) (a : Nat) : Option Row :=
  let host := fun (o : LandOwner) => match o with
    | .write p c _ _ => c == 0xFF && p == s.hub.position
    | .late _ | .msg _ _ _ _ => false
  let net := s.net.filterMap fun x => if x.kind == .write && x.srcCore == 0xFF && x.srcPos == s.hub.position && x.row == a then some x.data else none
  let land := allCores.flatMap fun c => (s.cm c).land.filterMap fun x => match x.dst with
    | .plot r => if host x.owner && plotAddr c r == a then some x.data else none
    | .hopper _ _ | .source _ _ => none
  let cmn := allCores.flatMap fun c => (s.cm c).cmnIn.filterMap fun x => if host x.owner && x.addr == a then some x.data else none
  (land ++ cmn ++ net).getLast?

/-- Rows of a host read from row `k` at address `a` on, `n` of them (R107, R119, R122, R364): an unpopulated row and a row of a group that
gives no data return zeros, with a record; the first uncorrectable one ends the read with a loss notice. -/
def hostRead (tag : Nat) (err : ReadErr) : Nat → Nat → Nat → State → State
  | 0, _, _, s => s
  | n + 1, k, a, s =>
    let ret := fun (d : Row) (s : State) => hostRead tag err n (k + 1) (a + 512) (s.onHl fun l => { l with returns := l.returns ++ [(tag % 2 ^ 24, k, d)] })
    let gated := match placeOf a with
      | .commons d row => gatedFor s d row false
      | .plot _ _ | .deep _ _ | .control | .window | .unpopulated => false
    if !populated a then ret 0 (headlandFault (addressFault 5 tag 0 0 0 0 (rowField s a)) s)
    else if gated then ret 0 (headlandFault (gatedFlt s 5 tag 0 (match placeOf a with
      | .commons _ row => row
      | .plot _ _ | .deep _ _ | .control | .window | .unpopulated => 0) 0 a) s)
    else match hostPending s a with
    | some d => ret d s
    | none =>
      let e := readEcc s a (errAt err k)
      let (d, s) := readNoted s a e
      if eccBad e then
        let loss : Item := ⟨.loss, 0, s.hub.position, 0xFF, s.hub.position, 0xFD, tag, a, 0, eccCw e + 1, 0, true, 0⟩
        s.onHl fun l => { l with responses := l.responses ++ [BitVec.ofNat 128 loss.shortBits] }
      else ret d s

/-- HOST_ROW_READ (R107, R119, R122, R364, R487): `count` rows return with the request's tag, as far as they can be read. -/
def execHostRowRead (addr count tag : Nat) (err : ReadErr) (s : State) : Answer :=
  whenDue (malobUp s && 1 ≤ count && count ≤ 256) (hostRead tag err count 0 (rowBase addr)) s

/-! ### Messages (R335, R338, R345, R489, R490) -/

/-- The host's outstanding messages. -/
def hostOutstanding (s : State) : Nat :=
  ((s.hub.hl.hostMsgs ++ s.hub.hl.held.map (·.1)).filter fun m => m.head?.any fun h => mhSendCore h == 0xFF).length

/-- A stamped message of the host departs; with ORDERED it waits for every row write of the host that arrived before it (R487). -/
def hostDepart (rows : List Row) (s : State) : State :=
  let set := if rows.head?.any mhOrdered then (s.hub.hl.wout.filter fun y => y.1 == s.hub.position).map fun y => (y.1, y.2.1) else []
  if set.isEmpty then hubDepart rows s else s.onHl fun l => { l with held := l.held ++ [(rows, set)] }

/-- The header as the hub stamps it (R489). -/
def hostStamp (s : State) (hdr : Row) : Row := stampHdr hdr s.hub.position 0xFF (bitsOf (mhSlotByte hdr) 2 3) s.hub.hl.seq

/-- HOST_MESSAGE (R338, R345, R489): stamped with SEQ and its context, checked under line 1 of R338, and routed as any message. -/
def execHostMessage (hdr : Row) (payload : List Row) (s : State) : Answer :=
  let h := hostStamp s hdr
  let bad := mhMalformed h 0xFF true
  whenDue (malobUp s && hostOutstanding s < 64 && (bad || payload.length + 1 == mhLen h)) (fun s =>
    let s := s.onHl fun l => { l with seq := (l.seq + 1) % 2 ^ 16 }
    if bad then hubBounce h 8 s else hostDepart (h :: payload) s) s

/-- Rows of a message with LAND_TIME in its header. -/
def landedRows (s : State) (h : Row) (rows : List Row) : List Row := h.put 0x18 8 (tbNow s) :: rows

/-- The message `h :: rows` is placed in the host inbox ring at row `at_`, behind a filler where the fit needs one. -/
def placeInbox (fit : Bool × Nat) (h : Row) (rows : List Row) (s : State) : State :=
  let l := s.hub.hl
  let row := fun (i : Nat) => l.inBase + 512 * i
  let fill := if fit.1 then [(row l.inWptr, fillerRow)] else []
  let data := (landedRows s h rows).zipIdx.map fun x => (row (fit.2 + x.2), x.1)
  let s := s.onHl fun l => { l with toHost := l.toHost ++ fill ++ data, inWptr := (fit.2 + 1 + rows.length) % l.inRows, inQ := l.inQ.tail }
  if 128 ≤ mhSendCore h && mhSendPos h == s.hub.position then hubDone (mhSendCore h) (mhSeq h) s
  else answerMsg .msgAck (msgPlane h) 0 h s

/-- HOST_INBOX_PLACE (R339, R340, R490): the oldest message that waits for the host is placed once it fits, and acknowledged. -/
def execHostInboxPlace (s : State) : Answer :=
  let l := s.hub.hl
  match l.inQ with
  | (h :: rows) :: _ =>
    match fitAt l.inRows l.inWptr l.inRptr (1 + rows.length) with
    | some f => whenDue (malobUp s) (placeInbox f h rows) s
    | none => .next s
  | _ => .next s

/-- HOST_INBOX_RPTR_WRITE (R490, R510). -/
def inboxRptr (v : Word) (s : State) : State := s.onHl fun l => { l with inRptr := v.toNat % 2 ^ 10 }
def execHostInboxRptrWrite (v : Word) (s : State) : Answer := .next (inboxRptr v s)

/-- HOST_FAULT_RPTR_WRITE (R490, R510). -/
def faultRptr (v : Word) (s : State) : State := s.onHl fun l => { l with fltRptr := v.toNat % 2 ^ 14 }
def execHostFaultRptrWrite (v : Word) (s : State) : Answer := .next (faultRptr v s)

/-! ### The two-wire bus (R492) -/

/-- SMB_SEGMENT_WRITE: code 0x20. -/
def execSmbSegmentWrite (i : Fin 16) (data : BitVec 256) (s : State) : Answer :=
  whenDue s.hub.pwr.alwaysOn (fun s => s.onHl fun l => { l with smbRow := l.smbRow.put (32 * i.val) 32 data.toNat }) s

/-- SMB_SUBMIT: code 0x21 puts the row image among the Headland's commands. -/
def execSmbSubmit (s : State) : Answer :=
  whenDue (s.hub.pwr.fail.isNone && s.hub.pwr.alwaysOn) (fun s =>
    s.onHl fun l => { l with cmds := l.cmds ++ [[(stampHdr l.smbRow s.hub.position (whoCode .manager) 0 0).put 0x18 8 (tbNow s)]] }) s

/-- SMB_REPLY_READ: code 0x22. -/
def execSmbReplyRead (s : State) : Answer := whenDue s.hub.pwr.alwaysOn (fun s => s.onHl fun l => { l with smbRead := l.smbReply }) s

/-! ### Survey (R371, R372, R506, R507) -/

/-- HL_SURVEY_WINDOW in ms: at least 100 (R510). -/
def surveyWindow (s : State) : Nat := if s.hub.hl.window < 100 then 100 else s.hub.hl.window

/-- SURVEY (R493, R506, R507): the master floods the survey and opens its census; another module answers status 3. -/
def execSurvey (src : CmdSrc) (ns : Nat) (s : State) : Answer :=
  hlCommand 0x10 whoS src (fun s =>
    if !s.hub.tb.master || s.hub.hl.conflict then reply src 0x10 3 0 s
    else
      let now := s.hub.ns
      let s := s.onHl fun l => { l with censusEnd := some (now + surveyWindow s * 1000000), census := [s.hub.position], parent := none }
      reply src 0x10 0 0 (forwardSurvey none 0 0 s.hub.position s)) (s.atNs ns)

/-- The direction of one dimension's shorter way, toward + at half the ring; none when the coordinates agree. -/
def dimDir (n a b plus : Nat) : Option Nat :=
  let d := (b + n - a) % n
  if d == 0 then none else if 2 * d ≤ n then some plus else some (plus + 1)

/-- The reference route of R371: X, then Y, then Z; 7 for the module itself. -/
def torusDir (nx ny nz own pos : Nat) : Nat :=
  ((dimDir nx (own % nx) (pos % nx) 0).orElse fun _ =>
    (dimDir ny (own / nx % ny) (pos / nx % ny) 2).orElse fun _ => dimDir nz (own / (nx * ny)) (pos / (nx * ny)) 4).getD 7

/-- The route table that a Headland writes from LNK_TORUS, absent positions DOWN (R372, R506). -/
def torusRoutes (torus : Word) (own : Nat) (present : List Nat) : List (Nat × Nat) :=
  let nx := bitsOf torus.toNat 0 6 + 1
  let ny := bitsOf torus.toNat 8 6 + 1
  let nz := bitsOf torus.toNat 16 6 + 1
  if nx * ny * nz ≤ own then []
  else (List.range (nx * ny * nz)).map fun p => (p, torusDir nx ny nz own p + (if p == own || present.contains p then 0 else 8))

/-- CENSUS_CLOSE (R506 phases 5 and 6). -/
def execCensusClose (ns : Nat) (s : State) : Answer :=
  let s := s.atNs ns
  whenDue (s.hub.hl.censusEnd.any (· ≤ s.hub.ns)) (fun s =>
    let s := s.onHub fun h => { h with routes := torusRoutes h.torus h.position h.hl.census }
    s.onHl fun l => { l with censusEnd := none, phase := 6 }) s

end Sys2Proof.Machine
end

