-- ==== Sys2Proof/Machine/CoreRegs.lean ====
section
/-! DEFINITION. The registers of a core block (R80, R105, R127, R183, R215, R244, R275, R306, R331, R356, R357, R406, R428): what each
reads as, and what a write of each does (R9 to R12). Offsets are bytes within the block. -/

namespace Sys2Proof.Machine

open Sys2Proof

/-- What a register word reads as: a word of its own, or one word of a 64-bit register (the low-word latch of R80). -/
inductive RVal where
  | word (n : Nat)
  | lo (n : Nat)
  | hi (n : Nat)
  deriving DecidableEq, Repr

/-- The two words of a 64-bit register at `off`. -/
def wide (off n : Nat) : List (Nat × RVal) := [(off, .lo n), (off + 4, .hi n)]

/-- A table of register words out of pieces. -/
def regs (xs : List (List (Nat × RVal))) : List (Nat × RVal) := xs.flatten

/-- A register's word in a table of a block. -/
def regAt (xs : List (Nat × RVal)) (off : Nat) : Option RVal := (xs.find? fun x => x.1 == off).map (·.2)

/-- Fields of `w` bits packed `w` bits apart. -/
def fields (w : Nat) (xs : List Nat) : Nat := packNat w xs

/-! ### Codes (R80, R331, R356) -/

def CoreRun.code : CoreRun → Nat
  | .idle => 0 | .running => 1 | .stalled => 2 | .faulted => 3
def Cause.code : Cause → Nat
  | .none => 0 | .stake => 1 | .hqPop => 2 | .hqPush => 3 | .staging => 4 | .pageIn => 5 | .credit => 6 | .wake => 7 | .reclaim => 8
def CcRun.code : CcRun → Nat
  | .halted => 0 | .running => 1 | .wfe => 2 | .handler => 3
def RingState.code : RingState → Nat
  | .closed => 0 | .opened => 1 | .resetting => 2

/-! ### Schedule registers (R80) -/

def coreStatus (sc : Sched) : Nat :=
  sc.run.code + flag 2 sc.staged.isSome + flag 3 sc.launch.isSome + at_ 4 sc.cause.code 4 + at_ 8 sc.which 6

/-- CLASS of the running strip, else of the pending one; between strips, of the last (R80, log entry 132). -/
def classShown (sc : Sched) : Nat :=
  match sc.strip, sc.launch, sc.staged with
  | some st, _, _ => hdrClass st.hdr
  | none, some _, some st => hdrClass st.hdr
  | none, _, _ => sc.cls

def coreCredit (sc : Sched) : Nat := at_ 0 sc.held 5 + at_ 5 (classShown sc) 5 + flag 10 sc.lent + at_ 11 sc.request 5
def coreDebugSts (s : State) (c : CoreId) : Nat :=
  let sc := s.sc c
  flag 0 (debugMode s c) + flag 1 sc.stkOvf + flag 2 sc.hazard + at_ 3 sc.check 3

def schedRegs (s : State) (c : CoreId) : List (Nat × RVal) :=
  let sc := s.sc c
  regs [[(0x000, .word (coreStatus sc))], wide 0x008 sc.schedCyc, wide 0x010 sc.stallCyc,
    [(0x018, .word sc.stripCyc), (0x01C, .word sc.stripStall), (0x020, .word sc.stripId), (0x024, .word sc.stallTag),
     (0x028, .word sc.wdog), (0x02C, .word (coreCredit sc)), (0x030, .word (sc.ctxCfg.toNat + flag 31 sc.commit)),
     (0x034, .word sc.dlMiss), (0x038, .word sc.lends), (0x03C, .word (coreDebugSts s c))],
    ((List.range 12).map fun i => (0x040 + 0x10 * (i / 3) + 4 * (i % 3),
      RVal.word (fields 8 ((List.range 4).map fun j => (vget sc.stkMap 0 (12 * (i / 3) + 4 * (i % 3) + j)).toNat)))),
    ((List.range 12).map fun i => (0x080 + 4 * i, RVal.word (fields 8 ((List.range 4).map fun j => (vget sc.stk 0 (4 * i + j)).toNat)))),
    [(0x0B0, .word (fields 4 (sc.hq.toList.map List.length)))]]

/-! ### Plough, Harrow, Tiller, Drill (R183, R215, R244, R275) -/

/-- The Plough's ramp runs: the first 32 cycles of an instruction that starts with one (R74). -/
def plgRamping (u : Nat) (r : PlgRun) : Bool := r.rho != 0 && r.t0 ≤ u && u < r.t0 + 32
/-- Filler runs in the present cycle: holding and reclaim filler in a stall (R73), gap filler in a schedule cycle (R74). -/
def plgFilling (sc : Sched) (e : Eng) : Bool :=
  match sc.run with
  | .stalled => stallFiller sc 1 != 0
  | .running => gapCycles sc e sc.stripCyc 1 != 0
  | .idle | .faulted => false

def plgStatus (sc : Sched) (e : Eng) : Nat :=
  flag 0 (e.plg.length != 0) + flag 1 (e.plg.any (plgRamping sc.stripCyc)) + flag 2 (plgFilling sc e) +
    flag 3 (e.plg.any fun r => r.drainsAt sc.stripCyc) + at_ 4 e.plgArrays 4 + at_ 8 e.plgFold 2 + flag 10 e.set

def hrwStatus (e : Eng) : Nat := flag 0 (e.hrw.length != 0) + flag 1 (e.bload.length != 0) + at_ 2 e.hrwStages 3 + at_ 5 e.hrwChain 6

def tlrStatus (e : Eng) : Nat :=
  flag 0 (e.tlr.length != 0 || e.root.length != 0) + at_ 1 e.tlrMode 2 + flag 3 e.tlrGroupBad + flag 4 e.tlrHeaderBad +
    flag 5 e.tlrRootFail + flag 6 e.tlrNonfinSt

def engRegs (s : State) (c : CoreId) : List (Nat × RVal) :=
  let sc := s.sc c
  let e := s.en c
  let sums := sumsNow s c
  regs [[(0xA00, .word (plgStatus sc e)), (0xA04, .word e.plgTag)], wide 0xA08 e.plgInst, wide 0xA10 e.plgFeed, wide 0xA18 e.plgFiller,
    [(0xA20, .word e.plgRamps), (0xA24, .word e.plgSat), (0xA28, .word e.plgNonfin)],
    [(0xB00, .word (hrwStatus e)), (0xB04, .word e.hrwTag)], wide 0xB08 e.hrwBeats,
    [(0xB10, .word e.hrwSat), (0xB14, .word e.hrwNonfin)],
    ((List.range 8).flatMap fun k =>
      let x := vget sums SumSlot.reset k
      wide (0xB40 + 16 * k) x.value.toNat ++ [(0xB48 + 16 * k, RVal.word (sumInfo x)), (0xB4C + 16 * k, RVal.word x.tag)]),
    [(0xC00, .word (tlrStatus e)), (0xC04, .word e.tlrTag)], wide 0xC08 e.tlrRows,
    [(0xC10, .word e.tlrNonfin), (0xC14, .word e.tlrSat), (0xC18, .word (at_ 0 e.tlrDup 16 + at_ 16 e.tlrHorizon 16)),
     (0xC1C, .word (at_ 0 e.tlrOk 16 + at_ 16 e.tlrFail 16)), (0xC20, .word e.tlrCfg.toNat)]]

/-- Drill registers; a control core reads its seeds as 0 (R183). -/
def drillRegs (s : State) (c : CoreId) (own : Bool) : List (Nat × RVal) :=
  let e := s.en c
  let seed := fun (k : Nat) => if own then 0 else (vget e.seeds 0 k).toNat
  regs [((List.range 8).map fun i => (0x900 + 4 * i, RVal.word (seed (i / 2) / 2 ^ (32 * (i % 2)) % 2 ^ 32))),
    ((List.range 2).map fun i => (0x920 + 4 * i, RVal.word (vget e.drlKey 0 i).toNat)),
    ((List.range 4).map fun i => (0x928 + 4 * i, RVal.word (vget e.drlCtr 0 i).toNat)),
    [(0x938, .word (flag 1 e.drlBusy.isSome + flag 2 e.drlDone))],
    ((List.range 4).map fun i => (0x940 + 4 * i, RVal.word (vget e.drlOut 0 i).toNat)),
    [(0x950, .word (flag 0 e.drlFail + flag 1 e.drlTested))]]

/-! ### Image, trace, control core, folds, weights (R306, R331, R406, R428) -/

def ccStatus (cc : Cc) : Nat := cc.run.code + flag 2 cc.trapped + at_ 3 cc.sends.length 3 + flag 6 cc.winUe
/-- CORE_CC_CYCLE: the stored offset and the control-core cycles of this core (R308, R309). -/
def ccCycle (s : State) (c : CoreId) : Nat := ((s.cc c).mcycle + BitVec.ofNat 64 (ccCyc (s.sc c))).toNat

/-- An image slot as CORE_IMG reads: a region of the accepted image; else one that a load under check has locked (R303, R306, log entry
125). -/
def imgShown (s : State) (c : CoreId) (i : Fin 4) : ImgSlot :=
  let g := vget (s.cc c).img ImgSlot.reset i.val
  let locked := fun (x : Nat × LoadCtx) =>
    if slotOf s c x.1 == some i then (x.2.locks.find? fun l => l.1 == c.val).map fun l => (x.1, l.2) else none
  if g.accepted then g
  else match (s.hub.loads.toList.zipIdx.map fun l => (l.2, l.1)).findSome? locked with
    | some (x, l) => { g with base := l.1, rows := l.2, locked := true, ctx := x }
    | none => g

def ccRegs (s : State) (c : CoreId) : List (Nat × RVal) :=
  let k := s.cc c
  let e := s.en c
  regs [((List.finRange 4).flatMap fun i =>
    let g := imgShown s c i
    [(0xD00 + 16 * i.val, RVal.word g.base), (0xD04 + 16 * i.val, .word g.rows),
     (0xD08 + 16 * i.val, .word (flag 0 g.accepted + flag 1 g.locked + at_ 2 g.ctx 3))]),
    [(0xD40, .word k.traceCfg.toNat), (0xD44, .word k.traceMatch.toNat), (0xD48, .word k.traceMask.toNat), (0xD4C, .word k.traceBase),
     (0xD50, .word k.traceRows), (0xD54, .word k.traceWptr), (0xD58, .word k.traceDrop),
     (0xE00, .word (ccStatus k)), (0xE04, .word (at_ 16 k.startPc 16)), (0xE08, .word k.tag), (0xE0C, .word k.events.toNat),
     (0xE10, .word k.trap.1.toNat), (0xE14, .word k.trap.2.1.toNat), (0xE18, .word k.trap.2.2.toNat),
     (0xE20, .word k.hdlEn.toNat), (0xE24, .word k.hdlPrio.toNat),
     (0xE28, .word (flag 0 k.hdlActive + at_ 1 k.hdlRing 4 + at_ 5 k.hdlClass 8)), (0xE2C, .word k.hdlCnt),
     (0xE30, .word (at_ 0 k.ring.length 6 + at_ 16 k.lost 16)), (0xE34, .word k.seq)],
    ((List.range 16).map fun r => (0xE40 + 4 * r, RVal.word (vget k.dptr 0 r))), wide 0xE80 (ccCycle s c),
    ((List.range 4).flatMap fun q => wide (0xF00 + 8 * q) (vget e.fold 0 q).toNat),
    ((List.range 4).map fun q => (0xF20 + 4 * q, RVal.word (vget e.foldTag 0 q))), wide 0xF30 e.stripOrd,
    [(0xF38, .word (at_ 0 e.foldEpoch 8 + flag 8 e.foldFinal + flag 9 e.foldFault)),
     (0x1900, .word (at_ 3 k.reqCslot.val 2 + at_ 5 k.reqSlot.val 1)),
     (0x1904, .word (flag 0 k.reqDone + at_ 1 k.reqLatched.val 1 + at_ 2 k.reqResult 2))]]

/-! ### Rings and messages (R353, R356, R357) -/

/-- The first message of ring `r` from row `p` on, passing over fillers and voids (R341, R353). -/
def headFrom (s : State) (c : CoreId) (r : Nat) : Nat → Nat → Option Row
  | 0, _ => none
  | fuel + 1, p =>
    let g := s.ring c r
    let h := readRow s (ringAddr s c r p)
    if p == g.wptr || g.size ≤ p then none
    else if !mhFill h then some h
    else if mhLen h == 0 then headFrom s c r fuel 0
    else headFrom s c r fuel ((p + mhLen h) % g.size)

/-- The header row of ring `r`'s head message (R353). -/
def ringHeadRow (s : State) (c : CoreId) (r : Nat) : Option Row := headFrom s c r 1024 (s.ring c r).rptr

def ringRegs (s : State) (c : CoreId) (r : Nat) : List (Nat × RVal) :=
  let g := s.ring c r
  let occ := fun (size w p : Nat) => if size == 0 then 0 else (w + size - p) % size
  let head := ringHeadRow s c r
  regs [[(0x00, .word (at_ 0 g.base 14 + at_ 14 g.raw.1 11 + at_ 25 g.slot.val 2)), (0x04, .word g.spillBase), (0x08, .word g.raw.2),
   (0x0C, .word (at_ 0 g.stk 6 + flag 6 g.stkEn)), (0x10, .word (g.state.code + at_ 8 g.epoch 8)),
   (0x14, .word (at_ 0 g.wptr 10 + at_ 10 g.resv 10 + at_ 20 g.rptr 10)),
   (0x18, .word (at_ 0 (occ g.size g.wptr g.rptr) 11 + at_ 11 (occ g.spillSize g.spillResv g.spillRptr) 21)),
   (0x1C, .word (at_ 0 g.hold.length 5 + flag 5 head.isSome + at_ 16 (satAdd 0xFFFF 0 g.spillMsgs) 16))],
    ((List.range 8).map fun w => (0x20 + 4 * w, RVal.word ((head.getD 0).field (4 * w) 4)))]

/-- A send is held (R345): its header waits in a hold queue of this module, or of another, whose answer alone tells (log entry 102). -/
def sendHeld (s : State) (c : CoreId) (x : Send) : Bool :=
  if x.hdr == 0 || !x.rows.isEmpty then false
  else if mhDest s x.hdr == s.hub.position then
    mhDestCore x.hdr < 128 &&
      (s.ring (coreNo (mhDestCore x.hdr)) (mhRing x.hdr)).hold.any fun h => hdrKey h s.hub.position c.val (mhSeq x.hdr)
  else x.state != .queued && Config.heldThere x.hdr (s.sc c).wall

def sendSts (s : State) (c : CoreId) : Nat :=
  let l := (s.cc c).sends
  at_ 0 l.length 3 + at_ 3 (fields 1 (l.map fun x => b2n (sendHeld s c x))) 4 +
    at_ 7 (fields 1 (l.map fun x => b2n (x.hdr != 0 && x.ordered.length != 0))) 4

def msgRegs (s : State) (c : CoreId) : List (Nat × RVal) :=
  let k := s.cc c
  let q := fun (i : Nat) => vget k.msgSeq 0 i
  [(0x1800, .word (at_ 0 (q 0) 16 + at_ 16 (q 1) 16)), (0x1804, .word (at_ 0 (q 2) 16 + at_ 16 (q 3) 16)), (0x1808, .word (sendSts s c)),
   (0x180C, .word k.bounceCnt), (0x1810, .word k.rxBounce), (0x1814, .word k.spillCnt), (0x1818, .word k.holdCnt)]

/-! ### Reading a core block -/

/-- What a word of core `c`'s block reads as; `own` marks a read by its control core. -/
def coreReg (s : State) (c : CoreId) (own : Bool) (off : Nat) : Option RVal :=
  if off < 0x400 then regAt (schedRegs s c) off
  else if off < 0x800 then some (.word (bitsOf (handle s c ((off - 0x400) / 16)).toNat (8 * (off % 16)) 32))
  else if off < 0x900 then
    let e := (s.cm c).err
    regAt [(0x800, .word (b2n e.scrubEn + at_ 1 e.scrubLog2 5)), (0x804, .word (at_ 0 e.ce 16 + at_ 16 e.ue 8 + at_ 24 e.late 7)),
           (0x808, .word e.addr.toNat)] off
  else if off < 0xA00 then regAt (drillRegs s c own) off
  else if off < 0xD00 then regAt (engRegs s c) off
  else if 0x1000 ≤ off && off < 0x1400 then some (.word (vget (s.cc c).hdlTable 0 ((off - 0x1000) / 4)).toNat)
  else if 0x1400 ≤ off && off < 0x1800 then regAt (ringRegs s c ((off - 0x1400) / 0x40)) (off % 0x40)
  else if 0x1800 ≤ off && off < 0x1900 then regAt (msgRegs s c) off
  else regAt (ccRegs s c) off

/-! ### Writing a core block -/

/-- A write-1-to-clear flag at bit `i`; `kept`: hardware has set it in the present cycle, so that it stays set (R12). -/
def w1c (kept : Nat → Bool) (old : Bool) (v : Word) (i : Nat) : Bool := old && (!v.getLsbD i || kept i)

/-- An error counter's CLEAR (R126). -/
def ErrReg.clear (e : ErrReg) : ErrReg := { e with ce := 0, ue := 0, late := 0 }
/-- A write of an error block's word: 0 scrub configuration, 1 counters, 2 address record, whose VALID stays if an error was recorded in
the present cycle (R12, R126, R127). -/
def ErrReg.write (kept : Nat → Bool) (e : ErrReg) (i : Nat) (v : Word) : ErrReg :=
  match i with
  | 0 => { e with scrubEn := v.getLsbD 0, scrubLog2 := bitsOf v.toNat 1 5 }
  | 1 => if v.getLsbD 31 then e.clear else e
  | _ => if v.getLsbD 31 && !kept 31 then { e with addr := e.addr &&& 0x7FFFFFFF#32 } else e

/-- Fields that lock with CORE_CTX_CFG.COMMIT (R80, R183). -/
def lockedWrite (c : CoreId) (off : Nat) (v : Word) (s : State) : State :=
  if (s.sc c).commit then s
  else if off == 0x030 then ctxCfgWrite c v s
  else if off < 0x080 then
    let k := (off - 0x040) / 0x10
    let w := (off - 0x040) % 0x10 / 4
    if w == 3 then s
    else s.onSc c fun sc => { sc with
      stkMap := (List.range 4).foldl (fun m j => vset m (12 * k + 4 * w + j) (BitVec.ofNat 6 (bitsOf v.toNat (8 * j) 6))) sc.stkMap }
  else
    let k := (off - 0x900) / 8
    let hi := (off - 0x900) % 8 == 4
    let seed := BitVec.ofNat 64 (setBits (vget (s.en c).seeds 0 k).toNat (if hi then 32 else 0) 32 v.toNat)
    s.onE c fun e => { e with seeds := vset e.seeds k seed }

/-- Schedule, Plot, Drill and engine registers (R80, R105, R127, R183, R215, R244, R275). -/
def engRegWrite (c : CoreId) (off : Nat) (v : Word) (s : State) : State :=
  let kept := bitSet (s.sc c) off
  if off == 0x028 then s.onSc c fun sc => { sc with wdog := bitsOf v.toNat 0 6 }
  else if off == 0x03C then s.onSc c fun sc => { sc with stkOvf := w1c kept sc.stkOvf v 1, hazard := w1c kept sc.hazard v 2 }
  else if 0x400 ≤ off && off < 0x800 then
    let h := (off - 0x400) / 16
    let old := handle s c h
    let new : IWord := BitVec.ofNat 128 (setBits old.toNat (8 * (off % 16)) 32 v.toNat)
    (setHandle c h (hPut (hPut (hPut (hPut new 24 8 0) 57 7 0) 88 8 0) 112 16 0) s).onSc c (noteSwSet h)
  else if 0x800 ≤ off && off ≤ 0x808 then s.onM c fun m => { m with err := m.err.write kept ((off - 0x800) / 4) v }
  else if 0x920 ≤ off && off < 0x928 then s.onE c fun e => { e with drlKey := vset e.drlKey ((off - 0x920) / 4) v }
  else if 0x928 ≤ off && off < 0x938 then s.onE c fun e => { e with drlCtr := vset e.drlCtr ((off - 0x928) / 4) v }
  else if off == 0x938 then
    let cyc := ccCyc (s.sc c)
    s.onE c fun e =>
      let e := { e with drlDone := w1c kept e.drlDone v 2 }
      if v.getLsbD 0 && e.drlBusy.isNone then { e with drlBusy := some (cyc, e.drlKey, e.drlCtr) } else e
  else if off == 0xA30 then if v.getLsbD 0 then s.onE c fun e => { e with plgRamps := 0, plgSat := 0, plgNonfin := 0 } else s
  else if off == 0xB18 then
    let s := if v.getLsbD 0 then s.onE c fun e => { e with hrwSat := 0, hrwNonfin := 0 } else s
    if v.getLsbD 1 then s.onE c fun e => { e with sums := Vector.ofFn fun k : Fin 8 => clearSum s c k.val true true } else s
  else if 0xB40 ≤ off && off < 0xBC0 && off % 16 == 8 then
    let k := (off - 0xB40) / 16
    s.onE c fun e => { e with sums := vset e.sums k (clearSum s c k (v.getLsbD 0) (v.getLsbD 1)) }
  else if off == 0xC00 then
    s.onE c fun e => { e with tlrGroupBad := w1c kept e.tlrGroupBad v 3, tlrHeaderBad := w1c kept e.tlrHeaderBad v 4,
                              tlrRootFail := w1c kept e.tlrRootFail v 5, tlrNonfinSt := w1c kept e.tlrNonfinSt v 6 }
  else if off == 0xC20 then s.onE c fun e => { e with tlrCfg := v &&& 0x3F3F3F3F#32 }
  else if off == 0xC24 && v.getLsbD 0 then
    s.onE c fun e => { e with tlrNonfin := 0, tlrSat := 0, tlrDup := 0, tlrHorizon := 0, tlrOk := 0, tlrFail := 0 }
  else s

/-- SIZE as it acts: 1..15 act as 0, values above 1,024 as 1,024 (R356). -/
def ringSizeOf (n : Nat) : Nat := if n < 16 then 0 else if 1024 < n then 1024 else n

/-- Ring registers (R336, R356). -/
def ringRegWrite (c : CoreId) (r off : Nat) (v : Word) (s : State) : State :=
  let n := v.toNat
  s.onRing c r fun g =>
    if off == 0x0C then { g with stk := bitsOf n 0 6, stkEn := v.getLsbD 6 }
    else if g.state != .closed then g
    else if off == 0x00 then
      { g with base := bitsOf n 0 14, size := ringSizeOf (bitsOf n 14 11), raw := (bitsOf n 14 11, g.raw.2), slot := Fin.ofNat 4 (bitsOf n 25 2) }
    else if off == 0x04 then { g with spillBase := bitsOf n 0 22 }
    else if off == 0x08 then
      { g with spillSize := if bitsOf n 0 21 < 32 then 0 else if 2 ^ 20 < bitsOf n 0 21 then 2 ^ 20 else bitsOf n 0 21,
               raw := (g.raw.1, bitsOf n 0 21) }
    else g

/-- WGT_REQ_CTRL (R423, R428): a write with more than one operation is ignored. -/
def reqCtrlWrite (c : CoreId) (v : Word) (s : State) : State :=
  if 1 < popcount 3 v.toNat then s
  else
    let s := s.onCc c fun k => { k with reqCslot := Fin.ofNat 4 (bitsOf v.toNat 3 2), reqSlot := Fin.ofNat 2 (bitsOf v.toNat 5 1) }
    if v.getLsbD 0 then reqBeginOp c s else if v.getLsbD 1 then reqJoinOp c s else if v.getLsbD 2 then reqEndOp c s else s

/-- CORE_CC_CTRL (R331): HALT is taken before START. -/
def ccCtrlWrite (c : CoreId) (v : Word) (s : State) : State :=
  let s := s.onCc c fun k => { k with startPc := bitsOf v.toNat 16 16 / 2 * 2 }
  if v.getLsbD 1 then ccHaltOp c s else if v.getLsbD 0 then ccStartOp c (bitsOf v.toNat 16 16) s else s

/-- The pending events after a write of CORE_CC_EVENTS; an event of the present control-core cycle stays (R12, R319). -/
def clearedEvents (kept : Nat → Bool) (ev : BitVec 6) (v : Word) : BitVec 6 :=
  BitVec.ofNat 6 ((List.range 6).map fun b => b2n (w1c kept (ev.getLsbD b) v b) * 2 ^ b).sum

/-- Control-core, trace, message and weight registers (R306, R331, R356, R357, R428). -/
def ccRegWrite (c : CoreId) (off : Nat) (v : Word) (s : State) : State :=
  let n := v.toNat
  let kept := bitSet (s.sc c) off
  let w := (s.sc c).wall
  if off == 0xD40 then traceCfgWrite c v s
  else if off == 0xD44 then s.onCc c fun k => { k with traceMatch := v.setWidth 24 }
  else if off == 0xD48 then s.onCc c fun k => { k with traceMask := v.setWidth 24 }
  else if off == 0xD4C then s.onCc c fun k => { k with traceBase := bitsOf n 0 14 }
  else if off == 0xD50 then s.onCc c fun k => { k with traceRows := bitsOf n 0 14 }
  else if off == 0xD58 then if v.getLsbD 31 then s.onCc c fun k => { k with traceDrop := 0 } else s
  else if off == 0xE00 then s.onCc c fun k => { k with winUe := w1c kept k.winUe v 6 }
  else if off == 0xE08 then s.onCc c fun k => { k with tag := bitsOf n 0 24 }
  else if off == 0xE0C then s.onCc c fun k => { k with events := clearedEvents kept k.events v }
  else if off == 0xE20 then s.onCc c fun k => { k with hdlEn := v.setWidth 16, readyAt := if k.run == .wfe then w else k.readyAt }
  else if off == 0xE24 then s.onCc c fun k => { k with hdlPrio := v }
  else if off == 0xE30 then if v.getLsbD 6 then s.onCc c fun k => { k with lost := 0 } else s
  else if 0x1000 ≤ off && off < 0x1400 then s.onCc c fun k => { k with hdlTable := vset k.hdlTable ((off - 0x1000) / 4) (v.setWidth 16) }
  else if 0x1400 ≤ off && off < 0x1800 then ringRegWrite c ((off - 0x1400) / 0x40) (off % 0x40) v s
  else if off == 0x181C then
    if v.getLsbD 0 then s.onCc c fun k => { k with bounceCnt := 0, rxBounce := 0, spillCnt := 0, holdCnt := 0 } else s
  else if off == 0x1900 then reqCtrlWrite c v s
  else if off == 0x1904 then s.onCc c fun k => { k with reqDone := w1c kept k.reqDone v 0 }
  else s

/-- Offsets that only the Headland writes (R80, R183, R331). -/
def headlandOnly (off : Nat) : Bool := off == 0x030 || (0x040 ≤ off && off < 0x080) || (0x900 ≤ off && off < 0x920) || off == 0xE04

/-- A write of a word of core `c`'s block (R9 to R12): by its control core or the Headland. -/
def coreRegWrite (w : Writer) (c : CoreId) (off : Nat) (v : Word) (s : State) : State :=
  if !(w == .headland || w == .core c) then s
  else if headlandOnly off then
    if w != .headland then s else if off == 0xE04 then ccCtrlWrite c v s else lockedWrite c off v s
  else if off < 0xD00 then engRegWrite c off v s else ccRegWrite c off v s

end Sys2Proof.Machine
end

