-- ==== Sys2Proof/Machine/DieRegs.lean ====
section
/-! DEFINITION. The registers of a compute-die block (R81, R128, R129, R276, R483) and of a gate-die block (R372, R386). -/

namespace Sys2Proof.Machine

open Sys2Proof

/-! ### Compute die -/

def errWords (off : Nat) (e : ErrReg) : List (Nat × RVal) :=
  [(off, .word (b2n e.scrubEn + at_ 1 e.scrubLog2 5)), (off + 4, .word (at_ 0 e.ce 16 + at_ 16 e.ue 8 + at_ 24 e.late 7)),
   (off + 8, .word e.addr.toNat)]

/-- CMN_FREE_PAGES: pages that no extent holds (R110, R128). -/
def freePages (k : Die) : Nat := 65536 - (k.extents.map (·.2)).sum

def Gate.code : Gate → Nat
  | .powerGated => 0 | .waking => 1 | .clockGated => 2 | .awake => 3

/-- PWR_CORE_STATE (R468, R483). -/
def coreStates (s : State) (d : DieId) : Nat := fields 2 ((coresOf d).map fun c => if fusedOff s c then 0 else (s.core c).gate.code)

/-- PWR_STEP (R465, R483). -/
def pwrStep (s : State) (d : DieId) : Nat :=
  let k := s.die d
  at_ 0 k.stepCur 3 + at_ 4 k.stepTarget 3 + flag 7 k.changing + at_ 16 ((stepSet s d).map fun e => 2 ^ e.val).sum 8

/-- A signed value in `w` bits. -/
def signedAt (lo w : Nat) (z : Int) : Nat := at_ lo (wrap w z) w

def dieWords (s : State) (d : DieId) : List (Nat × RVal) :=
  let k := s.die d
  regs [[(0x100, .word k.pool), (0x104, .word (signedAt 0 10 (dieFree s d))), (0x108, .word (b2n k.debug)),
      (0x220, .word k.fixed.toNat), (0x224, .word (fields 2 k.groupState.toList)), (0x228, .word (freePages k)), (0x22C, .word k.ovr)],
    (List.range 8).map (fun x => (0x200 + 4 * x, RVal.word (vget k.ctxGroups 0 x).toNat)),
    (List.range 8).flatMap (fun x => [(0x240 + 8 * x, RVal.word (vget k.pageBase 0 x)), (0x244 + 8 * x, RVal.word (vget k.pageRows 0 x))]),
    errWords 0x280 k.cmnErr, [(0x400, .word k.dmStatus.toNat)], errWords 0x404 k.dmErr,
    [(0x500, .word (pwrStep s d)), (0x504, .word (coreStates s d)), (0x508, .word k.pgLog2),
      (0x50C, .word (at_ 0 k.wakes 16 + at_ 16 k.steps 16)), (0x530, .word (signedAt 0 12 k.tj + signedAt 12 12 k.tjMax)),
      (0x600, .word (flag 0 k.schedBusy + at_ 1 k.schedCtx 3 + at_ 4 k.schedCount 13))],
    (List.range 8).map (fun i => (0x510 + 4 * i, RVal.word (vget k.creditMw 0 i)))]

/-- What a word of die `d`'s block reads as. -/
def dieReg (s : State) (d : DieId) (off : Nat) : Option RVal :=
  let k := s.die d
  let tab := fun (t : List (Nat × BitVec 256 × BitVec 512)) (o : Nat) =>
    some (RVal.word (bitsOf (tabEntry t (o / 32)).1.toNat (8 * (o % 32)) 32))
  if off < 0x680 then regAt (dieWords s d) off
  else if off < 0x880 then some (.word (bitsOf k.schedMask.toNat (8 * (off - 0x680)) 32))
  else if 0x40000 ≤ off && off < 0x80000 then
    some (.word (bitsOf (groupDesc k ((off - 0x40000) / 64)).toNat (8 * (off % 64)) 32))
  else if 0x80000 ≤ off && off < 0xA0000 then tab k.tabCur (off - 0x80000)
  else if 0xA0000 ≤ off && off < 0xC0000 then tab k.tabPrev (off - 0xA0000)
  else none

/-- Groups that hold the spill area of an open ring of die `d` (R342). -/
def spillGroups (s : State) (d : DieId) : BitVec 16 :=
  (coresOf d).foldl (fun m c => (s.cc c).rings.toList.foldl (fun m g =>
    if g.state != .closed && g.spillSize != 0 then m ||| BitVec.ofNat 16 (2 ^ groupOf g.spillBase) else m) m) 0

/-- A write of CMN_FIXED: the bit of such a group cannot be cleared (R128, R342). -/
def fixedWrite (w : Writer) (d : DieId) (v : Word) (s : State) : State :=
  if w != .headland then s else s.onDie d fun k => { k with fixed := v.setWidth 16 ||| (k.fixed &&& spillGroups s d) }

/-- CMN_FIXED_WRITE (R24, R126, R128, R342). -/
def execCmnFixedWrite (w : Writer) (d : DieId) (v : Word) (s : State) : Answer := whenDue s.hub.pwr.alwaysOn (fixedWrite w d v) s

/-- ERR_COUNTER_CLEAR (R126): the error counters of a tier. -/
def execErrCounterClear (u : ScrubUnit) (s : State) : Answer :=
  .next (match u with
    | .plot c _ => s.onM c fun m => { m with err := m.err.clear }
    | .commons d _ => s.onDie d fun k => { k with cmnErr := k.cmnErr.clear }
    | .deep d _ => s.onDie d fun k => { k with dmErr := k.dmErr.clear })

/-- Bits of descriptor word `i` that R264 defines: FLAGS[7:6] and bytes 0x30 to 0x3F are reserved and read 0 (R11). -/
def descMask (i : Nat) : Word := if i == 0 then 0x3FFFFFFF else if i < 12 then 0xFFFFFFFF else 0

/-- A descriptor word is written into a die's table (R264, R276). -/
def descWrite (k : Die) (j lo : Nat) (v : Word) : Die :=
  let new : BitVec 512 := BitVec.ofNat 512 (setBits (groupDesc k j).toNat lo 32 (v &&& descMask (lo / 32)).toNat)
  { k with descs := (j, new) :: k.descs.filter fun x => x.1 != j }

/-- No strip runs or is pending on the die (R81). -/
def dieIdle (s : State) (d : DieId) : Bool := (coresOf d).all fun c => (s.sc c).strip.isNone && (s.sc c).launch.isNone

/-- A write of CORE_DIE_DEBUG (R78, R81): it changes only while no strip runs or is pending on the die, and is not set above 2.0 GHz, step
4 (log entry 133). -/
def debugWrite (d : DieId) (v : Word) (s : State) : State :=
  let k := s.die d
  let fast := k.stepCur < 4 || (k.changing && k.stepTarget < 4)
  if !dieIdle s d || (v.getLsbD 0 && fast) then s else s.onDie d fun k => { k with debug := v.getLsbD 0 }

/-- A write of PWR_STEP.TARGET: in debug mode the Headland refuses a step above 2.0 GHz (R78). -/
def targetWrite (d : DieId) (v : Word) (s : State) : State :=
  s.onDie d fun k => if k.debug && bitsOf v.toNat 4 3 < 4 then k else { k with stepTarget := bitsOf v.toNat 4 3 }

/-- A write of a word of die `d`'s block (R9 to R12, R81, R126, R276, R483): only the Headland's takes effect. -/
def dieRegWrite (w : Writer) (d : DieId) (off : Nat) (v : Word) (s : State) : State :=
  let n := v.toNat
  let kept := hubBitSet s (dieBlock d off)
  if w != .headland then s
  else if off == 0x100 then poolWrite w d v s
  else if off == 0x108 then debugWrite d v s
  else if 0x200 ≤ off && off < 0x220 then s.onDie d fun k => { k with ctxGroups := vset k.ctxGroups ((off - 0x200) / 4) (v.setWidth 16) }
  else if off == 0x220 then fixedWrite w d v s
  else if 0x240 ≤ off && off < 0x280 then
    let x := (off - 0x240) / 8
    s.onDie d fun k => if off % 8 == 0 then { k with pageBase := vset k.pageBase x (bitsOf n 0 25) }
      else { k with pageRows := vset k.pageRows x (bitsOf n 0 25) }
  else if 0x280 ≤ off && off ≤ 0x288 then s.onDie d fun k => { k with cmnErr := k.cmnErr.write kept ((off - 0x280) / 4) v }
  else if 0x404 ≤ off && off ≤ 0x40C then s.onDie d fun k => { k with dmErr := k.dmErr.write kept ((off - 0x404) / 4) v }
  else if off == 0x500 then targetWrite d v s
  else if off == 0x508 then s.onDie d fun k => { k with pgLog2 := bitsOf n 0 5 }
  else if 0x510 ≤ off && off < 0x530 then s.onDie d fun k => { k with creditMw := vset k.creditMw ((off - 0x510) / 4) (bitsOf n 0 16) }
  else if off == 0x530 then if v.getLsbD 31 then tjClear d s else s
  else if 0x680 ≤ off && off < 0x880 then
    s.onDie d fun k => { k with schedMask := BitVec.ofNat 4096 (setBits k.schedMask.toNat (8 * (off - 0x680)) 32 n) }
  else if 0x40000 ≤ off && off < 0x80000 then s.onDie d fun k => descWrite k ((off - 0x40000) / 64) (8 * (off % 64)) v
  else s

/-! ### Gate die -/

def PortState.code : PortState → Nat
  | .down => 0 | .training => 1 | .up => 2 | .failed => 3

def portWords (k : Port) : List (Nat × RVal) :=
  [(0x00, .word (k.state.code + at_ 2 k.credit 11 + at_ 13 k.replay.length 9 + flag 22 k.nakOut)),
   (0x04, .word (flag 0 k.enable + flag 3 k.manualEq)), (0x08, .word (at_ 0 k.peerPos 16 + at_ 16 k.peerPort 5 + at_ 21 k.flight 11)),
   (0x0C, .word (at_ 0 k.corr 24 + at_ 24 k.uncorr 8)), (0x10, .word (at_ 0 k.retry 16 + at_ 16 k.fails 8)),
   (0x14, .word k.eq.toNat), (0x18, .word k.tsDelay.toNat)]

/-- What a word of gate die `g`'s block reads as: its ports, and its copy of the module's route table. -/
def gateReg (s : State) (g off : Nat) : Option RVal :=
  if 0x1000 ≤ off && off < 0x1700 then regAt (portWords (s.port (Fin.ofNat 28 (7 * g + (off - 0x1000) / 0x100)))) (off % 0x100)
  else if 0x100000 ≤ off && off < 0x110000 then
    some (.word (fields 8 ((List.range 4).map fun i => routeEntry s (off - 0x100000 + i))))
  else none

/-- A write of a word of gate die `g`'s block (R372, R374, R386): only the Headland's takes effect. The four gate dies hold one table. -/
def gateRegWrite (w : Writer) (g off : Nat) (v : Word) (s : State) : State :=
  let n := v.toNat
  if w != .headland then s
  else if 0x1000 ≤ off && off < 0x1700 then
    let p : PortId := Fin.ofNat 28 (7 * g + (off - 0x1000) / 0x100)
    let o := off % 0x100
    if o == 0x04 then
      let s := s.onPort p fun k => { k with enable := v.getLsbD 0, manualEq := v.getLsbD 3 }
      if v.getLsbD 2 then portTo p .down s else if v.getLsbD 1 then portTo p .training s else s
    else if o == 0x10 then
      if v.getLsbD 31 then s.onPort p fun k => { k with corr := 0, uncorr := 0, retry := 0, fails := 0 } else s
    else if o == 0x14 then s.onPort p fun k => { k with eq := v.setWidth 12 }
    else s
  else if 0x100000 ≤ off && off < 0x110000 then
    forAll (List.range 4) (fun i => writeRoute (off - 0x100000 + i) (bitsOf n (8 * i) 4)) s
  else s

end Sys2Proof.Machine
end

