-- ==== Sys2Proof/Machine/HubRegs.lean ====
section
/-! DEFINITION. The registers of the hub block (R277, R307, R387, R407, R429, R457 to R459, R484, R510). -/

namespace Sys2Proof.Machine

open Sys2Proof

/-! ### Reading -/

/-- TLR_ADV (R266, R277). An advance that only the journal holds shows WAIT 0 (R436). -/
def advWord (s : State) (x : CtxId) : Nat :=
  let a := s.advOf x
  match a.pending with
  | none => 0
  | some (g, _) =>
    let miss := privMissing s x g
    let j := s.snp x
    let held := j.jEntries != 0 && j.jStep < g
    let wait := if a.evald then 3 else if miss.length != 0 then 1 else if held then 0 else if olderStrip s x a.step.toNat then 2 else 3
    1 + at_ 1 wait 2 + at_ 3 (miss.map fun k => 2 ^ k).sum 8

/-- Privileged values and steps (R277). -/
def privWords (s : State) (x : CtxId) (off : Nat) : Option RVal :=
  let a := s.advOf x
  let i := off / 0x10
  if 0x10 * 16 ≤ off then none
  else regAt ((0x0, .word (vget a.privVal 0 i).toNat) :: wide 0x8 (vget a.privStep 0 i).toNat) (off % 0x10)

def stepWords (s : State) : List (Nat × RVal) :=
  regs [(List.finRange 8).flatMap (fun x => wide (0x800 + 8 * x.val) (s.advOf x).step.toNat),
    (List.finRange 8).map (fun x => (0x840 + 4 * x.val, RVal.word (advWord s x))), [(0x860, .word s.hub.privReject)]]

def loadWords (s : State) (x : CtxId) : List (Nat × RVal) :=
  let l := s.loadOf x
  regs [[(0x00, .word (at_ 0 l.state 2 + at_ 2 l.code 4)), (0x04, .word l.where_)],
    (List.range 8).map (fun w => (0x20 + 4 * w, RVal.word (bitsOf l.digest.toNat (32 * w) 32)))]

def tbWords (s : State) : List (Nat × RVal) :=
  let t := s.hub.tb
  regs [[(0x00, .word s.hub.position), (0x04, .word s.hub.torus.toNat)], wide 0x08 (tbNow s),
    [(0x10, .word (flag 0 t.master + flag 1 t.extRef + at_ 2 t.upPri 5 + at_ 7 t.upBak 5 + flag 12 t.bakEn)),
     (0x14, .word (flag 0 t.locked + flag 1 t.refLost + flag 2 t.holdover + flag 3 t.onBackup + at_ 4 t.alarms 8)),
     (0x18, .word (signedAt 0 32 t.offset)), (0x1C, .word (signedAt 0 32 t.adj))]]

def lsWords (s : State) : List (Nat × RVal) :=
  let l := s.hub.ls
  regs [[(0x00, .word (flag 0 l.enable + flag 1 l.stop + at_ 2 l.ring 4 + at_ 16 l.peer 16)),
     (0x04, .word (flag 0 l.enable + flag 1 l.configOk + flag 2 l.gap + flag 3 l.diverged)),
     (0x08, .word (at_ 0 (satAdd 0xFFFF 0 l.locals.length) 16 + at_ 16 (satAdd 0xFFFF 0 l.peers.length) 16)),
     (0x0C, .word l.divCnt), (0x10, .word l.gapCnt)], wide 0x18 l.matched]

/-- Shards passed in the current or last load (R429). -/
def shardsPassed (w : WgtCtx) : Nat :=
  let mine := fun (l : WLoad) => l.cmd.any fun c => c.loadId == w.loadId
  let l := match w.loading with
    | some k => slotW w k.val
    | none => (w.slots.toList.find? mine).getD WLoad.reset
  (l.shards.filter (·.passed)).length

def wgtWords (s : State) (x : CtxId) : List (Nat × RVal) :=
  let w := s.wgt x
  [(0x00, .word (wgtCtxStatus w)), (0x04, .word (at_ 0 (vget w.refs 0 0) 16 + at_ 16 (vget w.refs 0 1) 16)),
   (0x08, .word (at_ 0 w.loadState 2 + at_ 2 w.loadCode 3 + at_ 5 (shardsPassed w) 17)), (0x0C, .word w.loadId.toNat),
   (0x10, .word (at_ 0 w.retryPred 16 + at_ 16 w.retryHost 16)), (0x14, .word w.turns)]

def wgtModuleWords (s : State) : List (Nat × RVal) :=
  let h := s.hub
  [(0x800, .word (at_ 0 h.recheckInt 16 + flag 16 h.recheckEn)), (0x804, .word (at_ 0 h.recheckFail 16 + at_ 16 h.recheckLate 16)),
   (0x808, .word h.wgtWindow), (0x80C, .word h.wgtDiscard)]

/-- WGT_REGION (R429): slot, die and tier from the offset. -/
def regionWord (s : State) (x : CtxId) (off : Nat) : Nat :=
  let r := (slotW (s.wgt x) (off / 0x80)).regions.getD (off % 0x80 / 8) (0, 0)
  if off % 8 == 0 then r.1 else r.2

def snpWords (s : State) (x : CtxId) : List (Nat × RVal) :=
  let n := s.snp x
  regs [[(0x00, .word (flag 0 n.en + flag 1 n.level + at_ 2 n.phase 2)),
     (0x04, .word (at_ 0 n.state 2 + at_ 2 n.slot.val 1 + flag 3 n.window.isSome + flag 4 n.restored + flag 5 n.gradeChanged + flag 6 n.worn +
        flag 7 n.correlated))],
    wide 0x08 n.seq, wide 0x10 n.bmin,
    [(0x18, .word (if n.level then n.interval else basicInterval (snpBytes s x) s.hub.failRate)), (0x1C, .word (snpBytes s x / 64000)),
     (0x20, .word n.pace), (0x24, .word (at_ 0 n.partner 16 + flag 16 n.partnerEn + at_ 17 n.partnerRes 2)),
     (0x28, .word (at_ 0 n.partner2 16 + flag 16 n.partner2En + at_ 17 n.partner2Res 2)), (0x2C, .word n.rtabCnt),
     (0x38, .word n.areaBase), (0x3C, .word n.areaSize)],
    wide 0x30 n.rtab]

def snpModuleWords (s : State) : List (Nat × RVal) :=
  let h := s.hub
  regs [[(0x00, .word h.failRate), (0x04, .word (at_ 0 h.feedMain 8 + at_ 8 h.feedBkp 8)),
     (0x08, .word (at_ 0 h.riskLevel 2 + at_ 2 h.riskWarn 4 + at_ 6 h.riskAlarm 4)), (0x1C, .word (at_ 0 h.abandoned 16 + at_ 16 h.pageFail 16))],
    (List.range 4).map (fun i => (0x0C + 4 * i, RVal.word (at_ 0 (vget h.riskTh (0, 0) i).1 16 + at_ 16 (vget h.riskTh (0, 0) i).2 16)))]

def jnlWords (s : State) (x : CtxId) : List (Nat × RVal) :=
  let n := s.snp x
  let free := if n.jEntries == 0 then 0 else jnlFree n
  regs [wide 0x00 n.jBase, [(0x08, .word n.jRows), (0x0C, .word n.jEntries), (0x10, .word n.jMirrorPos)], wide 0x14 n.jMirrorBase,
    [(0x1C, .word (flag 0 n.jBusy.isSome + flag 1 n.jHeld.isSome + flag 2 (jnlPressure n) + flag 3 n.jMirrorBad + at_ 4 free 11))],
    wide 0x20 n.jStep, wide 0x28 n.jSeq, [(0x30, .word n.jWaits)]]

/-- THROTTLED: dies whose set runs below the requested step for thermal reasons (R475, R484). -/
def throttled (s : State) : Nat := (allDies.map fun d => b2n (requestedStep s d < (s.die d).thermal) * 2 ^ d.val).sum

def pwrWords (s : State) : List (Nat × RVal) :=
  let p := s.hub.pwr
  regs [[(0x00, .word (flag 0 p.level + at_ 1 p.profile 3 + flag 4 p.spread + flag 5 p.refsel)), (0x04, .word p.budget),
     (0x08, .word p.overhead), (0x0C, .word p.input),
     (0x10, .word (flag 0 p.budgetLow + flag 1 p.overLimit + flag 2 p.expRefused + flag 3 p.extMissing + flag 4 p.trip.isSome + at_ 8 (throttled s) 8)),
     (0x14, .word (at_ 0 p.throttle 8 + at_ 8 p.hyst 4 + at_ 16 p.crit 8)), (0x18, .word (flag 0 p.prefer + at_ 1 p.returnMs 16)),
     (0x1C, .word (flag 0 p.mainOk + flag 1 p.backupOk + flag 2 p.onBackup + flag 3 p.fail.isSome + at_ 16 p.vin 10)),
     (0x20, .word (at_ 0 p.switches 16 + at_ 16 p.droops 16)), (0x24, .word (fields 3 p.expStep.toList))],
    (List.range 8).map (fun d => (0x40 + 4 * d, RVal.word (vget p.expPool 0 d)))]

/-- HL_BOOT.PHASE (R506): after boot, phase 2 ends when no port trains and phase 3 when every UP port has exchanged IDENT. -/
def bootPhase (s : State) : Nat :=
  if s.hub.hl.phase != 1 then s.hub.hl.phase
  else if allPorts.any fun p => (s.port p).state == .training then 1
  else if allPorts.any fun p => (s.port p).state == .up && (s.port p).ident.isNone then 2
  else 3

def hlWords (s : State) : List (Nat × RVal) :=
  let l := s.hub.hl
  let f := s.hub.fuses
  regs [[(0x00, .word (at_ 0 l.malob.code 2 + at_ 16 l.fltLost 16))], wide 0x04 l.inBase,
    [(0x0C, .word l.inRows), (0x10, .word l.inWptr), (0x14, .word l.inRptr)], wide 0x18 l.fltBase,
    [(0x20, .word l.fltRows), (0x24, .word (at_ 0 l.fltRptr 14 + at_ 14 l.fltWptr 14)), (0x28, .word l.fltMask.toNat),
     (0x2C, .word (at_ 0 l.seq 16 + at_ 16 l.hlSeq 16)), (0x30, .word (l.attn.toNat + at_ 8 l.attnMask.toNat 8)),
     (0x34, .word (flag 0 l.bootDone + flag 1 l.copy + flag 2 l.recovery + flag 3 l.conflict + at_ 4 (bootPhase s) 8 + at_ 12 l.late 12)),
     (0x38, .word (fields 8 (f.map.toList.take 4))), (0x3C, .word (fields 8 (f.map.toList.drop 4))),
     (0x40, .word (at_ 0 f.rollback 8 + flag 8 f.variant)), (0x44, .word (flag 0 l.calValid + flag 1 l.calMissing + at_ 2 l.calSelf.toNat 6)),
     (0x48, .word l.window)]]

/-- A context's registers at `0x100` bytes each, `off` within the blocks of eight contexts. -/
def perCtx (off : Nat) : CtxId × Nat := (Fin.ofNat 8 (off / 0x100), off % 0x100)

/-- What a word of the hub block reads as. -/
def hubReg (s : State) (off : Nat) : Option RVal :=
  let b := off / 0x10000
  let o := off % 0x10000
  if b == 2 then if o < 0x800 then privWords s (perCtx o).1 (perCtx o).2 else regAt (stepWords s) o
  else if b == 3 then if o < 0x200 then regAt (loadWords s (Fin.ofNat 8 (o / 0x40))) (o % 0x40) else none
  else if b == 4 then regAt (tbWords s) o
  else if b == 5 then regAt (lsWords s) o
  else if b == 6 then
    if o < 0x800 then regAt (wgtWords s (perCtx o).1) (perCtx o).2
    else if o < 0x1000 then regAt (wgtModuleWords s) o
    else if o < 0x1800 then some (.word (regionWord s (perCtx (o - 0x1000)).1 (o % 0x100))) else none
  else if b == 7 then
    if o < 0x800 then regAt (snpWords s (perCtx o).1) (perCtx o).2
    else if 0x1000 ≤ o then regAt (snpModuleWords s) (o - 0x1000) else none
  else if b == 8 then if o < 0x800 then regAt (jnlWords s (perCtx o).1) (perCtx o).2 else none
  else if b == 9 then regAt (pwrWords s) o
  else if b == 10 then regAt (hlWords s) o
  else none

/-! ### Writing -/

/-- One 32-bit word of a 64-bit value replaced. -/
def putWord (old : Nat) (hi : Bool) (v : Word) : Nat := setBits old (if hi then 32 else 0) 32 v.toNat

/-- TLR_PRIV_VALUE and TLR_PRIV_STEP (R267, R277): the host and the Headland write them. -/
def privRegWrite (w : Writer) (x : CtxId) (off : Nat) (v : Word) (s : State) : State :=
  let i := off / 0x10
  if !byHost w || 16 ≤ i then s
  else if off % 0x10 == 0 then s.onAdv x fun a => { a with privVal := vset a.privVal i v }
  else if off % 0x10 == 8 then
    s.onAdv x fun a => { a with privStep := vset a.privStep i (BitVec.ofNat 64 (putWord (vget a.privStep 0 i).toNat false v)) }
  else if off % 0x10 == 0xC then privArm x i v s
  else s

/-- Links and time base (R371, R381, R384, R387). -/
def tbRegWrite (off : Nat) (v : Word) (s : State) : State :=
  let n := v.toNat
  let kept := hubBitSet s (hubBlock (0x40000 + off))
  if off == 0x00 then s.onHub fun h => { h with position := bitsOf n 0 16 }
  else if off == 0x04 then torusWrite v s
  else if off == 0x10 then
    s.onTb fun t => { t with master := v.getLsbD 0, extRef := v.getLsbD 1, upPri := bitsOf n 2 5, upBak := bitsOf n 7 5, bakEn := v.getLsbD 12 }
  else if off == 0x14 then s.onTb fun t => { t with refLost := w1c kept t.refLost v 1 || (t.refLost && t.holdover) }
  else if off == 0x20 then s.onTb fun t => { t with set := BitVec.ofNat 64 (putWord t.set.toNat false v) }
  else if off == 0x24 then tbSet (BitVec.ofNat 64 (putWord s.hub.tb.set.toNat true v)) s
  else s

/-- Lock-step and weights (R407, R429). -/
def lsRegWrite (off : Nat) (v : Word) (s : State) : State :=
  let kept := hubBitSet s (hubBlock (0x50000 + off))
  if off == 0x00 then lsCfgWrite v s
  else if off == 0x04 then s.onLs fun l => { l with gap := w1c kept l.gap v 2, diverged := w1c kept l.diverged v 3 }
  else s

def wgtRegWrite (off : Nat) (v : Word) (s : State) : State :=
  if off == 0x800 then s.onHub fun h => { h with recheckInt := bitsOf v.toNat 0 16, recheckEn := v.getLsbD 16 }
  else if off == 0x808 then s.onHub fun h => { h with wgtWindow := bitsOf v.toNat 0 16 }
  else s

/-- SNP_CFG (R438, R457): a core of the context may open a copy window and nothing else. -/
def snpCfgWrite (w : Writer) (x : CtxId) (v : Word) (s : State) : State :=
  let s := if byManager w then
      s.onSnp x fun n => { n with en := v.getLsbD 0, level := v.getLsbD 1, phase := bitsOf v.toNat 2 2 } else s
  let s := if v.getLsbD 4 then updEndOp w x s else s
  if v.getLsbD 5 then snapshotNowOp w x s else s

/-- Snapshot registers of context `x` (R457). -/
def snpRegWrite (w : Writer) (x : CtxId) (off : Nat) (v : Word) (s : State) : State :=
  let n := v.toNat
  let kept := hubBitSet s (hubBlock (0x70000 + 0x100 * x.val + off))
  if off == 0x00 then snpCfgWrite w x v s
  else if !byManager w then s
  else if off == 0x04 then s.onSnp x fun k => { k with restored := w1c kept k.restored v 4 }
  else if off == 0x18 then s.onSnp x fun k => if k.level then { k with interval := n } else k
  else if off == 0x20 then s.onSnp x fun k => { k with pace := bitsOf n 0 16 }
  else if off == 0x24 then partnerWrite w x false v s
  else if off == 0x28 then partnerWrite w x true v s
  else if off == 0x2C then s.onSnp x fun k => { k with rtabCnt := bitsOf n 0 11 }
  else if off == 0x30 || off == 0x34 then s.onSnp x fun k => { k with rtab := putWord k.rtab (off == 0x34) v % 2 ^ 48 }
  else if off == 0x38 then s.onSnp x fun k => { k with areaBase := n }
  else if off == 0x3C then s.onSnp x fun k => { k with areaSize := n }
  else s

/-- Module-wide snapshot registers (R458). -/
def snpModuleWrite (off : Nat) (v : Word) (s : State) : State :=
  let n := v.toNat
  if off == 0x00 then s.onHub fun h => { h with failRate := n }
  else if off == 0x04 then s.onHub fun h => { h with feedMain := bitsOf n 0 8, feedBkp := bitsOf n 8 8 }
  else if 0x0C ≤ off && off < 0x1C then
    s.onHub fun h => { h with riskTh := vset h.riskTh ((off - 0x0C) / 4) (bitsOf n 0 16, bitsOf n 16 16) }
  else s

/-- Journal registers (R459). -/
def jnlRegWrite (x : CtxId) (off : Nat) (v : Word) (s : State) : State :=
  let n := v.toNat
  let kept := hubBitSet s (hubBlock (0x80000 + 0x100 * x.val + off))
  let addr := fun (old : Nat) (hi : Bool) => putWord old hi v % 2 ^ 48 / 512 * 512
  s.onSnp x fun k =>
    if off == 0x00 || off == 0x04 then { k with jBase := addr k.jBase (off == 0x04) }
    else if off == 0x08 then { k with jRows := bitsOf n 0 24 }
    else if off == 0x0C then { k with jEntries := bitsOf n 0 11 }
    else if off == 0x10 then { k with jMirrorPos := bitsOf n 0 16 }
    else if off == 0x14 || off == 0x18 then { k with jMirrorBase := addr k.jMirrorBase (off == 0x18) }
    else if off == 0x1C then { k with jMirrorBad := w1c kept k.jMirrorBad v 3 }
    else k

/-- Power registers (R484). -/
def pwrRegWrite (w : Writer) (off : Nat) (v : Word) (s : State) : State :=
  let n := v.toNat
  let kept := hubBitSet s (hubBlock (0x90000 + off))
  if off == 0x00 then
    s.onPwr fun p => { p with level := v.getLsbD 0, profile := bitsOf n 1 3, spread := v.getLsbD 4, refsel := v.getLsbD 5 }
  else if off == 0x04 then budgetWrite w v s
  else if off == 0x10 then s.onPwr fun p => { p with overLimit := w1c kept p.overLimit v 1, expRefused := w1c kept p.expRefused v 2 }
  else if off == 0x14 then s.onPwr fun p => { p with throttle := bitsOf n 0 8, hyst := bitsOf n 8 4, crit := bitsOf n 16 8 }
  else if off == 0x18 then s.onPwr fun p => { p with prefer := v.getLsbD 0, returnMs := bitsOf n 1 16 }
  else if off == 0x24 then s.onPwr fun p => { p with expStep := Vector.ofFn fun d : Fin 8 => bitsOf n (3 * d.val) 3 }
  else if 0x40 ≤ off && off < 0x60 then expPoolWrite w (Fin.ofNat 8 ((off - 0x40) / 4)) v s
  else s

/-- A write of HL_ATTN (R12, R510): a cause that hardware sets in the present nanosecond stays. -/
def attnWrite (v : Word) (s : State) : State :=
  let kept := hubBitSet s (hubBlock 0xA0030)
  s.onHl fun l =>
    { l with attn := BitVec.ofNat 8 ((List.range 8).map fun b => b2n (w1c kept (l.attn.getLsbD b) v b) * 2 ^ b).sum,
             attnMask := (v >>> 8).setWidth 8 }

/-- Host-link registers (R490, R510): the host writes the read pointers and HL_ATTN. -/
def hlRegWrite (w : Writer) (off : Nat) (v : Word) (s : State) : State :=
  let n := v.toNat
  let mine := byManager w || w == .host
  let kept := hubBitSet s (hubBlock (0xA0000 + off))
  if off == 0x14 then if mine then inboxRptr v s else s
  else if off == 0x24 then if mine then faultRptr v s else s
  else if off == 0x30 then if mine then attnWrite v s else s
  else if !byManager w then s
  else s.onHl fun l =>
    if off == 0x04 || off == 0x08 then { l with inBase := putWord l.inBase (off == 0x08) v % 2 ^ 48 / 512 * 512 }
    else if off == 0x0C then { l with inRows := bitsOf n 0 11 }
    else if off == 0x18 || off == 0x1C then { l with fltBase := putWord l.fltBase (off == 0x1C) v % 2 ^ 48 }
    else if off == 0x20 then { l with fltRows := bitsOf n 0 11 }
    else if off == 0x28 then { l with fltMask := v }
    else if off == 0x34 then { l with conflict := w1c kept l.conflict v 3 }
    else if off == 0x48 then { l with window := bitsOf n 0 16 }
    else l

/-- A write of a word of the hub block (R9 to R12): the Headland's, the system manager's through it, and what its chapters name the host
or a core for. -/
def hubRegWrite (w : Writer) (off : Nat) (v : Word) (s : State) : State :=
  let b := off / 0x10000
  let o := off % 0x10000
  if b == 2 then if o < 0x800 then privRegWrite w (perCtx o).1 (perCtx o).2 v s else s
  else if b == 7 && o < 0x800 then snpRegWrite w (perCtx o).1 (perCtx o).2 v s
  else if b == 10 then hlRegWrite w o v s
  else if !byManager w then s
  else if b == 4 then tbRegWrite o v s
  else if b == 5 then lsRegWrite o v s
  else if b == 6 then wgtRegWrite o v s
  else if b == 7 then if 0x1000 ≤ o then snpModuleWrite (o - 0x1000) v s else s
  else if b == 8 then if o < 0x800 then jnlRegWrite (perCtx o).1 (perCtx o).2 v s else s
  else if b == 9 then pwrRegWrite w o v s
  else s

end Sys2Proof.Machine
end

