-- ==== Sys2Proof/Machine/RegOps.lean ====
section
/-! DEFINITION. The control and status range (R125): register reads and writes by module address, with the low-word latch of R80, and the
host's management operations (R486). -/

namespace Sys2Proof.Machine

open Sys2Proof

/-- The block and offset of a control and status address (R125). -/
inductive RegAddr where
  | core (c : CoreId) (off : Nat)
  | die (d : DieId) (off : Nat)
  | gate (g : Nat) (off : Nat)
  | hub (off : Nat)
  deriving DecidableEq, Repr

/-- R125: the block of a module address, at the 32-bit word that holds it. -/
def regBlock (addr : Nat) : Option RegAddr :=
  let a := addr / 4 * 4
  if a < 0xF000000000 then none
  else if a < 0xF000800000 then some (.core (Fin.ofNat 128 ((a - 0xF000000000) / 0x10000)) (a % 0x10000))
  else if a < 0xF001000000 then none
  else if a < 0xF001800000 then some (.die (Fin.ofNat 8 ((a - 0xF001000000) / 0x100000)) (a % 0x100000))
  else if a < 0xF040000000 then none
  else if a < 0xF044000000 then some (.gate ((a - 0xF040000000) / 0x1000000) (a % 0x1000000))
  else if a < 0xF080000000 then none
  else if a < 0xF100000000 then some (.hub (a - 0xF080000000))
  else none

/-- The register word at a module address; `reader` is the core whose control core reads, if one does. -/
def regVal (reader : Option CoreId) (addr : Nat) (s : State) : Option RVal :=
  match regBlock addr with
  | some (.core c off) => coreReg s c (reader == some c) off
  | some (.die d off) => dieReg s d off
  | some (.gate g off) => gateReg s g off
  | some (.hub off) => hubReg s off
  | none => none

/-- The latched high word whose low word lies at `lo`. -/
def latched (s : State) (lo : Nat) : Option Word := (s.hub.latches.find? fun x => x.1 == lo).map (·.2)

/-- Reading the low word of a 64-bit register latches its high word (R80). -/
def latch (lo : Nat) (v : Word) (s : State) : State :=
  s.onHub fun h => { h with latches := (lo, v) :: h.latches.filter fun x => x.1 != lo }

/-- A read of a register word: a word without a register reads as 0 (R11); a high word reads as its latch holds it (R80). -/
def regRead (reader : Option CoreId) (addr : Nat) (s : State) : Word × State :=
  let a := addr / 4 * 4
  match regVal reader addr s with
  | some (.word n) => (BitVec.ofNat 32 n, s)
  | some (.lo n) => (BitVec.ofNat 32 n, latch a (BitVec.ofNat 32 (n / 2 ^ 32)) s)
  | some (.hi n) => ((latched s (a - 4)).getD (BitVec.ofNat 32 (n / 2 ^ 32)), s)
  | none => (0, s)

/-- A write of a register word (R9 to R12); without a register it is ignored (R10). -/
def regWrite (w : Writer) (addr : Nat) (v : Word) (s : State) : State :=
  match regBlock addr with
  | some (.core c off) => coreRegWrite w c off v s
  | some (.die d off) => dieRegWrite w d off v s
  | some (.gate g off) => gateRegWrite w g off v s
  | some (.hub off) => hubRegWrite w off v s
  | none => s

/-- An access to a core block comes in wall cycle `t` of that core; the other blocks count no core's cycles. -/
def atCycle (addr t : Nat) (s : State) : State :=
  match regBlock addr with
  | some (.core c _) => advance c t s
  | some (.die _ _) | some (.gate _ _) | some (.hub _) | none => s

/-- REGISTER_WRITE (R9 to R12, R24). -/
def execRegisterWrite (w : Writer) (addr : Timed Nat) (v : Word) (s : State) : Answer :=
  whenDue s.hub.pwr.alwaysOn (fun s => regWrite w addr.of v (atCycle addr.of addr.t s)) s

/-- A response to a management operation: its address and TAG, with `data` (R486). -/
def hostResponse (op : BitVec 128) (data : Word) : BitVec 128 :=
  BitVec.ofNat 128 (setBits (setBits op.toNat 0 2 3) 50 32 data.toNat % 2 ^ 106)

/-- A management operation of the host (R486): a read or a write of a register word, and its response. -/
def hostRegOp (t : Nat) (op : BitVec 128) (s : State) : State :=
  let n := op.toNat
  let addr := bitsOf n 2 48 * 4
  let s := atCycle addr t s
  let data := BitVec.ofNat 32 (bitsOf n 50 32)
  let respond := fun (v : Word) (s : State) => s.onHl fun l => { l with responses := l.responses ++ [hostResponse op v] }
  match bitsOf n 0 2 with
  | 1 => let r := regRead none addr s
         respond r.1 r.2
  | 2 => respond data (regWrite .host addr data s)
  | _ => s

/-- HOST_REGISTER_OP (R486). -/
def execHostRegisterOp (op : Timed (BitVec 128)) (s : State) : Answer := whenDue (malobUp s) (hostRegOp op.t op.of) s

end Sys2Proof.Machine
end

