-- ==== Sys2Proof/Machine/CcExec.lean ====
section
/-! DEFINITION. The control core's RV32IMC instructions (R308 to R313): fetch, the compressed forms, arithmetic, loads and stores over
R312's map, the CSRs, and the custom-0 instructions of R317. -/

namespace Sys2Proof.Machine

open Sys2Proof

/-! ### Encodings of the published specification -/

/-- An R-type word. -/
def encR (f7 rs2 rs1 f3 rd op : Nat) : Nat := at_ 0 op 7 + at_ 7 rd 5 + at_ 12 f3 3 + at_ 15 rs1 5 + at_ 20 rs2 5 + at_ 25 f7 7
/-- An I-type word; `imm` is taken modulo 2^12. -/
def encI (imm rs1 f3 rd op : Nat) : Nat := at_ 0 op 7 + at_ 7 rd 5 + at_ 12 f3 3 + at_ 15 rs1 5 + at_ 20 imm 12
/-- An S-type word. -/
def encS (imm rs2 rs1 f3 : Nat) : Nat := encR (bitsOf imm 5 7) rs2 rs1 f3 (bitsOf imm 0 5) 0x23
/-- A B-type word; `imm` is an offset modulo 2^13. -/
def encB (imm rs2 rs1 f3 : Nat) : Nat :=
  encR (bitsOf imm 5 6 + at_ 6 (bitsOf imm 12 1) 1) rs2 rs1 f3 (bitsOf imm 1 4 * 2 + bitsOf imm 11 1) 0x63
/-- A jal word; `imm` is an offset modulo 2^21. -/
def encJ (imm rd : Nat) : Nat :=
  at_ 0 0x6F 7 + at_ 7 rd 5 + at_ 12 (bitsOf imm 12 8) 8 + at_ 20 (bitsOf imm 11 1) 1 + at_ 21 (bitsOf imm 1 10) 10 + at_ 31 (bitsOf imm 20 1) 1
/-- A lui word. -/
def encLui (imm rd : Nat) : Nat := at_ 0 0x37 7 + at_ 7 rd 5 + at_ 12 imm 20

/-- `n`, `w` bits wide, sign-extended to 32 bits. -/
def sx (w n : Nat) : Nat := wrap 32 (signedOf w n)

/-! ### Compressed instructions -/

/-- The two registers x8..x15 of a compressed word. -/
def cRd (h : Nat) : Nat := 8 + bitsOf h 2 3
def cRs (h : Nat) : Nat := 8 + bitsOf h 7 3
/-- The 6-bit immediate of bits 12 and [6:2]. -/
def cImm6 (h : Nat) : Nat := bitsOf h 2 5 + at_ 5 (bitsOf h 12 1) 1
/-- The offset of c.lw and c.sw. -/
def cOff (h : Nat) : Nat := at_ 2 (bitsOf h 6 1) 1 + at_ 3 (bitsOf h 10 3) 3 + at_ 6 (bitsOf h 5 1) 1
/-- The jump offset of c.j and c.jal, sign-extended. -/
def cJump (h : Nat) : Nat :=
  sx 12 (at_ 1 (bitsOf h 3 3) 3 + at_ 4 (bitsOf h 11 1) 1 + at_ 5 (bitsOf h 2 1) 1 + at_ 6 (bitsOf h 7 1) 1 + at_ 7 (bitsOf h 6 1) 1 +
    at_ 8 (bitsOf h 9 2) 2 + at_ 10 (bitsOf h 8 1) 1 + at_ 11 (bitsOf h 12 1) 1)
/-- The branch offset of c.beqz and c.bnez, sign-extended. -/
def cBranch (h : Nat) : Nat :=
  sx 9 (at_ 1 (bitsOf h 3 2) 2 + at_ 3 (bitsOf h 10 2) 2 + at_ 5 (bitsOf h 2 1) 1 + at_ 6 (bitsOf h 5 2) 2 + at_ 8 (bitsOf h 12 1) 1)

/-- Quadrant 0. -/
def expand0 (h : Nat) : Option Nat :=
  match bitsOf h 13 3 with
  | 0 =>
    let imm := at_ 2 (bitsOf h 6 1) 1 + at_ 3 (bitsOf h 5 1) 1 + at_ 4 (bitsOf h 11 2) 2 + at_ 6 (bitsOf h 7 4) 4
    if imm == 0 then none else some (encI imm 2 0 (cRd h) 0x13)
  | 2 => some (encI (cOff h) (cRs h) 2 (cRd h) 0x03)
  | 6 => some (encS (cOff h) (cRd h) (cRs h) 2)
  | _ => none

/-- Quadrant 1, funct3 4: shifts, c.andi and the register forms. -/
def expandAlu (h : Nat) : Option Nat :=
  let r := cRs h
  let wide := bitsOf h 12 1 == 1
  match bitsOf h 10 2 with
  | 0 => if wide then none else some (encR 0 (bitsOf h 2 5) r 5 r 0x13)
  | 1 => if wide then none else some (encR 0x20 (bitsOf h 2 5) r 5 r 0x13)
  | 2 => some (encI (sx 6 (cImm6 h)) r 7 r 0x13)
  | _ =>
    if wide then none
    else match bitsOf h 5 2 with
      | 0 => some (encR 0x20 (cRd h) r 0 r 0x33)
      | 1 => some (encR 0 (cRd h) r 4 r 0x33)
      | 2 => some (encR 0 (cRd h) r 6 r 0x33)
      | _ => some (encR 0 (cRd h) r 7 r 0x33)

/-- Quadrant 1. -/
def expand1 (h : Nat) : Option Nat :=
  let rd := bitsOf h 7 5
  match bitsOf h 13 3 with
  | 0 => some (encI (sx 6 (cImm6 h)) rd 0 rd 0x13)
  | 1 => some (encJ (cJump h) 1)
  | 2 => some (encI (sx 6 (cImm6 h)) 0 0 rd 0x13)
  | 3 =>
    if cImm6 h == 0 then none
    else if rd == 2 then
      let imm := at_ 4 (bitsOf h 6 1) 1 + at_ 5 (bitsOf h 2 1) 1 + at_ 6 (bitsOf h 5 1) 1 + at_ 7 (bitsOf h 3 2) 2 + at_ 9 (bitsOf h 12 1) 1
      some (encI (sx 10 imm) 2 0 2 0x13)
    else some (encLui (sx 6 (cImm6 h)) rd)
  | 4 => expandAlu h
  | 5 => some (encJ (cJump h) 0)
  | 6 => some (encB (cBranch h) 0 (cRs h) 0)
  | _ => some (encB (cBranch h) 0 (cRs h) 1)

/-- Quadrant 2. -/
def expand2 (h : Nat) : Option Nat :=
  let rd := bitsOf h 7 5
  let rs2 := bitsOf h 2 5
  let b12 := bitsOf h 12 1 == 1
  match bitsOf h 13 3 with
  | 0 => if b12 then none else some (encR 0 rs2 rd 1 rd 0x13)
  | 2 =>
    if rd == 0 then none
    else some (encI (at_ 2 (bitsOf h 4 3) 3 + at_ 5 (bitsOf h 12 1) 1 + at_ 6 (bitsOf h 2 2) 2) 2 2 rd 0x03)
  | 4 =>
    if rs2 == 0 then
      if rd == 0 then if b12 then some 0x00100073 else none
      else some (encI 0 rd 0 (if b12 then 1 else 0) 0x67)
    else some (encR 0 rs2 (if b12 then rd else 0) 0 rd 0x33)
  | 6 => some (encS (at_ 2 (bitsOf h 9 4) 4 + at_ 6 (bitsOf h 7 2) 2) rs2 2 2)
  | _ => none

/-- The 32-bit instruction that a compressed word stands for; none for a reserved word and for those of extensions the core lacks. -/
def expandC (h : Nat) : Option Nat :=
  match h % 4 with
  | 0 => expand0 h
  | 1 => expand1 h
  | _ => expand2 h

/-! ### Arithmetic -/

/-- The register and immediate operations; `alt` selects sub and the arithmetic shift. -/
def aluOp (f3 : Nat) (alt : Bool) (a b : Word) : Word :=
  match f3 with
  | 0 => if alt then a - b else a + b
  | 1 => a <<< (b.toNat % 32)
  | 2 => if a.toInt < b.toInt then 1 else 0
  | 3 => if a.toNat < b.toNat then 1 else 0
  | 4 => a ^^^ b
  | 5 => if alt then a.sshiftRight (b.toNat % 32) else a >>> (b.toNat % 32)
  | 6 => a ||| b
  | _ => a &&& b

/-- The M extension: a divisor of 0 gives all ones and the dividend; the overflowing quotient wraps. -/
def mulOp (f3 : Nat) (a b : Word) : Word :=
  match f3 with
  | 0 => a * b
  | 1 => BitVec.ofInt 32 (a.toInt * b.toInt / 2 ^ 32)
  | 2 => BitVec.ofInt 32 (a.toInt * b.toNat / 2 ^ 32)
  | 3 => BitVec.ofNat 32 (a.toNat * b.toNat / 2 ^ 32)
  | 4 => if b == 0 then BitVec.ofNat 32 0xFFFFFFFF else BitVec.ofInt 32 (a.toInt.tdiv b.toInt)
  | 5 => if b == 0 then BitVec.ofNat 32 0xFFFFFFFF else BitVec.ofNat 32 (a.toNat / b.toNat)
  | 6 => if b == 0 then a else BitVec.ofInt 32 (a.toInt.tmod b.toInt)
  | _ => if b == 0 then a else BitVec.ofNat 32 (a.toNat % b.toNat)

/-- Is the branch taken; none for a reserved funct3. -/
def branchTaken (f3 : Nat) (a b : Word) : Option Bool :=
  match f3 with
  | 0 => some (a == b)
  | 1 => some (a != b)
  | 4 => some (decide (a.toInt < b.toInt))
  | 5 => some (decide (b.toInt ≤ a.toInt))
  | 6 => some (decide (a.toNat < b.toNat))
  | 7 => some (decide (b.toNat ≤ a.toNat))
  | _ => none

/-! ### Control-core memory (R312, R313) -/

/-- Module address of the own core block and of the own die block. -/
def coreBlockAt (c : CoreId) (off : Nat) : Nat := 0xF000000000 + c.val * 0x10000 + off
def dieBlockAt (c : CoreId) (off : Nat) : Nat := 0xF001000000 + (dieOf c).val * 0x100000 + off

/-- What lies at a byte address of the control core (R312). -/
inductive CcPlace where
  | imem | dmem | win | coreBlock | dieBlock | nothing
  deriving DecidableEq, Repr

def ccPlace (a : Nat) : CcPlace :=
  if a < 0x10000 then .imem
  else if a < 0x20000 then .dmem
  else if a < 0x20200 then .win
  else if a < 0x30000 then .nothing
  else if a < 0x40000 then .coreBlock
  else if a < 0x100000 then .nothing
  else if a < 0x200000 then .dieBlock
  else .nothing

/-- The instruction at the program counter, `len` bytes long, retires after `n` cycles. -/
def rvNext (c : CoreId) (len n : Nat) (s : State) : State := ccRetire c ((s.cc c).pc + BitVec.ofNat 32 len) n s

/-- The value of a load of `size` bytes, extended as funct3 says. -/
def loadExt (f3 size n : Nat) : Nat := if f3 < 4 then sx (8 * size) n else n

/-- A load of `size` bytes at `a` into `rd` (R310, R312, R313). -/
def rvLoad (c : CoreId) (data : Ecc) (len f3 size rd a : Nat) (s : State) : State :=
  let done := fun (n cycles : Nat) (s : State) =>
    rvNext c len cycles (s.onCc c (regSet rd (BitVec.ofNat 32 (loadExt f3 size n))))
  let mem := fun (n : Nat) =>
    let s := ccMemEcc c data s
    if eccBad data then ccTrap c 5 (BitVec.ofNat 32 a) s else done n 2 s
  let reg := fun (addr : Nat) =>
    let r := regRead (some c) addr s
    done r.1.toNat 4 r.2
  if a % size != 0 then ccTrap c 4 (BitVec.ofNat 32 a) s
  else match ccPlace a with
    | .imem => mem (readCells (s.cc c).imem a size)
    | .dmem => mem (readCells (s.cc c).dmem (a - 0x10000) size)
    | .win => done (Row.field (s.cc c).win (a - 0x20000) size) 2 s
    | .coreBlock => if size == 4 then reg (coreBlockAt c (a - 0x30000)) else ccTrap c 5 (BitVec.ofNat 32 a) s
    | .dieBlock => if size == 4 then reg (dieBlockAt c (a - 0x100000)) else ccTrap c 5 (BitVec.ofNat 32 a) s
    | .nothing => ccTrap c 5 (BitVec.ofNat 32 a) s

/-- A store of the low `size` bytes of `v` at `a` (R310, R312). -/
def rvStore (c : CoreId) (len size a : Nat) (v : Word) (s : State) : State :=
  if a % size != 0 then ccTrap c 6 (BitVec.ofNat 32 a) s
  else match ccPlace a with
    | .dmem => rvNext c len 2 (s.onCc c fun k => { k with dmem := writeCells k.dmem (a - 0x10000) (leBytes size v.toNat) })
    | .win => rvNext c len 2 (s.onCc c fun k => { k with win := Row.put k.win (a - 0x20000) size v.toNat })
    | .coreBlock =>
      if size == 4 then rvNext c len 4 (regWrite (.core c) (coreBlockAt c (a - 0x30000)) v s) else ccTrap c 7 (BitVec.ofNat 32 a) s
    | .dieBlock => rvNext c len 4 s
    | .imem | .nothing => ccTrap c 7 (BitVec.ofNat 32 a) s

/-! ### CSRs (R308) -/

/-- misa: RV32 with C, I and M. -/
def misaValue : Word := 0x40001104

/-- A CSR's value; none for a CSR the core lacks. -/
def csrGet (s : State) (c : CoreId) (n : Nat) : Option Word :=
  let k := s.cc c
  if n == 0xB00 then some (BitVec.ofNat 32 (ccCycle s c))
  else if n == 0xB80 then some (BitVec.ofNat 32 (ccCycle s c / 2 ^ 32))
  else if n == 0xB02 then some (BitVec.ofNat 32 k.minstret.toNat)
  else if n == 0xB82 then some (BitVec.ofNat 32 (k.minstret.toNat / 2 ^ 32))
  else if n == 0xF14 then some (BitVec.ofNat 32 c.val)
  else if n == 0x301 then some misaValue
  else if n == 0x341 then some k.mepc
  else if n == 0x342 then some k.mcause
  else if n == 0x343 then some k.mtval
  else none

/-- A 64-bit counter whose low or high word is written with `v`, as the next instruction reads it. -/
def csrHalf (next : BitVec 64) (hi : Bool) (v : Word) : BitVec 64 :=
  BitVec.ofNat 64 (setBits next.toNat (if hi then 32 else 0) 32 v.toNat)

/-- A CSR is written by the instruction that issues now: a counter holds the value for the instruction that follows. -/
def csrSet (c : CoreId) (n : Nat) (v : Word) (s : State) : State :=
  let cyc := BitVec.ofNat 64 (ccCyc (s.sc c) + 1)
  s.onCc c fun k =>
    if n == 0xB00 || n == 0xB80 then { k with mcycle := csrHalf (k.mcycle + cyc) (n == 0xB80) v - cyc }
    else if n == 0xB02 || n == 0xB82 then { k with minstret := csrHalf (k.minstret + 1) (n == 0xB82) v - 1 }
    else if n == 0x341 then { k with mepc := v &&& 0xFFFFFFFE#32 }
    else if n == 0x342 then { k with mcause := v }
    else if n == 0x343 then { k with mtval := v }
    else k

/-- A CSR instruction: funct3 1 to 3 with a register, 5 to 7 with a 5-bit immediate. A write of a read-only CSR is illegal. -/
def rvCsr (c : CoreId) (raw : Word) (len f3 rd rs1 n : Nat) (s : State) : State :=
  match csrGet s c n with
  | none => ccIllegal c raw s
  | some old =>
    let src := if f3 < 4 then regGet (s.cc c) rs1 else BitVec.ofNat 32 rs1
    let writes := f3 % 4 == 1 || rs1 != 0
    let new := match f3 % 4 with
      | 1 => src
      | 2 => old ||| src
      | _ => old &&& ~~~src
    if writes && n / 0x400 == 3 then ccIllegal c raw s
    else
      let s := if writes then csrSet c n new s else s
      rvNext c len 1 (s.onCc c (regSet rd old))

/-! ### Execution -/

/-- The custom-0 instructions (R317); a combination that its table does not list is none. -/
def ctlInst (c : CoreId) (data : Ecc) (f3 f7 : Nat) (rd rs1 rs2 : Reg) : Option (State → State) :=
  match f3, f7 with
  | 0, 0 => some (instStage c rd rs1)
  | 0, 1 => some (instLaunch c rd)
  | 0, 2 => some (instUnstage c rd)
  | 1, 0 => some (instWfe c rd rs1)
  | 1, 1 => some (instHret c)
  | 1, 2 => some (instFclr c)
  | 2, 0 => some (instSum c rd rs1)
  | 3, 0 => some (instStkrd c rd rs1)
  | 3, 1 => some (instStkadd c rs1 rs2)
  | 3, 2 => some (instStkclr c rd rs1)
  | 4, 0 => some (instHset c rd rs1 rs2 data)
  | 4, 1 => some (instHrel c rs1)
  | 4, 2 => some (instHalloc c rd rs1 rs2)
  | 5, 0 => some (instSend c rd rs1)
  | 5, 1 => some (instRing c rd rs1 rs2)
  | 6, 0 => some (instWrd c rd rs1)
  | 6, 1 => some (instWwr c rs1)
  | 7, 0 => some (instFpop c rd rs1)
  | _, _ => none

/-- An operation with a result retires. -/
def rvResult (c : CoreId) (len n rd : Nat) (v : Word) (s : State) : State := rvNext c len n (s.onCc c (regSet rd v))

/-- A jump to `target` with the return address in `rd`. -/
def rvJump (c : CoreId) (len rd : Nat) (target : Word) (s : State) : State :=
  let pc := (s.cc c).pc
  ccRetire c (target &&& 0xFFFFFFFE#32) 2 (s.onCc c (regSet rd (pc + BitVec.ofNat 32 len)))

/-- The I-type immediate of a word. -/
def immI (w : Nat) : Word := BitVec.ofNat 32 (sx 12 (bitsOf w 20 12))
/-- The S-type immediate. -/
def immS (w : Nat) : Word := BitVec.ofNat 32 (sx 12 (bitsOf w 7 5 + at_ 5 (bitsOf w 25 7) 7))
/-- The B-type immediate. -/
def immB (w : Nat) : Word :=
  BitVec.ofNat 32 (sx 13 (at_ 1 (bitsOf w 8 4) 4 + at_ 5 (bitsOf w 25 6) 6 + at_ 11 (bitsOf w 7 1) 1 + at_ 12 (bitsOf w 31 1) 1))
/-- The J-type immediate. -/
def immJ (w : Nat) : Word :=
  BitVec.ofNat 32 (sx 21 (at_ 1 (bitsOf w 21 10) 10 + at_ 11 (bitsOf w 20 1) 1 + at_ 12 (bitsOf w 12 8) 8 + at_ 20 (bitsOf w 31 1) 1))
/-- The U-type immediate. -/
def immU (w : Nat) : Word := BitVec.ofNat 32 (at_ 12 (bitsOf w 12 20) 20)

/-- System instructions: ecall, ebreak and the CSR accesses. -/
def rvSystem (c : CoreId) (raw : Word) (len w : Nat) (s : State) : State :=
  let f3 := bitsOf w 12 3
  if w == 0x00000073 then ccTrap c 11 0 s
  else if w == 0x00100073 then ccTrap c 3 (s.cc c).pc s
  else if f3 % 4 == 0 then ccIllegal c raw s
  else rvCsr c raw len f3 (bitsOf w 7 5) (bitsOf w 15 5) (bitsOf w 20 12) s

/-- The 32-bit form `w` of the instruction at the program counter, whose own bits are `raw` and whose length is `len` bytes, executes. -/
def rvExec (c : CoreId) (data : Ecc) (raw : Word) (len w : Nat) (s : State) : State :=
  let k := s.cc c
  let rd := bitsOf w 7 5
  let f3 := bitsOf w 12 3
  let f7 := bitsOf w 25 7
  let a := regGet k (bitsOf w 15 5)
  let b := regGet k (bitsOf w 20 5)
  match bitsOf w 0 7 with
  | 0x37 => rvResult c len 1 rd (immU w) s
  | 0x17 => rvResult c len 1 rd (k.pc + immU w) s
  | 0x6F => rvJump c len rd (k.pc + immJ w) s
  | 0x67 => if f3 == 0 then rvJump c len rd (a + immI w) s else ccIllegal c raw s
  | 0x63 =>
    match branchTaken f3 a b with
    | some true => ccRetire c (k.pc + immB w) 2 s
    | some false => rvNext c len 1 s
    | none => ccIllegal c raw s
  | 0x03 =>
    if f3 == 3 || 5 < f3 then ccIllegal c raw s
    else rvLoad c data len f3 (2 ^ (f3 % 4)) rd (a + immI w).toNat s
  | 0x23 => if 2 < f3 then ccIllegal c raw s else rvStore c len (2 ^ f3) (a + immS w).toNat b s
  | 0x13 =>
    if (f3 == 1 && f7 != 0) || (f3 == 5 && f7 != 0 && f7 != 0x20) then ccIllegal c raw s
    else rvResult c len 1 rd (aluOp f3 (f3 == 5 && f7 == 0x20) a (immI w)) s
  | 0x33 =>
    if f7 == 1 then rvResult c len (if f3 < 4 then 2 else 34) rd (mulOp f3 a b) s
    else if f7 == 0 || (f7 == 0x20 && (f3 == 0 || f3 == 5)) then rvResult c len 1 rd (aluOp f3 (f7 == 0x20) a b) s
    else ccIllegal c raw s
  | 0x0F => if f3 == 0 then rvNext c len 1 s else ccIllegal c raw s
  | 0x73 => rvSystem c raw len w s
  | 0x0B =>
    match ctlInst c data f3 f7 (Fin.ofNat 32 rd) (Fin.ofNat 32 (bitsOf w 15 5)) (Fin.ofNat 32 (bitsOf w 20 5)) with
    | some f => f s
    | none => ccIllegal c raw s
  | _ => ccIllegal c raw s

/-- The instruction at the program counter is fetched and executes (R308 to R313). -/
def rvStep (c : CoreId) (fetch data : Ecc) (s : State) : State :=
  let pc := (s.cc c).pc.toNat
  if 0x10000 ≤ pc then ccTrap c 1 (s.cc c).pc s
  else
    let s := ccMemEcc c fetch s
    let h := readCells (s.cc c).imem pc 2
    if eccBad fetch then ccTrap c 1 (s.cc c).pc s
    else if h % 4 != 3 then
      match expandC h with
      | some w => rvExec c data (BitVec.ofNat 32 h) 2 w s
      | none => ccIllegal c (BitVec.ofNat 32 h) s
    else if 0x10000 ≤ pc + 2 then ccTrap c 1 (BitVec.ofNat 32 (pc + 2)) s
    else
      let w := readCells (s.cc c).imem pc 4
      rvExec c data (BitVec.ofNat 32 w) 4 w s

/-- CC_INSTRUCTION (R308 to R313). `fetch` and `data` are what the instruction's fetch and its load meet. -/
def execCcInstruction (c : CoreId) (t : Nat) (fetch data : Ecc) (s : State) : Answer := ccCommand c t (rvStep c fetch data) s

end Sys2Proof.Machine
end

