-- ==== Sys2Proof/Machine/Dispatch.lean ====
section
/-! DEFINITION. The dispatch of the commands to their meanings: one arm per row of spec/opcode_table.json. -/

namespace Sys2Proof.Machine

open Sys2Proof

def exec (i : Instr) (s : State) : Host.Outcome State Fault Refusal :=
  match i with
  | .ctlStage c t rd rs1 => Sys2Proof.Machine.execCtlStage c t rd rs1 s
  | .stagingRowRead c t ecc => Sys2Proof.Machine.execStagingRowRead c t ecc s
  | .stagingComplete c t => Sys2Proof.Machine.execStagingComplete c t s
  | .ctlLaunch c t rd => Sys2Proof.Machine.execCtlLaunch c t rd s
  | .ctlUnstage c t rd => Sys2Proof.Machine.execCtlUnstage c t rd s
  | .pageInComplete c t h => Sys2Proof.Machine.execPageInComplete c t h s
  | .creditGrant d t => Sys2Proof.Machine.execCreditGrant d t s
  | .wakeBegin c t => Sys2Proof.Machine.execWakeBegin c t s
  | .wakeComplete c t drillOk => Sys2Proof.Machine.execWakeComplete c t drillOk s
  | .launchReady c t => Sys2Proof.Machine.execLaunchReady c t s
  | .stripStart c t => Sys2Proof.Machine.execStripStart c t s
  | .stripEnd c t => Sys2Proof.Machine.execStripEnd c t s
  | .wait c q t => Sys2Proof.Machine.execWait c q t s
  | .stkSet c q t => Sys2Proof.Machine.execStkSet c q t s
  | .stkWait c q t => Sys2Proof.Machine.execStkWait c q t s
  | .hqPush c q t => Sys2Proof.Machine.execHqPush c q t s
  | .hqPop c q t => Sys2Proof.Machine.execHqPop c q t s
  | .stallResume c t => Sys2Proof.Machine.execStallResume c t s
  | .creditLend c t => Sys2Proof.Machine.execCreditLend c t s
  | .reclaimGrant c t => Sys2Proof.Machine.execReclaimGrant c t s
  | .reclaimComplete c t => Sys2Proof.Machine.execReclaimComplete c t s
  | .creditIdleReturn c t => Sys2Proof.Machine.execCreditIdleReturn c t s
  | .powerGateTimeout c t => Sys2Proof.Machine.execPowerGateTimeout c t s
  | .watchdogFault c t => Sys2Proof.Machine.execWatchdogFault c t s
  | .deadlineMiss c t => Sys2Proof.Machine.execDeadlineMiss c t s
  | .instructionComplete c q t => Sys2Proof.Machine.execInstructionComplete c q t s
  | .lateArrival c t k => Sys2Proof.Machine.execLateArrival c t k s
  | .heldArrivalRetry c t q => Sys2Proof.Machine.execHeldArrivalRetry c t q s
  | .inboundRowArrival c t k ecc => Sys2Proof.Machine.execInboundRowArrival c t k ecc s
  | .plotRowLanding c t => Sys2Proof.Machine.execPlotRowLanding c t s
  | .hopperRowLanding c t portB => Sys2Proof.Machine.execHopperRowLanding c t portB s
  | .commonsBankAccess c t k waited ecc => Sys2Proof.Machine.execCommonsBankAccess c t k waited ecc s
  | .commonsRowLands c t k => Sys2Proof.Machine.execCommonsRowLands c t k s
  | .commonsInboundRowPerform c t => Sys2Proof.Machine.execCommonsInboundRowPerform c t s
  | .scrubRead u t ecc => Sys2Proof.Machine.execScrubRead u t ecc s
  | .scrubWriteBack u t => Sys2Proof.Machine.execScrubWriteBack u t s
  | .pageOutComplete d t k => Sys2Proof.Machine.execPageOutComplete d t k s
  | .gateArrival d t g => Sys2Proof.Machine.execGateArrival d t g s
  | .ungateArrival d t g => Sys2Proof.Machine.execUngateArrival d t g s
  | .plgMm c t => Sys2Proof.Machine.execPlgMm c t s
  | .plgSqd c t => Sys2Proof.Machine.execPlgSqd c t s
  | .plgAbd c t => Sys2Proof.Machine.execPlgAbd c t s
  | .plgMinplus c t => Sys2Proof.Machine.execPlgMinplus c t s
  | .plgMaxplus c t => Sys2Proof.Machine.execPlgMaxplus c t s
  | .plgXorpop c t => Sys2Proof.Machine.execPlgXorpop c t s
  | .plgCmpcnt c t => Sys2Proof.Machine.execPlgCmpcnt c t s
  | .plgExecutionStart c t err => Sys2Proof.Machine.execPlgExecutionStart c t err s
  | .plgFeedRelease c t => Sys2Proof.Machine.execPlgFeedRelease c t s
  | .plgDrainRow c t => Sys2Proof.Machine.execPlgDrainRow c t s
  | .plgCounterClear c => Sys2Proof.Machine.execPlgCounterClear c s
  | .hrwChain c t err => Sys2Proof.Machine.execHrwChain c t err s
  | .hrwBload c t err => Sys2Proof.Machine.execHrwBload c t err s
  | .hrwWriteRow c t => Sys2Proof.Machine.execHrwWriteRow c t s
  | .hrwCounterClear c => Sys2Proof.Machine.execHrwCounterClear c s
  | .hrwSumClear c => Sys2Proof.Machine.execHrwSumClear c s
  | .tlrUpd c t err => Sys2Proof.Machine.execTlrUpd c t err s
  | .tlrRecordWrite c t => Sys2Proof.Machine.execTlrRecordWrite c t s
  | .tlrRootfin c t => Sys2Proof.Machine.execTlrRootfin c t s
  | .tlrCounterClear c => Sys2Proof.Machine.execTlrCounterClear c s
  | .stepAdvance src x target => Sys2Proof.Machine.execStepAdvance src x target s
  | .stepAdvanceEvaluate x => Sys2Proof.Machine.execStepAdvanceEvaluate x s
  | .stepAdvanceCommit x => Sys2Proof.Machine.execStepAdvanceCommit x s
  | .privStepArm w x k par hi => Sys2Proof.Machine.execPrivStepArm w x k par hi s
  | .xfFill c t err => Sys2Proof.Machine.execXfFill c t err s
  | .xfMove c t err => Sys2Proof.Machine.execXfMove c t err s
  | .xfGate c t => Sys2Proof.Machine.execXfGate c t s
  | .xfUngate c t => Sys2Proof.Machine.execXfUngate c t s
  | .traceRowWrite c t => Sys2Proof.Machine.execTraceRowWrite c t s
  | .traceEnable c v => Sys2Proof.Machine.execTraceEnable c v s
  | .traceDropClear c => Sys2Proof.Machine.execTraceDropClear c s
  | .loadImage src x addr => Sys2Proof.Machine.execLoadImage src x addr s
  | .loadCheckComplete x => Sys2Proof.Machine.execLoadCheckComplete x s
  | .ccInstruction c t fetch data => Sys2Proof.Machine.execCcInstruction c t fetch data s
  | .ccStart c pc => Sys2Proof.Machine.execCcStart c pc s
  | .ccHalt c => Sys2Proof.Machine.execCcHalt c s
  | .ctlWfe c t rd rs1 => Sys2Proof.Machine.execCtlWfe c t rd rs1 s
  | .ctlHret c t => Sys2Proof.Machine.execCtlHret c t s
  | .ctlFclr c t => Sys2Proof.Machine.execCtlFclr c t s
  | .ctlSum c t rd rs1 => Sys2Proof.Machine.execCtlSum c t rd rs1 s
  | .ctlStkrd c t rd rs1 => Sys2Proof.Machine.execCtlStkrd c t rd rs1 s
  | .ctlStkadd c t rs1 rs2 => Sys2Proof.Machine.execCtlStkadd c t rs1 rs2 s
  | .ctlStkclr c t rd rs1 => Sys2Proof.Machine.execCtlStkclr c t rd rs1 s
  | .ctlHset c t rd rs1 rs2 => Sys2Proof.Machine.execCtlHset c t rd rs1 rs2 s
  | .ctlHrel c t rs1 => Sys2Proof.Machine.execCtlHrel c t rs1 s
  | .ctlHalloc c t rd rs1 rs2 => Sys2Proof.Machine.execCtlHalloc c t rd rs1 rs2 s
  | .allocatorAnswer d t => Sys2Proof.Machine.execAllocatorAnswer d t s
  | .ctlSend c t rd rs1 => Sys2Proof.Machine.execCtlSend c t rd rs1 s
  | .ringSetRptr c t rd rs1 rs2 => Sys2Proof.Machine.execRingSetRptr c t rd rs1 rs2 s
  | .ringOpen c t rd rs1 rs2 => Sys2Proof.Machine.execRingOpen c t rd rs1 rs2 s
  | .ringClose c t rd rs1 rs2 => Sys2Proof.Machine.execRingClose c t rd rs1 rs2 s
  | .ctlWrd c t rd rs1 => Sys2Proof.Machine.execCtlWrd c t rd rs1 s
  | .ctlWwr c t rs1 => Sys2Proof.Machine.execCtlWwr c t rs1 s
  | .rowWindowAccess c t ecc => Sys2Proof.Machine.execRowWindowAccess c t ecc s
  | .ctlFpop c t rd rs1 => Sys2Proof.Machine.execCtlFpop c t rd rs1 s
  | .handlerDispatch c t => Sys2Proof.Machine.execHandlerDispatch c t s
  | .faultLostClear c => Sys2Proof.Machine.execFaultLostClear c s
  | .coreProgram src mask plotRow dataRows digest => Sys2Proof.Machine.execCoreProgram src mask plotRow dataRows digest s
  | .coreProgramCopyDone c => Sys2Proof.Machine.execCoreProgramCopyDone c s
  | .sendRowRead c t ecc => Sys2Proof.Machine.execSendRowRead c t ecc s
  | .orderedRelease c t k => Sys2Proof.Machine.execOrderedRelease c t k s
  | .messageHeaderArrival c t k => Sys2Proof.Machine.execMessageHeaderArrival c t k s
  | .messageRowArrival c t k => Sys2Proof.Machine.execMessageRowArrival c t k s
  | .messageLanded c t r => Sys2Proof.Machine.execMessageLanded c t r s
  | .spillWriteComplete c t r => Sys2Proof.Machine.execSpillWriteComplete c t r s
  | .spillDrain c t r err => Sys2Proof.Machine.execSpillDrain c t r err s
  | .holdGrant c t r => Sys2Proof.Machine.execHoldGrant c t r s
  | .holdGrantArrival k => Sys2Proof.Machine.execHoldGrantArrival k s
  | .landingAckArrival t k => Sys2Proof.Machine.execLandingAckArrival t k s
  | .bounceArrival k => Sys2Proof.Machine.execBounceArrival k s
  | .lossNoticeArrival k => Sys2Proof.Machine.execLossNoticeArrival k s
  | .msgCounterClear c => Sys2Proof.Machine.execMsgCounterClear c s
  | .frameTransmit p ns => Sys2Proof.Machine.execFrameTransmit p ns s
  | .frameReceive p ns f fec => Sys2Proof.Machine.execFrameReceive p ns f fec s
  | .leadFlitTimeout p ns => Sys2Proof.Machine.execLeadFlitTimeout p ns s
  | .portTrainingComplete p ns peerPos peerPort flight => Sys2Proof.Machine.execPortTrainingComplete p ns peerPos peerPort flight s
  | .portTrain p => Sys2Proof.Machine.execPortTrain p s
  | .portDisable p => Sys2Proof.Machine.execPortDisable p s
  | .lnkCounterClear p => Sys2Proof.Machine.execLnkCounterClear p s
  | .routeEntryWrite pos v => Sys2Proof.Machine.execRouteEntryWrite pos v s
  | .lnkTorusWrite v => Sys2Proof.Machine.execLnkTorusWrite v s
  | .remoteReadRequest k err => Sys2Proof.Machine.execRemoteReadRequest k err s
  | .remoteWriteArrival k => Sys2Proof.Machine.execRemoteWriteArrival k s
  | .tbSetWrite v => Sys2Proof.Machine.execTbSetWrite v s
  | .extRefLock ns => Sys2Proof.Machine.execExtRefLock ns s
  | .extRefLockTimeout ns => Sys2Proof.Machine.execExtRefLockTimeout ns s
  | .upstreamTimeout ns => Sys2Proof.Machine.execUpstreamTimeout ns s
  | .referenceInputLoss ns => Sys2Proof.Machine.execReferenceInputLoss ns s
  | .heartbeatSend ns => Sys2Proof.Machine.execHeartbeatSend ns s
  | .heartbeatTimeout p ns => Sys2Proof.Machine.execHeartbeatTimeout p ns s
  | .identFlit p pos identity f => Sys2Proof.Machine.execIdentFlit p pos identity f s
  | .surveyFlit p ns f => Sys2Proof.Machine.execSurveyFlit p ns f s
  | .reportFlit p f => Sys2Proof.Machine.execReportFlit p f s
  | .powerFailFlit p ns => Sys2Proof.Machine.execPowerFailFlit p ns s
  | .partnerFlit p f => Sys2Proof.Machine.execPartnerFlit p f s
  | .adoptFlit p f => Sys2Proof.Machine.execAdoptFlit p f s
  | .lsEnable v => Sys2Proof.Machine.execLsEnable v s
  | .foldMessageSend ns => Sys2Proof.Machine.execFoldMessageSend ns s
  | .foldMessageArrival hdr payload => Sys2Proof.Machine.execFoldMessageArrival hdr payload s
  | .weightLoad src x w => Sys2Proof.Machine.execWeightLoad src x w s
  | .weightKeys src x rsa slh => Sys2Proof.Machine.execWeightKeys src x rsa slh s
  | .weightVerify src x w => Sys2Proof.Machine.execWeightVerify src x w s
  | .chunkNotice ns hdr => Sys2Proof.Machine.execChunkNotice ns hdr s
  | .chunkReleaseSend x chunk => Sys2Proof.Machine.execChunkReleaseSend x chunk s
  | .releaseNotice hdr => Sys2Proof.Machine.execReleaseNotice hdr s
  | .reRequestNotice hdr => Sys2Proof.Machine.execReRequestNotice hdr s
  | .waitNotice ns hdr => Sys2Proof.Machine.execWaitNotice ns hdr s
  | .unavailableNotice hdr => Sys2Proof.Machine.execUnavailableNotice hdr s
  | .shardDigestStart d => Sys2Proof.Machine.execShardDigestStart d s
  | .shardDigestComplete d ns e => Sys2Proof.Machine.execShardDigestComplete d ns e s
  | .weightWindowExpiry x ns shard => Sys2Proof.Machine.execWeightWindowExpiry x ns shard s
  | .turn src x => Sys2Proof.Machine.execTurn src x s
  | .reqBegin c => Sys2Proof.Machine.execReqBegin c s
  | .reqJoin c => Sys2Proof.Machine.execReqJoin c s
  | .reqEnd c => Sys2Proof.Machine.execReqEnd c s
  | .recheckDue x slot ns shard => Sys2Proof.Machine.execRecheckDue x slot ns shard s
  | .journalCommand src x step rows => Sys2Proof.Machine.execJournalCommand src x step rows s
  | .mirrorHeaderLand fromPos addr => Sys2Proof.Machine.execMirrorHeaderLand fromPos addr s
  | .mirrorAnswer x ok => Sys2Proof.Machine.execMirrorAnswer x ok s
  | .updEnd w x => Sys2Proof.Machine.execUpdEnd w x s
  | .snapshotNow w x ns => Sys2Proof.Machine.execSnapshotNow w x ns s
  | .snapshotStart x ns => Sys2Proof.Machine.execSnapshotStart x ns s
  | .snapshotChunkCopied x chunk => Sys2Proof.Machine.execSnapshotChunkCopied x chunk s
  | .partnerChunkNotice fromPos ctx slotAddr entry => Sys2Proof.Machine.execPartnerChunkNotice fromPos ctx slotAddr entry s
  | .partnerNoticeTimeout x ns => Sys2Proof.Machine.execPartnerNoticeTimeout x ns s
  | .snapshotSigned x => Sys2Proof.Machine.execSnapshotSigned x s
  | .commitPageWritten x copy ok => Sys2Proof.Machine.execCommitPageWritten x copy ok s
  | .partnerCheck x second v => Sys2Proof.Machine.execPartnerCheck x second v s
  | .riskEvaluation ns => Sys2Proof.Machine.execRiskEvaluation ns s
  | .restore src x r => Sys2Proof.Machine.execRestore src x r s
  | .restoreFetchComplete x isJournal idx source rows => Sys2Proof.Machine.execRestoreFetchComplete x isJournal idx source rows s
  | .replayStep x => Sys2Proof.Machine.execReplayStep x s
  | .stepChangeRequest d target => Sys2Proof.Machine.execStepChangeRequest d target s
  | .clockStop d refEdge => Sys2Proof.Machine.execClockStop d refEdge s
  | .clockRestart d refEdge => Sys2Proof.Machine.execClockRestart d refEdge s
  | .diePoolWrite w d v => Sys2Proof.Machine.execDiePoolWrite w d v s
  | .pwrBudgetWrite w v => Sys2Proof.Machine.execPwrBudgetWrite w v s
  | .expPoolWrite w d v => Sys2Proof.Machine.execExpPoolWrite w d v s
  | .overheadUpdate watts => Sys2Proof.Machine.execOverheadUpdate watts s
  | .inputPowerCheck ns watts => Sys2Proof.Machine.execInputPowerCheck ns watts s
  | .sensorSample readings => Sys2Proof.Machine.execSensorSample readings s
  | .thermalCheck ns => Sys2Proof.Machine.execThermalCheck ns s
  | .pwrTjClear d => Sys2Proof.Machine.execPwrTjClear d s
  | .supplyOutOfRange backup ns => Sys2Proof.Machine.execSupplyOutOfRange backup ns s
  | .supplyReturn ns => Sys2Proof.Machine.execSupplyReturn ns s
  | .droopEvent ns => Sys2Proof.Machine.execDroopEvent ns s
  | .mateSenseChange isOpen ns => Sys2Proof.Machine.execMateSenseChange isOpen ns s
  | .coldStart ns => Sys2Proof.Machine.execColdStart ns s
  | .powerFail ns => Sys2Proof.Machine.execPowerFail ns s
  | .shutdownRailsOff ns => Sys2Proof.Machine.execShutdownRailsOff ns s
  | .powerFailRestart ns => Sys2Proof.Machine.execPowerFailRestart ns s
  | .boot ns => Sys2Proof.Machine.execBoot ns s
  | .strapSample pos main bkp master => Sys2Proof.Machine.execStrapSample pos main bkp master s
  | .hostRowWrite addr row => Sys2Proof.Machine.execHostRowWrite addr row s
  | .hostRowRead addr count tag err => Sys2Proof.Machine.execHostRowRead addr count tag err s
  | .hostMessage hdr payload => Sys2Proof.Machine.execHostMessage hdr payload s
  | .hostRegisterOp op => Sys2Proof.Machine.execHostRegisterOp op s
  | .hostInboxPlace => Sys2Proof.Machine.execHostInboxPlace s
  | .hostInboxRptrWrite v => Sys2Proof.Machine.execHostInboxRptrWrite v s
  | .hostFaultRptrWrite v => Sys2Proof.Machine.execHostFaultRptrWrite v s
  | .resetNEdge lowNs ns => Sys2Proof.Machine.execResetNEdge lowNs ns s
  | .smbSegmentWrite k data => Sys2Proof.Machine.execSmbSegmentWrite k data s
  | .smbSubmit => Sys2Proof.Machine.execSmbSubmit s
  | .smbReplyRead => Sys2Proof.Machine.execSmbReplyRead s
  | .contextCfg src x mask slot shared rt seed map => Sys2Proof.Machine.execContextCfg src x mask slot shared rt seed map s
  | .ctxCfgCommit c v => Sys2Proof.Machine.execCtxCfgCommit c v s
  | .contextReset src x => Sys2Proof.Machine.execContextReset src x s
  | .coreReset src mask => Sys2Proof.Machine.execCoreReset src mask s
  | .moduleReset src => Sys2Proof.Machine.execModuleReset src s
  | .resetComplete => Sys2Proof.Machine.execResetComplete s
  | .attest src nonce addr => Sys2Proof.Machine.execAttest src nonce addr s
  | .calExport src addr => Sys2Proof.Machine.execCalExport src addr s
  | .calImport src addr rows => Sys2Proof.Machine.execCalImport src addr rows s
  | .calSelf src mask => Sys2Proof.Machine.execCalSelf src mask s
  | .fwUpdate src addr rows => Sys2Proof.Machine.execFwUpdate src addr rows s
  | .rollbackCommit src => Sys2Proof.Machine.execRollbackCommit src s
  | .survey src ns => Sys2Proof.Machine.execSurvey src ns s
  | .censusClose ns => Sys2Proof.Machine.execCensusClose ns s
  | .drlTestGo c ccCycle => Sys2Proof.Machine.execDrlTestGo c ccCycle s
  | .drlTestDone c ccCycle => Sys2Proof.Machine.execDrlTestDone c ccCycle s
  | .errCounterClear u => Sys2Proof.Machine.execErrCounterClear u s
  | .cmnFixedWrite w d v => Sys2Proof.Machine.execCmnFixedWrite w d v s
  | .registerWrite w addr v => Sys2Proof.Machine.execRegisterWrite w addr v s
  | .timeBaseTick => Sys2Proof.Machine.execTimeBaseTick s
  | .supplyInRange backup ns => Sys2Proof.Machine.execSupplyInRange backup ns s
  | .powerGateCommand c t => Sys2Proof.Machine.execPowerGateCommand c t s

end Sys2Proof.Machine
end

