-- ==== Sys2Proof/Safety.lean ====
section
/-! DEFINITION. What counts as a completed command and a sound state, in the terms that statements use. -/

namespace Sys2Proof.Machine

open Sys2Proof

/-- Command `i` completes in state `s`: exec answers a next state, and `p` holds of it. -/
def Completes (i : Instr) (s : State) (p : State → Prop) : Prop := ∃ t, exec i s = .next t ∧ p t

/-- Queue `q` of core `c` issues word `w` of strip `st`, whose opcode is `op`, in the core's present cycle (R37, R41, R50): a strip runs,
its last schedule cycle is still to come or now, no wait blocks the cycle, and the word is due. -/
def Issues (s : State) (c : CoreId) (q : Queue) (op : Nat) (w : IWord) (st : Strip) : Prop :=
  (s.sc c).run = .running ∧ (s.sc c).stripCyc < stripLen (s.sc c) ∧ blockedNow s c = [] ∧ dueWord (s.sc c) q = some w ∧
    (s.sc c).strip = some st ∧ wOp w = op

/-- The control core of `c` issues its next instruction in its present cycle, and the instruction returns `v` in `rd` and goes on behind
it: x0 discards the value (R308, R317). -/
def Returns (c : CoreId) (rd : Reg) (v : Nat) (s t : State) : Prop :=
  (t.cc c).pc = (s.cc c).pc + 4 ∧ regGet (t.cc c) rd.val = if rd.val = 0 then 0 else BitVec.ofNat 32 v

/-- Nothing outside core `c` differs between two states. -/
def OnlyCore (c : CoreId) (s t : State) : Prop :=
  t.pending = s.pending ∧ t.mem = s.mem ∧ t.net = s.net ∧ t.hub = s.hub ∧ (∀ d, t.die d = s.die d) ∧
    (∀ p, t.port p = s.port p) ∧ ∀ c', c' ≠ c → t.core c' = s.core c'

/-- Every addressed memory is in canonical form: addresses strictly rising, no cell at the value that unlisted cells read as. -/
def Canonical (s : State) : Prop :=
  Memory.wf s.mem = true ∧ Memory.wf s.hub.store = true ∧
    ∀ c, Memory.wf (s.cm c).hop = true ∧ Memory.wf (s.cc c).imem = true ∧ Memory.wf (s.cc c).dmem = true

/-- Register x0 of every control core holds 0, so that every way to read it reads 0 (R308). -/
def ZeroRegister (s : State) : Prop := ∀ c, vget (s.cc c).regs 0 0 = 0

/-- Memory is canonical and register x0 of every control core is 0. -/
def Sound (s : State) : Prop := Canonical s ∧ ZeroRegister s

/-- The Headland takes up a command of number `cmd` from a sender that `allowed` admits (R24, R478, R493, R494, R497). -/
def TakesCommand (s : State) (cmd : Nat) (allowed : Who → Bool) (src : CmdSrc) : Prop :=
  s.hub.pwr.fail = none ∧ s.hub.pwr.alwaysOn = true ∧ allowed src.who = true ∧ hlBusy s cmd = false

/-- The system manager, when it sent the command, reads the reply `cmd`, `status`, `detail` (R492, R494). -/
def Replies (src : CmdSrc) (cmd status detail : Nat) (t : State) : Prop :=
  src.who = .manager → t.hub.hl.smbReply = BitVec.ofNat 512 (cmd % 2 ^ 16 + status % 2 ^ 16 * 2 ^ 16 + detail % 2 ^ 32 * 2 ^ 32) ∧ t.hub.hl.attn.getLsbD 5 = true

/-- The control core of `c` issues the 32-bit instruction `w` in its present cycle, and fetching it meets no error (R308 to R312). -/
def Fetches (s : State) (c : CoreId) (w : Nat) : Prop :=
  ccIssues s c = true ∧ (s.cc c).pc.toNat + 2 < 0x10000 ∧ readCells (s.cc c).imem (s.cc c).pc.toNat 2 % 4 = 3 ∧
    readCells (s.cc c).imem (s.cc c).pc.toNat 4 = w

/-- An instruction of core `c`'s control core retires after `n` of its cycles: it goes on at `pc` with `v` in register `rd`, unless
that is x0, and every other register as it was. -/
def Retires (c : CoreId) (pc : Word) (n rd : Nat) (v : Word) (s t : State) : Prop :=
  (t.cc c).pc = pc ∧ (t.cc c).minstret = (s.cc c).minstret + 1 ∧ (t.cc c).readyAt = (s.sc c).wall + 4 * n ∧
    (t.cc c).run = (s.cc c).run ∧ ∀ r, r < 32 → regGet (t.cc c) r = if r = 0 then 0 else if r = rd then v else regGet (s.cc c) r

/-- The commands that write no row of the module: only their effects on registers, queues and items are seen. -/
def storesNothing : Instr → Bool
  | .plgCounterClear .. | .hrwCounterClear .. | .hrwSumClear .. | .tlrCounterClear .. | .stepAdvance .. | .stepAdvanceEvaluate .. |
    .stepAdvanceCommit .. | .privStepArm .. | .traceEnable .. | .traceDropClear .. | .loadImage .. | .loadCheckComplete .. |
    .ccStart .. | .ccHalt .. | .faultLostClear .. | .coreProgram .. | .holdGrantArrival .. | .bounceArrival .. | .msgCounterClear .. |
    .frameTransmit .. | .frameReceive .. | .leadFlitTimeout .. | .portTrainingComplete .. | .portTrain .. | .portDisable .. |
    .lnkCounterClear .. | .routeEntryWrite .. | .lnkTorusWrite .. | .remoteReadRequest .. | .tbSetWrite .. | .extRefLock .. |
    .extRefLockTimeout .. | .upstreamTimeout .. | .referenceInputLoss .. | .heartbeatSend .. | .heartbeatTimeout .. | .identFlit .. |
    .surveyFlit .. | .reportFlit .. | .powerFailFlit .. | .partnerFlit .. | .adoptFlit .. | .lsEnable .. | .foldMessageSend .. |
    .foldMessageArrival .. | .weightLoad .. | .weightKeys .. | .weightVerify .. | .chunkReleaseSend .. | .releaseNotice .. |
    .reRequestNotice .. | .waitNotice .. | .unavailableNotice .. | .shardDigestStart .. | .shardDigestComplete .. |
    .weightWindowExpiry .. | .turn .. | .reqBegin .. | .reqJoin .. | .reqEnd .. | .recheckDue .. | .mirrorHeaderLand .. | .updEnd .. |
    .snapshotNow .. | .snapshotStart .. | .snapshotChunkCopied .. | .partnerChunkNotice .. | .partnerNoticeTimeout .. |
    .snapshotSigned .. | .partnerCheck .. | .riskEvaluation .. | .restore .. | .replayStep .. | .stepChangeRequest .. | .clockStop .. |
    .diePoolWrite .. | .pwrBudgetWrite .. | .expPoolWrite .. | .overheadUpdate .. | .inputPowerCheck .. | .sensorSample .. |
    .thermalCheck .. | .pwrTjClear .. | .supplyOutOfRange .. | .supplyReturn .. | .droopEvent .. | .mateSenseChange .. |
    .powerFail .. | .boot .. | .strapSample .. | .hostRowRead .. | .hostMessage .. | .hostInboxPlace | .hostInboxRptrWrite .. |
    .hostFaultRptrWrite .. | .smbSegmentWrite .. | .smbSubmit | .smbReplyRead | .contextCfg .. | .ctxCfgCommit .. | .contextReset .. |
    .resetComplete | .calImport .. | .calSelf .. | .fwUpdate .. | .rollbackCommit .. | .survey .. | .censusClose .. | .drlTestGo .. |
    .drlTestDone .. | .errCounterClear .. | .cmnFixedWrite .. | .timeBaseTick | .supplyInRange .. | .coreReset .. => true
  | _ => false

/-- The commands that no core takes part in. -/
def leavesCores : Instr → Bool
  | .stepAdvance .. | .stepAdvanceEvaluate .. | .privStepArm .. | .loadImage .. | .frameTransmit .. | .frameReceive .. |
    .leadFlitTimeout .. | .portTrainingComplete .. | .portTrain .. | .portDisable .. | .lnkCounterClear .. | .routeEntryWrite .. |
    .lnkTorusWrite .. | .tbSetWrite .. | .extRefLock .. | .extRefLockTimeout .. | .upstreamTimeout .. | .referenceInputLoss .. |
    .heartbeatSend .. | .heartbeatTimeout .. | .identFlit .. | .surveyFlit .. | .reportFlit .. | .powerFailFlit .. | .partnerFlit .. |
    .adoptFlit .. | .lsEnable .. | .weightLoad .. | .weightKeys .. | .weightVerify .. | .chunkReleaseSend .. | .releaseNotice .. |
    .reRequestNotice .. | .waitNotice .. | .unavailableNotice .. | .shardDigestStart .. | .shardDigestComplete .. |
    .weightWindowExpiry .. | .turn .. | .recheckDue .. | .mirrorHeaderLand .. | .updEnd .. | .snapshotNow .. | .snapshotStart .. |
    .partnerChunkNotice .. | .partnerNoticeTimeout .. | .snapshotSigned .. | .partnerCheck .. | .riskEvaluation .. | .restore .. |
    .replayStep .. | .stepChangeRequest .. | .clockStop .. | .diePoolWrite .. | .pwrBudgetWrite .. | .expPoolWrite .. |
    .overheadUpdate .. | .inputPowerCheck .. | .thermalCheck .. | .pwrTjClear .. | .supplyOutOfRange .. | .supplyReturn .. |
    .droopEvent .. | .mateSenseChange .. | .shutdownRailsOff .. | .boot .. | .strapSample .. | .hostMessage .. | .hostInboxPlace |
    .hostInboxRptrWrite .. | .hostFaultRptrWrite .. | .smbSegmentWrite .. | .smbSubmit | .smbReplyRead | .calImport .. | .calSelf .. |
    .fwUpdate .. | .rollbackCommit .. | .survey .. | .censusClose .. | .cmnFixedWrite .. | .timeBaseTick | .supplyInRange .. => true
  | _ => false

/-- The commands that change no register, pool or allocator of a compute die. -/
def leavesDies : Instr → Bool
  | .plgCounterClear .. | .hrwCounterClear .. | .hrwSumClear .. | .tlrCounterClear .. | .stepAdvance .. | .privStepArm .. |
    .traceEnable .. | .traceDropClear .. | .loadImage .. | .loadCheckComplete .. | .faultLostClear .. | .holdGrantArrival .. |
    .bounceArrival .. | .msgCounterClear .. | .frameTransmit .. | .frameReceive .. | .leadFlitTimeout .. | .portTrainingComplete .. |
    .portTrain .. | .portDisable .. | .lnkCounterClear .. | .routeEntryWrite .. | .lnkTorusWrite .. | .tbSetWrite .. | .extRefLock .. |
    .extRefLockTimeout .. | .upstreamTimeout .. | .referenceInputLoss .. | .heartbeatSend .. | .heartbeatTimeout .. | .identFlit .. |
    .surveyFlit .. | .reportFlit .. | .powerFailFlit .. | .partnerFlit .. | .adoptFlit .. | .lsEnable .. | .foldMessageSend .. |
    .foldMessageArrival .. | .weightLoad .. | .weightKeys .. | .weightVerify .. | .chunkReleaseSend .. | .releaseNotice .. |
    .reRequestNotice .. | .waitNotice .. | .unavailableNotice .. | .shardDigestStart .. | .shardDigestComplete .. |
    .weightWindowExpiry .. | .turn .. | .reqBegin .. | .reqJoin .. | .reqEnd .. | .recheckDue .. | .mirrorHeaderLand .. | .updEnd .. |
    .snapshotNow .. | .snapshotStart .. | .partnerChunkNotice .. | .partnerNoticeTimeout .. | .snapshotSigned .. | .partnerCheck .. |
    .riskEvaluation .. | .restore .. | .supplyOutOfRange .. | .supplyReturn .. | .droopEvent .. | .mateSenseChange .. |
    .shutdownRailsOff .. | .strapSample .. | .hostMessage .. | .hostInboxPlace | .hostInboxRptrWrite .. | .hostFaultRptrWrite .. |
    .smbSegmentWrite .. | .smbSubmit | .smbReplyRead | .contextCfg .. | .ctxCfgCommit .. | .contextReset .. | .calImport .. |
    .calSelf .. | .fwUpdate .. | .rollbackCommit .. | .survey .. | .censusClose .. | .drlTestGo .. | .drlTestDone .. | .timeBaseTick |
    .supplyInRange .. => true
  | _ => false

/-- The commands that change no link port. -/
def leavesPorts : Instr → Bool
  | .plgCounterClear .. | .hrwCounterClear .. | .hrwSumClear .. | .tlrCounterClear .. | .stepAdvanceEvaluate .. |
    .stepAdvanceCommit .. | .privStepArm .. | .traceEnable .. | .traceDropClear .. | .ccStart .. | .ccHalt .. | .faultLostClear .. |
    .routeEntryWrite .. | .lnkTorusWrite .. | .tbSetWrite .. | .extRefLock .. | .extRefLockTimeout .. | .upstreamTimeout .. |
    .referenceInputLoss .. | .adoptFlit .. | .lsEnable .. | .foldMessageArrival .. | .shardDigestStart .. | .reqBegin .. |
    .reqJoin .. | .recheckDue .. | .updEnd .. | .snapshotNow .. | .snapshotStart .. | .partnerNoticeTimeout .. | .riskEvaluation .. |
    .stepChangeRequest .. | .clockStop .. | .clockRestart .. | .diePoolWrite .. | .pwrBudgetWrite .. | .expPoolWrite .. |
    .overheadUpdate .. | .inputPowerCheck .. | .thermalCheck .. | .pwrTjClear .. | .supplyOutOfRange .. | .supplyReturn .. |
    .droopEvent .. | .mateSenseChange .. | .strapSample .. | .hostRowRead .. | .hostInboxRptrWrite .. | .hostFaultRptrWrite .. |
    .smbSegmentWrite .. | .smbSubmit | .smbReplyRead | .ctxCfgCommit .. | .censusClose .. | .drlTestGo .. | .drlTestDone .. |
    .errCounterClear .. | .cmnFixedWrite .. | .timeBaseTick | .supplyInRange .. | .bounceArrival .. => true
  | _ => false

end Sys2Proof.Machine
end

