-- ==== Sys2Proof/Certificates/Slice0/Obligations.lean ====
section
/-! DEFINITION. The statements for the provers. Each says what a command does wherever its conditions hold: that exec answers a next state,
what that state holds, and what it leaves. -/

open Sys2Proof Sys2Proof.Machine

/-! ### Strips and the schedule (02, 16) -/

/-- R30, R31, R305, R317: CTL_STAGE starts staging a strip that an accepted directory lists, and returns 0; with a strip staged or
being staged it returns 1. STAGING_ROW_READ copies the next row. STAGING_COMPLETE makes the copy the staged strip and sets event bit 5.
CTL_STAGE of a row that no directory lists returns 2, with a record of class image. CTL_UNSTAGE discards the strip. PAGE_IN_COMPLETE reads
the backing copy back, gives the handle its new base and RES 0 (R114). -/
def Obligations.StagingCompletes : Prop := ∀ (c : CoreId) (n : Nat) (rd rs : Reg) (h : Fin 64) (s a : State), a = advance c n s →
  (ccIssues a c = true → a.reg c rs < 12288 → (a.sc c).staged = none → (a.sc c).staging = none →
    ∀ k, imageSlot a c (a.reg c rs) = some k → Completes (.ctlStage c n rd rs) s fun t =>
      (t.sc c).staging = some ⟨a.reg c rs, k, (a.sc c).wall, [], (a.sc c).wall⟩ ∧ Returns c rd 0 a t ∧ OnlyCore c a t) ∧
  (ccIssues a c = true → a.reg c rs < 12288 → (a.sc c).staged = none → (a.sc c).staging = none → imageSlot a c (a.reg c rs) = none →
    Completes (.ctlStage c n rd rs) s fun t => (t.sc c).staging = none ∧ Returns c rd 2 a t) ∧
  (ccIssues a c = true → a.reg c rs < 12288 → (a.sc c).staged.isSome ∨ (a.sc c).staging.isSome →
    Completes (.ctlStage c n rd rs) s fun t => t.sc c = a.sc c ∧ Returns c rd 1 a t) ∧
  (∀ g row lo, (a.sc c).staging = some g → nextStageRow g = some (row, lo) → first7 a c 1 row lo = true →
    (a.sc c).launch = none → Completes (.stagingRowRead c n .clean) s fun t =>
      (t.sc c).staging = some { g with got := g.got ++ [readRow a (plotAddr c row)], lastRead := (a.sc c).wall } ∧ OnlyCore c a t) ∧
  (∀ g, (a.sc c).staging = some g → stagingDone g = some (a.sc c).wall → Completes (.stagingComplete c n) s fun t =>
      (t.sc c).staging = none ∧ (t.sc c).staged = some (stripOf g.row g.slot g.got) ∧ (t.cc c).events.getLsbD 5 = true) ∧
  (ccIssues a c = true → (a.sc c).launch = none → Completes (.ctlUnstage c n rd) s fun t =>
      (t.sc c).staged = none ∧ (t.sc c).staging = none ∧ Returns c rd 0 a t) ∧
  (∀ b j, b = serve (dieOf c) a → (b.die (dieOf c)).pageIns.find? (PageJob.of c h.val) = some j →
    (List.range 16).any (fun k => bankWaits b (dieOf c) (j.src / 16 * 16 + k)) = false → (b.sc c).swSet.1 ≠ ccCyc (b.sc c) →
    Completes (.pageInComplete c n ⟨h, []⟩) s fun t =>
      handle t c h.val = hPut (hPut (handle b c h.val) 32 25 j.src) 4 2 0 ∧
      (t.die (dieOf c)).pageIns = (b.die (dieOf c)).pageIns.filter (fun j => !j.of c h.val) ∧
      t.mem = (if (b.die (dieOf c)).backing.any (PageJob.of c h.val) then
        copyRows (deepAddr (dieOf c) j.area) (cmnAddr (dieOf c) j.src) (64 * j.pages) [] b else b).mem)

/-- R26, R33, R34, R35, R39, R44, R77, R78, R317: CTL_LAUNCH of a staged strip on an idle core takes its launch point in the present cycle.
LAUNCH_READY notes the ready cycle. STRIP_START takes from the stakes of STK_CLEAR and the queues of HQ_CLEAR what they held at the start
of the cycle, latches the global step and sets the cycle counter to 0. STRIP_END ends the strip in the cycle after schedule cycle
LENGTH - 1 (in debug mode where check 7 holds). INSTRUCTION_COMPLETE takes the instruction out of flight and adds to its stake. -/
def Obligations.StripsRun : Prop := ∀ (c : CoreId) (q : Queue) (n : Nat) (rd : Reg) (s a : State), a = advance c n s →
  (∀ st, ccIssues a c = true → (a.sc c).staged = some st → stillListed a c st.row st.slot = true → (a.sc c).launch = none →
    (a.sc c).strip = none →
    (a.sc c).run ≠ .faulted → (a.sc c).stopping = false → (a.en c).drlFail = false → debugRefused a c st.hdr = false →
    Completes (.ctlLaunch c n rd) s fun t =>
      (∃ l, (t.sc c).launch = some l ∧ l.point = some (a.sc c).wall) ∧ (t.sc c).launchPoint = (a.sc c).wall ∧
      (t.sc c).stripStall = 0 ∧ Returns c rd 0 a t) ∧
  (∀ l, (a.sc c).launch = some l → l.since = some (a.sc c).wall → l.ready = none → Completes (.launchReady c n) s fun t =>
      (t.sc c).launch = some { l with ready := some (a.sc c).wall } ∧ OnlyCore c a t) ∧
  (∀ l st p r, (a.sc c).launch = some l → (a.sc c).staged = some st → l.point = some p → l.ready = some r →
    (a.sc c).wall = max p r + 8 → (a.sc c).run = .idle → Completes (.stripStart c n) s fun t =>
      (t.sc c).run = .running ∧ (t.sc c).strip = some st ∧ (t.sc c).staged = none ∧ (t.sc c).launch = none ∧
      (t.sc c).stripCyc = 0 ∧ (t.sc c).stripId = hdrStripId st.hdr ∧
      (∀ k, k < 48 → k ∈ maskStakes (a.sc c) st (hdrStkClear st.hdr) → vget (t.sc c).stk 0 k =
        BitVec.ofNat 8 ((vget (a.sc c).stk 0 k).toNat - (vget (a.sc c).stk0 0 k).toNat)) ∧
      (∀ k, k ∉ maskStakes (a.sc c) st (hdrStkClear st.hdr) → vget (t.sc c).stk 0 k = vget (a.sc c).stk 0 k) ∧
      (∀ k, k < 8 → vget (t.sc c).hq [] k =
        if (hdrHqClear st.hdr).testBit k then (vget (a.sc c).hq [] k).drop (vget (a.sc c).hq0 0 k) else vget (a.sc c).hq [] k) ∧
      (t.sc c).draw = (vget a.hub.adv AdvCtx.reset (hdrContext st.hdr % 8)).step ∧ (t.en c).fold = Vector.replicate 4 0 ∧
      (t.en c).bbuf = []) ∧
  (∀ st, (a.sc c).strip = some st → (a.sc c).run = .running → (a.sc c).stripCyc = hdrLength st.hdr →
    (debugMode a c = true → carryBroken (a.sc c) st = false) → Completes (.stripEnd c n) s fun t =>
      (t.sc c).strip = none ∧ (t.cc c).events.getLsbD 0 = true ∧ (t.en c).foldFinal = true ∧ (t.en c).foldFault = false ∧
      (t.sc c).stk = (a.sc c).stk ∧ (t.sc c).hq = (a.sc c).hq ∧ (t.en c).late = (a.en c).late ∧
      ((a.sc c).launch = none → (a.sc c).stopping = false → a.hub.ls.enable = false →
        (t.sc c).run = .idle ∧ (t.sc c).ended = some (a.sc c).wall) ∧
      ((a.sc c).launch.isSome → ∃ l, (t.sc c).launch = some l ∧ l.point = some (a.sc c).wall)) ∧
  (∀ b f, b = hazardCheck c a → (b.sc c).run = .running → (b.sc c).stripCyc < stripLen (b.sc c) → blockedNow b c = [] →
    ((b.sc c).flights.find? fun f => f.q == q && f.comp == (b.sc c).stripCyc) = some f → f.cstk = 63 →
    Completes (.instructionComplete c q n) s fun t =>
      (t.sc c).flights = (b.sc c).flights.eraseP (fun f => f.q == q && f.comp == (b.sc c).stripCyc) ∧ (t.sc c).stk = (b.sc c).stk) ∧
  (∀ b f, b = hazardCheck c a → (b.sc c).run = .running → (b.sc c).stripCyc < stripLen (b.sc c) → blockedNow b c = [] →
    ((b.sc c).flights.find? fun f => f.q == q && f.comp == (b.sc c).stripCyc) = some f → f.cstk < 48 →
    Completes (.instructionComplete c q n) s fun t =>
      (vget (t.sc c).stk 0 f.cstk).toNat = min 255 ((vget (b.sc c).stk 0 f.cstk).toNat + f.cstkN) ∧
      (t.sc c).stk0 = (b.sc c).stk0)

/-- R37, R40, R42, R57, R58: WAIT holds its queue for N cycles. STK_SET adds, visible from the next cycle. STK_WAIT
subtracts. HQ_PUSH appends the handle, HQ_POP takes the oldest entry. Each issues in its due cycle. -/
def Obligations.QueueOperations : Prop := ∀ (c : CoreId) (q : Queue) (n : Nat) (w : IWord) (st : Strip) (s a : State),
  a = hazardCheck c (advance c n s) →
  (Issues a c q 0 w st → Completes (.wait c q n) s fun t =>
    (vget (t.sc c).qpos ⟨0, 0, 0⟩ (qIdx q)) = ⟨(vget (a.sc c).qpos ⟨0, 0, 0⟩ (qIdx q)).idx + 1, (a.sc c).stripCyc + wWaitN w,
      (a.sc c).stripCyc + wWaitN w⟩) ∧
  (Issues a c q 1 w st → physStk (a.sc c) st (wStk w) < 48 → Completes (.stkSet c q n) s fun t =>
    (vget (t.sc c).stk 0 (physStk (a.sc c) st (wStk w))).toNat =
      min 255 ((vget (a.sc c).stk 0 (physStk (a.sc c) st (wStk w))).toNat + wStkN w) ∧
    (t.sc c).stk0 = (a.sc c).stk0 ∧
    (t.sc c).stkOvf = ((a.sc c).stkOvf || decide (255 < (vget (a.sc c).stk 0 (physStk (a.sc c) st (wStk w))).toNat + wStkN w))) ∧
  (Issues a c q 2 w st → Completes (.stkWait c q n) s fun t =>
    (t.sc c).stk = vset (a.sc c).stk (physStk (a.sc c) st (wStk w))
      (vget (a.sc c).stk 0 (physStk (a.sc c) st (wStk w)) - BitVec.ofNat 8 (wStkN w)) ∧
    (t.sc c).stk0 = vset (a.sc c).stk0 (physStk (a.sc c) st (wStk w))
      (vget (a.sc c).stk0 0 (physStk (a.sc c) st (wStk w)) - BitVec.ofNat 8 (wStkN w)) ∧
    (t.sc c).hq = (a.sc c).hq) ∧
  (Issues a c q 3 w st → (vget (a.sc c).hq [] (wHq w)).length < 8 → Completes (.hqPush c q n) s fun t =>
    vget (t.sc c).hq [] (wHq w) = vget (a.sc c).hq [] (wHq w) ++
      [⟨physH (hdrShared st.hdr) st.slot (wHqH w), hGen (handle a c (physH (hdrShared st.hdr) st.slot (wHqH w)))⟩] ∧
    (t.sc c).hq0 = (a.sc c).hq0 ∧ (t.sc c).stk = (a.sc c).stk) ∧
  (∀ e es, Issues a c q 4 w st → vget (a.sc c).hq [] (wHq w) = e :: es →
    (debugMode a c = true → e.h = physH (hdrShared st.hdr) st.slot (wHqH w) ∧ e.gen = handleGen (a.cm c) e.h) →
    Completes (.hqPop c q n) s fun t => vget (t.sc c).hq [] (wHq w) = es ∧ (t.sc c).hq0 = (a.sc c).hq0 ∧ (t.sc c).stk = (a.sc c).stk)

/-- R54, R63, R64, R71, R72, R75: a stall that has not lent is performed 3 cycles after its releasing event, one that has lent 64
cycles after its grant; lending keeps 1 credit; the watchdog faults the core and returns its credit; a missed deadline is counted. -/
def Obligations.StallsEnd : Prop := ∀ (c : CoreId) (n : Nat) (s a : State), a = advance c n s →
  (∀ st, (a.sc c).stall = some st → st.lent = 0 → st.released = some ((a.sc c).wall - 3) → 3 ≤ (a.sc c).wall →
    (debugMode a c = true → ∀ b ∈ st.blocked, b.feed = true ∨ ∀ w, dueWord (a.sc c) b.q = some w → wOp w ≠ 4) →
    Completes (.stallResume c n) s fun t => (t.sc c).run = .running ∧ (t.sc c).cause = .none ∧ (t.sc c).stall = none) ∧
  (∀ st q k m tag w sp, (a.sc c).stall = some st → st.lent = 0 → st.released = some ((a.sc c).wall - 3) → 3 ≤ (a.sc c).wall →
    st.blocked = [⟨q, .stake k m, tag, false⟩] → dueWord (a.sc c) q = some w → wOp w = 2 → (a.sc c).strip = some sp →
    Completes (.stallResume c n) s fun t => (t.sc c).run = .running ∧
      (t.sc c).stk = vset (a.sc c).stk (physStk (a.sc c) sp (wStk w))
        (vget (a.sc c).stk 0 (physStk (a.sc c) sp (wStk w)) - BitVec.ofNat 8 (wStkN w))) ∧
  (∀ st b w sp e es, (a.sc c).stall = some st → st.lent = 0 → st.released = some ((a.sc c).wall - 3) → 3 ≤ (a.sc c).wall →
    st.blocked = [b] → b.feed = false → dueWord (a.sc c) b.q = some w → wOp w = 4 → (a.sc c).strip = some sp →
    vget (a.sc c).hq [] (wHq w) = e :: es →
    (debugMode a c = true → e.h = physH (hdrShared sp.hdr) sp.slot (wHqH w) ∧ e.gen = handleGen (a.cm c) e.h) →
    Completes (.stallResume c n) s fun t => (t.sc c).run = .running ∧ vget (t.sc c).hq [] (wHq w) = es) ∧
  (∀ st g, (a.sc c).stall = some st → st.granted = some g → g + 64 = (a.sc c).wall →
    (debugMode a c = true → ∀ b ∈ st.blocked, b.feed = true ∨ ∀ w, dueWord (a.sc c) b.q = some w → wOp w ≠ 4) →
    Completes (.reclaimComplete c n) s fun t => (t.sc c).run = .running ∧ (t.sc c).stall = none ∧ (t.sc c).lent = false) ∧
  (∀ st, (a.sc c).run = .stalled → (a.sc c).stall = some st → st.start + 256 = (a.sc c).wall → st.released = none → 1 < (a.sc c).held →
    Completes (.creditLend c n) s fun t =>
      (t.sc c).held = 1 ∧ (t.sc c).lent = true ∧ (t.sc c).stall = some { st with lent := (a.sc c).held - 1 } ∧
      (t.sc c).lends = min 0xFFFFFFFF ((a.sc c).lends + 1) ∧ OnlyCore c a t) ∧
  (∀ l p, (a.sc c).run = .stalled → (a.sc c).stall = none → (a.sc c).launch = some l → l.point = some p → p + 256 = (a.sc c).wall →
    1 < (a.sc c).held → Completes (.creditLend c n) s fun t =>
      (t.sc c).held = 1 ∧ (t.sc c).lent = true ∧ (t.sc c).request = (a.sc c).request + ((a.sc c).held - 1) ∧
      (t.sc c).lends = min 0xFFFFFFFF ((a.sc c).lends + 1)) ∧
  (∀ st m rest, (a.die (dieOf c)).reqs = (c, m) :: rest → (a.sc c).stall = some st → st.released.isSome → st.lent ≠ 0 →
    st.granted = none → (m.1 : Int) ≤ dieFree a (dieOf c) → Completes (.reclaimGrant c n) s fun t =>
      (t.die (dieOf c)).reqs = rest ∧ (t.sc c).held = (a.sc c).held + m.1 ∧
      (t.sc c).stall = some { st with granted := some (a.sc c).wall } ∧ (t.sc c).cause = .reclaim) ∧
  (∀ st, (a.sc c).run = .stalled → (a.sc c).stall = some st → (if st.lent = 0 then st.released = none else st.granted = none) →
    st.start + 2 ^ clampN 16 40 (a.sc c).wdog ≤ (a.sc c).wall → Completes (.watchdogFault c n) s fun t =>
      (t.sc c).run = .faulted ∧ (t.sc c).held = 0 ∧ (t.sc c).strip = none ∧ (t.sc c).stk = (a.sc c).stk ∧
      (t.sc c).hq = (a.sc c).hq ∧ (t.en c).late = (a.en c).late) ∧
  (∀ d, (a.sc c).dlPosted = false → deadlineOf a c = some d → (a.sc c).strip.isSome → (a.sc c).stripCyc < stripLen (a.sc c) →
    (a.sc c).wall = d + 1 → Completes (.deadlineMiss c n) s fun t =>
      (t.sc c).dlPosted = true ∧ (t.sc c).dlMiss = min 0xFFFF ((a.sc c).dlMiss + 1) ∧ (t.sc c).run = (a.sc c).run ∧
      (t.sc c).strip = (a.sc c).strip ∧ (t.cc c).events.getLsbD 3 = true)

/-- R68, R69, R182, R468 to R471: the head of a die's request list is granted whole; wakes begin at reference edges and take 12 fcyc
from CLOCK-GATED and 1,000 reference cycles from POWER-GATED, with every hopper row zeroed; 256 cycles after a strip the core keeps 1
credit and is clock-gated; after the delay, or by command, its furrow loses power. -/
def Obligations.CreditAndWake : Prop := ∀ (c : CoreId) (d : DieId) (n : Nat) (s a : State), a = advance c n s →
  (∀ l m rest, (s.die d).reqs = (c, m) :: rest → m.2 ≤ (a.sc c).wall → (a.die d).reqs = (c, m) :: rest → (m.1 : Int) ≤ dieFree a d →
    reclaiming (a.sc c) = false → (a.sc c).launch = some l → l.credited = true → Completes (.creditGrant d n) s fun t =>
      (t.die d).reqs = rest ∧ (t.sc c).request = (a.sc c).request - m.1 ∧ (t.sc c).held = min (a.sc c).cls ((a.sc c).held + m.1) ∧
      ∃ l', (t.sc c).launch = some l' ∧ l'.granted = some (a.sc c).wall) ∧
  (∀ l r, (a.core c).gate = .powerGated → fusedOff a c = false → c ∈ (a.die (dieOf c)).wakeQ → (a.sc c).launch = some l →
    l.wakeReq = some r → r ≤ (a.sc c).wall → (a.sc c).wall % stepK a (dieOf c) = 0 → (∀ x, (a.die (dieOf c)).lastWake = some x → x + 8 * stepK a (dieOf c) ≤ (a.sc c).wall) →
    wakeBefore a c = [] → Completes (.wakeBegin c n) s fun t =>
      (t.core c).gate = .waking ∧ (t.core c).gatedAt = (a.sc c).wall + 1000 * stepK a (dieOf c) ∧
      (t.die (dieOf c)).lastWake = some (a.sc c).wall ∧ (t.die (dieOf c)).wakes = min 0xFFFF ((a.die (dieOf c)).wakes + 1)) ∧
  (∀ l r b, (a.core c).gate = .clockGated → (a.sc c).launch = some l → l.wakeReq = some r → r + 12 = (a.sc c).wall →
    Completes (.wakeComplete c n b) s fun t => (t.core c).gate = .awake) ∧
  (∀ b, (a.core c).gate = .waking → (a.core c).gatedAt = (a.sc c).wall → Completes (.wakeComplete c n b) s fun t =>
      (t.core c).gate = .awake ∧ (t.cm c).hop = [] ∧ (t.en c).drlTested = true ∧ (t.en c).drlFail = !b ∧
      (b = false → (t.sc c).launch = none)) ∧
  (∀ e, (a.sc c).ended = some e → e + 256 = (a.sc c).wall → (a.sc c).launch = none → (a.sc c).strip = none →
    Completes (.creditIdleReturn c n) s fun t =>
      (t.sc c).held = min 1 (a.sc c).held ∧ ((a.core c).gate = .awake → (t.core c).gate = .clockGated) ∧ OnlyCore c a t) ∧
  ((a.core c).gate = .clockGated → (a.sc c).launch = none → hopperLate a c = false → clampN 10 31 (a.die (dieOf c)).pgLog2 < 31 →
    (a.sc c).wall = (a.core c).gatedAt + 2 ^ clampN 10 31 (a.die (dieOf c)).pgLog2 → Completes (.powerGateTimeout c n) s fun t =>
      (t.core c).gate = .powerGated ∧ (t.sc c).held = 0 ∧ (t.cm c).hop = [] ∧ (t.en c).acc = Vector.replicate 2 [] ∧ OnlyCore c a t) ∧
  ((a.core c).gate = .clockGated → Completes (.powerGateCommand c n) s fun t => OnlyCore c a t ∧
      if hopperLate a c then (t.core c).gate = .clockGated ∧ (t.core c).gateCmd = true
      else (t.core c).gate = .powerGated ∧ (t.sc c).held = 0 ∧ (t.cm c).hop = [])

/-! ### Late items, landing, Commons, scrubbing, bank-group power (02, 03) -/

/-- R49, R60, R293: a whole late item arrives: it leaves the list and its stake takes the arrival's amount, at most 255; with a handle
queue that has room, the cycle's own pushes counted, the handle is pushed in the same command; without room, or behind an earlier arrival,
it is held at the Square, and HELD_ARRIVAL_RETRY makes push and addition together. -/
def Obligations.LateItemsArrive : Prop := ∀ (c : CoreId) (n i : Nat) (q : Fin 8) (s a : State), a = advance c n s →
  (∀ l, (a.en c).late[i]? = some l →
    l.inbound = true ∨ (l.x.hostEnd a c = false ∧ (a.net.all fun x => x.kind != .writeAck) = true) → l.whole = true → l.cut = false →
    l.x.ahq = none → l.x.astk < 48 → (debugMode a c = true → (vget (a.sc c).stk 0 l.x.astk).toNat + l.x.astkN ≤ 255) →
    Completes (.lateArrival c n i) s fun t =>
      (t.en c).late = (a.en c).late.filter (fun y => y.x.id != l.x.id) ∧
      (vget (t.sc c).stk 0 l.x.astk).toNat = min 255 ((vget (a.sc c).stk 0 l.x.astk).toNat + l.x.astkN)) ∧
  (∀ l k, (a.en c).late[i]? = some l → l.inbound = true → l.whole = true → l.cut = false → l.x.ahq = some k → k < 8 →
    ((a.sc c).heldArr.any fun x => x.q == k) = false → arrivalRoom (a.sc c) k (pushesDue a c k) = true →
    (vget (a.sc c).hq [] k).length < 8 → l.x.astk < 48 →
    (debugMode a c = true → (vget (a.sc c).stk 0 l.x.astk).toNat + l.x.astkN ≤ 255) →
    Completes (.lateArrival c n i) s fun t =>
      vget (t.sc c).hq [] k = vget (a.sc c).hq [] k ++ [⟨l.x.dstH, hGen (handle a c l.x.dstH)⟩] ∧
      (vget (t.sc c).stk 0 l.x.astk).toNat = min 255 ((vget (a.sc c).stk 0 l.x.astk).toNat + l.x.astkN)) ∧
  (∀ l k, (a.en c).late[i]? = some l → l.inbound = true → l.whole = true → l.cut = false → l.x.ahq = some k →
    ((a.sc c).heldArr.any fun x => x.q == k) = true ∨ arrivalRoom (a.sc c) k (pushesDue a c k) = false →
    Completes (.lateArrival c n i) s fun t =>
      (t.sc c).heldArr = (a.sc c).heldArr ++ [⟨k, l.x.dstH, l.x.astk, l.x.astkN, l.x.tag⟩] ∧ (t.sc c).stk = (a.sc c).stk ∧
      (t.sc c).hq = (a.sc c).hq) ∧
  (∀ h, (a.sc c).heldArr.find? (fun x => x.q == q.val) = some h → arrivalRoom (a.sc c) q.val (pushesDue a c q.val) = true →
    (vget (a.sc c).hq [] q.val).length < 8 → h.stk < 48 → (debugMode a c = true → (vget (a.sc c).stk 0 h.stk).toNat + h.n ≤ 255) →
    Completes (.heldArrivalRetry c n q) s fun t =>
      (t.sc c).heldArr = (a.sc c).heldArr.eraseP (fun x => x.q == q.val) ∧
      vget (t.sc c).hq [] q.val = vget (a.sc c).hq [] q.val ++ [⟨h.h, hGen (handle a c h.h)⟩] ∧
      (vget (t.sc c).stk 0 h.stk).toNat = min 255 ((vget (a.sc c).stk 0 h.stk).toNat + h.n) ∧
      t.mem = a.mem ∧ t.net = a.net ∧ ∀ c', c' ≠ c → t.core c' = a.core c')

/-- R83, R88, R91, R104, R293: a row of this module that reaches the Square waits in the landing buffer, or for its Commons bank; a Plot
row lands in slot 6 of its bank after the cycle of its arrival and is then what the row reads as; every other row of memory stays. A
hopper row is written through its port, once the half is not reserved and the port is free. -/
def Obligations.InboundRowsLand : Prop := ∀ (c : CoreId) (n i : Nat) (b : Bool) (s a : State), a = advance c n s →
  (∀ l p, (a.en c).late[i]? = some l → l.inbound = true → l.arrived < l.total → (a.cm c).land.length < 64 →
    l.x.remoteSrc c a = false → l.x.hostEnd a c = false → (xAddr a c l.x.srcH (l.x.srcRow l.arrived)).2 = true →
    (match placeOf (xAddr a c l.x.srcH (l.x.srcRow l.arrived)).1 with
      | .plot _ _ => True
      | .commons d r => gatedFor a d r false = false
      | .deep d r => deepTurn a c d.val i = true ∧ (a.die d).dmStatus.getLsbD (3 + r % 3) = false
      | .control | .window | .unpopulated => False) →
    l.x.landAt a c l.arrived = some p → Completes (.inboundRowArrival c n i .clean) s fun t =>
      (t.cm c).land = (a.cm c).land ++
        [⟨p, readRow a (xAddr a c l.x.srcH (l.x.srcRow l.arrived)).1, (a.sc c).wall, .late l.x.id⟩] ∧
      (t.en c).late[i]? = some { l with arrived := l.arrived + 1 } ∧ OnlyCore c a t) ∧
  (∀ l d r e k, (a.en c).late[i]? = some l → l.inbound = true → l.arrived < l.total → l.x.remoteSrc c a = false →
    l.x.hostEnd a c = false → l.x.hop = 8 → (xAddr a c l.x.srcH (l.x.srcRow l.arrived)).2 = true →
    placeOf (xAddr a c l.x.srcH (l.x.srcRow l.arrived)).1 = .plot d r → (xAddr a c l.x.dstH (l.x.dstRow l.arrived)).2 = true →
    placeOf (xAddr a c l.x.dstH (l.x.dstRow l.arrived)).1 = .commons e k → Completes (.inboundRowArrival c n i .clean) s fun t =>
      (t.cm c).cmnIn = (a.cm c).cmnIn ++ [⟨(xAddr a c l.x.dstH (l.x.dstRow l.arrived)).1,
        readRow a (xAddr a c l.x.srcH (l.x.srcRow l.arrived)).1, .late l.x.id, (a.sc c).wall⟩] ∧
      (t.cm c).land = (a.cm c).land ∧ OnlyCore c a t) ∧
  (∀ x row, (a.cm c).land.find? (fun x => match x.dst with | .plot _ => true | .hopper _ _ | .source _ _ => false) = some x →
    x.dst = .plot row → row < 12288 → x.arrived < (a.sc c).wall → slotNow a c 6 row = true →
    (a.cm c).landedAt.1 ≠ (a.sc c).wall ∨ row % 16 ∉ (a.cm c).landedAt.2 →
    lockedRow a (plotAddr c row) = false → Completes (.plotRowLanding c n) s fun t =>
      readRow t (plotAddr c row) = x.data ∧
      (t.cm c).land = (a.cm c).land.eraseP (fun x => match x.dst with | .plot _ => true | .hopper _ _ | .source _ _ => false) ∧
      ∀ r, rowBase r ≠ plotAddr c row → readRow t r = readRow a r) ∧
  (∀ x row, (a.cm c).land.find? (fun x => match x.dst with | .plot _ => false | .hopper p _ | .source p _ => p == b) = some x →
    x.dst = .hopper b row → row < 1280 → x.arrived < (a.sc c).wall → hopReserved a c row = false → portBusy a c b = false →
    ((a.core c).gateCmd = true → (a.core c).gate ≠ .clockGated) → Completes (.hopperRowLanding c n b) s fun t =>
      readRowAt (t.cm c).hop (512 * row) = x.data ∧ t.mem = a.mem ∧
      (t.cm c).land = (a.cm c).land.eraseP (fun x => match x.dst with | .plot _ => false | .hopper p _ | .source p _ => p == b))

/-- R95, R99, R101, R121, R122, R293: a Commons write is made at its bank access, and a read takes the row as it stands then; the request
leaves in the cycle it lands. Inbound rows of the Commons are performed oldest first, 22 fcyc after their arrival or later, while no
request waits at their bank. -/
def Obligations.CommonsRowsMove : Prop := ∀ (c : CoreId) (n i w : Nat) (s a b : State), a = advance c n s → b = hazardCheck c a →
  (∀ r d row, (a.en c).cmn[i]? = some r → r.done = false → r.req < (a.sc c).stripCyc →
    (a.sc c).stripCyc < r.land ∨ ((a.sc c).run = .stalled ∧ (a.sc c).stripCyc = r.land) →
    (((a.en c).cmn.take i).all fun x => x.done || x.addr != r.addr) = true → r.ok = true → placeOf r.addr = .commons d row →
    w ≤ 7 → r.made + w < (a.sc c).wall → r.isWrite = true →
    gatedFor a d row true = false ∨ acceptedBefore a d row ((a.sc c).wall - w) = true →
    Completes (.commonsBankAccess c n i w .clean) s fun t =>
      readRow t r.addr = r.data ∧ (t.en c).cmn[i]? = some { r with done := true } ∧
      ∀ x, rowBase x ≠ rowBase r.addr → readRow t x = readRow a x) ∧
  (∀ r d row, (a.en c).cmn[i]? = some r → r.done = false → r.req < (a.sc c).stripCyc →
    (a.sc c).stripCyc < r.land ∨ ((a.sc c).run = .stalled ∧ (a.sc c).stripCyc = r.land) →
    (((a.en c).cmn.take i).all fun x => x.done || x.addr != r.addr) = true → r.ok = true → placeOf r.addr = .commons d row →
    w ≤ 7 → r.made + w < (a.sc c).wall → r.isWrite = false → gatedFor a d row false = false →
    Completes (.commonsBankAccess c n i w .clean) s fun t =>
      (t.en c).cmn[i]? = some { r with done := true, data := readRow a r.addr } ∧ OnlyCore c a t) ∧
  (∀ r, (b.sc c).run = .running → (b.sc c).stripCyc < stripLen (b.sc c) → blockedNow b c = [] →
    (b.en c).cmn[i]? = some r → r.done = true → r.land = (b.sc c).stripCyc → Completes (.commonsRowLands c n i) s fun t =>
      (t.en c).cmn = (b.en c).cmn.eraseIdx i ∧ (t.sc c).stk = (b.sc c).stk) ∧
  (∀ r x, (b.sc c).run = .running → (b.sc c).stripCyc < stripLen (b.sc c) → blockedNow b c = [] →
    (b.en c).cmn[i]? = some r → r.done = true → r.land = (b.sc c).stripCyc → r.isWrite = false →
    (b.en c).xfers.find? (fun x => x.id == r.xfer) = some x → x.kind = .cmnFill → Completes (.commonsRowLands c n i) s fun t =>
      OnlyCore c b t ∧
      ({ x with buf := (r.k, r.data) :: x.buf }.over = false → { x with buf := (r.k, r.data) :: x.buf } ∈ (t.en c).xfers)) ∧
  (∀ x d row rest, (a.cm c).cmnIn = x :: rest → x.at_ + 22 ≤ (a.sc c).wall → placeOf x.addr = .commons d row →
    bankWaits a d row = false → gatedFor a d row true = false → Completes (.commonsInboundRowPerform c n) s fun t =>
      readRow t x.addr = x.data ∧ (t.cm c).cmnIn = rest ∧ ∀ y, rowBase y ≠ rowBase x.addr → readRow t y = readRow a y)

/-- R90, R100, R118, R120: at its turn and at an opportunity of its memory, a unit's next row is read; a clean row changes only the turn and
the index. A corrected row counts and waits for its write-back, which writes the corrected row and takes it off the list. -/
def Obligations.ScrubbingTurns : Prop := ∀ (u : ScrubUnit) (d : DieId) (b : Fin 256) (n k : Nat) (s a : State), a = scrubTime u n s →
  ((scrubState a u).1.scrubEn = true → (scrubState a u).2.2 + 2 ^ clampN 8 28 (scrubState a u).1.scrubLog2 ≤ n →
    scrubSlot a u (scrubRow u (scrubState a u).2.1).1 = true →
    readEcc a (scrubRow u (scrubState a u).2.1).2 .clean = .clean → Completes (.scrubRead u n .clean) s fun t =>
      (scrubState t u).2 = (((scrubState a u).2.1 + 1) % scrubRows u,
        (scrubState a u).2.2 + 2 ^ clampN 8 28 (scrubState a u).1.scrubLog2) ∧
      (scrubState t u).1.ce = (scrubState a u).1.ce ∧ (scrubState t u).1.ue = (scrubState a u).1.ue ∧ t.mem = a.mem) ∧
  (u = .commons d b → (s.die d).cmnErr.scrubEn = true → (scrubState s u).2.2 + 2 ^ clampN 8 28 (s.die d).cmnErr.scrubLog2 ≤ n →
    (scrubState s u).2.1 < 16384 → k < 16 → scrubSlot s u (scrubRow u (scrubState s u).2.1).1 = true →
    Completes (.scrubRead u n (.corrected k)) s fun t =>
      (t.die d).cmnErr.ce = min 0xFFFF ((s.die d).cmnErr.ce + 1) ∧
      (t.die d).scrub = (s.die d).scrub ++
        [(b.val, (scrubRow u (scrubState s u).2.1).1, readRow s (scrubRow u (scrubState s u).2.1).2)] ∧ t.mem = s.mem) ∧
  (∀ x, scrubDue a u = some x → scrubSlot a u x.1 = true →
    x.1 < (match u with | .plot _ _ => 12288 | .commons _ _ => 2 ^ 22 | .deep _ _ => 23592960) →
    Completes (.scrubWriteBack u n) s fun t =>
      readRow t (unitAddr u x.1) = x.2 ∧ (∀ y, rowBase y ≠ unitAddr u x.1 → readRow t y = readRow a y) ∧
      (∀ y, scrubDue t u = some y → y.1 ≠ x.1) ∧ (scrubState t u).1 = (scrubState a u).1)

/-- R100, R113, R121 to R123: a page-out is complete while no request waits at its banks: the rows are in the backing area, the handle is
paged out, its extent is free, and the allocator goes on. A closed bank group whose writes are made goes off and an ungated one comes back
in service, in both cases reading zeros, with the arrival on the command's stake. -/
def Obligations.PagesAndGroups : Prop := ∀ (d : DieId) (n i : Nat) (g : Fin 16) (s a : State),
  (∀ j, (s.die d).pageOuts[i]? = some j → a = advance j.core n s → j.h < 64 →
    (List.range 16).any (fun k => bankWaits a d (j.src / 16 * 16 + k)) = false →
    (a.sc j.core).swSet.1 ≠ ccCyc (a.sc j.core) → Completes (.pageOutComplete d n ⟨i, []⟩) s fun t => ∃ b, t = serve d b ∧
      handle b j.core j.h = hPut (handle a j.core j.h) 4 2 (if pagingIn a j.core j.h then 2 else 1) ∧
      vget (b.cm j.core).owned 0 j.h = 0 ∧ (b.die d).pageOuts = (a.die d).pageOuts.eraseIdx i ∧
      (b.die d).extents = (a.die d).extents.filter (fun e => !(e.1 == j.src / 64)) ∧
      b.mem = (copyRows (cmnAddr d j.src) (deepAddr d j.area) (64 * j.pages) [] a).mem) ∧
  (∀ j, (s.die d).gates.find? (fun j => j.g == g && !j.un) = some j → a = advance j.core n s → j.at_ ≤ (a.sc j.core).wall →
    vget (a.die d).groupState 0 g.val = 1 → writesIn a d g.val j.at_ = false → j.stk < 48 →
    (debugMode a j.core = true → (vget (a.sc j.core).stk 0 j.stk).toNat + 1 ≤ 255) → Completes (.gateArrival d n g) s fun t =>
      vget (t.die d).groupState 0 g.val = 2 ∧ (∀ r, r < 2 ^ 18 → readRow t (cmnAddr d (g.val * 2 ^ 18 + r)) = 0) ∧
      (vget (t.sc j.core).stk 0 j.stk).toNat = min 255 ((vget (a.sc j.core).stk 0 j.stk).toNat + 1)) ∧
  (∀ j, (s.die d).gates.find? (fun j => j.g == g && j.un) = some j → a = advance j.core n s → j.at_ + 16384 ≤ (a.sc j.core).wall →
    vget (a.die d).groupState 0 g.val = 3 → j.stk < 48 →
    (debugMode a j.core = true → (vget (a.sc j.core).stk 0 j.stk).toNat + 1 ≤ 255) → Completes (.ungateArrival d n g) s fun t =>
      vget (t.die d).groupState 0 g.val = 0 ∧ (∀ r, r < 2 ^ 18 → readRow t (cmnAddr d (g.val * 2 ^ 18 + r)) = 0) ∧
      (vget (t.sc j.core).stk 0 j.stk).toNat = min 255 ((vget (a.sc j.core).stk 0 j.stk).toNat + 1))

/-! ### Engines (06 to 09) -/

/-- R74, R188, R197, R199 to R201, R212: each of the seven Plough operations issues in its due cycle: it enters the Plough with its place in
MQ moved on and its completion due, the ramp counted when one is needed. No stake, no memory and no other core changes. -/
def Obligations.PloughIssues : Prop := ∀ (c : CoreId) (n : Nat) (w : IWord) (st : Strip) (s a : State), a = hazardCheck c (advance c n s) →
  ∀ i op, (i, op) ∈ [(Instr.plgMm c n, 0x10), (.plgSqd c n, 0x11), (.plgAbd c n, 0x12), (.plgMinplus c n, 0x13),
    (.plgMaxplus c n, 0x14), (.plgXorpop c n, 0x15), (.plgCmpcnt c n, 0x16)] →
  Issues a c .mq op w st →
  ∀ ramp r, ramp = plgRamp st (plgIdle (a.en c) (a.sc c).stripCyc) → r = plgOf a c op w st (a.sc c).stripCyc ramp →
  Completes i s fun t =>
    (t.en c).plg = (a.en c).plg ++ [r] ∧ (t.en c).plgRamps = min 0xFFFFFFFF ((a.en c).plgRamps + if ramp then 1 else 0) ∧
    (t.sc c).flights = (a.sc c).flights ++ [⟨.mq, wTag w, r.comp, physStk (a.sc c) st (wCstk w), wCstkN w, true, false⟩] ∧
    vget (t.sc c).qpos ⟨0, 0, 0⟩ 0 = ⟨(vget (a.sc c).qpos ⟨0, 0, 0⟩ 0).idx + 1, (a.sc c).stripCyc, r.occEnd⟩ ∧
    (t.sc c).stk = (a.sc c).stk ∧ OnlyCore c a t

/-- R195, R203 to R210, R215: an execution's feed window begins, with what its reads meet, taking its wait on the feed stake from execution
1 on; its last cycle releases the other stake; a drain row is counted; the counters clear. -/
def Obligations.PloughWindows : Prop := ∀ (c : CoreId) (n : Nat) (e : ReadErr) (s a : State), a = hazardCheck c (advance c n s) →
  (∀ r, (a.sc c).run = .running → (a.sc c).stripCyc < stripLen (a.sc c) → blockedNow a c = [] →
    (a.en c).plg.find? (fun r => r.execs < r.total && r.begin_ r.execs == (a.sc c).stripCyc) = some r →
    (a.en c).plg = [r] → r.execs = 0 → Completes (.plgExecutionStart c n e) s fun t =>
      (t.en c).plg = [{ r with execs := 1, rows := [], err := e }] ∧ (t.en c).set = r.set0 ∧ t.sc c = a.sc c ∧ OnlyCore c a t) ∧
  (∀ r st, (a.sc c).run = .running → (a.sc c).stripCyc < stripLen (a.sc c) → blockedNow a c = [] →
    (a.en c).plg.find? (fun r => r.execs < r.total && r.begin_ r.execs == (a.sc c).stripCyc) = some r →
    (a.en c).plg = [r] → 1 ≤ r.execs → (a.sc c).strip = some st → pwFstk r.word ≠ 63 →
    Completes (.plgExecutionStart c n e) s fun t =>
      (t.en c).plg = [{ r with execs := r.execs + 1, rows := [], err := e }] ∧
      (t.sc c).stk = vset (a.sc c).stk (physStk (a.sc c) st (pwFstk r.word))
        (vget (a.sc c).stk 0 (physStk (a.sc c) st (pwFstk r.word)) - BitVec.ofNat 8 (pwFstkN r.word)) ∧ OnlyCore c a t) ∧
  (∀ r st, (a.sc c).run = .running → (a.sc c).stripCyc < stripLen (a.sc c) → blockedNow a c = [] →
    (a.en c).plg.find? (fun r => r.rels < r.execs && r.begin_ r.rels + r.feed == (a.sc c).stripCyc + 1) = some r →
    (a.en c).plg = [r] → (a.sc c).strip = some st → pwRstk r.word ≠ 63 → physStk (a.sc c) st (pwRstk r.word) < 48 →
    (debugMode a c = true → (vget (a.sc c).stk 0 (physStk (a.sc c) st (pwRstk r.word))).toNat + pwRstkN r.word ≤ 255) →
    Completes (.plgFeedRelease c n) s fun t =>
      (t.en c).plg = [{ r with rels := r.rels + 1 }] ∧
      (vget (t.sc c).stk 0 (physStk (a.sc c) st (pwRstk r.word))).toNat =
        min 255 ((vget (a.sc c).stk 0 (physStk (a.sc c) st (pwRstk r.word))).toNat + pwRstkN r.word)) ∧
  (∀ r, (a.sc c).run = .running → (a.sc c).stripCyc < stripLen (a.sc c) → blockedNow a c = [] →
    (a.en c).plg.find? (fun r => r.drained < 32 * r.npass && r.drainCyc (r.drained / 32) (r.drained % 32) == (a.sc c).stripCyc) =
      some r → (a.en c).plg = [r] → r.drained + 1 ≠ 32 * r.npass → Completes (.plgDrainRow c n) s fun t =>
    (∃ r', (t.en c).plg = [r'] ∧ r'.drained = r.drained + 1) ∧ (t.sc c).stk = (a.sc c).stk ∧
      (t.en c).plgSat = min 0xFFFFFFFF ((a.en c).plgSat + (((r.drainRow (r.drained / 32)
        ((r.passes.find? fun x => x.1 == r.drained / 32).elim [] (·.2)) (r.drained % 32)).flatMap (·.2)).filter (·.sat)).length)) ∧
  (Completes (.plgCounterClear c) s fun t =>
    (t.en c) = { s.en c with plgRamps := 0, plgSat := 0, plgNonfin := 0 } ∧ OnlyCore c s t)

/-- R219, R223, R226, R235, R240, R244: a chain and a broadcast load issue in their due cycle; a chain's next row is written and
counted; the counters clear, and the summary slots but for what a posting sets in the same
control-core cycle (R12). -/
def Obligations.HarrowChains : Prop := ∀ (c : CoreId) (n : Nat) (e : ReadErr) (w : IWord) (st : Strip) (s a : State),
  a = hazardCheck c (advance c n s) →
  (Issues a c .vq 0x10 w st → ∀ r, r = hrwOf a c (accStart (vget (sumsNow a c) SumSlot.reset (hwSlot w)) (hwAcc w)
      (chSummary (st.chain (hwChain w)))) e w st (a.sc c).stripCyc → Completes (.hrwChain c n e) s fun t =>
    (t.en c).hrw = (a.en c).hrw ++ [r] ∧ (t.en c).sums = (a.en c).sums ∧
    (t.sc c).flights = (a.sc c).flights ++ [⟨.vq, wTag w, r.comp, physStk (a.sc c) st (wCstk w), wCstkN w, true,
      (chSummary (st.chain (hwChain w))).isSome⟩] ∧ OnlyCore c a t) ∧
  (Issues a c .vq 0x11 w st → Completes (.hrwBload c n e) s fun t =>
    (t.en c).bload = (a.en c).bload ++ [⟨wTag w, physH (hdrShared st.hdr) st.slot (w.fld 64 6), w.fld 70 24, w.fld 94 5 + 1,
      (a.sc c).stripCyc, 0, e⟩] ∧
    (t.sc c).flights = (a.sc c).flights ++ [⟨.vq, wTag w, (a.sc c).stripCyc + (w.fld 94 5 + 1), physStk (a.sc c) st (wCstk w),
      wCstkN w, true, false⟩] ∧ OnlyCore c a t) ∧
  (∀ r, (a.sc c).run = .running → (a.sc c).stripCyc < stripLen (a.sc c) → blockedNow a c = [] →
    (a.en c).hrw.find? (fun r => r.wrote < r.execs * r.rowsPer &&
      r.writeCyc (r.wrote / r.rowsPer) (r.wrote % r.rowsPer) == (a.sc c).stripCyc) = some r →
    (a.en c).hrw = [r] → r.wrote + 1 ≠ r.execs * r.rowsPer → Completes (.hrwWriteRow c n) s fun t =>
      (t.en c).hrw = [{ r with wrote := r.wrote + 1 }] ∧
      (t.en c).hrwSat = min 0xFFFFFFFF ((a.en c).hrwSat +
        (r.writeRowOf (a.en c).bbuf (r.wrote / r.rowsPer) (r.wrote % r.rowsPer)).2.1) ∧ (t.sc c).stk = (a.sc c).stk) ∧
  (Completes (.hrwCounterClear c) s fun t => t.en c = { s.en c with hrwSat := 0, hrwNonfin := 0 } ∧ OnlyCore c s t) ∧
  (Completes (.hrwSumClear c) s fun t => OnlyCore c s t ∧ ∀ k, k < 8 →
    vget (t.en c).sums SumSlot.reset k = { vget (s.en c).sums SumSlot.reset k with
      valid := (vget (s.en c).sums SumSlot.reset k).valid && bitSet (s.sc c) (0xB48 + 16 * k) 0,
      mism := (vget (s.en c).sums SumSlot.reset k).mism && bitSet (s.sc c) (0xB48 + 16 * k) 1 })

/-- R251, R254, R262, R268, R275: an update issues with its step-table entry latched (a fault record of class 12 when the entry is not
good), a root commit with its new header, where its hopper read is no uncorrectable one, which
ends the strip (R92, R119); the next record row is written and counted; the counters clear. -/
def Obligations.TillerUpdates : Prop := ∀ (c : CoreId) (n : Nat) (e : ReadErr) (w : IWord) (st : Strip) (s a : State),
  a = hazardCheck c (advance c n s) →
  (Issues a c .uq 0x10 w st → ∀ r, r = tlrOf a c e w st (a.sc c).stripCyc →
    Completes (.tlrUpd c n e) s fun t =>
      (t.en c).tlr = (a.en c).tlr ++ [r] ∧ (t.en c).tlrGroupBad = ((a.en c).tlrGroupBad || !r.good) ∧
      (t.sc c).stk = (a.sc c).stk ∧ t.mem = a.mem) ∧
  (Issues a c .uq 0x11 w st → Completes (.tlrRootfin c ⟨n, []⟩) s fun t =>
      (∃ r, (t.en c).root = (a.en c).root ++ [r] ∧ r.t0 = (a.sc c).stripCyc ∧
        r.ok = rootAccepted (hopRow (a.sc c).wall (a.cm c) (hopBase 7 (w.fld 64 1))) (vget (sumsNow a c) SumSlot.reset (w.fld 95 3))
          (vget (sumsNow a c) SumSlot.reset (w.fld 98 3))) ∧
      (t.sc c).flights = (a.sc c).flights ++ [⟨.uq, wTag w, (a.sc c).stripCyc + 8, physStk (a.sc c) st (wCstk w), wCstkN w, true,
        false⟩] ∧ OnlyCore c a t) ∧
  (∀ k, Issues a c .uq 0x11 w st → Completes (.tlrRootfin c ⟨n, [(0, .bad k)]⟩) s fun t =>
      (t.sc c).run = .faulted ∧ (t.sc c).strip = none ∧ (t.cm c).err.ue = min 0xFF ((a.cm c).err.ue + 1) ∧ t.mem = a.mem) ∧
  (∀ r, (a.sc c).run = .running → (a.sc c).stripCyc < stripLen (a.sc c) → blockedNow a c = [] →
    (a.en c).tlr.find? (fun r => r.wrote < r.execs * r.perExec &&
      r.writeCyc (r.wrote / r.perExec) (r.wrote % r.perExec) == (a.sc c).stripCyc) = some r →
    (a.en c).tlr = [r] → r.wrote + 1 ≠ r.execs * r.perExec → r.wrote % r.perExec < r.rows → Completes (.tlrRecordWrite c n) s fun t =>
      (t.en c).tlr = [{ r with wrote := r.wrote + 1 }] ∧ (t.en c).tlrRows = (a.en c).tlrRows + 1 ∧ (t.sc c).stk = (a.sc c).stk) ∧
  (Completes (.tlrCounterClear c) s fun t =>
    t.en c = { s.en c with tlrNonfin := 0, tlrSat := 0, tlrDup := 0, tlrHorizon := 0, tlrOk := 0, tlrFail := 0 } ∧ OnlyCore c s t)

/-- R289, R292, R293, R297, R298: each transfer takes the next free place on its streams and its completion cycle. A move whose ends break
R298 moves no row and leaves a record. -/
def Obligations.TransfersIssue : Prop := ∀ (c : CoreId) (n : Nat) (e : ReadErr) (w : IWord) (st : Strip) (s a : State),
  a = hazardCheck c (advance c n s) →
  (Issues a c .tq 0x10 w st → Completes (.xfFill c n e) s fun t =>
    ∃ x, (t.en c).xfers = (a.en c).xfers ++ [x] ∧ x.id = (a.en c).nextId ∧ x.kind = (fillOf c w st e a).kind ∧
      x.s = (fillOf c w st e a).startAt (a.en c).streams (a.sc c).stripCyc ∧ x.hop = xfHop w % 8 ∧ x.half = xfHalf w ∧
      (t.sc c).flights = (a.sc c).flights ++ [⟨.tq, wTag w, x.comp, physStk (a.sc c) st (wCstk w), wCstkN w, true, false⟩] ∧
      OnlyCore c a t) ∧
  (Issues a c .tq 0x11 w st → (moveOf c w st e a).kind ≠ .none → Completes (.xfMove c n e) s fun t =>
    ∃ x, (t.en c).xfers = (a.en c).xfers ++ [x] ∧ x.kind = (moveOf c w st e a).kind ∧
      x.s = (moveOf c w st e a).startAt (a.en c).streams (a.sc c).stripCyc ∧
      x.srcH = physH (hdrShared st.hdr) st.slot (xwSrcH w) ∧ x.dstH = physH (hdrShared st.hdr) st.slot (xmDstH w) ∧ OnlyCore c a t) ∧
  (Issues a c .tq 0x11 w st → (moveOf c w st e a).kind = .none → Completes (.xfMove c n e) s fun t =>
    (∃ x, (t.en c).xfers = (a.en c).xfers ++ [x] ∧ x.kind = .none) ∧ t.mem = a.mem ∧
      t.hub.hl.faults.length = a.hub.hl.faults.length + 1) ∧
  (∀ i op k, (i, op, k) ∈ [(Instr.xfGate c n, 0x12, XKind.gate), (.xfUngate c n, 0x13, .ungate)] → Issues a c .tq op w st →
    Completes i s fun t => ∃ x, (t.en c).xfers = (a.en c).xfers ++ [x] ∧ x.kind = k ∧ x.dstH = xgGroup w ∧
      x.astk = physStk (a.sc c) st (xgStk w) ∧ x.astkN = 1 ∧ OnlyCore c a t)

/-- R90, R300, R306: the oldest 32 trace records go to the next row of the ring; enabling starts an empty trace at row 0; the drop count
clears. -/
def Obligations.TraceUnit : Prop := ∀ (c : CoreId) (n : Nat) (v : Word) (s a : State), a = advance c n s →
  (∀ row, row = (a.cc c).traceBase + (a.cc c).traceWptr % (a.cc c).traceRows → row < 12288 → 32 ≤ (a.cc c).traceBuf.length →
    (a.cc c).traceRows ≠ 0 → free7Now a c 5 row = true → lockedRow a (plotAddr c row) = false →
    Completes (.traceRowWrite c n) s fun t =>
      readRow t (plotAddr c row) = packRow 128 (((a.cc c).traceBuf.take 32).map BitVec.toNat) ∧
      (t.cc c).traceBuf = (a.cc c).traceBuf.drop 32 ∧ (t.cc c).traceWptr = ((a.cc c).traceWptr + 1) % 2 ^ 32 ∧
      ∀ r, rowBase r ≠ plotAddr c row → readRow t r = readRow a r) ∧
  (Completes (.traceEnable c v) s fun t => (t.cc c).traceCfg = v.setWidth 9 ∧ OnlyCore c s t ∧
    (if v.getLsbD 0 ∧ (s.cc c).traceCfg.getLsbD 0 = false then (t.cc c).traceWptr = 0 ∧ (t.cc c).traceBuf = []
      else (t.cc c).traceWptr = (s.cc c).traceWptr ∧ (t.cc c).traceBuf = (s.cc c).traceBuf)) ∧
  (Completes (.traceDropClear c) s fun t => t.cc c = { s.cc c with traceDrop := 0 } ∧ OnlyCore c s t)

/-- R266, R267, R436, R438, R493: a step advance to g + 1 is taken up and answered 0, another target with 3; it is evaluated on every die,
and its commit makes the target the global step, the new table the current one and the old one the previous. An armed privileged value
awaits its step. -/
def Obligations.StepAdvances : Prop := ∀ (src : CmdSrc) (x : CtxId) (g : Nat) (s : State),
  (TakesCommand s 4 whoHSC src → (s.advOf x).pending = none → g = (s.advOf x).step.toNat + 1 → Completes (.stepAdvance src x g) s fun t =>
    (t.advOf x).pending = some (g, src) ∧ (t.advOf x).evald = false ∧ (t.advOf x).step = (s.advOf x).step ∧ Replies src 4 0 0 t) ∧
  (TakesCommand s 4 whoHSC src → (s.advOf x).pending = none → g ≠ (s.advOf x).step.toNat + 1 → Completes (.stepAdvance src x g) s fun t =>
    t.hub.adv = s.hub.adv ∧ Replies src 4 3 0 t) ∧
  (TakesCommand s 4 whoHSC src → (s.advOf x).pending.isSome → Completes (.stepAdvance src x g) s fun t =>
    t.hub.adv = s.hub.adv ∧ Replies src 4 1 0 t) ∧
  ((s.advOf x).pending = some (g, src) → (s.advOf x).evald = false → (vget s.hub.snp SnpCtx.reset x.val).jEntries = 0 ∨ g ≤ (vget s.hub.snp SnpCtx.reset x.val).jStep →
    privMissing s x g = [] → olderStrip s x (s.advOf x).step.toNat = false → Completes (.stepAdvanceEvaluate x) s fun t =>
    (t.advOf x).evald = true ∧ (t.advOf x).step = (s.advOf x).step ∧
    ∀ d, (t.die d).schedBusy = true ∧ (t.die d).schedCtx = x.val ∧ (t.die d).tabCur = (s.die d).tabCur ∧
      (t.die d).tabPrev = (s.die d).tabPrev ∧
      (t.die d).tabNext.take (evalDie s (s.die d) x g).length = evalDie s (s.die d) x g) ∧
  ((s.advOf x).pending = some (g, src) → (s.advOf x).evald = true → Completes (.stepAdvanceCommit x) s fun t =>
    (t.advOf x).step = BitVec.ofNat 64 g ∧ (t.advOf x).pending = none ∧
    ∀ d, (t.die d).tabCur = (turnTables x (s.die d)).tabCur ∧ (t.die d).tabPrev = (turnTables x (s.die d)).tabPrev ∧
      (t.die d).tabNext = (turnTables x (s.die d)).tabNext ∧ (t.die d).schedBusy = false) ∧
  (∀ (k : Fin 8) (par : Fin 2) (hi : Word) (w : Writer), w = .host ∨ w = .headland → ∀ v,
    v = (vget (s.advOf x).privStep 0 (2 * k.val + par.val)).toNat % 2 ^ 32 + hi.toNat * 2 ^ 32 →
    (vget (s.advOf x).armed none (2 * k.val + par.val)).any (fun y => (s.advOf x).step.toNat < y.1 && y.1 != v) = false →
    Completes (.privStepArm w x k par hi) s fun t =>
      vget (t.advOf x).armed none (2 * k.val + par.val) = some (v, vget (s.advOf x).privVal 0 (2 * k.val + par.val)) ∧
      vget (t.advOf x).privStep 0 (2 * k.val + par.val) = BitVec.ofNat 64 v ∧ t.hub.privReject = s.hub.privReject)

/-! ### Control core (10) -/

/-- R308, R310: the arithmetic instructions of RV32IM write their result to rd and go on at the next instruction: 1 control-core cycle,
2 for a product, 34 for a quotient. -/
def Obligations.ArithmeticInstructions : Prop := ∀ (c : CoreId) (n w : Nat) (e : Ecc) (s a : State), a = advance c n s → Fetches a c w →
  ∀ rd f3 f7 x y, rd = bitsOf w 7 5 → f3 = bitsOf w 12 3 → f7 = bitsOf w 25 7 → x = regGet (a.cc c) (bitsOf w 15 5) →
  y = regGet (a.cc c) (bitsOf w 20 5) →
  (bitsOf w 0 7 = 0x33 → f7 = 0 → Completes (.ccInstruction c n .clean e) s fun t =>
    Retires c ((a.cc c).pc + 4) 1 rd (aluOp f3 false x y) a t ∧ OnlyCore c a t) ∧
  (bitsOf w 0 7 = 0x33 → f7 = 0x20 → f3 = 0 ∨ f3 = 5 → Completes (.ccInstruction c n .clean e) s fun t =>
    Retires c ((a.cc c).pc + 4) 1 rd (aluOp f3 true x y) a t ∧ OnlyCore c a t) ∧
  (bitsOf w 0 7 = 0x33 → f7 = 1 → Completes (.ccInstruction c n .clean e) s fun t =>
    Retires c ((a.cc c).pc + 4) (if f3 < 4 then 2 else 34) rd (mulOp f3 x y) a t ∧ OnlyCore c a t) ∧
  (bitsOf w 0 7 = 0x13 → f3 ≠ 1 → f3 ≠ 5 → Completes (.ccInstruction c n .clean e) s fun t =>
    Retires c ((a.cc c).pc + 4) 1 rd (aluOp f3 false x (immI w)) a t ∧ OnlyCore c a t) ∧
  (bitsOf w 0 7 = 0x37 → Completes (.ccInstruction c n .clean e) s fun t =>
    Retires c ((a.cc c).pc + 4) 1 rd (immU w) a t ∧ OnlyCore c a t) ∧
  (bitsOf w 0 7 = 0x17 → Completes (.ccInstruction c n .clean e) s fun t =>
    Retires c ((a.cc c).pc + 4) 1 rd ((a.cc c).pc + immU w) a t ∧ OnlyCore c a t) ∧
  (bitsOf w 0 7 = 0x13 → f3 = 1 ∧ f7 = 0 ∨ f3 = 5 ∧ f7 = 0 ∨ f3 = 5 ∧ f7 = 0x20 → Completes (.ccInstruction c n .clean e) s fun t =>
    Retires c ((a.cc c).pc + 4) 1 rd (aluOp f3 (f7 == 0x20) x (immI w)) a t ∧ OnlyCore c a t) ∧
  (bitsOf w 0 7 = 0x73 → f3 = 2 → bitsOf w 15 5 = 0 → bitsOf w 20 12 = 0xF14 → Completes (.ccInstruction c n .clean e) s fun t =>
    Retires c ((a.cc c).pc + 4) 1 rd (BitVec.ofNat 32 c.val) a t ∧ OnlyCore c a t)

/-- R308, R310, R311, R312: jumps and taken branches go to their target in 2 cycles; aligned loads and stores of data memory move their
bytes; a misaligned load, an ECALL and an instruction the core lacks trap: the control core halts with mcause and mepc written and
TRAPPED set, and the schedule goes on as it was (`hwSet` only notes which status bits the cycle has set). -/
def Obligations.ControlAndMemoryInstructions : Prop := ∀ (c : CoreId) (n w : Nat) (s a : State), a = advance c n s → Fetches a c w →
  ∀ rd f3 x y, rd = bitsOf w 7 5 → f3 = bitsOf w 12 3 → x = regGet (a.cc c) (bitsOf w 15 5) → y = regGet (a.cc c) (bitsOf w 20 5) →
  (bitsOf w 0 7 = 0x6F → Completes (.ccInstruction c n .clean .clean) s fun t =>
    Retires c (((a.cc c).pc + immJ w) &&& 0xFFFFFFFE#32) 2 rd ((a.cc c).pc + 4) a t ∧ OnlyCore c a t) ∧
  (bitsOf w 0 7 = 0x67 → f3 = 0 → Completes (.ccInstruction c n .clean .clean) s fun t =>
    Retires c ((x + immI w) &&& 0xFFFFFFFE#32) 2 rd ((a.cc c).pc + 4) a t ∧ OnlyCore c a t) ∧
  (∀ b, bitsOf w 0 7 = 0x63 → branchTaken f3 x y = some b → Completes (.ccInstruction c n .clean .clean) s fun t =>
    Retires c ((a.cc c).pc + if b then immB w else 4) (if b then 2 else 1) 0 0 a t ∧ OnlyCore c a t) ∧
  (∀ b, bitsOf w 0 7 = 0x03 → f3 ≠ 3 → f3 ≤ 5 → b = (x + immI w).toNat → b % 2 ^ (f3 % 4) = 0 → 0x10000 ≤ b → b < 0x20000 →
    Completes (.ccInstruction c n .clean .clean) s fun t =>
    Retires c ((a.cc c).pc + 4) 2 rd (BitVec.ofNat 32 (loadExt f3 (2 ^ (f3 % 4)) (readCells (a.cc c).dmem (b - 0x10000) (2 ^ (f3 % 4)))))
      a t ∧ (t.cc c).dmem = (a.cc c).dmem ∧ OnlyCore c a t) ∧
  (∀ b, bitsOf w 0 7 = 0x23 → f3 ≤ 2 → b = (x + immS w).toNat → b % 2 ^ f3 = 0 → 0x10000 ≤ b → b < 0x20000 →
    Completes (.ccInstruction c n .clean .clean) s fun t =>
    Retires c ((a.cc c).pc + 4) 2 0 0 a t ∧ OnlyCore c a t ∧
    (∀ i, i < 2 ^ f3 → cellGet (t.cc c).dmem (b - 0x10000 + i) = BitVec.ofNat 8 (y.toNat / 2 ^ (8 * i))) ∧
    ∀ i, i < b - 0x10000 ∨ b - 0x10000 + 2 ^ f3 ≤ i → cellGet (t.cc c).dmem i = cellGet (a.cc c).dmem i) ∧
  (∀ b, bitsOf w 0 7 = 0x03 → f3 ≠ 3 → f3 ≤ 5 → b = (x + immI w).toNat → b % 2 ^ (f3 % 4) ≠ 0 →
    Completes (.ccInstruction c n .clean .clean) s fun t =>
    (t.cc c).run = .halted ∧ (t.cc c).mcause = 4 ∧ (t.cc c).mepc = (a.cc c).pc ∧ (t.cc c).trapped = true ∧
    (t.cc c).regs = (a.cc c).regs ∧ t.sc c = { a.sc c with hwSet := (t.sc c).hwSet }) ∧
  (w = 0x00000073 → Completes (.ccInstruction c n .clean .clean) s fun t =>
    (t.cc c).run = .halted ∧ (t.cc c).mcause = 11 ∧ (t.cc c).mepc = (a.cc c).pc ∧ (t.cc c).trapped = true ∧
    (t.cc c).regs = (a.cc c).regs ∧ t.sc c = { a.sc c with hwSet := (t.sc c).hwSet }) ∧
  (bitsOf w 0 7 = 0x2F → Completes (.ccInstruction c n .clean .clean) s fun t =>
    (t.cc c).run = .halted ∧ (t.cc c).mcause = 2 ∧ (t.cc c).mepc = (a.cc c).pc ∧ (t.cc c).trapped = true ∧
    (t.cc c).regs = (a.cc c).regs ∧ t.sc c = { a.sc c with hwSet := (t.sc c).hwSet })

/-- R6, R311, R316, R317, R319, R329 to R331, R524: starting, halting and programming control cores; the instructions on events, the faulted
state, summaries and stakes. ctl.wfe returns the masked events of earlier cycles and clears them, or
waits and returns in the first control-core cycle that begins after one; ctl.stkclr does nothing while a strip runs or is
pending; ctl.hret returns to ctl.wfe. -/
def Obligations.CoreControlInstructions : Prop :=
  (∀ (c : CoreId) (s : State),
    (∀ pc : BitVec 16, fusedOff s c = false → Completes (.ccStart c pc) s fun t =>
      (t.cc c).run = .running ∧ (t.cc c).pc = BitVec.ofNat 32 (pc.toNat / 2 * 2) ∧ (t.cc c).trapped = false ∧
      (t.cc c).regs = (s.cc c).regs ∧ (t.cc c).dmem = (s.cc c).dmem) ∧
    (∀ pc : BitVec 16, fusedOff s c = true → Completes (.ccStart c pc) s fun t => (t.cc c).run = (s.cc c).run ∧ OnlyCore c s t) ∧
    (Completes (.ccHalt c) s fun t => (t.cc c).run = .halted ∧ (t.cc c).hdlActive = false ∧ (t.cc c).pc = (s.cc c).pc ∧
      (t.cc c).regs = (s.cc c).regs ∧ t.sc c = s.sc c) ∧
    (∀ src mask row rows dg, TakesCommand s 2 whoHS src → mask.getLsbD c.val = true → fusedOff s c = false → rows ≤ 128 →
      row + 128 + rows ≤ 12288 → (∀ k, (s.cc k).progCopy = none) → Completes (.coreProgram src mask row rows dg) s fun t =>
      (t.cc c).run = .halted ∧ (t.cc c).progCopy = some ⟨row, rows, dg, (s.sc c).wall, [], 0⟩ ∧ Replies src 2 0 0 t) ∧
    (∀ n a g, a = advance c n s → (a.cc c).progCopy = some g → g.got.length = 128 + g.dataRows → fusedOff a c = false →
      BitVec.ofNat 256 (digestNat (sha256 (g.got.flatMap Row.bytes))) = g.digest →
      Completes (.coreProgramCopyDone ⟨⟨c, n⟩, []⟩) s fun t =>
      (t.cc c).run = .running ∧ (t.cc c).pc = 0 ∧ (t.cc c).progOk = true ∧ (t.cc c).progDigest = g.digest ∧ (t.cc c).progCopy = none ∧
      ∀ i, i < 65536 → cellGet (t.cc c).imem i = (g.got.flatMap Row.bytes).getD i 0) ∧
    (∀ n a g, a = advance c n s → (a.cc c).progCopy = some g → g.got.length = 128 + g.dataRows →
      BitVec.ofNat 256 (digestNat (sha256 (g.got.flatMap Row.bytes))) ≠ g.digest →
      Completes (.coreProgramCopyDone ⟨⟨c, n⟩, []⟩) s fun t =>
        (t.cc c).run = (a.cc c).run ∧ (t.cc c).imem = [] ∧ (t.cc c).progCopy = none ∧ (t.cc c).progOk = (a.cc c).progOk) ∧
    (Completes (.faultLostClear c) s fun t => t.cc c = { s.cc c with lost := 0 } ∧ OnlyCore c s t)) ∧
  (∀ (c : CoreId) (n : Nat) (rd r1 : Reg) (s a : State), a = advance c n s → (a.cc c).run = .wfe → (a.cc c).wfeRd < 32 →
    ccEdge (a.sc c) = true → wfeDue a c = some (ccCyc (a.sc c)) → dispatches a c = false → Completes (.ctlWfe c n rd r1) s fun t =>
      (t.cc c).run = .running ∧ (t.cc c).pc = (a.cc c).pc + 4 ∧
      (t.cc c).events = (a.cc c).events &&& ~~~(eventsSeen a c &&& (a.cc c).wfeMask) ∧
      regGet (t.cc c) (a.cc c).wfeRd =
        (if (a.cc c).wfeRd = 0 then 0 else BitVec.ofNat 32 (eventsSeen a c &&& (a.cc c).wfeMask).toNat) ∧ OnlyCore c a t) ∧
  (∀ (c : CoreId) (n : Nat) (rd r1 r2 : Reg) (s a : State), a = advance c n s →
    ccIssues a c = true →
    ((a.cc c).run = .running → a.reg c r1 < 64 → eventsSeen a c &&& BitVec.ofNat 6 (a.reg c r1) ≠ 0 → dispatches a c = false →
      Completes (.ctlWfe c n rd r1) s fun t =>
      (t.cc c).events = (a.cc c).events &&& ~~~(eventsSeen a c &&& BitVec.ofNat 6 (a.reg c r1)) ∧
      Returns c rd (eventsSeen a c &&& BitVec.ofNat 6 (a.reg c r1)).toNat a t ∧ OnlyCore c a t) ∧
    ((a.cc c).run = .running → a.reg c r1 < 64 → eventsSeen a c &&& BitVec.ofNat 6 (a.reg c r1) = 0 →
      Completes (.ctlWfe c n rd r1) s fun t =>
      (t.cc c).run = .wfe ∧ (t.cc c).pc = (a.cc c).pc ∧ (t.cc c).regs = (a.cc c).regs ∧ OnlyCore c a t) ∧
    ((a.cc c).run = .handler → Completes (.ctlHret c n) s fun t =>
      (t.cc c).run = .running ∧ (t.cc c).pc = (a.cc c).wfePc ∧ (t.cc c).hdlActive = false ∧ (t.cc c).regs = (a.cc c).regs ∧ OnlyCore c a t) ∧
    ((a.sc c).run = .faulted → (a.sc c).launch = none → Completes (.ctlFclr c n) s fun t =>
      (t.sc c).run = .idle ∧ (t.sc c).cause = .none ∧ (t.sc c).stk = (a.sc c).stk ∧ (t.sc c).hq = (a.sc c).hq ∧
      (t.cc c).pc = (a.cc c).pc + 4 ∧ OnlyCore c a t) ∧
    (a.reg c r1 < 8 → Completes (.ctlSum c n rd r1) s fun t =>
      Returns c rd ((vget (sumsNow a c) SumSlot.reset (a.reg c r1)).value.toNat % 2 ^ 32) a t ∧ (t.en c).sums = (a.en c).sums ∧
      OnlyCore c a t) ∧
    (a.reg c r1 < 48 → Completes (.ctlStkrd c n rd r1) s fun t =>
      Returns c rd (vget (a.sc c).stk0 0 (a.reg c r1)).toNat a t ∧ t.sc c = a.sc c ∧ OnlyCore c a t) ∧
    (a.reg c r1 < 48 → 1 ≤ a.reg c r2 → a.reg c r2 ≤ 255 →
      (debugMode a c = true → (vget (a.sc c).stk 0 (a.reg c r1)).toNat + a.reg c r2 ≤ 255) → Completes (.ctlStkadd c n r1 r2) s fun t =>
      (vget (t.sc c).stk 0 (a.reg c r1)).toNat = min 255 ((vget (a.sc c).stk 0 (a.reg c r1)).toNat + a.reg c r2) ∧
      (t.sc c).stk0 = (a.sc c).stk0 ∧ (t.cc c).pc = (a.cc c).pc + 4 ∧ (t.cc c).regs = (a.cc c).regs) ∧
    (a.reg c r1 < 48 → (a.sc c).strip = none → (a.sc c).launch = none → Completes (.ctlStkclr c n rd r1) s fun t =>
      (t.sc c).stk = vset (a.sc c).stk (a.reg c r1) 0 ∧ Returns c rd 0 a t ∧ OnlyCore c a t) ∧
    (a.reg c r1 < 48 → (a.sc c).strip.isSome ∨ (a.sc c).launch.isSome → Completes (.ctlStkclr c n rd r1) s fun t =>
      (t.sc c).stk = (a.sc c).stk ∧ Returns c rd 1 a t ∧ OnlyCore c a t))

/-- R105, R108 to R111, R317, R318: a handle is set from data memory with its generation kept; releasing one makes it free with the next
generation; an allocation waits for the die's allocator, which answers 0 with the extent of R110, 1 where none is left
to be found, or 2 for a handle in use. -/
def Obligations.HandleInstructions : Prop := ∀ (c : CoreId) (d : DieId) (n : Nat) (rd r1 r2 : Reg) (s a : State), a = advance c n s →
  (ccIssues a c = true → a.reg c r1 < 64 → a.reg c r2 % 16 = 0 → 0x10000 ≤ a.reg c r2 → a.reg c r2 < 0x20000 →
    Completes (.ctlHset c n rd r1 ⟨r2, []⟩) s fun t =>
    handle t c (a.reg c r1) = handleWrite (handle a c (a.reg c r1))
      (BitVec.ofNat 128 (readCells (a.cc c).dmem (a.reg c r2 - 0x10000) 16)) ∧
    hGen (handle t c (a.reg c r1)) = hGen (handle a c (a.reg c r1)) ∧
    (∀ k, k ≠ a.reg c r1 → handle t c k = handle a c k) ∧ Returns c rd 0 a t ∧ OnlyCore c a t) ∧
  (ccIssues a c = true → a.reg c r1 < 64 → (a.die (dieOf c)).allocQ = [] → Completes (.ctlHrel c n r1) s fun t =>
    hRes (handle t c (a.reg c r1)) = 3 ∧ hGen (handle t c (a.reg c r1)) = (hGen (handle a c (a.reg c r1)) + 1) % 256 ∧
    (∀ k, k ≠ a.reg c r1 → handle t c k = handle a c k) ∧ (t.cc c).pc = (a.cc c).pc + 4) ∧
  (∀ b, ccIssues a c = true → a.reg c r1 < 64 → b = freeHandle c (a.reg c r1) a → Completes (.ctlHrel c n r1) s fun t =>
    handle t c (a.reg c r1) = hPut (hPut (handle b c (a.reg c r1)) 6 8 (hGen (handle b c (a.reg c r1)) + 1)) 4 2 3 ∧
    (∀ k, k ≠ a.reg c r1 → handle t c k = handle b c k) ∧ (t.cc c).pc = (a.cc c).pc + 4) ∧
  (ccIssues a c = true → a.reg c r1 < 1024 → bitsOf (a.reg c r1) 6 2 = 0 → bitsOf (a.reg c r2) 0 16 ≠ 0 →
    bitsOf (a.reg c r2) 16 15 = 0 → Completes (.ctlHalloc c n rd r1 r2) s fun t =>
    (t.cc c).halloc = some (rd.val, a.reg c r1 % 64, Fin.ofNat 4 (a.reg c r1 / 256), a.reg c r2 % 2 ^ 16, bitOf (a.reg c r2) 31) ∧
    ⟨c, (a.sc c).wall, none⟩ ∈ (t.die (dieOf c)).allocQ ∧ (t.cc c).pc = (a.cc c).pc ∧ (t.cc c).regs = (a.cc c).regs) ∧
  (∀ b x rest q g h slot pages pg p, b = serve d s → (b.die d).allocQ = ⟨c, x, none⟩ :: rest → q = advance c n b →
    (q.cc c).halloc = some (g, h, slot, pages, pg) → h < 64 → hRes (handle q c h) = 3 →
    findExtent (q.die d) (slotCtx q c slot.val) pages = some p → Completes (.allocatorAnswer d n) s fun t =>
    (∃ y, t = ccLate c 1 (allocDone d y) ∧ handle y c h = allocHandle (handle q c h) d (slotCtx q c slot.val) p pages pg ∧
      (∀ k, k ≠ h → handle y c k = handle q c k) ∧ (y.die d).extents = insertExt (p, pages) (q.die d).extents) ∧
    (t.cc c).halloc = none ∧ regGet (t.cc c) g = 0 ∧ (t.cc c).pc = (q.cc c).pc + 4) ∧
  (∀ b x rest q g h slot pages pg v, b = serve d s → (b.die d).allocQ = ⟨c, x, none⟩ :: rest → q = advance c n b →
    (q.cc c).halloc = some (g, h, slot, pages, pg) →
    (hRes (handle q c h) ≠ 3 ∧ v = 2) ∨ (hRes (handle q c h) = 3 ∧ v = 1 ∧ allocFails q d (slotCtx q c slot.val) pages = true) →
    Completes (.allocatorAnswer d n) s fun t =>
    (∃ y, t = ccLate c 1 (allocDone d y) ∧ (∀ k, handle y c k = handle q c k) ∧ (y.die d).extents = (q.die d).extents) ∧
    (t.cc c).halloc = none ∧ (t.cc c).pc = (q.cc c).pc + 4 ∧ (0 < g → g < 32 → regGet (t.cc c) g = v))

/-- R84, R90, R314, R315, R320 to R323, R328, R331: the row window, the fault ring and the dispatch of a handler. -/
def Obligations.WindowRingAndHandlers : Prop := ∀ (c : CoreId) (n : Nat) (rd r1 : Reg) (s a : State), a = advance c n s →
  (ccIssues a c = true → a.reg c r1 < 12288 → Completes (.ctlWrd c n rd r1) s fun t =>
    (t.cc c).winOp = some ⟨false, a.reg c r1, rd.val, (a.sc c).wall⟩ ∧ (t.cc c).pc = (a.cc c).pc ∧ OnlyCore c a t) ∧
  (ccIssues a c = true → a.reg c r1 < 12288 → Completes (.ctlWwr c n r1) s fun t =>
    (t.cc c).winOp = some ⟨true, a.reg c r1, 0, (a.sc c).wall⟩ ∧ (t.cc c).pc = (a.cc c).pc ∧ OnlyCore c a t) ∧
  (∀ op, (a.cc c).winOp = some op → first7 a c 3 op.row (op.issued + 1) = true → op.write = false →
    Completes (.rowWindowAccess c n .clean) s fun t =>
    (t.cc c).win = readRow a (plotAddr c op.row) ∧ (t.cc c).winOp = none ∧ regGet (t.cc c) op.rd = 0 ∧
    (t.cc c).pc = (a.cc c).pc + 4 ∧ OnlyCore c a t) ∧
  (∀ op, (a.cc c).winOp = some op → first7 a c 3 op.row (op.issued + 1) = true → op.write = true → op.row < 12288 →
    lockedRow a (plotAddr c op.row) = false → Completes (.rowWindowAccess c n .clean) s fun t =>
    readRow t (plotAddr c op.row) = (a.cc c).win ∧ (t.cc c).winOp = none ∧ (t.cc c).pc = (a.cc c).pc + 4 ∧
    ∀ x, rowBase x ≠ plotAddr c op.row → readRow t x = readRow a x) ∧
  (ccIssues a c = true → a.reg c r1 % 64 = 0 → (a.cc c).ring = [] → Completes (.ctlFpop c n rd r1) s fun t =>
    Returns c rd 0 a t ∧ (t.cc c).ring = [] ∧ (t.cc c).dmem = (a.cc c).dmem ∧ OnlyCore c a t) ∧
  (∀ f fs, ccIssues a c = true → a.reg c r1 % 64 = 0 → 0x10000 ≤ a.reg c r1 → a.reg c r1 < 0x20000 → (a.cc c).ring = f :: fs →
    fs.length < 2 ^ 31 → Completes (.ctlFpop c n rd r1) s fun t =>
    Returns c rd (fs.length + 1) a t ∧ (t.cc c).ring = fs ∧
    readCells (t.cc c).dmem (a.reg c r1 - 0x10000) 64 = f.toNat ∧ OnlyCore c a t) ∧
  (∀ r l, (a.cc c).run = .wfe → mayDispatch a c = true → dispatchDue a c = some (ccCyc (a.sc c)) →
    dispatchPick a c = some (r, l) → r < 16 →
    (hdlEntry (a.cc c) (mhTag l.hdr / 2 ^ 16)).getLsbD 0 = true → Completes (.handlerDispatch c n) s fun t =>
    (t.cc c).run = .handler ∧ (t.cc c).hdlActive = true ∧ (t.cc c).hdlRing = r ∧
    (t.cc c).pc = BitVec.ofNat 32 ((hdlEntry (a.cc c) (mhTag l.hdr / 2 ^ 16)).toNat / 2 * 2) ∧
    regGet (t.cc c) 10 = BitVec.ofNat 32 r ∧ regGet (t.cc c) 12 = BitVec.ofNat 32 (mhTag l.hdr) ∧
    regGet (t.cc c) 13 = BitVec.ofNat 32 (mhLen l.hdr) ∧
    (t.cc c).readyAt = (a.sc c).origin + 4 * (max (dispatchFirst a c) (ccOf (a.sc c) l.cyc) + 12) ∧ OnlyCore c a t)

/-! ### Messages and rings (11) -/

/-- R317, R334, R335, R349, R354: ctl.send takes one of the four places and returns 0, or 1 with none free; the send engine reads the
header, stamps it with the slot's next SEQ and hands it over; rows that waited for earlier writes leave together, in a
later cycle than the last of those writes and behind the earlier messages to their ring. -/
def Obligations.MessagesAreSent : Prop := ∀ (c : CoreId) (n i : Nat) (rd rs : Reg) (s a : State), a = advance c n s →
  (ccIssues a c = true → a.reg c rs < 12288 → (a.cc c).sends.length < 4 → Completes (.ctlSend c n rd rs) s fun t =>
    (t.cc c).sends = (a.cc c).sends ++ [⟨a.reg c rs, 0, 0, .queued, (a.en c).writes, [], (a.sc c).wall, false, none, 0⟩] ∧
    Returns c rd 0 a t ∧ OnlyCore c a t) ∧
  (ccIssues a c = true → a.reg c rs < 12288 → 4 ≤ (a.cc c).sends.length → Completes (.ctlSend c n rd rs) s fun t =>
    (t.cc c).sends = (a.cc c).sends ∧ Returns c rd 1 a t ∧ OnlyCore c a t) ∧
  (∀ x d h, sendPick (a.cc c).sends = some (0, x) → (a.cc c).sends = [x] → x.hdr = 0 → x.k = 0 → x.again = none → x.rows = [] →
    (a.cc c).ending = [] → x.row < 12288 → first7 a c 4 x.row (sendFrom (a.cc c) x) = true → d = readRow a (plotAddr c x.row) →
    h = stampHdr d a.hub.position c.val (slotCtx a c (mhSlot d)) (vget (a.cc c).msgSeq 0 (mhSlot d)) →
    mhMalformed h c.val (slotValid a c (mhSlot d)) = false → mhOrdered h = false → mhDest a h = a.hub.position → mhLen h ≠ 1 →
    Completes (.sendRowRead c n .clean) s fun t =>
    (t.cc c).sends = [{ x with hdr := h, k := 1, state := .reading, ordered := [] }] ∧
    vget (t.cc c).msgSeq 0 (mhSlot d) = (vget (a.cc c).msgSeq 0 (mhSlot d) + 1) % 2 ^ 16 ∧
    (t.cc c).sendRead = some (a.sc c).wall ∧ t.net.length = a.net.length + 1 ∧ t.net.getLast?.map (·.data) = some h ∧ t.mem = a.mem) ∧
  (∀ x, (a.cc c).sends[i]? = some x → x.ordered = [] → x.rows ≠ [] → x.freeAt < (a.sc c).wall →
    behindEarlier a (sendsBefore a c i) x = false → mhDest a x.hdr = a.hub.position →
    Completes (.orderedRelease c n i) s fun t =>
    (t.cc c).sends[i]? = some { x with rows := [] } ∧ t.net.map (·.data) = a.net.map (·.data) ++ x.rows ∧ t.sc c = a.sc c)

/-- R338 to R341, R347, R525: a header that passes the checks is placed: its rows are reserved and it waits to land; one that fails a check
is counted and bounced, and the ring stays (`headAt` only notes the input it came by). A payload row waits to land in its place. WPTR
passes a whole message in the cycle in which its last row lands, and its header holds the landing's time. -/
def Obligations.MessagesArriveAndLand : Prop := ∀ (c : CoreId) (n i : Nat) (r : RingId) (s a : State), a = advance c n s →
  (∀ x at_, itemHere a .msgRow i = some x → x.k = 0 → firstOfPath a i x = true → x.destCore = c.val → (a.cm c).land.length < 64 →
    r = Fin.ofNat 16 (mhRing x.data) → headerBounce a c x.data = none →
    headerTurn a c r.val (inputRank a.hub.position (dieOf c).val (posOf c) x.srcPos x.srcCore) = true →
    (∀ m, m ∈ (a.ring c r.val).msgs → m.wait = false) → (a.ring c r.val).spill = [] → (a.ring c r.val).hold = [] →
    (a.ring c r.val).grantAt ≠ some (a.sc c).wall →
    (a.ring c r.val).fit (a.sc c).wall (mhLen x.data) = some (false, at_) → Completes (.messageHeaderArrival c n i) s fun t =>
    (t.ring c r.val).msgs =
      (a.ring c r.val).msgs ++ [⟨at_, mhLen x.data, 0, x.data, false, false, [], false, false, (a.sc c).wall, 0⟩] ∧
    (t.ring c r.val).resv = (at_ + mhLen x.data) % (a.ring c r.val).size ∧ (t.ring c r.val).wptr = (a.ring c r.val).wptr ∧
    (t.cm c).land.length = (a.cm c).land.length + 1 ∧ t.net = a.net.eraseIdx i ∧ t.mem = a.mem) ∧
  (∀ x w, itemHere a .msgRow i = some x → x.k = 0 → firstOfPath a i x = true → x.destCore = c.val →
    r = Fin.ofNat 16 (mhRing x.data) → (∀ m, m ∈ (a.ring c r.val).msgs → m.wait = false) →
    (∀ m, m ∈ (a.ring c r.val).spill → m.wait = false) →
    headerTurn a c r.val (inputRank a.hub.position (dieOf c).val (posOf c) x.srcPos x.srcCore) = true →
    headerBounce a c x.data = some w → Completes (.messageHeaderArrival c n i) s fun t =>
    t.ring c r.val = { a.ring c r.val with headAt := (t.ring c r.val).headAt } ∧
    (t.cc c).rxBounce = min 0xFFFFFFFF ((a.cc c).rxBounce + 1) ∧ (t.cm c).land = (a.cm c).land ∧ t.mem = a.mem) ∧
  (∀ x m, itemHere a .msgRow i = some x → x.k ≠ 0 → x.destCore = c.val → firstOfPath a i x = true → (a.cm c).land.length < 64 →
    (∀ k : RingId, k ≠ r → (a.ring c k.val).msgs = [] ∧ (a.ring c k.val).spill = []) →
    (a.ring c r.val).msgs.find? (fun m => !m.wait && keyed x.srcPos x.srcCore x.row m) = some m →
    Completes (.messageRowArrival c n i) s fun t =>
    (t.cm c).land.map (·.data) = (a.cm c).land.map (·.data) ++ [x.data] ∧ t.net = a.net.eraseIdx i ∧
    t.ring c r.val = a.ring c r.val ∧ t.mem = a.mem) ∧
  (∀ m ms, (a.ring c r.val).msgs = m :: ms → m.filler = false → m.void = false → m.wait = false → m.got = m.len →
    m.cyc = (a.sc c).wall ∨ (a.ring c r.val).passAt = some (a.sc c).wall →
    ((a.ring c r.val).stkEn = true → (a.ring c r.val).stk < 48 ∧
      (debugMode a c = true → (vget (a.sc c).stk 0 (a.ring c r.val).stk).toNat + 1 ≤ 255)) →
    Completes (.messageLanded c n r) s fun t =>
    (t.ring c r.val).msgs = ms ∧ (t.ring c r.val).wptr = (m.at_ + m.len) % (a.ring c r.val).size ∧
    (t.ring c r.val).landed = (a.ring c r.val).landed ++ [⟨m.at_, m.hdr.put 0x18 8 m.time, m.cyc⟩] ∧
    ((a.ring c r.val).base + m.at_ < 12288 → lockedRow a (ringAddr a c r.val m.at_) = false →
      readRow t (ringAddr a c r.val m.at_) = (readRow a (ringAddr a c r.val m.at_)).put 0x18 8 m.time) ∧
    ((a.cc c).hdlEn.getLsbD r.val = false → (t.cc c).events.getLsbD 4 = true) ∧
    (if (a.ring c r.val).stkEn then (vget (t.sc c).stk 0 (a.ring c r.val).stk).toNat =
        min 255 ((vget (a.sc c).stk 0 (a.ring c r.val).stk).toNat + 1)
      else (t.sc c).stk = (a.sc c).stk))

/-- R339, R342 to R345: a message that does not fit its ring joins the spill area, or is held; a spilled message is written to its rows,
while no request waits at their bank, and drained to the ring in order; a held one is granted when it fits, one of a ring in a cycle, and
its sender sends again. -/
def Obligations.SpillHoldAndGrant : Prop := ∀ (c : CoreId) (n i : Nat) (r : RingId) (s a : State), a = advance c n s →
  (∀ x at_, itemHere a .msgRow i = some x → x.k = 0 → firstOfPath a i x = true → x.destCore = c.val →
    r = Fin.ofNat 16 (mhRing x.data) → headerBounce a c x.data = none →
    headerTurn a c r.val (inputRank a.hub.position (dieOf c).val (posOf c) x.srcPos x.srcCore) = true →
    (∀ m, m ∈ (a.ring c r.val).msgs → m.wait = false) → (a.ring c r.val).spill = [] → (a.ring c r.val).hold = [] →
    (a.ring c r.val).grantAt ≠ some (a.sc c).wall →
    (a.ring c r.val).fit (a.sc c).wall (mhLen x.data) = none → (a.ring c r.val).spillFit (mhLen x.data) = some (false, at_) →
    Completes (.messageHeaderArrival c n i) s fun t =>
    (t.ring c r.val).spill = [⟨at_, mhLen x.data, 0, x.data, false, false, [x.data], false, false, (a.sc c).wall, 0⟩] ∧
    (t.ring c r.val).msgs = (a.ring c r.val).msgs ∧ (t.cc c).spillCnt = min 0xFFFFFFFF ((a.cc c).spillCnt + 1)) ∧
  (∀ x, itemHere a .msgRow i = some x → x.k = 0 → firstOfPath a i x = true → x.destCore = c.val →
    r = Fin.ofNat 16 (mhRing x.data) → headerBounce a c x.data = none →
    headerTurn a c r.val (inputRank a.hub.position (dieOf c).val (posOf c) x.srcPos x.srcCore) = true →
    (∀ m, m ∈ (a.ring c r.val).msgs → m.wait = false) → (a.ring c r.val).spill = [] → (a.ring c r.val).hold = [] →
    (a.ring c r.val).grantAt ≠ some (a.sc c).wall →
    (a.ring c r.val).fit (a.sc c).wall (mhLen x.data) = none → (a.ring c r.val).spillFit (mhLen x.data) = none →
    Completes (.messageHeaderArrival c n i) s fun t =>
    (t.ring c r.val).hold = [x.data] ∧ (t.ring c r.val).msgs = (a.ring c r.val).msgs ∧
    (t.cc c).holdCnt = min 0xFFFFFFFF ((a.cc c).holdCnt + 1)) ∧
  (∀ m d, (a.ring c r.val).spill = [m] → m.done = false → m.filler = false → m.rows = [d] → m.len = 1 →
    bankWaits a (dieOf c) ((a.ring c r.val).spillBase + m.at_) = false →
    (a.ring c r.val).spillBase + m.at_ < 2 ^ 22 → gatedFor a (dieOf c) ((a.ring c r.val).spillBase + m.at_) true = false →
    Completes (.spillWriteComplete c n r) s fun t =>
    (t.ring c r.val).spill = [{ m with done := true, rows := [] }] ∧ readRow t (spillAddr a c r.val m.at_) = d ∧
    ∀ y, rowBase y ≠ spillAddr a c r.val m.at_ → readRow t y = readRow a y) ∧
  (∀ m at_, (a.ring c r.val).spill = [m] → m.done = true → m.filler = false → m.void = false →
    (a.ring c r.val).fit (a.sc c).wall m.len = some (false, at_) →
    gatedFor a (dieOf c) ((a.ring c r.val).spillBase + m.at_) false = false → Completes (.spillDrain c n r []) s fun t =>
    (t.ring c r.val).spill = [] ∧ (t.ring c r.val).resv = (at_ + mhLen m.hdr) % (a.ring c r.val).size ∧
    (t.cm c).land.map (·.data) = (a.cm c).land.map (·.data) ++ readRows a (spillAddr a c r.val m.at_) m.len ∧ OnlyCore c a t) ∧
  (∀ h hs at_, (a.ring c r.val).hold = h :: hs → (a.ring c r.val).grantAt ≠ some (a.sc c).wall → (a.ring c r.val).spill = [] →
    (a.ring c r.val).fit (a.sc c).wall (mhLen h) = some (false, at_) →
    mhSendPos h = a.hub.position → Completes (.holdGrant c n r) s fun t =>
    (t.ring c r.val).hold = hs ∧ (t.ring c r.val).resv = (at_ + mhLen h) % (a.ring c r.val).size ∧
    t.net.length = a.net.length + 1 ∧ t.net.getLast?.map (fun x => (x.kind, x.destCore, x.row)) = some (.grant, mhSendCore h, mhSeq h)) ∧
  (∀ x y k, itemHere s .grant i = some x → x.destCore = k.val → (s.cc k).sends = [y] → sendOf s x y = true → y.state ≠ .reading →
    Completes (.holdGrantArrival i) s fun t =>
    (t.cc k).sends = [{ y with k := 0, state := .queued, due := (s.sc k).wall, retx := true, rows := [] }] ∧ t.net = s.net.eraseIdx i)

/-- R334, R346, R351, R357, R370, R372, R525: an acknowledgement ends its send and adds 1 to the NOTIFY stake; a bounce ends it and is counted;
a loss notice removes the message from its receiver's rings, and a lost row transaction ends its late item
and faults its core. -/
def Obligations.AnswersArrive : Prop := ∀ (c : CoreId) (n i : Nat) (x : Item) (s a : State), x.destCore = c.val →
  (∀ y, a = advance c n (dropItem i s) → itemHere s .msgAck i = some x → (a.cc c).sends.find? (sendOf a x) = some y → mhNotify y.hdr = true →
    mhNotifyStk y.hdr < 48 → (debugMode a c = true → (vget (a.sc c).stk 0 (mhNotifyStk y.hdr)).toNat + 1 ≤ 255) → Completes (.landingAckArrival n i) s fun t =>
    (t.cc c).sends = (a.cc c).sends.eraseP (sendOf a x) ∧
    (vget (t.sc c).stk 0 (mhNotifyStk y.hdr)).toNat = min 255 ((vget (a.sc c).stk 0 (mhNotifyStk y.hdr)).toNat + 1)) ∧
  (∀ y, a = advance c n (dropItem i s) → itemHere s .msgAck i = some x → (a.cc c).sends.find? (sendOf a x) = some y → mhNotify y.hdr = false →
    Completes (.landingAckArrival n i) s fun t => (t.cc c).sends = (a.cc c).sends.eraseP (sendOf a x) ∧ OnlyCore c a t ∧ t.sc c = a.sc c) ∧
  (∀ y, itemHere s .bounce i = some x → (s.cc c).sends.find? (sendOf s x) = some y → Completes (.bounceArrival i) s fun t =>
    (t.cc c).sends = (s.cc c).sends.eraseP (sendOf s x) ∧ (t.cc c).bounceCnt = min 0xFFFFFFFF ((s.cc c).bounceCnt + 1) ∧
    t.net = s.net.eraseIdx i ∧ t.sc c = { s.sc c with hwSet := (t.sc c).hwSet }) ∧
  (itemHere s .loss i = some x → x.aux = 3 → x.srcCore ≠ 0xFD → x.srcCore ≠ 0xFB → (∀ y, y ∈ s.net.take i → y.kind ≠ .msgRow) →
    Completes (.lossNoticeArrival i) s fun t =>
    t.net = s.net.eraseIdx i ∧ ∀ r : RingId, (t.ring c r.val).hold =
      (s.ring c r.val).hold.filter fun h => !hdrKey h x.srcPos x.srcCore x.row) ∧
  (∀ l, itemHere s .loss i = some x → x.aux ≠ 3 → x.aux < 7 → x.srcCore = 0xFD ∨ x.srcCore = 0xFB →
    (∀ y, y ∈ s.net.take i → y.kind ≠ .readRet) → lossItem (dropItem i s) c x = some l → Completes (.lossNoticeArrival i) s fun t =>
    (t.sc c).run = .faulted ∧ (t.sc c).stk = (s.sc c).stk ∧ (t.sc c).hq = (s.sc c).hq ∧
    ∀ y, y ∈ (t.en c).late → y.x.id = l.x.id → y.cut = true) ∧
  (Completes (.msgCounterClear c) s fun t =>
    t.cc c = { s.cc c with bounceCnt := 0, rxBounce := 0, spillCnt := 0, holdCnt := 0 } ∧ OnlyCore c s t)

/-- R337, R342, R348, R350: ctl.ring moves a ring's read pointer no further than WPTR, opens a closed ring with the next epoch and
zero pointers, and closes an open one, whose waiting messages and headers of the cycle bounce. Each returns its status, and changes no other ring. -/
def Obligations.RingInstructions : Prop := ∀ (c : CoreId) (n : Nat) (rd r1 r2 : Reg) (s a : State), a = advance c n s →
  ccIssues a c = true → ∀ r : RingId, a.reg c r1 = r.val → bitsOf (a.reg c r2) 2 14 = 0 → a.reg c r2 < 2 ^ 26 →
  (a.reg c r2 % 4 = 0 → ∀ v, v = a.reg c r2 / 2 ^ 16 → v < (a.ring c r.val).size →
    (v + (a.ring c r.val).size - (a.ring c r.val).rptr) % (a.ring c r.val).size ≤
      ((a.ring c r.val).wptr + (a.ring c r.val).size - (a.ring c r.val).rptr) % (a.ring c r.val).size →
    Completes (.ringSetRptr c n rd r1 r2) s fun t =>
    (t.ring c r.val).rptr = v ∧ (t.ring c r.val).wptr = (a.ring c r.val).wptr ∧ Returns c rd 0 a t ∧ OnlyCore c a t ∧
    ∀ k : RingId, k ≠ r → t.ring c k.val = a.ring c k.val) ∧
  (a.reg c r2 % 4 = 0 → (a.ring c r.val).size ≤ a.reg c r2 / 2 ^ 16 → Completes (.ringSetRptr c n rd r1 r2) s fun t =>
    (t.cc c).rings = (a.cc c).rings ∧ Returns c rd 1 a t ∧ OnlyCore c a t) ∧
  (a.reg c r2 % 4 = 1 → (a.ring c r.val).state = .closed → (a.ring c r.val).size ≠ 0 →
    (a.ring c r.val).base + (a.ring c r.val).size ≤ 12288 → ringLocked a c (a.ring c r.val) = false →
    spillOk a c (a.ring c r.val) = true → Completes (.ringOpen c n rd r1 r2) s fun t =>
    (t.ring c r.val).state = .opened ∧ (t.ring c r.val).epoch = ((a.ring c r.val).epoch + 1) % 256 ∧ (t.ring c r.val).wptr = 0 ∧
    (t.ring c r.val).resv = 0 ∧ (t.ring c r.val).rptr = 0 ∧ vget (t.cc c).dptr 0 r.val = 0 ∧ Returns c rd 0 a t ∧ OnlyCore c a t ∧
    ∀ k : RingId, k ≠ r → t.ring c k.val = a.ring c k.val) ∧
  (a.reg c r2 % 4 = 2 → (a.ring c r.val).state = .opened → Completes (.ringClose c n rd r1 r2) s fun t =>
    (t.ring c r.val).state = .closed ∧ (t.ring c r.val).epoch = (a.ring c r.val).epoch ∧ (t.ring c r.val).spill = [] ∧
    (t.ring c r.val).hold = [] ∧ (t.ring c r.val).msgs = (a.ring c r.val).msgs.takeWhile (fun m => !m.fresh (a.sc c).wall) ∧
    Returns c rd 0 a t ∧ (∀ k : RingId, k ≠ r → t.ring c k.val = a.ring c k.val) ∧
    ((a.ring c r.val).spill = [] → (a.ring c r.val).hold = [] → (∀ m, m ∈ (a.ring c r.val).msgs → m.fresh (a.sc c).wall = false) →
      OnlyCore c a t)) ∧
  (a.reg c r2 % 4 = 2 → (a.ring c r.val).state ≠ .opened → Completes (.ringClose c n rd r1 r2) s fun t =>
    (t.cc c).rings = (a.cc c).rings ∧ Returns c rd 1 a t ∧ OnlyCore c a t)

/-! ### Links, routes, time base (12) -/

/-- R361, R362, R365 to R369, R382: an UP port sends a numbered frame while credit and replay room last, an idle frame without data, and
resends ahead of both; a received frame in order advances RSEQ, one out of order is discarded, one the code cannot correct is counted;
a frame from another peer fails the port. -/
def Obligations.FramesAreSentAndReceived : Prop := ∀ (p : PortId) (ns n : Nat) (f : Frame) (s a : State), a = State.atNs ns s →
  (a.port p).state = .up →
  (∀ k' xs, (a.port p).resend = 0 → (a.port p).replay.length < 256 → fillSlots 13 (a.port p) [] = (k', xs) → xs ≠ [] →
    Completes (.frameTransmit p ns) s fun t => ∃ e ts g, g = frameOf (leadBits (a.port p).fseq false (a.port p).rseq (a.port p).nakDue e ts
        (sendsLocked a.hub.tb) p.val a.hub.position (a.port p).freed) xs ∧ (t.port p).wire = some g ∧
      (t.port p).replay = (a.port p).replay ++ [((a.port p).fseq, g)] ∧ (t.port p).fseq = ((a.port p).fseq + 1) % 4096 ∧
      (t.port p).seqs = (a.port p).seqs ++ [((a.port p).fseq, xs.map fun x => x.2.2)] ∧ (t.port p).nakDue = false ∧
      (t.port p).credit = k'.credit ∧ (t.port p).out = k'.out ∧ (t.port p).freed = 0 ∧ ∀ q, q ≠ p → t.port q = s.port q) ∧
  ((a.port p).resend = 0 → (fillSlots 13 (a.port p) []).2 = [] → Completes (.frameTransmit p ns) s fun t =>
      (t.port p).replay = (a.port p).replay ∧ (t.port p).fseq = (a.port p).fseq ∧ (t.port p).wire.isSome ∧
      ∀ q, q ≠ p → t.port q = s.port q) ∧
  (∀ g, 0 < (a.port p).resend → (a.port p).replay[(a.port p).replay.length - (a.port p).resend]? = some (n, g) →
    Completes (.frameTransmit p ns) s fun t => (t.port p).resend = (a.port p).resend - 1 ∧ (t.port p).replay = (a.port p).replay ∧
      (t.port p).fseq = (a.port p).fseq ∧ (t.port p).out = (a.port p).out ∧
      (t.port p).wire = some { g with lead := resentLead g.lead (a.port p) (sendsLocked a.hub.tb) } ∧ ∀ q, q ≠ p → t.port q = s.port q) ∧
  (∀ m, Completes (.frameReceive p ns f (.uncorrectable n m)) s fun t => (t.port p).uncorr = min 0xFF ((a.port p).uncorr + n) ∧
      (t.port p).corr = min 0xFFFFFF ((a.port p).corr + m) ∧ (t.port p).freed = min 4095 ((a.port p).freed + (frameItems f).length) ∧
      (t.port p).nakDue = true ∧ (t.port p).nakOut = true ∧ (t.port p).rseq = (a.port p).rseq ∧ (t.port p).state = .up ∧
      t.net = s.net ∧ ∀ q, q ≠ p → t.port q = s.port q) ∧
  (ldSrcPos f.lead = (a.port p).peerPos → ldPort f.lead = (a.port p).peerPort → ldIdle f.lead = false →
    ldFseq f.lead ≠ ((a.port p).rseq + 1) % 4096 → Completes (.frameReceive p ns f (.good n)) s fun t =>
      (t.port p).rseq = (a.port p).rseq ∧ (t.port p).corr = min 0xFFFFFF ((a.port p).corr + n) ∧ (t.port p).lastLead = a.hub.ns ∧
      (t.port p).freed = min 4095 ((a.port p).freed + (frameItems f).length) ∧ t.net = s.net) ∧
  (ldSrcPos f.lead = (a.port p).peerPos → ldPort f.lead = (a.port p).peerPort → ldIdle f.lead = false →
    ldFseq f.lead = ((a.port p).rseq + 1) % 4096 → ldTs f.lead = none → ldNak f.lead = false → frameItems f = [] →
    Completes (.frameReceive p ns f (.good n)) s fun t =>
      (t.port p).rseq = ldFseq f.lead ∧ (t.port p).credit = min 1024 ((a.port p).credit + ldCredit f.lead) ∧ (t.port p).state = .up ∧
      (t.port p).nakOut = false ∧ (a.port p).nakDue = (t.port p).nakDue ∧ (s.hub.hl.wout = [] → t.net = s.net)) ∧
  (ldSrcPos f.lead ≠ (a.port p).peerPos ∨ ldPort f.lead ≠ (a.port p).peerPort → Completes (.frameReceive p ns f (.good n)) s fun t =>
      (t.port p).state = .failed ∧ (t.port p).replay = [] ∧ (t.port p).fails = min 0xFF ((a.port p).fails + 1))

/-- R366, R369, R371, R372, R374, R386: a port without a lead flit for 4 µs fails; training completed makes it UP with full credit; the
commands train and disable it; its counters clear. A route entry is written and every other position's stays. LNK_TORUS takes dimensions
of at most 65,535 modules. -/
def Obligations.PortsAndRoutes : Prop :=
  (∀ (p : PortId) (ns : Nat) (s a : State), a = State.atNs ns s →
    ((a.port p).state = .up → (a.port p).lastLead + 4000 ≤ a.hub.ns → Completes (.leadFlitTimeout p ns) s fun t =>
      (t.port p).state = .failed ∧ (t.port p).replay = [] ∧ (t.port p).fails = min 0xFF ((a.port p).fails + 1)) ∧
    (∀ pos q fl, (a.port p).state = .training ∨ (a.port p).state = .failed → Completes (.portTrainingComplete p ns pos q fl) s fun t =>
      (t.port p).state = .up ∧ (t.port p).credit = 1024 ∧ (t.port p).fseq = 0 ∧ (t.port p).rseq = 4095 ∧ (t.port p).peerPos = pos.toNat ∧
      (t.port p).peerPort = q.val ∧ (t.port p).flight = min 2047 fl ∧ (t.port p).lastLead = a.hub.ns ∧ ∀ k, k ≠ p → t.port k = s.port k) ∧
    (Completes (.portTrain p) s fun t => (t.port p).state = .training ∧ ((s.port p).state = .up → (t.port p).replay = [])) ∧
    (Completes (.portDisable p) s fun t => (t.port p).state = .down ∧ ((s.port p).state = .up → (t.port p).replay = [])) ∧
    (Completes (.lnkCounterClear p) s fun t => t.port p = { s.port p with corr := 0, uncorr := 0, retry := 0, fails := 0 } ∧
      t.hub = s.hub ∧ t.cores = s.cores ∧ t.dies = s.dies ∧ t.mem = s.mem ∧ ∀ k, k ≠ p → t.port k = s.port k)) ∧
  (∀ (pos : BitVec 16) (e : BitVec 8) (v : Word) (s : State),
    (s.hub.pwr.alwaysOn = true → s.hub.routes.Pairwise (fun x y => x.1 < y.1) → Completes (.routeEntryWrite pos e) s fun t =>
      routeEntry t pos.toNat = e.toNat % 16 ∧ (∀ k, k ≠ pos.toNat → routeEntry t k = routeEntry s k) ∧
      t.hub.routes.Pairwise fun x y => x.1 < y.1) ∧
    ((bitsOf v.toNat 0 6 + 1) * (bitsOf v.toNat 8 6 + 1) * (bitsOf v.toNat 16 6 + 1) ≤ 65535 → Completes (.lnkTorusWrite v) s fun t =>
      t.hub = { s.hub with torus := BitVec.ofNat 32 (bitsOf v.toNat 0 6 + bitsOf v.toNat 8 6 * 2 ^ 8 + bitsOf v.toNat 16 6 * 2 ^ 16) }) ∧
    (65535 < (bitsOf v.toNat 0 6 + 1) * (bitsOf v.toNat 8 6 + 1) * (bitsOf v.toNat 16 6 + 1) → Completes (.lnkTorusWrite v) s fun t => t = s))

/-- R84, R88, R104, R107, R119, R375: a remote read returns its rows in order, zeros for a row that is not there, and nothing from an
uncorrectable row on; a remote write waits in the landing buffer of the Plot, in the Commons queue, or is made in deep memory. A deep-memory
request is served behind its core's earlier ones, a write of the host behind the host's earlier ones. -/
def Obligations.RemoteRowsAreServed : Prop := ∀ (i : Nat) (x : Item) (s : State),
  (itemHere s .readReq i = some x → deepFirst s i x = true → x.srcPos = s.hub.position →
    (∀ k, k < x.count → populated (x.row + 512 * k) = true → readEcc s (x.row + 512 * k) .clean = .clean ∧
      ∀ d r, placeOf (x.row + 512 * k) = .commons d r → gatedFor s d r false = false) →
    Completes (.remoteReadRequest i []) s fun t => t.net.map (·.data) = (s.net.eraseIdx i).map (·.data) ++
      (List.range x.count).map (fun k => if populated (x.row + 512 * k) then readRow s (x.row + 512 * k) else 0) ∧ t.mem = s.mem) ∧
  (∀ w, itemHere s .readReq i = some x → deepFirst s i x = true → x.srcPos = s.hub.position → x.count = 1 → populated x.row = true →
    (∀ d r, placeOf x.row = .commons d r → gatedFor s d r false = false) → Completes (.remoteReadRequest i [(0, .bad w)]) s fun t =>
    (∃ y, y.kind = .loss ∧ y.destCore = x.srcCore ∧ y.tag = x.tag ∧ y.row = x.row ∧ t.net = s.net.eraseIdx i ++ [y]) ∧ t.mem = s.mem) ∧
  (∀ c r, itemHere s .write i = some x → hostFirst s i x = true → placeOf x.row = .plot c r → (s.cm c).land.length < 64 →
    Completes (.remoteWriteArrival i) s fun t =>
    (t.cm c).land = (s.cm c).land ++ [⟨.plot r, x.data, (s.sc c).wall, .write x.srcPos x.srcCore x.tag x.plane⟩] ∧
    (s.hub.hl.wout = [] → t.net = s.net.eraseIdx i) ∧ t.mem = s.mem) ∧
  (∀ d r, itemHere s .write i = some x → hostFirst s i x = true → placeOf x.row = .commons d r → Completes (.remoteWriteArrival i) s fun t =>
    (t.cm (coreNo (16 * d.val))).cmnIn = (s.cm (coreNo (16 * d.val))).cmnIn ++
      [⟨rowBase x.row, x.data, .write x.srcPos x.srcCore x.tag x.plane, (s.sc (coreNo (16 * d.val))).wall⟩] ∧
    (s.hub.hl.wout = [] → t.net = s.net.eraseIdx i) ∧ t.mem = s.mem) ∧
  (∀ d r, itemHere s .write i = some x → hostFirst s i x = true → deepFirst s i x = true → placeOf x.row = .deep d r →
    Completes (.remoteWriteArrival i) s fun t => readRow t x.row = x.data ∧ ∀ y, rowBase y ≠ rowBase x.row → readRow t y = readRow s y)

/-- R380, R381, R384: the always-on tick adds 10 ns and the slew; TB_SET moves an unlaunched master forward alone; the external
reference locks it; lost references mean holdover with the last rate and an alarm. -/
def Obligations.TimeBaseRuns : Prop := ∀ (ns : Nat) (v : BitVec 64) (s a : State), a = State.atNs ns s →
  (s.hub.pwr.alwaysOn = true → Completes .timeBaseTick s fun t => t.hub.ns = s.hub.ns + 10 ∧
    (t.hub.tb.count : Int) = max 0 ((s.hub.tb.count : Int) + 10 * 2 ^ 32 + 10 * s.hub.tb.adj) ∧ t.cores = s.cores ∧ t.mem = s.mem) ∧
  (Completes (.tbSetWrite v) s fun t => t.hub.tb.set = v ∧ s.hub.tb.count ≤ t.hub.tb.count ∧
    (s.hub.tb.master = true → s.hub.tb.launched = false → s.hub.tb.count < v.toNat * 2 ^ 32 → t.hub.tb.count = v.toNat * 2 ^ 32) ∧
    (s.hub.tb.master = false ∨ s.hub.tb.launched = true → t.hub.tb.count = s.hub.tb.count)) ∧
  (s.hub.tb.master = true → s.hub.tb.extRef = true → Completes (.extRefLock ns) s fun t =>
    t.hub.tb.locked = true ∧ t.hub.tb.refLost = false ∧ t.hub.tb.holdover = false ∧ t.hub.tb.count = s.hub.tb.count) ∧
  (s.hub.tb.master = true → s.hub.tb.extRef = true → s.hub.tb.locked = false → s.hub.hl.bootDone = true →
    s.hub.hl.bootAt + 10000000 ≤ a.hub.ns → Completes (.extRefLockTimeout ns) s fun t =>
    t.hub.tb.locked = true ∧ t.hub.tb.refLost = true ∧ t.hub.tb.holdover = true ∧ t.hub.tb.count = s.hub.tb.count) ∧
  (s.hub.tb.master = false → s.hub.tb.holdover = false → s.hub.tb.lastGood + 10000000 ≤ a.hub.ns → s.hub.tb.bakEn = true →
    s.hub.tb.onBackup = false → Completes (.upstreamTimeout ns) s fun t =>
    t.hub.tb.onBackup = true ∧ t.hub.tb.lastGood = a.hub.ns ∧ t.hub.tb.holdover = false) ∧
  (s.hub.tb.master = false → s.hub.tb.holdover = false → s.hub.tb.lastGood + 10000000 ≤ a.hub.ns → s.hub.tb.bakEn = false →
    Completes (.upstreamTimeout ns) s fun t => t.hub.tb.holdover = true ∧ t.hub.tb.refLost = true ∧
    t.hub.tb.alarms = min 0xFF (s.hub.tb.alarms + 1) ∧ t.hub.tb.count = s.hub.tb.count) ∧
  (s.hub.tb.master = true → s.hub.tb.extRef = true → Completes (.referenceInputLoss ns) s fun t => t.hub.tb.holdover = true ∧
    t.hub.tb.refLost = true ∧ t.hub.tb.alarms = min 0xFF (s.hub.tb.alarms + 1) ∧ t.hub.tb.count = s.hub.tb.count)

/-- R378, R379, R446, R449, R478, R505 to R507: heartbeats leave every UP port, and 40 ms without one raise attention; a neighbour of
this module's own position holds its port DOWN; a survey's first receipt records the parent; a report goes to the parent, or into the
master's open census; a neighbour's power failure fails the port; a spare adopts one position; a partner's answer is recorded. -/
def Obligations.ManagementFlits : Prop := ∀ (p : PortId) (ns : Nat) (f : Flit) (s a : State), a = State.atNs ns s →
  (Completes (.heartbeatSend ns) s fun t => ∀ q, (s.port q).state = .up → ∃ d,
    vget (t.port q).out [] (portSource q) = vget (s.port q).out [] (portSource q) ++ [(d, mgmtFlit 4 [], 0)] ∧
    (t.port q).state = .up ∧ (t.port q).replay = (s.port q).replay) ∧
  ((a.port p).state = .up → (a.port p).lastBeat + 40000000 ≤ a.hub.ns → Completes (.heartbeatTimeout p ns) s fun t =>
    t.hub.hl.attn.getLsbD 3 = true ∧ (t.port p).state = .up ∧ (t.port p).lastBeat = a.hub.ns) ∧
  (∀ (pos : BitVec 16) (id : Nat), pos.toNat = s.hub.position → pos.toNat ≠ 0xFFFF → Completes (.identFlit p pos id f) s fun t =>
    (t.port p).state = .down ∧ (t.port p).ident = some (id, pos.toNat)) ∧
  (∀ (pos : BitVec 16) (id : Nat) (q : PortId) (y : Nat), q ≠ p → pos.toNat ≠ 0xFFFF → (s.port q).ident = some (y, pos.toNat) → y ≠ id →
    Completes (.identFlit p pos id f) s fun t => (t.port p).state = .down ∧ (t.port p).ident = some (id, pos.toNat)) ∧
  (∀ (pos : BitVec 16) (id : Nat), pos.toNat ≠ s.hub.position → (∀ q, (s.port q).ident = none) → Completes (.identFlit p pos id f) s fun t =>
    (t.port p).state = (s.port p).state ∧ (t.port p).ident = some (id, pos.toNat) ∧ ∀ q, q ≠ p → t.port q = s.port q) ∧
  (s.hub.tb.master = false → s.hub.hl.parent = none → Completes (.surveyFlit p ns f) s fun t =>
    t.hub.hl.parent = some p.val ∧ t.hub.hl.conflict = s.hub.hl.conflict ∧
    ∃ d, vget (t.port p).out [] (portSource p) = vget (s.port p).out [] (portSource p) ++ [(d, mgmtFlit 3 [s.hub.position], 0)]) ∧
  (∀ q : PortId, s.hub.hl.parent = some q.val → q ≠ p → Completes (.reportFlit p f) s fun t =>
    ∃ d, vget (t.port q).out [] (portSource q) = vget (s.port q).out [] (portSource q) ++ [(d, f, 0)]) ∧
  (s.hub.hl.parent = none → s.hub.hl.censusEnd.isSome → Completes (.reportFlit p f) s fun t =>
    (∀ q, q ∈ t.hub.hl.census ↔ q ∈ s.hub.hl.census ∨ q ∈ Config.mgmtPositions f) ∧ t.ports = s.ports) ∧
  (s.hub.hl.parent = none → s.hub.hl.censusEnd = none → Completes (.reportFlit p f) s fun t =>
    t.hub.hl.late = min 0xFFF (s.hub.hl.late + 1) ∧ t.hub.hl.census = s.hub.hl.census) ∧
  ((a.port p).state = .up → Completes (.powerFailFlit p ns) s fun t => (t.port p).state = .failed ∧ (t.port p).replay = []) ∧
  (s.hub.hl.adopted = none → Completes (.adoptFlit p f) s fun t =>
    t.hub.hl.adopted = some (Config.mgmtField f 0) ∧ t.hub.hl.adoptId = some f ∧ t.ports = s.ports) ∧
  (∀ x : CtxId, (s.snp x).partnerEn = true → (s.snp x).partnerRes = 0 → Completes (.partnerFlit p f) s fun t =>
    (Config.mgmtField f 0 = 1 → Config.mgmtField f 1 = x.val → Config.mgmtField f 2 = 0 →
      (t.snp x).partnerRes = (pairing s (s.snp x) false (Config.mgmtField f 5 != 0) (Config.mgmtField f 3) (Config.mgmtField f 4)).1) ∧
    (4 ≤ Config.mgmtField f 0 → t = takeMgmt f s))

/-! ### Lock-step and weights (13, 14) -/

/-- R401 to R405, R407: enabling asks for configuration records and disabling drops every record; 248 waiting records leave in one message;
an agreeing pair is counted, and a pair that differs raises the divergence, which with STOP stops the core. -/
def Obligations.LockstepCompares : Prop := ∀ (v : Word) (ns : Nat) (hdr : Row) (pl : List Row) (s : State),
  (v.getLsbD 0 = false → Completes (.lsEnable v) s fun t => t.hub.ls.enable = false ∧ t.hub.ls.waiting = [] ∧ t.hub.ls.locals = [] ∧
    t.hub.ls.peers = [] ∧ t.cores = s.cores ∧ t.mem = s.mem) ∧
  (v.getLsbD 0 = true → s.hub.ls.enable = false → Completes (.lsEnable v) s fun t => t.hub.ls.enable = true ∧
    t.hub.ls.configDue = true ∧ t.hub.ls.stop = v.getLsbD 1 ∧ t.hub.ls.peer = bitsOf v.toNat 16 16 ∧ t.cores = s.cores ∧ t.mem = s.mem) ∧
  (s.hub.ls.enable = true → s.hub.ls.configDue = false → 248 ≤ s.hub.ls.waiting.length → s.hub.ls.peer ≠ s.hub.position →
    s.hub.ls.peer < 0xFFFF → Completes (.foldMessageSend ns) s fun t => t.hub.ls.waiting = s.hub.ls.waiting.drop 248 ∧
    t.hub.ls.msgs = (s.hub.ls.msgs + 1) % 2 ^ 16 ∧ t.hub.hl.hostMsgs.length = s.hub.hl.hostMsgs.length + 1) ∧
  (∀ r l ctx cyc, mhSendPos hdr = s.hub.ls.peer → mhSendCore hdr = 0xFE → msgRecs hdr pl = [r] →
    s.hub.ls.enable = true → s.hub.ls.locals = [(l, ctx, cyc)] → frMatch l r = true → frCore l ≠ 0xFFFF → divKind l r = none →
    Completes (.foldMessageArrival hdr pl) s fun t => t.hub.ls.matched = s.hub.ls.matched + 1 ∧ t.hub.ls.locals = [] ∧
    t.hub.ls.peers = s.hub.ls.peers ∧ t.hub.ls.diverged = s.hub.ls.diverged ∧ t.cores = s.cores) ∧
  (∀ r l ctx cyc k, mhSendPos hdr = s.hub.ls.peer → mhSendCore hdr = 0xFE → msgRecs hdr pl = [r] →
    s.hub.ls.enable = true → s.hub.ls.locals = [(l, ctx, cyc)] → frMatch l r = true → divKind l r = some k → k ≠ 4 → k ≤ 3 →
    s.hub.ls.stop = true → (s.sc (coreNo (frCore l))).run = .running → Completes (.foldMessageArrival hdr pl) s fun t =>
    t.hub.ls.diverged = true ∧ t.hub.ls.divCnt = min 0xFFFFFFFF (s.hub.ls.divCnt + 1) ∧ t.hub.hl.attn.getLsbD 4 = true ∧
    (t.sc (coreNo (frCore l))).stopping = true ∧ (t.sc (coreNo (frCore l))).run = .running)

/-- R412, R413, R418, R419: the weight keys are kept; a load and an in-place check answer 0 and make their slot LOADING, or answer the
first code of R413 that applies, which LOAD_STATUS then shows, and leave every slot. -/
def Obligations.WeightCommands : Prop := ∀ (src : CmdSrc) (x : CtxId) (w : WgtCmd) (s : State),
  (∀ rsa slh, TakesCommand s 7 whoHS src → Completes (.weightKeys src x rsa slh) s fun t => (t.wgt x).keyRsa = rsa ∧
    (t.wgt x).keySlh = slh ∧ (t.wgt x).slots = (s.wgt x).slots ∧ Replies src 7 0 0 t) ∧
  (TakesCommand s 5 whoHS src → w.chainIdx < 64 → Completes (.weightLoad src x w) s fun t =>
    (wgtCode s x w = 0 → (slotW (t.wgt x) w.slot.val).regions = w.regions ∧ (slotW (t.wgt x) w.slot.val).cmd = some w ∧
      (slotW (t.wgt x) w.slot.val).shards.map (·.entry) = wmEntries s w.manifest ∧ (t.wgt x).loadId = w.loadId) ∧
    (wgtCode s x w ≠ 0 → (t.wgt x).loadCode = wgtCode s x w ∧ (t.wgt x).slots = (s.wgt x).slots ∧
      Replies src 5 (0x100 + wgtCode s x w) 0 t)) ∧
  (TakesCommand s 0x11 whoHS src → w.pred = 0xFFFF → w.succ = 0xFFFF → w.chainIdx = 0 → w.forward = 0 → w.relay = 0 →
    w.succRelay = 0 → Completes (.weightVerify src x w) s fun t =>
    (wgtCode s x w = 0 → (slotW (t.wgt x) w.slot.val).cmd = some w ∧ (slotW (t.wgt x) w.slot.val).inPlace = true ∧
      (t.wgt x).loadId = w.loadId) ∧
    (wgtCode s x w ≠ 0 → (t.wgt x).loadCode = wgtCode s x w ∧ (t.wgt x).slots = (s.wgt x).slots ∧
      Replies src 0x11 (0x100 + wgtCode s x w) 0 t))

/-- R414 to R416, R418, R420: notices of a load. A chunk is taken and its release is owed; the release leaves once nothing of the chunk is
still to be forwarded; a released chunk's relay slot is free; a re-request, a wait and an unavailability mark the shard; a notice of no load
is counted; when the host has the shard neither, the load fails. -/
def Obligations.WeightNotices : Prop := ∀ (ns k : Nat) (x : CtxId) (hdr : Row) (s a : State), x = wnCtx hdr → a = State.atNs ns s →
  (∀ j i, noticeSlot s hdr = some k → chunkShard (slotW (s.wgt x) k).shards (wnNum hdr) = some (j, i) →
    Completes (.chunkNotice ns hdr) s fun t =>
    (slotW (t.wgt x) k).toRelease = (slotW (s.wgt x) k).toRelease ++ [(wnNum hdr, mhSendCore hdr == 0xFF)] ∧ t.hub.wgtDiscard = s.hub.wgtDiscard) ∧
  (noticeSlot s hdr = none → Completes (.chunkNotice ns hdr) s fun t =>
    t.hub.wgtDiscard = min 0xFFFFFFFF (s.hub.wgtDiscard + 1) ∧ t.hub.wgt = s.hub.wgt ∧ t.mem = s.mem) ∧
  (∀ y c h w, (slotW (s.wgt y) 0).toRelease.find? (fun z => z.1 == c) = some (c, h) → (slotW (s.wgt y) 0).cmd = some w →
    ((slotW (s.wgt y) 0).toForward.any fun z => z.1 == c) = false → noticeOut s (slotW (s.wgt y) 0) c = false →
    Completes (.chunkReleaseSend y c) s fun t =>
    (slotW (t.wgt y) 0).toRelease = (slotW (s.wgt y) 0).toRelease.eraseP (fun z => z.1 == c) ∧
    t = wgtNotice y (if h then 0xFFFF else w.pred) w.loadId 2 false c 0
      (s.onSlot y 0 fun l => { l with toRelease := l.toRelease.eraseP fun z => z.1 == c })) ∧
  (noticeSlot s hdr = some k → k < 2 → (slotW (s.wgt x) k).toForward = [] → (slotW (s.wgt x) k).state = .verified →
    Completes (.releaseNotice hdr) s fun t =>
    (slotW (t.wgt x) k).forwarded = (slotW (s.wgt x) k).forwarded.erase (wnNum hdr) ∧ (slotW (t.wgt x) k).state = .verified) ∧
  (∀ w sh, noticeSlot s hdr = some k → k < 2 → (slotW (s.wgt x) k).cmd = some w → (slotW (s.wgt x) k).shards[wnNum hdr]? = some sh →
    keptPart (slotW (s.wgt x) k) sh.entry = true → sh.passed = false →
    (∀ i, (slotW (s.wgt x) i).state = .failed → ((slotW (s.wgt x) i).cmd.any fun z => z.loadId == wnLoadId hdr) = false) →
    Completes (.reRequestNotice hdr) s fun t => (slotW (t.wgt x) k).shards[wnNum hdr]? = some { sh with waiting := true }) ∧
  (∀ w sh, noticeSlot s hdr = some k → k < 2 → (slotW (s.wgt x) k).cmd = some w → (slotW (s.wgt x) k).shards[wnNum hdr]? = some sh →
    keptPart (slotW (s.wgt x) k) sh.entry = true → Completes (.waitNotice ns hdr) s fun t =>
    (slotW (t.wgt x) k).shards[wnNum hdr]? = some { sh with lastChunk := some a.hub.ns }) ∧
  (∀ w sh, noticeSlot s hdr = some k → k < 2 → (slotW (s.wgt x) k).cmd = some w → (slotW (s.wgt x) k).shards[wnNum hdr]? = some sh →
    keptPart (slotW (s.wgt x) k) sh.entry = true → sh.fromHost = false → Completes (.unavailableNotice hdr) s fun t =>
    ∃ sh', (slotW (t.wgt x) k).shards[wnNum hdr]? = some sh' ∧ sh'.fromHost = true ∧ sh'.tries = 0 ∧ sh'.chunks = 0 ∧
      sh'.entry = sh.entry) ∧
  (∀ w sh, noticeSlot s hdr = some k → k < 2 → (slotW (s.wgt x) k).cmd = some w → (slotW (s.wgt x) k).shards[wnNum hdr]? = some sh →
    keptPart (slotW (s.wgt x) k) sh.entry = true → sh.fromHost = true → Completes (.unavailableNotice hdr) s fun t =>
    (slotW (t.wgt x) k).state = .failed ∧ (slotW (t.wgt x) k).shards = (slotW (s.wgt x) k).shards)

/-- R417, R418, R420, R425: the die's next shard takes an engine; a digest that agrees makes the shard pass, and one that does not costs an
attempt; a window that expires does too; a re-check that is due is queued. -/
def Obligations.ShardsAreChecked : Prop := ∀ (d : DieId) (x : CtxId) (k e : Nat) (ns : Nat) (s a : State), a = State.atNs ns s →
  (∀ j, nextDigest (vget s.hub.digQ [] d.val) = some j → j.re = false → pickEngine s.hub d j = some e → e < 32 →
    Completes (.shardDigestStart d) s fun t => vget t.hub.digEng none e = some j ∧
    vget t.hub.digQ [] d.val = (vget s.hub.digQ [] d.val).erase j ++ (vget s.hub.digEng none e).toList) ∧
  (∀ (i : Fin 4) job sh, vget s.hub.digEng none (4 * d.val + i.val) = some job → job.re = false →
    (slotW (s.wgt job.x) job.slot.val).shards[job.shard]? = some sh → sh.fromHost = false → sh.tries < 2 →
    (slotW (s.wgt job.x) job.slot.val).inPlace = false → (slotW (s.wgt job.x) job.slot.val).cmd.isSome →
    Completes (.shardDigestComplete d ns i) s fun t => vget t.hub.digEng none (4 * d.val + i.val) = none ∧
      ∃ sh', (slotW (t.wgt job.x) job.slot.val).shards[job.shard]? = some sh' ∧
      (if digestNat (sha256 (rowBytes (readRows s (shardAddr (slotW (s.wgt job.x) job.slot.val) sh.entry) (weRows sh.entry)))) =
          weDigest sh.entry then sh'.passed = true ∧ sh'.lastPass = a.hub.ns ∧ sh'.tries = 0
        else sh'.tries = sh.tries + 1 ∧ sh'.chunks = 0 ∧ sh'.passed = sh.passed)) ∧
  (∀ (z : Fin 2) j sh b w, (s.wgt x).loading = some z → (slotW (s.wgt x) z.val).shards[j]? = some sh →
    (slotW (s.wgt x) z.val).cmd = some w → (slotW (s.wgt x) z.val).inPlace = false → keptPart (slotW (s.wgt x) z.val) sh.entry = true →
    sh.passed = false → sh.chunks < shardChunks sh.entry → sh.lastChunk = some b →
    b + (if s.hub.wgtWindow = 0 then 1 else s.hub.wgtWindow) * 1000000 ≤ a.hub.ns → sh.tries < 2 →
    (∀ y, y < z.val → windowPassed a x j y = false) →
    Completes (.weightWindowExpiry x ns j) s fun t => ∃ sh', (slotW (t.wgt x) z.val).shards[j]? = some sh' ∧
      sh'.tries = sh.tries + 1 ∧ sh'.chunks = 0 ∧ sh'.passed = false) ∧
  (∀ (z : Fin 2) j sh, s.hub.recheckEn = true → (∀ y, (s.wgt y).loading = none) → (slotW (s.wgt x) z.val).state = .active →
    (slotW (s.wgt x) z.val).shards[j]? = some sh → keptPart (slotW (s.wgt x) z.val) sh.entry = true → sh.passed = true →
    sh.recheck = false → weDie sh.entry < 8 →
    sh.lastPass + (if s.hub.recheckInt = 0 then 1 else s.hub.recheckInt) * 1000000000 ≤ a.hub.ns →
    Completes (.recheckDue x z ns j) s fun t =>
      (∃ l, (slotW (t.wgt x) z.val).shards[j]? = some { sh with recheck := true, late := l }) ∧
      t.hub.recheckLate = (if sh.late = false ∧ sh.lastPass + 2 * recheckGap s < a.hub.ns then min 0xFFFF (s.hub.recheckLate + 1)
        else s.hub.recheckLate) ∧
      vget t.hub.digQ [] (weDie sh.entry) = vget s.hub.digQ [] (weDie sh.entry) ++ [⟨x, z, j, true⟩])

/-- R423, R424, R427: a turn makes the verified slot active and drains the other; a request begins on the active slot (the one before a turn
of the same always-on cycle), is turned away by a quarantine, joins its own and ends; the last end empties a draining slot. -/
def Obligations.TurnsAndRequests : Prop := ∀ (src : CmdSrc) (c : CoreId) (x : CtxId) (s : State),
  (∀ a b : Fin 2, TakesCommand s 6 whoHSC src → (s.wgt x).active = a → b.val = 1 - a.val → (slotW (s.wgt x) b.val).state = .verified →
    (s.wgt x).loading = none → Completes (.turn src x) s fun t => (t.wgt x).active = b ∧
    (slotW (t.wgt x) b.val).state = .active ∧ (slotW (t.wgt x) a.val).state = (if vget (s.wgt x).refs 0 a.val = 0 then .empty else .draining) ∧
    (t.wgt x).quarantine = false ∧ (t.wgt x).turns = min 0xFFFFFFFF ((s.wgt x).turns + 1) ∧ (t.wgt x).refs = (s.wgt x).refs ∧
    Replies src 6 0 0 t) ∧
  (TakesCommand s 6 whoHSC src → (slotW (s.wgt x) (1 - (s.wgt x).active.val)).state ≠ .verified → Completes (.turn src x) s fun t =>
    t.hub.wgt = s.hub.wgt) ∧
  (∀ v, x = reqCtx s c → v = beginView s (s.wgt x) → v.2.2 = false → v.2.1 = .active → vget (s.wgt x).refs 0 v.1.val < 65535 →
    Completes (.reqBegin c) s fun t => vget (t.wgt x).refs 0 v.1.val = vget (s.wgt x).refs 0 v.1.val + 1 ∧ (t.cc c).reqDone = true ∧
    (t.cc c).reqResult = 0 ∧ (t.cc c).reqLatched = v.1 ∧ t.mem = s.mem) ∧
  (x = reqCtx s c → (beginView s (s.wgt x)).2.2 = true → Completes (.reqBegin c) s fun t =>
    t.hub.wgt = s.hub.wgt ∧ (t.cc c).reqDone = true ∧ (t.cc c).reqResult = 1) ∧
  (x = reqCtx s c → (slotW (s.wgt x) (s.cc c).reqSlot.val).state = .draining → vget (s.wgt x).refs 0 (s.cc c).reqSlot.val < 65535 →
    Completes (.reqJoin c) s fun t =>
    vget (t.wgt x).refs 0 (s.cc c).reqSlot.val = vget (s.wgt x).refs 0 (s.cc c).reqSlot.val + 1 ∧ (t.cc c).reqDone = true ∧
    (t.cc c).reqResult = 0 ∧ t.mem = s.mem) ∧
  (x = reqCtx s c → vget (s.wgt x).refs 0 (s.cc c).reqSlot.val = 1 → (slotW (s.wgt x) (s.cc c).reqSlot.val).state = .draining →
    Completes (.reqEnd c) s fun t => vget (t.wgt x).refs 0 (s.cc c).reqSlot.val = 0 ∧
    (slotW (t.wgt x) (s.cc c).reqSlot.val).state = .empty ∧ (t.cc c).reqDone = true ∧ (t.cc c).reqResult = 0) ∧
  (x = reqCtx s c → 1 < vget (s.wgt x).refs 0 (s.cc c).reqSlot.val → Completes (.reqEnd c) s fun t =>
    vget (t.wgt x).refs 0 (s.cc c).reqSlot.val = vget (s.wgt x).refs 0 (s.cc c).reqSlot.val - 1 ∧
    (t.wgt x).slots = (s.wgt x).slots ∧ (t.cc c).reqResult = 0)

/-! ### Journal, snapshots, restore (15) -/

/-- R433 to R435, R437: a covered journal command writes its header row and waits for the mirror; an uncovered one is held and counted. The
mirror's holder answers; agreement commits the step, a first disagreement repeats it, a second marks the mirror bad. -/
def Obligations.JournalEntries : Prop := ∀ (src : CmdSrc) (x : CtxId) (g rows : Nat) (s : State),
  ((s.snp x).jBusy = none → (s.snp x).jHeld = none → (s.snp x).jEntries ≠ 0 → 1 ≤ rows → rows ≤ (s.snp x).jRows →
    jnlCovered (s.snp x) g = true → Completes (.journalCommand src x g rows) s fun t =>
    (t.snp x).jBusy = some (g, rows, src, false) ∧ (t.snp x).jStep = (s.snp x).jStep ∧
    ∀ a, a = jnlSlotAddr (s.snp x) (s.snp x).jBase g → populated a = true →
      readRow t a = jnlHeader s x g rows (readRows s (a + 512) rows) ∧ ∀ b, rowBase b ≠ rowBase a → readRow t b = readRow s b) ∧
  ((s.snp x).jBusy = none → (s.snp x).jHeld = none → (s.snp x).jEntries ≠ 0 → 1 ≤ rows → rows ≤ (s.snp x).jRows →
    jnlCovered (s.snp x) g = false → Completes (.journalCommand src x g rows) s fun t =>
    (t.snp x).jHeld = some (g, rows, src) ∧ (t.snp x).jBusy = none ∧ (t.snp x).jWaits = min 0xFFFFFFFF ((s.snp x).jWaits + 1) ∧
    t.mem = s.mem) ∧
  (∀ (p : BitVec 16) (a : Nat), p.toNat = s.hub.position → Completes (.mirrorHeaderLand p a) s fun t =>
    t.net.length = s.net.length + 1 ∧ t.mem = s.mem ∧ t.hub = s.hub ∧ t.cores = s.cores) ∧
  (∀ b, (s.snp x).jBusy = some (g, rows, src, b) → Completes (.mirrorAnswer x true) s fun t =>
    (t.snp x).jBusy = none ∧ (t.snp x).jStep = g ∧ (t.snp x).jSeq = (s.snp x).jSeq + 1 ∧ t.mem = s.mem) ∧
  ((s.snp x).jBusy = some (g, rows, src, false) → Completes (.mirrorAnswer x false) s fun t =>
    (t.snp x).jBusy = some (g, rows, src, true) ∧ (t.snp x).jStep = (s.snp x).jStep ∧ (t.snp x).jSeq = (s.snp x).jSeq) ∧
  ((s.snp x).jBusy = some (g, rows, src, true) → Completes (.mirrorAnswer x false) s fun t =>
    (t.snp x).jBusy = none ∧ (t.snp x).jMirrorBad = true ∧ (t.snp x).jStep = (s.snp x).jStep ∧ t.mem = s.mem)

/-- R438, R439, R443, R445, R447, R457: UPD_END opens a copy window at the present step; a snapshot starts with the next SEQ, by NOW, when
its interval is over, or under journal pressure; each chunk enters the table once; a hosted chunk is stored only when its digest agrees; an unanswered notice
abandons the snapshot. -/
def Obligations.SnapshotsAreTaken : Prop := ∀ (x : CtxId) (w : Writer) (ns k : Nat) (s a : State), a = State.atNs ns s →
  (ofContext s x w = true → (s.snp x).window = none → Completes (.updEnd w x) s fun t =>
    (t.snp x).window = some (s.advOf x).step.toNat ∧ t.mem = s.mem ∧ t.cores = s.cores) ∧
  (ofContext s x w = false → Completes (.updEnd w x) s fun t => t = s) ∧
  (byManager w = true → snpCanStart (s.snp x) = true → Completes (.snapshotNow w x ns) s fun t => ∃ r, (t.snp x).snp = some r ∧
    r.seq = (s.snp x).lastSeq + 1 ∧ (t.snp x).lastSeq = (s.snp x).lastSeq + 1 ∧ (t.snp x).state = 1 ∧ r.table = [] ∧ r.signed = false ∧
    (t.snp x).seq = (s.snp x).seq ∧ t.mem = s.mem) ∧
  (byManager w = false → Completes (.snapshotNow w x ns) s fun t => t = a) ∧
  (∀ b, snpCanStart (s.snp x) = true → (s.snp x).window = some b → (s.snp x).lastStart + snpIntervalMs s x * 1000000 ≤ tbNow s →
    Completes (.snapshotStart x ns) s fun t => ∃ r, (t.snp x).snp = some r ∧ r.seq = (s.snp x).lastSeq + 1 ∧ (t.snp x).state = 1 ∧
    (t.snp x).lastStart = tbNow s) ∧
  (snpCanStart (s.snp x) = true → jnlPressure (s.snp x) = true → Completes (.snapshotStart x ns) s fun t => ∃ r, (t.snp x).snp = some r ∧
    r.seq = (s.snp x).lastSeq + 1 ∧ (t.snp x).state = 1 ∧ (t.snp x).lastStart = tbNow s ∧ t.mem = s.mem) ∧
  (∀ r b c, (s.snp x).snp = some r → (s.snp x).window = some b → (snpChunks s (s.snp x))[k]? = some c → r.signed = false →
    (s.snp x).level = false → (r.table.any fun y => y.1 == k) = false → (r.notices.any fun y => y.2.1 % 16 == k % 16) = false →
    chunkIdle s c = true → (∀ i, i < c.rows → readEcc s (c.addr + 512 * i) .clean = .clean) →
    Completes (.snapshotChunkCopied x ⟨k, []⟩) s fun t =>
    ∃ r', (t.snp x).snp = some r' ∧ r'.window = r.window + 1 ∧ r'.seq = r.seq ∧ t.mem = s.mem ∧
      tableEntry r'.table k = chunkEntry k b c (readRows s c.addr c.rows)) ∧
  (∀ (p : BitVec 16) (q : Nat) (e : BitVec 512), s.hub.hl.hosted.contains p.toNat = true → ceChunk e ≠ commitChunk →
    Completes (.partnerChunkNotice p x q e) s fun t => t.mem = s.mem ∧ t.cores = s.cores ∧
    t.hub.store = if digestNat (sha256 (rowBytes (readRows s q (ceRows e)))) = ceDigest e then
        writeCells (writeCells (clearCells s.hub.store (4096 * Config.hostedCommit p.toNat x.val e) 4096)
          (4096 * Config.hostedPage p.toNat x.val e) (rowBytes (readRows s q (ceRows e))))
          (Config.hostedEntry p.toNat x.val e) (leBytes 64 e.toNat)
      else s.hub.store) ∧
  (∀ (p : BitVec 16) (q : Nat) (e : BitVec 512), s.hub.hl.hosted.contains p.toNat = true → ceChunk e = commitChunk →
    s.hub.pwr.mainOk = true ∨ s.hub.pwr.backupOk = true → digestNat (sha256 (rowBytes (readRows s q (ceRows e)))) = ceDigest e →
    Completes (.partnerChunkNotice p x q e) s fun t => t.mem = s.mem ∧ t.cores = s.cores ∧
    t.hub.store = writeCells (writeCells s.hub.store (4096 * (Config.hostedCommit p.toNat x.val e + 1))
        (rowBytes ((readRows s q (ceRows e)).take 32))) (4096 * Config.hostedCommit p.toNat x.val e)
        (rowBytes ((readRows s q (ceRows e)).drop 32))) ∧
  (∀ r y, (s.snp x).snp = some r → r.notices.find? (fun y => y.2.2 + 100000000 ≤ a.hub.ns) = some y →
    Completes (.partnerNoticeTimeout x ns) s fun t => (t.snp x).snp = none ∧ (t.snp x).state = 0 ∧
    t.hub.abandoned = min 0xFFFF (s.hub.abandoned + 1) ∧ (t.snp x).seq = (s.snp x).seq)

/-- R443, R444, R446, R448: a copied snapshot is signed; a commit page of one copy is counted, and the last one commits the snapshot; a
program that fails uses a spare block; a partner without a route gets RESULT 3; the risk is evaluated each second. -/
def Obligations.SnapshotsAreCommitted : Prop := ∀ (x : CtxId) (ns : Nat) (v : Word) (s a : State), a = State.atNs ns s →
  (∀ r, (s.snp x).snp = some r → r.signed = false → snpCopied s (s.snp x) r = true → Completes (.snapshotSigned x) s fun t =>
    (t.snp x).state = 2 ∧ t.mem = s.mem ∧ ∃ l, (t.snp x).snp = some { r with signed := true, record := commitRecord s x r, notices := l }) ∧
  (∀ r, (s.snp x).snp = some r → r.signed = true → (s.snp x).correlated = false → r.commits = [1] → s.hub.pwr.mainOk = true →
    (s.snp x).jHeld = none → Completes (.commitPageWritten x 0 true) s fun t => (t.snp x).snp = none ∧ (t.snp x).committed = true ∧
    (t.snp x).seq = r.seq ∧ (t.snp x).slot = r.slot ∧ (t.snp x).state = 0 ∧ t.mem = s.mem ∧
    t.hub.store = writeCells s.hub.store (4096 * slotPage (s.snp x) r.slot.val) (rowBytes r.record)) ∧
  (∀ r, (s.snp x).snp = some r → r.signed = true → r.commits = [] → (s.snp x).partnerRes = 1 →
    (r.notices.any fun y => y.1 == 1) = false →
    Completes (.commitPageWritten x 1 true) s fun t => (t.snp x).snp = some { r with commits := [1] } ∧
    (t.snp x).seq = (s.snp x).seq ∧ t.hub.store = s.hub.store) ∧
  (∀ r, (s.snp x).snp = some r → r.signed = true → r.commits = [] → s.hub.pwr.backupOk = true → 2 ≤ s.hub.spares →
    Completes (.commitPageWritten x 0 false) s fun t => t.hub.pageFail = min 0xFFFF (s.hub.pageFail + 1) ∧
    t.hub.spares = s.hub.spares - 1 ∧ (t.snp x).snp = some r) ∧
  (v.getLsbD 16 = true → wayTo s (bitsOf v.toNat 0 16) 0 = .refused → Completes (.partnerCheck x false v) s fun t =>
    (t.snp x).partner = bitsOf v.toNat 0 16 ∧ (t.snp x).partnerEn = true ∧ (t.snp x).partnerRes = 3 ∧ t.net = s.net) ∧
  (v.getLsbD 16 = false → Completes (.partnerCheck x true v) s fun t =>
    (t.snp x).partner2 = bitsOf v.toNat 0 16 ∧ (t.snp x).partner2En = false ∧ (t.snp x).partner2Res = 0 ∧ t.net = s.net) ∧
  (s.hub.riskAt + 1000000000 ≤ a.hub.ns → Completes (.riskEvaluation ns) s fun t =>
    t.hub.riskLevel = riskLevelOf ((List.range 4).filter fun i => riskBeyond s i false) ((List.range 4).filter fun i => riskBeyond s i true) ∧
    t.hub.riskIn = (0, 0, 0) ∧ t.hub.riskAt = a.hub.ns ∧ t.mem = s.mem)

/-- R450 to R453, R455: a restore takes up its sources and the module's phase becomes 3; header pages and journal entries are gathered; each
replay step sets the global step to the next journalled one, and after the last the module is restored. -/
def Obligations.RestoreAndReplay : Prop := ∀ (src : CmdSrc) (x : CtxId) (r : RestoreCmd) (g source : Nat) (rows : List Row) (s : State),
  (TakesCommand s 8 whoS src → stripActive s x.val = false → (s.snp x).rst = none → (s.loadOf x).state = 2 → (s.snp x).rtabCnt ≠ 0 →
    namedPos (r.sources.take 4) ≠ [] → Completes (.restore src x r) s fun t => ∃ q, (t.snp x).rst = some q ∧
    q.cmd.sources = namedPos (r.sources.take 4) ∧ q.seq = none ∧ (t.snp x).phase = 3 ∧ (t.snp x).state = 3 ∧ (t.snp x).snp = none ∧
    (t.snp x).restored = false ∧ Replies src 8 0 0 t) ∧
  (TakesCommand s 8 whoS src → stripActive s x.val = true → Completes (.restore src x r) s fun t =>
    t.hub.snp = s.hub.snp ∧ Replies src 8 1 0 t) ∧
  (∀ q, (s.snp x).rst = some q → q.seq = none → q.heads = [] → source < q.cmd.sources.length → g < 2 → 2 ≤ q.cmd.sources.length →
    Completes (.restoreFetchComplete x false g source rows) s fun t =>
    (t.snp x).rst = some { q with heads := [(source, g, rows)] } ∧ t.mem = s.mem) ∧
  (∀ q, (s.snp x).rst = some q → q.seq = none → q.jGot.contains (source, g) = false → source < q.cmd.jsources.length →
    g < (s.snp x).jEntries → entryValid x (s.snp x) g rows = false → Completes (.restoreFetchComplete x true g source rows) s fun t =>
    (t.snp x).rst = some { q with jGot := q.jGot ++ [(source, g)] } ∧ t.mem = s.mem) ∧
  (∀ q e, (s.snp x).rst = some q → fetched x (s.snp x) q = true → stripActive s x.val = false →
    q.entries.find? (fun e => e.1 == q.next) = some e → Completes (.replayStep x) s fun t =>
    (t.advOf x).step = BitVec.ofNat 64 q.next ∧ (t.snp x).rst = some { q with next := q.next + 1 } ∧ t.mem = s.mem ∧
    ∀ d, t.die d = turnTables x { s.die d with tabNext := replayDie (s.die d) x q.next e.2.2.2 ++ (s.die d).tabNext }) ∧
  (∀ q, (s.snp x).rst = some q → fetched x (s.snp x) q = true → stripActive s x.val = false → q.entries.find? (fun e => e.1 == q.next) = none →
    Completes (.replayStep x) s fun t => (t.snp x).rst = none ∧ (t.snp x).restored = true ∧ (t.snp x).state = 0 ∧
    (t.snp x).again = some (lastEntry x q + 1) ∧ (t.advOf x).step = BitVec.ofNat 64 (lastEntry x q) ∧ t.mem = s.mem)

/-! ### Clocks, power, supplies (16) -/

/-- R70, R81, R472, R473: the Headland alone writes a pool; a new budget or overhead gives every die the pool of R473's formula, at most
256 and 0 when nothing is left; expert pools, 256 at most, are copied when they fit 1,650 W and refused otherwise. -/
def Obligations.PoolsAndBudgets : Prop := ∀ (w : Writer) (d : DieId) (v : Word) (watts : Nat) (s : State),
  (s.hub.pwr.alwaysOn = true → Completes (.diePoolWrite w d v) s fun t => (∀ e, t.die e = if w = .headland ∧ e = d then { s.die d with pool := v.toNat % 512 } else s.die e) ∧
    t.hub = s.hub ∧ t.cores = s.cores ∧ t.mem = s.mem) ∧
  (s.hub.pwr.alwaysOn = true → (w = .headland ∨ w = .manager) → s.hub.pwr.level = false → Completes (.pwrBudgetWrite w v) s fun t =>
    t.hub.pwr.budget = v.toNat % 2048 ∧
    ∀ e, vget (s.die e).creditMw 0 (s.die e).stepCur ≠ 0 → s.hub.pwr.overhead ≤ clampN 900 1650 (v.toNat % 2048) →
      (t.die e).pool = min 256 ((clampN 900 1650 (v.toNat % 2048) - s.hub.pwr.overhead) * 1000 /
        (8 * vget (s.die e).creditMw 0 (s.die e).stepCur))) ∧
  (s.hub.pwr.alwaysOn = true → (w = .headland ∨ w = .manager) → s.hub.pwr.level = true → Completes (.expPoolWrite w d v) s fun t =>
    t.hub.pwr.expPool = vset s.hub.pwr.expPool d.val (v.toNat % 512) ∧
    if s.hub.pwr.overhead * 1000 + (allDies.map fun e => min 256 (vget t.hub.pwr.expPool 0 e.val) *
        vget (s.die e).creditMw 0 (s.die e).stepCur).sum ≤ 1650000 then ∀ e, (t.die e).pool = min 256 (vget t.hub.pwr.expPool 0 e.val)
    else t.hub.pwr.expRefused = true ∧ ∀ e, t.die e = s.die e) ∧
  (s.hub.pwr.alwaysOn = true → s.hub.pwr.level = false → Completes (.overheadUpdate watts) s fun t =>
    t.hub.pwr.overhead = min 2047 watts ∧
    (clampN 900 1650 s.hub.pwr.budget < min 2047 watts → t.hub.pwr.budgetLow = true ∧ ∀ e, (t.die e).pool = 0))

/-- R461, R465 to R467: a step change sets the target on the whole set; its clocks stop when the set is quiet, and 64 reference cycles
later run at the new step. -/
def Obligations.StepChanges : Prop := ∀ (d : DieId) (target : Fin 8) (e : Nat) (s : State),
  (poweredOn s = true → s.hub.pwr.spread = s.hub.pwr.spreadOn → wantedStep s (stepSet s d) = some target.val →
    stepMove s (stepSet s d) target.val = true → (∀ k, k ∈ stepSet s d → (s.die k).changing = false ∧ (s.die k).stopped = none) →
    Completes (.stepChangeRequest d target) s fun t =>
      ∀ k, if k ∈ stepSet s d then t.die k = { s.die k with stepTarget := target.val, changing := true } else t.die k = s.die k) ∧
  (poweredOn s = true → s.hub.pwr.spread = s.hub.pwr.spreadOn →
    (∀ k, k ∈ stepSet s d → (s.die k).changing = true ∧ (s.die k).stopped = none) → setQuiet s (stepSet s d) = true →
    Completes (.clockStop d e) s fun t =>
      ∀ k, if k ∈ stepSet s d then t.die k = { s.die k with stopped := some e } else t.die k = s.die k) ∧
  (poweredOn s = true → (s.die d).stopped = some e → Completes (.clockRestart d (e + 64)) s fun t =>
      ∀ k, if (s.die k).stopped = some e then (t.die k).stepCur = (s.die k).stepTarget ∧ (t.die k).changing = false ∧
          (t.die k).stopped = none ∧
          (t.die k).steps = (if (s.die k).stepCur = (s.die k).stepTarget then (s.die k).steps else min 0xFFFF ((s.die k).steps + 1))
        else (t.die k).stepCur = (s.die k).stepCur ∧ (t.die k).stopped = (s.die k).stopped)

/-- R474 to R476, R483: an input power above 1,650 W lowers every die a step, and a second below the budget raises it; a sample gives each
die the highest of its four readings; one at CRIT shuts the module down; a die at THROTTLE lowers its set a step, with attention; TJ_MAX returns to TJ. -/
def Obligations.PowerLimits : Prop := ∀ (d : DieId) (n watts : Nat) (rs : List Int) (s : State),
  (1650 < watts → Completes (.inputPowerCheck n watts) s fun t =>
    t.hub.pwr.input = min 2047 watts ∧ t.hub.pwr.overLimit = true ∧
    ∀ k, t.die k = { s.die k with inputLim := min 7 ((s.die k).inputLim + 1) }) ∧
  (∀ a, s.hub.pwr.lowSince = some a → watts ≤ clampN 900 1650 s.hub.pwr.budget → a + 1000000000 ≤ n →
    Completes (.inputPowerCheck n watts) s fun t => ∀ k, t.die k = { s.die k with inputLim := (s.die k).inputLim - 1 }) ∧
  ((∀ r, r ∈ rs → r < 800) → rs.length = 37 → Completes (.sensorSample rs) s fun t =>
    ∀ k, (∀ i, i < 4 → rs.getD (4 * k.val + i) 0 ≤ (t.die k).tj) ∧ (∃ i, i < 4 ∧ (t.die k).tj = rs.getD (4 * k.val + i) 0) ∧
      (t.die k).tjMax = max (s.die k).tjMax (t.die k).tj) ∧
  ((∃ i, i < 32 ∧ (critOf s.hub.pwr * 8 : Int) ≤ rs.getD i 0) → poweredOn s = true → Completes (.sensorSample rs) s fun t =>
    t.hub.pwr.trip = some s.hub.ns ∧ t.hub.hl.attn.getLsbD 2 = true ∧ ∀ c, (t.core c).gate = .powerGated ∧ (t.sc c).strip = none) ∧
  ((s.hub.pwr.throttle * 8 : Int) ≤ (s.die d).tj → (∀ k, k ∈ stepSet s d → (s.die k).thermal ≤ (s.die d).thermal) → d ∈ stepSet s d →
    Completes (.thermalCheck n) s fun t => (t.die d).thermal = min 7 ((s.die d).thermal + 1) ∧ t.hub.hl.attn.getLsbD 2 = true) ∧
  (Completes (.pwrTjClear d) s fun t => t.die d = { s.die d with tjMax := (s.die d).tj } ∧ t.hub = s.hub ∧ t.cores = s.cores ∧
    ∀ k, k ≠ d → t.die k = s.die k)

/-- R448, R477, R513: the module switches when its input leaves its range while the other is in range, and returns to the preferred one
after RETURN_MS, each time counted and with attention; a droop is counted; an open S1 takes both inputs out of range. -/
def Obligations.SuppliesSwitch : Prop := ∀ (b : Bool) (ns : Nat) (s a : State), a = State.atNs ns s →
  (s.hub.pwr.onBackup = b → inputOk s.hub.pwr (!b) = true → Completes (.supplyOutOfRange b ns) s fun t =>
    t.hub.pwr.onBackup = !b ∧ inputOk t.hub.pwr b = false ∧ inputOk t.hub.pwr (!b) = true ∧ t.hub.pwr.outSince = none ∧
    t.hub.pwr.switches = min 0xFFFF (s.hub.pwr.switches + 1) ∧ t.hub.hl.attn.getLsbD 1 = true) ∧
  (inputOk s.hub.pwr (!b) = false → s.hub.pwr.outSince = none → Completes (.supplyOutOfRange b ns) s fun t =>
    t.hub.pwr.onBackup = s.hub.pwr.onBackup ∧ t.hub.pwr.mainOk = false ∧ t.hub.pwr.backupOk = false ∧
    t.hub.pwr.outSince = some a.hub.ns ∧ t.hub.pwr.switches = s.hub.pwr.switches) ∧
  (s.hub.pwr.mateOpen = false → inputOk s.hub.pwr s.hub.pwr.onBackup = true → Completes (.supplyInRange b ns) s fun t =>
    inputOk t.hub.pwr b = true ∧ t.hub.pwr.onBackup = s.hub.pwr.onBackup ∧ t.hub.pwr.outSince = none ∧
    t.hub.pwr.switches = s.hub.pwr.switches) ∧
  (∀ m, s.hub.pwr.prefer ≠ s.hub.pwr.onBackup → inputOk s.hub.pwr s.hub.pwr.prefer = true →
    inputSince s.hub.pwr s.hub.pwr.prefer = some m → m + (if s.hub.pwr.returnMs = 0 then 1 else s.hub.pwr.returnMs) * 1000000 ≤ a.hub.ns →
    Completes (.supplyReturn ns) s fun t => t.hub.pwr.onBackup = s.hub.pwr.prefer ∧
    t.hub.pwr.switches = min 0xFFFF (s.hub.pwr.switches + 1) ∧ t.hub.hl.attn.getLsbD 1 = true) ∧
  (Completes (.droopEvent ns) s fun t => t.hub.pwr.droops = min 0xFFFF (s.hub.pwr.droops + 1) ∧
    t.hub.riskIn = (s.hub.riskIn.1, s.hub.riskIn.2.1, s.hub.riskIn.2.2 + 1) ∧ t.cores = s.cores ∧ t.mem = s.mem) ∧
  (Completes (.mateSenseChange true ns) s fun t => t.hub.pwr.mateOpen = true ∧ t.hub.pwr.mainOk = false ∧ t.hub.pwr.backupOk = false ∧
    t.hub.pwr.onBackup = s.hub.pwr.onBackup) ∧
  (Completes (.mateSenseChange false ns) s fun t => t.hub.pwr.mateOpen = false ∧ t.hub.pwr.mainOk = s.hub.pwr.mainOk ∧
    t.hub.pwr.backupOk = s.hub.pwr.backupOk)

/-- R381, R446, R476 to R480, R495, R506, R515: both inputs out for 2 µs shut the module down: clocks stopped, cores power-gated, no strip;
4 ms later the rails go and memory is lost; a restart and a cold start leave everything at reset but store, firmware, calibration and
fuses; the straps are sampled once. -/
def Obligations.PowerFailsAndReturns : Prop := ∀ (ns : Nat) (s a : State), a = State.atNs ns s →
  (∀ o, s.hub.pwr.alwaysOn = true → s.hub.pwr.fail = none → s.hub.pwr.outSince = some o → o + 2000 ≤ a.hub.ns →
    Completes (.powerFail ns) s fun t => t.hub.pwr.fail = some a.hub.ns ∧ t.mem = s.mem ∧ t.hub.store = s.hub.store ∧
    (∀ d, (t.die d).stopped = some (a.hub.ns / 2)) ∧
    ∀ c, (t.core c).gate = .powerGated ∧ (t.sc c).strip = none ∧ (t.sc c).held = 0 ∧ (t.cm c).hop = []) ∧
  (∀ o, s.hub.pwr.railsUp = true → s.hub.pwr.fail = some o → o + 4000000 ≤ a.hub.ns → Completes (.shutdownRailsOff ns) s fun t =>
    t.hub.pwr.railsUp = false ∧ t.hub.pwr.hubUp = false ∧ t.mem = [] ∧ t.net = [] ∧ (∀ p, t.port p = Port.reset) ∧
    t.hub.pwr.alwaysOn = (s.hub.pwr.mainOk || s.hub.pwr.backupOk) ∧ t.hub.store = s.hub.store) ∧
  (∀ o, s.hub.pwr.railsUp = true → s.hub.pwr.fail = none → s.hub.pwr.trip = some o → o + 4000000 ≤ a.hub.ns →
    Completes (.shutdownRailsOff ns) s fun t => t.hub.pwr.railsUp = false ∧ t.hub.pwr.hubUp = s.hub.pwr.hubUp ∧ t.mem = [] ∧
    t.hub.pwr.alwaysOn = s.hub.pwr.alwaysOn) ∧
  (∀ i m o, (i = Instr.powerFailRestart ns ∧ m = 100000000 ∧ s.hub.pwr.fail.isSome ∧ s.hub.pwr.railsUp = false ∨
      i = Instr.coldStart ns ∧ m = 10000000 ∧ s.hub.pwr.alwaysOn = false) → s.hub.pwr.mainSince = some o → o + m ≤ a.hub.ns →
    Completes i s fun t =>
    t.cores = State.reset.cores ∧ t.dies = State.reset.dies ∧ t.ports = State.reset.ports ∧ t.mem = [] ∧ t.net = [] ∧
    t.hub.store = s.hub.store ∧ t.hub.firmware = s.hub.firmware ∧ t.hub.cal = s.hub.cal ∧ t.hub.fuses = s.hub.fuses ∧
    t.hub.pwr.fail = none ∧ t.hub.pwr.mainOk = s.hub.pwr.mainOk ∧ t.pending = s.pending) ∧
  (∀ (pos : BitVec 16) (m b : BitVec 8) (w : Bool), s.hub.hl.strapped = false → Completes (.strapSample pos m b w) s fun t =>
    t.hub.position = pos.toNat ∧ t.hub.feedMain = m.toNat ∧ t.hub.feedBkp = b.toNat ∧ t.hub.tb.master = w ∧ t.hub.hl.strapped = true ∧
    t.cores = s.cores ∧ t.mem = s.mem) ∧
  (∀ (pos : BitVec 16) (m b : BitVec 8) (w : Bool), s.hub.hl.strapped = true → Completes (.strapSample pos m b w) s fun t => t = s)

/-! ### Host link, boot, trust, resets, registers (17, 01) -/

/-- R88, R104, R303, R335, R338 to R340, R349, R364, R486, R487, R489, R490: the host writes and reads rows in the order in which it asks,
sends messages stamped with its SEQ, of which an ORDERED one waits for the host's earlier writes, and reads registers; the hub places a
waiting message in the inbox ring. A malformed message takes its SEQ and is not sent. -/
def Obligations.HostLink : Prop := ∀ (addr n k : Nat) (row hdr : Row) (pl : List Row) (v : Word) (s b : State), malobUp s = true →
  (∀ x, x = hostItem s (rowBase addr) row → populated addr = true → lockedRow s addr = false → s.hub.pwr.railsUp = true →
    (hostFirst s s.net.length x = true → deepFirst s s.net.length x = true →
      (∀ c r, placeOf (rowBase addr) = .plot c r → (s.cm c).land.length < 64 → Completes (.hostRowWrite addr row) s fun t =>
        (t.cm c).land = (s.cm c).land ++ [⟨.plot r, row, (s.sc c).wall, .write s.hub.position 0xFF 0 (rowPlane 0xFF (rowBase addr))⟩] ∧
        t.mem = s.mem) ∧
      (∀ d r, placeOf (rowBase addr) = .commons d r → Completes (.hostRowWrite addr row) s fun t =>
        (t.cm (coreNo (16 * d.val))).cmnIn = (s.cm (coreNo (16 * d.val))).cmnIn ++
          [⟨rowBase addr, row, .write s.hub.position 0xFF 0 (rowPlane 0xFF (rowBase addr)), (s.sc (coreNo (16 * d.val))).wall⟩] ∧
        t.mem = s.mem) ∧
      (∀ d r, placeOf (rowBase addr) = .deep d r → Completes (.hostRowWrite addr row) s fun t =>
        readRow t addr = row ∧ ∀ y, rowBase y ≠ rowBase addr → readRow t y = readRow s y)) ∧
    (hostFirst s s.net.length x = false → Completes (.hostRowWrite addr row) s fun t => t.net = s.net ++ [x] ∧ t.mem = s.mem)) ∧
  (populated addr = false ∨ lockedRow s addr = true → Completes (.hostRowWrite addr row) s fun t =>
    t.mem = s.mem ∧ t.cores = s.cores ∧ t.net = s.net ∧ t.hub.hl.attn.getLsbD 0 = true) ∧
  (∀ tag, 1 ≤ n → n ≤ 256 → (∀ i, i < n → populated (rowBase addr + 512 * i) = true →
      readEcc s (rowBase addr + 512 * i) .clean = .clean ∧ hostPending s (rowBase addr + 512 * i) = none ∧
      ∀ d r, placeOf (rowBase addr + 512 * i) = .commons d r → gatedFor s d r false = false) →
    Completes (.hostRowRead addr n tag []) s fun t =>
    t.hub.hl.returns = s.hub.hl.returns ++ (readRows s (rowBase addr) n).zipIdx.map (fun x => (tag % 2 ^ 24, x.2, x.1)) ∧
    t.mem = s.mem ∧ t.cores = s.cores) ∧
  (hostOutstanding s < 64 → mhMalformed (hostStamp s hdr) 0xFF true = false → pl.length + 1 = mhLen (hostStamp s hdr) →
    mhOrdered (hostStamp s hdr) = false → mhDestCore hdr < 128 → Completes (.hostMessage hdr pl) s fun t =>
    t.hub.hl.seq = (s.hub.hl.seq + 1) % 2 ^ 16 ∧
    t.hub.hl.hostMsgs = s.hub.hl.hostMsgs ++ [hostStamp s hdr :: pl] ∧ t.mem = s.mem ∧ t.cores = s.cores) ∧
  (hostOutstanding s < 64 → mhMalformed (hostStamp s hdr) 0xFF true = false → pl.length + 1 = mhLen (hostStamp s hdr) →
    mhOrdered (hostStamp s hdr) = true → (s.hub.hl.wout.any fun y => y.1 == s.hub.position) = true →
    Completes (.hostMessage hdr pl) s fun t => t.hub.hl.seq = (s.hub.hl.seq + 1) % 2 ^ 16 ∧ t.hub.hl.hostMsgs = s.hub.hl.hostMsgs ∧
    t.hub.hl.held.map (·.1) = s.hub.hl.held.map (·.1) ++ [hostStamp s hdr :: pl] ∧ t.net = s.net ∧ t.ports = s.ports ∧ t.mem = s.mem) ∧
  (hostOutstanding s < 64 → mhMalformed (hostStamp s hdr) 0xFF true = true → Completes (.hostMessage hdr pl) s fun t =>
    t.hub.hl.seq = (s.hub.hl.seq + 1) % 2 ^ 16 ∧ t.net = s.net ∧ t.ports = s.ports ∧ t.hub.hl.attn.getLsbD 0 = true) ∧
  (∀ h rows rest f, s.hub.hl.inQ = (h :: rows) :: rest → fitAt s.hub.hl.inRows s.hub.hl.inWptr s.hub.hl.inRptr (1 + rows.length) = some (false, f) →
    mhSendCore h < 128 → Completes .hostInboxPlace s fun t => t.hub.hl.inQ = rest ∧
    t.hub.hl.inWptr = (f + 1 + rows.length) % s.hub.hl.inRows ∧ t.hub.hl.inRptr = s.hub.hl.inRptr ∧
    (t.hub.hl.toHost.map (·.2)) = s.hub.hl.toHost.map (·.2) ++ landedRows s h rows) ∧
  (Completes (.hostInboxRptrWrite v) s fun t => t.hub.hl = { s.hub.hl with inRptr := v.toNat % 2 ^ 10 } ∧ t.cores = s.cores ∧ t.mem = s.mem) ∧
  (Completes (.hostFaultRptrWrite v) s fun t => t.hub.hl = { s.hub.hl with fltRptr := v.toNat % 2 ^ 14 } ∧ t.cores = s.cores ∧ t.mem = s.mem) ∧
  (∀ op : BitVec 128, b = atCycle (bitsOf op.toNat 2 48 * 4) k s → bitsOf op.toNat 0 2 = 1 → Completes (.hostRegisterOp ⟨op, k⟩) s fun t =>
    t.hub.hl.responses = b.hub.hl.responses ++ [hostResponse op (regRead none (bitsOf op.toNat 2 48 * 4) b).1] ∧
    t.cores = b.cores ∧ t.dies = b.dies ∧ t.mem = b.mem) ∧
  (∀ op : BitVec 128, bitsOf op.toNat 0 2 = 2 → regBlock (bitsOf op.toNat 2 48 * 4) = none → Completes (.hostRegisterOp ⟨op, k⟩) s fun t =>
    t.hub.hl.responses = s.hub.hl.responses ++ [hostResponse op (BitVec.ofNat 32 (bitsOf op.toNat 50 32))] ∧
    t.cores = s.cores ∧ t.dies = s.dies ∧ t.mem = s.mem)

/-- R371, R372, R492, R506, R507: the two-wire bus writes the command row by segments, submits it and reads the reply; a master's survey
opens a census of its own position, and closing it writes the route table. -/
def Obligations.BusAndSurvey : Prop := ∀ (i : Fin 16) (x : BitVec 256) (src : CmdSrc) (ns : Nat) (s a : State), a = State.atNs ns s →
  (s.hub.pwr.alwaysOn = true → Completes (.smbSegmentWrite i x) s fun t => t.hub.hl = { s.hub.hl with smbRow := s.hub.hl.smbRow.put (32 * i.val) 32 x.toNat } ∧
    t.cores = s.cores ∧ t.mem = s.mem) ∧
  (s.hub.pwr.fail = none → s.hub.pwr.alwaysOn = true → Completes .smbSubmit s fun t => ∃ h, t.hub.hl.cmds = s.hub.hl.cmds ++ [[h]] ∧ t.hub.hl.smbRow = s.hub.hl.smbRow ∧
    t.cores = s.cores ∧ t.mem = s.mem) ∧
  (s.hub.pwr.alwaysOn = true → Completes .smbReplyRead s fun t => t.hub.hl = { s.hub.hl with smbRead := s.hub.hl.smbReply } ∧ t.cores = s.cores ∧ t.mem = s.mem) ∧
  (TakesCommand s 0x10 whoS src → s.hub.tb.master = true → s.hub.hl.conflict = false → Completes (.survey src ns) s fun t =>
    t.hub.hl.census = [s.hub.position] ∧ t.hub.hl.censusEnd = some (a.hub.ns + surveyWindow s * 1000000) ∧ t.hub.hl.parent = none ∧
    Replies src 0x10 0 0 t) ∧
  (TakesCommand s 0x10 whoS src → s.hub.tb.master = false → Completes (.survey src ns) s fun t =>
    t.hub.hl.census = s.hub.hl.census ∧ t.ports = s.ports ∧ Replies src 0x10 3 0 t) ∧
  (∀ e, s.hub.hl.censusEnd = some e → e ≤ a.hub.ns → Completes (.censusClose ns) s fun t => t.hub.hl.censusEnd = none ∧
    t.hub.hl.phase = 6 ∧ t.hub.routes = torusRoutes s.hub.torus s.hub.position s.hub.hl.census ∧ t.cores = s.cores ∧ t.mem = s.mem)

/-- R497 to R504: boot takes the valid copy, or goes into recovery without one; an update writes the other copy and answers 3 when it is not
valid; the rollback count never falls; the calibration set is exported with its digest, taken only when the digest agrees, and rebuilt
by CAL_SELF; the attestation report is written where asked. -/
def Obligations.BootAndTrust : Prop := ∀ (src : CmdSrc) (ns addr n : Nat) (m : BitVec 6) (nonce : BitVec 256) (s a : State),
  a = State.atNs ns s →
  (s.hub.hl.bootDone = false → poweredOn s = true → s.hub.pwr.alwaysOn = true → Completes (.boot ns) s fun t => t.hub.hl.bootDone = true ∧ t.hub.hl.malob = .up ∧
    t.hub.hl.attn.getLsbD 6 = true ∧ (bootCopy s = none → t.hub.hl.recovery = true ∧ t.ports = s.ports) ∧
    ∀ i, bootCopy s = some i → t.hub.hl.recovery = false ∧ t.hub.hl.copy = (i == 1) ∧ t.hub.hl.phase = 1 ∧
      ∀ p, (t.port p).state = .training) ∧
  (TakesCommand s 0x0E whoS src → Completes (.fwUpdate src addr n) s fun t =>
    t.hub.firmware = vset s.hub.firmware (if s.hub.hl.copy then 0 else 1) (readRows s addr n, fwValid s (readRows s addr n, true)) ∧
    Replies src 0x0E (if fwValid s (readRows s addr n, true) then 0 else 3) 0xFFFFFFFF t ∧ t.mem = s.mem) ∧
  (TakesCommand s 0x0F whoS src → s.hub.hl.recovery = false → Completes (.rollbackCommit src) s fun t =>
    t.hub.fuses = { s.hub.fuses with rollback := min 128 (max s.hub.fuses.rollback s.hub.hl.svn) } ∧ Replies src 0x0F 0 0 t) ∧
  (TakesCommand s 0x0F whoS src → s.hub.hl.recovery = true → Completes (.rollbackCommit src) s fun t =>
    t.hub.fuses = s.hub.fuses ∧ Replies src 0x0F 0x101 0 t) ∧
  (TakesCommand s 0x0B whoHS src → (∀ i, i ≤ s.hub.cal.1.length → populated (addr + 512 * i) = true) → Completes (.calExport src addr) s fun t =>
    (∀ i, i < s.hub.cal.1.length → readRow t (addr + 512 * i) = s.hub.cal.1.getD i 0) ∧
    readRow t (addr + 512 * s.hub.cal.1.length) = Row.ofBytes (sha384 (rowBytes s.hub.cal.1)) ∧ t.hub.cal = s.hub.cal ∧ Replies src 0x0B 0 0 t) ∧
  (TakesCommand s 0x0C whoS src → Completes (.calImport src addr n) s fun t => t.mem = s.mem ∧
    if Config.calWellFormed (readRows s addr n) = true ∧
        digestNat (sha384 (rowBytes (readRows s addr n))) = (readRow s (rowBase addr + 512 * n)).field 0 48 then
      t.hub.cal = (readRows s addr n, true) ∧ Replies src 0x0C 0 0 t
    else t.hub.cal = s.hub.cal ∧ Replies src 0x0C 3 0 t) ∧
  (TakesCommand s 0x0D whoS src → Completes (.calSelf src m) s fun t => t.hub.cal.2 = true ∧ t.hub.hl.calValid = true ∧
    t.hub.hl.calSelf = s.hub.hl.calSelf ||| m ∧ t.hub.hl.attn.getLsbD 7 = true ∧ t.mem = s.mem) ∧
  (TakesCommand s 0x0A whoHS src → Completes (.attest src nonce addr) s fun t => Replies src 0x0A 0 0 t ∧ t.cores = s.cores ∧
    ∀ i, i < (attestRows s nonce).length → populated (addr + 512 * i) = true →
      readRow t (addr + 512 * i) = (attestRows s nonce).getD i 0)

/-- R45, R80, R168, R352, R406, R476, R491, R493, R495, R496, R524: a context configuration sets each named core's slot, seed and stake
map, and a commit locks them; context, core and module resets begin and are noted, and completing one answers it. -/
def Obligations.ContextsAndResets : Prop := ∀ (src : CmdSrc) (x : CtxId) (c : CoreId) (mask : BitVec 128) (v : Word) (s : State),
  (∀ (k : Fin 4) (sh rt : Bool) (seed : BitVec 64) (map : List (BitVec 8)), TakesCommand s 3 whoHS src → map.length = 12 →
    (∀ b, b ∈ map → b.toNat < 48) → (∀ e, (s.sc e).commit = false) → mask.getLsbD c.val = true → fusedOff s c = false →
    Completes (.contextCfg src x mask k sh rt seed map) s fun t => (t.sc c).ctxCfg = cfgWithSlot (s.sc c).ctxCfg k.val x.val sh rt ∧
    vget (t.en c).seeds 0 k.val = seed ∧ (t.sc c).commit = false ∧
    (∀ i, i < 12 → (vget (t.sc c).stkMap 0 (12 * k.val + i)).toNat = (map.getD i 0).toNat) ∧
    (∀ e, mask.getLsbD e.val = false → t.core e = s.core e) ∧ Replies src 3 0 0 t) ∧
  ((s.sc c).commit = false → Completes (.ctxCfgCommit c v) s fun t => (t.sc c).ctxCfg = v &&& 0x00FFFFF1#32 ∧
    ((t.sc c).commit = true ↔ v.getLsbD 31 = true ∧ (v.getLsbD 0 = false ∨ mapsOk (s.sc c) (v &&& 0x00FFFFF1#32) = true)) ∧ OnlyCore c s t) ∧
  ((s.sc c).commit = true → Completes (.ctxCfgCommit c v) s fun t => t.sc c = s.sc c ∧ OnlyCore c s t) ∧
  (TakesCommand s 9 whoHS src → mergesContext s x = false → Completes (.contextReset src x) s fun t =>
    t.hub.hl.resets = s.hub.hl.resets ++
      [⟨1, 0, x, some src, (ctxCores s x.val).flatMap fun c => (ringsOf s c x.val).map fun r => (c, r)⟩] ∧ (t.snp x).window = none ∧ (t.wgt x).refs = Vector.replicate 2 0 ∧
    (∀ e, e ∈ ctxCores s x.val → (t.sc e).commit = false) ∧ t.mem = s.mem) ∧
  (TakesCommand s 9 whoHS src → mergesCores s mask = false → mask.getLsbD c.val = true → fusedOff s c = false →
    Completes (.coreReset src mask) s fun t => t.hub.hl.resets = s.hub.hl.resets ++ [⟨2, mask, 0, some src, []⟩] ∧
    t.sc c = { Sched.reset with wall := (s.sc c).wall, origin := (s.sc c).wall } ∧ (t.cc c).resetting = true ∧ (t.cc c).imem = (s.cc c).imem ∧
    (t.en c).foldEpoch = ((s.en c).foldEpoch + 1) % 256 ∧ t.mem = s.mem) ∧
  (s.hub.pwr.fail = none → s.hub.pwr.alwaysOn = true → whoHS src.who = true → moduleMayReset s = true → moduleResetting s = false →
    Completes (.moduleReset src) s fun t => t.cores = State.reset.cores ∧ t.mem = [] ∧ t.net = [] ∧ t.pending = s.pending ∧
    t.hub.hl.resets = [⟨3, 0, 0, some src, []⟩] ∧ t.hub.store = s.hub.store ∧ t.hub.fuses = s.hub.fuses ∧ t.hub.position = s.hub.position) ∧
  (∀ l ns, 1000 ≤ l → s.hub.pwr.fail = none → s.hub.pwr.alwaysOn = true → moduleMayReset s = true → moduleResetting s = false → Completes (.resetNEdge l ns) s fun t =>
    t.cores = State.reset.cores ∧ t.mem = [] ∧ t.net = [] ∧ t.hub.hl.resets = [⟨3, 0, 0, none, []⟩] ∧ t.hub.store = s.hub.store ∧
    t.hub.fuses = s.hub.fuses) ∧
  (∀ l, s.hub.hl.resets = [⟨2, mask, x, some src, l⟩] → mask.getLsbD c.val = true → fusedOff s c = false → Completes .resetComplete s fun t =>
    t.hub.hl.resets = [] ∧ (t.cc c).resetting = false ∧ ((s.cc c).progOk = true → (t.cc c).run = .running ∧ (t.cc c).pc = 0) ∧
    Replies src 9 0 0 t ∧ t.mem = s.mem) ∧
  (∀ r l rest, s.hub.hl.resets = ⟨3, mask, x, r, l⟩ :: rest → Completes .resetComplete s fun t => t.hub.hl.resets = rest ∧ t.cores = s.cores ∧
    (s.hub.tb.master = true → s.hub.tb.extRef = false → t.hub.tb.locked = true))

/-- R9 to R12, R118, R126, R128, R183, R303, R304, R307, R342: register writes take effect only from the writer that a table names, and a
word without a register ignores them; the Drill test runs for 12 control-core cycles; error counters clear; a load locks its regions,
and its check answers 0 or the code of the first check that fails. -/
def Obligations.RegistersAndLoads : Prop := ∀ (c : CoreId) (d : DieId) (w : Writer) (v : Word) (n addr : Nat) (src : CmdSrc) (x : CtxId) (s a : State),
  (regBlock addr = none → Completes (.registerWrite w ⟨addr, n⟩ v) s fun t => t = s) ∧
  (a = advance c n s → s.hub.pwr.alwaysOn = true → (w = .headland ∨ w = .core c) →
    Completes (.registerWrite w ⟨0xF000000000 + 0x10000 * c.val + 0x28, n⟩ v) s fun t =>
    t.sc c = { a.sc c with wdog := bitsOf v.toNat 0 6 } ∧ OnlyCore c a t) ∧
  (a = advance c n s → s.hub.pwr.alwaysOn = true → w ≠ .headland → w ≠ .core c →
    Completes (.registerWrite w ⟨0xF000000000 + 0x10000 * c.val + 0x28, n⟩ v) s fun t => t = a) ∧
  ((s.en c).drlBusy = none → Completes (.drlTestGo c n) s fun t =>
    t.en c = { s.en c with drlBusy := some (n, (s.en c).drlKey, (s.en c).drlCtr) } ∧ OnlyCore c s t) ∧
  (∀ key ctr o, (s.en c).drlBusy = some (n, key, ctr) →
    o = drlF (vget key 0 0) (vget key 0 1) ⟨vget ctr 0 0, vget ctr 0 1, vget ctr 0 2, vget ctr 0 3⟩ → Completes (.drlTestDone c (n + 12)) s fun t =>
    t.en c = { s.en c with drlBusy := none, drlDone := true, drlOut := #v[o.x0, o.x1, o.x2, o.x3] } ∧ OnlyCore c s t) ∧
  (∀ b, Completes (.errCounterClear (.plot c b)) s fun t =>
    t.cm c = { s.cm c with err := { (s.cm c).err with ce := 0, ue := 0, late := 0 } } ∧ OnlyCore c s t) ∧
  (∀ b, Completes (.errCounterClear (.commons d b)) s fun t =>
    t.die d = { s.die d with cmnErr := { (s.die d).cmnErr with ce := 0, ue := 0, late := 0 } } ∧ t.cores = s.cores ∧ t.mem = s.mem) ∧
  (∀ b, Completes (.errCounterClear (.deep d b)) s fun t =>
    t.die d = { s.die d with dmErr := { (s.die d).dmErr with ce := 0, ue := 0, late := 0 } } ∧ t.cores = s.cores ∧ t.mem = s.mem) ∧
  (s.hub.pwr.alwaysOn = true → Completes (.cmnFixedWrite w d v) s fun t => t.cores = s.cores ∧ t.mem = s.mem ∧ (∀ e, e ≠ d → t.die e = s.die e) ∧
    t.die d = if w = .headland then { s.die d with fixed := v.setWidth 16 ||| ((s.die d).fixed &&& spillGroups s d) } else s.die d) ∧
  (TakesCommand s 1 whoHS src → (s.loadOf x).busy = none → stripActive s x.val = false → Completes (.loadImage src x addr) s fun t =>
    (t.loadOf x).busy = some (addr, src) ∧ (t.loadOf x).state = 1 ∧ (t.loadOf x).code = 0 ∧ t.mem = s.mem ∧ t.cores = s.cores ∧
    (t.loadOf x).locks = ((manifestRegions (manifestRows s addr)).take 512).map fun r => (r.core, r.first, r.rows)) ∧
  (TakesCommand s 1 whoHS src → (s.loadOf x).busy = none → stripActive s x.val = true → Completes (.loadImage src x addr) s fun t =>
    (t.loadOf x).busy = none ∧ (t.loadOf x).state = 3 ∧ (t.loadOf x).code = 1 ∧ (t.loadOf x).locks = (s.loadOf x).locks ∧
    Replies src 1 1 0 t) ∧
  ((s.loadOf x).busy = some (addr, src) → Completes (.loadCheckComplete x) s fun t => (t.loadOf x).busy = none ∧
    (t.loadOf x).locks = [] ∧ t.mem = s.mem ∧
    match loadCheck s x (manifestRows s addr) with
    | none => (t.loadOf x).state = 2 ∧ (t.loadOf x).code = 0 ∧ (t.loadOf x).accepted = (s.loadOf x).accepted + 1 ∧ Replies src 1 0 0 t
    | some f => (t.loadOf x).state = 3 ∧ (t.loadOf x).code = f.code ∧ (t.loadOf x).accepted = (s.loadOf x).accepted ∧
        Replies src 1 (0x100 + f.code) f.where_ t)

/-! ### The whole block -/

/-- The block takes the command at the front of its queue and runs it on the state with the queue's rest; with no command waiting it
idles. Both are the model's choice (log entry 1). -/
def Obligations.FrontCommandRuns : Prop :=
  (∀ (i : Instr) (rest : List Instr) (s : State), s.pending = i :: rest → step s = exec i { s with pending := rest }) ∧
  (∀ s : State, s.pending = [] → step s = .next s)

/-- What reset leaves where the spec gives a value: idle, power-gated cores without credit, with stakes and handle queues empty and no
configuration locked, halted control cores with every handler off, scrubbing on; dies at step 0 with no fixed group; a budget of 900 W,
thresholds 95, 5 and 110, the basic level, position 0xFFFF, lock-step off, the time base not locked; nothing waits and nothing is stored. -/
def Obligations.ResetValues : Prop := State.reset.pending = [] ∧ State.reset.net = [] ∧ State.reset.hub.store = [] ∧
  (∀ c : CoreId, (State.reset.core c).gate = .powerGated ∧ (State.reset.sc c).run = .idle ∧ (State.reset.sc c).held = 0 ∧
    (State.reset.sc c).strip = none ∧ (State.reset.sc c).commit = false ∧ (State.reset.sc c).stkOvf = false ∧
    (∀ k, vget (State.reset.sc c).stk 0 k = 0) ∧ (∀ q, vget (State.reset.sc c).hq [] q = []) ∧
    (State.reset.cc c).run = .halted ∧ (State.reset.cc c).hdlEn = 0 ∧ (State.reset.cm c).err.ce = 0 ∧ (State.reset.cm c).err.scrubEn = true) ∧
  (∀ d : DieId, (State.reset.die d).stepCur = 0 ∧ (State.reset.die d).changing = false ∧ (State.reset.die d).fixed = 0) ∧
  State.reset.hub.pwr.budget = 900 ∧ State.reset.hub.pwr.throttle = 95 ∧ State.reset.hub.pwr.hyst = 5 ∧ State.reset.hub.pwr.crit = 110 ∧
  State.reset.hub.pwr.level = false ∧ State.reset.hub.pwr.returnMs = 100 ∧ State.reset.hub.position = 0xFFFF ∧
  State.reset.hub.ls.enable = false ∧ State.reset.hub.tb.locked = false

/-- The state after reset is sound: every memory is in canonical form and every x0 is 0. -/
def Obligations.ResetIsSound : Prop := Sound State.reset

/-- Every step from a sound state leads to a sound state: no command breaks the canonical form of an addressed memory, and none writes
register x0 of a control core (R308). -/
def Obligations.StepKeepsSound : Prop := ∀ s t : State, Sound s → step s = .next t → Sound t

/-- Every command completes in every state, and its effect does not reach the queue of commands that wait. None stops the block by a
fault or a refusal: a command whose condition is not met, is malformed or is not allowed takes the effect the spec gives that case, and
where it gives none there is no event (log entry 3). -/
def Obligations.EveryCommandCompletes : Prop := ∀ (i : Instr) (s : State), ∃ t, exec i s = .next t ∧ t.pending = s.pending

/-- The frames: a command that stores nothing leaves every row of the module as it was; a command that takes no part in a core, a compute
die or a link port leaves every register, queue, memory, mode and counter of each as it was. -/
def Obligations.CommandsAreFramed : Prop := ∀ (i : Instr) (s t : State), exec i s = .next t →
  (storesNothing i = true → t.mem = s.mem ∧ ∀ a, readRow t a = readRow s a) ∧ (leavesCores i = true → ∀ c, t.core c = s.core c) ∧
    (leavesDies i = true → ∀ d, t.die d = s.die d) ∧ (leavesPorts i = true → ∀ p, t.port p = s.port p)

/-- R8: the bytes of a row lie at rising addresses from its lowest; a field of several bytes is little-endian with its bit 0 least
significant; bit n of a row is bit n mod 8 of byte n / 8. -/
def Obligations.RowsAreLittleEndian : Prop := ∀ (m : List Host.Cell) (a : Nat) (r : Row),
  (∀ k, k < 512 → some (cellGet (writeRowAt m a r) (a + k)) = r.bytes[k]?) ∧
  (∀ off len, off + len ≤ 512 → r.field off len = ofLe ((r.bytes.drop off).take len)) ∧
  (∀ n (b : Byte), n < 4096 → r.bytes[n / 8]? = some b → r.getLsbD n = b.getLsbD (n % 8))

/-- R44: an addition to a stake beyond 255 leaves it at 255 and sets STK_OVF, which is sticky; in debug mode it raises a hazard fault that stops
the core's strip. -/
def Obligations.StakesSaturate : Prop := ∀ (c : CoreId) (k n source tag : Nat) (s : State), k < 48 →
  ((vget (s.sc c).stk 0 k).toNat + n ≤ 255 → (vget ((addStake c k n source tag s).sc c).stk 0 k).toNat = (vget (s.sc c).stk 0 k).toNat + n ∧
    ((addStake c k n source tag s).sc c).stkOvf = (s.sc c).stkOvf) ∧
  (255 < (vget (s.sc c).stk 0 k).toNat + n → vget ((addStake c k n source tag s).sc c).stk 0 k = 255 ∧
    ((addStake c k n source tag s).sc c).stkOvf = true ∧ (debugMode s c = true → (s.sc c).strip.isSome = true → ((addStake c k n source tag s).sc c).hazard = true ∧
      ((addStake c k n source tag s).sc c).check = 6 ∧ ((addStake c k n source tag s).sc c).run = .faulted))

/-- R118: a read that meets a corrected error delivers the row, counts the error and records it in the tier's ERR_ADDR register unless that
holds an uncorrectable one (R127 to R129), and the row in memory is not rewritten. -/
def Obligations.CorrectedErrorsAreCounted : Prop := ∀ (a w : Nat) (s : State),
  (noteEcc s a (.corrected w)).mem = s.mem ∧ (∀ b, readRow (noteEcc s a (.corrected w)) b = readRow s b) ∧
  (∀ c r, placeOf a = .plot c r → ((noteEcc s a (.corrected w)).cm c).err.ce = min 0xFFFF ((s.cm c).err.ce + 1) ∧
    (keepUe (s.cm c).err 18 = false → bitsOf ((noteEcc s a (.corrected w)).cm c).err.addr.toNat 0 14 = r ∧
      ((noteEcc s a (.corrected w)).cm c).err.addr.getLsbD 31 = true)) ∧
  (∀ d r, placeOf a = .commons d r → ((noteEcc s a (.corrected w)).die d).cmnErr.ce = min 0xFFFF ((s.die d).cmnErr.ce + 1) ∧
    (keepUe (s.die d).cmnErr 26 = false → bitsOf ((noteEcc s a (.corrected w)).die d).cmnErr.addr.toNat 0 22 = r ∧
      ((noteEcc s a (.corrected w)).die d).cmnErr.addr.getLsbD 31 = true)) ∧
  (∀ d r, placeOf a = .deep d r → ((noteEcc s a (.corrected w)).die d).dmErr.ce = min 0xFFFF ((s.die d).dmErr.ce + 1) ∧
    (keepUe (s.die d).dmErr 27 = false → bitsOf ((noteEcc s a (.corrected w)).die d).dmErr.addr.toNat 0 25 = r ∧
      ((noteEcc s a (.corrected w)).die d).dmErr.addr.getLsbD 31 = true)) ∧
  ∀ tag, malobUp s = true → populated a = true → readEcc s (rowBase a) (.corrected w) = .corrected w → hostPending s (rowBase a) = none →
    (∀ d r, placeOf (rowBase a) = .commons d r → gatedFor s d r false = false) → Completes (.hostRowRead a 1 tag [(0, .corrected w)]) s fun t =>
      t.hub.hl.returns = s.hub.hl.returns ++ [(tag % 2 ^ 24, 0, readRow s (rowBase a))] ∧ t.mem = s.mem
end

