-- ==== Sys2Proof/Laws/State.lean ====
section
/-! SUPPORT. Projections of the state updates: what each update of a core, die, port or of the hub leaves and what it writes. -/

namespace Sys2Proof.Machine

open Sys2Proof

/-! ### Vectors -/

@[simp] theorem vget_vset_self {α : Type} {n : Nat} (v : Vector α n) (i : Nat) (x d : α) (h : i < n) :
    vget (vset v i x) d i = x := by
  simp [vget, vset, Array.getD_eq_getD_getElem?, h]

theorem vget_vset_ne {α : Type} {n : Nat} (v : Vector α n) (i j : Nat) (x d : α) (h : i ≠ j) :
    vget (vset v i x) d j = vget v d j := by
  simp [vget, vset, Array.getD_eq_getD_getElem?, Array.getElem?_setIfInBounds, h]

theorem vget_vset {α : Type} {n : Nat} (v : Vector α n) (i j : Nat) (x d : α) :
    vget (vset v i x) d j = if i = j ∧ j < n then x else vget v d j := by
  by_cases h : i = j
  · subst h
    by_cases k : i < n
    · simp [k]
    · simp [vget, vset, Array.getD_eq_getD_getElem?, k]
  · simp [vget_vset_ne, h]

/-! ### Whole cores, dies and ports -/

@[simp] theorem State.setCore_pending (s : State) (c : CoreId) (k : Core) :
    (s.setCore c k).pending = s.pending := rfl
@[simp] theorem State.setCore_hub (s : State) (c : CoreId) (k : Core) :
    (s.setCore c k).hub = s.hub := rfl
@[simp] theorem State.setCore_mem (s : State) (c : CoreId) (k : Core) :
    (s.setCore c k).mem = s.mem := rfl
@[simp] theorem State.setCore_net (s : State) (c : CoreId) (k : Core) :
    (s.setCore c k).net = s.net := rfl
@[simp] theorem State.setCore_free (s : State) (c : CoreId) (k : Core) :
    (s.setCore c k).free = s.free := rfl
@[simp] theorem State.setDie_pending (s : State) (d : DieId) (k : Die) :
    (s.setDie d k).pending = s.pending := rfl
@[simp] theorem State.setDie_hub (s : State) (d : DieId) (k : Die) :
    (s.setDie d k).hub = s.hub := rfl
@[simp] theorem State.setDie_mem (s : State) (d : DieId) (k : Die) :
    (s.setDie d k).mem = s.mem := rfl
@[simp] theorem State.setDie_net (s : State) (d : DieId) (k : Die) :
    (s.setDie d k).net = s.net := rfl
@[simp] theorem State.setDie_free (s : State) (d : DieId) (k : Die) :
    (s.setDie d k).free = s.free := rfl
@[simp] theorem State.setPort_pending (s : State) (p : PortId) (k : Port) :
    (s.setPort p k).pending = s.pending := rfl
@[simp] theorem State.setPort_hub (s : State) (p : PortId) (k : Port) :
    (s.setPort p k).hub = s.hub := rfl
@[simp] theorem State.setPort_mem (s : State) (p : PortId) (k : Port) :
    (s.setPort p k).mem = s.mem := rfl
@[simp] theorem State.setPort_net (s : State) (p : PortId) (k : Port) :
    (s.setPort p k).net = s.net := rfl
@[simp] theorem State.setPort_free (s : State) (p : PortId) (k : Port) :
    (s.setPort p k).free = s.free := rfl
@[simp] theorem State.setCore_core_self (s : State) (c : CoreId) (k : Core) :
    (s.setCore c k).core c = k := by simp [State.setCore, State.core, Vector.get_eq_getElem]
@[simp] theorem State.setCore_core_ne (s : State) (c : CoreId) (c' : CoreId) (k : Core) (h : c ≠ c') :
    (s.setCore c k).core c' = s.core c' := by
  have h' : c.val ≠ c'.val := fun e => h (Fin.ext e)
  simp [State.setCore, State.core, Vector.get_eq_getElem, Vector.getElem_set, h']
@[simp] theorem State.setCore_die (s : State) (c : CoreId) (k : Core) (d' : DieId) :
    (s.setCore c k).die d' = s.die d' := rfl
@[simp] theorem State.setCore_port (s : State) (c : CoreId) (k : Core) (p' : PortId) :
    (s.setCore c k).port p' = s.port p' := rfl
@[simp] theorem State.setDie_core (s : State) (d : DieId) (k : Die) (c' : CoreId) :
    (s.setDie d k).core c' = s.core c' := rfl
@[simp] theorem State.setDie_die_self (s : State) (d : DieId) (k : Die) :
    (s.setDie d k).die d = k := by simp [State.setDie, State.die, Vector.get_eq_getElem]
@[simp] theorem State.setDie_die_ne (s : State) (d : DieId) (d' : DieId) (k : Die) (h : d ≠ d') :
    (s.setDie d k).die d' = s.die d' := by
  have h' : d.val ≠ d'.val := fun e => h (Fin.ext e)
  simp [State.setDie, State.die, Vector.get_eq_getElem, Vector.getElem_set, h']
@[simp] theorem State.setDie_port (s : State) (d : DieId) (k : Die) (p' : PortId) :
    (s.setDie d k).port p' = s.port p' := rfl
@[simp] theorem State.setPort_core (s : State) (p : PortId) (k : Port) (c' : CoreId) :
    (s.setPort p k).core c' = s.core c' := rfl
@[simp] theorem State.setPort_die (s : State) (p : PortId) (k : Port) (d' : DieId) :
    (s.setPort p k).die d' = s.die d' := rfl
@[simp] theorem State.setPort_port_self (s : State) (p : PortId) (k : Port) :
    (s.setPort p k).port p = k := by simp [State.setPort, State.port, Vector.get_eq_getElem]
@[simp] theorem State.setPort_port_ne (s : State) (p : PortId) (p' : PortId) (k : Port) (h : p ≠ p') :
    (s.setPort p k).port p' = s.port p' := by
  have h' : p.val ≠ p'.val := fun e => h (Fin.ext e)
  simp [State.setPort, State.port, Vector.get_eq_getElem, Vector.getElem_set, h']

/-! ### One part of a core -/

@[simp] theorem State.onSc_pending (s : State) (c : CoreId) (f : Sched → Sched) :
    (s.onSc c f).pending = s.pending := rfl
@[simp] theorem State.onSc_hub (s : State) (c : CoreId) (f : Sched → Sched) :
    (s.onSc c f).hub = s.hub := rfl
@[simp] theorem State.onSc_mem (s : State) (c : CoreId) (f : Sched → Sched) :
    (s.onSc c f).mem = s.mem := rfl
@[simp] theorem State.onSc_net (s : State) (c : CoreId) (f : Sched → Sched) :
    (s.onSc c f).net = s.net := rfl
@[simp] theorem State.onSc_free (s : State) (c : CoreId) (f : Sched → Sched) :
    (s.onSc c f).free = s.free := rfl
@[simp] theorem State.onSc_die (s : State) (c : CoreId) (f : Sched → Sched) (d : DieId) :
    (s.onSc c f).die d = s.die d := rfl
@[simp] theorem State.onSc_port (s : State) (c : CoreId) (f : Sched → Sched) (p : PortId) :
    (s.onSc c f).port p = s.port p := rfl
@[simp] theorem State.onSc_sc_self (s : State) (c : CoreId) (f : Sched → Sched) :
    (s.onSc c f).sc c = f (s.sc c) := by simp [State.onSc, State.onCore, State.sc]
@[simp] theorem State.onSc_sc_ne (s : State) (c c' : CoreId) (f : Sched → Sched) (h : c ≠ c') :
    (s.onSc c f).sc c' = s.sc c' := by simp [State.onSc, State.onCore, State.sc, h]
@[simp] theorem State.onSc_cm (s : State) (c : CoreId) (f : Sched → Sched) (c' : CoreId) :
    (s.onSc c f).cm c' = s.cm c' := by
  by_cases h : c = c'
  · subst h; simp [State.onSc, State.onCore, State.cm]
  · simp [State.onSc, State.onCore, State.cm, h]
@[simp] theorem State.onSc_en (s : State) (c : CoreId) (f : Sched → Sched) (c' : CoreId) :
    (s.onSc c f).en c' = s.en c' := by
  by_cases h : c = c'
  · subst h; simp [State.onSc, State.onCore, State.en]
  · simp [State.onSc, State.onCore, State.en, h]
@[simp] theorem State.onSc_cc (s : State) (c : CoreId) (f : Sched → Sched) (c' : CoreId) :
    (s.onSc c f).cc c' = s.cc c' := by
  by_cases h : c = c'
  · subst h; simp [State.onSc, State.onCore, State.cc]
  · simp [State.onSc, State.onCore, State.cc, h]
@[simp] theorem State.onSc_gate (s : State) (c : CoreId) (f : Sched → Sched) (c' : CoreId) :
    ((s.onSc c f).core c').gate = (s.core c').gate := by
  by_cases h : c = c'
  · subst h; simp [State.onSc, State.onCore]
  · simp [State.onSc, State.onCore, h]
@[simp] theorem State.onSc_gatedAt (s : State) (c : CoreId) (f : Sched → Sched) (c' : CoreId) :
    ((s.onSc c f).core c').gatedAt = (s.core c').gatedAt := by
  by_cases h : c = c'
  · subst h; simp [State.onSc, State.onCore]
  · simp [State.onSc, State.onCore, h]
@[simp] theorem State.onSc_gateCmd (s : State) (c : CoreId) (f : Sched → Sched) (c' : CoreId) :
    ((s.onSc c f).core c').gateCmd = (s.core c').gateCmd := by
  by_cases h : c = c'
  · subst h; simp [State.onSc, State.onCore]
  · simp [State.onSc, State.onCore, h]
@[simp] theorem State.onSc_core_ne (s : State) (c c' : CoreId) (f : Sched → Sched) (h : c ≠ c') :
    (s.onSc c f).core c' = s.core c' := by simp [State.onSc, State.onCore, h]
@[simp] theorem State.onM_pending (s : State) (c : CoreId) (f : Mem1 → Mem1) :
    (s.onM c f).pending = s.pending := rfl
@[simp] theorem State.onM_hub (s : State) (c : CoreId) (f : Mem1 → Mem1) :
    (s.onM c f).hub = s.hub := rfl
@[simp] theorem State.onM_mem (s : State) (c : CoreId) (f : Mem1 → Mem1) :
    (s.onM c f).mem = s.mem := rfl
@[simp] theorem State.onM_net (s : State) (c : CoreId) (f : Mem1 → Mem1) :
    (s.onM c f).net = s.net := rfl
@[simp] theorem State.onM_free (s : State) (c : CoreId) (f : Mem1 → Mem1) :
    (s.onM c f).free = s.free := rfl
@[simp] theorem State.onM_die (s : State) (c : CoreId) (f : Mem1 → Mem1) (d : DieId) :
    (s.onM c f).die d = s.die d := rfl
@[simp] theorem State.onM_port (s : State) (c : CoreId) (f : Mem1 → Mem1) (p : PortId) :
    (s.onM c f).port p = s.port p := rfl
@[simp] theorem State.onM_sc (s : State) (c : CoreId) (f : Mem1 → Mem1) (c' : CoreId) :
    (s.onM c f).sc c' = s.sc c' := by
  by_cases h : c = c'
  · subst h; simp [State.onM, State.onCore, State.sc]
  · simp [State.onM, State.onCore, State.sc, h]
@[simp] theorem State.onM_cm_self (s : State) (c : CoreId) (f : Mem1 → Mem1) :
    (s.onM c f).cm c = f (s.cm c) := by simp [State.onM, State.onCore, State.cm]
@[simp] theorem State.onM_cm_ne (s : State) (c c' : CoreId) (f : Mem1 → Mem1) (h : c ≠ c') :
    (s.onM c f).cm c' = s.cm c' := by simp [State.onM, State.onCore, State.cm, h]
@[simp] theorem State.onM_en (s : State) (c : CoreId) (f : Mem1 → Mem1) (c' : CoreId) :
    (s.onM c f).en c' = s.en c' := by
  by_cases h : c = c'
  · subst h; simp [State.onM, State.onCore, State.en]
  · simp [State.onM, State.onCore, State.en, h]
@[simp] theorem State.onM_cc (s : State) (c : CoreId) (f : Mem1 → Mem1) (c' : CoreId) :
    (s.onM c f).cc c' = s.cc c' := by
  by_cases h : c = c'
  · subst h; simp [State.onM, State.onCore, State.cc]
  · simp [State.onM, State.onCore, State.cc, h]
@[simp] theorem State.onM_gate (s : State) (c : CoreId) (f : Mem1 → Mem1) (c' : CoreId) :
    ((s.onM c f).core c').gate = (s.core c').gate := by
  by_cases h : c = c'
  · subst h; simp [State.onM, State.onCore]
  · simp [State.onM, State.onCore, h]
@[simp] theorem State.onM_gatedAt (s : State) (c : CoreId) (f : Mem1 → Mem1) (c' : CoreId) :
    ((s.onM c f).core c').gatedAt = (s.core c').gatedAt := by
  by_cases h : c = c'
  · subst h; simp [State.onM, State.onCore]
  · simp [State.onM, State.onCore, h]
@[simp] theorem State.onM_gateCmd (s : State) (c : CoreId) (f : Mem1 → Mem1) (c' : CoreId) :
    ((s.onM c f).core c').gateCmd = (s.core c').gateCmd := by
  by_cases h : c = c'
  · subst h; simp [State.onM, State.onCore]
  · simp [State.onM, State.onCore, h]
@[simp] theorem State.onM_core_ne (s : State) (c c' : CoreId) (f : Mem1 → Mem1) (h : c ≠ c') :
    (s.onM c f).core c' = s.core c' := by simp [State.onM, State.onCore, h]
@[simp] theorem State.onE_pending (s : State) (c : CoreId) (f : Eng → Eng) :
    (s.onE c f).pending = s.pending := rfl
@[simp] theorem State.onE_hub (s : State) (c : CoreId) (f : Eng → Eng) :
    (s.onE c f).hub = s.hub := rfl
@[simp] theorem State.onE_mem (s : State) (c : CoreId) (f : Eng → Eng) :
    (s.onE c f).mem = s.mem := rfl
@[simp] theorem State.onE_net (s : State) (c : CoreId) (f : Eng → Eng) :
    (s.onE c f).net = s.net := rfl
@[simp] theorem State.onE_free (s : State) (c : CoreId) (f : Eng → Eng) :
    (s.onE c f).free = s.free := rfl
@[simp] theorem State.onE_die (s : State) (c : CoreId) (f : Eng → Eng) (d : DieId) :
    (s.onE c f).die d = s.die d := rfl
@[simp] theorem State.onE_port (s : State) (c : CoreId) (f : Eng → Eng) (p : PortId) :
    (s.onE c f).port p = s.port p := rfl
@[simp] theorem State.onE_sc (s : State) (c : CoreId) (f : Eng → Eng) (c' : CoreId) :
    (s.onE c f).sc c' = s.sc c' := by
  by_cases h : c = c'
  · subst h; simp [State.onE, State.onCore, State.sc]
  · simp [State.onE, State.onCore, State.sc, h]
@[simp] theorem State.onE_cm (s : State) (c : CoreId) (f : Eng → Eng) (c' : CoreId) :
    (s.onE c f).cm c' = s.cm c' := by
  by_cases h : c = c'
  · subst h; simp [State.onE, State.onCore, State.cm]
  · simp [State.onE, State.onCore, State.cm, h]
@[simp] theorem State.onE_en_self (s : State) (c : CoreId) (f : Eng → Eng) :
    (s.onE c f).en c = f (s.en c) := by simp [State.onE, State.onCore, State.en]
@[simp] theorem State.onE_en_ne (s : State) (c c' : CoreId) (f : Eng → Eng) (h : c ≠ c') :
    (s.onE c f).en c' = s.en c' := by simp [State.onE, State.onCore, State.en, h]
@[simp] theorem State.onE_cc (s : State) (c : CoreId) (f : Eng → Eng) (c' : CoreId) :
    (s.onE c f).cc c' = s.cc c' := by
  by_cases h : c = c'
  · subst h; simp [State.onE, State.onCore, State.cc]
  · simp [State.onE, State.onCore, State.cc, h]
@[simp] theorem State.onE_gate (s : State) (c : CoreId) (f : Eng → Eng) (c' : CoreId) :
    ((s.onE c f).core c').gate = (s.core c').gate := by
  by_cases h : c = c'
  · subst h; simp [State.onE, State.onCore]
  · simp [State.onE, State.onCore, h]
@[simp] theorem State.onE_gatedAt (s : State) (c : CoreId) (f : Eng → Eng) (c' : CoreId) :
    ((s.onE c f).core c').gatedAt = (s.core c').gatedAt := by
  by_cases h : c = c'
  · subst h; simp [State.onE, State.onCore]
  · simp [State.onE, State.onCore, h]
@[simp] theorem State.onE_gateCmd (s : State) (c : CoreId) (f : Eng → Eng) (c' : CoreId) :
    ((s.onE c f).core c').gateCmd = (s.core c').gateCmd := by
  by_cases h : c = c'
  · subst h; simp [State.onE, State.onCore]
  · simp [State.onE, State.onCore, h]
@[simp] theorem State.onE_core_ne (s : State) (c c' : CoreId) (f : Eng → Eng) (h : c ≠ c') :
    (s.onE c f).core c' = s.core c' := by simp [State.onE, State.onCore, h]
@[simp] theorem State.onCc_pending (s : State) (c : CoreId) (f : Cc → Cc) :
    (s.onCc c f).pending = s.pending := rfl
@[simp] theorem State.onCc_hub (s : State) (c : CoreId) (f : Cc → Cc) :
    (s.onCc c f).hub = s.hub := rfl
@[simp] theorem State.onCc_mem (s : State) (c : CoreId) (f : Cc → Cc) :
    (s.onCc c f).mem = s.mem := rfl
@[simp] theorem State.onCc_net (s : State) (c : CoreId) (f : Cc → Cc) :
    (s.onCc c f).net = s.net := rfl
@[simp] theorem State.onCc_free (s : State) (c : CoreId) (f : Cc → Cc) :
    (s.onCc c f).free = s.free := rfl
@[simp] theorem State.onCc_die (s : State) (c : CoreId) (f : Cc → Cc) (d : DieId) :
    (s.onCc c f).die d = s.die d := rfl
@[simp] theorem State.onCc_port (s : State) (c : CoreId) (f : Cc → Cc) (p : PortId) :
    (s.onCc c f).port p = s.port p := rfl
@[simp] theorem State.onCc_sc (s : State) (c : CoreId) (f : Cc → Cc) (c' : CoreId) :
    (s.onCc c f).sc c' = s.sc c' := by
  by_cases h : c = c'
  · subst h; simp [State.onCc, State.onCore, State.sc]
  · simp [State.onCc, State.onCore, State.sc, h]
@[simp] theorem State.onCc_cm (s : State) (c : CoreId) (f : Cc → Cc) (c' : CoreId) :
    (s.onCc c f).cm c' = s.cm c' := by
  by_cases h : c = c'
  · subst h; simp [State.onCc, State.onCore, State.cm]
  · simp [State.onCc, State.onCore, State.cm, h]
@[simp] theorem State.onCc_en (s : State) (c : CoreId) (f : Cc → Cc) (c' : CoreId) :
    (s.onCc c f).en c' = s.en c' := by
  by_cases h : c = c'
  · subst h; simp [State.onCc, State.onCore, State.en]
  · simp [State.onCc, State.onCore, State.en, h]
@[simp] theorem State.onCc_cc_self (s : State) (c : CoreId) (f : Cc → Cc) :
    (s.onCc c f).cc c = f (s.cc c) := by simp [State.onCc, State.onCore, State.cc]
@[simp] theorem State.onCc_cc_ne (s : State) (c c' : CoreId) (f : Cc → Cc) (h : c ≠ c') :
    (s.onCc c f).cc c' = s.cc c' := by simp [State.onCc, State.onCore, State.cc, h]
@[simp] theorem State.onCc_gate (s : State) (c : CoreId) (f : Cc → Cc) (c' : CoreId) :
    ((s.onCc c f).core c').gate = (s.core c').gate := by
  by_cases h : c = c'
  · subst h; simp [State.onCc, State.onCore]
  · simp [State.onCc, State.onCore, h]
@[simp] theorem State.onCc_gatedAt (s : State) (c : CoreId) (f : Cc → Cc) (c' : CoreId) :
    ((s.onCc c f).core c').gatedAt = (s.core c').gatedAt := by
  by_cases h : c = c'
  · subst h; simp [State.onCc, State.onCore]
  · simp [State.onCc, State.onCore, h]
@[simp] theorem State.onCc_gateCmd (s : State) (c : CoreId) (f : Cc → Cc) (c' : CoreId) :
    ((s.onCc c f).core c').gateCmd = (s.core c').gateCmd := by
  by_cases h : c = c'
  · subst h; simp [State.onCc, State.onCore]
  · simp [State.onCc, State.onCore, h]
@[simp] theorem State.onCc_core_ne (s : State) (c c' : CoreId) (f : Cc → Cc) (h : c ≠ c') :
    (s.onCc c f).core c' = s.core c' := by simp [State.onCc, State.onCore, h]

/-! ### A whole core -/

@[simp] theorem State.onCore_pending (s : State) (c : CoreId) (f : Core → Core) :
    (s.onCore c f).pending = s.pending := rfl
@[simp] theorem State.onCore_hub (s : State) (c : CoreId) (f : Core → Core) :
    (s.onCore c f).hub = s.hub := rfl
@[simp] theorem State.onCore_mem (s : State) (c : CoreId) (f : Core → Core) :
    (s.onCore c f).mem = s.mem := rfl
@[simp] theorem State.onCore_net (s : State) (c : CoreId) (f : Core → Core) :
    (s.onCore c f).net = s.net := rfl
@[simp] theorem State.onCore_free (s : State) (c : CoreId) (f : Core → Core) :
    (s.onCore c f).free = s.free := rfl
@[simp] theorem State.onCore_die (s : State) (c : CoreId) (f : Core → Core) (d : DieId) :
    (s.onCore c f).die d = s.die d := rfl
@[simp] theorem State.onCore_port (s : State) (c : CoreId) (f : Core → Core) (p : PortId) :
    (s.onCore c f).port p = s.port p := rfl
@[simp] theorem State.onCore_core_self (s : State) (c : CoreId) (f : Core → Core) :
    (s.onCore c f).core c = f (s.core c) := by simp [State.onCore]
@[simp] theorem State.onCore_core_ne (s : State) (c c' : CoreId) (f : Core → Core) (h : c ≠ c') :
    (s.onCore c f).core c' = s.core c' := by simp [State.onCore, h]
@[simp] theorem State.onCore_sc_self (s : State) (c : CoreId) (f : Core → Core) :
    (s.onCore c f).sc c = (f (s.core c)).sc := by simp [State.onCore, State.sc]
@[simp] theorem State.onCore_sc_ne (s : State) (c c' : CoreId) (f : Core → Core) (h : c ≠ c') :
    (s.onCore c f).sc c' = s.sc c' := by simp [State.onCore, State.sc, h]
@[simp] theorem State.setDie_sc (s : State) (d : DieId) (k : Die) (c : CoreId) :
    (s.setDie d k).sc c = s.sc c := rfl
@[simp] theorem State.setPort_sc (s : State) (p : PortId) (k : Port) (c : CoreId) :
    (s.setPort p k).sc c = s.sc c := rfl
@[simp] theorem State.setCore_sc_self (s : State) (c : CoreId) (k : Core) :
    (s.setCore c k).sc c = k.sc := by simp [State.sc]
@[simp] theorem State.setCore_sc_ne (s : State) (c c' : CoreId) (k : Core) (h : c ≠ c') :
    (s.setCore c k).sc c' = s.sc c' := by simp [State.sc, h]
@[simp] theorem State.onCore_cm_self (s : State) (c : CoreId) (f : Core → Core) :
    (s.onCore c f).cm c = (f (s.core c)).m := by simp [State.onCore, State.cm]
@[simp] theorem State.onCore_cm_ne (s : State) (c c' : CoreId) (f : Core → Core) (h : c ≠ c') :
    (s.onCore c f).cm c' = s.cm c' := by simp [State.onCore, State.cm, h]
@[simp] theorem State.setDie_cm (s : State) (d : DieId) (k : Die) (c : CoreId) :
    (s.setDie d k).cm c = s.cm c := rfl
@[simp] theorem State.setPort_cm (s : State) (p : PortId) (k : Port) (c : CoreId) :
    (s.setPort p k).cm c = s.cm c := rfl
@[simp] theorem State.setCore_cm_self (s : State) (c : CoreId) (k : Core) :
    (s.setCore c k).cm c = k.m := by simp [State.cm]
@[simp] theorem State.setCore_cm_ne (s : State) (c c' : CoreId) (k : Core) (h : c ≠ c') :
    (s.setCore c k).cm c' = s.cm c' := by simp [State.cm, h]
@[simp] theorem State.onCore_en_self (s : State) (c : CoreId) (f : Core → Core) :
    (s.onCore c f).en c = (f (s.core c)).e := by simp [State.onCore, State.en]
@[simp] theorem State.onCore_en_ne (s : State) (c c' : CoreId) (f : Core → Core) (h : c ≠ c') :
    (s.onCore c f).en c' = s.en c' := by simp [State.onCore, State.en, h]
@[simp] theorem State.setDie_en (s : State) (d : DieId) (k : Die) (c : CoreId) :
    (s.setDie d k).en c = s.en c := rfl
@[simp] theorem State.setPort_en (s : State) (p : PortId) (k : Port) (c : CoreId) :
    (s.setPort p k).en c = s.en c := rfl
@[simp] theorem State.setCore_en_self (s : State) (c : CoreId) (k : Core) :
    (s.setCore c k).en c = k.e := by simp [State.en]
@[simp] theorem State.setCore_en_ne (s : State) (c c' : CoreId) (k : Core) (h : c ≠ c') :
    (s.setCore c k).en c' = s.en c' := by simp [State.en, h]
@[simp] theorem State.onCore_cc_self (s : State) (c : CoreId) (f : Core → Core) :
    (s.onCore c f).cc c = (f (s.core c)).cc := by simp [State.onCore, State.cc]
@[simp] theorem State.onCore_cc_ne (s : State) (c c' : CoreId) (f : Core → Core) (h : c ≠ c') :
    (s.onCore c f).cc c' = s.cc c' := by simp [State.onCore, State.cc, h]
@[simp] theorem State.setDie_cc (s : State) (d : DieId) (k : Die) (c : CoreId) :
    (s.setDie d k).cc c = s.cc c := rfl
@[simp] theorem State.setPort_cc (s : State) (p : PortId) (k : Port) (c : CoreId) :
    (s.setPort p k).cc c = s.cc c := rfl
@[simp] theorem State.setCore_cc_self (s : State) (c : CoreId) (k : Core) :
    (s.setCore c k).cc c = k.cc := by simp [State.cc]
@[simp] theorem State.setCore_cc_ne (s : State) (c c' : CoreId) (k : Core) (h : c ≠ c') :
    (s.setCore c k).cc c' = s.cc c' := by simp [State.cc, h]

/-! ### A die, a port, the hub -/

@[simp] theorem State.onDie_pending (s : State) (d : DieId) (f : Die → Die) :
    (s.onDie d f).pending = s.pending := rfl
@[simp] theorem State.onDie_hub (s : State) (d : DieId) (f : Die → Die) :
    (s.onDie d f).hub = s.hub := rfl
@[simp] theorem State.onDie_mem (s : State) (d : DieId) (f : Die → Die) :
    (s.onDie d f).mem = s.mem := rfl
@[simp] theorem State.onDie_net (s : State) (d : DieId) (f : Die → Die) :
    (s.onDie d f).net = s.net := rfl
@[simp] theorem State.onDie_free (s : State) (d : DieId) (f : Die → Die) :
    (s.onDie d f).free = s.free := rfl
@[simp] theorem State.onDie_die_self (s : State) (d : DieId) (f : Die → Die) :
    (s.onDie d f).die d = f (s.die d) := by simp [State.onDie]
@[simp] theorem State.onDie_die_ne (s : State) (d d' : DieId) (f : Die → Die) (h : d ≠ d') :
    (s.onDie d f).die d' = s.die d' := by simp [State.onDie, h]
@[simp] theorem State.onDie_core (s : State) (d : DieId) (f : Die → Die) (c : CoreId) :
    (s.onDie d f).core c = s.core c := rfl
@[simp] theorem State.onDie_sc (s : State) (d : DieId) (f : Die → Die) (c : CoreId) :
    (s.onDie d f).sc c = s.sc c := rfl
@[simp] theorem State.onDie_cm (s : State) (d : DieId) (f : Die → Die) (c : CoreId) :
    (s.onDie d f).cm c = s.cm c := rfl
@[simp] theorem State.onDie_en (s : State) (d : DieId) (f : Die → Die) (c : CoreId) :
    (s.onDie d f).en c = s.en c := rfl
@[simp] theorem State.onDie_cc (s : State) (d : DieId) (f : Die → Die) (c : CoreId) :
    (s.onDie d f).cc c = s.cc c := rfl
@[simp] theorem State.onDie_port (s : State) (d : DieId) (f : Die → Die) (p' : PortId) :
    (s.onDie d f).port p' = s.port p' := rfl
@[simp] theorem State.onPort_pending (s : State) (p : PortId) (f : Port → Port) :
    (s.onPort p f).pending = s.pending := rfl
@[simp] theorem State.onPort_hub (s : State) (p : PortId) (f : Port → Port) :
    (s.onPort p f).hub = s.hub := rfl
@[simp] theorem State.onPort_mem (s : State) (p : PortId) (f : Port → Port) :
    (s.onPort p f).mem = s.mem := rfl
@[simp] theorem State.onPort_net (s : State) (p : PortId) (f : Port → Port) :
    (s.onPort p f).net = s.net := rfl
@[simp] theorem State.onPort_free (s : State) (p : PortId) (f : Port → Port) :
    (s.onPort p f).free = s.free := rfl
@[simp] theorem State.onPort_port_self (s : State) (p : PortId) (f : Port → Port) :
    (s.onPort p f).port p = f (s.port p) := by simp [State.onPort]
@[simp] theorem State.onPort_port_ne (s : State) (p p' : PortId) (f : Port → Port) (h : p ≠ p') :
    (s.onPort p f).port p' = s.port p' := by simp [State.onPort, h]
@[simp] theorem State.onPort_core (s : State) (p : PortId) (f : Port → Port) (c : CoreId) :
    (s.onPort p f).core c = s.core c := rfl
@[simp] theorem State.onPort_sc (s : State) (p : PortId) (f : Port → Port) (c : CoreId) :
    (s.onPort p f).sc c = s.sc c := rfl
@[simp] theorem State.onPort_cm (s : State) (p : PortId) (f : Port → Port) (c : CoreId) :
    (s.onPort p f).cm c = s.cm c := rfl
@[simp] theorem State.onPort_en (s : State) (p : PortId) (f : Port → Port) (c : CoreId) :
    (s.onPort p f).en c = s.en c := rfl
@[simp] theorem State.onPort_cc (s : State) (p : PortId) (f : Port → Port) (c : CoreId) :
    (s.onPort p f).cc c = s.cc c := rfl
@[simp] theorem State.onPort_die (s : State) (p : PortId) (f : Port → Port) (d' : DieId) :
    (s.onPort p f).die d' = s.die d' := rfl
@[simp] theorem State.onHub_pending (s : State) (f : Hub → Hub) :
    (s.onHub f).pending = s.pending := rfl
@[simp] theorem State.onHub_mem (s : State) (f : Hub → Hub) :
    (s.onHub f).mem = s.mem := rfl
@[simp] theorem State.onHub_net (s : State) (f : Hub → Hub) :
    (s.onHub f).net = s.net := rfl
@[simp] theorem State.onHub_free (s : State) (f : Hub → Hub) :
    (s.onHub f).free = s.free := rfl
@[simp] theorem State.onHub_core (s : State) (f : Hub → Hub) (c : CoreId) :
    (s.onHub f).core c = s.core c := rfl
@[simp] theorem State.onHub_sc (s : State) (f : Hub → Hub) (c : CoreId) :
    (s.onHub f).sc c = s.sc c := rfl
@[simp] theorem State.onHub_cm (s : State) (f : Hub → Hub) (c : CoreId) :
    (s.onHub f).cm c = s.cm c := rfl
@[simp] theorem State.onHub_en (s : State) (f : Hub → Hub) (c : CoreId) :
    (s.onHub f).en c = s.en c := rfl
@[simp] theorem State.onHub_cc (s : State) (f : Hub → Hub) (c : CoreId) :
    (s.onHub f).cc c = s.cc c := rfl
@[simp] theorem State.onHub_die (s : State) (f : Hub → Hub) (d : DieId) :
    (s.onHub f).die d = s.die d := rfl
@[simp] theorem State.onHub_port (s : State) (f : Hub → Hub) (p : PortId) :
    (s.onHub f).port p = s.port p := rfl
@[simp] theorem State.onHub_hub (s : State) (f : Hub → Hub) :
    (s.onHub f).hub = f s.hub := rfl
@[simp] theorem State.onHl_pending (s : State) (f : Hl → Hl) :
    (s.onHl f).pending = s.pending := rfl
@[simp] theorem State.onHl_mem (s : State) (f : Hl → Hl) :
    (s.onHl f).mem = s.mem := rfl
@[simp] theorem State.onHl_net (s : State) (f : Hl → Hl) :
    (s.onHl f).net = s.net := rfl
@[simp] theorem State.onHl_free (s : State) (f : Hl → Hl) :
    (s.onHl f).free = s.free := rfl
@[simp] theorem State.onHl_core (s : State) (f : Hl → Hl) (c : CoreId) :
    (s.onHl f).core c = s.core c := rfl
@[simp] theorem State.onHl_sc (s : State) (f : Hl → Hl) (c : CoreId) :
    (s.onHl f).sc c = s.sc c := rfl
@[simp] theorem State.onHl_cm (s : State) (f : Hl → Hl) (c : CoreId) :
    (s.onHl f).cm c = s.cm c := rfl
@[simp] theorem State.onHl_en (s : State) (f : Hl → Hl) (c : CoreId) :
    (s.onHl f).en c = s.en c := rfl
@[simp] theorem State.onHl_cc (s : State) (f : Hl → Hl) (c : CoreId) :
    (s.onHl f).cc c = s.cc c := rfl
@[simp] theorem State.onHl_die (s : State) (f : Hl → Hl) (d : DieId) :
    (s.onHl f).die d = s.die d := rfl
@[simp] theorem State.onHl_port (s : State) (f : Hl → Hl) (p : PortId) :
    (s.onHl f).port p = s.port p := rfl
@[simp] theorem State.onHl_hub (s : State) (f : Hl → Hl) :
    (s.onHl f).hub = { s.hub with hl := f s.hub.hl } := rfl
@[simp] theorem State.onPwr_pending (s : State) (f : Pwr → Pwr) :
    (s.onPwr f).pending = s.pending := rfl
@[simp] theorem State.onPwr_mem (s : State) (f : Pwr → Pwr) :
    (s.onPwr f).mem = s.mem := rfl
@[simp] theorem State.onPwr_net (s : State) (f : Pwr → Pwr) :
    (s.onPwr f).net = s.net := rfl
@[simp] theorem State.onPwr_free (s : State) (f : Pwr → Pwr) :
    (s.onPwr f).free = s.free := rfl
@[simp] theorem State.onPwr_core (s : State) (f : Pwr → Pwr) (c : CoreId) :
    (s.onPwr f).core c = s.core c := rfl
@[simp] theorem State.onPwr_sc (s : State) (f : Pwr → Pwr) (c : CoreId) :
    (s.onPwr f).sc c = s.sc c := rfl
@[simp] theorem State.onPwr_cm (s : State) (f : Pwr → Pwr) (c : CoreId) :
    (s.onPwr f).cm c = s.cm c := rfl
@[simp] theorem State.onPwr_en (s : State) (f : Pwr → Pwr) (c : CoreId) :
    (s.onPwr f).en c = s.en c := rfl
@[simp] theorem State.onPwr_cc (s : State) (f : Pwr → Pwr) (c : CoreId) :
    (s.onPwr f).cc c = s.cc c := rfl
@[simp] theorem State.onPwr_die (s : State) (f : Pwr → Pwr) (d : DieId) :
    (s.onPwr f).die d = s.die d := rfl
@[simp] theorem State.onPwr_port (s : State) (f : Pwr → Pwr) (p : PortId) :
    (s.onPwr f).port p = s.port p := rfl
@[simp] theorem State.onPwr_hub (s : State) (f : Pwr → Pwr) :
    (s.onPwr f).hub = { s.hub with pwr := f s.hub.pwr } := rfl
@[simp] theorem State.onTb_pending (s : State) (f : Tb → Tb) :
    (s.onTb f).pending = s.pending := rfl
@[simp] theorem State.onTb_mem (s : State) (f : Tb → Tb) :
    (s.onTb f).mem = s.mem := rfl
@[simp] theorem State.onTb_net (s : State) (f : Tb → Tb) :
    (s.onTb f).net = s.net := rfl
@[simp] theorem State.onTb_free (s : State) (f : Tb → Tb) :
    (s.onTb f).free = s.free := rfl
@[simp] theorem State.onTb_core (s : State) (f : Tb → Tb) (c : CoreId) :
    (s.onTb f).core c = s.core c := rfl
@[simp] theorem State.onTb_sc (s : State) (f : Tb → Tb) (c : CoreId) :
    (s.onTb f).sc c = s.sc c := rfl
@[simp] theorem State.onTb_cm (s : State) (f : Tb → Tb) (c : CoreId) :
    (s.onTb f).cm c = s.cm c := rfl
@[simp] theorem State.onTb_en (s : State) (f : Tb → Tb) (c : CoreId) :
    (s.onTb f).en c = s.en c := rfl
@[simp] theorem State.onTb_cc (s : State) (f : Tb → Tb) (c : CoreId) :
    (s.onTb f).cc c = s.cc c := rfl
@[simp] theorem State.onTb_die (s : State) (f : Tb → Tb) (d : DieId) :
    (s.onTb f).die d = s.die d := rfl
@[simp] theorem State.onTb_port (s : State) (f : Tb → Tb) (p : PortId) :
    (s.onTb f).port p = s.port p := rfl
@[simp] theorem State.onTb_hub (s : State) (f : Tb → Tb) :
    (s.onTb f).hub = { s.hub with tb := f s.hub.tb } := rfl
@[simp] theorem State.onLs_pending (s : State) (f : Ls → Ls) :
    (s.onLs f).pending = s.pending := rfl
@[simp] theorem State.onLs_mem (s : State) (f : Ls → Ls) :
    (s.onLs f).mem = s.mem := rfl
@[simp] theorem State.onLs_net (s : State) (f : Ls → Ls) :
    (s.onLs f).net = s.net := rfl
@[simp] theorem State.onLs_free (s : State) (f : Ls → Ls) :
    (s.onLs f).free = s.free := rfl
@[simp] theorem State.onLs_core (s : State) (f : Ls → Ls) (c : CoreId) :
    (s.onLs f).core c = s.core c := rfl
@[simp] theorem State.onLs_sc (s : State) (f : Ls → Ls) (c : CoreId) :
    (s.onLs f).sc c = s.sc c := rfl
@[simp] theorem State.onLs_cm (s : State) (f : Ls → Ls) (c : CoreId) :
    (s.onLs f).cm c = s.cm c := rfl
@[simp] theorem State.onLs_en (s : State) (f : Ls → Ls) (c : CoreId) :
    (s.onLs f).en c = s.en c := rfl
@[simp] theorem State.onLs_cc (s : State) (f : Ls → Ls) (c : CoreId) :
    (s.onLs f).cc c = s.cc c := rfl
@[simp] theorem State.onLs_die (s : State) (f : Ls → Ls) (d : DieId) :
    (s.onLs f).die d = s.die d := rfl
@[simp] theorem State.onLs_port (s : State) (f : Ls → Ls) (p : PortId) :
    (s.onLs f).port p = s.port p := rfl
@[simp] theorem State.onLs_hub (s : State) (f : Ls → Ls) :
    (s.onLs f).hub = { s.hub with ls := f s.hub.ls } := rfl

/-! ### Memory, items, the queue, the free-value index -/

@[simp] theorem State.with_mem_core (s : State) (x : List Host.Cell) (c : CoreId) :
    ({ s with mem := x } : State).core c = s.core c := rfl
@[simp] theorem State.with_mem_sc (s : State) (x : List Host.Cell) (c : CoreId) :
    ({ s with mem := x } : State).sc c = s.sc c := rfl
@[simp] theorem State.with_mem_cm (s : State) (x : List Host.Cell) (c : CoreId) :
    ({ s with mem := x } : State).cm c = s.cm c := rfl
@[simp] theorem State.with_mem_en (s : State) (x : List Host.Cell) (c : CoreId) :
    ({ s with mem := x } : State).en c = s.en c := rfl
@[simp] theorem State.with_mem_cc (s : State) (x : List Host.Cell) (c : CoreId) :
    ({ s with mem := x } : State).cc c = s.cc c := rfl
@[simp] theorem State.with_mem_die (s : State) (x : List Host.Cell) (d : DieId) :
    ({ s with mem := x } : State).die d = s.die d := rfl
@[simp] theorem State.with_mem_port (s : State) (x : List Host.Cell) (p : PortId) :
    ({ s with mem := x } : State).port p = s.port p := rfl
@[simp] theorem State.with_net_core (s : State) (x : List Item) (c : CoreId) :
    ({ s with net := x } : State).core c = s.core c := rfl
@[simp] theorem State.with_net_sc (s : State) (x : List Item) (c : CoreId) :
    ({ s with net := x } : State).sc c = s.sc c := rfl
@[simp] theorem State.with_net_cm (s : State) (x : List Item) (c : CoreId) :
    ({ s with net := x } : State).cm c = s.cm c := rfl
@[simp] theorem State.with_net_en (s : State) (x : List Item) (c : CoreId) :
    ({ s with net := x } : State).en c = s.en c := rfl
@[simp] theorem State.with_net_cc (s : State) (x : List Item) (c : CoreId) :
    ({ s with net := x } : State).cc c = s.cc c := rfl
@[simp] theorem State.with_net_die (s : State) (x : List Item) (d : DieId) :
    ({ s with net := x } : State).die d = s.die d := rfl
@[simp] theorem State.with_net_port (s : State) (x : List Item) (p : PortId) :
    ({ s with net := x } : State).port p = s.port p := rfl
@[simp] theorem State.with_pending_core (s : State) (x : List Instr) (c : CoreId) :
    ({ s with pending := x } : State).core c = s.core c := rfl
@[simp] theorem State.with_pending_sc (s : State) (x : List Instr) (c : CoreId) :
    ({ s with pending := x } : State).sc c = s.sc c := rfl
@[simp] theorem State.with_pending_cm (s : State) (x : List Instr) (c : CoreId) :
    ({ s with pending := x } : State).cm c = s.cm c := rfl
@[simp] theorem State.with_pending_en (s : State) (x : List Instr) (c : CoreId) :
    ({ s with pending := x } : State).en c = s.en c := rfl
@[simp] theorem State.with_pending_cc (s : State) (x : List Instr) (c : CoreId) :
    ({ s with pending := x } : State).cc c = s.cc c := rfl
@[simp] theorem State.with_pending_die (s : State) (x : List Instr) (d : DieId) :
    ({ s with pending := x } : State).die d = s.die d := rfl
@[simp] theorem State.with_pending_port (s : State) (x : List Instr) (p : PortId) :
    ({ s with pending := x } : State).port p = s.port p := rfl
@[simp] theorem State.with_free_core (s : State) (x : Nat) (c : CoreId) :
    ({ s with free := x } : State).core c = s.core c := rfl
@[simp] theorem State.with_free_sc (s : State) (x : Nat) (c : CoreId) :
    ({ s with free := x } : State).sc c = s.sc c := rfl
@[simp] theorem State.with_free_cm (s : State) (x : Nat) (c : CoreId) :
    ({ s with free := x } : State).cm c = s.cm c := rfl
@[simp] theorem State.with_free_en (s : State) (x : Nat) (c : CoreId) :
    ({ s with free := x } : State).en c = s.en c := rfl
@[simp] theorem State.with_free_cc (s : State) (x : Nat) (c : CoreId) :
    ({ s with free := x } : State).cc c = s.cc c := rfl
@[simp] theorem State.with_free_die (s : State) (x : Nat) (d : DieId) :
    ({ s with free := x } : State).die d = s.die d := rfl
@[simp] theorem State.with_free_port (s : State) (x : Nat) (p : PortId) :
    ({ s with free := x } : State).port p = s.port p := rfl

end Sys2Proof.Machine
end

