-- ==== Sys2Proof/Laws/Bits.lean ====
section
/-! SUPPORT. Setting a status bit, and raising an event: what each leaves unchanged. -/

namespace Sys2Proof.Machine

open Sys2Proof

/-! ### Status bits noted for R12 -/

@[simp] theorem setBit_run (off mask : Nat) (sc : Sched) : (setBit off mask sc).run = sc.run := rfl
@[simp] theorem setBit_cause (off mask : Nat) (sc : Sched) : (setBit off mask sc).cause = sc.cause := rfl
@[simp] theorem setBit_which (off mask : Nat) (sc : Sched) : (setBit off mask sc).which = sc.which := rfl
@[simp] theorem setBit_schedCyc (off mask : Nat) (sc : Sched) : (setBit off mask sc).schedCyc = sc.schedCyc := rfl
@[simp] theorem setBit_stallCyc (off mask : Nat) (sc : Sched) : (setBit off mask sc).stallCyc = sc.stallCyc := rfl
@[simp] theorem setBit_stripCyc (off mask : Nat) (sc : Sched) : (setBit off mask sc).stripCyc = sc.stripCyc := rfl
@[simp] theorem setBit_stripStall (off mask : Nat) (sc : Sched) : (setBit off mask sc).stripStall = sc.stripStall := rfl
@[simp] theorem setBit_stripId (off mask : Nat) (sc : Sched) : (setBit off mask sc).stripId = sc.stripId := rfl
@[simp] theorem setBit_stallTag (off mask : Nat) (sc : Sched) : (setBit off mask sc).stallTag = sc.stallTag := rfl
@[simp] theorem setBit_wdog (off mask : Nat) (sc : Sched) : (setBit off mask sc).wdog = sc.wdog := rfl
@[simp] theorem setBit_held (off mask : Nat) (sc : Sched) : (setBit off mask sc).held = sc.held := rfl
@[simp] theorem setBit_cls (off mask : Nat) (sc : Sched) : (setBit off mask sc).cls = sc.cls := rfl
@[simp] theorem setBit_lent (off mask : Nat) (sc : Sched) : (setBit off mask sc).lent = sc.lent := rfl
@[simp] theorem setBit_request (off mask : Nat) (sc : Sched) : (setBit off mask sc).request = sc.request := rfl
@[simp] theorem setBit_ctxCfg (off mask : Nat) (sc : Sched) : (setBit off mask sc).ctxCfg = sc.ctxCfg := rfl
@[simp] theorem setBit_commit (off mask : Nat) (sc : Sched) : (setBit off mask sc).commit = sc.commit := rfl
@[simp] theorem setBit_stkMap (off mask : Nat) (sc : Sched) : (setBit off mask sc).stkMap = sc.stkMap := rfl
@[simp] theorem setBit_stk (off mask : Nat) (sc : Sched) : (setBit off mask sc).stk = sc.stk := rfl
@[simp] theorem setBit_stk0 (off mask : Nat) (sc : Sched) : (setBit off mask sc).stk0 = sc.stk0 := rfl
@[simp] theorem setBit_hq (off mask : Nat) (sc : Sched) : (setBit off mask sc).hq = sc.hq := rfl
@[simp] theorem setBit_hq0 (off mask : Nat) (sc : Sched) : (setBit off mask sc).hq0 = sc.hq0 := rfl
@[simp] theorem setBit_hqp (off mask : Nat) (sc : Sched) : (setBit off mask sc).hqp = sc.hqp := rfl
@[simp] theorem setBit_dlMiss (off mask : Nat) (sc : Sched) : (setBit off mask sc).dlMiss = sc.dlMiss := rfl
@[simp] theorem setBit_lends (off mask : Nat) (sc : Sched) : (setBit off mask sc).lends = sc.lends := rfl
@[simp] theorem setBit_stkOvf (off mask : Nat) (sc : Sched) : (setBit off mask sc).stkOvf = sc.stkOvf := rfl
@[simp] theorem setBit_hazard (off mask : Nat) (sc : Sched) : (setBit off mask sc).hazard = sc.hazard := rfl
@[simp] theorem setBit_check (off mask : Nat) (sc : Sched) : (setBit off mask sc).check = sc.check := rfl
@[simp] theorem setBit_staging (off mask : Nat) (sc : Sched) : (setBit off mask sc).staging = sc.staging := rfl
@[simp] theorem setBit_staged (off mask : Nat) (sc : Sched) : (setBit off mask sc).staged = sc.staged := rfl
@[simp] theorem setBit_launch (off mask : Nat) (sc : Sched) : (setBit off mask sc).launch = sc.launch := rfl
@[simp] theorem setBit_strip (off mask : Nat) (sc : Sched) : (setBit off mask sc).strip = sc.strip := rfl
@[simp] theorem setBit_launchPoint (off mask : Nat) (sc : Sched) : (setBit off mask sc).launchPoint = sc.launchPoint := rfl
@[simp] theorem setBit_dlPosted (off mask : Nat) (sc : Sched) : (setBit off mask sc).dlPosted = sc.dlPosted := rfl
@[simp] theorem setBit_qpos (off mask : Nat) (sc : Sched) : (setBit off mask sc).qpos = sc.qpos := rfl
@[simp] theorem setBit_flights (off mask : Nat) (sc : Sched) : (setBit off mask sc).flights = sc.flights := rfl
@[simp] theorem setBit_stall (off mask : Nat) (sc : Sched) : (setBit off mask sc).stall = sc.stall := rfl
@[simp] theorem setBit_heldArr (off mask : Nat) (sc : Sched) : (setBit off mask sc).heldArr = sc.heldArr := rfl
@[simp] theorem setBit_pushed (off mask : Nat) (sc : Sched) : (setBit off mask sc).pushed = sc.pushed := rfl
@[simp] theorem setBit_wall (off mask : Nat) (sc : Sched) : (setBit off mask sc).wall = sc.wall := rfl
@[simp] theorem setBit_origin (off mask : Nat) (sc : Sched) : (setBit off mask sc).origin = sc.origin := rfl
@[simp] theorem setBit_swSet (off mask : Nat) (sc : Sched) : (setBit off mask sc).swSet = sc.swSet := rfl
@[simp] theorem setBit_ended (off mask : Nat) (sc : Sched) : (setBit off mask sc).ended = sc.ended := rfl
@[simp] theorem setBit_draw (off mask : Nat) (sc : Sched) : (setBit off mask sc).draw = sc.draw := rfl
@[simp] theorem setBit_launches (off mask : Nat) (sc : Sched) : (setBit off mask sc).launches = sc.launches := rfl
@[simp] theorem setBit_stopping (off mask : Nat) (sc : Sched) : (setBit off mask sc).stopping = sc.stopping := rfl

/-! ### Events (R319) -/

@[simp] theorem raiseEvent_m (b : Nat) (k : Core) : (raiseEvent b k).m = k.m := rfl
@[simp] theorem raiseEvent_e (b : Nat) (k : Core) : (raiseEvent b k).e = k.e := rfl
@[simp] theorem raiseEvent_gate (b : Nat) (k : Core) : (raiseEvent b k).gate = k.gate := rfl
@[simp] theorem raiseEvent_gatedAt (b : Nat) (k : Core) : (raiseEvent b k).gatedAt = k.gatedAt := rfl
@[simp] theorem raiseEvent_gateCmd (b : Nat) (k : Core) : (raiseEvent b k).gateCmd = k.gateCmd := rfl
@[simp] theorem raiseEvent_sc (b : Nat) (k : Core) : (raiseEvent b k).sc = setBit 0xE0C (2 ^ b) k.sc := rfl
@[simp] theorem raiseEvent_cc_regs (b : Nat) (k : Core) : (raiseEvent b k).cc.regs = k.cc.regs := rfl
@[simp] theorem raiseEvent_cc_pc (b : Nat) (k : Core) : (raiseEvent b k).cc.pc = k.cc.pc := rfl
@[simp] theorem raiseEvent_cc_mcycle (b : Nat) (k : Core) : (raiseEvent b k).cc.mcycle = k.cc.mcycle := rfl
@[simp] theorem raiseEvent_cc_minstret (b : Nat) (k : Core) : (raiseEvent b k).cc.minstret = k.cc.minstret := rfl
@[simp] theorem raiseEvent_cc_mcause (b : Nat) (k : Core) : (raiseEvent b k).cc.mcause = k.cc.mcause := rfl
@[simp] theorem raiseEvent_cc_mepc (b : Nat) (k : Core) : (raiseEvent b k).cc.mepc = k.cc.mepc := rfl
@[simp] theorem raiseEvent_cc_mtval (b : Nat) (k : Core) : (raiseEvent b k).cc.mtval = k.cc.mtval := rfl
@[simp] theorem raiseEvent_cc_imem (b : Nat) (k : Core) : (raiseEvent b k).cc.imem = k.cc.imem := rfl
@[simp] theorem raiseEvent_cc_dmem (b : Nat) (k : Core) : (raiseEvent b k).cc.dmem = k.cc.dmem := rfl
@[simp] theorem raiseEvent_cc_win (b : Nat) (k : Core) : (raiseEvent b k).cc.win = k.cc.win := rfl
@[simp] theorem raiseEvent_cc_winOp (b : Nat) (k : Core) : (raiseEvent b k).cc.winOp = k.cc.winOp := rfl
@[simp] theorem raiseEvent_cc_run (b : Nat) (k : Core) : (raiseEvent b k).cc.run = k.cc.run := rfl
@[simp] theorem raiseEvent_cc_trapped (b : Nat) (k : Core) : (raiseEvent b k).cc.trapped = k.cc.trapped := rfl
@[simp] theorem raiseEvent_cc_winUe (b : Nat) (k : Core) : (raiseEvent b k).cc.winUe = k.cc.winUe := rfl
@[simp] theorem raiseEvent_cc_startPc (b : Nat) (k : Core) : (raiseEvent b k).cc.startPc = k.cc.startPc := rfl
@[simp] theorem raiseEvent_cc_tag (b : Nat) (k : Core) : (raiseEvent b k).cc.tag = k.cc.tag := rfl
@[simp] theorem raiseEvent_cc_trap (b : Nat) (k : Core) : (raiseEvent b k).cc.trap = k.cc.trap := rfl
@[simp] theorem raiseEvent_cc_hdlEn (b : Nat) (k : Core) : (raiseEvent b k).cc.hdlEn = k.cc.hdlEn := rfl
@[simp] theorem raiseEvent_cc_hdlPrio (b : Nat) (k : Core) : (raiseEvent b k).cc.hdlPrio = k.cc.hdlPrio := rfl
@[simp] theorem raiseEvent_cc_hdlActive (b : Nat) (k : Core) : (raiseEvent b k).cc.hdlActive = k.cc.hdlActive := rfl
@[simp] theorem raiseEvent_cc_hdlRing (b : Nat) (k : Core) : (raiseEvent b k).cc.hdlRing = k.cc.hdlRing := rfl
@[simp] theorem raiseEvent_cc_hdlClass (b : Nat) (k : Core) : (raiseEvent b k).cc.hdlClass = k.cc.hdlClass := rfl
@[simp] theorem raiseEvent_cc_hdlCnt (b : Nat) (k : Core) : (raiseEvent b k).cc.hdlCnt = k.cc.hdlCnt := rfl
@[simp] theorem raiseEvent_cc_dptr (b : Nat) (k : Core) : (raiseEvent b k).cc.dptr = k.cc.dptr := rfl
@[simp] theorem raiseEvent_cc_hdlTable (b : Nat) (k : Core) : (raiseEvent b k).cc.hdlTable = k.cc.hdlTable := rfl
@[simp] theorem raiseEvent_cc_wfePc (b : Nat) (k : Core) : (raiseEvent b k).cc.wfePc = k.cc.wfePc := rfl
@[simp] theorem raiseEvent_cc_wfeMask (b : Nat) (k : Core) : (raiseEvent b k).cc.wfeMask = k.cc.wfeMask := rfl
@[simp] theorem raiseEvent_cc_wfeRd (b : Nat) (k : Core) : (raiseEvent b k).cc.wfeRd = k.cc.wfeRd := rfl
@[simp] theorem raiseEvent_cc_readyAt (b : Nat) (k : Core) : (raiseEvent b k).cc.readyAt = k.cc.readyAt := rfl
@[simp] theorem raiseEvent_cc_ring (b : Nat) (k : Core) : (raiseEvent b k).cc.ring = k.cc.ring := rfl
@[simp] theorem raiseEvent_cc_lost (b : Nat) (k : Core) : (raiseEvent b k).cc.lost = k.cc.lost := rfl
@[simp] theorem raiseEvent_cc_lostBefore (b : Nat) (k : Core) : (raiseEvent b k).cc.lostBefore = k.cc.lostBefore := rfl
@[simp] theorem raiseEvent_cc_popAt (b : Nat) (k : Core) : (raiseEvent b k).cc.popAt = k.cc.popAt := rfl
@[simp] theorem raiseEvent_cc_seq (b : Nat) (k : Core) : (raiseEvent b k).cc.seq = k.cc.seq := rfl
@[simp] theorem raiseEvent_cc_progOk (b : Nat) (k : Core) : (raiseEvent b k).cc.progOk = k.cc.progOk := rfl
@[simp] theorem raiseEvent_cc_progDigest (b : Nat) (k : Core) : (raiseEvent b k).cc.progDigest = k.cc.progDigest := rfl
@[simp] theorem raiseEvent_cc_progCopy (b : Nat) (k : Core) : (raiseEvent b k).cc.progCopy = k.cc.progCopy := rfl
@[simp] theorem raiseEvent_cc_halloc (b : Nat) (k : Core) : (raiseEvent b k).cc.halloc = k.cc.halloc := rfl
@[simp] theorem raiseEvent_cc_img (b : Nat) (k : Core) : (raiseEvent b k).cc.img = k.cc.img := rfl
@[simp] theorem raiseEvent_cc_traceCfg (b : Nat) (k : Core) : (raiseEvent b k).cc.traceCfg = k.cc.traceCfg := rfl
@[simp] theorem raiseEvent_cc_traceMatch (b : Nat) (k : Core) : (raiseEvent b k).cc.traceMatch = k.cc.traceMatch := rfl
@[simp] theorem raiseEvent_cc_traceMask (b : Nat) (k : Core) : (raiseEvent b k).cc.traceMask = k.cc.traceMask := rfl
@[simp] theorem raiseEvent_cc_traceBase (b : Nat) (k : Core) : (raiseEvent b k).cc.traceBase = k.cc.traceBase := rfl
@[simp] theorem raiseEvent_cc_traceRows (b : Nat) (k : Core) : (raiseEvent b k).cc.traceRows = k.cc.traceRows := rfl
@[simp] theorem raiseEvent_cc_traceWptr (b : Nat) (k : Core) : (raiseEvent b k).cc.traceWptr = k.cc.traceWptr := rfl
@[simp] theorem raiseEvent_cc_traceDrop (b : Nat) (k : Core) : (raiseEvent b k).cc.traceDrop = k.cc.traceDrop := rfl
@[simp] theorem raiseEvent_cc_traceBuf (b : Nat) (k : Core) : (raiseEvent b k).cc.traceBuf = k.cc.traceBuf := rfl
@[simp] theorem raiseEvent_cc_rings (b : Nat) (k : Core) : (raiseEvent b k).cc.rings = k.cc.rings := rfl
@[simp] theorem raiseEvent_cc_msgSeq (b : Nat) (k : Core) : (raiseEvent b k).cc.msgSeq = k.cc.msgSeq := rfl
@[simp] theorem raiseEvent_cc_sends (b : Nat) (k : Core) : (raiseEvent b k).cc.sends = k.cc.sends := rfl
@[simp] theorem raiseEvent_cc_ending (b : Nat) (k : Core) : (raiseEvent b k).cc.ending = k.cc.ending := rfl
@[simp] theorem raiseEvent_cc_sendRead (b : Nat) (k : Core) : (raiseEvent b k).cc.sendRead = k.cc.sendRead := rfl
@[simp] theorem raiseEvent_cc_bounceCnt (b : Nat) (k : Core) : (raiseEvent b k).cc.bounceCnt = k.cc.bounceCnt := rfl
@[simp] theorem raiseEvent_cc_rxBounce (b : Nat) (k : Core) : (raiseEvent b k).cc.rxBounce = k.cc.rxBounce := rfl
@[simp] theorem raiseEvent_cc_spillCnt (b : Nat) (k : Core) : (raiseEvent b k).cc.spillCnt = k.cc.spillCnt := rfl
@[simp] theorem raiseEvent_cc_holdCnt (b : Nat) (k : Core) : (raiseEvent b k).cc.holdCnt = k.cc.holdCnt := rfl
@[simp] theorem raiseEvent_cc_reqCslot (b : Nat) (k : Core) : (raiseEvent b k).cc.reqCslot = k.cc.reqCslot := rfl
@[simp] theorem raiseEvent_cc_reqSlot (b : Nat) (k : Core) : (raiseEvent b k).cc.reqSlot = k.cc.reqSlot := rfl
@[simp] theorem raiseEvent_cc_reqDone (b : Nat) (k : Core) : (raiseEvent b k).cc.reqDone = k.cc.reqDone := rfl
@[simp] theorem raiseEvent_cc_reqLatched (b : Nat) (k : Core) : (raiseEvent b k).cc.reqLatched = k.cc.reqLatched := rfl
@[simp] theorem raiseEvent_cc_reqResult (b : Nat) (k : Core) : (raiseEvent b k).cc.reqResult = k.cc.reqResult := rfl
@[simp] theorem raiseEvent_cc_resetting (b : Nat) (k : Core) : (raiseEvent b k).cc.resetting = k.cc.resetting := rfl

end Sys2Proof.Machine
end

