-- ==== Sys2Proof/Laws/Cells.lean ====
section
/-! SUPPORT. Addressed memory: every operation on a list of cells keeps the canonical form, and what a cell reads after a write. -/

namespace Sys2Proof.Machine

open Sys2Proof

/-- A list of cells is canonical from `lo` on if its addresses rise strictly from `lo` and no cell holds the default. -/
theorem cellsOk_iff (lo : Nat) (m : List Host.Cell) :
    cellsOk lo m = true ↔ (∀ x ∈ m, lo ≤ x.1 ∧ x.2 ≠ memDefault) ∧ m.Pairwise (fun x y => x.1 < y.1) := by
  induction m generalizing lo with
  | nil => simp [cellsOk]
  | cons x xs ih =>
    simp only [cellsOk, Bool.and_eq_true, ih, List.mem_cons, forall_eq_or_imp, List.pairwise_cons, decide_eq_true_eq,
      bne_iff_ne, ne_eq]
    constructor
    · rintro ⟨⟨h1, h2⟩, h3, h4⟩
      exact ⟨⟨⟨h1, h2⟩, fun y hy => ⟨by have := (h3 y hy).1; omega, (h3 y hy).2⟩⟩, fun y hy => (h3 y hy).1, h4⟩
    · rintro ⟨⟨⟨h1, h2⟩, h3⟩, h4, h5⟩
      exact ⟨⟨h1, h2⟩, fun y hy => ⟨h4 y hy, (h3 y hy).2⟩, h5⟩

theorem wf_iff (m : List Host.Cell) :
    Memory.wf m = true ↔ (∀ x ∈ m, x.2 ≠ memDefault) ∧ m.Pairwise (fun x y => x.1 < y.1) := by
  simp [Memory.wf, cellsOk_iff]

@[simp] theorem nil_wf : Memory.wf [] = true := rfl

theorem filter_wf (p : Host.Cell → Bool) {m : List Host.Cell} (h : Memory.wf m = true) : Memory.wf (m.filter p) = true := by
  rw [wf_iff] at *
  exact ⟨fun x hx => h.1 x (List.mem_filter.mp hx).1, h.2.filter p⟩

theorem mem_newCells {a : Nat} {bs : List Byte} {x : Host.Cell} (h : x ∈ newCells a bs) :
    a ≤ x.1 ∧ x.1 < a + bs.length ∧ x.2 ≠ memDefault ∧ bs[x.1 - a]? = some x.2 := by
  induction bs generalizing a with
  | nil => simp [newCells] at h
  | cons b bs ih =>
    have key : x ∈ newCells (a + 1) bs → a ≤ x.1 ∧ x.1 < a + (b :: bs).length ∧ x.2 ≠ memDefault ∧ (b :: bs)[x.1 - a]? = some x.2 := by
      intro h
      obtain ⟨h1, h2, h3, h4⟩ := ih h
      refine ⟨by omega, by simp only [List.length_cons]; omega, h3, ?_⟩
      rw [show x.1 - a = (x.1 - (a + 1)) + 1 by omega]; simpa using h4
    simp only [newCells] at h
    split at h
    · exact key h
    · rcases List.mem_cons.mp h with rfl | h
      · simp_all
      · exact key h

theorem newCells_pairwise (a : Nat) (bs : List Byte) : (newCells a bs).Pairwise (fun x y => x.1 < y.1) := by
  induction bs generalizing a with
  | nil => simp [newCells]
  | cons b bs ih =>
    simp only [newCells]
    split
    · exact ih _
    · exact List.pairwise_cons.mpr ⟨fun y hy => by have := (mem_newCells hy).1; simp only; omega, ih _⟩

@[simp] theorem newCells_wf (a : Nat) (bs : List Byte) : Memory.wf (newCells a bs) = true :=
  (wf_iff _).mpr ⟨fun _ hx => (mem_newCells hx).2.2.1, newCells_pairwise a bs⟩

/-- A write keeps the canonical form. -/
theorem writeCells_wf {m : List Host.Cell} (a : Nat) (bs : List Byte) (h : Memory.wf m = true) : Memory.wf (writeCells m a bs) = true := by
  rw [wf_iff] at *
  refine ⟨fun x hx => ?_, ?_⟩
  · simp only [writeCells, List.mem_append, List.mem_filter] at hx
    rcases hx with (hx | hx) | hx
    · exact h.1 x hx.1
    · exact (mem_newCells hx).2.2.1
    · exact h.1 x hx.1
  · simp only [writeCells, List.pairwise_append, List.mem_append, List.mem_filter, decide_eq_true_eq]
    refine ⟨⟨h.2.filter _, newCells_pairwise a bs, fun x hx y hy => ?_⟩, h.2.filter _, fun x hx y hy => ?_⟩
    · have := (mem_newCells hy).1; omega
    · rcases hx with hx | hx
      · omega
      · have := (mem_newCells hx).2.1; omega

/-- Zeroing keeps the canonical form. -/
theorem clearCells_wf {m : List Host.Cell} (a n : Nat) (h : Memory.wf m = true) : Memory.wf (clearCells m a n) = true :=
  filter_wf _ h

/-- A row write keeps the canonical form. -/
theorem writeRowAt_wf {m : List Host.Cell} (a : Nat) (r : Row) (h : Memory.wf m = true) : Memory.wf (writeRowAt m a r) = true :=
  writeCells_wf a _ h

end Sys2Proof.Machine
end

