-- ==== Sys2Proof/Laws/Loops.lean ====
section
/-! SUPPORT. Folding a state change over a list: what every step keeps the fold keeps, and a fold that changes each die (or port)
of a list once. -/

namespace Sys2Proof.Machine

open Sys2Proof

@[simp] theorem forAll_nil {α : Type} (f : α → State → State) (s : State) : forAll [] f s = s := rfl
@[simp] theorem forAll_cons {α : Type} (x : α) (xs : List α) (f : α → State → State) (s : State) :
    forAll (x :: xs) f s = forAll xs f (f x s) := rfl

/-- What no step of a fold changes, the fold does not change. -/
theorem forAll_keep {α β : Type} (π : State → β) (xs : List α) (f : α → State → State) (s : State)
    (h : ∀ x, x ∈ xs → ∀ t, π (f x t) = π t) : π (forAll xs f s) = π s := by
  induction xs generalizing s with
  | nil => rfl
  | cons x xs ih => rw [forAll_cons, ih _ fun y hy => h y (List.mem_cons_of_mem _ hy), h x List.mem_cons_self]

/-- An invariant that every step of a fold keeps holds after the fold. -/
theorem forAll_inv {α : Type} (p : State → Prop) (xs : List α) (f : α → State → State) (s : State) (hs : p s)
    (h : ∀ x, x ∈ xs → ∀ t, p t → p (f x t)) : p (forAll xs f s) := by
  induction xs generalizing s with
  | nil => exact hs
  | cons x xs ih => exact ih _ (h x List.mem_cons_self s hs) fun y hy => h y (List.mem_cons_of_mem _ hy)

/-- A fold that changes each die of a list once. -/
theorem forAll_onDie_die (ds : List DieId) (f : DieId → Die → Die) (s : State) (d : DieId) (nd : ds.Nodup) :
    (forAll ds (fun d s => s.onDie d (f d)) s).die d = if d ∈ ds then f d (s.die d) else s.die d := by
  induction ds generalizing s with
  | nil => simp
  | cons x xs ih =>
    obtain ⟨hx, nd⟩ := List.nodup_cons.mp nd
    rw [forAll_cons, ih _ nd]
    by_cases h : x = d
    · subst h; simp [hx]
    · simp [h, Ne.symm h]

theorem mem_allDies (d : DieId) : d ∈ allDies := List.mem_finRange d
theorem nodup_allDies : allDies.Nodup := List.nodup_finRange 8
theorem mem_allPorts (p : PortId) : p ∈ allPorts := List.mem_finRange p
theorem mem_allCores (c : CoreId) : c ∈ allCores := List.mem_finRange c

end Sys2Proof.Machine
end

