-- ==== Sys2Proof/Laws/Ops.lean ====
section
/-! SUPPORT. What the shared operations leave unchanged: one projection lemma per part of State. -/

namespace Sys2Proof.Machine

open Sys2Proof

/- The lemmas of one operation all unfold it: elaborated one by one, they do not wait for one another's equation lemmas. -/
set_option Elab.async false

@[simp] theorem hubSetBit_pending (a mask : Nat) (s : State) :
    (hubSetBit a mask s).pending = s.pending := by simp [hubSetBit]
@[simp] theorem hubSetBit_mem (a mask : Nat) (s : State) :
    (hubSetBit a mask s).mem = s.mem := by simp [hubSetBit]
@[simp] theorem hubSetBit_net (a mask : Nat) (s : State) :
    (hubSetBit a mask s).net = s.net := by simp [hubSetBit]
@[simp] theorem hubSetBit_free (a mask : Nat) (s : State) :
    (hubSetBit a mask s).free = s.free := by simp [hubSetBit]
@[simp] theorem hubSetBit_die (a mask : Nat) (s : State) (d' : DieId) :
    (hubSetBit a mask s).die d' = s.die d' := by simp [hubSetBit]
@[simp] theorem hubSetBit_port (a mask : Nat) (s : State) (p' : PortId) :
    (hubSetBit a mask s).port p' = s.port p' := by simp [hubSetBit]
@[simp] theorem hubSetBit_sc (a mask : Nat) (s : State) (c' : CoreId) :
    (hubSetBit a mask s).sc c' = s.sc c' := by simp [hubSetBit]
@[simp] theorem hubSetBit_cm (a mask : Nat) (s : State) (c' : CoreId) :
    (hubSetBit a mask s).cm c' = s.cm c' := by simp [hubSetBit]
@[simp] theorem hubSetBit_en (a mask : Nat) (s : State) (c' : CoreId) :
    (hubSetBit a mask s).en c' = s.en c' := by simp [hubSetBit]
@[simp] theorem hubSetBit_cc (a mask : Nat) (s : State) (c' : CoreId) :
    (hubSetBit a mask s).cc c' = s.cc c' := by simp [hubSetBit]
@[simp] theorem hubSetBit_gate (a mask : Nat) (s : State) (c' : CoreId) :
    ((hubSetBit a mask s).core c').gate = (s.core c').gate := by simp [hubSetBit]
@[simp] theorem hubSetBit_gatedAt (a mask : Nat) (s : State) (c' : CoreId) :
    ((hubSetBit a mask s).core c').gatedAt = (s.core c').gatedAt := by simp [hubSetBit]
@[simp] theorem hubSetBit_gateCmd (a mask : Nat) (s : State) (c' : CoreId) :
    ((hubSetBit a mask s).core c').gateCmd = (s.core c').gateCmd := by simp [hubSetBit]
@[simp] theorem hubSetBit_core (a mask : Nat) (s : State) (c' : CoreId) :
    (hubSetBit a mask s).core c' = s.core c' := by simp [hubSetBit]
@[simp] theorem hubSetBit_hub_ns (a mask : Nat) (s : State) :
    (hubSetBit a mask s).hub.ns = s.hub.ns := by simp [hubSetBit]
@[simp] theorem hubSetBit_hub_adv (a mask : Nat) (s : State) :
    (hubSetBit a mask s).hub.adv = s.hub.adv := by simp [hubSetBit]
@[simp] theorem hubSetBit_hub_loads (a mask : Nat) (s : State) :
    (hubSetBit a mask s).hub.loads = s.hub.loads := by simp [hubSetBit]
@[simp] theorem hubSetBit_hub_position (a mask : Nat) (s : State) :
    (hubSetBit a mask s).hub.position = s.hub.position := by simp [hubSetBit]
@[simp] theorem hubSetBit_hub_routes (a mask : Nat) (s : State) :
    (hubSetBit a mask s).hub.routes = s.hub.routes := by simp [hubSetBit]
@[simp] theorem hubSetBit_hub_torus (a mask : Nat) (s : State) :
    (hubSetBit a mask s).hub.torus = s.hub.torus := by simp [hubSetBit]
@[simp] theorem hubSetBit_hub_tb (a mask : Nat) (s : State) :
    (hubSetBit a mask s).hub.tb = s.hub.tb := by simp [hubSetBit]
@[simp] theorem hubSetBit_hub_ls (a mask : Nat) (s : State) :
    (hubSetBit a mask s).hub.ls = s.hub.ls := by simp [hubSetBit]
@[simp] theorem hubSetBit_hub_wgt (a mask : Nat) (s : State) :
    (hubSetBit a mask s).hub.wgt = s.hub.wgt := by simp [hubSetBit]
@[simp] theorem hubSetBit_hub_snp (a mask : Nat) (s : State) :
    (hubSetBit a mask s).hub.snp = s.hub.snp := by simp [hubSetBit]
@[simp] theorem hubSetBit_hub_pwr (a mask : Nat) (s : State) :
    (hubSetBit a mask s).hub.pwr = s.hub.pwr := by simp [hubSetBit]
@[simp] theorem hubSetBit_hub_hl (a mask : Nat) (s : State) :
    (hubSetBit a mask s).hub.hl = s.hub.hl := by simp [hubSetBit]
@[simp] theorem hubSetBit_hub_fuses (a mask : Nat) (s : State) :
    (hubSetBit a mask s).hub.fuses = s.hub.fuses := by simp [hubSetBit]
@[simp] theorem hubSetBit_hub_latches (a mask : Nat) (s : State) :
    (hubSetBit a mask s).hub.latches = s.hub.latches := by simp [hubSetBit]
@[simp] theorem hubSetBit_hub_store (a mask : Nat) (s : State) :
    (hubSetBit a mask s).hub.store = s.hub.store := by simp [hubSetBit]
@[simp] theorem hubSetBit_hub_digEng (a mask : Nat) (s : State) :
    (hubSetBit a mask s).hub.digEng = s.hub.digEng := by simp [hubSetBit]
@[simp] theorem hubSetBit_hub_digQ (a mask : Nat) (s : State) :
    (hubSetBit a mask s).hub.digQ = s.hub.digQ := by simp [hubSetBit]
@[simp] theorem hubSetBit_hub_firmware (a mask : Nat) (s : State) :
    (hubSetBit a mask s).hub.firmware = s.hub.firmware := by simp [hubSetBit]
@[simp] theorem hubSetBit_hub_cal (a mask : Nat) (s : State) :
    (hubSetBit a mask s).hub.cal = s.hub.cal := by simp [hubSetBit]
@[simp] theorem hubSetBit_hub_riskIn (a mask : Nat) (s : State) :
    (hubSetBit a mask s).hub.riskIn = s.hub.riskIn := by simp [hubSetBit]
@[simp] theorem trace_pending (c : CoreId) (q : Nat) (kind : Nat) (tag : Nat) (s : State) :
    (trace c q kind tag s).pending = s.pending := by
  unfold trace; dsimp only; (repeat' split) <;> simp
@[simp] theorem trace_mem (c : CoreId) (q : Nat) (kind : Nat) (tag : Nat) (s : State) :
    (trace c q kind tag s).mem = s.mem := by
  unfold trace; dsimp only; (repeat' split) <;> simp
@[simp] theorem trace_net (c : CoreId) (q : Nat) (kind : Nat) (tag : Nat) (s : State) :
    (trace c q kind tag s).net = s.net := by
  unfold trace; dsimp only; (repeat' split) <;> simp
@[simp] theorem trace_free (c : CoreId) (q : Nat) (kind : Nat) (tag : Nat) (s : State) :
    (trace c q kind tag s).free = s.free := by
  unfold trace; dsimp only; (repeat' split) <;> simp
@[simp] theorem trace_hub (c : CoreId) (q : Nat) (kind : Nat) (tag : Nat) (s : State) :
    (trace c q kind tag s).hub = s.hub := by
  unfold trace; dsimp only; (repeat' split) <;> simp
@[simp] theorem trace_die (c : CoreId) (q : Nat) (kind : Nat) (tag : Nat) (s : State) (d' : DieId) :
    (trace c q kind tag s).die d' = s.die d' := by
  unfold trace; dsimp only; (repeat' split) <;> simp
@[simp] theorem trace_port (c : CoreId) (q : Nat) (kind : Nat) (tag : Nat) (s : State) (p' : PortId) :
    (trace c q kind tag s).port p' = s.port p' := by
  unfold trace; dsimp only; (repeat' split) <;> simp
@[simp] theorem trace_sc (c : CoreId) (q : Nat) (kind : Nat) (tag : Nat) (s : State) (c' : CoreId) :
    (trace c q kind tag s).sc c' = s.sc c' := by
  unfold trace; dsimp only; (repeat' split) <;> simp
@[simp] theorem trace_cm (c : CoreId) (q : Nat) (kind : Nat) (tag : Nat) (s : State) (c' : CoreId) :
    (trace c q kind tag s).cm c' = s.cm c' := by
  unfold trace; dsimp only; (repeat' split) <;> simp
@[simp] theorem trace_en (c : CoreId) (q : Nat) (kind : Nat) (tag : Nat) (s : State) (c' : CoreId) :
    (trace c q kind tag s).en c' = s.en c' := by
  unfold trace; dsimp only; (repeat' split) <;> simp
@[simp] theorem trace_gate (c : CoreId) (q : Nat) (kind : Nat) (tag : Nat) (s : State) (c' : CoreId) :
    ((trace c q kind tag s).core c').gate = (s.core c').gate := by
  unfold trace; dsimp only; (repeat' split) <;> simp
@[simp] theorem trace_gatedAt (c : CoreId) (q : Nat) (kind : Nat) (tag : Nat) (s : State) (c' : CoreId) :
    ((trace c q kind tag s).core c').gatedAt = (s.core c').gatedAt := by
  unfold trace; dsimp only; (repeat' split) <;> simp
@[simp] theorem trace_gateCmd (c : CoreId) (q : Nat) (kind : Nat) (tag : Nat) (s : State) (c' : CoreId) :
    ((trace c q kind tag s).core c').gateCmd = (s.core c').gateCmd := by
  unfold trace; dsimp only; (repeat' split) <;> simp
@[simp] theorem trace_core_ne (c : CoreId) (q : Nat) (kind : Nat) (tag : Nat) (s : State) (c' : CoreId) (hne : c ≠ c') :
    (trace c q kind tag s).core c' = s.core c' := by
  unfold trace; dsimp only; (repeat' split) <;> simp [hne]
@[simp] theorem trace_cc_ne (c : CoreId) (q : Nat) (kind : Nat) (tag : Nat) (s : State) (c' : CoreId) (hne : c ≠ c') :
    (trace c q kind tag s).cc c' = s.cc c' := by
  unfold trace; dsimp only; (repeat' split) <;> simp [hne]
@[simp] theorem hostFault_pending (bits : BitVec 512) (s : State) :
    (hostFault bits s).pending = s.pending := by simp [hostFault]
@[simp] theorem hostFault_mem (bits : BitVec 512) (s : State) :
    (hostFault bits s).mem = s.mem := by simp [hostFault]
@[simp] theorem hostFault_net (bits : BitVec 512) (s : State) :
    (hostFault bits s).net = s.net := by simp [hostFault]
@[simp] theorem hostFault_free (bits : BitVec 512) (s : State) :
    (hostFault bits s).free = s.free := by simp [hostFault]
@[simp] theorem hostFault_die (bits : BitVec 512) (s : State) (d' : DieId) :
    (hostFault bits s).die d' = s.die d' := by simp [hostFault]
@[simp] theorem hostFault_port (bits : BitVec 512) (s : State) (p' : PortId) :
    (hostFault bits s).port p' = s.port p' := by simp [hostFault]
@[simp] theorem hostFault_sc (bits : BitVec 512) (s : State) (c' : CoreId) :
    (hostFault bits s).sc c' = s.sc c' := by simp [hostFault]
@[simp] theorem hostFault_cm (bits : BitVec 512) (s : State) (c' : CoreId) :
    (hostFault bits s).cm c' = s.cm c' := by simp [hostFault]
@[simp] theorem hostFault_en (bits : BitVec 512) (s : State) (c' : CoreId) :
    (hostFault bits s).en c' = s.en c' := by simp [hostFault]
@[simp] theorem hostFault_cc (bits : BitVec 512) (s : State) (c' : CoreId) :
    (hostFault bits s).cc c' = s.cc c' := by simp [hostFault]
@[simp] theorem hostFault_gate (bits : BitVec 512) (s : State) (c' : CoreId) :
    ((hostFault bits s).core c').gate = (s.core c').gate := by simp [hostFault]
@[simp] theorem hostFault_gatedAt (bits : BitVec 512) (s : State) (c' : CoreId) :
    ((hostFault bits s).core c').gatedAt = (s.core c').gatedAt := by simp [hostFault]
@[simp] theorem hostFault_gateCmd (bits : BitVec 512) (s : State) (c' : CoreId) :
    ((hostFault bits s).core c').gateCmd = (s.core c').gateCmd := by simp [hostFault]
@[simp] theorem hostFault_core (bits : BitVec 512) (s : State) (c' : CoreId) :
    (hostFault bits s).core c' = s.core c' := by simp [hostFault]
@[simp] theorem hostFault_hub_ns (bits : BitVec 512) (s : State) :
    (hostFault bits s).hub.ns = s.hub.ns := by simp [hostFault]
@[simp] theorem hostFault_hub_adv (bits : BitVec 512) (s : State) :
    (hostFault bits s).hub.adv = s.hub.adv := by simp [hostFault]
@[simp] theorem hostFault_hub_loads (bits : BitVec 512) (s : State) :
    (hostFault bits s).hub.loads = s.hub.loads := by simp [hostFault]
@[simp] theorem hostFault_hub_position (bits : BitVec 512) (s : State) :
    (hostFault bits s).hub.position = s.hub.position := by simp [hostFault]
@[simp] theorem hostFault_hub_routes (bits : BitVec 512) (s : State) :
    (hostFault bits s).hub.routes = s.hub.routes := by simp [hostFault]
@[simp] theorem hostFault_hub_torus (bits : BitVec 512) (s : State) :
    (hostFault bits s).hub.torus = s.hub.torus := by simp [hostFault]
@[simp] theorem hostFault_hub_tb (bits : BitVec 512) (s : State) :
    (hostFault bits s).hub.tb = s.hub.tb := by simp [hostFault]
@[simp] theorem hostFault_hub_ls (bits : BitVec 512) (s : State) :
    (hostFault bits s).hub.ls = s.hub.ls := by simp [hostFault]
@[simp] theorem hostFault_hub_wgt (bits : BitVec 512) (s : State) :
    (hostFault bits s).hub.wgt = s.hub.wgt := by simp [hostFault]
@[simp] theorem hostFault_hub_snp (bits : BitVec 512) (s : State) :
    (hostFault bits s).hub.snp = s.hub.snp := by simp [hostFault]
@[simp] theorem hostFault_hub_pwr (bits : BitVec 512) (s : State) :
    (hostFault bits s).hub.pwr = s.hub.pwr := by simp [hostFault]
@[simp] theorem hostFault_hub_fuses (bits : BitVec 512) (s : State) :
    (hostFault bits s).hub.fuses = s.hub.fuses := by simp [hostFault]
@[simp] theorem hostFault_hub_latches (bits : BitVec 512) (s : State) :
    (hostFault bits s).hub.latches = s.hub.latches := by simp [hostFault]
@[simp] theorem hostFault_hub_store (bits : BitVec 512) (s : State) :
    (hostFault bits s).hub.store = s.hub.store := by simp [hostFault]
@[simp] theorem hostFault_hub_digEng (bits : BitVec 512) (s : State) :
    (hostFault bits s).hub.digEng = s.hub.digEng := by simp [hostFault]
@[simp] theorem hostFault_hub_digQ (bits : BitVec 512) (s : State) :
    (hostFault bits s).hub.digQ = s.hub.digQ := by simp [hostFault]
@[simp] theorem hostFault_hub_firmware (bits : BitVec 512) (s : State) :
    (hostFault bits s).hub.firmware = s.hub.firmware := by simp [hostFault]
@[simp] theorem hostFault_hub_cal (bits : BitVec 512) (s : State) :
    (hostFault bits s).hub.cal = s.hub.cal := by simp [hostFault]
@[simp] theorem hostFault_hub_hwSet (bits : BitVec 512) (s : State) :
    (hostFault bits s).hub.hwSet = s.hub.hwSet := by simp [hostFault]
@[simp] theorem hostFault_hub_riskIn (bits : BitVec 512) (s : State) :
    (hostFault bits s).hub.riskIn = s.hub.riskIn := by simp [hostFault]
@[simp] theorem attention_pending (bit : Nat) (s : State) :
    (attention bit s).pending = s.pending := by simp [attention]
@[simp] theorem attention_mem (bit : Nat) (s : State) :
    (attention bit s).mem = s.mem := by simp [attention]
@[simp] theorem attention_net (bit : Nat) (s : State) :
    (attention bit s).net = s.net := by simp [attention]
@[simp] theorem attention_free (bit : Nat) (s : State) :
    (attention bit s).free = s.free := by simp [attention]
@[simp] theorem attention_die (bit : Nat) (s : State) (d' : DieId) :
    (attention bit s).die d' = s.die d' := by simp [attention]
@[simp] theorem attention_port (bit : Nat) (s : State) (p' : PortId) :
    (attention bit s).port p' = s.port p' := by simp [attention]
@[simp] theorem attention_sc (bit : Nat) (s : State) (c' : CoreId) :
    (attention bit s).sc c' = s.sc c' := by simp [attention]
@[simp] theorem attention_cm (bit : Nat) (s : State) (c' : CoreId) :
    (attention bit s).cm c' = s.cm c' := by simp [attention]
@[simp] theorem attention_en (bit : Nat) (s : State) (c' : CoreId) :
    (attention bit s).en c' = s.en c' := by simp [attention]
@[simp] theorem attention_cc (bit : Nat) (s : State) (c' : CoreId) :
    (attention bit s).cc c' = s.cc c' := by simp [attention]
@[simp] theorem attention_gate (bit : Nat) (s : State) (c' : CoreId) :
    ((attention bit s).core c').gate = (s.core c').gate := by simp [attention]
@[simp] theorem attention_gatedAt (bit : Nat) (s : State) (c' : CoreId) :
    ((attention bit s).core c').gatedAt = (s.core c').gatedAt := by simp [attention]
@[simp] theorem attention_gateCmd (bit : Nat) (s : State) (c' : CoreId) :
    ((attention bit s).core c').gateCmd = (s.core c').gateCmd := by simp [attention]
@[simp] theorem attention_core (bit : Nat) (s : State) (c' : CoreId) :
    (attention bit s).core c' = s.core c' := by simp [attention]
@[simp] theorem attention_hub_ns (bit : Nat) (s : State) :
    (attention bit s).hub.ns = s.hub.ns := by simp [attention]
@[simp] theorem attention_hub_adv (bit : Nat) (s : State) :
    (attention bit s).hub.adv = s.hub.adv := by simp [attention]
@[simp] theorem attention_hub_loads (bit : Nat) (s : State) :
    (attention bit s).hub.loads = s.hub.loads := by simp [attention]
@[simp] theorem attention_hub_position (bit : Nat) (s : State) :
    (attention bit s).hub.position = s.hub.position := by simp [attention]
@[simp] theorem attention_hub_routes (bit : Nat) (s : State) :
    (attention bit s).hub.routes = s.hub.routes := by simp [attention]
@[simp] theorem attention_hub_torus (bit : Nat) (s : State) :
    (attention bit s).hub.torus = s.hub.torus := by simp [attention]
@[simp] theorem attention_hub_tb (bit : Nat) (s : State) :
    (attention bit s).hub.tb = s.hub.tb := by simp [attention]
@[simp] theorem attention_hub_ls (bit : Nat) (s : State) :
    (attention bit s).hub.ls = s.hub.ls := by simp [attention]
@[simp] theorem attention_hub_wgt (bit : Nat) (s : State) :
    (attention bit s).hub.wgt = s.hub.wgt := by simp [attention]
@[simp] theorem attention_hub_snp (bit : Nat) (s : State) :
    (attention bit s).hub.snp = s.hub.snp := by simp [attention]
@[simp] theorem attention_hub_pwr (bit : Nat) (s : State) :
    (attention bit s).hub.pwr = s.hub.pwr := by simp [attention]
@[simp] theorem attention_hub_fuses (bit : Nat) (s : State) :
    (attention bit s).hub.fuses = s.hub.fuses := by simp [attention]
@[simp] theorem attention_hub_latches (bit : Nat) (s : State) :
    (attention bit s).hub.latches = s.hub.latches := by simp [attention]
@[simp] theorem attention_hub_store (bit : Nat) (s : State) :
    (attention bit s).hub.store = s.hub.store := by simp [attention]
@[simp] theorem attention_hub_digEng (bit : Nat) (s : State) :
    (attention bit s).hub.digEng = s.hub.digEng := by simp [attention]
@[simp] theorem attention_hub_digQ (bit : Nat) (s : State) :
    (attention bit s).hub.digQ = s.hub.digQ := by simp [attention]
@[simp] theorem attention_hub_firmware (bit : Nat) (s : State) :
    (attention bit s).hub.firmware = s.hub.firmware := by simp [attention]
@[simp] theorem attention_hub_cal (bit : Nat) (s : State) :
    (attention bit s).hub.cal = s.hub.cal := by simp [attention]
@[simp] theorem attention_hub_riskIn (bit : Nat) (s : State) :
    (attention bit s).hub.riskIn = s.hub.riskIn := by simp [attention]
@[simp] theorem keepRecord_pending (bits : BitVec 512) (s : State) :
    (keepRecord bits s).pending = s.pending := by simp [keepRecord]
@[simp] theorem keepRecord_mem (bits : BitVec 512) (s : State) :
    (keepRecord bits s).mem = s.mem := by simp [keepRecord]
@[simp] theorem keepRecord_net (bits : BitVec 512) (s : State) :
    (keepRecord bits s).net = s.net := by simp [keepRecord]
@[simp] theorem keepRecord_free (bits : BitVec 512) (s : State) :
    (keepRecord bits s).free = s.free := by simp [keepRecord]
@[simp] theorem keepRecord_die (bits : BitVec 512) (s : State) (d' : DieId) :
    (keepRecord bits s).die d' = s.die d' := by simp [keepRecord]
@[simp] theorem keepRecord_port (bits : BitVec 512) (s : State) (p' : PortId) :
    (keepRecord bits s).port p' = s.port p' := by simp [keepRecord]
@[simp] theorem keepRecord_sc (bits : BitVec 512) (s : State) (c' : CoreId) :
    (keepRecord bits s).sc c' = s.sc c' := by simp [keepRecord]
@[simp] theorem keepRecord_cm (bits : BitVec 512) (s : State) (c' : CoreId) :
    (keepRecord bits s).cm c' = s.cm c' := by simp [keepRecord]
@[simp] theorem keepRecord_en (bits : BitVec 512) (s : State) (c' : CoreId) :
    (keepRecord bits s).en c' = s.en c' := by simp [keepRecord]
@[simp] theorem keepRecord_cc (bits : BitVec 512) (s : State) (c' : CoreId) :
    (keepRecord bits s).cc c' = s.cc c' := by simp [keepRecord]
@[simp] theorem keepRecord_gate (bits : BitVec 512) (s : State) (c' : CoreId) :
    ((keepRecord bits s).core c').gate = (s.core c').gate := by simp [keepRecord]
@[simp] theorem keepRecord_gatedAt (bits : BitVec 512) (s : State) (c' : CoreId) :
    ((keepRecord bits s).core c').gatedAt = (s.core c').gatedAt := by simp [keepRecord]
@[simp] theorem keepRecord_gateCmd (bits : BitVec 512) (s : State) (c' : CoreId) :
    ((keepRecord bits s).core c').gateCmd = (s.core c').gateCmd := by simp [keepRecord]
@[simp] theorem keepRecord_core (bits : BitVec 512) (s : State) (c' : CoreId) :
    (keepRecord bits s).core c' = s.core c' := by simp [keepRecord]
@[simp] theorem keepRecord_hub_ns (bits : BitVec 512) (s : State) :
    (keepRecord bits s).hub.ns = s.hub.ns := by simp [keepRecord]
@[simp] theorem keepRecord_hub_adv (bits : BitVec 512) (s : State) :
    (keepRecord bits s).hub.adv = s.hub.adv := by simp [keepRecord]
@[simp] theorem keepRecord_hub_loads (bits : BitVec 512) (s : State) :
    (keepRecord bits s).hub.loads = s.hub.loads := by simp [keepRecord]
@[simp] theorem keepRecord_hub_position (bits : BitVec 512) (s : State) :
    (keepRecord bits s).hub.position = s.hub.position := by simp [keepRecord]
@[simp] theorem keepRecord_hub_routes (bits : BitVec 512) (s : State) :
    (keepRecord bits s).hub.routes = s.hub.routes := by simp [keepRecord]
@[simp] theorem keepRecord_hub_torus (bits : BitVec 512) (s : State) :
    (keepRecord bits s).hub.torus = s.hub.torus := by simp [keepRecord]
@[simp] theorem keepRecord_hub_tb (bits : BitVec 512) (s : State) :
    (keepRecord bits s).hub.tb = s.hub.tb := by simp [keepRecord]
@[simp] theorem keepRecord_hub_ls (bits : BitVec 512) (s : State) :
    (keepRecord bits s).hub.ls = s.hub.ls := by simp [keepRecord]
@[simp] theorem keepRecord_hub_wgt (bits : BitVec 512) (s : State) :
    (keepRecord bits s).hub.wgt = s.hub.wgt := by simp [keepRecord]
@[simp] theorem keepRecord_hub_snp (bits : BitVec 512) (s : State) :
    (keepRecord bits s).hub.snp = s.hub.snp := by simp [keepRecord]
@[simp] theorem keepRecord_hub_pwr (bits : BitVec 512) (s : State) :
    (keepRecord bits s).hub.pwr = s.hub.pwr := by simp [keepRecord]
@[simp] theorem keepRecord_hub_fuses (bits : BitVec 512) (s : State) :
    (keepRecord bits s).hub.fuses = s.hub.fuses := by simp [keepRecord]
@[simp] theorem keepRecord_hub_latches (bits : BitVec 512) (s : State) :
    (keepRecord bits s).hub.latches = s.hub.latches := by simp [keepRecord]
@[simp] theorem keepRecord_hub_store (bits : BitVec 512) (s : State) :
    (keepRecord bits s).hub.store = s.hub.store := by simp [keepRecord]
@[simp] theorem keepRecord_hub_digEng (bits : BitVec 512) (s : State) :
    (keepRecord bits s).hub.digEng = s.hub.digEng := by simp [keepRecord]
@[simp] theorem keepRecord_hub_digQ (bits : BitVec 512) (s : State) :
    (keepRecord bits s).hub.digQ = s.hub.digQ := by simp [keepRecord]
@[simp] theorem keepRecord_hub_firmware (bits : BitVec 512) (s : State) :
    (keepRecord bits s).hub.firmware = s.hub.firmware := by simp [keepRecord]
@[simp] theorem keepRecord_hub_cal (bits : BitVec 512) (s : State) :
    (keepRecord bits s).hub.cal = s.hub.cal := by simp [keepRecord]
@[simp] theorem keepRecord_hub_riskIn (bits : BitVec 512) (s : State) :
    (keepRecord bits s).hub.riskIn = s.hub.riskIn := by simp [keepRecord]
@[simp] theorem headlandCopy_pending (cls : Nat) (bits : BitVec 512) (s : State) :
    (headlandCopy cls bits s).pending = s.pending := by
  unfold headlandCopy; dsimp only; (repeat' split) <;> simp
@[simp] theorem headlandCopy_mem (cls : Nat) (bits : BitVec 512) (s : State) :
    (headlandCopy cls bits s).mem = s.mem := by
  unfold headlandCopy; dsimp only; (repeat' split) <;> simp
@[simp] theorem headlandCopy_net (cls : Nat) (bits : BitVec 512) (s : State) :
    (headlandCopy cls bits s).net = s.net := by
  unfold headlandCopy; dsimp only; (repeat' split) <;> simp
@[simp] theorem headlandCopy_free (cls : Nat) (bits : BitVec 512) (s : State) :
    (headlandCopy cls bits s).free = s.free := by
  unfold headlandCopy; dsimp only; (repeat' split) <;> simp
@[simp] theorem headlandCopy_die (cls : Nat) (bits : BitVec 512) (s : State) (d' : DieId) :
    (headlandCopy cls bits s).die d' = s.die d' := by
  unfold headlandCopy; dsimp only; (repeat' split) <;> simp
@[simp] theorem headlandCopy_port (cls : Nat) (bits : BitVec 512) (s : State) (p' : PortId) :
    (headlandCopy cls bits s).port p' = s.port p' := by
  unfold headlandCopy; dsimp only; (repeat' split) <;> simp
@[simp] theorem headlandCopy_sc (cls : Nat) (bits : BitVec 512) (s : State) (c' : CoreId) :
    (headlandCopy cls bits s).sc c' = s.sc c' := by
  unfold headlandCopy; dsimp only; (repeat' split) <;> simp
@[simp] theorem headlandCopy_cm (cls : Nat) (bits : BitVec 512) (s : State) (c' : CoreId) :
    (headlandCopy cls bits s).cm c' = s.cm c' := by
  unfold headlandCopy; dsimp only; (repeat' split) <;> simp
@[simp] theorem headlandCopy_en (cls : Nat) (bits : BitVec 512) (s : State) (c' : CoreId) :
    (headlandCopy cls bits s).en c' = s.en c' := by
  unfold headlandCopy; dsimp only; (repeat' split) <;> simp
@[simp] theorem headlandCopy_cc (cls : Nat) (bits : BitVec 512) (s : State) (c' : CoreId) :
    (headlandCopy cls bits s).cc c' = s.cc c' := by
  unfold headlandCopy; dsimp only; (repeat' split) <;> simp
@[simp] theorem headlandCopy_gate (cls : Nat) (bits : BitVec 512) (s : State) (c' : CoreId) :
    ((headlandCopy cls bits s).core c').gate = (s.core c').gate := by
  unfold headlandCopy; dsimp only; (repeat' split) <;> simp
@[simp] theorem headlandCopy_gatedAt (cls : Nat) (bits : BitVec 512) (s : State) (c' : CoreId) :
    ((headlandCopy cls bits s).core c').gatedAt = (s.core c').gatedAt := by
  unfold headlandCopy; dsimp only; (repeat' split) <;> simp
@[simp] theorem headlandCopy_gateCmd (cls : Nat) (bits : BitVec 512) (s : State) (c' : CoreId) :
    ((headlandCopy cls bits s).core c').gateCmd = (s.core c').gateCmd := by
  unfold headlandCopy; dsimp only; (repeat' split) <;> simp
@[simp] theorem headlandCopy_core (cls : Nat) (bits : BitVec 512) (s : State) (c' : CoreId) :
    (headlandCopy cls bits s).core c' = s.core c' := by
  unfold headlandCopy; dsimp only; (repeat' split) <;> simp
@[simp] theorem headlandCopy_hub_ns (cls : Nat) (bits : BitVec 512) (s : State) :
    (headlandCopy cls bits s).hub.ns = s.hub.ns := by
  unfold headlandCopy; dsimp only; (repeat' split) <;> simp
@[simp] theorem headlandCopy_hub_adv (cls : Nat) (bits : BitVec 512) (s : State) :
    (headlandCopy cls bits s).hub.adv = s.hub.adv := by
  unfold headlandCopy; dsimp only; (repeat' split) <;> simp
@[simp] theorem headlandCopy_hub_loads (cls : Nat) (bits : BitVec 512) (s : State) :
    (headlandCopy cls bits s).hub.loads = s.hub.loads := by
  unfold headlandCopy; dsimp only; (repeat' split) <;> simp
@[simp] theorem headlandCopy_hub_position (cls : Nat) (bits : BitVec 512) (s : State) :
    (headlandCopy cls bits s).hub.position = s.hub.position := by
  unfold headlandCopy; dsimp only; (repeat' split) <;> simp
@[simp] theorem headlandCopy_hub_routes (cls : Nat) (bits : BitVec 512) (s : State) :
    (headlandCopy cls bits s).hub.routes = s.hub.routes := by
  unfold headlandCopy; dsimp only; (repeat' split) <;> simp
@[simp] theorem headlandCopy_hub_torus (cls : Nat) (bits : BitVec 512) (s : State) :
    (headlandCopy cls bits s).hub.torus = s.hub.torus := by
  unfold headlandCopy; dsimp only; (repeat' split) <;> simp
@[simp] theorem headlandCopy_hub_tb (cls : Nat) (bits : BitVec 512) (s : State) :
    (headlandCopy cls bits s).hub.tb = s.hub.tb := by
  unfold headlandCopy; dsimp only; (repeat' split) <;> simp
@[simp] theorem headlandCopy_hub_ls (cls : Nat) (bits : BitVec 512) (s : State) :
    (headlandCopy cls bits s).hub.ls = s.hub.ls := by
  unfold headlandCopy; dsimp only; (repeat' split) <;> simp
@[simp] theorem headlandCopy_hub_wgt (cls : Nat) (bits : BitVec 512) (s : State) :
    (headlandCopy cls bits s).hub.wgt = s.hub.wgt := by
  unfold headlandCopy; dsimp only; (repeat' split) <;> simp
@[simp] theorem headlandCopy_hub_snp (cls : Nat) (bits : BitVec 512) (s : State) :
    (headlandCopy cls bits s).hub.snp = s.hub.snp := by
  unfold headlandCopy; dsimp only; (repeat' split) <;> simp
@[simp] theorem headlandCopy_hub_pwr (cls : Nat) (bits : BitVec 512) (s : State) :
    (headlandCopy cls bits s).hub.pwr = s.hub.pwr := by
  unfold headlandCopy; dsimp only; (repeat' split) <;> simp
@[simp] theorem headlandCopy_hub_fuses (cls : Nat) (bits : BitVec 512) (s : State) :
    (headlandCopy cls bits s).hub.fuses = s.hub.fuses := by
  unfold headlandCopy; dsimp only; (repeat' split) <;> simp
@[simp] theorem headlandCopy_hub_latches (cls : Nat) (bits : BitVec 512) (s : State) :
    (headlandCopy cls bits s).hub.latches = s.hub.latches := by
  unfold headlandCopy; dsimp only; (repeat' split) <;> simp
@[simp] theorem headlandCopy_hub_store (cls : Nat) (bits : BitVec 512) (s : State) :
    (headlandCopy cls bits s).hub.store = s.hub.store := by
  unfold headlandCopy; dsimp only; (repeat' split) <;> simp
@[simp] theorem headlandCopy_hub_digEng (cls : Nat) (bits : BitVec 512) (s : State) :
    (headlandCopy cls bits s).hub.digEng = s.hub.digEng := by
  unfold headlandCopy; dsimp only; (repeat' split) <;> simp
@[simp] theorem headlandCopy_hub_digQ (cls : Nat) (bits : BitVec 512) (s : State) :
    (headlandCopy cls bits s).hub.digQ = s.hub.digQ := by
  unfold headlandCopy; dsimp only; (repeat' split) <;> simp
@[simp] theorem headlandCopy_hub_firmware (cls : Nat) (bits : BitVec 512) (s : State) :
    (headlandCopy cls bits s).hub.firmware = s.hub.firmware := by
  unfold headlandCopy; dsimp only; (repeat' split) <;> simp
@[simp] theorem headlandCopy_hub_cal (cls : Nat) (bits : BitVec 512) (s : State) :
    (headlandCopy cls bits s).hub.cal = s.hub.cal := by
  unfold headlandCopy; dsimp only; (repeat' split) <;> simp
@[simp] theorem headlandCopy_hub_riskIn (cls : Nat) (bits : BitVec 512) (s : State) :
    (headlandCopy cls bits s).hub.riskIn = s.hub.riskIn := by
  unfold headlandCopy; dsimp only; (repeat' split) <;> simp
@[simp] theorem headlandFault_pending (f : Flt) (s : State) :
    (headlandFault f s).pending = s.pending := by simp [headlandFault]
@[simp] theorem headlandFault_mem (f : Flt) (s : State) :
    (headlandFault f s).mem = s.mem := by simp [headlandFault]
@[simp] theorem headlandFault_net (f : Flt) (s : State) :
    (headlandFault f s).net = s.net := by simp [headlandFault]
@[simp] theorem headlandFault_free (f : Flt) (s : State) :
    (headlandFault f s).free = s.free := by simp [headlandFault]
@[simp] theorem headlandFault_die (f : Flt) (s : State) (d' : DieId) :
    (headlandFault f s).die d' = s.die d' := by simp [headlandFault]
@[simp] theorem headlandFault_port (f : Flt) (s : State) (p' : PortId) :
    (headlandFault f s).port p' = s.port p' := by simp [headlandFault]
@[simp] theorem headlandFault_sc (f : Flt) (s : State) (c' : CoreId) :
    (headlandFault f s).sc c' = s.sc c' := by simp [headlandFault]
@[simp] theorem headlandFault_cm (f : Flt) (s : State) (c' : CoreId) :
    (headlandFault f s).cm c' = s.cm c' := by simp [headlandFault]
@[simp] theorem headlandFault_en (f : Flt) (s : State) (c' : CoreId) :
    (headlandFault f s).en c' = s.en c' := by simp [headlandFault]
@[simp] theorem headlandFault_cc (f : Flt) (s : State) (c' : CoreId) :
    (headlandFault f s).cc c' = s.cc c' := by simp [headlandFault]
@[simp] theorem headlandFault_gate (f : Flt) (s : State) (c' : CoreId) :
    ((headlandFault f s).core c').gate = (s.core c').gate := by simp [headlandFault]
@[simp] theorem headlandFault_gatedAt (f : Flt) (s : State) (c' : CoreId) :
    ((headlandFault f s).core c').gatedAt = (s.core c').gatedAt := by simp [headlandFault]
@[simp] theorem headlandFault_gateCmd (f : Flt) (s : State) (c' : CoreId) :
    ((headlandFault f s).core c').gateCmd = (s.core c').gateCmd := by simp [headlandFault]
@[simp] theorem headlandFault_core (f : Flt) (s : State) (c' : CoreId) :
    (headlandFault f s).core c' = s.core c' := by simp [headlandFault]
@[simp] theorem headlandFault_hub_ns (f : Flt) (s : State) :
    (headlandFault f s).hub.ns = s.hub.ns := by simp [headlandFault]
@[simp] theorem headlandFault_hub_adv (f : Flt) (s : State) :
    (headlandFault f s).hub.adv = s.hub.adv := by simp [headlandFault]
@[simp] theorem headlandFault_hub_loads (f : Flt) (s : State) :
    (headlandFault f s).hub.loads = s.hub.loads := by simp [headlandFault]
@[simp] theorem headlandFault_hub_position (f : Flt) (s : State) :
    (headlandFault f s).hub.position = s.hub.position := by simp [headlandFault]
@[simp] theorem headlandFault_hub_routes (f : Flt) (s : State) :
    (headlandFault f s).hub.routes = s.hub.routes := by simp [headlandFault]
@[simp] theorem headlandFault_hub_torus (f : Flt) (s : State) :
    (headlandFault f s).hub.torus = s.hub.torus := by simp [headlandFault]
@[simp] theorem headlandFault_hub_tb (f : Flt) (s : State) :
    (headlandFault f s).hub.tb = s.hub.tb := by simp [headlandFault]
@[simp] theorem headlandFault_hub_ls (f : Flt) (s : State) :
    (headlandFault f s).hub.ls = s.hub.ls := by simp [headlandFault]
@[simp] theorem headlandFault_hub_wgt (f : Flt) (s : State) :
    (headlandFault f s).hub.wgt = s.hub.wgt := by simp [headlandFault]
@[simp] theorem headlandFault_hub_snp (f : Flt) (s : State) :
    (headlandFault f s).hub.snp = s.hub.snp := by simp [headlandFault]
@[simp] theorem headlandFault_hub_pwr (f : Flt) (s : State) :
    (headlandFault f s).hub.pwr = s.hub.pwr := by simp [headlandFault]
@[simp] theorem headlandFault_hub_fuses (f : Flt) (s : State) :
    (headlandFault f s).hub.fuses = s.hub.fuses := by simp [headlandFault]
@[simp] theorem headlandFault_hub_latches (f : Flt) (s : State) :
    (headlandFault f s).hub.latches = s.hub.latches := by simp [headlandFault]
@[simp] theorem headlandFault_hub_store (f : Flt) (s : State) :
    (headlandFault f s).hub.store = s.hub.store := by simp [headlandFault]
@[simp] theorem headlandFault_hub_digEng (f : Flt) (s : State) :
    (headlandFault f s).hub.digEng = s.hub.digEng := by simp [headlandFault]
@[simp] theorem headlandFault_hub_digQ (f : Flt) (s : State) :
    (headlandFault f s).hub.digQ = s.hub.digQ := by simp [headlandFault]
@[simp] theorem headlandFault_hub_firmware (f : Flt) (s : State) :
    (headlandFault f s).hub.firmware = s.hub.firmware := by simp [headlandFault]
@[simp] theorem headlandFault_hub_cal (f : Flt) (s : State) :
    (headlandFault f s).hub.cal = s.hub.cal := by simp [headlandFault]
@[simp] theorem headlandFault_hub_riskIn (f : Flt) (s : State) :
    (headlandFault f s).hub.riskIn = s.hub.riskIn := by simp [headlandFault]
@[simp] theorem postFault_pending (c : CoreId) (f : Flt) (s : State) :
    (postFault c f s).pending = s.pending := by
  unfold postFault; dsimp only; (repeat' split) <;> simp
@[simp] theorem postFault_mem (c : CoreId) (f : Flt) (s : State) :
    (postFault c f s).mem = s.mem := by
  unfold postFault; dsimp only; (repeat' split) <;> simp
@[simp] theorem postFault_net (c : CoreId) (f : Flt) (s : State) :
    (postFault c f s).net = s.net := by
  unfold postFault; dsimp only; (repeat' split) <;> simp
@[simp] theorem postFault_free (c : CoreId) (f : Flt) (s : State) :
    (postFault c f s).free = s.free := by
  unfold postFault; dsimp only; (repeat' split) <;> simp
@[simp] theorem postFault_die (c : CoreId) (f : Flt) (s : State) (d' : DieId) :
    (postFault c f s).die d' = s.die d' := by
  unfold postFault; dsimp only; (repeat' split) <;> simp
@[simp] theorem postFault_port (c : CoreId) (f : Flt) (s : State) (p' : PortId) :
    (postFault c f s).port p' = s.port p' := by
  unfold postFault; dsimp only; (repeat' split) <;> simp
@[simp] theorem postFault_core_ne (c : CoreId) (f : Flt) (s : State) (c' : CoreId) (hne : c ≠ c') :
    (postFault c f s).core c' = s.core c' := by
  unfold postFault; dsimp only; (repeat' split) <;> simp [hne]
@[simp] theorem postFault_gate (c : CoreId) (f : Flt) (s : State) (c' : CoreId) :
    ((postFault c f s).core c').gate = (s.core c').gate := by
  by_cases hcc : c = c'
  · subst hcc; unfold postFault; (try dsimp only); (repeat' split) <;> simp
  · unfold postFault; (try dsimp only); (repeat' split) <;> simp [hcc]
@[simp] theorem postFault_gatedAt (c : CoreId) (f : Flt) (s : State) (c' : CoreId) :
    ((postFault c f s).core c').gatedAt = (s.core c').gatedAt := by
  by_cases hcc : c = c'
  · subst hcc; unfold postFault; (try dsimp only); (repeat' split) <;> simp
  · unfold postFault; (try dsimp only); (repeat' split) <;> simp [hcc]
@[simp] theorem postFault_gateCmd (c : CoreId) (f : Flt) (s : State) (c' : CoreId) :
    ((postFault c f s).core c').gateCmd = (s.core c').gateCmd := by
  by_cases hcc : c = c'
  · subst hcc; unfold postFault; (try dsimp only); (repeat' split) <;> simp
  · unfold postFault; (try dsimp only); (repeat' split) <;> simp [hcc]
@[simp] theorem postFault_hub_ns (c : CoreId) (f : Flt) (s : State) :
    (postFault c f s).hub.ns = s.hub.ns := by
  unfold postFault; dsimp only; (repeat' split) <;> simp
@[simp] theorem postFault_hub_adv (c : CoreId) (f : Flt) (s : State) :
    (postFault c f s).hub.adv = s.hub.adv := by
  unfold postFault; dsimp only; (repeat' split) <;> simp
@[simp] theorem postFault_hub_loads (c : CoreId) (f : Flt) (s : State) :
    (postFault c f s).hub.loads = s.hub.loads := by
  unfold postFault; dsimp only; (repeat' split) <;> simp
@[simp] theorem postFault_hub_position (c : CoreId) (f : Flt) (s : State) :
    (postFault c f s).hub.position = s.hub.position := by
  unfold postFault; dsimp only; (repeat' split) <;> simp
@[simp] theorem postFault_hub_routes (c : CoreId) (f : Flt) (s : State) :
    (postFault c f s).hub.routes = s.hub.routes := by
  unfold postFault; dsimp only; (repeat' split) <;> simp
@[simp] theorem postFault_hub_torus (c : CoreId) (f : Flt) (s : State) :
    (postFault c f s).hub.torus = s.hub.torus := by
  unfold postFault; dsimp only; (repeat' split) <;> simp
@[simp] theorem postFault_hub_tb (c : CoreId) (f : Flt) (s : State) :
    (postFault c f s).hub.tb = s.hub.tb := by
  unfold postFault; dsimp only; (repeat' split) <;> simp
@[simp] theorem postFault_hub_ls (c : CoreId) (f : Flt) (s : State) :
    (postFault c f s).hub.ls = s.hub.ls := by
  unfold postFault; dsimp only; (repeat' split) <;> simp
@[simp] theorem postFault_hub_wgt (c : CoreId) (f : Flt) (s : State) :
    (postFault c f s).hub.wgt = s.hub.wgt := by
  unfold postFault; dsimp only; (repeat' split) <;> simp
@[simp] theorem postFault_hub_snp (c : CoreId) (f : Flt) (s : State) :
    (postFault c f s).hub.snp = s.hub.snp := by
  unfold postFault; dsimp only; (repeat' split) <;> simp
@[simp] theorem postFault_hub_pwr (c : CoreId) (f : Flt) (s : State) :
    (postFault c f s).hub.pwr = s.hub.pwr := by
  unfold postFault; dsimp only; (repeat' split) <;> simp
@[simp] theorem postFault_hub_fuses (c : CoreId) (f : Flt) (s : State) :
    (postFault c f s).hub.fuses = s.hub.fuses := by
  unfold postFault; dsimp only; (repeat' split) <;> simp
@[simp] theorem postFault_hub_latches (c : CoreId) (f : Flt) (s : State) :
    (postFault c f s).hub.latches = s.hub.latches := by
  unfold postFault; dsimp only; (repeat' split) <;> simp
@[simp] theorem postFault_hub_store (c : CoreId) (f : Flt) (s : State) :
    (postFault c f s).hub.store = s.hub.store := by
  unfold postFault; dsimp only; (repeat' split) <;> simp
@[simp] theorem postFault_hub_digEng (c : CoreId) (f : Flt) (s : State) :
    (postFault c f s).hub.digEng = s.hub.digEng := by
  unfold postFault; dsimp only; (repeat' split) <;> simp
@[simp] theorem postFault_hub_digQ (c : CoreId) (f : Flt) (s : State) :
    (postFault c f s).hub.digQ = s.hub.digQ := by
  unfold postFault; dsimp only; (repeat' split) <;> simp
@[simp] theorem postFault_hub_firmware (c : CoreId) (f : Flt) (s : State) :
    (postFault c f s).hub.firmware = s.hub.firmware := by
  unfold postFault; dsimp only; (repeat' split) <;> simp
@[simp] theorem postFault_hub_cal (c : CoreId) (f : Flt) (s : State) :
    (postFault c f s).hub.cal = s.hub.cal := by
  unfold postFault; dsimp only; (repeat' split) <;> simp
@[simp] theorem postFault_hub_riskIn (c : CoreId) (f : Flt) (s : State) :
    (postFault c f s).hub.riskIn = s.hub.riskIn := by
  unfold postFault; dsimp only; (repeat' split) <;> simp
@[simp] theorem postFault_sc_ne (c : CoreId) (f : Flt) (s : State) (c' : CoreId) (hne : c ≠ c') :
    (postFault c f s).sc c' = s.sc c' := by
  unfold postFault; dsimp only; (repeat' split) <;> simp [hne]
@[simp] theorem postFault_cm_ne (c : CoreId) (f : Flt) (s : State) (c' : CoreId) (hne : c ≠ c') :
    (postFault c f s).cm c' = s.cm c' := by
  unfold postFault; dsimp only; (repeat' split) <;> simp [hne]
@[simp] theorem postFault_en_ne (c : CoreId) (f : Flt) (s : State) (c' : CoreId) (hne : c ≠ c') :
    (postFault c f s).en c' = s.en c' := by
  unfold postFault; dsimp only; (repeat' split) <;> simp [hne]
@[simp] theorem postFault_cc_ne (c : CoreId) (f : Flt) (s : State) (c' : CoreId) (hne : c ≠ c') :
    (postFault c f s).cc c' = s.cc c' := by
  unfold postFault; dsimp only; (repeat' split) <;> simp [hne]
@[simp] theorem noteRisk_pending (ecc : Ecc) (s : State) :
    (noteRisk s ecc).pending = s.pending := by
  unfold noteRisk; (repeat' split) <;> simp
@[simp] theorem noteRisk_mem (ecc : Ecc) (s : State) :
    (noteRisk s ecc).mem = s.mem := by
  unfold noteRisk; (repeat' split) <;> simp
@[simp] theorem noteRisk_net (ecc : Ecc) (s : State) :
    (noteRisk s ecc).net = s.net := by
  unfold noteRisk; (repeat' split) <;> simp
@[simp] theorem noteRisk_free (ecc : Ecc) (s : State) :
    (noteRisk s ecc).free = s.free := by
  unfold noteRisk; (repeat' split) <;> simp
@[simp] theorem noteRisk_die (ecc : Ecc) (s : State) (d' : DieId) :
    (noteRisk s ecc).die d' = s.die d' := by
  unfold noteRisk; (repeat' split) <;> simp
@[simp] theorem noteRisk_port (ecc : Ecc) (s : State) (p' : PortId) :
    (noteRisk s ecc).port p' = s.port p' := by
  unfold noteRisk; (repeat' split) <;> simp
@[simp] theorem noteRisk_sc (ecc : Ecc) (s : State) (c' : CoreId) :
    (noteRisk s ecc).sc c' = s.sc c' := by
  unfold noteRisk; (repeat' split) <;> simp
@[simp] theorem noteRisk_cm (ecc : Ecc) (s : State) (c' : CoreId) :
    (noteRisk s ecc).cm c' = s.cm c' := by
  unfold noteRisk; (repeat' split) <;> simp
@[simp] theorem noteRisk_en (ecc : Ecc) (s : State) (c' : CoreId) :
    (noteRisk s ecc).en c' = s.en c' := by
  unfold noteRisk; (repeat' split) <;> simp
@[simp] theorem noteRisk_cc (ecc : Ecc) (s : State) (c' : CoreId) :
    (noteRisk s ecc).cc c' = s.cc c' := by
  unfold noteRisk; (repeat' split) <;> simp
@[simp] theorem noteRisk_gate (ecc : Ecc) (s : State) (c' : CoreId) :
    ((noteRisk s ecc).core c').gate = (s.core c').gate := by
  unfold noteRisk; (repeat' split) <;> simp
@[simp] theorem noteRisk_gatedAt (ecc : Ecc) (s : State) (c' : CoreId) :
    ((noteRisk s ecc).core c').gatedAt = (s.core c').gatedAt := by
  unfold noteRisk; (repeat' split) <;> simp
@[simp] theorem noteRisk_gateCmd (ecc : Ecc) (s : State) (c' : CoreId) :
    ((noteRisk s ecc).core c').gateCmd = (s.core c').gateCmd := by
  unfold noteRisk; (repeat' split) <;> simp
@[simp] theorem noteRisk_core (ecc : Ecc) (s : State) (c' : CoreId) :
    (noteRisk s ecc).core c' = s.core c' := by
  unfold noteRisk; (repeat' split) <;> simp
@[simp] theorem noteRisk_hub_ns (ecc : Ecc) (s : State) :
    (noteRisk s ecc).hub.ns = s.hub.ns := by
  unfold noteRisk; (repeat' split) <;> simp
@[simp] theorem noteRisk_hub_adv (ecc : Ecc) (s : State) :
    (noteRisk s ecc).hub.adv = s.hub.adv := by
  unfold noteRisk; (repeat' split) <;> simp
@[simp] theorem noteRisk_hub_loads (ecc : Ecc) (s : State) :
    (noteRisk s ecc).hub.loads = s.hub.loads := by
  unfold noteRisk; (repeat' split) <;> simp
@[simp] theorem noteRisk_hub_position (ecc : Ecc) (s : State) :
    (noteRisk s ecc).hub.position = s.hub.position := by
  unfold noteRisk; (repeat' split) <;> simp
@[simp] theorem noteRisk_hub_routes (ecc : Ecc) (s : State) :
    (noteRisk s ecc).hub.routes = s.hub.routes := by
  unfold noteRisk; (repeat' split) <;> simp
@[simp] theorem noteRisk_hub_torus (ecc : Ecc) (s : State) :
    (noteRisk s ecc).hub.torus = s.hub.torus := by
  unfold noteRisk; (repeat' split) <;> simp
@[simp] theorem noteRisk_hub_tb (ecc : Ecc) (s : State) :
    (noteRisk s ecc).hub.tb = s.hub.tb := by
  unfold noteRisk; (repeat' split) <;> simp
@[simp] theorem noteRisk_hub_ls (ecc : Ecc) (s : State) :
    (noteRisk s ecc).hub.ls = s.hub.ls := by
  unfold noteRisk; (repeat' split) <;> simp
@[simp] theorem noteRisk_hub_wgt (ecc : Ecc) (s : State) :
    (noteRisk s ecc).hub.wgt = s.hub.wgt := by
  unfold noteRisk; (repeat' split) <;> simp
@[simp] theorem noteRisk_hub_snp (ecc : Ecc) (s : State) :
    (noteRisk s ecc).hub.snp = s.hub.snp := by
  unfold noteRisk; (repeat' split) <;> simp
@[simp] theorem noteRisk_hub_pwr (ecc : Ecc) (s : State) :
    (noteRisk s ecc).hub.pwr = s.hub.pwr := by
  unfold noteRisk; (repeat' split) <;> simp
@[simp] theorem noteRisk_hub_hl (ecc : Ecc) (s : State) :
    (noteRisk s ecc).hub.hl = s.hub.hl := by
  unfold noteRisk; (repeat' split) <;> simp
@[simp] theorem noteRisk_hub_fuses (ecc : Ecc) (s : State) :
    (noteRisk s ecc).hub.fuses = s.hub.fuses := by
  unfold noteRisk; (repeat' split) <;> simp
@[simp] theorem noteRisk_hub_latches (ecc : Ecc) (s : State) :
    (noteRisk s ecc).hub.latches = s.hub.latches := by
  unfold noteRisk; (repeat' split) <;> simp
@[simp] theorem noteRisk_hub_store (ecc : Ecc) (s : State) :
    (noteRisk s ecc).hub.store = s.hub.store := by
  unfold noteRisk; (repeat' split) <;> simp
@[simp] theorem noteRisk_hub_digEng (ecc : Ecc) (s : State) :
    (noteRisk s ecc).hub.digEng = s.hub.digEng := by
  unfold noteRisk; (repeat' split) <;> simp
@[simp] theorem noteRisk_hub_digQ (ecc : Ecc) (s : State) :
    (noteRisk s ecc).hub.digQ = s.hub.digQ := by
  unfold noteRisk; (repeat' split) <;> simp
@[simp] theorem noteRisk_hub_firmware (ecc : Ecc) (s : State) :
    (noteRisk s ecc).hub.firmware = s.hub.firmware := by
  unfold noteRisk; (repeat' split) <;> simp
@[simp] theorem noteRisk_hub_cal (ecc : Ecc) (s : State) :
    (noteRisk s ecc).hub.cal = s.hub.cal := by
  unfold noteRisk; (repeat' split) <;> simp
@[simp] theorem noteRisk_hub_hwSet (ecc : Ecc) (s : State) :
    (noteRisk s ecc).hub.hwSet = s.hub.hwSet := by
  unfold noteRisk; (repeat' split) <;> simp
@[simp] theorem dropScrub_pending (a : Nat) (s : State) :
    (dropScrub s a).pending = s.pending := by
  unfold dropScrub; (repeat' split) <;> simp
@[simp] theorem dropScrub_mem (a : Nat) (s : State) :
    (dropScrub s a).mem = s.mem := by
  unfold dropScrub; (repeat' split) <;> simp
@[simp] theorem dropScrub_net (a : Nat) (s : State) :
    (dropScrub s a).net = s.net := by
  unfold dropScrub; (repeat' split) <;> simp
@[simp] theorem dropScrub_free (a : Nat) (s : State) :
    (dropScrub s a).free = s.free := by
  unfold dropScrub; (repeat' split) <;> simp
@[simp] theorem dropScrub_hub (a : Nat) (s : State) :
    (dropScrub s a).hub = s.hub := by
  unfold dropScrub; (repeat' split) <;> simp
@[simp] theorem dropScrub_port (a : Nat) (s : State) (p' : PortId) :
    (dropScrub s a).port p' = s.port p' := by
  unfold dropScrub; (repeat' split) <;> simp
@[simp] theorem dropScrub_sc (a : Nat) (s : State) (c' : CoreId) :
    (dropScrub s a).sc c' = s.sc c' := by
  unfold dropScrub; (repeat' split) <;> simp
@[simp] theorem dropScrub_en (a : Nat) (s : State) (c' : CoreId) :
    (dropScrub s a).en c' = s.en c' := by
  unfold dropScrub; (repeat' split) <;> simp
@[simp] theorem dropScrub_cc (a : Nat) (s : State) (c' : CoreId) :
    (dropScrub s a).cc c' = s.cc c' := by
  unfold dropScrub; (repeat' split) <;> simp
@[simp] theorem dropScrub_gate (a : Nat) (s : State) (c' : CoreId) :
    ((dropScrub s a).core c').gate = (s.core c').gate := by
  unfold dropScrub; (repeat' split) <;> simp
@[simp] theorem dropScrub_gatedAt (a : Nat) (s : State) (c' : CoreId) :
    ((dropScrub s a).core c').gatedAt = (s.core c').gatedAt := by
  unfold dropScrub; (repeat' split) <;> simp
@[simp] theorem dropScrub_gateCmd (a : Nat) (s : State) (c' : CoreId) :
    ((dropScrub s a).core c').gateCmd = (s.core c').gateCmd := by
  unfold dropScrub; (repeat' split) <;> simp
@[simp] theorem writeRow_pending (a : Nat) (r : Row) (s : State) :
    (writeRow s a r).pending = s.pending := by
  unfold writeRow; (repeat' split) <;> simp
@[simp] theorem writeRow_net (a : Nat) (r : Row) (s : State) :
    (writeRow s a r).net = s.net := by
  unfold writeRow; (repeat' split) <;> simp
@[simp] theorem writeRow_free (a : Nat) (r : Row) (s : State) :
    (writeRow s a r).free = s.free := by
  unfold writeRow; (repeat' split) <;> simp
@[simp] theorem writeRow_hub (a : Nat) (r : Row) (s : State) :
    (writeRow s a r).hub = s.hub := by
  unfold writeRow; (repeat' split) <;> simp
@[simp] theorem writeRow_port (a : Nat) (r : Row) (s : State) (p' : PortId) :
    (writeRow s a r).port p' = s.port p' := by
  unfold writeRow; (repeat' split) <;> simp
@[simp] theorem writeRow_sc (a : Nat) (r : Row) (s : State) (c' : CoreId) :
    (writeRow s a r).sc c' = s.sc c' := by
  unfold writeRow; (repeat' split) <;> simp
@[simp] theorem writeRow_en (a : Nat) (r : Row) (s : State) (c' : CoreId) :
    (writeRow s a r).en c' = s.en c' := by
  unfold writeRow; (repeat' split) <;> simp
@[simp] theorem writeRow_cc (a : Nat) (r : Row) (s : State) (c' : CoreId) :
    (writeRow s a r).cc c' = s.cc c' := by
  unfold writeRow; (repeat' split) <;> simp
@[simp] theorem writeRow_gate (a : Nat) (r : Row) (s : State) (c' : CoreId) :
    ((writeRow s a r).core c').gate = (s.core c').gate := by
  unfold writeRow; (repeat' split) <;> simp
@[simp] theorem writeRow_gatedAt (a : Nat) (r : Row) (s : State) (c' : CoreId) :
    ((writeRow s a r).core c').gatedAt = (s.core c').gatedAt := by
  unfold writeRow; (repeat' split) <;> simp
@[simp] theorem writeRow_gateCmd (a : Nat) (r : Row) (s : State) (c' : CoreId) :
    ((writeRow s a r).core c').gateCmd = (s.core c').gateCmd := by
  unfold writeRow; (repeat' split) <;> simp
@[simp] theorem noteEcc_pending (a : Nat) (ecc : Ecc) (s : State) :
    (noteEcc s a ecc).pending = s.pending := by
  unfold noteEcc; (repeat' split) <;> simp
@[simp] theorem noteEcc_mem (a : Nat) (ecc : Ecc) (s : State) :
    (noteEcc s a ecc).mem = s.mem := by
  unfold noteEcc; (repeat' split) <;> simp
@[simp] theorem noteEcc_net (a : Nat) (ecc : Ecc) (s : State) :
    (noteEcc s a ecc).net = s.net := by
  unfold noteEcc; (repeat' split) <;> simp
@[simp] theorem noteEcc_free (a : Nat) (ecc : Ecc) (s : State) :
    (noteEcc s a ecc).free = s.free := by
  unfold noteEcc; (repeat' split) <;> simp
@[simp] theorem noteEcc_port (a : Nat) (ecc : Ecc) (s : State) (p' : PortId) :
    (noteEcc s a ecc).port p' = s.port p' := by
  unfold noteEcc; (repeat' split) <;> simp
@[simp] theorem noteEcc_en (a : Nat) (ecc : Ecc) (s : State) (c' : CoreId) :
    (noteEcc s a ecc).en c' = s.en c' := by
  unfold noteEcc; (repeat' split) <;> simp
@[simp] theorem noteEcc_cc (a : Nat) (ecc : Ecc) (s : State) (c' : CoreId) :
    (noteEcc s a ecc).cc c' = s.cc c' := by
  unfold noteEcc; (repeat' split) <;> simp
@[simp] theorem noteEcc_gate (a : Nat) (ecc : Ecc) (s : State) (c' : CoreId) :
    ((noteEcc s a ecc).core c').gate = (s.core c').gate := by
  unfold noteEcc; (repeat' split) <;> simp
@[simp] theorem noteEcc_gatedAt (a : Nat) (ecc : Ecc) (s : State) (c' : CoreId) :
    ((noteEcc s a ecc).core c').gatedAt = (s.core c').gatedAt := by
  unfold noteEcc; (repeat' split) <;> simp
@[simp] theorem noteEcc_gateCmd (a : Nat) (ecc : Ecc) (s : State) (c' : CoreId) :
    ((noteEcc s a ecc).core c').gateCmd = (s.core c').gateCmd := by
  unfold noteEcc; (repeat' split) <;> simp
@[simp] theorem noteEcc_hub_ns (a : Nat) (ecc : Ecc) (s : State) :
    (noteEcc s a ecc).hub.ns = s.hub.ns := by
  unfold noteEcc; (repeat' split) <;> simp
@[simp] theorem noteEcc_hub_adv (a : Nat) (ecc : Ecc) (s : State) :
    (noteEcc s a ecc).hub.adv = s.hub.adv := by
  unfold noteEcc; (repeat' split) <;> simp
@[simp] theorem noteEcc_hub_loads (a : Nat) (ecc : Ecc) (s : State) :
    (noteEcc s a ecc).hub.loads = s.hub.loads := by
  unfold noteEcc; (repeat' split) <;> simp
@[simp] theorem noteEcc_hub_position (a : Nat) (ecc : Ecc) (s : State) :
    (noteEcc s a ecc).hub.position = s.hub.position := by
  unfold noteEcc; (repeat' split) <;> simp
@[simp] theorem noteEcc_hub_routes (a : Nat) (ecc : Ecc) (s : State) :
    (noteEcc s a ecc).hub.routes = s.hub.routes := by
  unfold noteEcc; (repeat' split) <;> simp
@[simp] theorem noteEcc_hub_torus (a : Nat) (ecc : Ecc) (s : State) :
    (noteEcc s a ecc).hub.torus = s.hub.torus := by
  unfold noteEcc; (repeat' split) <;> simp
@[simp] theorem noteEcc_hub_tb (a : Nat) (ecc : Ecc) (s : State) :
    (noteEcc s a ecc).hub.tb = s.hub.tb := by
  unfold noteEcc; (repeat' split) <;> simp
@[simp] theorem noteEcc_hub_ls (a : Nat) (ecc : Ecc) (s : State) :
    (noteEcc s a ecc).hub.ls = s.hub.ls := by
  unfold noteEcc; (repeat' split) <;> simp
@[simp] theorem noteEcc_hub_wgt (a : Nat) (ecc : Ecc) (s : State) :
    (noteEcc s a ecc).hub.wgt = s.hub.wgt := by
  unfold noteEcc; (repeat' split) <;> simp
@[simp] theorem noteEcc_hub_snp (a : Nat) (ecc : Ecc) (s : State) :
    (noteEcc s a ecc).hub.snp = s.hub.snp := by
  unfold noteEcc; (repeat' split) <;> simp
@[simp] theorem noteEcc_hub_pwr (a : Nat) (ecc : Ecc) (s : State) :
    (noteEcc s a ecc).hub.pwr = s.hub.pwr := by
  unfold noteEcc; (repeat' split) <;> simp
@[simp] theorem noteEcc_hub_hl (a : Nat) (ecc : Ecc) (s : State) :
    (noteEcc s a ecc).hub.hl = s.hub.hl := by
  unfold noteEcc; (repeat' split) <;> simp
@[simp] theorem noteEcc_hub_fuses (a : Nat) (ecc : Ecc) (s : State) :
    (noteEcc s a ecc).hub.fuses = s.hub.fuses := by
  unfold noteEcc; (repeat' split) <;> simp
@[simp] theorem noteEcc_hub_latches (a : Nat) (ecc : Ecc) (s : State) :
    (noteEcc s a ecc).hub.latches = s.hub.latches := by
  unfold noteEcc; (repeat' split) <;> simp
@[simp] theorem noteEcc_hub_store (a : Nat) (ecc : Ecc) (s : State) :
    (noteEcc s a ecc).hub.store = s.hub.store := by
  unfold noteEcc; (repeat' split) <;> simp
@[simp] theorem noteEcc_hub_digEng (a : Nat) (ecc : Ecc) (s : State) :
    (noteEcc s a ecc).hub.digEng = s.hub.digEng := by
  unfold noteEcc; (repeat' split) <;> simp
@[simp] theorem noteEcc_hub_digQ (a : Nat) (ecc : Ecc) (s : State) :
    (noteEcc s a ecc).hub.digQ = s.hub.digQ := by
  unfold noteEcc; (repeat' split) <;> simp
@[simp] theorem noteEcc_hub_firmware (a : Nat) (ecc : Ecc) (s : State) :
    (noteEcc s a ecc).hub.firmware = s.hub.firmware := by
  unfold noteEcc; (repeat' split) <;> simp
@[simp] theorem noteEcc_hub_cal (a : Nat) (ecc : Ecc) (s : State) :
    (noteEcc s a ecc).hub.cal = s.hub.cal := by
  unfold noteEcc; (repeat' split) <;> simp
@[simp] theorem noteHopperEcc_pending (c : CoreId) (row : Nat) (ecc : Ecc) (s : State) :
    (noteHopperEcc s c row ecc).pending = s.pending := by
  unfold noteHopperEcc; (repeat' split) <;> simp
@[simp] theorem noteHopperEcc_mem (c : CoreId) (row : Nat) (ecc : Ecc) (s : State) :
    (noteHopperEcc s c row ecc).mem = s.mem := by
  unfold noteHopperEcc; (repeat' split) <;> simp
@[simp] theorem noteHopperEcc_net (c : CoreId) (row : Nat) (ecc : Ecc) (s : State) :
    (noteHopperEcc s c row ecc).net = s.net := by
  unfold noteHopperEcc; (repeat' split) <;> simp
@[simp] theorem noteHopperEcc_free (c : CoreId) (row : Nat) (ecc : Ecc) (s : State) :
    (noteHopperEcc s c row ecc).free = s.free := by
  unfold noteHopperEcc; (repeat' split) <;> simp
@[simp] theorem noteHopperEcc_die (c : CoreId) (row : Nat) (ecc : Ecc) (s : State) (d' : DieId) :
    (noteHopperEcc s c row ecc).die d' = s.die d' := by
  unfold noteHopperEcc; (repeat' split) <;> simp
@[simp] theorem noteHopperEcc_port (c : CoreId) (row : Nat) (ecc : Ecc) (s : State) (p' : PortId) :
    (noteHopperEcc s c row ecc).port p' = s.port p' := by
  unfold noteHopperEcc; (repeat' split) <;> simp
@[simp] theorem noteHopperEcc_en (c : CoreId) (row : Nat) (ecc : Ecc) (s : State) (c' : CoreId) :
    (noteHopperEcc s c row ecc).en c' = s.en c' := by
  unfold noteHopperEcc; (repeat' split) <;> simp
@[simp] theorem noteHopperEcc_cc (c : CoreId) (row : Nat) (ecc : Ecc) (s : State) (c' : CoreId) :
    (noteHopperEcc s c row ecc).cc c' = s.cc c' := by
  unfold noteHopperEcc; (repeat' split) <;> simp
@[simp] theorem noteHopperEcc_gate (c : CoreId) (row : Nat) (ecc : Ecc) (s : State) (c' : CoreId) :
    ((noteHopperEcc s c row ecc).core c').gate = (s.core c').gate := by
  unfold noteHopperEcc; (repeat' split) <;> simp
@[simp] theorem noteHopperEcc_gatedAt (c : CoreId) (row : Nat) (ecc : Ecc) (s : State) (c' : CoreId) :
    ((noteHopperEcc s c row ecc).core c').gatedAt = (s.core c').gatedAt := by
  unfold noteHopperEcc; (repeat' split) <;> simp
@[simp] theorem noteHopperEcc_gateCmd (c : CoreId) (row : Nat) (ecc : Ecc) (s : State) (c' : CoreId) :
    ((noteHopperEcc s c row ecc).core c').gateCmd = (s.core c').gateCmd := by
  unfold noteHopperEcc; (repeat' split) <;> simp
@[simp] theorem noteHopperEcc_core_ne (c : CoreId) (row : Nat) (ecc : Ecc) (s : State) (c' : CoreId) (hne : c ≠ c') :
    (noteHopperEcc s c row ecc).core c' = s.core c' := by
  unfold noteHopperEcc; (repeat' split) <;> simp [hne]
@[simp] theorem noteHopperEcc_hub_ns (c : CoreId) (row : Nat) (ecc : Ecc) (s : State) :
    (noteHopperEcc s c row ecc).hub.ns = s.hub.ns := by
  unfold noteHopperEcc; (repeat' split) <;> simp
@[simp] theorem noteHopperEcc_hub_adv (c : CoreId) (row : Nat) (ecc : Ecc) (s : State) :
    (noteHopperEcc s c row ecc).hub.adv = s.hub.adv := by
  unfold noteHopperEcc; (repeat' split) <;> simp
@[simp] theorem noteHopperEcc_hub_loads (c : CoreId) (row : Nat) (ecc : Ecc) (s : State) :
    (noteHopperEcc s c row ecc).hub.loads = s.hub.loads := by
  unfold noteHopperEcc; (repeat' split) <;> simp
@[simp] theorem noteHopperEcc_hub_position (c : CoreId) (row : Nat) (ecc : Ecc) (s : State) :
    (noteHopperEcc s c row ecc).hub.position = s.hub.position := by
  unfold noteHopperEcc; (repeat' split) <;> simp
@[simp] theorem noteHopperEcc_hub_routes (c : CoreId) (row : Nat) (ecc : Ecc) (s : State) :
    (noteHopperEcc s c row ecc).hub.routes = s.hub.routes := by
  unfold noteHopperEcc; (repeat' split) <;> simp
@[simp] theorem noteHopperEcc_hub_torus (c : CoreId) (row : Nat) (ecc : Ecc) (s : State) :
    (noteHopperEcc s c row ecc).hub.torus = s.hub.torus := by
  unfold noteHopperEcc; (repeat' split) <;> simp
@[simp] theorem noteHopperEcc_hub_tb (c : CoreId) (row : Nat) (ecc : Ecc) (s : State) :
    (noteHopperEcc s c row ecc).hub.tb = s.hub.tb := by
  unfold noteHopperEcc; (repeat' split) <;> simp
@[simp] theorem noteHopperEcc_hub_ls (c : CoreId) (row : Nat) (ecc : Ecc) (s : State) :
    (noteHopperEcc s c row ecc).hub.ls = s.hub.ls := by
  unfold noteHopperEcc; (repeat' split) <;> simp
@[simp] theorem noteHopperEcc_hub_wgt (c : CoreId) (row : Nat) (ecc : Ecc) (s : State) :
    (noteHopperEcc s c row ecc).hub.wgt = s.hub.wgt := by
  unfold noteHopperEcc; (repeat' split) <;> simp
@[simp] theorem noteHopperEcc_hub_snp (c : CoreId) (row : Nat) (ecc : Ecc) (s : State) :
    (noteHopperEcc s c row ecc).hub.snp = s.hub.snp := by
  unfold noteHopperEcc; (repeat' split) <;> simp
@[simp] theorem noteHopperEcc_hub_pwr (c : CoreId) (row : Nat) (ecc : Ecc) (s : State) :
    (noteHopperEcc s c row ecc).hub.pwr = s.hub.pwr := by
  unfold noteHopperEcc; (repeat' split) <;> simp
@[simp] theorem noteHopperEcc_hub_hl (c : CoreId) (row : Nat) (ecc : Ecc) (s : State) :
    (noteHopperEcc s c row ecc).hub.hl = s.hub.hl := by
  unfold noteHopperEcc; (repeat' split) <;> simp
@[simp] theorem noteHopperEcc_hub_fuses (c : CoreId) (row : Nat) (ecc : Ecc) (s : State) :
    (noteHopperEcc s c row ecc).hub.fuses = s.hub.fuses := by
  unfold noteHopperEcc; (repeat' split) <;> simp
@[simp] theorem noteHopperEcc_hub_latches (c : CoreId) (row : Nat) (ecc : Ecc) (s : State) :
    (noteHopperEcc s c row ecc).hub.latches = s.hub.latches := by
  unfold noteHopperEcc; (repeat' split) <;> simp
@[simp] theorem noteHopperEcc_hub_store (c : CoreId) (row : Nat) (ecc : Ecc) (s : State) :
    (noteHopperEcc s c row ecc).hub.store = s.hub.store := by
  unfold noteHopperEcc; (repeat' split) <;> simp
@[simp] theorem noteHopperEcc_hub_digEng (c : CoreId) (row : Nat) (ecc : Ecc) (s : State) :
    (noteHopperEcc s c row ecc).hub.digEng = s.hub.digEng := by
  unfold noteHopperEcc; (repeat' split) <;> simp
@[simp] theorem noteHopperEcc_hub_digQ (c : CoreId) (row : Nat) (ecc : Ecc) (s : State) :
    (noteHopperEcc s c row ecc).hub.digQ = s.hub.digQ := by
  unfold noteHopperEcc; (repeat' split) <;> simp
@[simp] theorem noteHopperEcc_hub_firmware (c : CoreId) (row : Nat) (ecc : Ecc) (s : State) :
    (noteHopperEcc s c row ecc).hub.firmware = s.hub.firmware := by
  unfold noteHopperEcc; (repeat' split) <;> simp
@[simp] theorem noteHopperEcc_hub_cal (c : CoreId) (row : Nat) (ecc : Ecc) (s : State) :
    (noteHopperEcc s c row ecc).hub.cal = s.hub.cal := by
  unfold noteHopperEcc; (repeat' split) <;> simp
@[simp] theorem noteHopperEcc_hub_hwSet (c : CoreId) (row : Nat) (ecc : Ecc) (s : State) :
    (noteHopperEcc s c row ecc).hub.hwSet = s.hub.hwSet := by
  unfold noteHopperEcc; (repeat' split) <;> simp
@[simp] theorem noteHopperEcc_sc_ne (c : CoreId) (row : Nat) (ecc : Ecc) (s : State) (c' : CoreId) (hne : c ≠ c') :
    (noteHopperEcc s c row ecc).sc c' = s.sc c' := by
  unfold noteHopperEcc; (repeat' split) <;> simp [hne]
@[simp] theorem noteHopperEcc_cm_ne (c : CoreId) (row : Nat) (ecc : Ecc) (s : State) (c' : CoreId) (hne : c ≠ c') :
    (noteHopperEcc s c row ecc).cm c' = s.cm c' := by
  unfold noteHopperEcc; (repeat' split) <;> simp [hne]
@[simp] theorem pushReq_pending (c : CoreId) (n : Nat) (s : State) :
    (pushReq c n s).pending = s.pending := by simp [pushReq]
@[simp] theorem pushReq_mem (c : CoreId) (n : Nat) (s : State) :
    (pushReq c n s).mem = s.mem := by simp [pushReq]
@[simp] theorem pushReq_net (c : CoreId) (n : Nat) (s : State) :
    (pushReq c n s).net = s.net := by simp [pushReq]
@[simp] theorem pushReq_free (c : CoreId) (n : Nat) (s : State) :
    (pushReq c n s).free = s.free := by simp [pushReq]
@[simp] theorem pushReq_hub (c : CoreId) (n : Nat) (s : State) :
    (pushReq c n s).hub = s.hub := by simp [pushReq]
@[simp] theorem pushReq_port (c : CoreId) (n : Nat) (s : State) (p' : PortId) :
    (pushReq c n s).port p' = s.port p' := by simp [pushReq]
@[simp] theorem pushReq_cm (c : CoreId) (n : Nat) (s : State) (c' : CoreId) :
    (pushReq c n s).cm c' = s.cm c' := by simp [pushReq]
@[simp] theorem pushReq_en (c : CoreId) (n : Nat) (s : State) (c' : CoreId) :
    (pushReq c n s).en c' = s.en c' := by simp [pushReq]
@[simp] theorem pushReq_cc (c : CoreId) (n : Nat) (s : State) (c' : CoreId) :
    (pushReq c n s).cc c' = s.cc c' := by simp [pushReq]
@[simp] theorem pushReq_gate (c : CoreId) (n : Nat) (s : State) (c' : CoreId) :
    ((pushReq c n s).core c').gate = (s.core c').gate := by simp [pushReq]
@[simp] theorem pushReq_gatedAt (c : CoreId) (n : Nat) (s : State) (c' : CoreId) :
    ((pushReq c n s).core c').gatedAt = (s.core c').gatedAt := by simp [pushReq]
@[simp] theorem pushReq_gateCmd (c : CoreId) (n : Nat) (s : State) (c' : CoreId) :
    ((pushReq c n s).core c').gateCmd = (s.core c').gateCmd := by simp [pushReq]
@[simp] theorem pushReq_core_ne (c : CoreId) (n : Nat) (s : State) (c' : CoreId) (hne : c ≠ c') :
    (pushReq c n s).core c' = s.core c' := by simp [pushReq, hne]
@[simp] theorem pushReq_sc_ne (c : CoreId) (n : Nat) (s : State) (c' : CoreId) (hne : c ≠ c') :
    (pushReq c n s).sc c' = s.sc c' := by simp [pushReq, hne]
@[simp] theorem checkRelease_pending (c : CoreId) (s : State) :
    (checkRelease c s).pending = s.pending := by
  unfold checkRelease; (repeat' split) <;> simp
@[simp] theorem checkRelease_mem (c : CoreId) (s : State) :
    (checkRelease c s).mem = s.mem := by
  unfold checkRelease; (repeat' split) <;> simp
@[simp] theorem checkRelease_net (c : CoreId) (s : State) :
    (checkRelease c s).net = s.net := by
  unfold checkRelease; (repeat' split) <;> simp
@[simp] theorem checkRelease_free (c : CoreId) (s : State) :
    (checkRelease c s).free = s.free := by
  unfold checkRelease; (repeat' split) <;> simp
@[simp] theorem checkRelease_hub (c : CoreId) (s : State) :
    (checkRelease c s).hub = s.hub := by
  unfold checkRelease; (repeat' split) <;> simp
@[simp] theorem checkRelease_port (c : CoreId) (s : State) (p' : PortId) :
    (checkRelease c s).port p' = s.port p' := by
  unfold checkRelease; (repeat' split) <;> simp
@[simp] theorem checkRelease_cm (c : CoreId) (s : State) (c' : CoreId) :
    (checkRelease c s).cm c' = s.cm c' := by
  unfold checkRelease; (repeat' split) <;> simp
@[simp] theorem checkRelease_en (c : CoreId) (s : State) (c' : CoreId) :
    (checkRelease c s).en c' = s.en c' := by
  unfold checkRelease; (repeat' split) <;> simp
@[simp] theorem checkRelease_cc (c : CoreId) (s : State) (c' : CoreId) :
    (checkRelease c s).cc c' = s.cc c' := by
  unfold checkRelease; (repeat' split) <;> simp
@[simp] theorem checkRelease_gate (c : CoreId) (s : State) (c' : CoreId) :
    ((checkRelease c s).core c').gate = (s.core c').gate := by
  unfold checkRelease; (repeat' split) <;> simp
@[simp] theorem checkRelease_gatedAt (c : CoreId) (s : State) (c' : CoreId) :
    ((checkRelease c s).core c').gatedAt = (s.core c').gatedAt := by
  unfold checkRelease; (repeat' split) <;> simp
@[simp] theorem checkRelease_gateCmd (c : CoreId) (s : State) (c' : CoreId) :
    ((checkRelease c s).core c').gateCmd = (s.core c').gateCmd := by
  unfold checkRelease; (repeat' split) <;> simp
@[simp] theorem checkRelease_core_ne (c : CoreId) (s : State) (c' : CoreId) (hne : c ≠ c') :
    (checkRelease c s).core c' = s.core c' := by
  unfold checkRelease; (repeat' split) <;> simp [hne]
@[simp] theorem checkRelease_sc_ne (c : CoreId) (s : State) (c' : CoreId) (hne : c ≠ c') :
    (checkRelease c s).sc c' = s.sc c' := by
  unfold checkRelease; (repeat' split) <;> simp [hne]
@[simp] theorem arriveStake_pending (c : CoreId) (k : Nat) (n : Nat) (s : State) :
    (arriveStake c k n s).pending = s.pending := by simp [arriveStake]
@[simp] theorem arriveStake_mem (c : CoreId) (k : Nat) (n : Nat) (s : State) :
    (arriveStake c k n s).mem = s.mem := by simp [arriveStake]
@[simp] theorem arriveStake_net (c : CoreId) (k : Nat) (n : Nat) (s : State) :
    (arriveStake c k n s).net = s.net := by simp [arriveStake]
@[simp] theorem arriveStake_free (c : CoreId) (k : Nat) (n : Nat) (s : State) :
    (arriveStake c k n s).free = s.free := by simp [arriveStake]
@[simp] theorem arriveStake_hub (c : CoreId) (k : Nat) (n : Nat) (s : State) :
    (arriveStake c k n s).hub = s.hub := by simp [arriveStake]
@[simp] theorem arriveStake_port (c : CoreId) (k : Nat) (n : Nat) (s : State) (p' : PortId) :
    (arriveStake c k n s).port p' = s.port p' := by simp [arriveStake]
@[simp] theorem arriveStake_cm (c : CoreId) (k : Nat) (n : Nat) (s : State) (c' : CoreId) :
    (arriveStake c k n s).cm c' = s.cm c' := by simp [arriveStake]
@[simp] theorem arriveStake_en (c : CoreId) (k : Nat) (n : Nat) (s : State) (c' : CoreId) :
    (arriveStake c k n s).en c' = s.en c' := by simp [arriveStake]
@[simp] theorem arriveStake_cc (c : CoreId) (k : Nat) (n : Nat) (s : State) (c' : CoreId) :
    (arriveStake c k n s).cc c' = s.cc c' := by simp [arriveStake]
@[simp] theorem arriveStake_gate (c : CoreId) (k : Nat) (n : Nat) (s : State) (c' : CoreId) :
    ((arriveStake c k n s).core c').gate = (s.core c').gate := by simp [arriveStake]
@[simp] theorem arriveStake_gatedAt (c : CoreId) (k : Nat) (n : Nat) (s : State) (c' : CoreId) :
    ((arriveStake c k n s).core c').gatedAt = (s.core c').gatedAt := by simp [arriveStake]
@[simp] theorem arriveStake_gateCmd (c : CoreId) (k : Nat) (n : Nat) (s : State) (c' : CoreId) :
    ((arriveStake c k n s).core c').gateCmd = (s.core c').gateCmd := by simp [arriveStake]
@[simp] theorem arriveStake_core_ne (c : CoreId) (k : Nat) (n : Nat) (s : State) (c' : CoreId) (hne : c ≠ c') :
    (arriveStake c k n s).core c' = s.core c' := by simp [arriveStake, hne]
@[simp] theorem arriveStake_sc_ne (c : CoreId) (k : Nat) (n : Nat) (s : State) (c' : CoreId) (hne : c ≠ c') :
    (arriveStake c k n s).sc c' = s.sc c' := by simp [arriveStake, hne]
@[simp] theorem State.fresh_pending  (s : State) :
    (State.fresh s).pending = s.pending := by simp [State.fresh]
@[simp] theorem State.fresh_mem  (s : State) :
    (State.fresh s).mem = s.mem := by simp [State.fresh]
@[simp] theorem State.fresh_net  (s : State) :
    (State.fresh s).net = s.net := by simp [State.fresh]
@[simp] theorem State.fresh_hub  (s : State) :
    (State.fresh s).hub = s.hub := by simp [State.fresh]
@[simp] theorem State.fresh_die  (s : State) (d' : DieId) :
    (State.fresh s).die d' = s.die d' := by simp [State.fresh]
@[simp] theorem State.fresh_port  (s : State) (p' : PortId) :
    (State.fresh s).port p' = s.port p' := by simp [State.fresh]
@[simp] theorem State.fresh_sc  (s : State) (c' : CoreId) :
    (State.fresh s).sc c' = s.sc c' := by simp [State.fresh]
@[simp] theorem State.fresh_cm  (s : State) (c' : CoreId) :
    (State.fresh s).cm c' = s.cm c' := by simp [State.fresh]
@[simp] theorem State.fresh_en  (s : State) (c' : CoreId) :
    (State.fresh s).en c' = s.en c' := by simp [State.fresh]
@[simp] theorem State.fresh_cc  (s : State) (c' : CoreId) :
    (State.fresh s).cc c' = s.cc c' := by simp [State.fresh]
@[simp] theorem State.fresh_gate  (s : State) (c' : CoreId) :
    ((State.fresh s).core c').gate = (s.core c').gate := by simp [State.fresh]
@[simp] theorem State.fresh_gatedAt  (s : State) (c' : CoreId) :
    ((State.fresh s).core c').gatedAt = (s.core c').gatedAt := by simp [State.fresh]
@[simp] theorem State.fresh_gateCmd  (s : State) (c' : CoreId) :
    ((State.fresh s).core c').gateCmd = (s.core c').gateCmd := by simp [State.fresh]
@[simp] theorem State.fresh_core  (s : State) (c' : CoreId) :
    (State.fresh s).core c' = s.core c' := by simp [State.fresh]

end Sys2Proof.Machine
end

