-- ==== Sys2Proof/Laws/Rows.lean ====
section
/-! SUPPORT. What is read after a write: bytes of a list of cells, and rows of the module. -/

namespace Sys2Proof.Machine

open Sys2Proof

theorem cellsIn_writeCells_ne (m : List Host.Cell) (a : Nat) (bs : List Byte) (b n : Nat) (h : b + n ≤ a ∨ a + bs.length ≤ b) :
    cellsIn (writeCells m a bs) b n = cellsIn m b n := by
  have e : (newCells a bs).filter (fun x => decide (b ≤ x.1) && decide (x.1 < b + n)) = [] := by
    refine List.filter_eq_nil_iff.mpr fun x hx => ?_
    have := mem_newCells hx
    simp only [Bool.and_eq_true, decide_eq_true_eq, not_and]
    omega
  unfold cellsIn writeCells
  rw [List.filter_append, List.filter_append, e, List.append_nil, List.filter_filter, List.filter_filter]
  rcases h with h | h
  · rw [show (m.filter fun x => (decide (b ≤ x.1) && decide (x.1 < b + n)) && decide (a + bs.length ≤ x.1)) = [] from ?_, List.append_nil]
    · refine List.filter_congr fun x _ => ?_
      by_cases h1 : x.1 < b + n <;> simp [h1]; omega
    · refine List.filter_eq_nil_iff.mpr fun x _ => ?_
      simp only [Bool.and_eq_true, decide_eq_true_eq, not_and]; omega
  · rw [show (m.filter fun x => (decide (b ≤ x.1) && decide (x.1 < b + n)) && decide (x.1 < a)) = [] from ?_, List.nil_append]
    · refine List.filter_congr fun x _ => ?_
      by_cases h1 : b ≤ x.1 <;> simp [h1]; omega
    · refine List.filter_eq_nil_iff.mpr fun x _ => ?_
      simp only [Bool.and_eq_true, decide_eq_true_eq, not_and]; omega

theorem cellsIn_writeCells_self (m : List Host.Cell) (a : Nat) (bs : List Byte) :
    cellsIn (writeCells m a bs) a bs.length = newCells a bs := by
  unfold cellsIn writeCells
  rw [List.filter_append, List.filter_append, List.filter_filter, List.filter_filter,
    List.filter_eq_nil_iff.mpr, List.filter_eq_self.mpr, List.filter_eq_nil_iff.mpr, List.nil_append, List.append_nil]
  · intro x _; simp only [Bool.and_eq_true, decide_eq_true_eq, not_and]; omega
  · intro x hx; have := mem_newCells hx; simp only [Bool.and_eq_true, decide_eq_true_eq]; omega
  · intro x _; simp only [Bool.and_eq_true, decide_eq_true_eq, not_and]; omega

theorem foldl_newCells (base a : Nat) (bs : List Byte) (acc : Nat) (h : base ≤ a) :
    (newCells a bs).foldl (fun acc x => acc + x.2.toNat * 2 ^ (8 * (x.1 - base))) acc = acc + ofLe bs * 2 ^ (8 * (a - base)) := by
  induction bs generalizing a acc with
  | nil => simp [newCells, ofLe]
  | cons b bs ih =>
    have e : 2 ^ (8 * (a + 1 - base)) = 256 * 2 ^ (8 * (a - base)) := by
      rw [show 8 * (a + 1 - base) = 8 + 8 * (a - base) by omega, Nat.pow_add]
    simp only [newCells, ofLe]
    split
    · rename_i hb
      have : b = 0 := by simpa [memDefault] using hb
      rw [ih _ _ (by omega), e, this]; simp [Nat.mul_assoc, Nat.mul_left_comm]
    · rw [List.foldl_cons, ih _ _ (by omega), e]; simp only [Nat.add_mul]; ring

/-- What was written reads back. -/
theorem readCells_writeCells_self (m : List Host.Cell) (a : Nat) (bs : List Byte) :
    readCells (writeCells m a bs) a bs.length = ofLe bs := by
  rw [readCells, cellsIn_writeCells_self, foldl_newCells a a bs 0 le_rfl]; simp

/-- A write leaves every other byte. -/
theorem readCells_writeCells_ne (m : List Host.Cell) (a : Nat) (bs : List Byte) (b n : Nat) (h : b + n ≤ a ∨ a + bs.length ≤ b) :
    readCells (writeCells m a bs) b n = readCells m b n := by
  rw [readCells, cellsIn_writeCells_ne m a bs b n h]; rfl

@[simp] theorem leBytes_length (k n : Nat) : (leBytes k n).length = k := by
  induction k generalizing n with
  | zero => rfl
  | succ k ih => simp [leBytes, ih]

theorem ofLe_leBytes (k n : Nat) : ofLe (leBytes k n) = n % 256 ^ k := by
  induction k generalizing n with
  | zero => simp [leBytes, ofLe, Nat.mod_one]
  | succ k ih =>
    simp only [leBytes, ofLe, ih, BitVec.toNat_ofNat]
    rw [show (2 : Nat) ^ 8 = 256 by rfl, Nat.pow_succ, Nat.mul_comm (256 ^ k) 256, Nat.mod_mul]

@[simp] theorem Row.bytes_length (r : Row) : r.bytes.length = 512 := leBytes_length 512 _

theorem readRowAt_writeRowAt_self (m : List Host.Cell) (a : Nat) (r : Row) : readRowAt (writeRowAt m a r) a = r := by
  have h := readCells_writeCells_self m a r.bytes
  rw [Row.bytes_length] at h
  rw [readRowAt, writeRowAt, h, Row.bytes, ofLe_leBytes, show 256 ^ 512 = 2 ^ 4096 from by rw [show 256 = 2 ^ 8 by rfl, ← Nat.pow_mul]]
  simp

theorem readRowAt_writeRowAt_ne (m : List Host.Cell) (a b : Nat) (r : Row) (h : b + 512 ≤ a ∨ a + 512 ≤ b) :
    readRowAt (writeRowAt m a r) b = readRowAt m b := by
  rw [readRowAt, writeRowAt, readCells_writeCells_ne m a _ b 512 (by rw [Row.bytes_length]; exact h)]; rfl

/-- Addresses of one row lie in one place. -/
theorem populated_congr {a b : Nat} (h : rowBase a = rowBase b) : populated a = populated b := by
  have e : a / 512 = b / 512 := by unfold rowBase at h; omega
  have key : ∀ x : Nat, populated x = true ↔ (x / 512 < 0x400000 ∧ x / 512 % 0x8000 < 12288) ∨
      (0x800000 ≤ x / 512 ∧ x / 512 < 0x2800000) ∨
      (0x8000000 ≤ x / 512 ∧ x / 512 < 0x14000000 ∧ (x / 512 - 0x8000000) % 0x1800000 < 23592960) := by
    intro x
    unfold populated placeOf
    split_ifs <;> simp only [true_iff, Bool.false_eq_true, false_iff] <;> omega
  rw [Bool.eq_iff_iff, key, key, e]

@[simp] theorem readRow_dropScrub (s : State) (a b : Nat) : readRow (dropScrub s a) b = readRow s b := by simp [readRow]

/-- A row reads as it was last written; every other row is as before. -/
theorem readRow_writeRow (s : State) (a b : Nat) (r : Row) :
    readRow (writeRow s a r) b = if populated a = true ∧ rowBase b = rowBase a then r else readRow s b := by
  unfold writeRow
  split
  · rename_i hp
    rw [readRow_dropScrub]
    by_cases e : rowBase b = rowBase a
    · simp [readRow, e, hp, populated_congr e, readRowAt_writeRowAt_self]
    · have : rowBase b + 512 ≤ rowBase a ∨ rowBase a + 512 ≤ rowBase b := by unfold rowBase at *; omega
      simp [readRow, e, readRowAt_writeRowAt_ne _ _ _ _ this]
  · rename_i hp; simp [hp]

end Sys2Proof.Machine
end

