-- ==== Sys2Proof/Laws/Keeps.lean ====
section
/-! SUPPORT. What every operation keeps: the queue, the canonical form of memory, and register x0 at 0. -/

namespace Sys2Proof.Machine

open Sys2Proof

/-- State `t` has the queue of `s`, and is sound where `s` is. -/
def Keeps (s t : State) : Prop := t.pending = s.pending ∧ (Sound s → Sound t)
/-- Memory of one control core: canonical, with x0 at 0. -/
def CcOk (k : Cc) : Prop := Memory.wf k.imem = true ∧ Memory.wf k.dmem = true ∧ vget k.regs 0 0 = 0
/-- Memory of one core. -/
def CoreOk (k : Core) : Prop := Memory.wf k.m.hop = true ∧ CcOk k.cc
/-- An answer that is a next state which keeps what `s` has. -/
def AnswerKeeps (s : State) (a : Answer) : Prop := ∃ t, a = .next t ∧ Keeps s t

variable {s₀ s : State}

theorem sound_iff (s : State) :
    Sound s ↔ Memory.wf s.mem = true ∧ Memory.wf s.hub.store = true ∧ ∀ c, CoreOk (s.core c) := by
  simp only [Sound, Canonical, ZeroRegister, CoreOk, CcOk]
  constructor
  · rintro ⟨⟨h1, h2, h3⟩, h4⟩; exact ⟨h1, h2, fun c => ⟨(h3 c).1, (h3 c).2.1, (h3 c).2.2, h4 c⟩⟩
  · rintro ⟨h1, h2, h3⟩; exact ⟨⟨h1, h2, fun c => ⟨(h3 c).1, (h3 c).2.1, (h3 c).2.2.1⟩⟩, fun c => (h3 c).2.2.2⟩

theorem keeps_refl (s : State) : Keeps s s := ⟨rfl, id⟩
theorem keeps_trans {t u : State} (h : Keeps s t) (k : Keeps t u) : Keeps s u := ⟨k.1.trans h.1, fun x => k.2 (h.2 x)⟩

theorem setCore_keeps (h : Keeps s₀ s) (c : CoreId) (k : Core) (hk : CoreOk (s.core c) → CoreOk k) : Keeps s₀ (s.setCore c k) := by
  refine ⟨h.1, fun x => (sound_iff _).mpr ?_⟩
  obtain ⟨h1, h2, h3⟩ := (sound_iff _).mp (h.2 x)
  refine ⟨h1, h2, fun e => ?_⟩
  by_cases he : c = e
  · subst he; rw [State.setCore_core_self]; exact hk (h3 c)
  · rw [State.setCore_core_ne _ _ _ _ he]; exact h3 e
theorem onCore_keeps (h : Keeps s₀ s) (c : CoreId) (f : Core → Core) (hf : ∀ k, CoreOk k → CoreOk (f k)) : Keeps s₀ (s.onCore c f) :=
  setCore_keeps h c _ (hf _)
theorem onSc_keeps (h : Keeps s₀ s) (c : CoreId) (f : Sched → Sched) : Keeps s₀ (s.onSc c f) := onCore_keeps h c _ fun _ h => h
theorem onE_keeps (h : Keeps s₀ s) (c : CoreId) (f : Eng → Eng) : Keeps s₀ (s.onE c f) := onCore_keeps h c _ fun _ h => h
theorem onM_keeps (h : Keeps s₀ s) (c : CoreId) (f : Mem1 → Mem1) (hf : ∀ m, Memory.wf m.hop = true → Memory.wf (f m).hop = true) :
    Keeps s₀ (s.onM c f) := onCore_keeps h c _ fun k hk => ⟨hf _ hk.1, hk.2⟩
theorem onCc_keeps (h : Keeps s₀ s) (c : CoreId) (f : Cc → Cc) (hf : ∀ k, CcOk k → CcOk (f k)) : Keeps s₀ (s.onCc c f) :=
  onCore_keeps h c _ fun k hk => ⟨hk.1, hf _ hk.2⟩
theorem setDie_keeps (h : Keeps s₀ s) (d : DieId) (k : Die) : Keeps s₀ (s.setDie d k) := h
theorem onDie_keeps (h : Keeps s₀ s) (d : DieId) (f : Die → Die) : Keeps s₀ (s.onDie d f) := h
theorem setPort_keeps (h : Keeps s₀ s) (p : PortId) (k : Port) : Keeps s₀ (s.setPort p k) := h
theorem onPort_keeps (h : Keeps s₀ s) (p : PortId) (f : Port → Port) : Keeps s₀ (s.onPort p f) := h
theorem onHub_keeps (h : Keeps s₀ s) (f : Hub → Hub) (hf : ∀ k, Memory.wf k.store = true → Memory.wf (f k).store = true) :
    Keeps s₀ (s.onHub f) := by
  refine ⟨h.1, fun x => (sound_iff _).mpr ?_⟩
  obtain ⟨h1, h2, h3⟩ := (sound_iff _).mp (h.2 x)
  exact ⟨h1, hf _ h2, h3⟩
theorem onHl_keeps (h : Keeps s₀ s) (f : Hl → Hl) : Keeps s₀ (s.onHl f) := h
theorem onPwr_keeps (h : Keeps s₀ s) (f : Pwr → Pwr) : Keeps s₀ (s.onPwr f) := h
theorem onTb_keeps (h : Keeps s₀ s) (f : Tb → Tb) : Keeps s₀ (s.onTb f) := h
theorem onLs_keeps (h : Keeps s₀ s) (f : Ls → Ls) : Keeps s₀ (s.onLs f) := h
theorem withNet_keeps (h : Keeps s₀ s) (n : List Item) : Keeps s₀ { s with net := n } := h
theorem withFree_keeps (h : Keeps s₀ s) (n : Nat) : Keeps s₀ { s with free := n } := h
theorem withDies_keeps (h : Keeps s₀ s) (n : Vector Die 8) : Keeps s₀ { s with dies := n } := h
theorem withMem_keeps (h : Keeps s₀ s) (m : List Host.Cell) (hm : Memory.wf s.mem = true → Memory.wf m = true) :
    Keeps s₀ { s with mem := m } := by
  refine ⟨h.1, fun x => (sound_iff _).mpr ?_⟩
  obtain ⟨h1, h2, h3⟩ := (sound_iff _).mp (h.2 x)
  exact ⟨hm h1, h2, h3⟩
theorem withMemNet_keeps (h : Keeps s₀ s) : Keeps s₀ { s with mem := [], net := [] } :=
  withNet_keeps (withMem_keeps h [] fun _ => nil_wf) []
theorem ite_keeps {p : Prop} [Decidable p] {a b : State} (h : p → Keeps s₀ a) (k : ¬p → Keeps s₀ b) : Keeps s₀ (if p then a else b) := by
  split
  · exact h ‹_›
  · exact k ‹_›
theorem iteAnswer_keeps {p : Prop} [Decidable p] {a b : Answer} (h : p → AnswerKeeps s₀ a) (k : ¬p → AnswerKeeps s₀ b) :
    AnswerKeeps s₀ (if p then a else b) := by
  split
  · exact h ‹_›
  · exact k ‹_›
theorem forAll_keeps {α : Type} (h : Keeps s₀ s) (xs : List α) (f : α → State → State) (hf : ∀ x t, Keeps s₀ t → Keeps s₀ (f x t)) :
    Keeps s₀ (forAll xs f s) := forAll_inv (Keeps s₀) xs f s h fun x _ t ht => hf x t ht
/-- A fold that carries a state beside other data. -/
theorem foldl_keeps {α β : Type} (g : β → State) (xs : List α) (f : β → α → β) (b : β) (h : Keeps s₀ (g b))
    (hf : ∀ b x, Keeps s₀ (g b) → Keeps s₀ (g (f b x))) : Keeps s₀ (g (xs.foldl f b)) := by
  induction xs generalizing b with
  | nil => exact h
  | cons x xs ih => exact ih _ (hf _ x h)
theorem next_keeps (h : Keeps s₀ s) : AnswerKeeps s₀ (.next s) := ⟨s, rfl, h⟩
theorem whenDue_keeps (h : Keeps s₀ s) (b : Bool) (f : State → State) (hf : ∀ t, Keeps s₀ t → Keeps s₀ (f t)) :
    AnswerKeeps s₀ (whenDue b f s) := by
  cases b
  · exact ⟨s, rfl, h⟩
  · exact ⟨f s, rfl, hf s h⟩
theorem regSet_ok (r : Nat) (v : Word) {k : Cc} (h : CcOk k) : CcOk (regSet r v k) := by
  unfold regSet
  split
  · exact h
  · rename_i hr
    exact ⟨h.1, h.2.1, by simp only; rw [vget_vset_ne _ _ _ _ _ (by simpa using hr)]; exact h.2.2⟩
/-- A core whose Hopper is emptied. -/
theorem coreOk_clear {k k' : Core} (h : CoreOk k) (hm : k'.m.hop = []) (hc : k'.cc = k.cc) : CoreOk k' :=
  ⟨by rw [hm]; exact nil_wf, by rw [hc]; exact h.2⟩
/-- A core after its reset: no register, and the local memories as they were. -/
theorem coreOk_reset {k k' : Core} (h : CoreOk k) (hm : k'.m.hop = []) (hi : k'.cc.imem = k.cc.imem) (hd : k'.cc.dmem = k.cc.dmem)
    (hr : vget k'.cc.regs 0 0 = 0) : CoreOk k' :=
  ⟨by rw [hm]; exact nil_wf, by rw [hi]; exact h.2.1, by rw [hd]; exact h.2.2.1, hr⟩
/-- A write to the data memory. -/
theorem ccOk_dmem {k k' : Cc} {a : Nat} {bs : List Byte} (h : CcOk k) (hi : k'.imem = k.imem) (hd : k'.dmem = writeCells k.dmem a bs)
    (hr : k'.regs = k.regs) : CcOk k' :=
  ⟨by rw [hi]; exact h.1, by rw [hd]; exact writeCells_wf _ _ h.2.1, by rw [hr]; exact h.2.2⟩
theorem reset_sound : ∀ c, CoreOk (State.reset.core c) := by
  intro c
  simp only [State.core, State.reset, Vector.get_eq_getElem, Vector.getElem_replicate]
  exact ⟨rfl, rfl, rfl, rfl⟩
/-- A state whose cores and memory are those of reset, and whose store is the former one. -/
theorem asReset_keeps {t : State} (h : Keeps s₀ s) (hp : t.pending = s.pending) (hc : t.cores = State.reset.cores) (hm : t.mem = [])
    (hh : t.hub.store = s.hub.store) : Keeps s₀ t := by
  refine ⟨hp.trans h.1, fun x => (sound_iff _).mpr ?_⟩
  obtain ⟨_, h2, _⟩ := (sound_iff _).mp (h.2 x)
  refine ⟨by rw [hm]; exact nil_wf, by rw [hh]; exact h2, fun c => ?_⟩
  have : t.core c = State.reset.core c := by simp only [State.core, hc]
  rw [this]; exact reset_sound c

end Sys2Proof.Machine
end

