-- ==== Sys2Proof/Laws/KeepsOps.lean ====
section
/-! SUPPORT. One lemma for each shared operation: it keeps the invariant `Sound` and the queue of waiting commands (`Keeps`). -/
namespace Sys2Proof.Machine
open Sys2Proof
variable {s₀ s : State}

theorem dropScrub_keeps (hs : Keeps s₀ s) (a : Nat) : Keeps s₀ (dropScrub s a) := by
  unfold dropScrub; try dsimp only
  repeat (first | with_reducible assumption | with_reducible apply onM_keeps | with_reducible apply onDie_keeps
                | with_reducible apply ite_keeps | with_reducible exact keeps_refl _ | with_reducible intro _ | split
                | with_reducible exact ‹Memory.wf _ = true› | exact ‹CcOk _› | exact ‹CoreOk _›)
theorem writeRow_keeps (hs : Keeps s₀ s) (a : Nat) (r : Row) : Keeps s₀ (writeRow s a r) := by
  unfold writeRow; try dsimp only
  repeat (first | with_reducible assumption | with_reducible apply dropScrub_keeps | with_reducible apply ite_keeps
                | with_reducible exact keeps_refl _ | with_reducible intro _ | split | with_reducible apply writeRowAt_wf
                | with_reducible exact ‹Memory.wf _ = true› | exact ‹CcOk _› | exact ‹CoreOk _› | with_reducible apply withMem_keeps)
theorem writeRows_keeps (hs : Keeps s₀ s) (a : Nat) (rs : List Row) : Keeps s₀ (writeRows s a rs) := by
  induction rs generalizing s a with
  | nil => exact hs
  | cons r rs ih => exact ih (writeRow_keeps hs a r) _
theorem noteRisk_keeps (hs : Keeps s₀ s) (ecc : Ecc) : Keeps s₀ (noteRisk s ecc) := by
  unfold noteRisk; try dsimp only
  repeat (first | with_reducible assumption | with_reducible apply onHub_keeps | with_reducible apply ite_keeps
                | with_reducible exact keeps_refl _ | with_reducible intro _ | split | with_reducible exact ‹Memory.wf _ = true›
                | exact ‹CcOk _› | exact ‹CoreOk _›)
theorem hubSetBit_keeps (hs : Keeps s₀ s) (a : Nat) (mask : Nat) : Keeps s₀ (hubSetBit a mask s) := by
  unfold hubSetBit; try dsimp only
  repeat (first | with_reducible assumption | with_reducible apply onHub_keeps | with_reducible apply ite_keeps
                | with_reducible exact keeps_refl _ | with_reducible intro _ | split | with_reducible exact ‹Memory.wf _ = true›
                | exact ‹CcOk _› | exact ‹CoreOk _›)
theorem noteEcc_keeps (hs : Keeps s₀ s) (a : Nat) (ecc : Ecc) : Keeps s₀ (noteEcc s a ecc) := by
  unfold noteEcc; try dsimp only
  repeat (first | with_reducible assumption | with_reducible apply onSc_keeps | with_reducible apply onM_keeps
                | with_reducible apply onDie_keeps | with_reducible apply hubSetBit_keeps | with_reducible apply noteRisk_keeps
                | with_reducible apply ite_keeps | with_reducible exact keeps_refl _ | with_reducible intro _ | split
                | with_reducible exact ‹Memory.wf _ = true› | exact ‹CcOk _› | exact ‹CoreOk _›)
theorem noteHopperEcc_keeps (hs : Keeps s₀ s) (c : CoreId) (row : Nat) (ecc : Ecc) : Keeps s₀ (noteHopperEcc s c row ecc) := by
  unfold noteHopperEcc; try dsimp only
  repeat (first | with_reducible assumption | with_reducible apply onSc_keeps | with_reducible apply onM_keeps
                | with_reducible apply noteRisk_keeps | with_reducible apply ite_keeps | with_reducible exact keeps_refl _
                | with_reducible intro _ | split | with_reducible exact ‹Memory.wf _ = true› | exact ‹CcOk _› | exact ‹CoreOk _›)
theorem trace_keeps (hs : Keeps s₀ s) (c : CoreId) (q : Nat) (kind : Nat) (tag : Nat) : Keeps s₀ (trace c q kind tag s) := by
  unfold trace; try dsimp only
  repeat (first | with_reducible assumption | with_reducible apply onCc_keeps | with_reducible apply ite_keeps
                | with_reducible exact keeps_refl _ | with_reducible intro _ | split | with_reducible exact ‹Memory.wf _ = true›
                | exact ‹CcOk _› | exact ‹CoreOk _›)
theorem hostFault_keeps (hs : Keeps s₀ s) (bits : BitVec 512) : Keeps s₀ (hostFault bits s) := by
  unfold hostFault; try dsimp only
  repeat (first | with_reducible assumption | with_reducible apply onHl_keeps | with_reducible apply ite_keeps
                | with_reducible exact keeps_refl _ | with_reducible intro _ | split)
theorem attention_keeps (hs : Keeps s₀ s) (bit : Nat) : Keeps s₀ (attention bit s) := by
  unfold attention; try dsimp only
  repeat (first | with_reducible assumption | with_reducible apply onHl_keeps | with_reducible apply hubSetBit_keeps
                | with_reducible apply ite_keeps | with_reducible exact keeps_refl _ | with_reducible intro _ | split)
theorem keepRecord_keeps (hs : Keeps s₀ s) (bits : BitVec 512) : Keeps s₀ (keepRecord bits s) := by
  unfold keepRecord; try dsimp only
  repeat (first | with_reducible assumption | with_reducible apply onHl_keeps | with_reducible apply attention_keeps
                | with_reducible apply ite_keeps | with_reducible exact keeps_refl _ | with_reducible intro _ | split)
theorem headlandCopy_keeps (hs : Keeps s₀ s) (cls : Nat) (bits : BitVec 512) : Keeps s₀ (headlandCopy cls bits s) := by
  unfold headlandCopy; try dsimp only
  repeat (first | with_reducible assumption | with_reducible apply hostFault_keeps | with_reducible apply keepRecord_keeps
                | with_reducible apply ite_keeps | with_reducible exact keeps_refl _ | with_reducible intro _ | split)
theorem headlandFault_keeps (hs : Keeps s₀ s) (f : Flt) : Keeps s₀ (headlandFault f s) := by
  unfold headlandFault; try dsimp only
  repeat (first | with_reducible assumption | with_reducible apply headlandCopy_keeps | with_reducible apply ite_keeps
                | with_reducible exact keeps_refl _ | with_reducible intro _ | split)
theorem postFault_keeps (hs : Keeps s₀ s) (c : CoreId) (f : Flt) : Keeps s₀ (postFault c f s) := by
  unfold postFault; try dsimp only
  repeat (first | with_reducible assumption | with_reducible apply onCore_keeps | with_reducible apply onCc_keeps
                | with_reducible apply headlandCopy_keeps | with_reducible apply trace_keeps | with_reducible apply ite_keeps
                | with_reducible exact keeps_refl _ | with_reducible intro _ | split | with_reducible exact ‹Memory.wf _ = true›
                | exact ‹CcOk _› | exact ‹CoreOk _›)
theorem coreWrite_keeps (hs : Keeps s₀ s) (c : CoreId) (source : Nat) (tag : Nat) (ctx : Nat) (h : Nat) (logical : Nat) (a : Nat) (r : Row) :
    Keeps s₀ (coreWrite c source tag ctx h logical a r s) := by
  unfold coreWrite; try dsimp only
  repeat (first | with_reducible assumption | with_reducible apply postFault_keeps | with_reducible apply writeRow_keeps
                | with_reducible apply ite_keeps | with_reducible exact keeps_refl _ | with_reducible intro _ | split)
theorem coreRead_keeps (hs : Keeps s₀ s) (c : CoreId) (source : Nat) (tag : Nat) (ctx : Nat) (h : Nat) (logical : Nat) (a : Nat) :
    Keeps s₀ (coreRead c source tag ctx h logical a s).2 := by
  unfold coreRead; try dsimp only
  repeat (first | with_reducible assumption | with_reducible apply postFault_keeps | with_reducible apply ite_keeps
                | with_reducible exact keeps_refl _ | with_reducible intro _ | split)
theorem pushReq_keeps (hs : Keeps s₀ s) (c : CoreId) (n : Nat) : Keeps s₀ (pushReq c n s) := by
  unfold pushReq; try dsimp only
  repeat (first | with_reducible assumption | with_reducible apply onSc_keeps | with_reducible apply onDie_keeps
                | with_reducible apply ite_keeps | with_reducible exact keeps_refl _ | with_reducible intro _ | split)
theorem checkRelease_keeps (hs : Keeps s₀ s) (c : CoreId) : Keeps s₀ (checkRelease c s) := by
  unfold checkRelease; try dsimp only
  repeat (first | with_reducible assumption | with_reducible apply onSc_keeps | with_reducible apply pushReq_keeps
                | with_reducible apply ite_keeps | with_reducible exact keeps_refl _ | with_reducible intro _ | split)
theorem arriveStake_keeps (hs : Keeps s₀ s) (c : CoreId) (k : Nat) (n : Nat) : Keeps s₀ (arriveStake c k n s) := by
  unfold arriveStake; try dsimp only
  repeat (first | with_reducible assumption | with_reducible apply onSc_keeps | with_reducible apply checkRelease_keeps
                | with_reducible apply ite_keeps | with_reducible exact keeps_refl _ | with_reducible intro _ | split)
theorem fresh_keeps (hs : Keeps s₀ s) : Keeps s₀ (State.fresh s) := by
  unfold State.fresh; try dsimp only
  repeat (first | with_reducible assumption | with_reducible apply ite_keeps | with_reducible exact keeps_refl _ | with_reducible intro _
                | split | with_reducible apply withFree_keeps)
theorem readH_keeps (hs : Keeps s₀ s) (c : CoreId) (source : Nat) (tag : Nat) (ctx : Nat) (h : Nat) (i : Int) :
    Keeps s₀ (readH c source tag ctx h i s).2 := by
  unfold readH; try dsimp only
  repeat (first | with_reducible assumption | with_reducible apply postFault_keeps | with_reducible apply ite_keeps
                | with_reducible exact keeps_refl _ | with_reducible intro _ | split)
theorem writeH_keeps (hs : Keeps s₀ s) (c : CoreId) (source : Nat) (tag : Nat) (ctx : Nat) (h : Nat) (i : Int) (r : Row) :
    Keeps s₀ (writeH c source tag ctx h i r s) := by
  have h1 : ∀ w k d, Keeps s₀ (s.onM c (noteWas w k d)) := fun w k d => onM_keeps hs c _ fun m hm => hm
  unfold writeH
  dsimp only
  split
  · exact postFault_keeps hs _ _
  · split
    · exact postFault_keeps hs _ _
    · exact writeRow_keeps (h1 _ _ _) _ _
theorem foldWrite_keeps (hs : Keeps s₀ s) (c : CoreId) (q : Nat) (tag : Nat) (a : Nat) (d : Row) : Keeps s₀ (foldWrite c q tag a d s) := by
  unfold foldWrite; try dsimp only
  repeat (first | with_reducible assumption | with_reducible apply onE_keeps | with_reducible apply ite_keeps
                | with_reducible exact keeps_refl _ | with_reducible intro _ | split)
theorem faultCore_keeps (hs : Keeps s₀ s) (c : CoreId) : Keeps s₀ (faultCore c s) := by
  unfold faultCore; try dsimp only
  repeat (first | with_reducible assumption | with_reducible apply onSc_keeps | with_reducible apply ite_keeps
                | with_reducible exact keeps_refl _ | with_reducible intro _ | split)
theorem lsCompare_keeps (hs : Keeps s₀ s) (a : FoldRec) (b : FoldRec) (ctx : Nat) (cyc : Nat) : Keeps s₀ (lsCompare a b ctx cyc s) := by
  unfold lsCompare; try dsimp only
  repeat (first | with_reducible assumption | with_reducible apply onLs_keeps | with_reducible apply attention_keeps
                | with_reducible apply faultCore_keeps | with_reducible apply headlandFault_keeps | with_reducible apply hubSetBit_keeps
                | with_reducible apply postFault_keeps | with_reducible apply ite_keeps | with_reducible exact keeps_refl _
                | with_reducible intro _ | split)
theorem lsGap_keeps (hs : Keeps s₀ s) (n : Nat) : Keeps s₀ (lsGap n s) := by
  unfold lsGap; try dsimp only
  repeat (first | with_reducible assumption | with_reducible apply onLs_keeps | with_reducible apply hubSetBit_keeps
                | with_reducible apply ite_keeps | with_reducible exact keeps_refl _ | with_reducible intro _ | split)
theorem lsKeep_keeps (hs : Keeps s₀ s) (r : FoldRec) (ctx : Nat) (cyc : Nat) : Keeps s₀ (lsKeep r ctx cyc s) := by
  unfold lsKeep; try dsimp only
  repeat (first | with_reducible assumption | with_reducible apply onLs_keeps | with_reducible apply lsCompare_keeps
                | with_reducible apply lsGap_keeps | with_reducible apply ite_keeps | with_reducible exact keeps_refl _
                | with_reducible intro _ | split)
theorem lsLocal_keeps (hs : Keeps s₀ s) (r : FoldRec) (ctx : Nat) (cyc : Nat) : Keeps s₀ (lsLocal r ctx cyc s) := by
  unfold lsLocal; try dsimp only
  repeat (first | with_reducible assumption | with_reducible apply onLs_keeps | with_reducible apply lsKeep_keeps
                | with_reducible apply ite_keeps | with_reducible exact keeps_refl _ | with_reducible intro _ | split)
theorem lsPeer_keeps (hs : Keeps s₀ s) (r : FoldRec) : Keeps s₀ (lsPeer r s) := by
  unfold lsPeer; try dsimp only
  repeat (first | with_reducible assumption | with_reducible apply onLs_keeps | with_reducible apply lsCompare_keeps
                | with_reducible apply lsGap_keeps | with_reducible apply ite_keeps | with_reducible exact keeps_refl _
                | with_reducible intro _ | split)
theorem handFold_keeps (hs : Keeps s₀ s) (c : CoreId) (fault : Bool) : Keeps s₀ (handFold c fault s) := by
  unfold handFold; try dsimp only
  repeat (first | with_reducible assumption | with_reducible apply onE_keeps | with_reducible apply lsLocal_keeps
                | with_reducible apply ite_keeps | with_reducible exact keeps_refl _ | with_reducible intro _ | split)
theorem onWgt_keeps (hs : Keeps s₀ s) (x : CtxId) (f : WgtCtx → WgtCtx) : Keeps s₀ (State.onWgt s x f) := by
  unfold State.onWgt; try dsimp only
  repeat (first | with_reducible assumption | with_reducible apply onHub_keeps | with_reducible apply ite_keeps
                | with_reducible exact keeps_refl _ | with_reducible intro _ | split | with_reducible exact ‹Memory.wf _ = true›
                | exact ‹CcOk _› | exact ‹CoreOk _›)
theorem onSlot_keeps (hs : Keeps s₀ s) (x : CtxId) (k : Nat) (f : WLoad → WLoad) : Keeps s₀ (State.onSlot s x k f) := by
  unfold State.onSlot; try dsimp only
  repeat (first | with_reducible assumption | with_reducible apply onWgt_keeps | with_reducible apply ite_keeps
                | with_reducible exact keeps_refl _ | with_reducible intro _ | split)
theorem onShard_keeps (hs : Keeps s₀ s) (x : CtxId) (k : Nat) (j : Nat) (f : Shard → Shard) : Keeps s₀ (State.onShard s x k j f) := by
  unfold State.onShard; try dsimp only
  repeat (first | with_reducible assumption | with_reducible apply onSlot_keeps | with_reducible apply ite_keeps
                | with_reducible exact keeps_refl _ | with_reducible intro _ | split)
theorem queueDigest_keeps (hs : Keeps s₀ s) (x : CtxId) (k : Nat) (j : Nat) (re : Bool) : Keeps s₀ (queueDigest x k j re s) := by
  unfold queueDigest; try dsimp only
  repeat (first | with_reducible assumption | with_reducible apply onHub_keeps | with_reducible apply ite_keeps
                | with_reducible exact keeps_refl _ | with_reducible intro _ | split | with_reducible exact ‹Memory.wf _ = true›
                | exact ‹CcOk _› | exact ‹CoreOk _›)
theorem recheckRow_keeps (hs : Keeps s₀ s) (a : Nat) : Keeps s₀ (recheckRow a s) := by
  unfold recheckRow; try dsimp only
  repeat (first | with_reducible assumption | with_reducible apply forAll_keeps | with_reducible apply onShard_keeps
                | with_reducible apply queueDigest_keeps | with_reducible apply ite_keeps | with_reducible exact keeps_refl _
                | with_reducible intro _ | split)
theorem ccEvent_keeps (hs : Keeps s₀ s) (c : CoreId) (b : Nat) : Keeps s₀ (ccEvent c b s) := by
  unfold ccEvent; try dsimp only
  repeat (first | with_reducible assumption | with_reducible apply onCore_keeps | with_reducible apply ite_keeps
                | with_reducible exact keeps_refl _ | with_reducible intro _ | split | with_reducible exact ‹Memory.wf _ = true›
                | exact ‹CcOk _› | exact ‹CoreOk _›)
theorem dropOrdered_keeps (hs : Keeps s₀ s) (c : CoreId) : Keeps s₀ (dropOrdered c s) := by
  unfold dropOrdered; try dsimp only
  repeat (first | with_reducible assumption | with_reducible apply onCc_keeps | with_reducible apply ite_keeps
                | with_reducible exact keeps_refl _ | with_reducible intro _ | split | with_reducible exact ‹Memory.wf _ = true›
                | exact ‹CcOk _› | exact ‹CoreOk _›)
theorem dropRequests_keeps (hs : Keeps s₀ s) (c : CoreId) : Keeps s₀ (dropRequests c s) := by
  unfold dropRequests; try dsimp only
  repeat (first | with_reducible assumption | with_reducible apply onSc_keeps | with_reducible apply onDie_keeps
                | with_reducible apply ite_keeps | with_reducible exact keeps_refl _ | with_reducible intro _ | split)
theorem endByFault_keeps (hs : Keeps s₀ s) (c : CoreId) : Keeps s₀ (endByFault c s) := by
  unfold endByFault; try dsimp only
  repeat (first | with_reducible assumption | with_reducible apply onSc_keeps | with_reducible apply onE_keeps
                | with_reducible apply next_keeps | with_reducible apply ccEvent_keeps | with_reducible apply dropOrdered_keeps
                | with_reducible apply dropRequests_keeps | with_reducible apply handFold_keeps | with_reducible apply launchPoint_keeps
                | with_reducible apply trace_keeps | with_reducible apply ite_keeps | with_reducible exact keeps_refl _
                | with_reducible intro _ | split)
theorem hazardStop_keeps (hs : Keeps s₀ s) (c : CoreId) (source : Nat) (tag : Nat) (check : Nat) (row : Nat) :
    Keeps s₀ (hazardStop c source tag check row s) := by
  unfold hazardStop; try dsimp only
  repeat (first | with_reducible assumption | with_reducible apply onSc_keeps | with_reducible apply endByFault_keeps
                | with_reducible apply postFault_keeps | with_reducible apply ite_keeps | with_reducible exact keeps_refl _
                | with_reducible intro _ | split)
theorem addStake_keeps (hs : Keeps s₀ s) (c : CoreId) (k : Nat) (n : Nat) (source : Nat) (tag : Nat) :
    Keeps s₀ (addStake c k n source tag s) := by
  unfold addStake; try dsimp only
  repeat (first | with_reducible assumption | with_reducible apply arriveStake_keeps | with_reducible apply hazardStop_keeps
                | with_reducible apply ite_keeps | with_reducible exact keeps_refl _ | with_reducible intro _ | split)
theorem performArrival_keeps (hs : Keeps s₀ s) (c : CoreId) (ahq : Option Nat) (h : Nat) (stk : Nat) (n : Nat) (tag : Nat) :
    Keeps s₀ (performArrival c ahq h stk n tag s) := by
  unfold performArrival; try dsimp only
  repeat (first | with_reducible assumption | with_reducible apply onCore_keeps | with_reducible apply addStake_keeps
                | with_reducible apply trace_keeps | with_reducible apply ite_keeps | with_reducible exact keeps_refl _
                | with_reducible intro _ | split | with_reducible exact ‹Memory.wf _ = true› | exact ‹CcOk _› | exact ‹CoreOk _›)
theorem arrive_keeps (hs : Keeps s₀ s) (c : CoreId) (ahq : Option Nat) (h : Nat) (stk : Nat) (n : Nat) (tag : Nat) (more : Nat → Nat) :
    Keeps s₀ (arrive c ahq h stk n tag more s) := by
  unfold arrive; try dsimp only
  repeat (first | with_reducible assumption | with_reducible apply onSc_keeps | with_reducible apply performArrival_keeps
                | with_reducible apply ite_keeps | with_reducible exact keeps_refl _ | with_reducible intro _ | split)
theorem readFault_keeps (hs : Keeps s₀ s) (c : CoreId) (source : Nat) (tag : Nat) (ctx : Nat) (tier : Nat) (row : Nat) (ecc : Ecc) :
    Keeps s₀ (readFault c source tag ctx tier row ecc s) := by
  unfold readFault; try dsimp only
  repeat (first | with_reducible assumption | with_reducible apply endByFault_keeps | with_reducible apply postFault_keeps
                | with_reducible apply ite_keeps | with_reducible exact keeps_refl _ | with_reducible intro _ | split)
theorem readErr_keeps (hs : Keeps s₀ s) (c : CoreId) (source : Nat) (tag : Nat) (ctx : Nat) (k : Nat) (a : Nat) (err : ReadErr) (d : Row) :
    Keeps s₀ (readErr c source tag ctx k a err d s).2 := by
  unfold readErr; try dsimp only
  repeat (first | with_reducible assumption | with_reducible apply noteEcc_keeps | with_reducible apply readFault_keeps
                | with_reducible apply ite_keeps | with_reducible exact keeps_refl _ | with_reducible intro _ | split)
theorem readHopErr_keeps (hs : Keeps s₀ s) (c : CoreId) (source : Nat) (tag : Nat) (ctx : Nat) (k : Nat) (hrow : Nat) (err : ReadErr) (d : Row) :
    Keeps s₀ (readHopErr c source tag ctx k hrow err d s).2 := by
  unfold readHopErr; try dsimp only
  repeat (first | with_reducible assumption | with_reducible apply noteHopperEcc_keeps | with_reducible apply readFault_keeps
                | with_reducible apply ite_keeps | with_reducible exact keeps_refl _ | with_reducible intro _ | split)
theorem putItemAt_keeps (hs : Keeps s₀ s) (depth : Nat) (i : Item) : Keeps s₀ (putItemAt depth i s) := by
  induction depth generalizing i with
  | zero =>
    unfold putItemAt
    split
    · exact hs
    · exact hs
    · exact hs
    · rename_i e _; cases e
  | succ n ih =>
    unfold putItemAt
    split
    · exact hs
    · exact hs
    · exact hs
    · rename_i e _
      cases e
      dsimp only
      split
      · exact hs
      · exact ih _
theorem putItem_keeps (hs : Keeps s₀ s) (i : Item) : Keeps s₀ (putItem i s) := by
  unfold putItem; try dsimp only
  repeat (first | with_reducible assumption | with_reducible apply putItemAt_keeps | with_reducible apply ite_keeps
                | with_reducible exact keeps_refl _ | with_reducible intro _ | split)
theorem hopWrite_keeps (hs : Keeps s₀ s) (c : CoreId) (r : Nat) (d : Row) : Keeps s₀ (hopWrite c r d s) :=
  onM_keeps hs _ _ fun _ h => writeRowAt_wf _ _ h
theorem fillData_keeps (hs : Keeps s₀ s) (x : Xfer) (w : FillWrite) : Keeps s₀ (fillData x w s).2 := by
  unfold fillData; try dsimp only
  repeat (first | with_reducible assumption | with_reducible apply fresh_keeps | with_reducible apply ite_keeps
                | with_reducible exact keeps_refl _ | with_reducible intro _ | split)
theorem setXfer_keeps (hs : Keeps s₀ s) (c : CoreId) (x : Xfer) : Keeps s₀ (setXfer c x s) := by
  unfold setXfer; try dsimp only
  repeat (first | with_reducible assumption | with_reducible apply onE_keeps | with_reducible apply ite_keeps
                | with_reducible exact keeps_refl _ | with_reducible intro _ | split)
theorem handOut_keeps (hs : Keeps s₀ s) (c : CoreId) (x : Xfer) (k : Nat) (d : Row) : Keeps s₀ (handOut c x k d s) := by
  unfold handOut; try dsimp only
  repeat (first | with_reducible assumption | with_reducible apply onE_keeps | with_reducible apply onHl_keeps
                | with_reducible apply foldWrite_keeps | with_reducible apply postFault_keeps | with_reducible apply putItem_keeps
                | with_reducible apply ite_keeps | with_reducible exact keeps_refl _ | with_reducible intro _ | split)
theorem sendReqs_keeps (hs : Keeps s₀ s) (c : CoreId) (n : Nat) : Keeps s₀ (sendReqs c n s) := by
  induction n generalizing s with
  | zero => exact hs
  | succ n ih =>
    unfold sendReqs; try dsimp only
    repeat (first | with_reducible apply ih | with_reducible assumption | with_reducible apply onE_keeps
                  | with_reducible apply putItem_keeps | with_reducible apply ite_keeps | with_reducible exact keeps_refl _
                  | with_reducible intro _ | split)
theorem handIn_keeps (hs : Keeps s₀ s) (c : CoreId) (x : Xfer) : Keeps s₀ (handIn c x s) := by
  unfold handIn; try dsimp only
  repeat (first | with_reducible assumption | with_reducible apply onE_keeps | with_reducible apply sendReqs_keeps
                | with_reducible apply ite_keeps | with_reducible exact keeps_refl _ | with_reducible intro _ | split)
theorem gateCommand_keeps (hs : Keeps s₀ s) (c : CoreId) (x : Xfer) (un : Bool) : Keeps s₀ (gateCommand c x un s) := by
  unfold gateCommand; try dsimp only
  repeat (first | with_reducible assumption | with_reducible apply onDie_keeps | with_reducible apply postFault_keeps
                | with_reducible apply ite_keeps | with_reducible exact keeps_refl _ | with_reducible intro _ | split)
theorem xferCycle_keeps (hs : Keeps s₀ s) (c : CoreId) (u : Nat) (x : Xfer) : Keeps s₀ (xferCycle c u x s) := by
  unfold xferCycle; try dsimp only
  repeat (first | with_reducible assumption | with_reducible apply onE_keeps | with_reducible apply forAll_keeps
                | with_reducible apply arrive_keeps | with_reducible apply fillData_keeps | with_reducible apply foldWrite_keeps
                | with_reducible apply gateCommand_keeps | with_reducible apply handIn_keeps | with_reducible apply handOut_keeps
                | with_reducible apply hopWrite_keeps | with_reducible apply readErr_keeps | with_reducible apply readH_keeps
                | with_reducible apply setXfer_keeps | with_reducible apply writeH_keeps | with_reducible apply ite_keeps
                | with_reducible exact keeps_refl _ | with_reducible intro _ | split)
theorem tqCycle_keeps (hs : Keeps s₀ s) (c : CoreId) (u : Nat) : Keeps s₀ (tqCycle c u s) := by
  unfold tqCycle; try dsimp only
  repeat (first | with_reducible assumption | with_reducible apply onE_keeps | with_reducible apply forAll_keeps
                | with_reducible apply xferCycle_keeps | with_reducible apply ite_keeps | with_reducible exact keeps_refl _
                | with_reducible intro _ | split)
theorem hazardCheck_keeps (hs : Keeps s₀ s) (c : CoreId) : Keeps s₀ (hazardCheck c s) := by
  unfold hazardCheck; try dsimp only
  repeat (first | with_reducible assumption | with_reducible apply hazardStop_keeps | with_reducible apply ite_keeps
                | with_reducible exact keeps_refl _ | with_reducible intro _ | split)
theorem beginStall_keeps (hs : Keeps s₀ s) (c : CoreId) (bs : List Blocked) : Keeps s₀ (beginStall c bs s) := by
  unfold beginStall; try dsimp only
  repeat (first | with_reducible assumption | with_reducible apply onSc_keeps | with_reducible apply checkRelease_keeps
                | with_reducible apply trace_keeps | with_reducible apply ite_keeps | with_reducible exact keeps_refl _
                | with_reducible intro _ | split)
theorem engRead_keeps (hs : Keeps s₀ s) (c : CoreId) (source : Nat) (tag : Nat) (ctx : Nat) (h : Nat) (k : Nat) (i : Int) (err : ReadErr) :
    Keeps s₀ (engRead c source tag ctx h k i err s).2 := by
  unfold engRead; try dsimp only
  repeat (first | with_reducible assumption | with_reducible apply readErr_keeps | with_reducible apply readH_keeps
                | with_reducible apply ite_keeps | with_reducible exact keeps_refl _ | with_reducible intro _ | split)
theorem hrwCycle_keeps (hs : Keeps s₀ s) (c : CoreId) (u : Nat) : Keeps s₀ (hrwCycle c u s) := by
  unfold hrwCycle; try dsimp only
  repeat (first | with_reducible assumption | with_reducible apply onE_keeps | with_reducible apply forAll_keeps
                | with_reducible apply engRead_keeps | with_reducible apply ite_keeps | with_reducible exact keeps_refl _
                | with_reducible intro _ | split)
theorem tlrReads_keeps (hs : Keeps s₀ s) (c : CoreId) (e : Nat) (k : Nat) (r : TlrRun) : Keeps s₀ (tlrReads c e k r s).2 :=
  foldl_keeps Prod.snd _ _ _ hs fun _ _ h => readHopErr_keeps h _ _ _ _ _ _ _ 0
theorem tlrCycle_keeps (hs : Keeps s₀ s) (c : CoreId) (u : Nat) : Keeps s₀ (tlrCycle c u s) := by
  unfold tlrCycle; try dsimp only
  repeat (first | with_reducible assumption | with_reducible apply onCore_keeps | with_reducible apply onE_keeps
                | with_reducible apply forAll_keeps | with_reducible apply addStake_keeps | with_reducible apply postFault_keeps
                | with_reducible apply tlrReads_keeps | with_reducible apply ite_keeps | with_reducible exact keeps_refl _
                | with_reducible intro _ | split | with_reducible exact ‹Memory.wf _ = true› | exact ‹CcOk _› | exact ‹CoreOk _›)
theorem takeTlrFeeds_keeps (hs : Keeps s₀ s) (c : CoreId) : Keeps s₀ (takeTlrFeeds c s) := by
  unfold takeTlrFeeds; try dsimp only
  repeat (first | with_reducible assumption | with_reducible apply onSc_keeps | with_reducible apply forAll_keeps
                | with_reducible apply ite_keeps | with_reducible exact keeps_refl _ | with_reducible intro _ | split)
theorem plgReads_keeps (hs : Keeps s₀ s) (c : CoreId) (k : Nat) (half : Nat) (r : PlgRun) : Keeps s₀ (plgReads c k half r s).2 :=
  foldl_keeps Prod.snd _ _ _ hs fun _ _ h => readHopErr_keeps h _ _ _ _ _ _ _ 0
theorem plgCycle_keeps (hs : Keeps s₀ s) (c : CoreId) (u : Nat) : Keeps s₀ (plgCycle c u s) := by
  unfold plgCycle; try dsimp only
  repeat (first | with_reducible assumption | with_reducible apply onE_keeps | with_reducible apply forAll_keeps
                | with_reducible apply plgReads_keeps | with_reducible apply ite_keeps | with_reducible exact keeps_refl _
                | with_reducible intro _ | split)
theorem takeProg_ok {k : Cc} (h : CcOk k) (g : ProgCopy) (w : Nat) (d : Row) : CcOk (takeProg g w d k) := by
  unfold takeProg; dsimp only
  split
  · exact ⟨writeCells_wf _ _ h.1, h.2⟩
  · exact ⟨h.1, writeCells_wf _ _ h.2.1, h.2.2⟩
theorem progPass_keeps (hs : Keeps s₀ s) (c : CoreId) (p : Pass) (end_ : Nat) (n : Nat) : Keeps s₀ (progPass c p end_ n s) := by
  induction n generalizing s with
  | zero => exact hs
  | succ n ih =>
    unfold progPass
    split
    · exact hs
    · exact ite_keeps (fun _ => hs) fun _ => ih (onCc_keeps hs _ _ fun _ h => takeProg_ok h _ _ _)
theorem pass7_keeps (hs : Keeps s₀ s) (c : CoreId) (p : Pass) (n : Nat) : Keeps s₀ (pass7 c p n s) := by
  unfold pass7; try dsimp only
  repeat (first | with_reducible assumption | with_reducible apply onCore_keeps | with_reducible apply progPass_keeps
                | with_reducible apply ite_keeps | with_reducible exact keeps_refl _ | with_reducible intro _ | split
                | with_reducible exact ‹Memory.wf _ = true› | exact ‹CcOk _› | exact ‹CoreOk _›)
theorem stallPass_keeps (hs : Keeps s₀ s) (c : CoreId) (n : Nat) : Keeps s₀ (stallPass c n s) := by
  unfold stallPass; try dsimp only
  repeat (first | with_reducible assumption | with_reducible apply onCore_keeps | with_reducible apply pass7_keeps
                | with_reducible apply ite_keeps | with_reducible exact keeps_refl _ | with_reducible intro _ | split
                | with_reducible exact ‹Memory.wf _ = true› | exact ‹CcOk _› | exact ‹CoreOk _›)
theorem schedJump_keeps (hs : Keeps s₀ s) (c : CoreId) (n : Nat) : Keeps s₀ (schedJump c n s) := by
  unfold schedJump; try dsimp only
  repeat (first | with_reducible assumption | with_reducible apply onCore_keeps | with_reducible apply pass7_keeps
                | with_reducible apply ite_keeps | with_reducible exact keeps_refl _ | with_reducible intro _ | split
                | with_reducible exact ‹Memory.wf _ = true› | exact ‹CcOk _› | exact ‹CoreOk _›)
theorem idlePass_keeps (hs : Keeps s₀ s) (c : CoreId) (n : Nat) : Keeps s₀ (idlePass c n s) := by
  unfold idlePass; try dsimp only
  repeat (first | with_reducible assumption | with_reducible apply onSc_keeps | with_reducible apply pass7_keeps
                | with_reducible apply ite_keeps | with_reducible exact keeps_refl _ | with_reducible intro _ | split)
theorem runCycles_keeps (hs : Keeps s₀ s) (c : CoreId) (n : Nat) : Keeps s₀ (runCycles c n s) := by
  induction n generalizing s with
  | zero => exact hs
  | succ n ih =>
    unfold runCycles; try dsimp only
    repeat (first | with_reducible apply ih | with_reducible assumption | with_reducible apply beginStall_keeps
                  | with_reducible apply hazardCheck_keeps | with_reducible apply hrwCycle_keeps | with_reducible apply idlePass_keeps
                  | with_reducible apply plgCycle_keeps | with_reducible apply schedJump_keeps | with_reducible apply stallPass_keeps
                  | with_reducible apply takeTlrFeeds_keeps | with_reducible apply tlrCycle_keeps | with_reducible apply tqCycle_keeps
                  | with_reducible apply ite_keeps | with_reducible exact keeps_refl _ | with_reducible intro _ | split)
theorem advance_keeps (hs : Keeps s₀ s) (c : CoreId) (t : Nat) : Keeps s₀ (advance c t s) := by
  unfold advance; try dsimp only
  repeat (first | with_reducible assumption | with_reducible apply idlePass_keeps | with_reducible apply runCycles_keeps
                | with_reducible apply stallPass_keeps | with_reducible apply ite_keeps | with_reducible exact keeps_refl _
                | with_reducible intro _ | split)
theorem arriveNow_keeps (hs : Keeps s₀ s) (c : CoreId) (ahq : Option Nat) (h : Nat) (stk : Nat) (n : Nat) (tag : Nat) :
    Keeps s₀ (arriveNow c ahq h stk n tag s) := by
  unfold arriveNow; try dsimp only
  repeat (first | with_reducible assumption | with_reducible apply arrive_keeps | with_reducible apply ite_keeps
                | with_reducible exact keeps_refl _ | with_reducible intro _ | split)
theorem use7_keeps (hs : Keeps s₀ s) (c : CoreId) (row : Nat) : Keeps s₀ (use7 c row s) := by
  unfold use7; try dsimp only
  repeat (first | with_reducible assumption | with_reducible apply onM_keeps | with_reducible apply ite_keeps
                | with_reducible exact keeps_refl _ | with_reducible intro _ | split | with_reducible exact ‹Memory.wf _ = true›
                | exact ‹CcOk _› | exact ‹CoreOk _›)
theorem rootWrite_keeps (hs : Keeps s₀ s) (c : CoreId) (r : RootRun) : Keeps s₀ (rootWrite c r s) := by
  unfold rootWrite; try dsimp only
  repeat (first | with_reducible assumption | with_reducible apply onSc_keeps | with_reducible apply onE_keeps
                | with_reducible apply foldWrite_keeps | with_reducible apply writeH_keeps | with_reducible apply ite_keeps
                | with_reducible exact keeps_refl _ | with_reducible intro _ | split)
theorem setHandle_keeps (hs : Keeps s₀ s) (c : CoreId) (h : Nat) (w : IWord) : Keeps s₀ (setHandle c h w s) := by
  unfold setHandle; try dsimp only
  repeat (first | with_reducible assumption | with_reducible apply onM_keeps | with_reducible apply ite_keeps
                | with_reducible exact keeps_refl _ | with_reducible intro _ | split | with_reducible exact ‹Memory.wf _ = true›
                | exact ‹CcOk _› | exact ‹CoreOk _›)
theorem setRes_keeps (hs : Keeps s₀ s) (c : CoreId) (h : Nat) (v : Nat) : Keeps s₀ (setRes c h v s) := by
  unfold setRes; try dsimp only
  repeat (first | with_reducible assumption | with_reducible apply setHandle_keeps | with_reducible apply ite_keeps
                | with_reducible exact keeps_refl _ | with_reducible intro _ | split)
theorem startPageOut_keeps (hs : Keeps s₀ s) (d : DieId) (c : CoreId) (h : Nat) : Keeps s₀ (startPageOut d c h s) := by
  unfold startPageOut; try dsimp only
  repeat (first | with_reducible assumption | with_reducible apply onDie_keeps | with_reducible apply setRes_keeps
                | with_reducible apply ite_keeps | with_reducible exact keeps_refl _ | with_reducible intro _ | split)
theorem makeRoom_keeps (hs : Keeps s₀ s) (d : DieId) (x : Nat) (n : Nat) : Keeps s₀ (makeRoom d x n s) := by
  unfold makeRoom; try dsimp only
  repeat (first | with_reducible assumption | with_reducible apply forAll_keeps | with_reducible apply startPageOut_keeps
                | with_reducible apply ite_keeps | with_reducible exact keeps_refl _ | with_reducible intro _ | split)
theorem beginPageIn_keeps (hs : Keeps s₀ s) (c : CoreId) (h : Nat) (p : Nat) (n : Nat) : Keeps s₀ (beginPageIn c h p n s) := by
  unfold beginPageIn; try dsimp only
  repeat (first | with_reducible assumption | with_reducible apply onM_keeps | with_reducible apply onDie_keeps
                | with_reducible apply ite_keeps | with_reducible exact keeps_refl _ | with_reducible intro _ | split
                | with_reducible exact ‹Memory.wf _ = true› | exact ‹CcOk _› | exact ‹CoreOk _›)
theorem serveAlloc_keeps (hs : Keeps s₀ s) (d : DieId) (n : Nat) : Keeps s₀ (serveAlloc d n s) := by
  induction n generalizing s with
  | zero => exact hs
  | succ n ih =>
    unfold serveAlloc; try dsimp only
    repeat (first | with_reducible apply ih | with_reducible assumption | with_reducible apply beginPageIn_keeps
                  | with_reducible apply makeRoom_keeps | with_reducible apply ite_keeps | with_reducible exact keeps_refl _
                  | with_reducible intro _ | split)
theorem serve_keeps (hs : Keeps s₀ s) (d : DieId) : Keeps s₀ (serve d s) := by
  unfold serve; try dsimp only
  repeat (first | with_reducible assumption | with_reducible apply serveAlloc_keeps | with_reducible apply ite_keeps
                | with_reducible exact keeps_refl _ | with_reducible intro _ | split)
theorem askAlloc_keeps (hs : Keeps s₀ s) (c : CoreId) (h : Option Nat) : Keeps s₀ (askAlloc c h s) := by
  unfold askAlloc; try dsimp only
  repeat (first | with_reducible assumption | with_reducible apply onDie_keeps | with_reducible apply serve_keeps
                | with_reducible apply ite_keeps | with_reducible exact keeps_refl _ | with_reducible intro _ | split)
theorem allocDone_keeps (hs : Keeps s₀ s) (d : DieId) : Keeps s₀ (allocDone d s) := by
  unfold allocDone; try dsimp only
  repeat (first | with_reducible assumption | with_reducible apply onDie_keeps | with_reducible apply serve_keeps
                | with_reducible apply ite_keeps | with_reducible exact keeps_refl _ | with_reducible intro _ | split)
theorem startPageIns_keeps (hs : Keeps s₀ s) (c : CoreId) (hs : List Nat) : Keeps s₀ (startPageIns c hs s) := by
  unfold startPageIns; try dsimp only
  repeat (first | with_reducible assumption | with_reducible apply forAll_keeps | with_reducible apply askAlloc_keeps
                | with_reducible apply setRes_keeps | with_reducible apply ite_keeps | with_reducible exact keeps_refl _
                | with_reducible intro _ | split)
theorem freeHandle_keeps (hs : Keeps s₀ s) (c : CoreId) (h : Nat) : Keeps s₀ (freeHandle c h s) := by
  unfold freeHandle; try dsimp only
  repeat (first | with_reducible assumption | with_reducible apply onM_keeps | with_reducible apply onDie_keeps
                | with_reducible apply serve_keeps | with_reducible apply ite_keeps | with_reducible exact keeps_refl _
                | with_reducible intro _ | split | with_reducible exact ‹Memory.wf _ = true› | exact ‹CcOk _› | exact ‹CoreOk _›)
theorem readNoted_keeps (hs : Keeps s₀ s) (a : Nat) (ecc : Ecc) : Keeps s₀ (readNoted s a ecc).2 := by
  unfold readNoted; try dsimp only
  repeat (first | with_reducible assumption | with_reducible apply noteEcc_keeps | with_reducible apply ite_keeps
                | with_reducible exact keeps_refl _ | with_reducible intro _ | split)
theorem readCopied_keeps (hs : Keeps s₀ s) (a : Nat) (n : Nat) (err : ReadErr) : Keeps s₀ (readCopied a n err s).2 := by
  refine foldl_keeps Prod.snd _ _ _ hs fun b k h => ?_
  dsimp only
  split
  · exact fresh_keeps (readNoted_keeps h _ _)
  · exact readNoted_keeps h _ _
theorem copyRows_keeps (hs : Keeps s₀ s) (a : Nat) (b : Nat) (n : Nat) (err : ReadErr) : Keeps s₀ (copyRows a b n err s) := by
  unfold copyRows; try dsimp only
  repeat (first | with_reducible assumption | with_reducible apply forAll_keeps | with_reducible apply fresh_keeps
                | with_reducible apply readNoted_keeps | with_reducible apply writeRow_keeps | with_reducible apply ite_keeps
                | with_reducible exact keeps_refl _ | with_reducible intro _ | split)
theorem setReg_keeps (hs : Keeps s₀ s) (c : CoreId) (r : Reg) (v : Nat) : Keeps s₀ (setReg c r v s) := by
  unfold setReg; try dsimp only
  repeat (first | with_reducible assumption | with_reducible apply onCc_keeps | with_reducible apply ite_keeps
                | with_reducible exact keeps_refl _ | with_reducible intro _ | split | with_reducible exact ‹Memory.wf _ = true›
                | with_reducible apply regSet_ok | exact ‹CcOk _› | exact ‹CoreOk _›)
theorem ccRetire_keeps (hs : Keeps s₀ s) (c : CoreId) (pc : Word) (n : Nat) : Keeps s₀ (ccRetire c pc n s) := by
  unfold ccRetire; try dsimp only
  repeat (first | with_reducible assumption | with_reducible apply onCc_keeps | with_reducible apply ite_keeps
                | with_reducible exact keeps_refl _ | with_reducible intro _ | split | with_reducible exact ‹Memory.wf _ = true›
                | exact ‹CcOk _› | exact ‹CoreOk _›)
theorem ccNext_keeps (hs : Keeps s₀ s) (c : CoreId) (n : Nat) : Keeps s₀ (ccNext c n s) := by
  unfold ccNext; try dsimp only
  repeat (first | with_reducible assumption | with_reducible apply ccRetire_keeps | with_reducible apply ite_keeps
                | with_reducible exact keeps_refl _ | with_reducible intro _ | split)
theorem ccTrap_keeps (hs : Keeps s₀ s) (c : CoreId) (cause : Nat) (info : Word) : Keeps s₀ (ccTrap c cause info s) := by
  unfold ccTrap; try dsimp only
  repeat (first | with_reducible assumption | with_reducible apply onCc_keeps | with_reducible apply postFault_keeps
                | with_reducible apply ite_keeps | with_reducible exact keeps_refl _ | with_reducible intro _ | split
                | with_reducible exact ‹Memory.wf _ = true› | exact ‹CcOk _› | exact ‹CoreOk _›)
theorem ccIllegal_keeps (hs : Keeps s₀ s) (c : CoreId) (w : Word) : Keeps s₀ (ccIllegal c w s) := by
  unfold ccIllegal; try dsimp only
  repeat (first | with_reducible assumption | with_reducible apply ccTrap_keeps | with_reducible apply ite_keeps
                | with_reducible exact keeps_refl _ | with_reducible intro _ | split)
theorem ccMemEcc_keeps (hs : Keeps s₀ s) (c : CoreId) (ecc : Ecc) : Keeps s₀ (ccMemEcc c ecc s) := by
  unfold ccMemEcc; try dsimp only
  repeat (first | with_reducible assumption | with_reducible apply onM_keeps | with_reducible apply noteRisk_keeps
                | with_reducible apply postFault_keeps | with_reducible apply ite_keeps | with_reducible exact keeps_refl _
                | with_reducible intro _ | split | with_reducible exact ‹Memory.wf _ = true› | exact ‹CcOk _› | exact ‹CoreOk _›)
theorem atCore_keeps (hs : Keeps s₀ s) (c : CoreId) (t : Nat) (due : State → Bool) (f : State → State) (hf : ∀ t, Keeps s₀ t → Keeps s₀ (f t)) :
    AnswerKeeps s₀ (atCore c t due f s) := by
  unfold atCore; try dsimp only
  repeat (first | with_reducible assumption | with_reducible apply hf | with_reducible apply next_keeps | with_reducible apply advance_keeps
                | with_reducible apply iteAnswer_keeps | with_reducible apply ite_keeps | with_reducible exact keeps_refl _
                | with_reducible intro _ | split)
theorem ccCommand_keeps (hs : Keeps s₀ s) (c : CoreId) (t : Nat) (f : State → State) (hf : ∀ t, Keeps s₀ t → Keeps s₀ (f t)) :
    AnswerKeeps s₀ (ccCommand c t f s) := by
  unfold ccCommand; try dsimp only
  repeat (first | with_reducible assumption | with_reducible apply hf | with_reducible apply atCore_keeps
                | with_reducible apply iteAnswer_keeps | with_reducible apply ite_keeps | with_reducible exact keeps_refl _
                | with_reducible intro _ | split)
theorem launchWait_keeps (hs : Keeps s₀ s) (c : CoreId) (cause : Cause) : Keeps s₀ (launchWait c cause s) := by
  unfold launchWait; try dsimp only
  repeat (first | with_reducible assumption | with_reducible apply onSc_keeps | with_reducible apply ite_keeps
                | with_reducible exact keeps_refl _ | with_reducible intro _ | split)
theorem setGranted_keeps (hs : Keeps s₀ s) (c : CoreId) (k : Nat) : Keeps s₀ (setGranted c k s) := by
  unfold setGranted; try dsimp only
  repeat (first | with_reducible assumption | with_reducible apply onSc_keeps | with_reducible apply onDie_keeps
                | with_reducible apply ite_keeps | with_reducible exact keeps_refl _ | with_reducible intro _ | split)
theorem creditStep_keeps (hs : Keeps s₀ s) (c : CoreId) (k : Nat) : Keeps s₀ (creditStep c k s) := by
  unfold creditStep; try dsimp only
  repeat (first | with_reducible assumption | with_reducible apply onSc_keeps | with_reducible apply pushReq_keeps
                | with_reducible apply setGranted_keeps | with_reducible apply ite_keeps | with_reducible exact keeps_refl _
                | with_reducible intro _ | split)
theorem launchStep_keeps (hs : Keeps s₀ s) (c : CoreId) : Keeps s₀ (launchStep c s) := by
  unfold launchStep; try dsimp only
  repeat (first | with_reducible assumption | with_reducible apply onSc_keeps | with_reducible apply creditStep_keeps
                | with_reducible apply launchWait_keeps | with_reducible apply pageIn_keeps | with_reducible apply ite_keeps
                | with_reducible exact keeps_refl _ | with_reducible intro _ | split)
theorem launchPoint_keeps (hs : Keeps s₀ s) (c : CoreId) : Keeps s₀ (launchPoint c s) := by
  unfold launchPoint; try dsimp only
  repeat (first | with_reducible assumption | with_reducible apply onSc_keeps | with_reducible apply launchStep_keeps
                | with_reducible apply ite_keeps | with_reducible exact keeps_refl _ | with_reducible intro _ | split)
theorem refuseLaunch_keeps (hs : Keeps s₀ s) (c : CoreId) : Keeps s₀ (refuseLaunch c s) := by
  unfold refuseLaunch; try dsimp only
  repeat (first | with_reducible assumption | with_reducible apply onSc_keeps | with_reducible apply dropRequests_keeps
                | with_reducible apply ite_keeps | with_reducible exact keeps_refl _ | with_reducible intro _ | split)
theorem launchFault_keeps (hs : Keeps s₀ s) (c : CoreId) (cls : Nat) (detail : Nat) : Keeps s₀ (launchFault c cls detail s) := by
  unfold launchFault; try dsimp only
  repeat (first | with_reducible assumption | with_reducible apply postFault_keeps | with_reducible apply ite_keeps
                | with_reducible exact keeps_refl _ | with_reducible intro _ | split)
theorem stageOp_keeps (hs : Keeps s₀ s) (c : CoreId) (row : Nat) : Keeps s₀ (stageOp c row s).2 := by
  unfold stageOp; try dsimp only
  repeat (first | with_reducible assumption | with_reducible apply onSc_keeps | with_reducible apply launchFault_keeps
                | with_reducible apply ite_keeps | with_reducible exact keeps_refl _ | with_reducible intro _ | split)
theorem launchOp_keeps (hs : Keeps s₀ s) (c : CoreId) : Keeps s₀ (launchOp c s).2 := by
  unfold launchOp; try dsimp only
  repeat (first | with_reducible assumption | with_reducible apply onSc_keeps | with_reducible apply launchFault_keeps
                | with_reducible apply launchPoint_keeps | with_reducible apply startPageIns_keeps | with_reducible apply ite_keeps
                | with_reducible exact keeps_refl _ | with_reducible intro _ | split)
theorem unstageOp_keeps (hs : Keeps s₀ s) (c : CoreId) : Keeps s₀ (unstageOp c s).2 := by
  unfold unstageOp; try dsimp only
  repeat (first | with_reducible assumption | with_reducible apply onSc_keeps | with_reducible apply ite_keeps
                | with_reducible exact keeps_refl _ | with_reducible intro _ | split)
theorem inCycle_keeps (hs : Keeps s₀ s) (c : CoreId) (t : Nat) (f : State → State) (hf : ∀ t, Keeps s₀ t → Keeps s₀ (f t)) :
    AnswerKeeps s₀ (inCycle c t f s) := by
  unfold inCycle; try dsimp only
  repeat (first | with_reducible assumption | with_reducible apply hf | with_reducible apply next_keeps | with_reducible apply advance_keeps
                | with_reducible apply beginStall_keeps | with_reducible apply hazardCheck_keeps | with_reducible apply iteAnswer_keeps
                | with_reducible apply ite_keeps | with_reducible exact keeps_refl _ | with_reducible intro _ | split)
theorem issueWord_keeps (hs : Keeps s₀ s) (c : CoreId) (q : Queue) (w : IWord) (base : Nat) (busy : Nat) (comp : Nat) (own : Bool) (sum : Bool) :
    Keeps s₀ (issueWord c q w base busy comp own sum s) := by
  unfold issueWord; try dsimp only
  repeat (first | with_reducible assumption | with_reducible apply onSc_keeps | with_reducible apply trace_keeps
                | with_reducible apply ite_keeps | with_reducible exact keeps_refl _ | with_reducible intro _ | split)
theorem issueNeutral_keeps (hs : Keeps s₀ s) (c : CoreId) (q : Queue) (w : IWord) : Keeps s₀ (issueNeutral c q w s) := by
  unfold issueNeutral; try dsimp only
  repeat (first | with_reducible assumption | with_reducible apply issueWord_keeps | with_reducible apply ite_keeps
                | with_reducible exact keeps_refl _ | with_reducible intro _ | split)
theorem issueCmd_keeps (hs : Keeps s₀ s) (c : CoreId) (q : Queue) (op : Nat) (t : Nat) (f : IWord → Strip → State → State)
    (hf : ∀ x0 x1 t, Keeps s₀ t → Keeps s₀ (f x0 x1 t)) :
    AnswerKeeps s₀ (issueCmd c q op t f s) := by
  unfold issueCmd; try dsimp only
  repeat (first | with_reducible assumption | with_reducible apply hf | with_reducible apply inCycle_keeps
                | with_reducible apply iteAnswer_keeps | with_reducible apply ite_keeps | with_reducible exact keeps_refl _
                | with_reducible intro _ | split)
theorem takeStake_keeps (hs : Keeps s₀ s) (c : CoreId) (k : Nat) (n : Nat) : Keeps s₀ (takeStake c k n s) := by
  unfold takeStake; try dsimp only
  repeat (first | with_reducible assumption | with_reducible apply onSc_keeps | with_reducible apply ite_keeps
                | with_reducible exact keeps_refl _ | with_reducible intro _ | split)
theorem performWait_keeps (hs : Keeps s₀ s) (c : CoreId) (q : Queue) (w : IWord) : Keeps s₀ (performWait c q w s) := by
  unfold performWait; try dsimp only
  repeat (first | with_reducible assumption | with_reducible apply issueWord_keeps | with_reducible apply ite_keeps
                | with_reducible exact keeps_refl _ | with_reducible intro _ | split)
theorem performStkSet_keeps (hs : Keeps s₀ s) (c : CoreId) (q : Queue) (w : IWord) (st : Strip) : Keeps s₀ (performStkSet c q w st s) := by
  unfold performStkSet; try dsimp only
  repeat (first | with_reducible assumption | with_reducible apply addStake_keeps | with_reducible apply issueNeutral_keeps
                | with_reducible apply ite_keeps | with_reducible exact keeps_refl _ | with_reducible intro _ | split)
theorem performStkWait_keeps (hs : Keeps s₀ s) (c : CoreId) (q : Queue) (w : IWord) (st : Strip) : Keeps s₀ (performStkWait c q w st s) := by
  unfold performStkWait; try dsimp only
  repeat (first | with_reducible assumption | with_reducible apply issueNeutral_keeps | with_reducible apply takeStake_keeps
                | with_reducible apply ite_keeps | with_reducible exact keeps_refl _ | with_reducible intro _ | split)
theorem performHqPush_keeps (hs : Keeps s₀ s) (c : CoreId) (q : Queue) (w : IWord) (st : Strip) : Keeps s₀ (performHqPush c q w st s) := by
  unfold performHqPush; try dsimp only
  repeat (first | with_reducible assumption | with_reducible apply onCore_keeps | with_reducible apply issueNeutral_keeps
                | with_reducible apply ite_keeps | with_reducible exact keeps_refl _ | with_reducible intro _ | split
                | with_reducible exact ‹Memory.wf _ = true› | exact ‹CcOk _› | exact ‹CoreOk _›)
theorem performHqPop_keeps (hs : Keeps s₀ s) (c : CoreId) (q : Queue) (w : IWord) (st : Strip) : Keeps s₀ (performHqPop c q w st s) := by
  unfold performHqPop; try dsimp only
  repeat (first | with_reducible assumption | with_reducible apply onSc_keeps | with_reducible apply hazardStop_keeps
                | with_reducible apply issueNeutral_keeps | with_reducible apply ite_keeps | with_reducible exact keeps_refl _
                | with_reducible intro _ | split)
theorem performBlocked_keeps (hs : Keeps s₀ s) (c : CoreId) (b : Blocked) : Keeps s₀ (performBlocked c b s) := by
  unfold performBlocked; try dsimp only
  repeat (first | with_reducible assumption | with_reducible apply performHqPop_keeps | with_reducible apply performHqPush_keeps
                | with_reducible apply performStkWait_keeps | with_reducible apply ite_keeps | with_reducible exact keeps_refl _
                | with_reducible intro _ | split)
theorem resume_keeps (hs : Keeps s₀ s) (c : CoreId) : Keeps s₀ (resume c s) := by
  unfold resume; try dsimp only
  repeat (first | with_reducible assumption | with_reducible apply onSc_keeps | with_reducible apply forAll_keeps
                | with_reducible apply performBlocked_keeps | with_reducible apply trace_keeps | with_reducible apply ite_keeps
                | with_reducible exact keeps_refl _ | with_reducible intro _ | split)
theorem instStage_keeps (hs : Keeps s₀ s) (c : CoreId) (rd : Reg) (rs1 : Reg) : Keeps s₀ (instStage c rd rs1 s) := by
  unfold instStage; try dsimp only
  repeat (first | with_reducible assumption | with_reducible apply ccIllegal_keeps | with_reducible apply ccNext_keeps
                | with_reducible apply setReg_keeps | with_reducible apply stageOp_keeps | with_reducible apply ite_keeps
                | with_reducible exact keeps_refl _ | with_reducible intro _ | split)
theorem instLaunch_keeps (hs : Keeps s₀ s) (c : CoreId) (rd : Reg) : Keeps s₀ (instLaunch c rd s) := by
  unfold instLaunch; try dsimp only
  repeat (first | with_reducible assumption | with_reducible apply ccNext_keeps | with_reducible apply launchOp_keeps
                | with_reducible apply setReg_keeps | with_reducible apply ite_keeps | with_reducible exact keeps_refl _
                | with_reducible intro _ | split)
theorem instUnstage_keeps (hs : Keeps s₀ s) (c : CoreId) (rd : Reg) : Keeps s₀ (instUnstage c rd s) := by
  unfold instUnstage; try dsimp only
  repeat (first | with_reducible assumption | with_reducible apply ccNext_keeps | with_reducible apply setReg_keeps
                | with_reducible apply unstageOp_keeps | with_reducible apply ite_keeps | with_reducible exact keeps_refl _
                | with_reducible intro _ | split)
theorem pageIn_keeps (hs : Keeps s₀ s) (c : CoreId) (h : Nat) (j : PageJob) (err : ReadErr) : Keeps s₀ (pageIn c h j err s) := by
  unfold pageIn; try dsimp only
  repeat (first | with_reducible assumption | with_reducible apply onDie_keeps | with_reducible apply copyRows_keeps
                | with_reducible apply setHandle_keeps | with_reducible apply setRes_keeps | with_reducible apply ite_keeps
                | with_reducible exact keeps_refl _ | with_reducible intro _ | split)
theorem grantHead_keeps (hs : Keeps s₀ s) (d : DieId) (c : CoreId) (n : Nat) : Keeps s₀ (grantHead d c n s) := by
  unfold grantHead; try dsimp only
  repeat (first | with_reducible assumption | with_reducible apply onSc_keeps | with_reducible apply onDie_keeps
                | with_reducible apply ite_keeps | with_reducible exact keeps_refl _ | with_reducible intro _ | split)
theorem startStrip_keeps (hs : Keeps s₀ s) (c : CoreId) (st : Strip) : Keeps s₀ (startStrip c st s) := by
  unfold startStrip; try dsimp only
  repeat (first | with_reducible assumption | with_reducible apply onSc_keeps | with_reducible apply onE_keeps
                | with_reducible apply onM_keeps | with_reducible apply onTb_keeps | with_reducible apply trace_keeps
                | with_reducible apply ite_keeps | with_reducible exact keeps_refl _ | with_reducible intro _ | split
                | with_reducible exact ‹Memory.wf _ = true› | exact ‹CcOk _› | exact ‹CoreOk _›)
theorem endStrip_keeps (hs : Keeps s₀ s) (c : CoreId) : Keeps s₀ (endStrip c s) := by
  unfold endStrip; try dsimp only
  repeat (first | with_reducible assumption | with_reducible apply onSc_keeps | with_reducible apply onE_keeps
                | with_reducible apply ccEvent_keeps | with_reducible apply handFold_keeps | with_reducible apply launchPoint_keeps
                | with_reducible apply trace_keeps | with_reducible apply ite_keeps | with_reducible exact keeps_refl _
                | with_reducible intro _ | split)
theorem powerGate_keeps (hs : Keeps s₀ s) (c : CoreId) : Keeps s₀ (powerGate c s) := by
  unfold powerGate; try dsimp only
  repeat (first | with_reducible assumption | with_reducible apply onCore_keeps | with_reducible apply ite_keeps
                | with_reducible exact keeps_refl _ | with_reducible intro _ | split | with_reducible exact ‹Memory.wf _ = true›
                | exact ‹CcOk _› | exact ‹CoreOk _› | (apply coreOk_clear; assumption; rfl; rfl))
theorem postSummary_keeps (hs : Keeps s₀ s) (c : CoreId) (r : HrwRun) : Keeps s₀ (postSummary c r s) := by
  unfold postSummary; try dsimp only
  repeat (first | with_reducible assumption | with_reducible apply onSc_keeps | with_reducible apply onE_keeps
                | with_reducible apply ccEvent_keeps | with_reducible apply ite_keeps | with_reducible exact keeps_refl _
                | with_reducible intro _ | split)
theorem retire_keeps (hs : Keeps s₀ s) (c : CoreId) : Keeps s₀ (retire c s) := by
  unfold retire; try dsimp only
  repeat (first | with_reducible assumption | with_reducible apply onCore_keeps | with_reducible apply ite_keeps
                | with_reducible exact keeps_refl _ | with_reducible intro _ | split | with_reducible exact ‹Memory.wf _ = true›
                | exact ‹CcOk _› | exact ‹CoreOk _›)
theorem unitComplete_keeps (hs : Keeps s₀ s) (c : CoreId) (q : Queue) (f : Flight) : Keeps s₀ (unitComplete c q f s) := by
  unfold unitComplete; try dsimp only
  repeat (first | with_reducible assumption | with_reducible apply onE_keeps | with_reducible apply postSummary_keeps
                | with_reducible apply retire_keeps | with_reducible apply rootWrite_keeps | with_reducible apply ite_keeps
                | with_reducible exact keeps_refl _ | with_reducible intro _ | split)
theorem lateArrive_keeps (hs : Keeps s₀ s) (c : CoreId) (l : LateItem) : Keeps s₀ (lateArrive c l s) := by
  unfold lateArrive; try dsimp only
  repeat (first | with_reducible assumption | with_reducible apply onCore_keeps | with_reducible apply onE_keeps
                | with_reducible apply arriveNow_keeps | with_reducible apply powerGate_keeps | with_reducible apply ite_keeps
                | with_reducible exact keeps_refl _ | with_reducible intro _ | split | with_reducible exact ‹Memory.wf _ = true›
                | exact ‹CcOk _› | exact ‹CoreOk _›)
theorem sweepLate_keeps (hs : Keeps s₀ s) (c : CoreId) : Keeps s₀ (sweepLate c s) := by
  unfold sweepLate; try dsimp only
  repeat (first | with_reducible assumption | with_reducible apply lateArrive_keeps | with_reducible apply ite_keeps
                | with_reducible exact keeps_refl _ | with_reducible intro _ | split)
theorem writeOut_keeps (hs : Keeps s₀ s) (c : CoreId) (id : Nat) (a : Nat) : Keeps s₀ (writeOut c id a s) := by
  unfold writeOut; try dsimp only
  repeat (first | with_reducible assumption | with_reducible apply onE_keeps | with_reducible apply onCc_keeps
                | with_reducible apply ite_keeps | with_reducible exact keeps_refl _ | with_reducible intro _ | split
                | with_reducible exact ‹Memory.wf _ = true› | exact ‹CcOk _› | exact ‹CoreOk _›)
theorem ackLocal_keeps (hs : Keeps s₀ s) (c : CoreId) (tag : Nat) (a : Nat) : Keeps s₀ (ackLocal c tag a s) := by
  unfold ackLocal; try dsimp only
  repeat (first | with_reducible assumption | with_reducible apply onE_keeps | with_reducible apply writeOut_keeps
                | with_reducible apply ite_keeps | with_reducible exact keeps_refl _ | with_reducible intro _ | split)
theorem ackWrite_keeps (hs : Keeps s₀ s) (srcPos : Nat) (srcCore : Nat) (tag : Nat) (plane : Nat) (a : Nat) :
    Keeps s₀ (ackWrite srcPos srcCore tag plane a s) := by
  unfold ackWrite; try dsimp only
  repeat (first | with_reducible assumption | with_reducible apply ackLocal_keeps | with_reducible apply putItem_keeps
                | with_reducible apply ite_keeps | with_reducible exact keeps_refl _ | with_reducible intro _ | split)
theorem rowPlaced_keeps (hs : Keeps s₀ s) (c : CoreId) (o : LandOwner) (a : Nat) : Keeps s₀ (rowPlaced c o a s) := by
  unfold rowPlaced; try dsimp only
  repeat (first | with_reducible assumption | with_reducible apply onCore_keeps | with_reducible apply onE_keeps
                | with_reducible apply ackWrite_keeps | with_reducible apply sweepLate_keeps | with_reducible apply ite_keeps
                | with_reducible exact keeps_refl _ | with_reducible intro _ | split | with_reducible exact ‹Memory.wf _ = true›
                | exact ‹CcOk _› | exact ‹CoreOk _›)
theorem tellWriter_keeps (hs : Keeps s₀ s) (c : CoreId) (o : LandOwner) (kind : Nat) (a : Nat) (f : Flt) :
    Keeps s₀ (tellWriter c o kind a f s) := by
  unfold tellWriter; try dsimp only
  repeat (first | with_reducible assumption | with_reducible apply headlandFault_keeps | with_reducible apply postFault_keeps
                | with_reducible apply putItem_keeps | with_reducible apply ite_keeps | with_reducible exact keeps_refl _
                | with_reducible intro _ | split)
theorem inboundWrite_keeps (hs : Keeps s₀ s) (c : CoreId) (o : LandOwner) (a : Nat) (d : Row) : Keeps s₀ (inboundWrite c o a d s) := by
  unfold inboundWrite; try dsimp only
  repeat (first | with_reducible assumption | with_reducible apply tellWriter_keeps | with_reducible apply writeRow_keeps
                | with_reducible apply ite_keeps | with_reducible exact keeps_refl _ | with_reducible intro _ | split)
theorem lateFault_keeps (hs : Keeps s₀ s) (c : CoreId) (f : Flt) : Keeps s₀ (lateFault c f s) := by
  unfold lateFault; try dsimp only
  repeat (first | with_reducible assumption | with_reducible apply onSc_keeps | with_reducible apply endByFault_keeps
                | with_reducible apply postFault_keeps | with_reducible apply ite_keeps | with_reducible exact keeps_refl _
                | with_reducible intro _ | split)
theorem cutLate_keeps (hs : Keeps s₀ s) (c : CoreId) (id : Nat) (f : Flt) : Keeps s₀ (cutLate c id f s) := by
  unfold cutLate; try dsimp only
  repeat (first | with_reducible assumption | with_reducible apply onE_keeps | with_reducible apply lateFault_keeps
                | with_reducible apply sweepLate_keeps | with_reducible apply ite_keeps | with_reducible exact keeps_refl _
                | with_reducible intro _ | split)
theorem takeIn_keeps (hs : Keeps s₀ s) (c : CoreId) (l : LateItem) (k : Nat) (d : Row) : Keeps s₀ (takeIn c l k d s) := by
  unfold takeIn; try dsimp only
  repeat (first | with_reducible assumption | with_reducible apply onE_keeps | with_reducible apply onM_keeps
                | with_reducible apply inboundWrite_keeps | with_reducible apply postFault_keeps | with_reducible apply rowPlaced_keeps
                | with_reducible apply ite_keeps | with_reducible exact keeps_refl _ | with_reducible intro _ | split
                | with_reducible exact ‹Memory.wf _ = true› | exact ‹CcOk _› | exact ‹CoreOk _›)
theorem lateRead_keeps (hs : Keeps s₀ s) (c : CoreId) (x : Xfer) (k : Nat) (ecc : Ecc) : Keeps s₀ (lateRead c x k ecc s).2 := by
  unfold lateRead; try dsimp only
  repeat (first | with_reducible assumption | with_reducible apply fresh_keeps | with_reducible apply postFault_keeps
                | with_reducible apply readNoted_keeps | with_reducible apply ite_keeps | with_reducible exact keeps_refl _
                | with_reducible intro _ | split)
theorem landPlotRow_keeps (hs : Keeps s₀ s) (c : CoreId) (t : Nat) : AnswerKeeps s₀ (landPlotRow c t s) := by
  unfold landPlotRow; try dsimp only
  repeat (first | with_reducible assumption | with_reducible apply onM_keeps | with_reducible apply whenDue_keeps
                | with_reducible apply next_keeps | with_reducible apply advance_keeps | with_reducible apply inboundWrite_keeps
                | with_reducible apply rowPlaced_keeps | with_reducible apply iteAnswer_keeps | with_reducible apply ite_keeps
                | with_reducible exact keeps_refl _ | with_reducible intro _ | split | with_reducible exact ‹Memory.wf _ = true›
                | exact ‹CcOk _› | exact ‹CoreOk _›)
theorem lateWrite_keeps (hs : Keeps s₀ s) (c : CoreId) (portB : Bool) (row : Nat) (d : Row) : Keeps s₀ (lateWrite c portB row d s) := by
  unfold lateWrite; try dsimp only
  repeat (first | with_reducible assumption | with_reducible apply onM_keeps | with_reducible apply hopWrite_keeps
                | with_reducible apply ite_keeps | with_reducible exact keeps_refl _ | with_reducible intro _ | split
                | with_reducible exact ‹Memory.wf _ = true› | exact ‹CcOk _› | exact ‹CoreOk _›)
theorem convertLate_keeps (hs : Keeps s₀ s) (c : CoreId) (portB : Bool) (k : Nat) (r : LandRow) (l : LateItem) (leave : State → State)
    (hleave : ∀ t, Keeps s₀ t → Keeps s₀ (leave t)) :
    Keeps s₀ (convertLate c portB k r l leave s) := by
  unfold convertLate; try dsimp only
  repeat (first | with_reducible assumption | with_reducible apply hleave | with_reducible apply onE_keeps
                | with_reducible apply fillData_keeps | with_reducible apply lateWrite_keeps | with_reducible apply rowPlaced_keeps
                | with_reducible apply ite_keeps | with_reducible exact keeps_refl _ | with_reducible intro _ | split)
theorem bankDone_keeps (hs : Keeps s₀ s) (c : CoreId) (i : Nat) (d : Row) : Keeps s₀ (bankDone c i d s) := by
  unfold bankDone; try dsimp only
  repeat (first | with_reducible assumption | with_reducible apply onE_keeps | with_reducible apply ite_keeps
                | with_reducible exact keeps_refl _ | with_reducible intro _ | split)
theorem landRead_keeps (hs : Keeps s₀ s) (c : CoreId) (r : CmnReq) : Keeps s₀ (landRead c r s) := by
  unfold landRead; try dsimp only
  repeat (first | with_reducible assumption | with_reducible apply foldWrite_keeps | with_reducible apply handOut_keeps
                | with_reducible apply setXfer_keeps | with_reducible apply writeH_keeps | with_reducible apply ite_keeps
                | with_reducible exact keeps_refl _ | with_reducible intro _ | split)
theorem performCmnRow_keeps (hs : Keeps s₀ s) (c : CoreId) (t : Nat) : AnswerKeeps s₀ (performCmnRow c t s) := by
  unfold performCmnRow; try dsimp only
  repeat (first | with_reducible assumption | with_reducible apply onM_keeps | with_reducible apply whenDue_keeps
                | with_reducible apply next_keeps | with_reducible apply advance_keeps | with_reducible apply lateArrive_keeps
                | with_reducible apply rowPlaced_keeps | with_reducible apply tellWriter_keeps | with_reducible apply writeRow_keeps
                | with_reducible apply iteAnswer_keeps | with_reducible apply ite_keeps | with_reducible exact keeps_refl _
                | with_reducible intro _ | split | with_reducible exact ‹Memory.wf _ = true› | exact ‹CcOk _› | exact ‹CoreOk _›)
theorem setScrub_keeps (hs : Keeps s₀ s) (u : ScrubUnit) (i : Nat) (turn : Nat) (late : Nat) : Keeps s₀ (setScrub u i turn late s) := by
  unfold setScrub; try dsimp only
  repeat (first | with_reducible assumption | with_reducible apply onM_keeps | with_reducible apply onDie_keeps
                | with_reducible apply ite_keeps | with_reducible exact keeps_refl _ | with_reducible intro _ | split
                | with_reducible exact ‹Memory.wf _ = true› | exact ‹CcOk _› | exact ‹CoreOk _›)
theorem useScrubSlot_keeps (hs : Keeps s₀ s) (u : ScrubUnit) (row : Nat) : Keeps s₀ (useScrubSlot u row s) := by
  unfold useScrubSlot; try dsimp only
  repeat (first | with_reducible assumption | with_reducible apply use7_keeps | with_reducible apply ite_keeps
                | with_reducible exact keeps_refl _ | with_reducible intro _ | split)
theorem queueScrub_keeps (hs : Keeps s₀ s) (u : ScrubUnit) (row : Nat) (d : Row) : Keeps s₀ (queueScrub u row d s) := by
  unfold queueScrub; try dsimp only
  repeat (first | with_reducible assumption | with_reducible apply onM_keeps | with_reducible apply onDie_keeps
                | with_reducible apply ite_keeps | with_reducible exact keeps_refl _ | with_reducible intro _ | split
                | with_reducible exact ‹Memory.wf _ = true› | exact ‹CcOk _› | exact ‹CoreOk _›)
theorem scrubFault_keeps (hs : Keeps s₀ s) (u : ScrubUnit) (f : Flt) : Keeps s₀ (scrubFault u f s) := by
  unfold scrubFault; try dsimp only
  repeat (first | with_reducible assumption | with_reducible apply headlandFault_keeps | with_reducible apply postFault_keeps
                | with_reducible apply ite_keeps | with_reducible exact keeps_refl _ | with_reducible intro _ | split)
theorem scrubTime_keeps (hs : Keeps s₀ s) (u : ScrubUnit) (t : Nat) : Keeps s₀ (scrubTime u t s) := by
  unfold scrubTime; try dsimp only
  repeat (first | with_reducible assumption | with_reducible apply advance_keeps | with_reducible apply ite_keeps
                | with_reducible exact keeps_refl _ | with_reducible intro _ | split)
theorem writeBack_keeps (hs : Keeps s₀ s) (u : ScrubUnit) (row : Nat) (d : Row) : Keeps s₀ (writeBack u row d s) := by
  unfold writeBack; try dsimp only
  repeat (first | with_reducible assumption | with_reducible apply useScrubSlot_keeps | with_reducible apply writeRow_keeps
                | with_reducible apply ite_keeps | with_reducible exact keeps_refl _ | with_reducible intro _ | split)
theorem zeroGroup_keeps (hs : Keeps s₀ s) (d : DieId) (g : Nat) : Keeps s₀ (zeroGroup d g s) := by
  unfold zeroGroup; try dsimp only
  repeat (first | with_reducible assumption | with_reducible apply ite_keeps | with_reducible exact keeps_refl _ | with_reducible intro _
                | split | with_reducible apply clearCells_wf | with_reducible exact ‹Memory.wf _ = true› | exact ‹CcOk _› | exact ‹CoreOk _›
                | with_reducible apply withMem_keeps)
theorem setGroup_keeps (hs : Keeps s₀ s) (d : DieId) (g : Nat) (v : Nat) : Keeps s₀ (setGroup d g v s) := by
  unfold setGroup; try dsimp only
  repeat (first | with_reducible assumption | with_reducible apply onDie_keeps | with_reducible apply ite_keeps
                | with_reducible exact keeps_refl _ | with_reducible intro _ | split)
theorem gateArrive_keeps (hs : Keeps s₀ s) (d : DieId) (j : GateJob) : Keeps s₀ (gateArrive d j s) := by
  unfold gateArrive; try dsimp only
  repeat (first | with_reducible assumption | with_reducible apply onDie_keeps | with_reducible apply arriveNow_keeps
                | with_reducible apply ite_keeps | with_reducible exact keeps_refl _ | with_reducible intro _ | split)
theorem issuePlough_keeps (hs : Keeps s₀ s) (c : CoreId) (op : Nat) (w : IWord) (st : Strip) : Keeps s₀ (issuePlough c op w st s) := by
  unfold issuePlough; try dsimp only
  repeat (first | with_reducible assumption | with_reducible apply onE_keeps | with_reducible apply issueWord_keeps
                | with_reducible apply ite_keeps | with_reducible exact keeps_refl _ | with_reducible intro _ | split)
theorem setPlg_keeps (hs : Keeps s₀ s) (c : CoreId) (r : PlgRun) : Keeps s₀ (setPlg c r s) := by
  unfold setPlg; try dsimp only
  repeat (first | with_reducible assumption | with_reducible apply onE_keeps | with_reducible apply ite_keeps
                | with_reducible exact keeps_refl _ | with_reducible intro _ | split)
theorem onPlg_keeps (hs : Keeps s₀ s) (c : CoreId) (t0 : Nat) (f : PlgRun → PlgRun) : Keeps s₀ (onPlg c t0 f s) := by
  unfold onPlg; try dsimp only
  repeat (first | with_reducible assumption | with_reducible apply onE_keeps | with_reducible apply ite_keeps
                | with_reducible exact keeps_refl _ | with_reducible intro _ | split)
theorem drainWrite_keeps (hs : Keeps s₀ s) (c : CoreId) (r : PlgRun) (h : Nat) (row : Int) (d : Row) : Keeps s₀ (drainWrite c r h row d s) := by
  unfold drainWrite; try dsimp only
  repeat (first | with_reducible assumption | with_reducible apply foldWrite_keeps | with_reducible apply writeH_keeps
                | with_reducible apply ite_keeps | with_reducible exact keeps_refl _ | with_reducible intro _ | split)
theorem drainWrites_keeps (hs : Keeps s₀ s) (c : CoreId) (r : PlgRun) (p : Nat) (d : Nat) (cells : List (BitVec 48)) :
    Keeps s₀ (drainWrites c r p d cells s) := by
  unfold drainWrites; try dsimp only
  repeat (first | with_reducible assumption | with_reducible apply drainWrite_keeps | with_reducible apply ite_keeps
                | with_reducible exact keeps_refl _ | with_reducible intro _ | split)
theorem issueChain_keeps (hs : Keeps s₀ s) (c : CoreId) (err : ReadErr) (w : IWord) (st : Strip) : Keeps s₀ (issueChain c err w st s) := by
  unfold issueChain; try dsimp only
  repeat (first | with_reducible assumption | with_reducible apply onE_keeps | with_reducible apply issueWord_keeps
                | with_reducible apply ite_keeps | with_reducible exact keeps_refl _ | with_reducible intro _ | split)
theorem issueBload_keeps (hs : Keeps s₀ s) (c : CoreId) (err : ReadErr) (w : IWord) (st : Strip) : Keeps s₀ (issueBload c err w st s) := by
  unfold issueBload; try dsimp only
  repeat (first | with_reducible assumption | with_reducible apply onE_keeps | with_reducible apply issueWord_keeps
                | with_reducible apply ite_keeps | with_reducible exact keeps_refl _ | with_reducible intro _ | split)
theorem onHrw_keeps (hs : Keeps s₀ s) (c : CoreId) (t0 : Nat) (f : HrwRun → HrwRun) : Keeps s₀ (onHrw c t0 f s) := by
  unfold onHrw; try dsimp only
  repeat (first | with_reducible assumption | with_reducible apply onE_keeps | with_reducible apply ite_keeps
                | with_reducible exact keeps_refl _ | with_reducible intro _ | split)
theorem answerMsg_keeps (hs : Keeps s₀ s) (kind : ItemKind) (plane : Nat) (aux : Nat) (h : Row) : Keeps s₀ (answerMsg kind plane aux h s) := by
  unfold answerMsg; try dsimp only
  repeat (first | with_reducible assumption | with_reducible apply putItem_keeps | with_reducible apply ite_keeps
                | with_reducible exact keeps_refl _ | with_reducible intro _ | split)
theorem hubDone_keeps (hs : Keeps s₀ s) (core : Nat) (seq : Nat) : Keeps s₀ (hubDone core seq s) := by
  unfold hubDone; try dsimp only
  repeat (first | with_reducible assumption | with_reducible apply onHl_keeps | with_reducible apply ite_keeps
                | with_reducible exact keeps_refl _ | with_reducible intro _ | split)
theorem hubBounce_keeps (hs : Keeps s₀ s) (h : Row) (reason : Nat) : Keeps s₀ (hubBounce h reason s) := by
  unfold hubBounce; try dsimp only
  repeat (first | with_reducible assumption | with_reducible apply headlandFault_keeps | with_reducible apply hostFault_keeps
                | with_reducible apply hubDone_keeps | with_reducible apply keepRecord_keeps | with_reducible apply lsGap_keeps
                | with_reducible apply ite_keeps | with_reducible exact keeps_refl _ | with_reducible intro _ | split)
theorem bounceMsg_keeps (hs : Keeps s₀ s) (plane : Nat) (reason : Nat) (h : Row) : Keeps s₀ (bounceMsg plane reason h s) := by
  unfold bounceMsg; try dsimp only
  repeat (first | with_reducible assumption | with_reducible apply answerMsg_keeps | with_reducible apply hubBounce_keeps
                | with_reducible apply ite_keeps | with_reducible exact keeps_refl _ | with_reducible intro _ | split)
theorem hostEnqueue_keeps (hs : Keeps s₀ s) (plane : Nat) (rows : List Row) : Keeps s₀ (hostEnqueue plane rows s) := by
  unfold hostEnqueue; try dsimp only
  repeat (first | with_reducible assumption | with_reducible apply onHl_keeps | with_reducible apply bounceMsg_keeps
                | with_reducible apply ite_keeps | with_reducible exact keeps_refl _ | with_reducible intro _ | split)
theorem headlandLand_keeps (hs : Keeps s₀ s) (plane : Nat) (rows : List Row) : Keeps s₀ (headlandLand plane rows s) := by
  unfold headlandLand; try dsimp only
  repeat (first | with_reducible assumption | with_reducible apply onHl_keeps | with_reducible apply answerMsg_keeps
                | with_reducible apply bounceMsg_keeps | with_reducible apply hubDone_keeps | with_reducible apply ite_keeps
                | with_reducible exact keeps_refl _ | with_reducible intro _ | split)
theorem hubDepart_keeps (hs : Keeps s₀ s) (rows : List Row) : Keeps s₀ (hubDepart rows s) := by
  unfold hubDepart; try dsimp only
  repeat (first | with_reducible assumption | with_reducible apply onHl_keeps | with_reducible apply forAll_keeps
                | with_reducible apply headlandLand_keeps | with_reducible apply hostEnqueue_keeps | with_reducible apply putItem_keeps
                | with_reducible apply ite_keeps | with_reducible exact keeps_refl _ | with_reducible intro _ | split)
theorem headlandSendF_keeps (hs : Keeps s₀ s) (flags : Nat) (destPos : Nat) (destCore : Nat) (ring : Nat) (tag : Nat) (inline : Nat)
    (payload : List Row) :
    Keeps s₀ (headlandSendF flags destPos destCore ring tag inline payload s) := by
  unfold headlandSendF; try dsimp only
  repeat (first | with_reducible assumption | with_reducible apply onHl_keeps | with_reducible apply hubDepart_keeps
                | with_reducible apply ite_keeps | with_reducible exact keeps_refl _ | with_reducible intro _ | split)
theorem hubWrites_keeps (hs : Keeps s₀ s) (pos : Nat) (a : Nat) (tag : Nat) (rows : List Row) : Keeps s₀ (hubWrites pos a tag rows s) := by
  unfold hubWrites; try dsimp only
  repeat (first | with_reducible assumption | with_reducible apply onHl_keeps | with_reducible apply forAll_keeps
                | with_reducible apply putItem_keeps | with_reducible apply ite_keeps | with_reducible exact keeps_refl _
                | with_reducible intro _ | split)
theorem hubRelease_keeps (hs : Keeps s₀ s) : Keeps s₀ (hubRelease s) := by
  unfold hubRelease; try dsimp only
  repeat (first | with_reducible assumption | with_reducible apply onHl_keeps | with_reducible apply forAll_keeps
                | with_reducible apply hubDepart_keeps | with_reducible apply ite_keeps | with_reducible exact keeps_refl _
                | with_reducible intro _ | split | with_reducible apply withNet_keeps)
theorem headlandSend_keeps (hs : Keeps s₀ s) (destPos : Nat) (destCore : Nat) (ring : Nat) (tag : Nat) (inline : Nat) (payload : List Row) :
    Keeps s₀ (headlandSend destPos destCore ring tag inline payload s) := by
  unfold headlandSend; try dsimp only
  repeat (first | with_reducible assumption | with_reducible apply headlandSendF_keeps | with_reducible apply ite_keeps
                | with_reducible exact keeps_refl _ | with_reducible intro _ | split)
theorem replyInline_keeps (hs : Keeps s₀ s) (src : CmdSrc) (inline : Nat) : Keeps s₀ (replyInline src inline s) := by
  unfold replyInline; try dsimp only
  repeat (first | with_reducible assumption | with_reducible apply onHl_keeps | with_reducible apply attention_keeps
                | with_reducible apply headlandSend_keeps | with_reducible apply ite_keeps | with_reducible exact keeps_refl _
                | with_reducible intro _ | split)
theorem reply_keeps (hs : Keeps s₀ s) (src : CmdSrc) (cmd : Nat) (status : Nat) (detail : Nat) : Keeps s₀ (reply src cmd status detail s) := by
  unfold reply; try dsimp only
  repeat (first | with_reducible assumption | with_reducible apply replyInline_keeps | with_reducible apply ite_keeps
                | with_reducible exact keeps_refl _ | with_reducible intro _ | split)
theorem replyDone_keeps (hs : Keeps s₀ s) (src : CmdSrc) (cmd : Nat) (status : Nat) : Keeps s₀ (replyDone src cmd status s) := by
  unfold replyDone; try dsimp only
  repeat (first | with_reducible assumption | with_reducible apply reply_keeps | with_reducible apply ite_keeps
                | with_reducible exact keeps_refl _ | with_reducible intro _ | split)
theorem takeCmd_keeps (hs : Keeps s₀ s) (ring : Nat) (cmd : Nat) (src : CmdSrc) : Keeps s₀ (takeCmd ring cmd src s) := by
  unfold takeCmd; try dsimp only
  repeat (first | with_reducible assumption | with_reducible apply onHl_keeps | with_reducible apply ite_keeps
                | with_reducible exact keeps_refl _ | with_reducible intro _ | split)
theorem hlCommand_keeps (hs : Keeps s₀ s) (cmd : Nat) (allowed : Who → Bool) (src : CmdSrc) (f : State → State)
    (hf : ∀ t, Keeps s₀ t → Keeps s₀ (f t)) :
    AnswerKeeps s₀ (hlCommand cmd allowed src f s) := by
  unfold hlCommand; try dsimp only
  repeat (first | with_reducible assumption | with_reducible apply hf | with_reducible apply whenDue_keeps
                | with_reducible apply reply_keeps | with_reducible apply takeCmd_keeps | with_reducible apply iteAnswer_keeps
                | with_reducible apply ite_keeps | with_reducible exact keeps_refl _ | with_reducible intro _ | split)
theorem takeMsg_keeps (hs : Keeps s₀ s) (hdr : Row) : Keeps s₀ (takeMsg hdr s) := by
  unfold takeMsg; try dsimp only
  repeat (first | with_reducible assumption | with_reducible apply onHl_keeps | with_reducible apply ite_keeps
                | with_reducible exact keeps_refl _ | with_reducible intro _ | split)
theorem issueTiller_keeps (hs : Keeps s₀ s) (c : CoreId) (err : ReadErr) (w : IWord) (st : Strip) : Keeps s₀ (issueTiller c err w st s) := by
  unfold issueTiller; try dsimp only
  repeat (first | with_reducible assumption | with_reducible apply onCore_keeps | with_reducible apply onE_keeps
                | with_reducible apply issueWord_keeps | with_reducible apply postFault_keeps | with_reducible apply ite_keeps
                | with_reducible exact keeps_refl _ | with_reducible intro _ | split | with_reducible exact ‹Memory.wf _ = true›
                | exact ‹CcOk _› | exact ‹CoreOk _›)
theorem issueRootfin_keeps (hs : Keeps s₀ s) (c : CoreId) (ecc : Ecc) (w : IWord) (st : Strip) : Keeps s₀ (issueRootfin c ecc w st s) := by
  unfold issueRootfin; try dsimp only
  repeat (first | with_reducible assumption | with_reducible apply onE_keeps | with_reducible apply issueWord_keeps
                | with_reducible apply readHopErr_keeps | with_reducible apply ite_keeps | with_reducible exact keeps_refl _
                | with_reducible intro _ | split)
theorem onAdv_keeps (hs : Keeps s₀ s) (x : CtxId) (f : AdvCtx → AdvCtx) : Keeps s₀ (State.onAdv s x f) := by
  unfold State.onAdv; try dsimp only
  repeat (first | with_reducible assumption | with_reducible apply onHub_keeps | with_reducible apply ite_keeps
                | with_reducible exact keeps_refl _ | with_reducible intro _ | split | with_reducible exact ‹Memory.wf _ = true›
                | exact ‹CcOk _› | exact ‹CoreOk _›)
theorem adviseCores_keeps (hs : Keeps s₀ s) (x : CtxId) (tag : Nat) : Keeps s₀ (adviseCores x tag s) := by
  unfold adviseCores; try dsimp only
  repeat (first | with_reducible assumption | with_reducible apply forAll_keeps | with_reducible apply arriveNow_keeps
                | with_reducible apply ite_keeps | with_reducible exact keeps_refl _ | with_reducible intro _ | split)
theorem privArm_keeps (hs : Keeps s₀ s) (x : CtxId) (i : Nat) (hi : Word) : Keeps s₀ (privArm x i hi s) := by
  unfold privArm; try dsimp only
  repeat (first | with_reducible assumption | with_reducible apply onHub_keeps | with_reducible apply onAdv_keeps
                | with_reducible apply ite_keeps | with_reducible exact keeps_refl _ | with_reducible intro _ | split
                | with_reducible exact ‹Memory.wf _ = true› | exact ‹CcOk _› | exact ‹CoreOk _›)
theorem startXfer_keeps (hs : Keeps s₀ s) (c : CoreId) (w : IWord) (x : Xfer) : Keeps s₀ (startXfer c w x s) := by
  unfold startXfer; try dsimp only
  repeat (first | with_reducible assumption | with_reducible apply onE_keeps | with_reducible apply issueWord_keeps
                | with_reducible apply ite_keeps | with_reducible exact keeps_refl _ | with_reducible intro _ | split)
theorem issueFill_keeps (hs : Keeps s₀ s) (c : CoreId) (err : ReadErr) (w : IWord) (st : Strip) : Keeps s₀ (issueFill c err w st s) := by
  unfold issueFill; try dsimp only
  repeat (first | with_reducible assumption | with_reducible apply startXfer_keeps | with_reducible apply ite_keeps
                | with_reducible exact keeps_refl _ | with_reducible intro _ | split)
theorem issueMove_keeps (hs : Keeps s₀ s) (c : CoreId) (err : ReadErr) (w : IWord) (st : Strip) : Keeps s₀ (issueMove c err w st s) := by
  unfold issueMove; try dsimp only
  repeat (first | with_reducible assumption | with_reducible apply postFault_keeps | with_reducible apply startXfer_keeps
                | with_reducible apply ite_keeps | with_reducible exact keeps_refl _ | with_reducible intro _ | split)
theorem issueGate_keeps (hs : Keeps s₀ s) (c : CoreId) (kind : XKind) (w : IWord) (st : Strip) : Keeps s₀ (issueGate c kind w st s) := by
  unfold issueGate; try dsimp only
  repeat (first | with_reducible assumption | with_reducible apply startXfer_keeps | with_reducible apply ite_keeps
                | with_reducible exact keeps_refl _ | with_reducible intro _ | split)
theorem traceCfgWrite_keeps (hs : Keeps s₀ s) (c : CoreId) (v : Word) : Keeps s₀ (traceCfgWrite c v s) := by
  unfold traceCfgWrite; try dsimp only
  repeat (first | with_reducible assumption | with_reducible apply onCc_keeps | with_reducible apply ite_keeps
                | with_reducible exact keeps_refl _ | with_reducible intro _ | split | with_reducible exact ‹Memory.wf _ = true›
                | exact ‹CcOk _› | exact ‹CoreOk _›)
theorem onLoad_keeps (hs : Keeps s₀ s) (x : CtxId) (f : LoadCtx → LoadCtx) : Keeps s₀ (State.onLoad s x f) := by
  unfold State.onLoad; try dsimp only
  repeat (first | with_reducible assumption | with_reducible apply onHub_keeps | with_reducible apply ite_keeps
                | with_reducible exact keeps_refl _ | with_reducible intro _ | split | with_reducible exact ‹Memory.wf _ = true›
                | exact ‹CcOk _› | exact ‹CoreOk _›)
theorem loadRefused_keeps (hs : Keeps s₀ s) (x : CtxId) (src : CmdSrc) (f : LoadFail) : Keeps s₀ (loadRefused x src f s) := by
  unfold loadRefused; try dsimp only
  repeat (first | with_reducible assumption | with_reducible apply onLoad_keeps | with_reducible apply reply_keeps
                | with_reducible apply ite_keeps | with_reducible exact keeps_refl _ | with_reducible intro _ | split)
theorem releaseImage_keeps (hs : Keeps s₀ s) (x : Nat) : Keeps s₀ (releaseImage x s) := by
  unfold releaseImage; try dsimp only
  repeat (first | with_reducible assumption | with_reducible apply onCc_keeps | with_reducible apply forAll_keeps
                | with_reducible apply ite_keeps | with_reducible exact keeps_refl _ | with_reducible intro _ | split
                | with_reducible exact ‹Memory.wf _ = true› | exact ‹CcOk _› | exact ‹CoreOk _›)
theorem acceptImage_keeps (hs : Keeps s₀ s) (x : CtxId) (rows : List Row) : Keeps s₀ (acceptImage x rows s) := by
  unfold acceptImage; try dsimp only
  repeat (first | with_reducible assumption | with_reducible apply onCc_keeps | with_reducible apply onLs_keeps
                | with_reducible apply forAll_keeps | with_reducible apply onLoad_keeps | with_reducible apply releaseImage_keeps
                | with_reducible apply ite_keeps | with_reducible exact keeps_refl _ | with_reducible intro _ | split
                | with_reducible exact ‹Memory.wf _ = true› | exact ‹CcOk _› | exact ‹CoreOk _›)
theorem ccDrop_keeps (hs : Keeps s₀ s) (c : CoreId) : Keeps s₀ (ccDrop c s) := by
  unfold ccDrop; try dsimp only
  repeat (first | with_reducible assumption | with_reducible apply onCc_keeps | with_reducible apply onDie_keeps
                | with_reducible apply serve_keeps | with_reducible apply ite_keeps | with_reducible exact keeps_refl _
                | with_reducible intro _ | split | with_reducible exact ‹Memory.wf _ = true› | exact ‹CcOk _› | exact ‹CoreOk _›)
theorem ccHaltOp_keeps (hs : Keeps s₀ s) (c : CoreId) : Keeps s₀ (ccHaltOp c s) := by
  unfold ccHaltOp; try dsimp only
  repeat (first | with_reducible assumption | with_reducible apply onCc_keeps | with_reducible apply ccDrop_keeps
                | with_reducible apply ite_keeps | with_reducible exact keeps_refl _ | with_reducible intro _ | split
                | with_reducible exact ‹Memory.wf _ = true› | exact ‹CcOk _› | exact ‹CoreOk _›)
theorem ccStartOp_keeps (hs : Keeps s₀ s) (c : CoreId) (pc : Nat) : Keeps s₀ (ccStartOp c pc s) := by
  unfold ccStartOp; try dsimp only
  repeat (first | with_reducible assumption | with_reducible apply onCc_keeps | with_reducible apply ccDrop_keeps
                | with_reducible apply ite_keeps | with_reducible exact keeps_refl _ | with_reducible intro _ | split
                | with_reducible exact ‹Memory.wf _ = true› | exact ‹CcOk _› | exact ‹CoreOk _›)
theorem ctlGuard_keeps (hs : Keeps s₀ s) (ok : Bool) (c : CoreId) (word : Word) (f : State → State) (hf : ∀ t, Keeps s₀ t → Keeps s₀ (f t)) :
    Keeps s₀ (ctlGuard ok c word f s) := by
  unfold ctlGuard; try dsimp only
  repeat (first | with_reducible assumption | with_reducible apply hf | with_reducible apply ccIllegal_keeps
                | with_reducible apply ite_keeps | with_reducible exact keeps_refl _ | with_reducible intro _ | split)
theorem wfeReturn_keeps (hs : Keeps s₀ s) (c : CoreId) (rd : Nat) (mask : BitVec 6) : Keeps s₀ (wfeReturn c rd mask s) := by
  unfold wfeReturn; try dsimp only
  repeat (first | with_reducible assumption | with_reducible apply onCc_keeps | with_reducible apply ccNext_keeps
                | with_reducible apply ite_keeps | with_reducible exact keeps_refl _ | with_reducible intro _ | split
                | with_reducible exact ‹Memory.wf _ = true› | with_reducible apply regSet_ok | exact ‹CcOk _› | exact ‹CoreOk _›)
theorem instWfe_keeps (hs : Keeps s₀ s) (c : CoreId) (rd : Reg) (rs1 : Reg) : Keeps s₀ (instWfe c rd rs1 s) := by
  unfold instWfe; try dsimp only
  repeat (first | with_reducible assumption | with_reducible apply onCc_keeps | with_reducible apply ctlGuard_keeps
                | with_reducible apply wfeReturn_keeps | with_reducible apply ite_keeps | with_reducible exact keeps_refl _
                | with_reducible intro _ | split | with_reducible exact ‹Memory.wf _ = true› | exact ‹CcOk _› | exact ‹CoreOk _›)
theorem instHret_keeps (hs : Keeps s₀ s) (c : CoreId) : Keeps s₀ (instHret c s) := by
  unfold instHret; try dsimp only
  repeat (first | with_reducible assumption | with_reducible apply onCc_keeps | with_reducible apply ccRetire_keeps
                | with_reducible apply ctlGuard_keeps | with_reducible apply ite_keeps | with_reducible exact keeps_refl _
                | with_reducible intro _ | split | with_reducible exact ‹Memory.wf _ = true› | exact ‹CcOk _› | exact ‹CoreOk _›)
theorem clearFaulted_keeps (hs : Keeps s₀ s) (c : CoreId) : Keeps s₀ (clearFaulted c s) := by
  unfold clearFaulted; try dsimp only
  repeat (first | with_reducible assumption | with_reducible apply onSc_keeps | with_reducible apply launchStep_keeps
                | with_reducible apply ite_keeps | with_reducible exact keeps_refl _ | with_reducible intro _ | split)
theorem instFclr_keeps (hs : Keeps s₀ s) (c : CoreId) : Keeps s₀ (instFclr c s) := by
  unfold instFclr; try dsimp only
  repeat (first | with_reducible assumption | with_reducible apply ccNext_keeps | with_reducible apply clearFaulted_keeps
                | with_reducible apply ite_keeps | with_reducible exact keeps_refl _ | with_reducible intro _ | split)
theorem instSum_keeps (hs : Keeps s₀ s) (c : CoreId) (rd : Reg) (rs1 : Reg) : Keeps s₀ (instSum c rd rs1 s) := by
  unfold instSum; try dsimp only
  repeat (first | with_reducible assumption | with_reducible apply onE_keeps | with_reducible apply ccNext_keeps
                | with_reducible apply ctlGuard_keeps | with_reducible apply setReg_keeps | with_reducible apply ite_keeps
                | with_reducible exact keeps_refl _ | with_reducible intro _ | split)
theorem instStkrd_keeps (hs : Keeps s₀ s) (c : CoreId) (rd : Reg) (rs1 : Reg) : Keeps s₀ (instStkrd c rd rs1 s) := by
  unfold instStkrd; try dsimp only
  repeat (first | with_reducible assumption | with_reducible apply ccNext_keeps | with_reducible apply ctlGuard_keeps
                | with_reducible apply setReg_keeps | with_reducible apply ite_keeps | with_reducible exact keeps_refl _
                | with_reducible intro _ | split)
theorem instStkadd_keeps (hs : Keeps s₀ s) (c : CoreId) (rs1 : Reg) (rs2 : Reg) : Keeps s₀ (instStkadd c rs1 rs2 s) := by
  unfold instStkadd; try dsimp only
  repeat (first | with_reducible assumption | with_reducible apply arriveNow_keeps | with_reducible apply ccNext_keeps
                | with_reducible apply ctlGuard_keeps | with_reducible apply ite_keeps | with_reducible exact keeps_refl _
                | with_reducible intro _ | split)
theorem instStkclr_keeps (hs : Keeps s₀ s) (c : CoreId) (rd : Reg) (rs1 : Reg) : Keeps s₀ (instStkclr c rd rs1 s) := by
  unfold instStkclr; try dsimp only
  repeat (first | with_reducible assumption | with_reducible apply onSc_keeps | with_reducible apply ccNext_keeps
                | with_reducible apply ctlGuard_keeps | with_reducible apply setReg_keeps | with_reducible apply ite_keeps
                | with_reducible exact keeps_refl _ | with_reducible intro _ | split)
theorem writeHandle_keeps (hs : Keeps s₀ s) (c : CoreId) (h : Nat) (v : IWord) : Keeps s₀ (writeHandle c h v s) := by
  unfold writeHandle; try dsimp only
  repeat (first | with_reducible assumption | with_reducible apply onCore_keeps | with_reducible apply ite_keeps
                | with_reducible exact keeps_refl _ | with_reducible intro _ | split | with_reducible exact ‹Memory.wf _ = true›
                | exact ‹CcOk _› | exact ‹CoreOk _›)
theorem instHset_keeps (hs : Keeps s₀ s) (c : CoreId) (rd : Reg) (rs1 : Reg) (rs2 : Reg) (data : Ecc) :
    Keeps s₀ (instHset c rd rs1 rs2 data s) := by
  unfold instHset; try dsimp only
  repeat (first | with_reducible assumption | with_reducible apply ccMemEcc_keeps | with_reducible apply ccNext_keeps
                | with_reducible apply ccTrap_keeps | with_reducible apply ctlGuard_keeps | with_reducible apply setReg_keeps
                | with_reducible apply writeHandle_keeps | with_reducible apply ite_keeps | with_reducible exact keeps_refl _
                | with_reducible intro _ | split)
theorem releaseHandle_keeps (hs : Keeps s₀ s) (c : CoreId) (h : Nat) : Keeps s₀ (releaseHandle c h s) := by
  unfold releaseHandle; try dsimp only
  repeat (first | with_reducible assumption | with_reducible apply onSc_keeps | with_reducible apply freeHandle_keeps
                | with_reducible apply setHandle_keeps | with_reducible apply ite_keeps | with_reducible exact keeps_refl _
                | with_reducible intro _ | split)
theorem instHrel_keeps (hs : Keeps s₀ s) (c : CoreId) (rs1 : Reg) : Keeps s₀ (instHrel c rs1 s) := by
  unfold instHrel; try dsimp only
  repeat (first | with_reducible assumption | with_reducible apply ccNext_keeps | with_reducible apply ctlGuard_keeps
                | with_reducible apply releaseHandle_keeps | with_reducible apply ite_keeps | with_reducible exact keeps_refl _
                | with_reducible intro _ | split)
theorem instHalloc_keeps (hs : Keeps s₀ s) (c : CoreId) (rd : Reg) (rs1 : Reg) (rs2 : Reg) : Keeps s₀ (instHalloc c rd rs1 rs2 s) := by
  unfold instHalloc; try dsimp only
  repeat (first | with_reducible assumption | with_reducible apply onCc_keeps | with_reducible apply askAlloc_keeps
                | with_reducible apply ctlGuard_keeps | with_reducible apply ite_keeps | with_reducible exact keeps_refl _
                | with_reducible intro _ | split | with_reducible exact ‹Memory.wf _ = true› | exact ‹CcOk _› | exact ‹CoreOk _›)
theorem ccLate_keeps (hs : Keeps s₀ s) (c : CoreId) (n : Nat) : Keeps s₀ (ccLate c n s) := by
  unfold ccLate; try dsimp only
  repeat (first | with_reducible assumption | with_reducible apply onCc_keeps | with_reducible apply ite_keeps
                | with_reducible exact keeps_refl _ | with_reducible intro _ | split | with_reducible exact ‹Memory.wf _ = true›
                | exact ‹CcOk _› | exact ‹CoreOk _›)
theorem allocAnswer_keeps (hs : Keeps s₀ s) (d : DieId) (c : CoreId) (rd : Nat) (status : Nat) : Keeps s₀ (allocAnswer d c rd status s) := by
  unfold allocAnswer; try dsimp only
  repeat (first | with_reducible assumption | with_reducible apply onCc_keeps | with_reducible apply allocDone_keeps
                | with_reducible apply ccLate_keeps | with_reducible apply ite_keeps | with_reducible exact keeps_refl _
                | with_reducible intro _ | split | with_reducible exact ‹Memory.wf _ = true› | with_reducible apply regSet_ok
                | exact ‹CcOk _› | exact ‹CoreOk _›)
theorem hallocAnswer_keeps (hs : Keeps s₀ s) (d : DieId) (c : CoreId) (q : Nat × Nat × Fin 4 × Nat × Bool) : Keeps s₀ (hallocAnswer d c q s) := by
  unfold hallocAnswer; try dsimp only
  repeat (first | with_reducible assumption | with_reducible apply onM_keeps | with_reducible apply onDie_keeps
                | with_reducible apply allocAnswer_keeps | with_reducible apply setHandle_keeps | with_reducible apply ite_keeps
                | with_reducible exact keeps_refl _ | with_reducible intro _ | split | with_reducible exact ‹Memory.wf _ = true›
                | exact ‹CcOk _› | exact ‹CoreOk _›)
theorem winRequest_keeps (hs : Keeps s₀ s) (c : CoreId) (write : Bool) (row : Nat) (rd : Nat) : Keeps s₀ (winRequest c write row rd s) := by
  unfold winRequest; try dsimp only
  repeat (first | with_reducible assumption | with_reducible apply onCc_keeps | with_reducible apply ite_keeps
                | with_reducible exact keeps_refl _ | with_reducible intro _ | split | with_reducible exact ‹Memory.wf _ = true›
                | exact ‹CcOk _› | exact ‹CoreOk _›)
theorem instWrd_keeps (hs : Keeps s₀ s) (c : CoreId) (rd : Reg) (rs1 : Reg) : Keeps s₀ (instWrd c rd rs1 s) := by
  unfold instWrd; try dsimp only
  repeat (first | with_reducible assumption | with_reducible apply ctlGuard_keeps | with_reducible apply winRequest_keeps
                | with_reducible apply ite_keeps | with_reducible exact keeps_refl _ | with_reducible intro _ | split)
theorem instWwr_keeps (hs : Keeps s₀ s) (c : CoreId) (rs1 : Reg) : Keeps s₀ (instWwr c rs1 s) := by
  unfold instWwr; try dsimp only
  repeat (first | with_reducible assumption | with_reducible apply ctlGuard_keeps | with_reducible apply winRequest_keeps
                | with_reducible apply ite_keeps | with_reducible exact keeps_refl _ | with_reducible intro _ | split)
theorem instFpop_keeps (hs : Keeps s₀ s) (c : CoreId) (rd : Reg) (rs1 : Reg) : Keeps s₀ (instFpop c rd rs1 s) := by
  unfold instFpop; try dsimp only
  repeat (first | with_reducible assumption | with_reducible apply onCc_keeps | with_reducible apply ccNext_keeps
                | with_reducible apply ccTrap_keeps | with_reducible apply ctlGuard_keeps | with_reducible apply setReg_keeps
                | with_reducible apply ite_keeps | with_reducible exact keeps_refl _ | with_reducible intro _ | split
                | with_reducible apply writeCells_wf | with_reducible exact ‹Memory.wf _ = true› | with_reducible apply regSet_ok
                | exact ‹CcOk _› | (apply ccOk_dmem; assumption; rfl; rfl; rfl) | exact ‹CoreOk _› | with_reducible apply withMem_keeps)
theorem passLanded_keeps (hs : Keeps s₀ s) (c : CoreId) (r : Nat) (l : Landed) : Keeps s₀ (passLanded c r l s) := by
  unfold passLanded; try dsimp only
  repeat (first | with_reducible assumption | with_reducible apply onCc_keeps | with_reducible apply ite_keeps
                | with_reducible exact keeps_refl _ | with_reducible intro _ | split | with_reducible exact ‹Memory.wf _ = true›
                | exact ‹CcOk _› | exact ‹CoreOk _›)
theorem startHandler_keeps (hs : Keeps s₀ s) (c : CoreId) (r : Nat) (l : Landed) (entry : BitVec 16) : Keeps s₀ (startHandler c r l entry s) := by
  unfold startHandler; try dsimp only
  repeat (first | with_reducible assumption | with_reducible apply onCc_keeps | with_reducible apply ite_keeps
                | with_reducible exact keeps_refl _ | with_reducible intro _ | split | with_reducible exact ‹Memory.wf _ = true›
                | with_reducible apply regSet_ok | exact ‹CcOk _› | exact ‹CoreOk _›)
theorem noHandler_keeps (hs : Keeps s₀ s) (c : CoreId) (r : Nat) (k : Nat) (tag : Nat) : Keeps s₀ (noHandler c r k tag s) := by
  unfold noHandler; try dsimp only
  repeat (first | with_reducible assumption | with_reducible apply postFault_keeps | with_reducible apply ite_keeps
                | with_reducible exact keeps_refl _ | with_reducible intro _ | split)
theorem dispatchFrom_keeps (hs : Keeps s₀ s) (c : CoreId) (n : Nat) : Keeps s₀ (dispatchFrom c n s) := by
  induction n generalizing s with
  | zero => exact hs
  | succ n ih =>
    unfold dispatchFrom; try dsimp only
    repeat (first | with_reducible apply ih | with_reducible assumption | with_reducible apply noHandler_keeps
                  | with_reducible apply passLanded_keeps | with_reducible apply startHandler_keeps | with_reducible apply ite_keeps
                  | with_reducible exact keeps_refl _ | with_reducible intro _ | split)
theorem progDone_keeps (hs : Keeps s₀ s) (c : CoreId) (failed : Bool) : Keeps s₀ (progDone c failed s) := by
  unfold progDone; try dsimp only
  repeat (first | with_reducible assumption | with_reducible apply onHl_keeps | with_reducible apply replyDone_keeps
                | with_reducible apply ite_keeps | with_reducible exact keeps_refl _ | with_reducible intro _ | split)
theorem progRows_keeps (hs : Keeps s₀ s) (c : CoreId) (g : ProgCopy) (err : ReadErr) : Keeps s₀ (progRows c g err s).2 :=
  foldl_keeps Prod.snd _ _ _ hs fun _ _ h => noteEcc_keeps h _ _
theorem onRing_keeps (hs : Keeps s₀ s) (c : CoreId) (r : Nat) (f : Ring → Ring) : Keeps s₀ (State.onRing s c r f) := by
  unfold State.onRing; try dsimp only
  repeat (first | with_reducible assumption | with_reducible apply onCc_keeps | with_reducible apply ite_keeps
                | with_reducible exact keeps_refl _ | with_reducible intro _ | split | with_reducible exact ‹Memory.wf _ = true›
                | exact ‹CcOk _› | exact ‹CoreOk _›)
theorem ringWrite_keeps (hs : Keeps s₀ s) (c : CoreId) (a : Nat) (d : Row) : Keeps s₀ (ringWrite c a d s) := by
  unfold ringWrite; try dsimp only
  repeat (first | with_reducible assumption | with_reducible apply inboundWrite_keeps | with_reducible apply ite_keeps
                | with_reducible exact keeps_refl _ | with_reducible intro _ | split)
theorem reserveRing_keeps (hs : Keeps s₀ s) (c : CoreId) (r : Nat) (h : Row) (wait : Bool) (fit : Bool × Nat) :
    Keeps s₀ (reserveRing c r h wait fit s) := by
  unfold reserveRing; try dsimp only
  repeat (first | with_reducible assumption | with_reducible apply onRing_keeps | with_reducible apply ringWrite_keeps
                | with_reducible apply ite_keeps | with_reducible exact keeps_refl _ | with_reducible intro _ | split)
theorem appendSpill_keeps (hs : Keeps s₀ s) (c : CoreId) (r : Nat) (h : Row) (wait : Bool) (fit : Bool × Nat) :
    Keeps s₀ (appendSpill c r h wait fit s) := by
  unfold appendSpill; try dsimp only
  repeat (first | with_reducible assumption | with_reducible apply onCc_keeps | with_reducible apply onRing_keeps
                | with_reducible apply writeRow_keeps | with_reducible apply ite_keeps | with_reducible exact keeps_refl _
                | with_reducible intro _ | split | with_reducible exact ‹Memory.wf _ = true› | exact ‹CcOk _› | exact ‹CoreOk _›)
theorem landMsgRow_keeps (hs : Keeps s₀ s) (c : CoreId) (r : RingId) (h : Row) (at_ : Nat) (d : Row) : Keeps s₀ (landMsgRow c r h at_ d s) := by
  unfold landMsgRow; try dsimp only
  repeat (first | with_reducible assumption | with_reducible apply onM_keeps | with_reducible apply ite_keeps
                | with_reducible exact keeps_refl _ | with_reducible intro _ | split | with_reducible exact ‹Memory.wf _ = true›
                | exact ‹CcOk _› | exact ‹CoreOk _›)
theorem rxBounce_keeps (hs : Keeps s₀ s) (c : CoreId) (plane : Nat) (reason : Nat) (h : Row) : Keeps s₀ (rxBounce c plane reason h s) := by
  unfold rxBounce; try dsimp only
  repeat (first | with_reducible assumption | with_reducible apply onCc_keeps | with_reducible apply bounceMsg_keeps
                | with_reducible apply ite_keeps | with_reducible exact keeps_refl _ | with_reducible intro _ | split
                | with_reducible exact ‹Memory.wf _ = true› | exact ‹CcOk _› | exact ‹CoreOk _›)
theorem holdMsg_keeps (hs : Keeps s₀ s) (c : CoreId) (r : Nat) (plane : Nat) (h : Row) : Keeps s₀ (holdMsg c r plane h s) := by
  unfold holdMsg; try dsimp only
  repeat (first | with_reducible assumption | with_reducible apply onCc_keeps | with_reducible apply onRing_keeps
                | with_reducible apply rxBounce_keeps | with_reducible apply ite_keeps | with_reducible exact keeps_refl _
                | with_reducible intro _ | split | with_reducible exact ‹Memory.wf _ = true› | exact ‹CcOk _› | exact ‹CoreOk _›)
theorem placeMsg_keeps (hs : Keeps s₀ s) (c : CoreId) (r : RingId) (plane : Nat) (h : Row) : Keeps s₀ (placeMsg c r plane h s) := by
  unfold placeMsg; try dsimp only
  repeat (first | with_reducible assumption | with_reducible apply appendSpill_keeps | with_reducible apply holdMsg_keeps
                | with_reducible apply landMsgRow_keeps | with_reducible apply reserveRing_keeps | with_reducible apply ite_keeps
                | with_reducible exact keeps_refl _ | with_reducible intro _ | split)
theorem coreHeader_keeps (hs : Keeps s₀ s) (c : CoreId) (plane : Nat) (h : Row) : Keeps s₀ (coreHeader c plane h s) := by
  unfold coreHeader; try dsimp only
  repeat (first | with_reducible assumption | with_reducible apply landMsgRow_keeps | with_reducible apply onRing_keeps
                | with_reducible apply placeMsg_keeps | with_reducible apply rxBounce_keeps | with_reducible apply ite_keeps
                | with_reducible exact keeps_refl _ | with_reducible intro _ | split)
theorem dropItem_keeps (hs : Keeps s₀ s) (i : Nat) : Keeps s₀ (dropItem i s) := by
  unfold dropItem; try dsimp only
  repeat (first | with_reducible assumption | with_reducible apply ite_keeps | with_reducible exact keeps_refl _ | with_reducible intro _
                | split | with_reducible apply withNet_keeps)
theorem hubHeader_keeps (hs : Keeps s₀ s) (x : Item) : Keeps s₀ (hubHeader x s) := by
  unfold hubHeader; try dsimp only
  repeat (first | with_reducible assumption | with_reducible apply bounceMsg_keeps | with_reducible apply headlandLand_keeps
                | with_reducible apply hostEnqueue_keeps | with_reducible apply ite_keeps | with_reducible exact keeps_refl _
                | with_reducible intro _ | split | with_reducible apply withNet_keeps)
theorem takeHeader_keeps (hs : Keeps s₀ s) (c : CoreId) (i : Nat) (rank : Nat) (x : Item) : Keeps s₀ (takeHeader c i rank x s) := by
  unfold takeHeader; try dsimp only
  repeat (first | with_reducible assumption | with_reducible apply coreHeader_keeps | with_reducible apply dropItem_keeps
                | with_reducible apply onRing_keeps | with_reducible apply ite_keeps | with_reducible exact keeps_refl _
                | with_reducible intro _ | split)
theorem takePayload_keeps (hs : Keeps s₀ s) (c : CoreId) (i : Nat) (x : Item) : Keeps s₀ (takePayload c i x s) := by
  unfold takePayload; try dsimp only
  repeat (first | with_reducible assumption | with_reducible apply dropItem_keeps | with_reducible apply landMsgRow_keeps
                | with_reducible apply onRing_keeps | with_reducible apply ite_keeps | with_reducible exact keeps_refl _
                | with_reducible intro _ | split)
theorem passEntry_keeps (hs : Keeps s₀ s) (c : CoreId) (r : Nat) (m : RMsg) : Keeps s₀ (passEntry c r m s) := by
  unfold passEntry; try dsimp only
  repeat (first | with_reducible assumption | with_reducible apply answerMsg_keeps | with_reducible apply arriveNow_keeps
                | with_reducible apply ccEvent_keeps | with_reducible apply onRing_keeps | with_reducible apply ringWrite_keeps
                | with_reducible apply ite_keeps | with_reducible exact keeps_refl _ | with_reducible intro _ | split)
theorem passNext_keeps (hs : Keeps s₀ s) (c : CoreId) (r : Nat) (n : List RMsg) : Keeps s₀ (passNext c r n s) := by
  induction n generalizing s with
  | nil => exact hs
  | cons r rs ih =>
    unfold passNext; try dsimp only
    repeat (first | with_reducible apply ih | with_reducible assumption | with_reducible apply passEntry_keeps
                  | with_reducible apply ite_keeps | with_reducible exact keeps_refl _ | with_reducible intro _ | split)
theorem voidSpill_keeps (hs : Keeps s₀ s) (c : CoreId) (r : Nat) (m : RMsg) : Keeps s₀ (voidSpill c r m s) := by
  unfold voidSpill; try dsimp only
  repeat (first | with_reducible assumption | with_reducible apply onRing_keeps | with_reducible apply writeRow_keeps
                | with_reducible apply ite_keeps | with_reducible exact keeps_refl _ | with_reducible intro _ | split)
theorem dropRows_keeps (hs : Keeps s₀ s) (c : CoreId) (r : Nat) (h : Row) : Keeps s₀ (dropRows c r h s) := by
  unfold dropRows; try dsimp only
  repeat (first | with_reducible assumption | with_reducible apply onM_keeps | with_reducible apply ite_keeps
                | with_reducible exact keeps_refl _ | with_reducible intro _ | split | with_reducible exact ‹Memory.wf _ = true›
                | exact ‹CcOk _› | exact ‹CoreOk _›)
theorem voidRing_keeps (hs : Keeps s₀ s) (c : CoreId) (r : Nat) (m : RMsg) : Keeps s₀ (voidRing c r m s) := by
  unfold voidRing; try dsimp only
  repeat (first | with_reducible assumption | with_reducible apply dropRows_keeps | with_reducible apply onRing_keeps
                | with_reducible apply ringWrite_keeps | with_reducible apply ite_keeps | with_reducible exact keeps_refl _
                | with_reducible intro _ | split)
theorem writeSpill_keeps (hs : Keeps s₀ s) (c : CoreId) (r : Nat) (m : RMsg) : Keeps s₀ (writeSpill c r m s) := by
  unfold writeSpill; try dsimp only
  repeat (first | with_reducible assumption | with_reducible apply onRing_keeps | with_reducible apply postFault_keeps
                | with_reducible apply rxBounce_keeps | with_reducible apply voidSpill_keeps | with_reducible apply writeRows_keeps
                | with_reducible apply ite_keeps | with_reducible exact keeps_refl _ | with_reducible intro _ | split)
theorem popSpill_keeps (hs : Keeps s₀ s) (c : CoreId) (r : Nat) (m : RMsg) : Keeps s₀ (popSpill c r m s) := by
  unfold popSpill; try dsimp only
  repeat (first | with_reducible assumption | with_reducible apply onRing_keeps | with_reducible apply ite_keeps
                | with_reducible exact keeps_refl _ | with_reducible intro _ | split)
theorem landRows_keeps (hs : Keeps s₀ s) (c : CoreId) (r : RingId) (h : Row) (at_ : Nat) (rs : List Row) :
    Keeps s₀ (landRows c r h at_ rs s) := by
  induction rs generalizing s at_ with
  | nil => exact hs
  | cons x rs ih => exact ih (landMsgRow_keeps hs c r h at_ x) _
theorem spillRows_keeps (hs : Keeps s₀ s) (a : Nat) (n : Nat) (err : ReadErr) : Keeps s₀ (spillRows a n err s).2.2 :=
  foldl_keeps (fun x : List Row × Option (Nat × Ecc) × State => x.2.2) _ _ _ hs fun _ _ h => readNoted_keeps h _ _
theorem drainLost_keeps (hs : Keeps s₀ s) (c : CoreId) (r : Nat) (at_ : Nat) (m : RMsg) (f : Flt) : Keeps s₀ (drainLost c r at_ m f s) := by
  unfold drainLost; try dsimp only
  repeat (first | with_reducible assumption | with_reducible apply postFault_keeps | with_reducible apply rxBounce_keeps
                | with_reducible apply voidRing_keeps | with_reducible apply ite_keeps | with_reducible exact keeps_refl _
                | with_reducible intro _ | split)
theorem drainMsg_keeps (hs : Keeps s₀ s) (c : CoreId) (r : RingId) (err : ReadErr) (m : RMsg) (f : Bool × Nat) :
    Keeps s₀ (drainMsg c r err m f s) := by
  have h1 := popSpill_keeps (reserveRing_keeps hs c r.val m.hdr false f) c r.val m
  unfold drainMsg; dsimp only
  refine ite_keeps (fun _ => drainLost_keeps h1 _ _ _ _ _) fun _ => ?_
  have h2 := fun a => spillRows_keeps h1 a m.len err
  split
  · exact drainLost_keeps (h2 _) _ _ _ _ _
  · exact landRows_keeps (h2 _) _ _ _ _ _
theorem drainSpill_keeps (hs : Keeps s₀ s) (c : CoreId) (r : RingId) (err : ReadErr) (n : List RMsg) : Keeps s₀ (drainSpill c r err n s) := by
  induction n generalizing s with
  | nil => exact hs
  | cons r rs ih =>
    unfold drainSpill; try dsimp only
    repeat (first | with_reducible apply ih | with_reducible assumption | with_reducible apply drainMsg_keeps
                  | with_reducible apply popSpill_keeps | with_reducible apply ite_keeps | with_reducible exact keeps_refl _
                  | with_reducible intro _ | split)
theorem endSend_keeps (hs : Keeps s₀ s) (c : CoreId) (i : Item) : Keeps s₀ (endSend c i s) := by
  unfold endSend; try dsimp only
  repeat (first | with_reducible assumption | with_reducible apply onCc_keeps | with_reducible apply ite_keeps
                | with_reducible exact keeps_refl _ | with_reducible intro _ | split | with_reducible exact ‹Memory.wf _ = true›
                | exact ‹CcOk _› | exact ‹CoreOk _›)
theorem sendLoss_keeps (hs : Keeps s₀ s) (plane : Nat) (pos : Nat) (core : Nat) (src : Nat) (tag : Nat) (seq : Nat) :
    Keeps s₀ (sendLoss plane pos core src tag seq s) := by
  unfold sendLoss; try dsimp only
  repeat (first | with_reducible assumption | with_reducible apply putItem_keeps | with_reducible apply ite_keeps
                | with_reducible exact keeps_refl _ | with_reducible intro _ | split)
theorem lossOf_keeps (hs : Keeps s₀ s) (h : Row) : Keeps s₀ (lossOf h s) := by
  unfold lossOf; try dsimp only
  repeat (first | with_reducible assumption | with_reducible apply sendLoss_keeps | with_reducible apply ite_keeps
                | with_reducible exact keeps_refl _ | with_reducible intro _ | split)
theorem bounced_keeps (hs : Keeps s₀ s) (c : CoreId) (h : Row) (reason : Nat) : Keeps s₀ (bounced c h reason s) := by
  unfold bounced; try dsimp only
  repeat (first | with_reducible assumption | with_reducible apply onCc_keeps | with_reducible apply postFault_keeps
                | with_reducible apply ite_keeps | with_reducible exact keeps_refl _ | with_reducible intro _ | split
                | with_reducible exact ‹Memory.wf _ = true› | exact ‹CcOk _› | exact ‹CoreOk _›)
theorem msgLost_keeps (hs : Keeps s₀ s) (c : CoreId) (x : Item) : Keeps s₀ (msgLost c x s) := by
  unfold msgLost; try dsimp only
  repeat (first | with_reducible assumption | with_reducible apply forAll_keeps | with_reducible apply onRing_keeps
                | with_reducible apply voidRing_keeps | with_reducible apply voidSpill_keeps | with_reducible apply ite_keeps
                | with_reducible exact keeps_refl _ | with_reducible intro _ | split)
theorem cutWrite_keeps (hs : Keeps s₀ s) (c : CoreId) (id : Nat) (f : Flt) : Keeps s₀ (cutWrite c id f s) := by
  unfold cutWrite; try dsimp only
  repeat (first | with_reducible assumption | with_reducible apply onE_keeps | with_reducible apply lateFault_keeps
                | with_reducible apply sweepLate_keeps | with_reducible apply ite_keeps | with_reducible exact keeps_refl _
                | with_reducible intro _ | split)
theorem rowLost_keeps (hs : Keeps s₀ s) (c : CoreId) (x : Item) : Keeps s₀ (rowLost c x s) := by
  unfold rowLost; try dsimp only
  repeat (first | with_reducible assumption | with_reducible apply cutLate_keeps | with_reducible apply cutWrite_keeps
                | with_reducible apply ite_keeps | with_reducible exact keeps_refl _ | with_reducible intro _ | split)
theorem rowDiscarded_keeps (hs : Keeps s₀ s) (c : CoreId) (x : Item) : Keeps s₀ (rowDiscarded c x s) := by
  unfold rowDiscarded; try dsimp only
  repeat (first | with_reducible assumption | with_reducible apply postFault_keeps | with_reducible apply ite_keeps
                | with_reducible exact keeps_refl _ | with_reducible intro _ | split)
theorem sendLost_keeps (hs : Keeps s₀ s) (x : Item) : Keeps s₀ (sendLost x s) := by
  unfold sendLost; try dsimp only
  repeat (first | with_reducible assumption | with_reducible apply onCc_keeps | with_reducible apply bounced_keeps
                | with_reducible apply hubBounce_keeps | with_reducible apply lossOf_keeps | with_reducible apply ite_keeps
                | with_reducible exact keeps_refl _ | with_reducible intro _ | split | with_reducible exact ‹Memory.wf _ = true›
                | exact ‹CcOk _› | exact ‹CoreOk _›)
theorem messageLoss_keeps (hs : Keeps s₀ s) (i : Nat) (x : Item) : Keeps s₀ (messageLoss i x s) := by
  unfold messageLoss; try dsimp only
  repeat (first | with_reducible assumption | with_reducible apply dropItem_keeps | with_reducible apply msgLost_keeps
                | with_reducible apply ite_keeps | with_reducible exact keeps_refl _ | with_reducible intro _ | split
                | with_reducible apply withNet_keeps)
theorem hubWriteLost_keeps (hs : Keeps s₀ s) (x : Item) : Keeps s₀ (hubWriteLost x s) := by
  unfold hubWriteLost; try dsimp only
  repeat (first | with_reducible assumption | with_reducible apply onHl_keeps | with_reducible apply ite_keeps
                | with_reducible exact keeps_refl _ | with_reducible intro _ | split)
theorem instSend_keeps (hs : Keeps s₀ s) (c : CoreId) (rd : Reg) (rs1 : Reg) : Keeps s₀ (instSend c rd rs1 s) := by
  unfold instSend; try dsimp only
  repeat (first | with_reducible assumption | with_reducible apply onCc_keeps | with_reducible apply ccNext_keeps
                | with_reducible apply ctlGuard_keeps | with_reducible apply setReg_keeps | with_reducible apply ite_keeps
                | with_reducible exact keeps_refl _ | with_reducible intro _ | split | with_reducible exact ‹Memory.wf _ = true›
                | exact ‹CcOk _› | exact ‹CoreOk _›)
theorem departRows_keeps (hs : Keeps s₀ s) (h : Row) (k0 : Nat) (rows : List Row) : Keeps s₀ (departRows h k0 rows s) := by
  unfold departRows; try dsimp only
  repeat (first | with_reducible assumption | with_reducible apply forAll_keeps | with_reducible apply putItem_keeps
                | with_reducible apply ite_keeps | with_reducible exact keeps_refl _ | with_reducible intro _ | split)
theorem setSend_keeps (hs : Keeps s₀ s) (c : CoreId) (i : Nat) (x : Send) : Keeps s₀ (setSend c i x s) := by
  unfold setSend; try dsimp only
  repeat (first | with_reducible assumption | with_reducible apply onCc_keeps | with_reducible apply ite_keeps
                | with_reducible exact keeps_refl _ | with_reducible intro _ | split | with_reducible exact ‹Memory.wf _ = true›
                | exact ‹CcOk _› | exact ‹CoreOk _›)
theorem dropSend_keeps (hs : Keeps s₀ s) (c : CoreId) (i : Nat) : Keeps s₀ (dropSend c i s) := by
  unfold dropSend; try dsimp only
  repeat (first | with_reducible assumption | with_reducible apply onCc_keeps | with_reducible apply ite_keeps
                | with_reducible exact keeps_refl _ | with_reducible intro _ | split | with_reducible exact ‹Memory.wf _ = true›
                | exact ‹CcOk _› | exact ‹CoreOk _›)
theorem sendRow_keeps (hs : Keeps s₀ s) (c : CoreId) (i : Nat) (x : Send) (d : Row) : Keeps s₀ (sendRow c i x d s) := by
  unfold sendRow; try dsimp only
  repeat (first | with_reducible assumption | with_reducible apply departRows_keeps | with_reducible apply setSend_keeps
                | with_reducible apply ite_keeps | with_reducible exact keeps_refl _ | with_reducible intro _ | split)
theorem sendHeader_keeps (hs : Keeps s₀ s) (c : CoreId) (i : Nat) (x : Send) (d : Row) : Keeps s₀ (sendHeader c i x d s) := by
  unfold sendHeader; try dsimp only
  repeat (first | with_reducible assumption | with_reducible apply onCc_keeps | with_reducible apply bounced_keeps
                | with_reducible apply dropSend_keeps | with_reducible apply fresh_keeps | with_reducible apply sendRow_keeps
                | with_reducible apply ite_keeps | with_reducible exact keeps_refl _ | with_reducible intro _ | split
                | with_reducible exact ‹Memory.wf _ = true› | exact ‹CcOk _› | exact ‹CoreOk _›)
theorem sendCut_keeps (hs : Keeps s₀ s) (c : CoreId) (i : Nat) (x : Send) (f : Flt) : Keeps s₀ (sendCut c i x f s) := by
  unfold sendCut; try dsimp only
  repeat (first | with_reducible assumption | with_reducible apply onCc_keeps | with_reducible apply dropSend_keeps
                | with_reducible apply lossOf_keeps | with_reducible apply postFault_keeps | with_reducible apply ite_keeps
                | with_reducible exact keeps_refl _ | with_reducible intro _ | split | with_reducible exact ‹Memory.wf _ = true›
                | exact ‹CcOk _› | exact ‹CoreOk _›)
theorem sendRead_keeps (hs : Keeps s₀ s) (c : CoreId) (i : Nat) (x : Send) (ecc : Ecc) : Keeps s₀ (sendRead c i x ecc s) := by
  unfold sendRead; try dsimp only
  repeat (first | with_reducible assumption | with_reducible apply onCc_keeps | with_reducible apply postFault_keeps
                | with_reducible apply readNoted_keeps | with_reducible apply sendCut_keeps | with_reducible apply sendHeader_keeps
                | with_reducible apply sendRow_keeps | with_reducible apply use7_keeps | with_reducible apply ite_keeps
                | with_reducible exact keeps_refl _ | with_reducible intro _ | split | with_reducible exact ‹Memory.wf _ = true›
                | exact ‹CcOk _› | exact ‹CoreOk _›)
theorem ringSetRptrOp_keeps (hs : Keeps s₀ s) (c : CoreId) (r : Nat) (v : Nat) : Keeps s₀ (ringSetRptrOp c r v s).2 := by
  unfold ringSetRptrOp; try dsimp only
  repeat (first | with_reducible assumption | with_reducible apply onCc_keeps | with_reducible apply onRing_keeps
                | with_reducible apply ite_keeps | with_reducible exact keeps_refl _ | with_reducible intro _ | split
                | with_reducible exact ‹Memory.wf _ = true› | exact ‹CcOk _› | exact ‹CoreOk _›)
theorem ringOpenOp_keeps (hs : Keeps s₀ s) (c : CoreId) (r : Nat) : Keeps s₀ (ringOpenOp c r s).2 := by
  unfold ringOpenOp; try dsimp only
  repeat (first | with_reducible assumption | with_reducible apply onCc_keeps | with_reducible apply onRing_keeps
                | with_reducible apply ite_keeps | with_reducible exact keeps_refl _ | with_reducible intro _ | split
                | with_reducible exact ‹Memory.wf _ = true› | exact ‹CcOk _› | exact ‹CoreOk _›)
theorem bounceWaiting_keeps (hs : Keeps s₀ s) (c : CoreId) (r : Nat) (reason : Nat) : Keeps s₀ (bounceWaiting c r reason s) := by
  unfold bounceWaiting; try dsimp only
  repeat (first | with_reducible assumption | with_reducible apply forAll_keeps | with_reducible apply onRing_keeps
                | with_reducible apply rxBounce_keeps | with_reducible apply ite_keeps | with_reducible exact keeps_refl _
                | with_reducible intro _ | split)
theorem unplace_keeps (hs : Keeps s₀ s) (c : CoreId) (r : Nat) : Keeps s₀ (unplace c r s) := by
  unfold unplace; try dsimp only
  repeat (first | with_reducible assumption | with_reducible apply forAll_keeps | with_reducible apply dropRows_keeps
                | with_reducible apply fresh_keeps | with_reducible apply onRing_keeps | with_reducible apply rxBounce_keeps
                | with_reducible apply ite_keeps | with_reducible exact keeps_refl _ | with_reducible intro _ | split)
theorem ringCloseOp_keeps (hs : Keeps s₀ s) (c : CoreId) (r : Nat) : Keeps s₀ (ringCloseOp c r s).2 := by
  unfold ringCloseOp; try dsimp only
  repeat (first | with_reducible assumption | with_reducible apply bounceWaiting_keeps | with_reducible apply onRing_keeps
                | with_reducible apply unplace_keeps | with_reducible apply ite_keeps | with_reducible exact keeps_refl _
                | with_reducible intro _ | split)
theorem instRing_keeps (hs : Keeps s₀ s) (c : CoreId) (rd : Reg) (rs1 : Reg) (rs2 : Reg) : Keeps s₀ (instRing c rd rs1 rs2 s) := by
  unfold instRing; try dsimp only
  repeat (first | with_reducible assumption | with_reducible apply ccNext_keeps | with_reducible apply ctlGuard_keeps
                | with_reducible apply ringCloseOp_keeps | with_reducible apply ringOpenOp_keeps | with_reducible apply ringSetRptrOp_keeps
                | with_reducible apply setReg_keeps | with_reducible apply ite_keeps | with_reducible exact keeps_refl _
                | with_reducible intro _ | split)
theorem ringCommand_keeps (hs : Keeps s₀ s) (c : CoreId) (t : Nat) (op : Nat) (rd : Reg) (rs1 : Reg) (rs2 : Reg) :
    AnswerKeeps s₀ (ringCommand c t op rd rs1 rs2 s) := by
  unfold ringCommand; try dsimp only
  repeat (first | with_reducible assumption | with_reducible apply atCore_keeps | with_reducible apply instRing_keeps
                | with_reducible apply iteAnswer_keeps | with_reducible apply ite_keeps | with_reducible exact keeps_refl _
                | with_reducible intro _ | split)
theorem atNs_keeps (hs : Keeps s₀ s) (ns : Nat) : Keeps s₀ (State.atNs ns s) := by
  unfold State.atNs; try dsimp only
  repeat (first | with_reducible assumption | with_reducible apply onHub_keeps | with_reducible apply ite_keeps
                | with_reducible exact keeps_refl _ | with_reducible intro _ | split | with_reducible exact ‹Memory.wf _ = true›
                | exact ‹CcOk _› | exact ‹CoreOk _›)
theorem reroute_keeps (hs : Keeps s₀ s) (pl : Nat) (x : OutFlit) : Keeps s₀ (reroute pl x s) := by
  unfold reroute; try dsimp only
  repeat (first | with_reducible assumption | with_reducible apply onPort_keeps | with_reducible apply forAll_keeps
                | with_reducible apply putItem_keeps | with_reducible apply ite_keeps | with_reducible exact keeps_refl _
                | with_reducible intro _ | split)
theorem linkAlarm_keeps (hs : Keeps s₀ s) (p : PortId) : Keeps s₀ (linkAlarm p s) := by
  unfold linkAlarm; try dsimp only
  repeat (first | with_reducible assumption | with_reducible apply attention_keeps | with_reducible apply headlandFault_keeps
                | with_reducible apply ite_keeps | with_reducible exact keeps_refl _ | with_reducible intro _ | split)
theorem leaveUp_keeps (hs : Keeps s₀ s) (p : PortId) (st : PortState) : Keeps s₀ (leaveUp p st s) := by
  unfold leaveUp; try dsimp only
  repeat (first | with_reducible assumption | with_reducible apply setPort_keeps | with_reducible apply forAll_keeps
                | with_reducible apply linkAlarm_keeps | with_reducible apply putItem_keeps | with_reducible apply reroute_keeps
                | with_reducible apply ite_keeps | with_reducible exact keeps_refl _ | with_reducible intro _ | split)
theorem portTo_keeps (hs : Keeps s₀ s) (p : PortId) (st : PortState) : Keeps s₀ (portTo p st s) := by
  unfold portTo; try dsimp only
  repeat (first | with_reducible assumption | with_reducible apply onPort_keeps | with_reducible apply leaveUp_keeps
                | with_reducible apply ite_keeps | with_reducible exact keeps_refl _ | with_reducible intro _ | split)
theorem writeRoute_keeps (hs : Keeps s₀ s) (pos : Nat) (e : Nat) : Keeps s₀ (writeRoute pos e s) := by
  unfold writeRoute; try dsimp only
  repeat (first | with_reducible assumption | with_reducible apply onHub_keeps | with_reducible apply ite_keeps
                | with_reducible exact keeps_refl _ | with_reducible intro _ | split | with_reducible exact ‹Memory.wf _ = true›
                | exact ‹CcOk _› | exact ‹CoreOk _›)
theorem torusWrite_keeps (hs : Keeps s₀ s) (v : Word) : Keeps s₀ (torusWrite v s) := by
  unfold torusWrite; try dsimp only
  repeat (first | with_reducible assumption | with_reducible apply onHub_keeps | with_reducible apply ite_keeps
                | with_reducible exact keeps_refl _ | with_reducible intro _ | split | with_reducible exact ‹Memory.wf _ = true›
                | exact ‹CcOk _› | exact ‹CoreOk _›)
theorem endRx_keeps (hs : Keeps s₀ s) (i : Item) : Keeps s₀ (endRx i s) := by
  unfold endRx; try dsimp only
  repeat (first | with_reducible assumption | with_reducible apply onPort_keeps | with_reducible apply forAll_keeps
                | with_reducible apply ite_keeps | with_reducible exact keeps_refl _ | with_reducible intro _ | split)
theorem itemIn_keeps (hs : Keeps s₀ s) (p : PortId) (i : Item) : Keeps s₀ (itemIn p i s) := by
  unfold itemIn; try dsimp only
  repeat (first | with_reducible assumption | with_reducible apply onPort_keeps | with_reducible apply endRx_keeps
                | with_reducible apply putItem_keeps | with_reducible apply ite_keeps | with_reducible exact keeps_refl _
                | with_reducible intro _ | split | with_reducible apply withNet_keeps)
theorem rowIn_keeps (hs : Keeps s₀ s) (p : PortId) (d : BitVec 128) (r : Row) : Keeps s₀ (rowIn p d r s) := by
  unfold rowIn; try dsimp only
  repeat (first | with_reducible assumption | with_reducible apply onPort_keeps | with_reducible apply next_keeps
                | with_reducible apply itemIn_keeps | with_reducible apply ite_keeps | with_reducible exact keeps_refl _
                | with_reducible intro _ | split)
theorem flitIn_keeps (hs : Keeps s₀ s) (p : PortId) (x : BitVec 128 × Flit) : Keeps s₀ (flitIn p x s) := by
  unfold flitIn; try dsimp only
  repeat (first | with_reducible assumption | with_reducible apply onPort_keeps | with_reducible apply forAll_keeps
                | with_reducible apply itemIn_keeps | with_reducible apply rowIn_keeps | with_reducible apply ite_keeps
                | with_reducible exact keeps_refl _ | with_reducible intro _ | split | with_reducible apply withNet_keeps)
theorem discardFrame_keeps (hs : Keeps s₀ s) (p : PortId) (f : Frame) (nak : Bool) : Keeps s₀ (discardFrame p f nak s) := by
  unfold discardFrame; try dsimp only
  repeat (first | with_reducible assumption | with_reducible apply onPort_keeps | with_reducible apply ite_keeps
                | with_reducible exact keeps_refl _ | with_reducible intro _ | split)
theorem ackFrames_keeps (hs : Keeps s₀ s) (p : PortId) (aseq : Nat) (nak : Bool) : Keeps s₀ (ackFrames p aseq nak s) := by
  unfold ackFrames; try dsimp only
  repeat (first | with_reducible assumption | with_reducible apply setPort_keeps | with_reducible apply onHub_keeps
                | with_reducible apply leaveUp_keeps | with_reducible apply ite_keeps | with_reducible exact keeps_refl _
                | with_reducible intro _ | split | with_reducible exact ‹Memory.wf _ = true› | exact ‹CcOk _› | exact ‹CoreOk _›)
theorem tbExchange_keeps (hs : Keeps s₀ s) (o : Int) : Keeps s₀ (tbExchange o s) := by
  unfold tbExchange; try dsimp only
  repeat (first | with_reducible assumption | with_reducible apply onTb_keeps | with_reducible apply fresh_keeps
                | with_reducible apply ite_keeps | with_reducible exact keeps_refl _ | with_reducible intro _ | split)
theorem timeFields_keeps (hs : Keeps s₀ s) (p : PortId) (l : BitVec 384) (t4 : Nat) : Keeps s₀ (timeFields p l t4 s) := by
  unfold timeFields; try dsimp only
  repeat (first | with_reducible assumption | with_reducible apply onPort_keeps | with_reducible apply tbExchange_keeps
                | with_reducible apply ite_keeps | with_reducible exact keeps_refl _ | with_reducible intro _ | split)
theorem acceptFrame_keeps (hs : Keeps s₀ s) (p : PortId) (f : Frame) : Keeps s₀ (acceptFrame p f s) := by
  unfold acceptFrame; try dsimp only
  repeat (first | with_reducible assumption | with_reducible apply onPort_keeps | with_reducible apply forAll_keeps
                | with_reducible apply ackFrames_keeps | with_reducible apply flitIn_keeps | with_reducible apply hubRelease_keeps
                | with_reducible apply timeFields_keeps | with_reducible apply ite_keeps | with_reducible exact keeps_refl _
                | with_reducible intro _ | split)
theorem tbSet_keeps (hs : Keeps s₀ s) (v : BitVec 64) : Keeps s₀ (tbSet v s) := by
  unfold tbSet; try dsimp only
  repeat (first | with_reducible assumption | with_reducible apply onTb_keeps | with_reducible apply ite_keeps
                | with_reducible exact keeps_refl _ | with_reducible intro _ | split)
theorem loseRef_keeps (hs : Keeps s₀ s) : Keeps s₀ (loseRef s) := by
  unfold loseRef; try dsimp only
  repeat (first | with_reducible assumption | with_reducible apply onTb_keeps | with_reducible apply hubSetBit_keeps
                | with_reducible apply ite_keeps | with_reducible exact keeps_refl _ | with_reducible intro _ | split)
theorem holdOver_keeps (hs : Keeps s₀ s) (port : Nat) : Keeps s₀ (holdOver port s) := by
  unfold holdOver; try dsimp only
  repeat (first | with_reducible assumption | with_reducible apply onTb_keeps | with_reducible apply headlandFault_keeps
                | with_reducible apply loseRef_keeps | with_reducible apply ite_keeps | with_reducible exact keeps_refl _
                | with_reducible intro _ | split)
theorem notice_keeps (hs : Keeps s₀ s) (x : Item) (kind : Nat) (a : Nat) (count : Nat) : Keeps s₀ (notice x kind a count s) := by
  unfold notice; try dsimp only
  repeat (first | with_reducible assumption | with_reducible apply putItem_keeps | with_reducible apply ite_keeps
                | with_reducible exact keeps_refl _ | with_reducible intro _ | split)
theorem serveRead_keeps (hs : Keeps s₀ s) (x : Item) (err : ReadErr) (n : Nat) (k : Nat) : Keeps s₀ (serveRead x err n k s) := by
  induction n generalizing s k with
  | zero => exact hs
  | succ n ih =>
    unfold serveRead; dsimp only
    refine ite_keeps (fun _ => ih (putItem_keeps hs _) _) fun _ => ite_keeps (fun _ => ih (putItem_keeps (notice_keeps hs _ _ _ _) _) _) fun _ =>
      ite_keeps (fun _ => notice_keeps (readNoted_keeps hs _ _) _ _ _ _) fun _ => ih (putItem_keeps (readNoted_keeps hs _ _) _) _
theorem takeWrite_keeps (hs : Keeps s₀ s) (x : Item) : Keeps s₀ (takeWrite x s) := by
  unfold takeWrite; try dsimp only
  repeat (first | with_reducible assumption | with_reducible apply onM_keeps | with_reducible apply ackWrite_keeps
                | with_reducible apply inboundWrite_keeps | with_reducible apply rowPlaced_keeps | with_reducible apply ite_keeps
                | with_reducible exact keeps_refl _ | with_reducible intro _ | split | with_reducible exact ‹Memory.wf _ = true›
                | exact ‹CcOk _› | exact ‹CoreOk _›)
theorem putMgmt_keeps (hs : Keeps s₀ s) (p : PortId) (f : Flit) : Keeps s₀ (putMgmt p f s) := by
  unfold putMgmt; try dsimp only
  repeat (first | with_reducible assumption | with_reducible apply setPort_keeps | with_reducible apply ite_keeps
                | with_reducible exact keeps_refl _ | with_reducible intro _ | split)
theorem takeMgmt_keeps (hs : Keeps s₀ s) (f : Flit) : Keeps s₀ (takeMgmt f s) := by
  unfold takeMgmt; try dsimp only
  repeat (first | with_reducible assumption | with_reducible apply ite_keeps | with_reducible exact keeps_refl _ | with_reducible intro _
                | split | with_reducible apply withNet_keeps)
theorem forwardSurvey_keeps (hs : Keeps s₀ s) (p : Option PortId) (wave : Nat) (hop : Nat) (master : Nat) :
    Keeps s₀ (forwardSurvey p wave hop master s) := by
  unfold forwardSurvey; try dsimp only
  repeat (first | with_reducible assumption | with_reducible apply forAll_keeps | with_reducible apply putMgmt_keeps
                | with_reducible apply ite_keeps | with_reducible exact keeps_refl _ | with_reducible intro _ | split)
theorem lsCfgWrite_keeps (hs : Keeps s₀ s) (v : Word) : Keeps s₀ (lsCfgWrite v s) := by
  unfold lsCfgWrite; try dsimp only
  repeat (first | with_reducible assumption | with_reducible apply onLs_keeps | with_reducible apply ite_keeps
                | with_reducible exact keeps_refl _ | with_reducible intro _ | split)
theorem sendFolds_keeps (hs : Keeps s₀ s) (rs : List FoldRec) : Keeps s₀ (sendFolds rs s) := by
  unfold sendFolds; try dsimp only
  repeat (first | with_reducible assumption | with_reducible apply onLs_keeps | with_reducible apply headlandSend_keeps
                | with_reducible apply ite_keeps | with_reducible exact keeps_refl _ | with_reducible intro _ | split)
theorem wgtNotice_keeps (hs : Keeps s₀ s) (x : CtxId) (pos : Nat) (loadId : Word) (kind : Nat) (resend : Bool) (n : Nat) (rows : Nat) :
    Keeps s₀ (wgtNotice x pos loadId kind resend n rows s) := by
  unfold wgtNotice; try dsimp only
  repeat (first | with_reducible assumption | with_reducible apply headlandSendF_keeps | with_reducible apply ite_keeps
                | with_reducible exact keeps_refl _ | with_reducible intro _ | split)
theorem dropDigests_keeps (hs : Keeps s₀ s) (x : CtxId) (k : Nat) : Keeps s₀ (dropDigests x k s) := by
  unfold dropDigests; try dsimp only
  repeat (first | with_reducible assumption | with_reducible apply onHub_keeps | with_reducible apply ite_keeps
                | with_reducible exact keeps_refl _ | with_reducible intro _ | split | with_reducible exact ‹Memory.wf _ = true›
                | exact ‹CcOk _› | exact ‹CoreOk _›)
theorem wgtReply_keeps (hs : Keeps s₀ s) (x : CtxId) (k : Nat) (status : Nat) : Keeps s₀ (wgtReply x k status s) := by
  unfold wgtReply; try dsimp only
  repeat (first | with_reducible assumption | with_reducible apply onSlot_keeps | with_reducible apply replyDone_keeps
                | with_reducible apply ite_keeps | with_reducible exact keeps_refl _ | with_reducible intro _ | split)
theorem wgtDone_keeps (hs : Keeps s₀ s) (x : CtxId) (k : Nat) : Keeps s₀ (wgtDone x k s) := by
  unfold wgtDone; try dsimp only
  repeat (first | with_reducible assumption | with_reducible apply onSlot_keeps | with_reducible apply onWgt_keeps
                | with_reducible apply wgtReply_keeps | with_reducible apply ite_keeps | with_reducible exact keeps_refl _
                | with_reducible intro _ | split)
theorem wgtFail_keeps (hs : Keeps s₀ s) (x : CtxId) (k : Nat) (j : Nat) : Keeps s₀ (wgtFail x k j s) := by
  unfold wgtFail; try dsimp only
  repeat (first | with_reducible assumption | with_reducible apply dropDigests_keeps | with_reducible apply headlandFault_keeps
                | with_reducible apply onSlot_keeps | with_reducible apply onWgt_keeps | with_reducible apply wgtReply_keeps
                | with_reducible apply ite_keeps | with_reducible exact keeps_refl _ | with_reducible intro _ | split)
theorem askShard_keeps (hs : Keeps s₀ s) (x : CtxId) (k : Nat) (j : Nat) : Keeps s₀ (askShard x k j s) := by
  unfold askShard; try dsimp only
  repeat (first | with_reducible assumption | with_reducible apply onShard_keeps | with_reducible apply onSlot_keeps
                | with_reducible apply wgtNotice_keeps | with_reducible apply ite_keeps | with_reducible exact keeps_refl _
                | with_reducible intro _ | split)
theorem toHostShard_keeps (hs : Keeps s₀ s) (x : CtxId) (k : Nat) (j : Nat) : Keeps s₀ (toHostShard x k j s) := by
  unfold toHostShard; try dsimp only
  repeat (first | with_reducible assumption | with_reducible apply askShard_keeps | with_reducible apply onShard_keeps
                | with_reducible apply ite_keeps | with_reducible exact keeps_refl _ | with_reducible intro _ | split)
theorem failAttempt_keeps (hs : Keeps s₀ s) (x : CtxId) (k : Nat) (j : Nat) (kind : Nat) : Keeps s₀ (failAttempt x k j kind s) := by
  unfold failAttempt; try dsimp only
  repeat (first | with_reducible assumption | with_reducible apply askShard_keeps | with_reducible apply headlandFault_keeps
                | with_reducible apply onShard_keeps | with_reducible apply onWgt_keeps | with_reducible apply toHostShard_keeps
                | with_reducible apply wgtFail_keeps | with_reducible apply ite_keeps | with_reducible exact keeps_refl _
                | with_reducible intro _ | split)
theorem refetchShard_keeps (hs : Keeps s₀ s) (x : CtxId) (k : Nat) (j : Nat) : Keeps s₀ (refetchShard x k j s) := by
  unfold refetchShard; try dsimp only
  repeat (first | with_reducible assumption | with_reducible apply askShard_keeps | with_reducible apply onShard_keeps
                | with_reducible apply ite_keeps | with_reducible exact keeps_refl _ | with_reducible intro _ | split)
theorem refetch_keeps (hs : Keeps s₀ s) (x : CtxId) (k : Nat) : Keeps s₀ (refetch x k s) := by
  unfold refetch; try dsimp only
  repeat (first | with_reducible assumption | with_reducible apply forAll_keeps | with_reducible apply onWgt_keeps
                | with_reducible apply refetchShard_keeps | with_reducible apply ite_keeps | with_reducible exact keeps_refl _
                | with_reducible intro _ | split)
theorem wgtAccept_keeps (hs : Keeps s₀ s) (src : CmdSrc) (x : CtxId) (w : WgtCmd) (inPlace : Bool) : Keeps s₀ (wgtAccept src x w inPlace s) := by
  unfold wgtAccept; try dsimp only
  repeat (first | with_reducible assumption | with_reducible apply dropDigests_keeps | with_reducible apply onWgt_keeps
                | with_reducible apply ite_keeps | with_reducible exact keeps_refl _ | with_reducible intro _ | split)
theorem wgtCommand_keeps (hs : Keeps s₀ s) (cmd : Nat) (src : CmdSrc) (x : CtxId) (w : WgtCmd) (inPlace : Bool) (go : State → State)
    (hgo : ∀ t, Keeps s₀ t → Keeps s₀ (go t)) :
    Keeps s₀ (wgtCommand cmd src x w inPlace go s) := by
  unfold wgtCommand; try dsimp only
  repeat (first | with_reducible assumption | with_reducible apply hgo | with_reducible apply onWgt_keeps | with_reducible apply reply_keeps
                | with_reducible apply wgtAccept_keeps | with_reducible apply ite_keeps | with_reducible exact keeps_refl _
                | with_reducible intro _ | split)
theorem onNotice_keeps (hs : Keeps s₀ s) (h : Row) (f : Nat → State → State) (hf : ∀ x0 t, Keeps s₀ t → Keeps s₀ (f x0 t)) :
    AnswerKeeps s₀ (onNotice h f s) := by
  unfold onNotice; try dsimp only
  repeat (first | with_reducible assumption | with_reducible apply hf | with_reducible apply onHub_keeps | with_reducible apply next_keeps
                | with_reducible apply takeMsg_keeps | with_reducible apply iteAnswer_keeps | with_reducible apply ite_keeps
                | with_reducible exact keeps_refl _ | with_reducible intro _ | split | with_reducible exact ‹Memory.wf _ = true›
                | exact ‹CcOk _› | exact ‹CoreOk _›)
theorem sendChunk_keeps (hs : Keeps s₀ s) (x : CtxId) (k : Nat) (w : WgtCmd) (c : Nat) (fromSlot : Bool) (resend : Bool) :
    Keeps s₀ (sendChunk x k w c fromSlot resend s) := by
  unfold sendChunk; try dsimp only
  repeat (first | with_reducible assumption | with_reducible apply onHl_keeps | with_reducible apply hubWrites_keeps
                | with_reducible apply wgtNotice_keeps | with_reducible apply ite_keeps | with_reducible exact keeps_refl _
                | with_reducible intro _ | split)
theorem forwardChunks_keeps (hs : Keeps s₀ s) (x : CtxId) (k : Nat) (n : Nat) : Keeps s₀ (forwardChunks x k n s) := by
  induction n generalizing s with
  | zero => exact hs
  | succ n ih =>
    unfold forwardChunks; try dsimp only
    repeat (first | with_reducible apply ih | with_reducible assumption | with_reducible apply onSlot_keeps
                  | with_reducible apply sendChunk_keeps | with_reducible apply ite_keeps | with_reducible exact keeps_refl _
                  | with_reducible intro _ | split)
theorem copyChunk_keeps (hs : Keeps s₀ s) (x : CtxId) (k : Nat) (c : Nat) : Keeps s₀ (copyChunk x k c s) := by
  unfold copyChunk; try dsimp only
  repeat (first | with_reducible assumption | with_reducible apply onShard_keeps | with_reducible apply onSlot_keeps
                | with_reducible apply queueDigest_keeps | with_reducible apply writeRows_keeps | with_reducible apply ite_keeps
                | with_reducible exact keeps_refl _ | with_reducible intro _ | split)
theorem startWindows_keeps (hs : Keeps s₀ s) (x : CtxId) (k : Nat) (j : Nat) : Keeps s₀ (startWindows x k j s) := by
  unfold startWindows; try dsimp only
  repeat (first | with_reducible assumption | with_reducible apply onSlot_keeps | with_reducible apply ite_keeps
                | with_reducible exact keeps_refl _ | with_reducible intro _ | split)
theorem resendShard_keeps (hs : Keeps s₀ s) (x : CtxId) (k : Nat) (j : Nat) : Keeps s₀ (resendShard x k j s) := by
  unfold resendShard; try dsimp only
  repeat (first | with_reducible assumption | with_reducible apply forwardChunks_keeps | with_reducible apply onSlot_keeps
                | with_reducible apply ite_keeps | with_reducible exact keeps_refl _ | with_reducible intro _ | split)
theorem shardPassed_keeps (hs : Keeps s₀ s) (x : CtxId) (k : Nat) (j : Nat) : Keeps s₀ (shardPassed x k j s) := by
  unfold shardPassed; try dsimp only
  repeat (first | with_reducible assumption | with_reducible apply onShard_keeps | with_reducible apply resendShard_keeps
                | with_reducible apply wgtDone_keeps | with_reducible apply ite_keeps | with_reducible exact keeps_refl _
                | with_reducible intro _ | split)
theorem noteLate_keeps (hs : Keeps s₀ s) (x : CtxId) (k : Nat) (j : Nat) : Keeps s₀ (noteLate x k j s) := by
  unfold noteLate; try dsimp only
  repeat (first | with_reducible assumption | with_reducible apply onHub_keeps | with_reducible apply onShard_keeps
                | with_reducible apply ite_keeps | with_reducible exact keeps_refl _ | with_reducible intro _ | split
                | with_reducible exact ‹Memory.wf _ = true› | exact ‹CcOk _› | exact ‹CoreOk _›)
theorem recheckFailed_keeps (hs : Keeps s₀ s) (x : CtxId) (k : Nat) (j : Nat) : Keeps s₀ (recheckFailed x k j s) := by
  unfold recheckFailed; try dsimp only
  repeat (first | with_reducible assumption | with_reducible apply onHub_keeps | with_reducible apply headlandFault_keeps
                | with_reducible apply onShard_keeps | with_reducible apply onSlot_keeps | with_reducible apply onWgt_keeps
                | with_reducible apply refetch_keeps | with_reducible apply refetchShard_keeps | with_reducible apply ite_keeps
                | with_reducible exact keeps_refl _ | with_reducible intro _ | split | with_reducible exact ‹Memory.wf _ = true›
                | exact ‹CcOk _› | exact ‹CoreOk _›)
theorem emptySlot_keeps (hs : Keeps s₀ s) (x : CtxId) (k : Nat) : Keeps s₀ (emptySlot x k s) := by
  unfold emptySlot; try dsimp only
  repeat (first | with_reducible assumption | with_reducible apply dropDigests_keeps | with_reducible apply onSlot_keeps
                | with_reducible apply ite_keeps | with_reducible exact keeps_refl _ | with_reducible intro _ | split)
theorem reqAnswer_keeps (hs : Keeps s₀ s) (c : CoreId) (result : Nat) (latch : Option (Fin 2)) : Keeps s₀ (reqAnswer c result latch s) := by
  unfold reqAnswer; try dsimp only
  repeat (first | with_reducible assumption | with_reducible apply onSc_keeps | with_reducible apply onCc_keeps
                | with_reducible apply latch_keeps | with_reducible apply ite_keeps | with_reducible exact keeps_refl _
                | with_reducible intro _ | split | with_reducible exact ‹Memory.wf _ = true› | exact ‹CcOk _› | exact ‹CoreOk _›)
theorem addRef_keeps (hs : Keeps s₀ s) (x : CtxId) (k : Nat) : Keeps s₀ (addRef x k s) := by
  unfold addRef; try dsimp only
  repeat (first | with_reducible assumption | with_reducible apply onWgt_keeps | with_reducible apply ite_keeps
                | with_reducible exact keeps_refl _ | with_reducible intro _ | split)
theorem reqBeginOp_keeps (hs : Keeps s₀ s) (c : CoreId) : Keeps s₀ (reqBeginOp c s) := by
  unfold reqBeginOp; try dsimp only
  repeat (first | with_reducible assumption | with_reducible apply addRef_keeps | with_reducible apply onSlot_keeps
                | with_reducible apply reqAnswer_keeps | with_reducible apply ite_keeps | with_reducible exact keeps_refl _
                | with_reducible intro _ | split)
theorem reqJoinOp_keeps (hs : Keeps s₀ s) (c : CoreId) : Keeps s₀ (reqJoinOp c s) := by
  unfold reqJoinOp; try dsimp only
  repeat (first | with_reducible assumption | with_reducible apply addRef_keeps | with_reducible apply reqAnswer_keeps
                | with_reducible apply ite_keeps | with_reducible exact keeps_refl _ | with_reducible intro _ | split)
theorem reqEndOp_keeps (hs : Keeps s₀ s) (c : CoreId) : Keeps s₀ (reqEndOp c s) := by
  unfold reqEndOp; try dsimp only
  repeat (first | with_reducible assumption | with_reducible apply emptySlot_keeps | with_reducible apply onWgt_keeps
                | with_reducible apply refetch_keeps | with_reducible apply reqAnswer_keeps | with_reducible apply ite_keeps
                | with_reducible exact keeps_refl _ | with_reducible intro _ | split)
theorem wgtContextReset_keeps (hs : Keeps s₀ s) (x : CtxId) : Keeps s₀ (wgtContextReset x s) := by
  unfold wgtContextReset; try dsimp only
  repeat (first | with_reducible assumption | with_reducible apply forAll_keeps | with_reducible apply emptySlot_keeps
                | with_reducible apply onWgt_keeps | with_reducible apply refetch_keeps | with_reducible apply wgtFail_keeps
                | with_reducible apply ite_keeps | with_reducible exact keeps_refl _ | with_reducible intro _ | split)
theorem onSnp_keeps (hs : Keeps s₀ s) (x : CtxId) (f : SnpCtx → SnpCtx) : Keeps s₀ (State.onSnp s x f) := by
  unfold State.onSnp; try dsimp only
  repeat (first | with_reducible assumption | with_reducible apply onHub_keeps | with_reducible apply ite_keeps
                | with_reducible exact keeps_refl _ | with_reducible intro _ | split | with_reducible exact ‹Memory.wf _ = true›
                | exact ‹CcOk _› | exact ‹CoreOk _›)
theorem writeStore_keeps (hs : Keeps s₀ s) (a : Nat) (bs : List Byte) : Keeps s₀ (writeStore a bs s) := by
  unfold writeStore; try dsimp only
  repeat (first | with_reducible assumption | with_reducible apply onHub_keeps | with_reducible apply ite_keeps
                | with_reducible exact keeps_refl _ | with_reducible intro _ | split | with_reducible apply writeCells_wf
                | with_reducible exact ‹Memory.wf _ = true› | exact ‹CcOk _› | (apply ccOk_dmem; assumption; rfl; rfl; rfl)
                | exact ‹CoreOk _›)
theorem eraseStore_keeps (hs : Keeps s₀ s) (page : Nat) : Keeps s₀ (eraseStore page s) := by
  unfold eraseStore; try dsimp only
  repeat (first | with_reducible assumption | with_reducible apply onHub_keeps | with_reducible apply ite_keeps
                | with_reducible exact keeps_refl _ | with_reducible intro _ | split | with_reducible apply clearCells_wf
                | with_reducible exact ‹Memory.wf _ = true› | exact ‹CcOk _› | exact ‹CoreOk _›)
theorem jnlPerform_keeps (hs : Keeps s₀ s) (x : CtxId) (g : Nat) (rows : Nat) (src : CmdSrc) (retried : Bool) :
    Keeps s₀ (jnlPerform x g rows src retried s) := by
  unfold jnlPerform; try dsimp only
  repeat (first | with_reducible assumption | with_reducible apply onSnp_keeps | with_reducible apply putItem_keeps
                | with_reducible apply writeRow_keeps | with_reducible apply ite_keeps | with_reducible exact keeps_refl _
                | with_reducible intro _ | split)
theorem jnlHold_keeps (hs : Keeps s₀ s) (x : CtxId) (g : Nat) (rows : Nat) (src : CmdSrc) : Keeps s₀ (jnlHold x g rows src s) := by
  unfold jnlHold; try dsimp only
  repeat (first | with_reducible assumption | with_reducible apply headlandFault_keeps | with_reducible apply onSnp_keeps
                | with_reducible apply ite_keeps | with_reducible exact keeps_refl _ | with_reducible intro _ | split)
theorem sendMgmt_keeps (hs : Keeps s₀ s) (pos : Nat) (f : Flit) : Keeps s₀ (sendMgmt pos f s) := by
  unfold sendMgmt; try dsimp only
  repeat (first | with_reducible assumption | with_reducible apply putItem_keeps | with_reducible apply ite_keeps
                | with_reducible exact keeps_refl _ | with_reducible intro _ | split)
theorem takeMirrorAnswer_keeps (hs : Keeps s₀ s) (pos : Nat) : Keeps s₀ (takeMirrorAnswer pos s) := by
  unfold takeMirrorAnswer; try dsimp only
  repeat (first | with_reducible assumption | with_reducible apply ite_keeps | with_reducible exact keeps_refl _ | with_reducible intro _
                | split | with_reducible apply withNet_keeps)
theorem startSnapshot_keeps (hs : Keeps s₀ s) (x : CtxId) : Keeps s₀ (startSnapshot x s) := by
  unfold startSnapshot; try dsimp only
  repeat (first | with_reducible assumption | with_reducible apply eraseStore_keeps | with_reducible apply onSnp_keeps
                | with_reducible apply ite_keeps | with_reducible exact keeps_refl _ | with_reducible intro _ | split)
theorem abandonSnapshot_keeps (hs : Keeps s₀ s) (x : CtxId) : Keeps s₀ (abandonSnapshot x s) := by
  unfold abandonSnapshot; try dsimp only
  repeat (first | with_reducible assumption | with_reducible apply onHub_keeps | with_reducible apply onSnp_keeps
                | with_reducible apply ite_keeps | with_reducible exact keeps_refl _ | with_reducible intro _ | split
                | with_reducible exact ‹Memory.wf _ = true› | exact ‹CcOk _› | exact ‹CoreOk _›)
theorem updEndOp_keeps (hs : Keeps s₀ s) (w : Writer) (x : CtxId) : Keeps s₀ (updEndOp w x s) := by
  unfold updEndOp; try dsimp only
  repeat (first | with_reducible assumption | with_reducible apply onSnp_keeps | with_reducible apply ite_keeps
                | with_reducible exact keeps_refl _ | with_reducible intro _ | split)
theorem snapshotNowOp_keeps (hs : Keeps s₀ s) (w : Writer) (x : CtxId) : Keeps s₀ (snapshotNowOp w x s) := by
  unfold snapshotNowOp; try dsimp only
  repeat (first | with_reducible assumption | with_reducible apply startSnapshot_keeps | with_reducible apply ite_keeps
                | with_reducible exact keeps_refl _ | with_reducible intro _ | split)
theorem sendPartnerChunk_keeps (hs : Keeps s₀ s) (x : CtxId) (q : Nat) (c : Nat) (e : BitVec 512) (rows : List Row) :
    Keeps s₀ (sendPartnerChunk x q c e rows s) := by
  unfold sendPartnerChunk; try dsimp only
  repeat (first | with_reducible assumption | with_reducible apply headlandSendF_keeps | with_reducible apply hubWrites_keeps
                | with_reducible apply onSnp_keeps | with_reducible apply ite_keeps | with_reducible exact keeps_refl _
                | with_reducible intro _ | split)
theorem storeChunk_keeps (hs : Keeps s₀ s) (page : Nat) (n : Nat) (c : Nat) (e : BitVec 512) (rows : List Row) :
    Keeps s₀ (storeChunk page n c e rows s) := by
  unfold storeChunk; try dsimp only
  repeat (first | with_reducible assumption | with_reducible apply writeStore_keeps | with_reducible apply ite_keeps
                | with_reducible exact keeps_refl _ | with_reducible intro _ | split)
theorem hostRows_keeps (hs : Keeps s₀ s) (pos : Nat) (ctx : Nat) (entry : BitVec 512) (rows : List Row) :
    Keeps s₀ (hostRows pos ctx entry rows s) := by
  unfold hostRows; try dsimp only
  repeat (first | with_reducible assumption | with_reducible apply eraseStore_keeps | with_reducible apply writeStore_keeps
                | with_reducible apply ite_keeps | with_reducible exact keeps_refl _ | with_reducible intro _ | split)
theorem partnerAnswer_keeps (hs : Keeps s₀ s) (x : CtxId) (q : Nat) (c : Nat) (ok : Bool) : Keeps s₀ (partnerAnswer x q c ok s) := by
  unfold partnerAnswer; try dsimp only
  repeat (first | with_reducible assumption | with_reducible apply abandonSnapshot_keeps | with_reducible apply onSnp_keeps
                | with_reducible apply sendPartnerChunk_keeps | with_reducible apply ite_keeps | with_reducible exact keeps_refl _
                | with_reducible intro _ | split)
theorem jnlRelease_keeps (hs : Keeps s₀ s) (x : CtxId) : Keeps s₀ (jnlRelease x s) := by
  unfold jnlRelease; try dsimp only
  repeat (first | with_reducible assumption | with_reducible apply jnlPerform_keeps | with_reducible apply onSnp_keeps
                | with_reducible apply ite_keeps | with_reducible exact keeps_refl _ | with_reducible intro _ | split)
theorem commitSnapshot_keeps (hs : Keeps s₀ s) (x : CtxId) (r : SnpRun) : Keeps s₀ (commitSnapshot x r s) := by
  unfold commitSnapshot; try dsimp only
  repeat (first | with_reducible assumption | with_reducible apply jnlRelease_keeps | with_reducible apply onSnp_keeps
                | with_reducible apply ite_keeps | with_reducible exact keeps_refl _ | with_reducible intro _ | split)
theorem pageFails_keeps (hs : Keeps s₀ s) (x : CtxId) (r : SnpRun) : Keeps s₀ (pageFails x r s) := by
  unfold pageFails; try dsimp only
  repeat (first | with_reducible assumption | with_reducible apply onHub_keeps | with_reducible apply forAll_keeps
                | with_reducible apply abandonSnapshot_keeps | with_reducible apply headlandFault_keeps | with_reducible apply ite_keeps
                | with_reducible exact keeps_refl _ | with_reducible intro _ | split | with_reducible exact ‹Memory.wf _ = true›
                | exact ‹CcOk _› | exact ‹CoreOk _›)
theorem partnerWrite_keeps (hs : Keeps s₀ s) (w : Writer) (x : CtxId) (second : Bool) (v : Word) : Keeps s₀ (partnerWrite w x second v s) := by
  unfold partnerWrite; try dsimp only
  repeat (first | with_reducible assumption | with_reducible apply onSnp_keeps | with_reducible apply sendMgmt_keeps
                | with_reducible apply ite_keeps | with_reducible exact keeps_refl _ | with_reducible intro _ | split)
theorem pairAnswer_keeps (hs : Keeps s₀ s) (x : CtxId) (second : Bool) (hosts : Bool) (main : Nat) (bkp : Nat) :
    Keeps s₀ (pairAnswer x second hosts main bkp s) := by
  unfold pairAnswer; try dsimp only
  repeat (first | with_reducible assumption | with_reducible apply headlandFault_keeps | with_reducible apply onSnp_keeps
                | with_reducible apply ite_keeps | with_reducible exact keeps_refl _ | with_reducible intro _ | split)
theorem partnerQuery_keeps (hs : Keeps s₀ s) (pos : Nat) (ctx : Nat) (second : Nat) : Keeps s₀ (partnerQuery pos ctx second s) := by
  unfold partnerQuery; try dsimp only
  repeat (first | with_reducible assumption | with_reducible apply onHl_keeps | with_reducible apply sendMgmt_keeps
                | with_reducible apply ite_keeps | with_reducible exact keeps_refl _ | with_reducible intro _ | split)
theorem onRst_keeps (hs : Keeps s₀ s) (x : CtxId) (f : RstRun → RstRun) : Keeps s₀ (State.onRst s x f) := by
  unfold State.onRst; try dsimp only
  repeat (first | with_reducible assumption | with_reducible apply onSnp_keeps | with_reducible apply ite_keeps
                | with_reducible exact keeps_refl _ | with_reducible intro _ | split)
theorem restoreFails_keeps (hs : Keeps s₀ s) (x : CtxId) (r : RstRun) : Keeps s₀ (restoreFails x r s) := by
  unfold restoreFails; try dsimp only
  repeat (first | with_reducible assumption | with_reducible apply headlandFault_keeps | with_reducible apply onSnp_keeps
                | with_reducible apply replyDone_keeps | with_reducible apply ite_keeps | with_reducible exact keeps_refl _
                | with_reducible intro _ | split)
theorem restoreDiv_keeps (hs : Keeps s₀ s) (x : CtxId) (kind : Nat) (pos : Nat) (seq : Nat) : Keeps s₀ (restoreDiv x kind pos seq s) := by
  unfold restoreDiv; try dsimp only
  repeat (first | with_reducible assumption | with_reducible apply attention_keeps | with_reducible apply headlandFault_keeps
                | with_reducible apply ite_keeps | with_reducible exact keeps_refl _ | with_reducible intro _ | split)
theorem selectSeq_keeps (hs : Keeps s₀ s) (x : CtxId) : Keeps s₀ (selectSeq x s) := by
  unfold selectSeq; try dsimp only
  repeat (first | with_reducible assumption | with_reducible apply next_keeps | with_reducible apply headlandFault_keeps
                | with_reducible apply onRst_keeps | with_reducible apply onSnp_keeps | with_reducible apply restoreFails_keeps
                | with_reducible apply ite_keeps | with_reducible exact keeps_refl _ | with_reducible intro _ | split)
theorem fallBack_keeps (hs : Keeps s₀ s) (x : CtxId) : Keeps s₀ (fallBack x s) := by
  unfold fallBack; try dsimp only
  repeat (first | with_reducible assumption | with_reducible apply headlandFault_keeps | with_reducible apply onRst_keeps
                | with_reducible apply selectSeq_keeps | with_reducible apply ite_keeps | with_reducible exact keeps_refl _
                | with_reducible intro _ | split)
theorem takeHead_keeps (hs : Keeps s₀ s) (x : CtxId) (source : Nat) (slot : Nat) (rows : List Row) :
    Keeps s₀ (takeHead x source slot rows s) := by
  unfold takeHead; try dsimp only
  repeat (first | with_reducible assumption | with_reducible apply forAll_keeps | with_reducible apply headlandFault_keeps
                | with_reducible apply onRst_keeps | with_reducible apply onSnp_keeps | with_reducible apply restoreDiv_keeps
                | with_reducible apply selectSeq_keeps | with_reducible apply ite_keeps | with_reducible exact keeps_refl _
                | with_reducible intro _ | split)
theorem takeChunk_keeps (hs : Keeps s₀ s) (x : CtxId) (source : Nat) (c : Nat) (rows : List Row) : Keeps s₀ (takeChunk x source c rows s) := by
  unfold takeChunk; try dsimp only
  repeat (first | with_reducible assumption | with_reducible apply forAll_keeps | with_reducible apply fallBack_keeps
                | with_reducible apply headlandFault_keeps | with_reducible apply onRst_keeps | with_reducible apply onSnp_keeps
                | with_reducible apply writeRow_keeps | with_reducible apply ite_keeps | with_reducible exact keeps_refl _
                | with_reducible intro _ | split)
theorem placeEntry_keeps (hs : Keeps s₀ s) (n : SnpCtx) (r : RstRun) (rows : List Row) : Keeps s₀ (placeEntry n r rows s) := by
  unfold placeEntry; try dsimp only
  repeat (first | with_reducible assumption | with_reducible apply writeRows_keeps | with_reducible apply ite_keeps
                | with_reducible exact keeps_refl _ | with_reducible intro _ | split)
theorem takeEntry_keeps (hs : Keeps s₀ s) (x : CtxId) (source : Nat) (k : Nat) (rows : List Row) : Keeps s₀ (takeEntry x source k rows s) := by
  unfold takeEntry; try dsimp only
  repeat (first | with_reducible assumption | with_reducible apply onRst_keeps | with_reducible apply placeEntry_keeps
                | with_reducible apply restoreDiv_keeps | with_reducible apply restoreFails_keeps | with_reducible apply ite_keeps
                | with_reducible exact keeps_refl _ | with_reducible intro _ | split)
theorem coverCheck_keeps (hs : Keeps s₀ s) (x : CtxId) : Keeps s₀ (coverCheck x s) := by
  unfold coverCheck; try dsimp only
  repeat (first | with_reducible assumption | with_reducible apply restoreFails_keeps | with_reducible apply ite_keeps
                | with_reducible exact keeps_refl _ | with_reducible intro _ | split)
theorem startRestore_keeps (hs : Keeps s₀ s) (src : CmdSrc) (x : CtxId) (r : RestoreCmd) : Keeps s₀ (startRestore src x r s) := by
  unfold startRestore; try dsimp only
  repeat (first | with_reducible assumption | with_reducible apply next_keeps | with_reducible apply abandonSnapshot_keeps
                | with_reducible apply onSnp_keeps | with_reducible apply reply_keeps | with_reducible apply restoreFails_keeps
                | with_reducible apply ite_keeps | with_reducible exact keeps_refl _ | with_reducible intro _ | split)
theorem replayTo_keeps (hs : Keeps s₀ s) (x : CtxId) (g : Nat) (h : Row) : Keeps s₀ (replayTo x g h s) := by
  unfold replayTo; try dsimp only
  repeat (first | with_reducible assumption | with_reducible apply onDie_keeps | with_reducible apply forAll_keeps
                | with_reducible apply onAdv_keeps | with_reducible apply ite_keeps | with_reducible exact keeps_refl _
                | with_reducible intro _ | split)
theorem recomputePools_keeps (hs : Keeps s₀ s) : Keeps s₀ (recomputePools s) := by
  unfold recomputePools; try dsimp only
  repeat (first | with_reducible assumption | with_reducible apply onDie_keeps | with_reducible apply onPwr_keeps
                | with_reducible apply forAll_keeps | with_reducible apply hubSetBit_keeps | with_reducible apply ite_keeps
                | with_reducible exact keeps_refl _ | with_reducible intro _ | split)
theorem poolWrite_keeps (hs : Keeps s₀ s) (w : Writer) (d : DieId) (v : Word) : Keeps s₀ (poolWrite w d v s) := by
  unfold poolWrite; try dsimp only
  repeat (first | with_reducible assumption | with_reducible apply onDie_keeps | with_reducible apply ite_keeps
                | with_reducible exact keeps_refl _ | with_reducible intro _ | split)
theorem budgetWrite_keeps (hs : Keeps s₀ s) (w : Writer) (v : Word) : Keeps s₀ (budgetWrite w v s) := by
  unfold budgetWrite; try dsimp only
  repeat (first | with_reducible assumption | with_reducible apply onPwr_keeps | with_reducible apply recomputePools_keeps
                | with_reducible apply ite_keeps | with_reducible exact keeps_refl _ | with_reducible intro _ | split)
theorem expPoolWrite_keeps (hs : Keeps s₀ s) (w : Writer) (d : DieId) (v : Word) : Keeps s₀ (expPoolWrite w d v s) := by
  unfold expPoolWrite; try dsimp only
  repeat (first | with_reducible assumption | with_reducible apply onPwr_keeps | with_reducible apply recomputePools_keeps
                | with_reducible apply ite_keeps | with_reducible exact keeps_refl _ | with_reducible intro _ | split)
theorem restartDie_keeps (hs : Keeps s₀ s) (d : DieId) : Keeps s₀ (restartDie d s) := by
  unfold restartDie; dsimp only
  apply forAll_keeps (onDie_keeps hs d _)
  intro c t ht
  refine onCore_keeps ht c _ fun k hk => ?_
  unfold rewake
  split <;> exact hk
theorem abandonCore_keeps (hs : Keeps s₀ s) (c : CoreId) : Keeps s₀ (abandonCore c s) := by
  unfold abandonCore; try dsimp only
  repeat (first | with_reducible assumption | with_reducible apply onSc_keeps | with_reducible apply onE_keeps
                | with_reducible apply dropOrdered_keeps | with_reducible apply dropRequests_keeps | with_reducible apply powerGate_keeps
                | with_reducible apply ite_keeps | with_reducible exact keeps_refl _ | with_reducible intro _ | split)
theorem shutDown_keeps (hs : Keeps s₀ s) : Keeps s₀ (shutDown s) := by
  unfold shutDown; try dsimp only
  repeat (first | with_reducible assumption | with_reducible apply onDie_keeps | with_reducible apply forAll_keeps
                | with_reducible apply abandonCore_keeps | with_reducible apply abandonSnapshot_keeps | with_reducible apply onSnp_keeps
                | with_reducible apply putMgmt_keeps | with_reducible apply ite_keeps | with_reducible exact keeps_refl _
                | with_reducible intro _ | split | with_reducible exact ‹Memory.wf _ = true› | exact ‹CcOk _› | exact ‹CoreOk _›)
theorem thermalTrip_keeps (hs : Keeps s₀ s) : Keeps s₀ (thermalTrip s) := by
  unfold thermalTrip; try dsimp only
  repeat (first | with_reducible assumption | with_reducible apply onPwr_keeps | with_reducible apply attention_keeps
                | with_reducible apply shutDown_keeps | with_reducible apply ite_keeps | with_reducible exact keeps_refl _
                | with_reducible intro _ | split)
theorem tjClear_keeps (hs : Keeps s₀ s) (d : DieId) : Keeps s₀ (tjClear d s) := by
  unfold tjClear; try dsimp only
  repeat (first | with_reducible assumption | with_reducible apply onDie_keeps | with_reducible apply ite_keeps
                | with_reducible exact keeps_refl _ | with_reducible intro _ | split)
theorem readVin_keeps (hs : Keeps s₀ s) (droop : Bool) : Keeps s₀ (readVin droop s) := by
  unfold readVin; try dsimp only
  repeat (first | with_reducible assumption | with_reducible apply onPwr_keeps | with_reducible apply fresh_keeps
                | with_reducible apply ite_keeps | with_reducible exact keeps_refl _ | with_reducible intro _ | split)
theorem switchTo_keeps (hs : Keeps s₀ s) (backup : Bool) : Keeps s₀ (switchTo backup s) := by
  unfold switchTo; try dsimp only
  repeat (first | with_reducible assumption | with_reducible apply onPwr_keeps | with_reducible apply attention_keeps
                | with_reducible apply readVin_keeps | with_reducible apply ite_keeps | with_reducible exact keeps_refl _
                | with_reducible intro _ | split)
theorem switchOver_keeps (hs : Keeps s₀ s) : Keeps s₀ (switchOver s) := by
  unfold switchOver; try dsimp only
  repeat (first | with_reducible assumption | with_reducible apply readVin_keeps | with_reducible apply switchTo_keeps
                | with_reducible apply ite_keeps | with_reducible exact keeps_refl _ | with_reducible intro _ | split)
theorem inputOut_keeps (hs : Keeps s₀ s) (backup : Bool) : Keeps s₀ (inputOut backup s) := by
  unfold inputOut; try dsimp only
  repeat (first | with_reducible assumption | with_reducible apply onPwr_keeps | with_reducible apply switchOver_keeps
                | with_reducible apply ite_keeps | with_reducible exact keeps_refl _ | with_reducible intro _ | split)
theorem unmate_keeps (hs : Keeps s₀ s) : Keeps s₀ (unmate s) := by
  unfold unmate; try dsimp only
  repeat (first | with_reducible assumption | with_reducible apply onPwr_keeps | with_reducible apply readVin_keeps
                | with_reducible apply ite_keeps | with_reducible exact keeps_refl _ | with_reducible intro _ | split)
theorem coldReset_keeps (hs : Keeps s₀ s) : Keeps s₀ (coldReset s) := asReset_keeps hs rfl rfl rfl rfl
theorem railsOff_keeps (hs : Keeps s₀ s) : Keeps s₀ (railsOff s) := by
  unfold railsOff; dsimp only
  exact onPwr_keeps (withMemNet_keeps (forAll_keeps hs _ _ fun p t ht => setPort_keeps ht p _)) _
theorem hubOff_keeps (hs : Keeps s₀ s) (on : Bool) : Keeps s₀ (hubOff on s) := by
  unfold hubOff; try dsimp only
  repeat (first | with_reducible assumption | with_reducible apply onHl_keeps | with_reducible apply onPwr_keeps
                | with_reducible apply ite_keeps | with_reducible exact keeps_refl _ | with_reducible intro _ | split)
theorem useCalibration_keeps (hs : Keeps s₀ s) : Keeps s₀ (useCalibration s) := by
  unfold useCalibration; try dsimp only
  repeat (first | with_reducible assumption | with_reducible apply onDie_keeps | with_reducible apply onHub_keeps
                | with_reducible apply onHl_keeps | with_reducible apply forAll_keeps | with_reducible apply ite_keeps
                | with_reducible exact keeps_refl _ | with_reducible intro _ | split | with_reducible exact ‹Memory.wf _ = true›
                | exact ‹CcOk _› | exact ‹CoreOk _›)
theorem selfCalibrate_keeps (hs : Keeps s₀ s) (mask : Nat) : Keeps s₀ (selfCalibrate mask s) := by
  unfold selfCalibrate; try dsimp only
  repeat (first | with_reducible assumption | with_reducible apply onHub_keeps | with_reducible apply onHl_keeps
                | with_reducible apply fresh_keeps | with_reducible apply ite_keeps | with_reducible exact keeps_refl _
                | with_reducible intro _ | split | with_reducible exact ‹Memory.wf _ = true› | exact ‹CcOk _› | exact ‹CoreOk _›)
theorem bootCalibration_keeps (hs : Keeps s₀ s) : Keeps s₀ (bootCalibration s) := by
  unfold bootCalibration; try dsimp only
  repeat (first | with_reducible assumption | with_reducible apply onHl_keeps | with_reducible apply attention_keeps
                | with_reducible apply selfCalibrate_keeps | with_reducible apply useCalibration_keeps | with_reducible apply ite_keeps
                | with_reducible exact keeps_refl _ | with_reducible intro _ | split)
theorem trainDeep_keeps (hs : Keeps s₀ s) : Keeps s₀ (trainDeep s) := by
  unfold trainDeep; try dsimp only
  repeat (first | with_reducible assumption | with_reducible apply onDie_keeps | with_reducible apply forAll_keeps
                | with_reducible apply fresh_keeps | with_reducible apply ite_keeps | with_reducible exact keeps_refl _
                | with_reducible intro _ | split)
theorem ctxCfgWrite_keeps (hs : Keeps s₀ s) (c : CoreId) (v : Word) : Keeps s₀ (ctxCfgWrite c v s) := by
  unfold ctxCfgWrite; try dsimp only
  repeat (first | with_reducible assumption | with_reducible apply onSc_keeps | with_reducible apply ite_keeps
                | with_reducible exact keeps_refl _ | with_reducible intro _ | split)
theorem configCore_keeps (hs : Keeps s₀ s) (x : CtxId) (slot : Fin 4) (shared : Bool) (rt : Bool) (seed : BitVec 64) (map : List
    (BitVec 8)) (c : CoreId) :
    Keeps s₀ (configCore x slot shared rt seed map c s) := by
  unfold configCore; try dsimp only
  repeat (first | with_reducible assumption | with_reducible apply onSc_keeps | with_reducible apply onE_keeps
                | with_reducible apply ite_keeps | with_reducible exact keeps_refl _ | with_reducible intro _ | split)
theorem resetRing_keeps (hs : Keeps s₀ s) (c : CoreId) (r : Nat) : Keeps s₀ (resetRing c r s) := by
  unfold resetRing; try dsimp only
  repeat (first | with_reducible assumption | with_reducible apply onM_keeps | with_reducible apply onCc_keeps
                | with_reducible apply forAll_keeps | with_reducible apply bounceWaiting_keeps | with_reducible apply onRing_keeps
                | with_reducible apply rxBounce_keeps | with_reducible apply ite_keeps | with_reducible exact keeps_refl _
                | with_reducible intro _ | split | with_reducible exact ‹Memory.wf _ = true› | exact ‹CcOk _› | exact ‹CoreOk _›)
theorem addReset_keeps (hs : Keeps s₀ s) (kind : Nat) (mask : BitVec 128) (x : CtxId) (src : Option CmdSrc) :
    Keeps s₀ (addReset kind mask x src s) := by
  unfold addReset; try dsimp only
  repeat (first | with_reducible assumption | with_reducible apply onHl_keeps | with_reducible apply ite_keeps
                | with_reducible exact keeps_refl _ | with_reducible intro _ | split)
theorem contextResetOp_keeps (hs : Keeps s₀ s) (x : CtxId) : Keeps s₀ (contextResetOp x s) := by
  unfold contextResetOp; try dsimp only
  repeat (first | with_reducible assumption | with_reducible apply onSc_keeps | with_reducible apply onHub_keeps
                | with_reducible apply forAll_keeps | with_reducible apply onLoad_keeps | with_reducible apply releaseImage_keeps
                | with_reducible apply resetRing_keeps | with_reducible apply wgtContextReset_keeps | with_reducible apply ite_keeps
                | with_reducible exact keeps_refl _ | with_reducible intro _ | split | with_reducible exact ‹Memory.wf _ = true›
                | exact ‹CcOk _› | exact ‹CoreOk _›)
theorem coreResetOp_keeps (hs : Keeps s₀ s) (c : CoreId) : Keeps s₀ (coreResetOp c s) := by
  unfold coreResetOp; dsimp only
  refine onCore_keeps (onDie_keeps (forAll_keeps (dropRequests_keeps (forAll_keeps hs _ _ fun r t ht => resetRing_keeps ht c r) c) _ _
    fun i t ht => freeHandle_keeps ht c i) _ _) c _ fun k hk => coreOk_reset hk rfl rfl rfl rfl
theorem abortCommands_keeps (hs : Keeps s₀ s) : Keeps s₀ (abortCommands s) := by
  unfold abortCommands; try dsimp only
  repeat (first | with_reducible assumption | with_reducible apply forAll_keeps | with_reducible apply reply_keeps
                | with_reducible apply replyDone_keeps | with_reducible apply replyInline_keeps | with_reducible apply ite_keeps
                | with_reducible exact keeps_refl _ | with_reducible intro _ | split)
theorem moduleState_keeps (hs : Keeps s₀ s) : Keeps s₀ (moduleState s) := asReset_keeps hs rfl rfl rfl rfl
theorem moduleResetOp_keeps (hs : Keeps s₀ s) (src : Option CmdSrc) : Keeps s₀ (moduleResetOp src s) := by
  unfold moduleResetOp; try dsimp only
  repeat (first | with_reducible assumption | with_reducible apply abortCommands_keeps | with_reducible apply addReset_keeps
                | with_reducible apply moduleState_keeps | with_reducible apply useCalibration_keeps | with_reducible apply ite_keeps
                | with_reducible exact keeps_refl _ | with_reducible intro _ | split)
theorem finishRing_keeps (hs : Keeps s₀ s) (rest : List ResetRun) (c : CoreId) (r : Nat) : Keeps s₀ (finishRing rest c r s) := by
  unfold finishRing; try dsimp only
  repeat (first | with_reducible assumption | with_reducible apply onRing_keeps | with_reducible apply ite_keeps
                | with_reducible exact keeps_refl _ | with_reducible intro _ | split)
theorem finishCore_keeps (hs : Keeps s₀ s) (rest : List ResetRun) (c : CoreId) : Keeps s₀ (finishCore rest c s) := by
  unfold finishCore; try dsimp only
  repeat (first | with_reducible assumption | with_reducible apply onCc_keeps | with_reducible apply forAll_keeps
                | with_reducible apply ccStartOp_keeps | with_reducible apply finishRing_keeps | with_reducible apply ite_keeps
                | with_reducible exact keeps_refl _ | with_reducible intro _ | split | with_reducible exact ‹Memory.wf _ = true›
                | exact ‹CcOk _› | exact ‹CoreOk _›)
theorem hostWrite_keeps (hs : Keeps s₀ s) (a : Nat) (row : Row) : Keeps s₀ (hostWrite a row s) := by
  unfold hostWrite; try dsimp only
  repeat (first | with_reducible assumption | with_reducible apply onHl_keeps | with_reducible apply hubRelease_keeps
                | with_reducible apply takeWrite_keeps | with_reducible apply ite_keeps | with_reducible exact keeps_refl _
                | with_reducible intro _ | split | with_reducible apply withNet_keeps)
theorem hostRead_keeps (hs : Keeps s₀ s) (tag : Nat) (err : ReadErr) (n : Nat) (k : Nat) (a : Nat) : Keeps s₀ (hostRead tag err n k a s) := by
  induction n generalizing s k a with
  | zero => exact hs
  | succ n ih =>
    unfold hostRead; dsimp only
    refine ite_keeps (fun _ => ih (onHl_keeps (headlandFault_keeps hs _) _) _ _) fun _ =>
      ite_keeps (fun _ => ih (onHl_keeps (headlandFault_keeps hs _) _) _ _) fun _ => ?_
    split
    · exact ih (onHl_keeps hs _) _ _
    · exact ite_keeps (fun _ => onHl_keeps (readNoted_keeps hs _ _) _) fun _ => ih (onHl_keeps (readNoted_keeps hs _ _) _) _ _
theorem hostDepart_keeps (hs : Keeps s₀ s) (rows : List Row) : Keeps s₀ (hostDepart rows s) := by
  unfold hostDepart; try dsimp only
  repeat (first | with_reducible assumption | with_reducible apply onHl_keeps | with_reducible apply hubDepart_keeps
                | with_reducible apply ite_keeps | with_reducible exact keeps_refl _ | with_reducible intro _ | split)
theorem placeInbox_keeps (hs : Keeps s₀ s) (fit : Bool × Nat) (h : Row) (rows : List Row) : Keeps s₀ (placeInbox fit h rows s) := by
  unfold placeInbox; try dsimp only
  repeat (first | with_reducible assumption | with_reducible apply onHl_keeps | with_reducible apply answerMsg_keeps
                | with_reducible apply hubDone_keeps | with_reducible apply ite_keeps | with_reducible exact keeps_refl _
                | with_reducible intro _ | split)
theorem inboxRptr_keeps (hs : Keeps s₀ s) (v : Word) : Keeps s₀ (inboxRptr v s) := by
  unfold inboxRptr; try dsimp only
  repeat (first | with_reducible assumption | with_reducible apply onHl_keeps | with_reducible apply ite_keeps
                | with_reducible exact keeps_refl _ | with_reducible intro _ | split)
theorem faultRptr_keeps (hs : Keeps s₀ s) (v : Word) : Keeps s₀ (faultRptr v s) := by
  unfold faultRptr; try dsimp only
  repeat (first | with_reducible assumption | with_reducible apply onHl_keeps | with_reducible apply ite_keeps
                | with_reducible exact keeps_refl _ | with_reducible intro _ | split)
theorem lockedWrite_keeps (hs : Keeps s₀ s) (c : CoreId) (off : Nat) (v : Word) : Keeps s₀ (lockedWrite c off v s) := by
  unfold lockedWrite; try dsimp only
  repeat (first | with_reducible assumption | with_reducible apply onSc_keeps | with_reducible apply onE_keeps
                | with_reducible apply ctxCfgWrite_keeps | with_reducible apply ite_keeps | with_reducible exact keeps_refl _
                | with_reducible intro _ | split)
theorem engRegWrite_keeps (hs : Keeps s₀ s) (c : CoreId) (off : Nat) (v : Word) : Keeps s₀ (engRegWrite c off v s) := by
  unfold engRegWrite; try dsimp only
  repeat (first | with_reducible assumption | with_reducible apply onSc_keeps | with_reducible apply onE_keeps
                | with_reducible apply onM_keeps | with_reducible apply setHandle_keeps | with_reducible apply ite_keeps
                | with_reducible exact keeps_refl _ | with_reducible intro _ | split | with_reducible exact ‹Memory.wf _ = true›
                | exact ‹CcOk _› | exact ‹CoreOk _›)
theorem ringRegWrite_keeps (hs : Keeps s₀ s) (c : CoreId) (r : Nat) (off : Nat) (v : Word) : Keeps s₀ (ringRegWrite c r off v s) := by
  unfold ringRegWrite; try dsimp only
  repeat (first | with_reducible assumption | with_reducible apply onRing_keeps | with_reducible apply ite_keeps
                | with_reducible exact keeps_refl _ | with_reducible intro _ | split)
theorem reqCtrlWrite_keeps (hs : Keeps s₀ s) (c : CoreId) (v : Word) : Keeps s₀ (reqCtrlWrite c v s) := by
  unfold reqCtrlWrite; try dsimp only
  repeat (first | with_reducible assumption | with_reducible apply onCc_keeps | with_reducible apply reqBeginOp_keeps
                | with_reducible apply reqEndOp_keeps | with_reducible apply reqJoinOp_keeps | with_reducible apply ite_keeps
                | with_reducible exact keeps_refl _ | with_reducible intro _ | split | with_reducible exact ‹Memory.wf _ = true›
                | exact ‹CcOk _› | exact ‹CoreOk _›)
theorem ccCtrlWrite_keeps (hs : Keeps s₀ s) (c : CoreId) (v : Word) : Keeps s₀ (ccCtrlWrite c v s) := by
  unfold ccCtrlWrite; try dsimp only
  repeat (first | with_reducible assumption | with_reducible apply onCc_keeps | with_reducible apply ccHaltOp_keeps
                | with_reducible apply ccStartOp_keeps | with_reducible apply ite_keeps | with_reducible exact keeps_refl _
                | with_reducible intro _ | split | with_reducible exact ‹Memory.wf _ = true› | exact ‹CcOk _› | exact ‹CoreOk _›)
theorem ccRegWrite_keeps (hs : Keeps s₀ s) (c : CoreId) (off : Nat) (v : Word) : Keeps s₀ (ccRegWrite c off v s) := by
  have w : ∀ f : Cc → Cc, (∀ k, (f k).imem = k.imem ∧ (f k).dmem = k.dmem ∧ (f k).regs = k.regs) → Keeps s₀ (s.onCc c f) := fun f hf =>
    onCc_keeps hs c f fun k hk => by
      obtain ⟨h1, h2, h3⟩ := hf k
      exact ⟨h1 ▸ hk.1, h2 ▸ hk.2.1, h3 ▸ hk.2.2⟩
  unfold ccRegWrite; dsimp only
  repeat (with_reducible first | assumption | apply reqCtrlWrite_keeps | apply ringRegWrite_keeps | apply traceCfgWrite_keeps | refine w _ fun k => ⟨rfl, rfl, rfl⟩ | apply ite_keeps | intro _)
theorem coreRegWrite_keeps (hs : Keeps s₀ s) (w : Writer) (c : CoreId) (off : Nat) (v : Word) : Keeps s₀ (coreRegWrite w c off v s) := by
  unfold coreRegWrite; try dsimp only
  repeat (first | with_reducible assumption | with_reducible apply ccCtrlWrite_keeps | with_reducible apply ccRegWrite_keeps
                | with_reducible apply engRegWrite_keeps | with_reducible apply lockedWrite_keeps | with_reducible apply ite_keeps
                | with_reducible exact keeps_refl _ | with_reducible intro _ | split)
theorem fixedWrite_keeps (hs : Keeps s₀ s) (w : Writer) (d : DieId) (v : Word) : Keeps s₀ (fixedWrite w d v s) := by
  unfold fixedWrite; try dsimp only
  repeat (first | with_reducible assumption | with_reducible apply onDie_keeps | with_reducible apply ite_keeps
                | with_reducible exact keeps_refl _ | with_reducible intro _ | split)
theorem debugWrite_keeps (hs : Keeps s₀ s) (d : DieId) (v : Word) : Keeps s₀ (debugWrite d v s) := by
  unfold debugWrite; try dsimp only
  repeat (first | with_reducible assumption | with_reducible apply onDie_keeps | with_reducible apply ite_keeps
                | with_reducible exact keeps_refl _ | with_reducible intro _ | split)
theorem targetWrite_keeps (hs : Keeps s₀ s) (d : DieId) (v : Word) : Keeps s₀ (targetWrite d v s) := by
  unfold targetWrite; try dsimp only
  repeat (first | with_reducible assumption | with_reducible apply onDie_keeps | with_reducible apply ite_keeps
                | with_reducible exact keeps_refl _ | with_reducible intro _ | split)
theorem dieRegWrite_keeps (hs : Keeps s₀ s) (w : Writer) (d : DieId) (off : Nat) (v : Word) : Keeps s₀ (dieRegWrite w d off v s) := by
  unfold dieRegWrite; try dsimp only
  repeat (first | with_reducible assumption | with_reducible apply onDie_keeps | with_reducible apply debugWrite_keeps
                | with_reducible apply fixedWrite_keeps | with_reducible apply poolWrite_keeps | with_reducible apply targetWrite_keeps
                | with_reducible apply tjClear_keeps | with_reducible apply ite_keeps | with_reducible exact keeps_refl _
                | with_reducible intro _ | split)
theorem gateRegWrite_keeps (hs : Keeps s₀ s) (w : Writer) (g : Nat) (off : Nat) (v : Word) : Keeps s₀ (gateRegWrite w g off v s) := by
  unfold gateRegWrite; try dsimp only
  repeat (first | with_reducible assumption | with_reducible apply onPort_keeps | with_reducible apply forAll_keeps
                | with_reducible apply portTo_keeps | with_reducible apply writeRoute_keeps | with_reducible apply ite_keeps
                | with_reducible exact keeps_refl _ | with_reducible intro _ | split)
theorem privRegWrite_keeps (hs : Keeps s₀ s) (w : Writer) (x : CtxId) (off : Nat) (v : Word) : Keeps s₀ (privRegWrite w x off v s) := by
  unfold privRegWrite; try dsimp only
  repeat (first | with_reducible assumption | with_reducible apply onAdv_keeps | with_reducible apply privArm_keeps
                | with_reducible apply ite_keeps | with_reducible exact keeps_refl _ | with_reducible intro _ | split)
theorem tbRegWrite_keeps (hs : Keeps s₀ s) (off : Nat) (v : Word) : Keeps s₀ (tbRegWrite off v s) := by
  unfold tbRegWrite; try dsimp only
  repeat (first | with_reducible assumption | with_reducible apply onHub_keeps | with_reducible apply onTb_keeps
                | with_reducible apply tbSet_keeps | with_reducible apply torusWrite_keeps | with_reducible apply ite_keeps
                | with_reducible exact keeps_refl _ | with_reducible intro _ | split | with_reducible exact ‹Memory.wf _ = true›
                | exact ‹CcOk _› | exact ‹CoreOk _›)
theorem lsRegWrite_keeps (hs : Keeps s₀ s) (off : Nat) (v : Word) : Keeps s₀ (lsRegWrite off v s) := by
  unfold lsRegWrite; try dsimp only
  repeat (first | with_reducible assumption | with_reducible apply onLs_keeps | with_reducible apply lsCfgWrite_keeps
                | with_reducible apply ite_keeps | with_reducible exact keeps_refl _ | with_reducible intro _ | split)
theorem wgtRegWrite_keeps (hs : Keeps s₀ s) (off : Nat) (v : Word) : Keeps s₀ (wgtRegWrite off v s) := by
  unfold wgtRegWrite; try dsimp only
  repeat (first | with_reducible assumption | with_reducible apply onHub_keeps | with_reducible apply ite_keeps
                | with_reducible exact keeps_refl _ | with_reducible intro _ | split | with_reducible exact ‹Memory.wf _ = true›
                | exact ‹CcOk _› | exact ‹CoreOk _›)
theorem snpCfgWrite_keeps (hs : Keeps s₀ s) (w : Writer) (x : CtxId) (v : Word) : Keeps s₀ (snpCfgWrite w x v s) := by
  unfold snpCfgWrite; try dsimp only
  repeat (first | with_reducible assumption | with_reducible apply onSnp_keeps | with_reducible apply snapshotNowOp_keeps
                | with_reducible apply updEndOp_keeps | with_reducible apply ite_keeps | with_reducible exact keeps_refl _
                | with_reducible intro _ | split)
theorem snpRegWrite_keeps (hs : Keeps s₀ s) (w : Writer) (x : CtxId) (off : Nat) (v : Word) : Keeps s₀ (snpRegWrite w x off v s) := by
  unfold snpRegWrite; try dsimp only
  repeat (first | with_reducible assumption | with_reducible apply onSnp_keeps | with_reducible apply partnerWrite_keeps
                | with_reducible apply snpCfgWrite_keeps | with_reducible apply ite_keeps | with_reducible exact keeps_refl _
                | with_reducible intro _ | split)
theorem snpModuleWrite_keeps (hs : Keeps s₀ s) (off : Nat) (v : Word) : Keeps s₀ (snpModuleWrite off v s) := by
  unfold snpModuleWrite; try dsimp only
  repeat (first | with_reducible assumption | with_reducible apply onHub_keeps | with_reducible apply ite_keeps
                | with_reducible exact keeps_refl _ | with_reducible intro _ | split | with_reducible exact ‹Memory.wf _ = true›
                | exact ‹CcOk _› | exact ‹CoreOk _›)
theorem jnlRegWrite_keeps (hs : Keeps s₀ s) (x : CtxId) (off : Nat) (v : Word) : Keeps s₀ (jnlRegWrite x off v s) := by
  unfold jnlRegWrite; try dsimp only
  repeat (first | with_reducible assumption | with_reducible apply onSnp_keeps | with_reducible apply ite_keeps
                | with_reducible exact keeps_refl _ | with_reducible intro _ | split)
theorem pwrRegWrite_keeps (hs : Keeps s₀ s) (w : Writer) (off : Nat) (v : Word) : Keeps s₀ (pwrRegWrite w off v s) := by
  unfold pwrRegWrite; try dsimp only
  repeat (first | with_reducible assumption | with_reducible apply onPwr_keeps | with_reducible apply budgetWrite_keeps
                | with_reducible apply expPoolWrite_keeps | with_reducible apply ite_keeps | with_reducible exact keeps_refl _
                | with_reducible intro _ | split)
theorem attnWrite_keeps (hs : Keeps s₀ s) (v : Word) : Keeps s₀ (attnWrite v s) := by
  unfold attnWrite; try dsimp only
  repeat (first | with_reducible assumption | with_reducible apply onHl_keeps | with_reducible apply ite_keeps
                | with_reducible exact keeps_refl _ | with_reducible intro _ | split)
theorem hlRegWrite_keeps (hs : Keeps s₀ s) (w : Writer) (off : Nat) (v : Word) : Keeps s₀ (hlRegWrite w off v s) := by
  unfold hlRegWrite; try dsimp only
  repeat (first | with_reducible assumption | with_reducible apply onHl_keeps | with_reducible apply attnWrite_keeps
                | with_reducible apply faultRptr_keeps | with_reducible apply inboxRptr_keeps | with_reducible apply ite_keeps
                | with_reducible exact keeps_refl _ | with_reducible intro _ | split)
theorem hubRegWrite_keeps (hs : Keeps s₀ s) (w : Writer) (off : Nat) (v : Word) : Keeps s₀ (hubRegWrite w off v s) := by
  unfold hubRegWrite; try dsimp only
  repeat (first | with_reducible assumption | with_reducible apply hlRegWrite_keeps | with_reducible apply jnlRegWrite_keeps
                | with_reducible apply lsRegWrite_keeps | with_reducible apply privRegWrite_keeps | with_reducible apply pwrRegWrite_keeps
                | with_reducible apply snpModuleWrite_keeps | with_reducible apply snpRegWrite_keeps | with_reducible apply tbRegWrite_keeps
                | with_reducible apply wgtRegWrite_keeps | with_reducible apply ite_keeps | with_reducible exact keeps_refl _
                | with_reducible intro _ | split)
theorem latch_keeps (hs : Keeps s₀ s) (lo : Nat) (v : Word) : Keeps s₀ (latch lo v s) := by
  unfold latch; try dsimp only
  repeat (first | with_reducible assumption | with_reducible apply onHub_keeps | with_reducible apply ite_keeps
                | with_reducible exact keeps_refl _ | with_reducible intro _ | split | with_reducible exact ‹Memory.wf _ = true›
                | exact ‹CcOk _› | exact ‹CoreOk _›)
theorem regRead_keeps (hs : Keeps s₀ s) (reader : Option CoreId) (addr : Nat) : Keeps s₀ (regRead reader addr s).2 := by
  unfold regRead; try dsimp only
  repeat (first | with_reducible assumption | with_reducible apply latch_keeps | with_reducible apply ite_keeps
                | with_reducible exact keeps_refl _ | with_reducible intro _ | split)
theorem regWrite_keeps (hs : Keeps s₀ s) (w : Writer) (addr : Nat) (v : Word) : Keeps s₀ (regWrite w addr v s) := by
  unfold regWrite; try dsimp only
  repeat (first | with_reducible assumption | with_reducible apply coreRegWrite_keeps | with_reducible apply dieRegWrite_keeps
                | with_reducible apply gateRegWrite_keeps | with_reducible apply hubRegWrite_keeps | with_reducible apply ite_keeps
                | with_reducible exact keeps_refl _ | with_reducible intro _ | split)
theorem atCycle_keeps (hs : Keeps s₀ s) (addr : Nat) (t : Nat) : Keeps s₀ (atCycle addr t s) := by
  unfold atCycle; try dsimp only
  repeat (first | with_reducible assumption | with_reducible apply advance_keeps | with_reducible apply ite_keeps
                | with_reducible exact keeps_refl _ | with_reducible intro _ | split)
theorem hostRegOp_keeps (hs : Keeps s₀ s) (t : Nat) (op : BitVec 128) : Keeps s₀ (hostRegOp t op s) := by
  unfold hostRegOp; try dsimp only
  repeat (first | with_reducible assumption | with_reducible apply onHl_keeps | with_reducible apply atCycle_keeps
                | with_reducible apply regRead_keeps | with_reducible apply regWrite_keeps | with_reducible apply ite_keeps
                | with_reducible exact keeps_refl _ | with_reducible intro _ | split)
theorem rvNext_keeps (hs : Keeps s₀ s) (c : CoreId) (len : Nat) (n : Nat) : Keeps s₀ (rvNext c len n s) := by
  unfold rvNext; try dsimp only
  repeat (first | with_reducible assumption | with_reducible apply ccRetire_keeps | with_reducible apply ite_keeps
                | with_reducible exact keeps_refl _ | with_reducible intro _ | split)
theorem rvLoad_keeps (hs : Keeps s₀ s) (c : CoreId) (data : Ecc) (len : Nat) (f3 : Nat) (size : Nat) (rd : Nat) (a : Nat) :
    Keeps s₀ (rvLoad c data len f3 size rd a s) := by
  unfold rvLoad; try dsimp only
  repeat (first | with_reducible assumption | with_reducible apply onCc_keeps | with_reducible apply ccMemEcc_keeps
                | with_reducible apply ccTrap_keeps | with_reducible apply regRead_keeps | with_reducible apply rvNext_keeps
                | with_reducible apply ite_keeps | with_reducible exact keeps_refl _ | with_reducible intro _ | split
                | with_reducible exact ‹Memory.wf _ = true› | with_reducible apply regSet_ok | exact ‹CcOk _› | exact ‹CoreOk _›
                | with_reducible apply withMem_keeps)
theorem rvStore_keeps (hs : Keeps s₀ s) (c : CoreId) (len : Nat) (size : Nat) (a : Nat) (v : Word) : Keeps s₀ (rvStore c len size a v s) := by
  have h1 : ∀ b bs, Keeps s₀ (s.onCc c fun k => { k with dmem := writeCells k.dmem b bs }) := fun b bs =>
    onCc_keeps hs c _ fun k hk => ⟨hk.1, writeCells_wf _ _ hk.2.1, hk.2.2⟩
  have h2 : ∀ g : Cc → Row, Keeps s₀ (s.onCc c fun k => { k with win := g k }) := fun g => onCc_keeps hs c _ fun k hk => ⟨hk.1, hk.2⟩
  unfold rvStore
  split
  · exact ccTrap_keeps hs c _ _
  · split <;> with_reducible first | exact ccTrap_keeps hs c _ _ | exact rvNext_keeps hs c _ _ | exact rvNext_keeps (h1 _ _) c _ _ | exact rvNext_keeps (h2 _) c _ _ | skip
    split
    · exact rvNext_keeps (regWrite_keeps hs _ _ _) c _ _
    · exact ccTrap_keeps hs c _ _
theorem csrSet_keeps (hs : Keeps s₀ s) (c : CoreId) (n : Nat) (v : Word) : Keeps s₀ (csrSet c n v s) := by
  unfold csrSet; try dsimp only
  repeat (first | with_reducible assumption | with_reducible apply onCc_keeps | with_reducible apply ite_keeps
                | with_reducible exact keeps_refl _ | with_reducible intro _ | split | with_reducible exact ‹Memory.wf _ = true›
                | exact ‹CcOk _› | exact ‹CoreOk _›)
theorem rvCsr_keeps (hs : Keeps s₀ s) (c : CoreId) (raw : Word) (len : Nat) (f3 : Nat) (rd : Nat) (rs1 : Nat) (n : Nat) :
    Keeps s₀ (rvCsr c raw len f3 rd rs1 n s) := by
  unfold rvCsr; try dsimp only
  repeat (first | with_reducible assumption | with_reducible apply onCc_keeps | with_reducible apply ccIllegal_keeps
                | with_reducible apply csrSet_keeps | with_reducible apply rvNext_keeps | with_reducible apply ite_keeps
                | with_reducible exact keeps_refl _ | with_reducible intro _ | split | with_reducible exact ‹Memory.wf _ = true›
                | with_reducible apply regSet_ok | exact ‹CcOk _› | exact ‹CoreOk _›)
theorem ctlInst_keeps (hs : Keeps s₀ s) {c : CoreId} {data : Ecc} {f3 f7 : Nat} {rd rs1 rs2 : Reg} {f : State → State} (h : ctlInst c data f3 f7 rd rs1 rs2 = some f) :
    Keeps s₀ (f s) := by
  unfold ctlInst at h
  split at h <;> (try cases h) <;> with_reducible first
    | exact instStage_keeps hs .. | exact instLaunch_keeps hs .. | exact instUnstage_keeps hs .. | exact instWfe_keeps hs .. | exact instHret_keeps hs ..
    | exact instFclr_keeps hs .. | exact instSum_keeps hs .. | exact instStkrd_keeps hs .. | exact instStkadd_keeps hs .. | exact instStkclr_keeps hs ..
    | exact instHset_keeps hs .. | exact instHrel_keeps hs .. | exact instHalloc_keeps hs .. | exact instSend_keeps hs .. | exact instRing_keeps hs ..
    | exact instWrd_keeps hs .. | exact instWwr_keeps hs .. | exact instFpop_keeps hs ..
theorem rvResult_keeps (hs : Keeps s₀ s) (c : CoreId) (len : Nat) (n : Nat) (rd : Nat) (v : Word) : Keeps s₀ (rvResult c len n rd v s) := by
  unfold rvResult; try dsimp only
  repeat (first | with_reducible assumption | with_reducible apply onCc_keeps | with_reducible apply rvNext_keeps
                | with_reducible apply ite_keeps | with_reducible exact keeps_refl _ | with_reducible intro _ | split
                | with_reducible exact ‹Memory.wf _ = true› | with_reducible apply regSet_ok | exact ‹CcOk _› | exact ‹CoreOk _›)
theorem rvJump_keeps (hs : Keeps s₀ s) (c : CoreId) (len : Nat) (rd : Nat) (target : Word) : Keeps s₀ (rvJump c len rd target s) := by
  unfold rvJump; try dsimp only
  repeat (first | with_reducible assumption | with_reducible apply onCc_keeps | with_reducible apply ccRetire_keeps
                | with_reducible apply ite_keeps | with_reducible exact keeps_refl _ | with_reducible intro _ | split
                | with_reducible exact ‹Memory.wf _ = true› | with_reducible apply regSet_ok | exact ‹CcOk _› | exact ‹CoreOk _›)
theorem rvSystem_keeps (hs : Keeps s₀ s) (c : CoreId) (raw : Word) (len : Nat) (w : Nat) : Keeps s₀ (rvSystem c raw len w s) := by
  unfold rvSystem; try dsimp only
  repeat (first | with_reducible assumption | with_reducible apply ccIllegal_keeps | with_reducible apply ccTrap_keeps
                | with_reducible apply rvCsr_keeps | with_reducible apply ite_keeps | with_reducible exact keeps_refl _
                | with_reducible intro _ | split)
theorem rvExec_keeps (hs : Keeps s₀ s) (c : CoreId) (data : Ecc) (raw : Word) (len : Nat) (w : Nat) : Keeps s₀ (rvExec c data raw len w s) := by
  have hc : ∀ {f}, ctlInst c data (bitsOf w 12 3) (bitsOf w 25 7) (Fin.ofNat 32 (bitsOf w 7 5)) (Fin.ofNat 32 (bitsOf w 15 5))
      (Fin.ofNat 32 (bitsOf w 20 5)) = some f → Keeps s₀ (f s) := fun h => ctlInst_keeps hs h
  unfold rvExec; dsimp only
  repeat (first | with_reducible assumption | with_reducible exact hc ‹_› | with_reducible apply ccIllegal_keeps
                | with_reducible apply ccRetire_keeps | with_reducible apply rvJump_keeps | with_reducible apply rvLoad_keeps
                | with_reducible apply rvNext_keeps | with_reducible apply rvResult_keeps | with_reducible apply rvStore_keeps
                | with_reducible apply rvSystem_keeps | with_reducible apply ite_keeps | with_reducible intro _ | split)
theorem rvStep_keeps (hs : Keeps s₀ s) (c : CoreId) (fetch : Ecc) (data : Ecc) : Keeps s₀ (rvStep c fetch data s) := by
  unfold rvStep; try dsimp only
  repeat (first | with_reducible assumption | with_reducible apply ccIllegal_keeps | with_reducible apply ccMemEcc_keeps
                | with_reducible apply ccTrap_keeps | with_reducible apply rvExec_keeps | with_reducible apply ite_keeps
                | with_reducible exact keeps_refl _ | with_reducible intro _ | split)

end Sys2Proof.Machine
end

