-- ==== Sys2Proof/Laws/Strip.lean ====
section
/-! SUPPORT. What the operations of strips, launches, credit and stalls leave unchanged: one projection lemma per part of State. -/

namespace Sys2Proof.Machine

open Sys2Proof

@[simp] theorem ccEvent_pending (c : CoreId) (b : Nat) (s : State) :
    (ccEvent c b s).pending = s.pending := by simp [ccEvent]
@[simp] theorem ccEvent_mem (c : CoreId) (b : Nat) (s : State) :
    (ccEvent c b s).mem = s.mem := by simp [ccEvent]
@[simp] theorem ccEvent_net (c : CoreId) (b : Nat) (s : State) :
    (ccEvent c b s).net = s.net := by simp [ccEvent]
@[simp] theorem ccEvent_free (c : CoreId) (b : Nat) (s : State) :
    (ccEvent c b s).free = s.free := by simp [ccEvent]
@[simp] theorem ccEvent_hub (c : CoreId) (b : Nat) (s : State) :
    (ccEvent c b s).hub = s.hub := by simp [ccEvent]
@[simp] theorem ccEvent_die (c : CoreId) (b : Nat) (s : State) (d' : DieId) :
    (ccEvent c b s).die d' = s.die d' := by simp [ccEvent]
@[simp] theorem ccEvent_port (c : CoreId) (b : Nat) (s : State) (p' : PortId) :
    (ccEvent c b s).port p' = s.port p' := by simp [ccEvent]
@[simp] theorem ccEvent_core_ne (c : CoreId) (b : Nat) (s : State) (c' : CoreId) (hne : c ≠ c') :
    (ccEvent c b s).core c' = s.core c' := by simp [ccEvent, hne]
@[simp] theorem ccEvent_cc_ne (c : CoreId) (b : Nat) (s : State) (c' : CoreId) (hne : c ≠ c') :
    (ccEvent c b s).cc c' = s.cc c' := by simp [ccEvent, hne]
@[simp] theorem dropOrdered_pending (c : CoreId) (s : State) :
    (dropOrdered c s).pending = s.pending := by simp [dropOrdered]
@[simp] theorem dropOrdered_mem (c : CoreId) (s : State) :
    (dropOrdered c s).mem = s.mem := by simp [dropOrdered]
@[simp] theorem dropOrdered_net (c : CoreId) (s : State) :
    (dropOrdered c s).net = s.net := by simp [dropOrdered]
@[simp] theorem dropOrdered_free (c : CoreId) (s : State) :
    (dropOrdered c s).free = s.free := by simp [dropOrdered]
@[simp] theorem dropOrdered_hub (c : CoreId) (s : State) :
    (dropOrdered c s).hub = s.hub := by simp [dropOrdered]
@[simp] theorem dropOrdered_die (c : CoreId) (s : State) (d' : DieId) :
    (dropOrdered c s).die d' = s.die d' := by simp [dropOrdered]
@[simp] theorem dropOrdered_port (c : CoreId) (s : State) (p' : PortId) :
    (dropOrdered c s).port p' = s.port p' := by simp [dropOrdered]
@[simp] theorem dropOrdered_sc (c : CoreId) (s : State) (c' : CoreId) :
    (dropOrdered c s).sc c' = s.sc c' := by simp [dropOrdered]
@[simp] theorem dropOrdered_cm (c : CoreId) (s : State) (c' : CoreId) :
    (dropOrdered c s).cm c' = s.cm c' := by simp [dropOrdered]
@[simp] theorem dropOrdered_en (c : CoreId) (s : State) (c' : CoreId) :
    (dropOrdered c s).en c' = s.en c' := by simp [dropOrdered]
@[simp] theorem dropOrdered_gate (c : CoreId) (s : State) (c' : CoreId) :
    ((dropOrdered c s).core c').gate = (s.core c').gate := by simp [dropOrdered]
@[simp] theorem dropOrdered_gatedAt (c : CoreId) (s : State) (c' : CoreId) :
    ((dropOrdered c s).core c').gatedAt = (s.core c').gatedAt := by simp [dropOrdered]
@[simp] theorem dropOrdered_gateCmd (c : CoreId) (s : State) (c' : CoreId) :
    ((dropOrdered c s).core c').gateCmd = (s.core c').gateCmd := by simp [dropOrdered]
@[simp] theorem dropOrdered_core_ne (c : CoreId) (s : State) (c' : CoreId) (hne : c ≠ c') :
    (dropOrdered c s).core c' = s.core c' := by simp [dropOrdered, hne]
@[simp] theorem dropOrdered_cc_ne (c : CoreId) (s : State) (c' : CoreId) (hne : c ≠ c') :
    (dropOrdered c s).cc c' = s.cc c' := by simp [dropOrdered, hne]
@[simp] theorem dropRequests_pending (c : CoreId) (s : State) :
    (dropRequests c s).pending = s.pending := by simp [dropRequests]
@[simp] theorem dropRequests_mem (c : CoreId) (s : State) :
    (dropRequests c s).mem = s.mem := by simp [dropRequests]
@[simp] theorem dropRequests_net (c : CoreId) (s : State) :
    (dropRequests c s).net = s.net := by simp [dropRequests]
@[simp] theorem dropRequests_free (c : CoreId) (s : State) :
    (dropRequests c s).free = s.free := by simp [dropRequests]
@[simp] theorem dropRequests_hub (c : CoreId) (s : State) :
    (dropRequests c s).hub = s.hub := by simp [dropRequests]
@[simp] theorem dropRequests_port (c : CoreId) (s : State) (p' : PortId) :
    (dropRequests c s).port p' = s.port p' := by simp [dropRequests]
@[simp] theorem dropRequests_cm (c : CoreId) (s : State) (c' : CoreId) :
    (dropRequests c s).cm c' = s.cm c' := by simp [dropRequests]
@[simp] theorem dropRequests_en (c : CoreId) (s : State) (c' : CoreId) :
    (dropRequests c s).en c' = s.en c' := by simp [dropRequests]
@[simp] theorem dropRequests_cc (c : CoreId) (s : State) (c' : CoreId) :
    (dropRequests c s).cc c' = s.cc c' := by simp [dropRequests]
@[simp] theorem dropRequests_gate (c : CoreId) (s : State) (c' : CoreId) :
    ((dropRequests c s).core c').gate = (s.core c').gate := by simp [dropRequests]
@[simp] theorem dropRequests_gatedAt (c : CoreId) (s : State) (c' : CoreId) :
    ((dropRequests c s).core c').gatedAt = (s.core c').gatedAt := by simp [dropRequests]
@[simp] theorem dropRequests_gateCmd (c : CoreId) (s : State) (c' : CoreId) :
    ((dropRequests c s).core c').gateCmd = (s.core c').gateCmd := by simp [dropRequests]
@[simp] theorem dropRequests_core_ne (c : CoreId) (s : State) (c' : CoreId) (hne : c ≠ c') :
    (dropRequests c s).core c' = s.core c' := by simp [dropRequests, hne]
@[simp] theorem dropRequests_die_ne (c : CoreId) (s : State) (d' : DieId) (hne : (dieOf c) ≠ d') :
    (dropRequests c s).die d' = s.die d' := by simp [dropRequests, hne]
@[simp] theorem dropRequests_sc_ne (c : CoreId) (s : State) (c' : CoreId) (hne : c ≠ c') :
    (dropRequests c s).sc c' = s.sc c' := by simp [dropRequests, hne]
@[simp] theorem faultCore_pending (c : CoreId) (s : State) :
    (faultCore c s).pending = s.pending := by simp [faultCore]
@[simp] theorem faultCore_mem (c : CoreId) (s : State) :
    (faultCore c s).mem = s.mem := by simp [faultCore]
@[simp] theorem faultCore_net (c : CoreId) (s : State) :
    (faultCore c s).net = s.net := by simp [faultCore]
@[simp] theorem faultCore_free (c : CoreId) (s : State) :
    (faultCore c s).free = s.free := by simp [faultCore]
@[simp] theorem faultCore_hub (c : CoreId) (s : State) :
    (faultCore c s).hub = s.hub := by simp [faultCore]
@[simp] theorem faultCore_die (c : CoreId) (s : State) (d' : DieId) :
    (faultCore c s).die d' = s.die d' := by simp [faultCore]
@[simp] theorem faultCore_port (c : CoreId) (s : State) (p' : PortId) :
    (faultCore c s).port p' = s.port p' := by simp [faultCore]
@[simp] theorem faultCore_cm (c : CoreId) (s : State) (c' : CoreId) :
    (faultCore c s).cm c' = s.cm c' := by simp [faultCore]
@[simp] theorem faultCore_en (c : CoreId) (s : State) (c' : CoreId) :
    (faultCore c s).en c' = s.en c' := by simp [faultCore]
@[simp] theorem faultCore_cc (c : CoreId) (s : State) (c' : CoreId) :
    (faultCore c s).cc c' = s.cc c' := by simp [faultCore]
@[simp] theorem faultCore_gate (c : CoreId) (s : State) (c' : CoreId) :
    ((faultCore c s).core c').gate = (s.core c').gate := by simp [faultCore]
@[simp] theorem faultCore_gatedAt (c : CoreId) (s : State) (c' : CoreId) :
    ((faultCore c s).core c').gatedAt = (s.core c').gatedAt := by simp [faultCore]
@[simp] theorem faultCore_gateCmd (c : CoreId) (s : State) (c' : CoreId) :
    ((faultCore c s).core c').gateCmd = (s.core c').gateCmd := by simp [faultCore]
@[simp] theorem faultCore_core_ne (c : CoreId) (s : State) (c' : CoreId) (hne : c ≠ c') :
    (faultCore c s).core c' = s.core c' := by simp [faultCore, hne]
@[simp] theorem faultCore_sc_ne (c : CoreId) (s : State) (c' : CoreId) (hne : c ≠ c') :
    (faultCore c s).sc c' = s.sc c' := by simp [faultCore, hne]
@[simp] theorem setReg_pending (c : CoreId) (r : Reg) (v : Nat) (s : State) :
    (setReg c r v s).pending = s.pending := by simp [setReg]
@[simp] theorem setReg_mem (c : CoreId) (r : Reg) (v : Nat) (s : State) :
    (setReg c r v s).mem = s.mem := by simp [setReg]
@[simp] theorem setReg_net (c : CoreId) (r : Reg) (v : Nat) (s : State) :
    (setReg c r v s).net = s.net := by simp [setReg]
@[simp] theorem setReg_free (c : CoreId) (r : Reg) (v : Nat) (s : State) :
    (setReg c r v s).free = s.free := by simp [setReg]
@[simp] theorem setReg_hub (c : CoreId) (r : Reg) (v : Nat) (s : State) :
    (setReg c r v s).hub = s.hub := by simp [setReg]
@[simp] theorem setReg_die (c : CoreId) (r : Reg) (v : Nat) (s : State) (d' : DieId) :
    (setReg c r v s).die d' = s.die d' := by simp [setReg]
@[simp] theorem setReg_port (c : CoreId) (r : Reg) (v : Nat) (s : State) (p' : PortId) :
    (setReg c r v s).port p' = s.port p' := by simp [setReg]
@[simp] theorem setReg_sc (c : CoreId) (r : Reg) (v : Nat) (s : State) (c' : CoreId) :
    (setReg c r v s).sc c' = s.sc c' := by simp [setReg]
@[simp] theorem setReg_cm (c : CoreId) (r : Reg) (v : Nat) (s : State) (c' : CoreId) :
    (setReg c r v s).cm c' = s.cm c' := by simp [setReg]
@[simp] theorem setReg_en (c : CoreId) (r : Reg) (v : Nat) (s : State) (c' : CoreId) :
    (setReg c r v s).en c' = s.en c' := by simp [setReg]
@[simp] theorem setReg_gate (c : CoreId) (r : Reg) (v : Nat) (s : State) (c' : CoreId) :
    ((setReg c r v s).core c').gate = (s.core c').gate := by simp [setReg]
@[simp] theorem setReg_gatedAt (c : CoreId) (r : Reg) (v : Nat) (s : State) (c' : CoreId) :
    ((setReg c r v s).core c').gatedAt = (s.core c').gatedAt := by simp [setReg]
@[simp] theorem setReg_gateCmd (c : CoreId) (r : Reg) (v : Nat) (s : State) (c' : CoreId) :
    ((setReg c r v s).core c').gateCmd = (s.core c').gateCmd := by simp [setReg]
@[simp] theorem setReg_core_ne (c : CoreId) (r : Reg) (v : Nat) (s : State) (c' : CoreId) (hne : c ≠ c') :
    (setReg c r v s).core c' = s.core c' := by simp [setReg, hne]
@[simp] theorem setReg_cc_ne (c : CoreId) (r : Reg) (v : Nat) (s : State) (c' : CoreId) (hne : c ≠ c') :
    (setReg c r v s).cc c' = s.cc c' := by simp [setReg, hne]
@[simp] theorem ccRetire_pending (c : CoreId) (pc : Word) (n : Nat) (s : State) :
    (ccRetire c pc n s).pending = s.pending := by simp [ccRetire]
@[simp] theorem ccRetire_mem (c : CoreId) (pc : Word) (n : Nat) (s : State) :
    (ccRetire c pc n s).mem = s.mem := by simp [ccRetire]
@[simp] theorem ccRetire_net (c : CoreId) (pc : Word) (n : Nat) (s : State) :
    (ccRetire c pc n s).net = s.net := by simp [ccRetire]
@[simp] theorem ccRetire_free (c : CoreId) (pc : Word) (n : Nat) (s : State) :
    (ccRetire c pc n s).free = s.free := by simp [ccRetire]
@[simp] theorem ccRetire_hub (c : CoreId) (pc : Word) (n : Nat) (s : State) :
    (ccRetire c pc n s).hub = s.hub := by simp [ccRetire]
@[simp] theorem ccRetire_die (c : CoreId) (pc : Word) (n : Nat) (s : State) (d' : DieId) :
    (ccRetire c pc n s).die d' = s.die d' := by simp [ccRetire]
@[simp] theorem ccRetire_port (c : CoreId) (pc : Word) (n : Nat) (s : State) (p' : PortId) :
    (ccRetire c pc n s).port p' = s.port p' := by simp [ccRetire]
@[simp] theorem ccRetire_sc (c : CoreId) (pc : Word) (n : Nat) (s : State) (c' : CoreId) :
    (ccRetire c pc n s).sc c' = s.sc c' := by simp [ccRetire]
@[simp] theorem ccRetire_cm (c : CoreId) (pc : Word) (n : Nat) (s : State) (c' : CoreId) :
    (ccRetire c pc n s).cm c' = s.cm c' := by simp [ccRetire]
@[simp] theorem ccRetire_en (c : CoreId) (pc : Word) (n : Nat) (s : State) (c' : CoreId) :
    (ccRetire c pc n s).en c' = s.en c' := by simp [ccRetire]
@[simp] theorem ccRetire_gate (c : CoreId) (pc : Word) (n : Nat) (s : State) (c' : CoreId) :
    ((ccRetire c pc n s).core c').gate = (s.core c').gate := by simp [ccRetire]
@[simp] theorem ccRetire_gatedAt (c : CoreId) (pc : Word) (n : Nat) (s : State) (c' : CoreId) :
    ((ccRetire c pc n s).core c').gatedAt = (s.core c').gatedAt := by simp [ccRetire]
@[simp] theorem ccRetire_gateCmd (c : CoreId) (pc : Word) (n : Nat) (s : State) (c' : CoreId) :
    ((ccRetire c pc n s).core c').gateCmd = (s.core c').gateCmd := by simp [ccRetire]
@[simp] theorem ccRetire_core_ne (c : CoreId) (pc : Word) (n : Nat) (s : State) (c' : CoreId) (hne : c ≠ c') :
    (ccRetire c pc n s).core c' = s.core c' := by simp [ccRetire, hne]
@[simp] theorem ccRetire_cc_ne (c : CoreId) (pc : Word) (n : Nat) (s : State) (c' : CoreId) (hne : c ≠ c') :
    (ccRetire c pc n s).cc c' = s.cc c' := by simp [ccRetire, hne]
@[simp] theorem ccNext_pending (c : CoreId) (n : Nat) (s : State) :
    (ccNext c n s).pending = s.pending := by simp [ccNext]
@[simp] theorem ccNext_mem (c : CoreId) (n : Nat) (s : State) :
    (ccNext c n s).mem = s.mem := by simp [ccNext]
@[simp] theorem ccNext_net (c : CoreId) (n : Nat) (s : State) :
    (ccNext c n s).net = s.net := by simp [ccNext]
@[simp] theorem ccNext_free (c : CoreId) (n : Nat) (s : State) :
    (ccNext c n s).free = s.free := by simp [ccNext]
@[simp] theorem ccNext_hub (c : CoreId) (n : Nat) (s : State) :
    (ccNext c n s).hub = s.hub := by simp [ccNext]
@[simp] theorem ccNext_die (c : CoreId) (n : Nat) (s : State) (d' : DieId) :
    (ccNext c n s).die d' = s.die d' := by simp [ccNext]
@[simp] theorem ccNext_port (c : CoreId) (n : Nat) (s : State) (p' : PortId) :
    (ccNext c n s).port p' = s.port p' := by simp [ccNext]
@[simp] theorem ccNext_sc (c : CoreId) (n : Nat) (s : State) (c' : CoreId) :
    (ccNext c n s).sc c' = s.sc c' := by simp [ccNext]
@[simp] theorem ccNext_cm (c : CoreId) (n : Nat) (s : State) (c' : CoreId) :
    (ccNext c n s).cm c' = s.cm c' := by simp [ccNext]
@[simp] theorem ccNext_en (c : CoreId) (n : Nat) (s : State) (c' : CoreId) :
    (ccNext c n s).en c' = s.en c' := by simp [ccNext]
@[simp] theorem ccNext_gate (c : CoreId) (n : Nat) (s : State) (c' : CoreId) :
    ((ccNext c n s).core c').gate = (s.core c').gate := by simp [ccNext]
@[simp] theorem ccNext_gatedAt (c : CoreId) (n : Nat) (s : State) (c' : CoreId) :
    ((ccNext c n s).core c').gatedAt = (s.core c').gatedAt := by simp [ccNext]
@[simp] theorem ccNext_gateCmd (c : CoreId) (n : Nat) (s : State) (c' : CoreId) :
    ((ccNext c n s).core c').gateCmd = (s.core c').gateCmd := by simp [ccNext]
@[simp] theorem ccNext_core_ne (c : CoreId) (n : Nat) (s : State) (c' : CoreId) (hne : c ≠ c') :
    (ccNext c n s).core c' = s.core c' := by simp [ccNext, hne]
@[simp] theorem ccNext_cc_ne (c : CoreId) (n : Nat) (s : State) (c' : CoreId) (hne : c ≠ c') :
    (ccNext c n s).cc c' = s.cc c' := by simp [ccNext, hne]
@[simp] theorem use7_pending (c : CoreId) (r : Nat) (s : State) :
    (use7 c r s).pending = s.pending := by simp [use7]
@[simp] theorem use7_mem (c : CoreId) (r : Nat) (s : State) :
    (use7 c r s).mem = s.mem := by simp [use7]
@[simp] theorem use7_net (c : CoreId) (r : Nat) (s : State) :
    (use7 c r s).net = s.net := by simp [use7]
@[simp] theorem use7_free (c : CoreId) (r : Nat) (s : State) :
    (use7 c r s).free = s.free := by simp [use7]
@[simp] theorem use7_hub (c : CoreId) (r : Nat) (s : State) :
    (use7 c r s).hub = s.hub := by simp [use7]
@[simp] theorem use7_die (c : CoreId) (r : Nat) (s : State) (d' : DieId) :
    (use7 c r s).die d' = s.die d' := by simp [use7]
@[simp] theorem use7_port (c : CoreId) (r : Nat) (s : State) (p' : PortId) :
    (use7 c r s).port p' = s.port p' := by simp [use7]
@[simp] theorem use7_sc (c : CoreId) (r : Nat) (s : State) (c' : CoreId) :
    (use7 c r s).sc c' = s.sc c' := by simp [use7]
@[simp] theorem use7_en (c : CoreId) (r : Nat) (s : State) (c' : CoreId) :
    (use7 c r s).en c' = s.en c' := by simp [use7]
@[simp] theorem use7_cc (c : CoreId) (r : Nat) (s : State) (c' : CoreId) :
    (use7 c r s).cc c' = s.cc c' := by simp [use7]
@[simp] theorem use7_gate (c : CoreId) (r : Nat) (s : State) (c' : CoreId) :
    ((use7 c r s).core c').gate = (s.core c').gate := by simp [use7]
@[simp] theorem use7_gatedAt (c : CoreId) (r : Nat) (s : State) (c' : CoreId) :
    ((use7 c r s).core c').gatedAt = (s.core c').gatedAt := by simp [use7]
@[simp] theorem use7_gateCmd (c : CoreId) (r : Nat) (s : State) (c' : CoreId) :
    ((use7 c r s).core c').gateCmd = (s.core c').gateCmd := by simp [use7]
@[simp] theorem use7_core_ne (c : CoreId) (r : Nat) (s : State) (c' : CoreId) (hne : c ≠ c') :
    (use7 c r s).core c' = s.core c' := by simp [use7, hne]
@[simp] theorem use7_cm_ne (c : CoreId) (r : Nat) (s : State) (c' : CoreId) (hne : c ≠ c') :
    (use7 c r s).cm c' = s.cm c' := by simp [use7, hne]
@[simp] theorem launchWait_pending (c : CoreId) (k : Cause) (s : State) :
    (launchWait c k s).pending = s.pending := by simp [launchWait]
@[simp] theorem launchWait_mem (c : CoreId) (k : Cause) (s : State) :
    (launchWait c k s).mem = s.mem := by simp [launchWait]
@[simp] theorem launchWait_net (c : CoreId) (k : Cause) (s : State) :
    (launchWait c k s).net = s.net := by simp [launchWait]
@[simp] theorem launchWait_free (c : CoreId) (k : Cause) (s : State) :
    (launchWait c k s).free = s.free := by simp [launchWait]
@[simp] theorem launchWait_hub (c : CoreId) (k : Cause) (s : State) :
    (launchWait c k s).hub = s.hub := by simp [launchWait]
@[simp] theorem launchWait_die (c : CoreId) (k : Cause) (s : State) (d' : DieId) :
    (launchWait c k s).die d' = s.die d' := by simp [launchWait]
@[simp] theorem launchWait_port (c : CoreId) (k : Cause) (s : State) (p' : PortId) :
    (launchWait c k s).port p' = s.port p' := by simp [launchWait]
@[simp] theorem launchWait_cm (c : CoreId) (k : Cause) (s : State) (c' : CoreId) :
    (launchWait c k s).cm c' = s.cm c' := by simp [launchWait]
@[simp] theorem launchWait_en (c : CoreId) (k : Cause) (s : State) (c' : CoreId) :
    (launchWait c k s).en c' = s.en c' := by simp [launchWait]
@[simp] theorem launchWait_cc (c : CoreId) (k : Cause) (s : State) (c' : CoreId) :
    (launchWait c k s).cc c' = s.cc c' := by simp [launchWait]
@[simp] theorem launchWait_gate (c : CoreId) (k : Cause) (s : State) (c' : CoreId) :
    ((launchWait c k s).core c').gate = (s.core c').gate := by simp [launchWait]
@[simp] theorem launchWait_gatedAt (c : CoreId) (k : Cause) (s : State) (c' : CoreId) :
    ((launchWait c k s).core c').gatedAt = (s.core c').gatedAt := by simp [launchWait]
@[simp] theorem launchWait_gateCmd (c : CoreId) (k : Cause) (s : State) (c' : CoreId) :
    ((launchWait c k s).core c').gateCmd = (s.core c').gateCmd := by simp [launchWait]
@[simp] theorem launchWait_core_ne (c : CoreId) (k : Cause) (s : State) (c' : CoreId) (hne : c ≠ c') :
    (launchWait c k s).core c' = s.core c' := by simp [launchWait, hne]
@[simp] theorem launchWait_sc_ne (c : CoreId) (k : Cause) (s : State) (c' : CoreId) (hne : c ≠ c') :
    (launchWait c k s).sc c' = s.sc c' := by simp [launchWait, hne]
@[simp] theorem refuseLaunch_pending (c : CoreId) (s : State) :
    (refuseLaunch c s).pending = s.pending := by
  unfold refuseLaunch; dsimp only; (repeat' split) <;> simp
@[simp] theorem refuseLaunch_mem (c : CoreId) (s : State) :
    (refuseLaunch c s).mem = s.mem := by
  unfold refuseLaunch; dsimp only; (repeat' split) <;> simp
@[simp] theorem refuseLaunch_net (c : CoreId) (s : State) :
    (refuseLaunch c s).net = s.net := by
  unfold refuseLaunch; dsimp only; (repeat' split) <;> simp
@[simp] theorem refuseLaunch_free (c : CoreId) (s : State) :
    (refuseLaunch c s).free = s.free := by
  unfold refuseLaunch; dsimp only; (repeat' split) <;> simp
@[simp] theorem refuseLaunch_hub (c : CoreId) (s : State) :
    (refuseLaunch c s).hub = s.hub := by
  unfold refuseLaunch; dsimp only; (repeat' split) <;> simp
@[simp] theorem refuseLaunch_port (c : CoreId) (s : State) (p' : PortId) :
    (refuseLaunch c s).port p' = s.port p' := by
  unfold refuseLaunch; dsimp only; (repeat' split) <;> simp
@[simp] theorem refuseLaunch_cm (c : CoreId) (s : State) (c' : CoreId) :
    (refuseLaunch c s).cm c' = s.cm c' := by
  unfold refuseLaunch; dsimp only; (repeat' split) <;> simp
@[simp] theorem refuseLaunch_en (c : CoreId) (s : State) (c' : CoreId) :
    (refuseLaunch c s).en c' = s.en c' := by
  unfold refuseLaunch; dsimp only; (repeat' split) <;> simp
@[simp] theorem refuseLaunch_cc (c : CoreId) (s : State) (c' : CoreId) :
    (refuseLaunch c s).cc c' = s.cc c' := by
  unfold refuseLaunch; dsimp only; (repeat' split) <;> simp
@[simp] theorem refuseLaunch_gate (c : CoreId) (s : State) (c' : CoreId) :
    ((refuseLaunch c s).core c').gate = (s.core c').gate := by
  unfold refuseLaunch; dsimp only; (repeat' split) <;> simp
@[simp] theorem refuseLaunch_gatedAt (c : CoreId) (s : State) (c' : CoreId) :
    ((refuseLaunch c s).core c').gatedAt = (s.core c').gatedAt := by
  unfold refuseLaunch; dsimp only; (repeat' split) <;> simp
@[simp] theorem refuseLaunch_gateCmd (c : CoreId) (s : State) (c' : CoreId) :
    ((refuseLaunch c s).core c').gateCmd = (s.core c').gateCmd := by
  unfold refuseLaunch; dsimp only; (repeat' split) <;> simp
@[simp] theorem refuseLaunch_core_ne (c : CoreId) (s : State) (c' : CoreId) (hne : c ≠ c') :
    (refuseLaunch c s).core c' = s.core c' := by
  unfold refuseLaunch; dsimp only; (repeat' split) <;> simp [hne]
@[simp] theorem refuseLaunch_die_ne (c : CoreId) (s : State) (d' : DieId) (hne : (dieOf c) ≠ d') :
    (refuseLaunch c s).die d' = s.die d' := by
  unfold refuseLaunch; dsimp only; (repeat' split) <;> simp [hne]
@[simp] theorem refuseLaunch_sc_ne (c : CoreId) (s : State) (c' : CoreId) (hne : c ≠ c') :
    (refuseLaunch c s).sc c' = s.sc c' := by
  unfold refuseLaunch; dsimp only; (repeat' split) <;> simp [hne]
@[simp] theorem issueWord_pending (c : CoreId) (q : Queue) (w : IWord) (b e k : Nat) (o m : Bool) (s : State) :
    (issueWord c q w b e k o m s).pending = s.pending := by
  unfold issueWord; dsimp only; (repeat' split) <;> simp
@[simp] theorem issueWord_mem (c : CoreId) (q : Queue) (w : IWord) (b e k : Nat) (o m : Bool) (s : State) :
    (issueWord c q w b e k o m s).mem = s.mem := by
  unfold issueWord; dsimp only; (repeat' split) <;> simp
@[simp] theorem issueWord_net (c : CoreId) (q : Queue) (w : IWord) (b e k : Nat) (o m : Bool) (s : State) :
    (issueWord c q w b e k o m s).net = s.net := by
  unfold issueWord; dsimp only; (repeat' split) <;> simp
@[simp] theorem issueWord_free (c : CoreId) (q : Queue) (w : IWord) (b e k : Nat) (o m : Bool) (s : State) :
    (issueWord c q w b e k o m s).free = s.free := by
  unfold issueWord; dsimp only; (repeat' split) <;> simp
@[simp] theorem issueWord_hub (c : CoreId) (q : Queue) (w : IWord) (b e k : Nat) (o m : Bool) (s : State) :
    (issueWord c q w b e k o m s).hub = s.hub := by
  unfold issueWord; dsimp only; (repeat' split) <;> simp
@[simp] theorem issueWord_die (c : CoreId) (q : Queue) (w : IWord) (b e k : Nat) (o m : Bool) (s : State) (d' : DieId) :
    (issueWord c q w b e k o m s).die d' = s.die d' := by
  unfold issueWord; dsimp only; (repeat' split) <;> simp
@[simp] theorem issueWord_port (c : CoreId) (q : Queue) (w : IWord) (b e k : Nat) (o m : Bool) (s : State) (p' : PortId) :
    (issueWord c q w b e k o m s).port p' = s.port p' := by
  unfold issueWord; dsimp only; (repeat' split) <;> simp
@[simp] theorem issueWord_cm (c : CoreId) (q : Queue) (w : IWord) (b e k : Nat) (o m : Bool) (s : State) (c' : CoreId) :
    (issueWord c q w b e k o m s).cm c' = s.cm c' := by
  unfold issueWord; dsimp only; (repeat' split) <;> simp
@[simp] theorem issueWord_en (c : CoreId) (q : Queue) (w : IWord) (b e k : Nat) (o m : Bool) (s : State) (c' : CoreId) :
    (issueWord c q w b e k o m s).en c' = s.en c' := by
  unfold issueWord; dsimp only; (repeat' split) <;> simp
@[simp] theorem issueWord_gate (c : CoreId) (q : Queue) (w : IWord) (b e k : Nat) (o m : Bool) (s : State) (c' : CoreId) :
    ((issueWord c q w b e k o m s).core c').gate = (s.core c').gate := by
  unfold issueWord; dsimp only; (repeat' split) <;> simp
@[simp] theorem issueWord_gatedAt (c : CoreId) (q : Queue) (w : IWord) (b e k : Nat) (o m : Bool) (s : State) (c' : CoreId) :
    ((issueWord c q w b e k o m s).core c').gatedAt = (s.core c').gatedAt := by
  unfold issueWord; dsimp only; (repeat' split) <;> simp
@[simp] theorem issueWord_gateCmd (c : CoreId) (q : Queue) (w : IWord) (b e k : Nat) (o m : Bool) (s : State) (c' : CoreId) :
    ((issueWord c q w b e k o m s).core c').gateCmd = (s.core c').gateCmd := by
  unfold issueWord; dsimp only; (repeat' split) <;> simp
@[simp] theorem issueWord_core_ne (c : CoreId) (q : Queue) (w : IWord) (b e k : Nat) (o m : Bool) (s : State) (c' : CoreId) (hne : c ≠ c') :
    (issueWord c q w b e k o m s).core c' = s.core c' := by
  unfold issueWord; dsimp only; (repeat' split) <;> simp [hne]
@[simp] theorem issueWord_sc_ne (c : CoreId) (q : Queue) (w : IWord) (b e k : Nat) (o m : Bool) (s : State) (c' : CoreId) (hne : c ≠ c') :
    (issueWord c q w b e k o m s).sc c' = s.sc c' := by
  unfold issueWord; dsimp only; (repeat' split) <;> simp [hne]
@[simp] theorem issueWord_cc_ne (c : CoreId) (q : Queue) (w : IWord) (b e k : Nat) (o m : Bool) (s : State) (c' : CoreId) (hne : c ≠ c') :
    (issueWord c q w b e k o m s).cc c' = s.cc c' := by
  unfold issueWord; dsimp only; (repeat' split) <;> simp [hne]
@[simp] theorem issueNeutral_pending (c : CoreId) (q : Queue) (w : IWord) (s : State) :
    (issueNeutral c q w s).pending = s.pending := by simp [issueNeutral]
@[simp] theorem issueNeutral_mem (c : CoreId) (q : Queue) (w : IWord) (s : State) :
    (issueNeutral c q w s).mem = s.mem := by simp [issueNeutral]
@[simp] theorem issueNeutral_net (c : CoreId) (q : Queue) (w : IWord) (s : State) :
    (issueNeutral c q w s).net = s.net := by simp [issueNeutral]
@[simp] theorem issueNeutral_free (c : CoreId) (q : Queue) (w : IWord) (s : State) :
    (issueNeutral c q w s).free = s.free := by simp [issueNeutral]
@[simp] theorem issueNeutral_hub (c : CoreId) (q : Queue) (w : IWord) (s : State) :
    (issueNeutral c q w s).hub = s.hub := by simp [issueNeutral]
@[simp] theorem issueNeutral_die (c : CoreId) (q : Queue) (w : IWord) (s : State) (d' : DieId) :
    (issueNeutral c q w s).die d' = s.die d' := by simp [issueNeutral]
@[simp] theorem issueNeutral_port (c : CoreId) (q : Queue) (w : IWord) (s : State) (p' : PortId) :
    (issueNeutral c q w s).port p' = s.port p' := by simp [issueNeutral]
@[simp] theorem issueNeutral_cm (c : CoreId) (q : Queue) (w : IWord) (s : State) (c' : CoreId) :
    (issueNeutral c q w s).cm c' = s.cm c' := by simp [issueNeutral]
@[simp] theorem issueNeutral_en (c : CoreId) (q : Queue) (w : IWord) (s : State) (c' : CoreId) :
    (issueNeutral c q w s).en c' = s.en c' := by simp [issueNeutral]
@[simp] theorem issueNeutral_gate (c : CoreId) (q : Queue) (w : IWord) (s : State) (c' : CoreId) :
    ((issueNeutral c q w s).core c').gate = (s.core c').gate := by simp [issueNeutral]
@[simp] theorem issueNeutral_gatedAt (c : CoreId) (q : Queue) (w : IWord) (s : State) (c' : CoreId) :
    ((issueNeutral c q w s).core c').gatedAt = (s.core c').gatedAt := by simp [issueNeutral]
@[simp] theorem issueNeutral_gateCmd (c : CoreId) (q : Queue) (w : IWord) (s : State) (c' : CoreId) :
    ((issueNeutral c q w s).core c').gateCmd = (s.core c').gateCmd := by simp [issueNeutral]
@[simp] theorem issueNeutral_core_ne (c : CoreId) (q : Queue) (w : IWord) (s : State) (c' : CoreId) (hne : c ≠ c') :
    (issueNeutral c q w s).core c' = s.core c' := by simp [issueNeutral, hne]
@[simp] theorem issueNeutral_sc_ne (c : CoreId) (q : Queue) (w : IWord) (s : State) (c' : CoreId) (hne : c ≠ c') :
    (issueNeutral c q w s).sc c' = s.sc c' := by simp [issueNeutral, hne]
@[simp] theorem issueNeutral_cc_ne (c : CoreId) (q : Queue) (w : IWord) (s : State) (c' : CoreId) (hne : c ≠ c') :
    (issueNeutral c q w s).cc c' = s.cc c' := by simp [issueNeutral, hne]
@[simp] theorem takeStake_pending (c : CoreId) (k n : Nat) (s : State) :
    (takeStake c k n s).pending = s.pending := by simp [takeStake]
@[simp] theorem takeStake_mem (c : CoreId) (k n : Nat) (s : State) :
    (takeStake c k n s).mem = s.mem := by simp [takeStake]
@[simp] theorem takeStake_net (c : CoreId) (k n : Nat) (s : State) :
    (takeStake c k n s).net = s.net := by simp [takeStake]
@[simp] theorem takeStake_free (c : CoreId) (k n : Nat) (s : State) :
    (takeStake c k n s).free = s.free := by simp [takeStake]
@[simp] theorem takeStake_hub (c : CoreId) (k n : Nat) (s : State) :
    (takeStake c k n s).hub = s.hub := by simp [takeStake]
@[simp] theorem takeStake_die (c : CoreId) (k n : Nat) (s : State) (d' : DieId) :
    (takeStake c k n s).die d' = s.die d' := by simp [takeStake]
@[simp] theorem takeStake_port (c : CoreId) (k n : Nat) (s : State) (p' : PortId) :
    (takeStake c k n s).port p' = s.port p' := by simp [takeStake]
@[simp] theorem takeStake_cm (c : CoreId) (k n : Nat) (s : State) (c' : CoreId) :
    (takeStake c k n s).cm c' = s.cm c' := by simp [takeStake]
@[simp] theorem takeStake_en (c : CoreId) (k n : Nat) (s : State) (c' : CoreId) :
    (takeStake c k n s).en c' = s.en c' := by simp [takeStake]
@[simp] theorem takeStake_cc (c : CoreId) (k n : Nat) (s : State) (c' : CoreId) :
    (takeStake c k n s).cc c' = s.cc c' := by simp [takeStake]
@[simp] theorem takeStake_gate (c : CoreId) (k n : Nat) (s : State) (c' : CoreId) :
    ((takeStake c k n s).core c').gate = (s.core c').gate := by simp [takeStake]
@[simp] theorem takeStake_gatedAt (c : CoreId) (k n : Nat) (s : State) (c' : CoreId) :
    ((takeStake c k n s).core c').gatedAt = (s.core c').gatedAt := by simp [takeStake]
@[simp] theorem takeStake_gateCmd (c : CoreId) (k n : Nat) (s : State) (c' : CoreId) :
    ((takeStake c k n s).core c').gateCmd = (s.core c').gateCmd := by simp [takeStake]
@[simp] theorem takeStake_core_ne (c : CoreId) (k n : Nat) (s : State) (c' : CoreId) (hne : c ≠ c') :
    (takeStake c k n s).core c' = s.core c' := by simp [takeStake, hne]
@[simp] theorem takeStake_sc_ne (c : CoreId) (k n : Nat) (s : State) (c' : CoreId) (hne : c ≠ c') :
    (takeStake c k n s).sc c' = s.sc c' := by simp [takeStake, hne]
@[simp] theorem beginStall_pending (c : CoreId) (bs : List Blocked) (s : State) :
    (beginStall c bs s).pending = s.pending := by
  unfold beginStall; (repeat' split) <;> simp
@[simp] theorem beginStall_mem (c : CoreId) (bs : List Blocked) (s : State) :
    (beginStall c bs s).mem = s.mem := by
  unfold beginStall; (repeat' split) <;> simp
@[simp] theorem beginStall_net (c : CoreId) (bs : List Blocked) (s : State) :
    (beginStall c bs s).net = s.net := by
  unfold beginStall; (repeat' split) <;> simp
@[simp] theorem beginStall_free (c : CoreId) (bs : List Blocked) (s : State) :
    (beginStall c bs s).free = s.free := by
  unfold beginStall; (repeat' split) <;> simp
@[simp] theorem beginStall_hub (c : CoreId) (bs : List Blocked) (s : State) :
    (beginStall c bs s).hub = s.hub := by
  unfold beginStall; (repeat' split) <;> simp
@[simp] theorem beginStall_port (c : CoreId) (bs : List Blocked) (s : State) (p' : PortId) :
    (beginStall c bs s).port p' = s.port p' := by
  unfold beginStall; (repeat' split) <;> simp
@[simp] theorem beginStall_cm (c : CoreId) (bs : List Blocked) (s : State) (c' : CoreId) :
    (beginStall c bs s).cm c' = s.cm c' := by
  unfold beginStall; (repeat' split) <;> simp
@[simp] theorem beginStall_en (c : CoreId) (bs : List Blocked) (s : State) (c' : CoreId) :
    (beginStall c bs s).en c' = s.en c' := by
  unfold beginStall; (repeat' split) <;> simp
@[simp] theorem beginStall_gate (c : CoreId) (bs : List Blocked) (s : State) (c' : CoreId) :
    ((beginStall c bs s).core c').gate = (s.core c').gate := by
  unfold beginStall; (repeat' split) <;> simp
@[simp] theorem beginStall_gatedAt (c : CoreId) (bs : List Blocked) (s : State) (c' : CoreId) :
    ((beginStall c bs s).core c').gatedAt = (s.core c').gatedAt := by
  unfold beginStall; (repeat' split) <;> simp
@[simp] theorem beginStall_gateCmd (c : CoreId) (bs : List Blocked) (s : State) (c' : CoreId) :
    ((beginStall c bs s).core c').gateCmd = (s.core c').gateCmd := by
  unfold beginStall; (repeat' split) <;> simp
@[simp] theorem beginStall_core_ne (c : CoreId) (bs : List Blocked) (s : State) (c' : CoreId) (hne : c ≠ c') :
    (beginStall c bs s).core c' = s.core c' := by
  unfold beginStall; (repeat' split) <;> simp [hne]
@[simp] theorem beginStall_sc_ne (c : CoreId) (bs : List Blocked) (s : State) (c' : CoreId) (hne : c ≠ c') :
    (beginStall c bs s).sc c' = s.sc c' := by
  unfold beginStall; (repeat' split) <;> simp [hne]
@[simp] theorem beginStall_cc_ne (c : CoreId) (bs : List Blocked) (s : State) (c' : CoreId) (hne : c ≠ c') :
    (beginStall c bs s).cc c' = s.cc c' := by
  unfold beginStall; (repeat' split) <;> simp [hne]
@[simp] theorem powerGate_pending (c : CoreId) (s : State) :
    (powerGate c s).pending = s.pending := by simp [powerGate]
@[simp] theorem powerGate_mem (c : CoreId) (s : State) :
    (powerGate c s).mem = s.mem := by simp [powerGate]
@[simp] theorem powerGate_net (c : CoreId) (s : State) :
    (powerGate c s).net = s.net := by simp [powerGate]
@[simp] theorem powerGate_free (c : CoreId) (s : State) :
    (powerGate c s).free = s.free := by simp [powerGate]
@[simp] theorem powerGate_hub (c : CoreId) (s : State) :
    (powerGate c s).hub = s.hub := by simp [powerGate]
@[simp] theorem powerGate_die (c : CoreId) (s : State) (d' : DieId) :
    (powerGate c s).die d' = s.die d' := by simp [powerGate]
@[simp] theorem powerGate_port (c : CoreId) (s : State) (p' : PortId) :
    (powerGate c s).port p' = s.port p' := by simp [powerGate]
@[simp] theorem powerGate_core_ne (c : CoreId) (s : State) (c' : CoreId) (hne : c ≠ c') :
    (powerGate c s).core c' = s.core c' := by simp [powerGate, hne]
@[simp] theorem powerGate_gatedAt (c : CoreId) (s : State) (c' : CoreId) :
    ((powerGate c s).core c').gatedAt = (s.core c').gatedAt := by
  by_cases hcc : c = c'
  · subst hcc; unfold powerGate; (try dsimp only); (repeat' split) <;> simp
  · unfold powerGate; (try dsimp only); (repeat' split) <;> simp [hcc]
@[simp] theorem powerGate_sc_ne (c : CoreId) (s : State) (c' : CoreId) (hne : c ≠ c') :
    (powerGate c s).sc c' = s.sc c' := by simp [powerGate, hne]
@[simp] theorem powerGate_cm_ne (c : CoreId) (s : State) (c' : CoreId) (hne : c ≠ c') :
    (powerGate c s).cm c' = s.cm c' := by simp [powerGate, hne]
@[simp] theorem powerGate_en_ne (c : CoreId) (s : State) (c' : CoreId) (hne : c ≠ c') :
    (powerGate c s).en c' = s.en c' := by simp [powerGate, hne]
@[simp] theorem powerGate_cc_ne (c : CoreId) (s : State) (c' : CoreId) (hne : c ≠ c') :
    (powerGate c s).cc c' = s.cc c' := by simp [powerGate, hne]
@[simp] theorem grantHead_pending (d : DieId) (c : CoreId) (n : Nat) (s : State) :
    (grantHead d c n s).pending = s.pending := by simp [grantHead]
@[simp] theorem grantHead_mem (d : DieId) (c : CoreId) (n : Nat) (s : State) :
    (grantHead d c n s).mem = s.mem := by simp [grantHead]
@[simp] theorem grantHead_net (d : DieId) (c : CoreId) (n : Nat) (s : State) :
    (grantHead d c n s).net = s.net := by simp [grantHead]
@[simp] theorem grantHead_free (d : DieId) (c : CoreId) (n : Nat) (s : State) :
    (grantHead d c n s).free = s.free := by simp [grantHead]
@[simp] theorem grantHead_hub (d : DieId) (c : CoreId) (n : Nat) (s : State) :
    (grantHead d c n s).hub = s.hub := by simp [grantHead]
@[simp] theorem grantHead_port (d : DieId) (c : CoreId) (n : Nat) (s : State) (p' : PortId) :
    (grantHead d c n s).port p' = s.port p' := by simp [grantHead]
@[simp] theorem grantHead_cm (d : DieId) (c : CoreId) (n : Nat) (s : State) (c' : CoreId) :
    (grantHead d c n s).cm c' = s.cm c' := by simp [grantHead]
@[simp] theorem grantHead_en (d : DieId) (c : CoreId) (n : Nat) (s : State) (c' : CoreId) :
    (grantHead d c n s).en c' = s.en c' := by simp [grantHead]
@[simp] theorem grantHead_cc (d : DieId) (c : CoreId) (n : Nat) (s : State) (c' : CoreId) :
    (grantHead d c n s).cc c' = s.cc c' := by simp [grantHead]
@[simp] theorem grantHead_gate (d : DieId) (c : CoreId) (n : Nat) (s : State) (c' : CoreId) :
    ((grantHead d c n s).core c').gate = (s.core c').gate := by simp [grantHead]
@[simp] theorem grantHead_gatedAt (d : DieId) (c : CoreId) (n : Nat) (s : State) (c' : CoreId) :
    ((grantHead d c n s).core c').gatedAt = (s.core c').gatedAt := by simp [grantHead]
@[simp] theorem grantHead_gateCmd (d : DieId) (c : CoreId) (n : Nat) (s : State) (c' : CoreId) :
    ((grantHead d c n s).core c').gateCmd = (s.core c').gateCmd := by simp [grantHead]
@[simp] theorem grantHead_core_ne (d : DieId) (c : CoreId) (n : Nat) (s : State) (c' : CoreId) (hne : c ≠ c') :
    (grantHead d c n s).core c' = s.core c' := by simp [grantHead, hne]
@[simp] theorem grantHead_die_ne (d : DieId) (c : CoreId) (n : Nat) (s : State) (d' : DieId) (hne : d ≠ d') :
    (grantHead d c n s).die d' = s.die d' := by simp [grantHead, hne]
@[simp] theorem grantHead_sc_ne (d : DieId) (c : CoreId) (n : Nat) (s : State) (c' : CoreId) (hne : c ≠ c') :
    (grantHead d c n s).sc c' = s.sc c' := by simp [grantHead, hne]
@[simp] theorem startStrip_pending (c : CoreId) (st : Strip) (s : State) :
    (startStrip c st s).pending = s.pending := by simp [startStrip]
@[simp] theorem startStrip_mem (c : CoreId) (st : Strip) (s : State) :
    (startStrip c st s).mem = s.mem := by simp [startStrip]
@[simp] theorem startStrip_net (c : CoreId) (st : Strip) (s : State) :
    (startStrip c st s).net = s.net := by simp [startStrip]
@[simp] theorem startStrip_free (c : CoreId) (st : Strip) (s : State) :
    (startStrip c st s).free = s.free := by simp [startStrip]
@[simp] theorem startStrip_die (c : CoreId) (st : Strip) (s : State) (d' : DieId) :
    (startStrip c st s).die d' = s.die d' := by simp [startStrip]
@[simp] theorem startStrip_port (c : CoreId) (st : Strip) (s : State) (p' : PortId) :
    (startStrip c st s).port p' = s.port p' := by simp [startStrip]
@[simp] theorem startStrip_gate (c : CoreId) (st : Strip) (s : State) (c' : CoreId) :
    ((startStrip c st s).core c').gate = (s.core c').gate := by simp [startStrip]
@[simp] theorem startStrip_gatedAt (c : CoreId) (st : Strip) (s : State) (c' : CoreId) :
    ((startStrip c st s).core c').gatedAt = (s.core c').gatedAt := by simp [startStrip]
@[simp] theorem startStrip_gateCmd (c : CoreId) (st : Strip) (s : State) (c' : CoreId) :
    ((startStrip c st s).core c').gateCmd = (s.core c').gateCmd := by simp [startStrip]
@[simp] theorem startStrip_core_ne (c : CoreId) (st : Strip) (s : State) (c' : CoreId) (hne : c ≠ c') :
    (startStrip c st s).core c' = s.core c' := by simp [startStrip, hne]
@[simp] theorem startStrip_hub_ns (c : CoreId) (st : Strip) (s : State) :
    (startStrip c st s).hub.ns = s.hub.ns := by simp [startStrip]
@[simp] theorem startStrip_hub_adv (c : CoreId) (st : Strip) (s : State) :
    (startStrip c st s).hub.adv = s.hub.adv := by simp [startStrip]
@[simp] theorem startStrip_hub_loads (c : CoreId) (st : Strip) (s : State) :
    (startStrip c st s).hub.loads = s.hub.loads := by simp [startStrip]
@[simp] theorem startStrip_hub_position (c : CoreId) (st : Strip) (s : State) :
    (startStrip c st s).hub.position = s.hub.position := by simp [startStrip]
@[simp] theorem startStrip_hub_routes (c : CoreId) (st : Strip) (s : State) :
    (startStrip c st s).hub.routes = s.hub.routes := by simp [startStrip]
@[simp] theorem startStrip_hub_torus (c : CoreId) (st : Strip) (s : State) :
    (startStrip c st s).hub.torus = s.hub.torus := by simp [startStrip]
@[simp] theorem startStrip_hub_ls (c : CoreId) (st : Strip) (s : State) :
    (startStrip c st s).hub.ls = s.hub.ls := by simp [startStrip]
@[simp] theorem startStrip_hub_wgt (c : CoreId) (st : Strip) (s : State) :
    (startStrip c st s).hub.wgt = s.hub.wgt := by simp [startStrip]
@[simp] theorem startStrip_hub_snp (c : CoreId) (st : Strip) (s : State) :
    (startStrip c st s).hub.snp = s.hub.snp := by simp [startStrip]
@[simp] theorem startStrip_hub_pwr (c : CoreId) (st : Strip) (s : State) :
    (startStrip c st s).hub.pwr = s.hub.pwr := by simp [startStrip]
@[simp] theorem startStrip_hub_hl (c : CoreId) (st : Strip) (s : State) :
    (startStrip c st s).hub.hl = s.hub.hl := by simp [startStrip]
@[simp] theorem startStrip_hub_fuses (c : CoreId) (st : Strip) (s : State) :
    (startStrip c st s).hub.fuses = s.hub.fuses := by simp [startStrip]
@[simp] theorem startStrip_hub_latches (c : CoreId) (st : Strip) (s : State) :
    (startStrip c st s).hub.latches = s.hub.latches := by simp [startStrip]
@[simp] theorem startStrip_hub_store (c : CoreId) (st : Strip) (s : State) :
    (startStrip c st s).hub.store = s.hub.store := by simp [startStrip]
@[simp] theorem startStrip_hub_digEng (c : CoreId) (st : Strip) (s : State) :
    (startStrip c st s).hub.digEng = s.hub.digEng := by simp [startStrip]
@[simp] theorem startStrip_hub_digQ (c : CoreId) (st : Strip) (s : State) :
    (startStrip c st s).hub.digQ = s.hub.digQ := by simp [startStrip]
@[simp] theorem startStrip_hub_firmware (c : CoreId) (st : Strip) (s : State) :
    (startStrip c st s).hub.firmware = s.hub.firmware := by simp [startStrip]
@[simp] theorem startStrip_hub_cal (c : CoreId) (st : Strip) (s : State) :
    (startStrip c st s).hub.cal = s.hub.cal := by simp [startStrip]
@[simp] theorem startStrip_sc_ne (c : CoreId) (st : Strip) (s : State) (c' : CoreId) (hne : c ≠ c') :
    (startStrip c st s).sc c' = s.sc c' := by simp [startStrip, hne]
@[simp] theorem startStrip_cm_ne (c : CoreId) (st : Strip) (s : State) (c' : CoreId) (hne : c ≠ c') :
    (startStrip c st s).cm c' = s.cm c' := by simp [startStrip, hne]
@[simp] theorem startStrip_en_ne (c : CoreId) (st : Strip) (s : State) (c' : CoreId) (hne : c ≠ c') :
    (startStrip c st s).en c' = s.en c' := by simp [startStrip, hne]
@[simp] theorem startStrip_cc_ne (c : CoreId) (st : Strip) (s : State) (c' : CoreId) (hne : c ≠ c') :
    (startStrip c st s).cc c' = s.cc c' := by simp [startStrip, hne]
@[simp] theorem setHandle_pending (c : CoreId) (h : Nat) (w : IWord) (s : State) :
    (setHandle c h w s).pending = s.pending := by simp [setHandle]
@[simp] theorem setHandle_mem (c : CoreId) (h : Nat) (w : IWord) (s : State) :
    (setHandle c h w s).mem = s.mem := by simp [setHandle]
@[simp] theorem setHandle_net (c : CoreId) (h : Nat) (w : IWord) (s : State) :
    (setHandle c h w s).net = s.net := by simp [setHandle]
@[simp] theorem setHandle_free (c : CoreId) (h : Nat) (w : IWord) (s : State) :
    (setHandle c h w s).free = s.free := by simp [setHandle]
@[simp] theorem setHandle_hub (c : CoreId) (h : Nat) (w : IWord) (s : State) :
    (setHandle c h w s).hub = s.hub := by simp [setHandle]
@[simp] theorem setHandle_die (c : CoreId) (h : Nat) (w : IWord) (s : State) (d' : DieId) :
    (setHandle c h w s).die d' = s.die d' := by simp [setHandle]
@[simp] theorem setHandle_port (c : CoreId) (h : Nat) (w : IWord) (s : State) (p' : PortId) :
    (setHandle c h w s).port p' = s.port p' := by simp [setHandle]
@[simp] theorem setHandle_sc (c : CoreId) (h : Nat) (w : IWord) (s : State) (c' : CoreId) :
    (setHandle c h w s).sc c' = s.sc c' := by simp [setHandle]
@[simp] theorem setHandle_en (c : CoreId) (h : Nat) (w : IWord) (s : State) (c' : CoreId) :
    (setHandle c h w s).en c' = s.en c' := by simp [setHandle]
@[simp] theorem setHandle_cc (c : CoreId) (h : Nat) (w : IWord) (s : State) (c' : CoreId) :
    (setHandle c h w s).cc c' = s.cc c' := by simp [setHandle]
@[simp] theorem setHandle_gate (c : CoreId) (h : Nat) (w : IWord) (s : State) (c' : CoreId) :
    ((setHandle c h w s).core c').gate = (s.core c').gate := by simp [setHandle]
@[simp] theorem setHandle_gatedAt (c : CoreId) (h : Nat) (w : IWord) (s : State) (c' : CoreId) :
    ((setHandle c h w s).core c').gatedAt = (s.core c').gatedAt := by simp [setHandle]
@[simp] theorem setHandle_gateCmd (c : CoreId) (h : Nat) (w : IWord) (s : State) (c' : CoreId) :
    ((setHandle c h w s).core c').gateCmd = (s.core c').gateCmd := by simp [setHandle]
@[simp] theorem setHandle_core_ne (c : CoreId) (h : Nat) (w : IWord) (s : State) (c' : CoreId) (hne : c ≠ c') :
    (setHandle c h w s).core c' = s.core c' := by simp [setHandle, hne]
@[simp] theorem setHandle_cm_ne (c : CoreId) (h : Nat) (w : IWord) (s : State) (c' : CoreId) (hne : c ≠ c') :
    (setHandle c h w s).cm c' = s.cm c' := by simp [setHandle, hne]

end Sys2Proof.Machine
end

