-- ==== Sys2Proof/WellFormed.lean ====
section
/-! DEFINITION. Well-formed commands: the operands that a sender or an event can present, within the widths and lengths of the manual's
records. -/

namespace Sys2Proof

/-- A module address (R124) or an address of the host window (R488): 48 bits. -/
def addrOk (a : Nat) : Bool := a < 2 ^ 48

/-- A codeword number: 16 codewords in a row of Plot, hopper or Commons (R116), 4 in a row of deep memory (R117). -/
def Ecc.ok : Ecc → Bool
  | .clean => true
  | .corrected cw => cw < 16
  | .bad cw => cw < 16
  | .wrong _ cw => cw.all (· < 16)

/-- Errors at some of the rows that a command reads, each row's once. -/
def errOk (err : ReadErr) : Bool := (err.all fun x => x.2.ok) && (err.map (·.1)).eraseDups.length == err.length

/-- A command's tag has 24 bits (R332). -/
def CmdSrc.ok (c : CmdSrc) : Bool := c.tag < 2 ^ 24

/-- A frame has 13 descriptors and 13 data flits (R361). -/
def Frame.ok (f : Frame) : Bool := f.descs.length == 13 && f.flits.length == 13

/-- The widths of R413's items, with a region for each die and tier. -/
def WgtCmd.ok (w : WgtCmd) : Bool :=
  addrOk w.manifest && w.chainIdx < 64 && w.pred < 2 ^ 16 && w.succ < 2 ^ 16 && addrOk w.relay && addrOk w.succRelay &&
    w.regions.length == 16 && w.regions.all fun r => r.1 < 2 ^ 64 && r.2 < 2 ^ 64

/-- The widths and counts of R450's items. -/
def RestoreCmd.ok (r : RestoreCmd) : Bool :=
  r.pos < 2 ^ 16 && r.sources.length == 4 && r.sources.all (fun p => p < 2 ^ 16) && r.jsources.length == 2 &&
    r.jsources.all (fun p => p < 2 ^ 16) && r.keyRsa < 2 ^ 384 && r.keySlh < 2 ^ 384 && addrOk r.remap

/-- The command's operands are ones that the manual's records can carry. -/
def Instr.wf : Instr → Bool
  | .stagingRowRead _ _ ecc => ecc.ok
  | .inboundRowArrival _ _ _ ecc => ecc.ok
  | .commonsBankAccess _ _ _ _ ecc => ecc.ok
  | .scrubRead _ _ ecc => ecc.ok
  | .plgExecutionStart _ _ err => errOk err
  | .pageInComplete _ _ h => errOk h.err
  | .pageOutComplete _ _ i => errOk i.err
  | .tlrRootfin _ t => errOk t.err
  | .ctlHset _ _ _ _ rs2 => errOk rs2.err
  | .coreProgramCopyDone c => errOk c.err
  | .hrwChain _ _ err => errOk err
  | .hrwBload _ _ err => errOk err
  | .tlrUpd _ _ err => errOk err
  | .stepAdvance src _ target => src.ok && target < 2 ^ 64
  | .xfFill _ _ err => errOk err
  | .xfMove _ _ err => errOk err
  | .loadImage src _ addr => src.ok && addrOk addr
  | .ccInstruction _ _ fetch data => fetch.ok && data.ok
  | .rowWindowAccess _ _ ecc => ecc.ok
  | .coreProgram src _ plotRow dataRows _ => src.ok && plotRow < 12288 && dataRows ≤ 128
  | .sendRowRead _ _ ecc => ecc.ok
  | .spillDrain _ _ _ err => errOk err
  | .frameReceive _ _ f _ => f.ok
  | .portTrainingComplete _ _ _ _ flight => flight < 2 ^ 11
  | .remoteReadRequest _ err => errOk err
  | .identFlit _ _ identity _ => identity < 2 ^ 64
  | .foldMessageArrival _ payload => payload.length ≤ 255
  | .weightLoad src _ w => src.ok && w.ok
  | .weightKeys src _ _ _ => src.ok
  | .weightVerify src _ w => src.ok && w.ok
  | .chunkReleaseSend _ chunk => chunk < 2 ^ 32
  | .turn src _ => src.ok
  | .journalCommand src _ step rows => src.ok && step < 2 ^ 64 && rows < 2 ^ 32
  | .mirrorHeaderLand _ addr => addrOk addr
  | .snapshotChunkCopied _ chunk => chunk.of < 2 ^ 32 && errOk chunk.err
  | .partnerChunkNotice _ _ slotAddr _ => addrOk slotAddr
  | .restore src _ r => src.ok && r.ok
  | .sensorSample readings => readings.length == 37
  | .hostRowWrite addr _ => addrOk addr
  | .hostRowRead addr count tag err => addrOk addr && 1 ≤ count && count ≤ 256 && tag < 2 ^ 24 && errOk err
  | .hostMessage _ payload => payload.length ≤ 255
  | .contextCfg src _ _ _ _ _ _ map => src.ok && (map.length == 12 || map.length == 0)
  | .contextReset src _ => src.ok
  | .coreReset src _ => src.ok
  | .moduleReset src => src.ok
  | .attest src _ addr => src.ok && addrOk addr
  | .calExport src addr => src.ok && addrOk addr
  | .calImport src addr rows => src.ok && addrOk addr && rows < 2 ^ 16
  | .calSelf src _ => src.ok
  | .fwUpdate src addr rows => src.ok && addrOk addr && rows < 2 ^ 16
  | .rollbackCommit src => src.ok
  | .survey src _ => src.ok
  | .registerWrite _ addr _ => addrOk addr.of && addr.of % 4 == 0
  | .ctlStage .. | .stagingComplete .. | .ctlLaunch .. | .ctlUnstage .. | .creditGrant .. | .wakeBegin ..
  | .wakeComplete .. | .launchReady .. | .stripStart .. | .stripEnd .. | .wait .. | .stkSet .. | .stkWait .. | .hqPush .. | .hqPop ..
  | .stallResume .. | .creditLend .. | .reclaimGrant .. | .reclaimComplete .. | .creditIdleReturn .. | .powerGateTimeout ..
  | .watchdogFault .. | .deadlineMiss .. | .instructionComplete .. | .lateArrival .. | .heldArrivalRetry .. | .plotRowLanding ..
  | .hopperRowLanding .. | .commonsRowLands .. | .commonsInboundRowPerform .. | .scrubWriteBack ..
  | .gateArrival .. | .ungateArrival .. | .plgMm .. | .plgSqd .. | .plgAbd .. | .plgMinplus .. | .plgMaxplus .. | .plgXorpop ..
  | .plgCmpcnt .. | .plgFeedRelease .. | .plgDrainRow .. | .plgCounterClear .. | .hrwWriteRow .. | .hrwCounterClear ..
  | .hrwSumClear .. | .tlrRecordWrite .. | .tlrCounterClear .. | .stepAdvanceEvaluate .. | .stepAdvanceCommit ..
  | .privStepArm .. | .xfGate .. | .xfUngate .. | .traceRowWrite .. | .traceEnable .. | .traceDropClear .. | .loadCheckComplete ..
  | .ccStart .. | .ccHalt .. | .ctlWfe .. | .ctlHret .. | .ctlFclr .. | .ctlSum .. | .ctlStkrd .. | .ctlStkadd .. | .ctlStkclr ..
  | .ctlHrel .. | .ctlHalloc .. | .allocatorAnswer .. | .ctlSend .. | .ringSetRptr .. | .ringOpen .. | .ringClose ..
  | .ctlWrd .. | .ctlWwr .. | .ctlFpop .. | .handlerDispatch .. | .faultLostClear .. | .orderedRelease ..
  | .messageHeaderArrival .. | .messageRowArrival .. | .messageLanded .. | .spillWriteComplete .. | .holdGrant ..
  | .holdGrantArrival .. | .landingAckArrival .. | .bounceArrival .. | .lossNoticeArrival .. | .msgCounterClear .. | .frameTransmit ..
  | .leadFlitTimeout .. | .portTrain .. | .portDisable .. | .lnkCounterClear .. | .routeEntryWrite .. | .lnkTorusWrite ..
  | .remoteWriteArrival .. | .tbSetWrite .. | .extRefLock .. | .extRefLockTimeout .. | .upstreamTimeout .. | .referenceInputLoss ..
  | .heartbeatSend .. | .heartbeatTimeout .. | .surveyFlit .. | .reportFlit .. | .powerFailFlit .. | .partnerFlit .. | .adoptFlit ..
  | .lsEnable .. | .foldMessageSend .. | .chunkNotice .. | .releaseNotice .. | .reRequestNotice .. | .waitNotice ..
  | .unavailableNotice .. | .shardDigestStart .. | .shardDigestComplete .. | .weightWindowExpiry .. | .reqBegin .. | .reqJoin ..
  | .reqEnd .. | .recheckDue .. | .mirrorAnswer .. | .updEnd .. | .snapshotNow .. | .snapshotStart .. | .partnerNoticeTimeout ..
  | .snapshotSigned .. | .commitPageWritten .. | .partnerCheck .. | .riskEvaluation .. | .restoreFetchComplete .. | .replayStep ..
  | .stepChangeRequest .. | .clockStop .. | .clockRestart .. | .diePoolWrite .. | .pwrBudgetWrite .. | .expPoolWrite ..
  | .overheadUpdate .. | .inputPowerCheck .. | .thermalCheck .. | .pwrTjClear .. | .supplyOutOfRange .. | .supplyReturn ..
  | .droopEvent .. | .mateSenseChange .. | .coldStart .. | .powerFail .. | .shutdownRailsOff .. | .powerFailRestart .. | .boot ..
  | .strapSample .. | .hostRegisterOp .. | .hostInboxPlace | .hostInboxRptrWrite .. | .hostFaultRptrWrite .. | .resetNEdge ..
  | .smbSegmentWrite .. | .smbSubmit | .smbReplyRead | .ctxCfgCommit .. | .resetComplete | .censusClose .. | .drlTestGo ..
  | .drlTestDone .. | .errCounterClear .. | .cmnFixedWrite .. | .timeBaseTick | .supplyInRange .. | .powerGateCommand .. => true

end Sys2Proof
end

