-- ==== Sys2Proof/Tests/Slice0.lean ====
section
/-! SUPPORT. Own tests: a witness for the hypotheses of every clause of every statement, ill-formed commands that the check refuses, and
single steps of the block. -/

set_option maxRecDepth 8000

namespace Sys2Proof.Machine

open Sys2Proof


/-! ### Small states -/

/-- A strip header of LENGTH `n`. -/
def tHdr (n : Nat) : Row := (0 : Row).put 0x00C 4 n
/-- An instruction word of opcode `op` with `x` in its upper half. -/
def tWord (op x : Nat) : IWord := BitVec.ofNat 128 (op * 2 ^ 12 + x * 2 ^ 64)
/-- A strip of 100 cycles with one word on every queue. -/
def tStrip (w : IWord) : Strip := { row := 0, slot := 0, hdr := tHdr 100, mq := [w], vq := [w], uq := [w], tq := [w], area := [] }
/-- Core 0 changed from reset. -/
def tSc (f : Sched → Sched) : State := State.reset.onSc 0 f
/-- Core 0 runs a strip whose queues are due with the word `w`. -/
def tRun (w : IWord) : State := tSc fun k => { k with run := .running, strip := some (tStrip w) }
/-- The control core of core 0 runs. -/
def tCc (s : State) : State := s.onCc 0 fun k => { k with run := .running }
/-- The state that a command of core 0 finds when no cycle has passed. -/
abbrev tNow (s : State) : State := advance 0 0 s

/-! ### StagingCompletes -/
/-- Slot 0 holds an accepted image whose directory lists row 5. -/
def tImage : State := tCc ((tSc fun k => { k with ctxCfg := 0x10 }).onCc 0 fun k =>
  { k with regs := vset k.regs 5 5, img := vset k.img 0 { ImgSlot.reset with accepted := true, headers := [5] } })
/-- A strip is staged, and its launch may be pending. -/
def tStaged (l : Option Launch) : State := tCc (tSc fun k => { k with staged := some (tStrip 0), launch := l })
/-- A staging of a strip of one row that has read `got` since cycle 0, in wall cycle `w`. -/
def tStaging (got : List Row) (w : Nat) : State := tCc (tSc fun k => { k with wall := w, staging := some ⟨5, 0, 0, got, 0⟩ })
/-- A page-in of handle 0 of core 0 waits for its extent. -/
def tPageIn : State := (State.reset.onDie 0 fun k => { k with ctxGroups := Vector.replicate 8 1, pageIns := [⟨0, 0, 0, 1, 0⟩] }) |>.onSc 0 fun k => { k with wall := 4 }
theorem test_StagingCompletes_stage : ccIssues (advance 0 0 tImage) 0 = true ∧ (advance 0 0 tImage).reg 0 5 < 12288 ∧ ((advance 0 0
    tImage).sc 0).staged = none ∧ ((advance 0 0 tImage).sc 0).staging = none ∧ imageSlot (advance 0 0 tImage) 0 ((advance 0 0 tImage).reg 0
    5) = some 0 := by decide
theorem test_StagingCompletes_unlisted : ccIssues (advance 0 0 (tCc State.reset)) 0 = true ∧ (advance 0 0 (tCc State.reset)).reg 0 5 < 12288
    ∧ ((advance 0 0 (tCc State.reset)).sc 0).staged = none ∧ ((advance 0 0 (tCc State.reset)).sc 0).staging = none ∧ imageSlot (advance 0 0
    (tCc State.reset)) 0 ((advance 0 0 (tCc State.reset)).reg 0 5) = none := by decide
theorem test_StagingCompletes_busy : ccIssues (advance 0 0 (tStaged none)) 0 = true ∧ (advance 0 0 (tStaged none)).reg 0 5 < 12288 ∧
    (((advance 0 0 (tStaged none)).sc 0).staged.isSome ∨ ((advance 0 0 (tStaged none)).sc 0).staging.isSome) := by decide
theorem test_StagingCompletes_read : ((advance 0 0 (tStaging [] 1)).sc 0).staging = some (⟨5, 0, 0, [], 0⟩ : Staging) ∧ nextStageRow (⟨5, 0,
    0, [], 0⟩ : Staging) = some (5, 0) ∧ first7 (advance 0 0 (tStaging [] 1)) 0 1 5 0 = true ∧ ((advance 0 0 (tStaging [] 1)).sc 0).launch =
    none := by decide
theorem test_StagingCompletes_done : ((advance 0 0 (tStaging [tHdr 8] 8)).sc 0).staging = some (⟨5, 0, 0, [tHdr 8], 0⟩ : Staging) ∧
    stagingDone (⟨5, 0, 0, [tHdr 8], 0⟩ : Staging) = some ((advance 0 0 (tStaging [tHdr 8] 8)).sc 0).wall := by decide
theorem test_StagingCompletes_unstage : ccIssues (advance 0 0 (tStaged none)) 0 = true ∧ ((advance 0 0 (tStaged none)).sc 0).launch = none
    := by decide
theorem test_StagingCompletes_page : (((serve (dieOf 0) (advance 0 0 tPageIn))).die (dieOf 0)).pageIns.find? (PageJob.of 0 (0 : Fin 64).val)
    = some (⟨0, 0, 0, 1, 0⟩ : PageJob) ∧ ((List.range 16).any (fun k => bankWaits ((serve (dieOf 0) (advance 0 0 tPageIn))) (dieOf 0) ((⟨0,
    0, 0, 1, 0⟩ : PageJob).src / 16 * 16 + k)) = false) ∧ (((serve (dieOf 0) (advance 0 0 tPageIn))).sc 0).swSet.1 ≠ ccCyc (((serve (dieOf
    0) (advance 0 0 tPageIn))).sc 0) := by decide
/-! ### StripsRun -/
/-- The launch of a staged strip whose last condition came to hold in cycle 0, with the ready cycle `r`. -/
def tLaunch (r : Option Nat) : Launch := ⟨some 0, true, some 0, none, r, false, some 0⟩
/-- That launch in wall cycle 8. -/
def tStart : State := (tStaged (some (tLaunch (some 0)))).onSc 0 fun k => { k with wall := 8 }
/-- A strip in its cycle `u`. -/
def tCycle (u : Nat) (l : Option Launch) : State := (tRun 0).onSc 0 fun k => { k with stripCyc := u, launch := l }
/-- An instruction of VQ that posts stake `k` completes in the present cycle. -/
def tFlight (k : Nat) : State := (tRun (tWord 1 0)).onSc 0 fun x => { x with flights := [⟨.vq, 0, 0, k, 15, true, false⟩] }
theorem test_StripsRun_launch : (ccIssues (advance 0 0 (tImage.onSc 0 fun k => { k with staged := some { tStrip 0 with row := 5 } })) 0 =
    true) ∧ (((advance 0 0 (tImage.onSc 0 fun k => { k with staged := some { tStrip 0 with row := 5 } })).sc 0).staged = some
    ({ tStrip 0 with row := 5 })) ∧ (stillListed (advance 0 0 (tImage.onSc 0 fun k => { k with staged := some { tStrip 0 with row := 5 } }))
    0 ({ tStrip 0 with row := 5 }).row ({ tStrip 0 with row := 5 }).slot = true) ∧ (((advance 0 0 (tImage.onSc 0 fun k =>
    { k with staged := some { tStrip 0 with row := 5 } })).sc 0).launch = none) ∧ (((advance 0 0 (tImage.onSc 0 fun k =>
    { k with staged := some { tStrip 0 with row := 5 } })).sc 0).strip = none) ∧ (((advance 0 0 (tImage.onSc 0 fun k =>
    { k with staged := some { tStrip 0 with row := 5 } })).sc 0).run ≠ .faulted) ∧ (((advance 0 0 (tImage.onSc 0 fun k =>
    { k with staged := some { tStrip 0 with row := 5 } })).sc 0).stopping = false) ∧ (((advance 0 0 (tImage.onSc 0 fun k =>
    { k with staged := some { tStrip 0 with row := 5 } })).en 0).drlFail = false) ∧ (debugRefused (advance 0 0 (tImage.onSc 0 fun k =>
    { k with staged := some { tStrip 0 with row := 5 } })) 0 ({ tStrip 0 with row := 5 }).hdr = false) := by decide
theorem test_StripsRun_ready : ((advance 0 0 (tStaged (some (tLaunch none)))).sc 0).launch = some (tLaunch none) ∧ (tLaunch none).since =
    some ((advance 0 0 (tStaged (some (tLaunch none)))).sc 0).wall ∧ (tLaunch none).ready = none := by decide
theorem test_StripsRun_start : ((advance 0 0 tStart).sc 0).launch = some (tLaunch (some 0)) ∧ ((advance 0 0 tStart).sc 0).staged = some
    (tStrip 0) ∧ (tLaunch (some 0)).point = some 0 ∧ (tLaunch (some 0)).ready = some 0 ∧ ((advance 0 0 tStart).sc 0).wall = max 0 0 + 8 ∧
    ((advance 0 0 tStart).sc 0).run = .idle := by decide
theorem test_StripsRun_end : ((advance 0 0 (tCycle 100 none)).sc 0).strip = some (tStrip 0) ∧ ((advance 0 0 (tCycle 100 none)).sc 0).run =
    .running ∧ ((advance 0 0 (tCycle 100 none)).sc 0).stripCyc = hdrLength (tStrip 0).hdr ∧ (debugMode (advance 0 0 (tCycle 100 none)) 0 =
    true → carryBroken ((advance 0 0 (tCycle 100 none)).sc 0) (tStrip 0) = false) := by decide
theorem test_StripsRun_complete : ((hazardCheck 0 (advance 0 0 (tFlight 63))).sc 0).run = .running ∧ ((hazardCheck 0 (advance 0 0 (tFlight
    63))).sc 0).stripCyc < stripLen ((hazardCheck 0 (advance 0 0 (tFlight 63))).sc 0) ∧ blockedNow (hazardCheck 0 (advance 0 0 (tFlight
    63))) 0 = [] ∧ ((((hazardCheck 0 (advance 0 0 (tFlight 63))).sc 0).flights.find? fun f₀ => f₀.q == .vq && f₀.comp == ((hazardCheck 0
    (advance 0 0 (tFlight 63))).sc 0).stripCyc) = some (⟨.vq, 0, 0, 63, 15, true, false⟩ : Flight)) ∧ (⟨.vq, 0, 0, 63, 15, true, false⟩ :
    Flight).cstk = 63 := by decide
theorem test_StripsRun_posts : ((hazardCheck 0 (advance 0 0 (tFlight 47))).sc 0).run = .running ∧ ((hazardCheck 0 (advance 0 0 (tFlight
    47))).sc 0).stripCyc < stripLen ((hazardCheck 0 (advance 0 0 (tFlight 47))).sc 0) ∧ blockedNow (hazardCheck 0 (advance 0 0 (tFlight
    47))) 0 = [] ∧ ((((hazardCheck 0 (advance 0 0 (tFlight 47))).sc 0).flights.find? fun f₀ => f₀.q == .vq && f₀.comp == ((hazardCheck 0
    (advance 0 0 (tFlight 47))).sc 0).stripCyc) = some (⟨.vq, 0, 0, 47, 15, true, false⟩ : Flight)) ∧ (⟨.vq, 0, 0, 47, 15, true, false⟩ :
    Flight).cstk < 48 := by decide
/-! ### QueueOperations -/
/-- Handle queue 0 holds an entry. -/
def tHq (w : IWord) : State := (tRun w).onSc 0 fun k => { k with hq := vset k.hq 0 [⟨0, 0⟩], hq0 := vset k.hq0 0 1 }
theorem test_QueueOperations_wait : Issues (hazardCheck 0 (advance 0 0 (tRun (tWord 0 5)))) 0 .mq 0 (tWord 0 5) (tStrip (tWord 0 5)) :=
    by unfold Issues; decide
theorem test_QueueOperations_set : Issues (hazardCheck 0 (advance 0 0 (tRun (tWord 1 (47 + 255 * 64))))) 0 .vq 1 (tWord 1 (47 + 255 * 64))
    (tStrip (tWord 1 (47 + 255 * 64))) ∧ physStk ((hazardCheck 0 (advance 0 0 (tRun (tWord 1 (47 + 255 * 64))))).sc 0) (tStrip (tWord 1 (47
    + 255 * 64))) (wStk (tWord 1 (47 + 255 * 64))) < 48 := by unfold Issues; decide
theorem test_QueueOperations_take : Issues (hazardCheck 0 (advance 0 0 (tRun (tWord 2 0)))) 0 .uq 2 (tWord 2 0) (tStrip (tWord 2 0)) :=
    by unfold Issues; decide
theorem test_QueueOperations_push : Issues (hazardCheck 0 (advance 0 0 (tRun (tWord 3 0)))) 0 .tq 3 (tWord 3 0) (tStrip (tWord 3 0)) ∧ (vget
    ((hazardCheck 0 (advance 0 0 (tRun (tWord 3 0)))).sc 0).hq [] (wHq (tWord 3 0))).length < 8 := by unfold Issues; decide
theorem test_QueueOperations_pop : Issues (hazardCheck 0 (advance 0 0 (tHq (tWord 4 0)))) 0 .mq 4 (tWord 4 0) (tStrip (tWord 4 0)) ∧ vget
    ((hazardCheck 0 (advance 0 0 (tHq (tWord 4 0)))).sc 0).hq [] (wHq (tWord 4 0)) = (⟨0, 0⟩ : HqEntry) :: [] ∧ (debugMode (hazardCheck 0
    (advance 0 0 (tHq (tWord 4 0)))) 0 = true → (⟨0, 0⟩ : HqEntry).h = physH (hdrShared (tStrip (tWord 4 0)).hdr) (tStrip (tWord 4 0)).slot
    (wHqH (tWord 4 0)) ∧ (⟨0, 0⟩ : HqEntry).gen = handleGen ((hazardCheck 0 (advance 0 0 (tHq (tWord 4 0)))).cm 0) (⟨0, 0⟩ : HqEntry).h) :=
    by unfold Issues; decide
/-! ### StallsEnd -/
/-- Core 0 is stalled in wall cycle `w`. -/
def tStall (w held : Nat) (st : Stall) : State :=
  (tRun (tWord 2 0)).onSc 0 fun k => { k with run := .stalled, wall := w, held := held, stall := some st }
/-- A strip with a deadline of 0 cycles on a core whose slot 0 has deadlines, one cycle after its launch point. -/
def tLate : State := tSc fun k => { k with ctxCfg := 0x100010, run := .running, wall := 1,
                                           strip := some { tStrip 0 with hdr := (tHdr 100).put 6 2 2 } }
theorem test_StallsEnd_resume : ((advance 0 0 (tStall 3 8 ⟨0, [], some 0, 0, none, 0⟩)).sc 0).stall = some (⟨0, [], some 0, 0, none, 0⟩ :
    Stall) ∧ (⟨0, [], some 0, 0, none, 0⟩ : Stall).lent = 0 ∧ (⟨0, [], some 0, 0, none, 0⟩ : Stall).released = some (((advance 0 0 (tStall 3
    8 ⟨0, [], some 0, 0, none, 0⟩)).sc 0).wall - 3) ∧ 3 ≤ ((advance 0 0 (tStall 3 8 ⟨0, [], some 0, 0, none, 0⟩)).sc 0).wall ∧ (debugMode
    (advance 0 0 (tStall 3 8 ⟨0, [], some 0, 0, none, 0⟩)) 0 = true → ∀ b ∈ (⟨0, [], some 0, 0, none, 0⟩ : Stall).blocked, b.feed = true ∨ ∀
    w, dueWord ((advance 0 0 (tStall 3 8 ⟨0, [], some 0, 0, none, 0⟩)).sc 0) b.q = some w → wOp w ≠ 4) := by decide
theorem test_StallsEnd_taken : ((advance 0 0 (tStall 3 8 ⟨0, [⟨.mq, .stake 0 0, 0, false⟩], some 0, 0, none, 0⟩)).sc 0).stall = some (⟨0,
    [⟨.mq, .stake 0 0, 0, false⟩], some 0, 0, none, 0⟩ : Stall) ∧ (⟨0, [⟨.mq, .stake 0 0, 0, false⟩], some 0, 0, none, 0⟩ : Stall).lent = 0
    ∧ (⟨0, [⟨.mq, .stake 0 0, 0, false⟩], some 0, 0, none, 0⟩ : Stall).released = some (((advance 0 0 (tStall 3 8 ⟨0, [⟨.mq, .stake 0 0, 0,
    false⟩], some 0, 0, none, 0⟩)).sc 0).wall - 3) ∧ 3 ≤ ((advance 0 0 (tStall 3 8 ⟨0, [⟨.mq, .stake 0 0, 0, false⟩], some 0, 0, none,
    0⟩)).sc 0).wall ∧ (⟨0, [⟨.mq, .stake 0 0, 0, false⟩], some 0, 0, none, 0⟩ : Stall).blocked = [⟨.mq, .stake 0 0, 0, false⟩] ∧ dueWord
    ((advance 0 0 (tStall 3 8 ⟨0, [⟨.mq, .stake 0 0, 0, false⟩], some 0, 0, none, 0⟩)).sc 0) .mq = some (tWord 2 0) ∧ wOp (tWord 2 0) = 2 ∧
    ((advance 0 0 (tStall 3 8 ⟨0, [⟨.mq, .stake 0 0, 0, false⟩], some 0, 0, none, 0⟩)).sc 0).strip = some (tStrip (tWord 2 0)) := by decide
theorem test_StallsEnd_popped : ((((advance 0 0 (((tStall 3 8 ⟨0, [⟨.mq, .pop 0, 0, false⟩], some 0, 0, none, 0⟩).onSc 0 fun k =>
    { k with strip := some (tStrip (tWord 4 0)), hq := vset k.hq 0 [⟨0, 0⟩] })))).sc 0).stall = some (⟨0, [⟨.mq, .pop 0, 0, false⟩], some 0,
    0, none, 0⟩ : Stall)) ∧ (⟨0, [⟨.mq, .pop 0, 0, false⟩], some 0, 0, none, 0⟩ : Stall).lent = 0 ∧ ((⟨0, [⟨.mq, .pop 0, 0, false⟩], some 0,
    0, none, 0⟩ : Stall).released = some ((((advance 0 0 (((tStall 3 8 ⟨0, [⟨.mq, .pop 0, 0, false⟩], some 0, 0, none, 0⟩).onSc 0 fun k =>
    { k with strip := some (tStrip (tWord 4 0)), hq := vset k.hq 0 [⟨0, 0⟩] })))).sc 0).wall - 3)) ∧ (3 ≤ (((advance 0 0 (((tStall 3 8 ⟨0,
    [⟨.mq, .pop 0, 0, false⟩], some 0, 0, none, 0⟩).onSc 0 fun k =>
    { k with strip := some (tStrip (tWord 4 0)), hq := vset k.hq 0 [⟨0, 0⟩] })))).sc 0).wall) ∧ (⟨0, [⟨.mq, .pop 0, 0, false⟩], some 0, 0,
    none, 0⟩ : Stall).blocked = [(⟨.mq, .pop 0, 0, false⟩ : Blocked)] ∧ (⟨.mq, .pop 0, 0, false⟩ : Blocked).feed = false ∧ (dueWord
    (((advance 0 0 (((tStall 3 8 ⟨0, [⟨.mq, .pop 0, 0, false⟩], some 0, 0, none, 0⟩).onSc 0 fun k =>
    { k with strip := some (tStrip (tWord 4 0)), hq := vset k.hq 0 [⟨0, 0⟩] })))).sc 0) (⟨.mq, .pop 0, 0, false⟩ : Blocked).q = some (tWord
    4 0)) ∧ wOp (tWord 4 0) = 4 ∧ ((((advance 0 0 (((tStall 3 8 ⟨0, [⟨.mq, .pop 0, 0, false⟩], some 0, 0, none, 0⟩).onSc 0 fun k =>
    { k with strip := some (tStrip (tWord 4 0)), hq := vset k.hq 0 [⟨0, 0⟩] })))).sc 0).strip = some (tStrip (tWord 4 0))) ∧ (vget
    (((advance 0 0 (((tStall 3 8 ⟨0, [⟨.mq, .pop 0, 0, false⟩], some 0, 0, none, 0⟩).onSc 0 fun k =>
    { k with strip := some (tStrip (tWord 4 0)), hq := vset k.hq 0 [⟨0, 0⟩] })))).sc 0).hq [] (wHq (tWord 4 0)) = (⟨0, 0⟩ : HqEntry) :: [])
    ∧ (debugMode ((advance 0 0 (((tStall 3 8 ⟨0, [⟨.mq, .pop 0, 0, false⟩], some 0, 0, none, 0⟩).onSc 0 fun k =>
    { k with strip := some (tStrip (tWord 4 0)), hq := vset k.hq 0 [⟨0, 0⟩] })))) 0 = true → (⟨0, 0⟩ : HqEntry).h = physH (hdrShared (tStrip
    (tWord 4 0)).hdr) (tStrip (tWord 4 0)).slot (wHqH (tWord 4 0)) ∧ (⟨0, 0⟩ : HqEntry).gen = handleGen (((advance 0 0 (((tStall 3 8 ⟨0,
    [⟨.mq, .pop 0, 0, false⟩], some 0, 0, none, 0⟩).onSc 0 fun k =>
    { k with strip := some (tStrip (tWord 4 0)), hq := vset k.hq 0 [⟨0, 0⟩] })))).cm 0) (⟨0, 0⟩ : HqEntry).h) := by decide
theorem test_StallsEnd_reclaimed : ((advance 0 0 (tStall 64 8 ⟨0, [], some 0, 7, some 0, 0⟩)).sc 0).stall = some (⟨0, [], some 0, 7, some 0,
    0⟩ : Stall) ∧ (⟨0, [], some 0, 7, some 0, 0⟩ : Stall).granted = some 0 ∧ 0 + 64 = ((advance 0 0 (tStall 64 8 ⟨0, [], some 0, 7, some 0,
    0⟩)).sc 0).wall ∧ (debugMode (advance 0 0 (tStall 64 8 ⟨0, [], some 0, 7, some 0, 0⟩)) 0 = true → ∀ b ∈ (⟨0, [], some 0, 7, some 0, 0⟩ :
    Stall).blocked, b.feed = true ∨ ∀ w, dueWord ((advance 0 0 (tStall 64 8 ⟨0, [], some 0, 7, some 0, 0⟩)).sc 0) b.q = some w → wOp w ≠ 4)
    := by decide
theorem test_StallsEnd_lend : ((advance 0 0 (tStall 256 2 ⟨0, [], none, 0, none, 0⟩)).sc 0).run = .stalled ∧ ((advance 0 0 (tStall 256 2 ⟨0,
    [], none, 0, none, 0⟩)).sc 0).stall = some (⟨0, [], none, 0, none, 0⟩ : Stall) ∧ (⟨0, [], none, 0, none, 0⟩ : Stall).start + 256 =
    ((advance 0 0 (tStall 256 2 ⟨0, [], none, 0, none, 0⟩)).sc 0).wall ∧ (⟨0, [], none, 0, none, 0⟩ : Stall).released = none ∧ 1 < ((advance
    0 0 (tStall 256 2 ⟨0, [], none, 0, none, 0⟩)).sc 0).held := by decide
theorem test_StallsEnd_lendlaunch : (((advance 0 0 (tSc fun k =>
    { k with run := .stalled, wall := 256, held := 2, launch := some (tLaunch none) })).sc 0).run = .stalled) ∧ (((advance 0 0 (tSc fun k =>
    { k with run := .stalled, wall := 256, held := 2, launch := some (tLaunch none) })).sc 0).stall = none) ∧ (((advance 0 0 (tSc fun k =>
    { k with run := .stalled, wall := 256, held := 2, launch := some (tLaunch none) })).sc 0).launch = some (tLaunch none)) ∧ (tLaunch
    none).point = some 0 ∧ (0 + 256 = ((advance 0 0 (tSc fun k =>
    { k with run := .stalled, wall := 256, held := 2, launch := some (tLaunch none) })).sc 0).wall) ∧ (1 < ((advance 0 0 (tSc fun k =>
    { k with run := .stalled, wall := 256, held := 2, launch := some (tLaunch none) })).sc 0).held) := by decide
theorem test_StallsEnd_grant : ((((advance 0 0 (((tStall 3 1 ⟨0, [], some 0, 7, none, 0⟩).onDie 0 fun k =>
    { k with reqs := [(0, 7, 0)], pool := 8 })))).die (dieOf 0)).reqs = (0, ((7, 0) : Nat × Nat)) :: []) ∧ ((((advance 0 0 (((tStall 3 1 ⟨0,
    [], some 0, 7, none, 0⟩).onDie 0 fun k => { k with reqs := [(0, 7, 0)], pool := 8 })))).sc 0).stall = some (⟨0, [], some 0, 7, none, 0⟩
    : Stall)) ∧ (⟨0, [], some 0, 7, none, 0⟩ : Stall).released.isSome ∧ (⟨0, [], some 0, 7, none, 0⟩ : Stall).lent ≠ 0 ∧ (⟨0, [], some 0, 7,
    none, 0⟩ : Stall).granted = none ∧ ((((7, 0) : Nat × Nat).1 : Int) ≤ dieFree ((advance 0 0 (((tStall 3 1 ⟨0, [], some 0, 7, none,
    0⟩).onDie 0 fun k => { k with reqs := [(0, 7, 0)], pool := 8 })))) (dieOf 0)) := by decide
theorem test_StallsEnd_watchdog : ((advance 0 0 (tStall 268435456 8 ⟨0, [], none, 0, none, 0⟩)).sc 0).run = .stalled ∧ ((advance 0 0 (tStall
    268435456 8 ⟨0, [], none, 0, none, 0⟩)).sc 0).stall = some (⟨0, [], none, 0, none, 0⟩ : Stall) ∧ (if (⟨0, [], none, 0, none, 0⟩ :
    Stall).lent = 0 then (⟨0, [], none, 0, none, 0⟩ : Stall).released = none else (⟨0, [], none, 0, none, 0⟩ : Stall).granted = none) ∧ (⟨0,
    [], none, 0, none, 0⟩ : Stall).start + 2 ^ clampN 16 40 ((advance 0 0 (tStall 268435456 8 ⟨0, [], none, 0, none, 0⟩)).sc 0).wdog ≤
    ((advance 0 0 (tStall 268435456 8 ⟨0, [], none, 0, none, 0⟩)).sc 0).wall := by decide
theorem test_StallsEnd_deadline : ((advance 0 0 tLate).sc 0).dlPosted = false ∧ deadlineOf (advance 0 0 tLate) 0 = some 0 ∧ ((advance 0 0
    tLate).sc 0).strip.isSome ∧ ((advance 0 0 tLate).sc 0).stripCyc < stripLen ((advance 0 0 tLate).sc 0) ∧ ((advance 0 0 tLate).sc 0).wall
    = 0 + 1 := by decide
/-! ### CreditAndWake -/
/-- Core 0 asks its die for 8 credits for a launch that needs a wake. -/
def tAsk : State := (tSc fun k => { k with staged := some (tStrip 0), request := 8, launch := some ⟨some 0, true, none, none, none, false, none⟩, cls := 8 }).onDie 0
  fun k => { k with reqs := [(0, 8, 0)], pool := 8 }
/-- The launch of core 0 has asked for its wake in cycle 0, in wall cycle `w`. -/
def tWake (g : Gate) (w : Nat) : State :=
  ((tSc fun k => { k with wall := w, launch := some ⟨some 0, true, some 0, some 0, none, false, none⟩ }).onCore 0 fun k =>
    { k with gate := g, gatedAt := 0 }).onDie 0 fun k => { k with wakeQ := [0] }
/-- Core 0 has ended a strip in cycle 0 and holds 8 credits, in wall cycle `w`. -/
def tEnded (g : Gate) (w : Nat) : State :=
  (tSc fun k => { k with wall := w, ended := some 0, held := 8 }).onCore 0 fun k => { k with gate := g, gatedAt := 0 }
theorem test_CreditAndWake_grant : (tAsk.die 0).reqs = (0, ((8, 0) : Nat × Nat)) :: [] ∧ ((8, 0) : Nat × Nat).2 ≤ ((advance 0 0 tAsk).sc
    0).wall ∧ ((advance 0 0 tAsk).die 0).reqs = (0, ((8, 0) : Nat × Nat)) :: [] ∧ (((8, 0) : Nat × Nat).1 : Int) ≤ dieFree (advance 0 0
    tAsk) 0 ∧ reclaiming ((advance 0 0 tAsk).sc 0) = false ∧ ((advance 0 0 tAsk).sc 0).launch = some (⟨some 0, true, none, none, none,
    false, none⟩ : Launch) ∧ (⟨some 0, true, none, none, none, false, none⟩ : Launch).credited = true := by decide
theorem test_CreditAndWake_begin : ((advance 0 0 (tWake .powerGated 0)).core 0).gate = .powerGated ∧ fusedOff (advance 0 0 (tWake
    .powerGated 0)) 0 = false ∧ 0 ∈ ((advance 0 0 (tWake .powerGated 0)).die (dieOf 0)).wakeQ ∧ ((advance 0 0 (tWake .powerGated 0)).sc
    0).launch = some (⟨some 0, true, some 0, some 0, none, false, none⟩ : Launch) ∧ (⟨some 0, true, some 0, some 0, none, false, none⟩ :
    Launch).wakeReq = some 0 ∧ 0 ≤ ((advance 0 0 (tWake .powerGated 0)).sc 0).wall ∧ ((advance 0 0 (tWake .powerGated 0)).sc 0).wall % stepK
    (advance 0 0 (tWake .powerGated 0)) (dieOf 0) = 0 ∧ (∀ x, ((advance 0 0 (tWake .powerGated 0)).die (dieOf 0)).lastWake = some x → x + 8
    * stepK (advance 0 0 (tWake .powerGated 0)) (dieOf 0) ≤ ((advance 0 0 (tWake .powerGated 0)).sc 0).wall) ∧ wakeBefore (advance 0 0
    (tWake .powerGated 0)) 0 = [] :=
    ⟨by decide, by decide, by decide, by decide, by decide, by decide, by decide, fun x h => (by cases h), by decide⟩
theorem test_CreditAndWake_wake : ((advance 0 0 (tWake .clockGated 12)).core 0).gate = .clockGated ∧ ((advance 0 0 (tWake .clockGated
    12)).sc 0).launch = some (⟨some 0, true, some 0, some 0, none, false, none⟩ : Launch) ∧ (⟨some 0, true, some 0, some 0, none, false,
    none⟩ : Launch).wakeReq = some 0 ∧ 0 + 12 = ((advance 0 0 (tWake .clockGated 12)).sc 0).wall := by decide
theorem test_CreditAndWake_powered : (((advance 0 0 ((tWake .waking 1000).onCore 0 fun k => { k with gatedAt := 1000 })).core 0).gate =
    .waking) ∧ (((advance 0 0 ((tWake .waking 1000).onCore 0 fun k => { k with gatedAt := 1000 })).core 0).gatedAt = ((advance 0 0 ((tWake
    .waking 1000).onCore 0 fun k => { k with gatedAt := 1000 })).sc 0).wall) := by decide
theorem test_CreditAndWake_idle : ((advance 0 0 (tEnded .awake 256)).sc 0).ended = some 0 ∧ 0 + 256 = ((advance 0 0 (tEnded .awake 256)).sc
    0).wall ∧ ((advance 0 0 (tEnded .awake 256)).sc 0).launch = none ∧ ((advance 0 0 (tEnded .awake 256)).sc 0).strip = none := by decide
theorem test_CreditAndWake_gate : (((advance 0 0 ((tEnded .clockGated 1024).onDie 0 fun k => { k with pgLog2 := 10 })).core 0).gate =
    .clockGated) ∧ (((advance 0 0 ((tEnded .clockGated 1024).onDie 0 fun k => { k with pgLog2 := 10 })).sc 0).launch = none) ∧ (hopperLate
    (advance 0 0 ((tEnded .clockGated 1024).onDie 0 fun k => { k with pgLog2 := 10 })) 0 = false) ∧ (clampN 10 31 ((advance 0 0 ((tEnded
    .clockGated 1024).onDie 0 fun k => { k with pgLog2 := 10 })).die (dieOf 0)).pgLog2 < 31) ∧ (((advance 0 0 ((tEnded .clockGated
    1024).onDie 0 fun k => { k with pgLog2 := 10 })).sc 0).wall = ((advance 0 0 ((tEnded .clockGated 1024).onDie 0 fun k =>
    { k with pgLog2 := 10 })).core 0).gatedAt + 2 ^ clampN 10 31 ((advance 0 0 ((tEnded .clockGated 1024).onDie 0 fun k =>
    { k with pgLog2 := 10 })).die (dieOf 0)).pgLog2) := by decide
theorem test_CreditAndWake_command : ((advance 0 0 (tEnded .clockGated 0)).core 0).gate = .clockGated := by decide

/-! ### LateItemsArrive -/
/-- A transfer of one row with the arrival stake `stk`, the arrival queue `hq`, the hopper `hop` and the kind `kind`. -/
def tXfer (stk : Nat) (hq : Option Nat) (hop : Nat) (kind : XKind) : Xfer :=
  { id := 1, tag := 0, slot := 0, kind := kind, t0 := 0, s := 0, srcH := 0, dstH := 1, block := 0, drill := 0, seed := 0, draw := 0, offs := [(0, 0)],
    hop := hop, half := 0, astk := stk, astkN := 15, ahq := hq, comp := 0, other := none, rd := 0, wr := 0, buf := [], err := [] }
/-- An inbound late item with `n` of one row placed. -/
def tLateItem (x : Xfer) (n : Nat) : LateItem := ⟨x, true, 1, n, n, [], [], false⟩
/-- Core 0 waits for the item, with the arrivals `held` at its Square. -/
def tItem (l : LateItem) (held : List Held) : State := (tSc fun k => { k with heldArr := held }).onE 0 fun e => { e with late := [l] }
theorem test_LateItemsArrive_stake : ((advance 0 0 (tItem (tLateItem (tXfer 47 none 8 .inLate) 1) [])).en 0).late[0]? = some (tLateItem
    (tXfer 47 none 8 .inLate) 1) ∧ ((tLateItem (tXfer 47 none 8 .inLate) 1).inbound = true ∨ ((tLateItem (tXfer 47 none 8 .inLate)
    1).x.hostEnd (advance 0 0 (tItem (tLateItem (tXfer 47 none 8 .inLate) 1) [])) 0 = false ∧ ((advance 0 0 (tItem (tLateItem (tXfer 47 none
    8 .inLate) 1) [])).net.all fun x => x.kind != .writeAck) = true)) ∧ (tLateItem (tXfer 47 none 8 .inLate) 1).whole = true ∧ (tLateItem
    (tXfer 47 none 8 .inLate) 1).cut = false ∧ (tLateItem (tXfer 47 none 8 .inLate) 1).x.ahq = none ∧ (tLateItem (tXfer 47 none 8 .inLate)
    1).x.astk < 48 ∧ (debugMode (advance 0 0 (tItem (tLateItem (tXfer 47 none 8 .inLate) 1) [])) 0 = true → (vget ((advance 0 0 (tItem
    (tLateItem (tXfer 47 none 8 .inLate) 1) [])).sc 0).stk 0 (tLateItem (tXfer 47 none 8 .inLate) 1).x.astk).toNat + (tLateItem (tXfer 47
    none 8 .inLate) 1).x.astkN ≤ 255) := by decide
theorem test_LateItemsArrive_pushed : ((advance 0 0 (tItem (tLateItem (tXfer 47 (some 7) 8 .inLate) 1) [])).en 0).late[0]? = some (tLateItem
    (tXfer 47 (some 7) 8 .inLate) 1) ∧ (tLateItem (tXfer 47 (some 7) 8 .inLate) 1).inbound = true ∧ (tLateItem (tXfer 47 (some 7) 8 .inLate)
    1).whole = true ∧ (tLateItem (tXfer 47 (some 7) 8 .inLate) 1).cut = false ∧ (tLateItem (tXfer 47 (some 7) 8 .inLate) 1).x.ahq = some 7 ∧
    7 < 8 ∧ ((((advance 0 0 (tItem (tLateItem (tXfer 47 (some 7) 8 .inLate) 1) [])).sc 0).heldArr.any fun x => x.q == 7) = false) ∧
    arrivalRoom ((advance 0 0 (tItem (tLateItem (tXfer 47 (some 7) 8 .inLate) 1) [])).sc 0) 7 (pushesDue (advance 0 0 (tItem (tLateItem
    (tXfer 47 (some 7) 8 .inLate) 1) [])) 0 7) = true ∧ (vget ((advance 0 0 (tItem (tLateItem (tXfer 47 (some 7) 8 .inLate) 1) [])).sc 0).hq
    [] 7).length < 8 ∧ (tLateItem (tXfer 47 (some 7) 8 .inLate) 1).x.astk < 48 ∧ (debugMode (advance 0 0 (tItem (tLateItem (tXfer 47 (some
    7) 8 .inLate) 1) [])) 0 = true → (vget ((advance 0 0 (tItem (tLateItem (tXfer 47 (some 7) 8 .inLate) 1) [])).sc 0).stk 0 (tLateItem
    (tXfer 47 (some 7) 8 .inLate) 1).x.astk).toNat + (tLateItem (tXfer 47 (some 7) 8 .inLate) 1).x.astkN ≤ 255) := by decide
theorem test_LateItemsArrive_held : ((advance 0 0 (tItem (tLateItem (tXfer 47 (some 7) 8 .inLate) 1) [⟨7, 0, 0, 1, 0⟩])).en 0).late[0]? =
    some (tLateItem (tXfer 47 (some 7) 8 .inLate) 1) ∧ (tLateItem (tXfer 47 (some 7) 8 .inLate) 1).inbound = true ∧ (tLateItem (tXfer 47
    (some 7) 8 .inLate) 1).whole = true ∧ (tLateItem (tXfer 47 (some 7) 8 .inLate) 1).cut = false ∧ (tLateItem (tXfer 47 (some 7) 8 .inLate)
    1).x.ahq = some 7 ∧ ((((advance 0 0 (tItem (tLateItem (tXfer 47 (some 7) 8 .inLate) 1) [⟨7, 0, 0, 1, 0⟩])).sc 0).heldArr.any fun x =>
    x.q == 7) = true ∨ arrivalRoom ((advance 0 0 (tItem (tLateItem (tXfer 47 (some 7) 8 .inLate) 1) [⟨7, 0, 0, 1, 0⟩])).sc 0) 7 (pushesDue
    (advance 0 0 (tItem (tLateItem (tXfer 47 (some 7) 8 .inLate) 1) [⟨7, 0, 0, 1, 0⟩])) 0 7) = false) := by decide
theorem test_LateItemsArrive_retry : (((advance 0 0 (tItem (tLateItem (tXfer 47 none 8 .inLate) 0) [⟨7, 0, 47, 255, 0⟩])).sc
    0).heldArr.find? (fun x => x.q == (7 : Fin 8).val) = some (⟨7, 0, 47, 255, 0⟩ : Held)) ∧ arrivalRoom ((advance 0 0 (tItem (tLateItem
    (tXfer 47 none 8 .inLate) 0) [⟨7, 0, 47, 255, 0⟩])).sc 0) (7 : Fin 8).val (pushesDue (advance 0 0 (tItem (tLateItem (tXfer 47 none 8
    .inLate) 0) [⟨7, 0, 47, 255, 0⟩])) 0 (7 : Fin 8).val) = true ∧ (vget ((advance 0 0 (tItem (tLateItem (tXfer 47 none 8 .inLate) 0) [⟨7,
    0, 47, 255, 0⟩])).sc 0).hq [] (7 : Fin 8).val).length < 8 ∧ (⟨7, 0, 47, 255, 0⟩ : Held).stk < 48 ∧ (debugMode (advance 0 0 (tItem
    (tLateItem (tXfer 47 none 8 .inLate) 0) [⟨7, 0, 47, 255, 0⟩])) 0 = true → (vget ((advance 0 0 (tItem (tLateItem (tXfer 47 none 8
    .inLate) 0) [⟨7, 0, 47, 255, 0⟩])).sc 0).stk 0 (⟨7, 0, 47, 255, 0⟩ : Held).stk).toNat + (⟨7, 0, 47, 255, 0⟩ : Held).n ≤ 255) :=
    by decide
/-! ### InboundRowsLand -/
/-- Handles 0 and 1 of core 0 name its own Plot from row 0 and row 1 on. -/
def tHandles (s : State) : State := s.onM 0 fun m => { m with handles := vset (vset m.handles 0 1) 1 (1 + 2 ^ 32) }
/-- An inbound late item of which no row has arrived. -/
def tInbound (hop : Nat) : State := tHandles (tItem (tLateItem (tXfer 47 none hop .inLate) 0) [])
/-- An inbound late item from its own Plot to Commons row 5 of its die. -/
def tToCommons : State := (tInbound 8).onM 0 fun m => { m with handles := vset m.handles 1 (hPut (hPut 0 0 3 2) 32 25 5) }
/-- A row that arrived in cycle 0 waits for its landing, in wall cycle `w`. -/
def tLand (d : LandDst) (w : Nat) : State := (tSc fun k => { k with wall := w }).onM 0 fun m => { m with land := [⟨d, 1, 0, .late 1⟩] }
theorem test_InboundRowsLand_hopper : ((advance 0 0 (tInbound 4)).en 0).late[0]? = some (tLateItem (tXfer 47 none 4 .inLate) 0) ∧ (tLateItem
    (tXfer 47 none 4 .inLate) 0).inbound = true ∧ (tLateItem (tXfer 47 none 4 .inLate) 0).arrived < (tLateItem (tXfer 47 none 4 .inLate)
    0).total ∧ ((advance 0 0 (tInbound 4)).cm 0).land.length < 64 ∧ (tLateItem (tXfer 47 none 4 .inLate) 0).x.remoteSrc 0 (advance 0 0
    (tInbound 4)) = false ∧ (tLateItem (tXfer 47 none 4 .inLate) 0).x.hostEnd (advance 0 0 (tInbound 4)) 0 = false ∧ (xAddr (advance 0 0
    (tInbound 4)) 0 (tLateItem (tXfer 47 none 4 .inLate) 0).x.srcH ((tLateItem (tXfer 47 none 4 .inLate) 0).x.srcRow (tLateItem (tXfer 47
    none 4 .inLate) 0).arrived)).2 = true ∧
    (match placeOf (xAddr (advance 0 0 (tInbound 4)) 0 (tLateItem (tXfer 47 none 4 .inLate) 0).x.srcH ((tLateItem (tXfer 47 none 4 .inLate) 0).x.srcRow (tLateItem (tXfer 47 none 4 .inLate) 0).arrived)).1 with | .plot _ _ => True | .commons d r => gatedFor (advance 0 0 (tInbound 4)) d r false = false | .deep d r => deepTurn (advance 0 0 (tInbound 4)) 0 d.val 0 = true ∧ ((advance 0 0 (tInbound 4)).die d).dmStatus.getLsbD (3 + r % 3) = false | .control | .window | .unpopulated => False)
    ∧ (tLateItem (tXfer 47 none 4 .inLate) 0).x.landAt (advance 0 0 (tInbound 4)) 0 (tLateItem (tXfer 47 none 4 .inLate) 0).arrived = some
    ((.hopper (hopPortB 4) ((tXfer 47 none 4 .inLate).hopDst 0))) :=
    ⟨by decide, by decide, by decide, by decide, by decide, by decide, by decide, trivial, by decide⟩
theorem test_InboundRowsLand_plot : ((advance 0 0 (tInbound 8)).en 0).late[0]? = some (tLateItem (tXfer 47 none 8 .inLate) 0) ∧ (tLateItem
    (tXfer 47 none 8 .inLate) 0).inbound = true ∧ (tLateItem (tXfer 47 none 8 .inLate) 0).arrived < (tLateItem (tXfer 47 none 8 .inLate)
    0).total ∧ ((advance 0 0 (tInbound 8)).cm 0).land.length < 64 ∧ (tLateItem (tXfer 47 none 8 .inLate) 0).x.remoteSrc 0 (advance 0 0
    (tInbound 8)) = false ∧ (tLateItem (tXfer 47 none 8 .inLate) 0).x.hostEnd (advance 0 0 (tInbound 8)) 0 = false ∧ (xAddr (advance 0 0
    (tInbound 8)) 0 (tLateItem (tXfer 47 none 8 .inLate) 0).x.srcH ((tLateItem (tXfer 47 none 8 .inLate) 0).x.srcRow (tLateItem (tXfer 47
    none 8 .inLate) 0).arrived)).2 = true ∧
    (match placeOf (xAddr (advance 0 0 (tInbound 8)) 0 (tLateItem (tXfer 47 none 8 .inLate) 0).x.srcH ((tLateItem (tXfer 47 none 8 .inLate) 0).x.srcRow (tLateItem (tXfer 47 none 8 .inLate) 0).arrived)).1 with | .plot _ _ => True | .commons d r => gatedFor (advance 0 0 (tInbound 8)) d r false = false | .deep d r => deepTurn (advance 0 0 (tInbound 8)) 0 d.val 0 = true ∧ ((advance 0 0 (tInbound 8)).die d).dmStatus.getLsbD (3 + r % 3) = false | .control | .window | .unpopulated => False)
    ∧ (tLateItem (tXfer 47 none 8 .inLate) 0).x.landAt (advance 0 0 (tInbound 8)) 0 (tLateItem (tXfer 47 none 8 .inLate) 0).arrived = some
    (.plot 1) := ⟨by decide, by decide, by decide, by decide, by decide, by decide, by decide, trivial, by decide⟩
theorem test_InboundRowsLand_commons : ((advance 0 0 tToCommons).en 0).late[0]? = some (tLateItem (tXfer 47 none 8 .inLate) 0) ∧ (tLateItem
    (tXfer 47 none 8 .inLate) 0).inbound = true ∧ (tLateItem (tXfer 47 none 8 .inLate) 0).arrived < (tLateItem (tXfer 47 none 8 .inLate)
    0).total ∧ (tLateItem (tXfer 47 none 8 .inLate) 0).x.remoteSrc 0 (advance 0 0 tToCommons) = false ∧ (tLateItem (tXfer 47 none 8 .inLate)
    0).x.hostEnd (advance 0 0 tToCommons) 0 = false ∧ (tLateItem (tXfer 47 none 8 .inLate) 0).x.hop = 8 ∧ (xAddr (advance 0 0 tToCommons) 0
    (tLateItem (tXfer 47 none 8 .inLate) 0).x.srcH ((tLateItem (tXfer 47 none 8 .inLate) 0).x.srcRow (tLateItem (tXfer 47 none 8 .inLate)
    0).arrived)).2 = true ∧ placeOf (xAddr (advance 0 0 tToCommons) 0 (tLateItem (tXfer 47 none 8 .inLate) 0).x.srcH ((tLateItem (tXfer 47
    none 8 .inLate) 0).x.srcRow (tLateItem (tXfer 47 none 8 .inLate) 0).arrived)).1 = .plot 0 0 ∧ (xAddr (advance 0 0 tToCommons) 0
    (tLateItem (tXfer 47 none 8 .inLate) 0).x.dstH ((tLateItem (tXfer 47 none 8 .inLate) 0).x.dstRow (tLateItem (tXfer 47 none 8 .inLate)
    0).arrived)).2 = true ∧ placeOf (xAddr (advance 0 0 tToCommons) 0 (tLateItem (tXfer 47 none 8 .inLate) 0).x.dstH ((tLateItem (tXfer 47
    none 8 .inLate) 0).x.dstRow (tLateItem (tXfer 47 none 8 .inLate) 0).arrived)).1 = .commons 0 5 := by decide
theorem test_InboundRowsLand_lands : (((advance 0 0 (tLand (.plot 12287) 2)).cm 0).land.find?
    (fun x₀ => match x₀.dst with | .plot _ => true | .hopper _ _ | .source _ _ => false) = some (⟨.plot 12287, 1, 0, .late 1⟩ : LandRow)) ∧
    (⟨.plot 12287, 1, 0, .late 1⟩ : LandRow).dst = .plot 12287 ∧ 12287 < 12288 ∧ (⟨.plot 12287, 1, 0, .late 1⟩ : LandRow).arrived <
    ((advance 0 0 (tLand (.plot 12287) 2)).sc 0).wall ∧ slotNow (advance 0 0 (tLand (.plot 12287) 2)) 0 6 12287 = true ∧ (((advance 0 0
    (tLand (.plot 12287) 2)).cm 0).landedAt.1 ≠ ((advance 0 0 (tLand (.plot 12287) 2)).sc 0).wall ∨ 12287 % 16 ∉ ((advance 0 0 (tLand (.plot
    12287) 2)).cm 0).landedAt.2) ∧ lockedRow (advance 0 0 (tLand (.plot 12287) 2)) (plotAddr 0 12287) = false := by decide
theorem test_InboundRowsLand_port : (((advance 0 0 (tLand (.hopper true 1279) 1)).cm 0).land.find?
    (fun x₀ => match x₀.dst with | .plot _ => false | .hopper p _ | .source p _ => p == true) = some (⟨.hopper true 1279, 1, 0, .late 1⟩ :
    LandRow)) ∧ (⟨.hopper true 1279, 1, 0, .late 1⟩ : LandRow).dst = .hopper true 1279 ∧ 1279 < 1280 ∧ (⟨.hopper true 1279, 1, 0, .late 1⟩ :
    LandRow).arrived < ((advance 0 0 (tLand (.hopper true 1279) 1)).sc 0).wall ∧ hopReserved (advance 0 0 (tLand (.hopper true 1279) 1)) 0
    1279 = false ∧ portBusy (advance 0 0 (tLand (.hopper true 1279) 1)) 0 true = false ∧ (((advance 0 0 (tLand (.hopper true 1279) 1)).core
    0).gateCmd = true → ((advance 0 0 (tLand (.hopper true 1279) 1)).core 0).gate ≠ .clockGated) := by decide
/-! ### CommonsRowsMove -/
/-- A Commons request of core 0 for row 5 of die 0, made in cycle 0, landing in cycle 4. -/
def tReq (w done : Bool) : CmnReq := ⟨1, 0, cmnAddr 0 5, true, 0, 0, w, 0, 0, 4, 1, done, 0⟩
/-- That request in schedule cycle `u`, with a scheduled fill. -/
def tCmn (r : CmnReq) (u : Nat) : State :=
  ((tRun (tWord 1 0)).onSc 0 fun k => { k with stripCyc := u, wall := 2 + u }).onE 0 fun e => { e with cmn := [r], xfers := [tXfer 47 none 4 .cmnFill] }
theorem test_CommonsRowsMove_write : ((advance 0 0 (tCmn (tReq true false) 3)).en 0).cmn[0]? = some (tReq true false) ∧ (tReq true
    false).done = false ∧ (tReq true false).req < ((advance 0 0 (tCmn (tReq true false) 3)).sc 0).stripCyc ∧ (((advance 0 0 (tCmn (tReq true
    false) 3)).sc 0).stripCyc < (tReq true false).land ∨ (((advance 0 0 (tCmn (tReq true false) 3)).sc 0).run = .stalled ∧ ((advance 0 0
    (tCmn (tReq true false) 3)).sc 0).stripCyc = (tReq true false).land)) ∧ (((((advance 0 0 (tCmn (tReq true false) 3)).en 0).cmn.take
    0).all fun x => x.done || x.addr != (tReq true false).addr) = true) ∧ (tReq true false).ok = true ∧ placeOf (tReq true false).addr =
    .commons 0 5 ∧ 0 ≤ 7 ∧ (tReq true false).made + 0 < ((advance 0 0 (tCmn (tReq true false) 3)).sc 0).wall ∧ (tReq true false).isWrite =
    true ∧ (gatedFor (advance 0 0 (tCmn (tReq true false) 3)) 0 5 true = false ∨ acceptedBefore (advance 0 0 (tCmn (tReq true false) 3)) 0 5
    (((advance 0 0 (tCmn (tReq true false) 3)).sc 0).wall - 0) = true) := by decide
theorem test_CommonsRowsMove_read : ((advance 0 0 (tCmn (tReq false false) 2)).en 0).cmn[0]? = some (tReq false false) ∧ (tReq false
    false).done = false ∧ (tReq false false).req < ((advance 0 0 (tCmn (tReq false false) 2)).sc 0).stripCyc ∧ (((advance 0 0 (tCmn (tReq
    false false) 2)).sc 0).stripCyc < (tReq false false).land ∨ (((advance 0 0 (tCmn (tReq false false) 2)).sc 0).run = .stalled ∧ ((advance
    0 0 (tCmn (tReq false false) 2)).sc 0).stripCyc = (tReq false false).land)) ∧ (((((advance 0 0 (tCmn (tReq false false) 2)).en
    0).cmn.take 0).all fun x => x.done || x.addr != (tReq false false).addr) = true) ∧ (tReq false false).ok = true ∧ placeOf (tReq false
    false).addr = .commons 0 5 ∧ 0 ≤ 7 ∧ (tReq false false).made + 0 < ((advance 0 0 (tCmn (tReq false false) 2)).sc 0).wall ∧ (tReq false
    false).isWrite = false ∧ gatedFor (advance 0 0 (tCmn (tReq false false) 2)) 0 5 false = false := by decide
theorem test_CommonsRowsMove_lands : ((hazardCheck 0 (advance 0 0 (tCmn (tReq true true) 4))).sc 0).run = .running ∧ ((hazardCheck 0
    (advance 0 0 (tCmn (tReq true true) 4))).sc 0).stripCyc < stripLen ((hazardCheck 0 (advance 0 0 (tCmn (tReq true true) 4))).sc 0) ∧
    blockedNow (hazardCheck 0 (advance 0 0 (tCmn (tReq true true) 4))) 0 = [] ∧ ((hazardCheck 0 (advance 0 0 (tCmn (tReq true true) 4))).en
    0).cmn[0]? = some (tReq true true) ∧ (tReq true true).done = true ∧ (tReq true true).land = ((hazardCheck 0 (advance 0 0 (tCmn (tReq
    true true) 4))).sc 0).stripCyc := by decide
theorem test_CommonsRowsMove_fill : ((hazardCheck 0 (advance 0 0 (tCmn (tReq false true) 4))).sc 0).run = .running ∧ ((hazardCheck 0
    (advance 0 0 (tCmn (tReq false true) 4))).sc 0).stripCyc < stripLen ((hazardCheck 0 (advance 0 0 (tCmn (tReq false true) 4))).sc 0) ∧
    blockedNow (hazardCheck 0 (advance 0 0 (tCmn (tReq false true) 4))) 0 = [] ∧ ((hazardCheck 0 (advance 0 0 (tCmn (tReq false true)
    4))).en 0).cmn[0]? = some (tReq false true) ∧ (tReq false true).done = true ∧ (tReq false true).land = ((hazardCheck 0 (advance 0 0
    (tCmn (tReq false true) 4))).sc 0).stripCyc ∧ (tReq false true).isWrite = false ∧ (((hazardCheck 0 (advance 0 0 (tCmn (tReq false true)
    4))).en 0).xfers.find? (fun x₀ => x₀.id == (tReq false true).xfer) = some (tXfer 47 none 4 .cmnFill)) ∧ (tXfer 47 none 4 .cmnFill).kind
    = .cmnFill := by decide
theorem test_CommonsRowsMove_inbound : (((advance 0 0 ((tSc fun k => { k with wall := 22 }).onM 0 fun m =>
    { m with cmnIn := [⟨cmnAddr 7 4194303, 1, .late 1, 0⟩] })).cm 0).cmnIn = (⟨cmnAddr 7 4194303, 1, .late 1, 0⟩ : CmnIn) :: []) ∧
    ((⟨cmnAddr 7 4194303, 1, .late 1, 0⟩ : CmnIn).at_ + 22 ≤ ((advance 0 0 ((tSc fun k => { k with wall := 22 }).onM 0 fun m =>
    { m with cmnIn := [⟨cmnAddr 7 4194303, 1, .late 1, 0⟩] })).sc 0).wall) ∧ placeOf (⟨cmnAddr 7 4194303, 1, .late 1, 0⟩ : CmnIn).addr =
    .commons 7 4194303 ∧ (bankWaits (advance 0 0 ((tSc fun k => { k with wall := 22 }).onM 0 fun m =>
    { m with cmnIn := [⟨cmnAddr 7 4194303, 1, .late 1, 0⟩] })) 7 4194303 = false) ∧ (gatedFor (advance 0 0 ((tSc fun k =>
    { k with wall := 22 }).onM 0 fun m => { m with cmnIn := [⟨cmnAddr 7 4194303, 1, .late 1, 0⟩] })) 7 4194303 true = false) := by decide
/-! ### ScrubbingTurns -/
/-- Scrubbing is enabled, with a corrected row that waits. -/
def tScrub : State := ((tSc fun k => { k with wall := 256 + 1 }).onM 0 fun m => { m with err := { m.err with scrubEn := true, scrubLog2 := 8 }, scrub := [(15, 15, (0 : Row))] }).onDie 0
  fun k => { k with cmnErr := { k.cmnErr with scrubEn := true, scrubLog2 := 8 }, scrub := [(255, 15, 0)] }
theorem test_ScrubbingTurns_clean : (scrubState (scrubTime (ScrubUnit.plot 0 15) 257 tScrub) (ScrubUnit.plot 0 15)).1.scrubEn = true ∧
    (scrubState (scrubTime (ScrubUnit.plot 0 15) 257 tScrub) (ScrubUnit.plot 0 15)).2.2 + 2 ^ clampN 8 28 (scrubState (scrubTime
    (ScrubUnit.plot 0 15) 257 tScrub) (ScrubUnit.plot 0 15)).1.scrubLog2 ≤ 257 ∧ scrubSlot (scrubTime (ScrubUnit.plot 0 15) 257 tScrub)
    (ScrubUnit.plot 0 15) (scrubRow (ScrubUnit.plot 0 15) (scrubState (scrubTime (ScrubUnit.plot 0 15) 257 tScrub) (ScrubUnit.plot 0
    15)).2.1).1 = true ∧ readEcc (scrubTime (ScrubUnit.plot 0 15) 257 tScrub) (scrubRow (ScrubUnit.plot 0 15) (scrubState (scrubTime
    (ScrubUnit.plot 0 15) 257 tScrub) (ScrubUnit.plot 0 15)).2.1).2 .clean = .clean := by decide
theorem test_ScrubbingTurns_corrected : (ScrubUnit.commons 0 255) = .commons 0 (255 : Fin 256) ∧ (tScrub.die 0).cmnErr.scrubEn = true ∧
    (scrubState tScrub (ScrubUnit.commons 0 255)).2.2 + 2 ^ clampN 8 28 (tScrub.die 0).cmnErr.scrubLog2 ≤ 256 ∧ (scrubState tScrub
    (ScrubUnit.commons 0 255)).2.1 < 16384 ∧ 15 < 16 ∧ scrubSlot tScrub (ScrubUnit.commons 0 255) (scrubRow (ScrubUnit.commons 0 255)
    (scrubState tScrub (ScrubUnit.commons 0 255)).2.1).1 = true := by decide
theorem test_ScrubbingTurns_back : scrubDue (scrubTime (ScrubUnit.plot 0 15) 257 tScrub) (ScrubUnit.plot 0 15) = some ((15, 0) : Nat × Row)
    ∧ scrubSlot (scrubTime (ScrubUnit.plot 0 15) 257 tScrub) (ScrubUnit.plot 0 15) ((15, 0) : Nat × Row).1 = true ∧ ((15, 0) : Nat × Row).1
    <
    (match (ScrubUnit.plot 0 15) with | .plot _ _ => 12288 | .commons _ _ => 2 ^ 22 | .deep _ _ => 23592960) := by decide
/-! ### PagesAndGroups -/
/-- A page-out is under way on die 0, and gate commands wait for groups 14 and 15. -/
def tGates (s : State) : State := s.onDie 0 fun k => { k with pageOuts := [⟨0, 63, 0, 1, 0⟩], extents := [(0, 1)], gates := [⟨15, 0, 0, false, 0, 0⟩, ⟨14, 0, 0, true, 0, 0⟩], groupState := vset (vset k.groupState 15 1) 14 3 }
theorem test_PagesAndGroups_out : (((tGates (tSc fun k => { k with wall := 4 })).die 0).pageOuts[0]? = some (⟨0, 63, 0, 1, 0⟩ : PageJob)) ∧
    (⟨0, 63, 0, 1, 0⟩ : PageJob).h < 64 ∧ ((List.range 16).any (fun k => bankWaits ((advance (⟨0, 63, 0, 1, 0⟩ : PageJob).core 0 (tGates
    (tSc fun k => { k with wall := 4 })))) 0 ((⟨0, 63, 0, 1, 0⟩ : PageJob).src / 16 * 16 + k)) = false) ∧ ((((advance (⟨0, 63, 0, 1, 0⟩ :
    PageJob).core 0 (tGates (tSc fun k => { k with wall := 4 })))).sc (⟨0, 63, 0, 1, 0⟩ : PageJob).core).swSet.1 ≠ ccCyc (((advance (⟨0, 63,
    0, 1, 0⟩ : PageJob).core 0 (tGates (tSc fun k => { k with wall := 4 })))).sc (⟨0, 63, 0, 1, 0⟩ : PageJob).core)) := by decide
theorem test_PagesAndGroups_gate : (((tGates State.reset).die 0).gates.find? (fun j₀ => j₀.g == (15 : Fin 16) && !j₀.un) = some (⟨15, 0, 0,
    false, 0, 0⟩ : GateJob)) ∧ (⟨15, 0, 0, false, 0, 0⟩ : GateJob).at_ ≤ (((advance (⟨15, 0, 0, false, 0, 0⟩ : GateJob).core 0 (tGates
    State.reset))).sc (⟨15, 0, 0, false, 0, 0⟩ : GateJob).core).wall ∧ vget (((advance (⟨15, 0, 0, false, 0, 0⟩ : GateJob).core 0 (tGates
    State.reset))).die 0).groupState 0 (15 : Fin 16).val = 1 ∧ writesIn ((advance (⟨15, 0, 0, false, 0, 0⟩ : GateJob).core 0 (tGates
    State.reset))) 0 (15 : Fin 16).val (⟨15, 0, 0, false, 0, 0⟩ : GateJob).at_ = false ∧ (⟨15, 0, 0, false, 0, 0⟩ : GateJob).stk < 48 ∧
    (debugMode ((advance (⟨15, 0, 0, false, 0, 0⟩ : GateJob).core 0 (tGates State.reset))) (⟨15, 0, 0, false, 0, 0⟩ : GateJob).core = true →
    (vget (((advance (⟨15, 0, 0, false, 0, 0⟩ : GateJob).core 0 (tGates State.reset))).sc (⟨15, 0, 0, false, 0, 0⟩ : GateJob).core).stk 0
    (⟨15, 0, 0, false, 0, 0⟩ : GateJob).stk).toNat + 1 ≤ 255) := by decide
theorem test_PagesAndGroups_ungate : (((tGates (tSc fun k => { k with wall := 16384 })).die 0).gates.find? (fun j₀ => j₀.g == (14 : Fin 16)
    && j₀.un) = some (⟨14, 0, 0, true, 0, 0⟩ : GateJob)) ∧ ((⟨14, 0, 0, true, 0, 0⟩ : GateJob).at_ + 16384 ≤ (((advance (⟨14, 0, 0, true, 0,
    0⟩ : GateJob).core 0 (tGates (tSc fun k => { k with wall := 16384 })))).sc (⟨14, 0, 0, true, 0, 0⟩ : GateJob).core).wall) ∧ (vget
    (((advance (⟨14, 0, 0, true, 0, 0⟩ : GateJob).core 0 (tGates (tSc fun k => { k with wall := 16384 })))).die 0).groupState 0 (14 : Fin
    16).val = 3) ∧ (⟨14, 0, 0, true, 0, 0⟩ : GateJob).stk < 48 ∧ (debugMode ((advance (⟨14, 0, 0, true, 0, 0⟩ : GateJob).core 0 (tGates (tSc
    fun k => { k with wall := 16384 })))) (⟨14, 0, 0, true, 0, 0⟩ : GateJob).core = true → (vget (((advance (⟨14, 0, 0, true, 0, 0⟩ :
    GateJob).core 0 (tGates (tSc fun k => { k with wall := 16384 })))).sc (⟨14, 0, 0, true, 0, 0⟩ : GateJob).core).stk 0 (⟨14, 0, 0, true,
    0, 0⟩ : GateJob).stk).toNat + 1 ≤ 255) := by decide

/-! ### Engines -/
/-- A Plough instruction that needs no ramp, with stake 1 as its feed stake and stake 2 as its release stake, in a nest of two executions. -/
def tPlg (execs rels : Nat) : PlgRun :=
  { word := tWord 0x10 (2 ^ 7 + 2 * 2 ^ 17), block := 0, loop := 1, drill := 0, slot := 0, shared := false, seed := 0, draw := 0, op := 0x10,
    tag := 0, t0 := 0, rho := 0, set0 := false, execs := execs, rels := rels, drained := 0, passes := [], scales := 0, rows := [], err := [] }
/-- The Plough runs it in schedule cycle `u` of a strip of 1,000 cycles. -/
def tPlough (r : PlgRun) (u : Nat) : State :=
  (tSc fun k => { k with run := .running, stripCyc := u, strip := some { tStrip (tWord 1 0) with hdr := tHdr 1000 } }).onE 0 fun e => { e with plg := [r] }
theorem test_PloughIssues_mm : Issues (hazardCheck 0 (advance 0 0 (tRun (tWord 0x10 0)))) 0 .mq 0x10 (tWord 0x10 0) (tStrip (tWord 0x10 0))
    := by unfold Issues; decide
theorem test_PloughIssues_cmpcnt : Issues (hazardCheck 0 (advance 0 0 (tRun (tWord 0x16 0)))) 0 .mq 0x16 (tWord 0x16 0) (tStrip (tWord 0x16
    0)) := by unfold Issues; decide
theorem test_PloughWindows_first : ((hazardCheck 0 (advance 0 0 (tPlough (tPlg 0 0) 0))).sc 0).run = .running ∧ ((hazardCheck 0 (advance 0 0
    (tPlough (tPlg 0 0) 0))).sc 0).stripCyc < stripLen ((hazardCheck 0 (advance 0 0 (tPlough (tPlg 0 0) 0))).sc 0) ∧ blockedNow (hazardCheck
    0 (advance 0 0 (tPlough (tPlg 0 0) 0))) 0 = [] ∧ (((hazardCheck 0 (advance 0 0 (tPlough (tPlg 0 0) 0))).en 0).plg.find? (fun r₀ =>
    r₀.execs < r₀.total && r₀.begin_ r₀.execs == ((hazardCheck 0 (advance 0 0 (tPlough (tPlg 0 0) 0))).sc 0).stripCyc) = some (tPlg 0 0)) ∧
    ((hazardCheck 0 (advance 0 0 (tPlough (tPlg 0 0) 0))).en 0).plg = [(tPlg 0 0)] ∧ (tPlg 0 0).execs = 0 := by decide
theorem test_PloughWindows_next : ((hazardCheck 0 (advance 0 0 (tPlough (tPlg 1 0) 192))).sc 0).run = .running ∧ ((hazardCheck 0 (advance 0
    0 (tPlough (tPlg 1 0) 192))).sc 0).stripCyc < stripLen ((hazardCheck 0 (advance 0 0 (tPlough (tPlg 1 0) 192))).sc 0) ∧ blockedNow
    (hazardCheck 0 (advance 0 0 (tPlough (tPlg 1 0) 192))) 0 = [] ∧ (((hazardCheck 0 (advance 0 0 (tPlough (tPlg 1 0) 192))).en 0).plg.find?
    (fun r₀ => r₀.execs < r₀.total && r₀.begin_ r₀.execs == ((hazardCheck 0 (advance 0 0 (tPlough (tPlg 1 0) 192))).sc 0).stripCyc) = some
    (tPlg 1 0)) ∧ ((hazardCheck 0 (advance 0 0 (tPlough (tPlg 1 0) 192))).en 0).plg = [(tPlg 1 0)] ∧ 1 ≤ (tPlg 1 0).execs ∧ ((hazardCheck 0
    (advance 0 0 (tPlough (tPlg 1 0) 192))).sc 0).strip = some ({ tStrip (tWord 1 0) with hdr := tHdr 1000 } : Strip) ∧ pwFstk (tPlg 1
    0).word ≠ 63 := by decide
theorem test_PloughWindows_release : ((hazardCheck 0 (advance 0 0 (tPlough (tPlg 1 0) 191))).sc 0).run = .running ∧ ((hazardCheck 0 (advance
    0 0 (tPlough (tPlg 1 0) 191))).sc 0).stripCyc < stripLen ((hazardCheck 0 (advance 0 0 (tPlough (tPlg 1 0) 191))).sc 0) ∧ blockedNow
    (hazardCheck 0 (advance 0 0 (tPlough (tPlg 1 0) 191))) 0 = [] ∧ (((hazardCheck 0 (advance 0 0 (tPlough (tPlg 1 0) 191))).en 0).plg.find?
    (fun r₀ => r₀.rels < r₀.execs && r₀.begin_ r₀.rels + r₀.feed == ((hazardCheck 0 (advance 0 0 (tPlough (tPlg 1 0) 191))).sc 0).stripCyc +
    1) = some (tPlg 1 0)) ∧ ((hazardCheck 0 (advance 0 0 (tPlough (tPlg 1 0) 191))).en 0).plg = [(tPlg 1 0)] ∧ ((hazardCheck 0 (advance 0 0
    (tPlough (tPlg 1 0) 191))).sc 0).strip = some ({ tStrip (tWord 1 0) with hdr := tHdr 1000 } : Strip) ∧ pwRstk (tPlg 1 0).word ≠ 63 ∧
    physStk ((hazardCheck 0 (advance 0 0 (tPlough (tPlg 1 0) 191))).sc 0) ({ tStrip (tWord 1 0) with hdr := tHdr 1000 } : Strip) (pwRstk
    (tPlg 1 0).word) < 48 ∧ (debugMode (hazardCheck 0 (advance 0 0 (tPlough (tPlg 1 0) 191))) 0 = true → (vget ((hazardCheck 0 (advance 0 0
    (tPlough (tPlg 1 0) 191))).sc 0).stk 0 (physStk ((hazardCheck 0 (advance 0 0 (tPlough (tPlg 1 0) 191))).sc 0)
    ({ tStrip (tWord 1 0) with hdr := tHdr 1000 } : Strip) (pwRstk (tPlg 1 0).word))).toNat + pwRstkN (tPlg 1 0).word ≤ 255) := by decide
theorem test_PloughWindows_drain : ((hazardCheck 0 (advance 0 0 (tPlough (tPlg 2 2) 254))).sc 0).run = .running ∧ ((hazardCheck 0 (advance 0
    0 (tPlough (tPlg 2 2) 254))).sc 0).stripCyc < stripLen ((hazardCheck 0 (advance 0 0 (tPlough (tPlg 2 2) 254))).sc 0) ∧ blockedNow
    (hazardCheck 0 (advance 0 0 (tPlough (tPlg 2 2) 254))) 0 = [] ∧ (((hazardCheck 0 (advance 0 0 (tPlough (tPlg 2 2) 254))).en 0).plg.find?
    (fun r₀ => r₀.drained < 32 * r₀.npass && r₀.drainCyc (r₀.drained / 32) (r₀.drained % 32) == ((hazardCheck 0 (advance 0 0 (tPlough (tPlg
    2 2) 254))).sc 0).stripCyc) = some (tPlg 2 2)) ∧ ((hazardCheck 0 (advance 0 0 (tPlough (tPlg 2 2) 254))).en 0).plg = [(tPlg 2 2)] ∧
    (tPlg 2 2).drained + 1 ≠ 32 * (tPlg 2 2).npass := by decide
/-- A chain of two beats that writes its rows, in schedule cycle `u`. -/
def tHrw (e : Nat) : HrwRun :=
  { word := tWord 0x10 (2 ^ 6 + 2 ^ 41), block := 0, loop := 0, chain := BitVec.ofNat 2048 1, area := [], slot := 0, shared := false, seed := 0, draw := 0,
    tag := 0, t0 := 0, acc0 := none, mism := false, xs := [], ys := [], xn := e, yn := 0, wrote := 0, err := [] }
/-- The Harrow runs it in the cycle of its first write. -/
def tHarrow : State :=
  ((tRun (tWord 1 0)).onSc 0 fun k => { k with stripCyc := (tHrw 2).writeCyc 0 0 }).onE 0 fun e => { e with hrw := [tHrw 2] }
theorem test_HarrowChains_chain : Issues (hazardCheck 0 (advance 0 0 (tRun (tWord 0x10 0)))) 0 .vq 0x10 (tWord 0x10 0) (tStrip (tWord 0x10
    0)) ∧ ((hrwOf (tNow (tRun (tWord 0x10 0))) 0 (accStart (vget (sumsNow (tNow (tRun (tWord 0x10 0))) 0) SumSlot.reset (hwSlot (tWord 0x10
    0))) (hwAcc (tWord 0x10 0)) (chSummary ((tStrip (tWord 0x10 0)).chain (hwChain (tWord 0x10 0))))) [] (tWord 0x10 0) (tStrip (tWord 0x10
    0)) 0)) = hrwOf (hazardCheck 0 (advance 0 0 (tRun (tWord 0x10 0)))) 0 (accStart (vget (sumsNow (hazardCheck 0 (advance 0 0 (tRun (tWord
    0x10 0)))) 0) SumSlot.reset (hwSlot (tWord 0x10 0))) (hwAcc (tWord 0x10 0)) (chSummary ((tStrip (tWord 0x10 0)).chain (hwChain (tWord
    0x10 0))))) [] (tWord 0x10 0) (tStrip (tWord 0x10 0)) ((hazardCheck 0 (advance 0 0 (tRun (tWord 0x10 0)))).sc 0).stripCyc :=
    by unfold Issues; decide
theorem test_HarrowChains_bload : Issues (hazardCheck 0 (advance 0 0 (tRun (tWord 0x11 0)))) 0 .vq 0x11 (tWord 0x11 0) (tStrip (tWord 0x11
    0)) := by unfold Issues; decide
theorem test_HarrowChains_write : ((hazardCheck 0 (advance 0 0 tHarrow)).sc 0).run = .running ∧ ((hazardCheck 0 (advance 0 0 tHarrow)).sc
    0).stripCyc < stripLen ((hazardCheck 0 (advance 0 0 tHarrow)).sc 0) ∧ blockedNow (hazardCheck 0 (advance 0 0 tHarrow)) 0 = [] ∧
    (((hazardCheck 0 (advance 0 0 tHarrow)).en 0).hrw.find? (fun r₀ => r₀.wrote < r₀.execs * r₀.rowsPer && r₀.writeCyc (r₀.wrote /
    r₀.rowsPer) (r₀.wrote % r₀.rowsPer) == ((hazardCheck 0 (advance 0 0 tHarrow)).sc 0).stripCyc) = some (tHrw 2)) ∧ ((hazardCheck 0
    (advance 0 0 tHarrow)).en 0).hrw = [(tHrw 2)] ∧ (tHrw 2).wrote + 1 ≠ (tHrw 2).execs * (tHrw 2).rowsPer := by decide
/-- An update of two rows in the cycle of its first write. -/
def tTlr : TlrRun :=
  { word := tWord 0x10 (2 ^ 14), block := 0, loop := 0, drill := 0, slot := 0, shared := false, ctx := 0, seed := 0, draw := 0, entry := 0,
    desc := 0, good := true, tag := 0, t0 := 0, feeds := 1, rels := 1, trs := [], tgs := [], tts := [], ths := [], wrote := 0, err := [] }
/-- The Tiller runs an update of `r`. -/
def tTiller (r : TlrRun) : State :=
  ((tRun (tWord 1 0)).onSc 0 fun k => { k with stripCyc := r.writeCyc 0 0 }).onE 0 fun e => { e with tlr := [r] }
theorem test_TillerUpdates_update : Issues (hazardCheck 0 (advance 0 0 (tRun (tWord 0x10 0)))) 0 .uq 0x10 (tWord 0x10 0) (tStrip (tWord 0x10
    0)) ∧ ((tlrOf (tNow (tRun (tWord 0x10 0))) 0 [] (tWord 0x10 0) (tStrip (tWord 0x10 0)) 0)) = tlrOf (hazardCheck 0 (advance 0 0 (tRun
    (tWord 0x10 0)))) 0 [] (tWord 0x10 0) (tStrip (tWord 0x10 0)) ((hazardCheck 0 (advance 0 0 (tRun (tWord 0x10 0)))).sc 0).stripCyc :=
    by unfold Issues; decide
theorem test_TillerUpdates_root : Issues (hazardCheck 0 (advance 0 0 (tRun (tWord 0x11 0)))) 0 .uq 0x11 (tWord 0x11 0) (tStrip (tWord 0x11
    0)) := by unfold Issues; decide
theorem test_TillerUpdates_badroot : Issues (hazardCheck 0 (advance 0 0 (tRun (tWord 0x11 0)))) 0 .uq 0x11 (tWord 0x11 0) (tStrip (tWord
    0x11 0)) := by unfold Issues; decide
theorem test_TillerUpdates_record : ((hazardCheck 0 (advance 0 0 (tTiller tTlr))).sc 0).run = .running ∧ ((hazardCheck 0 (advance 0 0
    (tTiller tTlr))).sc 0).stripCyc < stripLen ((hazardCheck 0 (advance 0 0 (tTiller tTlr))).sc 0) ∧ blockedNow (hazardCheck 0 (advance 0 0
    (tTiller tTlr))) 0 = [] ∧ (((hazardCheck 0 (advance 0 0 (tTiller tTlr))).en 0).tlr.find? (fun r₀ => r₀.wrote < r₀.execs * r₀.perExec &&
    r₀.writeCyc (r₀.wrote / r₀.perExec) (r₀.wrote % r₀.perExec) == ((hazardCheck 0 (advance 0 0 (tTiller tTlr))).sc 0).stripCyc) = some
    tTlr) ∧ ((hazardCheck 0 (advance 0 0 (tTiller tTlr))).en 0).tlr = [tTlr] ∧ tTlr.wrote + 1 ≠ tTlr.execs * tTlr.perExec ∧ tTlr.wrote %
    tTlr.perExec < tTlr.rows := by decide
theorem test_TransfersIssue_fill : Issues (hazardCheck 0 (advance 0 0 (tRun (tWord 0x10 0)))) 0 .tq 0x10 (tWord 0x10 0) (tStrip (tWord 0x10
    0)) := by unfold Issues; decide
/-- Handles 0 and 1 of core 0 name its own Plot, and TQ is due with a move from handle 0 to handle 1. -/
def tMove : State := tHandles (tRun (tWord 0x11 (2 ^ 6)))
/-- The same move where both handles name Commons rows. -/
def tBadMove : State := tMove.onM 0 fun m => { m with handles := vset (vset m.handles 0 2) 1 2 }
theorem test_TransfersIssue_move : Issues (hazardCheck 0 (advance 0 0 tMove)) 0 .tq 0x11 (tWord 0x11 (2 ^ 6)) (tStrip (tWord 0x11 (2 ^ 6)))
    ∧ (moveOf 0 (tWord 0x11 (2 ^ 6)) (tStrip (tWord 0x11 (2 ^ 6))) [] (hazardCheck 0 (advance 0 0 tMove))).kind ≠ .none :=
    ⟨by unfold Issues; decide, by decide⟩
theorem test_TransfersIssue_badmove : Issues (hazardCheck 0 (advance 0 0 tBadMove)) 0 .tq 0x11 (tWord 0x11 (2 ^ 6)) (tStrip (tWord 0x11 (2 ^
    6))) ∧ (moveOf 0 (tWord 0x11 (2 ^ 6)) (tStrip (tWord 0x11 (2 ^ 6))) [] (hazardCheck 0 (advance 0 0 tBadMove))).kind = .none :=
    ⟨by unfold Issues; decide, by decide⟩
theorem test_TransfersIssue_gate : ((.xfGate 0 0), 0x12, .gate) ∈ [(Instr.xfGate 0 0, 0x12, XKind.gate), (.xfUngate 0 0, 0x13, .ungate)] ∧
    Issues (hazardCheck 0 (advance 0 0 (tRun (tWord 0x12 0)))) 0 .tq 0x12 (tWord 0x12 0) (tStrip (tWord 0x12 0)) :=
    ⟨by decide, by unfold Issues; decide⟩
theorem test_TransfersIssue_ungate : ((.xfUngate 0 0), 0x13, .ungate) ∈ [(Instr.xfGate 0 0, 0x12, XKind.gate), (.xfUngate 0 0, 0x13,
    .ungate)] ∧ Issues (hazardCheck 0 (advance 0 0 (tRun (tWord 0x13 0)))) 0 .tq 0x13 (tWord 0x13 0) (tStrip (tWord 0x13 0)) :=
    ⟨by decide, by unfold Issues; decide⟩
/-- 32 trace records wait, and the ring is rows 12,286 and 12,287 of the Plot. -/
def tTrace : State := (tSc fun k => { k with wall := 1 }).onCc 0 fun k => { k with traceBase := 12286, traceRows := 2, traceWptr := 1, traceBuf := List.replicate 32 1 }
theorem test_TraceUnit_row : 12287 = ((advance 0 0 tTrace).cc 0).traceBase + ((advance 0 0 tTrace).cc 0).traceWptr % ((advance 0 0
    tTrace).cc 0).traceRows ∧ 12287 < 12288 ∧ 32 ≤ ((advance 0 0 tTrace).cc 0).traceBuf.length ∧ ((advance 0 0 tTrace).cc 0).traceRows ≠ 0 ∧
    free7Now (advance 0 0 tTrace) 0 5 12287 = true ∧ lockedRow (advance 0 0 tTrace) (plotAddr 0 12287) = false := by decide
/-- The system manager's commands, and the host's. -/
def tMgr : CmdSrc := ⟨.manager, 0, 0, 0⟩
def tHost : CmdSrc := ⟨.host, 1, 0, 0⟩
/-- Context 7 has a step advance to step 1 pending. -/
def tAdvance (evald : Bool) : State := State.reset.onAdv 7 fun a => { a with pending := some (1, tMgr), evald := evald }
theorem test_StepAdvances_taken : TakesCommand State.reset 4 whoHSC tMgr ∧ (State.reset.advOf 7).pending = none ∧ 1 = (State.reset.advOf
    7).step.toNat + 1 := by unfold TakesCommand; decide
theorem test_StepAdvances_refused : TakesCommand State.reset 4 whoHSC tMgr ∧ (State.reset.advOf 7).pending = none ∧ 0 ≠ (State.reset.advOf
    7).step.toNat + 1 := by unfold TakesCommand; decide
theorem test_StepAdvances_busy : TakesCommand (tAdvance false) 4 whoHSC tMgr ∧ ((tAdvance false).advOf 7).pending.isSome :=
    ⟨by unfold TakesCommand; decide, by decide⟩
theorem test_StepAdvances_evaluate : ((tAdvance false).advOf (7 : CtxId)).pending = some (1, tMgr) ∧ ((tAdvance false).advOf (7 :
    CtxId)).evald = false ∧ ((vget (tAdvance false).hub.snp SnpCtx.reset (7 : CtxId).val).jEntries = 0 ∨ 1 ≤ (vget (tAdvance false).hub.snp
    SnpCtx.reset (7 : CtxId).val).jStep) ∧ privMissing (tAdvance false) (7 : CtxId) 1 = [] ∧ olderStrip (tAdvance false) (7 : CtxId)
    ((tAdvance false).advOf (7 : CtxId)).step.toNat = false := by decide
theorem test_StepAdvances_commit : ((tAdvance true).advOf (7 : CtxId)).pending = some (1, tMgr) ∧ ((tAdvance true).advOf (7 : CtxId)).evald
    = true := by decide
theorem test_StepAdvances_arm : ((Writer.host) = .host ∨ (Writer.host) = .headland) ∧ (2 ^ 32) = (vget (State.reset.advOf (7 :
    CtxId)).privStep 0 (2 * (7 : Fin 8).val + (1 : Fin 2).val)).toNat % 2 ^ 32 + (1 : Word).toNat * 2 ^ 32 ∧ ((vget (State.reset.advOf (7 :
    CtxId)).armed none (2 * (7 : Fin 8).val + (1 : Fin 2).val)).any (fun y => (State.reset.advOf (7 : CtxId)).step.toNat < y.1 && y.1 != (2
    ^ 32)) = false) := by decide

/-! ### Control core -/
/-- The control core of core 0 runs with register 2 at `x`, and the 32-bit instruction `w` stands at its program counter. -/
def tCode (w : Nat) (x : Word) : State := (tCc State.reset).onCc 0 fun k =>
  { k with regs := vset k.regs 2 x, imem := writeCells [] 0 (leBytes 4 w) }
theorem test_ArithmeticInstructions_add : Fetches ((advance (0 : CoreId) 0 (tCode 0x003100B3 0xFFFFFFFF))) (0 : CoreId) 0x003100B3 ∧ 1 =
    bitsOf 0x003100B3 7 5 ∧ 0 = bitsOf 0x003100B3 12 3 ∧ 0 = bitsOf 0x003100B3 25 7 ∧ ((regGet ((tNow (tCode 0x003100B3 0xFFFFFFFF)).cc 0)
    (bitsOf 0x003100B3 15 5))) = regGet (((advance (0 : CoreId) 0 (tCode 0x003100B3 0xFFFFFFFF))).cc (0 : CoreId)) (bitsOf 0x003100B3 15 5)
    ∧ ((regGet ((tNow (tCode 0x003100B3 0xFFFFFFFF)).cc 0) (bitsOf 0x003100B3 20 5))) = regGet (((advance (0 : CoreId) 0 (tCode 0x003100B3
    0xFFFFFFFF))).cc (0 : CoreId)) (bitsOf 0x003100B3 20 5) ∧ bitsOf 0x003100B3 0 7 = 0x33 ∧ 0 = 0 := by unfold Fetches; decide
theorem test_ArithmeticInstructions_sub : Fetches ((advance (0 : CoreId) 0 (tCode 0x403100B3 0x80000000))) (0 : CoreId) 0x403100B3 ∧ 1 =
    bitsOf 0x403100B3 7 5 ∧ 0 = bitsOf 0x403100B3 12 3 ∧ 32 = bitsOf 0x403100B3 25 7 ∧ ((regGet ((tNow (tCode 0x403100B3 0x80000000)).cc 0)
    (bitsOf 0x403100B3 15 5))) = regGet (((advance (0 : CoreId) 0 (tCode 0x403100B3 0x80000000))).cc (0 : CoreId)) (bitsOf 0x403100B3 15 5)
    ∧ ((regGet ((tNow (tCode 0x403100B3 0x80000000)).cc 0) (bitsOf 0x403100B3 20 5))) = regGet (((advance (0 : CoreId) 0 (tCode 0x403100B3
    0x80000000))).cc (0 : CoreId)) (bitsOf 0x403100B3 20 5) ∧ bitsOf 0x403100B3 0 7 = 0x33 ∧ 32 = 0x20 ∧ (0 = 0 ∨ 0 = 5) :=
    by unfold Fetches; decide
theorem test_ArithmeticInstructions_mul : Fetches ((advance (0 : CoreId) 0 (tCode 0x023100B3 0x80000000))) (0 : CoreId) 0x023100B3 ∧ 1 =
    bitsOf 0x023100B3 7 5 ∧ 0 = bitsOf 0x023100B3 12 3 ∧ 1 = bitsOf 0x023100B3 25 7 ∧ ((regGet ((tNow (tCode 0x023100B3 0x80000000)).cc 0)
    (bitsOf 0x023100B3 15 5))) = regGet (((advance (0 : CoreId) 0 (tCode 0x023100B3 0x80000000))).cc (0 : CoreId)) (bitsOf 0x023100B3 15 5)
    ∧ ((regGet ((tNow (tCode 0x023100B3 0x80000000)).cc 0) (bitsOf 0x023100B3 20 5))) = regGet (((advance (0 : CoreId) 0 (tCode 0x023100B3
    0x80000000))).cc (0 : CoreId)) (bitsOf 0x023100B3 20 5) ∧ bitsOf 0x023100B3 0 7 = 0x33 ∧ 1 = 1 := by unfold Fetches; decide
theorem test_ArithmeticInstructions_addi : Fetches ((advance (0 : CoreId) 0 (tCode 0xFFF10093 0))) (0 : CoreId) 0xFFF10093 ∧ 1 = bitsOf
    0xFFF10093 7 5 ∧ 0 = bitsOf 0xFFF10093 12 3 ∧ 127 = bitsOf 0xFFF10093 25 7 ∧ ((regGet ((tNow (tCode 0xFFF10093 0)).cc 0) (bitsOf
    0xFFF10093 15 5))) = regGet (((advance (0 : CoreId) 0 (tCode 0xFFF10093 0))).cc (0 : CoreId)) (bitsOf 0xFFF10093 15 5) ∧ ((regGet ((tNow
    (tCode 0xFFF10093 0)).cc 0) (bitsOf 0xFFF10093 20 5))) = regGet (((advance (0 : CoreId) 0 (tCode 0xFFF10093 0))).cc (0 : CoreId))
    (bitsOf 0xFFF10093 20 5) ∧ bitsOf 0xFFF10093 0 7 = 0x13 ∧ 0 ≠ 1 ∧ 0 ≠ 5 := by unfold Fetches; decide
theorem test_ArithmeticInstructions_lui : Fetches ((advance (0 : CoreId) 0 (tCode 0x800000B7 0))) (0 : CoreId) 0x800000B7 ∧ 1 = bitsOf
    0x800000B7 7 5 ∧ 0 = bitsOf 0x800000B7 12 3 ∧ 64 = bitsOf 0x800000B7 25 7 ∧ ((regGet ((tNow (tCode 0x800000B7 0)).cc 0) (bitsOf
    0x800000B7 15 5))) = regGet (((advance (0 : CoreId) 0 (tCode 0x800000B7 0))).cc (0 : CoreId)) (bitsOf 0x800000B7 15 5) ∧ ((regGet ((tNow
    (tCode 0x800000B7 0)).cc 0) (bitsOf 0x800000B7 20 5))) = regGet (((advance (0 : CoreId) 0 (tCode 0x800000B7 0))).cc (0 : CoreId))
    (bitsOf 0x800000B7 20 5) ∧ bitsOf 0x800000B7 0 7 = 0x37 := by unfold Fetches; decide
theorem test_ArithmeticInstructions_auipc : Fetches ((advance (0 : CoreId) 0 (tCode 0x80000097 0))) (0 : CoreId) 0x80000097 ∧ 1 = bitsOf
    0x80000097 7 5 ∧ 0 = bitsOf 0x80000097 12 3 ∧ 64 = bitsOf 0x80000097 25 7 ∧ ((regGet ((tNow (tCode 0x80000097 0)).cc 0) (bitsOf
    0x80000097 15 5))) = regGet (((advance (0 : CoreId) 0 (tCode 0x80000097 0))).cc (0 : CoreId)) (bitsOf 0x80000097 15 5) ∧ ((regGet ((tNow
    (tCode 0x80000097 0)).cc 0) (bitsOf 0x80000097 20 5))) = regGet (((advance (0 : CoreId) 0 (tCode 0x80000097 0))).cc (0 : CoreId))
    (bitsOf 0x80000097 20 5) ∧ bitsOf 0x80000097 0 7 = 0x17 := by unfold Fetches; decide
theorem test_ArithmeticInstructions_srai : Fetches ((advance (0 : CoreId) 0 (tCode 0x41F15093 0x80000000))) (0 : CoreId) 0x41F15093 ∧ 1 =
    bitsOf 0x41F15093 7 5 ∧ 5 = bitsOf 0x41F15093 12 3 ∧ 32 = bitsOf 0x41F15093 25 7 ∧ ((regGet ((tNow (tCode 0x41F15093 0x80000000)).cc 0)
    (bitsOf 0x41F15093 15 5))) = regGet (((advance (0 : CoreId) 0 (tCode 0x41F15093 0x80000000))).cc (0 : CoreId)) (bitsOf 0x41F15093 15 5)
    ∧ ((regGet ((tNow (tCode 0x41F15093 0x80000000)).cc 0) (bitsOf 0x41F15093 20 5))) = regGet (((advance (0 : CoreId) 0 (tCode 0x41F15093
    0x80000000))).cc (0 : CoreId)) (bitsOf 0x41F15093 20 5) ∧ bitsOf 0x41F15093 0 7 = 0x13 ∧ (5 = 1 ∧ 32 = 0 ∨ 5 = 5 ∧ 32 = 0 ∨ 5 = 5 ∧ 32 =
    0x20) := by unfold Fetches; decide
theorem test_ArithmeticInstructions_hartid : Fetches ((advance (0 : CoreId) 0 (tCode 0xF14020F3 0))) (0 : CoreId) 0xF14020F3 ∧ 1 = bitsOf
    0xF14020F3 7 5 ∧ 2 = bitsOf 0xF14020F3 12 3 ∧ 120 = bitsOf 0xF14020F3 25 7 ∧ ((regGet ((tNow (tCode 0xF14020F3 0)).cc 0) (bitsOf
    0xF14020F3 15 5))) = regGet (((advance (0 : CoreId) 0 (tCode 0xF14020F3 0))).cc (0 : CoreId)) (bitsOf 0xF14020F3 15 5) ∧ ((regGet ((tNow
    (tCode 0xF14020F3 0)).cc 0) (bitsOf 0xF14020F3 20 5))) = regGet (((advance (0 : CoreId) 0 (tCode 0xF14020F3 0))).cc (0 : CoreId))
    (bitsOf 0xF14020F3 20 5) ∧ bitsOf 0xF14020F3 0 7 = 0x73 ∧ 2 = 2 ∧ bitsOf 0xF14020F3 15 5 = 0 ∧ bitsOf 0xF14020F3 20 12 = 0xF14 :=
    by unfold Fetches; decide
theorem test_ControlAndMemoryInstructions_jal : Fetches ((advance (0 : CoreId) 0 (tCode 0x008000EF 0))) (0 : CoreId) 0x008000EF ∧ 1 = bitsOf
    0x008000EF 7 5 ∧ 0 = bitsOf 0x008000EF 12 3 ∧ ((regGet ((tNow (tCode 0x008000EF 0)).cc 0) (bitsOf 0x008000EF 15 5))) = regGet (((advance
    (0 : CoreId) 0 (tCode 0x008000EF 0))).cc (0 : CoreId)) (bitsOf 0x008000EF 15 5) ∧ ((regGet ((tNow (tCode 0x008000EF 0)).cc 0) (bitsOf
    0x008000EF 20 5))) = regGet (((advance (0 : CoreId) 0 (tCode 0x008000EF 0))).cc (0 : CoreId)) (bitsOf 0x008000EF 20 5) ∧ bitsOf
    0x008000EF 0 7 = 0x6F := by unfold Fetches; decide
theorem test_ControlAndMemoryInstructions_jalr : Fetches ((advance (0 : CoreId) 0 (tCode 0x000100E7 0xFFFFFFFF))) (0 : CoreId) 0x000100E7 ∧
    1 = bitsOf 0x000100E7 7 5 ∧ 0 = bitsOf 0x000100E7 12 3 ∧ ((regGet ((tNow (tCode 0x000100E7 0xFFFFFFFF)).cc 0) (bitsOf 0x000100E7 15 5)))
    = regGet (((advance (0 : CoreId) 0 (tCode 0x000100E7 0xFFFFFFFF))).cc (0 : CoreId)) (bitsOf 0x000100E7 15 5) ∧ ((regGet ((tNow (tCode
    0x000100E7 0xFFFFFFFF)).cc 0) (bitsOf 0x000100E7 20 5))) = regGet (((advance (0 : CoreId) 0 (tCode 0x000100E7 0xFFFFFFFF))).cc (0 :
    CoreId)) (bitsOf 0x000100E7 20 5) ∧ bitsOf 0x000100E7 0 7 = 0x67 ∧ 0 = 0 := by unfold Fetches; decide
theorem test_ControlAndMemoryInstructions_beq : Fetches ((advance (0 : CoreId) 0 (tCode 0x00310463 0))) (0 : CoreId) 0x00310463 ∧ 8 = bitsOf
    0x00310463 7 5 ∧ 0 = bitsOf 0x00310463 12 3 ∧ ((regGet ((tNow (tCode 0x00310463 0)).cc 0) (bitsOf 0x00310463 15 5))) = regGet (((advance
    (0 : CoreId) 0 (tCode 0x00310463 0))).cc (0 : CoreId)) (bitsOf 0x00310463 15 5) ∧ ((regGet ((tNow (tCode 0x00310463 0)).cc 0) (bitsOf
    0x00310463 20 5))) = regGet (((advance (0 : CoreId) 0 (tCode 0x00310463 0))).cc (0 : CoreId)) (bitsOf 0x00310463 20 5) ∧ bitsOf
    0x00310463 0 7 = 0x63 ∧ branchTaken 0 ((regGet ((tNow (tCode 0x00310463 0)).cc 0) (bitsOf 0x00310463 15 5))) ((regGet ((tNow (tCode
    0x00310463 0)).cc 0) (bitsOf 0x00310463 20 5))) = some true := by unfold Fetches; decide
theorem test_ControlAndMemoryInstructions_lw : Fetches ((advance (0 : CoreId) 0 (tCode 0x00012083 0x1FFFC))) (0 : CoreId) 0x00012083 ∧ 1 =
    bitsOf 0x00012083 7 5 ∧ 2 = bitsOf 0x00012083 12 3 ∧ ((regGet ((tNow (tCode 0x00012083 0x1FFFC)).cc 0) (bitsOf 0x00012083 15 5))) =
    regGet (((advance (0 : CoreId) 0 (tCode 0x00012083 0x1FFFC))).cc (0 : CoreId)) (bitsOf 0x00012083 15 5) ∧ ((regGet ((tNow (tCode
    0x00012083 0x1FFFC)).cc 0) (bitsOf 0x00012083 20 5))) = regGet (((advance (0 : CoreId) 0 (tCode 0x00012083 0x1FFFC))).cc (0 : CoreId))
    (bitsOf 0x00012083 20 5) ∧ bitsOf 0x00012083 0 7 = 0x03 ∧ 2 ≠ 3 ∧ 2 ≤ 5 ∧ 0x1FFFC = (((regGet ((tNow (tCode 0x00012083 0x1FFFC)).cc 0)
    (bitsOf 0x00012083 15 5))) + immI 0x00012083).toNat ∧ 0x1FFFC % 2 ^ (2 % 4) = 0 ∧ 0x10000 ≤ 0x1FFFC ∧ 0x1FFFC < 0x20000 :=
    by unfold Fetches; decide
theorem test_ControlAndMemoryInstructions_sw : Fetches ((advance (0 : CoreId) 0 (tCode 0x00312023 0x1FFFC))) (0 : CoreId) 0x00312023 ∧ 0 =
    bitsOf 0x00312023 7 5 ∧ 2 = bitsOf 0x00312023 12 3 ∧ ((regGet ((tNow (tCode 0x00312023 0x1FFFC)).cc 0) (bitsOf 0x00312023 15 5))) =
    regGet (((advance (0 : CoreId) 0 (tCode 0x00312023 0x1FFFC))).cc (0 : CoreId)) (bitsOf 0x00312023 15 5) ∧ ((regGet ((tNow (tCode
    0x00312023 0x1FFFC)).cc 0) (bitsOf 0x00312023 20 5))) = regGet (((advance (0 : CoreId) 0 (tCode 0x00312023 0x1FFFC))).cc (0 : CoreId))
    (bitsOf 0x00312023 20 5) ∧ bitsOf 0x00312023 0 7 = 0x23 ∧ 2 ≤ 2 ∧ 0x1FFFC = (((regGet ((tNow (tCode 0x00312023 0x1FFFC)).cc 0) (bitsOf
    0x00312023 15 5))) + immS 0x00312023).toNat ∧ 0x1FFFC % 2 ^ 2 = 0 ∧ 0x10000 ≤ 0x1FFFC ∧ 0x1FFFC < 0x20000 := by unfold Fetches; decide
theorem test_ControlAndMemoryInstructions_misaligned : Fetches ((advance (0 : CoreId) 0 (tCode 0x00012083 0x1FFFE))) (0 : CoreId) 0x00012083
    ∧ 1 = bitsOf 0x00012083 7 5 ∧ 2 = bitsOf 0x00012083 12 3 ∧ ((regGet ((tNow (tCode 0x00012083 0x1FFFE)).cc 0) (bitsOf 0x00012083 15 5)))
    = regGet (((advance (0 : CoreId) 0 (tCode 0x00012083 0x1FFFE))).cc (0 : CoreId)) (bitsOf 0x00012083 15 5) ∧ ((regGet ((tNow (tCode
    0x00012083 0x1FFFE)).cc 0) (bitsOf 0x00012083 20 5))) = regGet (((advance (0 : CoreId) 0 (tCode 0x00012083 0x1FFFE))).cc (0 : CoreId))
    (bitsOf 0x00012083 20 5) ∧ bitsOf 0x00012083 0 7 = 0x03 ∧ 2 ≠ 3 ∧ 2 ≤ 5 ∧ 0x1FFFE = (((regGet ((tNow (tCode 0x00012083 0x1FFFE)).cc 0)
    (bitsOf 0x00012083 15 5))) + immI 0x00012083).toNat ∧ 0x1FFFE % 2 ^ (2 % 4) ≠ 0 := by unfold Fetches; decide
theorem test_ControlAndMemoryInstructions_ecall : Fetches ((advance (0 : CoreId) 0 (tCode 0x00000073 0))) (0 : CoreId) 0x00000073 ∧ 0 =
    bitsOf 0x00000073 7 5 ∧ 0 = bitsOf 0x00000073 12 3 ∧ ((regGet ((tNow (tCode 0x00000073 0)).cc 0) (bitsOf 0x00000073 15 5))) = regGet
    (((advance (0 : CoreId) 0 (tCode 0x00000073 0))).cc (0 : CoreId)) (bitsOf 0x00000073 15 5) ∧ ((regGet ((tNow (tCode 0x00000073 0)).cc 0)
    (bitsOf 0x00000073 20 5))) = regGet (((advance (0 : CoreId) 0 (tCode 0x00000073 0))).cc (0 : CoreId)) (bitsOf 0x00000073 20 5) ∧
    0x00000073 = 0x00000073 := by unfold Fetches; decide
theorem test_ControlAndMemoryInstructions_amo : Fetches ((advance (0 : CoreId) 0 (tCode 0x0000002F 0))) (0 : CoreId) 0x0000002F ∧ 0 = bitsOf
    0x0000002F 7 5 ∧ 0 = bitsOf 0x0000002F 12 3 ∧ ((regGet ((tNow (tCode 0x0000002F 0)).cc 0) (bitsOf 0x0000002F 15 5))) = regGet (((advance
    (0 : CoreId) 0 (tCode 0x0000002F 0))).cc (0 : CoreId)) (bitsOf 0x0000002F 15 5) ∧ ((regGet ((tNow (tCode 0x0000002F 0)).cc 0) (bitsOf
    0x0000002F 20 5))) = regGet (((advance (0 : CoreId) 0 (tCode 0x0000002F 0))).cc (0 : CoreId)) (bitsOf 0x0000002F 20 5) ∧ bitsOf
    0x0000002F 0 7 = 0x2F := by unfold Fetches; decide
/-- The copy of core 0's program is under way: all its rows, which read zero, are copied, and the digest of its command is `dg`. -/
def tCopy (dg : BitVec 256) : State := State.reset.onCc 0 fun k => { k with progCopy := some ⟨0, 0, dg, 0, List.replicate 128 0, 0⟩ }
/-- The digest of that program. -/
def tDigest : BitVec 256 := BitVec.ofNat 256 (digestNat (sha256 ((List.replicate 128 (0 : Row)).flatMap Row.bytes)))
theorem test_digest_ne (x : BitVec 256) : x ≠ x + 1 := by intro h; have := congrArg BitVec.toNat h; simp at this; omega
/-- Position 8 of die 0 is fused off. -/
def tFusedOff : State := State.reset.onHub fun h => { h with fuses := { h.fuses with map := vset h.fuses.map 0 8 } }
theorem test_CoreControlInstructions_fused : fusedOff tFusedOff (8 : CoreId) = true := by decide
theorem test_CoreControlInstructions_program : TakesCommand State.reset 2 whoHS tMgr ∧ (1 : BitVec 128).getLsbD (0 : CoreId).val = true ∧
    fusedOff State.reset (0 : CoreId) = false ∧ 0 ≤ 128 ∧ 12160 + 128 + 0 ≤ 12288 ∧ (∀ k, (State.reset.cc k).progCopy = none) :=
    ⟨by unfold TakesCommand; decide, by decide, by decide, by decide, by decide, by decide⟩
theorem test_CoreControlInstructions_digest : ((tNow (tCopy tDigest)).cc 0).progCopy = some (⟨0, 0, tDigest, 0, List.replicate 128 0, 0⟩ :
    ProgCopy) ∧ (⟨0, 0, tDigest, 0, List.replicate 128 0, 0⟩ : ProgCopy).got.length = 128 + (⟨0, 0, tDigest, 0, List.replicate 128 0, 0⟩ :
    ProgCopy).dataRows ∧ fusedOff (tNow (tCopy tDigest)) 0 = false ∧ BitVec.ofNat 256 (digestNat (sha256 ((⟨0, 0, tDigest, 0, List.replicate
    128 0, 0⟩ : ProgCopy).got.flatMap Row.bytes))) = (⟨0, 0, tDigest, 0, List.replicate 128 0, 0⟩ : ProgCopy).digest := ⟨rfl, rfl, rfl, rfl⟩
theorem test_CoreControlInstructions_mismatch : ((tNow (tCopy (tDigest + 1))).cc 0).progCopy = some (⟨0, 0, (tDigest + 1), 0, List.replicate
    128 0, 0⟩ : ProgCopy) ∧ (⟨0, 0, (tDigest + 1), 0, List.replicate 128 0, 0⟩ : ProgCopy).got.length = 128 + (⟨0, 0, (tDigest + 1), 0,
    List.replicate 128 0, 0⟩ : ProgCopy).dataRows ∧ BitVec.ofNat 256 (digestNat (sha256 ((⟨0, 0, (tDigest + 1), 0, List.replicate 128 0, 0⟩
    : ProgCopy).got.flatMap Row.bytes))) ≠ (⟨0, 0, (tDigest + 1), 0, List.replicate 128 0, 0⟩ : ProgCopy).digest :=
    ⟨rfl, rfl, test_digest_ne tDigest⟩
/-- The control core of core 0 runs as `r`, with registers 2 and 3 at `x` and `y`. -/
def tRegs (r : CcRun) (x y : Word) (s : State) : State := s.onCc 0 fun k => { k with run := r, regs := vset (vset k.regs 2 x) 3 y }
/-- Event bit 5 is pending. -/
def tEvent : State := (tRegs .running 32 0 (tSc fun k => { k with launch := some (tLaunch none) })).onCc 0 fun k => { k with events := 32 }
/-- ctl.wfe has waited for the events of mask 63 since control-core cycle 0, and bit 5 was set in that cycle; it is cycle 4. -/
def tWaits : State := (tSc fun k => { k with wall := 4 }).onCc 0 fun k =>
  { k with run := .wfe, wfeRd := 1, wfeMask := 63, events := 32 }
theorem test_CoreControlInstructions_waited : ((advance 0 0 tWaits).cc 0).run = .wfe ∧ ((advance 0 0 tWaits).cc 0).wfeRd < 32 ∧ ccEdge
    ((advance 0 0 tWaits).sc 0) = true ∧ wfeDue (advance 0 0 tWaits) 0 = some (ccCyc ((advance 0 0 tWaits).sc 0)) ∧ dispatches (advance 0 0
    tWaits) 0 = false := by decide
theorem test_CoreControlInstructions_wfe : (ccIssues (advance 0 0 (tEvent.onSc 0 fun k => { k with wall := 4 })) 0 = true) ∧ (((advance 0 0
    (tEvent.onSc 0 fun k => { k with wall := 4 })).cc 0).run = .running) ∧ ((advance 0 0 (tEvent.onSc 0 fun k => { k with wall := 4 })).reg
    0 (2 : Reg) < 64) ∧ (eventsSeen (advance 0 0 (tEvent.onSc 0 fun k => { k with wall := 4 })) 0 &&& BitVec.ofNat 6 ((advance 0 0
    (tEvent.onSc 0 fun k => { k with wall := 4 })).reg 0 (2 : Reg)) ≠ 0) ∧ (dispatches (advance 0 0 (tEvent.onSc 0 fun k =>
    { k with wall := 4 })) 0 = false) := by decide
theorem test_CoreControlInstructions_waits : ccIssues (advance 0 0 (tRegs .running 63 0 State.reset)) 0 = true ∧ ((advance 0 0 (tRegs
    .running 63 0 State.reset)).cc 0).run = .running ∧ (advance 0 0 (tRegs .running 63 0 State.reset)).reg 0 (2 : Reg) < 64 ∧ eventsSeen
    (advance 0 0 (tRegs .running 63 0 State.reset)) 0 &&& BitVec.ofNat 6 ((advance 0 0 (tRegs .running 63 0 State.reset)).reg 0 (2 : Reg)) =
    0 := by decide
theorem test_CoreControlInstructions_hret : ccIssues (advance 0 0 (tRegs .handler 0 0 State.reset)) 0 = true ∧ ((advance 0 0 (tRegs .handler
    0 0 State.reset)).cc 0).run = .handler := by decide
theorem test_CoreControlInstructions_fclr : (ccIssues (advance 0 0 (tRegs .running 0 0 (tSc fun k => { k with run := .faulted }))) 0 = true)
    ∧ (((advance 0 0 (tRegs .running 0 0 (tSc fun k => { k with run := .faulted }))).sc 0).run = .faulted) ∧ (((advance 0 0 (tRegs .running
    0 0 (tSc fun k => { k with run := .faulted }))).sc 0).launch = none) := by decide
theorem test_CoreControlInstructions_sum : ccIssues (advance 0 0 (tRegs .running 7 0 State.reset)) 0 = true ∧ (advance 0 0 (tRegs .running 7
    0 State.reset)).reg 0 (2 : Reg) < 8 := by decide
theorem test_CoreControlInstructions_stkrd : ccIssues (advance 0 0 (tRegs .running 47 0 State.reset)) 0 = true ∧ (advance 0 0 (tRegs
    .running 47 0 State.reset)).reg 0 (2 : Reg) < 48 := by decide
theorem test_CoreControlInstructions_stkadd : ccIssues (advance 0 0 (tRegs .running 47 255 State.reset)) 0 = true ∧ (advance 0 0 (tRegs
    .running 47 255 State.reset)).reg 0 (2 : Reg) < 48 ∧ 1 ≤ (advance 0 0 (tRegs .running 47 255 State.reset)).reg 0 (3 : Reg) ∧ (advance 0
    0 (tRegs .running 47 255 State.reset)).reg 0 (3 : Reg) ≤ 255 ∧ (debugMode (advance 0 0 (tRegs .running 47 255 State.reset)) 0 = true →
    (vget ((advance 0 0 (tRegs .running 47 255 State.reset)).sc 0).stk 0 ((advance 0 0 (tRegs .running 47 255 State.reset)).reg 0 (2 :
    Reg))).toNat + (advance 0 0 (tRegs .running 47 255 State.reset)).reg 0 (3 : Reg) ≤ 255) := by decide
theorem test_CoreControlInstructions_stkclr : ccIssues (advance 0 0 (tRegs .running 47 0 State.reset)) 0 = true ∧ (advance 0 0 (tRegs
    .running 47 0 State.reset)).reg 0 (2 : Reg) < 48 ∧ ((advance 0 0 (tRegs .running 47 0 State.reset)).sc 0).strip = none ∧ ((advance 0 0
    (tRegs .running 47 0 State.reset)).sc 0).launch = none := by decide
theorem test_CoreControlInstructions_refused : ccIssues (advance 0 0 (tRegs .running 47 0 (tRun 0))) 0 = true ∧ (advance 0 0 (tRegs .running
    47 0 (tRun 0))).reg 0 (2 : Reg) < 48 ∧ (((advance 0 0 (tRegs .running 47 0 (tRun 0))).sc 0).strip.isSome ∨ ((advance 0 0 (tRegs .running
    47 0 (tRun 0))).sc 0).launch.isSome) := by decide
/-- Core 0 waits for its die's allocator, and handle 63 is free or in use. -/
def tAlloc (hres : IWord) : State :=
  ((State.reset.onM 0 fun m => { m with handles := vset m.handles 63 hres }).onCc 0 fun k => { k with halloc := some (1, 63, 0, 1, false) }).onDie 0
    fun k => { k with allocQ := [⟨0, 0, none⟩], ctxGroups := Vector.replicate 8 1 }
theorem test_HandleInstructions_hset : ccIssues (advance 0 0 (tRegs .running 63 0x1FFF0 State.reset)) 0 = true ∧ (advance 0 0 (tRegs
    .running 63 0x1FFF0 State.reset)).reg 0 (2 : Reg) < 64 ∧ (advance 0 0 (tRegs .running 63 0x1FFF0 State.reset)).reg 0 (3 : Reg) % 16 = 0
    ∧ 0x10000 ≤ (advance 0 0 (tRegs .running 63 0x1FFF0 State.reset)).reg 0 (3 : Reg) ∧ (advance 0 0 (tRegs .running 63 0x1FFF0
    State.reset)).reg 0 (3 : Reg) < 0x20000 := by decide
theorem test_HandleInstructions_hrel : ccIssues (advance 0 0 (tRegs .running 63 0 State.reset)) 0 = true ∧ (advance 0 0 (tRegs .running 63 0
    State.reset)).reg 0 (2 : Reg) < 64 ∧ ((advance 0 0 (tRegs .running 63 0 State.reset)).die (dieOf 0)).allocQ = [] := by decide
theorem test_HandleInstructions_freed : (ccIssues (advance 0 0 ((tRegs .running 63 0 State.reset).onDie 0 fun k =>
    { k with allocQ := [⟨1, 0, none⟩] })) 0 = true) ∧ ((advance 0 0 ((tRegs .running 63 0 State.reset).onDie 0 fun k =>
    { k with allocQ := [⟨1, 0, none⟩] })).reg 0 (2 : Reg) < 64) := by decide
theorem test_HandleInstructions_halloc : ccIssues (advance 0 0 (tRegs .running 63 1 State.reset)) 0 = true ∧ (advance 0 0 (tRegs .running 63
    1 State.reset)).reg 0 (2 : Reg) < 1024 ∧ bitsOf ((advance 0 0 (tRegs .running 63 1 State.reset)).reg 0 (2 : Reg)) 6 2 = 0 ∧ bitsOf
    ((advance 0 0 (tRegs .running 63 1 State.reset)).reg 0 (3 : Reg)) 0 16 ≠ 0 ∧ bitsOf ((advance 0 0 (tRegs .running 63 1 State.reset)).reg
    0 (3 : Reg)) 16 15 = 0 := by decide
theorem test_HandleInstructions_answer : (((serve (0 : DieId) (tAlloc 48))).die (0 : DieId)).allocQ = ⟨0, 0, none⟩ :: [] ∧ (((advance 0 0
    ((serve (0 : DieId) (tAlloc 48))))).cc 0).halloc = some (1, 63, (0 : Fin 4), 1, false) ∧ 63 < 64 ∧ hRes (handle ((advance 0 0 ((serve (0
    : DieId) (tAlloc 48))))) 0 63) = 3 ∧ findExtent (((advance 0 0 ((serve (0 : DieId) (tAlloc 48))))).die (0 : DieId)) (slotCtx ((advance 0
    0 ((serve (0 : DieId) (tAlloc 48))))) 0 (0 : Fin 4).val) 1 = some 0 := by decide
theorem test_HandleInstructions_in_use : (((serve (0 : DieId) (tAlloc 0))).die (0 : DieId)).allocQ = ⟨0, 0, none⟩ :: [] ∧ (((advance 0 0
    ((serve (0 : DieId) (tAlloc 0))))).cc 0).halloc = some (1, 63, (0 : Fin 4), 1, false) ∧ ((hRes (handle ((advance 0 0 ((serve (0 : DieId)
    (tAlloc 0))))) 0 63) ≠ 3 ∧ 2 = 2) ∨ (hRes (handle ((advance 0 0 ((serve (0 : DieId) (tAlloc 0))))) 0 63) = 3 ∧ 2 = 1 ∧ allocFails
    ((advance 0 0 ((serve (0 : DieId) (tAlloc 0))))) (0 : DieId) (slotCtx ((advance 0 0 ((serve (0 : DieId) (tAlloc 0))))) 0 (0 : Fin
    4).val) 1 = true)) := by decide
theorem test_HandleInstructions_no_extent : ((((serve (0 : DieId) ((tAlloc 48).onDie 0 fun k =>
    { k with ctxGroups := Vector.replicate 8 0 }))).die (0 : DieId)).allocQ = ⟨0, 0, none⟩ :: []) ∧ ((((advance 0 0 ((serve (0 : DieId)
    ((tAlloc 48).onDie 0 fun k => { k with ctxGroups := Vector.replicate 8 0 }))))).cc 0).halloc = some (1, 63, (0 : Fin 4), 1, false)) ∧
    ((hRes (handle ((advance 0 0 ((serve (0 : DieId) ((tAlloc 48).onDie 0 fun k => { k with ctxGroups := Vector.replicate 8 0 }))))) 0 63) ≠
    3 ∧ 1 = 2) ∨ (hRes (handle ((advance 0 0 ((serve (0 : DieId) ((tAlloc 48).onDie 0 fun k =>
    { k with ctxGroups := Vector.replicate 8 0 }))))) 0 63) = 3 ∧ 1 = 1 ∧ allocFails ((advance 0 0 ((serve (0 : DieId) ((tAlloc 48).onDie 0
    fun k => { k with ctxGroups := Vector.replicate 8 0 }))))) (0 : DieId) (slotCtx ((advance 0 0 ((serve (0 : DieId) ((tAlloc 48).onDie 0
    fun k => { k with ctxGroups := Vector.replicate 8 0 }))))) 0 (0 : Fin 4).val) 1 = true)) := by decide
/-- A row window access was issued in cycle 0, in wall cycle 1. -/
def tWin (write : Bool) : State := (tSc fun k => { k with wall := 1 }).onCc 0 fun k => { k with win := 1, winOp := some ⟨write, 12287, 1, 0⟩ }
/-- The fault ring holds one record. -/
def tRing : State := (tRegs .running 0x1FFC0 0 State.reset).onCc 0 fun k => { k with ring := [1] }
/-- The control core waits, and a message of class 255 has landed in ring 15, which dispatches it. -/
def tHandler : State := (tSc fun k => { k with wall := 4 }).onCc 0 fun k =>
  { k with run := .wfe, hdlEn := 0x8000, hdlTable := vset k.hdlTable 255 0x101,
           rings := vset k.rings 15 { Ring.reset with state := .opened, size := 8, landed := [⟨0, (0 : Row).put 4 3 0xFF0000, 0⟩] } }
theorem test_WindowRingAndHandlers_wrd : ccIssues (advance 0 0 (tRegs .running 12287 0 State.reset)) 0 = true ∧ (advance 0 0 (tRegs .running
    12287 0 State.reset)).reg 0 (2 : Reg) < 12288 := by decide
theorem test_WindowRingAndHandlers_wwr : ccIssues (advance 0 0 (tRegs .running 12287 0 State.reset)) 0 = true ∧ (advance 0 0 (tRegs .running
    12287 0 State.reset)).reg 0 (2 : Reg) < 12288 := by decide
theorem test_WindowRingAndHandlers_read : ((advance 0 0 (tWin false)).cc 0).winOp = some (⟨false, 12287, 1, 0⟩ : WinOp) ∧ first7 (advance 0
    0 (tWin false)) 0 3 (⟨false, 12287, 1, 0⟩ : WinOp).row ((⟨false, 12287, 1, 0⟩ : WinOp).issued + 1) = true ∧ (⟨false, 12287, 1, 0⟩ :
    WinOp).write = false := by decide
theorem test_WindowRingAndHandlers_write : ((advance 0 0 (tWin true)).cc 0).winOp = some (⟨true, 12287, 1, 0⟩ : WinOp) ∧ first7 (advance 0 0
    (tWin true)) 0 3 (⟨true, 12287, 1, 0⟩ : WinOp).row ((⟨true, 12287, 1, 0⟩ : WinOp).issued + 1) = true ∧ (⟨true, 12287, 1, 0⟩ :
    WinOp).write = true ∧ (⟨true, 12287, 1, 0⟩ : WinOp).row < 12288 ∧ lockedRow (advance 0 0 (tWin true)) (plotAddr 0 (⟨true, 12287, 1, 0⟩ :
    WinOp).row) = false := by decide
theorem test_WindowRingAndHandlers_empty : ccIssues (advance 0 0 (tRegs .running 0 0 State.reset)) 0 = true ∧ (advance 0 0 (tRegs .running 0
    0 State.reset)).reg 0 (2 : Reg) % 64 = 0 ∧ ((advance 0 0 (tRegs .running 0 0 State.reset)).cc 0).ring = [] := by decide
theorem test_WindowRingAndHandlers_pop : ccIssues (advance 0 0 tRing) 0 = true ∧ (advance 0 0 tRing).reg 0 (2 : Reg) % 64 = 0 ∧ 0x10000 ≤
    (advance 0 0 tRing).reg 0 (2 : Reg) ∧ (advance 0 0 tRing).reg 0 (2 : Reg) < 0x20000 ∧ ((advance 0 0 tRing).cc 0).ring = (1 : BitVec 512)
    :: ([] : List (BitVec 512)) ∧ ([] : List (BitVec 512)).length < 2 ^ 31 := by decide
theorem test_WindowRingAndHandlers_dispatch : ((advance 0 0 tHandler).cc 0).run = .wfe ∧ mayDispatch (advance 0 0 tHandler) 0 = true ∧
    dispatchDue (advance 0 0 tHandler) 0 = some (ccCyc ((advance 0 0 tHandler).sc 0)) ∧ dispatchPick (advance 0 0 tHandler) 0 = some (15,
    (⟨0, (0 : Row).put 4 3 0xFF0000, 0⟩ : Landed)) ∧ 15 < 16 ∧ (hdlEntry ((advance 0 0 tHandler).cc 0) (mhTag (⟨0, (0 : Row).put 4 3
    0xFF0000, 0⟩ : Landed).hdr / 2 ^ 16)).getLsbD 0 = true := by decide

/-! ### Messages and rings -/
/-- A message header to core 0, ring 15, of `len` rows from core 5, SEQ 1, with ANY_EPOCH. -/
def tMsg (len : Nat) : Row :=
  ((((((((0 : Row).put 0 2 0xFFFF).put 3 1 15).put 7 1 len).put 8 1 2).put 0x0C 2 0xFFFF).put 0x0E 1 5).put 0x10 2 1)
/-- Row `k` of that message on its way, with `d` as its data. -/
def tRow (k : Nat) (d : Row) : Item := ⟨.msgRow, 1, 0xFFFF, 0, 0xFFFF, 5, 0, 1, k, 2, 0, false, d⟩
/-- Ring 15 of core 0 is open with `size` rows and `spill` spill rows, and `net` is on its way. -/
def tInbox (size spill : Nat) (f : Ring → Ring) (net : List Item) : State :=
  { State.reset.onCc 0 fun k => { k with rings := vset k.rings 15 (f { Ring.reset with state := .opened, size := size, spillSize := spill }) } with net := net }
/-- Core 0 has the sends `l`, in wall cycle 1. -/
def tSends (l : List Send) : State := (tSc fun k => { k with wall := 1 }).onCc 0 fun k => { k with sends := l }
/-- A send of Plot row 0, of which nothing has been read. -/
def tSend : Send := ⟨0, 0, 0, .queued, [], [], 0, false, none, 0⟩
/-- Slot 0 of core 0 is valid, its Plot row 0 holds a header, and its send is due. -/
def tSending : State := writeRow ((tSends [tSend]).onSc 0 fun k => { k with ctxCfg := 0x10, wall := 7 }) 0 (tMsg 2)
theorem test_MessagesAreSent_send : ccIssues (advance 0 0 (tRegs .running 12287 0 State.reset)) 0 = true ∧ (advance 0 0 (tRegs .running
    12287 0 State.reset)).reg 0 (2 : Reg) < 12288 ∧ ((advance 0 0 (tRegs .running 12287 0 State.reset)).cc 0).sends.length < 4 := by decide
theorem test_MessagesAreSent_full : (ccIssues (advance 0 0 (tRegs .running 12287 0 (((tSends (List.replicate 4 tSend)).onSc 0 fun k =>
    { k with wall := 0 })))) 0 = true) ∧ ((advance 0 0 (tRegs .running 12287 0 (((tSends (List.replicate 4 tSend)).onSc 0 fun k =>
    { k with wall := 0 })))).reg 0 (2 : Reg) < 12288) ∧ (4 ≤ ((advance 0 0 (tRegs .running 12287 0 (((tSends (List.replicate 4 tSend)).onSc
    0 fun k => { k with wall := 0 })))).cc 0).sends.length) := by decide
theorem test_MessagesAreSent_read : sendPick ((advance (0 : CoreId) 0 tSending).cc (0 : CoreId)).sends = some (0, tSend) ∧ ((advance (0 :
    CoreId) 0 tSending).cc (0 : CoreId)).sends = [tSend] ∧ tSend.hdr = 0 ∧ tSend.k = 0 ∧ tSend.again = none ∧ tSend.rows = [] ∧ ((advance (0
    : CoreId) 0 tSending).cc (0 : CoreId)).ending = [] ∧ tSend.row < 12288 ∧ first7 (advance (0 : CoreId) 0 tSending) (0 : CoreId) 4
    tSend.row (sendFrom ((advance (0 : CoreId) 0 tSending).cc (0 : CoreId)) tSend) = true ∧ (readRow tSending 0) = readRow (advance (0 :
    CoreId) 0 tSending) (plotAddr (0 : CoreId) tSend.row) ∧ (stampHdr (readRow tSending 0) 0xFFFF 0 0 0) = stampHdr (readRow tSending 0)
    (advance (0 : CoreId) 0 tSending).hub.position (0 : CoreId).val (slotCtx (advance (0 : CoreId) 0 tSending) (0 : CoreId) (mhSlot (readRow
    tSending 0))) (vget ((advance (0 : CoreId) 0 tSending).cc (0 : CoreId)).msgSeq 0 (mhSlot (readRow tSending 0))) ∧ mhMalformed (stampHdr
    (readRow tSending 0) 0xFFFF 0 0 0) (0 : CoreId).val (slotValid (advance (0 : CoreId) 0 tSending) (0 : CoreId) (mhSlot (readRow tSending
    0))) = false ∧ mhOrdered (stampHdr (readRow tSending 0) 0xFFFF 0 0 0) = false ∧ mhDest (advance (0 : CoreId) 0 tSending) (stampHdr
    (readRow tSending 0) 0xFFFF 0 0 0) = (advance (0 : CoreId) 0 tSending).hub.position ∧ mhLen (stampHdr (readRow tSending 0) 0xFFFF 0 0 0)
    ≠ 1 := by decide
theorem test_MessagesAreSent_ordered : ((advance 0 0 (tSends [{ tSend with hdr := tMsg 2, rows := [0, 1] }])).cc 0).sends[0]? = some
    ({ tSend with hdr := tMsg 2, rows := [0, 1] } : Send) ∧ ({ tSend with hdr := tMsg 2, rows := [0, 1] } : Send).ordered = [] ∧
    ({ tSend with hdr := tMsg 2, rows := [0, 1] } : Send).rows ≠ [] ∧ ({ tSend with hdr := tMsg 2, rows := [0, 1] } : Send).freeAt <
    ((advance 0 0 (tSends [{ tSend with hdr := tMsg 2, rows := [0, 1] }])).sc 0).wall ∧ behindEarlier (advance 0 0 (tSends
    [{ tSend with hdr := tMsg 2, rows := [0, 1] }])) (sendsBefore (advance 0 0 (tSends [{ tSend with hdr := tMsg 2, rows := [0, 1] }])) 0 0)
    ({ tSend with hdr := tMsg 2, rows := [0, 1] } : Send) = false ∧ mhDest (advance 0 0 (tSends
    [{ tSend with hdr := tMsg 2, rows := [0, 1] }])) ({ tSend with hdr := tMsg 2, rows := [0, 1] } : Send).hdr = (advance 0 0 (tSends
    [{ tSend with hdr := tMsg 2, rows := [0, 1] }])).hub.position := by decide
theorem test_MessagesArriveAndLand_header : itemHere ((advance (0 : CoreId) 0 (tInbox 8 0 id [tRow 0 (tMsg 2)]))) .msgRow 0 = some (tRow 0
    (tMsg 2)) ∧ (tRow 0 (tMsg 2)).k = 0 ∧ firstOfPath ((advance (0 : CoreId) 0 (tInbox 8 0 id [tRow 0 (tMsg 2)]))) 0 (tRow 0 (tMsg 2)) =
    true ∧ (tRow 0 (tMsg 2)).destCore = (0 : CoreId).val ∧ (((advance (0 : CoreId) 0 (tInbox 8 0 id [tRow 0 (tMsg 2)]))).cm (0 :
    CoreId)).land.length < 64 ∧ (15 : RingId) = Fin.ofNat 16 (mhRing (tRow 0 (tMsg 2)).data) ∧ headerBounce ((advance (0 : CoreId) 0 (tInbox
    8 0 id [tRow 0 (tMsg 2)]))) (0 : CoreId) (tRow 0 (tMsg 2)).data = none ∧ headerTurn ((advance (0 : CoreId) 0 (tInbox 8 0 id [tRow 0
    (tMsg 2)]))) (0 : CoreId) (15 : RingId).val (inputRank ((advance (0 : CoreId) 0 (tInbox 8 0 id [tRow 0 (tMsg 2)]))).hub.position (dieOf
    (0 : CoreId)).val (posOf (0 : CoreId)) (tRow 0 (tMsg 2)).srcPos (tRow 0 (tMsg 2)).srcCore) = true ∧ (∀ m, m ∈ (((advance (0 : CoreId) 0
    (tInbox 8 0 id [tRow 0 (tMsg 2)]))).ring (0 : CoreId) (15 : RingId).val).msgs → m.wait = false) ∧ (((advance (0 : CoreId) 0 (tInbox 8 0
    id [tRow 0 (tMsg 2)]))).ring (0 : CoreId) (15 : RingId).val).spill = [] ∧ (((advance (0 : CoreId) 0 (tInbox 8 0 id [tRow 0 (tMsg
    2)]))).ring (0 : CoreId) (15 : RingId).val).hold = [] ∧ (((advance (0 : CoreId) 0 (tInbox 8 0 id [tRow 0 (tMsg 2)]))).ring (0 : CoreId)
    (15 : RingId).val).grantAt ≠ some (((advance (0 : CoreId) 0 (tInbox 8 0 id [tRow 0 (tMsg 2)]))).sc (0 : CoreId)).wall ∧ (((advance (0 :
    CoreId) 0 (tInbox 8 0 id [tRow 0 (tMsg 2)]))).ring (0 : CoreId) (15 : RingId).val).fit (((advance (0 : CoreId) 0 (tInbox 8 0 id [tRow 0
    (tMsg 2)]))).sc (0 : CoreId)).wall (mhLen (tRow 0 (tMsg 2)).data) = some (false, 0) := by decide
theorem test_MessagesArriveAndLand_bounce : itemHere ((advance (0 : CoreId) 0 (tInbox 8 0 id [tRow 0 (tMsg 8)]))) .msgRow 0 = some (tRow 0
    (tMsg 8)) ∧ (tRow 0 (tMsg 8)).k = 0 ∧ firstOfPath ((advance (0 : CoreId) 0 (tInbox 8 0 id [tRow 0 (tMsg 8)]))) 0 (tRow 0 (tMsg 8)) =
    true ∧ (tRow 0 (tMsg 8)).destCore = (0 : CoreId).val ∧ (15 : RingId) = Fin.ofNat 16 (mhRing (tRow 0 (tMsg 8)).data) ∧ (∀ m, m ∈
    (((advance (0 : CoreId) 0 (tInbox 8 0 id [tRow 0 (tMsg 8)]))).ring (0 : CoreId) (15 : RingId).val).msgs → m.wait = false) ∧ (∀ m, m ∈
    (((advance (0 : CoreId) 0 (tInbox 8 0 id [tRow 0 (tMsg 8)]))).ring (0 : CoreId) (15 : RingId).val).spill → m.wait = false) ∧ headerTurn
    ((advance (0 : CoreId) 0 (tInbox 8 0 id [tRow 0 (tMsg 8)]))) (0 : CoreId) (15 : RingId).val (inputRank ((advance (0 : CoreId) 0 (tInbox
    8 0 id [tRow 0 (tMsg 8)]))).hub.position (dieOf (0 : CoreId)).val (posOf (0 : CoreId)) (tRow 0 (tMsg 8)).srcPos (tRow 0 (tMsg
    8)).srcCore) = true ∧ headerBounce ((advance (0 : CoreId) 0 (tInbox 8 0 id [tRow 0 (tMsg 8)]))) (0 : CoreId) (tRow 0 (tMsg 8)).data =
    some 5 := by decide
/-- A placed message at row `at_` of ring 15, of which `got` of two rows have landed. -/
def tPlaced (got : Nat) : RMsg := ⟨6, 2, got, tMsg 2, false, false, [], false, false, 0, 0⟩
/-- The ring holds it. -/
def tHolds (got : Nat) (net : List Item) : State := tInbox 8 0 (fun g => { g with wptr := 6, resv := 0, rptr := 6, msgs := [tPlaced got] }) net
theorem test_MessagesArriveAndLand_row : itemHere ((advance (0 : CoreId) 0 (tHolds 1 [tRow 1 5]))) .msgRow 0 = some (tRow 1 5) ∧ (tRow 1
    5).k ≠ 0 ∧ (tRow 1 5).destCore = (0 : CoreId).val ∧ firstOfPath ((advance (0 : CoreId) 0 (tHolds 1 [tRow 1 5]))) 0 (tRow 1 5) = true ∧
    (((advance (0 : CoreId) 0 (tHolds 1 [tRow 1 5]))).cm (0 : CoreId)).land.length < 64 ∧ (∀ k : RingId, k ≠ (15 : RingId) → (((advance (0 :
    CoreId) 0 (tHolds 1 [tRow 1 5]))).ring (0 : CoreId) k.val).msgs = [] ∧ (((advance (0 : CoreId) 0 (tHolds 1 [tRow 1 5]))).ring (0 :
    CoreId) k.val).spill = []) ∧ ((((advance (0 : CoreId) 0 (tHolds 1 [tRow 1 5]))).ring (0 : CoreId) (15 : RingId).val).msgs.find? (fun m₀
    => !m₀.wait && keyed (tRow 1 5).srcPos (tRow 1 5).srcCore (tRow 1 5).row m₀) = some (tPlaced 1)) := by decide
theorem test_MessagesArriveAndLand_landed : (((advance (0 : CoreId) 0 (tHolds 2 []))).ring (0 : CoreId) (15 : RingId).val).msgs = (tPlaced
    2) :: [] ∧ (tPlaced 2).filler = false ∧ (tPlaced 2).void = false ∧ (tPlaced 2).wait = false ∧ (tPlaced 2).got = (tPlaced 2).len ∧
    ((tPlaced 2).cyc = (((advance (0 : CoreId) 0 (tHolds 2 []))).sc (0 : CoreId)).wall ∨ (((advance (0 : CoreId) 0 (tHolds 2 []))).ring (0 :
    CoreId) (15 : RingId).val).passAt = some (((advance (0 : CoreId) 0 (tHolds 2 []))).sc (0 : CoreId)).wall) ∧ ((((advance (0 : CoreId) 0
    (tHolds 2 []))).ring (0 : CoreId) (15 : RingId).val).stkEn = true → (((advance (0 : CoreId) 0 (tHolds 2 []))).ring (0 : CoreId) (15 :
    RingId).val).stk < 48 ∧ (debugMode ((advance (0 : CoreId) 0 (tHolds 2 []))) (0 : CoreId) = true → (vget (((advance (0 : CoreId) 0
    (tHolds 2 []))).sc (0 : CoreId)).stk 0 (((advance (0 : CoreId) 0 (tHolds 2 []))).ring (0 : CoreId) (15 : RingId).val).stk).toNat + 1 ≤
    255)) := by decide
/-- A spilled message of one row at row 0 of ring 15's area, written or not. -/
def tSpilled (done : Bool) : RMsg := ⟨0, 1, if done then 1 else 0, tMsg 1, false, false, if done then [] else [5], done, false, 0, 0⟩
/-- A grant of core 5's message has arrived for the one send of core 0, whose destination is core 5. -/
def tGrant : State := { tSends [{ tSend with hdr := (tMsg 2).put 2 1 5, state := .sent }] with net := [⟨.grant, 1, 0xFFFF, 0, 0xFFFF, 5, 0, 1, 0, 2, 0, true, 0⟩] }
theorem test_SpillHoldAndGrant_spill : (itemHere ((advance (0 : CoreId) 0 ((tInbox 8 8 (fun g => { g with resv := 6, rptr := 0 }) [tRow 0
    (tMsg 2)])))) .msgRow 0 = some (tRow 0 (tMsg 2))) ∧ (tRow 0 (tMsg 2)).k = 0 ∧ (firstOfPath ((advance (0 : CoreId) 0 ((tInbox 8 8 (fun g
    => { g with resv := 6, rptr := 0 }) [tRow 0 (tMsg 2)])))) 0 (tRow 0 (tMsg 2)) = true) ∧ (tRow 0 (tMsg 2)).destCore = (0 : CoreId).val ∧
    (15 : RingId) = Fin.ofNat 16 (mhRing (tRow 0 (tMsg 2)).data) ∧ (headerBounce ((advance (0 : CoreId) 0 ((tInbox 8 8 (fun g =>
    { g with resv := 6, rptr := 0 }) [tRow 0 (tMsg 2)])))) (0 : CoreId) (tRow 0 (tMsg 2)).data = none) ∧ (headerTurn ((advance (0 : CoreId)
    0 ((tInbox 8 8 (fun g => { g with resv := 6, rptr := 0 }) [tRow 0 (tMsg 2)])))) (0 : CoreId) (15 : RingId).val (inputRank ((advance (0 :
    CoreId) 0 ((tInbox 8 8 (fun g => { g with resv := 6, rptr := 0 }) [tRow 0 (tMsg 2)])))).hub.position (dieOf (0 : CoreId)).val (posOf (0
    : CoreId)) (tRow 0 (tMsg 2)).srcPos (tRow 0 (tMsg 2)).srcCore) = true) ∧ (∀ m, m ∈ (((advance (0 : CoreId) 0 ((tInbox 8 8 (fun g =>
    { g with resv := 6, rptr := 0 }) [tRow 0 (tMsg 2)])))).ring (0 : CoreId) (15 : RingId).val).msgs → m.wait = false) ∧ ((((advance (0 :
    CoreId) 0 ((tInbox 8 8 (fun g => { g with resv := 6, rptr := 0 }) [tRow 0 (tMsg 2)])))).ring (0 : CoreId) (15 : RingId).val).spill = [])
    ∧ ((((advance (0 : CoreId) 0 ((tInbox 8 8 (fun g => { g with resv := 6, rptr := 0 }) [tRow 0 (tMsg 2)])))).ring (0 : CoreId) (15 :
    RingId).val).hold = []) ∧ ((((advance (0 : CoreId) 0 ((tInbox 8 8 (fun g => { g with resv := 6, rptr := 0 }) [tRow 0 (tMsg 2)])))).ring
    (0 : CoreId) (15 : RingId).val).grantAt ≠ some (((advance (0 : CoreId) 0 ((tInbox 8 8 (fun g => { g with resv := 6, rptr := 0 }) [tRow 0
    (tMsg 2)])))).sc (0 : CoreId)).wall) ∧ ((((advance (0 : CoreId) 0 ((tInbox 8 8 (fun g => { g with resv := 6, rptr := 0 }) [tRow 0 (tMsg
    2)])))).ring (0 : CoreId) (15 : RingId).val).fit (((advance (0 : CoreId) 0 ((tInbox 8 8 (fun g => { g with resv := 6, rptr := 0 }) [tRow
    0 (tMsg 2)])))).sc (0 : CoreId)).wall (mhLen (tRow 0 (tMsg 2)).data) = none) ∧ ((((advance (0 : CoreId) 0 ((tInbox 8 8 (fun g =>
    { g with resv := 6, rptr := 0 }) [tRow 0 (tMsg 2)])))).ring (0 : CoreId) (15 : RingId).val).spillFit (mhLen (tRow 0 (tMsg 2)).data) =
    some (false, 0)) := by decide
theorem test_SpillHoldAndGrant_hold : (itemHere ((advance (0 : CoreId) 0 ((tInbox 8 0 (fun g => { g with resv := 6, rptr := 0 }) [tRow 0
    (tMsg 2)])))) .msgRow 0 = some (tRow 0 (tMsg 2))) ∧ (tRow 0 (tMsg 2)).k = 0 ∧ (firstOfPath ((advance (0 : CoreId) 0 ((tInbox 8 0 (fun g
    => { g with resv := 6, rptr := 0 }) [tRow 0 (tMsg 2)])))) 0 (tRow 0 (tMsg 2)) = true) ∧ (tRow 0 (tMsg 2)).destCore = (0 : CoreId).val ∧
    (15 : RingId) = Fin.ofNat 16 (mhRing (tRow 0 (tMsg 2)).data) ∧ (headerBounce ((advance (0 : CoreId) 0 ((tInbox 8 0 (fun g =>
    { g with resv := 6, rptr := 0 }) [tRow 0 (tMsg 2)])))) (0 : CoreId) (tRow 0 (tMsg 2)).data = none) ∧ (headerTurn ((advance (0 : CoreId)
    0 ((tInbox 8 0 (fun g => { g with resv := 6, rptr := 0 }) [tRow 0 (tMsg 2)])))) (0 : CoreId) (15 : RingId).val (inputRank ((advance (0 :
    CoreId) 0 ((tInbox 8 0 (fun g => { g with resv := 6, rptr := 0 }) [tRow 0 (tMsg 2)])))).hub.position (dieOf (0 : CoreId)).val (posOf (0
    : CoreId)) (tRow 0 (tMsg 2)).srcPos (tRow 0 (tMsg 2)).srcCore) = true) ∧ (∀ m, m ∈ (((advance (0 : CoreId) 0 ((tInbox 8 0 (fun g =>
    { g with resv := 6, rptr := 0 }) [tRow 0 (tMsg 2)])))).ring (0 : CoreId) (15 : RingId).val).msgs → m.wait = false) ∧ ((((advance (0 :
    CoreId) 0 ((tInbox 8 0 (fun g => { g with resv := 6, rptr := 0 }) [tRow 0 (tMsg 2)])))).ring (0 : CoreId) (15 : RingId).val).spill = [])
    ∧ ((((advance (0 : CoreId) 0 ((tInbox 8 0 (fun g => { g with resv := 6, rptr := 0 }) [tRow 0 (tMsg 2)])))).ring (0 : CoreId) (15 :
    RingId).val).hold = []) ∧ ((((advance (0 : CoreId) 0 ((tInbox 8 0 (fun g => { g with resv := 6, rptr := 0 }) [tRow 0 (tMsg 2)])))).ring
    (0 : CoreId) (15 : RingId).val).grantAt ≠ some (((advance (0 : CoreId) 0 ((tInbox 8 0 (fun g => { g with resv := 6, rptr := 0 }) [tRow 0
    (tMsg 2)])))).sc (0 : CoreId)).wall) ∧ ((((advance (0 : CoreId) 0 ((tInbox 8 0 (fun g => { g with resv := 6, rptr := 0 }) [tRow 0 (tMsg
    2)])))).ring (0 : CoreId) (15 : RingId).val).fit (((advance (0 : CoreId) 0 ((tInbox 8 0 (fun g => { g with resv := 6, rptr := 0 }) [tRow
    0 (tMsg 2)])))).sc (0 : CoreId)).wall (mhLen (tRow 0 (tMsg 2)).data) = none) ∧ ((((advance (0 : CoreId) 0 ((tInbox 8 0 (fun g =>
    { g with resv := 6, rptr := 0 }) [tRow 0 (tMsg 2)])))).ring (0 : CoreId) (15 : RingId).val).spillFit (mhLen (tRow 0 (tMsg 2)).data) =
    none) := by decide
theorem test_SpillHoldAndGrant_written : ((((advance (0 : CoreId) 0 (tInbox 8 8 (fun g =>
    { g with spillBase := 4194296, spill := [tSpilled false] }) []))).ring (0 : CoreId) (15 : RingId).val).spill = [(tSpilled false)]) ∧
    (tSpilled false).done = false ∧ (tSpilled false).filler = false ∧ (tSpilled false).rows = [(5 : Row)] ∧ (tSpilled false).len = 1 ∧
    (bankWaits ((advance (0 : CoreId) 0 (tInbox 8 8 (fun g => { g with spillBase := 4194296, spill := [tSpilled false] }) []))) (dieOf (0 :
    CoreId)) ((((advance (0 : CoreId) 0 (tInbox 8 8 (fun g => { g with spillBase := 4194296, spill := [tSpilled false] }) []))).ring (0 :
    CoreId) (15 : RingId).val).spillBase + (tSpilled false).at_) = false) ∧ ((((advance (0 : CoreId) 0 (tInbox 8 8 (fun g =>
    { g with spillBase := 4194296, spill := [tSpilled false] }) []))).ring (0 : CoreId) (15 : RingId).val).spillBase + (tSpilled false).at_
    < 2 ^ 22) ∧ (gatedFor ((advance (0 : CoreId) 0 (tInbox 8 8 (fun g => { g with spillBase := 4194296, spill := [tSpilled false] }) [])))
    (dieOf (0 : CoreId)) ((((advance (0 : CoreId) 0 (tInbox 8 8 (fun g => { g with spillBase := 4194296, spill := [tSpilled false] })
    []))).ring (0 : CoreId) (15 : RingId).val).spillBase + (tSpilled false).at_) true = false) := by decide
theorem test_SpillHoldAndGrant_drain : ((((advance (0 : CoreId) 0 (tInbox 8 8 (fun g => { g with spill := [tSpilled true] }) []))).ring (0 :
    CoreId) (15 : RingId).val).spill = [(tSpilled true)]) ∧ (tSpilled true).done = true ∧ (tSpilled true).filler = false ∧ (tSpilled
    true).void = false ∧ ((((advance (0 : CoreId) 0 (tInbox 8 8 (fun g => { g with spill := [tSpilled true] }) []))).ring (0 : CoreId) (15 :
    RingId).val).fit (((advance (0 : CoreId) 0 (tInbox 8 8 (fun g => { g with spill := [tSpilled true] }) []))).sc (0 : CoreId)).wall
    (tSpilled true).len = some (false, 0)) ∧ (gatedFor ((advance (0 : CoreId) 0 (tInbox 8 8 (fun g => { g with spill := [tSpilled true] })
    []))) (dieOf (0 : CoreId)) ((((advance (0 : CoreId) 0 (tInbox 8 8 (fun g => { g with spill := [tSpilled true] }) []))).ring (0 : CoreId)
    (15 : RingId).val).spillBase + (tSpilled true).at_) false = false) := by decide
theorem test_SpillHoldAndGrant_grant : ((((advance (0 : CoreId) 0 (tInbox 8 0 (fun g => { g with hold := [tMsg 2] }) []))).ring (0 : CoreId)
    (15 : RingId).val).hold = (tMsg 2) :: []) ∧ ((((advance (0 : CoreId) 0 (tInbox 8 0 (fun g => { g with hold := [tMsg 2] }) []))).ring (0
    : CoreId) (15 : RingId).val).grantAt ≠ some (((advance (0 : CoreId) 0 (tInbox 8 0 (fun g => { g with hold := [tMsg 2] }) []))).sc (0 :
    CoreId)).wall) ∧ ((((advance (0 : CoreId) 0 (tInbox 8 0 (fun g => { g with hold := [tMsg 2] }) []))).ring (0 : CoreId) (15 :
    RingId).val).spill = []) ∧ ((((advance (0 : CoreId) 0 (tInbox 8 0 (fun g => { g with hold := [tMsg 2] }) []))).ring (0 : CoreId) (15 :
    RingId).val).fit (((advance (0 : CoreId) 0 (tInbox 8 0 (fun g => { g with hold := [tMsg 2] }) []))).sc (0 : CoreId)).wall (mhLen (tMsg
    2)) = some (false, 0)) ∧ (mhSendPos (tMsg 2) = ((advance (0 : CoreId) 0 (tInbox 8 0 (fun g => { g with hold := [tMsg 2] })
    []))).hub.position) := by decide
theorem test_SpillHoldAndGrant_again : itemHere tGrant .grant 0 = some (⟨.grant, 1, 0xFFFF, 0, 0xFFFF, 5, 0, 1, 0, 2, 0, true, 0⟩ : Item) ∧
    (⟨.grant, 1, 0xFFFF, 0, 0xFFFF, 5, 0, 1, 0, 2, 0, true, 0⟩ : Item).destCore = (0 : CoreId).val ∧ (tGrant.cc (0 : CoreId)).sends =
    [({ tSend with hdr := (tMsg 2).put 2 1 5, state := .sent } : Send)] ∧ sendOf tGrant (⟨.grant, 1, 0xFFFF, 0, 0xFFFF, 5, 0, 1, 0, 2, 0,
    true, 0⟩ : Item) ({ tSend with hdr := (tMsg 2).put 2 1 5, state := .sent } : Send) = true ∧
    ({ tSend with hdr := (tMsg 2).put 2 1 5, state := .sent } : Send).state ≠ .reading := by decide
/-- An answer of core 5 to a send of core 0. -/
def tAnswer (k : ItemKind) (aux : Nat) : Item := ⟨k, 1, 0xFFFF, 0, 0xFFFF, 5, 0, 1, 0, 2, aux, true, 0⟩
/-- A send with NOTIFY on stake 47. -/
def tNotify : Send := { tSend with hdr := (((tMsg 2).put 2 1 5).put 8 1 6).put 0x0B 1 47, state := .sent }
/-- The answer has arrived for that send. -/
def tAnswered (k : ItemKind) (aux : Nat) : State := { tSends [tNotify] with net := [tAnswer k aux] }
/-- A loss notice has arrived about the row transaction of a late item. -/
def tLost : State := { tItem { tLateItem (tXfer 47 none 8 .outPlot) 0 with inbound := false } [] with net := [{ tAnswer .loss 1 with srcCore := 0xFD }] }
theorem test_AnswersArrive_ack : (tAnswer .msgAck 0).destCore = (0 : CoreId).val ∧ itemHere (tAnswered .msgAck 0) .msgAck 0 = some (tAnswer
    .msgAck 0) ∧ ((advance 0 0 (dropItem 0 (tAnswered .msgAck 0))).cc (0 : CoreId)).sends.find? (sendOf (advance 0 0 (dropItem 0 (tAnswered
    .msgAck 0))) (tAnswer .msgAck 0)) = some tNotify ∧ mhNotify tNotify.hdr = true ∧ mhNotifyStk tNotify.hdr < 48 ∧ (debugMode (advance 0 0
    (dropItem 0 (tAnswered .msgAck 0))) (0 : CoreId) = true → (vget ((advance 0 0 (dropItem 0 (tAnswered .msgAck 0))).sc (0 : CoreId)).stk 0
    (mhNotifyStk tNotify.hdr)).toNat + 1 ≤ 255) := by decide
/-- The answer has arrived for a send without NOTIFY. -/
def tQuiet : State := { tSends [{ tNotify with hdr := (tMsg 2).put 2 1 5 }] with net := [tAnswer .msgAck 0] }
theorem test_AnswersArrive_quiet : (tAnswer .msgAck 0).destCore = (0 : CoreId).val ∧ itemHere tQuiet .msgAck 0 = some (tAnswer .msgAck 0) ∧
    ((advance 0 0 (dropItem 0 tQuiet)).cc (0 : CoreId)).sends.find? (sendOf (advance 0 0 (dropItem 0 tQuiet)) (tAnswer .msgAck 0)) = some
    ({ tNotify with hdr := (tMsg 2).put 2 1 5 } : Send) ∧ mhNotify ({ tNotify with hdr := (tMsg 2).put 2 1 5 } : Send).hdr = false :=
    by decide
theorem test_AnswersArrive_bounce : (tAnswer .bounce 8).destCore = (0 : CoreId).val ∧ itemHere (tAnswered .bounce 8) .bounce 0 = some
    (tAnswer .bounce 8) ∧ ((tAnswered .bounce 8).cc (0 : CoreId)).sends.find? (sendOf (tAnswered .bounce 8) (tAnswer .bounce 8)) = some
    tNotify := by decide
theorem test_AnswersArrive_lost : (tAnswer .loss 3).destCore = (0 : CoreId).val ∧ (itemHere
    ({ (tInbox 8 0 (fun g => { g with hold := [tMsg 2] }) []) with net := [tAnswer .loss 3] }) .loss 0 = some (tAnswer .loss 3)) ∧ (tAnswer
    .loss 3).aux = 3 ∧ (tAnswer .loss 3).srcCore ≠ 0xFD ∧ (tAnswer .loss 3).srcCore ≠ 0xFB ∧ (∀ y, y ∈
    ({ (tInbox 8 0 (fun g => { g with hold := [tMsg 2] }) []) with net := [tAnswer .loss 3] }).net.take 0 → y.kind ≠ .msgRow) := by decide
theorem test_AnswersArrive_lost_row : ({ tAnswer .loss 1 with srcCore := 0xFD }).destCore = (0 : CoreId).val ∧ itemHere tLost .loss 0 = some
    ({ tAnswer .loss 1 with srcCore := 0xFD }) ∧ ({ tAnswer .loss 1 with srcCore := 0xFD }).aux ≠ 3 ∧
    ({ tAnswer .loss 1 with srcCore := 0xFD }).aux < 7 ∧ (({ tAnswer .loss 1 with srcCore := 0xFD }).srcCore = 0xFD ∨
    ({ tAnswer .loss 1 with srcCore := 0xFD }).srcCore = 0xFB) ∧ (∀ y, y ∈ tLost.net.take 0 → y.kind ≠ .readRet) ∧ lossItem (dropItem 0
    tLost) (0 : CoreId) ({ tAnswer .loss 1 with srcCore := 0xFD }) = some ({ tLateItem (tXfer 47 none 8 .outPlot) 0 with inbound := false })
    := by decide
theorem test_AnswersArrive_clear : ({ tAnswer .loss 1 with srcCore := 0xFD }).destCore = (0 : CoreId).val := by decide
/-- Ring 15 of core 0 has 8 rows and WPTR 7; the control core's registers name it and the operation. -/
def tRingOp (st : RingState) (y : Word) : State := tRegs .running 15 y (tInbox 8 0 (fun g => { g with state := st, wptr := 7 }) [])
theorem test_RingInstructions_rptr : ccIssues ((advance (0 : CoreId) 0 (tRingOp .opened 0x70000))) (0 : CoreId) = true ∧ ((advance (0 :
    CoreId) 0 (tRingOp .opened 0x70000))).reg (0 : CoreId) (2 : Reg) = (15 : RingId).val ∧ bitsOf (((advance (0 : CoreId) 0 (tRingOp .opened
    0x70000))).reg (0 : CoreId) (3 : Reg)) 2 14 = 0 ∧ ((advance (0 : CoreId) 0 (tRingOp .opened 0x70000))).reg (0 : CoreId) (3 : Reg) < 2 ^
    26 ∧ ((advance (0 : CoreId) 0 (tRingOp .opened 0x70000))).reg (0 : CoreId) (3 : Reg) % 4 = 0 ∧ 7 = ((advance (0 : CoreId) 0 (tRingOp
    .opened 0x70000))).reg (0 : CoreId) (3 : Reg) / 2 ^ 16 ∧ 7 < (((advance (0 : CoreId) 0 (tRingOp .opened 0x70000))).ring (0 : CoreId) (15
    : RingId).val).size ∧ (7 + (((advance (0 : CoreId) 0 (tRingOp .opened 0x70000))).ring (0 : CoreId) (15 : RingId).val).size - (((advance
    (0 : CoreId) 0 (tRingOp .opened 0x70000))).ring (0 : CoreId) (15 : RingId).val).rptr) % (((advance (0 : CoreId) 0 (tRingOp .opened
    0x70000))).ring (0 : CoreId) (15 : RingId).val).size ≤ ((((advance (0 : CoreId) 0 (tRingOp .opened 0x70000))).ring (0 : CoreId) (15 :
    RingId).val).wptr + (((advance (0 : CoreId) 0 (tRingOp .opened 0x70000))).ring (0 : CoreId) (15 : RingId).val).size - (((advance (0 :
    CoreId) 0 (tRingOp .opened 0x70000))).ring (0 : CoreId) (15 : RingId).val).rptr) % (((advance (0 : CoreId) 0 (tRingOp .opened
    0x70000))).ring (0 : CoreId) (15 : RingId).val).size := by decide
theorem test_RingInstructions_bad : ccIssues ((advance (0 : CoreId) 0 (tRingOp .opened 0x80000))) (0 : CoreId) = true ∧ ((advance (0 :
    CoreId) 0 (tRingOp .opened 0x80000))).reg (0 : CoreId) (2 : Reg) = (15 : RingId).val ∧ bitsOf (((advance (0 : CoreId) 0 (tRingOp .opened
    0x80000))).reg (0 : CoreId) (3 : Reg)) 2 14 = 0 ∧ ((advance (0 : CoreId) 0 (tRingOp .opened 0x80000))).reg (0 : CoreId) (3 : Reg) < 2 ^
    26 ∧ ((advance (0 : CoreId) 0 (tRingOp .opened 0x80000))).reg (0 : CoreId) (3 : Reg) % 4 = 0 ∧ (((advance (0 : CoreId) 0 (tRingOp
    .opened 0x80000))).ring (0 : CoreId) (15 : RingId).val).size ≤ ((advance (0 : CoreId) 0 (tRingOp .opened 0x80000))).reg (0 : CoreId) (3
    : Reg) / 2 ^ 16 := by decide
theorem test_RingInstructions_open : ccIssues ((advance (0 : CoreId) 0 (tRingOp .closed 1))) (0 : CoreId) = true ∧ ((advance (0 : CoreId) 0
    (tRingOp .closed 1))).reg (0 : CoreId) (2 : Reg) = (15 : RingId).val ∧ bitsOf (((advance (0 : CoreId) 0 (tRingOp .closed 1))).reg (0 :
    CoreId) (3 : Reg)) 2 14 = 0 ∧ ((advance (0 : CoreId) 0 (tRingOp .closed 1))).reg (0 : CoreId) (3 : Reg) < 2 ^ 26 ∧ ((advance (0 :
    CoreId) 0 (tRingOp .closed 1))).reg (0 : CoreId) (3 : Reg) % 4 = 1 ∧ (((advance (0 : CoreId) 0 (tRingOp .closed 1))).ring (0 : CoreId)
    (15 : RingId).val).state = .closed ∧ (((advance (0 : CoreId) 0 (tRingOp .closed 1))).ring (0 : CoreId) (15 : RingId).val).size ≠ 0 ∧
    (((advance (0 : CoreId) 0 (tRingOp .closed 1))).ring (0 : CoreId) (15 : RingId).val).base + (((advance (0 : CoreId) 0 (tRingOp .closed
    1))).ring (0 : CoreId) (15 : RingId).val).size ≤ 12288 ∧ ringLocked ((advance (0 : CoreId) 0 (tRingOp .closed 1))) (0 : CoreId)
    (((advance (0 : CoreId) 0 (tRingOp .closed 1))).ring (0 : CoreId) (15 : RingId).val) = false ∧ spillOk ((advance (0 : CoreId) 0 (tRingOp
    .closed 1))) (0 : CoreId) (((advance (0 : CoreId) 0 (tRingOp .closed 1))).ring (0 : CoreId) (15 : RingId).val) = true := by decide
theorem test_RingInstructions_close : ccIssues ((advance (0 : CoreId) 0 (tRingOp .opened 2))) (0 : CoreId) = true ∧ ((advance (0 : CoreId) 0
    (tRingOp .opened 2))).reg (0 : CoreId) (2 : Reg) = (15 : RingId).val ∧ bitsOf (((advance (0 : CoreId) 0 (tRingOp .opened 2))).reg (0 :
    CoreId) (3 : Reg)) 2 14 = 0 ∧ ((advance (0 : CoreId) 0 (tRingOp .opened 2))).reg (0 : CoreId) (3 : Reg) < 2 ^ 26 ∧ ((advance (0 :
    CoreId) 0 (tRingOp .opened 2))).reg (0 : CoreId) (3 : Reg) % 4 = 2 ∧ (((advance (0 : CoreId) 0 (tRingOp .opened 2))).ring (0 : CoreId)
    (15 : RingId).val).state = .opened := by decide
theorem test_RingInstructions_closed : ccIssues ((advance (0 : CoreId) 0 (tRingOp .closed 2))) (0 : CoreId) = true ∧ ((advance (0 : CoreId)
    0 (tRingOp .closed 2))).reg (0 : CoreId) (2 : Reg) = (15 : RingId).val ∧ bitsOf (((advance (0 : CoreId) 0 (tRingOp .closed 2))).reg (0 :
    CoreId) (3 : Reg)) 2 14 = 0 ∧ ((advance (0 : CoreId) 0 (tRingOp .closed 2))).reg (0 : CoreId) (3 : Reg) < 2 ^ 26 ∧ ((advance (0 :
    CoreId) 0 (tRingOp .closed 2))).reg (0 : CoreId) (3 : Reg) % 4 = 2 ∧ (((advance (0 : CoreId) 0 (tRingOp .closed 2))).ring (0 : CoreId)
    (15 : RingId).val).state ≠ .opened := by decide

/-! ### Links, routes, time base -/
/-- Port 27 is in state `st`, changed by `f`. -/
def tPort (st : PortState) (f : Port → Port) : State := State.reset.onPort 27 fun k => f { k with state := st, peerPos := 1, peerPort := 3, credit := 1024 }
/-- A lead flit from the peer of that port, with number `n`. -/
def tLead (n pos : Nat) : Frame := ⟨leadBits n false 4095 false none none false 3 pos 5, [], []⟩
/-- The port has a flit to send. -/
def tOut : State := tPort .up fun k => { k with out := vset k.out 0 [(1, 1, 0)] }
/-- The port has one frame to send again. -/
def tAgain : State := tPort .up fun k => { k with replay := [(7, tLead 7 1)], resend := 1 }
theorem test_FramesAreSentAndReceived_new : ((State.atNs 0 tOut).port (27 : PortId)).state = .up ∧ ((State.atNs 0 tOut).port (27 :
    PortId)).resend = 0 ∧ ((State.atNs 0 tOut).port (27 : PortId)).replay.length < 256 ∧ ((fillSlots 13 ((State.atNs 0 tOut).port 27) []).2)
    ≠ [] := by decide
theorem test_FramesAreSentAndReceived_idle : ((State.atNs 0 (tPort .up id)).port (27 : PortId)).state = .up ∧ ((State.atNs 0 (tPort .up
    id)).port (27 : PortId)).resend = 0 ∧ (fillSlots 13 ((State.atNs 0 (tPort .up id)).port (27 : PortId)) []).2 = [] := by decide
theorem test_FramesAreSentAndReceived_again : ((State.atNs 0 tAgain).port (27 : PortId)).state = .up ∧ 0 < ((State.atNs 0 tAgain).port (27 :
    PortId)).resend ∧ ((State.atNs 0 tAgain).port (27 : PortId)).replay[((State.atNs 0 tAgain).port (27 : PortId)).replay.length -
    ((State.atNs 0 tAgain).port (27 : PortId)).resend]? = some (7, (tLead 7 1)) := by decide
theorem test_FramesAreSentAndReceived_uncorrectable : ((State.atNs 0 (tPort .up id)).port (27 : PortId)).state = .up := by decide
theorem test_FramesAreSentAndReceived_order : ((State.atNs 0 (tPort .up id)).port (27 : PortId)).state = .up ∧ ldSrcPos (tLead 1 1).lead =
    ((State.atNs 0 (tPort .up id)).port (27 : PortId)).peerPos ∧ ldPort (tLead 1 1).lead = ((State.atNs 0 (tPort .up id)).port (27 :
    PortId)).peerPort ∧ ldIdle (tLead 1 1).lead = false ∧ ldFseq (tLead 1 1).lead ≠ (((State.atNs 0 (tPort .up id)).port (27 : PortId)).rseq
    + 1) % 4096 := by decide
theorem test_FramesAreSentAndReceived_accepted : ((State.atNs 0 (tPort .up id)).port (27 : PortId)).state = .up ∧ ldSrcPos (tLead 0 1).lead
    = ((State.atNs 0 (tPort .up id)).port (27 : PortId)).peerPos ∧ ldPort (tLead 0 1).lead = ((State.atNs 0 (tPort .up id)).port (27 :
    PortId)).peerPort ∧ ldIdle (tLead 0 1).lead = false ∧ ldFseq (tLead 0 1).lead = (((State.atNs 0 (tPort .up id)).port (27 : PortId)).rseq
    + 1) % 4096 ∧ ldTs (tLead 0 1).lead = none ∧ ldNak (tLead 0 1).lead = false ∧ frameItems (tLead 0 1) = [] := by decide
theorem test_FramesAreSentAndReceived_peer : ((State.atNs 0 (tPort .up id)).port (27 : PortId)).state = .up ∧ (ldSrcPos (tLead 0 2).lead ≠
    ((State.atNs 0 (tPort .up id)).port (27 : PortId)).peerPos ∨ ldPort (tLead 0 2).lead ≠ ((State.atNs 0 (tPort .up id)).port (27 :
    PortId)).peerPort) := by decide
theorem test_PortsAndRoutes_timeout : ((State.atNs 4000 (tPort .up id)).port (27 : PortId)).state = .up ∧ ((State.atNs 4000 (tPort .up
    id)).port (27 : PortId)).lastLead + 4000 ≤ (State.atNs 4000 (tPort .up id)).hub.ns := by decide
theorem test_PortsAndRoutes_trained : (((State.atNs 0 (tPort .training id)).port (27 : PortId)).state = .training ∨ ((State.atNs 0 (tPort
    .training id)).port (27 : PortId)).state = .failed) := by decide
theorem test_PortsAndRoutes_route : State.reset.hub.pwr.alwaysOn = true ∧ (State.reset.hub.routes.Pairwise (fun x y => x.1 < y.1)) :=
    by decide
theorem test_PortsAndRoutes_torus : (bitsOf (0x003E0F3F : Word).toNat 0 6 + 1) * (bitsOf (0x003E0F3F : Word).toNat 8 6 + 1) * (bitsOf
    (0x003E0F3F : Word).toNat 16 6 + 1) ≤ 65535 := by decide
theorem test_PortsAndRoutes_large : 65535 < (bitsOf (0x003F0F3F : Word).toNat 0 6 + 1) * (bitsOf (0x003F0F3F : Word).toNat 8 6 + 1) *
    (bitsOf (0x003F0F3F : Word).toNat 16 6 + 1) := by decide
/-- A row transaction for row address `a` has arrived. -/
def tRowItem (k : ItemKind) (a : Nat) : Item := ⟨k, 0, 0xFFFF, 0, 0xFFFF, 0, 0, a, 0, 2, 0, true, 1⟩
def tArrived (k : ItemKind) (a : Nat) : State := { State.reset with net := [tRowItem k a] }
/-- A request for one row has arrived. -/
def tOneRow : State := { State.reset with net := [{ tRowItem .readReq 0x5FFE00 with count := 1 }] }
theorem test_read_ready (k : Nat) (h : k < 2) (hp : populated (0x5FFE00 + 512 * k) = true) :
    readEcc (tArrived .readReq 0x5FFE00) (0x5FFE00 + 512 * k) .clean = .clean ∧
      ∀ d r, placeOf (0x5FFE00 + 512 * k) = .commons d r → gatedFor (tArrived .readReq 0x5FFE00) d r false = false := by
  have h2 : k = 0 ∨ k = 1 := by omega
  rcases h2 with rfl | rfl
  · exact ⟨by decide, fun d r e => by cases e⟩
  · exact absurd hp (by decide)
theorem test_RemoteRowsAreServed_read : itemHere (tArrived .readReq 0x5FFE00) .readReq 0 = some (tRowItem .readReq 0x5FFE00) ∧ deepFirst
    (tArrived .readReq 0x5FFE00) 0 (tRowItem .readReq 0x5FFE00) = true ∧ (tRowItem .readReq 0x5FFE00).srcPos = (tArrived .readReq
    0x5FFE00).hub.position ∧ (∀ k, k < (tRowItem .readReq 0x5FFE00).count → populated ((tRowItem .readReq 0x5FFE00).row + 512 * k) = true →
    readEcc (tArrived .readReq 0x5FFE00) ((tRowItem .readReq 0x5FFE00).row + 512 * k) .clean = .clean ∧ ∀ d r, placeOf ((tRowItem .readReq
    0x5FFE00).row + 512 * k) = .commons d r → gatedFor (tArrived .readReq 0x5FFE00) d r false = false) :=
    ⟨by decide, by decide, by decide, test_read_ready⟩
theorem test_RemoteRowsAreServed_bad : itemHere tOneRow .readReq 0 = some ({ tRowItem .readReq 0x5FFE00 with count := 1 }) ∧ deepFirst
    tOneRow 0 ({ tRowItem .readReq 0x5FFE00 with count := 1 }) = true ∧ ({ tRowItem .readReq 0x5FFE00 with count := 1 }).srcPos =
    tOneRow.hub.position ∧ ({ tRowItem .readReq 0x5FFE00 with count := 1 }).count = 1 ∧ populated
    ({ tRowItem .readReq 0x5FFE00 with count := 1 }).row = true ∧ (∀ d r, placeOf ({ tRowItem .readReq 0x5FFE00 with count := 1 }).row =
    .commons d r → gatedFor tOneRow d r false = false) := ⟨by decide, by decide, by decide, by decide, by decide, fun d r e => by cases e⟩
theorem test_RemoteRowsAreServed_plot : itemHere (tArrived .write 0x5FFE00) .write 0 = some (tRowItem .write 0x5FFE00) ∧ hostFirst (tArrived
    .write 0x5FFE00) 0 (tRowItem .write 0x5FFE00) = true ∧ placeOf (tRowItem .write 0x5FFE00).row = .plot (0 : CoreId) 12287 ∧ ((tArrived
    .write 0x5FFE00).cm (0 : CoreId)).land.length < 64 := by decide
theorem test_RemoteRowsAreServed_commons : itemHere (tArrived .write 0x4FFFFFE00) .write 0 = some (tRowItem .write 0x4FFFFFE00) ∧ hostFirst
    (tArrived .write 0x4FFFFFE00) 0 (tRowItem .write 0x4FFFFFE00) = true ∧ placeOf (tRowItem .write 0x4FFFFFE00).row = .commons (7 : DieId)
    4194303 := by decide
theorem test_RemoteRowsAreServed_deep : itemHere (tArrived .write 0x1000000000) .write 0 = some (tRowItem .write 0x1000000000) ∧ hostFirst
    (tArrived .write 0x1000000000) 0 (tRowItem .write 0x1000000000) = true ∧ deepFirst (tArrived .write 0x1000000000) 0 (tRowItem .write
    0x1000000000) = true ∧ placeOf (tRowItem .write 0x1000000000).row = .deep (0 : DieId) 0 := by decide
/-- A module's time base changed from reset. -/
def tTb (f : Tb → Tb) : State := State.reset.onTb f
/-- A master with an external reference. -/
def tMaster : State := tTb fun t => { t with master := true, extRef := true }
theorem test_TimeBaseRuns_tick : ((tTb fun t => { t with adj := -214748 }).hub.pwr.alwaysOn = true) := by decide
theorem test_TimeBaseRuns_lock : tMaster.hub.tb.master = true ∧ tMaster.hub.tb.extRef = true := by decide
theorem test_TimeBaseRuns_lock_timeout : ((tMaster.onHl fun l => { l with bootDone := true }).hub.tb.master = true) ∧ ((tMaster.onHl fun l
    => { l with bootDone := true }).hub.tb.extRef = true) ∧ ((tMaster.onHl fun l => { l with bootDone := true }).hub.tb.locked = false) ∧
    ((tMaster.onHl fun l => { l with bootDone := true }).hub.hl.bootDone = true) ∧ ((tMaster.onHl fun l =>
    { l with bootDone := true }).hub.hl.bootAt + 10000000 ≤ (State.atNs 10000000 (tMaster.onHl fun l =>
    { l with bootDone := true })).hub.ns) := by decide
theorem test_TimeBaseRuns_backup : ((tTb fun t => { t with bakEn := true }).hub.tb.master = false) ∧ ((tTb fun t =>
    { t with bakEn := true }).hub.tb.holdover = false) ∧ ((tTb fun t => { t with bakEn := true }).hub.tb.lastGood + 10000000 ≤ (State.atNs
    10000000 (tTb fun t => { t with bakEn := true })).hub.ns) ∧ ((tTb fun t => { t with bakEn := true }).hub.tb.bakEn = true) ∧ ((tTb fun t
    => { t with bakEn := true }).hub.tb.onBackup = false) := by decide
theorem test_TimeBaseRuns_holdover : State.reset.hub.tb.master = false ∧ State.reset.hub.tb.holdover = false ∧ State.reset.hub.tb.lastGood +
    10000000 ≤ (State.atNs 10000000 State.reset).hub.ns ∧ State.reset.hub.tb.bakEn = false := by decide
theorem test_TimeBaseRuns_lost : tMaster.hub.tb.master = true ∧ tMaster.hub.tb.extRef = true := by decide
theorem test_ManagementFlits_no_heartbeat : ((State.atNs 40000000 (tPort .up id)).port (27 : PortId)).state = .up ∧ ((State.atNs 40000000
    (tPort .up id)).port (27 : PortId)).lastBeat + 40000000 ≤ (State.atNs 40000000 (tPort .up id)).hub.ns := by decide
/-- The module's position is 5. -/
def tPos : State := State.reset.onHub fun h => { h with position := 5 }
theorem test_ManagementFlits_own : (5 : BitVec 16).toNat = tPos.hub.position ∧ (5 : BitVec 16).toNat ≠ 0xFFFF := by decide
theorem test_ManagementFlits_same : (3 : PortId) ≠ (27 : PortId) ∧ (6 : BitVec 16).toNat ≠ 0xFFFF ∧ (((State.reset.onPort 3 fun k =>
    { k with ident := some (1, 6) }).port (3 : PortId)).ident = some (1, (6 : BitVec 16).toNat)) ∧ 1 ≠ 0 := by decide
theorem test_ManagementFlits_neighbour : (6 : BitVec 16).toNat ≠ tPos.hub.position ∧ (∀ q, (tPos.port q).ident = none) := by decide
theorem test_ManagementFlits_survey : tPos.hub.tb.master = false ∧ tPos.hub.hl.parent = none := by decide
theorem test_ManagementFlits_forward : ((State.reset.onHl fun l => { l with parent := some 3 }).hub.hl.parent = some (3 : PortId).val) ∧ (3
    : PortId) ≠ (27 : PortId) := by decide
theorem test_ManagementFlits_census : ((State.reset.onHl fun l => { l with censusEnd := some 1 }).hub.hl.parent = none) ∧ ((State.reset.onHl
    fun l => { l with censusEnd := some 1 }).hub.hl.censusEnd.isSome) := by decide
theorem test_ManagementFlits_late : tPos.hub.hl.parent = none ∧ tPos.hub.hl.censusEnd = none := by decide
theorem test_ManagementFlits_power : ((State.atNs 0 (tPort .up id)).port (27 : PortId)).state = .up := by decide
theorem test_ManagementFlits_adopt : tPos.hub.hl.adopted = none := by decide
theorem test_ManagementFlits_partner : (((State.reset.onSnp 7 fun n => { n with partnerEn := true }).snp (7 : CtxId)).partnerEn = true) ∧
    (((State.reset.onSnp 7 fun n => { n with partnerEn := true }).snp (7 : CtxId)).partnerRes = 0) := by decide

/-! ### Lock-step and weights -/
/-- Lock-step changed from reset; the peer is position 5. -/
def tLs (f : Ls → Ls) : State := State.reset.onLs fun l => f { l with enable := true, peer := 5 }
/-- The fold record of strip 7, ordinal 1, of core 0, whose first fold is `x`. -/
def tFold (x : Nat) : FoldRec := foldRec 0 0 false 7 1 [x, 0, 0, 0] []
/-- A fold message of one record from the peer. -/
def tFoldHdr : Row := (((0 : Row).put 0x0C 2 5).put 0x0E 1 0xFE).put 0x20 2 1
/-- Its payload. -/
def tFoldRow (x : Nat) : Row := BitVec.ofNat 4096 (tFold x).toNat
/-- The local record waits, and a divergence stops the running core 0. -/
def tLocal : State := (tLs fun l => { l with stop := true, locals := [(tFold 1, 0, 9)] }).onSc 0 fun k => { k with run := .running }
theorem test_LockstepCompares_off : (0 : Word).getLsbD 0 = false := by decide
theorem test_LockstepCompares_on : (0x50003 : Word).getLsbD 0 = true ∧ State.reset.hub.ls.enable = false := by decide
theorem test_LockstepCompares_send : ((tLs fun l => { l with waiting := List.replicate 250 0 }).hub.ls.enable = true) ∧ ((tLs fun l =>
    { l with waiting := List.replicate 250 0 }).hub.ls.configDue = false) ∧ (248 ≤ (tLs fun l =>
    { l with waiting := List.replicate 250 0 }).hub.ls.waiting.length) ∧ ((tLs fun l =>
    { l with waiting := List.replicate 250 0 }).hub.ls.peer ≠ (tLs fun l => { l with waiting := List.replicate 250 0 }).hub.position) ∧
    ((tLs fun l => { l with waiting := List.replicate 250 0 }).hub.ls.peer < 0xFFFF) := by decide
theorem test_LockstepCompares_agree : mhSendPos tFoldHdr = tLocal.hub.ls.peer ∧ mhSendCore tFoldHdr = 0xFE ∧ msgRecs tFoldHdr [tFoldRow 1] =
    [(tFold 1)] ∧ tLocal.hub.ls.enable = true ∧ tLocal.hub.ls.locals = [((tFold 1), 0, 9)] ∧ frMatch (tFold 1) (tFold 1) = true ∧ frCore
    (tFold 1) ≠ 0xFFFF ∧ divKind (tFold 1) (tFold 1) = none := by decide
theorem test_LockstepCompares_differ : mhSendPos tFoldHdr = tLocal.hub.ls.peer ∧ mhSendCore tFoldHdr = 0xFE ∧ msgRecs tFoldHdr [tFoldRow 2]
    = [(tFold 2)] ∧ tLocal.hub.ls.enable = true ∧ tLocal.hub.ls.locals = [((tFold 1), 0, 9)] ∧ frMatch (tFold 1) (tFold 2) = true ∧ divKind
    (tFold 1) (tFold 2) = some 1 ∧ 1 ≠ 4 ∧ 1 ≤ 3 ∧ tLocal.hub.ls.stop = true ∧ (tLocal.sc (coreNo (frCore (tFold 1)))).run = .running :=
    by decide
/-- A load command for slot 0 that keeps part 0. -/
def tLoad : WgtCmd := ⟨0, 7, 0x1000000000, 0, 0xFFFF, 0xFFFF, 1, 0, 0, 0, []⟩
/-- The entry of a shard of one row in the Commons of die 0. -/
def tEntry : BitVec 512 := BitVec.ofNat 512 (2 * 2 ^ 8 + 2 ^ 64)
/-- Its shard, of which nothing has arrived. -/
def tShard : Shard := ⟨tEntry, 0, false, 0, false, false, 0, 0, none, false, false⟩
/-- Slot 0 of context 0 is in state `st` with that load and shard. -/
def tSlot (st : WSlot) (f : WLoad → WLoad) (g : WgtCtx → WgtCtx) : State :=
  (State.reset.onSlot 0 0 fun l => f { l with state := st, cmd := some tLoad, shards := [tShard] }).onWgt 0 g
/-- A notice of that load about number 0. -/
def tNotice : Row := (0 : Row).put 0x20 4 7
theorem test_WeightCommands_keys : TakesCommand State.reset 7 whoHS tHost := by unfold TakesCommand; decide
theorem test_WeightCommands_load : TakesCommand State.reset 5 whoHS tHost ∧ tLoad.chainIdx < 64 := by unfold TakesCommand; decide
theorem test_WeightCommands_verify : TakesCommand State.reset 0x11 whoHS tHost ∧ tLoad.pred = 0xFFFF ∧ tLoad.succ = 0xFFFF ∧ tLoad.chainIdx
    = 0 ∧ tLoad.forward = 0 ∧ tLoad.relay = 0 ∧ tLoad.succRelay = 0 := by unfold TakesCommand; decide
theorem test_WeightNotices_chunk : (0 : CtxId) = wnCtx tNotice ∧ noticeSlot (tSlot .loading id id) tNotice = some 0 ∧ chunkShard (slotW
    ((tSlot .loading id id).wgt (0 : CtxId)) 0).shards (wnNum tNotice) = some (0, 0) := by decide
theorem test_WeightNotices_none : (0 : CtxId) = wnCtx tNotice ∧ noticeSlot State.reset tNotice = none := by decide
theorem test_WeightNotices_release : (0 : CtxId) = wnCtx tNotice ∧ ((slotW ((tSlot .loading (fun l => { l with toRelease := [(0, false)] })
    id).wgt (0 : CtxId)) 0).toRelease.find? (fun z => z.1 == 0) = some (0, false)) ∧ ((slotW ((tSlot .loading (fun l =>
    { l with toRelease := [(0, false)] }) id).wgt (0 : CtxId)) 0).cmd = some tLoad) ∧ (((slotW ((tSlot .loading (fun l =>
    { l with toRelease := [(0, false)] }) id).wgt (0 : CtxId)) 0).toForward.any fun z => z.1 == 0) = false) ∧ (noticeOut (tSlot .loading
    (fun l => { l with toRelease := [(0, false)] }) id) (slotW ((tSlot .loading (fun l => { l with toRelease := [(0, false)] }) id).wgt (0 :
    CtxId)) 0) 0 = false) := by decide
theorem test_WeightNotices_released : (0 : CtxId) = wnCtx tNotice ∧ (noticeSlot (tSlot .verified (fun l => { l with forwarded := [0] }) id)
    tNotice = some 0) ∧ 0 < 2 ∧ ((slotW ((tSlot .verified (fun l => { l with forwarded := [0] }) id).wgt (0 : CtxId)) 0).toForward = []) ∧
    ((slotW ((tSlot .verified (fun l => { l with forwarded := [0] }) id).wgt (0 : CtxId)) 0).state = .verified) := by decide
theorem test_WeightNotices_rerequest : (0 : CtxId) = wnCtx tNotice ∧ noticeSlot (tSlot .loading id id) tNotice = some 0 ∧ 0 < 2 ∧ (slotW
    ((tSlot .loading id id).wgt (0 : CtxId)) 0).cmd = some tLoad ∧ (slotW ((tSlot .loading id id).wgt (0 : CtxId)) 0).shards[wnNum tNotice]?
    = some tShard ∧ keptPart (slotW ((tSlot .loading id id).wgt (0 : CtxId)) 0) tShard.entry = true ∧ tShard.passed = false ∧ (∀ i, (slotW
    ((tSlot .loading id id).wgt (0 : CtxId)) i).state = .failed → ((slotW ((tSlot .loading id id).wgt (0 : CtxId)) i).cmd.any fun z =>
    z.loadId == wnLoadId tNotice) = false) :=
    by refine ⟨by decide, by decide, by decide, by decide, by decide, by decide, by decide, fun i h => ?_⟩; (rcases i with _ | _ | i) <;> simp [slotW, vget, WLoad.reset] at h ⊢ <;> revert h <;> decide
theorem test_WeightNotices_wait : (0 : CtxId) = wnCtx tNotice ∧ noticeSlot (tSlot .loading id id) tNotice = some 0 ∧ 0 < 2 ∧ (slotW ((tSlot
    .loading id id).wgt (0 : CtxId)) 0).cmd = some tLoad ∧ (slotW ((tSlot .loading id id).wgt (0 : CtxId)) 0).shards[wnNum tNotice]? = some
    tShard ∧ keptPart (slotW ((tSlot .loading id id).wgt (0 : CtxId)) 0) tShard.entry = true := by decide
theorem test_WeightNotices_unavailable : (0 : CtxId) = wnCtx tNotice ∧ noticeSlot (tSlot .loading id id) tNotice = some 0 ∧ 0 < 2 ∧ (slotW
    ((tSlot .loading id id).wgt (0 : CtxId)) 0).cmd = some tLoad ∧ (slotW ((tSlot .loading id id).wgt (0 : CtxId)) 0).shards[wnNum tNotice]?
    = some tShard ∧ keptPart (slotW ((tSlot .loading id id).wgt (0 : CtxId)) 0) tShard.entry = true ∧ tShard.fromHost = false := by decide
theorem test_WeightNotices_failed : (0 : CtxId) = wnCtx tNotice ∧ (noticeSlot (tSlot .loading (fun l =>
    { l with shards := [{ tShard with fromHost := true }] }) id) tNotice = some 0) ∧ 0 < 2 ∧ ((slotW ((tSlot .loading (fun l =>
    { l with shards := [{ tShard with fromHost := true }] }) id).wgt (0 : CtxId)) 0).cmd = some tLoad) ∧ ((slotW ((tSlot .loading (fun l =>
    { l with shards := [{ tShard with fromHost := true }] }) id).wgt (0 : CtxId)) 0).shards[wnNum tNotice]? = some
    ({ tShard with fromHost := true } : Shard)) ∧ (keptPart (slotW ((tSlot .loading (fun l =>
    { l with shards := [{ tShard with fromHost := true }] }) id).wgt (0 : CtxId)) 0) ({ tShard with fromHost := true } : Shard).entry =
    true) ∧ ({ tShard with fromHost := true } : Shard).fromHost = true := by decide
/-- A job of that shard. -/
def tJob (re : Bool) : DigJob := ⟨0, 0, 0, re⟩
/-- It waits at die 0. -/
def tQueued : State := (tSlot .loading id id).onHub fun h => { h with digQ := vset h.digQ 0 [tJob false] }
/-- It runs at die 0's engine 0. -/
def tEngine : State := (tSlot .loading id id).onHub fun h => { h with digEng := vset h.digEng 0 (some (tJob false)) }
/-- The shard is active and its re-check interval is over. -/
def tOld : State := (tSlot .active (fun l => { l with shards := [{ tShard with passed := true }] }) id).onHub fun h => { h with recheckEn := true }
theorem test_ShardsAreChecked_start : nextDigest (vget tQueued.hub.digQ [] (0 : DieId).val) = some (tJob false) ∧ (tJob false).re = false ∧
    pickEngine tQueued.hub (0 : DieId) (tJob false) = some 0 ∧ 0 < 32 := by decide
theorem test_ShardsAreChecked_complete : vget tEngine.hub.digEng none (4 * (0 : DieId).val + (0 : Fin 4).val) = some (tJob false) ∧ (tJob
    false).re = false ∧ (slotW (tEngine.wgt (tJob false).x) (tJob false).slot.val).shards[(tJob false).shard]? = some tShard ∧
    tShard.fromHost = false ∧ tShard.tries < 2 ∧ (slotW (tEngine.wgt (tJob false).x) (tJob false).slot.val).inPlace = false ∧ (slotW
    (tEngine.wgt (tJob false).x) (tJob false).slot.val).cmd.isSome := by decide
theorem test_ShardsAreChecked_window : ((((tSlot .loading (fun l => { l with shards := [{ tShard with lastChunk := some 0 }] }) (fun w =>
    { w with loading := some 0 }))).wgt (0 : CtxId)).loading = some (0 : Fin 2)) ∧ ((slotW (((tSlot .loading (fun l =>
    { l with shards := [{ tShard with lastChunk := some 0 }] }) (fun w => { w with loading := some 0 }))).wgt (0 : CtxId)) (0 : Fin
    2).val).shards[0]? = some ({ tShard with lastChunk := some 0 } : Shard)) ∧ ((slotW (((tSlot .loading (fun l =>
    { l with shards := [{ tShard with lastChunk := some 0 }] }) (fun w => { w with loading := some 0 }))).wgt (0 : CtxId)) (0 : Fin
    2).val).cmd = some tLoad) ∧ ((slotW (((tSlot .loading (fun l => { l with shards := [{ tShard with lastChunk := some 0 }] }) (fun w =>
    { w with loading := some 0 }))).wgt (0 : CtxId)) (0 : Fin 2).val).inPlace = false) ∧ (keptPart (slotW (((tSlot .loading (fun l =>
    { l with shards := [{ tShard with lastChunk := some 0 }] }) (fun w => { w with loading := some 0 }))).wgt (0 : CtxId)) (0 : Fin 2).val)
    ({ tShard with lastChunk := some 0 } : Shard).entry = true) ∧ ({ tShard with lastChunk := some 0 } : Shard).passed = false ∧
    ({ tShard with lastChunk := some 0 } : Shard).chunks < shardChunks ({ tShard with lastChunk := some 0 } : Shard).entry ∧
    ({ tShard with lastChunk := some 0 } : Shard).lastChunk = some 0 ∧ (0 + (if ((tSlot .loading (fun l =>
    { l with shards := [{ tShard with lastChunk := some 0 }] }) (fun w => { w with loading := some 0 }))).hub.wgtWindow = 0 then 1 else
    ((tSlot .loading (fun l => { l with shards := [{ tShard with lastChunk := some 0 }] }) (fun w =>
    { w with loading := some 0 }))).hub.wgtWindow) * 1000000 ≤ ((State.atNs 20000000000 ((tSlot .loading (fun l =>
    { l with shards := [{ tShard with lastChunk := some 0 }] }) (fun w => { w with loading := some 0 }))))).hub.ns) ∧
    ({ tShard with lastChunk := some 0 } : Shard).tries < 2 ∧ (∀ y, y < (0 : Fin 2).val → windowPassed ((State.atNs 20000000000 ((tSlot
    .loading (fun l => { l with shards := [{ tShard with lastChunk := some 0 }] }) (fun w => { w with loading := some 0 }))))) (0 : CtxId) 0
    y = false) :=
    ⟨by decide, by decide, by decide, by decide, by decide, by decide, by decide, by decide, by decide, by decide, fun y h => absurd h (Nat.not_lt_zero y)⟩
theorem test_ShardsAreChecked_recheck : tOld.hub.recheckEn = true ∧ (∀ y, (tOld.wgt y).loading = none) ∧ (slotW (tOld.wgt (0 : CtxId)) (0 :
    Fin 2).val).state = .active ∧ (slotW (tOld.wgt (0 : CtxId)) (0 : Fin 2).val).shards[0]? = some ({ tShard with passed := true } : Shard)
    ∧ keptPart (slotW (tOld.wgt (0 : CtxId)) (0 : Fin 2).val) ({ tShard with passed := true } : Shard).entry = true ∧
    ({ tShard with passed := true } : Shard).passed = true ∧ ({ tShard with passed := true } : Shard).recheck = false ∧ weDie
    ({ tShard with passed := true } : Shard).entry < 8 ∧ (({ tShard with passed := true } : Shard).lastPass + (if tOld.hub.recheckInt = 0
    then 1 else tOld.hub.recheckInt) * 1000000000 ≤ (State.atNs 200000000000000 tOld).hub.ns) := by decide
/-- Slot 1 of context 0 is verified and slot 0 active with `n` requests. -/
def tTurn (n : Nat) : State := (tSlot .active id fun w => { w with refs := vset w.refs 0 n }).onSlot 0 1 fun l => { l with state := .verified }
/-- Slot 0 drains with `n` requests. -/
def tDrain (n : Nat) : State := tSlot .draining id fun w => { w with refs := vset w.refs 0 n }
theorem test_TurnsAndRequests_turn : TakesCommand (tTurn 3) 6 whoHSC tHost ∧ ((tTurn 3).wgt (0 : CtxId)).active = (0 : Fin 2) ∧ (1 : Fin
    2).val = 1 - (0 : Fin 2).val ∧ (slotW ((tTurn 3).wgt (0 : CtxId)) (1 : Fin 2).val).state = .verified ∧ ((tTurn 3).wgt (0 :
    CtxId)).loading = none := by unfold TakesCommand; decide
theorem test_TurnsAndRequests_none : TakesCommand (tDrain 1) 6 whoHSC tHost ∧ (slotW ((tDrain 1).wgt (0 : CtxId)) (1 - ((tDrain 1).wgt (0 :
    CtxId)).active.val)).state ≠ .verified := by unfold TakesCommand; decide
theorem test_TurnsAndRequests_begin : (0 : CtxId) = reqCtx (tTurn 3) (0 : CoreId) ∧ ((beginView (tTurn 3) ((tTurn 3).wgt 0))) = beginView
    (tTurn 3) ((tTurn 3).wgt (0 : CtxId)) ∧ ((beginView (tTurn 3) ((tTurn 3).wgt 0))).2.2 = false ∧ ((beginView (tTurn 3) ((tTurn 3).wgt
    0))).2.1 = .active ∧ vget ((tTurn 3).wgt (0 : CtxId)).refs 0 ((beginView (tTurn 3) ((tTurn 3).wgt 0))).1.val < 65535 := by decide
/-- Its active slot is quarantined. -/
def tQuar : State := tSlot .active id fun w => { w with quarantine := true }
theorem test_TurnsAndRequests_turned_away : (0 : CtxId) = reqCtx tQuar (0 : CoreId) ∧ (beginView tQuar (tQuar.wgt (0 : CtxId))).2.2 = true
    := by decide
theorem test_TurnsAndRequests_join : (0 : CtxId) = reqCtx (tDrain 3) (0 : CoreId) ∧ (slotW ((tDrain 3).wgt (0 : CtxId)) ((tDrain 3).cc (0 :
    CoreId)).reqSlot.val).state = .draining ∧ vget ((tDrain 3).wgt (0 : CtxId)).refs 0 ((tDrain 3).cc (0 : CoreId)).reqSlot.val < 65535 :=
    by decide
theorem test_TurnsAndRequests_last : (0 : CtxId) = reqCtx (tDrain 1) (0 : CoreId) ∧ vget ((tDrain 1).wgt (0 : CtxId)).refs 0 ((tDrain 1).cc
    (0 : CoreId)).reqSlot.val = 1 ∧ (slotW ((tDrain 1).wgt (0 : CtxId)) ((tDrain 1).cc (0 : CoreId)).reqSlot.val).state = .draining :=
    by decide
theorem test_TurnsAndRequests_end : (0 : CtxId) = reqCtx (tDrain 3) (0 : CoreId) ∧ 1 < vget ((tDrain 3).wgt (0 : CtxId)).refs 0 ((tDrain
    3).cc (0 : CoreId)).reqSlot.val := by decide

/-! ### Journal, snapshots, restore -/
/-- The snapshot registers of context 0 changed from reset. -/
def tSnp (f : SnpCtx → SnpCtx) : State := State.reset.onSnp 0 fun n => f { n with en := true, rtabCnt := 1, jEntries := 4, jRows := 2, jBase := 0x1000000000 }
/-- A journal command of step 1 waits for the mirror, repeated or not. -/
def tBusy (b : Bool) : State := tSnp fun n => { n with jBusy := some (1, 1, tHost, b) }
/-- A snapshot without chunks. -/
def tShot : SnpRun := ⟨0, 1, 0, [], false, [], [], [], [], 0⟩
theorem test_JournalEntries_entry : ((tSnp id).snp (0 : CtxId)).jBusy = none ∧ ((tSnp id).snp (0 : CtxId)).jHeld = none ∧ ((tSnp id).snp (0
    : CtxId)).jEntries ≠ 0 ∧ 1 ≤ 1 ∧ 1 ≤ ((tSnp id).snp (0 : CtxId)).jRows ∧ jnlCovered ((tSnp id).snp (0 : CtxId)) 1 = true := by decide
theorem test_JournalEntries_held : ((tSnp id).snp (0 : CtxId)).jBusy = none ∧ ((tSnp id).snp (0 : CtxId)).jHeld = none ∧ ((tSnp id).snp (0 :
    CtxId)).jEntries ≠ 0 ∧ 1 ≤ 1 ∧ 1 ≤ ((tSnp id).snp (0 : CtxId)).jRows ∧ jnlCovered ((tSnp id).snp (0 : CtxId)) 5 = false := by decide
theorem test_JournalEntries_mirror : (0xFFFF : BitVec 16).toNat = (tSnp id).hub.position := by decide
theorem test_JournalEntries_agrees : ((tBusy false).snp (0 : CtxId)).jBusy = some (1, 1, tHost, false) := by decide
theorem test_JournalEntries_repeat : ((tBusy false).snp (0 : CtxId)).jBusy = some (1, 1, tHost, false) := by decide
theorem test_JournalEntries_bad : ((tBusy true).snp (0 : CtxId)).jBusy = some (1, 1, tHost, true) := by decide
theorem test_SnapshotsAreTaken_window : ofContext (tSnp id) (0 : CtxId) Writer.manager = true ∧ ((tSnp id).snp (0 : CtxId)).window = none :=
    by decide
theorem test_SnapshotsAreTaken_other : ofContext (tSnp id) (0 : CtxId) Writer.host = false := by decide
theorem test_SnapshotsAreTaken_now : byManager Writer.manager = true ∧ snpCanStart ((tSnp id).snp (0 : CtxId)) = true := by decide
theorem test_SnapshotsAreTaken_not_manager : byManager Writer.host = false := by decide
theorem test_SnapshotsAreTaken_interval : (snpCanStart ((tSnp fun n => { n with window := some 0, level := true }).snp (0 : CtxId)) = true)
    ∧ (((tSnp fun n => { n with window := some 0, level := true }).snp (0 : CtxId)).window = some 0) ∧ (((tSnp fun n =>
    { n with window := some 0, level := true }).snp (0 : CtxId)).lastStart + snpIntervalMs (tSnp fun n =>
    { n with window := some 0, level := true }) (0 : CtxId) * 1000000 ≤ tbNow (tSnp fun n => { n with window := some 0, level := true })) :=
    by decide
/-- A range table of one range of one row is in memory, and a snapshot of it is under way in a window. -/
def tCopying (f : SnpRun → SnpRun) : State :=
  writeRow (tSnp fun n => { n with rtab := 0x1000000000, window := some 0, snp := some (f tShot) }) 0x1000000000
    (((0 : Row).put 0 6 0x1000010000).put 8 4 1)
theorem test_SnapshotsAreTaken_pressure : (snpCanStart ((tSnp fun n => { n with window := some 0, jStep := 3 }).snp (0 : CtxId)) = true) ∧
    (jnlPressure ((tSnp fun n => { n with window := some 0, jStep := 3 }).snp (0 : CtxId)) = true) := by decide
theorem test_SnapshotsAreTaken_chunk : ((tCopying id).snp (0 : CtxId)).snp = some tShot ∧ ((tCopying id).snp (0 : CtxId)).window = some 0 ∧
    (snpChunks (tCopying id) ((tCopying id).snp (0 : CtxId)))[0]? = some (((snpChunks (tCopying id) ((tCopying id).snp 0)).getD 0 ⟨0, 0, 0,
    0⟩)) ∧ tShot.signed = false ∧ ((tCopying id).snp (0 : CtxId)).level = false ∧ ((tShot.table.any fun y => y.1 == 0) = false) ∧
    ((tShot.notices.any fun y => y.2.1 % 16 == 0 % 16) = false) ∧ chunkIdle (tCopying id) (((snpChunks (tCopying id) ((tCopying id).snp
    0)).getD 0 ⟨0, 0, 0, 0⟩)) = true ∧ (∀ i, i < (((snpChunks (tCopying id) ((tCopying id).snp 0)).getD 0 ⟨0, 0, 0, 0⟩)).rows → readEcc
    (tCopying id) ((((snpChunks (tCopying id) ((tCopying id).snp 0)).getD 0 ⟨0, 0, 0, 0⟩)).addr + 512 * i) .clean = .clean) := by decide
theorem test_SnapshotsAreTaken_hosted : ((State.reset.onHl fun l => { l with hosted := [5] }).hub.hl.hosted.contains (5 : BitVec 16).toNat =
    true) ∧ ceChunk (0 : BitVec 512) ≠ commitChunk := by decide
/-- Module 5 is hosted here, and the backup supply is in range. -/
def tHosting : State := (State.reset.onHl fun l => { l with hosted := [5] }).onPwr fun p => { p with backupOk := true }
/-- The notice of commit pages of no rows. -/
def tPages : BitVec 512 := chunkEntry commitChunk 0 ⟨0, 0, 0, 0⟩ []
theorem test_SnapshotsAreTaken_pages : tHosting.hub.hl.hosted.contains (5 : BitVec 16).toNat = true ∧ ceChunk tPages = commitChunk ∧
    (tHosting.hub.pwr.mainOk = true ∨ tHosting.hub.pwr.backupOk = true) ∧ digestNat (sha256 (rowBytes (readRows tHosting 0x1000000000
    (ceRows tPages)))) = ceDigest tPages := ⟨by decide, by decide +kernel, by decide, by decide +kernel⟩
theorem test_SnapshotsAreTaken_timeout : (((tSnp fun n => { n with snp := some { tShot with notices := [(1, 0, 0)] } }).snp (0 : CtxId)).snp
    = some ({ tShot with notices := [(1, 0, 0)] } : SnpRun)) ∧ (({ tShot with notices := [(1, 0, 0)] } : SnpRun).notices.find? (fun y₀ =>
    y₀.2.2 + 100000000 ≤ (State.atNs 100000000 (tSnp fun n => { n with snp := some { tShot with notices := [(1, 0, 0)] } })).hub.ns) = some
    ((1, 0, 0) : Nat × Nat × Nat)) := by decide
theorem test_SnapshotsAreCommitted_signed : (((tSnp fun n => { n with snp := some tShot }).snp (0 : CtxId)).snp = some tShot) ∧ tShot.signed
    = false ∧ (snpCopied (tSnp fun n => { n with snp := some tShot }) ((tSnp fun n => { n with snp := some tShot }).snp (0 : CtxId)) tShot =
    true) := by decide
theorem test_SnapshotsAreCommitted_committed : ((((tSnp fun n => { n with snp := some { tShot with signed := true, commits := [1] } }).onPwr
    fun p => { p with mainOk := true }).snp (0 : CtxId)).snp = some ({ tShot with signed := true, commits := [1] } : SnpRun)) ∧
    ({ tShot with signed := true, commits := [1] } : SnpRun).signed = true ∧ ((((tSnp fun n =>
    { n with snp := some { tShot with signed := true, commits := [1] } }).onPwr fun p => { p with mainOk := true }).snp (0 :
    CtxId)).correlated = false) ∧ ({ tShot with signed := true, commits := [1] } : SnpRun).commits = [1] ∧ (((tSnp fun n =>
    { n with snp := some { tShot with signed := true, commits := [1] } }).onPwr fun p => { p with mainOk := true }).hub.pwr.mainOk = true) ∧
    ((((tSnp fun n => { n with snp := some { tShot with signed := true, commits := [1] } }).onPwr fun p => { p with mainOk := true }).snp (0
    : CtxId)).jHeld = none) := by decide
theorem test_SnapshotsAreCommitted_partner : (((tSnp fun n => { n with partnerRes := 1, snp := some { tShot with signed := true } }).snp (0
    : CtxId)).snp = some ({ tShot with signed := true } : SnpRun)) ∧ ({ tShot with signed := true } : SnpRun).signed = true ∧
    ({ tShot with signed := true } : SnpRun).commits = [] ∧ (((tSnp fun n =>
    { n with partnerRes := 1, snp := some { tShot with signed := true } }).snp (0 : CtxId)).partnerRes = 1) ∧
    ((({ tShot with signed := true } : SnpRun).notices.any fun y => y.1 == 1) = false) := by decide
theorem test_SnapshotsAreCommitted_spare : ((((tSnp fun n => { n with snp := some { tShot with signed := true } }).onPwr fun p =>
    { p with backupOk := true }).snp (0 : CtxId)).snp = some ({ tShot with signed := true } : SnpRun)) ∧ ({ tShot with signed := true } :
    SnpRun).signed = true ∧ ({ tShot with signed := true } : SnpRun).commits = [] ∧ (((tSnp fun n =>
    { n with snp := some { tShot with signed := true } }).onPwr fun p => { p with backupOk := true }).hub.pwr.backupOk = true) ∧ (2 ≤ ((tSnp
    fun n => { n with snp := some { tShot with signed := true } }).onPwr fun p => { p with backupOk := true }).hub.spares) := by decide
theorem test_SnapshotsAreCommitted_no_route : (0x10005 : Word).getLsbD 16 = true ∧ wayTo (tSnp id) (bitsOf (0x10005 : Word).toNat 0 16) 0 =
    .refused := by decide
theorem test_SnapshotsAreCommitted_off : (5 : Word).getLsbD 16 = false := by decide
theorem test_SnapshotsAreCommitted_risk : State.reset.hub.riskAt + 1000000000 ≤ (State.atNs 1000000000 State.reset).hub.ns := by decide
/-- A restore from two sources, with one journal source. -/
def tRestore : RestoreCmd := ⟨0, [5, 6], [5], 0, 0, 0⟩
/-- It runs, before a SEQ has been chosen. -/
def tRst : RstRun := ⟨tRestore, tHost, [], none, [], [], [], [], [], 1⟩
def tRestoring (r : RstRun) (n : Nat) : State := tSnp fun k => { k with rst := some r, jEntries := n }
/-- All is fetched; steps `es` are journalled. -/
def tReplay (es : List (Nat × Nat × Nat × Row)) : RstRun := { tRst with cmd := ⟨0, [5], [], 0, 0, 0⟩, seq := some 1, entries := es }
/-- The system manager as the sender of commands. -/
def tSm : CmdSrc := ⟨.manager, 1, 0, 0⟩
theorem test_RestoreAndReplay_start : (TakesCommand ((tSnp id).onLoad 0 fun l => { l with state := 2 }) 8 whoS tSm) ∧ (stripActive ((tSnp
    id).onLoad 0 fun l => { l with state := 2 }) (0 : CtxId).val = false) ∧ ((((tSnp id).onLoad 0 fun l => { l with state := 2 }).snp (0 :
    CtxId)).rst = none) ∧ ((((tSnp id).onLoad 0 fun l => { l with state := 2 }).loadOf (0 : CtxId)).state = 2) ∧ ((((tSnp id).onLoad 0 fun l
    => { l with state := 2 }).snp (0 : CtxId)).rtabCnt ≠ 0) ∧ namedPos (tRestore.sources.take 4) ≠ [] := by unfold TakesCommand; decide
/-- Core 0 has a strip of context 0 staged. -/
def tBusyCtx : State := (tSnp id).onSc 0 fun k => { k with staged := some (tStrip 0) }
theorem test_RestoreAndReplay_busy : TakesCommand tBusyCtx 8 whoS tSm ∧ stripActive tBusyCtx (0 : CtxId).val = true :=
    by unfold TakesCommand; decide
theorem test_RestoreAndReplay_head : ((tRestoring tRst 4).snp (0 : CtxId)).rst = some tRst ∧ tRst.seq = none ∧ tRst.heads = [] ∧ 0 <
    tRst.cmd.sources.length ∧ 0 < 2 ∧ 2 ≤ tRst.cmd.sources.length := by decide
theorem test_RestoreAndReplay_journal : ((tRestoring tRst 4).snp (0 : CtxId)).rst = some tRst ∧ tRst.seq = none ∧ tRst.jGot.contains (0, 0)
    = false ∧ 0 < tRst.cmd.jsources.length ∧ 0 < ((tRestoring tRst 4).snp (0 : CtxId)).jEntries ∧ entryValid (0 : CtxId) ((tRestoring tRst
    4).snp (0 : CtxId)) 0 [] = false := by decide
theorem test_RestoreAndReplay_replay : ((tRestoring (tReplay [(1, 0, 0, 0)]) 4).snp (0 : CtxId)).rst = some (tReplay [(1, 0, 0, 0)]) ∧
    fetched (0 : CtxId) ((tRestoring (tReplay [(1, 0, 0, 0)]) 4).snp (0 : CtxId)) (tReplay [(1, 0, 0, 0)]) = true ∧ stripActive (tRestoring
    (tReplay [(1, 0, 0, 0)]) 4) (0 : CtxId).val = false ∧ ((tReplay [(1, 0, 0, 0)]).entries.find? (fun e₀ => e₀.1 == (tReplay [(1, 0, 0,
    0)]).next) = some ((1, 0, 0, 0) : Nat × Nat × Nat × Row)) := by decide
theorem test_RestoreAndReplay_end : ((tRestoring (tReplay []) 4).snp (0 : CtxId)).rst = some (tReplay []) ∧ fetched (0 : CtxId) ((tRestoring
    (tReplay []) 4).snp (0 : CtxId)) (tReplay []) = true ∧ stripActive (tRestoring (tReplay []) 4) (0 : CtxId).val = false ∧ ((tReplay
    []).entries.find? (fun e => e.1 == (tReplay []).next) = none) := by decide

/-! ### Clocks, power, supplies -/
/-- The supplies changed from reset. -/
def tPwr (f : Pwr → Pwr) : State := State.reset.onPwr f
/-- The credit of every die at its present step is 100 mW. -/
def tCredit (f : Pwr → Pwr) : State := { tPwr f with dies := Vector.replicate 8 { Die.reset with creditMw := Vector.replicate 8 100 } }
/-- The module is powered. -/
def tOn (f : Pwr → Pwr) : State := tPwr fun p => f { p with alwaysOn := true, railsUp := true, hubUp := true, mainOk := true, backupOk := true }
theorem test_PoolsAndBudgets_pool : (tCredit id).hub.pwr.alwaysOn = true := by decide
theorem test_PoolsAndBudgets_budget : (tCredit id).hub.pwr.alwaysOn = true ∧ (Writer.headland = .headland ∨ Writer.headland = .manager) ∧
    (tCredit id).hub.pwr.level = false := by decide
theorem test_PoolsAndBudgets_expert : ((tCredit fun p => { p with level := true }).hub.pwr.alwaysOn = true) ∧ (Writer.headland = .headland ∨
    Writer.headland = .manager) ∧ ((tCredit fun p => { p with level := true }).hub.pwr.level = true) := by decide
theorem test_PoolsAndBudgets_overhead : (tCredit id).hub.pwr.alwaysOn = true ∧ (tCredit id).hub.pwr.level = false := by decide
/-- Every die is changing to step 1; clocks stopped at edge `e` if one is given. -/
def tChanging (e : Option Nat) : State :=
  { tOn id with dies := Vector.replicate 8 { Die.reset with stepTarget := 1, changing := true, stopped := e } }
theorem test_StepChanges_request : (poweredOn (tOn fun p => { p with profile := 1 }) = true) ∧ ((tOn fun p =>
    { p with profile := 1 }).hub.pwr.spread = (tOn fun p => { p with profile := 1 }).hub.pwr.spreadOn) ∧ (wantedStep (tOn fun p =>
    { p with profile := 1 }) (stepSet (tOn fun p => { p with profile := 1 }) (0 : DieId)) = some (1 : Fin 8).val) ∧ (stepMove (tOn fun p =>
    { p with profile := 1 }) (stepSet (tOn fun p => { p with profile := 1 }) (0 : DieId)) (1 : Fin 8).val = true) ∧ (∀ k, k ∈ stepSet (tOn
    fun p => { p with profile := 1 }) (0 : DieId) → ((tOn fun p => { p with profile := 1 }).die k).changing = false ∧ ((tOn fun p =>
    { p with profile := 1 }).die k).stopped = none) := by decide
theorem test_StepChanges_stop : poweredOn (tChanging none) = true ∧ (tChanging none).hub.pwr.spread = (tChanging none).hub.pwr.spreadOn ∧ (∀
    k, k ∈ stepSet (tChanging none) (0 : DieId) → ((tChanging none).die k).changing = true ∧ ((tChanging none).die k).stopped = none) ∧
    setQuiet (tChanging none) (stepSet (tChanging none) (0 : DieId)) = true := by decide
theorem test_StepChanges_restart : poweredOn (tChanging (some 9)) = true ∧ ((tChanging (some 9)).die (0 : DieId)).stopped = some 9 :=
    by decide
theorem test_PowerLimits_over : 1650 < 1700 := by decide
theorem test_PowerLimits_below : ((tOn fun p => { p with lowSince := some 0 }).hub.pwr.lowSince = some 0) ∧ (900 ≤ clampN 900 1650 (tOn fun
    p => { p with lowSince := some 0 }).hub.pwr.budget) ∧ 0 + 1000000000 ≤ 1000000000 := by decide
theorem test_PowerLimits_sample : (∀ r, r ∈ (List.replicate 37 300) → r < 800) ∧ (List.replicate 37 300).length = 37 := by decide
theorem test_PowerLimits_crit : (∃ i, i < 32 ∧ (critOf (tOn id).hub.pwr * 8 : Int) ≤ (List.replicate 37 1000).getD i 0) ∧ poweredOn (tOn id)
    = true := by decide
theorem test_PowerLimits_throttle : ((((tOn id).onDie 0 fun k => { k with tj := 800 }).hub.pwr.throttle * 8 : Int) ≤ (((tOn id).onDie 0 fun
    k => { k with tj := 800 }).die (0 : DieId)).tj) ∧ (∀ k, k ∈ stepSet ((tOn id).onDie 0 fun k => { k with tj := 800 }) (0 : DieId) →
    (((tOn id).onDie 0 fun k => { k with tj := 800 }).die k).thermal ≤ (((tOn id).onDie 0 fun k => { k with tj := 800 }).die (0 :
    DieId)).thermal) ∧ ((0 : DieId) ∈ stepSet ((tOn id).onDie 0 fun k => { k with tj := 800 }) (0 : DieId)) := by decide
theorem test_SuppliesSwitch_switch : (tOn id).hub.pwr.onBackup = false ∧ inputOk (tOn id).hub.pwr (!false) = true := by decide
theorem test_SuppliesSwitch_both_out : (inputOk (tOn fun p => { p with backupOk := false }).hub.pwr (!false) = false) ∧ ((tOn fun p =>
    { p with backupOk := false }).hub.pwr.outSince = none) := by decide
theorem test_SuppliesSwitch_in : (tOn id).hub.pwr.mateOpen = false ∧ inputOk (tOn id).hub.pwr (tOn id).hub.pwr.onBackup = true := by decide
theorem test_SuppliesSwitch_back : ((tOn fun p => { p with onBackup := true, mainSince := some 0 }).hub.pwr.prefer ≠ (tOn fun p =>
    { p with onBackup := true, mainSince := some 0 }).hub.pwr.onBackup) ∧ (inputOk (tOn fun p =>
    { p with onBackup := true, mainSince := some 0 }).hub.pwr (tOn fun p => { p with onBackup := true, mainSince := some 0 }).hub.pwr.prefer
    = true) ∧ (inputSince (tOn fun p => { p with onBackup := true, mainSince := some 0 }).hub.pwr (tOn fun p =>
    { p with onBackup := true, mainSince := some 0 }).hub.pwr.prefer = some 0) ∧ (0 + (if (tOn fun p =>
    { p with onBackup := true, mainSince := some 0 }).hub.pwr.returnMs = 0 then 1 else (tOn fun p =>
    { p with onBackup := true, mainSince := some 0 }).hub.pwr.returnMs) * 1000000 ≤ (State.atNs 100000000 (tOn fun p =>
    { p with onBackup := true, mainSince := some 0 })).hub.ns) := by decide
theorem test_PowerFailsAndReturns_fail : ((tOn fun p => { p with outSince := some 0, mainOk := false, backupOk := false }).hub.pwr.alwaysOn
    = true) ∧ ((tOn fun p => { p with outSince := some 0, mainOk := false, backupOk := false }).hub.pwr.fail = none) ∧ ((tOn fun p =>
    { p with outSince := some 0, mainOk := false, backupOk := false }).hub.pwr.outSince = some 0) ∧ (0 + 2000 ≤ (State.atNs 2000 (tOn fun p
    => { p with outSince := some 0, mainOk := false, backupOk := false })).hub.ns) := by decide
theorem test_PowerFailsAndReturns_rails : ((tOn fun p => { p with fail := some 0 }).hub.pwr.railsUp = true) ∧ ((tOn fun p =>
    { p with fail := some 0 }).hub.pwr.fail = some 0) ∧ (0 + 4000000 ≤ (State.atNs 4000000 (tOn fun p => { p with fail := some 0 })).hub.ns)
    := by decide
theorem test_PowerFailsAndReturns_trip : ((tOn fun p => { p with trip := some 0 }).hub.pwr.railsUp = true) ∧ ((tOn fun p =>
    { p with trip := some 0 }).hub.pwr.fail = none) ∧ ((tOn fun p => { p with trip := some 0 }).hub.pwr.trip = some 0) ∧ (0 + 4000000 ≤
    (State.atNs 4000000 (tOn fun p => { p with trip := some 0 })).hub.ns) := by decide
theorem test_PowerFailsAndReturns_cold : ((Instr.coldStart 100000000) = Instr.powerFailRestart 100000000 ∧ 10000000 = 100000000 ∧ (tPwr fun
    p => { p with alwaysOn := false, mainOk := true, mainSince := some 0 }).hub.pwr.fail.isSome ∧ (tPwr fun p =>
    { p with alwaysOn := false, mainOk := true, mainSince := some 0 }).hub.pwr.railsUp = false ∨ (Instr.coldStart 100000000) =
    Instr.coldStart 100000000 ∧ 10000000 = 10000000 ∧ (tPwr fun p =>
    { p with alwaysOn := false, mainOk := true, mainSince := some 0 }).hub.pwr.alwaysOn = false) ∧ ((tPwr fun p =>
    { p with alwaysOn := false, mainOk := true, mainSince := some 0 }).hub.pwr.mainSince = some 0) ∧ (0 + 10000000 ≤ (State.atNs 100000000
    (tPwr fun p => { p with alwaysOn := false, mainOk := true, mainSince := some 0 })).hub.ns) := by decide
theorem test_PowerFailsAndReturns_restart : ((Instr.powerFailRestart 100000000) = Instr.powerFailRestart 100000000 ∧ 100000000 = 100000000 ∧
    (tPwr fun p => { p with railsUp := false, fail := some 0, mainOk := true, mainSince := some 0 }).hub.pwr.fail.isSome ∧ (tPwr fun p =>
    { p with railsUp := false, fail := some 0, mainOk := true, mainSince := some 0 }).hub.pwr.railsUp = false ∨ (Instr.powerFailRestart
    100000000) = Instr.coldStart 100000000 ∧ 100000000 = 10000000 ∧ (tPwr fun p =>
    { p with railsUp := false, fail := some 0, mainOk := true, mainSince := some 0 }).hub.pwr.alwaysOn = false) ∧ ((tPwr fun p =>
    { p with railsUp := false, fail := some 0, mainOk := true, mainSince := some 0 }).hub.pwr.mainSince = some 0) ∧ (0 + 100000000 ≤
    (State.atNs 100000000 (tPwr fun p => { p with railsUp := false, fail := some 0, mainOk := true, mainSince := some 0 })).hub.ns) :=
    by decide
theorem test_PowerFailsAndReturns_straps : State.reset.hub.hl.strapped = false := by decide
theorem test_PowerFailsAndReturns_straps_again : ((State.reset.onHl fun l => { l with strapped := true }).hub.hl.strapped = true) :=
    by decide

/-! ### Host link, boot, trust, resets, registers -/
/-- The host link is up. -/
def tUp (f : Hl → Hl) : State := (tOn id).onHl fun l => f { l with malob := .up }
/-- A write of the host to the same deep-memory row is on its way. -/
def tBehind : State := { tUp id with net := [hostItem (tUp id) 0x1000000000 1] }
theorem test_HostLink_write : malobUp (tUp id) = true ∧ (∀ a ∈ [0, 0x100000000, 0x1000000000], populated a = true ∧ lockedRow (tUp id) a = false ∧
    hostFirst (tUp id) 0 (hostItem (tUp id) (rowBase a) 5) = true ∧ deepFirst (tUp id) 0 (hostItem (tUp id) (rowBase a) 5) = true) ∧
    (tUp id).hub.pwr.railsUp = true ∧ (tUp id).net = [] ∧ placeOf 0 = .plot 0 0 ∧ ((tUp id).cm 0).land = [] ∧ placeOf 0x100000000 = .commons 0 0 ∧
    placeOf 0x1000000000 = .deep 0 0 := by decide
theorem test_HostLink_behind : malobUp tBehind = true ∧ populated 0x1000000000 = true ∧ lockedRow tBehind 0x1000000000 = false ∧
    tBehind.hub.pwr.railsUp = true ∧ hostFirst tBehind tBehind.net.length (hostItem tBehind 0x1000000000 5) = false := by decide
theorem test_HostLink_unpopulated : malobUp (tUp id) = true ∧ (populated 0xFFFFFFFFF000 = false ∨ lockedRow (tUp id) 0xFFFFFFFFF000 = true)
    := by decide
theorem test_host_ready (i : Nat) (h : i < 1) (_ : populated (rowBase 0x1000000000 + 512 * i) = true) :
    readEcc (tUp id) (rowBase 0x1000000000 + 512 * i) .clean = .clean ∧ hostPending (tUp id) (rowBase 0x1000000000 + 512 * i) = none ∧
      ∀ d r, placeOf (rowBase 0x1000000000 + 512 * i) = .commons d r → gatedFor (tUp id) d r false = false := by
  obtain rfl : i = 0 := by omega
  exact ⟨by decide, by decide, fun d r e => by cases e⟩
theorem test_HostLink_read : malobUp (tUp id) = true ∧ 1 ≤ 1 ∧ 1 ≤ 256 ∧ (∀ i, i < 1 → populated (rowBase 0x1000000000 + 512 * i) = true →
    readEcc (tUp id) (rowBase 0x1000000000 + 512 * i) .clean = .clean ∧ hostPending (tUp id) (rowBase 0x1000000000 + 512 * i) = none ∧ ∀ d
    r, placeOf (rowBase 0x1000000000 + 512 * i) = .commons d r → gatedFor (tUp id) d r false = false) :=
    ⟨by decide, by decide, by decide, test_host_ready⟩
theorem test_HostLink_message : malobUp (tUp id) = true ∧ hostOutstanding (tUp id) < 64 ∧ mhMalformed (hostStamp (tUp id) (tMsg 2)) 0xFF
    true = false ∧ [5].length + 1 = mhLen (hostStamp (tUp id) (tMsg 2)) ∧ mhOrdered (hostStamp (tUp id) (tMsg 2)) = false ∧ mhDestCore (tMsg
    2) < 128 := by decide
/-- A write of the host is not yet performed. -/
def tOwed : State := tUp fun l => { l with wout := [(0xFFFF, 0, 0)] }
theorem test_HostLink_ordered : malobUp tOwed = true ∧ hostOutstanding tOwed < 64 ∧ mhMalformed (hostStamp tOwed ((tMsg 2).put 8 1 3)) 0xFF
    true = false ∧ [5].length + 1 = mhLen (hostStamp tOwed ((tMsg 2).put 8 1 3)) ∧ mhOrdered (hostStamp tOwed ((tMsg 2).put 8 1 3)) = true ∧
    ((tOwed.hub.hl.wout.any fun y => y.1 == tOwed.hub.position) = true) := by decide
theorem test_HostLink_malformed : malobUp (tUp id) = true ∧ hostOutstanding (tUp id) < 64 ∧ mhMalformed (hostStamp (tUp id) (tMsg 0)) 0xFF
    true = true := by decide
theorem test_HostLink_inbox : (malobUp (tUp fun l => { l with inRows := 8, inWptr := 5, inRptr := 5, inQ := [[tMsg 2, 5]] }) = true) ∧ ((tUp
    fun l => { l with inRows := 8, inWptr := 5, inRptr := 5, inQ := [[tMsg 2, 5]] }).hub.hl.inQ = ((tMsg 2) :: [5]) :: []) ∧ (fitAt (tUp fun
    l => { l with inRows := 8, inWptr := 5, inRptr := 5, inQ := [[tMsg 2, 5]] }).hub.hl.inRows (tUp fun l =>
    { l with inRows := 8, inWptr := 5, inRptr := 5, inQ := [[tMsg 2, 5]] }).hub.hl.inWptr (tUp fun l =>
    { l with inRows := 8, inWptr := 5, inRptr := 5, inQ := [[tMsg 2, 5]] }).hub.hl.inRptr (1 + [5].length) = some (false, 5)) ∧ mhSendCore
    (tMsg 2) < 128 := by decide
theorem test_HostLink_register_read : malobUp (tUp id) = true ∧ bitsOf (BitVec.ofNat 128 1).toNat 0 2 = 1 := by decide
theorem test_HostLink_register_none : malobUp (tUp id) = true ∧ bitsOf (BitVec.ofNat 128 2).toNat 0 2 = 2 ∧ regBlock (bitsOf (BitVec.ofNat
    128 2).toNat 2 48 * 4) = none := by decide
theorem test_BusAndSurvey_submit : (tOn id).hub.pwr.fail = none ∧ (tOn id).hub.pwr.alwaysOn = true := by decide
theorem test_BusAndSurvey_survey : (TakesCommand ((tOn id).onTb fun t => { t with master := true }) 0x10 whoS tSm) ∧ (((tOn id).onTb fun t
    => { t with master := true }).hub.tb.master = true) ∧ (((tOn id).onTb fun t => { t with master := true }).hub.hl.conflict = false) :=
    by unfold TakesCommand; decide
theorem test_BusAndSurvey_not_master : TakesCommand (tOn id) 0x10 whoS tSm ∧ (tOn id).hub.tb.master = false :=
    by unfold TakesCommand; decide
theorem test_BusAndSurvey_close : (((tOn id).onHl fun l => { l with censusEnd := some 0, census := [0xFFFF] }).hub.hl.censusEnd = some 0) ∧
    (0 ≤ (State.atNs 0 ((tOn id).onHl fun l => { l with censusEnd := some 0, census := [0xFFFF] })).hub.ns) := by decide
theorem test_BootAndTrust_boot : (tOn id).hub.hl.bootDone = false ∧ poweredOn (tOn id) = true ∧ (tOn id).hub.pwr.alwaysOn = true :=
    by decide
theorem test_BootAndTrust_update : TakesCommand (tOn id) 0x0E whoS tSm := by unfold TakesCommand; decide
theorem test_BootAndTrust_rollback : TakesCommand (tOn id) 0x0F whoS tSm ∧ (tOn id).hub.hl.recovery = false :=
    by unfold TakesCommand; decide
theorem test_BootAndTrust_recovery : (TakesCommand ((tOn id).onHl fun l => { l with recovery := true }) 0x0F whoS tSm) ∧ (((tOn id).onHl fun
    l => { l with recovery := true }).hub.hl.recovery = true) := by unfold TakesCommand; decide
theorem test_BootAndTrust_export : TakesCommand (tOn id) 0x0B whoHS tSm ∧ (∀ i, i ≤ (tOn id).hub.cal.1.length → populated (0x1000000000 +
    512 * i) = true) := by unfold TakesCommand; decide
theorem test_BootAndTrust_import : TakesCommand (tOn id) 0x0C whoS tSm := by unfold TakesCommand; decide
theorem test_BootAndTrust_self : TakesCommand (tOn id) 0x0D whoS tSm := by unfold TakesCommand; decide
theorem test_BootAndTrust_attest : TakesCommand (tOn id) 0x0A whoHS tSm := by unfold TakesCommand; decide
theorem test_ContextsAndResets_config : TakesCommand (tOn id) 3 whoHS tSm ∧ (List.replicate 12 (47 : BitVec 8)).length = 12 ∧ (∀ b, b ∈
    (List.replicate 12 (47 : BitVec 8)) → b.toNat < 48) ∧ (∀ e, ((tOn id).sc e).commit = false) ∧ (1 : BitVec 128).getLsbD (0 : CoreId).val
    = true ∧ fusedOff (tOn id) (0 : CoreId) = false := by unfold TakesCommand; decide
theorem test_ContextsAndResets_commit : ((tOn id).sc (0 : CoreId)).commit = false := by decide
/-- Core 0's configuration is committed. -/
def tLocked : State := (tOn id).onSc 0 fun k => { k with commit := true }
theorem test_ContextsAndResets_committed : (tLocked.sc (0 : CoreId)).commit = true := by decide
theorem test_ContextsAndResets_context : TakesCommand (tOn id) 9 whoHS tSm ∧ mergesContext (tOn id) (0 : CtxId) = false :=
    by unfold TakesCommand; decide
theorem test_ContextsAndResets_core : TakesCommand (tOn id) 9 whoHS tSm ∧ mergesCores (tOn id) (1 : BitVec 128) = false ∧ (1 : BitVec
    128).getLsbD (0 : CoreId).val = true ∧ fusedOff (tOn id) (0 : CoreId) = false := by unfold TakesCommand; decide
theorem test_ContextsAndResets_module : (tOn id).hub.pwr.fail = none ∧ (tOn id).hub.pwr.alwaysOn = true ∧ whoHS tSm.who = true ∧
    moduleMayReset (tOn id) = true ∧ moduleResetting (tOn id) = false := by decide
theorem test_ContextsAndResets_pin : 1000 ≤ 1000 ∧ (tOn id).hub.pwr.fail = none ∧ (tOn id).hub.pwr.alwaysOn = true ∧ moduleMayReset (tOn id)
    = true ∧ moduleResetting (tOn id) = false := by decide
theorem test_ContextsAndResets_core_done : ((((tOn id).onHl fun l => { l with resets := [⟨2, 1, 0, some tSm, []⟩] }).onCc 0 fun k =>
    { k with resetting := true, progOk := true }).hub.hl.resets = [⟨2, (1 : BitVec 128), (0 : CtxId), some tSm, ([] : List (CoreId ×
    Nat))⟩]) ∧ (1 : BitVec 128).getLsbD (0 : CoreId).val = true ∧ (fusedOff (((tOn id).onHl fun l =>
    { l with resets := [⟨2, 1, 0, some tSm, []⟩] }).onCc 0 fun k => { k with resetting := true, progOk := true }) (0 : CoreId) = false) :=
    by decide
theorem test_ContextsAndResets_module_done : ((((tOn id).onHl fun l => { l with resets := [⟨3, 0, 0, none, []⟩] }).onTb fun t =>
    { t with master := true }).hub.hl.resets = ⟨3, (0 : BitVec 128), (0 : CtxId), (none : Option CmdSrc), ([] : List (CoreId × Nat))⟩ :: [])
    := by decide
theorem test_RegistersAndLoads_none : regBlock 5 = none := by decide
theorem test_RegistersAndLoads_writer : (tOn id).hub.pwr.alwaysOn = true ∧ Writer.host ≠ .headland ∧ Writer.host ≠ .core (0 : CoreId) :=
    by decide
theorem test_RegistersAndLoads_drill : ((tOn id).en (0 : CoreId)).drlBusy = none := by decide
theorem test_RegistersAndLoads_drill_done : (((((tOn id).onE 0 fun e =>
    { e with drlBusy := some (3, Vector.replicate 2 0, Vector.replicate 4 0) })).en (0 : CoreId)).drlBusy = some (3, (Vector.replicate 2 0 :
    Vector Word 2), (Vector.replicate 4 0 : Vector Word 4))) ∧ (drlF 0 0 ⟨0, 0, 0, 0⟩) = drlF (vget (Vector.replicate 2 0 : Vector Word 2) 0
    0) (vget (Vector.replicate 2 0 : Vector Word 2) 0 1) ⟨vget (Vector.replicate 4 0 : Vector Word 4) 0 0, vget (Vector.replicate 4 0 :
    Vector Word 4) 0 1, vget (Vector.replicate 4 0 : Vector Word 4) 0 2, vget (Vector.replicate 4 0 : Vector Word 4) 0 3⟩ := by decide
theorem test_RegistersAndLoads_load : TakesCommand (tOn id) 1 whoHS tSm ∧ ((tOn id).loadOf (0 : CtxId)).busy = none ∧ stripActive (tOn id)
    (0 : CtxId).val = false := by unfold TakesCommand; decide
theorem test_RegistersAndLoads_load_busy : (TakesCommand (((tOn id).onSc 0 fun k => { k with staged := some (tStrip 0) })) 1 whoHS tSm) ∧
    (((((tOn id).onSc 0 fun k => { k with staged := some (tStrip 0) })).loadOf (0 : CtxId)).busy = none) ∧ (stripActive (((tOn id).onSc 0
    fun k => { k with staged := some (tStrip 0) })) (0 : CtxId).val = true) := by unfold TakesCommand; decide
theorem test_RegistersAndLoads_check : (((((tOn id).onLoad 0 fun l => { l with busy := some (0x1000000000, tSm), state := 1 })).loadOf (0 :
    CtxId)).busy = some (0x1000000000, tSm)) := by decide

/-! ### The whole block -/

/-- A sender with a tag that is too wide. -/
def tBadSrc : CmdSrc := ⟨.host, 2 ^ 24, 0, 0⟩
/-- One ill-formed command for each check on operands of cores, memory and engines. -/
def tIllFormed1 : List Instr :=
  [.stagingRowRead 0 0 (.corrected 16), .inboundRowArrival 0 0 0 (.bad 16), .commonsBankAccess 0 0 0 0 (.bad 16), .scrubRead (.plot 0 0) 0 (.bad 16),
   .plgExecutionStart 0 0 [(0, .bad 16)], .hrwChain 0 0 [(0, .bad 16)], .hrwBload 0 0 [(0, .bad 16)], .tlrUpd 0 0 [(0, .bad 16)],
   .stepAdvance tBadSrc 0 1, .pageInComplete 0 0 ⟨0, [(0, .bad 16)]⟩, .pageOutComplete 0 0 ⟨0, [(0, .bad 16)]⟩,
   .tlrRootfin 0 ⟨0, [(0, .bad 16)]⟩, .ctlHset 0 0 1 2 ⟨3, [(0, .bad 16)]⟩, .coreProgramCopyDone ⟨⟨0, 0⟩, [(0, .bad 16)]⟩, .hrwChain 0 0 [(1, .clean), (1, .clean)],
   .stepAdvance tHost 0 (2 ^ 64), .xfFill 0 0 [(0, .bad 16)], .xfMove 0 0 [(0, .bad 16)],
   .loadImage tBadSrc 0 0, .loadImage tHost 0 (2 ^ 48), .ccInstruction 0 0 (.bad 16) .clean, .ccInstruction 0 0 .clean (.bad 16),
   .rowWindowAccess 0 0 (.bad 16), .coreProgram tBadSrc 0 0 0 0, .coreProgram tHost 0 12288 0 0, .coreProgram tHost 0 0 129 0]
/-- One for each check on operands of messages, links, weights and snapshots. -/
def tIllFormed2 : List Instr :=
  [.sendRowRead 0 0 (.bad 16), .spillDrain 0 0 0 [(0, .bad 16)], .frameReceive 27 0 ⟨0, [], []⟩ (.good 0), .portTrainingComplete 27 0 0 0 (2 ^ 11),
   .remoteReadRequest 0 [(0, .bad 16)], .identFlit 27 0 (2 ^ 64) 0, .foldMessageArrival 0 (List.replicate 256 0),
   .weightLoad tBadSrc 0 ⟨0, 0, 0, 0, 0, 0, 0, 0, 0, 0, List.replicate 16 (0, 0)⟩, .weightLoad tHost 0 ⟨0, 0, 2 ^ 48, 0, 0, 0, 0, 0, 0, 0, List.replicate 16 (0, 0)⟩,
   .weightLoad tHost 0 ⟨0, 0, 0, 64, 0, 0, 0, 0, 0, 0, List.replicate 16 (0, 0)⟩, .weightLoad tHost 0 ⟨0, 0, 0, 0, 2 ^ 16, 0, 0, 0, 0, 0, List.replicate 16 (0, 0)⟩,
   .weightVerify tHost 0 ⟨0, 0, 0, 0, 0, 2 ^ 16, 0, 0, 0, 0, List.replicate 16 (0, 0)⟩, .weightVerify tHost 0 ⟨0, 0, 0, 0, 0, 0, 0, 0, 2 ^ 48, 0, List.replicate 16 (0, 0)⟩,
   .weightVerify tHost 0 ⟨0, 0, 0, 0, 0, 0, 0, 0, 0, 2 ^ 48, List.replicate 16 (0, 0)⟩, .weightVerify tHost 0 ⟨0, 0, 0, 0, 0, 0, 0, 0, 0, 0, []⟩,
   .weightKeys tBadSrc 0 0 0, .chunkReleaseSend 0 (2 ^ 32), .turn tBadSrc 0, .journalCommand tBadSrc 0 0 0, .journalCommand tHost 0 (2 ^ 64) 0,
   .journalCommand tHost 0 0 (2 ^ 32), .mirrorHeaderLand 0 (2 ^ 48), .snapshotChunkCopied 0 ⟨2 ^ 32, []⟩, .snapshotChunkCopied 0 ⟨0, [(0, .bad 16)]⟩, .partnerChunkNotice 0 0 (2 ^ 48) 0]
/-- One for each check on operands of the host, the system manager and the Headland. -/
def tIllFormed3 : List Instr :=
  [.restore tBadSrc 0 ⟨0, List.replicate 4 0, List.replicate 2 0, 0, 0, 0⟩, .restore tHost 0 ⟨2 ^ 16, List.replicate 4 0, List.replicate 2 0, 0, 0, 0⟩,
   .restore tHost 0 ⟨0, [], List.replicate 2 0, 0, 0, 0⟩, .restore tHost 0 ⟨0, List.replicate 4 (2 ^ 16), List.replicate 2 0, 0, 0, 0⟩,
   .restore tHost 0 ⟨0, List.replicate 4 0, [], 0, 0, 0⟩, .restore tHost 0 ⟨0, List.replicate 4 0, List.replicate 2 (2 ^ 16), 0, 0, 0⟩,
   .restore tHost 0 ⟨0, List.replicate 4 0, List.replicate 2 0, 2 ^ 384, 0, 0⟩, .restore tHost 0 ⟨0, List.replicate 4 0, List.replicate 2 0, 0, 2 ^ 384, 0⟩,
   .restore tHost 0 ⟨0, List.replicate 4 0, List.replicate 2 0, 0, 0, 2 ^ 48⟩, .sensorSample [], .hostRowWrite (2 ^ 48) 0, .hostRowRead (2 ^ 48) 1 0 [],
   .hostRowRead 0 0 0 [], .hostRowRead 0 257 0 [], .hostRowRead 0 1 (2 ^ 24) [], .hostRowRead 0 1 0 [(0, .bad 16)], .hostMessage 0 (List.replicate 256 0),
   .contextCfg tBadSrc 0 0 0 false false 0 [], .contextCfg tHost 0 0 0 false false 0 [0], .contextReset tBadSrc 0, .coreReset tBadSrc 0, .moduleReset tBadSrc,
   .attest tBadSrc 0 0, .attest tHost 0 (2 ^ 48), .calExport tBadSrc 0, .calExport tHost (2 ^ 48), .calImport tBadSrc 0 0, .calImport tHost (2 ^ 48) 0,
   .calImport tHost 0 (2 ^ 16), .calSelf tBadSrc 0, .fwUpdate tBadSrc 0 0, .fwUpdate tHost (2 ^ 48) 0, .fwUpdate tHost 0 (2 ^ 16), .rollbackCommit tBadSrc,
   .survey tBadSrc 0, .registerWrite .host ⟨2 ^ 48, 0⟩ 0, .registerWrite .host ⟨2, 0⟩ 0]
theorem test_wf_refuses_1 : (tIllFormed1.any fun i => i.wf) = false := by decide
theorem test_wf_refuses_2 : (tIllFormed2.any fun i => i.wf) = false := by decide
theorem test_wf_refuses_3 : (tIllFormed3.any fun i => i.wf) = false := by decide
theorem test_wf_accepts : ([Instr.hostRowRead 0x1000000000 256 0 [], .registerWrite .host ⟨0xF000000028, 0⟩ 5, .stagingRowRead 0 0 (.corrected 15)].all fun i => i.wf) = true := by
  decide
/-- One command waits. -/
def tWaiting : State := { State.reset with pending := [.timeBaseTick] }
theorem test_FrontCommandRuns_front : tWaiting.pending = .timeBaseTick :: [] := by decide
theorem test_FrontCommandRuns_empty : State.reset.pending = [] := by decide
theorem test_step_takes_front : step tWaiting = exec .timeBaseTick { tWaiting with pending := [] } := rfl
theorem test_step_idles : step State.reset = .next State.reset := rfl
theorem test_EveryCommandCompletes_tick : ∃ t, exec .timeBaseTick State.reset = .next t ∧ t.pending = State.reset.pending := ⟨_, rfl, rfl⟩
/-- The state after the tick. -/
def tTicked : State := match exec .timeBaseTick State.reset with
  | .next t => t
  | .fault _ => State.reset
  | .refused _ => State.reset
theorem test_StepKeepsSound_tick : step tWaiting = .next tTicked := rfl
theorem test_StepKeepsSound_sound : Sound tWaiting := by
  refine ⟨⟨rfl, rfl, fun c => ?_⟩, fun c => ?_⟩ <;> revert c <;> decide
theorem test_CommandsAreFramed_tick : storesNothing .timeBaseTick = true ∧ exec .timeBaseTick State.reset = .next tTicked := ⟨by decide, rfl⟩
theorem test_CommandsAreFramed_parts : leavesCores .timeBaseTick = true ∧ leavesDies .timeBaseTick = true ∧ leavesPorts .timeBaseTick = true := by decide
/-- R8's order of bytes: 0x0102 in a field of two bytes lies with 02 at the lower address. -/
theorem test_RowsAreLittleEndian_field : ((0 : Row).put 4 2 0x0102).bytes[4]? = some 2 ∧ ((0 : Row).put 4 2 0x0102).bytes[5]? = some 1 := by decide
theorem test_RowsAreLittleEndian_bit : (0 : Nat) < 4096 ∧ (5 : Row).bytes[0 / 8]? = some (5 : Byte) := by decide
theorem test_StakesSaturate_within : (vget (State.reset.sc 0).stk 0 47).toNat + 255 ≤ 255 := by decide
theorem test_StakesSaturate_beyond : 255 < (vget (State.reset.sc 0).stk 0 47).toNat + 256 ∧
    debugMode ((tRun 0).onDie 0 fun k => { k with debug := true }) 0 = true ∧
    (((tRun 0).onDie 0 fun k => { k with debug := true }).sc 0).strip.isSome = true := by decide
theorem test_CorrectedErrorsAreCounted_plot : placeOf 0x5FFE00 = .plot 0 12287 ∧ keepUe (State.reset.cm 0).err 18 = false := by decide
theorem test_CorrectedErrorsAreCounted_commons : placeOf 0x4FFFFFE00 = .commons 7 4194303 ∧ keepUe (State.reset.die 7).cmnErr 26 = false := by decide
theorem test_CorrectedErrorsAreCounted_deep : placeOf 0x1000000000 = .deep 0 0 ∧ keepUe (State.reset.die 0).dmErr 27 = false := by decide
theorem test_CorrectedErrorsAreCounted_host : malobUp (tUp id) = true ∧ populated 0x1000000000 = true ∧
    readEcc (tUp id) (rowBase 0x1000000000) (.corrected 3) = .corrected 3 ∧ hostPending (tUp id) (rowBase 0x1000000000) = none ∧
    placeOf (rowBase 0x1000000000) = .deep 0 0 := by decide

end Sys2Proof.Machine
end

section
/-! SUPPORT. R8: where the bytes of a row lie in memory, and what a row's fields and bits are in terms of its bytes. -/

namespace Sys2Proof.Machine

open Sys2Proof

/-! ### Little-endian bytes of a number -/

theorem leBytes_drop (k j n : Nat) : (leBytes k n).drop j = leBytes (k - j) (n / 256 ^ j) := by
  induction j generalizing k n with
  | zero => simp
  | succ j ih =>
    cases k with
    | zero => simp [leBytes]
    | succ k => rw [leBytes, List.drop_succ_cons, ih, Nat.div_div_eq_div_mul, ← Nat.pow_succ', Nat.add_sub_add_right]

theorem leBytes_take (k j n : Nat) : (leBytes k n).take j = leBytes (min j k) n := by
  induction j generalizing k n with
  | zero => simp [leBytes]
  | succ j ih =>
    cases k with
    | zero => simp [leBytes]
    | succ k => rw [leBytes, List.take_succ_cons, ih, Nat.succ_min_succ, leBytes]

theorem leBytes_getElem? {k i : Nat} (n : Nat) (h : i < k) : (leBytes k n)[i]? = some (BitVec.ofNat 8 (n / 256 ^ i)) := by
  obtain ⟨d, hd⟩ : ∃ d, k - i = d + 1 := ⟨k - i - 1, by omega⟩
  rw [← List.head?_drop, leBytes_drop, hd, leBytes, List.head?_cons]

theorem pow_256_eq (i : Nat) : 256 ^ i = 2 ^ (8 * i) := (Nat.pow_mul 2 8 i).symm

/-! ### The fields and bits of a row -/

/-- A field spells the bytes at its offset, the lowest address first (R8). -/
theorem Row.field_eq_ofLe (r : Row) {off len : Nat} (h : off + len ≤ 512) :
    r.field off len = ofLe ((r.bytes.drop off).take len) := by
  have hlen : min len (512 - off) = len := by omega
  rw [Row.bytes, leBytes_drop, leBytes_take, hlen, ofLe_leBytes, pow_256_eq, pow_256_eq, Row.field]

/-- A row's bits are those of its bytes, eight to a byte (R8). -/
theorem Row.getLsbD_of_bytes (r : Row) {n : Nat} {b : Byte} (hn : n < 4096) (hb : r.bytes[n / 8]? = some b) :
    r.getLsbD n = b.getLsbD (n % 8) := by
  rw [Row.bytes, leBytes_getElem? _ (by omega : n / 8 < 512), Option.some.injEq] at hb
  have hmod : n % 8 < 8 := Nat.mod_lt _ (by decide)
  rw [← hb, BitVec.getLsbD_ofNat, decide_eq_true hmod, Bool.true_and, pow_256_eq, Nat.testBit_div_two_pow, Nat.mod_add_div]
  rfl

/-! ### The bytes of a list of cells -/

theorem cellGet_cons (x : Host.Cell) (m : List Host.Cell) (b : Nat) :
    cellGet (x :: m) b = if x.1 = b then x.2 else cellGet m b := by
  by_cases h : x.1 = b <;> simp [cellGet, h]

theorem cellGet_append_of_absent_left {l : List Host.Cell} {b : Nat} (m : List Host.Cell) (h : ∀ x ∈ l, x.1 ≠ b) :
    cellGet (l ++ m) b = cellGet m b := by
  induction l with
  | nil => rfl
  | cons x l ih =>
    obtain ⟨hx, hl⟩ := List.forall_mem_cons.mp h
    rw [List.cons_append, cellGet_cons, if_neg hx, ih hl]

theorem cellGet_of_absent {m : List Host.Cell} {b : Nat} (h : ∀ x ∈ m, x.1 ≠ b) : cellGet m b = memDefault := by
  rw [← List.append_nil m, cellGet_append_of_absent_left [] h]
  rfl

theorem cellGet_append_of_absent_right {m : List Host.Cell} {b : Nat} (l : List Host.Cell) (h : ∀ x ∈ m, x.1 ≠ b) :
    cellGet (l ++ m) b = cellGet l b := by
  induction l with
  | nil => exact cellGet_of_absent h
  | cons x l ih => rw [List.cons_append, cellGet_cons, cellGet_cons, ih]

/-- A new cell reads as the byte it was made of: a byte at the default has no cell, and an absent cell reads as the default. -/
theorem cellGet_newCells {bs : List Byte} {k : Nat} (a : Nat) (hk : k < bs.length) : cellGet (newCells a bs) (a + k) = bs[k] := by
  induction bs generalizing a k with
  | nil => exact absurd hk (Nat.not_lt_zero k)
  | cons b bs ih =>
    cases k with
    | zero =>
      have habsent : ∀ x ∈ newCells (a + 1) bs, x.1 ≠ a := fun x hx => by
        have := (mem_newCells hx).1
        omega
      by_cases hb : b = memDefault
      · simp [newCells, hb, cellGet_of_absent habsent]
      · simp [newCells, hb, cellGet_cons]
    | succ k =>
      have hk' : k < bs.length := Nat.lt_of_succ_lt_succ hk
      have htail : cellGet (newCells (a + 1) bs) (a + (k + 1)) = bs[k] := by
        rw [← ih (a + 1) hk', Nat.add_right_comm, Nat.add_assoc]
      by_cases hb : b = memDefault
      · simpa [newCells, hb] using htail
      · simpa [newCells, hb, cellGet_cons] using htail

/-- A written byte reads back, whatever cells were there before. -/
theorem cellGet_writeCells_self (m : List Host.Cell) {bs : List Byte} {k : Nat} (a : Nat) (hk : k < bs.length) :
    cellGet (writeCells m a bs) (a + k) = bs[k] := by
  have hbelow : ∀ x ∈ m.filter (fun x => x.1 < a), x.1 ≠ a + k := fun x hx => by
    have := of_decide_eq_true (List.mem_filter.mp hx).2
    omega
  have habove : ∀ x ∈ m.filter (fun x => a + bs.length ≤ x.1), x.1 ≠ a + k := fun x hx => by
    have := of_decide_eq_true (List.mem_filter.mp hx).2
    omega
  rw [writeCells, cellGet_append_of_absent_right _ habove, cellGet_append_of_absent_left _ hbelow, cellGet_newCells a hk]

/-- Byte `k` of a written row lies `k` addresses above the row's own (R8, R84). -/
theorem cellGet_writeRowAt_self (m : List Host.Cell) (a : Nat) (r : Row) {k : Nat} (hk : k < 512) :
    some (cellGet (writeRowAt m a r) (a + k)) = r.bytes[k]? := by
  have hlen : k < r.bytes.length := by rwa [Row.bytes_length]
  rw [writeRowAt, cellGet_writeCells_self m a hlen, List.getElem?_eq_getElem hlen]

/-- Settles O58: the order of bytes in memory, in a field and of bits in a byte, one lemma for each. -/
theorem rowsAreLittleEndian : Obligations.RowsAreLittleEndian := fun m a r =>
  ⟨fun _ hk => cellGet_writeRowAt_self m a r hk, fun _ _ h => Row.field_eq_ofLe r h, fun _ _ hn hb => Row.getLsbD_of_bytes r hn hb⟩

end Sys2Proof.Machine
end

section
/-! SUPPORT. R44: which operations leave the stakes and the hazard bits of CORE_DEBUG_STS as they are, and what an addition does to them. -/

namespace Sys2Proof.Machine

open Sys2Proof

/-- What R44 speaks of in a core: its stakes, and STK_OVF, HAZARD and CHECK of CORE_DEBUG_STS. -/
def stakeStatus (sc : Sched) : Vector (BitVec 8) 48 × Bool × Bool × Nat := (sc.stk, sc.stkOvf, sc.hazard, sc.check)

theorem stakeStatus_eq_iff {a b : Sched} :
    stakeStatus a = stakeStatus b ↔ a.stk = b.stk ∧ a.stkOvf = b.stkOvf ∧ a.hazard = b.hazard ∧ a.check = b.check := by
  simp [stakeStatus]

/-! ### What leaves the stakes and the hazard bits as they are -/

theorem stakeStatus_onCore {f : Core → Core} (c c' : CoreId) (s : State) (hf : ∀ k, stakeStatus (f k).sc = stakeStatus k.sc) :
    stakeStatus ((s.onCore c f).sc c') = stakeStatus (s.sc c') := by
  by_cases h : c = c'
  · subst h
    rw [State.onCore_sc_self, hf, State.sc]
  · rw [State.onCore_sc_ne _ _ _ _ h]

theorem stakeStatus_onSc {f : Sched → Sched} (c c' : CoreId) (s : State) (hf : ∀ sc, stakeStatus (f sc) = stakeStatus sc) :
    stakeStatus ((s.onSc c f).sc c') = stakeStatus (s.sc c') :=
  stakeStatus_onCore c c' s fun k => hf k.sc

/-- Raising an event marks a register bit and stores nothing else in the schedule part (R319). -/
@[simp] theorem stakeStatus_onCore_raiseEvent (b : Nat) (c c' : CoreId) (s : State) :
    stakeStatus ((s.onCore c (raiseEvent b)).sc c') = stakeStatus (s.sc c') :=
  stakeStatus_onCore c c' s fun _ => rfl

@[simp] theorem stakeStatus_ccEvent (b : Nat) (c c' : CoreId) (s : State) :
    stakeStatus ((ccEvent c b s).sc c') = stakeStatus (s.sc c') :=
  stakeStatus_onCore_raiseEvent b c c' s

@[simp] theorem stakeStatus_pushReq (n : Nat) (c c' : CoreId) (s : State) :
    stakeStatus ((pushReq c n s).sc c') = stakeStatus (s.sc c') := by
  unfold pushReq
  dsimp only
  rw [stakeStatus_onSc, State.onDie_sc]
  exact fun _ => rfl

@[simp] theorem stakeStatus_dropRequests (c c' : CoreId) (s : State) :
    stakeStatus ((dropRequests c s).sc c') = stakeStatus (s.sc c') := by
  unfold dropRequests
  rw [stakeStatus_onSc, State.onDie_sc]
  exact fun _ => rfl

/-- The release of a stall sets its cycle and may ask lent credit back (R54, R72); it takes nothing off a stake. -/
@[simp] theorem stakeStatus_checkRelease (c c' : CoreId) (s : State) :
    stakeStatus ((checkRelease c s).sc c') = stakeStatus (s.sc c') := by
  have hrel (st : Stall) : stakeStatus ((s.onSc c fun sc => { sc with stall := some { st with released := some sc.wall } }).sc c') =
      stakeStatus (s.sc c') := stakeStatus_onSc c c' s fun _ => rfl
  unfold checkRelease
  split
  · dsimp only
    split
    · split
      · exact hrel _
      · rw [stakeStatus_pushReq, stakeStatus_onSc, hrel]
        exact fun _ => rfl
    · rfl
  · rfl

@[simp] theorem stakeStatus_postFault (f : Flt) (c c' : CoreId) (s : State) :
    stakeStatus ((postFault c f s).sc c') = stakeStatus (s.sc c') := by
  unfold postFault
  dsimp only
  rw [trace_sc, headlandCopy_sc]
  (repeat' split) <;> simp only [stakeStatus_onCore_raiseEvent, State.onCc_sc]

@[simp] theorem stakeStatus_faultCore (c c' : CoreId) (s : State) :
    stakeStatus ((faultCore c s).sc c') = stakeStatus (s.sc c') := by
  refine stakeStatus_onSc c c' s fun sc => ?_
  cases sc.run with
  | running | idle | faulted => rfl
  | stalled =>
    dsimp only
    split <;> rfl

@[simp] theorem lsGap_sc (n : Nat) (s : State) (c' : CoreId) : (lsGap n s).sc c' = s.sc c' := by
  unfold lsGap
  split
  · rfl
  · rw [hubSetBit_sc, State.onLs_sc]

/-- A divergence makes a record and may fault a core (R404), whichever core it is. -/
@[simp] theorem stakeStatus_lsCompare (a b : FoldRec) (ctx cyc : Nat) (s : State) (c' : CoreId) :
    stakeStatus ((lsCompare a b ctx cyc s).sc c') = stakeStatus (s.sc c') := by
  unfold lsCompare
  dsimp only
  split
  · split <;> simp only [State.onLs_sc]
  · split
    · simp only [State.onLs_sc, headlandFault_sc, attention_sc, hubSetBit_sc]
    · split <;> simp only [stakeStatus_faultCore, stakeStatus_postFault, State.onLs_sc, attention_sc, hubSetBit_sc]

@[simp] theorem stakeStatus_lsKeep (r : FoldRec) (ctx cyc : Nat) (s : State) (c' : CoreId) :
    stakeStatus ((lsKeep r ctx cyc s).sc c') = stakeStatus (s.sc c') := by
  unfold lsKeep
  dsimp only
  (repeat' split) <;> simp only [stakeStatus_lsCompare, lsGap_sc, State.onLs_sc]

@[simp] theorem stakeStatus_handFold (fault : Bool) (c c' : CoreId) (s : State) :
    stakeStatus ((handFold c fault s).sc c') = stakeStatus (s.sc c') := by
  unfold handFold lsLocal
  dsimp only
  split <;> simp only [stakeStatus_lsKeep, State.onLs_sc, State.onE_sc]

/-- Stakes stay when a strip ends by a fault (R64). -/
@[simp] theorem stakeStatus_endByFault (c c' : CoreId) (s : State) :
    stakeStatus ((endByFault c s).sc c') = stakeStatus (s.sc c') := by
  unfold endByFault
  dsimp only
  rw [stakeStatus_onSc]
  · rw [dropOrdered_sc, stakeStatus_dropRequests, State.onE_sc]
    have hcount : stakeStatus ((if (s.sc c).run != .stalled then s
        else s.onSc c fun sc => { sc with stallCyc := sc.stallCyc + 1, stripStall := satAdd 0xFFFFFFFF sc.stripStall 1 }).sc c') =
        stakeStatus (s.sc c') := by
      split
      · rfl
      · exact stakeStatus_onSc c c' s fun _ => rfl
    split
    · rw [stakeStatus_ccEvent, trace_sc, stakeStatus_handFold, hcount]
    · exact hcount
  · intro sc
    split <;> rfl

theorem endByFault_run (c : CoreId) (s : State) : ((endByFault c s).sc c).run = .faulted := by
  unfold endByFault
  rw [State.onSc_sc_self]

/-- A hazard's stop keeps the stakes and STK_OVF, sets HAZARD and holds its check number (R77, R80). -/
theorem hazardStop_stakeStatus (c : CoreId) (source tag check row : Nat) (s : State) :
    ((hazardStop c source tag check row s).sc c).stk = (s.sc c).stk ∧
      ((hazardStop c source tag check row s).sc c).stkOvf = (s.sc c).stkOvf ∧
      ((hazardStop c source tag check row s).sc c).hazard = true ∧
      ((hazardStop c source tag check row s).sc c).check = check := by
  have hstop (t : State) := stakeStatus_eq_iff.mp (stakeStatus_endByFault c c t)
  have hpost (f : Flt) := stakeStatus_eq_iff.mp (stakeStatus_postFault f c c s)
  simp [hazardStop, hstop, hpost]

theorem hazardStop_run (c : CoreId) (source tag check row : Nat) (s : State) :
    ((hazardStop c source tag check row s).sc c).run = .faulted :=
  endByFault_run c _

/-! ### What an addition does (R44) -/

/-- The stake that is added to takes the sum, or 255 where the sum is beyond it. -/
theorem toNat_vget_stakeAdd_stk (sc : Sched) {k : Nat} (n : Nat) (hk : k < 48) :
    (vget (stakeAdd sc k n).stk 0 k).toNat = min ((vget sc.stk 0 k).toNat + n) 255 := by
  have hstk : (stakeAdd sc k n).stk = vset sc.stk k
      (BitVec.ofNat 8 (if (vget sc.stk 0 k).toNat + n ≤ 255 then (vget sc.stk 0 k).toNat + n else 255)) := by
    rw [stakeAdd, if_pos hk]
    dsimp only
    split <;> rfl
  rw [hstk, vget_vset_self _ _ _ _ hk, BitVec.toNat_ofNat]
  split <;> omega

theorem stakeAdd_stkOvf (sc : Sched) {k : Nat} (n : Nat) (hk : k < 48) :
    (stakeAdd sc k n).stkOvf = (sc.stkOvf || decide (255 < (vget sc.stk 0 k).toNat + n)) := by
  rw [stakeAdd, if_pos hk]
  dsimp only
  split <;> rfl

theorem stakeStatus_arriveStake (c : CoreId) (k n : Nat) (s : State) :
    stakeStatus ((arriveStake c k n s).sc c) = stakeStatus (stakeAdd (s.sc c) k n) := by
  rw [arriveStake, stakeStatus_checkRelease, State.onSc_sc_self]

theorem stakeOverflows_iff {s : State} {c : CoreId} {k : Nat} (n : Nat) (hk : k < 48) :
    stakeOverflows s c k n = true ↔ 255 < (vget (s.sc c).stk 0 k).toNat + n := by
  simp [stakeOverflows, hk]

/-- Whether or not the core is stopped, its stakes and STK_OVF are those the arrival leaves. -/
theorem addStake_stk_stkOvf (c : CoreId) (k n source tag : Nat) (s : State) :
    ((addStake c k n source tag s).sc c).stk = (stakeAdd (s.sc c) k n).stk ∧
      ((addStake c k n source tag s).sc c).stkOvf = (stakeAdd (s.sc c) k n).stkOvf := by
  obtain ⟨hstk, hovf, -, -⟩ := stakeStatus_eq_iff.mp (stakeStatus_arriveStake c k n s)
  unfold addStake
  dsimp only
  split
  · obtain ⟨hstk', hovf', -, -⟩ := hazardStop_stakeStatus c source tag 6 0 (arriveStake c k n s)
    exact ⟨hstk'.trans hstk, hovf'.trans hovf⟩
  · exact ⟨hstk, hovf⟩

/-- Check 6 of debug mode: an addition beyond 255 stops the core of a strip (R44, R77). -/
theorem addStake_of_overflows_debug {s : State} {c : CoreId} {k n : Nat} (source tag : Nat) (h : stakeOverflows s c k n = true)
    (hdebug : debugMode s c = true) (hstrip : (s.sc c).strip.isSome = true) :
    addStake c k n source tag s = hazardStop c source tag 6 0 (arriveStake c k n s) := by
  simp [addStake, h, hdebug, hstrip]

/-- Settles O59: the saturated sum and STK_OVF come from the arrival and a stop keeps them; debug mode's check 6 is the stop. -/
theorem stakesSaturate : Obligations.StakesSaturate := by
  intro c k n source tag s hk
  obtain ⟨hstk, hovf⟩ := addStake_stk_stkOvf c k n source tag s
  have hsum := toNat_vget_stakeAdd_stk (s.sc c) n hk
  have hsticky := stakeAdd_stkOvf (s.sc c) n hk
  rw [hstk, hovf]
  refine ⟨fun hle => ⟨?_, ?_⟩, fun hlt => ⟨?_, ?_, fun hdebug hstrip => ?_⟩⟩
  · rw [hsum, min_eq_left hle]
  · rw [hsticky, decide_eq_false hle.not_gt, Bool.or_false]
  · exact BitVec.eq_of_toNat_eq (hsum.trans (min_eq_right hlt.le))
  · rw [hsticky, decide_eq_true hlt, Bool.or_true]
  · have hover : stakeOverflows s c k n = true := (stakeOverflows_iff n hk).mpr hlt
    rw [addStake_of_overflows_debug source tag hover hdebug hstrip]
    obtain ⟨-, -, hhazard, hcheck⟩ := hazardStop_stakeStatus c source tag 6 0 (arriveStake c k n s)
    exact ⟨hhazard, hcheck, hazardStop_run c source tag 6 0 _⟩

end Sys2Proof.Machine
end

section
/-! SUPPORT. R118: what a corrected error leaves in its tier's counter and ERR_ADDR word, and how a host read delivers the row. -/

namespace Sys2Proof.Machine

open Sys2Proof

/-! ### Rows of a tier (R124) -/

theorem lt_of_placeOf_eq_plot {a r : Nat} {c : CoreId} (h : placeOf a = .plot c r) : r < 12288 := by
  unfold placeOf at h
  split_ifs at h
  obtain ⟨-, rfl⟩ := Place.plot.inj h
  assumption

theorem lt_of_placeOf_eq_commons {a r : Nat} {d : DieId} (h : placeOf a = .commons d r) : r < 2 ^ 22 := by
  unfold placeOf at h
  split_ifs at h
  obtain ⟨-, rfl⟩ := Place.commons.inj h
  omega

theorem lt_of_placeOf_eq_deep {a r : Nat} {d : DieId} (h : placeOf a = .deep d r) : r < 23592960 := by
  unfold placeOf at h
  split_ifs at h
  obtain ⟨-, rfl⟩ := Place.deep.inj h
  assumption

/-- The address of a row's byte 0 names the same row. -/
theorem populated_rowBase (a : Nat) : populated (rowBase a) = populated a := by
  refine populated_congr ?_
  unfold rowBase
  omega

/-! ### The error registers (R126 to R129) -/

theorem satAdd_eq_min (top n k : Nat) : satAdd top n k = min top (n + k) := by
  unfold satAdd
  split <;> omega

/-- A record of 31 bits stays clear of the valid bit of ERR_ADDR. -/
theorem toNat_errAddr {rec : Nat} (h : rec < 2 ^ 31) : (BitVec.ofNat 32 (2 ^ 31 + rec)).toNat = 2 ^ 31 + rec := by
  rw [BitVec.toNat_ofNat, Nat.mod_eq_of_lt (by omega)]

theorem errAddr_valid {rec : Nat} (h : rec < 2 ^ 31) : (BitVec.ofNat 32 (2 ^ 31 + rec)).getLsbD 31 = true := by
  rw [BitVec.getLsbD, toNat_errAddr h, Nat.testBit_two_pow_add_eq, Nat.testBit_lt_two_pow h, Bool.not_false]

/-- The row number lies below the codeword number. -/
theorem bitsOf_errAddr {row cw cwBit : Nat} (hrow : row < 2 ^ cwBit) (hbit : cwBit ≤ 31) (h : row + cw * 2 ^ cwBit < 2 ^ 31) :
    bitsOf (BitVec.ofNat 32 (2 ^ 31 + (row + cw * 2 ^ cwBit))).toNat 0 cwBit = row := by
  have hvalid : 2 ^ 31 % 2 ^ cwBit = 0 := Nat.mod_eq_zero_of_dvd (Nat.pow_dvd_pow 2 hbit)
  rw [toNat_errAddr h, bitsOf, Nat.pow_zero, Nat.div_one, Nat.add_mod, hvalid, Nat.zero_add, Nat.mod_mod, Nat.add_mul_mod_self_right,
    Nat.mod_eq_of_lt hrow]

/-- A corrected error is counted, and recorded unless the record is of an uncorrectable one. -/
theorem note_corrected (e : ErrReg) (ueBit : Nat) {row cw cwBit : Nat} (hrow : row < 2 ^ cwBit) (hbit : cwBit ≤ 31)
    (h : row + cw * 2 ^ cwBit < 2 ^ 31) :
    (e.note ueBit row (.corrected cw) cwBit).ce = min 0xFFFF (e.ce + 1) ∧
      (keepUe e ueBit = false → bitsOf (e.note ueBit row (.corrected cw) cwBit).addr.toNat 0 cwBit = row ∧
        (e.note ueBit row (.corrected cw) cwBit).addr.getLsbD 31 = true) := by
  refine ⟨satAdd_eq_min _ _ _, fun hkeep => ?_⟩
  have haddr : (e.note ueBit row (.corrected cw) cwBit).addr = BitVec.ofNat 32 (2 ^ 31 + (row + cw * 2 ^ cwBit)) := by
    rw [ErrReg.note, hkeep, ← Nat.add_assoc]
    rfl
  rw [haddr]
  exact ⟨bitsOf_errAddr hrow hbit h, errAddr_valid h⟩

/-! ### The tier that records a corrected error (R118) -/

theorem noteEcc_corrected_plot (s : State) (w : Nat) {a r : Nat} {c : CoreId} (h : placeOf a = .plot c r) :
    ((noteEcc s a (.corrected w)).cm c).err = (s.cm c).err.note 18 r (.corrected (w % 16)) 14 := by
  simp [noteEcc, h, eccWithin]

theorem noteEcc_corrected_commons (s : State) (w : Nat) {a r : Nat} {d : DieId} (h : placeOf a = .commons d r) :
    ((noteEcc s a (.corrected w)).die d).cmnErr = (s.die d).cmnErr.note 26 r (.corrected (w % 16)) 22 := by
  simp [noteEcc, h, eccWithin]

theorem noteEcc_corrected_deep (s : State) (w : Nat) {a r : Nat} {d : DieId} (h : placeOf a = .deep d r) :
    ((noteEcc s a (.corrected w)).die d).dmErr = (s.die d).dmErr.note 27 r (.corrected (w % 4)) 25 := by
  simp [noteEcc, h, eccWithin]

@[simp] theorem readRow_noteEcc (s : State) (a b : Nat) (ecc : Ecc) : readRow (noteEcc s a ecc) b = readRow s b := by
  simp [readRow]

/-! ### A host read (R487) -/

/-- A row that has power, that no earlier write of the host waits for, and that is not uncorrectable returns as it is read. -/
theorem hostRead_succ_of_readable (tag : Nat) (err : ReadErr) (n k : Nat) {a : Nat} {s : State} (hpop : populated a = true)
    (hgate : ∀ d r, placeOf a = .commons d r → gatedFor s d r false = false) (hnone : hostPending s a = none)
    (hgood : eccBad (readEcc s a (errAt err k)) = false) :
    hostRead tag err (n + 1) k a s = hostRead tag err n (k + 1) (a + 512) ((readNoted s a (readEcc s a (errAt err k))).2.onHl fun l =>
      { l with returns := l.returns ++ [(tag % 2 ^ 24, k, (readNoted s a (readEcc s a (errAt err k))).1)] }) := by
  rw [hostRead]
  simp only [hpop, Bool.not_true, Bool.false_eq_true, if_false, hnone, hgood]
  refine if_neg (Bool.eq_false_iff.mp ?_)
  split
  · exact hgate _ _ ‹_›
  all_goals rfl

theorem exec_hostRowRead (addr count tag : Nat) (err : ReadErr) (s : State) :
    exec (.hostRowRead addr count tag err) s = execHostRowRead addr count tag err s := rfl

/-- A host read of one row that meets a corrected error returns the row corrected and leaves memory alone. -/
theorem hostRowRead_corrected (tag : Nat) {a w : Nat} {s : State} (hup : malobUp s = true) (hpop : populated a = true)
    (hecc : readEcc s (rowBase a) (.corrected w) = .corrected w) (hnone : hostPending s (rowBase a) = none)
    (hgate : ∀ d r, placeOf (rowBase a) = .commons d r → gatedFor s d r false = false) :
    exec (.hostRowRead a 1 tag [(0, .corrected w)]) s = .next ((noteEcc s (rowBase a) (.corrected w)).onHl fun l =>
      { l with returns := l.returns ++ [(tag % 2 ^ 24, 0, readRow s (rowBase a))] }) := by
  have hread : readEcc s (rowBase a) (errAt [(0, .corrected w)] 0) = .corrected w := hecc
  have hone := hostRead_succ_of_readable tag [(0, .corrected w)] 0 0 ((populated_rowBase a).trans hpop) hgate hnone
    (by rw [hread]; rfl)
  rw [hread] at hone
  have hdue : (malobUp s && decide (1 ≤ 1) && decide (1 ≤ 256)) = true := by rw [hup]; rfl
  rw [exec_hostRowRead, execHostRowRead, hdue, whenDue, if_pos rfl, hone]
  rfl

/-- Settles O60: each tier's register takes the note of a corrected error, and a host read delivers what memory holds. -/
theorem correctedErrorsAreCounted : Obligations.CorrectedErrorsAreCounted := by
  intro a w s
  refine ⟨noteEcc_mem a _ s, fun b => readRow_noteEcc s a b _, fun c r h => ?_, fun d r h => ?_, fun d r h => ?_,
    fun tag hup hpop hecc hnone hgate => ⟨_, hostRowRead_corrected tag hup hpop hecc hnone hgate, ?_, ?_⟩⟩
  · have hrow := lt_of_placeOf_eq_plot h
    rw [noteEcc_corrected_plot s w h]
    exact note_corrected _ 18 (by omega) (by decide) (by omega)
  · have hrow := lt_of_placeOf_eq_commons h
    rw [noteEcc_corrected_commons s w h]
    exact note_corrected _ 26 hrow (by decide) (by omega)
  · have hrow := lt_of_placeOf_eq_deep h
    rw [noteEcc_corrected_deep s w h]
    exact note_corrected _ 27 (by omega) (by decide) (by omega)
  · rw [State.onHl_hub, noteEcc_hub_hl]
  · rw [State.onHl_mem, noteEcc_mem]

end Sys2Proof.Machine
end

section
/-! SUPPORT. What every command keeps: the queue of waiting commands, canonical memory and register x0 at 0. One lemma for each arm of
`exec`, made of the lemmas about the operations that the arm performs. -/

namespace Sys2Proof.Machine

open Sys2Proof

variable {s₀ s : State}

/-! ### Staging, launch, credit and the strip -/

theorem execDrlTestGo_keeps (hs : Keeps s₀ s) (c : CoreId) (ccCycle : Nat) : AnswerKeeps s₀ (execDrlTestGo c ccCycle s) :=
  whenDue_keeps hs _ _ fun _ h => onE_keeps h ..
theorem execDrlTestDone_keeps (hs : Keeps s₀ s) (c : CoreId) (ccCycle : Nat) : AnswerKeeps s₀ (execDrlTestDone c ccCycle s) := by
  unfold execDrlTestDone
  split
  · exact next_keeps hs
  · exact whenDue_keeps hs _ _ fun _ h => onSc_keeps (onE_keeps h ..) ..
theorem execCtlStage_keeps (hs : Keeps s₀ s) (c : CoreId) (t : Nat) (rd rs1 : Reg) : AnswerKeeps s₀ (execCtlStage c t rd rs1 s) :=
  ccCommand_keeps hs _ _ _ fun _ h => instStage_keeps h ..
theorem execStagingRowRead_keeps (hs : Keeps s₀ s) (c : CoreId) (t : Nat) (ecc : Ecc) : AnswerKeeps s₀ (execStagingRowRead c t ecc s) := by
  unfold execStagingRowRead
  dsimp only
  split
  · exact next_keeps (advance_keeps hs ..)
  · split
    · exact next_keeps (advance_keeps hs ..)
    · exact whenDue_keeps (advance_keeps hs ..) _ _ fun _ h => ite_keeps (fun _ => ite_keeps (fun _ => refuseLaunch_keeps (onSc_keeps
          (postFault_keeps (readNoted_keeps (use7_keeps h ..) ..) ..) ..) _) fun _ => onSc_keeps (postFault_keeps (readNoted_keeps
          (use7_keeps h ..) ..) ..) ..) fun _ => ite_keeps (fun _ => refuseLaunch_keeps (launchFault_keeps (onSc_keeps (readNoted_keeps
          (use7_keeps h ..) ..) ..) ..) _) fun _ => onSc_keeps (readNoted_keeps (use7_keeps h ..) ..) ..
theorem execStagingComplete_keeps (hs : Keeps s₀ s) (c : CoreId) (t : Nat) : AnswerKeeps s₀ (execStagingComplete c t s) := by
  unfold execStagingComplete
  dsimp only
  split
  · exact next_keeps (advance_keeps hs ..)
  · exact whenDue_keeps (advance_keeps hs ..) _ _ fun _ h => launchStep_keeps (startPageIns_keeps (ccEvent_keeps (onSc_keeps h ..) ..) ..) _
theorem execCtlLaunch_keeps (hs : Keeps s₀ s) (c : CoreId) (t : Nat) (rd : Reg) : AnswerKeeps s₀ (execCtlLaunch c t rd s) :=
  ccCommand_keeps hs _ _ _ fun _ h => instLaunch_keeps h ..
theorem execCtlUnstage_keeps (hs : Keeps s₀ s) (c : CoreId) (t : Nat) (rd : Reg) : AnswerKeeps s₀ (execCtlUnstage c t rd s) :=
  ccCommand_keeps hs _ _ _ fun _ h => instUnstage_keeps h ..
theorem execPageInComplete_keeps (hs : Keeps s₀ s) (c : CoreId) (t : Nat) (h : Reading (Fin 64)) :
    AnswerKeeps s₀ (execPageInComplete c t h s) := by
  unfold execPageInComplete
  dsimp only
  split
  · exact whenDue_keeps (serve_keeps (advance_keeps hs ..) _) _ _ fun _ h => launchStep_keeps (pageIn_keeps h ..) _
  · split
    · exact next_keeps (serve_keeps (advance_keeps hs ..) _)
    · split
      · exact next_keeps (serve_keeps (advance_keeps hs ..) _)
      · exact whenDue_keeps (serve_keeps (advance_keeps hs ..) _) _ _ fun _ h => ite_keeps (fun _ => refuseLaunch_keeps (launchFault_keeps
            (setRes_keeps (allocDone_keeps h _) ..) ..) _) fun _ => launchFault_keeps (setRes_keeps (allocDone_keeps h _) ..) ..
theorem execCreditGrant_keeps (hs : Keeps s₀ s) (d : DieId) (t : Nat) : AnswerKeeps s₀ (execCreditGrant d t s) := by
  unfold execCreditGrant
  split
  · exact next_keeps hs
  · exact whenDue_keeps (advance_keeps hs ..) _ _ fun _ h => launchStep_keeps (ite_keeps (fun _ => setGranted_keeps (grantHead_keeps h ..)
        ..) fun _ => grantHead_keeps h ..) _
theorem execWakeBegin_keeps (hs : Keeps s₀ s) (c : CoreId) (t : Nat) : AnswerKeeps s₀ (execWakeBegin c t s) := by
  unfold execWakeBegin
  exact whenDue_keeps (advance_keeps hs ..) _ _ fun _ h => onCore_keeps (onDie_keeps h ..) _ _ fun _ h => h
theorem execWakeComplete_keeps (hs : Keeps s₀ s) (c : CoreId) (t : Nat) (drillOk : Bool) :
    AnswerKeeps s₀ (execWakeComplete c t drillOk s) := by
  have ha := advance_keeps hs c t
  unfold execWakeComplete
  dsimp only
  split
  · exact whenDue_keeps ha _ _ fun _ h => launchStep_keeps (onCore_keeps h _ _ (by exact fun _ hk => hk)) _
  · refine whenDue_keeps ha _ _ fun u h => ?_
    have hw : Keeps s₀ (u.onCore c fun k =>
        { k with gate := .awake, m := { k.m with hop := [] }, e := { k.e with drlTested := true, drlFail := !drillOk } }) :=
      onCore_keeps h _ _ fun _ hk => coreOk_clear hk rfl rfl
    have he := onSc_keeps hw c fun sc =>
      { sc with ended := if sc.launch.isNone then some ((advance c t s).sc c).wall else sc.ended }
    exact ite_keeps (fun _ => launchStep_keeps he _) fun _ =>
      ite_keeps (fun _ => refuseLaunch_keeps (launchFault_keeps he ..) _) fun _ => launchFault_keeps he ..
  · exact next_keeps ha
  · exact next_keeps ha
theorem execLaunchReady_keeps (hs : Keeps s₀ s) (c : CoreId) (t : Nat) : AnswerKeeps s₀ (execLaunchReady c t s) :=
  atCore_keeps hs _ _ _ _ fun _ h => onSc_keeps h ..
theorem execStripStart_keeps (hs : Keeps s₀ s) (c : CoreId) (t : Nat) : AnswerKeeps s₀ (execStripStart c t s) := by
  unfold execStripStart
  dsimp only
  split
  · split
    · exact whenDue_keeps (advance_keeps hs ..) _ _ fun _ h => startStrip_keeps h ..
    · exact next_keeps (advance_keeps hs ..)
  · exact next_keeps (advance_keeps hs ..)
theorem execStripEnd_keeps (hs : Keeps s₀ s) (c : CoreId) (t : Nat) : AnswerKeeps s₀ (execStripEnd c t s) := by
  unfold execStripEnd
  dsimp only
  split
  · exact next_keeps (advance_keeps hs ..)
  · exact whenDue_keeps (advance_keeps hs ..) _ _ fun _ h => ite_keeps (fun _ => hazardStop_keeps h ..) fun _ => endStrip_keeps h _

/-! ### Queue operations and stalls -/

theorem execWait_keeps (hs : Keeps s₀ s) (c : CoreId) (q : Queue) (t : Nat) : AnswerKeeps s₀ (execWait c q t s) :=
  issueCmd_keeps hs _ _ _ _ _ fun _ _ _ h => performWait_keeps h ..
theorem execStkSet_keeps (hs : Keeps s₀ s) (c : CoreId) (q : Queue) (t : Nat) : AnswerKeeps s₀ (execStkSet c q t s) :=
  issueCmd_keeps hs _ _ _ _ _ fun _ _ _ h => performStkSet_keeps h ..
theorem execStkWait_keeps (hs : Keeps s₀ s) (c : CoreId) (q : Queue) (t : Nat) : AnswerKeeps s₀ (execStkWait c q t s) :=
  issueCmd_keeps hs _ _ _ _ _ fun _ _ _ h => performStkWait_keeps h ..
theorem execHqPush_keeps (hs : Keeps s₀ s) (c : CoreId) (q : Queue) (t : Nat) : AnswerKeeps s₀ (execHqPush c q t s) :=
  issueCmd_keeps hs _ _ _ _ _ fun _ _ _ h => performHqPush_keeps h ..
theorem execHqPop_keeps (hs : Keeps s₀ s) (c : CoreId) (q : Queue) (t : Nat) : AnswerKeeps s₀ (execHqPop c q t s) :=
  issueCmd_keeps hs _ _ _ _ _ fun _ _ _ h => performHqPop_keeps h ..
theorem execStallResume_keeps (hs : Keeps s₀ s) (c : CoreId) (t : Nat) : AnswerKeeps s₀ (execStallResume c t s) :=
  atCore_keeps hs _ _ _ _ fun _ h => resume_keeps h _
theorem execCreditLend_keeps (hs : Keeps s₀ s) (c : CoreId) (t : Nat) : AnswerKeeps s₀ (execCreditLend c t s) := by
  unfold execCreditLend
  refine atCore_keeps hs _ _ _ _ fun _ h => ?_
  dsimp only
  split
  · exact onSc_keeps (onSc_keeps h ..) ..
  · exact ite_keeps (fun _ => launchWait_keeps (pushReq_keeps (onSc_keeps (onSc_keeps h ..) ..) ..) ..) fun _ => pushReq_keeps (onSc_keeps
        (onSc_keeps h ..) ..) ..
theorem execReclaimGrant_keeps (hs : Keeps s₀ s) (c : CoreId) (t : Nat) : AnswerKeeps s₀ (execReclaimGrant c t s) := by
  unfold execReclaimGrant
  dsimp only
  split
  · exact next_keeps (advance_keeps hs ..)
  · exact whenDue_keeps (advance_keeps hs ..) _ _ fun _ h => onSc_keeps (grantHead_keeps h ..) ..
theorem execReclaimComplete_keeps (hs : Keeps s₀ s) (c : CoreId) (t : Nat) : AnswerKeeps s₀ (execReclaimComplete c t s) :=
  atCore_keeps hs _ _ _ _ fun _ h => resume_keeps h _
theorem execCreditIdleReturn_keeps (hs : Keeps s₀ s) (c : CoreId) (t : Nat) : AnswerKeeps s₀ (execCreditIdleReturn c t s) := by
  refine atCore_keeps hs _ _ _ _ fun u h => onCore_keeps (onSc_keeps h ..) _ _ ?_
  intro k hk
  split
  · exact hk
  · exact hk
theorem execPowerGateTimeout_keeps (hs : Keeps s₀ s) (c : CoreId) (t : Nat) : AnswerKeeps s₀ (execPowerGateTimeout c t s) :=
  atCore_keeps hs _ _ _ _ fun _ h => powerGate_keeps h _
theorem execWatchdogFault_keeps (hs : Keeps s₀ s) (c : CoreId) (t : Nat) : AnswerKeeps s₀ (execWatchdogFault c t s) :=
  atCore_keeps hs _ _ _ _ fun _ h => endByFault_keeps (postFault_keeps h ..) _
theorem execDeadlineMiss_keeps (hs : Keeps s₀ s) (c : CoreId) (t : Nat) : AnswerKeeps s₀ (execDeadlineMiss c t s) :=
  atCore_keeps hs _ _ _ _ fun _ h => ccEvent_keeps (postFault_keeps (onSc_keeps h ..) ..) ..
theorem execInstructionComplete_keeps (hs : Keeps s₀ s) (c : CoreId) (q : Queue) (t : Nat) :
    AnswerKeeps s₀ (execInstructionComplete c q t s) := by
  unfold execInstructionComplete
  refine inCycle_keeps hs _ _ _ fun _ h => ?_
  dsimp only
  split
  · exact h
  · exact addStake_keeps (trace_keeps (unitComplete_keeps (onSc_keeps h ..) ..) ..) ..

/-! ### Rows of the memory tiers -/

theorem execLateArrival_keeps (hs : Keeps s₀ s) (c : CoreId) (t : Nat) (i : Nat) : AnswerKeeps s₀ (execLateArrival c t i s) := by
  unfold execLateArrival
  dsimp only
  split
  · exact next_keeps (advance_keeps hs ..)
  · split
    · exact next_keeps (ite_keeps (fun _ => ite_keeps (fun _ => advance_keeps hs ..) fun _ => onE_keeps (advance_keeps hs ..) ..) fun _ =>
          ite_keeps (fun _ => advance_keeps hs ..) fun _ => withNet_keeps (forAll_keeps (advance_keeps hs ..) _ _ fun _ _ h => forAll_keeps
          h _ _ fun _ _ h1 => ackLocal_keeps h1 ..) _)
    · exact next_keeps (ite_keeps (fun _ => lateArrive_keeps (ite_keeps (fun _ => ite_keeps (fun _ => advance_keeps hs ..) fun _ =>
          onE_keeps (advance_keeps hs ..) ..) fun _ => ite_keeps (fun _ => advance_keeps hs ..) fun _ => withNet_keeps (forAll_keeps
          (advance_keeps hs ..) _ _ fun _ _ h => forAll_keeps h _ _ fun _ _ h1 => ackLocal_keeps h1 ..) _) ..) fun _ => ite_keeps (fun _ =>
          ite_keeps (fun _ => advance_keeps hs ..) fun _ => onE_keeps (advance_keeps hs ..) ..) fun _ => ite_keeps (fun _ => advance_keeps
          hs ..) fun _ => withNet_keeps (forAll_keeps (advance_keeps hs ..) _ _ fun _ _ h => forAll_keeps h _ _ fun _ _ h1 => ackLocal_keeps
          h1 ..) _)
theorem execHeldArrivalRetry_keeps (hs : Keeps s₀ s) (c : CoreId) (t : Nat) (q : Fin 8) : AnswerKeeps s₀ (execHeldArrivalRetry c t q s) := by
  unfold execHeldArrivalRetry
  dsimp only
  split
  · exact next_keeps (advance_keeps hs ..)
  · exact whenDue_keeps (advance_keeps hs ..) _ _ fun _ h => performArrival_keeps (onSc_keeps h ..) ..
theorem execInboundRowArrival_keeps (hs : Keeps s₀ s) (c : CoreId) (t : Nat) (i : Nat) (ecc : Ecc) :
    AnswerKeeps s₀ (execInboundRowArrival c t i ecc s) := by
  unfold execInboundRowArrival
  dsimp only
  split
  · exact next_keeps (advance_keeps hs ..)
  · refine iteAnswer_keeps (fun _ => next_keeps (advance_keeps hs ..)) fun _ => iteAnswer_keeps (fun _ => ?_) fun _ => whenDue_keeps
        (advance_keeps hs ..) _ _ fun _ h => ite_keeps (fun _ => cutLate_keeps (recheckRow_keeps (lateRead_keeps h ..) _) ..) fun _ =>
        takeIn_keeps (lateRead_keeps h ..) ..
    split
    · exact next_keeps (advance_keeps hs ..)
    · exact whenDue_keeps (advance_keeps hs ..) _ _ fun _ h => ite_keeps (fun _ => takeIn_keeps (ite_keeps (fun _ => sendReqs_keeps
          (onE_keeps (withNet_keeps h _) ..) ..) fun _ => withNet_keeps h _) ..) fun _ => takeIn_keeps (postFault_keeps (ite_keeps (fun _ =>
          sendReqs_keeps (onE_keeps (withNet_keeps h _) ..) ..) fun _ => withNet_keeps h _) ..) ..
theorem execHopperRowLanding_keeps (hs : Keeps s₀ s) (c : CoreId) (t : Nat) (portB : Bool) :
    AnswerKeeps s₀ (execHopperRowLanding c t portB s) := by
  have ha := advance_keeps hs c t
  have leave : ∀ (p : LandRow → Bool) u, Keeps s₀ u → Keeps s₀ (u.onM c fun m => { m with land := m.land.eraseP p }) :=
    fun _ _ h => onM_keeps h _ _ fun _ hm => hm
  unfold execHopperRowLanding
  dsimp only
  split
  · exact next_keeps ha
  · split
    · exact next_keeps ha
    · exact whenDue_keeps ha _ _ fun _ h => rowPlaced_keeps (lateWrite_keeps (leave _ _ h) ..) ..
    · refine whenDue_keeps ha _ _ fun _ h => ?_
      split
      · exact convertLate_keeps h _ _ _ _ _ _ (leave _)
      · exact leave _ _ h
theorem execCommonsBankAccess_keeps (hs : Keeps s₀ s) (c : CoreId) (t : Nat) (i : Nat) (waited : Nat) (ecc : Ecc) :
    AnswerKeeps s₀ (execCommonsBankAccess c t i waited ecc s) := by
  unfold execCommonsBankAccess
  dsimp only
  split
  · exact next_keeps (advance_keeps hs ..)
  · refine whenDue_keeps (advance_keeps hs ..) _ _ fun _ h => ?_
    split
    · exact ite_keeps (fun _ => bankDone_keeps (postFault_keeps (onDie_keeps h ..) ..) ..) fun _ => ite_keeps (fun _ => bankDone_keeps
          (postFault_keeps h ..) ..) fun _ => ite_keeps (fun _ => bankDone_keeps (writeRow_keeps h ..) ..) fun _ => ite_keeps (fun _ =>
          readFault_keeps (recheckRow_keeps (readNoted_keeps h ..) _) ..) fun _ => bankDone_keeps (readNoted_keeps h ..) ..
    · exact bankDone_keeps (postFault_keeps h ..) ..
    · exact bankDone_keeps (postFault_keeps h ..) ..
    · exact bankDone_keeps (postFault_keeps h ..) ..
    · exact bankDone_keeps (postFault_keeps h ..) ..
    · exact bankDone_keeps (postFault_keeps h ..) ..
theorem execCommonsRowLands_keeps (hs : Keeps s₀ s) (c : CoreId) (t : Nat) (i : Nat) : AnswerKeeps s₀ (execCommonsRowLands c t i s) := by
  unfold execCommonsRowLands
  refine inCycle_keeps hs _ _ _ fun _ h => ?_
  split
  · exact h
  · exact ite_keeps (fun _ => onE_keeps (ite_keeps (fun _ => writeOut_keeps (foldWrite_keeps (onE_keeps h ..) ..) ..) fun _ =>
        landRead_keeps (onE_keeps h ..) ..) ..) fun _ => h
theorem execScrubRead_keeps (hs : Keeps s₀ s) (u : ScrubUnit) (t : Nat) (ecc : Ecc) : AnswerKeeps s₀ (execScrubRead u t ecc s) := by
  unfold execScrubRead
  refine whenDue_keeps (scrubTime_keeps hs ..) _ _ fun _ h => ?_
  dsimp only
  split
  · exact readNoted_keeps (setScrub_keeps (useScrubSlot_keeps h ..) ..) ..
  · exact readNoted_keeps (setScrub_keeps (useScrubSlot_keeps h ..) ..) ..
  · exact queueScrub_keeps (readNoted_keeps (setScrub_keeps (useScrubSlot_keeps h ..) ..) ..) ..
  · exact queueScrub_keeps (readNoted_keeps (setScrub_keeps (useScrubSlot_keeps h ..) ..) ..) ..
  · exact scrubFault_keeps (readNoted_keeps (setScrub_keeps (useScrubSlot_keeps h ..) ..) ..) ..
theorem execScrubWriteBack_keeps (hs : Keeps s₀ s) (u : ScrubUnit) (t : Nat) : AnswerKeeps s₀ (execScrubWriteBack u t s) := by
  unfold execScrubWriteBack
  dsimp only
  split
  · exact next_keeps (scrubTime_keeps hs ..)
  · exact whenDue_keeps (scrubTime_keeps hs ..) _ _ fun _ h => writeBack_keeps h ..
theorem execPageOutComplete_keeps (hs : Keeps s₀ s) (d : DieId) (t : Nat) (i : Reading Nat) :
    AnswerKeeps s₀ (execPageOutComplete d t i s) := by
  unfold execPageOutComplete
  split
  · exact next_keeps hs
  · refine whenDue_keeps (advance_keeps hs ..) _ _ fun _ h => serve_keeps (setRes_keeps (onM_keeps (onDie_keeps ?_ ..) _ _ ?_) ..) _
    · exact copyRows_keeps h ..
    · exact fun _ hm => hm
theorem execGateArrival_keeps (hs : Keeps s₀ s) (d : DieId) (t : Nat) (g : Fin 16) : AnswerKeeps s₀ (execGateArrival d t g s) := by
  unfold execGateArrival
  split
  · exact next_keeps hs
  · exact whenDue_keeps (advance_keeps hs ..) _ _ fun _ h => gateArrive_keeps (zeroGroup_keeps (setGroup_keeps h ..) ..) ..
theorem execUngateArrival_keeps (hs : Keeps s₀ s) (d : DieId) (t : Nat) (g : Fin 16) : AnswerKeeps s₀ (execUngateArrival d t g s) := by
  unfold execUngateArrival
  split
  · exact next_keeps hs
  · exact whenDue_keeps (advance_keeps hs ..) _ _ fun _ h => gateArrive_keeps (zeroGroup_keeps (setGroup_keeps h ..) ..) ..

/-! ### Engines -/

theorem execPlgMm_keeps (hs : Keeps s₀ s) (c : CoreId) (t : Nat) : AnswerKeeps s₀ (execPlgMm c t s) :=
  issueCmd_keeps hs _ _ _ _ _ fun _ _ _ h => issuePlough_keeps h ..
theorem execPlgSqd_keeps (hs : Keeps s₀ s) (c : CoreId) (t : Nat) : AnswerKeeps s₀ (execPlgSqd c t s) :=
  issueCmd_keeps hs _ _ _ _ _ fun _ _ _ h => issuePlough_keeps h ..
theorem execPlgAbd_keeps (hs : Keeps s₀ s) (c : CoreId) (t : Nat) : AnswerKeeps s₀ (execPlgAbd c t s) :=
  issueCmd_keeps hs _ _ _ _ _ fun _ _ _ h => issuePlough_keeps h ..
theorem execPlgMinplus_keeps (hs : Keeps s₀ s) (c : CoreId) (t : Nat) : AnswerKeeps s₀ (execPlgMinplus c t s) :=
  issueCmd_keeps hs _ _ _ _ _ fun _ _ _ h => issuePlough_keeps h ..
theorem execPlgMaxplus_keeps (hs : Keeps s₀ s) (c : CoreId) (t : Nat) : AnswerKeeps s₀ (execPlgMaxplus c t s) :=
  issueCmd_keeps hs _ _ _ _ _ fun _ _ _ h => issuePlough_keeps h ..
theorem execPlgXorpop_keeps (hs : Keeps s₀ s) (c : CoreId) (t : Nat) : AnswerKeeps s₀ (execPlgXorpop c t s) :=
  issueCmd_keeps hs _ _ _ _ _ fun _ _ _ h => issuePlough_keeps h ..
theorem execPlgCmpcnt_keeps (hs : Keeps s₀ s) (c : CoreId) (t : Nat) : AnswerKeeps s₀ (execPlgCmpcnt c t s) :=
  issueCmd_keeps hs _ _ _ _ _ fun _ _ _ h => issuePlough_keeps h ..
theorem execPlgExecutionStart_keeps (hs : Keeps s₀ s) (c : CoreId) (t : Nat) (err : ReadErr) :
    AnswerKeeps s₀ (execPlgExecutionStart c t err s) := by
  unfold execPlgExecutionStart
  refine inCycle_keeps hs _ _ _ fun _ h => ?_
  dsimp only
  split
  · exact h
  · refine onPlg_keeps (onE_keeps (forAll_keeps h _ _ fun _ _ h => ?_) ..) ..
    split
    · exact takeStake_keeps h ..
    · exact h
    · exact h
theorem execPlgFeedRelease_keeps (hs : Keeps s₀ s) (c : CoreId) (t : Nat) : AnswerKeeps s₀ (execPlgFeedRelease c t s) := by
  unfold execPlgFeedRelease
  refine inCycle_keeps hs _ _ _ fun _ h => ?_
  dsimp only
  split
  · exact ite_keeps (fun _ => onPlg_keeps h ..) fun _ => addStake_keeps (onPlg_keeps h ..) ..
  · exact h
theorem execPlgDrainRow_keeps (hs : Keeps s₀ s) (c : CoreId) (t : Nat) : AnswerKeeps s₀ (execPlgDrainRow c t s) := by
  unfold execPlgDrainRow
  refine inCycle_keeps hs _ _ _ fun _ h => ?_
  dsimp only
  split
  · exact h
  · exact retire_keeps (onE_keeps (drainWrites_keeps (setPlg_keeps h ..) ..) ..) _
theorem execPlgCounterClear_keeps (hs : Keeps s₀ s) (c : CoreId) : AnswerKeeps s₀ (execPlgCounterClear c s) :=
  next_keeps (onE_keeps hs ..)
theorem execHrwChain_keeps (hs : Keeps s₀ s) (c : CoreId) (t : Nat) (err : ReadErr) : AnswerKeeps s₀ (execHrwChain c t err s) :=
  issueCmd_keeps hs _ _ _ _ _ fun _ _ _ h => issueChain_keeps h ..
theorem execHrwBload_keeps (hs : Keeps s₀ s) (c : CoreId) (t : Nat) (err : ReadErr) : AnswerKeeps s₀ (execHrwBload c t err s) :=
  issueCmd_keeps hs _ _ _ _ _ fun _ _ _ h => issueBload_keeps h ..
theorem execHrwWriteRow_keeps (hs : Keeps s₀ s) (c : CoreId) (t : Nat) : AnswerKeeps s₀ (execHrwWriteRow c t s) := by
  unfold execHrwWriteRow
  refine inCycle_keeps hs _ _ _ fun _ h => ?_
  dsimp only
  split
  · exact h
  · exact retire_keeps (onE_keeps (onHrw_keeps (foldWrite_keeps (writeH_keeps h ..) ..) ..) ..) _
theorem execHrwCounterClear_keeps (hs : Keeps s₀ s) (c : CoreId) : AnswerKeeps s₀ (execHrwCounterClear c s) :=
  next_keeps (onE_keeps hs ..)
theorem execHrwSumClear_keeps (hs : Keeps s₀ s) (c : CoreId) : AnswerKeeps s₀ (execHrwSumClear c s) :=
  next_keeps (onE_keeps hs ..)
theorem thenRelease_keeps {a : Answer} (h : AnswerKeeps s₀ a) : AnswerKeeps s₀ (thenRelease a) := by
  obtain ⟨t, rfl, ht⟩ := h
  exact next_keeps (hubRelease_keeps ht)
theorem execPlotRowLanding_keeps (hs : Keeps s₀ s) (c : CoreId) (t : Nat) : AnswerKeeps s₀ (execPlotRowLanding c t s) :=
  thenRelease_keeps (landPlotRow_keeps hs ..)
theorem execCommonsInboundRowPerform_keeps (hs : Keeps s₀ s) (c : CoreId) (t : Nat) :
    AnswerKeeps s₀ (execCommonsInboundRowPerform c t s) :=
  thenRelease_keeps (performCmnRow_keeps hs ..)
theorem execTlrUpd_keeps (hs : Keeps s₀ s) (c : CoreId) (t : Nat) (err : ReadErr) : AnswerKeeps s₀ (execTlrUpd c t err s) :=
  issueCmd_keeps hs _ _ _ _ _ fun _ _ _ h => issueTiller_keeps h ..
theorem execTlrRecordWrite_keeps (hs : Keeps s₀ s) (c : CoreId) (t : Nat) : AnswerKeeps s₀ (execTlrRecordWrite c t s) := by
  unfold execTlrRecordWrite
  refine inCycle_keeps hs _ _ _ fun _ h => ?_
  dsimp only
  split
  · exact h
  · exact retire_keeps (onE_keeps (ite_keeps (fun _ => onSc_keeps (foldWrite_keeps (writeH_keeps h ..) ..) ..) fun _ => foldWrite_keeps
        (writeH_keeps h ..) ..) ..) _
theorem execTlrRootfin_keeps (hs : Keeps s₀ s) (c : CoreId) (t : Reading Nat) : AnswerKeeps s₀ (execTlrRootfin c t s) :=
  issueCmd_keeps hs _ _ _ _ _ fun _ _ _ h => issueRootfin_keeps h ..
theorem execTlrCounterClear_keeps (hs : Keeps s₀ s) (c : CoreId) : AnswerKeeps s₀ (execTlrCounterClear c s) :=
  next_keeps (onE_keeps hs ..)
theorem execStepAdvance_keeps (hs : Keeps s₀ s) (src : CmdSrc) (x : CtxId) (target : Nat) : AnswerKeeps s₀ (execStepAdvance src x target s) :=
  hlCommand_keeps hs _ _ _ _ fun _ h => ite_keeps (fun _ => reply_keeps h ..) fun _ => ite_keeps (fun _ => reply_keeps h ..) fun _ =>
      reply_keeps (onAdv_keeps h ..) ..
theorem execStepAdvanceEvaluate_keeps (hs : Keeps s₀ s) (x : CtxId) : AnswerKeeps s₀ (execStepAdvanceEvaluate x s) := by
  unfold execStepAdvanceEvaluate
  dsimp only
  split
  · exact next_keeps hs
  · exact whenDue_keeps hs _ _ fun _ h => onAdv_keeps (forAll_keeps h _ _ fun _ _ h1 => onDie_keeps h1 ..) ..
theorem execStepAdvanceCommit_keeps (hs : Keeps s₀ s) (x : CtxId) : AnswerKeeps s₀ (execStepAdvanceCommit x s) := by
  unfold execStepAdvanceCommit
  dsimp only
  split
  · exact next_keeps hs
  · refine whenDue_keeps hs _ _ fun _ h => adviseCores_keeps (onHub_keeps (onAdv_keeps ?_ ..) _ (by exact fun _ hk => hk)) ..
    exact forAll_keeps h _ _ fun _ _ h => onDie_keeps h ..
theorem execPrivStepArm_keeps (hs : Keeps s₀ s) (w : Writer) (x : CtxId) (k : Fin 8) (par : Fin 2) (hi : Word) :
    AnswerKeeps s₀ (execPrivStepArm w x k par hi s) :=
  next_keeps (ite_keeps (fun _ => privArm_keeps hs ..) fun _ => hs)

/-! ### Transfers, trace and image loads -/

theorem execXfFill_keeps (hs : Keeps s₀ s) (c : CoreId) (t : Nat) (err : ReadErr) : AnswerKeeps s₀ (execXfFill c t err s) :=
  issueCmd_keeps hs _ _ _ _ _ fun _ _ _ h => issueFill_keeps h ..
theorem execXfMove_keeps (hs : Keeps s₀ s) (c : CoreId) (t : Nat) (err : ReadErr) : AnswerKeeps s₀ (execXfMove c t err s) :=
  issueCmd_keeps hs _ _ _ _ _ fun _ _ _ h => issueMove_keeps h ..
theorem execXfGate_keeps (hs : Keeps s₀ s) (c : CoreId) (t : Nat) : AnswerKeeps s₀ (execXfGate c t s) :=
  issueCmd_keeps hs _ _ _ _ _ fun _ _ _ h => issueGate_keeps h ..
theorem execXfUngate_keeps (hs : Keeps s₀ s) (c : CoreId) (t : Nat) : AnswerKeeps s₀ (execXfUngate c t s) :=
  issueCmd_keeps hs _ _ _ _ _ fun _ _ _ h => issueGate_keeps h ..
theorem execTraceRowWrite_keeps (hs : Keeps s₀ s) (c : CoreId) (t : Nat) : AnswerKeeps s₀ (execTraceRowWrite c t s) := by
  unfold execTraceRowWrite
  refine whenDue_keeps (advance_keeps hs ..) _ _ fun u h => ?_
  have hu : Keeps s₀ ((use7 c (traceRow ((advance c t s).cc c)) u).onCc c fun k =>
      { k with traceBuf := k.traceBuf.drop 32, traceWptr := (k.traceWptr + 1) % 2 ^ 32 }) :=
    onCc_keeps (use7_keeps h ..) _ _ fun _ hk => hk
  exact ite_keeps (fun _ => coreWrite_keeps hu ..) fun _ => postFault_keeps hu ..
theorem execTraceEnable_keeps (hs : Keeps s₀ s) (c : CoreId) (v : Word) : AnswerKeeps s₀ (execTraceEnable c v s) :=
  next_keeps (traceCfgWrite_keeps hs ..)
theorem execTraceDropClear_keeps (hs : Keeps s₀ s) (c : CoreId) : AnswerKeeps s₀ (execTraceDropClear c s) :=
  next_keeps (onCc_keeps hs _ _ fun _ h => h)
theorem execLoadImage_keeps (hs : Keeps s₀ s) (src : CmdSrc) (x : CtxId) (addr : Nat) : AnswerKeeps s₀ (execLoadImage src x addr s) :=
  hlCommand_keeps hs _ _ _ _ fun _ h => ite_keeps (fun _ => reply_keeps h ..) fun _ => ite_keeps (fun _ => reply_keeps (onLoad_keeps h ..)
      ..) fun _ => onLoad_keeps h ..
theorem execLoadCheckComplete_keeps (hs : Keeps s₀ s) (x : CtxId) : AnswerKeeps s₀ (execLoadCheckComplete x s) := by
  unfold execLoadCheckComplete
  split
  · exact next_keeps hs
  · dsimp only
    split
    · exact next_keeps (loadRefused_keeps hs ..)
    · exact next_keeps (reply_keeps (acceptImage_keeps hs ..) ..)

/-! ### Control core -/

theorem execCcStart_keeps (hs : Keeps s₀ s) (c : CoreId) (pc : BitVec 16) : AnswerKeeps s₀ (execCcStart c pc s) :=
  next_keeps (ccStartOp_keeps (onCc_keeps hs c (fun k => { k with startPc := pc.toNat / 2 * 2 }) fun _ hk => hk) ..)
theorem execCcHalt_keeps (hs : Keeps s₀ s) (c : CoreId) : AnswerKeeps s₀ (execCcHalt c s) :=
  next_keeps (ccHaltOp_keeps hs _)
theorem execCtlWfe_keeps (hs : Keeps s₀ s) (c : CoreId) (t : Nat) (rd rs1 : Reg) : AnswerKeeps s₀ (execCtlWfe c t rd rs1 s) :=
  iteAnswer_keeps (fun _ => whenDue_keeps (advance_keeps hs ..) _ _ fun _ h => wfeReturn_keeps h ..) fun _ => whenDue_keeps (advance_keeps
      hs ..) _ _ fun _ h => instWfe_keeps h ..
theorem execCtlHret_keeps (hs : Keeps s₀ s) (c : CoreId) (t : Nat) : AnswerKeeps s₀ (execCtlHret c t s) :=
  ccCommand_keeps hs _ _ _ fun _ h => instHret_keeps h _
theorem execCtlFclr_keeps (hs : Keeps s₀ s) (c : CoreId) (t : Nat) : AnswerKeeps s₀ (execCtlFclr c t s) :=
  ccCommand_keeps hs _ _ _ fun _ h => instFclr_keeps h _
theorem execCtlSum_keeps (hs : Keeps s₀ s) (c : CoreId) (t : Nat) (rd rs1 : Reg) : AnswerKeeps s₀ (execCtlSum c t rd rs1 s) :=
  ccCommand_keeps hs _ _ _ fun _ h => instSum_keeps h ..
theorem execCtlStkrd_keeps (hs : Keeps s₀ s) (c : CoreId) (t : Nat) (rd rs1 : Reg) : AnswerKeeps s₀ (execCtlStkrd c t rd rs1 s) :=
  ccCommand_keeps hs _ _ _ fun _ h => instStkrd_keeps h ..
theorem execCtlStkadd_keeps (hs : Keeps s₀ s) (c : CoreId) (t : Nat) (rs1 rs2 : Reg) : AnswerKeeps s₀ (execCtlStkadd c t rs1 rs2 s) :=
  ccCommand_keeps hs _ _ _ fun _ h => instStkadd_keeps h ..
theorem execCtlStkclr_keeps (hs : Keeps s₀ s) (c : CoreId) (t : Nat) (rd rs1 : Reg) : AnswerKeeps s₀ (execCtlStkclr c t rd rs1 s) :=
  ccCommand_keeps hs _ _ _ fun _ h => instStkclr_keeps h ..
theorem execCtlHset_keeps (hs : Keeps s₀ s) (c : CoreId) (t : Nat) (rd rs1 : Reg) (rs2 : Reading Reg) :
    AnswerKeeps s₀ (execCtlHset c t rd rs1 rs2 s) :=
  ccCommand_keeps hs _ _ _ fun _ h => instHset_keeps h ..
theorem execCtlHrel_keeps (hs : Keeps s₀ s) (c : CoreId) (t : Nat) (rs1 : Reg) : AnswerKeeps s₀ (execCtlHrel c t rs1 s) :=
  ccCommand_keeps hs _ _ _ fun _ h => instHrel_keeps h ..
theorem execCtlHalloc_keeps (hs : Keeps s₀ s) (c : CoreId) (t : Nat) (rd rs1 rs2 : Reg) : AnswerKeeps s₀ (execCtlHalloc c t rd rs1 rs2 s) :=
  ccCommand_keeps hs _ _ _ fun _ h => instHalloc_keeps h ..
theorem execAllocatorAnswer_keeps (hs : Keeps s₀ s) (d : DieId) (t : Nat) : AnswerKeeps s₀ (execAllocatorAnswer d t s) := by
  unfold execAllocatorAnswer
  dsimp only
  split
  · exact next_keeps (serve_keeps hs _)
  · split
    · exact next_keeps (advance_keeps (serve_keeps hs _) ..)
    · exact next_keeps (allocDone_keeps (advance_keeps (serve_keeps hs _) ..) _)
    · exact next_keeps (hallocAnswer_keeps (advance_keeps (serve_keeps hs _) ..) ..)
theorem execCtlWrd_keeps (hs : Keeps s₀ s) (c : CoreId) (t : Nat) (rd rs1 : Reg) : AnswerKeeps s₀ (execCtlWrd c t rd rs1 s) :=
  ccCommand_keeps hs _ _ _ fun _ h => instWrd_keeps h ..
theorem execCtlWwr_keeps (hs : Keeps s₀ s) (c : CoreId) (t : Nat) (rs1 : Reg) : AnswerKeeps s₀ (execCtlWwr c t rs1 s) :=
  ccCommand_keeps hs _ _ _ fun _ h => instWwr_keeps h ..
theorem execRowWindowAccess_keeps (hs : Keeps s₀ s) (c : CoreId) (t : Nat) (ecc : Ecc) :
    AnswerKeeps s₀ (execRowWindowAccess c t ecc s) := by
  unfold execRowWindowAccess
  dsimp only
  split
  · exact next_keeps (advance_keeps hs ..)
  · rename_i op _
    refine whenDue_keeps (advance_keeps hs ..) _ _ fun u h => ?_
    have hu : Keeps s₀ ((use7 c op.row u).onCc c fun k => { k with winOp := none }) :=
      onCc_keeps (use7_keeps h ..) _ _ fun _ hk => hk
    have hr := readNoted_keeps hu (plotAddr c op.row) ecc
    refine ite_keeps (fun _ => ccLate_keeps (coreWrite_keeps hu ..) ..) fun _ =>
      ite_keeps (fun _ => ccLate_keeps (postFault_keeps (onCore_keeps hr _ _ ?_) ..) ..) fun _ =>
        ccLate_keeps (onCc_keeps hr _ _ ?_) ..
    · exact fun _ hk => ⟨hk.1, regSet_ok _ _ hk.2⟩
    · exact fun k hk => regSet_ok _ _ (k := { k with win := _ }) hk
theorem execCtlFpop_keeps (hs : Keeps s₀ s) (c : CoreId) (t : Nat) (rd rs1 : Reg) : AnswerKeeps s₀ (execCtlFpop c t rd rs1 s) :=
  ccCommand_keeps hs _ _ _ fun _ h => instFpop_keeps h ..
theorem execFaultLostClear_keeps (hs : Keeps s₀ s) (c : CoreId) : AnswerKeeps s₀ (execFaultLostClear c s) :=
  next_keeps (onCc_keeps hs _ _ fun _ h => h)
theorem execHandlerDispatch_keeps (hs : Keeps s₀ s) (c : CoreId) (t : Nat) : AnswerKeeps s₀ (execHandlerDispatch c t s) :=
  whenDue_keeps (advance_keeps hs ..) _ _ fun _ h => dispatchFrom_keeps h ..
theorem execCoreProgram_keeps (hs : Keeps s₀ s) (src : CmdSrc) (mask : BitVec 128) (plotRow dataRows : Nat) (digest : BitVec 256) :
    AnswerKeeps s₀ (execCoreProgram src mask plotRow dataRows digest s) := by
  refine hlCommand_keeps hs _ _ _ _ fun u h => ?_
  refine ite_keeps (fun _ => reply_keeps h ..) fun _ => ite_keeps (fun _ => reply_keeps h ..) fun _ => reply_keeps (onHl_keeps ?_ _) ..
  exact forAll_keeps h _ _ fun _ _ h => onCc_keeps (ccHaltOp_keeps h _) _ _ fun _ hk => hk
theorem copyDone_keeps (hs : Keeps s₀ s) (c : CoreId) (err : ReadErr) : AnswerKeeps s₀ (copyDone c err s) := by
  unfold copyDone
  split
  · exact next_keeps hs
  · rename_i g _
    refine whenDue_keeps hs _ _ fun u h => ?_
    have hw : ∀ i d : List Byte, Keeps s₀ ((progRows c g err u).2.onCc c fun k =>
        { k with progCopy := none, imem := newCells 0 i, dmem := newCells 0 d }) := fun _ _ =>
      onCc_keeps (progRows_keeps h ..) _ _ fun _ hk => ⟨newCells_wf .., newCells_wf .., hk.2.2⟩
    refine ite_keeps (fun _ => progDone_keeps (ccStartOp_keeps (onCc_keeps (hw _ _) _ _ ?_) ..) ..) fun _ =>
      progDone_keeps (onCc_keeps (hw _ _) _ _ ?_) ..
    · exact fun _ hk => hk
    · exact fun _ hk => ⟨nil_wf, hk.2⟩
theorem execCoreProgramCopyDone_keeps (hs : Keeps s₀ s) (c : Reading (Timed CoreId)) :
    AnswerKeeps s₀ (execCoreProgramCopyDone c s) :=
  copyDone_keeps (advance_keeps hs ..) ..

/-! ### Messages and rings -/

theorem execMessageHeaderArrival_keeps (hs : Keeps s₀ s) (c : CoreId) (t : Nat) (i : Nat) :
    AnswerKeeps s₀ (execMessageHeaderArrival c t i s) := by
  unfold execMessageHeaderArrival
  dsimp only
  split
  · exact next_keeps (advance_keeps hs ..)
  · exact iteAnswer_keeps (fun _ => next_keeps (advance_keeps hs ..)) fun _ => iteAnswer_keeps (fun _ => next_keeps (hubHeader_keeps
        (advance_keeps hs ..) _)) fun _ => next_keeps (ite_keeps (fun _ => takeHeader_keeps (advance_keeps hs ..) ..) fun _ => advance_keeps
        hs ..)
theorem execMessageRowArrival_keeps (hs : Keeps s₀ s) (c : CoreId) (t : Nat) (i : Nat) : AnswerKeeps s₀ (execMessageRowArrival c t i s) := by
  unfold execMessageRowArrival
  dsimp only
  split
  · exact next_keeps (advance_keeps hs ..)
  · exact next_keeps (ite_keeps (fun _ => takePayload_keeps (advance_keeps hs ..) ..) fun _ => advance_keeps hs ..)
theorem execMessageLanded_keeps (hs : Keeps s₀ s) (c : CoreId) (t : Nat) (r : RingId) : AnswerKeeps s₀ (execMessageLanded c t r s) :=
  whenDue_keeps (advance_keeps hs ..) _ _ fun _ h => passNext_keeps h ..
theorem execSpillWriteComplete_keeps (hs : Keeps s₀ s) (c : CoreId) (t : Nat) (r : RingId) :
    AnswerKeeps s₀ (execSpillWriteComplete c t r s) := by
  unfold execSpillWriteComplete
  dsimp only
  split
  · exact next_keeps (advance_keeps hs ..)
  · exact whenDue_keeps (advance_keeps hs ..) _ _ fun _ h => writeSpill_keeps h ..
theorem execSpillDrain_keeps (hs : Keeps s₀ s) (c : CoreId) (t : Nat) (r : RingId) (err : ReadErr) :
    AnswerKeeps s₀ (execSpillDrain c t r err s) :=
  next_keeps (drainSpill_keeps (advance_keeps hs ..) ..)
theorem grantSpace_keeps (hs : Keeps s₀ s) {c : CoreId} {r : Nat} {h : Row} {t : State} (e : grantSpace c r h s = some t) : Keeps s₀ t := by
  unfold grantSpace at e
  dsimp only at e
  split at e
  · obtain rfl := Option.some.inj e
    exact reserveRing_keeps hs ..
  · obtain ⟨f, -, rfl⟩ := Option.map_eq_some_iff.mp e
    exact appendSpill_keeps hs ..
theorem execHoldGrant_keeps (hs : Keeps s₀ s) (c : CoreId) (t : Nat) (r : RingId) : AnswerKeeps s₀ (execHoldGrant c t r s) := by
  have ha := advance_keeps hs c t
  unfold execHoldGrant
  dsimp only
  split
  · exact next_keeps ha
  · split
    · rename_i e
      exact next_keeps (answerMsg_keeps (onRing_keeps (grantSpace_keeps ha e) ..) ..)
    · exact next_keeps ha
theorem execHoldGrantArrival_keeps (hs : Keeps s₀ s) (i : Nat) : AnswerKeeps s₀ (execHoldGrantArrival i s) := by
  unfold execHoldGrantArrival
  split
  · exact next_keeps hs
  · refine iteAnswer_keeps (fun _ => ?_) fun _ => iteAnswer_keeps (fun _ => next_keeps (onCc_keeps (dropItem_keeps hs _) _ _ fun _ h => h))
        fun _ => next_keeps (sendLoss_keeps (dropItem_keeps hs _) ..)
    split
    · exact next_keeps (forAll_keeps (dropItem_keeps hs _) _ _ fun _ _ h => putItem_keeps h _)
    · exact next_keeps (sendLoss_keeps (dropItem_keeps hs _) ..)
theorem execLandingAckArrival_keeps (hs : Keeps s₀ s) (t : Nat) (i : Nat) : AnswerKeeps s₀ (execLandingAckArrival t i s) := by
  unfold execLandingAckArrival
  split
  · exact next_keeps hs
  · refine iteAnswer_keeps (fun _ => next_keeps (hubDone_keeps (dropItem_keeps hs _) ..)) fun _ => ?_
    dsimp only
    split
    · exact next_keeps (advance_keeps (dropItem_keeps hs _) ..)
    · exact next_keeps (ite_keeps (fun _ => arriveNow_keeps (endSend_keeps (advance_keeps (dropItem_keeps hs _) ..) ..) ..) fun _ =>
          endSend_keeps (advance_keeps (dropItem_keeps hs _) ..) ..)
theorem execBounceArrival_keeps (hs : Keeps s₀ s) (i : Nat) : AnswerKeeps s₀ (execBounceArrival i s) := by
  unfold execBounceArrival
  split
  · exact next_keeps hs
  · refine iteAnswer_keeps (fun _ => ?_) fun _ => ?_
    · split
      · exact next_keeps (hubBounce_keeps (dropItem_keeps hs _) ..)
      · exact next_keeps (dropItem_keeps hs _)
    · dsimp only
      split
      · exact next_keeps (dropItem_keeps hs _)
      · exact next_keeps (bounced_keeps (endSend_keeps (dropItem_keeps hs _) ..) ..)
theorem execLossNoticeArrival_keeps (hs : Keeps s₀ s) (i : Nat) : AnswerKeeps s₀ (execLossNoticeArrival i s) := by
  unfold execLossNoticeArrival
  split
  · exact next_keeps hs
  · exact next_keeps (ite_keeps (fun _ => ite_keeps (fun _ => sendLost_keeps (dropItem_keeps hs _) _) fun _ => messageLoss_keeps hs ..) fun
        _ => ite_keeps (fun _ => hubWriteLost_keeps (dropItem_keeps hs _) _) fun _ => ite_keeps (fun _ => dropItem_keeps hs _) fun _ =>
        ite_keeps (fun _ => rowDiscarded_keeps (dropItem_keeps hs _) ..) fun _ => ite_keeps (fun _ => hs) fun _ => rowLost_keeps
        (dropItem_keeps hs _) ..)
theorem execMsgCounterClear_keeps (hs : Keeps s₀ s) (c : CoreId) : AnswerKeeps s₀ (execMsgCounterClear c s) :=
  next_keeps (onCc_keeps hs _ _ fun _ h => h)
theorem execCtlSend_keeps (hs : Keeps s₀ s) (c : CoreId) (t : Nat) (rd rs1 : Reg) : AnswerKeeps s₀ (execCtlSend c t rd rs1 s) :=
  ccCommand_keeps hs _ _ _ fun _ h => instSend_keeps h ..
theorem execSendRowRead_keeps (hs : Keeps s₀ s) (c : CoreId) (t : Nat) (ecc : Ecc) : AnswerKeeps s₀ (execSendRowRead c t ecc s) := by
  unfold execSendRowRead
  dsimp only
  split
  · exact next_keeps (advance_keeps hs ..)
  · exact whenDue_keeps (advance_keeps hs ..) _ _ fun _ h => sendRead_keeps h ..
theorem execOrderedRelease_keeps (hs : Keeps s₀ s) (c : CoreId) (t i : Nat) : AnswerKeeps s₀ (execOrderedRelease c t i s) := by
  have ha := advance_keeps hs c t
  unfold execOrderedRelease
  dsimp only
  split
  · exact whenDue_keeps ha _ _ fun _ h => departRows_keeps (setSend_keeps h ..) ..
  · split
    · refine whenDue_keeps ha _ _ fun _ h => lossOf_keeps (departRows_keeps (onCc_keeps h _ _ ?_) ..) _
      exact fun _ hk => hk
    · exact next_keeps ha
theorem execRingSetRptr_keeps (hs : Keeps s₀ s) (c : CoreId) (t : Nat) (rd rs1 rs2 : Reg) : AnswerKeeps s₀ (execRingSetRptr c t rd rs1 rs2 s) :=
  ringCommand_keeps hs ..
theorem execRingOpen_keeps (hs : Keeps s₀ s) (c : CoreId) (t : Nat) (rd rs1 rs2 : Reg) : AnswerKeeps s₀ (execRingOpen c t rd rs1 rs2 s) :=
  ringCommand_keeps hs ..
theorem execRingClose_keeps (hs : Keeps s₀ s) (c : CoreId) (t : Nat) (rd rs1 rs2 : Reg) : AnswerKeeps s₀ (execRingClose c t rd rs1 rs2 s) :=
  ringCommand_keeps hs ..

/-! ### Links, routes and the time base -/

theorem execFrameTransmit_keeps (hs : Keeps s₀ s) (p : PortId) (ns : Nat) : AnswerKeeps s₀ (execFrameTransmit p ns s) := by
  unfold execFrameTransmit
  refine whenDue_keeps (atNs_keeps hs _) _ _ fun _ h => ite_keeps (fun _ => ?_) fun _ => setPort_keeps h ..
  split
  · exact setPort_keeps h ..
  · exact setPort_keeps h ..
theorem execLeadFlitTimeout_keeps (hs : Keeps s₀ s) (p : PortId) (ns : Nat) : AnswerKeeps s₀ (execLeadFlitTimeout p ns s) :=
  whenDue_keeps (atNs_keeps hs _) _ _ fun _ h => leaveUp_keeps h ..
theorem execPortTrainingComplete_keeps (hs : Keeps s₀ s) (p : PortId) (ns : Nat) (peerPos : BitVec 16) (peerPort : PortId) (flight : Nat) :
    AnswerKeeps s₀ (execPortTrainingComplete p ns peerPos peerPort flight s) :=
  whenDue_keeps (atNs_keeps hs _) _ _ fun _ h => onPort_keeps h ..
theorem execPortTrain_keeps (hs : Keeps s₀ s) (p : PortId) : AnswerKeeps s₀ (execPortTrain p s) :=
  next_keeps (portTo_keeps hs ..)
theorem execPortDisable_keeps (hs : Keeps s₀ s) (p : PortId) : AnswerKeeps s₀ (execPortDisable p s) :=
  next_keeps (portTo_keeps hs ..)
theorem execLnkCounterClear_keeps (hs : Keeps s₀ s) (p : PortId) : AnswerKeeps s₀ (execLnkCounterClear p s) :=
  next_keeps (onPort_keeps hs ..)
theorem execRouteEntryWrite_keeps (hs : Keeps s₀ s) (pos : BitVec 16) (v : BitVec 8) : AnswerKeeps s₀ (execRouteEntryWrite pos v s) :=
  whenDue_keeps hs _ _ fun _ h => writeRoute_keeps h ..
theorem execLnkTorusWrite_keeps (hs : Keeps s₀ s) (v : Word) : AnswerKeeps s₀ (execLnkTorusWrite v s) :=
  next_keeps (torusWrite_keeps hs _)
theorem execFrameReceive_keeps (hs : Keeps s₀ s) (p : PortId) (ns : Nat) (f : Frame) (fec : Fec) :
    AnswerKeeps s₀ (execFrameReceive p ns f fec s) := by
  unfold execFrameReceive
  refine whenDue_keeps (atNs_keeps hs _) _ _ fun _ h => ?_
  split
  · exact discardFrame_keeps (onPort_keeps h ..) ..
  · exact ite_keeps (fun _ => leaveUp_keeps (onPort_keeps h ..) ..) fun _ => ite_keeps (fun _ => acceptFrame_keeps (onPort_keeps h ..) ..)
        fun _ => ite_keeps (fun _ => acceptFrame_keeps (onPort_keeps (onPort_keeps h ..) ..) ..) fun _ => discardFrame_keeps (onPort_keeps h
        ..) ..
theorem execTbSetWrite_keeps (hs : Keeps s₀ s) (v : BitVec 64) : AnswerKeeps s₀ (execTbSetWrite v s) :=
  next_keeps (tbSet_keeps hs _)
theorem execExtRefLock_keeps (hs : Keeps s₀ s) (ns : Nat) : AnswerKeeps s₀ (execExtRefLock ns s) :=
  whenDue_keeps (atNs_keeps hs _) _ _ fun _ h => fresh_keeps (onTb_keeps h _)
theorem execExtRefLockTimeout_keeps (hs : Keeps s₀ s) (ns : Nat) : AnswerKeeps s₀ (execExtRefLockTimeout ns s) :=
  whenDue_keeps (atNs_keeps hs _) _ _ fun _ h => loseRef_keeps (onTb_keeps h _)
theorem execUpstreamTimeout_keeps (hs : Keeps s₀ s) (ns : Nat) : AnswerKeeps s₀ (execUpstreamTimeout ns s) :=
  whenDue_keeps (atNs_keeps hs _) _ _ fun _ h => ite_keeps (fun _ => onTb_keeps h _) fun _ => holdOver_keeps h _
theorem execReferenceInputLoss_keeps (hs : Keeps s₀ s) (ns : Nat) : AnswerKeeps s₀ (execReferenceInputLoss ns s) :=
  whenDue_keeps (atNs_keeps hs _) _ _ fun _ h => holdOver_keeps h _
theorem execTimeBaseTick_keeps (hs : Keeps s₀ s) : AnswerKeeps s₀ (execTimeBaseTick s) :=
  next_keeps (ite_keeps (fun _ => onHub_keeps hs _ fun _ h => h) fun _ => onHub_keeps hs _ fun _ h => h)
theorem execRemoteReadRequest_keeps (hs : Keeps s₀ s) (i : Nat) (err : ReadErr) : AnswerKeeps s₀ (execRemoteReadRequest i err s) := by
  unfold execRemoteReadRequest
  split
  · exact next_keeps hs
  · exact whenDue_keeps hs _ _ fun _ h => serveRead_keeps (dropItem_keeps h _) ..
theorem execRemoteWriteArrival_keeps (hs : Keeps s₀ s) (i : Nat) : AnswerKeeps s₀ (execRemoteWriteArrival i s) := by
  unfold execRemoteWriteArrival
  split
  · exact next_keeps hs
  · exact whenDue_keeps hs _ _ fun _ h => hubRelease_keeps (takeWrite_keeps (dropItem_keeps h _) _)
theorem execHeartbeatSend_keeps (hs : Keeps s₀ s) (ns : Nat) : AnswerKeeps s₀ (execHeartbeatSend ns s) :=
  next_keeps (forAll_keeps (atNs_keeps hs _) _ _ fun _ _ h => putMgmt_keeps h ..)
theorem execHeartbeatTimeout_keeps (hs : Keeps s₀ s) (p : PortId) (ns : Nat) : AnswerKeeps s₀ (execHeartbeatTimeout p ns s) :=
  whenDue_keeps (atNs_keeps hs _) _ _ fun _ h => linkAlarm_keeps (onPort_keeps h ..) _
theorem execIdentFlit_keeps (hs : Keeps s₀ s) (p : PortId) (pos : BitVec 16) (identity : Nat) (f : Flit) :
    AnswerKeeps s₀ (execIdentFlit p pos identity f s) :=
  next_keeps (ite_keeps (fun _ => portTo_keeps (onPort_keeps (takeMgmt_keeps hs _) ..) ..) fun _ => onPort_keeps (takeMgmt_keeps hs _) ..)
theorem execSurveyFlit_keeps (hs : Keeps s₀ s) (p : PortId) (ns : Nat) (f : Flit) : AnswerKeeps s₀ (execSurveyFlit p ns f s) :=
  iteAnswer_keeps (fun _ => next_keeps (takeMgmt_keeps (atNs_keeps hs _) _)) fun _ => iteAnswer_keeps (fun _ => next_keeps (ite_keeps (fun _
      => hubSetBit_keeps (onHl_keeps (takeMgmt_keeps (atNs_keeps hs _) _) _) ..) fun _ => takeMgmt_keeps (atNs_keeps hs _) _)) fun _ =>
      next_keeps (putMgmt_keeps (forwardSurvey_keeps (onHl_keeps (ite_keeps (fun _ => hubSetBit_keeps (onHl_keeps (takeMgmt_keeps
      (atNs_keeps hs _) _) _) ..) fun _ => takeMgmt_keeps (atNs_keeps hs _) _) _) ..) ..)
theorem execReportFlit_keeps (hs : Keeps s₀ s) (p : PortId) (f : Flit) : AnswerKeeps s₀ (execReportFlit p f s) := by
  unfold execReportFlit
  dsimp only
  split
  · exact next_keeps (ite_keeps (fun _ => takeMgmt_keeps hs _) fun _ => putMgmt_keeps (takeMgmt_keeps hs _) ..)
  · exact iteAnswer_keeps (fun _ => next_keeps (onHl_keeps (takeMgmt_keeps hs _) _)) fun _ => next_keeps (onHl_keeps (takeMgmt_keeps hs _)
        _)
theorem execPowerFailFlit_keeps (hs : Keeps s₀ s) (p : PortId) (ns : Nat) : AnswerKeeps s₀ (execPowerFailFlit p ns s) :=
  whenDue_keeps (atNs_keeps hs _) _ _ fun _ h => leaveUp_keeps h ..
theorem execAdoptFlit_keeps (hs : Keeps s₀ s) (_p : PortId) (f : Flit) : AnswerKeeps s₀ (execAdoptFlit _p f s) :=
  next_keeps (ite_keeps (fun _ => takeMgmt_keeps hs _) fun _ => onHl_keeps (takeMgmt_keeps hs _) _)

/-! ### Lock-step and weights -/

theorem execLsEnable_keeps (hs : Keeps s₀ s) (v : Word) : AnswerKeeps s₀ (execLsEnable v s) :=
  next_keeps (lsCfgWrite_keeps hs _)
theorem execFoldMessageSend_keeps (hs : Keeps s₀ s) (ns : Nat) : AnswerKeeps s₀ (execFoldMessageSend ns s) :=
  iteAnswer_keeps (fun _ => next_keeps (atNs_keeps hs _)) fun _ => iteAnswer_keeps (fun _ => next_keeps (forAll_keeps (sendFolds_keeps
      (onLs_keeps (atNs_keeps hs _) _) _) _ _ fun _ _ h => ite_keeps (fun _ => lsKeep_keeps h ..) fun _ => h)) fun _ => whenDue_keeps
      (atNs_keeps hs _) _ _ fun _ h => sendFolds_keeps (onLs_keeps h _) _
theorem execFoldMessageArrival_keeps (hs : Keeps s₀ s) (hdr : Row) (payload : List Row) :
    AnswerKeeps s₀ (execFoldMessageArrival hdr payload s) :=
  whenDue_keeps (takeMsg_keeps hs _) _ _ fun _ h => forAll_keeps h _ _ fun _ _ h1 => lsPeer_keeps h1 _
theorem execWeightLoad_keeps (hs : Keeps s₀ s) (src : CmdSrc) (x : CtxId) (w : WgtCmd) : AnswerKeeps s₀ (execWeightLoad src x w s) :=
  hlCommand_keeps hs _ _ _ _ fun _ h => ite_keeps (fun _ => reply_keeps h ..) fun _ => wgtCommand_keeps h _ _ _ _ _ _ fun _ h1 => ite_keeps
      (fun _ => wgtDone_keeps h1 ..) fun _ => h1
theorem execWeightKeys_keeps (hs : Keeps s₀ s) (src : CmdSrc) (x : CtxId) (rsa slh : BitVec 384) :
    AnswerKeeps s₀ (execWeightKeys src x rsa slh s) :=
  hlCommand_keeps hs _ _ _ _ fun _ h => reply_keeps (onWgt_keeps h ..) ..
theorem execWeightVerify_keeps (hs : Keeps s₀ s) (src : CmdSrc) (x : CtxId) (w : WgtCmd) : AnswerKeeps s₀ (execWeightVerify src x w s) :=
  hlCommand_keeps hs _ _ _ _ fun _ h => ite_keeps (fun _ => reply_keeps h ..) fun _ => wgtCommand_keeps h _ _ _ _ _ _ fun _ h1 => ite_keeps
      (fun _ => wgtDone_keeps h1 ..) fun _ => forAll_keeps h1 _ _ fun _ _ h2 => queueDigest_keeps h2 ..
theorem execChunkNotice_keeps (hs : Keeps s₀ s) (ns : Nat) (hdr : Row) : AnswerKeeps s₀ (execChunkNotice ns hdr s) := by
  unfold execChunkNotice
  refine onNotice_keeps (atNs_keeps hs _) _ _ fun _ _ h => ?_
  dsimp only
  split
  · exact h
  · exact forwardChunks_keeps (onSlot_keeps (startWindows_keeps (copyChunk_keeps h ..) ..) ..) ..
theorem execChunkReleaseSend_keeps (hs : Keeps s₀ s) (x : CtxId) (chunk : Nat) : AnswerKeeps s₀ (execChunkReleaseSend x chunk s) := by
  unfold execChunkReleaseSend
  split
  · exact next_keeps hs
  · dsimp only
    split
    · exact next_keeps hs
    · exact whenDue_keeps hs _ _ fun _ h => wgtNotice_keeps (onSlot_keeps h ..) ..
theorem execReleaseNotice_keeps (hs : Keeps s₀ s) (hdr : Row) : AnswerKeeps s₀ (execReleaseNotice hdr s) :=
  onNotice_keeps hs _ _ fun _ _ h => ite_keeps (fun _ => wgtDone_keeps (forwardChunks_keeps (onSlot_keeps h ..) ..) ..) fun _ =>
      forwardChunks_keeps (onSlot_keeps h ..) ..
theorem execReRequestNotice_keeps (hs : Keeps s₀ s) (hdr : Row) : AnswerKeeps s₀ (execReRequestNotice hdr s) := by
  unfold execReRequestNotice
  refine iteAnswer_keeps (fun _ => next_keeps (wgtNotice_keeps (takeMsg_keeps hs _) ..)) fun _ => onNotice_keeps hs _ _ fun _ _ h => ?_
  dsimp only
  split
  · exact ite_keeps (fun _ => wgtNotice_keeps h ..) fun _ => ite_keeps (fun _ => resendShard_keeps h ..) fun _ => wgtNotice_keeps
        (onShard_keeps h ..) ..
  · exact h
theorem execWaitNotice_keeps (hs : Keeps s₀ s) (ns : Nat) (hdr : Row) : AnswerKeeps s₀ (execWaitNotice ns hdr s) := by
  unfold execWaitNotice
  refine onNotice_keeps (atNs_keeps hs _) _ _ fun _ _ h => ?_
  dsimp only
  split
  · exact ite_keeps (fun _ => onShard_keeps h ..) fun _ => wgtNotice_keeps h ..
  · exact h
theorem execUnavailableNotice_keeps (hs : Keeps s₀ s) (hdr : Row) : AnswerKeeps s₀ (execUnavailableNotice hdr s) := by
  unfold execUnavailableNotice
  refine onNotice_keeps hs _ _ fun _ _ h => ?_
  dsimp only
  split
  · exact ite_keeps (fun _ => ite_keeps (fun _ => wgtFail_keeps h ..) fun _ => toHostShard_keeps h ..) fun _ => wgtNotice_keeps h ..
  · exact h
theorem execShardDigestStart_keeps (hs : Keeps s₀ s) (d : DieId) : AnswerKeeps s₀ (execShardDigestStart d s) := by
  unfold execShardDigestStart
  dsimp only
  split
  · exact next_keeps hs
  · refine iteAnswer_keeps (fun _ => next_keeps hs) fun _ => ?_
    split
    · exact next_keeps hs
    · exact next_keeps (onHub_keeps hs _ fun _ h => h)
theorem execShardDigestComplete_keeps (hs : Keeps s₀ s) (d : DieId) (ns : Nat) (e : Fin 4) :
    AnswerKeeps s₀ (execShardDigestComplete d ns e s) := by
  have ha := atNs_keeps hs ns
  unfold execShardDigestComplete
  dsimp only
  split
  · exact next_keeps ha
  · have hd : Keeps s₀ ((State.atNs ns s).onHub fun h => { h with digEng := vset h.digEng (4 * d.val + e.val) none }) :=
      onHub_keeps ha _ fun _ hk => hk
    split
    · exact next_keeps hd
    · refine next_keeps (ite_keeps (fun _ => ite_keeps (fun _ => onShard_keeps (noteLate_keeps hd ..) ..) fun _ => ?_)
        fun _ => ite_keeps (fun _ => shardPassed_keeps hd ..) fun _ => failAttempt_keeps hd ..)
      exact recheckFailed_keeps (noteLate_keeps hd ..) ..
theorem execWeightWindowExpiry_keeps (hs : Keeps s₀ s) (x : CtxId) (ns : Nat) (shard : Nat) :
    AnswerKeeps s₀ (execWeightWindowExpiry x ns shard s) := by
  unfold execWeightWindowExpiry
  dsimp only
  split
  · exact next_keeps (failAttempt_keeps (atNs_keeps hs _) ..)
  · exact next_keeps (atNs_keeps hs _)
theorem execRecheckDue_keeps (hs : Keeps s₀ s) (x : CtxId) (slot : Fin 2) (ns : Nat) (shard : Nat) :
    AnswerKeeps s₀ (execRecheckDue x slot ns shard s) := by
  unfold execRecheckDue
  dsimp only
  split
  · exact next_keeps (atNs_keeps hs _)
  · exact whenDue_keeps (ite_keeps (fun _ => noteLate_keeps (atNs_keeps hs _) ..) fun _ => atNs_keeps hs _) _ _ fun _ h => queueDigest_keeps
        (onShard_keeps h ..) ..
theorem execTurn_keeps (hs : Keeps s₀ s) (src : CmdSrc) (x : CtxId) : AnswerKeeps s₀ (execTurn src x s) :=
  hlCommand_keeps hs _ _ _ _ fun _ h => ite_keeps (fun _ => reply_keeps h ..) fun _ => reply_keeps (onSlot_keeps (ite_keeps (fun _ =>
      emptySlot_keeps (onWgt_keeps (ite_keeps (fun _ => dropDigests_keeps h ..) fun _ => h) ..) ..) fun _ => onSlot_keeps (onWgt_keeps
      (ite_keeps (fun _ => dropDigests_keeps h ..) fun _ => h) ..) ..) ..) ..
theorem execReqBegin_keeps (hs : Keeps s₀ s) (c : CoreId) : AnswerKeeps s₀ (execReqBegin c s) :=
  next_keeps (reqBeginOp_keeps hs _)
theorem execReqJoin_keeps (hs : Keeps s₀ s) (c : CoreId) : AnswerKeeps s₀ (execReqJoin c s) :=
  next_keeps (reqJoinOp_keeps hs _)
theorem execReqEnd_keeps (hs : Keeps s₀ s) (c : CoreId) : AnswerKeeps s₀ (execReqEnd c s) :=
  next_keeps (reqEndOp_keeps hs _)

/-! ### Journal, snapshots and restore -/

theorem execJournalCommand_keeps (hs : Keeps s₀ s) (src : CmdSrc) (x : CtxId) (step rows : Nat) :
    AnswerKeeps s₀ (execJournalCommand src x step rows s) :=
  whenDue_keeps hs _ _ fun _ h => ite_keeps (fun _ => takeCmd_keeps h ..) fun _ => ite_keeps (fun _ => jnlPerform_keeps (takeCmd_keeps h ..)
      ..) fun _ => jnlHold_keeps (takeCmd_keeps h ..) ..
theorem execMirrorHeaderLand_keeps (hs : Keeps s₀ s) (fromPos : BitVec 16) (addr : Nat) : AnswerKeeps s₀ (execMirrorHeaderLand fromPos addr s) :=
  next_keeps (sendMgmt_keeps hs ..)
theorem execMirrorAnswer_keeps (hs : Keeps s₀ s) (x : CtxId) (ok : Bool) : AnswerKeeps s₀ (execMirrorAnswer x ok s) := by
  unfold execMirrorAnswer
  dsimp only
  split
  · exact next_keeps hs
  · exact iteAnswer_keeps (fun _ => next_keeps (replyInline_keeps (onSnp_keeps (takeMirrorAnswer_keeps hs _) ..) ..)) fun _ =>
        iteAnswer_keeps (fun _ => next_keeps (jnlPerform_keeps (takeMirrorAnswer_keeps hs _) ..)) fun _ => next_keeps (headlandFault_keeps
        (hubSetBit_keeps (onSnp_keeps (takeMirrorAnswer_keeps hs _) ..) ..) _)
theorem execUpdEnd_keeps (hs : Keeps s₀ s) (w : Writer) (x : CtxId) : AnswerKeeps s₀ (execUpdEnd w x s) :=
  next_keeps (updEndOp_keeps hs ..)
theorem execSnapshotNow_keeps (hs : Keeps s₀ s) (w : Writer) (x : CtxId) (ns : Nat) : AnswerKeeps s₀ (execSnapshotNow w x ns s) :=
  next_keeps (snapshotNowOp_keeps (atNs_keeps hs _) ..)
theorem execSnapshotStart_keeps (hs : Keeps s₀ s) (x : CtxId) (ns : Nat) : AnswerKeeps s₀ (execSnapshotStart x ns s) :=
  whenDue_keeps (atNs_keeps hs _) _ _ fun _ h => startSnapshot_keeps h _
theorem execSnapshotChunkCopied_keeps (hs : Keeps s₀ s) (x : CtxId) (chunk : Reading Nat) :
    AnswerKeeps s₀ (execSnapshotChunkCopied x chunk s) := by
  unfold execSnapshotChunkCopied
  dsimp only
  split
  · exact whenDue_keeps hs _ _ fun _ h => forAll_keeps (onSnp_keeps (storeChunk_keeps (readCopied_keeps h ..) ..) ..) _ _ fun _ _ h1 =>
        sendPartnerChunk_keeps h1 ..
  · exact next_keeps hs
theorem execPartnerChunkNotice_keeps (hs : Keeps s₀ s) (fromPos : BitVec 16) (ctx : CtxId) (slotAddr : Nat) (entry : BitVec 512) :
    AnswerKeeps s₀ (execPartnerChunkNotice fromPos ctx slotAddr entry s) :=
  iteAnswer_keeps (fun _ => next_keeps hs) fun _ => whenDue_keeps hs _ _ fun _ h => sendMgmt_keeps (ite_keeps (fun _ => hostRows_keeps h ..)
      fun _ => h) ..
theorem execPartnerNoticeTimeout_keeps (hs : Keeps s₀ s) (x : CtxId) (ns : Nat) : AnswerKeeps s₀ (execPartnerNoticeTimeout x ns s) := by
  unfold execPartnerNoticeTimeout
  dsimp only
  split
  · exact next_keeps (atNs_keeps hs _)
  · split
    · exact next_keeps (atNs_keeps hs _)
    · exact next_keeps (headlandFault_keeps (abandonSnapshot_keeps (atNs_keeps hs _) _) _)
theorem execSnapshotSigned_keeps (hs : Keeps s₀ s) (x : CtxId) : AnswerKeeps s₀ (execSnapshotSigned x s) := by
  unfold execSnapshotSigned
  dsimp only
  split
  · exact next_keeps hs
  · exact whenDue_keeps hs _ _ fun _ h => forAll_keeps (onSnp_keeps (writeStore_keeps h ..) ..) _ _ fun _ _ h1 => sendPartnerChunk_keeps h1
        ..
theorem execCommitPageWritten_keeps (hs : Keeps s₀ s) (x : CtxId) (copy : Fin 3) (ok : Bool) :
    AnswerKeeps s₀ (execCommitPageWritten x copy ok s) := by
  unfold execCommitPageWritten
  dsimp only
  split
  · exact next_keeps hs
  · exact whenDue_keeps hs _ _ fun _ h => ite_keeps (fun _ => ite_keeps (fun _ => pageFails_keeps h ..) fun _ => h) fun _ => ite_keeps (fun
        _ => commitSnapshot_keeps (ite_keeps (fun _ => writeStore_keeps h ..) fun _ => h) ..) fun _ => onSnp_keeps (ite_keeps (fun _ =>
        writeStore_keeps h ..) fun _ => h) ..
theorem execPartnerCheck_keeps (hs : Keeps s₀ s) (x : CtxId) (second : Bool) (v : Word) : AnswerKeeps s₀ (execPartnerCheck x second v s) :=
  next_keeps (partnerWrite_keeps hs ..)
theorem execPartnerFlit_keeps (hs : Keeps s₀ s) (_p : PortId) (f : Flit) : AnswerKeeps s₀ (execPartnerFlit _p f s) := by
  unfold execPartnerFlit
  refine next_keeps ?_
  split
  · exact partnerQuery_keeps (takeMgmt_keeps hs _) ..
  · exact pairAnswer_keeps (takeMgmt_keeps hs _) ..
  · exact partnerAnswer_keeps (takeMgmt_keeps hs _) ..
  · exact partnerAnswer_keeps (takeMgmt_keeps hs _) ..
  · exact takeMgmt_keeps hs _
theorem execRiskEvaluation_keeps (hs : Keeps s₀ s) (ns : Nat) : AnswerKeeps s₀ (execRiskEvaluation ns s) := by
  unfold execRiskEvaluation
  refine whenDue_keeps (atNs_keeps hs _) _ _ fun u h => ?_
  refine ite_keeps (fun _ => forAll_keeps (onHub_keeps h _ ?_) _ _ ?_) fun _ => onHub_keeps h _ ?_
  · exact fun _ hk => hk
  · exact fun _ _ ht => ite_keeps (fun _ => startSnapshot_keeps ht _) fun _ => ht
  · exact fun _ hk => hk
theorem execRestore_keeps (hs : Keeps s₀ s) (src : CmdSrc) (x : CtxId) (r : RestoreCmd) : AnswerKeeps s₀ (execRestore src x r s) :=
  hlCommand_keeps hs _ _ _ _ fun _ h => ite_keeps (fun _ => reply_keeps h ..) fun _ => ite_keeps (fun _ => reply_keeps h ..) fun _ =>
      startRestore_keeps h ..
theorem execRestoreFetchComplete_keeps (hs : Keeps s₀ s) (x : CtxId) (isJournal : Bool) (idx source : Nat) (rows : List Row) :
    AnswerKeeps s₀ (execRestoreFetchComplete x isJournal idx source rows s) := by
  unfold execRestoreFetchComplete
  split
  · exact next_keeps hs
  · exact next_keeps (coverCheck_keeps (ite_keeps (fun _ => takeEntry_keeps hs ..) fun _ => ite_keeps (fun _ => takeHead_keeps hs ..) fun _
        => takeChunk_keeps hs ..) _)
theorem execReplayStep_keeps (hs : Keeps s₀ s) (x : CtxId) : AnswerKeeps s₀ (execReplayStep x s) := by
  unfold execReplayStep
  dsimp only
  split
  · exact next_keeps hs
  · refine whenDue_keeps hs _ _ fun _ h => ?_
    split
    · exact onRst_keeps (replayTo_keeps h ..) ..
    · exact replyDone_keeps (hubSetBit_keeps (onSnp_keeps (onAdv_keeps h ..) ..) ..) ..

/-! ### Clocks, power and supplies -/

theorem execDiePoolWrite_keeps (hs : Keeps s₀ s) (w : Writer) (d : DieId) (v : Word) : AnswerKeeps s₀ (execDiePoolWrite w d v s) :=
  whenDue_keeps hs _ _ fun _ h => poolWrite_keeps h ..
theorem execPwrBudgetWrite_keeps (hs : Keeps s₀ s) (w : Writer) (v : Word) : AnswerKeeps s₀ (execPwrBudgetWrite w v s) :=
  whenDue_keeps hs _ _ fun _ h => budgetWrite_keeps h ..
theorem execExpPoolWrite_keeps (hs : Keeps s₀ s) (w : Writer) (d : DieId) (v : Word) : AnswerKeeps s₀ (execExpPoolWrite w d v s) :=
  whenDue_keeps hs _ _ fun _ h => expPoolWrite_keeps h ..
theorem execOverheadUpdate_keeps (hs : Keeps s₀ s) (watts : Nat) : AnswerKeeps s₀ (execOverheadUpdate watts s) :=
  whenDue_keeps hs _ _ fun _ h => recomputePools_keeps (onPwr_keeps h _)
theorem execStepChangeRequest_keeps (hs : Keeps s₀ s) (d : DieId) (target : Fin 8) : AnswerKeeps s₀ (execStepChangeRequest d target s) :=
  whenDue_keeps hs _ _ fun _ h => forAll_keeps h _ _ fun _ _ h1 => onDie_keeps h1 ..
theorem execClockStop_keeps (hs : Keeps s₀ s) (d : DieId) (refEdge : Nat) : AnswerKeeps s₀ (execClockStop d refEdge s) :=
  whenDue_keeps hs _ _ fun _ h => forAll_keeps h _ _ fun _ _ h1 => onDie_keeps h1 ..
theorem execClockRestart_keeps (hs : Keeps s₀ s) (d : DieId) (refEdge : Nat) : AnswerKeeps s₀ (execClockRestart d refEdge s) := by
  unfold execClockRestart
  split
  · exact next_keeps hs
  · exact whenDue_keeps hs _ _ fun _ h => forAll_keeps (recomputePools_keeps (ite_keeps (fun _ => onPwr_keeps (forAll_keeps h _ _ fun _ _ h1
        => restartDie_keeps h1 _) _) fun _ => forAll_keeps h _ _ fun _ _ h1 => restartDie_keeps h1 _)) _ _ fun _ _ h1 => forAll_keeps h1 _ _
        fun _ _ h2 => launchStep_keeps h2 _
theorem execInputPowerCheck_keeps (hs : Keeps s₀ s) (ns : Nat) (watts : Nat) : AnswerKeeps s₀ (execInputPowerCheck ns watts s) :=
  iteAnswer_keeps (fun _ => next_keeps (forAll_keeps (hubSetBit_keeps (onPwr_keeps (onPwr_keeps (atNs_keeps hs _) _) _) ..) _ _ fun _ _ h =>
      onDie_keeps h ..)) fun _ => iteAnswer_keeps (fun _ => next_keeps (onPwr_keeps (onPwr_keeps (atNs_keeps hs _) _) _)) fun _ =>
      iteAnswer_keeps (fun _ => next_keeps (forAll_keeps (onPwr_keeps (onPwr_keeps (atNs_keeps hs _) _) _) _ _ fun _ _ h => onDie_keeps h
      ..)) fun _ => next_keeps (onPwr_keeps (onPwr_keeps (atNs_keeps hs _) _) _)
theorem execSensorSample_keeps (hs : Keeps s₀ s) (readings : List Int) : AnswerKeeps s₀ (execSensorSample readings s) :=
  next_keeps (ite_keeps (fun _ => thermalTrip_keeps (onPwr_keeps (forAll_keeps hs _ _ fun _ _ h => onDie_keeps h ..) _)) fun _ =>
      onPwr_keeps (forAll_keeps hs _ _ fun _ _ h => onDie_keeps h ..) _)
theorem execThermalCheck_keeps (hs : Keeps s₀ s) (ns : Nat) : AnswerKeeps s₀ (execThermalCheck ns s) :=
  next_keeps (ite_keeps (fun _ => attention_keeps (forAll_keeps (atNs_keeps hs _) _ _ fun _ _ h => onDie_keeps h ..) _) fun _ =>
      forAll_keeps (atNs_keeps hs _) _ _ fun _ _ h => onDie_keeps h ..)
theorem execPwrTjClear_keeps (hs : Keeps s₀ s) (d : DieId) : AnswerKeeps s₀ (execPwrTjClear d s) :=
  next_keeps (tjClear_keeps hs _)
theorem execPowerGateCommand_keeps (hs : Keeps s₀ s) (c : CoreId) (t : Nat) : AnswerKeeps s₀ (execPowerGateCommand c t s) :=
  atCore_keeps hs _ _ _ _ fun _ h => ite_keeps (fun _ => onCore_keeps h _ _ fun _ h => h) fun _ => powerGate_keeps h _
theorem execSupplyOutOfRange_keeps (hs : Keeps s₀ s) (backup : Bool) (ns : Nat) : AnswerKeeps s₀ (execSupplyOutOfRange backup ns s) :=
  next_keeps (inputOut_keeps (atNs_keeps hs _) _)
theorem execSupplyInRange_keeps (hs : Keeps s₀ s) (backup : Bool) (ns : Nat) : AnswerKeeps s₀ (execSupplyInRange backup ns s) :=
  whenDue_keeps (atNs_keeps hs _) _ _ fun _ h => switchOver_keeps (onPwr_keeps h _)
theorem execSupplyReturn_keeps (hs : Keeps s₀ s) (ns : Nat) : AnswerKeeps s₀ (execSupplyReturn ns s) :=
  whenDue_keeps (atNs_keeps hs _) _ _ fun _ h => switchTo_keeps h _
theorem execDroopEvent_keeps (hs : Keeps s₀ s) (ns : Nat) : AnswerKeeps s₀ (execDroopEvent ns s) :=
  next_keeps (readVin_keeps (onHub_keeps (atNs_keeps hs _) _ (by exact fun _ hk => hk)) _)
theorem execMateSenseChange_keeps (hs : Keeps s₀ s) (isOpen : Bool) (ns : Nat) : AnswerKeeps s₀ (execMateSenseChange isOpen ns s) :=
  next_keeps (ite_keeps (fun _ => unmate_keeps (atNs_keeps hs _)) fun _ => onPwr_keeps (atNs_keeps hs _) _)
theorem execColdStart_keeps (hs : Keeps s₀ s) (ns : Nat) : AnswerKeeps s₀ (execColdStart ns s) :=
  whenDue_keeps (atNs_keeps hs _) _ _ fun _ h => coldReset_keeps h
theorem execPowerFail_keeps (hs : Keeps s₀ s) (ns : Nat) : AnswerKeeps s₀ (execPowerFail ns s) := by
  unfold execPowerFail
  exact whenDue_keeps (atNs_keeps hs _) _ _ fun _ h => shutDown_keeps (onPwr_keeps h _)
theorem execShutdownRailsOff_keeps (hs : Keeps s₀ s) (ns : Nat) : AnswerKeeps s₀ (execShutdownRailsOff ns s) := by
  unfold execShutdownRailsOff
  exact whenDue_keeps (atNs_keeps hs _) _ _ fun _ h => ite_keeps (fun _ => railsOff_keeps h) fun _ => hubOff_keeps (railsOff_keeps h) _
theorem execPowerFailRestart_keeps (hs : Keeps s₀ s) (ns : Nat) : AnswerKeeps s₀ (execPowerFailRestart ns s) :=
  whenDue_keeps (atNs_keeps hs _) _ _ fun _ h => coldReset_keeps h
theorem execStrapSample_keeps (hs : Keeps s₀ s) (pos : BitVec 16) (main bkp : BitVec 8) (master : Bool) :
    AnswerKeeps s₀ (execStrapSample pos main bkp master s) :=
  whenDue_keeps hs _ _ fun _ h => onTb_keeps (onHl_keeps (onHub_keeps h _ (by exact fun _ hk => hk)) _) _

/-! ### Boot, trust, resets, host link and registers -/

theorem execBoot_keeps (hs : Keeps s₀ s) (ns : Nat) : AnswerKeeps s₀ (execBoot ns s) := by
  unfold execBoot
  refine whenDue_keeps (atNs_keeps hs _) _ _ fun _ h => ?_
  split
  · exact attention_keeps (onHl_keeps h _) _
  · exact attention_keeps (trainDeep_keeps (forAll_keeps (onTb_keeps (bootCalibration_keeps (onHl_keeps h _)) _) _ _ fun _ _ h =>
        portTo_keeps h ..)) _
theorem execFwUpdate_keeps (hs : Keeps s₀ s) (src : CmdSrc) (addr rows : Nat) : AnswerKeeps s₀ (execFwUpdate src addr rows s) :=
  hlCommand_keeps hs _ _ _ _ fun _ h => replyDone_keeps (onHub_keeps (reply_keeps h ..) _ (by exact fun _ hk => hk)) ..
theorem execRollbackCommit_keeps (hs : Keeps s₀ s) (src : CmdSrc) : AnswerKeeps s₀ (execRollbackCommit src s) :=
  hlCommand_keeps hs _ _ _ _ fun _ h => ite_keeps (fun _ => reply_keeps h ..) fun _ => reply_keeps (onHub_keeps h _ (by exact fun _ hk => hk)) ..
theorem execCalExport_keeps (hs : Keeps s₀ s) (src : CmdSrc) (addr : Nat) : AnswerKeeps s₀ (execCalExport src addr s) :=
  hlCommand_keeps hs _ _ _ _ fun _ h => reply_keeps (writeRows_keeps h ..) ..
theorem execCalImport_keeps (hs : Keeps s₀ s) (src : CmdSrc) (addr rows : Nat) : AnswerKeeps s₀ (execCalImport src addr rows s) :=
  hlCommand_keeps hs _ _ _ _ fun _ h => ite_keeps (fun _ => attention_keeps (reply_keeps (onHub_keeps h _ (by exact fun _ hk => hk)) ..) _)
    fun _ => reply_keeps h ..
theorem execCalSelf_keeps (hs : Keeps s₀ s) (src : CmdSrc) (mask : BitVec 6) : AnswerKeeps s₀ (execCalSelf src mask s) :=
  hlCommand_keeps hs _ _ _ _ fun _ h => attention_keeps (replyDone_keeps (selfCalibrate_keeps (reply_keeps h ..) _) ..) _
theorem execAttest_keeps (hs : Keeps s₀ s) (src : CmdSrc) (nonce : BitVec 256) (addr : Nat) : AnswerKeeps s₀ (execAttest src nonce addr s) :=
  hlCommand_keeps hs _ _ _ _ fun _ h => reply_keeps (writeRows_keeps h ..) ..
theorem execCtxCfgCommit_keeps (hs : Keeps s₀ s) (c : CoreId) (v : Word) : AnswerKeeps s₀ (execCtxCfgCommit c v s) :=
  next_keeps (ctxCfgWrite_keeps hs ..)
theorem execContextCfg_keeps (hs : Keeps s₀ s) (src : CmdSrc) (x : CtxId) (mask : BitVec 128) (slot : Fin 4) (shared rt : Bool) (seed : BitVec 64)
    (map : List (BitVec 8)) :
    AnswerKeeps s₀ (execContextCfg src x mask slot shared rt seed map s) :=
  hlCommand_keeps hs _ _ _ _ fun _ h => ite_keeps (fun _ => reply_keeps h ..) fun _ => ite_keeps (fun _ => reply_keeps h ..) fun _ =>
      reply_keeps (forAll_keeps h _ _ fun _ _ h1 => configCore_keeps h1 ..) ..
theorem execContextReset_keeps (hs : Keeps s₀ s) (src : CmdSrc) (x : CtxId) : AnswerKeeps s₀ (execContextReset src x s) :=
  hlCommand_keeps hs _ _ _ _ fun _ h => ite_keeps (fun _ => addReset_keeps h ..) fun _ => contextResetOp_keeps (addReset_keeps h ..) _
theorem execCoreReset_keeps (hs : Keeps s₀ s) (src : CmdSrc) (mask : BitVec 128) : AnswerKeeps s₀ (execCoreReset src mask s) :=
  hlCommand_keeps hs _ _ _ _ fun _ h => ite_keeps (fun _ => reply_keeps h ..) fun _ => ite_keeps (fun _ => addReset_keeps h ..) fun _ =>
      forAll_keeps (addReset_keeps h ..) _ _ fun _ _ h1 => coreResetOp_keeps h1 _
theorem execModuleReset_keeps (hs : Keeps s₀ s) (src : CmdSrc) : AnswerKeeps s₀ (execModuleReset src s) :=
  whenDue_keeps hs _ _ fun _ h => ite_keeps (fun _ => reply_keeps (takeCmd_keeps h ..) ..) fun _ => ite_keeps (fun _ => reply_keeps
      (takeCmd_keeps h ..) ..) fun _ => ite_keeps (fun _ => addReset_keeps (takeCmd_keeps h ..) ..) fun _ => moduleResetOp_keeps
      (takeCmd_keeps h ..) _
theorem execResetNEdge_keeps (hs : Keeps s₀ s) (lowNs ns : Nat) : AnswerKeeps s₀ (execResetNEdge lowNs ns s) :=
  whenDue_keeps (atNs_keeps hs _) _ _ fun _ h => moduleResetOp_keeps h _
theorem execResetComplete_keeps (hs : Keeps s₀ s) : AnswerKeeps s₀ (execResetComplete s) := by
  unfold execResetComplete
  split
  · exact next_keeps hs
  · refine next_keeps ?_
    split
    · exact reply_keeps (ite_keeps (fun _ => forAll_keeps (onHl_keeps hs _) _ _ fun _ _ h => finishRing_keeps h ..) fun _ => ite_keeps (fun
          _ => forAll_keeps (onHl_keeps hs _) _ _ fun _ _ h => finishCore_keeps h ..) fun _ => ite_keeps (fun _ => onHl_keeps
          (trainDeep_keeps (onTb_keeps (onHl_keeps hs _) _)) _) fun _ => onHl_keeps hs _) ..
    · exact ite_keeps (fun _ => forAll_keeps (onHl_keeps hs _) _ _ fun _ _ h => finishRing_keeps h ..) fun _ => ite_keeps (fun _ =>
          forAll_keeps (onHl_keeps hs _) _ _ fun _ _ h => finishCore_keeps h ..) fun _ => ite_keeps (fun _ => onHl_keeps (trainDeep_keeps
          (onTb_keeps (onHl_keeps hs _) _)) _) fun _ => onHl_keeps hs _
theorem execHostRowWrite_keeps (hs : Keeps s₀ s) (addr : Nat) (row : Row) : AnswerKeeps s₀ (execHostRowWrite addr row s) :=
  whenDue_keeps hs _ _ fun _ h => ite_keeps (fun _ => headlandFault_keeps h _) fun _ => ite_keeps (fun _ => headlandFault_keeps h _) fun _
      => ite_keeps (fun _ => h) fun _ => hostWrite_keeps h ..
theorem execHostRowRead_keeps (hs : Keeps s₀ s) (addr count tag : Nat) (err : ReadErr) : AnswerKeeps s₀ (execHostRowRead addr count tag err s) :=
  whenDue_keeps hs _ _ fun _ h => hostRead_keeps h ..
theorem execHostMessage_keeps (hs : Keeps s₀ s) (hdr : Row) (payload : List Row) : AnswerKeeps s₀ (execHostMessage hdr payload s) :=
  whenDue_keeps hs _ _ fun _ h => ite_keeps (fun _ => hubBounce_keeps (onHl_keeps h _) ..) fun _ => hostDepart_keeps (onHl_keeps h _) _
theorem execHostInboxPlace_keeps (hs : Keeps s₀ s) : AnswerKeeps s₀ (execHostInboxPlace s) := by
  unfold execHostInboxPlace
  dsimp only
  split
  · split
    · exact whenDue_keeps hs _ _ fun _ h => placeInbox_keeps h ..
    · exact next_keeps hs
  · exact next_keeps hs
theorem execHostInboxRptrWrite_keeps (hs : Keeps s₀ s) (v : Word) : AnswerKeeps s₀ (execHostInboxRptrWrite v s) :=
  next_keeps (inboxRptr_keeps hs _)
theorem execHostFaultRptrWrite_keeps (hs : Keeps s₀ s) (v : Word) : AnswerKeeps s₀ (execHostFaultRptrWrite v s) :=
  next_keeps (faultRptr_keeps hs _)
theorem execSmbSegmentWrite_keeps (hs : Keeps s₀ s) (i : Fin 16) (data : BitVec 256) : AnswerKeeps s₀ (execSmbSegmentWrite i data s) :=
  whenDue_keeps hs _ _ fun _ h => onHl_keeps h _
theorem execSmbSubmit_keeps (hs : Keeps s₀ s) : AnswerKeeps s₀ (execSmbSubmit s) :=
  whenDue_keeps hs _ _ fun _ h => onHl_keeps h _
theorem execSmbReplyRead_keeps (hs : Keeps s₀ s) : AnswerKeeps s₀ (execSmbReplyRead s) :=
  whenDue_keeps hs _ _ fun _ h => onHl_keeps h _
theorem execSurvey_keeps (hs : Keeps s₀ s) (src : CmdSrc) (ns : Nat) : AnswerKeeps s₀ (execSurvey src ns s) :=
  hlCommand_keeps (atNs_keeps hs _) _ _ _ _ fun _ h => ite_keeps (fun _ => reply_keeps h ..) fun _ => reply_keeps (forwardSurvey_keeps
      (onHl_keeps h _) ..) ..
theorem execCensusClose_keeps (hs : Keeps s₀ s) (ns : Nat) : AnswerKeeps s₀ (execCensusClose ns s) :=
  by
  unfold execCensusClose
  exact whenDue_keeps (atNs_keeps hs _) _ _ fun _ h => onHl_keeps (onHub_keeps h _ (by exact fun _ hk => hk)) _
theorem execCmnFixedWrite_keeps (hs : Keeps s₀ s) (w : Writer) (d : DieId) (v : Word) : AnswerKeeps s₀ (execCmnFixedWrite w d v s) :=
  whenDue_keeps hs _ _ fun _ h => fixedWrite_keeps h ..
theorem execErrCounterClear_keeps (hs : Keeps s₀ s) (u : ScrubUnit) : AnswerKeeps s₀ (execErrCounterClear u s) := by
  unfold execErrCounterClear
  refine next_keeps ?_
  split
  · exact onM_keeps hs _ _ fun _ h => h
  · exact onDie_keeps hs ..
  · exact onDie_keeps hs ..
theorem execRegisterWrite_keeps (hs : Keeps s₀ s) (w : Writer) (addr : Timed Nat) (v : Word) : AnswerKeeps s₀ (execRegisterWrite w addr v s) :=
  whenDue_keeps hs _ _ fun _ h => regWrite_keeps (atCycle_keeps h ..) ..
theorem execHostRegisterOp_keeps (hs : Keeps s₀ s) (op : Timed (BitVec 128)) : AnswerKeeps s₀ (execHostRegisterOp op s) :=
  whenDue_keeps hs _ _ fun _ h => hostRegOp_keeps h ..
theorem execCcInstruction_keeps (hs : Keeps s₀ s) (c : CoreId) (t : Nat) (fetch data : Ecc) :
    AnswerKeeps s₀ (execCcInstruction c t fetch data s) :=
  ccCommand_keeps hs _ _ _ fun _ h => rvStep_keeps h ..

/-! ### Every command, every step -/

/-- Every command answers a next state, which keeps the queue and the invariant. -/
theorem exec_keeps (i : Instr) (s : State) : AnswerKeeps s (exec i s) := by
  have h := keeps_refl s
  cases i with
  | ctlStage => exact execCtlStage_keeps h ..
  | stagingRowRead => exact execStagingRowRead_keeps h ..
  | stagingComplete => exact execStagingComplete_keeps h ..
  | ctlLaunch => exact execCtlLaunch_keeps h ..
  | ctlUnstage => exact execCtlUnstage_keeps h ..
  | pageInComplete => exact execPageInComplete_keeps h ..
  | creditGrant => exact execCreditGrant_keeps h ..
  | wakeBegin => exact execWakeBegin_keeps h ..
  | wakeComplete => exact execWakeComplete_keeps h ..
  | launchReady => exact execLaunchReady_keeps h ..
  | stripStart => exact execStripStart_keeps h ..
  | stripEnd => exact execStripEnd_keeps h ..
  | wait => exact execWait_keeps h ..
  | stkSet => exact execStkSet_keeps h ..
  | stkWait => exact execStkWait_keeps h ..
  | hqPush => exact execHqPush_keeps h ..
  | hqPop => exact execHqPop_keeps h ..
  | stallResume => exact execStallResume_keeps h ..
  | creditLend => exact execCreditLend_keeps h ..
  | reclaimGrant => exact execReclaimGrant_keeps h ..
  | reclaimComplete => exact execReclaimComplete_keeps h ..
  | creditIdleReturn => exact execCreditIdleReturn_keeps h ..
  | powerGateTimeout => exact execPowerGateTimeout_keeps h ..
  | watchdogFault => exact execWatchdogFault_keeps h ..
  | deadlineMiss => exact execDeadlineMiss_keeps h ..
  | instructionComplete => exact execInstructionComplete_keeps h ..
  | lateArrival => exact execLateArrival_keeps h ..
  | heldArrivalRetry => exact execHeldArrivalRetry_keeps h ..
  | inboundRowArrival => exact execInboundRowArrival_keeps h ..
  | plotRowLanding => exact execPlotRowLanding_keeps h ..
  | hopperRowLanding => exact execHopperRowLanding_keeps h ..
  | commonsBankAccess => exact execCommonsBankAccess_keeps h ..
  | commonsRowLands => exact execCommonsRowLands_keeps h ..
  | commonsInboundRowPerform => exact execCommonsInboundRowPerform_keeps h ..
  | scrubRead => exact execScrubRead_keeps h ..
  | scrubWriteBack => exact execScrubWriteBack_keeps h ..
  | pageOutComplete => exact execPageOutComplete_keeps h ..
  | gateArrival => exact execGateArrival_keeps h ..
  | ungateArrival => exact execUngateArrival_keeps h ..
  | plgMm => exact execPlgMm_keeps h ..
  | plgSqd => exact execPlgSqd_keeps h ..
  | plgAbd => exact execPlgAbd_keeps h ..
  | plgMinplus => exact execPlgMinplus_keeps h ..
  | plgMaxplus => exact execPlgMaxplus_keeps h ..
  | plgXorpop => exact execPlgXorpop_keeps h ..
  | plgCmpcnt => exact execPlgCmpcnt_keeps h ..
  | plgExecutionStart => exact execPlgExecutionStart_keeps h ..
  | plgFeedRelease => exact execPlgFeedRelease_keeps h ..
  | plgDrainRow => exact execPlgDrainRow_keeps h ..
  | plgCounterClear => exact execPlgCounterClear_keeps h ..
  | hrwChain => exact execHrwChain_keeps h ..
  | hrwBload => exact execHrwBload_keeps h ..
  | hrwWriteRow => exact execHrwWriteRow_keeps h ..
  | hrwCounterClear => exact execHrwCounterClear_keeps h ..
  | hrwSumClear => exact execHrwSumClear_keeps h ..
  | tlrUpd => exact execTlrUpd_keeps h ..
  | tlrRecordWrite => exact execTlrRecordWrite_keeps h ..
  | tlrRootfin => exact execTlrRootfin_keeps h ..
  | tlrCounterClear => exact execTlrCounterClear_keeps h ..
  | stepAdvance => exact execStepAdvance_keeps h ..
  | stepAdvanceEvaluate => exact execStepAdvanceEvaluate_keeps h ..
  | stepAdvanceCommit => exact execStepAdvanceCommit_keeps h ..
  | privStepArm => exact execPrivStepArm_keeps h ..
  | xfFill => exact execXfFill_keeps h ..
  | xfMove => exact execXfMove_keeps h ..
  | xfGate => exact execXfGate_keeps h ..
  | xfUngate => exact execXfUngate_keeps h ..
  | traceRowWrite => exact execTraceRowWrite_keeps h ..
  | traceEnable => exact execTraceEnable_keeps h ..
  | traceDropClear => exact execTraceDropClear_keeps h ..
  | loadImage => exact execLoadImage_keeps h ..
  | loadCheckComplete => exact execLoadCheckComplete_keeps h ..
  | ccInstruction => exact execCcInstruction_keeps h ..
  | ccStart => exact execCcStart_keeps h ..
  | ccHalt => exact execCcHalt_keeps h ..
  | ctlWfe => exact execCtlWfe_keeps h ..
  | ctlHret => exact execCtlHret_keeps h ..
  | ctlFclr => exact execCtlFclr_keeps h ..
  | ctlSum => exact execCtlSum_keeps h ..
  | ctlStkrd => exact execCtlStkrd_keeps h ..
  | ctlStkadd => exact execCtlStkadd_keeps h ..
  | ctlStkclr => exact execCtlStkclr_keeps h ..
  | ctlHset => exact execCtlHset_keeps h ..
  | ctlHrel => exact execCtlHrel_keeps h ..
  | ctlHalloc => exact execCtlHalloc_keeps h ..
  | allocatorAnswer => exact execAllocatorAnswer_keeps h ..
  | ctlSend => exact execCtlSend_keeps h ..
  | ringSetRptr => exact execRingSetRptr_keeps h ..
  | ringOpen => exact execRingOpen_keeps h ..
  | ringClose => exact execRingClose_keeps h ..
  | ctlWrd => exact execCtlWrd_keeps h ..
  | ctlWwr => exact execCtlWwr_keeps h ..
  | rowWindowAccess => exact execRowWindowAccess_keeps h ..
  | ctlFpop => exact execCtlFpop_keeps h ..
  | handlerDispatch => exact execHandlerDispatch_keeps h ..
  | faultLostClear => exact execFaultLostClear_keeps h ..
  | coreProgram => exact execCoreProgram_keeps h ..
  | coreProgramCopyDone => exact execCoreProgramCopyDone_keeps h ..
  | sendRowRead => exact execSendRowRead_keeps h ..
  | orderedRelease => exact execOrderedRelease_keeps h ..
  | messageHeaderArrival => exact execMessageHeaderArrival_keeps h ..
  | messageRowArrival => exact execMessageRowArrival_keeps h ..
  | messageLanded => exact execMessageLanded_keeps h ..
  | spillWriteComplete => exact execSpillWriteComplete_keeps h ..
  | spillDrain => exact execSpillDrain_keeps h ..
  | holdGrant => exact execHoldGrant_keeps h ..
  | holdGrantArrival => exact execHoldGrantArrival_keeps h ..
  | landingAckArrival => exact execLandingAckArrival_keeps h ..
  | bounceArrival => exact execBounceArrival_keeps h ..
  | lossNoticeArrival => exact execLossNoticeArrival_keeps h ..
  | msgCounterClear => exact execMsgCounterClear_keeps h ..
  | frameTransmit => exact execFrameTransmit_keeps h ..
  | frameReceive => exact execFrameReceive_keeps h ..
  | leadFlitTimeout => exact execLeadFlitTimeout_keeps h ..
  | portTrainingComplete => exact execPortTrainingComplete_keeps h ..
  | portTrain => exact execPortTrain_keeps h ..
  | portDisable => exact execPortDisable_keeps h ..
  | lnkCounterClear => exact execLnkCounterClear_keeps h ..
  | routeEntryWrite => exact execRouteEntryWrite_keeps h ..
  | lnkTorusWrite => exact execLnkTorusWrite_keeps h ..
  | remoteReadRequest => exact execRemoteReadRequest_keeps h ..
  | remoteWriteArrival => exact execRemoteWriteArrival_keeps h ..
  | tbSetWrite => exact execTbSetWrite_keeps h ..
  | extRefLock => exact execExtRefLock_keeps h ..
  | extRefLockTimeout => exact execExtRefLockTimeout_keeps h ..
  | upstreamTimeout => exact execUpstreamTimeout_keeps h ..
  | referenceInputLoss => exact execReferenceInputLoss_keeps h ..
  | heartbeatSend => exact execHeartbeatSend_keeps h ..
  | heartbeatTimeout => exact execHeartbeatTimeout_keeps h ..
  | identFlit => exact execIdentFlit_keeps h ..
  | surveyFlit => exact execSurveyFlit_keeps h ..
  | reportFlit => exact execReportFlit_keeps h ..
  | powerFailFlit => exact execPowerFailFlit_keeps h ..
  | partnerFlit p f => exact execPartnerFlit_keeps h p f
  | adoptFlit p f => exact execAdoptFlit_keeps h p f
  | lsEnable => exact execLsEnable_keeps h ..
  | foldMessageSend => exact execFoldMessageSend_keeps h ..
  | foldMessageArrival => exact execFoldMessageArrival_keeps h ..
  | weightLoad => exact execWeightLoad_keeps h ..
  | weightKeys => exact execWeightKeys_keeps h ..
  | weightVerify => exact execWeightVerify_keeps h ..
  | chunkNotice => exact execChunkNotice_keeps h ..
  | chunkReleaseSend => exact execChunkReleaseSend_keeps h ..
  | releaseNotice => exact execReleaseNotice_keeps h ..
  | reRequestNotice => exact execReRequestNotice_keeps h ..
  | waitNotice => exact execWaitNotice_keeps h ..
  | unavailableNotice => exact execUnavailableNotice_keeps h ..
  | shardDigestStart => exact execShardDigestStart_keeps h ..
  | shardDigestComplete => exact execShardDigestComplete_keeps h ..
  | weightWindowExpiry => exact execWeightWindowExpiry_keeps h ..
  | turn => exact execTurn_keeps h ..
  | reqBegin => exact execReqBegin_keeps h ..
  | reqJoin => exact execReqJoin_keeps h ..
  | reqEnd => exact execReqEnd_keeps h ..
  | recheckDue => exact execRecheckDue_keeps h ..
  | journalCommand => exact execJournalCommand_keeps h ..
  | mirrorHeaderLand => exact execMirrorHeaderLand_keeps h ..
  | mirrorAnswer => exact execMirrorAnswer_keeps h ..
  | updEnd => exact execUpdEnd_keeps h ..
  | snapshotNow => exact execSnapshotNow_keeps h ..
  | snapshotStart => exact execSnapshotStart_keeps h ..
  | snapshotChunkCopied => exact execSnapshotChunkCopied_keeps h ..
  | partnerChunkNotice => exact execPartnerChunkNotice_keeps h ..
  | partnerNoticeTimeout => exact execPartnerNoticeTimeout_keeps h ..
  | snapshotSigned => exact execSnapshotSigned_keeps h ..
  | commitPageWritten => exact execCommitPageWritten_keeps h ..
  | partnerCheck => exact execPartnerCheck_keeps h ..
  | riskEvaluation => exact execRiskEvaluation_keeps h ..
  | restore => exact execRestore_keeps h ..
  | restoreFetchComplete => exact execRestoreFetchComplete_keeps h ..
  | replayStep => exact execReplayStep_keeps h ..
  | stepChangeRequest => exact execStepChangeRequest_keeps h ..
  | clockStop => exact execClockStop_keeps h ..
  | clockRestart => exact execClockRestart_keeps h ..
  | diePoolWrite => exact execDiePoolWrite_keeps h ..
  | pwrBudgetWrite => exact execPwrBudgetWrite_keeps h ..
  | expPoolWrite => exact execExpPoolWrite_keeps h ..
  | overheadUpdate => exact execOverheadUpdate_keeps h ..
  | inputPowerCheck => exact execInputPowerCheck_keeps h ..
  | sensorSample => exact execSensorSample_keeps h ..
  | thermalCheck => exact execThermalCheck_keeps h ..
  | pwrTjClear => exact execPwrTjClear_keeps h ..
  | supplyOutOfRange => exact execSupplyOutOfRange_keeps h ..
  | supplyReturn => exact execSupplyReturn_keeps h ..
  | droopEvent => exact execDroopEvent_keeps h ..
  | mateSenseChange => exact execMateSenseChange_keeps h ..
  | coldStart => exact execColdStart_keeps h ..
  | powerFail => exact execPowerFail_keeps h ..
  | shutdownRailsOff => exact execShutdownRailsOff_keeps h ..
  | powerFailRestart => exact execPowerFailRestart_keeps h ..
  | boot => exact execBoot_keeps h ..
  | strapSample => exact execStrapSample_keeps h ..
  | hostRowWrite => exact execHostRowWrite_keeps h ..
  | hostRowRead => exact execHostRowRead_keeps h ..
  | hostMessage => exact execHostMessage_keeps h ..
  | hostRegisterOp => exact execHostRegisterOp_keeps h ..
  | hostInboxPlace => exact execHostInboxPlace_keeps h
  | hostInboxRptrWrite => exact execHostInboxRptrWrite_keeps h ..
  | hostFaultRptrWrite => exact execHostFaultRptrWrite_keeps h ..
  | resetNEdge => exact execResetNEdge_keeps h ..
  | smbSegmentWrite => exact execSmbSegmentWrite_keeps h ..
  | smbSubmit => exact execSmbSubmit_keeps h
  | smbReplyRead => exact execSmbReplyRead_keeps h
  | contextCfg => exact execContextCfg_keeps h ..
  | ctxCfgCommit => exact execCtxCfgCommit_keeps h ..
  | contextReset => exact execContextReset_keeps h ..
  | coreReset => exact execCoreReset_keeps h ..
  | moduleReset => exact execModuleReset_keeps h ..
  | resetComplete => exact execResetComplete_keeps h
  | attest => exact execAttest_keeps h ..
  | calExport => exact execCalExport_keeps h ..
  | calImport => exact execCalImport_keeps h ..
  | calSelf => exact execCalSelf_keeps h ..
  | fwUpdate => exact execFwUpdate_keeps h ..
  | rollbackCommit => exact execRollbackCommit_keeps h ..
  | survey => exact execSurvey_keeps h ..
  | censusClose => exact execCensusClose_keeps h ..
  | drlTestGo => exact execDrlTestGo_keeps h ..
  | drlTestDone => exact execDrlTestDone_keeps h ..
  | errCounterClear => exact execErrCounterClear_keeps h ..
  | cmnFixedWrite => exact execCmnFixedWrite_keeps h ..
  | registerWrite => exact execRegisterWrite_keeps h ..
  | timeBaseTick => exact execTimeBaseTick_keeps h
  | supplyInRange => exact execSupplyInRange_keeps h ..
  | powerGateCommand => exact execPowerGateCommand_keeps h ..

theorem step_of_pending {i : Instr} {rest : List Instr} {s : State} (h : s.pending = i :: rest) :
    step s = exec i { s with pending := rest } := by
  rw [step, h]

theorem step_of_pending_nil {s : State} (h : s.pending = []) : step s = .next s := by
  rw [step, h]

/-- Settles O52: the two cases of the queue. -/
theorem frontCommandRuns : Obligations.FrontCommandRuns :=
  ⟨fun _ _ _ h => step_of_pending h, fun _ h => step_of_pending_nil h⟩

/-- Settles O54: reset empties every memory and clears every register. -/
theorem resetIsSound : Obligations.ResetIsSound :=
  (sound_iff _).mpr ⟨nil_wf, nil_wf, reset_sound⟩

theorem sound_withPending {s : State} (rest : List Instr) (h : Sound s) : Sound { s with pending := rest } :=
  (sound_iff _).mpr ((sound_iff s).mp h)

/-- Settles O55: a step runs one command, on a state that differs in its queue only, and every command keeps the invariant. -/
theorem stepKeepsSound : Obligations.StepKeepsSound := by
  intro s t hs h
  cases hp : s.pending with
  | nil =>
    rw [step_of_pending_nil hp] at h
    cases h
    exact hs
  | cons i rest =>
    rw [step_of_pending hp] at h
    obtain ⟨u, hu, -, hsound⟩ := exec_keeps i { s with pending := rest }
    cases hu.symm.trans h
    exact hsound (sound_withPending rest hs)

/-- Settles O56: no arm answers a fault or a refusal, and none reaches the queue. -/
theorem everyCommandCompletes : Obligations.EveryCommandCompletes := fun i s =>
  let ⟨t, ht, hpending, _⟩ := exec_keeps i s
  ⟨t, ht, hpending⟩

end Sys2Proof.Machine
end

section
/-! SUPPORT. The frames: which parts of the module (memory, cores, dies, ports) an operation can reach, one lemma for each operation and for
each command that leaves at least one part. -/

namespace Sys2Proof.Machine

open Sys2Proof

/-- The parts of the module that a change may reach, beside the hub, the items under way and the queue. -/
structure Parts where
  mem : Bool
  cores : Bool
  dies : Bool
  ports : Bool

/-- Outside the parts `P`, state `t` is as `s` was. -/
def Within (P : Parts) (s t : State) : Prop :=
  (P.mem = false → t.mem = s.mem) ∧ (P.cores = false → t.cores = s.cores) ∧ (P.dies = false → t.dies = s.dies) ∧
    (P.ports = false → t.ports = s.ports)
/-- An answer that is a next state within `P` of `s`. -/
def AnswerWithin (P : Parts) (s : State) (a : Answer) : Prop := ∃ t, a = .next t ∧ Within P s t

variable {P : Parts} {s₀ s : State}

/-! ### The parts of the state -/

theorem within_refl (P : Parts) (s : State) : Within P s s := ⟨fun _ => rfl, fun _ => rfl, fun _ => rfl, fun _ => rfl⟩
theorem within_all (s t : State) : Within ⟨true, true, true, true⟩ s t := ⟨nofun, nofun, nofun, nofun⟩
theorem setCore_within (h : Within P s₀ s) (hCores : P.cores = true) (c : CoreId) (k : Core) : Within P s₀ (s.setCore c k) :=
  ⟨h.1, fun n => (Bool.false_ne_true (n.symm.trans hCores)).elim, h.2.2⟩
theorem onCore_within (h : Within P s₀ s) (hCores : P.cores = true) (c : CoreId) (f : Core → Core) : Within P s₀ (s.onCore c f) :=
  setCore_within h hCores ..
theorem onSc_within (h : Within P s₀ s) (hCores : P.cores = true) (c : CoreId) (f : Sched → Sched) : Within P s₀ (s.onSc c f) :=
  setCore_within h hCores ..
theorem onE_within (h : Within P s₀ s) (hCores : P.cores = true) (c : CoreId) (f : Eng → Eng) : Within P s₀ (s.onE c f) :=
  setCore_within h hCores ..
theorem onM_within (h : Within P s₀ s) (hCores : P.cores = true) (c : CoreId) (f : Mem1 → Mem1) : Within P s₀ (s.onM c f) :=
  setCore_within h hCores ..
theorem onCc_within (h : Within P s₀ s) (hCores : P.cores = true) (c : CoreId) (f : Cc → Cc) : Within P s₀ (s.onCc c f) :=
  setCore_within h hCores ..
theorem setDie_within (h : Within P s₀ s) (hDies : P.dies = true) (d : DieId) (k : Die) : Within P s₀ (s.setDie d k) :=
  ⟨h.1, h.2.1, fun n => (Bool.false_ne_true (n.symm.trans hDies)).elim, h.2.2.2⟩
theorem onDie_within (h : Within P s₀ s) (hDies : P.dies = true) (d : DieId) (f : Die → Die) : Within P s₀ (s.onDie d f) :=
  setDie_within h hDies ..
theorem setPort_within (h : Within P s₀ s) (hPorts : P.ports = true) (q : PortId) (k : Port) : Within P s₀ (s.setPort q k) :=
  ⟨h.1, h.2.1, h.2.2.1, fun n => (Bool.false_ne_true (n.symm.trans hPorts)).elim⟩
theorem onPort_within (h : Within P s₀ s) (hPorts : P.ports = true) (q : PortId) (f : Port → Port) : Within P s₀ (s.onPort q f) :=
  setPort_within h hPorts ..
theorem onHub_within (h : Within P s₀ s) (f : Hub → Hub) : Within P s₀ (s.onHub f) := h
theorem onHl_within (h : Within P s₀ s) (f : Hl → Hl) : Within P s₀ (s.onHl f) := h
theorem onPwr_within (h : Within P s₀ s) (f : Pwr → Pwr) : Within P s₀ (s.onPwr f) := h
theorem onTb_within (h : Within P s₀ s) (f : Tb → Tb) : Within P s₀ (s.onTb f) := h
theorem onLs_within (h : Within P s₀ s) (f : Ls → Ls) : Within P s₀ (s.onLs f) := h
theorem withNet_within (h : Within P s₀ s) (n : List Item) : Within P s₀ { s with net := n } := h
theorem withFree_within (h : Within P s₀ s) (n : Nat) : Within P s₀ { s with free := n } := h
theorem withMem_within (h : Within P s₀ s) (hMem : P.mem = true) (m : List Host.Cell) : Within P s₀ { s with mem := m } :=
  ⟨fun n => (Bool.false_ne_true (n.symm.trans hMem)).elim, h.2⟩
theorem withMemNet_within (h : Within P s₀ s) (hMem : P.mem = true) : Within P s₀ { s with mem := [], net := [] } :=
  withNet_within (withMem_within h hMem _) _
theorem ite_within {q : Prop} [Decidable q] {a b : State} (h : q → Within P s₀ a) (k : ¬q → Within P s₀ b) :
    Within P s₀ (if q then a else b) := by
  split
  · exact h ‹_›
  · exact k ‹_›
theorem iteAnswer_within {q : Prop} [Decidable q] {a b : Answer} (h : q → AnswerWithin P s₀ a) (k : ¬q → AnswerWithin P s₀ b) :
    AnswerWithin P s₀ (if q then a else b) := by
  split
  · exact h ‹_›
  · exact k ‹_›
theorem forAll_within {α : Type} (h : Within P s₀ s) (xs : List α) (f : α → State → State)
    (hf : ∀ x t, Within P s₀ t → Within P s₀ (f x t)) : Within P s₀ (forAll xs f s) :=
  forAll_inv (Within P s₀) xs f s h fun x _ t ht => hf x t ht
theorem next_within (h : Within P s₀ s) : AnswerWithin P s₀ (.next s) := ⟨s, rfl, h⟩
theorem whenDue_within (h : Within P s₀ s) (b : Bool) (f : State → State) (hf : ∀ t, Within P s₀ t → Within P s₀ (f t)) :
    AnswerWithin P s₀ (whenDue b f s) := by
  cases b
  · exact ⟨s, rfl, h⟩
  · exact ⟨f s, rfl, hf s h⟩

/-! ### The shared operations -/

theorem noteRisk_within (hs : Within P s₀ s) (ecc : Ecc) : Within P s₀ (noteRisk s ecc) := by
  unfold noteRisk
  split
  · exact onHub_within hs _
  · exact onHub_within hs _
  · exact hs
  · exact hs
  · exact hs
theorem hubSetBit_within (hs : Within P s₀ s) (a : Nat) (mask : Nat) : Within P s₀ (hubSetBit a mask s) := by
  unfold hubSetBit
  exact onHub_within hs _
theorem noteEcc_within (hs : Within P s₀ s) (hCores : P.cores = true) (hDies : P.dies = true) (a : Nat) (ecc : Ecc) :
    Within P s₀ (noteEcc s a ecc) := by
  unfold noteEcc
  split
  · exact hs
  · exact hs
  · dsimp only
    split
    · exact onSc_within (onM_within (noteRisk_within hs _) hCores ..) hCores ..
    · exact hubSetBit_within (onDie_within (noteRisk_within hs _) hDies ..) ..
    · exact hubSetBit_within (onDie_within (noteRisk_within hs _) hDies ..) ..
    · exact noteRisk_within hs _
    · exact noteRisk_within hs _
    · exact noteRisk_within hs _
theorem trace_within (hs : Within P s₀ s) (hCores : P.cores = true) (c : CoreId) (q : Nat) (kind : Nat) (tag : Nat) :
    Within P s₀ (trace c q kind tag s) := by
  unfold trace
  exact ite_within (fun _ => onCc_within hs hCores ..) fun _ => hs
theorem hostFault_within (hs : Within P s₀ s) (bits : BitVec 512) : Within P s₀ (hostFault bits s) := by
  unfold hostFault
  exact onHl_within hs _
theorem attention_within (hs : Within P s₀ s) (bit : Nat) : Within P s₀ (attention bit s) := by
  unfold attention
  exact hubSetBit_within (onHl_within hs _) ..
theorem keepRecord_within (hs : Within P s₀ s) (bits : BitVec 512) : Within P s₀ (keepRecord bits s) := by
  unfold keepRecord
  exact attention_within (onHl_within hs _) _
theorem headlandCopy_within (hs : Within P s₀ s) (cls : Nat) (bits : BitVec 512) : Within P s₀ (headlandCopy cls bits s) := by
  unfold headlandCopy
  exact ite_within (fun _ => hostFault_within (keepRecord_within hs _) _) fun _ => keepRecord_within hs _
theorem headlandFault_within (hs : Within P s₀ s) (f : Flt) : Within P s₀ (headlandFault f s) := by
  unfold headlandFault
  exact headlandCopy_within hs ..
theorem postFault_within (hs : Within P s₀ s) (hCores : P.cores = true) (c : CoreId) (f : Flt) : Within P s₀ (postFault c f s) := by
  unfold postFault
  exact trace_within (headlandCopy_within (ite_within (fun _ => onCore_within (onCc_within hs hCores ..) hCores ..) fun _ => onCc_within hs
      hCores ..) ..) hCores ..
theorem pushReq_within (hs : Within P s₀ s) (hCores : P.cores = true) (hDies : P.dies = true) (c : CoreId) (n : Nat) :
    Within P s₀ (pushReq c n s) := by
  unfold pushReq
  exact onSc_within (onDie_within hs hDies ..) hCores ..
theorem checkRelease_within (hs : Within P s₀ s) (hCores : P.cores = true) (hDies : P.dies = true) (c : CoreId) :
    Within P s₀ (checkRelease c s) := by
  unfold checkRelease
  split
  · exact ite_within (fun _ => ite_within (fun _ => onSc_within hs hCores ..) fun _ => pushReq_within (onSc_within (onSc_within hs hCores
        ..) hCores ..) hCores hDies ..) fun _ => hs
  · exact hs
theorem arriveStake_within (hs : Within P s₀ s) (hCores : P.cores = true) (hDies : P.dies = true) (c : CoreId) (k : Nat) (n : Nat) :
    Within P s₀ (arriveStake c k n s) := by
  unfold arriveStake
  exact checkRelease_within (onSc_within hs hCores ..) hCores hDies _
theorem fresh_within (hs : Within P s₀ s) : Within P s₀ (State.fresh s) := by
  unfold State.fresh
  exact withFree_within hs _
theorem putItemAt_within (hs : Within P s₀ s) (hPorts : P.ports = true) (depth : Nat) (i : Item) : Within P s₀ (putItemAt depth i s) := by
  induction depth generalizing i with
  | zero =>
    unfold putItemAt
    split
    · exact withNet_within hs _
    · exact onPort_within hs hPorts ..
    · exact hs
    · rename_i e _
      cases e
  | succ n ih =>
    unfold putItemAt
    split
    · exact withNet_within hs _
    · exact onPort_within hs hPorts ..
    · exact hs
    · rename_i e _
      cases e
      exact ite_within (fun _ => hs) fun _ => ih _
theorem putItem_within (hs : Within P s₀ s) (hPorts : P.ports = true) (i : Item) : Within P s₀ (putItem i s) := by
  unfold putItem
  exact putItemAt_within hs hPorts ..
theorem faultCore_within (hs : Within P s₀ s) (hCores : P.cores = true) (c : CoreId) : Within P s₀ (faultCore c s) := by
  unfold faultCore
  exact onSc_within hs hCores ..
theorem lsCompare_within (hs : Within P s₀ s) (hCores : P.cores = true) (a : FoldRec) (b : FoldRec) (ctx : Nat) (cyc : Nat) :
    Within P s₀ (lsCompare a b ctx cyc s) := by
  unfold lsCompare
  dsimp only
  split
  · exact ite_within (fun _ => onLs_within (onLs_within hs _) _) fun _ => onLs_within hs _
  · exact ite_within (fun _ => onLs_within (headlandFault_within (attention_within (hubSetBit_within (onLs_within (onLs_within hs _) _) ..)
        _) _) _) fun _ => ite_within (fun _ => faultCore_within (postFault_within (attention_within (hubSetBit_within (onLs_within
        (onLs_within hs _) _) ..) _) hCores ..) hCores _) fun _ => postFault_within (attention_within (hubSetBit_within (onLs_within
        (onLs_within hs _) _) ..) _) hCores ..
theorem lsGap_within (hs : Within P s₀ s) (n : Nat) : Within P s₀ (lsGap n s) := by
  unfold lsGap
  exact ite_within (fun _ => hs) fun _ => hubSetBit_within (onLs_within hs _) ..
theorem lsKeep_within (hs : Within P s₀ s) (hCores : P.cores = true) (r : FoldRec) (ctx : Nat) (cyc : Nat) :
    Within P s₀ (lsKeep r ctx cyc s) := by
  unfold lsKeep
  dsimp only
  split
  · exact lsCompare_within (onLs_within (lsGap_within (onLs_within hs _) _) _) hCores ..
  · exact ite_within (fun _ => lsGap_within (lsGap_within (onLs_within hs _) _) _) fun _ => ite_within (fun _ => onLs_within (lsGap_within
        (onLs_within hs _) _) _) fun _ => lsGap_within (lsGap_within (onLs_within hs _) _) _
theorem lsLocal_within (hs : Within P s₀ s) (hCores : P.cores = true) (r : FoldRec) (ctx : Nat) (cyc : Nat) :
    Within P s₀ (lsLocal r ctx cyc s) := by
  unfold lsLocal
  exact ite_within (fun _ => hs) fun _ => lsKeep_within (onLs_within hs _) hCores ..
theorem lsPeer_within (hs : Within P s₀ s) (hCores : P.cores = true) (r : FoldRec) : Within P s₀ (lsPeer r s) := by
  unfold lsPeer
  refine ite_within (fun _ => hs) fun _ => ?_
  dsimp only
  split
  · exact lsCompare_within (onLs_within (lsGap_within (onLs_within hs _) _) _) hCores ..
  · exact ite_within (fun _ => lsGap_within (lsGap_within (onLs_within hs _) _) _) fun _ => ite_within (fun _ => onLs_within (lsGap_within
        (onLs_within hs _) _) _) fun _ => lsGap_within (lsGap_within (onLs_within hs _) _) _
theorem handFold_within (hs : Within P s₀ s) (hCores : P.cores = true) (c : CoreId) (fault : Bool) : Within P s₀ (handFold c fault s) := by
  unfold handFold
  exact lsLocal_within (onE_within hs hCores ..) hCores ..
theorem onWgt_within (hs : Within P s₀ s) (x : CtxId) (f : WgtCtx → WgtCtx) : Within P s₀ (State.onWgt s x f) := by
  unfold State.onWgt
  exact onHub_within hs _
theorem onSlot_within (hs : Within P s₀ s) (x : CtxId) (k : Nat) (f : WLoad → WLoad) : Within P s₀ (State.onSlot s x k f) := by
  unfold State.onSlot
  exact onWgt_within hs ..
theorem onShard_within (hs : Within P s₀ s) (x : CtxId) (k : Nat) (j : Nat) (f : Shard → Shard) : Within P s₀ (State.onShard s x k j f) := by
  unfold State.onShard
  exact onSlot_within hs ..
theorem queueDigest_within (hs : Within P s₀ s) (x : CtxId) (k : Nat) (j : Nat) (re : Bool) : Within P s₀ (queueDigest x k j re s) := by
  unfold queueDigest
  split
  · exact hs
  · exact onHub_within hs _
theorem ccEvent_within (hs : Within P s₀ s) (hCores : P.cores = true) (c : CoreId) (b : Nat) : Within P s₀ (ccEvent c b s) := by
  unfold ccEvent
  exact onCore_within hs hCores ..
theorem dropOrdered_within (hs : Within P s₀ s) (hCores : P.cores = true) (c : CoreId) : Within P s₀ (dropOrdered c s) := by
  unfold dropOrdered
  exact onCc_within hs hCores ..
theorem dropRequests_within (hs : Within P s₀ s) (hCores : P.cores = true) (hDies : P.dies = true) (c : CoreId) :
    Within P s₀ (dropRequests c s) := by
  unfold dropRequests
  exact onSc_within (onDie_within hs hDies ..) hCores ..
theorem endByFault_within (hs : Within P s₀ s) (hCores : P.cores = true) (hDies : P.dies = true) (c : CoreId) :
    Within P s₀ (endByFault c s) := by
  unfold endByFault
  exact onSc_within (dropOrdered_within (dropRequests_within (onE_within (ite_within (fun _ => ccEvent_within (trace_within (handFold_within
      (ite_within (fun _ => hs) fun _ => onSc_within hs hCores ..) hCores ..) hCores ..) hCores ..) fun _ => ite_within (fun _ => hs) fun _
      => onSc_within hs hCores ..) hCores ..) hCores hDies _) hCores _) hCores ..
theorem hazardStop_within (hs : Within P s₀ s) (hCores : P.cores = true) (hDies : P.dies = true) (c : CoreId) (source : Nat) (tag : Nat)
    (check : Nat) (row : Nat) :
    Within P s₀ (hazardStop c source tag check row s) := by
  unfold hazardStop
  exact endByFault_within (onSc_within (postFault_within hs hCores ..) hCores ..) hCores hDies _
theorem addStake_within (hs : Within P s₀ s) (hCores : P.cores = true) (hDies : P.dies = true) (c : CoreId) (k : Nat) (n : Nat) (source :
    Nat) (tag : Nat) :
    Within P s₀ (addStake c k n source tag s) := by
  unfold addStake
  exact ite_within (fun _ => hazardStop_within (arriveStake_within hs hCores hDies ..) hCores hDies ..) fun _ => arriveStake_within hs
      hCores hDies ..
theorem performArrival_within (hs : Within P s₀ s) (hCores : P.cores = true) (hDies : P.dies = true) (c : CoreId) (ahq : Option Nat) (h :
    Nat) (stk : Nat) (n : Nat) (tag : Nat) :
    Within P s₀ (performArrival c ahq h stk n tag s) := by
  unfold performArrival
  refine addStake_within (trace_within ?_ hCores ..) hCores hDies ..
  split
  · exact onCore_within hs hCores ..
  · exact hs
theorem arrive_within (hs : Within P s₀ s) (hCores : P.cores = true) (hDies : P.dies = true) (c : CoreId) (ahq : Option Nat) (h : Nat) (stk
    : Nat) (n : Nat) (tag : Nat) (more : Nat → Nat) :
    Within P s₀ (arrive c ahq h stk n tag more s) := by
  unfold arrive
  split
  · exact performArrival_within hs hCores hDies ..
  · exact ite_within (fun _ => performArrival_within hs hCores hDies ..) fun _ => onSc_within hs hCores ..
theorem arriveNow_within (hs : Within P s₀ s) (hCores : P.cores = true) (hDies : P.dies = true) (c : CoreId) (ahq : Option Nat) (h : Nat)
    (stk : Nat) (n : Nat) (tag : Nat) :
    Within P s₀ (arriveNow c ahq h stk n tag s) := by
  unfold arriveNow
  exact arrive_within hs hCores hDies ..
theorem setHandle_within (hs : Within P s₀ s) (hCores : P.cores = true) (c : CoreId) (h : Nat) (w : IWord) :
    Within P s₀ (setHandle c h w s) := by
  unfold setHandle
  exact onM_within hs hCores ..
theorem setRes_within (hs : Within P s₀ s) (hCores : P.cores = true) (c : CoreId) (h : Nat) (v : Nat) : Within P s₀ (setRes c h v s) := by
  unfold setRes
  exact ite_within (fun _ => hs) fun _ => setHandle_within hs hCores ..
theorem startPageOut_within (hs : Within P s₀ s) (hCores : P.cores = true) (hDies : P.dies = true) (d : DieId) (c : CoreId) (h : Nat) :
    Within P s₀ (startPageOut d c h s) := by
  unfold startPageOut
  dsimp only
  split
  · exact hs
  · exact setRes_within (onDie_within hs hDies ..) hCores ..
theorem makeRoom_within (hs : Within P s₀ s) (hCores : P.cores = true) (hDies : P.dies = true) (d : DieId) (x : Nat) (n : Nat) :
    Within P s₀ (makeRoom d x n s) := by
  unfold makeRoom
  exact forAll_within hs _ _ fun _ _ h => ite_within (fun _ => h) fun _ => startPageOut_within h hCores hDies ..
theorem beginPageIn_within (hs : Within P s₀ s) (hCores : P.cores = true) (hDies : P.dies = true) (c : CoreId) (h : Nat) (p : Nat) (n : Nat)
    :
    Within P s₀ (beginPageIn c h p n s) := by
  unfold beginPageIn
  exact onM_within (onDie_within hs hDies ..) hCores ..
theorem serveAlloc_within (hs : Within P s₀ s) (hCores : P.cores = true) (hDies : P.dies = true) (d : DieId) (n : Nat) :
    Within P s₀ (serveAlloc d n s) := by
  induction n generalizing s with
  | zero => exact hs
  | succ n ih =>
    unfold serveAlloc
    split
    · exact hs
    · split
      · exact hs
      · split
        · exact ite_within (fun _ => hs) fun _ => ih (beginPageIn_within hs hCores hDies ..)
        · exact hs
        · exact makeRoom_within hs hCores hDies ..
theorem serve_within (hs : Within P s₀ s) (hCores : P.cores = true) (hDies : P.dies = true) (d : DieId) : Within P s₀ (serve d s) := by
  unfold serve
  exact serveAlloc_within hs hCores hDies ..
theorem freeHandle_within (hs : Within P s₀ s) (hCores : P.cores = true) (hDies : P.dies = true) (c : CoreId) (h : Nat) :
    Within P s₀ (freeHandle c h s) := by
  unfold freeHandle
  exact serve_within (onM_within (onDie_within hs hDies ..) hCores ..) hCores hDies _
theorem readNoted_within (hs : Within P s₀ s) (hCores : P.cores = true) (hDies : P.dies = true) (a : Nat) (ecc : Ecc) :
    Within P s₀ (readNoted s a ecc).2 := by
  unfold readNoted
  exact noteEcc_within hs hCores hDies ..
theorem readCopied_within (hs : Within P s₀ s) (hCores : P.cores = true) (hDies : P.dies = true) (a : Nat) (n : Nat) (err : ReadErr) :
    Within P s₀ (readCopied a n err s).2 := by
  refine List.foldlRecOn (motive := fun b : List Row × State => Within P s₀ b.2) _ _ hs fun b h k _ => ?_
  dsimp only
  split
  · exact fresh_within (readNoted_within h hCores hDies ..)
  · exact readNoted_within h hCores hDies ..
theorem launchWait_within (hs : Within P s₀ s) (hCores : P.cores = true) (c : CoreId) (cause : Cause) : Within P s₀ (launchWait c cause s) := by
  unfold launchWait
  exact onSc_within hs hCores ..
theorem setGranted_within (hs : Within P s₀ s) (hCores : P.cores = true) (hDies : P.dies = true) (c : CoreId) (k : Nat) :
    Within P s₀ (setGranted c k s) := by
  unfold setGranted
  exact ite_within (fun _ => onDie_within (onSc_within hs hCores ..) hDies ..) fun _ => onSc_within hs hCores ..
theorem creditStep_within (hs : Within P s₀ s) (hCores : P.cores = true) (hDies : P.dies = true) (c : CoreId) (k : Nat) :
    Within P s₀ (creditStep c k s) := by
  unfold creditStep
  exact ite_within (fun _ => setGranted_within (onSc_within hs hCores ..) hCores hDies ..) fun _ => ite_within (fun _ => onSc_within hs
      hCores ..) fun _ => pushReq_within (onSc_within hs hCores ..) hCores hDies ..
theorem launchStep_within (hs : Within P s₀ s) (hCores : P.cores = true) (hDies : P.dies = true) (c : CoreId) :
    Within P s₀ (launchStep c s) := by
  unfold launchStep
  split
  · exact hs
  · refine ite_within (fun _ => hs) fun _ => ?_
    split
    · exact launchWait_within hs hCores ..
    · exact ite_within (fun _ => launchWait_within hs hCores ..) fun _ => ite_within (fun _ => launchWait_within (ite_within (fun _ => hs)
          fun _ => creditStep_within hs hCores hDies ..) hCores ..) fun _ => ite_within (fun _ => launchWait_within (ite_within (fun _ =>
          hs) fun _ => creditStep_within hs hCores hDies ..) hCores ..) fun _ => onSc_within (ite_within (fun _ => hs) fun _ =>
          creditStep_within hs hCores hDies ..) hCores ..
theorem powerGate_within (hs : Within P s₀ s) (hCores : P.cores = true) (c : CoreId) : Within P s₀ (powerGate c s) := by
  unfold powerGate
  exact onCore_within hs hCores ..
theorem answerMsg_within (hs : Within P s₀ s) (hPorts : P.ports = true) (kind : ItemKind) (plane : Nat) (aux : Nat) (h : Row) :
    Within P s₀ (answerMsg kind plane aux h s) := by
  unfold answerMsg
  exact putItem_within hs hPorts _
theorem hubDone_within (hs : Within P s₀ s) (core : Nat) (seq : Nat) : Within P s₀ (hubDone core seq s) := by
  unfold hubDone
  exact onHl_within hs _
theorem hubBounce_within (hs : Within P s₀ s) (h : Row) (reason : Nat) : Within P s₀ (hubBounce h reason s) := by
  unfold hubBounce
  exact ite_within (fun _ => hostFault_within (keepRecord_within (ite_within (fun _ => lsGap_within (hubDone_within hs ..) _) fun _ =>
      hubDone_within hs ..) _) _) fun _ => headlandFault_within (ite_within (fun _ => lsGap_within (hubDone_within hs ..) _) fun _ =>
      hubDone_within hs ..) _
theorem bounceMsg_within (hs : Within P s₀ s) (hPorts : P.ports = true) (plane : Nat) (reason : Nat) (h : Row) :
    Within P s₀ (bounceMsg plane reason h s) := by
  unfold bounceMsg
  exact ite_within (fun _ => hubBounce_within hs ..) fun _ => answerMsg_within hs hPorts ..
theorem hostEnqueue_within (hs : Within P s₀ s) (hPorts : P.ports = true) (plane : Nat) (rows : List Row) :
    Within P s₀ (hostEnqueue plane rows s) := by
  unfold hostEnqueue
  split
  · exact hs
  · exact ite_within (fun _ => bounceMsg_within hs hPorts ..) fun _ => ite_within (fun _ => bounceMsg_within hs hPorts ..) fun _ =>
        ite_within (fun _ => bounceMsg_within hs hPorts ..) fun _ => ite_within (fun _ => bounceMsg_within hs hPorts ..) fun _ =>
        onHl_within hs _
theorem headlandLand_within (hs : Within P s₀ s) (hPorts : P.ports = true) (plane : Nat) (rows : List Row) :
    Within P s₀ (headlandLand plane rows s) := by
  unfold headlandLand
  split
  · exact hs
  · exact ite_within (fun _ => bounceMsg_within hs hPorts ..) fun _ => ite_within (fun _ => bounceMsg_within hs hPorts ..) fun _ =>
        ite_within (fun _ => hubDone_within (onHl_within hs _) ..) fun _ => answerMsg_within (onHl_within hs _) hPorts ..
theorem hubDepart_within (hs : Within P s₀ s) (hPorts : P.ports = true) (rows : List Row) : Within P s₀ (hubDepart rows s) := by
  unfold hubDepart
  split
  · exact hs
  · exact ite_within (fun _ => hostEnqueue_within (onHl_within hs _) hPorts ..) fun _ => ite_within (fun _ => headlandLand_within
        (onHl_within hs _) hPorts ..) fun _ => forAll_within (onHl_within hs _) _ _ fun _ _ h => putItem_within h hPorts _
theorem headlandSendF_within (hs : Within P s₀ s) (hPorts : P.ports = true) (flags : Nat) (destPos : Nat) (destCore : Nat) (ring : Nat) (tag
    : Nat) (inline : Nat) (payload : List Row) :
    Within P s₀ (headlandSendF flags destPos destCore ring tag inline payload s) := by
  unfold headlandSendF
  exact ite_within (fun _ => hubDepart_within (onHl_within hs _) hPorts _) fun _ => onHl_within (onHl_within hs _) _
theorem hubWrites_within (hs : Within P s₀ s) (hPorts : P.ports = true) (pos : Nat) (a : Nat) (tag : Nat) (rows : List Row) :
    Within P s₀ (hubWrites pos a tag rows s) := by
  unfold hubWrites
  exact forAll_within hs _ _ fun _ _ h => putItem_within (onHl_within h _) hPorts _
theorem hubRelease_within (hs : Within P s₀ s) (hPorts : P.ports = true) : Within P s₀ (hubRelease s) := by
  unfold hubRelease
  exact ite_within (fun _ => hs) fun _ => forAll_within (onHl_within (withNet_within hs _) _) _ _ fun _ _ h => hubDepart_within h hPorts _
theorem headlandSend_within (hs : Within P s₀ s) (hPorts : P.ports = true) (destPos : Nat) (destCore : Nat) (ring : Nat) (tag : Nat) (inline
    : Nat) (payload : List Row) :
    Within P s₀ (headlandSend destPos destCore ring tag inline payload s) := by
  unfold headlandSend
  exact headlandSendF_within hs hPorts ..
theorem replyInline_within (hs : Within P s₀ s) (hPorts : P.ports = true) (src : CmdSrc) (inline : Nat) :
    Within P s₀ (replyInline src inline s) := by
  unfold replyInline
  split
  · exact attention_within (onHl_within hs _) _
  · exact headlandSend_within hs hPorts ..
  · exact headlandSend_within hs hPorts ..
theorem reply_within (hs : Within P s₀ s) (hPorts : P.ports = true) (src : CmdSrc) (cmd : Nat) (status : Nat) (detail : Nat) :
    Within P s₀ (reply src cmd status detail s) := by
  unfold reply
  exact replyInline_within hs hPorts ..
theorem replyDone_within (hs : Within P s₀ s) (hPorts : P.ports = true) (src : CmdSrc) (cmd : Nat) (status : Nat) :
    Within P s₀ (replyDone src cmd status s) := by
  unfold replyDone
  exact reply_within hs hPorts ..
theorem takeCmd_within (hs : Within P s₀ s) (ring : Nat) (cmd : Nat) (src : CmdSrc) : Within P s₀ (takeCmd ring cmd src s) := by
  unfold takeCmd
  exact onHl_within hs _
theorem hlCommand_within (hs : Within P s₀ s) (hPorts : P.ports = true) (cmd : Nat) (allowed : Who → Bool) (src : CmdSrc) (f : State →
    State) (hf : ∀ t, Within P s₀ t → Within P s₀ (f t)) :
    AnswerWithin P s₀ (hlCommand cmd allowed src f s) := by
  unfold hlCommand
  exact whenDue_within hs _ _ fun _ h => ite_within (fun _ => reply_within (takeCmd_within h ..) hPorts ..) fun _ =>
    ite_within (fun _ => reply_within (takeCmd_within h ..) hPorts ..) fun _ => hf _ (takeCmd_within h ..)
theorem takeMsg_within (hs : Within P s₀ s) (hdr : Row) : Within P s₀ (takeMsg hdr s) := by
  unfold takeMsg
  exact onHl_within hs _
theorem onAdv_within (hs : Within P s₀ s) (x : CtxId) (f : AdvCtx → AdvCtx) : Within P s₀ (State.onAdv s x f) := by
  unfold State.onAdv
  exact onHub_within hs _
theorem adviseCores_within (hs : Within P s₀ s) (hCores : P.cores = true) (hDies : P.dies = true) (x : CtxId) (tag : Nat) :
    Within P s₀ (adviseCores x tag s) := by
  unfold adviseCores
  refine forAll_within hs _ _ fun _ _ h => ?_
  split
  · exact arriveNow_within h hCores hDies ..
  · exact h
theorem privArm_within (hs : Within P s₀ s) (x : CtxId) (i : Nat) (hi : Word) : Within P s₀ (privArm x i hi s) := by
  unfold privArm
  exact ite_within (fun _ => onHub_within hs _) fun _ => onAdv_within hs ..
theorem traceCfgWrite_within (hs : Within P s₀ s) (hCores : P.cores = true) (c : CoreId) (v : Word) : Within P s₀ (traceCfgWrite c v s) := by
  unfold traceCfgWrite
  exact onCc_within hs hCores ..
theorem onLoad_within (hs : Within P s₀ s) (x : CtxId) (f : LoadCtx → LoadCtx) : Within P s₀ (State.onLoad s x f) := by
  unfold State.onLoad
  exact onHub_within hs _
theorem loadRefused_within (hs : Within P s₀ s) (hPorts : P.ports = true) (x : CtxId) (src : CmdSrc) (f : LoadFail) :
    Within P s₀ (loadRefused x src f s) := by
  unfold loadRefused
  exact reply_within (onLoad_within hs ..) hPorts ..
theorem releaseImage_within (hs : Within P s₀ s) (hCores : P.cores = true) (x : Nat) : Within P s₀ (releaseImage x s) := by
  unfold releaseImage
  exact forAll_within hs _ _ fun _ _ h => onCc_within h hCores ..
theorem acceptImage_within (hs : Within P s₀ s) (hCores : P.cores = true) (x : CtxId) (rows : List Row) :
    Within P s₀ (acceptImage x rows s) := by
  unfold acceptImage
  exact onLs_within (onLoad_within (forAll_within (releaseImage_within hs hCores _) _ _ fun _ _ h => onCc_within h hCores ..) ..) _
theorem ccDrop_within (hs : Within P s₀ s) (hCores : P.cores = true) (hDies : P.dies = true) (c : CoreId) : Within P s₀ (ccDrop c s) := by
  unfold ccDrop
  exact serve_within (onCc_within (onDie_within hs hDies ..) hCores ..) hCores hDies _
theorem ccHaltOp_within (hs : Within P s₀ s) (hCores : P.cores = true) (hDies : P.dies = true) (c : CoreId) : Within P s₀ (ccHaltOp c s) := by
  unfold ccHaltOp
  exact onCc_within (ccDrop_within hs hCores hDies _) hCores ..
theorem ccStartOp_within (hs : Within P s₀ s) (hCores : P.cores = true) (hDies : P.dies = true) (c : CoreId) (pc : Nat) :
    Within P s₀ (ccStartOp c pc s) := by
  unfold ccStartOp
  exact ite_within (fun _ => hs) fun _ => onCc_within (ccDrop_within hs hCores hDies _) hCores ..
theorem onRing_within (hs : Within P s₀ s) (hCores : P.cores = true) (c : CoreId) (r : Nat) (f : Ring → Ring) :
    Within P s₀ (State.onRing s c r f) := by
  unfold State.onRing
  exact onCc_within hs hCores ..
theorem rxBounce_within (hs : Within P s₀ s) (hCores : P.cores = true) (hPorts : P.ports = true) (c : CoreId) (plane : Nat) (reason : Nat)
    (h : Row) :
    Within P s₀ (rxBounce c plane reason h s) := by
  unfold rxBounce
  exact bounceMsg_within (onCc_within hs hCores ..) hPorts ..
theorem dropItem_within (hs : Within P s₀ s) (i : Nat) : Within P s₀ (dropItem i s) := by
  unfold dropItem
  exact withNet_within hs _
theorem endSend_within (hs : Within P s₀ s) (hCores : P.cores = true) (c : CoreId) (i : Item) : Within P s₀ (endSend c i s) := by
  unfold endSend
  exact onCc_within hs hCores ..
theorem sendLoss_within (hs : Within P s₀ s) (hPorts : P.ports = true) (plane : Nat) (pos : Nat) (core : Nat) (src : Nat) (tag : Nat) (seq :
    Nat) :
    Within P s₀ (sendLoss plane pos core src tag seq s) := by
  unfold sendLoss
  exact putItem_within hs hPorts _
theorem bounced_within (hs : Within P s₀ s) (hCores : P.cores = true) (c : CoreId) (h : Row) (reason : Nat) :
    Within P s₀ (bounced c h reason s) := by
  unfold bounced
  exact postFault_within (onCc_within hs hCores ..) hCores ..
theorem bounceWaiting_within (hs : Within P s₀ s) (hCores : P.cores = true) (hPorts : P.ports = true) (c : CoreId) (r : Nat) (reason : Nat)
    :
    Within P s₀ (bounceWaiting c r reason s) := by
  unfold bounceWaiting
  exact forAll_within (onRing_within hs hCores ..) _ _ fun _ _ h => rxBounce_within h hCores hPorts ..
theorem atNs_within (hs : Within P s₀ s) (ns : Nat) : Within P s₀ (State.atNs ns s) := by
  unfold State.atNs
  exact onHub_within hs _
theorem reroute_within (hs : Within P s₀ s) (hPorts : P.ports = true) (pl : Nat) (x : OutFlit) : Within P s₀ (reroute pl x s) := by
  unfold reroute
  split
  · exact onPort_within hs hPorts ..
  · exact forAll_within hs _ _ fun _ _ h => putItem_within h hPorts _
  · exact forAll_within hs _ _ fun _ _ h => putItem_within h hPorts _
theorem linkAlarm_within (hs : Within P s₀ s) (p : PortId) : Within P s₀ (linkAlarm p s) := by
  unfold linkAlarm
  exact attention_within (headlandFault_within hs _) _
theorem leaveUp_within (hs : Within P s₀ s) (hPorts : P.ports = true) (p : PortId) (st : PortState) : Within P s₀ (leaveUp p st s) := by
  unfold leaveUp
  exact linkAlarm_within (forAll_within (forAll_within (setPort_within hs hPorts ..) _ _ fun _ _ h => putItem_within h hPorts _) _ _ fun _ _
      h => reroute_within h hPorts ..) _
theorem portTo_within (hs : Within P s₀ s) (hPorts : P.ports = true) (p : PortId) (st : PortState) : Within P s₀ (portTo p st s) := by
  unfold portTo
  exact ite_within (fun _ => leaveUp_within hs hPorts ..) fun _ => onPort_within hs hPorts ..
theorem writeRoute_within (hs : Within P s₀ s) (pos : Nat) (e : Nat) : Within P s₀ (writeRoute pos e s) := by
  unfold writeRoute
  exact onHub_within hs _
theorem torusWrite_within (hs : Within P s₀ s) (v : Word) : Within P s₀ (torusWrite v s) := by
  unfold torusWrite
  exact ite_within (fun _ => hs) fun _ => onHub_within hs _
theorem endRx_within (hs : Within P s₀ s) (hPorts : P.ports = true) (i : Item) : Within P s₀ (endRx i s) := by
  unfold endRx
  exact ite_within (fun _ => forAll_within hs _ _ fun _ _ h => ite_within (fun _ => h) fun _ => onPort_within h hPorts ..) fun _ => hs
theorem itemIn_within (hs : Within P s₀ s) (hPorts : P.ports = true) (p : PortId) (i : Item) : Within P s₀ (itemIn p i s) := by
  unfold itemIn
  dsimp only
  split
  · exact ite_within (fun _ => endRx_within hs hPorts _) fun _ => withNet_within (endRx_within hs hPorts _) _
  · exact onPort_within (endRx_within hs hPorts _) hPorts ..
  · exact ite_within (fun _ => endRx_within hs hPorts _) fun _ => putItem_within (endRx_within hs hPorts _) hPorts _
theorem rowIn_within (hs : Within P s₀ s) (hPorts : P.ports = true) (p : PortId) (d : BitVec 128) (r : Row) : Within P s₀ (rowIn p d r s) := by
  unfold rowIn
  dsimp only
  split
  · exact itemIn_within hs hPorts ..
  · exact itemIn_within hs hPorts ..
  · exact itemIn_within (onPort_within hs hPorts ..) hPorts ..
theorem flitIn_within (hs : Within P s₀ s) (hPorts : P.ports = true) (p : PortId) (x : BitVec 128 × Flit) : Within P s₀ (flitIn p x s) := by
  unfold flitIn
  dsimp only
  split
  · refine ite_within (fun _ => onPort_within hs hPorts ..) fun _ => ?_
    split
    · exact hs
    · exact rowIn_within (onPort_within hs hPorts ..) hPorts ..
  · refine ite_within (fun _ => onPort_within hs hPorts ..) fun _ => ?_
    split
    · exact hs
    · exact rowIn_within (onPort_within hs hPorts ..) hPorts ..
  · refine ite_within (fun _ => onPort_within hs hPorts ..) fun _ => ?_
    split
    · exact hs
    · exact rowIn_within (onPort_within hs hPorts ..) hPorts ..
  · exact forAll_within hs _ _ fun _ _ h => itemIn_within h hPorts ..
  · exact ite_within (fun _ => onPort_within hs hPorts ..) fun _ => ite_within (fun _ => withNet_within hs _) fun _ => itemIn_within hs
        hPorts ..
  · exact hs
theorem discardFrame_within (hs : Within P s₀ s) (hPorts : P.ports = true) (p : PortId) (f : Frame) (nak : Bool) :
    Within P s₀ (discardFrame p f nak s) := by
  unfold discardFrame
  exact onPort_within hs hPorts ..
theorem ackFrames_within (hs : Within P s₀ s) (hPorts : P.ports = true) (p : PortId) (aseq : Nat) (nak : Bool) :
    Within P s₀ (ackFrames p aseq nak s) := by
  unfold ackFrames
  exact ite_within (fun _ => ite_within (fun _ => leaveUp_within (onHub_within (setPort_within hs hPorts ..) _) hPorts ..) fun _ =>
      onHub_within (setPort_within hs hPorts ..) _) fun _ => setPort_within hs hPorts ..
theorem tbExchange_within (hs : Within P s₀ s) (o : Int) : Within P s₀ (tbExchange o s) := by
  unfold tbExchange
  exact fresh_within (onTb_within hs _)
theorem timeFields_within (hs : Within P s₀ s) (hPorts : P.ports = true) (p : PortId) (l : BitVec 384) (t4 : Nat) :
    Within P s₀ (timeFields p l t4 s) := by
  unfold timeFields
  dsimp only
  split
  · refine ite_within (fun _ => ?_) fun _ => ite_within (fun _ => tbExchange_within (onPort_within ?_ hPorts ..) _) fun _ => onPort_within
        ?_ hPorts ..
    · split
      · exact onPort_within hs hPorts ..
      · exact hs
    · split
      · exact onPort_within hs hPorts ..
      · exact hs
    · split
      · exact onPort_within hs hPorts ..
      · exact hs
  · split
    · exact onPort_within hs hPorts ..
    · exact hs
theorem acceptFrame_within (hs : Within P s₀ s) (hPorts : P.ports = true) (p : PortId) (f : Frame) : Within P s₀ (acceptFrame p f s) := by
  unfold acceptFrame
  exact hubRelease_within (forAll_within (ackFrames_within (ite_within (fun _ => onPort_within hs hPorts ..) fun _ => timeFields_within
      (onPort_within hs hPorts ..) hPorts ..) hPorts ..) _ _ fun _ _ h => flitIn_within h hPorts ..) hPorts
theorem tbSet_within (hs : Within P s₀ s) (v : BitVec 64) : Within P s₀ (tbSet v s) := by
  unfold tbSet
  exact onTb_within hs _
theorem loseRef_within (hs : Within P s₀ s) : Within P s₀ (loseRef s) := by
  unfold loseRef
  exact hubSetBit_within (onTb_within hs _) ..
theorem holdOver_within (hs : Within P s₀ s) (port : Nat) : Within P s₀ (holdOver port s) := by
  unfold holdOver
  exact headlandFault_within (loseRef_within (onTb_within hs _)) _
theorem notice_within (hs : Within P s₀ s) (hPorts : P.ports = true) (x : Item) (kind : Nat) (a : Nat) (count : Nat) :
    Within P s₀ (notice x kind a count s) := by
  unfold notice
  exact putItem_within hs hPorts _
theorem serveRead_within (hs : Within P s₀ s) (hCores : P.cores = true) (hDies : P.dies = true) (hPorts : P.ports = true) (x : Item) (err :
    ReadErr) (n : Nat) (k : Nat) :
    Within P s₀ (serveRead x err n k s) := by
  induction n generalizing s k with
  | zero => exact hs
  | succ n ih =>
    unfold serveRead
    exact ite_within (fun _ => ih (putItem_within hs hPorts _) _) fun _ =>
      ite_within (fun _ => ih (putItem_within (notice_within hs hPorts ..) hPorts _) _) fun _ =>
        ite_within (fun _ => notice_within (readNoted_within hs hCores hDies ..) hPorts ..) fun _ =>
          ih (putItem_within (readNoted_within hs hCores hDies ..) hPorts _) _
theorem putMgmt_within (hs : Within P s₀ s) (hPorts : P.ports = true) (p : PortId) (f : Flit) : Within P s₀ (putMgmt p f s) := by
  unfold putMgmt
  exact setPort_within hs hPorts ..
theorem takeMgmt_within (hs : Within P s₀ s) (f : Flit) : Within P s₀ (takeMgmt f s) := by
  unfold takeMgmt
  exact withNet_within hs _
theorem forwardSurvey_within (hs : Within P s₀ s) (hPorts : P.ports = true) (p : Option PortId) (wave : Nat) (hop : Nat) (master : Nat) :
    Within P s₀ (forwardSurvey p wave hop master s) := by
  unfold forwardSurvey
  exact forAll_within hs _ _ fun _ _ h => putMgmt_within h hPorts ..
theorem lsCfgWrite_within (hs : Within P s₀ s) (v : Word) : Within P s₀ (lsCfgWrite v s) := by
  unfold lsCfgWrite
  exact onLs_within hs _
theorem sendFolds_within (hs : Within P s₀ s) (hPorts : P.ports = true) (rs : List FoldRec) : Within P s₀ (sendFolds rs s) := by
  unfold sendFolds
  exact headlandSend_within (onLs_within hs _) hPorts ..
theorem wgtNotice_within (hs : Within P s₀ s) (hPorts : P.ports = true) (x : CtxId) (pos : Nat) (loadId : Word) (kind : Nat) (resend : Bool)
    (n : Nat) (rows : Nat) :
    Within P s₀ (wgtNotice x pos loadId kind resend n rows s) := by
  unfold wgtNotice
  exact ite_within (fun _ => headlandSendF_within hs hPorts ..) fun _ => headlandSendF_within hs hPorts ..
theorem dropDigests_within (hs : Within P s₀ s) (x : CtxId) (k : Nat) : Within P s₀ (dropDigests x k s) := by
  unfold dropDigests
  exact onHub_within hs _
theorem wgtReply_within (hs : Within P s₀ s) (hPorts : P.ports = true) (x : CtxId) (k : Nat) (status : Nat) :
    Within P s₀ (wgtReply x k status s) := by
  unfold wgtReply
  dsimp only
  split
  · exact hs
  · exact replyDone_within (onSlot_within hs ..) hPorts ..
theorem wgtDone_within (hs : Within P s₀ s) (hPorts : P.ports = true) (x : CtxId) (k : Nat) : Within P s₀ (wgtDone x k s) := by
  unfold wgtDone
  exact wgtReply_within (onSlot_within (onWgt_within hs ..) ..) hPorts ..
theorem wgtFail_within (hs : Within P s₀ s) (hPorts : P.ports = true) (x : CtxId) (k : Nat) (j : Nat) : Within P s₀ (wgtFail x k j s) := by
  unfold wgtFail
  exact wgtReply_within (dropDigests_within (onSlot_within (onWgt_within (ite_within (fun _ => hs) fun _ => headlandFault_within hs _) ..)
      ..) ..) hPorts ..
theorem askShard_within (hs : Within P s₀ s) (hPorts : P.ports = true) (x : CtxId) (k : Nat) (j : Nat) : Within P s₀ (askShard x k j s) := by
  unfold askShard
  dsimp only
  split
  · exact wgtNotice_within (onShard_within (onSlot_within hs ..) ..) hPorts ..
  · exact hs
theorem toHostShard_within (hs : Within P s₀ s) (hPorts : P.ports = true) (x : CtxId) (k : Nat) (j : Nat) :
    Within P s₀ (toHostShard x k j s) := by
  unfold toHostShard
  exact askShard_within (onShard_within hs ..) hPorts ..
theorem failAttempt_within (hs : Within P s₀ s) (hPorts : P.ports = true) (x : CtxId) (k : Nat) (j : Nat) (kind : Nat) :
    Within P s₀ (failAttempt x k j kind s) := by
  unfold failAttempt
  dsimp only
  split
  · exact hs
  · exact ite_within (fun _ => wgtFail_within (onShard_within (onWgt_within (headlandFault_within hs _) ..) ..) hPorts ..) fun _ =>
        ite_within (fun _ => askShard_within (onShard_within (onWgt_within (headlandFault_within hs _) ..) ..) hPorts ..) fun _ =>
        ite_within (fun _ => wgtFail_within (onShard_within (onWgt_within (headlandFault_within hs _) ..) ..) hPorts ..) fun _ =>
        toHostShard_within (onShard_within (onWgt_within (headlandFault_within hs _) ..) ..) hPorts ..
theorem refetchShard_within (hs : Within P s₀ s) (hPorts : P.ports = true) (x : CtxId) (k : Nat) (j : Nat) :
    Within P s₀ (refetchShard x k j s) := by
  unfold refetchShard
  exact askShard_within (onShard_within hs ..) hPorts ..
theorem refetch_within (hs : Within P s₀ s) (hPorts : P.ports = true) (x : CtxId) (k : Nat) : Within P s₀ (refetch x k s) := by
  unfold refetch
  exact forAll_within (onWgt_within hs ..) _ _ fun _ _ h => refetchShard_within h hPorts ..
theorem wgtAccept_within (hs : Within P s₀ s) (src : CmdSrc) (x : CtxId) (w : WgtCmd) (inPlace : Bool) :
    Within P s₀ (wgtAccept src x w inPlace s) := by
  unfold wgtAccept
  exact onWgt_within (dropDigests_within hs ..) ..
theorem wgtCommand_within (hs : Within P s₀ s) (hPorts : P.ports = true) (cmd : Nat) (src : CmdSrc) (x : CtxId) (w : WgtCmd) (inPlace :
    Bool) (go : State → State) (hgo : ∀ t, Within P s₀ t → Within P s₀ (go t)) :
    Within P s₀ (wgtCommand cmd src x w inPlace go s) := by
  unfold wgtCommand
  exact ite_within (fun _ => reply_within (onWgt_within hs ..) hPorts ..) fun _ => hgo _ (reply_within (wgtAccept_within hs ..) hPorts ..)
theorem onNotice_within (hs : Within P s₀ s) (h : Row) (f : Nat → State → State) (hf : ∀ x0 t, Within P s₀ t → Within P s₀ (f x0 t)) :
    AnswerWithin P s₀ (onNotice h f s) := by
  unfold onNotice
  dsimp only
  split
  · exact next_within (hf _ _ (takeMsg_within hs _))
  · exact next_within (onHub_within (takeMsg_within hs _) _)
theorem sendChunk_within (hs : Within P s₀ s) (hPorts : P.ports = true) (x : CtxId) (k : Nat) (w : WgtCmd) (c : Nat) (fromSlot : Bool)
    (resend : Bool) :
    Within P s₀ (sendChunk x k w c fromSlot resend s) := by
  unfold sendChunk
  exact wgtNotice_within (hubWrites_within (onHl_within hs _) hPorts ..) hPorts ..
theorem forwardChunks_within (hs : Within P s₀ s) (hPorts : P.ports = true) (x : CtxId) (k : Nat) (n : Nat) :
    Within P s₀ (forwardChunks x k n s) := by
  induction n generalizing s with
  | zero => exact hs
  | succ n ih =>
    unfold forwardChunks
    dsimp only
    split
    · exact ite_within (fun _ => hs) fun _ => ih (sendChunk_within (onSlot_within hs ..) hPorts ..)
    · exact hs
theorem resendShard_within (hs : Within P s₀ s) (hPorts : P.ports = true) (x : CtxId) (k : Nat) (j : Nat) :
    Within P s₀ (resendShard x k j s) := by
  unfold resendShard
  exact forwardChunks_within (onSlot_within hs ..) hPorts ..
theorem shardPassed_within (hs : Within P s₀ s) (hPorts : P.ports = true) (x : CtxId) (k : Nat) (j : Nat) :
    Within P s₀ (shardPassed x k j s) := by
  unfold shardPassed
  exact ite_within (fun _ => wgtDone_within (ite_within (fun _ => resendShard_within (onShard_within hs ..) hPorts ..) fun _ =>
      onShard_within hs ..) hPorts ..) fun _ => ite_within (fun _ => resendShard_within (onShard_within hs ..) hPorts ..) fun _ =>
      onShard_within hs ..
theorem noteLate_within (hs : Within P s₀ s) (x : CtxId) (k : Nat) (j : Nat) : Within P s₀ (noteLate x k j s) := by
  unfold noteLate
  exact ite_within (fun _ => onHub_within (onShard_within hs ..) _) fun _ => hs
theorem recheckFailed_within (hs : Within P s₀ s) (hPorts : P.ports = true) (x : CtxId) (k : Nat) (j : Nat) :
    Within P s₀ (recheckFailed x k j s) := by
  unfold recheckFailed
  dsimp only
  split
  · exact ite_within (fun _ => refetchShard_within (onShard_within (headlandFault_within (onHub_within hs _) _) ..) hPorts ..) fun _ =>
        ite_within (fun _ => refetch_within (onWgt_within (onShard_within (headlandFault_within (onHub_within hs _) _) ..) ..) hPorts ..)
        fun _ => onWgt_within (onShard_within (headlandFault_within (onHub_within hs _) _) ..) ..
  · exact refetch_within (onSlot_within (onShard_within (headlandFault_within (onHub_within hs _) _) ..) ..) hPorts ..
  · exact refetchShard_within (onShard_within (headlandFault_within (onHub_within hs _) _) ..) hPorts ..
  · exact onShard_within (headlandFault_within (onHub_within hs _) _) ..
  · exact onShard_within (headlandFault_within (onHub_within hs _) _) ..
  · exact onShard_within (headlandFault_within (onHub_within hs _) _) ..
theorem emptySlot_within (hs : Within P s₀ s) (x : CtxId) (k : Nat) : Within P s₀ (emptySlot x k s) := by
  unfold emptySlot
  exact dropDigests_within (onSlot_within hs ..) ..
theorem reqAnswer_within (hs : Within P s₀ s) (hCores : P.cores = true) (c : CoreId) (result : Nat) (latch : Option (Fin 2)) :
    Within P s₀ (reqAnswer c result latch s) := by
  unfold reqAnswer
  exact onSc_within (onCc_within hs hCores ..) hCores ..
theorem addRef_within (hs : Within P s₀ s) (x : CtxId) (k : Nat) : Within P s₀ (addRef x k s) := by
  unfold addRef
  exact onWgt_within hs ..
theorem reqBeginOp_within (hs : Within P s₀ s) (hCores : P.cores = true) (c : CoreId) : Within P s₀ (reqBeginOp c s) := by
  unfold reqBeginOp
  exact ite_within (fun _ => reqAnswer_within hs hCores ..) fun _ => ite_within (fun _ => reqAnswer_within hs hCores ..) fun _ => ite_within
      (fun _ => reqAnswer_within hs hCores ..) fun _ => reqAnswer_within (addRef_within (ite_within (fun _ => onSlot_within hs ..) fun _ =>
      hs) ..) hCores ..
theorem reqJoinOp_within (hs : Within P s₀ s) (hCores : P.cores = true) (c : CoreId) : Within P s₀ (reqJoinOp c s) := by
  unfold reqJoinOp
  exact ite_within (fun _ => reqAnswer_within hs hCores ..) fun _ => reqAnswer_within (addRef_within hs ..) hCores ..
theorem reqEndOp_within (hs : Within P s₀ s) (hCores : P.cores = true) (hPorts : P.ports = true) (c : CoreId) : Within P s₀ (reqEndOp c s) := by
  unfold reqEndOp
  exact ite_within (fun _ => reqAnswer_within hs hCores ..) fun _ => reqAnswer_within (ite_within (fun _ => emptySlot_within (onWgt_within
      hs ..) ..) fun _ => ite_within (fun _ => refetch_within (onWgt_within hs ..) hPorts ..) fun _ => onWgt_within hs ..) hCores ..
theorem wgtContextReset_within (hs : Within P s₀ s) (hPorts : P.ports = true) (x : CtxId) : Within P s₀ (wgtContextReset x s) := by
  unfold wgtContextReset
  refine forAll_within (ite_within (fun _ => refetch_within (onWgt_within ?_ ..) hPorts ..) fun _ => onWgt_within ?_ ..) _ _ fun _ _ h =>
      ite_within (fun _ => emptySlot_within h ..) fun _ => h
  · split
    · exact wgtFail_within hs hPorts ..
    · exact hs
  · split
    · exact wgtFail_within hs hPorts ..
    · exact hs
theorem onSnp_within (hs : Within P s₀ s) (x : CtxId) (f : SnpCtx → SnpCtx) : Within P s₀ (State.onSnp s x f) := by
  unfold State.onSnp
  exact onHub_within hs _
theorem writeStore_within (hs : Within P s₀ s) (a : Nat) (bs : List Byte) : Within P s₀ (writeStore a bs s) := by
  unfold writeStore
  exact onHub_within hs _
theorem eraseStore_within (hs : Within P s₀ s) (page : Nat) : Within P s₀ (eraseStore page s) := by
  unfold eraseStore
  exact onHub_within hs _
theorem sendMgmt_within (hs : Within P s₀ s) (hPorts : P.ports = true) (pos : Nat) (f : Flit) : Within P s₀ (sendMgmt pos f s) := by
  unfold sendMgmt
  exact putItem_within hs hPorts _
theorem startSnapshot_within (hs : Within P s₀ s) (x : CtxId) : Within P s₀ (startSnapshot x s) := by
  unfold startSnapshot
  exact onSnp_within (eraseStore_within hs _) ..
theorem abandonSnapshot_within (hs : Within P s₀ s) (x : CtxId) : Within P s₀ (abandonSnapshot x s) := by
  unfold abandonSnapshot
  exact ite_within (fun _ => hs) fun _ => onHub_within (onSnp_within hs ..) _
theorem updEndOp_within (hs : Within P s₀ s) (w : Writer) (x : CtxId) : Within P s₀ (updEndOp w x s) := by
  unfold updEndOp
  exact ite_within (fun _ => hs) fun _ => onSnp_within hs ..
theorem snapshotNowOp_within (hs : Within P s₀ s) (w : Writer) (x : CtxId) : Within P s₀ (snapshotNowOp w x s) := by
  unfold snapshotNowOp
  exact ite_within (fun _ => startSnapshot_within hs _) fun _ => hs
theorem sendPartnerChunk_within (hs : Within P s₀ s) (hPorts : P.ports = true) (x : CtxId) (q : Nat) (c : Nat) (e : BitVec 512) (rows : List
    Row) :
    Within P s₀ (sendPartnerChunk x q c e rows s) := by
  unfold sendPartnerChunk
  exact ite_within (fun _ => onSnp_within hs ..) fun _ => headlandSendF_within (hubWrites_within (onSnp_within hs ..) hPorts ..) hPorts ..
theorem storeChunk_within (hs : Within P s₀ s) (page : Nat) (n : Nat) (c : Nat) (e : BitVec 512) (rows : List Row) :
    Within P s₀ (storeChunk page n c e rows s) := by
  unfold storeChunk
  exact writeStore_within (writeStore_within hs ..) ..
theorem hostRows_within (hs : Within P s₀ s) (pos : Nat) (ctx : Nat) (entry : BitVec 512) (rows : List Row) :
    Within P s₀ (hostRows pos ctx entry rows s) := by
  unfold hostRows
  exact ite_within (fun _ => writeStore_within (writeStore_within hs ..) ..) fun _ => writeStore_within (writeStore_within
      (eraseStore_within hs _) ..) ..
theorem partnerAnswer_within (hs : Within P s₀ s) (hPorts : P.ports = true) (x : CtxId) (q : Nat) (c : Nat) (ok : Bool) :
    Within P s₀ (partnerAnswer x q c ok s) := by
  unfold partnerAnswer
  dsimp only
  split
  · exact hs
  · exact ite_within (fun _ => hs) fun _ => ite_within (fun _ => onSnp_within hs ..) fun _ => ite_within (fun _ => abandonSnapshot_within hs
        _) fun _ => sendPartnerChunk_within (onSnp_within hs ..) hPorts ..
theorem partnerWrite_within (hs : Within P s₀ s) (hPorts : P.ports = true) (w : Writer) (x : CtxId) (second : Bool) (v : Word) :
    Within P s₀ (partnerWrite w x second v s) := by
  unfold partnerWrite
  exact ite_within (fun _ => hs) fun _ => ite_within (fun _ => sendMgmt_within (onSnp_within hs ..) hPorts ..) fun _ => onSnp_within hs ..
theorem pairAnswer_within (hs : Within P s₀ s) (x : CtxId) (second : Bool) (hosts : Bool) (main : Nat) (bkp : Nat) :
    Within P s₀ (pairAnswer x second hosts main bkp s) := by
  unfold pairAnswer
  exact ite_within (fun _ => hs) fun _ => ite_within (fun _ => onSnp_within hs ..) fun _ => headlandFault_within (onSnp_within hs ..) _
theorem partnerQuery_within (hs : Within P s₀ s) (hPorts : P.ports = true) (pos : Nat) (ctx : Nat) (second : Nat) :
    Within P s₀ (partnerQuery pos ctx second s) := by
  unfold partnerQuery
  exact sendMgmt_within (onHl_within hs _) hPorts ..
theorem onRst_within (hs : Within P s₀ s) (x : CtxId) (f : RstRun → RstRun) : Within P s₀ (State.onRst s x f) := by
  unfold State.onRst
  exact onSnp_within hs ..
theorem restoreFails_within (hs : Within P s₀ s) (hPorts : P.ports = true) (x : CtxId) (r : RstRun) : Within P s₀ (restoreFails x r s) := by
  unfold restoreFails
  exact replyDone_within (headlandFault_within (onSnp_within hs ..) _) hPorts ..
theorem startRestore_within (hs : Within P s₀ s) (hPorts : P.ports = true) (src : CmdSrc) (x : CtxId) (r : RestoreCmd) :
    Within P s₀ (startRestore src x r s) := by
  unfold startRestore
  exact ite_within (fun _ => restoreFails_within (reply_within (onSnp_within (abandonSnapshot_within hs _) ..) hPorts ..) hPorts ..) fun _
      => reply_within (onSnp_within (abandonSnapshot_within hs _) ..) hPorts ..
theorem replayTo_within (hs : Within P s₀ s) (hDies : P.dies = true) (x : CtxId) (g : Nat) (h : Row) : Within P s₀ (replayTo x g h s) := by
  unfold replayTo
  exact onAdv_within (forAll_within hs _ _ fun _ _ h => onDie_within h hDies ..) ..
theorem recomputePools_within (hs : Within P s₀ s) (hDies : P.dies = true) : Within P s₀ (recomputePools s) := by
  unfold recomputePools
  exact ite_within (fun _ => forAll_within (onPwr_within hs _) _ _ fun _ _ h => onDie_within h hDies ..) fun _ => ite_within (fun _ =>
      forAll_within hs _ _ fun _ _ h => onDie_within h hDies ..) fun _ => hubSetBit_within (onPwr_within hs _) ..
theorem poolWrite_within (hs : Within P s₀ s) (hDies : P.dies = true) (w : Writer) (d : DieId) (v : Word) : Within P s₀ (poolWrite w d v s) := by
  unfold poolWrite
  exact ite_within (fun _ => onDie_within hs hDies ..) fun _ => hs
theorem budgetWrite_within (hs : Within P s₀ s) (hDies : P.dies = true) (w : Writer) (v : Word) : Within P s₀ (budgetWrite w v s) := by
  unfold budgetWrite
  exact ite_within (fun _ => recomputePools_within (onPwr_within hs _) hDies) fun _ => hs
theorem expPoolWrite_within (hs : Within P s₀ s) (hDies : P.dies = true) (w : Writer) (d : DieId) (v : Word) :
    Within P s₀ (expPoolWrite w d v s) := by
  unfold expPoolWrite
  exact ite_within (fun _ => hs) fun _ => ite_within (fun _ => recomputePools_within (onPwr_within hs _) hDies) fun _ => onPwr_within hs _
theorem restartDie_within (hs : Within P s₀ s) (hCores : P.cores = true) (hDies : P.dies = true) (d : DieId) : Within P s₀ (restartDie d s) := by
  unfold restartDie
  exact forAll_within (onDie_within hs hDies ..) _ _ fun _ _ h => onCore_within h hCores ..
theorem abandonCore_within (hs : Within P s₀ s) (hCores : P.cores = true) (hDies : P.dies = true) (c : CoreId) :
    Within P s₀ (abandonCore c s) := by
  unfold abandonCore
  exact powerGate_within (onSc_within (dropOrdered_within (dropRequests_within (onE_within hs hCores ..) hCores hDies _) hCores _) hCores
      ..) hCores _
theorem shutDown_within (hs : Within P s₀ s) (hCores : P.cores = true) (hDies : P.dies = true) (hPorts : P.ports = true) :
    Within P s₀ (shutDown s) := by
  unfold shutDown
  exact forAll_within (forAll_within (forAll_within (forAll_within hs _ _ fun _ _ h => onDie_within h hDies ..) _ _ fun _ _ h =>
      abandonCore_within h hCores hDies _) _ _ fun _ _ h => putMgmt_within h hPorts ..) _ _ fun _ _ h => onSnp_within
      (abandonSnapshot_within h _) ..
theorem thermalTrip_within (hs : Within P s₀ s) (hCores : P.cores = true) (hDies : P.dies = true) (hPorts : P.ports = true) :
    Within P s₀ (thermalTrip s) := by
  unfold thermalTrip
  exact attention_within (shutDown_within (onPwr_within hs _) hCores hDies hPorts) _
theorem tjClear_within (hs : Within P s₀ s) (hDies : P.dies = true) (d : DieId) : Within P s₀ (tjClear d s) := by
  unfold tjClear
  exact onDie_within hs hDies ..
theorem readVin_within (hs : Within P s₀ s) (droop : Bool) : Within P s₀ (readVin droop s) := by
  unfold readVin
  exact fresh_within (onPwr_within hs _)
theorem switchTo_within (hs : Within P s₀ s) (backup : Bool) : Within P s₀ (switchTo backup s) := by
  unfold switchTo
  exact attention_within (readVin_within (onPwr_within hs _) _) _
theorem switchOver_within (hs : Within P s₀ s) : Within P s₀ (switchOver s) := by
  unfold switchOver
  exact ite_within (fun _ => switchTo_within hs _) fun _ => readVin_within hs _
theorem inputOut_within (hs : Within P s₀ s) (backup : Bool) : Within P s₀ (inputOut backup s) := by
  unfold inputOut
  exact switchOver_within (onPwr_within hs _)
theorem unmate_within (hs : Within P s₀ s) : Within P s₀ (unmate s) := by
  unfold unmate
  exact readVin_within (onPwr_within hs _) _
theorem railsOff_within (hs : Within P s₀ s) (hMem : P.mem = true) (hPorts : P.ports = true) : Within P s₀ (railsOff s) := by
  unfold railsOff
  exact onPwr_within (withMemNet_within (forAll_within hs _ _ fun _ _ h => setPort_within h hPorts ..) hMem) _
theorem hubOff_within (hs : Within P s₀ s) (on : Bool) : Within P s₀ (hubOff on s) := by
  unfold hubOff
  exact onHl_within (onPwr_within hs _) _
theorem useCalibration_within (hs : Within P s₀ s) (hDies : P.dies = true) : Within P s₀ (useCalibration s) := by
  unfold useCalibration
  exact onHl_within (onHub_within (forAll_within hs _ _ fun _ _ h => onDie_within h hDies ..) _) _
theorem selfCalibrate_within (hs : Within P s₀ s) (mask : Nat) : Within P s₀ (selfCalibrate mask s) := by
  unfold selfCalibrate
  exact fresh_within (onHl_within (onHub_within hs _) _)
theorem bootCalibration_within (hs : Within P s₀ s) (hDies : P.dies = true) : Within P s₀ (bootCalibration s) := by
  unfold bootCalibration
  exact useCalibration_within (ite_within (fun _ => hs) fun _ => attention_within (onHl_within (selfCalibrate_within hs _) _) _) hDies
theorem trainDeep_within (hs : Within P s₀ s) (hDies : P.dies = true) : Within P s₀ (trainDeep s) := by
  unfold trainDeep
  exact fresh_within (forAll_within hs _ _ fun _ _ h => onDie_within h hDies ..)
theorem ctxCfgWrite_within (hs : Within P s₀ s) (hCores : P.cores = true) (c : CoreId) (v : Word) : Within P s₀ (ctxCfgWrite c v s) := by
  unfold ctxCfgWrite
  exact onSc_within hs hCores ..
theorem configCore_within (hs : Within P s₀ s) (hCores : P.cores = true) (x : CtxId) (slot : Fin 4) (shared : Bool) (rt : Bool) (seed :
    BitVec 64) (map : List (BitVec 8)) (c : CoreId) :
    Within P s₀ (configCore x slot shared rt seed map c s) := by
  unfold configCore
  exact onE_within (onSc_within hs hCores ..) hCores ..
theorem resetRing_within (hs : Within P s₀ s) (hCores : P.cores = true) (hPorts : P.ports = true) (c : CoreId) (r : Nat) :
    Within P s₀ (resetRing c r s) := by
  unfold resetRing
  exact onCc_within (onRing_within (onM_within (bounceWaiting_within (forAll_within (ite_within (fun _ => onRing_within hs hCores ..) fun _
      => hs) _ _ fun _ _ h => rxBounce_within h hCores hPorts ..) hCores hPorts ..) hCores ..) hCores ..) hCores ..
theorem addReset_within (hs : Within P s₀ s) (kind : Nat) (mask : BitVec 128) (x : CtxId) (src : Option CmdSrc) :
    Within P s₀ (addReset kind mask x src s) := by
  unfold addReset
  exact onHl_within hs _
theorem contextResetOp_within (hs : Within P s₀ s) (hCores : P.cores = true) (hPorts : P.ports = true) (x : CtxId) :
    Within P s₀ (contextResetOp x s) := by
  unfold contextResetOp
  exact onHub_within (wgtContextReset_within (onLoad_within (releaseImage_within (forAll_within hs _ _ fun _ _ h => forAll_within
      (onSc_within h hCores ..) _ _ fun _ _ h1 => resetRing_within h1 hCores hPorts ..) hCores _) ..) hPorts _) _
theorem coreResetOp_within (hs : Within P s₀ s) (hCores : P.cores = true) (hDies : P.dies = true) (hPorts : P.ports = true) (c : CoreId) :
    Within P s₀ (coreResetOp c s) := by
  unfold coreResetOp
  exact onCore_within (onDie_within (forAll_within (dropRequests_within (forAll_within hs _ _ fun _ _ h => resetRing_within h hCores hPorts
      ..) hCores hDies _) _ _ fun _ _ h => freeHandle_within h hCores hDies ..) hDies ..) hCores ..
theorem finishRing_within (hs : Within P s₀ s) (hCores : P.cores = true) (rest : List ResetRun) (c : CoreId) (r : Nat) :
    Within P s₀ (finishRing rest c r s) := by
  unfold finishRing
  exact ite_within (fun _ => onRing_within hs hCores ..) fun _ => onRing_within hs hCores ..
theorem finishCore_within (hs : Within P s₀ s) (hCores : P.cores = true) (hDies : P.dies = true) (rest : List ResetRun) (c : CoreId) :
    Within P s₀ (finishCore rest c s) := by
  unfold finishCore
  exact ite_within (fun _ => forAll_within hs _ _ fun _ _ h => finishRing_within h hCores ..) fun _ => ite_within (fun _ => ccStartOp_within
      (onCc_within (forAll_within hs _ _ fun _ _ h => finishRing_within h hCores ..) hCores ..) hCores hDies ..) fun _ => onCc_within
      (forAll_within hs _ _ fun _ _ h => finishRing_within h hCores ..) hCores ..
theorem hostRead_within (hs : Within P s₀ s) (hCores : P.cores = true) (hDies : P.dies = true) (tag : Nat) (err : ReadErr) (n : Nat) (k :
    Nat) (a : Nat) :
    Within P s₀ (hostRead tag err n k a s) := by
  induction n generalizing s k a with
  | zero => exact hs
  | succ n ih =>
    unfold hostRead
    dsimp only
    refine ite_within (fun _ => ih (onHl_within (headlandFault_within hs _) _) _ _) fun _ =>
      ite_within (fun _ => ih (onHl_within (headlandFault_within hs _) _) _ _) fun _ => ?_
    split
    · exact ih (onHl_within hs _) _ _
    · exact ite_within (fun _ => onHl_within (readNoted_within hs hCores hDies ..) _) fun _ =>
        ih (onHl_within (readNoted_within hs hCores hDies ..) _) _ _
theorem hostDepart_within (hs : Within P s₀ s) (hPorts : P.ports = true) (rows : List Row) : Within P s₀ (hostDepart rows s) := by
  unfold hostDepart
  exact ite_within (fun _ => hubDepart_within hs hPorts _) fun _ => onHl_within hs _
theorem placeInbox_within (hs : Within P s₀ s) (hPorts : P.ports = true) (fit : Bool × Nat) (h : Row) (rows : List Row) :
    Within P s₀ (placeInbox fit h rows s) := by
  unfold placeInbox
  exact ite_within (fun _ => hubDone_within (onHl_within hs _) ..) fun _ => answerMsg_within (onHl_within hs _) hPorts ..
theorem inboxRptr_within (hs : Within P s₀ s) (v : Word) : Within P s₀ (inboxRptr v s) := by
  unfold inboxRptr
  exact onHl_within hs _
theorem faultRptr_within (hs : Within P s₀ s) (v : Word) : Within P s₀ (faultRptr v s) := by
  unfold faultRptr
  exact onHl_within hs _
theorem fixedWrite_within (hs : Within P s₀ s) (hDies : P.dies = true) (w : Writer) (d : DieId) (v : Word) :
    Within P s₀ (fixedWrite w d v s) := by
  unfold fixedWrite
  exact ite_within (fun _ => hs) fun _ => onDie_within hs hDies ..

/-! ### The commands that leave a part -/

theorem execPlgCounterClear_within (hs : Within P s₀ s) (hCores : P.cores = true) (c : CoreId) :
    AnswerWithin P s₀ (execPlgCounterClear c s) := by
  unfold execPlgCounterClear
  exact next_within (onE_within hs hCores ..)
theorem execHrwCounterClear_within (hs : Within P s₀ s) (hCores : P.cores = true) (c : CoreId) :
    AnswerWithin P s₀ (execHrwCounterClear c s) := by
  unfold execHrwCounterClear
  exact next_within (onE_within hs hCores ..)
theorem execHrwSumClear_within (hs : Within P s₀ s) (hCores : P.cores = true) (c : CoreId) : AnswerWithin P s₀ (execHrwSumClear c s) := by
  unfold execHrwSumClear
  exact next_within (onE_within hs hCores ..)
theorem execTlrCounterClear_within (hs : Within P s₀ s) (hCores : P.cores = true) (c : CoreId) :
    AnswerWithin P s₀ (execTlrCounterClear c s) := by
  unfold execTlrCounterClear
  exact next_within (onE_within hs hCores ..)
theorem execStepAdvance_within (hs : Within P s₀ s) (hPorts : P.ports = true) (src : CmdSrc) (x : CtxId) (target : Nat) :
    AnswerWithin P s₀ (execStepAdvance src x target s) := by
  unfold execStepAdvance
  exact hlCommand_within hs hPorts _ _ _ _ fun _ h => ite_within (fun _ => reply_within h hPorts ..) fun _ => ite_within (fun _ =>
      reply_within h hPorts ..) fun _ => reply_within (onAdv_within h ..) hPorts ..
theorem execStepAdvanceEvaluate_within (hs : Within P s₀ s) (hDies : P.dies = true) (x : CtxId) :
    AnswerWithin P s₀ (execStepAdvanceEvaluate x s) := by
  unfold execStepAdvanceEvaluate
  dsimp only
  split
  · exact next_within hs
  · exact whenDue_within hs _ _ fun _ h => onAdv_within (forAll_within h _ _ fun _ _ h1 => onDie_within h1 hDies ..) ..
theorem execStepAdvanceCommit_within (hs : Within P s₀ s) (hCores : P.cores = true) (hDies : P.dies = true) (x : CtxId) :
    AnswerWithin P s₀ (execStepAdvanceCommit x s) := by
  unfold execStepAdvanceCommit
  dsimp only
  split
  · exact next_within hs
  · exact whenDue_within hs _ _ fun _ h => adviseCores_within (onHub_within (onAdv_within (forAll_within h _ _ fun _ _ h1 => onDie_within h1
        hDies ..) ..) _) hCores hDies ..
theorem execPrivStepArm_within (hs : Within P s₀ s) (w : Writer) (x : CtxId) (k : Fin 8) (par : Fin 2) (hi : Word) :
    AnswerWithin P s₀ (execPrivStepArm w x k par hi s) := by
  unfold execPrivStepArm
  exact next_within (ite_within (fun _ => privArm_within hs ..) fun _ => hs)
theorem execTraceEnable_within (hs : Within P s₀ s) (hCores : P.cores = true) (c : CoreId) (v : Word) :
    AnswerWithin P s₀ (execTraceEnable c v s) := by
  unfold execTraceEnable
  exact next_within (traceCfgWrite_within hs hCores ..)
theorem execTraceDropClear_within (hs : Within P s₀ s) (hCores : P.cores = true) (c : CoreId) : AnswerWithin P s₀ (execTraceDropClear c s) := by
  unfold execTraceDropClear
  exact next_within (onCc_within hs hCores ..)
theorem execLoadImage_within (hs : Within P s₀ s) (hPorts : P.ports = true) (src : CmdSrc) (x : CtxId) (addr : Nat) :
    AnswerWithin P s₀ (execLoadImage src x addr s) := by
  unfold execLoadImage
  exact hlCommand_within hs hPorts _ _ _ _ fun _ h => ite_within (fun _ => reply_within h hPorts ..) fun _ => ite_within (fun _ =>
      reply_within (onLoad_within h ..) hPorts ..) fun _ => onLoad_within h ..
theorem execLoadCheckComplete_within (hs : Within P s₀ s) (hCores : P.cores = true) (hPorts : P.ports = true) (x : CtxId) :
    AnswerWithin P s₀ (execLoadCheckComplete x s) := by
  unfold execLoadCheckComplete
  split
  · exact next_within hs
  · dsimp only
    split
    · exact next_within (loadRefused_within hs hPorts ..)
    · exact next_within (reply_within (acceptImage_within hs hCores ..) hPorts ..)
theorem execCcStart_within (hs : Within P s₀ s) (hCores : P.cores = true) (hDies : P.dies = true) (c : CoreId) (pc : BitVec 16) :
    AnswerWithin P s₀ (execCcStart c pc s) := by
  unfold execCcStart
  exact next_within (ccStartOp_within (onCc_within hs hCores ..) hCores hDies ..)
theorem execCcHalt_within (hs : Within P s₀ s) (hCores : P.cores = true) (hDies : P.dies = true) (c : CoreId) :
    AnswerWithin P s₀ (execCcHalt c s) := by
  unfold execCcHalt
  exact next_within (ccHaltOp_within hs hCores hDies _)
theorem execFaultLostClear_within (hs : Within P s₀ s) (hCores : P.cores = true) (c : CoreId) : AnswerWithin P s₀ (execFaultLostClear c s) := by
  unfold execFaultLostClear
  exact next_within (onCc_within hs hCores ..)
theorem execCoreProgram_within (hs : Within P s₀ s) (hCores : P.cores = true) (hDies : P.dies = true) (hPorts : P.ports = true) (src :
    CmdSrc) (mask : BitVec 128) (plotRow dataRows : Nat) (digest : BitVec 256) :
    AnswerWithin P s₀ (execCoreProgram src mask plotRow dataRows digest s) := by
  unfold execCoreProgram
  exact hlCommand_within hs hPorts _ _ _ _ fun _ h => ite_within (fun _ => reply_within h hPorts ..) fun _ => ite_within (fun _ =>
      reply_within h hPorts ..) fun _ => reply_within (onHl_within (forAll_within h _ _ fun _ _ h1 => onCc_within (ccHaltOp_within h1 hCores
      hDies _) hCores ..) _) hPorts ..
theorem execHoldGrantArrival_within (hs : Within P s₀ s) (hCores : P.cores = true) (hPorts : P.ports = true) (i : Nat) :
    AnswerWithin P s₀ (execHoldGrantArrival i s) := by
  unfold execHoldGrantArrival
  split
  · exact next_within hs
  · refine iteAnswer_within (fun _ => ?_) fun _ => iteAnswer_within (fun _ => next_within (onCc_within (dropItem_within hs _) hCores ..))
        fun _ => next_within (sendLoss_within (dropItem_within hs _) hPorts ..)
    split
    · exact next_within (forAll_within (dropItem_within hs _) _ _ fun _ _ h => putItem_within h hPorts _)
    · exact next_within (sendLoss_within (dropItem_within hs _) hPorts ..)
theorem execBounceArrival_within (hs : Within P s₀ s) (hCores : P.cores = true) (i : Nat) : AnswerWithin P s₀ (execBounceArrival i s) := by
  unfold execBounceArrival
  split
  · exact next_within hs
  · refine iteAnswer_within (fun _ => ?_) fun _ => ?_
    · split
      · exact next_within (hubBounce_within (dropItem_within hs _) ..)
      · exact next_within (dropItem_within hs _)
    · dsimp only
      split
      · exact next_within (dropItem_within hs _)
      · exact next_within (bounced_within (endSend_within (dropItem_within hs _) hCores ..) hCores ..)
theorem execMsgCounterClear_within (hs : Within P s₀ s) (hCores : P.cores = true) (c : CoreId) :
    AnswerWithin P s₀ (execMsgCounterClear c s) := by
  unfold execMsgCounterClear
  exact next_within (onCc_within hs hCores ..)
theorem execFrameTransmit_within (hs : Within P s₀ s) (hPorts : P.ports = true) (p : PortId) (ns : Nat) :
    AnswerWithin P s₀ (execFrameTransmit p ns s) := by
  unfold execFrameTransmit
  refine whenDue_within (atNs_within hs _) _ _ fun _ h => ite_within (fun _ => ?_) fun _ => setPort_within h hPorts ..
  split
  · exact setPort_within h hPorts ..
  · exact setPort_within h hPorts ..
theorem execFrameReceive_within (hs : Within P s₀ s) (hPorts : P.ports = true) (p : PortId) (ns : Nat) (f : Frame) (fec : Fec) :
    AnswerWithin P s₀ (execFrameReceive p ns f fec s) := by
  unfold execFrameReceive
  refine whenDue_within (atNs_within hs _) _ _ fun _ h => ?_
  split
  · exact discardFrame_within (onPort_within h hPorts ..) hPorts ..
  · exact ite_within (fun _ => leaveUp_within (onPort_within h hPorts ..) hPorts ..) fun _ => ite_within (fun _ => acceptFrame_within
        (onPort_within h hPorts ..) hPorts ..) fun _ => ite_within (fun _ => acceptFrame_within (onPort_within (onPort_within h hPorts ..)
        hPorts ..) hPorts ..) fun _ => discardFrame_within (onPort_within h hPorts ..) hPorts ..
theorem execLeadFlitTimeout_within (hs : Within P s₀ s) (hPorts : P.ports = true) (p : PortId) (ns : Nat) :
    AnswerWithin P s₀ (execLeadFlitTimeout p ns s) := by
  unfold execLeadFlitTimeout
  exact whenDue_within (atNs_within hs _) _ _ fun _ h => leaveUp_within h hPorts ..
theorem execPortTrainingComplete_within (hs : Within P s₀ s) (hPorts : P.ports = true) (p : PortId) (ns : Nat) (peerPos : BitVec 16)
    (peerPort : PortId) (flight : Nat) :
    AnswerWithin P s₀ (execPortTrainingComplete p ns peerPos peerPort flight s) := by
  unfold execPortTrainingComplete
  exact whenDue_within (atNs_within hs _) _ _ fun _ h => onPort_within h hPorts ..
theorem execPortTrain_within (hs : Within P s₀ s) (hPorts : P.ports = true) (p : PortId) : AnswerWithin P s₀ (execPortTrain p s) := by
  unfold execPortTrain
  exact next_within (portTo_within hs hPorts ..)
theorem execPortDisable_within (hs : Within P s₀ s) (hPorts : P.ports = true) (p : PortId) : AnswerWithin P s₀ (execPortDisable p s) := by
  unfold execPortDisable
  exact next_within (portTo_within hs hPorts ..)
theorem execLnkCounterClear_within (hs : Within P s₀ s) (hPorts : P.ports = true) (p : PortId) :
    AnswerWithin P s₀ (execLnkCounterClear p s) := by
  unfold execLnkCounterClear
  exact next_within (onPort_within hs hPorts ..)
theorem execRouteEntryWrite_within (hs : Within P s₀ s) (pos : BitVec 16) (v : BitVec 8) : AnswerWithin P s₀ (execRouteEntryWrite pos v s) := by
  unfold execRouteEntryWrite
  exact whenDue_within hs _ _ fun _ h => writeRoute_within h ..
theorem execLnkTorusWrite_within (hs : Within P s₀ s) (v : Word) : AnswerWithin P s₀ (execLnkTorusWrite v s) := by
  unfold execLnkTorusWrite
  exact next_within (torusWrite_within hs _)
theorem execRemoteReadRequest_within (hs : Within P s₀ s) (hCores : P.cores = true) (hDies : P.dies = true) (hPorts : P.ports = true) (i :
    Nat) (err : ReadErr) :
    AnswerWithin P s₀ (execRemoteReadRequest i err s) := by
  unfold execRemoteReadRequest
  split
  · exact next_within hs
  · exact whenDue_within hs _ _ fun _ h => serveRead_within (dropItem_within h _) hCores hDies hPorts ..
theorem execTbSetWrite_within (hs : Within P s₀ s) (v : BitVec 64) : AnswerWithin P s₀ (execTbSetWrite v s) := by
  unfold execTbSetWrite
  exact next_within (tbSet_within hs _)
theorem execExtRefLock_within (hs : Within P s₀ s) (ns : Nat) : AnswerWithin P s₀ (execExtRefLock ns s) := by
  unfold execExtRefLock
  exact whenDue_within (atNs_within hs _) _ _ fun _ h => fresh_within (onTb_within h _)
theorem execExtRefLockTimeout_within (hs : Within P s₀ s) (ns : Nat) : AnswerWithin P s₀ (execExtRefLockTimeout ns s) := by
  unfold execExtRefLockTimeout
  exact whenDue_within (atNs_within hs _) _ _ fun _ h => loseRef_within (onTb_within h _)
theorem execUpstreamTimeout_within (hs : Within P s₀ s) (ns : Nat) : AnswerWithin P s₀ (execUpstreamTimeout ns s) := by
  unfold execUpstreamTimeout
  exact whenDue_within (atNs_within hs _) _ _ fun _ h => ite_within (fun _ => onTb_within h _) fun _ => holdOver_within h _
theorem execReferenceInputLoss_within (hs : Within P s₀ s) (ns : Nat) : AnswerWithin P s₀ (execReferenceInputLoss ns s) := by
  unfold execReferenceInputLoss
  exact whenDue_within (atNs_within hs _) _ _ fun _ h => holdOver_within h _
theorem execHeartbeatSend_within (hs : Within P s₀ s) (hPorts : P.ports = true) (ns : Nat) : AnswerWithin P s₀ (execHeartbeatSend ns s) := by
  unfold execHeartbeatSend
  exact next_within (forAll_within (atNs_within hs _) _ _ fun _ _ h => putMgmt_within h hPorts ..)
theorem execHeartbeatTimeout_within (hs : Within P s₀ s) (hPorts : P.ports = true) (p : PortId) (ns : Nat) :
    AnswerWithin P s₀ (execHeartbeatTimeout p ns s) := by
  unfold execHeartbeatTimeout
  exact whenDue_within (atNs_within hs _) _ _ fun _ h => linkAlarm_within (onPort_within h hPorts ..) _
theorem execIdentFlit_within (hs : Within P s₀ s) (hPorts : P.ports = true) (p : PortId) (pos : BitVec 16) (identity : Nat) (f : Flit) :
    AnswerWithin P s₀ (execIdentFlit p pos identity f s) := by
  unfold execIdentFlit
  exact next_within (ite_within (fun _ => portTo_within (onPort_within (takeMgmt_within hs _) hPorts ..) hPorts ..) fun _ => onPort_within
      (takeMgmt_within hs _) hPorts ..)
theorem execSurveyFlit_within (hs : Within P s₀ s) (hPorts : P.ports = true) (p : PortId) (ns : Nat) (f : Flit) :
    AnswerWithin P s₀ (execSurveyFlit p ns f s) := by
  unfold execSurveyFlit
  exact iteAnswer_within (fun _ => next_within (takeMgmt_within (atNs_within hs _) _)) fun _ => iteAnswer_within (fun _ => next_within
      (ite_within (fun _ => hubSetBit_within (onHl_within (takeMgmt_within (atNs_within hs _) _) _) ..) fun _ => takeMgmt_within
      (atNs_within hs _) _)) fun _ => next_within (putMgmt_within (forwardSurvey_within (onHl_within (ite_within (fun _ => hubSetBit_within
      (onHl_within (takeMgmt_within (atNs_within hs _) _) _) ..) fun _ => takeMgmt_within (atNs_within hs _) _) _) hPorts ..) hPorts ..)
theorem execReportFlit_within (hs : Within P s₀ s) (hPorts : P.ports = true) (p : PortId) (f : Flit) :
    AnswerWithin P s₀ (execReportFlit p f s) := by
  unfold execReportFlit
  dsimp only
  split
  · exact next_within (ite_within (fun _ => takeMgmt_within hs _) fun _ => putMgmt_within (takeMgmt_within hs _) hPorts ..)
  · exact iteAnswer_within (fun _ => next_within (onHl_within (takeMgmt_within hs _) _)) fun _ => next_within (onHl_within (takeMgmt_within
        hs _) _)
theorem execPowerFailFlit_within (hs : Within P s₀ s) (hPorts : P.ports = true) (p : PortId) (ns : Nat) :
    AnswerWithin P s₀ (execPowerFailFlit p ns s) := by
  unfold execPowerFailFlit
  exact whenDue_within (atNs_within hs _) _ _ fun _ h => leaveUp_within h hPorts ..
theorem execPartnerFlit_within (hs : Within P s₀ s) (hPorts : P.ports = true) (_p : PortId) (f : Flit) :
    AnswerWithin P s₀ (execPartnerFlit _p f s) := by
  unfold execPartnerFlit
  refine next_within ?_
  split
  · exact partnerQuery_within (takeMgmt_within hs _) hPorts ..
  · exact pairAnswer_within (takeMgmt_within hs _) ..
  · exact partnerAnswer_within (takeMgmt_within hs _) hPorts ..
  · exact partnerAnswer_within (takeMgmt_within hs _) hPorts ..
  · exact takeMgmt_within hs _
theorem execAdoptFlit_within (hs : Within P s₀ s) (_p : PortId) (f : Flit) : AnswerWithin P s₀ (execAdoptFlit _p f s) := by
  unfold execAdoptFlit
  exact next_within (ite_within (fun _ => takeMgmt_within hs _) fun _ => onHl_within (takeMgmt_within hs _) _)
theorem execLsEnable_within (hs : Within P s₀ s) (v : Word) : AnswerWithin P s₀ (execLsEnable v s) := by
  unfold execLsEnable
  exact next_within (lsCfgWrite_within hs _)
theorem execFoldMessageSend_within (hs : Within P s₀ s) (hCores : P.cores = true) (hPorts : P.ports = true) (ns : Nat) :
    AnswerWithin P s₀ (execFoldMessageSend ns s) := by
  unfold execFoldMessageSend
  exact iteAnswer_within (fun _ => next_within (atNs_within hs _)) fun _ => iteAnswer_within (fun _ => next_within (forAll_within
      (sendFolds_within (onLs_within (atNs_within hs _) _) hPorts _) _ _ fun _ _ h => ite_within (fun _ => lsKeep_within h hCores ..) fun _
      => h)) fun _ => whenDue_within (atNs_within hs _) _ _ fun _ h => sendFolds_within (onLs_within h _) hPorts _
theorem execFoldMessageArrival_within (hs : Within P s₀ s) (hCores : P.cores = true) (hdr : Row) (payload : List Row) :
    AnswerWithin P s₀ (execFoldMessageArrival hdr payload s) := by
  unfold execFoldMessageArrival
  exact whenDue_within (takeMsg_within hs _) _ _ fun _ h => forAll_within h _ _ fun _ _ h1 => lsPeer_within h1 hCores _
theorem execWeightLoad_within (hs : Within P s₀ s) (hPorts : P.ports = true) (src : CmdSrc) (x : CtxId) (w : WgtCmd) :
    AnswerWithin P s₀ (execWeightLoad src x w s) := by
  unfold execWeightLoad
  exact hlCommand_within hs hPorts _ _ _ _ fun _ h => ite_within (fun _ => reply_within h hPorts ..) fun _ => wgtCommand_within h hPorts _ _
      _ _ _ _ fun _ h1 => ite_within (fun _ => wgtDone_within h1 hPorts ..) fun _ => h1
theorem execWeightKeys_within (hs : Within P s₀ s) (hPorts : P.ports = true) (src : CmdSrc) (x : CtxId) (rsa slh : BitVec 384) :
    AnswerWithin P s₀ (execWeightKeys src x rsa slh s) := by
  unfold execWeightKeys
  exact hlCommand_within hs hPorts _ _ _ _ fun _ h => reply_within (onWgt_within h ..) hPorts ..
theorem execWeightVerify_within (hs : Within P s₀ s) (hPorts : P.ports = true) (src : CmdSrc) (x : CtxId) (w : WgtCmd) :
    AnswerWithin P s₀ (execWeightVerify src x w s) := by
  unfold execWeightVerify
  exact hlCommand_within hs hPorts _ _ _ _ fun _ h => ite_within (fun _ => reply_within h hPorts ..) fun _ => wgtCommand_within h hPorts _ _
      _ _ _ _ fun _ h1 => ite_within (fun _ => wgtDone_within h1 hPorts ..) fun _ => forAll_within h1 _ _ fun _ _ h2 => queueDigest_within
      h2 ..
theorem execChunkReleaseSend_within (hs : Within P s₀ s) (hPorts : P.ports = true) (x : CtxId) (chunk : Nat) :
    AnswerWithin P s₀ (execChunkReleaseSend x chunk s) := by
  unfold execChunkReleaseSend
  split
  · exact next_within hs
  · dsimp only
    split
    · exact next_within hs
    · exact whenDue_within hs _ _ fun _ h => wgtNotice_within (onSlot_within h ..) hPorts ..
theorem execReleaseNotice_within (hs : Within P s₀ s) (hPorts : P.ports = true) (hdr : Row) : AnswerWithin P s₀ (execReleaseNotice hdr s) := by
  unfold execReleaseNotice
  exact onNotice_within hs _ _ fun _ _ h => ite_within (fun _ => wgtDone_within (forwardChunks_within (onSlot_within h ..) hPorts ..) hPorts
      ..) fun _ => forwardChunks_within (onSlot_within h ..) hPorts ..
theorem execReRequestNotice_within (hs : Within P s₀ s) (hPorts : P.ports = true) (hdr : Row) :
    AnswerWithin P s₀ (execReRequestNotice hdr s) := by
  unfold execReRequestNotice
  refine iteAnswer_within (fun _ => next_within (wgtNotice_within (takeMsg_within hs _) hPorts ..)) fun _ => onNotice_within hs _ _ fun _ _
      h => ?_
  dsimp only
  split
  · exact ite_within (fun _ => wgtNotice_within h hPorts ..) fun _ => ite_within (fun _ => resendShard_within h hPorts ..) fun _ =>
        wgtNotice_within (onShard_within h ..) hPorts ..
  · exact h
theorem execWaitNotice_within (hs : Within P s₀ s) (hPorts : P.ports = true) (ns : Nat) (hdr : Row) :
    AnswerWithin P s₀ (execWaitNotice ns hdr s) := by
  unfold execWaitNotice
  refine onNotice_within (atNs_within hs _) _ _ fun _ _ h => ?_
  dsimp only
  split
  · exact ite_within (fun _ => onShard_within h ..) fun _ => wgtNotice_within h hPorts ..
  · exact h
theorem execUnavailableNotice_within (hs : Within P s₀ s) (hPorts : P.ports = true) (hdr : Row) :
    AnswerWithin P s₀ (execUnavailableNotice hdr s) := by
  unfold execUnavailableNotice
  refine onNotice_within hs _ _ fun _ _ h => ?_
  dsimp only
  split
  · exact ite_within (fun _ => ite_within (fun _ => wgtFail_within h hPorts ..) fun _ => toHostShard_within h hPorts ..) fun _ =>
        wgtNotice_within h hPorts ..
  · exact h
theorem execShardDigestStart_within (hs : Within P s₀ s) (d : DieId) : AnswerWithin P s₀ (execShardDigestStart d s) := by
  unfold execShardDigestStart
  dsimp only
  split
  · exact next_within hs
  · refine iteAnswer_within (fun _ => next_within hs) fun _ => ?_
    split
    · exact next_within hs
    · exact next_within (onHub_within hs _)
theorem execShardDigestComplete_within (hs : Within P s₀ s) (hPorts : P.ports = true) (d : DieId) (ns : Nat) (e : Fin 4) :
    AnswerWithin P s₀ (execShardDigestComplete d ns e s) := by
  unfold execShardDigestComplete
  dsimp only
  split
  · exact next_within (atNs_within hs _)
  · split
    · exact next_within (onHub_within (atNs_within hs _) _)
    · exact next_within (ite_within (fun _ => ite_within (fun _ => onShard_within (noteLate_within (onHub_within (atNs_within hs _) _) ..)
          ..) fun _ => recheckFailed_within (noteLate_within (onHub_within (atNs_within hs _) _) ..) hPorts ..) fun _ => ite_within (fun _
          => shardPassed_within (onHub_within (atNs_within hs _) _) hPorts ..) fun _ => failAttempt_within (onHub_within (atNs_within hs _)
          _) hPorts ..)
theorem execWeightWindowExpiry_within (hs : Within P s₀ s) (hPorts : P.ports = true) (x : CtxId) (ns : Nat) (shard : Nat) :
    AnswerWithin P s₀ (execWeightWindowExpiry x ns shard s) := by
  unfold execWeightWindowExpiry
  dsimp only
  split
  · exact next_within (failAttempt_within (atNs_within hs _) hPorts ..)
  · exact next_within (atNs_within hs _)
theorem execTurn_within (hs : Within P s₀ s) (hPorts : P.ports = true) (src : CmdSrc) (x : CtxId) : AnswerWithin P s₀ (execTurn src x s) := by
  unfold execTurn
  exact hlCommand_within hs hPorts _ _ _ _ fun _ h => ite_within (fun _ => reply_within h hPorts ..) fun _ => reply_within (onSlot_within
      (ite_within (fun _ => emptySlot_within (onWgt_within (ite_within (fun _ => dropDigests_within h ..) fun _ => h) ..) ..) fun _ =>
      onSlot_within (onWgt_within (ite_within (fun _ => dropDigests_within h ..) fun _ => h) ..) ..) ..) hPorts ..
theorem execReqBegin_within (hs : Within P s₀ s) (hCores : P.cores = true) (c : CoreId) : AnswerWithin P s₀ (execReqBegin c s) := by
  unfold execReqBegin
  exact next_within (reqBeginOp_within hs hCores _)
theorem execReqJoin_within (hs : Within P s₀ s) (hCores : P.cores = true) (c : CoreId) : AnswerWithin P s₀ (execReqJoin c s) := by
  unfold execReqJoin
  exact next_within (reqJoinOp_within hs hCores _)
theorem execReqEnd_within (hs : Within P s₀ s) (hCores : P.cores = true) (hPorts : P.ports = true) (c : CoreId) :
    AnswerWithin P s₀ (execReqEnd c s) := by
  unfold execReqEnd
  exact next_within (reqEndOp_within hs hCores hPorts _)
theorem execRecheckDue_within (hs : Within P s₀ s) (x : CtxId) (slot : Fin 2) (ns : Nat) (shard : Nat) :
    AnswerWithin P s₀ (execRecheckDue x slot ns shard s) := by
  unfold execRecheckDue
  dsimp only
  split
  · exact next_within (atNs_within hs _)
  · exact whenDue_within (ite_within (fun _ => noteLate_within (atNs_within hs _) ..) fun _ => atNs_within hs _) _ _ fun _ h =>
        queueDigest_within (onShard_within h ..) ..
theorem execMirrorHeaderLand_within (hs : Within P s₀ s) (hPorts : P.ports = true) (fromPos : BitVec 16) (addr : Nat) :
    AnswerWithin P s₀ (execMirrorHeaderLand fromPos addr s) := by
  unfold execMirrorHeaderLand
  exact next_within (sendMgmt_within hs hPorts ..)
theorem execUpdEnd_within (hs : Within P s₀ s) (w : Writer) (x : CtxId) : AnswerWithin P s₀ (execUpdEnd w x s) := by
  unfold execUpdEnd
  exact next_within (updEndOp_within hs ..)
theorem execSnapshotNow_within (hs : Within P s₀ s) (w : Writer) (x : CtxId) (ns : Nat) : AnswerWithin P s₀ (execSnapshotNow w x ns s) := by
  unfold execSnapshotNow
  exact next_within (snapshotNowOp_within (atNs_within hs _) ..)
theorem execSnapshotStart_within (hs : Within P s₀ s) (x : CtxId) (ns : Nat) : AnswerWithin P s₀ (execSnapshotStart x ns s) := by
  unfold execSnapshotStart
  exact whenDue_within (atNs_within hs _) _ _ fun _ h => startSnapshot_within h _
theorem execSnapshotChunkCopied_within (hs : Within P s₀ s) (hCores : P.cores = true) (hDies : P.dies = true) (hPorts : P.ports = true) (x :
    CtxId) (chunk : Reading Nat) :
    AnswerWithin P s₀ (execSnapshotChunkCopied x chunk s) := by
  unfold execSnapshotChunkCopied
  dsimp only
  split
  · exact whenDue_within hs _ _ fun _ h => forAll_within (onSnp_within (storeChunk_within (readCopied_within h hCores hDies ..) ..) ..) _ _
        fun _ _ h1 => sendPartnerChunk_within h1 hPorts ..
  · exact next_within hs
theorem execPartnerChunkNotice_within (hs : Within P s₀ s) (hPorts : P.ports = true) (fromPos : BitVec 16) (ctx : CtxId) (slotAddr : Nat)
    (entry : BitVec 512) :
    AnswerWithin P s₀ (execPartnerChunkNotice fromPos ctx slotAddr entry s) := by
  unfold execPartnerChunkNotice
  exact iteAnswer_within (fun _ => next_within hs) fun _ => whenDue_within hs _ _ fun _ h => sendMgmt_within (ite_within (fun _ =>
      hostRows_within h ..) fun _ => h) hPorts ..
theorem execPartnerNoticeTimeout_within (hs : Within P s₀ s) (x : CtxId) (ns : Nat) : AnswerWithin P s₀ (execPartnerNoticeTimeout x ns s) := by
  unfold execPartnerNoticeTimeout
  dsimp only
  split
  · exact next_within (atNs_within hs _)
  · split
    · exact next_within (atNs_within hs _)
    · exact next_within (headlandFault_within (abandonSnapshot_within (atNs_within hs _) _) _)
theorem execSnapshotSigned_within (hs : Within P s₀ s) (hPorts : P.ports = true) (x : CtxId) : AnswerWithin P s₀ (execSnapshotSigned x s) := by
  unfold execSnapshotSigned
  dsimp only
  split
  · exact next_within hs
  · exact whenDue_within hs _ _ fun _ h => forAll_within (onSnp_within (writeStore_within h ..) ..) _ _ fun _ _ h1 =>
        sendPartnerChunk_within h1 hPorts ..
theorem execPartnerCheck_within (hs : Within P s₀ s) (hPorts : P.ports = true) (x : CtxId) (second : Bool) (v : Word) :
    AnswerWithin P s₀ (execPartnerCheck x second v s) := by
  unfold execPartnerCheck
  exact next_within (partnerWrite_within hs hPorts ..)
theorem execRiskEvaluation_within (hs : Within P s₀ s) (ns : Nat) : AnswerWithin P s₀ (execRiskEvaluation ns s) := by
  unfold execRiskEvaluation
  exact whenDue_within (atNs_within hs _) _ _ fun _ h => ite_within (fun _ => forAll_within (onHub_within h _) _ _ fun _ _ h1 => ite_within
      (fun _ => startSnapshot_within h1 _) fun _ => h1) fun _ => onHub_within h _
theorem execRestore_within (hs : Within P s₀ s) (hPorts : P.ports = true) (src : CmdSrc) (x : CtxId) (r : RestoreCmd) :
    AnswerWithin P s₀ (execRestore src x r s) := by
  unfold execRestore
  exact hlCommand_within hs hPorts _ _ _ _ fun _ h => ite_within (fun _ => reply_within h hPorts ..) fun _ => ite_within (fun _ =>
      reply_within h hPorts ..) fun _ => startRestore_within h hPorts ..
theorem execReplayStep_within (hs : Within P s₀ s) (hDies : P.dies = true) (hPorts : P.ports = true) (x : CtxId) :
    AnswerWithin P s₀ (execReplayStep x s) := by
  unfold execReplayStep
  dsimp only
  split
  · exact next_within hs
  · refine whenDue_within hs _ _ fun _ h => ?_
    split
    · exact onRst_within (replayTo_within h hDies ..) ..
    · exact replyDone_within (hubSetBit_within (onSnp_within (onAdv_within h ..) ..) ..) hPorts ..
theorem execStepChangeRequest_within (hs : Within P s₀ s) (hDies : P.dies = true) (d : DieId) (target : Fin 8) :
    AnswerWithin P s₀ (execStepChangeRequest d target s) := by
  unfold execStepChangeRequest
  exact whenDue_within hs _ _ fun _ h => forAll_within h _ _ fun _ _ h1 => onDie_within h1 hDies ..
theorem execClockStop_within (hs : Within P s₀ s) (hDies : P.dies = true) (d : DieId) (refEdge : Nat) :
    AnswerWithin P s₀ (execClockStop d refEdge s) := by
  unfold execClockStop
  exact whenDue_within hs _ _ fun _ h => forAll_within h _ _ fun _ _ h1 => onDie_within h1 hDies ..
theorem execClockRestart_within (hs : Within P s₀ s) (hCores : P.cores = true) (hDies : P.dies = true) (d : DieId) (refEdge : Nat) :
    AnswerWithin P s₀ (execClockRestart d refEdge s) := by
  unfold execClockRestart
  split
  · exact next_within hs
  · exact whenDue_within hs _ _ fun _ h => forAll_within (recomputePools_within (ite_within (fun _ => onPwr_within (forAll_within h _ _ fun
        _ _ h1 => restartDie_within h1 hCores hDies _) _) fun _ => forAll_within h _ _ fun _ _ h1 => restartDie_within h1 hCores hDies _)
        hDies) _ _ fun _ _ h1 => forAll_within h1 _ _ fun _ _ h2 => launchStep_within h2 hCores hDies _
theorem execDiePoolWrite_within (hs : Within P s₀ s) (hDies : P.dies = true) (w : Writer) (d : DieId) (v : Word) :
    AnswerWithin P s₀ (execDiePoolWrite w d v s) := by
  unfold execDiePoolWrite
  exact whenDue_within hs _ _ fun _ h => poolWrite_within h hDies ..
theorem execPwrBudgetWrite_within (hs : Within P s₀ s) (hDies : P.dies = true) (w : Writer) (v : Word) :
    AnswerWithin P s₀ (execPwrBudgetWrite w v s) := by
  unfold execPwrBudgetWrite
  exact whenDue_within hs _ _ fun _ h => budgetWrite_within h hDies ..
theorem execExpPoolWrite_within (hs : Within P s₀ s) (hDies : P.dies = true) (w : Writer) (d : DieId) (v : Word) :
    AnswerWithin P s₀ (execExpPoolWrite w d v s) := by
  unfold execExpPoolWrite
  exact whenDue_within hs _ _ fun _ h => expPoolWrite_within h hDies ..
theorem execOverheadUpdate_within (hs : Within P s₀ s) (hDies : P.dies = true) (watts : Nat) :
    AnswerWithin P s₀ (execOverheadUpdate watts s) := by
  unfold execOverheadUpdate
  exact whenDue_within hs _ _ fun _ h => recomputePools_within (onPwr_within h _) hDies
theorem execInputPowerCheck_within (hs : Within P s₀ s) (hDies : P.dies = true) (ns : Nat) (watts : Nat) :
    AnswerWithin P s₀ (execInputPowerCheck ns watts s) := by
  unfold execInputPowerCheck
  exact iteAnswer_within (fun _ => next_within (forAll_within (hubSetBit_within (onPwr_within (onPwr_within (atNs_within hs _) _) _) ..) _ _
      fun _ _ h => onDie_within h hDies ..)) fun _ => iteAnswer_within (fun _ => next_within (onPwr_within (onPwr_within (atNs_within hs _)
      _) _)) fun _ => iteAnswer_within (fun _ => next_within (forAll_within (onPwr_within (onPwr_within (atNs_within hs _) _) _) _ _ fun _ _
      h => onDie_within h hDies ..)) fun _ => next_within (onPwr_within (onPwr_within (atNs_within hs _) _) _)
theorem execSensorSample_within (hs : Within P s₀ s) (hCores : P.cores = true) (hDies : P.dies = true) (hPorts : P.ports = true) (readings :
    List Int) :
    AnswerWithin P s₀ (execSensorSample readings s) := by
  unfold execSensorSample
  exact next_within (ite_within (fun _ => thermalTrip_within (onPwr_within (forAll_within hs _ _ fun _ _ h => onDie_within h hDies ..) _)
      hCores hDies hPorts) fun _ => onPwr_within (forAll_within hs _ _ fun _ _ h => onDie_within h hDies ..) _)
theorem execThermalCheck_within (hs : Within P s₀ s) (hDies : P.dies = true) (ns : Nat) : AnswerWithin P s₀ (execThermalCheck ns s) := by
  unfold execThermalCheck
  exact next_within (ite_within (fun _ => attention_within (forAll_within (atNs_within hs _) _ _ fun _ _ h => onDie_within h hDies ..) _)
      fun _ => forAll_within (atNs_within hs _) _ _ fun _ _ h => onDie_within h hDies ..)
theorem execPwrTjClear_within (hs : Within P s₀ s) (hDies : P.dies = true) (d : DieId) : AnswerWithin P s₀ (execPwrTjClear d s) := by
  unfold execPwrTjClear
  exact next_within (tjClear_within hs hDies _)
theorem execSupplyOutOfRange_within (hs : Within P s₀ s) (backup : Bool) (ns : Nat) : AnswerWithin P s₀ (execSupplyOutOfRange backup ns s) := by
  unfold execSupplyOutOfRange
  exact next_within (inputOut_within (atNs_within hs _) _)
theorem execSupplyReturn_within (hs : Within P s₀ s) (ns : Nat) : AnswerWithin P s₀ (execSupplyReturn ns s) := by
  unfold execSupplyReturn
  exact whenDue_within (atNs_within hs _) _ _ fun _ h => switchTo_within h _
theorem execDroopEvent_within (hs : Within P s₀ s) (ns : Nat) : AnswerWithin P s₀ (execDroopEvent ns s) := by
  unfold execDroopEvent
  exact next_within (readVin_within (onHub_within (atNs_within hs _) _) _)
theorem execMateSenseChange_within (hs : Within P s₀ s) (isOpen : Bool) (ns : Nat) : AnswerWithin P s₀ (execMateSenseChange isOpen ns s) := by
  unfold execMateSenseChange
  exact next_within (ite_within (fun _ => unmate_within (atNs_within hs _)) fun _ => onPwr_within (atNs_within hs _) _)
theorem execPowerFail_within (hs : Within P s₀ s) (hCores : P.cores = true) (hDies : P.dies = true) (hPorts : P.ports = true) (ns : Nat) :
    AnswerWithin P s₀ (execPowerFail ns s) := by
  unfold execPowerFail
  exact whenDue_within (atNs_within hs _) _ _ fun _ h => shutDown_within (onPwr_within h _) hCores hDies hPorts
theorem execShutdownRailsOff_within (hs : Within P s₀ s) (hMem : P.mem = true) (hPorts : P.ports = true) (ns : Nat) :
    AnswerWithin P s₀ (execShutdownRailsOff ns s) := by
  unfold execShutdownRailsOff
  exact whenDue_within (atNs_within hs _) _ _ fun _ h => ite_within (fun _ => railsOff_within h hMem hPorts) fun _ => hubOff_within
      (railsOff_within h hMem hPorts) _
theorem execBoot_within (hs : Within P s₀ s) (hDies : P.dies = true) (hPorts : P.ports = true) (ns : Nat) :
    AnswerWithin P s₀ (execBoot ns s) := by
  unfold execBoot
  refine whenDue_within (atNs_within hs _) _ _ fun _ h => ?_
  split
  · exact attention_within (onHl_within h _) _
  · exact attention_within (trainDeep_within (forAll_within (onTb_within (bootCalibration_within (onHl_within h _) hDies) _) _ _ fun _ _ h
        => portTo_within h hPorts ..) hDies) _
theorem execStrapSample_within (hs : Within P s₀ s) (pos : BitVec 16) (main bkp : BitVec 8) (master : Bool) :
    AnswerWithin P s₀ (execStrapSample pos main bkp master s) := by
  unfold execStrapSample
  exact whenDue_within hs _ _ fun _ h => onTb_within (onHl_within (onHub_within h _) _) _
theorem execHostRowRead_within (hs : Within P s₀ s) (hCores : P.cores = true) (hDies : P.dies = true) (addr count tag : Nat) (err : ReadErr)
    :
    AnswerWithin P s₀ (execHostRowRead addr count tag err s) := by
  unfold execHostRowRead
  exact whenDue_within hs _ _ fun _ h => hostRead_within h hCores hDies ..
theorem execHostMessage_within (hs : Within P s₀ s) (hPorts : P.ports = true) (hdr : Row) (payload : List Row) :
    AnswerWithin P s₀ (execHostMessage hdr payload s) := by
  unfold execHostMessage
  exact whenDue_within hs _ _ fun _ h => ite_within (fun _ => hubBounce_within (onHl_within h _) ..) fun _ => hostDepart_within (onHl_within
      h _) hPorts _
theorem execHostInboxPlace_within (hs : Within P s₀ s) (hPorts : P.ports = true) : AnswerWithin P s₀ (execHostInboxPlace s) := by
  unfold execHostInboxPlace
  dsimp only
  split
  · split
    · exact whenDue_within hs _ _ fun _ h => placeInbox_within h hPorts ..
    · exact next_within hs
  · exact next_within hs
theorem execHostInboxRptrWrite_within (hs : Within P s₀ s) (v : Word) : AnswerWithin P s₀ (execHostInboxRptrWrite v s) := by
  unfold execHostInboxRptrWrite
  exact next_within (inboxRptr_within hs _)
theorem execHostFaultRptrWrite_within (hs : Within P s₀ s) (v : Word) : AnswerWithin P s₀ (execHostFaultRptrWrite v s) := by
  unfold execHostFaultRptrWrite
  exact next_within (faultRptr_within hs _)
theorem execSmbSegmentWrite_within (hs : Within P s₀ s) (i : Fin 16) (data : BitVec 256) : AnswerWithin P s₀ (execSmbSegmentWrite i data s) := by
  unfold execSmbSegmentWrite
  exact whenDue_within hs _ _ fun _ h => onHl_within h _
theorem execSmbSubmit_within (hs : Within P s₀ s) : AnswerWithin P s₀ (execSmbSubmit s) := by
  unfold execSmbSubmit
  exact whenDue_within hs _ _ fun _ h => onHl_within h _
theorem execSmbReplyRead_within (hs : Within P s₀ s) : AnswerWithin P s₀ (execSmbReplyRead s) := by
  unfold execSmbReplyRead
  exact whenDue_within hs _ _ fun _ h => onHl_within h _
theorem execContextCfg_within (hs : Within P s₀ s) (hCores : P.cores = true) (hPorts : P.ports = true) (src : CmdSrc) (x : CtxId) (mask :
    BitVec 128) (slot : Fin 4) (shared rt : Bool) (seed : BitVec 64) (map : List (BitVec 8)) :
    AnswerWithin P s₀ (execContextCfg src x mask slot shared rt seed map s) := by
  unfold execContextCfg
  exact hlCommand_within hs hPorts _ _ _ _ fun _ h => ite_within (fun _ => reply_within h hPorts ..) fun _ => ite_within (fun _ =>
      reply_within h hPorts ..) fun _ => reply_within (forAll_within h _ _ fun _ _ h1 => configCore_within h1 hCores ..) hPorts ..
theorem execCtxCfgCommit_within (hs : Within P s₀ s) (hCores : P.cores = true) (c : CoreId) (v : Word) :
    AnswerWithin P s₀ (execCtxCfgCommit c v s) := by
  unfold execCtxCfgCommit
  exact next_within (ctxCfgWrite_within hs hCores ..)
theorem execContextReset_within (hs : Within P s₀ s) (hCores : P.cores = true) (hPorts : P.ports = true) (src : CmdSrc) (x : CtxId) :
    AnswerWithin P s₀ (execContextReset src x s) := by
  unfold execContextReset
  exact hlCommand_within hs hPorts _ _ _ _ fun _ h => ite_within (fun _ => addReset_within h ..) fun _ => contextResetOp_within
      (addReset_within h ..) hCores hPorts _
theorem execCoreReset_within (hs : Within P s₀ s) (hCores : P.cores = true) (hDies : P.dies = true) (hPorts : P.ports = true) (src : CmdSrc)
    (mask : BitVec 128) :
    AnswerWithin P s₀ (execCoreReset src mask s) := by
  unfold execCoreReset
  exact hlCommand_within hs hPorts _ _ _ _ fun _ h => ite_within (fun _ => reply_within h hPorts ..) fun _ => ite_within (fun _ =>
      addReset_within h ..) fun _ => forAll_within (addReset_within h ..) _ _ fun _ _ h1 => coreResetOp_within h1 hCores hDies hPorts _
theorem execResetComplete_within (hs : Within P s₀ s) (hCores : P.cores = true) (hDies : P.dies = true) (hPorts : P.ports = true) :
    AnswerWithin P s₀ (execResetComplete s) := by
  unfold execResetComplete
  split
  · exact next_within hs
  · refine next_within ?_
    split
    · exact reply_within (ite_within (fun _ => forAll_within (onHl_within hs _) _ _ fun _ _ h => finishRing_within h hCores ..) fun _ =>
          ite_within (fun _ => forAll_within (onHl_within hs _) _ _ fun _ _ h => finishCore_within h hCores hDies ..) fun _ => ite_within
          (fun _ => onHl_within (trainDeep_within (onTb_within (onHl_within hs _) _) hDies) _) fun _ => onHl_within hs _) hPorts ..
    · exact ite_within (fun _ => forAll_within (onHl_within hs _) _ _ fun _ _ h => finishRing_within h hCores ..) fun _ => ite_within (fun _
          => forAll_within (onHl_within hs _) _ _ fun _ _ h => finishCore_within h hCores hDies ..) fun _ => ite_within (fun _ =>
          onHl_within (trainDeep_within (onTb_within (onHl_within hs _) _) hDies) _) fun _ => onHl_within hs _
theorem execCalImport_within (hs : Within P s₀ s) (hPorts : P.ports = true) (src : CmdSrc) (addr rows : Nat) :
    AnswerWithin P s₀ (execCalImport src addr rows s) := by
  unfold execCalImport
  exact hlCommand_within hs hPorts _ _ _ _ fun _ h => ite_within (fun _ => attention_within (reply_within (onHub_within h _) hPorts ..) _)
      fun _ => reply_within h hPorts ..
theorem execCalSelf_within (hs : Within P s₀ s) (hPorts : P.ports = true) (src : CmdSrc) (mask : BitVec 6) :
    AnswerWithin P s₀ (execCalSelf src mask s) := by
  unfold execCalSelf
  exact hlCommand_within hs hPorts _ _ _ _ fun _ h => attention_within (replyDone_within (selfCalibrate_within (reply_within h hPorts ..) _)
      hPorts ..) _
theorem execFwUpdate_within (hs : Within P s₀ s) (hPorts : P.ports = true) (src : CmdSrc) (addr rows : Nat) :
    AnswerWithin P s₀ (execFwUpdate src addr rows s) := by
  unfold execFwUpdate
  exact hlCommand_within hs hPorts _ _ _ _ fun _ h => replyDone_within (onHub_within (reply_within h hPorts ..) _) hPorts ..
theorem execRollbackCommit_within (hs : Within P s₀ s) (hPorts : P.ports = true) (src : CmdSrc) :
    AnswerWithin P s₀ (execRollbackCommit src s) := by
  unfold execRollbackCommit
  exact hlCommand_within hs hPorts _ _ _ _ fun _ h => ite_within (fun _ => reply_within h hPorts ..) fun _ => reply_within (onHub_within h
      _) hPorts ..
theorem execSurvey_within (hs : Within P s₀ s) (hPorts : P.ports = true) (src : CmdSrc) (ns : Nat) :
    AnswerWithin P s₀ (execSurvey src ns s) := by
  unfold execSurvey
  exact hlCommand_within (atNs_within hs _) hPorts _ _ _ _ fun _ h => ite_within (fun _ => reply_within h hPorts ..) fun _ => reply_within
      (forwardSurvey_within (onHl_within h _) hPorts ..) hPorts ..
theorem execCensusClose_within (hs : Within P s₀ s) (ns : Nat) : AnswerWithin P s₀ (execCensusClose ns s) := by
  unfold execCensusClose
  exact whenDue_within (atNs_within hs _) _ _ fun _ h => onHl_within (onHub_within h _) _
theorem execDrlTestGo_within (hs : Within P s₀ s) (hCores : P.cores = true) (c : CoreId) (ccCycle : Nat) :
    AnswerWithin P s₀ (execDrlTestGo c ccCycle s) := by
  unfold execDrlTestGo
  exact whenDue_within hs _ _ fun _ h => onE_within h hCores ..
theorem execDrlTestDone_within (hs : Within P s₀ s) (hCores : P.cores = true) (c : CoreId) (ccCycle : Nat) :
    AnswerWithin P s₀ (execDrlTestDone c ccCycle s) := by
  unfold execDrlTestDone
  split
  · exact next_within hs
  · exact whenDue_within hs _ _ fun _ h => onSc_within (onE_within h hCores ..) hCores ..
theorem execErrCounterClear_within (hs : Within P s₀ s) (hCores : P.cores = true) (hDies : P.dies = true) (u : ScrubUnit) :
    AnswerWithin P s₀ (execErrCounterClear u s) := by
  unfold execErrCounterClear
  refine next_within ?_
  split
  · exact onM_within hs hCores ..
  · exact onDie_within hs hDies ..
  · exact onDie_within hs hDies ..
theorem execCmnFixedWrite_within (hs : Within P s₀ s) (hDies : P.dies = true) (w : Writer) (d : DieId) (v : Word) :
    AnswerWithin P s₀ (execCmnFixedWrite w d v s) := by
  unfold execCmnFixedWrite
  exact whenDue_within hs _ _ fun _ h => fixedWrite_within h hDies ..
theorem execTimeBaseTick_within (hs : Within P s₀ s) : AnswerWithin P s₀ (execTimeBaseTick s) := by
  unfold execTimeBaseTick
  exact next_within (ite_within (fun _ => onHub_within hs _) fun _ => onHub_within hs _)
theorem execSupplyInRange_within (hs : Within P s₀ s) (backup : Bool) (ns : Nat) : AnswerWithin P s₀ (execSupplyInRange backup ns s) := by
  unfold execSupplyInRange
  exact whenDue_within (atNs_within hs _) _ _ fun _ h => switchOver_within (onPwr_within h _)

/-! ### Every command -/

/-- The parts that a command may reach. -/
def reach (i : Instr) : Parts := ⟨!storesNothing i, !leavesCores i, !leavesDies i, !leavesPorts i⟩

theorem answerWithin_all {a : Answer} (h : AnswerKeeps s a) : AnswerWithin ⟨true, true, true, true⟩ s a :=
  let ⟨t, ht, _⟩ := h
  ⟨t, ht, within_all s t⟩

theorem exec_within (i : Instr) (s : State) : AnswerWithin (reach i) s (exec i s) := by
  have h := within_refl (reach i) s
  cases i with
  | plgCounterClear => exact execPlgCounterClear_within h rfl ..
  | hrwCounterClear => exact execHrwCounterClear_within h rfl ..
  | hrwSumClear => exact execHrwSumClear_within h rfl ..
  | tlrCounterClear => exact execTlrCounterClear_within h rfl ..
  | stepAdvance => exact execStepAdvance_within h rfl ..
  | stepAdvanceEvaluate => exact execStepAdvanceEvaluate_within h rfl ..
  | stepAdvanceCommit => exact execStepAdvanceCommit_within h rfl rfl ..
  | privStepArm => exact execPrivStepArm_within h ..
  | traceEnable => exact execTraceEnable_within h rfl ..
  | traceDropClear => exact execTraceDropClear_within h rfl ..
  | loadImage => exact execLoadImage_within h rfl ..
  | loadCheckComplete => exact execLoadCheckComplete_within h rfl rfl ..
  | ccStart => exact execCcStart_within h rfl rfl ..
  | ccHalt => exact execCcHalt_within h rfl rfl ..
  | faultLostClear => exact execFaultLostClear_within h rfl ..
  | coreProgram => exact execCoreProgram_within h rfl rfl rfl ..
  | holdGrantArrival => exact execHoldGrantArrival_within h rfl rfl ..
  | bounceArrival => exact execBounceArrival_within h rfl ..
  | msgCounterClear => exact execMsgCounterClear_within h rfl ..
  | frameTransmit => exact execFrameTransmit_within h rfl ..
  | frameReceive => exact execFrameReceive_within h rfl ..
  | leadFlitTimeout => exact execLeadFlitTimeout_within h rfl ..
  | portTrainingComplete => exact execPortTrainingComplete_within h rfl ..
  | portTrain => exact execPortTrain_within h rfl ..
  | portDisable => exact execPortDisable_within h rfl ..
  | lnkCounterClear => exact execLnkCounterClear_within h rfl ..
  | routeEntryWrite => exact execRouteEntryWrite_within h ..
  | lnkTorusWrite => exact execLnkTorusWrite_within h ..
  | remoteReadRequest => exact execRemoteReadRequest_within h rfl rfl rfl ..
  | tbSetWrite => exact execTbSetWrite_within h ..
  | extRefLock => exact execExtRefLock_within h ..
  | extRefLockTimeout => exact execExtRefLockTimeout_within h ..
  | upstreamTimeout => exact execUpstreamTimeout_within h ..
  | referenceInputLoss => exact execReferenceInputLoss_within h ..
  | heartbeatSend => exact execHeartbeatSend_within h rfl ..
  | heartbeatTimeout => exact execHeartbeatTimeout_within h rfl ..
  | identFlit => exact execIdentFlit_within h rfl ..
  | surveyFlit => exact execSurveyFlit_within h rfl ..
  | reportFlit => exact execReportFlit_within h rfl ..
  | powerFailFlit => exact execPowerFailFlit_within h rfl ..
  | partnerFlit p f => exact execPartnerFlit_within h rfl p f
  | adoptFlit p f => exact execAdoptFlit_within h p f
  | lsEnable => exact execLsEnable_within h ..
  | foldMessageSend => exact execFoldMessageSend_within h rfl rfl ..
  | foldMessageArrival => exact execFoldMessageArrival_within h rfl ..
  | weightLoad => exact execWeightLoad_within h rfl ..
  | weightKeys => exact execWeightKeys_within h rfl ..
  | weightVerify => exact execWeightVerify_within h rfl ..
  | chunkReleaseSend => exact execChunkReleaseSend_within h rfl ..
  | releaseNotice => exact execReleaseNotice_within h rfl ..
  | reRequestNotice => exact execReRequestNotice_within h rfl ..
  | waitNotice => exact execWaitNotice_within h rfl ..
  | unavailableNotice => exact execUnavailableNotice_within h rfl ..
  | shardDigestStart => exact execShardDigestStart_within h ..
  | shardDigestComplete => exact execShardDigestComplete_within h rfl ..
  | weightWindowExpiry => exact execWeightWindowExpiry_within h rfl ..
  | turn => exact execTurn_within h rfl ..
  | reqBegin => exact execReqBegin_within h rfl ..
  | reqJoin => exact execReqJoin_within h rfl ..
  | reqEnd => exact execReqEnd_within h rfl rfl ..
  | recheckDue => exact execRecheckDue_within h ..
  | mirrorHeaderLand => exact execMirrorHeaderLand_within h rfl ..
  | updEnd => exact execUpdEnd_within h ..
  | snapshotNow => exact execSnapshotNow_within h ..
  | snapshotStart => exact execSnapshotStart_within h ..
  | snapshotChunkCopied => exact execSnapshotChunkCopied_within h rfl rfl rfl ..
  | partnerChunkNotice => exact execPartnerChunkNotice_within h rfl ..
  | partnerNoticeTimeout => exact execPartnerNoticeTimeout_within h ..
  | snapshotSigned => exact execSnapshotSigned_within h rfl ..
  | partnerCheck => exact execPartnerCheck_within h rfl ..
  | riskEvaluation => exact execRiskEvaluation_within h ..
  | restore => exact execRestore_within h rfl ..
  | replayStep => exact execReplayStep_within h rfl rfl ..
  | stepChangeRequest => exact execStepChangeRequest_within h rfl ..
  | clockStop => exact execClockStop_within h rfl ..
  | clockRestart => exact execClockRestart_within h rfl rfl ..
  | diePoolWrite => exact execDiePoolWrite_within h rfl ..
  | pwrBudgetWrite => exact execPwrBudgetWrite_within h rfl ..
  | expPoolWrite => exact execExpPoolWrite_within h rfl ..
  | overheadUpdate => exact execOverheadUpdate_within h rfl ..
  | inputPowerCheck => exact execInputPowerCheck_within h rfl ..
  | sensorSample => exact execSensorSample_within h rfl rfl rfl ..
  | thermalCheck => exact execThermalCheck_within h rfl ..
  | pwrTjClear => exact execPwrTjClear_within h rfl ..
  | supplyOutOfRange => exact execSupplyOutOfRange_within h ..
  | supplyReturn => exact execSupplyReturn_within h ..
  | droopEvent => exact execDroopEvent_within h ..
  | mateSenseChange => exact execMateSenseChange_within h ..
  | powerFail => exact execPowerFail_within h rfl rfl rfl ..
  | shutdownRailsOff => exact execShutdownRailsOff_within h rfl rfl ..
  | boot => exact execBoot_within h rfl rfl ..
  | strapSample => exact execStrapSample_within h ..
  | hostRowRead => exact execHostRowRead_within h rfl rfl ..
  | hostMessage => exact execHostMessage_within h rfl ..
  | hostInboxPlace => exact execHostInboxPlace_within h rfl
  | hostInboxRptrWrite => exact execHostInboxRptrWrite_within h ..
  | hostFaultRptrWrite => exact execHostFaultRptrWrite_within h ..
  | smbSegmentWrite => exact execSmbSegmentWrite_within h ..
  | smbSubmit => exact execSmbSubmit_within h
  | smbReplyRead => exact execSmbReplyRead_within h
  | contextCfg => exact execContextCfg_within h rfl rfl ..
  | ctxCfgCommit => exact execCtxCfgCommit_within h rfl ..
  | contextReset => exact execContextReset_within h rfl rfl ..
  | coreReset => exact execCoreReset_within h rfl rfl rfl ..
  | resetComplete => exact execResetComplete_within h rfl rfl rfl
  | calImport => exact execCalImport_within h rfl ..
  | calSelf => exact execCalSelf_within h rfl ..
  | fwUpdate => exact execFwUpdate_within h rfl ..
  | rollbackCommit => exact execRollbackCommit_within h rfl ..
  | survey => exact execSurvey_within h rfl ..
  | censusClose => exact execCensusClose_within h ..
  | drlTestGo => exact execDrlTestGo_within h rfl ..
  | drlTestDone => exact execDrlTestDone_within h rfl ..
  | errCounterClear => exact execErrCounterClear_within h rfl rfl ..
  | cmnFixedWrite => exact execCmnFixedWrite_within h rfl ..
  | timeBaseTick => exact execTimeBaseTick_within h
  | supplyInRange => exact execSupplyInRange_within h ..
  | _ => exact answerWithin_all (exec_keeps _ s)

/-- Settles O57: a command stays within the parts it may reach; rows, cores, dies and ports are read off those parts. -/
theorem commandsAreFramed : Obligations.CommandsAreFramed := by
  intro i s t h
  obtain ⟨u, hu, hmem, hcores, hdies, hports⟩ := exec_within i s
  cases hu.symm.trans h
  simp only [reach, Bool.not_eq_false'] at hmem hcores hdies hports
  refine ⟨fun hi => ⟨hmem hi, fun a => ?_⟩, fun hi c => ?_, fun hi d => ?_, fun hi p => ?_⟩
  · rw [readRow, readRow, hmem hi]
  · rw [State.core, State.core, hcores hi]
  · rw [State.die, State.die, hdies hi]
  · rw [State.port, State.port, hports hi]

end Sys2Proof.Machine
end

section
/-! SUPPORT. When a command takes effect, and which registers of a core the shared operations leave as they are. -/

namespace Sys2Proof.Machine

open Sys2Proof

/-! ### When a command takes effect -/

theorem completes_of_next {i : Instr} {s t : State} {p : State → Prop} (h : exec i s = .next t) (hp : p t) : Completes i s p := ⟨t, h, hp⟩

theorem whenDue_of_due {b : Bool} (h : b = true) (f : State → State) (s : State) : whenDue b f s = .next (f s) := by
  rw [whenDue, if_pos h]

theorem completes_of_due {i : Instr} {s : State} {b : Bool} {f : State → State} {p : State → Prop} (e : State → Answer) (h : b = true)
    (hp : p (f s)) (hi : exec i s = e s := by rfl) (he : e s = whenDue b f s := by rfl) : Completes i s p :=
  completes_of_next (hi.trans (he.trans (whenDue_of_due h f s))) hp

theorem atCore_of_due {c : CoreId} {n : Nat} {due : State → Bool} {s : State} (f : State → State) (h : due (advance c n s) = true) :
    atCore c n due f s = .next (f (advance c n s)) := by
  rw [atCore, if_pos h]

theorem completes_of_dueAt {i : Instr} {c : CoreId} {n : Nat} {due : State → Bool} {s : State} {f : State → State} {p : State → Prop}
    (e : State → Answer) (h : due (advance c n s) = true) (hp : p (f (advance c n s))) (hi : exec i s = e s := by rfl)
    (he : e s = atCore c n due f s := by rfl) : Completes i s p :=
  completes_of_next (hi.trans (he.trans (atCore_of_due f h))) hp

theorem inCycle_of_running {c : CoreId} {n : Nat} {s a : State} (f : State → State) (ha : a = hazardCheck c (advance c n s))
    (hrun : (a.sc c).run = .running) (hcyc : (a.sc c).stripCyc < stripLen (a.sc c)) (hblocked : blockedNow a c = []) :
    inCycle c n f s = .next (f a) := by
  subst ha
  rw [inCycle]
  simp [hrun, Nat.not_le.mpr hcyc, hblocked]

theorem issueCmd_of_issues {c : CoreId} {q : Queue} {op n : Nat} {w : IWord} {st : Strip} {s a : State}
    (f : IWord → Strip → State → State) (ha : a = hazardCheck c (advance c n s)) (h : Issues a c q op w st) :
    issueCmd c q op n f s = .next (f w st a) := by
  obtain ⟨hrun, hcyc, hblocked, hdue, hstrip, hop⟩ := h
  rw [issueCmd, inCycle_of_running _ ha hrun hcyc hblocked]
  simp [hdue, hstrip, hop]

/-! ### What the shared operations leave of a core's schedule part

Each mask clears the registers that an operation may alter; equal masks mean that every other register is as it was. -/

/-- A schedule part without the note of the bits that hardware set. -/
def Sched.unflagged (sc : Sched) : Sched := { sc with hwSet := (0, []) }

/-- A schedule part without what a credit request, a stall's release and a divergence's stop alter (R54, R72, R404). -/
def Sched.unsettled (sc : Sched) : Sched :=
  { sc with hwSet := (0, []), request := 0, stall := none, cause := .none, which := 0, run := .idle, stopping := false }

/-- A schedule part without what the end of a strip by a fault alters (R64). -/
def Sched.unended (sc : Sched) : Sched :=
  { sc.unsettled with schedCyc := 0, stallCyc := 0, stripCyc := 0, stripStall := 0, held := 0, lent := false, launch := none,
                      strip := none, launchPoint := 0, dlPosted := false, flights := [], ended := none }

/-- A register that a mask does not clear is the same in two schedule parts with equal masks. -/
theorem eq_of_mask {α : Type} (mask : Sched → Sched) (π : Sched → α) {a b : Sched} (h : mask a = mask b)
    (hπ : ∀ sc, π (mask sc) = π sc := by exact fun _ => rfl) : π a = π b :=
  (hπ a).symm.trans ((congrArg π h).trans (hπ b))

theorem unsettled_of_unflagged {a b : Sched} (h : a.unflagged = b.unflagged) : a.unsettled = b.unsettled :=
  show Sched.unsettled a.unflagged = Sched.unsettled b.unflagged from congrArg Sched.unsettled h

theorem unended_of_unsettled {a b : Sched} (h : a.unsettled = b.unsettled) : a.unended = b.unended :=
  show Sched.unended a.unsettled = Sched.unended b.unsettled from congrArg Sched.unended h

section
variable {α : Type} (π : Sched → α)

theorem proj_onCore {f : Core → Core} (c c' : CoreId) (s : State) (hf : ∀ k, π (f k).sc = π k.sc) :
    π ((s.onCore c f).sc c') = π (s.sc c') := by
  by_cases h : c = c'
  · subst h
    rw [State.onCore_sc_self, hf, State.sc]
  · rw [State.onCore_sc_ne _ _ _ _ h]

theorem proj_onSc {f : Sched → Sched} (c c' : CoreId) (s : State) (hf : ∀ sc, π (f sc) = π sc) :
    π ((s.onSc c f).sc c') = π (s.sc c') :=
  proj_onCore π c c' s fun k => hf k.sc
end

@[simp] theorem setBit_unflagged (off mask : Nat) (sc : Sched) : (setBit off mask sc).unflagged = sc.unflagged := rfl

@[simp] theorem onCore_raiseEvent_unflagged (b : Nat) (c c' : CoreId) (s : State) :
    ((s.onCore c (raiseEvent b)).sc c').unflagged = (s.sc c').unflagged :=
  proj_onCore Sched.unflagged c c' s fun _ => rfl

@[simp] theorem ccEvent_unflagged (b : Nat) (c c' : CoreId) (s : State) : ((ccEvent c b s).sc c').unflagged = (s.sc c').unflagged :=
  onCore_raiseEvent_unflagged b c c' s

/-- A fault record marks register bits and stores nothing else in the schedule part (R320, R321). -/
@[simp] theorem postFault_unflagged (f : Flt) (c c' : CoreId) (s : State) : ((postFault c f s).sc c').unflagged = (s.sc c').unflagged := by
  unfold postFault
  dsimp only
  rw [trace_sc, headlandCopy_sc]
  (repeat' split) <;> simp only [onCore_raiseEvent_unflagged, State.onCc_sc]

@[simp] theorem pushReq_unsettled (n : Nat) (c c' : CoreId) (s : State) : ((pushReq c n s).sc c').unsettled = (s.sc c').unsettled := by
  unfold pushReq
  dsimp only
  rw [proj_onSc Sched.unsettled, State.onDie_sc]
  exact fun _ => rfl

@[simp] theorem dropRequests_unsettled (c c' : CoreId) (s : State) :
    ((dropRequests c s).sc c').unsettled = (s.sc c').unsettled := by
  unfold dropRequests
  rw [proj_onSc Sched.unsettled, State.onDie_sc]
  exact fun _ => rfl

/-- The release of a stall sets its cycle and may ask lent credit back (R54, R72). -/
@[simp] theorem checkRelease_unsettled (c c' : CoreId) (s : State) : ((checkRelease c s).sc c').unsettled = (s.sc c').unsettled := by
  have hrel (st : Stall) : ((s.onSc c fun sc => { sc with stall := some { st with released := some sc.wall } }).sc c').unsettled =
      (s.sc c').unsettled := proj_onSc Sched.unsettled c c' s fun _ => rfl
  unfold checkRelease
  split
  · dsimp only
    split
    · split
      · exact hrel _
      · rw [pushReq_unsettled, proj_onSc Sched.unsettled, hrel]
        exact fun _ => rfl
    · rfl
  · rfl

@[simp] theorem faultCore_unsettled (c c' : CoreId) (s : State) : ((faultCore c s).sc c').unsettled = (s.sc c').unsettled := by
  refine proj_onSc Sched.unsettled c c' s fun sc => ?_
  cases sc.run with
  | running | idle | faulted => rfl
  | stalled =>
    dsimp only
    split <;> rfl

/-- A divergence makes a record and may fault a core (R404), whichever core it is. -/
@[simp] theorem lsCompare_unsettled (a b : FoldRec) (ctx cyc : Nat) (s : State) (c' : CoreId) :
    ((lsCompare a b ctx cyc s).sc c').unsettled = (s.sc c').unsettled := by
  have hpost (c : CoreId) (f : Flt) (t : State) : ((postFault c f t).sc c').unsettled = (t.sc c').unsettled :=
    unsettled_of_unflagged (postFault_unflagged f c c' t)
  unfold lsCompare
  dsimp only
  split
  · split <;> simp only [State.onLs_sc]
  · split
    · simp only [State.onLs_sc, headlandFault_sc, attention_sc, hubSetBit_sc]
    · split <;> simp only [faultCore_unsettled, hpost, State.onLs_sc, attention_sc, hubSetBit_sc]

@[simp] theorem lsKeep_unsettled (r : FoldRec) (ctx cyc : Nat) (s : State) (c' : CoreId) :
    ((lsKeep r ctx cyc s).sc c').unsettled = (s.sc c').unsettled := by
  unfold lsKeep
  dsimp only
  (repeat' split) <;> simp only [lsCompare_unsettled, lsGap_sc, State.onLs_sc]

@[simp] theorem handFold_unsettled (fault : Bool) (c c' : CoreId) (s : State) :
    ((handFold c fault s).sc c').unsettled = (s.sc c').unsettled := by
  unfold handFold lsLocal
  dsimp only
  split <;> simp only [lsKeep_unsettled, State.onLs_sc, State.onE_sc]

/-- The end of a strip by a fault leaves stakes, handle queues and late items (R64). -/
@[simp] theorem endByFault_unended (c c' : CoreId) (s : State) : ((endByFault c s).sc c').unended = (s.sc c').unended := by
  unfold endByFault
  dsimp only
  rw [proj_onSc Sched.unended, dropOrdered_sc, unended_of_unsettled (dropRequests_unsettled _ _ _), State.onE_sc]
  · have hcount : ((if (s.sc c).run != .stalled then s
        else s.onSc c fun sc => { sc with stallCyc := sc.stallCyc + 1, stripStall := satAdd 0xFFFFFFFF sc.stripStall 1 }).sc c').unended =
        (s.sc c').unended := by
      split
      · rfl
      · exact proj_onSc Sched.unended c c' s fun _ => rfl
    split
    · rw [unended_of_unsettled (unsettled_of_unflagged (ccEvent_unflagged _ _ _ _)), trace_sc,
        unended_of_unsettled (handFold_unsettled _ _ _ _), hcount]
    · exact hcount
  · intro sc
    split <;> rfl

/-- A schedule part without HAZARD and CHECK, and without what the end of a strip alters (R77). -/
def Sched.unchecked (sc : Sched) : Sched := { sc.unended with hazard := false, check := 0 }

theorem unchecked_of_unended {a b : Sched} (h : a.unended = b.unended) : a.unchecked = b.unchecked :=
  show Sched.unchecked a.unended = Sched.unchecked b.unended from congrArg Sched.unchecked h

@[simp] theorem hazardStop_unchecked (c c' : CoreId) (source tag check row : Nat) (s : State) :
    ((hazardStop c source tag check row s).sc c').unchecked = (s.sc c').unchecked := by
  have hend (t : State) : ((endByFault c t).sc c').unchecked = (t.sc c').unchecked :=
    unchecked_of_unended (endByFault_unended c c' t)
  have hpost (f : Flt) (t : State) : ((postFault c f t).sc c').unchecked = (t.sc c').unchecked :=
    unchecked_of_unended (unended_of_unsettled (unsettled_of_unflagged (postFault_unflagged f c c' t)))
  unfold hazardStop
  dsimp only
  rw [hend, proj_onSc Sched.unchecked, hpost]
  exact fun _ => rfl

/-- A schedule part without its stakes and STK_OVF, and without what a stop alters (R44). -/
def Sched.unstaked (sc : Sched) : Sched := { sc.unchecked with stk := Vector.replicate 48 0, stkOvf := false }

theorem unstaked_of_unchecked {a b : Sched} (h : a.unchecked = b.unchecked) : a.unstaked = b.unstaked :=
  show Sched.unstaked a.unchecked = Sched.unstaked b.unchecked from congrArg Sched.unstaked h

/-- An addition alters stakes alone, but for what it releases or stops (R42, R44, R54). -/
@[simp] theorem addStake_unstaked (c c' : CoreId) (k n source tag : Nat) (s : State) :
    ((addStake c k n source tag s).sc c').unstaked = (s.sc c').unstaked := by
  have harr : ((arriveStake c k n s).sc c').unstaked = (s.sc c').unstaked := by
    have hadd (sc : Sched) : (stakeAdd sc k n).unstaked = sc.unstaked := by
      unfold stakeAdd
      dsimp only
      (repeat' split) <;> rfl
    rw [arriveStake, unstaked_of_unchecked (unchecked_of_unended (unended_of_unsettled (checkRelease_unsettled _ _ _))),
      proj_onSc Sched.unstaked _ _ _ hadd]
  unfold addStake
  dsimp only
  split
  · rw [unstaked_of_unchecked (hazardStop_unchecked _ _ _ _ _ _ _), harr]
  · exact harr

end Sys2Proof.Machine
end

section
/-! SUPPORT. Settles O3: the queue operations (R40, R42, R57, R58). -/

namespace Sys2Proof.Machine

open Sys2Proof

/- Elaborated one by one, the proofs do not wait for one another's equation lemmas. -/
set_option Elab.async false

theorem qIdx_lt (q : Queue) : qIdx q < 4 := by
  cases q <;> decide

/-- Where the instruction stands in its queue and in flight once it has issued. -/
theorem issueWord_sc_self {c : CoreId} {st : Strip} {s : State} (q : Queue) (w : IWord) (base busy comp : Nat) (own sum : Bool)
    (h : (s.sc c).strip = some st) :
    (issueWord c q w base busy comp own sum s).sc c = { s.sc c with
      qpos := vset (s.sc c).qpos (qIdx q) ⟨(vget (s.sc c).qpos ⟨0, 0, 0⟩ (qIdx q)).idx + 1, base, busy⟩
      flights := (s.sc c).flights ++ [⟨q, wTag w, comp, physStk (s.sc c) st (wCstk w), wCstkN w, own, sum⟩] } := by
  simp [issueWord, h]

/-- A schedule part without its queue positions and the instructions in flight. -/
def Sched.unissued (sc : Sched) : Sched := { sc with qpos := Vector.replicate 4 ⟨0, 0, 0⟩, flights := [] }

@[simp] theorem issueWord_unissued (c c' : CoreId) (q : Queue) (w : IWord) (base busy comp : Nat) (own sum : Bool) (s : State) :
    ((issueWord c q w base busy comp own sum s).sc c').unissued = (s.sc c').unissued := by
  unfold issueWord
  dsimp only
  split
  · rfl
  · rw [trace_sc, proj_onSc Sched.unissued]
    exact fun _ => rfl

@[simp] theorem issueNeutral_unissued (c c' : CoreId) (q : Queue) (w : IWord) (s : State) :
    ((issueNeutral c q w s).sc c').unissued = (s.sc c').unissued :=
  issueWord_unissued ..

/-! ### Handle queues (R57, R58) -/

theorem hqAppend_hq_of_room (m : Mem1) {sc : Sched} {q : Nat} (h : Nat) (hq : q < 8) (hroom : (vget sc.hq [] q).length < 8) :
    vget (hqAppend m sc q h).hq [] q = vget sc.hq [] q ++ [⟨h, handleGen m h⟩] := by
  simp [hqAppend, hroom, vget_vset_self _ _ _ _ hq]

theorem hqAppend_hq0_stk (m : Mem1) (sc : Sched) (q h : Nat) : (hqAppend m sc q h).hq0 = sc.hq0 ∧ (hqAppend m sc q h).stk = sc.stk := by
  unfold hqAppend
  dsimp only
  split <;> exact ⟨rfl, rfl⟩

/-- The queue field of an instruction word has 3 bits. -/
theorem wHq_lt (w : IWord) : wHq w < 8 :=
  Nat.mod_lt _ (by decide)

/-! ### The queue operations in their due cycle -/

theorem wait_issues {c : CoreId} {q : Queue} {n : Nat} {w : IWord} {st : Strip} {s a : State} (ha : a = hazardCheck c (advance c n s))
    (h : Issues a c q 0 w st) : Completes (.wait c q n) s fun t =>
      vget (t.sc c).qpos ⟨0, 0, 0⟩ (qIdx q) = ⟨(vget (a.sc c).qpos ⟨0, 0, 0⟩ (qIdx q)).idx + 1, (a.sc c).stripCyc + wWaitN w,
        (a.sc c).stripCyc + wWaitN w⟩ := by
  refine completes_of_next (issueCmd_of_issues _ ha h) ?_
  obtain ⟨-, -, -, -, hstrip, -⟩ := h
  rw [performWait, issueWord_sc_self _ _ _ _ _ _ _ hstrip]
  exact vget_vset_self _ _ _ _ (qIdx_lt q)

theorem stkSet_issues {c : CoreId} {q : Queue} {n : Nat} {w : IWord} {st : Strip} {s a : State} (ha : a = hazardCheck c (advance c n s))
    (h : Issues a c q 1 w st) (hk : physStk (a.sc c) st (wStk w) < 48) : Completes (.stkSet c q n) s fun t =>
      (vget (t.sc c).stk 0 (physStk (a.sc c) st (wStk w))).toNat =
        min 255 ((vget (a.sc c).stk 0 (physStk (a.sc c) st (wStk w))).toNat + wStkN w) ∧
      (t.sc c).stk0 = (a.sc c).stk0 ∧
      (t.sc c).stkOvf = ((a.sc c).stkOvf || decide (255 < (vget (a.sc c).stk 0 (physStk (a.sc c) st (wStk w))).toNat + wStkN w)) := by
  refine completes_of_next (issueCmd_of_issues _ ha h) ?_
  have hissue := issueNeutral_unissued c c q w a
  have hstk : ((issueNeutral c q w a).sc c).stk = (a.sc c).stk := eq_of_mask Sched.unissued Sched.stk hissue
  have hovf : ((issueNeutral c q w a).sc c).stkOvf = (a.sc c).stkOvf := eq_of_mask Sched.unissued Sched.stkOvf hissue
  have hstk0 : ((issueNeutral c q w a).sc c).stk0 = (a.sc c).stk0 := eq_of_mask Sched.unissued Sched.stk0 hissue
  unfold performStkSet
  obtain ⟨hsum, hsumOvf⟩ := addStake_stk_stkOvf c (physStk (a.sc c) st (wStk w)) (wStkN w) (qIdx q) (wTag w) (issueNeutral c q w a)
  refine ⟨?_, ?_, ?_⟩
  · rw [hsum, toNat_vget_stakeAdd_stk _ _ hk, hstk, Nat.min_comm]
  · exact (eq_of_mask Sched.unstaked Sched.stk0 (addStake_unstaked c c _ _ _ _ _)).trans hstk0
  · rw [hsumOvf, stakeAdd_stkOvf _ _ hk, hovf, hstk]

theorem stkWait_issues {c : CoreId} {q : Queue} {n : Nat} {w : IWord} {st : Strip} {s a : State} (ha : a = hazardCheck c (advance c n s))
    (h : Issues a c q 2 w st) : Completes (.stkWait c q n) s fun t =>
      (t.sc c).stk = vset (a.sc c).stk (physStk (a.sc c) st (wStk w))
        (vget (a.sc c).stk 0 (physStk (a.sc c) st (wStk w)) - BitVec.ofNat 8 (wStkN w)) ∧
      (t.sc c).stk0 = vset (a.sc c).stk0 (physStk (a.sc c) st (wStk w))
        (vget (a.sc c).stk0 0 (physStk (a.sc c) st (wStk w)) - BitVec.ofNat 8 (wStkN w)) ∧
      (t.sc c).hq = (a.sc c).hq := by
  refine completes_of_next (issueCmd_of_issues _ ha h) ?_
  have hissue (t : State) := issueNeutral_unissued c c q w t
  unfold performStkWait
  refine ⟨?_, ?_, ?_⟩
  · rw [eq_of_mask Sched.unissued Sched.stk (hissue _), takeStake, State.onSc_sc_self]
  · rw [eq_of_mask Sched.unissued Sched.stk0 (hissue _), takeStake, State.onSc_sc_self]
  · rw [eq_of_mask Sched.unissued Sched.hq (hissue _), takeStake, State.onSc_sc_self]

theorem hqPush_issues {c : CoreId} {q : Queue} {n : Nat} {w : IWord} {st : Strip} {s a : State} (ha : a = hazardCheck c (advance c n s))
    (h : Issues a c q 3 w st) (hroom : (vget (a.sc c).hq [] (wHq w)).length < 8) : Completes (.hqPush c q n) s fun t =>
      vget (t.sc c).hq [] (wHq w) = vget (a.sc c).hq [] (wHq w) ++
        [⟨physH (hdrShared st.hdr) st.slot (wHqH w), hGen (handle a c (physH (hdrShared st.hdr) st.slot (wHqH w)))⟩] ∧
      (t.sc c).hq0 = (a.sc c).hq0 ∧ (t.sc c).stk = (a.sc c).stk := by
  refine completes_of_next (issueCmd_of_issues _ ha h) ?_
  have hissue := issueNeutral_unissued c c q w
    (a.onCore c fun k => { k with sc := hqAppend k.m k.sc (wHq w) (physH (hdrShared st.hdr) st.slot (wHqH w)) })
  rw [State.onCore_sc_self] at hissue
  obtain ⟨hhq0, hstk⟩ := hqAppend_hq0_stk (a.cm c) (a.sc c) (wHq w) (physH (hdrShared st.hdr) st.slot (wHqH w))
  refine ⟨?_, (eq_of_mask Sched.unissued Sched.hq0 hissue).trans hhq0, (eq_of_mask Sched.unissued Sched.stk hissue).trans hstk⟩
  exact (eq_of_mask Sched.unissued (fun sc => vget sc.hq [] (wHq w)) hissue).trans (hqAppend_hq_of_room (a.cm c) _ (wHq_lt w) hroom)

theorem hqPop_issues {c : CoreId} {q : Queue} {n : Nat} {w : IWord} {st : Strip} {s a : State} {e : HqEntry} {es : List HqEntry}
    (ha : a = hazardCheck c (advance c n s)) (h : Issues a c q 4 w st) (hq : vget (a.sc c).hq [] (wHq w) = e :: es)
    (hcheck : debugMode a c = true → e.h = physH (hdrShared st.hdr) st.slot (wHqH w) ∧ e.gen = handleGen (a.cm c) e.h) :
    Completes (.hqPop c q n) s fun t =>
      vget (t.sc c).hq [] (wHq w) = es ∧ (t.sc c).hq0 = (a.sc c).hq0 ∧ (t.sc c).stk = (a.sc c).stk := by
  refine completes_of_next (issueCmd_of_issues _ ha h) ?_
  have hpass : (debugMode a c && (e.h != physH (hdrShared st.hdr) st.slot (wHqH w) ||
      e.gen != handleGen (a.cm c) (physH (hdrShared st.hdr) st.slot (wHqH w)))) = false := by
    cases hd : debugMode a c with
    | false => rfl
    | true =>
      obtain ⟨hh, hgen⟩ := hcheck hd
      simp [hh ▸ hgen, hh]
  unfold performHqPop
  simp only [hq, hpass, Bool.false_eq_true, if_false]
  have hissue (t : State) := issueNeutral_unissued c c q w t
  refine ⟨?_, ?_, ?_⟩
  · rw [eq_of_mask Sched.unissued Sched.hq (hissue _), State.onSc_sc_self, vget_vset_self _ _ _ _ (wHq_lt w)]
  · rw [eq_of_mask Sched.unissued Sched.hq0 (hissue _), State.onSc_sc_self]
  · rw [eq_of_mask Sched.unissued Sched.stk (hissue _), State.onSc_sc_self]

/-- Settles O3: each queue operation issues in its due cycle (R37, R40, R42, R57, R58). -/
theorem queueOperations : Obligations.QueueOperations := by
  intro c q n w st s a ha
  exact ⟨wait_issues ha, stkSet_issues ha, stkWait_issues ha, hqPush_issues ha, fun _ _ => hqPop_issues ha⟩

end Sys2Proof.Machine
end

section
/-! SUPPORT. Rules that many statements use: rows by their place (R83), locked rows, and what an operation of one core leaves. -/

namespace Sys2Proof.Machine

open Sys2Proof

/- Elaborated one by one, the proofs do not wait for one another's equation lemmas. -/
set_option Elab.async false

/-! ### Addresses of rows (R83) -/

theorem placeOf_plotAddr (c : CoreId) {row : Nat} (h : row < 12288) : placeOf (plotAddr c row) = .plot c row := by
  have hc := c.isLt
  have hlt : plotAddr c row < 0x80000000 := by unfold plotAddr; omega
  have hrow : plotAddr c row % 0x1000000 / 0x200 = row := by unfold plotAddr; omega
  have hcore : plotAddr c row / 0x1000000 = c.val := by unfold plotAddr; omega
  rw [placeOf, if_pos hlt, hrow, if_pos h, hcore]
  simp

theorem placeOf_cmnAddr (d : DieId) {row : Nat} (h : row < 2 ^ 22) : placeOf (cmnAddr d row) = .commons d row := by
  have hd := d.isLt
  have hlo : ¬ cmnAddr d row < 0x80000000 := by unfold cmnAddr; omega
  have hlo' : ¬ cmnAddr d row < 0x100000000 := by unfold cmnAddr; omega
  have hhi : cmnAddr d row < 0x500000000 := by unfold cmnAddr; omega
  have hrow : (cmnAddr d row - 0x100000000) % 0x80000000 / 0x200 = row := by unfold cmnAddr; omega
  have hdie : (cmnAddr d row - 0x100000000) / 0x80000000 = d.val := by unfold cmnAddr; omega
  rw [placeOf, if_neg hlo, if_neg hlo', if_pos hhi, hrow, hdie]
  simp

theorem placeOf_deepAddr (d : DieId) {row : Nat} (h : row < 23592960) : placeOf (deepAddr d row) = .deep d row := by
  have hd := d.isLt
  have hlo : ¬ deepAddr d row < 0x80000000 ∧ ¬ deepAddr d row < 0x100000000 ∧ ¬ deepAddr d row < 0x500000000 ∧
      ¬ deepAddr d row < 0x1000000000 := by unfold deepAddr; omega
  have hhi : deepAddr d row < 0x2800000000 := by unfold deepAddr; omega
  have hrow : (deepAddr d row - 0x1000000000) % 0x300000000 / 0x200 = row := by unfold deepAddr; omega
  have hdie : (deepAddr d row - 0x1000000000) / 0x300000000 = d.val := by unfold deepAddr; omega
  obtain ⟨h1, h2, h3, h4⟩ := hlo
  rw [placeOf, if_neg h1, if_neg h2, if_neg h3, if_neg h4, if_pos hhi, hrow, if_pos h, hdie]
  simp

theorem populated_plotAddr (c : CoreId) {row : Nat} (h : row < 12288) : populated (plotAddr c row) = true := by
  rw [populated, placeOf_plotAddr c h]

theorem populated_cmnAddr (d : DieId) {row : Nat} (h : row < 2 ^ 22) : populated (cmnAddr d row) = true := by
  rw [populated, placeOf_cmnAddr d h]

theorem populated_deepAddr (d : DieId) {row : Nat} (h : row < 23592960) : populated (deepAddr d row) = true := by
  rw [populated, placeOf_deepAddr d h]

theorem rowBase_rowBase (a : Nat) : rowBase (rowBase a) = rowBase a := by
  unfold rowBase
  omega

theorem rowBase_plotAddr (c : CoreId) (row : Nat) : rowBase (plotAddr c row) = plotAddr c row := by
  unfold rowBase plotAddr
  omega

theorem rowBase_cmnAddr (d : DieId) (row : Nat) : rowBase (cmnAddr d row) = cmnAddr d row := by
  unfold rowBase cmnAddr
  omega

theorem rowBase_deepAddr (d : DieId) (row : Nat) : rowBase (deepAddr d row) = deepAddr d row := by
  unfold rowBase deepAddr
  omega

/-! ### Reading rows -/

theorem readRow_congr {s t : State} (h : t.mem = s.mem) (a : Nat) : readRow t a = readRow s a := by
  rw [readRow, readRow, h]

theorem readRow_writeRow_self {a : Nat} (s : State) (r : Row) (h : populated a = true) : readRow (writeRow s a r) a = r := by
  rw [readRow_writeRow, if_pos ⟨h, rfl⟩]

theorem readRow_writeRow_ne {a b : Nat} (s : State) (r : Row) (h : rowBase b ≠ rowBase a) : readRow (writeRow s a r) b = readRow s b := by
  rw [readRow_writeRow, if_neg fun hab => h hab.2]

/-- Whether software may write a row depends on the program images and the loads in progress alone (R32, R305). -/
theorem lockedRow_congr {s t : State} (himg : ∀ c, (t.cc c).img = (s.cc c).img) (hloads : t.hub.loads = s.hub.loads) (a : Nat) :
    lockedRow t a = lockedRow s a := by
  unfold lockedRow
  split <;> simp [himg, hloads]

theorem coreWrite_of_open {s : State} {a : Nat} (c : CoreId) (source tag ctx h logical : Nat) (r : Row) (hpop : populated a = true)
    (hopen : lockedRow s a = false) : coreWrite c source tag ctx h logical a r s = writeRow s a r := by
  simp [coreWrite, hpop, hopen]

/-! ### Operations of one core -/

theorem OnlyCore.refl (c : CoreId) (s : State) : OnlyCore c s s :=
  ⟨rfl, rfl, rfl, rfl, fun _ => rfl, fun _ => rfl, fun _ _ => rfl⟩

theorem OnlyCore.trans {c : CoreId} {s t u : State} (hst : OnlyCore c s t) (htu : OnlyCore c t u) : OnlyCore c s u := by
  obtain ⟨hp, hm, hn, hh, hd, hport, hc⟩ := hst
  obtain ⟨hp', hm', hn', hh', hd', hport', hc'⟩ := htu
  exact ⟨hp'.trans hp, hm'.trans hm, hn'.trans hn, hh'.trans hh, fun d => (hd' d).trans (hd d), fun p => (hport' p).trans (hport p),
    fun c' h => (hc' c' h).trans (hc c' h)⟩

section
variable (c : CoreId) (s : State)

theorem onlyCore_onCore (f : Core → Core) : OnlyCore c s (s.onCore c f) :=
  ⟨rfl, rfl, rfl, rfl, fun _ => rfl, fun _ => rfl, fun _ h => State.onCore_core_ne _ _ _ _ h.symm⟩

theorem onlyCore_onSc (f : Sched → Sched) : OnlyCore c s (s.onSc c f) := onlyCore_onCore c s _

theorem onlyCore_onM (f : Mem1 → Mem1) : OnlyCore c s (s.onM c f) := onlyCore_onCore c s _

theorem onlyCore_onE (f : Eng → Eng) : OnlyCore c s (s.onE c f) := onlyCore_onCore c s _

theorem onlyCore_onCc (f : Cc → Cc) : OnlyCore c s (s.onCc c f) := onlyCore_onCore c s _

theorem onlyCore_trace (q kind tag : Nat) : OnlyCore c s (trace c q kind tag s) := by
  unfold trace
  dsimp only
  split
  · exact onlyCore_onCc c s _
  · exact OnlyCore.refl c s

theorem onlyCore_issueWord (q : Queue) (w : IWord) (base busy comp : Nat) (own sum : Bool) :
    OnlyCore c s (issueWord c q w base busy comp own sum s) := by
  unfold issueWord
  dsimp only
  split
  · exact OnlyCore.refl c s
  · exact (onlyCore_onSc c s _).trans (onlyCore_trace c _ _ _ _)
end

end Sys2Proof.Machine
end

section
/-! SUPPORT. Commands of the Headland (R24, R493, R494): when one is taken up, what a reply may alter, and what the system manager then reads. -/

namespace Sys2Proof.Machine

open Sys2Proof

/- Elaborated one by one, the proofs do not wait for one another's equation lemmas. -/
set_option Elab.async false

/-- The Headland without what sending rows and messages may alter: its queues of messages, the writes on their way, its sequence number, the
fault records of a bounce, the attention bits and the reply that the system manager reads. -/
def Hl.unsent (l : Hl) : Hl :=
  { l with inQ := [], hlSeq := 0, held := [], hostMsgs := [], cmds := [], attn := 0, smbReply := 0, faults := [], fltWptr := 0, fltLost := 0,
           toHost := [], wout := [] }

/-- The hub without what sending a message may alter. -/
def Hub.unsent (h : Hub) : Hub := { h with hl := h.hl.unsent, ls := { h.ls with gap := false, gapCnt := 0 }, hwSet := (0, []) }

/-- Only messages of the Headland, and what their sending alters, differ between two states. -/
def Sends (s t : State) : Prop :=
  t.pending = s.pending ∧ t.mem = s.mem ∧ t.cores = s.cores ∧ t.dies = s.dies ∧ t.hub.unsent = s.hub.unsent

theorem Sends.refl (s : State) : Sends s s := ⟨rfl, rfl, rfl, rfl, rfl⟩

theorem Sends.trans {s t u : State} (hst : Sends s t) (htu : Sends t u) : Sends s u := by
  obtain ⟨hp, hm, hc, hd, hh⟩ := hst
  obtain ⟨hp', hm', hc', hd', hh'⟩ := htu
  exact ⟨hp'.trans hp, hm'.trans hm, hc'.trans hc, hd'.trans hd, hh'.trans hh⟩

theorem Sends.core {s t : State} (h : Sends s t) (c : CoreId) : t.core c = s.core c := by
  obtain ⟨-, -, hc, -, -⟩ := h
  rw [State.core, State.core, hc]

theorem Sends.die {s t : State} (h : Sends s t) (d : DieId) : t.die d = s.die d := by
  obtain ⟨-, -, -, hd, -⟩ := h
  rw [State.die, State.die, hd]

theorem Sends.mem {s t : State} (h : Sends s t) : t.mem = s.mem := h.2.1

/-- A register of the hub that sending does not alter. -/
theorem Sends.hub {α : Type} {s t : State} (h : Sends s t) (π : Hub → α) (hπ : ∀ k, π k.unsent = π k := by exact fun _ => rfl) :
    π t.hub = π s.hub := by
  obtain ⟨-, -, -, -, hh⟩ := h
  exact (hπ _).symm.trans ((congrArg π hh).trans (hπ _))

/-! ### Sending -/

section
variable {s₀ s : State}

theorem onHub_sends (h : Sends s₀ s) {f : Hub → Hub} (hf : ∀ k, (f k).unsent = k.unsent) : Sends s₀ (s.onHub f) :=
  h.trans ⟨rfl, rfl, rfl, rfl, hf s.hub⟩

theorem onHl_sends (h : Sends s₀ s) {f : Hl → Hl} (hf : ∀ l, (f l).unsent = l.unsent) : Sends s₀ (s.onHl f) :=
  onHub_sends h fun k => by
    unfold Hub.unsent
    rw [hf]

theorem forAll_sends {α : Type} (h : Sends s₀ s) (l : List α) {f : α → State → State} (hf : ∀ x t, Sends s₀ t → Sends s₀ (f x t)) :
    Sends s₀ (forAll l f s) :=
  forAll_inv (Sends s₀) l f s h fun x _ t ht => hf x t ht

theorem hubSetBit_sends (h : Sends s₀ s) (a mask : Nat) : Sends s₀ (hubSetBit a mask s) := by
  unfold hubSetBit
  exact onHub_sends h (by exact fun _ => rfl)

theorem attention_sends (h : Sends s₀ s) (bit : Nat) : Sends s₀ (attention bit s) := by
  unfold attention
  exact hubSetBit_sends (onHl_sends h (by exact fun _ => rfl)) _ _

theorem putItemAt_sends (h : Sends s₀ s) (depth : Nat) (i : Item) : Sends s₀ (putItemAt depth i s) := by
  induction depth generalizing i with
  | zero =>
    unfold putItemAt
    split
    · exact h.trans ⟨rfl, rfl, rfl, rfl, rfl⟩
    · exact h.trans ⟨rfl, rfl, rfl, rfl, rfl⟩
    · exact h
    · contradiction
  | succ n ih =>
    unfold putItemAt
    split
    case h_4 heq _ =>
      cases heq
      dsimp only
      split
      · exact h
      · exact ih _
    · exact h.trans ⟨rfl, rfl, rfl, rfl, rfl⟩
    · exact h.trans ⟨rfl, rfl, rfl, rfl, rfl⟩
    · exact h

theorem putItem_sends (h : Sends s₀ s) (i : Item) : Sends s₀ (putItem i s) := by
  unfold putItem
  exact putItemAt_sends h 2 i

theorem hostFault_sends (h : Sends s₀ s) (bits : BitVec 512) : Sends s₀ (hostFault bits s) := by
  unfold hostFault
  exact onHl_sends h fun l => by
    dsimp only
    split <;> rfl

theorem keepRecord_sends (h : Sends s₀ s) (bits : BitVec 512) : Sends s₀ (keepRecord bits s) := by
  unfold keepRecord
  exact attention_sends (onHl_sends h (by exact fun _ => rfl)) _

theorem headlandCopy_sends (h : Sends s₀ s) (cls : Nat) (bits : BitVec 512) : Sends s₀ (headlandCopy cls bits s) := by
  unfold headlandCopy
  dsimp only
  split
  · exact hostFault_sends (keepRecord_sends h bits) bits
  · exact keepRecord_sends h bits

theorem headlandFault_sends (h : Sends s₀ s) (f : Flt) : Sends s₀ (headlandFault f s) := by
  unfold headlandFault
  exact headlandCopy_sends h _ _

theorem lsGap_sends (h : Sends s₀ s) (n : Nat) : Sends s₀ (lsGap n s) := by
  unfold lsGap
  split
  · exact h
  · exact hubSetBit_sends (onHub_sends h (by exact fun _ => rfl)) _ _

theorem hubDone_sends (h : Sends s₀ s) (core seq : Nat) : Sends s₀ (hubDone core seq s) := by
  unfold hubDone
  exact onHl_sends h (by exact fun _ => rfl)

theorem hubBounce_sends (hs : Sends s₀ s) (h : Row) (reason : Nat) : Sends s₀ (hubBounce h reason s) := by
  have hdone := hubDone_sends hs (mhSendCore h) (mhSeq h)
  unfold hubBounce
  dsimp only
  have hgap : Sends s₀ (if mhSendCore h == 0xFE && mhTag h / 2 ^ 16 == 0x7E then
      lsGap (mhInline h 0 2) (hubDone (mhSendCore h) (mhSeq h) s) else hubDone (mhSendCore h) (mhSeq h) s) := by
    split
    · exact lsGap_sends hdone _
    · exact hdone
  split
  · exact hostFault_sends (keepRecord_sends hgap _) _
  · exact headlandFault_sends hgap _

theorem answerMsg_sends (hs : Sends s₀ s) (kind : ItemKind) (plane aux : Nat) (h : Row) : Sends s₀ (answerMsg kind plane aux h s) := by
  unfold answerMsg
  exact putItem_sends hs _

theorem bounceMsg_sends (hs : Sends s₀ s) (plane reason : Nat) (h : Row) : Sends s₀ (bounceMsg plane reason h s) := by
  unfold bounceMsg
  split
  · exact hubBounce_sends hs h reason
  · exact answerMsg_sends hs _ _ _ h

theorem hostEnqueue_sends (h : Sends s₀ s) (plane : Nat) (rows : List Row) : Sends s₀ (hostEnqueue plane rows s) := by
  unfold hostEnqueue
  split
  · exact h
  · dsimp only
    split_ifs
    iterate 4 exact bounceMsg_sends h _ _ _
    exact onHl_sends h (by exact fun _ => rfl)

theorem headlandLand_sends (h : Sends s₀ s) (plane : Nat) (rows : List Row) : Sends s₀ (headlandLand plane rows s) := by
  unfold headlandLand
  split
  · exact h
  · dsimp only
    split_ifs
    · exact bounceMsg_sends h _ _ _
    · exact bounceMsg_sends h _ _ _
    · exact hubDone_sends (onHl_sends h (by exact fun _ => rfl)) _ _
    · exact answerMsg_sends (onHl_sends h (by exact fun _ => rfl)) _ _ _ _

theorem hubDepart_sends (h : Sends s₀ s) (rows : List Row) : Sends s₀ (hubDepart rows s) := by
  unfold hubDepart
  split
  · exact h
  · dsimp only
    split_ifs
    · exact hostEnqueue_sends (onHl_sends h (by exact fun _ => rfl)) _ _
    · exact headlandLand_sends (onHl_sends h (by exact fun _ => rfl)) _ _
    · exact forAll_sends (onHl_sends h (by exact fun _ => rfl)) _ fun i _ ht => putItem_sends ht i

theorem headlandSendF_sends (h : Sends s₀ s) (flags destPos destCore ring tag inline : Nat) (payload : List Row) :
    Sends s₀ (headlandSendF flags destPos destCore ring tag inline payload s) := by
  unfold headlandSendF
  dsimp only
  (repeat' split)
  · exact hubDepart_sends (onHl_sends h (by exact fun _ => rfl)) _
  · exact onHl_sends (onHl_sends h (by exact fun _ => rfl)) (by exact fun _ => rfl)
  · exact hubDepart_sends (onHl_sends h (by exact fun _ => rfl)) _
  · exact onHl_sends (onHl_sends h (by exact fun _ => rfl)) (by exact fun _ => rfl)

theorem hubWrites_sends (h : Sends s₀ s) (pos a tag : Nat) (rows : List Row) : Sends s₀ (hubWrites pos a tag rows s) := by
  unfold hubWrites
  exact forAll_sends h _ fun _ _ ht => putItem_sends (onHl_sends ht (by exact fun _ => rfl)) _

theorem headlandSend_sends (h : Sends s₀ s) (destPos destCore ring tag inline : Nat) (payload : List Row) :
    Sends s₀ (headlandSend destPos destCore ring tag inline payload s) := by
  unfold headlandSend
  exact headlandSendF_sends h ..

theorem replyInline_sends (h : Sends s₀ s) (src : CmdSrc) (inline : Nat) : Sends s₀ (replyInline src inline s) := by
  unfold replyInline
  cases src.who with
  | manager => exact attention_sends (onHl_sends h (by exact fun _ => rfl)) _
  | host => exact headlandSend_sends h ..
  | core c => exact headlandSend_sends h ..

theorem reply_sends (h : Sends s₀ s) (src : CmdSrc) (cmd status detail : Nat) : Sends s₀ (reply src cmd status detail s) := by
  unfold reply
  exact replyInline_sends h src _

theorem replyDone_sends (h : Sends s₀ s) (src : CmdSrc) (cmd status : Nat) : Sends s₀ (replyDone src cmd status s) := by
  unfold replyDone
  exact reply_sends h ..

theorem takeCmd_sends (h : Sends s₀ s) (ring cmd : Nat) (src : CmdSrc) : Sends s₀ (takeCmd ring cmd src s) := by
  unfold takeCmd
  exact onHl_sends h (by exact fun _ => rfl)
end

/-! ### Commands and their replies -/

theorem attention_attn_self {bit : Nat} (s : State) (h : bit < 8) : (attention bit s).hub.hl.attn.getLsbD bit = true := by
  have hbit : (BitVec.ofNat 8 (2 ^ bit)).getLsbD bit = true := by
    rw [BitVec.getLsbD_ofNat, Nat.testBit_two_pow_self]
    simp [h]
  rw [attention]
  exact (BitVec.getLsbD_or ..).trans (by rw [hbit, Bool.or_true])

theorem replies_reply (src : CmdSrc) (cmd status detail : Nat) (s : State) : Replies src cmd status detail (reply src cmd status detail s) := by
  intro hwho
  unfold reply replyInline
  rw [hwho]
  exact ⟨rfl, attention_attn_self _ (by decide)⟩

/-- A command that the Headland takes up is performed once it has left the ring. -/
theorem hlCommand_of_takes {s : State} {cmd : Nat} {allowed : Who → Bool} {src : CmdSrc} (f : State → State)
    (h : TakesCommand s cmd allowed src) : hlCommand cmd allowed src f s = .next (f (takeCmd 0 cmd src s)) := by
  obtain ⟨hfail, hon, hallowed, hbusy⟩ := h
  have hbusy' : hlBusy (takeCmd 0 cmd src s) cmd = false := hbusy
  rw [hlCommand, whenDue_of_due (by simp [hfail, hon])]
  simp [hallowed, hbusy']

theorem completes_of_takes {i : Instr} {s : State} {cmd : Nat} {allowed : Who → Bool} {src : CmdSrc} {f : State → State} {p : State → Prop}
    (e : State → Answer) (h : TakesCommand s cmd allowed src) (hp : p (f (takeCmd 0 cmd src s))) (hi : exec i s = e s := by rfl)
    (he : e s = hlCommand cmd allowed src f s := by rfl) : Completes i s p :=
  completes_of_next (hi.trans (he.trans (hlCommand_of_takes f h))) hp

end Sys2Proof.Machine
end

section
/-! SUPPORT. What a fault record, an arrival and the end of a strip by a fault may alter (R44, R54, R60, R64, R320). -/

namespace Sys2Proof.Machine

open Sys2Proof

/- Elaborated one by one, the proofs do not wait for one another's equation lemmas. -/
set_option Elab.async false

/-- A schedule part without what arrivals, fault records and the end of a strip alter. -/
def Sched.unstirred (sc : Sched) : Sched :=
  { sc.unstaked with hq := Vector.replicate 8 [], hqp := Vector.replicate 8 0, pushed := [], heldArr := [] }

/-- The engines of a furrow without the work that the end of a strip discards, and without the state of the schedule fold. -/
def Eng.unstirred (e : Eng) : Eng :=
  { e with plg := [], hrw := [], bload := [], tlr := [], root := [], xfers := [], cmn := [], plgActive := none, writes := [],
           foldFinal := false, foldFault := false }

/-- A control core without its fault ring, events and trace, and without what its messages wait for. -/
def Cc.unstirred (k : Cc) : Cc :=
  { k with ring := [], lost := 0, lostBefore := false, seq := 0, events := 0, evAt := Vector.replicate 6 0, traceBuf := [], traceDrop := 0,
           sends := k.sends.map fun x => { x with ordered := [] } }

/-- A compute die without its list of credit requests. -/
def Die.unstirred (d : Die) : Die := { d with reqs := [] }

/-- The hub without its messages, fault records and the comparison of fold records. -/
def Hub.unstirred (h : Hub) : Hub :=
  { h.unsent with ls := { h.ls with configOk := false, gap := false, diverged := false, divCnt := 0, gapCnt := 0, matched := 0, enable := false,
                                    waiting := [], arrived := [], locals := [], peers := [], lastL := [], lastP := [] } }

/-- Nothing but what arrivals, fault records and ends of strips alter differs between two states. -/
structure Stirs (s t : State) : Prop where
  pending : t.pending = s.pending
  mem : t.mem = s.mem
  hubEq : t.hub.unstirred = s.hub.unstirred
  dieEq : ∀ d, (t.die d).unstirred = (s.die d).unstirred
  cm : ∀ c, t.cm c = s.cm c
  scEq : ∀ c, (t.sc c).unstirred = (s.sc c).unstirred
  enEq : ∀ c, (t.en c).unstirred = (s.en c).unstirred
  ccEq : ∀ c, (t.cc c).unstirred = (s.cc c).unstirred
  gate : ∀ c, (t.core c).gate = (s.core c).gate

theorem Stirs.refl (s : State) : Stirs s s :=
  ⟨rfl, rfl, rfl, fun _ => rfl, fun _ => rfl, fun _ => rfl, fun _ => rfl, fun _ => rfl, fun _ => rfl⟩

theorem Stirs.trans {s t u : State} (hst : Stirs s t) (htu : Stirs t u) : Stirs s u where
  pending := htu.pending.trans hst.pending
  mem := htu.mem.trans hst.mem
  hubEq := htu.hubEq.trans hst.hubEq
  dieEq d := (htu.dieEq d).trans (hst.dieEq d)
  cm c := (htu.cm c).trans (hst.cm c)
  scEq c := (htu.scEq c).trans (hst.scEq c)
  enEq c := (htu.enEq c).trans (hst.enEq c)
  ccEq c := (htu.ccEq c).trans (hst.ccEq c)
  gate c := (htu.gate c).trans (hst.gate c)

section
variable {α : Type} {s t : State} (h : Stirs s t)
include h

theorem Stirs.hub (π : Hub → α) (hπ : ∀ k, π k.unstirred = π k := by exact fun _ => rfl) : π t.hub = π s.hub :=
  (hπ _).symm.trans ((congrArg π h.hubEq).trans (hπ _))

theorem Stirs.die (d : DieId) (π : Die → α) (hπ : ∀ k, π k.unstirred = π k := by exact fun _ => rfl) : π (t.die d) = π (s.die d) :=
  (hπ _).symm.trans ((congrArg π (h.dieEq d)).trans (hπ _))

theorem Stirs.sc (c : CoreId) (π : Sched → α) (hπ : ∀ k, π k.unstirred = π k := by exact fun _ => rfl) : π (t.sc c) = π (s.sc c) :=
  (hπ _).symm.trans ((congrArg π (h.scEq c)).trans (hπ _))

theorem Stirs.en (c : CoreId) (π : Eng → α) (hπ : ∀ k, π k.unstirred = π k := by exact fun _ => rfl) : π (t.en c) = π (s.en c) :=
  (hπ _).symm.trans ((congrArg π (h.enEq c)).trans (hπ _))

theorem Stirs.cc (c : CoreId) (π : Cc → α) (hπ : ∀ k, π k.unstirred = π k := by exact fun _ => rfl) : π (t.cc c) = π (s.cc c) :=
  (hπ _).symm.trans ((congrArg π (h.ccEq c)).trans (hπ _))
end

theorem Sends.stirs {s t : State} (h : Sends s t) : Stirs s t where
  pending := h.1
  mem := h.mem
  hubEq := h.hub Hub.unstirred
  dieEq d := by rw [h.die]
  cm c := by rw [State.cm, h.core, State.cm]
  scEq c := by rw [State.sc, h.core, State.sc]
  enEq c := by rw [State.en, h.core, State.en]
  ccEq c := by rw [State.cc, h.core, State.cc]
  gate c := by rw [h.core]

/-! ### The operations -/

section
variable {s₀ s : State}

theorem onHub_stirs (h : Stirs s₀ s) {f : Hub → Hub} (hf : ∀ k, (f k).unstirred = k.unstirred) : Stirs s₀ (s.onHub f) :=
  h.trans ⟨rfl, rfl, hf s.hub, fun _ => rfl, fun _ => rfl, fun _ => rfl, fun _ => rfl, fun _ => rfl, fun _ => rfl⟩

theorem onCore_stirs (h : Stirs s₀ s) (c : CoreId) {f : Core → Core} (hm : ∀ k, (f k).m = k.m) (hsc : ∀ k, (f k).sc.unstirred = k.sc.unstirred)
    (he : ∀ k, (f k).e.unstirred = k.e.unstirred) (hcc : ∀ k, (f k).cc.unstirred = k.cc.unstirred) (hg : ∀ k, (f k).gate = k.gate) :
    Stirs s₀ (s.onCore c f) := by
  have hcore {β : Type} (π : Core → β) (hπ : ∀ k, π (f k) = π k) (c' : CoreId) : π ((s.onCore c f).core c') = π (s.core c') := by
    by_cases hc : c = c'
    · subst hc
      rw [State.onCore_core_self, hπ]
    · rw [State.onCore_core_ne _ _ _ _ hc]
  exact h.trans ⟨rfl, rfl, rfl, fun _ => rfl, hcore (fun k => k.m) hm, hcore (fun k => k.sc.unstirred) hsc,
    hcore (fun k => k.e.unstirred) he, hcore (fun k => k.cc.unstirred) hcc, hcore (fun k => k.gate) hg⟩

theorem onSc_stirs (h : Stirs s₀ s) (c : CoreId) {f : Sched → Sched} (hf : ∀ k, (f k).unstirred = k.unstirred) : Stirs s₀ (s.onSc c f) :=
  onCore_stirs h c (fun _ => rfl) (fun k => hf k.sc) (fun _ => rfl) (fun _ => rfl) fun _ => rfl

theorem onE_stirs (h : Stirs s₀ s) (c : CoreId) {f : Eng → Eng} (hf : ∀ k, (f k).unstirred = k.unstirred) : Stirs s₀ (s.onE c f) :=
  onCore_stirs h c (fun _ => rfl) (fun _ => rfl) (fun k => hf k.e) (fun _ => rfl) fun _ => rfl

theorem onCc_stirs (h : Stirs s₀ s) (c : CoreId) {f : Cc → Cc} (hf : ∀ k, (f k).unstirred = k.unstirred) : Stirs s₀ (s.onCc c f) :=
  onCore_stirs h c (fun _ => rfl) (fun _ => rfl) (fun _ => rfl) (fun k => hf k.cc) fun _ => rfl

theorem onDie_stirs (h : Stirs s₀ s) (d : DieId) {f : Die → Die} (hf : ∀ k, (f k).unstirred = k.unstirred) : Stirs s₀ (s.onDie d f) := by
  refine h.trans ⟨rfl, rfl, rfl, fun d' => ?_, fun _ => rfl, fun _ => rfl, fun _ => rfl, fun _ => rfl, fun _ => rfl⟩
  by_cases hd : d = d'
  · subst hd
    rw [State.onDie_die_self, hf]
  · rw [State.onDie_die_ne _ _ _ _ hd]

theorem raiseEvent_stirs (h : Stirs s₀ s) (c : CoreId) (b : Nat) : Stirs s₀ (s.onCore c (raiseEvent b)) :=
  onCore_stirs h c (fun _ => rfl) (fun _ => rfl) (fun _ => rfl) (fun _ => rfl) fun _ => rfl

theorem ccEvent_stirs (h : Stirs s₀ s) (c : CoreId) (b : Nat) : Stirs s₀ (ccEvent c b s) := raiseEvent_stirs h c b

theorem trace_stirs (h : Stirs s₀ s) (c : CoreId) (q kind tag : Nat) : Stirs s₀ (trace c q kind tag s) := by
  unfold trace
  dsimp only
  split
  · refine onCc_stirs h c fun k => ?_
    split <;> rfl
  · exact h

theorem headlandCopy_stirs (h : Stirs s₀ s) (cls : Nat) (bits : BitVec 512) : Stirs s₀ (headlandCopy cls bits s) :=
  h.trans (headlandCopy_sends (Sends.refl s) cls bits).stirs

theorem postFault_stirs (h : Stirs s₀ s) (c : CoreId) (f : Flt) : Stirs s₀ (postFault c f s) := by
  have hevent (b : Prop) [Decidable b] {t : State} (ht : Stirs s₀ t) : Stirs s₀ (if b then t.onCore c (raiseEvent 2) else t) := by
    split
    · exact raiseEvent_stirs ht c 2
    · exact ht
  unfold postFault
  dsimp only
  refine trace_stirs (headlandCopy_stirs (hevent _ (onCc_stirs h c fun k => ?_)) _ _) _ _ _ _
  (repeat' split) <;> rfl

theorem pushReq_stirs (h : Stirs s₀ s) (c : CoreId) (n : Nat) : Stirs s₀ (pushReq c n s) := by
  unfold pushReq
  exact onSc_stirs (onDie_stirs h _ (by exact fun _ => rfl)) c (by exact fun _ => rfl)

theorem dropRequests_stirs (h : Stirs s₀ s) (c : CoreId) : Stirs s₀ (dropRequests c s) := by
  unfold dropRequests
  exact onSc_stirs (onDie_stirs h _ (by exact fun _ => rfl)) c (by exact fun _ => rfl)

theorem dropOrdered_stirs (h : Stirs s₀ s) (c : CoreId) : Stirs s₀ (dropOrdered c s) := by
  unfold dropOrdered
  refine onCc_stirs h c fun k => ?_
  simp only [Cc.unstirred, List.map_map, Function.comp_def]

theorem checkRelease_stirs (h : Stirs s₀ s) (c : CoreId) : Stirs s₀ (checkRelease c s) := by
  unfold checkRelease
  split
  · dsimp only
    split
    · split
      · exact onSc_stirs h c (by exact fun _ => rfl)
      · exact pushReq_stirs (onSc_stirs (onSc_stirs h c (by exact fun _ => rfl)) c (by exact fun _ => rfl)) c _
    · exact h
  · exact h

theorem arriveStake_stirs (h : Stirs s₀ s) (c : CoreId) (k n : Nat) : Stirs s₀ (arriveStake c k n s) := by
  unfold arriveStake
  refine checkRelease_stirs (onSc_stirs h c fun sc => ?_) c
  unfold stakeAdd
  dsimp only
  (repeat' split) <;> rfl

theorem faultCore_stirs (h : Stirs s₀ s) (c : CoreId) : Stirs s₀ (faultCore c s) := by
  unfold faultCore
  refine onSc_stirs h c fun sc => ?_
  cases sc.run with
  | running | idle | faulted => rfl
  | stalled =>
    dsimp only
    split <;> rfl

theorem onLs_stirs (h : Stirs s₀ s) {f : Ls → Ls} (hf : ∀ k : Hub, { k with ls := f k.ls }.unstirred = k.unstirred) : Stirs s₀ (s.onLs f) :=
  onHub_stirs h hf

theorem lsGap_stirs (h : Stirs s₀ s) (n : Nat) : Stirs s₀ (lsGap n s) := h.trans (lsGap_sends (Sends.refl s) n).stirs

theorem lsCompare_stirs (h : Stirs s₀ s) (a b : FoldRec) (ctx cyc : Nat) : Stirs s₀ (lsCompare a b ctx cyc s) := by
  have hmatched : Stirs s₀ (s.onLs fun l => { l with matched := l.matched + 1 }) := onLs_stirs h (by exact fun _ => rfl)
  unfold lsCompare
  dsimp only
  split
  · split
    · exact onLs_stirs hmatched (by exact fun _ => rfl)
    · exact hmatched
  · have hdiv : Stirs s₀ (attention 4 (hubSetBit (hubBlock 0x50004) 8 ((s.onLs fun l => { l with matched := l.matched + 1 }).onLs fun l =>
        { l with diverged := true, divCnt := satAdd 0xFFFFFFFF l.divCnt 1 }))) :=
      (onLs_stirs hmatched (by exact fun _ => rfl)).trans (attention_sends (hubSetBit_sends (Sends.refl _) _ _) 4).stirs
    split
    · exact onLs_stirs (hdiv.trans (headlandFault_sends (Sends.refl _) _).stirs) (by exact fun _ => rfl)
    · split
      · exact faultCore_stirs (postFault_stirs hdiv _ _) _
      · exact postFault_stirs hdiv _ _

theorem lsKeep_stirs (h : Stirs s₀ s) (r : FoldRec) (ctx cyc : Nat) : Stirs s₀ (lsKeep r ctx cyc s) := by
  have hgap (n : Nat) (old : Ls → Ls) (hold : ∀ k : Hub, { k with ls := old k.ls }.unstirred = k.unstirred) :
      Stirs s₀ (lsGap n (s.onLs old)) := lsGap_stirs (onLs_stirs h hold) n
  unfold lsKeep
  dsimp only
  split
  · exact lsCompare_stirs (onLs_stirs (hgap _ _ (by exact fun _ => rfl)) (by exact fun _ => rfl)) _ _ _ _
  · split_ifs
    · exact lsGap_stirs (hgap _ _ (by exact fun _ => rfl)) 1
    · exact onLs_stirs (hgap _ _ (by exact fun _ => rfl)) (by exact fun _ => rfl)
    · exact lsGap_stirs (hgap _ _ (by exact fun _ => rfl)) 1

theorem handFold_stirs (h : Stirs s₀ s) (c : CoreId) (fault : Bool) : Stirs s₀ (handFold c fault s) := by
  have hfold : Stirs s₀ (s.onE c fun e => { e with foldFinal := true, foldFault := fault }) := onE_stirs h c (by exact fun _ => rfl)
  unfold handFold lsLocal
  dsimp only
  split
  · exact hfold
  · exact lsKeep_stirs (onLs_stirs hfold (by exact fun _ => rfl)) _ _ _

theorem endByFault_stirs (h : Stirs s₀ s) (c : CoreId) : Stirs s₀ (endByFault c s) := by
  unfold endByFault
  dsimp only
  refine onSc_stirs (dropOrdered_stirs (dropRequests_stirs (onE_stirs ?_ c (by exact fun _ => rfl)) c) c) c fun sc => ?_
  · have hcount : Stirs s₀ (if (s.sc c).run != .stalled then s
        else s.onSc c fun sc => { sc with stallCyc := sc.stallCyc + 1, stripStall := satAdd 0xFFFFFFFF sc.stripStall 1 }) := by
      split
      · exact h
      · exact onSc_stirs h c (by exact fun _ => rfl)
    split
    · exact ccEvent_stirs (trace_stirs (handFold_stirs hcount c true) c 0 6 0) c 0
    · exact hcount
  · split <;> rfl

theorem hazardStop_stirs (h : Stirs s₀ s) (c : CoreId) (source tag check row : Nat) : Stirs s₀ (hazardStop c source tag check row s) := by
  unfold hazardStop
  exact endByFault_stirs (onSc_stirs (postFault_stirs h c _) c (by exact fun _ => rfl)) c

theorem addStake_stirs (h : Stirs s₀ s) (c : CoreId) (k n source tag : Nat) : Stirs s₀ (addStake c k n source tag s) := by
  unfold addStake
  dsimp only
  split
  · exact hazardStop_stirs (arriveStake_stirs h c k n) c _ _ _ _
  · exact arriveStake_stirs h c k n

theorem performArrival_stirs (hs : Stirs s₀ s) (c : CoreId) (ahq : Option Nat) (h stk n tag : Nat) :
    Stirs s₀ (performArrival c ahq h stk n tag s) := by
  unfold performArrival
  dsimp only
  refine addStake_stirs (trace_stirs ?_ c _ _ _) c _ _ _ _
  split
  · refine onCore_stirs hs c (fun _ => rfl) (fun k => ?_) (fun _ => rfl) (fun _ => rfl) fun _ => rfl
    unfold hqAppend
    dsimp only
    split <;> rfl
  · exact hs

theorem arrive_stirs (hs : Stirs s₀ s) (c : CoreId) (ahq : Option Nat) (h stk n tag : Nat) (more : Nat → Nat) :
    Stirs s₀ (arrive c ahq h stk n tag more s) := by
  unfold arrive
  split
  · exact performArrival_stirs hs ..
  · split
    · exact performArrival_stirs hs ..
    · exact onSc_stirs hs c (by exact fun _ => rfl)

theorem arriveNow_stirs (hs : Stirs s₀ s) (c : CoreId) (ahq : Option Nat) (h stk n tag : Nat) :
    Stirs s₀ (arriveNow c ahq h stk n tag s) := arrive_stirs hs ..

theorem forAll_stirs {α : Type} (h : Stirs s₀ s) (l : List α) {f : α → State → State} (hf : ∀ x t, Stirs s₀ t → Stirs s₀ (f x t)) :
    Stirs s₀ (forAll l f s) :=
  forAll_inv (Stirs s₀) l f s h fun x _ t ht => hf x t ht
end

end Sys2Proof.Machine
end

section
/-! SUPPORT. Settles O16: the trace unit (R299 to R306). -/

namespace Sys2Proof.Machine

open Sys2Proof

/- Elaborated one by one, the proofs do not wait for one another's equation lemmas. -/
set_option Elab.async false

/-! ### The trace unit -/

theorem traceRowWrite_due {c : CoreId} {n row : Nat} {s a : State} (ha : a = advance c n s)
    (hr : row = (a.cc c).traceBase + (a.cc c).traceWptr % (a.cc c).traceRows) (hrow : row < 12288) (hbuf : 32 ≤ (a.cc c).traceBuf.length)
    (hrows : (a.cc c).traceRows ≠ 0) (hfree : free7Now a c 5 row = true) (hopen : lockedRow a (plotAddr c row) = false) :
    Completes (.traceRowWrite c n) s fun t =>
      readRow t (plotAddr c row) = packRow 128 (((a.cc c).traceBuf.take 32).map BitVec.toNat) ∧
      (t.cc c).traceBuf = (a.cc c).traceBuf.drop 32 ∧ (t.cc c).traceWptr = ((a.cc c).traceWptr + 1) % 2 ^ 32 ∧
      ∀ r, rowBase r ≠ plotAddr c row → readRow t r = readRow a r := by
  subst ha
  have hpop := populated_plotAddr c hrow
  have hr' : traceRow ((advance c n s).cc c) = row := hr.symm
  refine completes_of_next (t := writeRow ((use7 c row (advance c n s)).onCc c fun k =>
      { k with traceBuf := k.traceBuf.drop 32, traceWptr := (k.traceWptr + 1) % 2 ^ 32 })
    (plotAddr c row) (packRow 128 ((((advance c n s).cc c).traceBuf.take 32).map BitVec.toNat))) ?_ ?_
  · have hdue : (32 ≤ ((advance c n s).cc c).traceBuf.length && ((advance c n s).cc c).traceRows != 0 &&
        free7Now (advance c n s) c 5 row) = true := by simp [hbuf, hrows, hfree]
    have hlock : lockedRow ((use7 c row (advance c n s)).onCc c fun k =>
        { k with traceBuf := k.traceBuf.drop 32, traceWptr := (k.traceWptr + 1) % 2 ^ 32 }) (plotAddr c row) = false := by
      rw [lockedRow_congr _ _ _, hopen]
      · intro c'
        by_cases h : c = c'
        · subst h
          simp
        · simp [h]
      · simp
    show execTraceRowWrite c n s = _
    unfold execTraceRowWrite
    dsimp only
    rw [hr', whenDue_of_due hdue, if_pos hrow, coreWrite_of_open _ _ _ _ _ _ _ hpop hlock]
  · refine ⟨readRow_writeRow_self _ _ hpop, by simp, by simp, fun r hne => ?_⟩
    rw [readRow_writeRow_ne _ _ (by rwa [rowBase_plotAddr])]
    exact readRow_congr (by simp) r

theorem traceEnable_completes (c : CoreId) (v : Word) (s : State) : Completes (.traceEnable c v) s fun t =>
    (t.cc c).traceCfg = v.setWidth 9 ∧ OnlyCore c s t ∧
    (if v.getLsbD 0 ∧ (s.cc c).traceCfg.getLsbD 0 = false then (t.cc c).traceWptr = 0 ∧ (t.cc c).traceBuf = []
      else (t.cc c).traceWptr = (s.cc c).traceWptr ∧ (t.cc c).traceBuf = (s.cc c).traceBuf) := by
  refine completes_of_next (t := traceCfgWrite c v s) rfl ⟨?_, onlyCore_onCc c s _, ?_⟩
  · rw [traceCfgWrite, State.onCc_cc_self]
  · have hcond : (v.getLsbD 0 && !(s.cc c).traceCfg.getLsbD 0) = true ↔ v.getLsbD 0 = true ∧ (s.cc c).traceCfg.getLsbD 0 = false := by
      simp
    rw [traceCfgWrite, State.onCc_cc_self]
    split
    · rw [if_pos (hcond.mpr ‹_›)]
      exact ⟨rfl, rfl⟩
    · rw [if_neg fun h => ‹¬ _› (hcond.mp h)]
      exact ⟨rfl, rfl⟩

theorem traceDropClear_completes (c : CoreId) (s : State) : Completes (.traceDropClear c) s fun t =>
    t.cc c = { s.cc c with traceDrop := 0 } ∧ OnlyCore c s t :=
  completes_of_next (t := s.onCc c fun k => { k with traceDrop := 0 }) rfl ⟨State.onCc_cc_self _ _ _, onlyCore_onCc c s _⟩

/-- Settles O16: the oldest 32 records go to the next row of the ring, which is a Plot row of the core that software may write. -/
theorem traceUnit : Obligations.TraceUnit := by
  intro c n v s a ha
  exact ⟨fun _ hr hrow hbuf hrows hfree hopen => traceRowWrite_due ha hr hrow hbuf hrows hfree hopen, traceEnable_completes c v s,
    traceDropClear_completes c s⟩

end Sys2Proof.Machine
end

section
/-! SUPPORT. Settles O17: step advances (R266, R267, R436, R438). -/

namespace Sys2Proof.Machine

open Sys2Proof

/- Elaborated one by one, the proofs do not wait for one another's equation lemmas. -/
set_option Elab.async false

/-! ### Step advances -/

theorem advOf_onAdv_self (s : State) (x : CtxId) (f : AdvCtx → AdvCtx) : (s.onAdv x f).advOf x = f (s.advOf x) := by
  exact Vector.getElem_setIfInBounds_self _

theorem advOf_onHub_snp (s : State) (x : CtxId) (f : Hub → Vector SnpCtx 8) : (s.onHub fun h => { h with snp := f h }).advOf x = s.advOf x :=
  rfl

theorem Sends.advOf {s t : State} (h : Sends s t) (x : CtxId) : t.advOf x = s.advOf x :=
  h.hub fun k => k.adv.get x

theorem stepAdvance_taken {src : CmdSrc} {x : CtxId} {g : Nat} {s : State} (h : TakesCommand s 4 whoHSC src)
    (hnone : (s.advOf x).pending = none) (hg : g = (s.advOf x).step.toNat + 1) : Completes (.stepAdvance src x g) s fun t =>
      (t.advOf x).pending = some (g, src) ∧ (t.advOf x).evald = false ∧ (t.advOf x).step = (s.advOf x).step ∧ Replies src 4 0 0 t := by
  have htake : (takeCmd 0 4 src s).advOf x = s.advOf x := (takeCmd_sends (Sends.refl s) 0 4 src).advOf x
  refine completes_of_takes (execStepAdvance src x g) h ?_
  dsimp only
  have hsent (t : State) := (reply_sends (Sends.refl t) src 4 0 0).advOf x
  rw [htake, hnone]
  simp only [Option.isSome_none, Bool.false_eq_true, if_false, hg, bne_self_eq_false]
  refine ⟨?_, ?_, ?_, replies_reply _ _ _ _ _⟩ <;> rw [hsent, advOf_onAdv_self]
  rw [htake]

theorem stepAdvance_otherTarget {src : CmdSrc} {x : CtxId} {g : Nat} {s : State} (h : TakesCommand s 4 whoHSC src)
    (hnone : (s.advOf x).pending = none) (hg : g ≠ (s.advOf x).step.toNat + 1) : Completes (.stepAdvance src x g) s fun t =>
      t.hub.adv = s.hub.adv ∧ Replies src 4 3 0 t := by
  have htake := takeCmd_sends (Sends.refl s) 0 4 src
  refine completes_of_takes (execStepAdvance src x g) h ?_
  dsimp only
  rw [htake.advOf x, hnone]
  simp only [Option.isSome_none, Bool.false_eq_true, if_false, bne_iff_ne, ne_eq, hg, not_false_eq_true, if_true]
  exact ⟨(reply_sends htake src 4 3 0).hub Hub.adv, replies_reply _ _ _ _ _⟩

theorem stepAdvance_pending {src : CmdSrc} {x : CtxId} {g : Nat} {s : State} (h : TakesCommand s 4 whoHSC src)
    (hsome : (s.advOf x).pending.isSome) : Completes (.stepAdvance src x g) s fun t => t.hub.adv = s.hub.adv ∧ Replies src 4 1 0 t := by
  have htake := takeCmd_sends (Sends.refl s) 0 4 src
  refine completes_of_takes (execStepAdvance src x g) h ?_
  dsimp only
  rw [htake.advOf x, if_pos hsome]
  exact ⟨(reply_sends htake src 4 1 0).hub Hub.adv, replies_reply _ _ _ _ _⟩

/-- Two folds whose steps agree wherever an invariant of the steps holds. -/
theorem forAll_congr {α : Type} (p : State → Prop) (l : List α) {f g : α → State → State} {s : State} (hs : p s)
    (hp : ∀ x t, p t → p (g x t)) (hfg : ∀ x t, p t → f x t = g x t) : forAll l f s = forAll l g s := by
  induction l generalizing s with
  | nil => rfl
  | cons x xs ih =>
    rw [forAll_cons, forAll_cons, hfg x s hs]
    exact ih (hp x s hs)

/-- The tables that a die evaluates depend on its own registers and on the armed values of the context. -/
theorem evalDie_congr {s t : State} {x : CtxId} (h : t.advOf x = s.advOf x) (d : Die) (g : Nat) : evalDie t d x g = evalDie s d x g := by
  rw [evalDie, evalDie, h]

/-- What a die holds once it evaluates the schedule tables `es` of context `x` (R266). -/
def evaluating (x : CtxId) (es : List (Nat × BitVec 256 × BitVec 512)) (d : Die) : Die :=
  { d with schedBusy := true, schedCtx := x.val, schedCount := es.length,
           tabNext := es ++ d.tabNext.filter fun y => !es.any fun e => e.1 == y.1 }

/-- Every die evaluates its own tables, whatever the dies before it have evaluated. -/
theorem forAll_evaluating (s : State) (x : CtxId) (g : Nat) :
    forAll allDies (fun d t => t.onDie d (evaluating x (evalDie t (t.die d) x g))) s =
      forAll allDies (fun d t => t.onDie d fun k => evaluating x (evalDie s k x g) k) s := by
  refine forAll_congr (fun t => t.advOf x = s.advOf x) allDies rfl ?_ ?_
  · intro d t h
    rw [State.advOf, State.onDie_hub]
    exact h
  · intro d t h
    rw [State.onDie, State.onDie, evalDie_congr h]

theorem stepAdvanceEvaluate_due {src : CmdSrc} {x : CtxId} {g : Nat} {s : State} (hpend : (s.advOf x).pending = some (g, src))
    (hev : (s.advOf x).evald = false)
    (hj : (vget s.hub.snp SnpCtx.reset x.val).jEntries = 0 ∨ g ≤ (vget s.hub.snp SnpCtx.reset x.val).jStep)
    (hpriv : privMissing s x g = []) (holder : olderStrip s x (s.advOf x).step.toNat = false) : Completes (.stepAdvanceEvaluate x) s fun t =>
      (t.advOf x).evald = true ∧ (t.advOf x).step = (s.advOf x).step ∧
      ∀ d, (t.die d).schedBusy = true ∧ (t.die d).schedCtx = x.val ∧ (t.die d).tabCur = (s.die d).tabCur ∧
        (t.die d).tabPrev = (s.die d).tabPrev ∧
        (t.die d).tabNext.take (evalDie s (s.die d) x g).length = evalDie s (s.die d) x g := by
  have hdue : (!(s.advOf x).evald && ((vget s.hub.snp SnpCtx.reset x.val).jEntries == 0 || g ≤ (vget s.hub.snp SnpCtx.reset x.val).jStep) &&
      (privMissing s x g).isEmpty && !olderStrip s x (s.advOf x).step.toNat) = true := by
    simp [hev, hj, hpriv, holder]
  have heval : exec (.stepAdvanceEvaluate x) s = .next ((forAll allDies
      (fun d t => t.onDie d (evaluating x (evalDie t (t.die d) x g))) s).onAdv x fun a => { a with evald := true }) := by
    show execStepAdvanceEvaluate x s = _
    unfold execStepAdvanceEvaluate
    dsimp only
    rw [hpend]
    exact whenDue_of_due hdue _ s
  rw [forAll_evaluating] at heval
  refine completes_of_next heval ?_
  have hadv : (forAll allDies (fun d t => t.onDie d fun k => evaluating x (evalDie s k x g) k) s).advOf x = s.advOf x :=
    forAll_keep (fun t => t.advOf x) _ _ _ fun _ _ _ => rfl
  refine ⟨by rw [advOf_onAdv_self], by rw [advOf_onAdv_self, hadv], fun d => ?_⟩
  have hdie := forAll_onDie_die allDies (fun _ k => evaluating x (evalDie s k x g) k) s d nodup_allDies
  rw [if_pos (mem_allDies d)] at hdie
  rw [State.onAdv, State.onHub_die, hdie]
  exact ⟨rfl, rfl, rfl, rfl, List.take_left⟩

theorem adviseCores_stirs {s₀ s : State} (h : Stirs s₀ s) (x : CtxId) (tag : Nat) : Stirs s₀ (adviseCores x tag s) := by
  unfold adviseCores
  refine forAll_stirs h _ fun c t ht => ?_
  split
  · exact arriveNow_stirs ht ..
  · exact ht

theorem stepAdvanceCommit_due {src : CmdSrc} {x : CtxId} {g : Nat} {s : State} (hpend : (s.advOf x).pending = some (g, src))
    (hev : (s.advOf x).evald = true) : Completes (.stepAdvanceCommit x) s fun t =>
      (t.advOf x).step = BitVec.ofNat 64 g ∧ (t.advOf x).pending = none ∧
      ∀ d, (t.die d).tabCur = (turnTables x (s.die d)).tabCur ∧ (t.die d).tabPrev = (turnTables x (s.die d)).tabPrev ∧
        (t.die d).tabNext = (turnTables x (s.die d)).tabNext ∧ (t.die d).schedBusy = false := by
  have hexec : exec (.stepAdvanceCommit x) s = execStepAdvanceCommit x s := rfl
  unfold execStepAdvanceCommit at hexec
  dsimp only at hexec
  rw [hpend] at hexec
  refine completes_of_next (hexec.trans (whenDue_of_due hev _ s)) ?_
  have hstir (t : State) := adviseCores_stirs (Stirs.refl t) x src.tag
  have hadv (t : State) : (adviseCores x src.tag t).advOf x = t.advOf x := (hstir t).hub fun k => k.adv.get x
  rw [hadv]
  refine ⟨?_, ?_, fun d => ?_⟩
  · rw [advOf_onHub_snp, advOf_onAdv_self]
  · rw [advOf_onHub_snp, advOf_onAdv_self]
  · have hdie := forAll_onDie_die allDies (fun _ => turnTables x) s d nodup_allDies
    rw [if_pos (mem_allDies d)] at hdie
    refine ⟨((hstir _).die d Die.tabCur).trans ?_, ((hstir _).die d Die.tabPrev).trans ?_, ((hstir _).die d Die.tabNext).trans ?_,
      ((hstir _).die d Die.schedBusy).trans ?_⟩ <;> rw [State.onHub_die, State.onAdv, State.onHub_die, hdie]
    rfl

theorem privStepArm_completes {x : CtxId} {k : Fin 8} {par : Fin 2} {hi : Word} {w : Writer} {s : State} (hw : w = .host ∨ w = .headland)
    {v : Nat} (hv : v = (vget (s.advOf x).privStep 0 (2 * k.val + par.val)).toNat % 2 ^ 32 + hi.toNat * 2 ^ 32)
    (harm : (vget (s.advOf x).armed none (2 * k.val + par.val)).any (fun y => (s.advOf x).step.toNat < y.1 && y.1 != v) = false) :
    Completes (.privStepArm w x k par hi) s fun t =>
      vget (t.advOf x).armed none (2 * k.val + par.val) = some (v, vget (s.advOf x).privVal 0 (2 * k.val + par.val)) ∧
      vget (t.advOf x).privStep 0 (2 * k.val + par.val) = BitVec.ofNat 64 v ∧ t.hub.privReject = s.hub.privReject := by
  subst hv
  have hhost : byHost w = true := by rcases hw with rfl | rfl <;> rfl
  have hlt : 2 * k.val + par.val < 16 := by omega
  have hexec : exec (.privStepArm w x k par hi) s = .next (if byHost w then privArm x (2 * k.val + par.val) hi s else s) := rfl
  rw [if_pos hhost] at hexec
  refine completes_of_next hexec ?_
  unfold privArm
  dsimp only
  rw [harm]
  simp only [Bool.false_eq_true, if_false, advOf_onAdv_self, vget_vset_self _ _ _ _ hlt, true_and]
  rfl

/-- Settles O17. -/
theorem stepAdvances : Obligations.StepAdvances := by
  intro src x g s
  exact ⟨stepAdvance_taken, stepAdvance_otherTarget, stepAdvance_pending, stepAdvanceEvaluate_due, stepAdvanceCommit_due,
    fun _ _ _ _ hw _ => privStepArm_completes hw⟩

end Sys2Proof.Machine
end

section
/-! SUPPORT. Settles O42: credit pools and power budgets (R70, R472, R473). -/

namespace Sys2Proof.Machine

open Sys2Proof

/- Elaborated one by one, the proofs do not wait for one another's equation lemmas. -/
set_option Elab.async false

theorem bitsOf_zero (n len : Nat) : bitsOf n 0 len = n % 2 ^ len := by
  simp [bitsOf]

theorem clampN_zero (n k : Nat) : clampN 0 n k = min n k := by
  unfold clampN
  split_ifs <;> omega

/-- A fold that gives each die a function of the state before it and of the die. -/
theorem forAll_allDies_die (F : DieId → Die → Die) (s : State) (d : DieId) :
    (forAll allDies (fun d t => t.onDie d (F d)) s).die d = F d (s.die d) := by
  rw [forAll_onDie_die _ _ _ _ nodup_allDies, if_pos (mem_allDies d)]

/-! ### Pools from the budget (R473) -/

/-- A die's pool depends on the credit's power at its own step and on the power settings. -/
theorem basicPool_congr {s t : State} {d : DieId} (hd : creditNow (t.die d) = creditNow (s.die d))
    (hp : powerLeft t.hub.pwr = powerLeft s.hub.pwr) : basicPool t d = basicPool s d := by
  rw [basicPool, basicPool, hd, hp]

/-- At the basic level every die takes the pool that the power left by the overhead allows. -/
theorem recomputePools_basic {s : State} (h : s.hub.pwr.level = false) :
    (∀ d, (recomputePools s).die d = { s.die d with pool := basicPool s d }) ∧
      (recomputePools s).hub.pwr = { s.hub.pwr with budgetLow := powerLeft s.hub.pwr < 0 } := by
  have hpools : recomputePools s = forAll allDies (fun d t => t.onDie d fun k => { k with pool := basicPool s d })
      (s.onPwr fun p => { p with budgetLow := powerLeft s.hub.pwr < 0 }) := by
    unfold recomputePools
    simp only [h, Bool.not_false, if_true]
    refine forAll_congr (fun t => (∀ d, creditNow (t.die d) = creditNow (s.die d)) ∧ powerLeft t.hub.pwr = powerLeft s.hub.pwr) allDies
      ⟨fun _ => rfl, rfl⟩ ?_ ?_
    · intro e t ⟨hcredit, hleft⟩
      refine ⟨fun d => ?_, by rwa [State.onDie_hub]⟩
      by_cases hd : e = d
      · subst hd
        rw [State.onDie_die_self]
        exact hcredit e
      · rw [State.onDie_die_ne _ _ _ _ hd]
        exact hcredit d
    · intro e t ⟨hcredit, hleft⟩
      rw [basicPool_congr (hcredit e) hleft]
  rw [hpools]
  refine ⟨fun d => ?_, ?_⟩
  · rw [forAll_allDies_die fun e k => { k with pool := basicPool s e }]
    rfl
  · exact forAll_keep (fun t => t.hub.pwr) _ _ _ fun _ _ _ => rfl

/-- At the expert level the values written are copied when they fit 1,650 W. -/
theorem recomputePools_expert_fits {s : State} (h : s.hub.pwr.level = true) (hfit : expertPower s ≤ 1650000) (d : DieId) :
    (recomputePools s).die d = { s.die d with pool := min 256 (vget s.hub.pwr.expPool 0 d.val) } ∧ (recomputePools s).hub = s.hub := by
  unfold recomputePools
  simp only [h, Bool.not_true, Bool.false_eq_true, if_false, if_pos hfit]
  refine ⟨?_, forAll_keep State.hub _ _ _ fun _ _ _ => rfl⟩
  rw [forAll_allDies_die fun e k => { k with pool := clampN 0 256 (vget s.hub.pwr.expPool 0 e.val) }, clampN_zero]

theorem recomputePools_expert_refused {s : State} (h : s.hub.pwr.level = true) (hfit : ¬ expertPower s ≤ 1650000) :
    recomputePools s = hubSetBit (hubBlock 0x90010) 4 (s.onPwr fun p => { p with expRefused := true }) := by
  unfold recomputePools
  simp only [h, Bool.not_true, Bool.false_eq_true, if_false, if_neg hfit]

/-! ### The commands -/

theorem diePoolWrite_completes (w : Writer) (d : DieId) (v : Word) {s : State} (hon : s.hub.pwr.alwaysOn = true) :
    Completes (.diePoolWrite w d v) s fun t =>
      (∀ e, t.die e = if w = .headland ∧ e = d then { s.die d with pool := v.toNat % 512 } else s.die e) ∧
      t.hub = s.hub ∧ t.cores = s.cores ∧ t.mem = s.mem := by
  refine completes_of_next (whenDue_of_due hon _ s) ?_
  unfold poolWrite
  dsimp only
  rw [bitsOf_zero]
  by_cases hw : w = .headland
  · subst hw
    refine ⟨fun e => ?_, rfl, rfl, rfl⟩
    by_cases he : d = e
    · subst he
      simp
    · simp [State.onDie_die_ne _ _ _ _ he, Ne.symm he]
  · simp [hw]

/-- The pool of R473's formula, where the power left is not negative and a credit draws power. -/
theorem basicPool_of_left {s : State} {d : DieId} (hmw : creditNow (s.die d) ≠ 0) (h : s.hub.pwr.overhead ≤ budgetOf s.hub.pwr) :
    basicPool s d = min 256 ((budgetOf s.hub.pwr - s.hub.pwr.overhead) * 1000 / (8 * creditNow (s.die d))) := by
  have hleft : powerLeft s.hub.pwr = (((budgetOf s.hub.pwr - s.hub.pwr.overhead) * 1000 : Nat) : Int) := by
    unfold powerLeft
    omega
  have hdiv : (powerLeft s.hub.pwr / (8 * creditNow (s.die d) : Int)).toNat =
      (budgetOf s.hub.pwr - s.hub.pwr.overhead) * 1000 / (8 * creditNow (s.die d)) := by
    rw [hleft]
    norm_cast
  unfold basicPool
  have hpos : ¬ powerLeft s.hub.pwr < 0 := by
    rw [hleft]
    exact not_lt.mpr (Int.natCast_nonneg _)
  have hmw' : (creditNow (s.die d) == 0) = false := beq_false_of_ne hmw
  dsimp only
  rw [if_neg hpos, hmw', hdiv]
  simp only [Bool.false_eq_true, if_false]
  split_ifs <;> omega

theorem basicPool_of_low {s : State} {d : DieId} (h : budgetOf s.hub.pwr < s.hub.pwr.overhead) :
    powerLeft s.hub.pwr < 0 ∧ basicPool s d = 0 := by
  have hneg : powerLeft s.hub.pwr < 0 := by
    unfold powerLeft
    omega
  exact ⟨hneg, if_pos hneg⟩

theorem pwrBudgetWrite_completes {w : Writer} (v : Word) {s : State} (hon : s.hub.pwr.alwaysOn = true) (hw : w = .headland ∨ w = .manager)
    (hlevel : s.hub.pwr.level = false) : Completes (.pwrBudgetWrite w v) s fun t =>
      t.hub.pwr.budget = v.toNat % 2048 ∧
      ∀ e, vget (s.die e).creditMw 0 (s.die e).stepCur ≠ 0 → s.hub.pwr.overhead ≤ clampN 900 1650 (v.toNat % 2048) →
        (t.die e).pool = min 256 ((clampN 900 1650 (v.toNat % 2048) - s.hub.pwr.overhead) * 1000 /
          (8 * vget (s.die e).creditMw 0 (s.die e).stepCur)) := by
  refine completes_of_next (whenDue_of_due hon _ s) ?_
  have hby : byManager w = true := by rcases hw with rfl | rfl <;> rfl
  unfold budgetWrite
  dsimp only
  rw [if_pos hby, bitsOf_zero]
  obtain ⟨hdie, hpwr⟩ := recomputePools_basic (s := s.onPwr fun p => { p with budget := v.toNat % 2 ^ 11 }) hlevel
  refine ⟨by rw [hpwr]; rfl, fun e hmw hover => ?_⟩
  rw [hdie]
  exact basicPool_of_left (s := s.onPwr fun p => { p with budget := v.toNat % 2 ^ 11 }) hmw hover

theorem overheadUpdate_completes (watts : Nat) {s : State} (hon : s.hub.pwr.alwaysOn = true) (hlevel : s.hub.pwr.level = false) :
    Completes (.overheadUpdate watts) s fun t =>
      t.hub.pwr.overhead = min 2047 watts ∧
      (clampN 900 1650 s.hub.pwr.budget < min 2047 watts → t.hub.pwr.budgetLow = true ∧ ∀ e, (t.die e).pool = 0) := by
  refine completes_of_due (execOverheadUpdate watts) hon ?_
  rw [satAdd_eq_min, Nat.zero_add]
  obtain ⟨hdie, hpwr⟩ := recomputePools_basic (s := s.onPwr fun p => { p with overhead := min 0x7FF watts }) hlevel
  refine ⟨by rw [hpwr]; rfl, fun hlow => ?_⟩
  have hpool (e : DieId) := basicPool_of_low (s := s.onPwr fun p => { p with overhead := min 0x7FF watts }) (d := e) hlow
  refine ⟨?_, fun e => ?_⟩
  · rw [hpwr]
    exact decide_eq_true (hpool 0).1
  · rw [hdie]
    exact (hpool e).2

theorem expPoolWrite_completes {w : Writer} (d : DieId) (v : Word) {s : State} (hon : s.hub.pwr.alwaysOn = true)
    (hw : w = .headland ∨ w = .manager) (hlevel : s.hub.pwr.level = true) : Completes (.expPoolWrite w d v) s fun t =>
      t.hub.pwr.expPool = vset s.hub.pwr.expPool d.val (v.toNat % 512) ∧
      if s.hub.pwr.overhead * 1000 + (allDies.map fun e => min 256 (vget t.hub.pwr.expPool 0 e.val) *
          vget (s.die e).creditMw 0 (s.die e).stepCur).sum ≤ 1650000 then ∀ e, (t.die e).pool = min 256 (vget t.hub.pwr.expPool 0 e.val)
      else t.hub.pwr.expRefused = true ∧ ∀ e, t.die e = s.die e := by
  refine completes_of_next (whenDue_of_due hon _ s) ?_
  have hby : (!byManager w) = false := by rcases hw with rfl | rfl <;> rfl
  unfold expPoolWrite
  dsimp only
  rw [hby, bitsOf_zero]
  simp only [Bool.false_eq_true, if_false]
  rw [if_pos (show (s.onPwr fun p => { p with expPool := vset p.expPool d.val (v.toNat % 2 ^ 9) }).hub.pwr.level = true from hlevel)]
  have hpower : expertPower (s.onPwr fun p => { p with expPool := vset p.expPool d.val (v.toNat % 2 ^ 9) }) =
      s.hub.pwr.overhead * 1000 + (allDies.map fun e => min 256 (vget (vset s.hub.pwr.expPool d.val (v.toNat % 512)) 0 e.val) *
        vget (s.die e).creditMw 0 (s.die e).stepCur).sum := by
    unfold expertPower
    simp only [clampN_zero]
    rfl
  by_cases hfit : expertPower (s.onPwr fun p => { p with expPool := vset p.expPool d.val (v.toNat % 2 ^ 9) }) ≤ 1650000
  · have hexp (e : DieId) := recomputePools_expert_fits (d := e) (by exact hlevel) hfit
    have hpool : (recomputePools (s.onPwr fun p => { p with expPool := vset p.expPool d.val (v.toNat % 2 ^ 9) })).hub.pwr.expPool =
        vset s.hub.pwr.expPool d.val (v.toNat % 512) := by rw [(hexp 0).2]; rfl
    refine ⟨hpool, ?_⟩
    rw [hpool, if_pos (hpower ▸ hfit)]
    intro e
    rw [(hexp e).1]
    rfl
  · rw [recomputePools_expert_refused (by exact hlevel) hfit]
    rw [hubSetBit_hub_pwr]
    refine ⟨rfl, ?_⟩
    rw [hpower] at hfit
    rw [if_neg (by exact hfit)]
    exact ⟨rfl, fun e => hubSetBit_die ..⟩

/-- Settles O42. -/
theorem poolsAndBudgets : Obligations.PoolsAndBudgets := by
  intro w d v watts s
  exact ⟨diePoolWrite_completes w d v, pwrBudgetWrite_completes v, expPoolWrite_completes d v, overheadUpdate_completes watts⟩

end Sys2Proof.Machine
end

section
/-! SUPPORT. Settles O43: step changes of a die set (R461, R465 to R467). -/

namespace Sys2Proof.Machine

open Sys2Proof

/- Elaborated one by one, the proofs do not wait for one another's equation lemmas. -/
set_option Elab.async false

/-- A fold over dies, each given a change that a repetition does not change again: the dies of the list have it, the others are as they were. -/
theorem forAll_onDie_idem (l : List DieId) (F : DieId → Die → Die) (hF : ∀ d k, F d (F d k) = F d k) (s : State) (d : DieId) :
    (forAll l (fun d t => t.onDie d (F d)) s).die d = if d ∈ l then F d (s.die d) else s.die d := by
  induction l generalizing s with
  | nil => simp
  | cons e es ih =>
    rw [forAll_cons, ih]
    by_cases he : e = d
    · subst he
      simp [hF]
    · simp [State.onDie_die_ne _ _ _ _ he, List.mem_cons, Ne.symm he]

theorem stepGroup_of_spread {s : State} (h : s.hub.pwr.spread = s.hub.pwr.spreadOn) (d : DieId) : stepGroup s d = stepSet s d := by
  simp [stepGroup, h]

theorem stepChangeRequest_completes {d : DieId} {target : Fin 8} {s : State} (hon : poweredOn s = true)
    (hspread : s.hub.pwr.spread = s.hub.pwr.spreadOn) (hwant : wantedStep s (stepSet s d) = some target.val)
    (hmove : stepMove s (stepSet s d) target.val = true)
    (hidle : ∀ k, k ∈ stepSet s d → (s.die k).changing = false ∧ (s.die k).stopped = none) : Completes (.stepChangeRequest d target) s fun t =>
      ∀ k, if k ∈ stepSet s d then t.die k = { s.die k with stepTarget := target.val, changing := true } else t.die k = s.die k := by
  have hne : ∃ k, k ∈ stepSet s d := by
    simp only [stepMove, hspread, bne_self_eq_false, Bool.false_or, List.any_eq_true] at hmove
    exact ⟨_, hmove.choose_spec.1⟩
  have hdue : (poweredOn s && wantedStep s (stepSet s d) == some target.val && stepMove s (stepSet s d) target.val &&
      (stepSet s d).all (fun e => (s.die e).stopped.isNone) &&
      (stepSet s d).any fun e => !(s.die e).changing || ((stepSet s d).contains e && (s.die e).stepTarget != target.val)) = true := by
    obtain ⟨k, hk⟩ := hne
    have hall : (stepSet s d).all (fun e => (s.die e).stopped.isNone) = true := by
      rw [List.all_eq_true]
      intro e he
      rw [(hidle e he).2]
      rfl
    have hany : ((stepSet s d).any fun e => !(s.die e).changing || ((stepSet s d).contains e && (s.die e).stepTarget != target.val)) =
        true := by
      rw [List.any_eq_true]
      exact ⟨k, hk, by rw [(hidle k hk).1]; rfl⟩
    rw [hon, hwant, hmove, hall, hany]
    simp
  refine completes_of_due (f := forAll (stepSet s d) fun e s' => s'.onDie e fun k =>
      { k with stepTarget := if (stepSet s d).contains e then target.val else if k.changing then k.stepTarget else k.stepCur,
               changing := true }) (execStepChangeRequest d target) hdue ?_ rfl ?_
  · intro k
    rw [forAll_onDie_idem _ (fun e k => { k with
      stepTarget := if (stepSet s d).contains e then target.val else if k.changing then k.stepTarget else k.stepCur, changing := true })]
    · split
      · simp [*]
      · rfl
    · intro e k
      cases hc : (stepSet s d).contains e <;> simp only [if_true, if_false, Bool.false_eq_true]
  · unfold execStepChangeRequest
    rw [stepGroup_of_spread hspread]

theorem clockStop_completes {d : DieId} {e : Nat} {s : State} (hon : poweredOn s = true)
    (hspread : s.hub.pwr.spread = s.hub.pwr.spreadOn)
    (hchange : ∀ k, k ∈ stepSet s d → (s.die k).changing = true ∧ (s.die k).stopped = none) (hquiet : setQuiet s (stepSet s d) = true) :
    Completes (.clockStop d e) s fun t =>
      ∀ k, if k ∈ stepSet s d then t.die k = { s.die k with stopped := some e } else t.die k = s.die k := by
  have hall : (stepSet s d).all (fun k => (s.die k).changing && (s.die k).stopped.isNone) = true := by
    rw [List.all_eq_true]
    intro k hk
    rw [(hchange k hk).1, (hchange k hk).2]
    rfl
  have hdue : (poweredOn s && (stepSet s d).all (fun k => (s.die k).changing && (s.die k).stopped.isNone) && setQuiet s (stepSet s d)) =
      true := by
    rw [hon, hall, hquiet]
    rfl
  refine completes_of_due (f := forAll (stepSet s d) fun k s' => s'.onDie k fun k => { k with stopped := some e })
    (execClockStop d e) hdue ?_ rfl ?_
  · intro k
    rw [forAll_onDie_idem _ (fun _ k => { k with stopped := some e }) fun _ _ => rfl]
    split <;> rfl
  · unfold execClockStop
    rw [stepGroup_of_spread hspread]

/-! ### Clocks restart -/

/-- A die without its pool, its credit requests and the cores that wait for its wakes. -/
def Die.unlaunched (d : Die) : Die := { d with pool := 0, reqs := [], wakeQ := [] }

theorem onDie_unlaunched {f : Die → Die} (d d' : DieId) (s : State) (hf : ∀ k, (f k).unlaunched = k.unlaunched) :
    ((s.onDie d f).die d').unlaunched = (s.die d').unlaunched := by
  by_cases h : d = d'
  · subst h
    rw [State.onDie_die_self, hf]
  · rw [State.onDie_die_ne _ _ _ _ h]

theorem pushReq_unlaunched (c : CoreId) (n : Nat) (s : State) (d : DieId) : ((pushReq c n s).die d).unlaunched = (s.die d).unlaunched :=
  (pushReq_stirs (Stirs.refl s) c n).die d Die.unlaunched

theorem setGranted_unlaunched (c : CoreId) (k : Nat) (s : State) (d : DieId) :
    ((setGranted c k s).die d).unlaunched = (s.die d).unlaunched := by
  unfold setGranted
  dsimp only
  split
  · rw [onDie_unlaunched, State.onSc_die]
    exact fun _ => rfl
  · rw [State.onSc_die]

theorem creditStep_unlaunched (c : CoreId) (k : Nat) (s : State) (d : DieId) :
    ((creditStep c k s).die d).unlaunched = (s.die d).unlaunched := by
  unfold creditStep
  dsimp only
  split_ifs
  · rw [setGranted_unlaunched, State.onSc_die]
  · rw [State.onSc_die]
  · rw [pushReq_unlaunched, State.onSc_die]

/-- A launch that goes on asks for credit and for a wake; it changes no clock (R33, R68). -/
theorem launchStep_unlaunched (c : CoreId) (s : State) (d : DieId) : ((launchStep c s).die d).unlaunched = (s.die d).unlaunched := by
  have hcredit (b : Bool) (k : Nat) : ((if b then s else creditStep c k s).die d).unlaunched = (s.die d).unlaunched := by
    split
    · rfl
    · exact creditStep_unlaunched c k s d
  unfold launchStep
  split
  · rfl
  next l hl =>
    split
    · rfl
    split
    · exact congrArg Die.unlaunched (launchWait_die ..)
    next st hst =>
      dsimp only
      split
      · exact congrArg Die.unlaunched (launchWait_die ..)
      have hs := hcredit l.credited (hdrClass st.hdr)
      generalize (if l.credited = true then s else creditStep c (hdrClass st.hdr) s) = s' at hs ⊢
      split_ifs
      · rw [launchWait_die, hs]
      · rw [launchWait_die, hs]
      · rw [State.onSc_die, hs]

/-- What a die that restarts its clocks holds (R465). -/
def restarted (k : Die) : Die :=
  { k with stepCur := k.stepTarget, changing := false, stopped := none, lastWake := none,
           steps := if k.stepCur == k.stepTarget then k.steps else satAdd 0xFFFF k.steps 1 }

theorem restartDie_die_self (d : DieId) (s : State) : (restartDie d s).die d = restarted (s.die d) := by
  unfold restartDie
  dsimp only
  rw [forAll_keep (fun t => t.die d), State.onDie_die_self]
  · rfl
  · exact fun _ _ _ => rfl

theorem restartDie_die_ne {d d' : DieId} (h : d ≠ d') (s : State) : (restartDie d s).die d' = s.die d' := by
  unfold restartDie
  dsimp only
  rw [forAll_keep (fun t => t.die d'), State.onDie_die_ne _ _ _ _ h]
  exact fun _ _ _ => rfl

theorem forAll_restartDie_die {l : List DieId} (hl : l.Nodup) (s : State) (d : DieId) :
    (forAll l restartDie s).die d = if d ∈ l then restarted (s.die d) else s.die d := by
  induction l generalizing s with
  | nil => simp
  | cons e es ih =>
    obtain ⟨hmem, hes⟩ := List.nodup_cons.mp hl
    rw [forAll_cons, ih hes]
    by_cases he : e = d
    · subst he
      simp [hmem, restartDie_die_self]
    · simp [restartDie_die_ne he, List.mem_cons, Ne.symm he]

theorem recomputePools_unlaunched (s : State) (d : DieId) : ((recomputePools s).die d).unlaunched = (s.die d).unlaunched := by
  unfold recomputePools
  dsimp only
  split_ifs
  · rw [forAll_keep (fun t => (t.die d).unlaunched), State.onPwr_die]
    exact fun e _ t => onDie_unlaunched e d t (by exact fun _ => rfl)
  · rw [forAll_keep (fun t => (t.die d).unlaunched)]
    exact fun e _ t => onDie_unlaunched e d t (by exact fun _ => rfl)
  · rw [hubSetBit_die, State.onPwr_die]

theorem clockRestart_completes {d : DieId} {e : Nat} {s : State} (hon : poweredOn s = true) (hstop : (s.die d).stopped = some e) :
    Completes (.clockRestart d (e + 64)) s fun t =>
      ∀ k, if (s.die k).stopped = some e then (t.die k).stepCur = (s.die k).stepTarget ∧ (t.die k).changing = false ∧
          (t.die k).stopped = none ∧
          (t.die k).steps = (if (s.die k).stepCur = (s.die k).stepTarget then (s.die k).steps else min 0xFFFF ((s.die k).steps + 1))
        else (t.die k).stepCur = (s.die k).stepCur ∧ (t.die k).stopped = (s.die k).stopped := by
  have hdue : (poweredOn s && e + 64 == e + 64) = true := by simp [hon]
  have hexec : exec (.clockRestart d (e + 64)) s = execClockRestart d (e + 64) s := rfl
  unfold execClockRestart at hexec
  rw [hstop] at hexec
  refine completes_of_next (hexec.trans (whenDue_of_due hdue _ s)) fun k => ?_
  dsimp only
  generalize hg : allDies.filter (fun k => (s.die k).stopped == some e) = g
  have hnodup : g.Nodup := hg ▸ List.Nodup.filter _ nodup_allDies
  have hmem : k ∈ g ↔ (s.die k).stopped = some e := by simp [← hg, mem_allDies]
  have hdie (t : State) (ht : t.die k = (forAll g restartDie s).die k) :
      ((forAll g (fun k s => forAll (coresOf k) launchStep s) (recomputePools t)).die k).unlaunched =
        (if k ∈ g then restarted (s.die k) else s.die k).unlaunched := by
    rw [forAll_keep (fun u => (u.die k).unlaunched), recomputePools_unlaunched, ht, forAll_restartDie_die hnodup]
    intro _ _ u
    exact forAll_keep (fun u => (u.die k).unlaunched) _ _ _ fun c _ v => launchStep_unlaunched c v k
  have hspread : (if g.length == 8 then (forAll g restartDie s).onPwr fun p => { p with spreadOn := p.spread }
      else forAll g restartDie s).die k = (forAll g restartDie s).die k := by
    split <;> rfl
  have hkept := hdie _ hspread
  have hcur := congrArg Die.stepCur hkept
  have hchg := congrArg Die.changing hkept
  have hstp := congrArg Die.stopped hkept
  have hsteps := congrArg Die.steps hkept
  by_cases hk : (s.die k).stopped = some e
  · simp only [hmem, hk, if_true] at hcur hchg hstp hsteps ⊢
    refine ⟨hcur, hchg, hstp, hsteps.trans ?_⟩
    simp [Die.unlaunched, restarted, satAdd_eq_min]
  · simp only [hmem, hk, if_false] at hcur hstp ⊢
    exact ⟨hcur, hstp⟩

/-- Settles O43. -/
theorem stepChanges : Obligations.StepChanges := by
  intro d target e s
  exact ⟨stepChangeRequest_completes, clockStop_completes, clockRestart_completes⟩

end Sys2Proof.Machine
end

section
/-! SUPPORT. Settles O44: input power, temperatures and the thermal trip (R474 to R476, R483). -/

namespace Sys2Proof.Machine

open Sys2Proof

/- Elaborated one by one, the proofs do not wait for one another's equation lemmas. -/
set_option Elab.async false

/-! ### A shutdown -/

/-- What the step for `x` makes true, and no other step undoes, holds after a fold over a list with `x`. -/
theorem forAll_establishes {α : Type} (Q : State → Prop) {l : List α} {x : α} (hx : x ∈ l) (f : α → State → State) (s : State)
    (hself : ∀ t, Q (f x t)) (hother : ∀ y t, Q t → Q (f y t)) : Q (forAll l f s) := by
  induction l generalizing s with
  | nil => cases hx
  | cons y ys ih =>
    rw [forAll_cons]
    rcases List.mem_cons.mp hx with rfl | hx
    · exact forAll_inv Q ys f _ (hself s) fun y _ t ht => hother y t ht
    · exact ih hx _

/-- A core that a shutdown has stopped: without power, strip, credit and hopper contents. -/
def Stopped (c : CoreId) (s : State) : Prop :=
  (s.core c).gate = .powerGated ∧ (s.sc c).strip = none ∧ (s.sc c).held = 0 ∧ (s.cm c).hop = []

theorem stopped_congr {c : CoreId} {s t : State} (h : t.core c = s.core c) (hs : Stopped c s) : Stopped c t := by
  unfold Stopped State.sc State.cm
  rw [h]
  exact hs

theorem abandonCore_stopped (c : CoreId) (s : State) : Stopped c (abandonCore c s) := by
  unfold abandonCore powerGate
  refine ⟨?_, ?_, ?_, ?_⟩
  · rw [State.onCore_core_self]
  · rw [State.onCore_sc_self]
    exact congrArg Sched.strip (State.onSc_sc_self ..)
  · rw [State.onCore_sc_self]
  · rw [State.onCore_cm_self]

theorem abandonCore_core_ne {c c' : CoreId} (h : c ≠ c') (s : State) : (abandonCore c s).core c' = s.core c' := by
  unfold abandonCore
  simp [h]

theorem forAll_abandonCore_stopped (c : CoreId) (s : State) : Stopped c (forAll allCores abandonCore s) := by
  refine forAll_establishes (Stopped c) (mem_allCores c) abandonCore s (abandonCore_stopped c) fun y t ht => ?_
  by_cases h : y = c
  · subst h
    exact abandonCore_stopped y t
  · exact stopped_congr (abandonCore_core_ne h t) ht

theorem putMgmt_hub (p : PortId) (f : Flit) (s : State) : (putMgmt p f s).hub = s.hub := rfl

theorem putMgmt_core (p : PortId) (f : Flit) (s : State) (c : CoreId) : (putMgmt p f s).core c = s.core c := rfl

theorem abandonSnapshot_core (x : CtxId) (s : State) (c : CoreId) : (abandonSnapshot x s).core c = s.core c := by
  unfold abandonSnapshot
  split <;> rfl

theorem abandonSnapshot_pwr (x : CtxId) (s : State) : (abandonSnapshot x s).hub.pwr = s.hub.pwr := by
  unfold abandonSnapshot
  split <;> rfl

theorem shutDown_stopped (c : CoreId) (s : State) : Stopped c (shutDown s) := by
  unfold shutDown
  dsimp only
  refine forAll_inv (Stopped c) _ _ _ (forAll_inv (Stopped c) _ _ _ (forAll_abandonCore_stopped c _) ?_) ?_
  · exact fun p _ t ht => stopped_congr (putMgmt_core ..) ht
  · exact fun x _ t ht => stopped_congr (abandonSnapshot_core ..) ht

theorem abandonCore_hub (c : CoreId) (s : State) : (abandonCore c s).hub = s.hub := by
  unfold abandonCore
  simp

theorem shutDown_pwr (s : State) : (shutDown s).hub.pwr = s.hub.pwr := by
  unfold shutDown
  dsimp only
  rw [forAll_keep (fun t => t.hub.pwr), forAll_keep (fun t => t.hub.pwr), forAll_keep (fun t => t.hub.pwr), forAll_keep (fun t => t.hub.pwr)]
  · exact fun _ _ _ => rfl
  · exact fun c _ t => congrArg Hub.pwr (abandonCore_hub c t)
  · exact fun _ _ _ => rfl
  · exact fun x _ t => abandonSnapshot_pwr x t

theorem thermalTrip_stops (s : State) :
    (thermalTrip s).hub.pwr.trip = some s.hub.ns ∧ (thermalTrip s).hub.hl.attn.getLsbD 2 = true ∧
      ∀ c, ((thermalTrip s).core c).gate = .powerGated ∧ ((thermalTrip s).sc c).strip = none := by
  unfold thermalTrip
  refine ⟨?_, attention_attn_self _ (by decide), fun c => ?_⟩
  · rw [attention_hub_pwr, shutDown_pwr]
    rfl
  · obtain ⟨hgate, hstrip, -, -⟩ := stopped_congr (attention_core ..) (shutDown_stopped c _)
    exact ⟨hgate, hstrip⟩

/-! ### Input power -/

theorem inputPowerCheck_over {n watts : Nat} (h : 1650 < watts) (s : State) : Completes (.inputPowerCheck n watts) s fun t =>
    t.hub.pwr.input = min 2047 watts ∧ t.hub.pwr.overLimit = true ∧
    ∀ k, t.die k = { s.die k with inputLim := min 7 ((s.die k).inputLim + 1) } := by
  have hexec : exec (.inputPowerCheck n watts) s = execInputPowerCheck n watts s := rfl
  unfold execInputPowerCheck at hexec
  dsimp only at hexec
  rw [if_pos h] at hexec
  refine completes_of_next hexec ⟨?_, ?_, fun k => ?_⟩
  · rw [forAll_keep (fun t => t.hub.pwr.input) _ _ _ (by exact fun _ _ _ => rfl), hubSetBit_hub_pwr]
    exact (satAdd_eq_min ..).trans (by rw [Nat.zero_add])
  · rw [forAll_keep (fun t => t.hub.pwr.overLimit) _ _ _ (by exact fun _ _ _ => rfl), hubSetBit_hub_pwr]
    rfl
  · rw [forAll_allDies_die fun _ k => { k with inputLim := satAdd 7 k.inputLim 1 }, satAdd_eq_min 7]
    rfl

theorem inputPowerCheck_low {n watts a : Nat} {s : State} (hlow : s.hub.pwr.lowSince = some a)
    (hw : watts ≤ clampN 900 1650 s.hub.pwr.budget) (ha : a + 1000000000 ≤ n) :
    Completes (.inputPowerCheck n watts) s fun t => ∀ k, t.die k = { s.die k with inputLim := (s.die k).inputLim - 1 } := by
  have hcap : clampN 900 1650 s.hub.pwr.budget ≤ 1650 := by
    unfold clampN
    split_ifs <;> omega
  have hover : ¬ 1650 < watts := by omega
  have hns : n ≤ (s.atNs n).hub.ns := by
    unfold State.atNs
    simp only [State.onHub]
    split <;> omega
  have hexec : exec (.inputPowerCheck n watts) s = execInputPowerCheck n watts s := rfl
  unfold execInputPowerCheck at hexec
  dsimp only at hexec
  have hsince : ((s.atNs n).onPwr fun p => { p with input := satAdd 0x7FF 0 watts }).hub.pwr.lowSince = some a := hlow
  have hlong : (some a).any (fun a => decide (a + 1000000000 ≤ (s.atNs n).hub.ns)) = true := by
    rw [Option.any_some]
    exact decide_eq_true (ha.trans hns)
  rw [if_neg hover, if_neg (by exact not_lt.mpr hw), hsince, if_pos hlong] at hexec
  refine completes_of_next hexec fun k => ?_
  rw [forAll_allDies_die fun _ k => { k with inputLim := k.inputLim - 1 }]
  rfl

/-! ### Temperatures -/

/-- The highest of a die's four readings (R475). -/
def dieReading (rs : List Int) (d : DieId) : Int :=
  ((List.range 4).map fun i => rs.getD (4 * d.val + i) 0).foldl max (rs.getD (4 * d.val) 0)

/-- The four readings of a die, written out. -/
theorem dieReading_eq (rs : List Int) (d : DieId) : dieReading rs d =
    max (max (max (rs.getD (4 * d.val) 0) (rs.getD (4 * d.val + 1) 0)) (rs.getD (4 * d.val + 2) 0)) (rs.getD (4 * d.val + 3) 0) := by
  simp [dieReading, List.range_succ]

theorem le_dieReading (rs : List Int) (d : DieId) {i : Nat} (hi : i < 4) : rs.getD (4 * d.val + i) 0 ≤ dieReading rs d := by
  rw [dieReading_eq]
  interval_cases i <;> simp only [Nat.add_zero, le_max_iff, le_refl, true_or, or_true]

theorem exists_dieReading (rs : List Int) (d : DieId) : ∃ i, i < 4 ∧ dieReading rs d = rs.getD (4 * d.val + i) 0 := by
  rw [dieReading_eq]
  rcases max_choice (max (max (rs.getD (4 * d.val) 0) (rs.getD (4 * d.val + 1) 0)) (rs.getD (4 * d.val + 2) 0)) (rs.getD (4 * d.val + 3) 0)
    with h | h <;> rw [h]
  · rcases max_choice (max (rs.getD (4 * d.val) 0) (rs.getD (4 * d.val + 1) 0)) (rs.getD (4 * d.val + 2) 0) with h | h <;> rw [h]
    · rcases max_choice (rs.getD (4 * d.val) 0) (rs.getD (4 * d.val + 1) 0) with h | h <;> rw [h]
      · exact ⟨0, by decide, rfl⟩
      · exact ⟨1, by decide, rfl⟩
    · exact ⟨2, by decide, rfl⟩
  · exact ⟨3, by decide, rfl⟩

/-- What a sample leaves in a die (R475). -/
def sampled (s : State) (rs : List Int) (d : DieId) (k : Die) : Die :=
  { k with tj := dieReading rs d, tjMax := max k.tjMax (dieReading rs d),
           coolSince := if dieReading rs d < (((s.hub.pwr.throttle : Int) - hystOf s.hub.pwr) * 8 : Int) then
               some (k.coolSince.getD s.hub.ns) else none }

/-- The state once every die and the other five sensors have been read. -/
def sampledState (s : State) (rs : List Int) : State :=
  (forAll allDies (fun d t => t.onDie d (sampled s rs d)) s).onPwr fun p => { p with otherTj := Vector.ofFn fun i => rs.getD (32 + i.val) 0 }

theorem exec_sensorSample (rs : List Int) (s : State) : exec (.sensorSample rs) s =
    .next (if (critOf (sampledState s rs).hub.pwr * 8 : Int) ≤ hottest (sampledState s rs) && poweredOn (sampledState s rs) then
      thermalTrip (sampledState s rs) else sampledState s rs) :=
  rfl

theorem sampledState_die (s : State) (rs : List Int) (d : DieId) : (sampledState s rs).die d = sampled s rs d (s.die d) :=
  forAll_allDies_die (sampled s rs) s d

theorem sampledState_hub (s : State) (rs : List Int) :
    (sampledState s rs).hub = { s.hub with pwr := { s.hub.pwr with otherTj := Vector.ofFn fun i => rs.getD (32 + i.val) 0 } } := by
  have h : (forAll allDies (fun d t => t.onDie d (sampled s rs d)) s).hub = s.hub := forAll_keep State.hub _ _ _ fun _ _ _ => rfl
  rw [sampledState, State.onPwr, State.onHub]
  dsimp only
  rw [h]

theorem poweredOn_sampledState (s : State) (rs : List Int) : poweredOn (sampledState s rs) = poweredOn s := by
  rw [poweredOn, sampledState_hub]
  rfl

/-! ### The hottest sensor (R475) -/

theorem le_foldl_max {α : Type} [LinearOrder α] {l : List α} (a : α) {x : α} (hx : x ∈ l ∨ x ≤ a) : x ≤ l.foldl max a := by
  induction l generalizing a with
  | nil => exact hx.resolve_left List.not_mem_nil
  | cons y ys ih =>
    rw [List.foldl_cons]
    refine ih _ ?_
    rcases hx with hx | hx
    · rcases List.mem_cons.mp hx with rfl | hx
      · exact Or.inr (le_max_right _ _)
      · exact Or.inl hx
    · exact Or.inr (hx.trans (le_max_left _ _))

theorem foldl_max_lt {l : List Int} {a b : Int} (ha : a < b) (hl : ∀ x ∈ l, x < b) : l.foldl max a < b := by
  induction l generalizing a with
  | nil => exact ha
  | cons y ys ih =>
    rw [List.foldl_cons]
    exact ih (max_lt ha (hl y List.mem_cons_self)) fun x hx => hl x (List.mem_cons_of_mem _ hx)

theorem tj_le_hottest (s : State) (d : DieId) : (s.die d).tj ≤ hottest s := by
  refine le_foldl_max _ (Or.inl (List.mem_append_right _ (List.mem_map.mpr ⟨d, mem_allDies d, rfl⟩)))

theorem hottest_lt {s : State} {b : Int} (hd : ∀ d, (s.die d).tj < b) (ho : ∀ x ∈ s.hub.pwr.otherTj.toList, x < b) : hottest s < b := by
  refine foldl_max_lt (hd 0) fun x hx => ?_
  rcases List.mem_append.mp hx with hx | hx
  · exact ho x hx
  · obtain ⟨d, -, rfl⟩ := List.mem_map.mp hx
    exact hd d

theorem le_critOf (p : Pwr) : 100 ≤ critOf p := by
  unfold critOf
  split_ifs <;> omega

theorem getD_lt {rs : List Int} {b : Int} (hb : 0 < b) (h : ∀ r, r ∈ rs → r < b) (i : Nat) : rs.getD i 0 < b := by
  rw [List.getD_eq_getElem?_getD]
  cases hi : rs[i]? with
  | none => exact hb
  | some r => exact h r (List.mem_of_getElem? hi)

theorem sensorSample_cool {rs : List Int} (h : ∀ r, r ∈ rs → r < 800) (s : State) : Completes (.sensorSample rs) s fun t =>
    ∀ k, (∀ i, i < 4 → rs.getD (4 * k.val + i) 0 ≤ (t.die k).tj) ∧ (∃ i, i < 4 ∧ (t.die k).tj = rs.getD (4 * k.val + i) 0) ∧
      (t.die k).tjMax = max (s.die k).tjMax (t.die k).tj := by
  have hlt : hottest (sampledState s rs) < 800 := by
    refine hottest_lt (fun d => ?_) fun x hx => ?_
    · obtain ⟨i, -, hi⟩ := exists_dieReading rs d
      rw [sampledState_die]
      exact (congrArg (· < 800) hi).mpr (getD_lt (by decide) h _)
    · rw [sampledState_hub] at hx
      obtain ⟨i, hi⟩ : ∃ i : Fin 5, rs.getD (32 + i.val) 0 = x := Vector.mem_ofFn.mp (Vector.mem_toList_iff.mp hx)
      rw [← hi]
      exact getD_lt (by decide) h _
  have hcool : ¬ ((critOf (sampledState s rs).hub.pwr * 8 : Int) ≤ hottest (sampledState s rs) && poweredOn (sampledState s rs)) = true := by
    have hcrit := le_critOf (sampledState s rs).hub.pwr
    rw [Bool.and_eq_true, decide_eq_true_eq]
    omega
  refine completes_of_next ((exec_sensorSample rs s).trans (congrArg _ (if_neg hcool))) fun k => ?_
  rw [sampledState_die]
  exact ⟨fun i hi => le_dieReading rs k hi, exists_dieReading rs k, rfl⟩

theorem sensorSample_crit {rs : List Int} {s : State} (h : ∃ i, i < 32 ∧ (critOf s.hub.pwr * 8 : Int) ≤ rs.getD i 0)
    (hon : poweredOn s = true) : Completes (.sensorSample rs) s fun t =>
      t.hub.pwr.trip = some s.hub.ns ∧ t.hub.hl.attn.getLsbD 2 = true ∧ ∀ c, (t.core c).gate = .powerGated ∧ (t.sc c).strip = none := by
  obtain ⟨i, hi, hcrit⟩ := h
  have hhot : rs.getD i 0 ≤ hottest (sampledState s rs) := by
    have hdie : i = 4 * (⟨i / 4, by omega⟩ : DieId).val + i % 4 := by
      show i = 4 * (i / 4) + i % 4
      omega
    calc rs.getD i 0 ≤ dieReading rs ⟨i / 4, by omega⟩ := by
          have hle := le_dieReading rs ⟨i / 4, by omega⟩ (Nat.mod_lt i (by decide : 0 < 4))
          rwa [← hdie] at hle
      _ = ((sampledState s rs).die ⟨i / 4, by omega⟩).tj := by rw [sampledState_die]; rfl
      _ ≤ hottest (sampledState s rs) := tj_le_hottest _ _
  have htrip : ((critOf (sampledState s rs).hub.pwr * 8 : Int) ≤ hottest (sampledState s rs) && poweredOn (sampledState s rs)) = true := by
    rw [poweredOn_sampledState, hon, Bool.and_true, decide_eq_true_eq, sampledState_hub]
    exact hcrit.trans hhot
  refine completes_of_next ((exec_sensorSample rs s).trans (congrArg _ (if_pos htrip))) ?_
  have hns : (sampledState s rs).hub.ns = s.hub.ns := by rw [sampledState_hub]
  rw [← hns]
  exact thermalTrip_stops _

/-! ### THROTTLE (R476) -/

theorem le_slowest {l : List Nat} {x : Nat} (hx : x ∈ l) : x ≤ slowest l := le_foldl_max 0 (Or.inl hx)

theorem slowest_le {l : List Nat} {m : Nat} (hl : ∀ x ∈ l, x ≤ m) : slowest l ≤ m := by
  suffices h : ∀ a, a ≤ m → l.foldl max a ≤ m from h 0 (Nat.zero_le _)
  induction l with
  | nil => exact fun a ha => ha
  | cons y ys ih =>
    exact fun a ha => ih (fun x hx => hl x (List.mem_cons_of_mem _ hx)) _ (max_le ha (hl y List.mem_cons_self))

theorem thermalCheck_hot {d : DieId} {s : State} (n : Nat) (hhot : (s.hub.pwr.throttle * 8 : Int) ≤ (s.die d).tj)
    (hmax : ∀ k, k ∈ stepSet s d → (s.die k).thermal ≤ (s.die d).thermal) (hd : d ∈ stepSet s d) :
    Completes (.thermalCheck n) s fun t => (t.die d).thermal = min 7 ((s.die d).thermal + 1) ∧ t.hub.hl.attn.getLsbD 2 = true := by
  have hslow : slowest ((stepSet s d).map fun e => (s.die e).thermal) = (s.die d).thermal := by
    refine Nat.le_antisymm (slowest_le fun x hx => ?_) (le_slowest (List.mem_map.mpr ⟨d, hd, rfl⟩))
    obtain ⟨k, hk, rfl⟩ := List.mem_map.mp hx
    exact hmax k hk
  have hset : ((stepSet s d).any fun e => decide ((s.hub.pwr.throttle * 8 : Int) ≤ (s.die e).tj)) = true :=
    List.any_eq_true.mpr ⟨d, hd, decide_eq_true hhot⟩
  have hany : (allDies.any fun e => decide ((s.hub.pwr.throttle * 8 : Int) ≤ (s.die e).tj)) = true :=
    List.any_eq_true.mpr ⟨d, mem_allDies d, decide_eq_true hhot⟩
  have hmove : thermalMove (s.atNs n) d (s.atNs n).hub.ns (s.die d) = { s.die d with thermal := min 7 ((s.die d).thermal + 1) } := by
    unfold thermalMove
    dsimp only
    rw [if_pos (by exact hset), satAdd_eq_min]
    exact congrArg (fun m => { s.die d with thermal := min 7 (m + 1) }) hslow
  have hexec : exec (.thermalCheck n) s = execThermalCheck n s := rfl
  unfold execThermalCheck at hexec
  dsimp only at hexec
  rw [if_pos (by exact hany)] at hexec
  refine completes_of_next hexec ⟨?_, attention_attn_self _ (by decide)⟩
  rw [attention_die, forAll_allDies_die fun e => thermalMove (s.atNs n) e (s.atNs n).hub.ns]
  exact congrArg Die.thermal hmove

theorem pwrTjClear_completes (d : DieId) (s : State) : Completes (.pwrTjClear d) s fun t =>
    t.die d = { s.die d with tjMax := (s.die d).tj } ∧ t.hub = s.hub ∧ t.cores = s.cores ∧ ∀ k, k ≠ d → t.die k = s.die k :=
  completes_of_next (t := tjClear d s) rfl
    ⟨State.onDie_die_self .., rfl, rfl, fun _ hk => State.onDie_die_ne _ _ _ _ hk.symm⟩

/-- Settles O44. -/
theorem powerLimits : Obligations.PowerLimits := by
  intro d n watts rs s
  exact ⟨fun h => inputPowerCheck_over h s, fun _ => inputPowerCheck_low, fun h _ => sensorSample_cool h s, sensorSample_crit,
    thermalCheck_hot n, pwrTjClear_completes d s⟩

end Sys2Proof.Machine
end

section
/-! SUPPORT. Settles O45: the two inputs and the switch between them (R448, R477, R513). -/

namespace Sys2Proof.Machine

open Sys2Proof

/- Elaborated one by one, the proofs do not wait for one another's equation lemmas. -/
set_option Elab.async false

/-! ### The voltage of the input in use -/

theorem readVin_pwr (droop : Bool) (s : State) : ∃ v, (readVin droop s).hub.pwr = { s.hub.pwr with vin := v } :=
  ⟨_, rfl⟩

/-- A reading alters nothing of the power registers but VIN. -/
theorem readVin_proj {α : Type} (π : Pwr → α) (droop : Bool) (s : State) (hπ : ∀ p v, π { p with vin := v } = π p := by exact fun _ _ => rfl) :
    π (readVin droop s).hub.pwr = π s.hub.pwr :=
  hπ _ _

theorem switchTo_pwr (b : Bool) (s : State) : (switchTo b s).hub.pwr.onBackup = b ∧
    (switchTo b s).hub.pwr.switches = min 0xFFFF (s.hub.pwr.switches + 1) ∧ (switchTo b s).hub.hl.attn.getLsbD 1 = true := by
  unfold switchTo
  rw [attention_hub_pwr, readVin_proj Pwr.onBackup, readVin_proj Pwr.switches]
  exact ⟨rfl, satAdd_eq_min .., attention_attn_self _ (by decide)⟩

/-- The registers that a switch leaves: which inputs are in range, and since when both are out. -/
theorem switchTo_inputs (b : Bool) (s : State) : (switchTo b s).hub.pwr.mainOk = s.hub.pwr.mainOk ∧
    (switchTo b s).hub.pwr.backupOk = s.hub.pwr.backupOk ∧ (switchTo b s).hub.pwr.outSince = s.hub.pwr.outSince := by
  unfold switchTo
  rw [attention_hub_pwr, readVin_proj Pwr.mainOk, readVin_proj Pwr.backupOk, readVin_proj Pwr.outSince]
  exact ⟨rfl, rfl, rfl⟩

theorem inputOk_congr {p q : Pwr} (hm : p.mainOk = q.mainOk) (hb : p.backupOk = q.backupOk) (b : Bool) : inputOk p b = inputOk q b := by
  cases b
  · exact hm
  · exact hb

theorem switchOver_of_usable {s : State} (h : inputOk s.hub.pwr s.hub.pwr.onBackup = true ∨ inputOk s.hub.pwr (!s.hub.pwr.onBackup) = false) :
    switchOver s = readVin false s := by
  unfold switchOver
  dsimp only
  rw [if_neg]
  rcases h with h | h <;> simp [h]

theorem switchOver_of_lost {s : State} (h : inputOk s.hub.pwr s.hub.pwr.onBackup = false) (ho : inputOk s.hub.pwr (!s.hub.pwr.onBackup) = true) :
    switchOver s = switchTo (!s.hub.pwr.onBackup) s := by
  unfold switchOver
  dsimp only
  rw [if_pos]
  simp [h, ho]

/-! ### An input leaves its range -/

/-- The power registers once input `b` is out of range at time `now`. -/
def withInputOut (b : Bool) (now : Nat) (p : Pwr) : Pwr :=
  let p := if b then { p with backupOk := false, backupSince := none } else { p with mainOk := false, mainSince := none }
  { p with outSince := if p.mainOk || p.backupOk then none else some (p.outSince.getD now) }

theorem exec_supplyOutOfRange (b : Bool) (ns : Nat) (s : State) :
    exec (.supplyOutOfRange b ns) s = .next (switchOver ((s.atNs ns).onPwr (withInputOut b (s.atNs ns).hub.ns))) := rfl

theorem withInputOut_self (b : Bool) (now : Nat) (p : Pwr) : inputOk (withInputOut b now p) b = false := by
  cases b <;> rfl

theorem withInputOut_other (b : Bool) (now : Nat) (p : Pwr) : inputOk (withInputOut b now p) (!b) = inputOk p (!b) := by
  cases b <;> rfl

theorem withInputOut_outSince (b : Bool) (now : Nat) (p : Pwr) :
    (withInputOut b now p).outSince = if inputOk p (!b) then none else some (p.outSince.getD now) := by
  cases b <;> simp [withInputOut, inputOk]

theorem withInputOut_kept (b : Bool) (now : Nat) (p : Pwr) :
    (withInputOut b now p).onBackup = p.onBackup ∧ (withInputOut b now p).switches = p.switches := by
  cases b <;> exact ⟨rfl, rfl⟩

theorem supplyOutOfRange_switches {b : Bool} {s : State} (ns : Nat) (hon : s.hub.pwr.onBackup = b) (hother : inputOk s.hub.pwr (!b) = true) :
    Completes (.supplyOutOfRange b ns) s fun t =>
      t.hub.pwr.onBackup = !b ∧ inputOk t.hub.pwr b = false ∧ inputOk t.hub.pwr (!b) = true ∧ t.hub.pwr.outSince = none ∧
      t.hub.pwr.switches = min 0xFFFF (s.hub.pwr.switches + 1) ∧ t.hub.hl.attn.getLsbD 1 = true := by
  refine completes_of_next (exec_supplyOutOfRange b ns s) ?_
  generalize hu : (s.atNs ns).onPwr (withInputOut b (s.atNs ns).hub.ns) = u
  have hp : u.hub.pwr = withInputOut b (s.atNs ns).hub.ns s.hub.pwr := hu ▸ rfl
  obtain ⟨hback, hcount⟩ := withInputOut_kept b (s.atNs ns).hub.ns s.hub.pwr
  have hself : inputOk u.hub.pwr b = false := hp ▸ withInputOut_self ..
  have hok : inputOk u.hub.pwr (!b) = true := by rw [hp, withInputOut_other, hother]
  have honu : u.hub.pwr.onBackup = b := by rw [hp, hback, hon]
  rw [switchOver_of_lost (by rw [honu, hself]) (by rw [honu, hok]), honu]
  obtain ⟨hb, hsw, hattn⟩ := switchTo_pwr (!b) u
  obtain ⟨hmain, hbackup, hout⟩ := switchTo_inputs (!b) u
  refine ⟨hb, ?_, ?_, ?_, ?_, hattn⟩
  · rw [inputOk_congr hmain hbackup, hself]
  · rw [inputOk_congr hmain hbackup, hok]
  · rw [hout, hp, withInputOut_outSince, if_pos hother]
  · rw [hsw, hp, hcount]

theorem both_out_of_inputOk {p : Pwr} {b : Bool} (h : inputOk p b = false) (h' : inputOk p (!b) = false) :
    p.mainOk = false ∧ p.backupOk = false := by
  cases b
  · exact ⟨h, h'⟩
  · exact ⟨h', h⟩

theorem supplyOutOfRange_last {b : Bool} {s : State} (ns : Nat) (hother : inputOk s.hub.pwr (!b) = false) (hsince : s.hub.pwr.outSince = none) :
    Completes (.supplyOutOfRange b ns) s fun t =>
      t.hub.pwr.onBackup = s.hub.pwr.onBackup ∧ t.hub.pwr.mainOk = false ∧ t.hub.pwr.backupOk = false ∧
      t.hub.pwr.outSince = some (s.atNs ns).hub.ns ∧ t.hub.pwr.switches = s.hub.pwr.switches := by
  refine completes_of_next (exec_supplyOutOfRange b ns s) ?_
  generalize hu : (s.atNs ns).onPwr (withInputOut b (s.atNs ns).hub.ns) = u
  have hp : u.hub.pwr = withInputOut b (s.atNs ns).hub.ns s.hub.pwr := hu ▸ rfl
  obtain ⟨hback, hcount⟩ := withInputOut_kept b (s.atNs ns).hub.ns s.hub.pwr
  obtain ⟨hmain, hbackup⟩ : u.hub.pwr.mainOk = false ∧ u.hub.pwr.backupOk = false :=
    both_out_of_inputOk (b := b) (hp ▸ withInputOut_self ..) (by rw [hp, withInputOut_other, hother])
  have hout (c : Bool) : inputOk u.hub.pwr c = false := by cases c <;> assumption
  rw [switchOver_of_usable (Or.inr (hout _)), readVin_proj Pwr.onBackup, readVin_proj Pwr.mainOk, readVin_proj Pwr.backupOk,
    readVin_proj Pwr.outSince, readVin_proj Pwr.switches]
  refine ⟨by rw [hp, hback], hmain, hbackup, ?_, by rw [hp, hcount]⟩
  rw [hp, withInputOut_outSince, hother, hsince]
  rfl

/-! ### An input comes back -/

/-- The power registers once input `b` is in range at time `now`. -/
def withInputIn (b : Bool) (now : Nat) (p : Pwr) : Pwr :=
  let p := if b then { p with backupOk := true, backupSince := some (p.backupSince.getD now) }
    else { p with mainOk := true, mainSince := some (p.mainSince.getD now) }
  { p with outSince := none }

theorem supplyInRange_completes {b : Bool} {s : State} (ns : Nat) (hmate : s.hub.pwr.mateOpen = false)
    (hok : inputOk s.hub.pwr s.hub.pwr.onBackup = true) : Completes (.supplyInRange b ns) s fun t =>
      inputOk t.hub.pwr b = true ∧ t.hub.pwr.onBackup = s.hub.pwr.onBackup ∧ t.hub.pwr.outSince = none ∧
      t.hub.pwr.switches = s.hub.pwr.switches := by
  have hdue : (!(s.atNs ns).hub.pwr.mateOpen) = true := by
    show (!s.hub.pwr.mateOpen) = true
    rw [hmate]
    rfl
  have hexec : exec (.supplyInRange b ns) s = .next (switchOver ((s.atNs ns).onPwr (withInputIn b (s.atNs ns).hub.ns))) :=
    whenDue_of_due hdue (fun s' => switchOver (s'.onPwr (withInputIn b (s.atNs ns).hub.ns))) (s.atNs ns)
  refine completes_of_next hexec ?_
  generalize hu : (s.atNs ns).onPwr (withInputIn b (s.atNs ns).hub.ns) = u
  have hp : u.hub.pwr = withInputIn b (s.atNs ns).hub.ns s.hub.pwr := hu ▸ rfl
  have hin : inputOk u.hub.pwr b = true := by
    rw [hp]
    cases b <;> rfl
  have hback : u.hub.pwr.onBackup = s.hub.pwr.onBackup := by
    rw [hp]
    cases b <;> rfl
  have husable : inputOk u.hub.pwr u.hub.pwr.onBackup = true := by
    rw [hback, hp]
    revert hok
    cases b <;> cases s.hub.pwr.onBackup <;> simp [withInputIn, inputOk]
  rw [switchOver_of_usable (Or.inl husable), inputOk_congr (readVin_proj Pwr.mainOk false u) (readVin_proj Pwr.backupOk false u),
    readVin_proj Pwr.onBackup, readVin_proj Pwr.outSince, readVin_proj Pwr.switches]
  refine ⟨hin, hback, ?_, ?_⟩ <;> rw [hp] <;> cases b <;> rfl

theorem supplyReturn_completes {m ns : Nat} {s : State} (hpref : s.hub.pwr.prefer ≠ s.hub.pwr.onBackup)
    (hok : inputOk s.hub.pwr s.hub.pwr.prefer = true) (hsince : inputSince s.hub.pwr s.hub.pwr.prefer = some m)
    (hlong : m + (if s.hub.pwr.returnMs = 0 then 1 else s.hub.pwr.returnMs) * 1000000 ≤ (s.atNs ns).hub.ns) :
    Completes (.supplyReturn ns) s fun t => t.hub.pwr.onBackup = s.hub.pwr.prefer ∧
      t.hub.pwr.switches = min 0xFFFF (s.hub.pwr.switches + 1) ∧ t.hub.hl.attn.getLsbD 1 = true := by
  have hpwr : (s.atNs ns).hub.pwr = s.hub.pwr := rfl
  have hdue : ((s.atNs ns).hub.pwr.onBackup != (s.atNs ns).hub.pwr.prefer && inputOk (s.atNs ns).hub.pwr (s.atNs ns).hub.pwr.prefer &&
      (inputSince (s.atNs ns).hub.pwr (s.atNs ns).hub.pwr.prefer).any fun a =>
        a + (if (s.atNs ns).hub.pwr.returnMs == 0 then 1 else (s.atNs ns).hub.pwr.returnMs) * 1000000 ≤ (s.atNs ns).hub.ns) = true := by
    have hms : (if s.hub.pwr.returnMs == 0 then 1 else s.hub.pwr.returnMs) = if s.hub.pwr.returnMs = 0 then 1 else s.hub.pwr.returnMs := by
      simp only [beq_iff_eq]
    rw [hpwr, hok, hsince, Option.any_some, bne_iff_ne.mpr hpref.symm, hms, Bool.true_and, Bool.true_and]
    exact decide_eq_true hlong
  refine completes_of_next (whenDue_of_due hdue (switchTo (s.atNs ns).hub.pwr.prefer) _) ?_
  exact switchTo_pwr s.hub.pwr.prefer (s.atNs ns)

theorem droopEvent_completes (ns : Nat) (s : State) : Completes (.droopEvent ns) s fun t =>
    t.hub.pwr.droops = min 0xFFFF (s.hub.pwr.droops + 1) ∧
    t.hub.riskIn = (s.hub.riskIn.1, s.hub.riskIn.2.1, s.hub.riskIn.2.2 + 1) ∧ t.cores = s.cores ∧ t.mem = s.mem := by
  refine completes_of_next (t := readVin true _) rfl ⟨?_, rfl, rfl, rfl⟩
  rw [readVin_proj Pwr.droops]
  exact satAdd_eq_min ..

theorem mateSenseChange_open (ns : Nat) (s : State) : Completes (.mateSenseChange true ns) s fun t =>
    t.hub.pwr.mateOpen = true ∧ t.hub.pwr.mainOk = false ∧ t.hub.pwr.backupOk = false ∧ t.hub.pwr.onBackup = s.hub.pwr.onBackup := by
  refine completes_of_next (t := unmate (s.atNs ns)) rfl ?_
  unfold unmate
  rw [readVin_proj Pwr.mateOpen, readVin_proj Pwr.mainOk, readVin_proj Pwr.backupOk, readVin_proj Pwr.onBackup]
  exact ⟨rfl, rfl, rfl, rfl⟩

theorem mateSenseChange_closed (ns : Nat) (s : State) : Completes (.mateSenseChange false ns) s fun t =>
    t.hub.pwr.mateOpen = false ∧ t.hub.pwr.mainOk = s.hub.pwr.mainOk ∧ t.hub.pwr.backupOk = s.hub.pwr.backupOk :=
  completes_of_next (t := (s.atNs ns).onPwr fun p => { p with mateOpen := false }) rfl ⟨rfl, rfl, rfl⟩

/-- Settles O45. -/
theorem suppliesSwitch : Obligations.SuppliesSwitch := by
  intro b ns s a ha
  subst ha
  exact ⟨supplyOutOfRange_switches ns, supplyOutOfRange_last ns, supplyInRange_completes ns,
    fun _ hpref hok hsince hlong => supplyReturn_completes hpref hok hsince hlong, droopEvent_completes ns s, mateSenseChange_open ns s,
    mateSenseChange_closed ns s⟩

end Sys2Proof.Machine
end

section
/-! SUPPORT. Settles O46: power failure, the rails, restart and cold start, and the straps (R381, R446, R476 to R480, R495, R506, R515). -/

namespace Sys2Proof.Machine

open Sys2Proof

/- Elaborated one by one, the proofs do not wait for one another's equation lemmas. -/
set_option Elab.async false

/-- A time that lies long enough in the past. -/
theorem any_elapsed {t : Option Nat} {a k now : Nat} (ht : t = some a) (h : a + k ≤ now) : (t.any fun a => decide (a + k ≤ now)) = true := by
  subst ht
  rw [Option.any_some]
  exact decide_eq_true h

/-! ### A power failure -/

theorem abandonCore_die_stopped (c : CoreId) (s : State) (d : DieId) : ((abandonCore c s).die d).stopped = (s.die d).stopped := by
  unfold abandonCore
  rw [powerGate_die, State.onSc_die, dropOrdered_die, (dropRequests_stirs (Stirs.refl _) c).die d Die.stopped, State.onE_die]

theorem abandonSnapshot_hub_store (x : CtxId) (s : State) : (abandonSnapshot x s).hub.store = s.hub.store := by
  unfold abandonSnapshot
  split <;> rfl

theorem abandonSnapshot_mem (x : CtxId) (s : State) : (abandonSnapshot x s).mem = s.mem := by
  unfold abandonSnapshot
  split <;> rfl

theorem abandonSnapshot_die (x : CtxId) (s : State) (d : DieId) : (abandonSnapshot x s).die d = s.die d := by
  unfold abandonSnapshot
  split <;> rfl

theorem abandonCore_mem (c : CoreId) (s : State) : (abandonCore c s).mem = s.mem := by
  unfold abandonCore
  simp

/-- A shutdown writes no row and nothing of the snapshot store. -/
theorem shutDown_mem_store (s : State) : (shutDown s).mem = s.mem ∧ (shutDown s).hub.store = s.hub.store := by
  unfold shutDown
  dsimp only
  refine ⟨?_, ?_⟩
  · rw [forAll_keep State.mem, forAll_keep State.mem, forAll_keep State.mem, forAll_keep State.mem]
    · exact fun _ _ _ => rfl
    · exact fun c _ t => abandonCore_mem c t
    · exact fun _ _ _ => rfl
    · exact fun x _ t => abandonSnapshot_mem x t
  · rw [forAll_keep (fun t => t.hub.store), forAll_keep (fun t => t.hub.store), forAll_keep (fun t => t.hub.store),
      forAll_keep (fun t => t.hub.store)]
    · exact fun _ _ _ => rfl
    · exact fun c _ t => congrArg Hub.store (abandonCore_hub c t)
    · exact fun _ _ _ => rfl
    · exact fun x _ t => abandonSnapshot_hub_store x t

theorem shutDown_die_stopped (s : State) (d : DieId) : ((shutDown s).die d).stopped = some (s.hub.ns / 2) := by
  unfold shutDown
  dsimp only
  rw [forAll_keep (fun t => (t.die d).stopped), forAll_keep (fun t => (t.die d).stopped), forAll_keep (fun t => (t.die d).stopped),
    forAll_allDies_die fun _ k => { k with stopped := some (s.hub.ns / 2), wakeQ := [] }]
  · exact fun c _ t => abandonCore_die_stopped c t d
  · exact fun _ _ _ => rfl
  · exact fun x _ t => congrArg Die.stopped (abandonSnapshot_die x t d)

theorem powerFail_completes {ns o : Nat} {s : State} (hon : s.hub.pwr.alwaysOn = true) (hfail : s.hub.pwr.fail = none)
    (hout : s.hub.pwr.outSince = some o) (hlong : o + 2000 ≤ (s.atNs ns).hub.ns) : Completes (.powerFail ns) s fun t =>
      t.hub.pwr.fail = some (s.atNs ns).hub.ns ∧ t.mem = s.mem ∧ t.hub.store = s.hub.store ∧
      (∀ d, (t.die d).stopped = some ((s.atNs ns).hub.ns / 2)) ∧
      ∀ c, (t.core c).gate = .powerGated ∧ (t.sc c).strip = none ∧ (t.sc c).held = 0 ∧ (t.cm c).hop = [] := by
  have hdue : ((s.atNs ns).hub.pwr.alwaysOn && (s.atNs ns).hub.pwr.fail.isNone &&
      (s.atNs ns).hub.pwr.outSince.any fun a => a + 2000 ≤ (s.atNs ns).hub.ns) = true := by
    rw [show (s.atNs ns).hub.pwr = s.hub.pwr from rfl, hon, hfail, any_elapsed hout hlong]
    rfl
  refine completes_of_next (whenDue_of_due hdue (fun s' => shutDown (s'.onPwr fun p => { p with fail := some (s.atNs ns).hub.ns })) _) ?_
  generalize hu : ((s.atNs ns).onPwr fun p => { p with fail := some (s.atNs ns).hub.ns }) = u
  obtain ⟨hmem, hstore⟩ := shutDown_mem_store u
  refine ⟨?_, ?_, ?_, fun d => ?_, fun c => shutDown_stopped c u⟩
  · rw [shutDown_pwr, ← hu]
    rfl
  · rw [hmem, ← hu]
    rfl
  · rw [hstore, ← hu]
    rfl
  · rw [shutDown_die_stopped, ← hu]
    rfl

/-! ### The rails go -/

theorem railsOff_eq (s : State) : (railsOff s).mem = [] ∧ (railsOff s).net = [] ∧ (railsOff s).hub.pwr = { s.hub.pwr with railsUp := false } ∧
    (railsOff s).hub.store = s.hub.store ∧ ∀ p, (railsOff s).port p = Port.reset := by
  have hhub : (forAll allPorts (fun p t => t.setPort p Port.reset) s).hub = s.hub := forAll_keep State.hub _ _ _ fun _ _ _ => rfl
  have hport (p : PortId) : (forAll allPorts (fun p t => t.setPort p Port.reset) s).port p = Port.reset := by
    refine forAll_establishes (fun t => t.port p = Port.reset) (mem_allPorts p) _ s (fun t => State.setPort_port_self ..) fun q t ht => ?_
    by_cases h : q = p
    · subst h
      exact State.setPort_port_self ..
    · rw [State.setPort_port_ne _ _ _ _ h]
      exact ht
  unfold railsOff
  generalize forAll allPorts (fun p t => t.setPort p Port.reset) s = u at hhub hport
  refine ⟨rfl, rfl, ?_, ?_, hport⟩ <;> rw [← hhub] <;> rfl

theorem hubOff_eq (on : Bool) (s : State) : (hubOff on s).hub.pwr.railsUp = s.hub.pwr.railsUp ∧ (hubOff on s).hub.pwr.hubUp = false ∧
    (hubOff on s).mem = s.mem ∧ (hubOff on s).net = s.net ∧ (∀ p, (hubOff on s).port p = s.port p) ∧ (hubOff on s).hub.pwr.alwaysOn = on ∧
    (hubOff on s).hub.store = s.hub.store :=
  ⟨rfl, rfl, rfl, rfl, fun _ => rfl, rfl, rfl⟩

theorem shutdownRailsOff_fail {ns o : Nat} {s : State} (hrails : s.hub.pwr.railsUp = true) (hfail : s.hub.pwr.fail = some o)
    (hlong : o + 4000000 ≤ (s.atNs ns).hub.ns) : Completes (.shutdownRailsOff ns) s fun t =>
      t.hub.pwr.railsUp = false ∧ t.hub.pwr.hubUp = false ∧ t.mem = [] ∧ t.net = [] ∧ (∀ p, t.port p = Port.reset) ∧
      t.hub.pwr.alwaysOn = (s.hub.pwr.mainOk || s.hub.pwr.backupOk) ∧ t.hub.store = s.hub.store := by
  have hpwr : (s.atNs ns).hub.pwr = s.hub.pwr := rfl
  have hdue : ((s.atNs ns).hub.pwr.railsUp && ((s.atNs ns).hub.pwr.fail.any (fun a => a + 4000000 ≤ (s.atNs ns).hub.ns) ||
      (s.atNs ns).hub.pwr.trip.any fun a => a + 4000000 ≤ (s.atNs ns).hub.ns)) = true := by
    rw [hpwr, hrails, any_elapsed hfail hlong, Bool.true_or, Bool.and_self]
  refine completes_of_next (whenDue_of_due hdue (fun s' => if (s.atNs ns).hub.pwr.fail.isNone then railsOff s' else
    hubOff ((s.atNs ns).hub.pwr.mainOk || (s.atNs ns).hub.pwr.backupOk) (railsOff s')) _) ?_
  obtain ⟨hmem, hnet, hp, hstore, hport⟩ := railsOff_eq (s.atNs ns)
  obtain ⟨hrails', hhub, hmem', hnet', hport', hon, hstore'⟩ :=
    hubOff_eq (s.hub.pwr.mainOk || s.hub.pwr.backupOk) (railsOff (s.atNs ns))
  simp only [hpwr, hfail, Option.isNone_some, Bool.false_eq_true, if_false]
  exact ⟨hrails'.trans (by rw [hp]), hhub, hmem'.trans hmem, hnet'.trans hnet, fun p => (hport' p).trans (hport p), hon,
    hstore'.trans hstore⟩

theorem shutdownRailsOff_trip {ns o : Nat} {s : State} (hrails : s.hub.pwr.railsUp = true) (hfail : s.hub.pwr.fail = none)
    (htrip : s.hub.pwr.trip = some o) (hlong : o + 4000000 ≤ (s.atNs ns).hub.ns) : Completes (.shutdownRailsOff ns) s fun t =>
      t.hub.pwr.railsUp = false ∧ t.hub.pwr.hubUp = s.hub.pwr.hubUp ∧ t.mem = [] ∧ t.hub.pwr.alwaysOn = s.hub.pwr.alwaysOn := by
  have hpwr : (s.atNs ns).hub.pwr = s.hub.pwr := rfl
  have hdue : ((s.atNs ns).hub.pwr.railsUp && ((s.atNs ns).hub.pwr.fail.any (fun a => a + 4000000 ≤ (s.atNs ns).hub.ns) ||
      (s.atNs ns).hub.pwr.trip.any fun a => a + 4000000 ≤ (s.atNs ns).hub.ns)) = true := by
    rw [hpwr, hrails, any_elapsed htrip hlong, Bool.or_true, Bool.and_self]
  refine completes_of_next (whenDue_of_due hdue (fun s' => if (s.atNs ns).hub.pwr.fail.isNone then railsOff s' else
    hubOff ((s.atNs ns).hub.pwr.mainOk || (s.atNs ns).hub.pwr.backupOk) (railsOff s')) _) ?_
  obtain ⟨hmem, -, hp, -, -⟩ := railsOff_eq (s.atNs ns)
  simp only [hpwr, hfail, Option.isNone_none, if_true]
  rw [hp, hpwr]
  exact ⟨rfl, rfl, hmem, rfl⟩

/-! ### Restart, cold start and straps -/

theorem coldReset_eq (s : State) : (coldReset s).cores = State.reset.cores ∧ (coldReset s).dies = State.reset.dies ∧
    (coldReset s).ports = State.reset.ports ∧ (coldReset s).mem = [] ∧ (coldReset s).net = [] ∧ (coldReset s).hub.store = s.hub.store ∧
    (coldReset s).hub.firmware = s.hub.firmware ∧ (coldReset s).hub.cal = s.hub.cal ∧ (coldReset s).hub.fuses = s.hub.fuses ∧
    (coldReset s).hub.pwr.fail = none ∧ (coldReset s).hub.pwr.mainOk = s.hub.pwr.mainOk ∧ (coldReset s).pending = s.pending :=
  ⟨rfl, rfl, rfl, rfl, rfl, rfl, rfl, rfl, rfl, rfl, rfl, rfl⟩

theorem inRangeFor_of_main {s : State} {o m : Nat} (h : s.hub.pwr.mainSince = some o) (hlong : o + m ≤ s.hub.ns) : inRangeFor s m = true := by
  rw [inRangeFor, any_elapsed h hlong, Bool.true_or]

theorem restart_resets {i : Instr} {ns m o : Nat} {s : State}
    (hi : i = Instr.powerFailRestart ns ∧ m = 100000000 ∧ s.hub.pwr.fail.isSome ∧ s.hub.pwr.railsUp = false ∨
      i = Instr.coldStart ns ∧ m = 10000000 ∧ s.hub.pwr.alwaysOn = false)
    (hsince : s.hub.pwr.mainSince = some o) (hlong : o + m ≤ (s.atNs ns).hub.ns) :
    exec i s = .next (coldReset (s.atNs ns)) := by
  have hrange : inRangeFor (s.atNs ns) m = true := inRangeFor_of_main hsince hlong
  rcases hi with ⟨rfl, rfl, hfail, hrails⟩ | ⟨rfl, rfl, hon⟩
  · have hdue : ((s.atNs ns).hub.pwr.fail.isSome && !(s.atNs ns).hub.pwr.railsUp && inRangeFor (s.atNs ns) 100000000) = true := by
      rw [hrange, show (s.atNs ns).hub.pwr = s.hub.pwr from rfl, hfail, hrails]
      rfl
    exact whenDue_of_due hdue coldReset _
  · have hdue : (!(s.atNs ns).hub.pwr.alwaysOn && inRangeFor (s.atNs ns) 10000000) = true := by
      rw [hrange, show (s.atNs ns).hub.pwr = s.hub.pwr from rfl, hon]
      rfl
    exact whenDue_of_due hdue coldReset _

theorem strapSample_first (pos : BitVec 16) (m b : BitVec 8) (w : Bool) {s : State} (h : s.hub.hl.strapped = false) :
    Completes (.strapSample pos m b w) s fun t =>
      t.hub.position = pos.toNat ∧ t.hub.feedMain = m.toNat ∧ t.hub.feedBkp = b.toNat ∧ t.hub.tb.master = w ∧ t.hub.hl.strapped = true ∧
      t.cores = s.cores ∧ t.mem = s.mem :=
  completes_of_due (b := !s.hub.hl.strapped) (execStrapSample pos m b w) (by rw [h]; rfl) ⟨rfl, rfl, rfl, rfl, rfl, rfl, rfl⟩

theorem strapSample_again (pos : BitVec 16) (m b : BitVec 8) (w : Bool) {s : State} (h : s.hub.hl.strapped = true) :
    Completes (.strapSample pos m b w) s fun t => t = s := by
  have hexec : exec (.strapSample pos m b w) s = execStrapSample pos m b w s := rfl
  unfold execStrapSample at hexec
  rw [whenDue, if_neg (by simp [h])] at hexec
  exact completes_of_next hexec rfl

/-- Settles O46. -/
theorem powerFailsAndReturns : Obligations.PowerFailsAndReturns := by
  intro ns s a ha
  subst ha
  refine ⟨fun _ => powerFail_completes, fun _ => shutdownRailsOff_fail, fun _ => shutdownRailsOff_trip, ?_,
    fun pos m b w => strapSample_first pos m b w, fun pos m b w => strapSample_again pos m b w⟩
  intro i m o hi hsince hlong
  exact completes_of_next (restart_resets hi hsince hlong) (coldReset_eq (s.atNs ns))

end Sys2Proof.Machine
end

section
/-! SUPPORT. Settles O29: link ports, the route table and the torus (R366, R369, R371, R372, R374, R386). -/

namespace Sys2Proof.Machine

open Sys2Proof

/- Elaborated one by one, the proofs do not wait for one another's equation lemmas. -/
set_option Elab.async false

/-! ### What items that leave alter of a port -/

/-- A port without the flits that wait to leave by it. -/
def Port.unrouted (k : Port) : Port := { k with out := Vector.replicate 3 [] }

theorem onPort_unrouted {f : Port → Port} (q p : PortId) (s : State) (hf : ∀ k, (f k).unrouted = k.unrouted) :
    ((s.onPort q f).port p).unrouted = (s.port p).unrouted := by
  by_cases h : q = p
  · subst h
    rw [State.onPort_port_self, hf]
  · rw [State.onPort_port_ne _ _ _ _ h]

theorem putItemAt_unrouted (depth : Nat) (i : Item) (s : State) (p : PortId) :
    ((putItemAt depth i s).port p).unrouted = (s.port p).unrouted := by
  induction depth generalizing i with
  | zero =>
    unfold putItemAt
    split
    · rfl
    · exact onPort_unrouted _ _ _ (by exact fun _ => rfl)
    · rfl
    · contradiction
  | succ n ih =>
    unfold putItemAt
    split
    case h_4 heq _ =>
      cases heq
      dsimp only
      split
      · rfl
      · exact ih _
    · rfl
    · exact onPort_unrouted _ _ _ (by exact fun _ => rfl)
    · rfl

theorem putItem_unrouted (i : Item) (s : State) (p : PortId) : ((putItem i s).port p).unrouted = (s.port p).unrouted :=
  putItemAt_unrouted 2 i s p

theorem forAll_putItem_unrouted (l : List Item) (s : State) (p : PortId) :
    ((forAll l putItem s).port p).unrouted = (s.port p).unrouted :=
  forAll_keep (fun t => (t.port p).unrouted) l putItem s fun i _ t => putItem_unrouted i t p

theorem reroute_unrouted (pl : Nat) (x : OutFlit) (s : State) (p : PortId) : ((reroute pl x s).port p).unrouted = (s.port p).unrouted := by
  unfold reroute
  split
  · exact onPort_unrouted _ _ _ (by exact fun _ => rfl)
  · exact forAll_putItem_unrouted _ s p
  · exact forAll_putItem_unrouted _ s p

theorem linkAlarm_port (p q : PortId) (s : State) : (linkAlarm p s).port q = s.port q := by
  unfold linkAlarm
  rw [attention_port, headlandFault_port]

/-! ### A port leaves UP -/

/-- A port that has left UP for state `st` (R371). -/
def Port.left (st : PortState) (k : Port) : Port :=
  { k with state := st, replay := [], seqs := [], resend := 0, nakOut := false, nakDue := false, naks := (0, 0),
           halves := [], resentTo := none, echo := none, tsSent := none, out := Vector.replicate 3 [], wire := none,
           fails := if st == .failed then satAdd 0xFF k.fails 1 else k.fails }

theorem leaveUp_unrouted (p : PortId) (st : PortState) (s : State) :
    ((leaveUp p st s).port p).unrouted = ((s.port p).left st).unrouted := by
  have hkept (l : List Item) (w : List OutFlit) (pl : Nat) (t : State) :
      ((linkAlarm p (forAll w (reroute pl) (forAll l putItem t))).port p).unrouted = (t.port p).unrouted := by
    rw [linkAlarm_port, forAll_keep (fun t => (t.port p).unrouted), forAll_putItem_unrouted]
    exact fun x _ t => reroute_unrouted pl x t p
  unfold leaveUp
  dsimp only
  rw [hkept, State.setPort_port_self]
  rfl

theorem leaveUp_port (p : PortId) (st : PortState) (s : State) :
    ((leaveUp p st s).port p).state = st ∧ ((leaveUp p st s).port p).replay = [] ∧
      ((leaveUp p st s).port p).fails = if st = .failed then min 0xFF ((s.port p).fails + 1) else (s.port p).fails := by
  have h := leaveUp_unrouted p st s
  refine ⟨congrArg Port.state h, congrArg Port.replay h, (congrArg Port.fails h).trans ?_⟩
  simp only [Port.unrouted, Port.left, satAdd_eq_min, beq_iff_eq]

theorem leadFlitTimeout_completes {p : PortId} {ns : Nat} {s : State} (hup : (s.port p).state = .up)
    (hlate : (s.port p).lastLead + 4000 ≤ (s.atNs ns).hub.ns) : Completes (.leadFlitTimeout p ns) s fun t =>
      (t.port p).state = .failed ∧ (t.port p).replay = [] ∧ (t.port p).fails = min 0xFF ((s.port p).fails + 1) := by
  have hdue : (((s.atNs ns).port p).state == .up && ((s.atNs ns).port p).lastLead + 4000 ≤ (s.atNs ns).hub.ns) = true := by
    rw [show (s.atNs ns).port p = s.port p from rfl, hup, Bool.and_eq_true]
    exact ⟨rfl, decide_eq_true hlate⟩
  refine completes_of_next (whenDue_of_due hdue (leaveUp p .failed) _) ?_
  obtain ⟨hstate, hreplay, hfails⟩ := leaveUp_port p .failed (s.atNs ns)
  exact ⟨hstate, hreplay, hfails⟩

theorem portTrainingComplete_completes {p : PortId} {s : State} (ns : Nat) (pos : BitVec 16) (q : PortId) (fl : Nat)
    (h : (s.port p).state = .training ∨ (s.port p).state = .failed) : Completes (.portTrainingComplete p ns pos q fl) s fun t =>
      (t.port p).state = .up ∧ (t.port p).credit = 1024 ∧ (t.port p).fseq = 0 ∧ (t.port p).rseq = 4095 ∧ (t.port p).peerPos = pos.toNat ∧
      (t.port p).peerPort = q.val ∧ (t.port p).flight = min 2047 fl ∧ (t.port p).lastLead = (s.atNs ns).hub.ns ∧
      ∀ k, k ≠ p → t.port k = s.port k := by
  have hdue : (((s.atNs ns).port p).state == .training || ((s.atNs ns).port p).state == .failed) = true := by
    rw [show (s.atNs ns).port p = s.port p from rfl]
    rcases h with h | h <;> rw [h] <;> rfl
  have hexec : exec (.portTrainingComplete p ns pos q fl) s = execPortTrainingComplete p ns pos q fl s := rfl
  unfold execPortTrainingComplete at hexec
  refine completes_of_next (hexec.trans (whenDue_of_due hdue _ _)) ?_
  rw [State.onPort_port_self]
  refine ⟨rfl, rfl, rfl, rfl, rfl, rfl, ?_, rfl, fun k hk => State.onPort_port_ne _ _ _ _ hk.symm⟩
  exact (satAdd_eq_min ..).trans (by rw [Nat.add_zero])

theorem portTo_port (p : PortId) {st : PortState} (s : State) :
    ((portTo p st s).port p).state = st ∧ ((s.port p).state = .up → ((portTo p st s).port p).replay = []) := by
  obtain ⟨hstate, hreplay, -⟩ := leaveUp_port p st s
  unfold portTo
  split
  · exact ⟨hstate, fun _ => hreplay⟩
  · exact ⟨by rw [State.onPort_port_self], fun hup => absurd (beq_iff_eq.mpr hup) ‹_›⟩

theorem lnkCounterClear_completes (p : PortId) (s : State) : Completes (.lnkCounterClear p) s fun t =>
    t.port p = { s.port p with corr := 0, uncorr := 0, retry := 0, fails := 0 } ∧
    t.hub = s.hub ∧ t.cores = s.cores ∧ t.dies = s.dies ∧ t.mem = s.mem ∧ ∀ k, k ≠ p → t.port k = s.port k :=
  completes_of_next (t := s.onPort p fun k => { k with corr := 0, uncorr := 0, retry := 0, fails := 0 }) rfl
    ⟨State.onPort_port_self .., rfl, rfl, rfl, rfl, fun _ hk => State.onPort_port_ne _ _ _ _ hk.symm⟩

/-! ### The route table (R374) -/

/-- The entry that a route table holds for a position; 0x0F where it lists none. -/
def entryAt (l : List (Nat × Nat)) (pos : Nat) : Nat := ((l.find? fun x => x.1 == pos).map Prod.snd).getD 0x0F

theorem routeEntry_eq (s : State) (pos : Nat) : routeEntry s pos = entryAt s.hub.routes pos := by
  unfold routeEntry entryAt
  split <;> simp [*]

theorem entryAt_cons (x : Nat × Nat) (xs : List (Nat × Nat)) (pos : Nat) :
    entryAt (x :: xs) pos = if x.1 = pos then x.2 else entryAt xs pos := by
  unfold entryAt
  by_cases h : x.1 = pos <;> simp [h]

theorem entryAt_of_lt {l : List (Nat × Nat)} {pos : Nat} (h : ∀ x ∈ l, pos < x.1) : entryAt l pos = 0x0F := by
  induction l with
  | nil => rfl
  | cons x xs ih =>
    rw [entryAt_cons, if_neg (h x List.mem_cons_self).ne', ih fun y hy => h y (List.mem_cons_of_mem _ hy)]

/-- A write of 0x0F is the absence of an entry. -/
theorem entryAt_insert (pos e k : Nat) {l : List (Nat × Nat)} (hl : ∀ x ∈ l, pos < x.1) :
    entryAt (if e == 0x0F then l else (pos, e) :: l) k = if k = pos then e else entryAt l k := by
  by_cases he : e = 0x0F
  · rw [if_pos (beq_iff_eq.mpr he)]
    split
    · next hk => rw [hk, entryAt_of_lt hl, he]
    · rfl
  · rw [if_neg (by simpa using he), entryAt_cons]
    simp only [eq_comm]

theorem entryAt_setRoute (pos e : Nat) {l : List (Nat × Nat)} (hl : l.Pairwise fun x y => x.1 < y.1) (k : Nat) :
    entryAt (setRoute pos e l) k = if k = pos then e else entryAt l k := by
  induction l with
  | nil => exact entryAt_insert pos e k (by simp)
  | cons x xs ih =>
    obtain ⟨hx, hxs⟩ := List.pairwise_cons.mp hl
    unfold setRoute
    split
    · next hlt =>
      refine entryAt_insert pos e k fun y hy => ?_
      rcases List.mem_cons.mp hy with rfl | hy
      · exact hlt
      · exact hlt.trans (hx y hy)
    · split
      · next heq =>
        have hpos : pos = x.1 := beq_iff_eq.mp heq
        rw [entryAt_insert pos e k (fun y hy => hpos ▸ hx y hy), entryAt_cons]
        split
        · rfl
        · next hk => rw [if_neg (show ¬ x.1 = k from fun hxk => hk (hxk.symm.trans hpos.symm))]
      · next hne =>
        have hpos : x.1 ≠ pos := fun h => hne (beq_iff_eq.mpr h.symm)
        rw [entryAt_cons, ih hxs, entryAt_cons]
        by_cases hk : k = pos
        · rw [if_pos hk, if_pos hk, if_neg (hk ▸ hpos)]
        · rw [if_neg hk, if_neg hk]

theorem mem_setRoute {pos e : Nat} {l : List (Nat × Nat)} {y : Nat × Nat} (h : y ∈ setRoute pos e l) : y.1 = pos ∨ y ∈ l := by
  induction l with
  | nil =>
    unfold setRoute at h
    split at h
    · exact Or.inr h
    · exact Or.inl (congrArg Prod.fst (List.mem_singleton.mp h))
  | cons x xs ih =>
    unfold setRoute at h
    split_ifs at h
    · exact Or.inr h
    · exact (List.mem_cons.mp h).imp (congrArg Prod.fst) id
    · exact Or.inr (List.mem_cons_of_mem _ h)
    · exact (List.mem_cons.mp h).imp (congrArg Prod.fst) (List.mem_cons_of_mem _)
    · rcases List.mem_cons.mp h with rfl | h
      · exact Or.inr List.mem_cons_self
      · exact (ih h).imp id (List.mem_cons_of_mem _)

theorem pairwise_setRoute (pos e : Nat) {l : List (Nat × Nat)} (hl : l.Pairwise fun x y => x.1 < y.1) :
    (setRoute pos e l).Pairwise fun x y => x.1 < y.1 := by
  induction l with
  | nil =>
    unfold setRoute
    split
    · exact List.Pairwise.nil
    · exact List.pairwise_singleton _ _
  | cons x xs ih =>
    obtain ⟨hx, hxs⟩ := List.pairwise_cons.mp hl
    unfold setRoute
    split_ifs with hlt he heq he
    · exact hl
    · refine List.pairwise_cons.mpr ⟨fun y hy => ?_, hl⟩
      rcases List.mem_cons.mp hy with rfl | hy
      · exact hlt
      · exact hlt.trans (hx y hy)
    · exact hxs
    · exact List.pairwise_cons.mpr ⟨fun y hy => (beq_iff_eq.mp heq : pos = x.1) ▸ hx y hy, hxs⟩
    · refine List.pairwise_cons.mpr ⟨fun y hy => ?_, ih hxs⟩
      have hpos : pos ≠ x.1 := fun h => heq (beq_iff_eq.mpr h)
      rcases mem_setRoute hy with h | h
      · rw [h]
        omega
      · exact hx y h

theorem routeEntryWrite_completes (pos : BitVec 16) (e : BitVec 8) {s : State} (hon : s.hub.pwr.alwaysOn = true)
    (hl : s.hub.routes.Pairwise fun x y => x.1 < y.1) : Completes (.routeEntryWrite pos e) s fun t =>
      routeEntry t pos.toNat = e.toNat % 16 ∧ (∀ k, k ≠ pos.toNat → routeEntry t k = routeEntry s k) ∧
      t.hub.routes.Pairwise fun x y => x.1 < y.1 := by
  refine completes_of_next (whenDue_of_due hon (writeRoute pos.toNat (e.toNat % 16)) s) ?_
  have hroutes : (writeRoute pos.toNat (e.toNat % 16) s).hub.routes = setRoute pos.toNat (e.toNat % 16) s.hub.routes := rfl
  simp only [routeEntry_eq, hroutes, entryAt_setRoute _ _ hl]
  exact ⟨if_true .., fun k hk => if_neg hk, pairwise_setRoute _ _ hl⟩

theorem torusWrite_fits {v : Word} (h : (bitsOf v.toNat 0 6 + 1) * (bitsOf v.toNat 8 6 + 1) * (bitsOf v.toNat 16 6 + 1) ≤ 65535) (s : State) :
    Completes (.lnkTorusWrite v) s fun t => t.hub =
      { s.hub with torus := BitVec.ofNat 32 (bitsOf v.toNat 0 6 + bitsOf v.toNat 8 6 * 2 ^ 8 + bitsOf v.toNat 16 6 * 2 ^ 16) } := by
  refine completes_of_next (t := torusWrite v s) rfl ?_
  unfold torusWrite
  dsimp only
  rw [if_neg (not_lt.mpr h)]
  rfl

theorem torusWrite_beyond {v : Word} (h : 65535 < (bitsOf v.toNat 0 6 + 1) * (bitsOf v.toNat 8 6 + 1) * (bitsOf v.toNat 16 6 + 1)) (s : State) :
    Completes (.lnkTorusWrite v) s fun t => t = s := by
  refine completes_of_next (t := torusWrite v s) rfl ?_
  unfold torusWrite
  exact if_pos h

/-- Settles O29. -/
theorem portsAndRoutes : Obligations.PortsAndRoutes := by
  refine ⟨?_, ?_⟩
  · intro p ns s a ha
    subst ha
    exact ⟨fun hup hlate => leadFlitTimeout_completes hup hlate, fun pos q fl h => portTrainingComplete_completes ns pos q fl h,
      completes_of_next rfl (portTo_port p s), completes_of_next rfl (portTo_port p s), lnkCounterClear_completes p s⟩
  · intro pos e v s
    exact ⟨routeEntryWrite_completes pos e, fun h => torusWrite_fits h s, fun h => torusWrite_beyond h s⟩

end Sys2Proof.Machine
end

section
/-! SUPPORT. Settles O32: management flits (R378, R379, R446, R449, R478, R505 to R507). -/

namespace Sys2Proof.Machine

open Sys2Proof

/- Elaborated one by one, the proofs do not wait for one another's equation lemmas. -/
set_option Elab.async false

/-! ### Management flits that leave -/

/-- The port with a flit of its own at the end of what waits to leave by it. -/
theorem putMgmt_port_self (p : PortId) (f : Flit) (s : State) : ∃ d,
    (putMgmt p f s).port p = { s.port p with
      out := vset (s.port p).out (portSource p) (vget (s.port p).out [] (portSource p) ++ [(d, f, 0)]) } :=
  ⟨_, State.setPort_port_self ..⟩

theorem putMgmt_port_ne {p q : PortId} (h : p ≠ q) (f : Flit) (s : State) : (putMgmt p f s).port q = s.port q :=
  State.setPort_port_ne _ _ _ _ h

theorem portSource_lt (p : PortId) : portSource p < 3 :=
  (Nat.mod_lt _ (by decide)).trans (by decide)

theorem putMgmt_out (p : PortId) (f : Flit) (s : State) : ∃ d,
    vget ((putMgmt p f s).port p).out [] (portSource p) = vget (s.port p).out [] (portSource p) ++ [(d, f, 0)] := by
  obtain ⟨d, hd⟩ := putMgmt_port_self p f s
  exact ⟨d, by rw [hd, vget_vset_self _ _ _ _ (portSource_lt p)]⟩

/-- Each port of the list has the flit behind what waited there; the others are as they were. -/
theorem forAll_putMgmt_port {l : List PortId} (hl : l.Nodup) (f : Flit) (s : State) (q : PortId) :
    (q ∈ l → ∃ d, (forAll l (fun p t => putMgmt p f t) s).port q = { s.port q with
      out := vset (s.port q).out (portSource q) (vget (s.port q).out [] (portSource q) ++ [(d, f, 0)]) }) ∧
    (q ∉ l → (forAll l (fun p t => putMgmt p f t) s).port q = s.port q) := by
  induction l generalizing s with
  | nil => exact ⟨fun h => (List.not_mem_nil h).elim, fun _ => rfl⟩
  | cons p ps ih =>
    obtain ⟨hp, hps⟩ := List.nodup_cons.mp hl
    obtain ⟨hin, hout⟩ := ih hps (putMgmt p f s)
    rw [forAll_cons]
    by_cases h : p = q
    · subst h
      refine ⟨fun _ => ?_, fun h => absurd List.mem_cons_self h⟩
      rw [hout hp]
      exact putMgmt_port_self p f s
    · rw [putMgmt_port_ne h] at hin hout
      exact ⟨fun hq => hin ((List.mem_cons.mp hq).resolve_left (Ne.symm h)), fun hq => hout fun hm => hq (List.mem_cons_of_mem _ hm)⟩

theorem upPorts_nodup (s : State) : (upPorts s).Nodup := List.Nodup.filter _ (List.nodup_finRange 28)

theorem mem_upPorts {s : State} {p : PortId} : p ∈ upPorts s ↔ (s.port p).state = .up := by
  simp [upPorts, mem_allPorts]

theorem heartbeatSend_completes (ns : Nat) (s : State) : Completes (.heartbeatSend ns) s fun t => ∀ q, (s.port q).state = .up → ∃ d,
    vget (t.port q).out [] (portSource q) = vget (s.port q).out [] (portSource q) ++ [(d, mgmtFlit 4 [], 0)] ∧
    (t.port q).state = .up ∧ (t.port q).replay = (s.port q).replay := by
  refine completes_of_next (t := forAll (upPorts (s.atNs ns)) (fun p s => putMgmt p (mgmtFlit 4 []) s) (s.atNs ns)) rfl fun q hq => ?_
  obtain ⟨d, hd⟩ := (forAll_putMgmt_port (upPorts_nodup (s.atNs ns)) (mgmtFlit 4 []) (s.atNs ns) q).1 (mem_upPorts.mpr hq)
  refine ⟨d, ?_⟩
  rw [hd]
  exact ⟨vget_vset_self _ _ _ _ (portSource_lt q), hq, rfl⟩

/-! ### Heartbeats and identities -/

theorem linkAlarm_attn (p : PortId) (s : State) : (linkAlarm p s).hub.hl.attn.getLsbD 3 = true :=
  attention_attn_self _ (by decide)

theorem heartbeatTimeout_completes {p : PortId} {ns : Nat} {s : State} (hup : (s.port p).state = .up)
    (hlate : (s.port p).lastBeat + 40000000 ≤ (s.atNs ns).hub.ns) : Completes (.heartbeatTimeout p ns) s fun t =>
      t.hub.hl.attn.getLsbD 3 = true ∧ (t.port p).state = .up ∧ (t.port p).lastBeat = (s.atNs ns).hub.ns := by
  have hdue : (((s.atNs ns).port p).state == .up && ((s.atNs ns).port p).lastBeat + 40000000 ≤ (s.atNs ns).hub.ns) = true := by
    rw [show (s.atNs ns).port p = s.port p from rfl, hup, Bool.and_eq_true]
    exact ⟨rfl, decide_eq_true hlate⟩
  have hexec : exec (.heartbeatTimeout p ns) s = execHeartbeatTimeout p ns s := rfl
  unfold execHeartbeatTimeout at hexec
  refine completes_of_next (hexec.trans (whenDue_of_due hdue _ _)) ⟨linkAlarm_attn .., ?_⟩
  rw [linkAlarm_port, State.onPort_port_self]
  exact ⟨hup, rfl⟩

/-- A port that goes DOWN keeps the identity that its neighbour has shown. -/
theorem portTo_ident (p : PortId) (st : PortState) (s : State) : ((portTo p st s).port p).ident = (s.port p).ident := by
  unfold portTo
  split
  · have h := leaveUp_unrouted p st s
    exact (congrArg Port.ident h :)
  · rw [State.onPort_port_self]

/-- What an identity shown at a port says against it: the module's own position, or another module's identity at that position (R506). -/
def identRefused (p : PortId) (n id : Nat) (s : State) : Bool :=
  (n != 0xFFFF && n == s.hub.position) ||
    (allPorts.any fun q => q != p && (s.port q).ident.any fun y => n != 0xFFFF && y.2 == n && y.1 != id) ||
    (s.port p).ident.any fun y => y.2 == n && y.1 != id

theorem exec_identFlit (p : PortId) (pos : BitVec 16) (id : Nat) (f : Flit) (s : State) : exec (.identFlit p pos id f) s =
    .next (if identRefused p pos.toNat id s then portTo p .down ((takeMgmt f s).onPort p fun k => { k with ident := some (id, pos.toNat) })
      else (takeMgmt f s).onPort p fun k => { k with ident := some (id, pos.toNat) }) := rfl

theorem identFlit_refused {p : PortId} {pos : BitVec 16} {id : Nat} {s : State} (f : Flit) (h : identRefused p pos.toNat id s = true) :
    Completes (.identFlit p pos id f) s fun t => (t.port p).state = .down ∧ (t.port p).ident = some (id, pos.toNat) := by
  refine completes_of_next ((exec_identFlit p pos id f s).trans (congrArg _ (if_pos h))) ?_
  exact ⟨(portTo_port p _).1, (portTo_ident ..).trans (by rw [State.onPort_port_self])⟩

theorem identFlit_accepted {p : PortId} {pos : BitVec 16} {id : Nat} {s : State} (f : Flit) (hpos : pos.toNat ≠ s.hub.position)
    (hnone : ∀ q, (s.port q).ident = none) : Completes (.identFlit p pos id f) s fun t =>
      (t.port p).state = (s.port p).state ∧ (t.port p).ident = some (id, pos.toNat) ∧ ∀ q, q ≠ p → t.port q = s.port q := by
  have h : ¬ identRefused p pos.toNat id s = true := by simp [identRefused, hpos, hnone]
  refine completes_of_next ((exec_identFlit p pos id f s).trans (congrArg _ (if_neg h))) ?_
  rw [State.onPort_port_self]
  exact ⟨rfl, rfl, fun q hq => State.onPort_port_ne _ _ _ _ hq.symm⟩

/-! ### Survey and census -/

theorem forwardSurvey_port_self (p : PortId) (wave hop master : Nat) (s : State) :
    (forwardSurvey (some p) wave hop master s).port p = s.port p := by
  refine (forAll_putMgmt_port (List.Nodup.filter _ (upPorts_nodup s)) _ s p).2 fun h => ?_
  simpa using (List.mem_filter.mp h).2

theorem forwardSurvey_hub (p : Option PortId) (wave hop master : Nat) (s : State) : (forwardSurvey p wave hop master s).hub = s.hub :=
  forAll_keep State.hub _ _ _ fun _ _ _ => rfl

theorem surveyFlit_first {p : PortId} {ns : Nat} {f : Flit} {s : State} (hmaster : s.hub.tb.master = false) (hparent : s.hub.hl.parent = none) :
    Completes (.surveyFlit p ns f) s fun t => t.hub.hl.parent = some p.val ∧ t.hub.hl.conflict = s.hub.hl.conflict ∧
      ∃ d, vget (t.port p).out [] (portSource p) = vget (s.port p).out [] (portSource p) ++ [(d, mgmtFlit 3 [s.hub.position], 0)] := by
  have hexec : exec (.surveyFlit p ns f) s = execSurveyFlit p ns f s := rfl
  have hfloods : ((takeMgmt f (s.atNs ns)).hub.tb.master && !(takeMgmt f (s.atNs ns)).hub.hl.conflict) = false := by
    show (s.hub.tb.master && !s.hub.hl.conflict) = false
    rw [hmaster, Bool.false_and]
  have hnone : (takeMgmt f (s.atNs ns)).hub.hl.parent = none := hparent
  unfold execSurveyFlit at hexec
  dsimp only at hexec
  simp only [hfloods, Bool.false_and, Bool.false_eq_true, if_false, hnone, Option.isSome_none] at hexec
  refine completes_of_next hexec ?_
  generalize hu : ((takeMgmt f (s.atNs ns)).onHl fun h => { h with parent := some p.val }) = u
  have huhub : (forwardSurvey (some p) (Config.mgmtField f 0) (Config.mgmtField f 1 + 1) (Config.mgmtField f 2) u).hub = u.hub :=
    forwardSurvey_hub ..
  refine ⟨?_, ?_, ?_⟩
  · rw [putMgmt_hub, huhub, ← hu]
    rfl
  · rw [putMgmt_hub, huhub, ← hu]
    rfl
  · obtain ⟨d, hd⟩ := putMgmt_out p (mgmtFlit 3 [(forwardSurvey (some p) (Config.mgmtField f 0) (Config.mgmtField f 1 + 1)
      (Config.mgmtField f 2) u).hub.position]) (forwardSurvey (some p) (Config.mgmtField f 0) (Config.mgmtField f 1 + 1)
      (Config.mgmtField f 2) u)
    refine ⟨d, hd.trans ?_⟩
    rw [forwardSurvey_port_self, huhub, ← hu]
    rfl

theorem reportFlit_relayed {p q : PortId} {f : Flit} {s : State} (hparent : s.hub.hl.parent = some q.val) (hne : q ≠ p) :
    Completes (.reportFlit p f) s fun t => ∃ d,
      vget (t.port q).out [] (portSource q) = vget (s.port q).out [] (portSource q) ++ [(d, f, 0)] := by
  have hexec : exec (.reportFlit p f) s = execReportFlit p f s := rfl
  have hsome : (takeMgmt f s).hub.hl.parent = some q.val := hparent
  have hval : (q.val == p.val) = false := beq_false_of_ne fun h => hne (Fin.ext h)
  unfold execReportFlit at hexec
  dsimp only at hexec
  rw [hsome] at hexec
  simp only [hval, Bool.false_eq_true, if_false, Fin.ofNat_val_eq_self] at hexec
  exact completes_of_next hexec (putMgmt_out q f (takeMgmt f s))

theorem reportFlit_census {p : PortId} {f : Flit} {s : State} (hparent : s.hub.hl.parent = none) (hend : s.hub.hl.censusEnd.isSome) :
    Completes (.reportFlit p f) s fun t =>
      (∀ q, q ∈ t.hub.hl.census ↔ q ∈ s.hub.hl.census ∨ q ∈ Config.mgmtPositions f) ∧ t.ports = s.ports := by
  have hexec : exec (.reportFlit p f) s = execReportFlit p f s := rfl
  have hnone : (takeMgmt f s).hub.hl.parent = none := hparent
  have hopen : (takeMgmt f s).hub.hl.censusEnd.isSome = true := hend
  unfold execReportFlit at hexec
  dsimp only at hexec
  rw [hnone] at hexec
  simp only [hopen, if_true] at hexec
  refine completes_of_next hexec ⟨fun q => ?_, rfl⟩
  exact List.mem_eraseDups.trans List.mem_append

theorem reportFlit_late {p : PortId} {f : Flit} {s : State} (hparent : s.hub.hl.parent = none) (hend : s.hub.hl.censusEnd = none) :
    Completes (.reportFlit p f) s fun t => t.hub.hl.late = min 0xFFF (s.hub.hl.late + 1) ∧ t.hub.hl.census = s.hub.hl.census := by
  have hexec : exec (.reportFlit p f) s = execReportFlit p f s := rfl
  have hnone : (takeMgmt f s).hub.hl.parent = none := hparent
  have hshut : (takeMgmt f s).hub.hl.censusEnd.isSome = false := by
    show s.hub.hl.censusEnd.isSome = false
    rw [hend]
    rfl
  unfold execReportFlit at hexec
  dsimp only at hexec
  rw [hnone] at hexec
  simp only [hshut, Bool.false_eq_true, if_false] at hexec
  exact completes_of_next hexec ⟨satAdd_eq_min .., rfl⟩

/-! ### Power failure of a neighbour, spares and partners -/

theorem powerFailFlit_completes {p : PortId} {ns : Nat} {s : State} (hup : (s.port p).state = .up) :
    Completes (.powerFailFlit p ns) s fun t => (t.port p).state = .failed ∧ (t.port p).replay = [] := by
  have hdue : (((s.atNs ns).port p).state == .up) = true := beq_iff_eq.mpr hup
  refine completes_of_next (whenDue_of_due hdue (leaveUp p .failed) _) ?_
  obtain ⟨hstate, hreplay, -⟩ := leaveUp_port p .failed (s.atNs ns)
  exact ⟨hstate, hreplay⟩

theorem adoptFlit_first {f : Flit} {s : State} (p : PortId) (h : s.hub.hl.adopted = none) : Completes (.adoptFlit p f) s fun t =>
    t.hub.hl.adopted = some (Config.mgmtField f 0) ∧ t.hub.hl.adoptId = some f ∧ t.ports = s.ports := by
  have hexec : exec (.adoptFlit p f) s = execAdoptFlit p f s := rfl
  have hnone : (takeMgmt f s).hub.hl.adopted = none := h
  unfold execAdoptFlit at hexec
  dsimp only at hexec
  simp only [hnone, Option.any_none, Bool.false_eq_true, if_false] at hexec
  exact completes_of_next hexec ⟨rfl, rfl, rfl⟩

theorem snp_onSnp_self (s : State) (x : CtxId) (f : SnpCtx → SnpCtx) : (s.onSnp x f).snp x = f (s.snp x) :=
  Vector.getElem_setIfInBounds_self _

/-- The result of a partner that waits for its answer is the one that the pairing rule gives (R446). -/
theorem pairAnswer_first {x : CtxId} {s : State} (hen : (s.snp x).partnerEn = true) (hres : (s.snp x).partnerRes = 0) (hosts : Bool)
    (main bkp : Nat) : ((pairAnswer x false hosts main bkp s).snp x).partnerRes = (pairing s (s.snp x) false hosts main bkp).1 := by
  have hset (r : Nat × Bool) : ((s.onSnp x fun n => { n with partnerRes := r.1, correlated := r.2 }).snp x).partnerRes = r.1 := by
    rw [snp_onSnp_self]
  unfold pairAnswer
  simp only [hen, hres, Bool.false_eq_true, if_false, Bool.true_and, beq_self_eq_true, Bool.not_true]
  split
  · exact hset _
  · exact (congrArg SnpCtx.partnerRes ((headlandFault_sends (Sends.refl _) _).hub fun h => h.snp.get x)).trans (hset _)

theorem partnerFlit_completes {p : PortId} {x : CtxId} {f : Flit} {s : State} (hen : (s.snp x).partnerEn = true)
    (hres : (s.snp x).partnerRes = 0) : Completes (.partnerFlit p f) s fun t =>
      (Config.mgmtField f 0 = 1 → Config.mgmtField f 1 = x.val → Config.mgmtField f 2 = 0 →
        (t.snp x).partnerRes = (pairing s (s.snp x) false (Config.mgmtField f 5 != 0) (Config.mgmtField f 3) (Config.mgmtField f 4)).1) ∧
      (4 ≤ Config.mgmtField f 0 → t = takeMgmt f s) := by
  have hexec : exec (.partnerFlit p f) s = execPartnerFlit p f s := rfl
  unfold execPartnerFlit at hexec
  refine completes_of_next hexec ⟨fun h0 h1 h2 => ?_, fun h4 => ?_⟩
  · have hx : (Fin.ofNat 8 (Config.mgmtField f 1) : CtxId) = x := by rw [h1, Fin.ofNat_val_eq_self]
    simp only [h0, hx, h2]
    exact pairAnswer_first (s := takeMgmt f s) hen hres _ _ _
  · split
    · omega
    · omega
    · omega
    · omega
    · rfl

/-- Settles O32. -/
theorem managementFlits : Obligations.ManagementFlits := by
  intro p ns f s a ha
  subst ha
  refine ⟨heartbeatSend_completes ns s, fun hup hlate => heartbeatTimeout_completes hup hlate, ?_, ?_,
    fun pos id hpos hnone => identFlit_accepted f hpos hnone, surveyFlit_first, fun _ => reportFlit_relayed, reportFlit_census,
    reportFlit_late, fun hup => powerFailFlit_completes hup, adoptFlit_first p, fun _ => partnerFlit_completes⟩
  · intro pos id hpos hne
    exact identFlit_refused f (by simp [identRefused, hpos, hpos ▸ hne])
  · intro pos id q y hq hne hident hid
    refine identFlit_refused f ?_
    have hclash : (allPorts.any fun q => q != p && (s.port q).ident.any fun y => pos.toNat != 0xFFFF && y.2 == pos.toNat && y.1 != id) = true :=
      List.any_eq_true.mpr ⟨q, mem_allPorts q, by simp [hq, hident, hne, hid]⟩
    rw [identRefused, hclash, Bool.or_true, Bool.true_or]

end Sys2Proof.Machine
end

section
/-! SUPPORT. Fields of rows: what a field reads after it, or another, has been put (R8). -/

namespace Sys2Proof.Machine

open Sys2Proof

/- Elaborated one by one, the proofs do not wait for one another's equation lemmas. -/
set_option Elab.async false

theorem testBit_setBits (n lo len v j : Nat) :
    (setBits n lo len v).testBit j = if lo ≤ j ∧ j < lo + len then v.testBit (j - lo) else n.testBit j := by
  have hn : n = 2 ^ lo * (2 ^ len * (n / 2 ^ lo / 2 ^ len) + n / 2 ^ lo % 2 ^ len) + n % 2 ^ lo := by
    rw [Nat.div_add_mod, Nat.div_add_mod]
  have hset : setBits n lo len v = 2 ^ lo * (2 ^ len * (n / 2 ^ lo / 2 ^ len) + v % 2 ^ len) + n % 2 ^ lo := by
    have hle : n / 2 ^ lo % 2 ^ len * 2 ^ lo ≤ n := (Nat.mul_le_mul_right _ (Nat.mod_le _ _)).trans (Nat.div_mul_le_self _ _)
    rw [setBits, bitsOf]
    generalize hmid : n / 2 ^ lo % 2 ^ len = mid at hn hle ⊢
    have hn' : n = 2 ^ lo * (2 ^ len * (n / 2 ^ lo / 2 ^ len)) + mid * 2 ^ lo + n % 2 ^ lo := by
      conv_lhs => rw [hn]
      ring
    have hgoal : 2 ^ lo * (2 ^ len * (n / 2 ^ lo / 2 ^ len) + v % 2 ^ len) + n % 2 ^ lo =
        2 ^ lo * (2 ^ len * (n / 2 ^ lo / 2 ^ len)) + v % 2 ^ len * 2 ^ lo + n % 2 ^ lo := by ring
    rw [hgoal]
    omega
  have hlow : n % 2 ^ lo < 2 ^ lo := Nat.mod_lt _ (Nat.two_pow_pos _)
  have hmid : n / 2 ^ lo % 2 ^ len < 2 ^ len := Nat.mod_lt _ (Nat.two_pow_pos _)
  have hv : v % 2 ^ len < 2 ^ len := Nat.mod_lt _ (Nat.two_pow_pos _)
  have hnbit : n.testBit j = (2 ^ lo * (2 ^ len * (n / 2 ^ lo / 2 ^ len) + n / 2 ^ lo % 2 ^ len) + n % 2 ^ lo).testBit j := by rw [← hn]
  rw [hset, hnbit, Nat.testBit_two_pow_mul_add _ hlow, Nat.testBit_two_pow_mul_add _ hlow]
  by_cases hj : j < lo
  · rw [if_pos hj, if_pos hj, if_neg (by omega)]
  · rw [if_neg hj, if_neg hj, Nat.testBit_two_pow_mul_add _ hv, Nat.testBit_two_pow_mul_add _ hmid]
    by_cases hk : j - lo < len
    · rw [if_pos hk, if_pos (by omega), Nat.testBit_mod_two_pow, decide_eq_true hk, Bool.true_and]
    · rw [if_neg hk, if_neg hk, if_neg (by omega)]

/-- A bit of a field is a bit of the row. -/
theorem Row.testBit_field (r : Row) (off len j : Nat) :
    (r.field off len).testBit j = (decide (j < 8 * len) && r.toNat.testBit (8 * off + j)) := by
  rw [Row.field, Nat.testBit_mod_two_pow, Nat.testBit_div_two_pow, Nat.add_comm]

theorem Row.testBit_put (r : Row) (off len v : Nat) {j : Nat} (hj : j < 4096) :
    (r.put off len v).toNat.testBit j = if 8 * off ≤ j ∧ j < 8 * off + 8 * len then v.testBit (j - 8 * off) else r.toNat.testBit j := by
  rw [Row.put, BitVec.toNat_ofNat, Nat.testBit_mod_two_pow, decide_eq_true hj, Bool.true_and, testBit_setBits]

theorem Row.field_put_self (r : Row) {off len : Nat} (v : Nat) (h : off + len ≤ 512) : (r.put off len v).field off len = v % 2 ^ (8 * len) := by
  refine Nat.eq_of_testBit_eq fun j => ?_
  rw [Row.testBit_field, Nat.testBit_mod_two_pow]
  by_cases hj : j < 8 * len
  · rw [Row.testBit_put _ _ _ _ (by omega), if_pos (by omega), Nat.add_sub_cancel_left]
  · rw [decide_eq_false hj, Bool.false_and, Bool.false_and]

/-- A field keeps its value when a field before or behind it is put. -/
theorem Row.field_put_of_disjoint (r : Row) {off len off' len' : Nat} (v : Nat) (h : off + len ≤ 512)
    (hdis : off' + len' ≤ off ∨ off + len ≤ off') : (r.put off' len' v).field off len = r.field off len := by
  refine Nat.eq_of_testBit_eq fun j => ?_
  rw [Row.testBit_field, Row.testBit_field]
  by_cases hj : j < 8 * len
  · rw [Row.testBit_put _ _ _ _ (by omega), if_neg (by omega)]
  · rw [decide_eq_false hj, Bool.false_and, Bool.false_and]

/-! ### The stamp of a sender (R335) -/

theorem stampHdr_field (h : Row) (pos core ctx seq : Nat) {off len : Nat} (hlen : off + len ≤ 512)
    (hdis : off + len ≤ 0x0C ∨ 0x12 ≤ off) : (stampHdr h pos core ctx seq).field off len = h.field off len := by
  unfold stampHdr
  rw [Row.field_put_of_disjoint, Row.field_put_of_disjoint, Row.field_put_of_disjoint, Row.field_put_of_disjoint] <;> omega

theorem mhSendPos_stampHdr (h : Row) (pos core ctx seq : Nat) : mhSendPos (stampHdr h pos core ctx seq) = pos % 2 ^ 16 := by
  rw [mhSendPos, stampHdr, Row.field_put_of_disjoint, Row.field_put_of_disjoint, Row.field_put_of_disjoint, Row.field_put_self] <;> omega

theorem mhSendCore_stampHdr (h : Row) (pos core ctx seq : Nat) : mhSendCore (stampHdr h pos core ctx seq) = core % 2 ^ 8 := by
  rw [mhSendCore, stampHdr, Row.field_put_of_disjoint, Row.field_put_of_disjoint, Row.field_put_self] <;> omega

theorem mhSendCtx_stampHdr (h : Row) (pos core ctx seq : Nat) : mhSendCtx (stampHdr h pos core ctx seq) = ctx % 2 ^ 8 := by
  rw [mhSendCtx, stampHdr, Row.field_put_of_disjoint, Row.field_put_self] <;> omega

theorem mhSeq_stampHdr (h : Row) (pos core ctx seq : Nat) : mhSeq (stampHdr h pos core ctx seq) = seq % 2 ^ 16 := by
  rw [mhSeq, stampHdr, Row.field_put_self] <;> omega

end Sys2Proof.Machine
end

section
/-! SUPPORT. Settles O33: the comparison of schedule folds (R401 to R405, R407). -/

namespace Sys2Proof.Machine

open Sys2Proof

/- Elaborated one by one, the proofs do not wait for one another's equation lemmas. -/
set_option Elab.async false

/-! ### Attention bits stay set (R510) -/

section
variable {b : Nat} {s : State} (h : s.hub.hl.attn.getLsbD b = true)
include h

theorem attention_attn_mono (bit : Nat) : (attention bit s).hub.hl.attn.getLsbD b = true := by
  refine (BitVec.getLsbD_or ..).trans ?_
  rw [h, Bool.true_or]

theorem hostFault_attn_mono (bits : BitVec 512) : (hostFault bits s).hub.hl.attn.getLsbD b = true := by
  have hl : ((hostFault bits s).hub.hl).attn = s.hub.hl.attn := by
    unfold hostFault State.onHl State.onHub
    dsimp only
    split <;> rfl
  rw [hl, h]

theorem headlandCopy_attn_mono (cls : Nat) (bits : BitVec 512) : (headlandCopy cls bits s).hub.hl.attn.getLsbD b = true := by
  have hkeep : (keepRecord bits s).hub.hl.attn.getLsbD b = true :=
    attention_attn_mono (s := s.onHl fun l => { l with faults := l.faults ++ [bits] }) h 0
  unfold headlandCopy
  dsimp only
  split
  · exact hostFault_attn_mono hkeep bits
  · exact hkeep

theorem postFault_attn_mono (c : CoreId) (f : Flt) : (postFault c f s).hub.hl.attn.getLsbD b = true := by
  unfold postFault
  dsimp only
  rw [trace_hub]
  refine headlandCopy_attn_mono ?_ _ _
  (repeat' split) <;> exact h
end

/-! ### LSTEP_CFG -/

theorem lsEnable_off {v : Word} (h : v.getLsbD 0 = false) (s : State) : Completes (.lsEnable v) s fun t =>
    t.hub.ls.enable = false ∧ t.hub.ls.waiting = [] ∧ t.hub.ls.locals = [] ∧ t.hub.ls.peers = [] ∧ t.cores = s.cores ∧ t.mem = s.mem := by
  refine completes_of_next (t := lsCfgWrite v s) rfl ?_
  simp only [lsCfgWrite, State.onLs, State.onHub, h, Bool.not_false, if_true, and_self]

theorem lsEnable_on {v : Word} {s : State} (h : v.getLsbD 0 = true) (hoff : s.hub.ls.enable = false) : Completes (.lsEnable v) s fun t =>
    t.hub.ls.enable = true ∧ t.hub.ls.configDue = true ∧ t.hub.ls.stop = v.getLsbD 1 ∧ t.hub.ls.peer = bitsOf v.toNat 16 16 ∧
    t.cores = s.cores ∧ t.mem = s.mem := by
  refine completes_of_next (t := lsCfgWrite v s) rfl ?_
  simp only [lsCfgWrite, State.onLs, State.onHub, h, hoff, Bool.not_true, Bool.not_false, Bool.or_true, Bool.false_eq_true, if_false, and_self]

/-! ### A message of 248 records (R401) -/

theorem putItemAt_hub (depth : Nat) (i : Item) (s : State) : (putItemAt depth i s).hub = s.hub := by
  induction depth generalizing i with
  | zero =>
    unfold putItemAt
    split
    · rfl
    · rfl
    · rfl
    · contradiction
  | succ n ih =>
    unfold putItemAt
    split
    case h_4 heq _ =>
      cases heq
      dsimp only
      split
      · rfl
      · exact ih _
    · rfl
    · rfl
    · rfl

theorem putItem_hub (i : Item) (s : State) : (putItem i s).hub = s.hub := putItemAt_hub 2 i s

/-- The copy of a message that leaves the module is kept until it lands or bounces (R345). -/
theorem hubDepart_away {h : Row} {s : State} (payload : List Row) (hpos : mhDestPos h ≠ 0xFFFF) (haway : mhDestPos h ≠ s.hub.position) :
    (hubDepart (h :: payload) s).hub = (s.onHl fun l => { l with hostMsgs := l.hostMsgs ++ [h :: payload] }).hub := by
  have hdest (t : State) : mhDest t h = mhDestPos h := by
    unfold mhDest
    rw [if_neg (by simpa using hpos)]
  have hne : (mhDest (s.onHl fun l => { l with hostMsgs := l.hostMsgs ++ [h :: payload] }) h ==
      (s.onHl fun l => { l with hostMsgs := l.hostMsgs ++ [h :: payload] }).hub.position) = false := by
    rw [hdest]
    exact beq_false_of_ne haway
  unfold hubDepart
  dsimp only
  rw [hne]
  simp only [Bool.false_and, Bool.false_eq_true, if_false]
  exact forAll_keep State.hub _ _ _ fun i _ t => putItem_hub i t

theorem mhDestPos_headlandHdr (s : State) (flags destPos destCore ring tag len inline : Nat) :
    mhDestPos (headlandHdr s flags destPos destCore ring tag len inline) = destPos % 2 ^ 16 := by
  unfold mhDestPos headlandHdr
  rw [stampHdr_field _ _ _ _ _ (by omega) (by omega), Row.field_put_of_disjoint _ _ (by omega) (by omega),
    Row.field_put_of_disjoint _ _ (by omega) (by omega), Row.field_put_of_disjoint _ _ (by omega) (by omega),
    Row.field_put_of_disjoint _ _ (by omega) (by omega), Row.field_put_of_disjoint _ _ (by omega) (by omega),
    Row.field_put_of_disjoint _ _ (by omega) (by omega), Row.field_put_self _ _ (by omega)]

theorem headlandSend_away {destPos : Nat} {s : State} (destCore ring tag inline : Nat) (payload : List Row) (hpos : destPos < 0xFFFF)
    (haway : destPos ≠ s.hub.position) : ∃ rows, (headlandSend destPos destCore ring tag inline payload s).hub =
      (s.onHl fun l => { l with hlSeq := (l.hlSeq + 1) % 2 ^ 16, hostMsgs := l.hostMsgs ++ [rows] }).hub := by
  have hdest := mhDestPos_headlandHdr s 2 destPos destCore ring tag (1 + payload.length) inline
  rw [Nat.mod_eq_of_lt (by omega)] at hdest
  refine ⟨headlandHdr s 2 destPos destCore ring tag (1 + payload.length) inline :: payload, ?_⟩
  unfold headlandSend headlandSendF
  have hflag : bitOf 2 0 = false := by decide
  simp only [hflag, Bool.false_eq_true, if_false, List.isEmpty_nil, if_true]
  exact hubDepart_away _ (by omega) (by rw [hdest]; exact haway)

theorem sendFolds_away (rs : List FoldRec) {s : State} (hpos : s.hub.ls.peer < 0xFFFF) (haway : s.hub.ls.peer ≠ s.hub.position) :
    ∃ rows, (sendFolds rs s).hub = ((s.onLs fun l => { l with msgs := (l.msgs + 1) % 2 ^ 16 }).onHl fun l =>
      { l with hlSeq := (l.hlSeq + 1) % 2 ^ 16, hostMsgs := l.hostMsgs ++ [rows] }).hub := by
  unfold sendFolds
  exact headlandSend_away _ _ _ _ _ hpos haway

theorem foldMessageSend_completes {s : State} (ns : Nat) (hen : s.hub.ls.enable = true) (hcfg : s.hub.ls.configDue = false)
    (hlen : 248 ≤ s.hub.ls.waiting.length) (haway : s.hub.ls.peer ≠ s.hub.position) (hpeer : s.hub.ls.peer < 0xFFFF) :
    Completes (.foldMessageSend ns) s fun t => t.hub.ls.waiting = s.hub.ls.waiting.drop 248 ∧
      t.hub.ls.msgs = (s.hub.ls.msgs + 1) % 2 ^ 16 ∧ t.hub.hl.hostMsgs.length = s.hub.hl.hostMsgs.length + 1 := by
  have hexec : exec (.foldMessageSend ns) s = execFoldMessageSend ns s := rfl
  have hls : (s.atNs ns).hub.ls = s.hub.ls := rfl
  unfold execFoldMessageSend at hexec
  dsimp only at hexec
  rw [hls, hen, hcfg] at hexec
  simp only [Bool.not_true, Bool.false_eq_true, if_false] at hexec
  refine completes_of_next (hexec.trans (whenDue_of_due (by rw [decide_eq_true hlen, Bool.true_or]) _ _)) ?_
  obtain ⟨rows, hrows⟩ := sendFolds_away (s.hub.ls.waiting.take 248) (s := (s.atNs ns).onLs fun l =>
    { l with waiting := l.waiting.drop 248, arrived := l.arrived.drop 248 }) hpeer haway
  refine ⟨?_, ?_, ?_⟩
  · exact (congrArg (fun h => h.ls.waiting) hrows).trans rfl
  · exact (congrArg (fun h => h.ls.msgs) hrows).trans rfl
  · exact (congrArg (fun h => h.hl.hostMsgs.length) hrows).trans (List.length_append ..)

/-! ### Records of the peer (R402 to R404) -/

theorem frOlder_of_match {a b : FoldRec} (h : frMatch a b = true) : frOlder a b = false := by
  unfold frMatch at h
  unfold frOlder
  simp only [Bool.and_eq_true, beq_iff_eq] at h
  obtain ⟨⟨⟨-, hepoch⟩, -⟩, -⟩ := h
  simp [hepoch]

/-- A record of the peer that meets its pair is compared with it, and the pair is taken off the waiting records. -/
theorem lsPeer_of_match {r l : FoldRec} {ctx cyc : Nat} {s : State} (hen : s.hub.ls.enable = true)
    (hlocals : s.hub.ls.locals = [(l, ctx, cyc)]) (hmatch : frMatch l r = true) :
    lsPeer r s = lsCompare l r ctx cyc (s.onLs fun k => { k with locals := [], lastP := frLatest r k.lastP }) := by
  unfold lsPeer
  dsimp only
  rw [hen, hlocals]
  simp only [Bool.not_true, Bool.false_eq_true, if_false, List.filter_cons, frOlder_of_match hmatch, List.filter_nil, List.length_nil,
    List.find?_cons, hmatch]
  unfold lsGap
  simp only [beq_self_eq_true, if_true, Bool.not_false, State.onLs, State.onHub]
  simp only [hlocals, List.filter_cons, List.filter_nil, frOlder_of_match hmatch, Bool.not_false, if_true, List.eraseP_cons, hmatch, cond_true]

theorem exec_foldMessageArrival {r : FoldRec} {hdr : Row} {pl : List Row} {s : State} (hpos : mhSendPos hdr = s.hub.ls.peer)
    (hcore : mhSendCore hdr = 0xFE) (hrecs : msgRecs hdr pl = [r]) :
    exec (.foldMessageArrival hdr pl) s = .next (lsPeer r (takeMsg hdr s)) := by
  have hdue : (mhSendPos hdr == (takeMsg hdr s).hub.ls.peer && mhSendCore hdr == 0xFE) = true := by
    rw [show (takeMsg hdr s).hub.ls = s.hub.ls from rfl, hpos, hcore, beq_self_eq_true, Bool.true_and]
    rfl
  have hexec : exec (.foldMessageArrival hdr pl) s = execFoldMessageArrival hdr pl s := rfl
  unfold execFoldMessageArrival at hexec
  dsimp only at hexec
  rw [whenDue_of_due hdue, hrecs, forAll_cons, forAll_nil] at hexec
  exact hexec

theorem foldMessageArrival_agrees {r l : FoldRec} {ctx cyc : Nat} {hdr : Row} {pl : List Row} {s : State}
    (hpos : mhSendPos hdr = s.hub.ls.peer) (hcore : mhSendCore hdr = 0xFE) (hrecs : msgRecs hdr pl = [r]) (hen : s.hub.ls.enable = true)
    (hlocals : s.hub.ls.locals = [(l, ctx, cyc)]) (hmatch : frMatch l r = true) (hcfg : frCore l ≠ 0xFFFF) (hdiv : divKind l r = none) :
    Completes (.foldMessageArrival hdr pl) s fun t => t.hub.ls.matched = s.hub.ls.matched + 1 ∧ t.hub.ls.locals = [] ∧
      t.hub.ls.peers = s.hub.ls.peers ∧ t.hub.ls.diverged = s.hub.ls.diverged ∧ t.cores = s.cores := by
  refine completes_of_next (exec_foldMessageArrival hpos hcore hrecs) ?_
  rw [lsPeer_of_match (s := takeMsg hdr s) hen hlocals hmatch]
  unfold lsCompare
  rw [hdiv]
  simp only [beq_false_of_ne hcfg, Bool.false_eq_true, if_false]
  exact ⟨rfl, rfl, rfl, rfl, rfl⟩

/-- The state in which a divergence makes its record (R404). -/
def divergedState (s : State) : State :=
  attention 4 (hubSetBit (hubBlock 0x50004) 8 ((s.onLs fun l => { l with matched := l.matched + 1 }).onLs fun l =>
    { l with diverged := true, divCnt := satAdd 0xFFFFFFFF l.divCnt 1 }))

theorem lsCompare_stops {a b : FoldRec} {ctx cyc k : Nat} {s : State} (hdiv : divKind a b = some k) (h4 : k ≠ 4) (h3 : k ≤ 3)
    (hstop : s.hub.ls.stop = true) :
    ∃ f, lsCompare a b ctx cyc s = faultCore (coreNo (frCore a)) (postFault (coreNo (frCore a)) f (divergedState s)) := by
  have hstop' : ((s.onLs fun l => { l with matched := l.matched + 1 }).hub.ls.stop && decide (k ≤ 3)) = true := by
    rw [decide_eq_true h3, Bool.and_true]
    exact hstop
  unfold lsCompare
  rw [hdiv]
  dsimp only
  rw [hstop']
  simp only [beq_false_of_ne h4, Bool.false_eq_true, if_false, if_true]
  exact ⟨_, rfl⟩

theorem faultCore_of_running {c : CoreId} {s : State} (h : (s.sc c).run = .running) :
    ((faultCore c s).sc c).stopping = true ∧ ((faultCore c s).sc c).run = .running := by
  unfold faultCore
  rw [State.onSc_sc_self, h]
  exact ⟨rfl, rfl⟩

theorem foldMessageArrival_diverges {r l : FoldRec} {ctx cyc k : Nat} {hdr : Row} {pl : List Row} {s : State}
    (hpos : mhSendPos hdr = s.hub.ls.peer) (hcore : mhSendCore hdr = 0xFE) (hrecs : msgRecs hdr pl = [r]) (hen : s.hub.ls.enable = true)
    (hlocals : s.hub.ls.locals = [(l, ctx, cyc)]) (hmatch : frMatch l r = true) (hdiv : divKind l r = some k) (h4 : k ≠ 4) (h3 : k ≤ 3)
    (hstop : s.hub.ls.stop = true) (hrun : (s.sc (coreNo (frCore l))).run = .running) :
    Completes (.foldMessageArrival hdr pl) s fun t =>
      t.hub.ls.diverged = true ∧ t.hub.ls.divCnt = min 0xFFFFFFFF (s.hub.ls.divCnt + 1) ∧ t.hub.hl.attn.getLsbD 4 = true ∧
      (t.sc (coreNo (frCore l))).stopping = true ∧ (t.sc (coreNo (frCore l))).run = .running := by
  refine completes_of_next (exec_foldMessageArrival hpos hcore hrecs) ?_
  rw [lsPeer_of_match (s := takeMsg hdr s) hen hlocals hmatch]
  generalize hu : ((takeMsg hdr s).onLs fun k => { k with locals := [], lastP := frLatest r k.lastP }) = u
  have hustop : u.hub.ls.stop = true := hu ▸ hstop
  have hudiv : u.hub.ls.divCnt = s.hub.ls.divCnt := hu ▸ rfl
  have hurun : (u.sc (coreNo (frCore l))).run = .running := hu ▸ hrun
  obtain ⟨f, hf⟩ := lsCompare_stops (ctx := ctx) (cyc := cyc) hdiv h4 h3 hustop
  have hls : (postFault (coreNo (frCore l)) f (divergedState u)).hub.ls = (divergedState u).hub.ls := postFault_hub_ls ..
  have hrun' : ((postFault (coreNo (frCore l)) f (divergedState u)).sc (coreNo (frCore l))).run = .running :=
    (eq_of_mask Sched.unflagged Sched.run (postFault_unflagged ..)).trans (by rw [divergedState, attention_sc, hubSetBit_sc]; exact hurun)
  rw [hf, faultCore_hub, hls]
  refine ⟨?_, ?_, ?_, faultCore_of_running hrun'⟩
  · rw [divergedState, attention_hub_ls, hubSetBit_hub_ls]
    rfl
  · rw [divergedState, attention_hub_ls, hubSetBit_hub_ls]
    exact (satAdd_eq_min ..).trans (by rw [← hudiv]; rfl)
  · exact postFault_attn_mono (attention_attn_self _ (by decide)) _ _

/-- Settles O33. -/
theorem lockstepCompares : Obligations.LockstepCompares := by
  intro v ns hdr pl s
  exact ⟨fun h => lsEnable_off h s, lsEnable_on, foldMessageSend_completes ns, fun _ _ _ _ => foldMessageArrival_agrees,
    fun _ _ _ _ _ => foldMessageArrival_diverges⟩

end Sys2Proof.Machine
end

section
/-! SUPPORT. Weight slots of a context: rules for the accessors, and the operations that leave the shards' checks (R413 to R420). -/

namespace Sys2Proof.Machine

open Sys2Proof

/- Elaborated one by one, the proofs do not wait for one another's equation lemmas. -/
set_option Elab.async false

/-! ### Contexts, slots and shards -/

section
variable (s : State) (x : CtxId)

theorem wgt_onWgt_self (f : WgtCtx → WgtCtx) : (s.onWgt x f).wgt x = f (s.wgt x) :=
  Vector.getElem_setIfInBounds_self _

theorem wgt_onWgt_ne {y : CtxId} (h : x ≠ y) (f : WgtCtx → WgtCtx) : (s.onWgt x f).wgt y = s.wgt y :=
  Vector.getElem_setIfInBounds_ne _ fun hxy => h (Fin.ext hxy)

theorem slotW_onSlot_self {k : Nat} (hk : k < 2) (f : WLoad → WLoad) : slotW ((s.onSlot x k f).wgt x) k = f (slotW (s.wgt x) k) := by
  rw [State.onSlot, wgt_onWgt_self]
  exact vget_vset_self _ _ _ _ hk

theorem slotW_onSlot_ne {k i : Nat} (hne : k ≠ i) (f : WLoad → WLoad) : slotW ((s.onSlot x k f).wgt x) i = slotW (s.wgt x) i := by
  rw [State.onSlot, wgt_onWgt_self]
  exact vget_vset_ne _ _ _ _ _ hne

theorem shard_onShard_self {k j : Nat} {sh : Shard} (hk : k < 2) (f : Shard → Shard) (h : (slotW (s.wgt x) k).shards[j]? = some sh) :
    (slotW ((s.onShard x k j f).wgt x) k).shards[j]? = some (f sh) := by
  rw [State.onShard, slotW_onSlot_self _ _ hk, List.getElem?_modify, h]
  simp
end

theorem Sends.wgt {s t : State} (h : Sends s t) (x : CtxId) : t.wgt x = s.wgt x :=
  h.hub fun k => k.wgt.get x

theorem wgtNotice_sends {s₀ s : State} (h : Sends s₀ s) (x : CtxId) (pos : Nat) (loadId : Word) (kind : Nat) (resend : Bool) (n rows : Nat) :
    Sends s₀ (wgtNotice x pos loadId kind resend n rows s) := by
  unfold wgtNotice
  dsimp only
  split
  · exact headlandSendF_sends h ..
  · exact headlandSendF_sends h ..

theorem sendChunk_sends {s₀ s : State} (h : Sends s₀ s) (x : CtxId) (k : Nat) (w : WgtCmd) (c : Nat) (fromSlot resend : Bool) :
    Sends s₀ (sendChunk x k w c fromSlot resend s) := by
  unfold sendChunk
  exact wgtNotice_sends (hubWrites_sends (onHl_sends h (by exact fun _ => rfl)) ..) ..

/-! ### What forwarding and the end of a load leave of the shards -/

theorem forwardChunks_shards (x : CtxId) {k : Nat} (hk : k < 2) (n : Nat) (s : State) :
    (slotW ((forwardChunks x k n s).wgt x) k).shards = (slotW (s.wgt x) k).shards := by
  induction n generalizing s with
  | zero => rfl
  | succ n ih =>
    unfold forwardChunks
    dsimp only
    split
    · split
      · rfl
      · rw [ih, (sendChunk_sends (Sends.refl _) ..).wgt, slotW_onSlot_self _ _ hk]
    · rfl

theorem resendShard_shards (x : CtxId) {k : Nat} (hk : k < 2) (j : Nat) (s : State) :
    (slotW ((resendShard x k j s).wgt x) k).shards = (slotW (s.wgt x) k).shards := by
  unfold resendShard
  rw [forwardChunks_shards x hk, slotW_onSlot_self _ _ hk]

theorem wgtReply_shards (x : CtxId) {k : Nat} (hk : k < 2) (status : Nat) (s : State) :
    (slotW ((wgtReply x k status s).wgt x) k).shards = (slotW (s.wgt x) k).shards := by
  unfold wgtReply
  dsimp only
  split
  · rfl
  · rw [(replyDone_sends (Sends.refl _) ..).wgt, slotW_onSlot_self _ _ hk]

theorem wgtOver_slots (k st : Nat) (w : WgtCtx) : (wgtOver k st w).slots = w.slots := by
  unfold wgtOver
  split <;> rfl

theorem wgtDone_shards (x : CtxId) {k : Nat} (hk : k < 2) (s : State) :
    (slotW ((wgtDone x k s).wgt x) k).shards = (slotW (s.wgt x) k).shards := by
  unfold wgtDone
  rw [wgtReply_shards x hk, slotW_onSlot_self _ _ hk, wgt_onWgt_self]
  unfold slotW
  rw [wgtOver_slots]

/-! ### What these operations leave of the digest engines -/

theorem forwardChunks_digEng (x : CtxId) (k n : Nat) (s : State) : (forwardChunks x k n s).hub.digEng = s.hub.digEng := by
  induction n generalizing s with
  | zero => rfl
  | succ n ih =>
    unfold forwardChunks
    dsimp only
    split
    · split
      · rfl
      · rw [ih]
        exact (sendChunk_sends (Sends.refl _) ..).hub (·.digEng)
    · rfl

theorem resendShard_digEng (x : CtxId) (k j : Nat) (s : State) : (resendShard x k j s).hub.digEng = s.hub.digEng := by
  unfold resendShard
  exact forwardChunks_digEng ..

theorem wgtDone_digEng (x : CtxId) (k : Nat) (s : State) : (wgtDone x k s).hub.digEng = s.hub.digEng := by
  unfold wgtDone wgtReply
  dsimp only
  split
  · rfl
  · exact (replyDone_sends (Sends.refl _) ..).hub (·.digEng)

theorem shardPassed_digEng (x : CtxId) (k j : Nat) (s : State) : (shardPassed x k j s).hub.digEng = s.hub.digEng := by
  have howed (b : Bool) (t : State) : (if b then resendShard x k j t else t).hub.digEng = t.hub.digEng := by
    split
    · exact resendShard_digEng x k j t
    · rfl
  have hdone (b : Bool) (t : State) : (if b then wgtDone x k t else t).hub.digEng = t.hub.digEng := by
    split
    · exact wgtDone_digEng x k t
    · rfl
  unfold shardPassed
  exact (hdone _ _).trans (howed _ _)

theorem askShard_digEng (x : CtxId) (k j : Nat) (s : State) : (askShard x k j s).hub.digEng = s.hub.digEng := by
  unfold askShard
  dsimp only
  split
  · exact (wgtNotice_sends (Sends.refl _) ..).hub (·.digEng)
  · rfl

/-! ### A shard passes, is asked for again, and fails an attempt -/

/-- A shard whose digest agrees has passed (R418). -/
theorem shardPassed_shard {x : CtxId} {k j : Nat} {sh : Shard} {s : State} (hk : k < 2) (h : (slotW (s.wgt x) k).shards[j]? = some sh) :
    ∃ sh', (slotW ((shardPassed x k j s).wgt x) k).shards[j]? = some sh' ∧ sh'.passed = true ∧ sh'.lastPass = s.hub.ns ∧ sh'.tries = 0 := by
  have hpass := shard_onShard_self s x hk (fun sh => { sh with
    passed := true, lastPass := s.hub.ns, lastTb := tbNow s, tries := 0, fromHost := false, waiting := false, recheck := false, late := false }) h
  refine ⟨_, Eq.trans ?_ hpass, rfl, rfl, rfl⟩
  have howed (b : Bool) (t : State) : (slotW ((if b then resendShard x k j t else t).wgt x) k).shards = (slotW (t.wgt x) k).shards := by
    split
    · exact resendShard_shards x hk j t
    · rfl
  have hdone (b : Bool) (t : State) : (slotW ((if b then wgtDone x k t else t).wgt x) k).shards = (slotW (t.wgt x) k).shards := by
    split
    · exact wgtDone_shards x hk t
    · rfl
  unfold shardPassed
  exact congrArg (·[j]?) ((hdone _ _).trans (howed _ _))

/-- A shard that is asked for again awaits all its chunks (R420). -/
theorem askShard_shard {x : CtxId} {k j : Nat} {sh : Shard} {s : State} (hk : k < 2) (h : (slotW (s.wgt x) k).shards[j]? = some sh)
    (hcmd : (slotW (s.wgt x) k).cmd.isSome) :
    (slotW ((askShard x k j s).wgt x) k).shards[j]? = some { sh with chunks := 0, lastChunk := some s.hub.ns } := by
  obtain ⟨w, hw⟩ := Option.isSome_iff_exists.mp hcmd
  unfold askShard
  dsimp only
  rw [hw, h]
  dsimp only
  rw [(wgtNotice_sends (Sends.refl _) ..).wgt]
  refine shard_onShard_self _ x hk (fun sh => { sh with chunks := 0, lastChunk := some s.hub.ns }) ?_
  rw [slotW_onSlot_self _ _ hk]
  exact h

/-- A failed attempt that is not the last is counted, and the shard is asked for again (R420). -/
theorem failAttempt_shard {x : CtxId} {k j : Nat} {sh : Shard} {s : State} (kind : Nat) (hk : k < 2)
    (h : (slotW (s.wgt x) k).shards[j]? = some sh) (htries : sh.tries < 2) (hplace : (slotW (s.wgt x) k).inPlace = false)
    (hcmd : (slotW (s.wgt x) k).cmd.isSome) :
    ∃ sh', (slotW ((failAttempt x k j kind s).wgt x) k).shards[j]? = some sh' ∧ sh'.tries = sh.tries + 1 ∧ sh'.chunks = 0 ∧
      sh'.passed = sh.passed ∧ (failAttempt x k j kind s).hub.digEng = s.hub.digEng := by
  have hcounted (u : State) (hu : u.wgt x = s.wgt x) (f : WgtCtx → WgtCtx) (hf : ∀ w, (f w).slots = w.slots) :
      slotW ((u.onWgt x f).wgt x) k = slotW (s.wgt x) k := by
    rw [wgt_onWgt_self, hu]
    unfold slotW
    rw [hf]
  have hask (u : State) (hu : slotW (u.wgt x) k = slotW (s.wgt x) k) (heng : u.hub.digEng = s.hub.digEng) :
      ∃ sh', (slotW ((askShard x k j (u.onShard x k j fun sh => { sh with tries := sh.tries + 1 })).wgt x) k).shards[j]? = some sh' ∧
        sh'.tries = sh.tries + 1 ∧ sh'.chunks = 0 ∧ sh'.passed = sh.passed ∧
          (askShard x k j (u.onShard x k j fun sh => { sh with tries := sh.tries + 1 })).hub.digEng = s.hub.digEng := by
    have hsh := shard_onShard_self u x hk (fun sh => { sh with tries := sh.tries + 1 }) (hu ▸ h)
    refine ⟨_, askShard_shard hk hsh ?_, rfl, rfl, rfl, (askShard_digEng ..).trans heng⟩
    rw [State.onShard, slotW_onSlot_self _ _ hk, hu]
    exact hcmd
  unfold failAttempt
  dsimp only
  rw [h]
  dsimp only
  rw [hplace, Bool.false_and, if_neg Bool.false_ne_true, if_pos (by omega)]
  refine hask _ (hcounted _ ((headlandFault_sends (Sends.refl s) _).wgt x) _ fun w => ?_) (headlandFault_hub_digEng ..)
  split <;> rfl

end Sys2Proof.Machine
end

section
/-! SUPPORT. Settles O36: digests, windows and re-checks of shards (R417, R418, R420, R425). -/

namespace Sys2Proof.Machine

open Sys2Proof

/- Elaborated one by one, the proofs do not wait for one another's equation lemmas. -/
set_option Elab.async false

theorem shardDigestStart_completes {d : DieId} {e : Nat} {j : DigJob} {s : State} (hnext : nextDigest (vget s.hub.digQ [] d.val) = some j)
    (hre : j.re = false) (hpick : pickEngine s.hub d j = some e) (he : e < 32) : Completes (.shardDigestStart d) s fun t =>
      vget t.hub.digEng none e = some j ∧
      vget t.hub.digQ [] d.val = (vget s.hub.digQ [] d.val).erase j ++ (vget s.hub.digEng none e).toList := by
  have hexec : exec (.shardDigestStart d) s = execShardDigestStart d s := rfl
  unfold execShardDigestStart at hexec
  dsimp only at hexec
  rw [hnext] at hexec
  dsimp only at hexec
  rw [hre, Bool.false_and, if_neg Bool.false_ne_true, hpick] at hexec
  exact completes_of_next hexec ⟨vget_vset_self _ _ _ _ he, vget_vset_self _ _ _ _ d.isLt⟩

theorem shardDigestComplete_first {d : DieId} {ns : Nat} {i : Fin 4} {job : DigJob} {sh : Shard} {s : State}
    (hjob : vget s.hub.digEng none (4 * d.val + i.val) = some job) (hre : job.re = false)
    (hsh : (slotW (s.wgt job.x) job.slot.val).shards[job.shard]? = some sh) (htries : sh.tries < 2)
    (hplace : (slotW (s.wgt job.x) job.slot.val).inPlace = false) (hcmd : (slotW (s.wgt job.x) job.slot.val).cmd.isSome) :
    Completes (.shardDigestComplete d ns i) s fun t => vget t.hub.digEng none (4 * d.val + i.val) = none ∧
      ∃ sh', (slotW (t.wgt job.x) job.slot.val).shards[job.shard]? = some sh' ∧
      (if digestNat (sha256 (rowBytes (readRows s (shardAddr (slotW (s.wgt job.x) job.slot.val) sh.entry) (weRows sh.entry)))) =
          weDigest sh.entry then sh'.passed = true ∧ sh'.lastPass = (s.atNs ns).hub.ns ∧ sh'.tries = 0
        else sh'.tries = sh.tries + 1 ∧ sh'.chunks = 0 ∧ sh'.passed = sh.passed) := by
  have hexec : exec (.shardDigestComplete d ns i) s = execShardDigestComplete d ns i s := rfl
  unfold execShardDigestComplete at hexec
  dsimp only at hexec
  rw [show vget (s.atNs ns).hub.digEng none (4 * d.val + i.val) = some job from hjob] at hexec
  dsimp only at hexec
  generalize hu : ((s.atNs ns).onHub fun h => { h with digEng := vset h.digEng (4 * d.val + i.val) none }) = u at hexec
  have hwgt : u.wgt job.x = s.wgt job.x := hu ▸ rfl
  have hrows : readRows u = readRows s := hu ▸ rfl
  have hns : u.hub.ns = (s.atNs ns).hub.ns := hu ▸ rfl
  have heng : vget u.hub.digEng none (4 * d.val + i.val) = none := hu ▸ vget_vset_self _ _ _ _ (by omega)
  rw [hwgt, hsh] at hexec
  dsimp only at hexec
  rw [hre, if_neg Bool.false_ne_true, hrows] at hexec
  refine completes_of_next hexec ?_
  rw [← hwgt] at hsh hplace hcmd
  split
  next hgood =>
    rw [beq_iff_eq] at hgood
    rw [shardPassed_digEng]
    simp only [if_pos (hgood)]
    exact ⟨heng, hns ▸ shardPassed_shard job.slot.isLt hsh⟩
  next hbad =>
    rw [beq_iff_eq] at hbad
    obtain ⟨sh', hget, htries', hchunks, hpassed, hdig⟩ := failAttempt_shard 1 job.slot.isLt hsh htries hplace hcmd
    rw [hdig]
    simp only [if_neg (hbad)]
    exact ⟨heng, sh', hget, htries', hchunks, hpassed⟩

/-- The loading slot is the one whose window passed, when no earlier slot's did. -/
theorem find?_windowPassed {s : State} {x : CtxId} {j : Nat} {z : Fin 2} (h : windowPassed s x j z.val = true)
    (hbefore : ∀ y, y < z.val → windowPassed s x j y = false) : [0, 1].find? (windowPassed s x j) = some z.val := by
  match z with
  | 0 => exact List.find?_cons_of_pos h
  | 1 => exact (List.find?_cons_of_neg (by rw [hbefore 0 Nat.one_pos]; exact Bool.false_ne_true)).trans (List.find?_cons_of_pos h)

theorem weightWindowExpiry_failed {x : CtxId} {ns j b : Nat} {z : Fin 2} {sh : Shard} {w : WgtCmd} {s : State}
    (hload : (s.wgt x).loading = some z) (hsh : (slotW (s.wgt x) z.val).shards[j]? = some sh) (hcmd : (slotW (s.wgt x) z.val).cmd = some w)
    (hplace : (slotW (s.wgt x) z.val).inPlace = false) (hkept : keptPart (slotW (s.wgt x) z.val) sh.entry = true)
    (hpassed : sh.passed = false) (hchunks : sh.chunks < shardChunks sh.entry) (hlast : sh.lastChunk = some b)
    (hover : b + (if s.hub.wgtWindow = 0 then 1 else s.hub.wgtWindow) * 1000000 ≤ (s.atNs ns).hub.ns) (htries : sh.tries < 2)
    (hbefore : ∀ y, y < z.val → windowPassed (s.atNs ns) x j y = false) : Completes (.weightWindowExpiry x ns j) s fun t =>
      ∃ sh', (slotW (t.wgt x) z.val).shards[j]? = some sh' ∧ sh'.tries = sh.tries + 1 ∧ sh'.chunks = 0 ∧ sh'.passed = false := by
  have hexec : exec (.weightWindowExpiry x ns j) s = execWeightWindowExpiry x ns j s := rfl
  unfold execWeightWindowExpiry at hexec
  have hthis : windowPassed (s.atNs ns) x j z.val = true := by
    unfold windowPassed
    dsimp only
    have hbusy : wgtBusy ((s.atNs ns).wgt x) z.val = true := by
      unfold wgtBusy
      rw [show (s.atNs ns).wgt x = s.wgt x from rfl, hload, Fin.ofNat_eq_cast, Fin.cast_val_eq_self, BEq.rfl, Bool.true_or]
    rw [hbusy, show (s.atNs ns).wgt x = s.wgt x from rfl, hsh, Option.any_some, hkept, hpassed, hplace, decide_eq_true hchunks, hlast,
      Option.any_some]
    simp only [Bool.true_and, Bool.not_false, Bool.true_or, beq_iff_eq]
    exact decide_eq_true hover
  dsimp only at hexec
  rw [find?_windowPassed hthis hbefore] at hexec
  refine completes_of_next hexec ?_
  have hsome : (slotW ((s.atNs ns).wgt x) z.val).cmd.isSome := Option.isSome_of_eq_some hcmd
  obtain ⟨sh', hget, htries', hchunks', hpassed', -⟩ := failAttempt_shard (s := s.atNs ns) 2 z.isLt hsh htries hplace hsome
  exact ⟨sh', hget, htries', hchunks', hpassed'.trans hpassed⟩

/-! ### Re-checks -/

/-- What `noteLate` leaves: the shard with the late flag as it may be, the queues, and the count of late re-checks (R425). -/
theorem noteLate_shard {x : CtxId} {k j : Nat} {sh : Shard} {s : State} (hk : k < 2) (h : (slotW (s.wgt x) k).shards[j]? = some sh)
    (hen : s.hub.recheckEn = true) :
    (∃ l, (slotW ((noteLate x k j s).wgt x) k).shards[j]? = some { sh with late := l }) ∧
      (noteLate x k j s).hub.digQ = s.hub.digQ ∧
      (noteLate x k j s).hub.recheckLate =
        if sh.late = false ∧ sh.lastPass + 2 * recheckGap s < s.hub.ns then min 0xFFFF (s.hub.recheckLate + 1) else s.hub.recheckLate := by
  unfold noteLate
  rw [h, hen, Option.any_some]
  dsimp only
  rw [Bool.true_and]
  by_cases hlate : sh.late = false ∧ sh.lastPass + 2 * recheckGap s < s.hub.ns
  · rw [if_pos hlate, if_pos (by rw [hlate.1, Bool.not_false, Bool.true_and]; exact decide_eq_true hlate.2)]
    exact ⟨⟨true, shard_onShard_self s x hk (fun sh => { sh with late := true }) h⟩, rfl, satAdd_eq_min _ _ _⟩
  · rw [if_neg hlate, if_neg fun hc => hlate ?_]
    · exact ⟨⟨sh.late, h⟩, rfl, rfl⟩
    · rw [Bool.and_eq_true, Bool.not_eq_true'] at hc
      exact ⟨hc.1, of_decide_eq_true hc.2⟩

/-- What `noteLate` leaves of the time of the next re-check. -/
theorem noteLate_due (x : CtxId) (k j : Nat) (s : State) : (noteLate x k j s).hub.recheckEn = s.hub.recheckEn ∧
    (noteLate x k j s).hub.ns = s.hub.ns ∧ recheckGap (noteLate x k j s) = recheckGap s := by
  unfold noteLate
  dsimp only
  split <;> exact ⟨rfl, rfl, rfl⟩

theorem queueDigest_queued {x : CtxId} {k j : Nat} {sh : Shard} {s : State} (h : (slotW (s.wgt x) k).shards[j]? = some sh)
    (hdie : weDie sh.entry < 8) (re : Bool) :
    vget (queueDigest x k j re s).hub.digQ [] (weDie sh.entry) = vget s.hub.digQ [] (weDie sh.entry) ++ [⟨x, Fin.ofNat 2 k, j, re⟩] := by
  unfold queueDigest
  rw [h]
  exact vget_vset_self _ _ _ _ hdie

theorem queueDigest_wgt (x : CtxId) (k j : Nat) (re : Bool) (s : State) (y : CtxId) : (queueDigest x k j re s).wgt y = s.wgt y := by
  unfold queueDigest
  split <;> rfl

theorem queueDigest_recheckLate (x : CtxId) (k j : Nat) (re : Bool) (s : State) :
    (queueDigest x k j re s).hub.recheckLate = s.hub.recheckLate := by
  unfold queueDigest
  split <;> rfl

theorem recheckDue_queued {x : CtxId} {z : Fin 2} {ns j : Nat} {sh : Shard} {s : State} (hen : s.hub.recheckEn = true)
    (hidle : ∀ y, (s.wgt y).loading = none) (hstate : (slotW (s.wgt x) z.val).state = .active)
    (hsh : (slotW (s.wgt x) z.val).shards[j]? = some sh) (hkept : keptPart (slotW (s.wgt x) z.val) sh.entry = true)
    (hpassed : sh.passed = true) (hre : sh.recheck = false) (hdie : weDie sh.entry < 8)
    (hdue : sh.lastPass + recheckGap s ≤ (s.atNs ns).hub.ns) : Completes (.recheckDue x z ns j) s fun t =>
      (∃ l, (slotW (t.wgt x) z.val).shards[j]? = some { sh with recheck := true, late := l }) ∧
      t.hub.recheckLate = (if sh.late = false ∧ sh.lastPass + 2 * recheckGap s < (s.atNs ns).hub.ns then min 0xFFFF (s.hub.recheckLate + 1)
        else s.hub.recheckLate) ∧
      vget t.hub.digQ [] (weDie sh.entry) = vget s.hub.digQ [] (weDie sh.entry) ++ [⟨x, z, j, true⟩] := by
  have hbusy : ((List.finRange 8).any fun y => ((s.atNs ns).wgt y).loading.isSome) = false :=
    List.any_eq_false.mpr fun y _ => by rw [show ((s.atNs ns).wgt y).loading = none from hidle y]; exact Bool.false_ne_true
  have hget : (slotW ((s.atNs ns).wgt x) z.val).shards[j]? = some sh := hsh
  obtain ⟨⟨l, hlate⟩, hdigQ, hcount⟩ := noteLate_shard (s := s.atNs ns) z.isLt hget hen
  have hexec : exec (.recheckDue x z ns j) s = execRecheckDue x z ns j s := rfl
  unfold execRecheckDue at hexec
  dsimp only at hexec
  rw [hget] at hexec
  dsimp only at hexec
  rw [hbusy, show (slotW ((s.atNs ns).wgt x) z.val).state = .active from hstate, show WSlot.active.checked = true from rfl,
    show keptPart (slotW ((s.atNs ns).wgt x) z.val) sh.entry = true from hkept, hpassed, hre, if_pos (by rfl)] at hexec
  obtain ⟨hen', hns', hgap'⟩ := noteLate_due x z.val j (s.atNs ns)
  generalize noteLate x z.val j (s.atNs ns) = u at *
  rw [hen', hns', hgap', show (s.atNs ns).hub.recheckEn = true from hen] at hexec
  simp only [Bool.true_and, Bool.not_false] at hexec
  rw [show recheckGap (s.atNs ns) = recheckGap s from rfl, decide_eq_true hdue, whenDue, if_pos rfl] at hexec
  refine completes_of_next hexec ?_
  have hasked := shard_onShard_self u x z.isLt (fun sh => { sh with recheck := true }) hlate
  rw [queueDigest_wgt, queueDigest_recheckLate, queueDigest_queued hasked hdie, Fin.ofNat_eq_cast, Fin.cast_val_eq_self]
  refine ⟨⟨l, hasked⟩, hcount, ?_⟩
  rw [show (u.onShard x z.val j fun sh => { sh with recheck := true }).hub.digQ = s.hub.digQ from hdigQ]

/-- Settles O36: each way a shard is checked, by the rules for a pass, a failed attempt and a queued re-check. -/
theorem shardsAreChecked : Obligations.ShardsAreChecked := by
  unfold Obligations.ShardsAreChecked
  rintro d x k e ns s a rfl
  refine ⟨fun j => shardDigestStart_completes, fun i job sh hjob hre hsh _ => shardDigestComplete_first hjob hre hsh,
    fun z j sh b w => weightWindowExpiry_failed, fun z j sh hen hidle hstate hsh hkept hpassed hre hdie hdue => ?_⟩
  refine recheckDue_queued hen hidle hstate hsh hkept hpassed hre hdie ?_
  unfold recheckGap
  simpa only [beq_iff_eq] using hdue

end Sys2Proof.Machine
end

section
/-! SUPPORT. Settles O37: turns of the weight slots and requests of the cores (R423, R424, R427). -/

namespace Sys2Proof.Machine

open Sys2Proof

/- Elaborated one by one, the proofs do not wait for one another's equation lemmas. -/
set_option Elab.async false

/-! ### Requests: the reference counts and the answers -/

section
variable (c : CoreId) (result : Nat) (latch : Option (Fin 2)) (s : State)

@[simp] theorem reqAnswer_hub : (reqAnswer c result latch s).hub = s.hub := rfl
@[simp] theorem reqAnswer_mem : (reqAnswer c result latch s).mem = s.mem := rfl
@[simp] theorem reqAnswer_wgt (x : CtxId) : (reqAnswer c result latch s).wgt x = s.wgt x := rfl

@[simp] theorem reqAnswer_cc : (reqAnswer c result latch s).cc c =
    { s.cc c with reqDone := true, reqResult := result, reqLatched := latch.getD (s.cc c).reqLatched } := by
  unfold reqAnswer
  simp
end

section
variable (x : CtxId) {k : Nat} (s : State)

theorem addRef_refs (hk : k < 2) : vget ((addRef x k s).wgt x).refs 0 k = vget (s.wgt x).refs 0 k + 1 := by
  rw [addRef, wgt_onWgt_self]
  exact vget_vset_self _ _ _ _ hk

theorem wgt_onSlot_refs (f : WLoad → WLoad) : ((s.onSlot x k f).wgt x).refs = (s.wgt x).refs := by
  rw [State.onSlot, wgt_onWgt_self]

theorem dropDigests_wgt (y : CtxId) : (dropDigests x k s).wgt y = s.wgt y := rfl

theorem emptySlot_state (hk : k < 2) : (slotW ((emptySlot x k s).wgt x) k).state = .empty := by
  rw [emptySlot, dropDigests_wgt, slotW_onSlot_self _ _ hk]

theorem emptySlot_refs : ((emptySlot x k s).wgt x).refs = (s.wgt x).refs := by
  rw [emptySlot, dropDigests_wgt, wgt_onSlot_refs]
end

theorem reqBegin_counted {c : CoreId} {x : CtxId} {v : Fin 2 × WSlot × Bool} {s : State} (hx : x = reqCtx s c)
    (hv : v = beginView s (s.wgt x)) (hopen : v.2.2 = false) (hactive : v.2.1 = .active) (hroom : vget (s.wgt x).refs 0 v.1.val < 65535) :
    Completes (.reqBegin c) s fun t => vget (t.wgt x).refs 0 v.1.val = vget (s.wgt x).refs 0 v.1.val + 1 ∧ (t.cc c).reqDone = true ∧
    (t.cc c).reqResult = 0 ∧ (t.cc c).reqLatched = v.1 ∧ t.mem = s.mem := by
  have hexec : exec (.reqBegin c) s = .next (reqBeginOp c s) := rfl
  unfold reqBeginOp at hexec
  dsimp only at hexec
  rw [← hx, ← hv, hopen, hactive, if_neg Bool.false_ne_true, if_neg (by decide), if_neg (by omega)] at hexec
  refine completes_of_next hexec ?_
  rw [reqAnswer_cc, reqAnswer_mem, reqAnswer_wgt, addRef_refs x _ v.1.isLt]
  have hkept (b : Bool) : ((if b then s.onSlot x v.1.val fun l => { l with state := .draining } else s).wgt x).refs = (s.wgt x).refs ∧
      (if b then s.onSlot x v.1.val fun l => { l with state := .draining } else s).mem = s.mem := by
    split
    · exact ⟨wgt_onSlot_refs x s _, rfl⟩
    · exact ⟨rfl, rfl⟩
  refine ⟨by rw [(hkept _).1], rfl, rfl, rfl, (hkept _).2⟩

theorem reqBegin_quarantined {c : CoreId} {x : CtxId} {s : State} (hx : x = reqCtx s c) (hclosed : (beginView s (s.wgt x)).2.2 = true) :
    Completes (.reqBegin c) s fun t => t.hub.wgt = s.hub.wgt ∧ (t.cc c).reqDone = true ∧ (t.cc c).reqResult = 1 := by
  have hexec : exec (.reqBegin c) s = .next (reqBeginOp c s) := rfl
  unfold reqBeginOp at hexec
  dsimp only at hexec
  rw [← hx, hclosed, if_pos rfl] at hexec
  refine completes_of_next hexec ?_
  rw [reqAnswer_cc]
  exact ⟨rfl, rfl, rfl⟩

theorem reqJoin_counted {c : CoreId} {x : CtxId} {s : State} (hx : x = reqCtx s c)
    (hstate : (slotW (s.wgt x) (s.cc c).reqSlot.val).state = .draining) (hroom : vget (s.wgt x).refs 0 (s.cc c).reqSlot.val < 65535) :
    Completes (.reqJoin c) s fun t =>
    vget (t.wgt x).refs 0 (s.cc c).reqSlot.val = vget (s.wgt x).refs 0 (s.cc c).reqSlot.val + 1 ∧ (t.cc c).reqDone = true ∧
    (t.cc c).reqResult = 0 ∧ t.mem = s.mem := by
  have hexec : exec (.reqJoin c) s = .next (reqJoinOp c s) := rfl
  unfold reqJoinOp at hexec
  dsimp only at hexec
  rw [← hx, hstate, decide_eq_false (by omega), if_neg (by decide)] at hexec
  refine completes_of_next hexec ?_
  rw [reqAnswer_cc, reqAnswer_mem, reqAnswer_wgt, addRef_refs x _ (s.cc c).reqSlot.isLt]
  exact ⟨rfl, rfl, rfl, rfl⟩

/-- The last end of a draining slot empties it (R423). -/
theorem reqEnd_last {c : CoreId} {x : CtxId} {s : State} (hx : x = reqCtx s c) (hone : vget (s.wgt x).refs 0 (s.cc c).reqSlot.val = 1)
    (hstate : (slotW (s.wgt x) (s.cc c).reqSlot.val).state = .draining) :
    Completes (.reqEnd c) s fun t => vget (t.wgt x).refs 0 (s.cc c).reqSlot.val = 0 ∧
    (slotW (t.wgt x) (s.cc c).reqSlot.val).state = .empty ∧ (t.cc c).reqDone = true ∧ (t.cc c).reqResult = 0 := by
  have hexec : exec (.reqEnd c) s = .next (reqEndOp c s) := rfl
  unfold reqEndOp at hexec
  dsimp only at hexec
  rw [← hx, hone, hstate, if_neg (by decide), if_pos (by rfl)] at hexec
  refine completes_of_next hexec ?_
  rw [reqAnswer_cc, reqAnswer_wgt, emptySlot_refs, emptySlot_state x _ (s.cc c).reqSlot.isLt, wgt_onWgt_self]
  exact ⟨vget_vset_self _ _ _ _ (s.cc c).reqSlot.isLt, rfl, rfl, rfl⟩

theorem reqEnd_other {c : CoreId} {x : CtxId} {s : State} (hx : x = reqCtx s c) (hmore : 1 < vget (s.wgt x).refs 0 (s.cc c).reqSlot.val) :
    Completes (.reqEnd c) s fun t =>
    vget (t.wgt x).refs 0 (s.cc c).reqSlot.val = vget (s.wgt x).refs 0 (s.cc c).reqSlot.val - 1 ∧
    (t.wgt x).slots = (s.wgt x).slots ∧ (t.cc c).reqResult = 0 := by
  have hexec : exec (.reqEnd c) s = .next (reqEndOp c s) := rfl
  unfold reqEndOp at hexec
  dsimp only at hexec
  rw [← hx, beq_eq_false_iff_ne.mpr (by omega), beq_eq_false_iff_ne.mpr (by omega), Bool.false_and, Bool.false_and, Bool.false_and,
    if_neg Bool.false_ne_true, if_neg Bool.false_ne_true] at hexec
  refine completes_of_next hexec ?_
  rw [reqAnswer_cc, reqAnswer_wgt, if_neg Bool.false_ne_true, wgt_onWgt_self]
  exact ⟨vget_vset_self _ _ _ _ (s.cc c).reqSlot.isLt, rfl, rfl⟩

/-! ### Turns -/

/-- The old active slot drains, or is emptied when no request holds it (R424). -/
theorem drainOld_wgt (x : CtxId) (k n : Nat) (s : State) : ∃ f : WLoad → WLoad,
    (if n == 0 then emptySlot x k s else s.onSlot x k fun l => { l with state := .draining }).wgt x = (s.onSlot x k f).wgt x ∧
    ∀ l, (f l).state = if n = 0 then .empty else .draining := by
  by_cases hn : n = 0
  · rw [if_pos (beq_iff_eq.mpr hn)]
    exact ⟨fun l => { l with state := .empty }, dropDigests_wgt x _ x, fun _ => (if_pos hn).symm⟩
  · rw [if_neg (mt beq_iff_eq.mp hn)]
    exact ⟨fun l => { l with state := .draining }, rfl, fun _ => (if_neg hn).symm⟩

theorem turn_taken {src : CmdSrc} {x : CtxId} {a b : Fin 2} {s : State} (htakes : TakesCommand s 6 whoHSC src)
    (ha : (s.wgt x).active = a) (hb : b.val = 1 - a.val) (hverified : (slotW (s.wgt x) b.val).state = .verified)
    (hload : (s.wgt x).loading = none) : Completes (.turn src x) s fun t => (t.wgt x).active = b ∧
    (slotW (t.wgt x) b.val).state = .active ∧ (slotW (t.wgt x) a.val).state = (if vget (s.wgt x).refs 0 a.val = 0 then .empty else .draining) ∧
    (t.wgt x).quarantine = false ∧ (t.wgt x).turns = min 0xFFFFFFFF ((s.wgt x).turns + 1) ∧ (t.wgt x).refs = (s.wgt x).refs ∧
    Replies src 6 0 0 t := by
  refine completes_of_takes (execTurn src x) htakes ?_
  generalize hs₀ : takeCmd 0 6 src s = s₀
  have hw : s₀.wgt x = s.wgt x := hs₀ ▸ (takeCmd_sends (Sends.refl s) ..).wgt x
  dsimp only
  rw [hw, ha, ← hb, hverified, hload, if_neg (by decide)]
  have hdrop (v : Bool) : (if v then dropDigests x a.val s₀ else s₀).wgt x = s.wgt x := by
    rw [← hw]
    split <;> rfl
  have hs₁ := hdrop (s.wgt x).refetching
  generalize (if (s.wgt x).refetching = true then dropDigests x a.val s₀ else s₀) = s₁ at hs₁ ⊢
  have hne : a.val ≠ b.val := by omega
  generalize hs₂ : (s₁.onWgt x fun w => _) = s₂
  have hs₂w : s₂.wgt x = { s.wgt x with
      active := b, quarantine := false, refetching := false, turns := satAdd 0xFFFFFFFF (s.wgt x).turns 1,
      turn0 := some (aonCycle s₁, (s.wgt x).active, (slotW (s.wgt x) a.val).state, (s.wgt x).quarantine) } := by
    rw [← hs₂, wgt_onWgt_self, hs₁, Fin.ofNat_eq_cast, Fin.cast_val_eq_self]
  obtain ⟨f, hf, hstate⟩ := drainOld_wgt x a.val (vget (s.wgt x).refs 0 a.val) s₂
  generalize (if vget (s.wgt x).refs 0 a.val == 0 then _ else _) = s₃ at *
  have hreply : (reply src 6 0 0 (s₃.onSlot x b.val fun l => { l with state := .active })).wgt x = _ :=
    (reply_sends (Sends.refl _) ..).wgt x
  rw [hreply, slotW_onSlot_self _ _ b.isLt, slotW_onSlot_ne _ _ hne.symm, hf, slotW_onSlot_self _ _ a.isLt, hstate]
  rw [State.onSlot, wgt_onWgt_self, hf, State.onSlot, wgt_onWgt_self, hs₂w]
  exact ⟨rfl, rfl, rfl, rfl, satAdd_eq_min _ _ _, rfl, replies_reply _ _ _ _ _⟩

theorem turn_refused {src : CmdSrc} {x : CtxId} {s : State} (htakes : TakesCommand s 6 whoHSC src)
    (hstate : (slotW (s.wgt x) (1 - (s.wgt x).active.val)).state ≠ .verified) : Completes (.turn src x) s fun t => t.hub.wgt = s.hub.wgt := by
  refine completes_of_takes (execTurn src x) htakes ?_
  have htake : Sends s (takeCmd 0 6 src s) := takeCmd_sends (Sends.refl s) ..
  dsimp only
  rw [htake.wgt, bne_iff_ne.mpr hstate, Bool.true_or, if_pos rfl]
  exact (reply_sends htake ..).hub (·.wgt)

/-- Settles O37: a turn by the rules for the slots it touches, and each operation on requests by its reference count. -/
theorem turnsAndRequests : Obligations.TurnsAndRequests := by
  unfold Obligations.TurnsAndRequests
  exact fun src c x s => ⟨fun a b => turn_taken, turn_refused, fun v => reqBegin_counted, reqBegin_quarantined, reqJoin_counted,
    reqEnd_last, reqEnd_other⟩

end Sys2Proof.Machine
end

section
/-! SUPPORT. Settles O38: journal entries (R433 to R435, R437). -/

namespace Sys2Proof.Machine

open Sys2Proof

/- Elaborated one by one, the proofs do not wait for one another's equation lemmas. -/
set_option Elab.async false

theorem Sends.snp {s t : State} (h : Sends s t) (x : CtxId) : t.snp x = s.snp x :=
  h.hub fun k => k.snp.get x

/-- The header row of an entry rests on the context's registers, its step advance and the module's position (R433). -/
theorem jnlHeader_congr {s t : State} {x : CtxId} (hsnp : t.snp x = s.snp x) (hadv : t.advOf x = s.advOf x)
    (hpos : t.hub.position = s.hub.position) (g rows : Nat) (data : List Row) : jnlHeader t x g rows data = jnlHeader s x g rows data := by
  unfold jnlHeader
  rw [hsnp, hadv, hpos]

theorem readRows_congr {s t : State} (h : t.mem = s.mem) (a n : Nat) : readRows t a n = readRows s a n :=
  List.map_congr_left fun _ _ => readRow_congr h _

/-- Performing an entry writes its header row and has the entry wait for the mirror (R435 steps 3 and 4). -/
theorem jnlPerform_snp (x : CtxId) (g rows : Nat) (src : CmdSrc) (retried : Bool) (s : State) :
    (jnlPerform x g rows src retried s).snp x = { s.snp x with jBusy := some (g, rows, src, retried) } := by
  unfold jnlPerform
  rw [(putItem_sends (Sends.refl _) _).snp, snp_onSnp_self, State.snp, writeRow_hub, State.snp]

theorem jnlPerform_mem (x : CtxId) (g rows : Nat) (src : CmdSrc) (retried : Bool) (s : State) {a : Nat}
    (ha : a = jnlSlotAddr (s.snp x) (s.snp x).jBase g) :
    (jnlPerform x g rows src retried s).mem = (writeRow s a (jnlHeader s x g rows (readRows s (a + 512) rows))).mem := by
  subst ha
  unfold jnlPerform
  exact (putItem_sends (Sends.refl _) _).mem

theorem journalCommand_due {src : CmdSrc} {x : CtxId} {g rows : Nat} {s : State} {p : State → Prop} (hbusy : (s.snp x).jBusy = none)
    (hheld : (s.snp x).jHeld = none) (hentries : (s.snp x).jEntries ≠ 0) (hrows : 1 ≤ rows) (hfit : rows ≤ (s.snp x).jRows)
    (hp : ∀ u, Sends s u → p (if jnlCovered (s.snp x) g then jnlPerform x g rows src false u else jnlHold x g rows src u)) :
    Completes (.journalCommand src x g rows) s p := by
  have htake : Sends s (takeCmd 1 0 src s) := takeCmd_sends (Sends.refl s) ..
  have hexec : exec (.journalCommand src x g rows) s = execJournalCommand src x g rows s := rfl
  unfold execJournalCommand at hexec
  dsimp only at hexec
  rw [hbusy, hheld, whenDue, if_pos (by rfl)] at hexec
  refine completes_of_next hexec ?_
  rw [beq_eq_false_iff_ne.mpr hentries, beq_eq_false_iff_ne.mpr (Nat.ne_of_gt hrows), decide_eq_false (Nat.not_lt.mpr hfit),
    if_neg (by decide)]
  exact hp _ htake

theorem journalCommand_covered {src : CmdSrc} {x : CtxId} {g rows : Nat} {s : State} (hbusy : (s.snp x).jBusy = none)
    (hheld : (s.snp x).jHeld = none) (hentries : (s.snp x).jEntries ≠ 0) (hrows : 1 ≤ rows) (hfit : rows ≤ (s.snp x).jRows)
    (hcov : jnlCovered (s.snp x) g = true) : Completes (.journalCommand src x g rows) s fun t =>
    (t.snp x).jBusy = some (g, rows, src, false) ∧ (t.snp x).jStep = (s.snp x).jStep ∧
    ∀ a, a = jnlSlotAddr (s.snp x) (s.snp x).jBase g → populated a = true →
      readRow t a = jnlHeader s x g rows (readRows s (a + 512) rows) ∧ ∀ b, rowBase b ≠ rowBase a → readRow t b = readRow s b := by
  refine journalCommand_due hbusy hheld hentries hrows hfit fun u hu => ?_
  rw [hcov, if_pos rfl, jnlPerform_snp, hu.snp]
  refine ⟨rfl, rfl, fun a ha hpop => ?_⟩
  have hmem := jnlPerform_mem x g rows src false u (ha.trans (by rw [hu.snp]))
  rw [readRow_congr hmem, readRow_writeRow_self _ _ hpop, jnlHeader_congr (hu.snp x) (hu.advOf x) (hu.hub (·.position)), readRows_congr hu.mem]
  refine ⟨rfl, fun b hb => ?_⟩
  rw [readRow_congr hmem, readRow_writeRow_ne _ _ hb, readRow_congr hu.mem]

theorem journalCommand_held {src : CmdSrc} {x : CtxId} {g rows : Nat} {s : State} (hbusy : (s.snp x).jBusy = none)
    (hheld : (s.snp x).jHeld = none) (hentries : (s.snp x).jEntries ≠ 0) (hrows : 1 ≤ rows) (hfit : rows ≤ (s.snp x).jRows)
    (hcov : jnlCovered (s.snp x) g = false) : Completes (.journalCommand src x g rows) s fun t =>
    (t.snp x).jHeld = some (g, rows, src) ∧ (t.snp x).jBusy = none ∧ (t.snp x).jWaits = min 0xFFFFFFFF ((s.snp x).jWaits + 1) ∧
    t.mem = s.mem := by
  refine journalCommand_due hbusy hheld hentries hrows hfit fun u hu => ?_
  have hfault := fun f => headlandFault_sends (Sends.refl (u.onSnp x fun n =>
    { n with jHeld := some (g, rows, src), jWaits := satAdd 0xFFFFFFFF n.jWaits 1 })) f
  rw [hcov, if_neg Bool.false_ne_true, jnlHold]
  rw [(hfault _).snp, (hfault _).mem, snp_onSnp_self, hu.snp]
  exact ⟨rfl, hbusy, satAdd_eq_min 0xFFFFFFFF (s.snp x).jWaits 1, hu.mem⟩

theorem wayTo_own {s : State} (plane : Nat) : wayTo s s.hub.position plane = .here := by
  unfold wayTo
  rw [BEq.rfl, if_pos rfl]

theorem putItem_own {i : Item} {s : State} (h : i.destPos = s.hub.position) : putItem i s = { s with net := s.net ++ [i] } := by
  unfold putItem putItemAt
  rw [h, wayTo_own]

theorem mirrorHeaderLand_answered {p : BitVec 16} {s : State} (a : Nat) (hown : p.toNat = s.hub.position) :
    Completes (.mirrorHeaderLand p a) s fun t => t.net.length = s.net.length + 1 ∧ t.mem = s.mem ∧ t.hub = s.hub ∧ t.cores = s.cores := by
  have hexec : exec (.mirrorHeaderLand p a) s = execMirrorHeaderLand p a s := rfl
  unfold execMirrorHeaderLand sendMgmt at hexec
  dsimp only at hexec
  rw [putItem_own hown] at hexec
  exact completes_of_next hexec ⟨List.length_append, rfl, rfl, rfl⟩

theorem takeMirrorAnswer_sends (pos : Nat) (s : State) : Sends s (takeMirrorAnswer pos s) := ⟨rfl, rfl, rfl, rfl, rfl⟩

theorem mirrorAnswer_agrees {src : CmdSrc} {x : CtxId} {g rows : Nat} {b : Bool} {s : State}
    (hbusy : (s.snp x).jBusy = some (g, rows, src, b)) : Completes (.mirrorAnswer x true) s fun t =>
    (t.snp x).jBusy = none ∧ (t.snp x).jStep = g ∧ (t.snp x).jSeq = (s.snp x).jSeq + 1 ∧ t.mem = s.mem := by
  have hexec : exec (.mirrorAnswer x true) s = execMirrorAnswer x true s := rfl
  unfold execMirrorAnswer at hexec
  dsimp only at hexec
  rw [hbusy] at hexec
  dsimp only at hexec
  rw [if_pos rfl] at hexec
  refine completes_of_next hexec ?_
  have htake := takeMirrorAnswer_sends (s.snp x).jMirrorPos s
  generalize takeMirrorAnswer (s.snp x).jMirrorPos s = u at *
  rw [(replyInline_sends (Sends.refl _) ..).snp, snp_onSnp_self, htake.snp, (replyInline_sends (Sends.refl _) ..).mem]
  exact ⟨rfl, rfl, rfl, htake.mem⟩

theorem mirrorAnswer_again {src : CmdSrc} {x : CtxId} {g rows : Nat} {s : State}
    (hbusy : (s.snp x).jBusy = some (g, rows, src, false)) : Completes (.mirrorAnswer x false) s fun t =>
    (t.snp x).jBusy = some (g, rows, src, true) ∧ (t.snp x).jStep = (s.snp x).jStep ∧ (t.snp x).jSeq = (s.snp x).jSeq := by
  have hexec : exec (.mirrorAnswer x false) s = execMirrorAnswer x false s := rfl
  unfold execMirrorAnswer at hexec
  dsimp only at hexec
  rw [hbusy] at hexec
  dsimp only at hexec
  rw [if_neg Bool.false_ne_true, if_pos (by rfl)] at hexec
  refine completes_of_next hexec ?_
  rw [jnlPerform_snp, (takeMirrorAnswer_sends _ _).snp]
  exact ⟨rfl, rfl, rfl⟩

theorem mirrorAnswer_givenUp {src : CmdSrc} {x : CtxId} {g rows : Nat} {s : State}
    (hbusy : (s.snp x).jBusy = some (g, rows, src, true)) : Completes (.mirrorAnswer x false) s fun t =>
    (t.snp x).jBusy = none ∧ (t.snp x).jMirrorBad = true ∧ (t.snp x).jStep = (s.snp x).jStep ∧ t.mem = s.mem := by
  have hexec : exec (.mirrorAnswer x false) s = execMirrorAnswer x false s := rfl
  unfold execMirrorAnswer at hexec
  dsimp only at hexec
  rw [hbusy] at hexec
  dsimp only at hexec
  rw [if_neg Bool.false_ne_true, if_neg (by decide)] at hexec
  refine completes_of_next hexec ?_
  have htake := takeMirrorAnswer_sends (s.snp x).jMirrorPos s
  generalize takeMirrorAnswer (s.snp x).jMirrorPos s = u at *
  have hsent := fun f => headlandFault_sends (hubSetBit_sends (Sends.refl (u.onSnp x fun n => { n with jBusy := none, jMirrorBad := true }))
    (hubBlock (0x8001C + 0x100 * x.val)) 8) f
  rw [(hsent _).snp, (hsent _).mem, snp_onSnp_self, htake.snp]
  exact ⟨rfl, rfl, rfl, htake.mem⟩

/-- Settles O38: a journal command by whether the entry is covered, the mirror's answer by whether it agrees. -/
theorem journalEntries : Obligations.JournalEntries := by
  unfold Obligations.JournalEntries
  exact fun src x g rows s => ⟨journalCommand_covered, journalCommand_held, fun p a => mirrorHeaderLand_answered a, fun b => mirrorAnswer_agrees,
    mirrorAnswer_again, mirrorAnswer_givenUp⟩

end Sys2Proof.Machine
end

section
/-! SUPPORT. Settles O39: copy windows, the start of a snapshot, its chunks and their notices (R438, R439, R443, R445, R447, R457). -/

namespace Sys2Proof.Machine

open Sys2Proof

/- Elaborated one by one, the proofs do not wait for one another's equation lemmas. -/
set_option Elab.async false

theorem completes_imp {i : Instr} {s : State} {p q : State → Prop} (h : Completes i s p) (hpq : ∀ t, p t → q t) : Completes i s q :=
  h.imp fun t ht => ht.imp id (hpq t)

/-! ### Starting -/

theorem startSnapshot_snp (x : CtxId) (s : State) : ∃ r : SnpRun,
    (startSnapshot x s).snp x =
      { s.snp x with snp := some r, lastSeq := (s.snp x).lastSeq + 1, state := 1, lastStart := tbNow s } ∧
    r.seq = (s.snp x).lastSeq + 1 ∧ r.table = [] ∧ r.signed = false := by
  unfold startSnapshot
  exact ⟨_, snp_onSnp_self .., rfl, rfl, rfl⟩

theorem startSnapshot_mem (x : CtxId) (s : State) : (startSnapshot x s).mem = s.mem := rfl

theorem updEnd_opens {w : Writer} {x : CtxId} {s : State} (hof : ofContext s x w = true) (hnone : (s.snp x).window = none) :
    Completes (.updEnd w x) s fun t => (t.snp x).window = some (s.advOf x).step.toNat ∧ t.mem = s.mem ∧ t.cores = s.cores := by
  have hexec : exec (.updEnd w x) s = .next (updEndOp w x s) := rfl
  unfold updEndOp at hexec
  dsimp only at hexec
  rw [hof, hnone, if_neg (by decide)] at hexec
  refine completes_of_next hexec ?_
  rw [snp_onSnp_self]
  exact ⟨rfl, rfl, rfl⟩

theorem updEnd_ignored {w : Writer} {x : CtxId} {s : State} (hof : ofContext s x w = false) :
    Completes (.updEnd w x) s fun t => t = s := by
  have hexec : exec (.updEnd w x) s = .next (updEndOp w x s) := rfl
  unfold updEndOp at hexec
  dsimp only at hexec
  rw [hof, Bool.not_false, Bool.true_or, if_pos rfl] at hexec
  exact completes_of_next hexec rfl

theorem snapshotNow_starts {w : Writer} {x : CtxId} {ns : Nat} {s : State} (hw : byManager w = true) (hstart : snpCanStart (s.snp x) = true) :
    Completes (.snapshotNow w x ns) s fun t => ∃ r, (t.snp x).snp = some r ∧
    r.seq = (s.snp x).lastSeq + 1 ∧ (t.snp x).lastSeq = (s.snp x).lastSeq + 1 ∧ (t.snp x).state = 1 ∧ r.table = [] ∧ r.signed = false ∧
    (t.snp x).seq = (s.snp x).seq ∧ t.mem = s.mem := by
  have hexec : exec (.snapshotNow w x ns) s = .next (snapshotNowOp w x (s.atNs ns)) := rfl
  unfold snapshotNowOp at hexec
  rw [hw, Bool.true_and, show (s.atNs ns).snp x = s.snp x from rfl, if_pos hstart] at hexec
  refine completes_of_next hexec ?_
  obtain ⟨r, hsnp, hseq, htable, hsigned⟩ := startSnapshot_snp x (s.atNs ns)
  rw [hsnp]
  exact ⟨r, rfl, hseq, rfl, rfl, htable, hsigned, rfl, rfl⟩

theorem snapshotNow_ignored {w : Writer} {x : CtxId} {ns : Nat} {s : State} (hw : byManager w = false) :
    Completes (.snapshotNow w x ns) s fun t => t = s.atNs ns := by
  have hexec : exec (.snapshotNow w x ns) s = .next (snapshotNowOp w x (s.atNs ns)) := rfl
  unfold snapshotNowOp at hexec
  rw [hw, Bool.false_and, if_neg Bool.false_ne_true] at hexec
  exact completes_of_next hexec rfl

theorem snapshotStart_starts {x : CtxId} {ns : Nat} {s : State} (hstart : snpCanStart (s.snp x) = true)
    (hwhen : (jnlPressure (s.snp x) || ((s.snp x).window.isSome && decide ((s.snp x).lastStart + snpIntervalMs s x * 1000000 ≤ tbNow s))) = true) :
    Completes (.snapshotStart x ns) s fun t => ∃ r, (t.snp x).snp = some r ∧ r.seq = (s.snp x).lastSeq + 1 ∧ (t.snp x).state = 1 ∧
    (t.snp x).lastStart = tbNow s ∧ t.mem = s.mem := by
  have hexec : exec (.snapshotStart x ns) s = whenDue (snpCanStart (s.snp x) && (jnlPressure (s.snp x) ||
    ((s.snp x).window.isSome && decide ((s.snp x).lastStart + snpIntervalMs s x * 1000000 ≤ tbNow s)))) (startSnapshot x) (s.atNs ns) := rfl
  rw [hstart, hwhen, whenDue, if_pos (by rfl)] at hexec
  refine completes_of_next hexec ?_
  obtain ⟨r, hsnp, hseq, -, -⟩ := startSnapshot_snp x (s.atNs ns)
  rw [hsnp]
  exact ⟨r, rfl, hseq, rfl, rfl, rfl⟩

/-! ### Chunks and what partners are told of them -/

/-- A snapshot in progress without the notices that await an answer. -/
def SnpRun.unnoted (r : SnpRun) : SnpRun := { r with notices := [] }

/-- The registers of a context's snapshots without the notices that await an answer. -/
def SnpCtx.unnoted (n : SnpCtx) : SnpCtx := { n with snp := n.snp.map SnpRun.unnoted }

theorem run_of_unnoted {a b : SnpCtx} {r : SnpRun} (h : a.unnoted = b.unnoted) (hb : b.snp = some r) :
    ∃ l, a.snp = some { r with notices := l } := by
  have hrun : a.snp.map SnpRun.unnoted = some r.unnoted :=
    (congrArg SnpCtx.snp h :).trans (congrArg (Option.map SnpRun.unnoted) hb)
  obtain ⟨r', hr', heq⟩ := Option.map_eq_some_iff.mp hrun
  exact ⟨r'.notices, hr'.trans (congrArg some (congrArg (fun q : SnpRun => { q with notices := r'.notices }) heq :))⟩

theorem sendPartnerChunk_sends (x : CtxId) (q c : Nat) (e : BitVec 512) (rows : List Row) (s : State) :
    Sends (s.onSnp x fun n => { n with snp := n.snp.map fun r => { r with notices := r.notices ++ [(q, c, s.hub.ns)] } })
      (sendPartnerChunk x q c e rows s) := by
  unfold sendPartnerChunk
  dsimp only
  split
  · exact Sends.refl _
  · exact headlandSendF_sends (hubWrites_sends (Sends.refl _) ..) ..

theorem sendPartnerChunk_unnoted (x : CtxId) (q c : Nat) (e : BitVec 512) (rows : List Row) (s : State) :
    ((sendPartnerChunk x q c e rows s).snp x).unnoted = (s.snp x).unnoted := by
  rw [(sendPartnerChunk_sends ..).snp, snp_onSnp_self, SnpCtx.unnoted, SnpCtx.unnoted, Option.map_map]
  rfl

/-- What partners are told of a chunk alters the notices alone. -/
theorem forAll_sendPartnerChunk (x : CtxId) (l : List Nat) (c : Nat) (e : BitVec 512) (rows : List Row) (s : State) :
    ((forAll l (fun q s => sendPartnerChunk x q c e rows s) s).snp x).unnoted = (s.snp x).unnoted ∧
      (forAll l (fun q s => sendPartnerChunk x q c e rows s) s).mem = s.mem :=
  ⟨forAll_keep (fun u => (u.snp x).unnoted) _ _ _ fun q _ u => sendPartnerChunk_unnoted x q c e rows u,
    forAll_keep State.mem _ _ _ fun q _ u => (sendPartnerChunk_sends x q c e rows u).mem⟩

/-- Rows without an error on their way are copied as they stand. -/
theorem readCopied_clean {s : State} {a n : Nat} (h : ∀ i, i < n → readEcc s (a + 512 * i) .clean = .clean) :
    readCopied a n [] s = (readRows s a n, s) := by
  have hfold (l : List Nat) (hl : ∀ i ∈ l, i < n) (acc : List Row) :
      l.foldl (fun (x : List Row × State) k =>
        let e := readEcc x.2 (a + 512 * k) (errAt [] k)
        let r := readNoted x.2 (a + 512 * k) e
        if eccBad e then (x.1 ++ [Config.freeRow r.2.free], r.2.fresh) else (x.1 ++ [r.1], r.2)) (acc, s) =
      (acc ++ l.map fun i => readRow s (a + 512 * i), s) := by
    induction l generalizing acc with
    | nil => rw [List.map_nil, List.append_nil, List.foldl_nil]
    | cons i l ih =>
      rw [List.foldl_cons]
      dsimp only
      rw [show errAt [] i = .clean from rfl, h i (hl i List.mem_cons_self), if_neg (by decide)]
      have hrow : readNoted s (a + 512 * i) .clean = (readRow s (a + 512 * i), s) := rfl
      rw [hrow]
      dsimp only
      rw [ih (fun j hj => hl j (List.mem_cons_of_mem _ hj)), List.append_assoc]
      rfl
  exact hfold _ (fun i hi => List.mem_range.mp hi) []

/-- A chunk that the table lacks is found where it is appended. -/
theorem tableEntry_append {t : List (Nat × BitVec 512)} {k : Nat} (e : BitVec 512) (h : (t.any fun y => y.1 == k) = false) :
    tableEntry (t ++ [(k, e)]) k = e := by
  have hnone : (t.find? fun y => y.1 == k) = none := List.find?_eq_none.mpr (List.any_eq_false.mp h)
  rw [tableEntry, List.find?_append, hnone, Option.none_or, List.find?_cons_of_pos (by exact BEq.rfl)]
  rfl

theorem dropLinked_lacks {t : List (Nat × BitVec 512)} {k : Nat} (cs : List SChunk) (c : SChunk) (g : Nat)
    (h : (t.any fun y => y.1 == k) = false) : ((dropLinked cs c g t).any fun y => y.1 == k) = false :=
  List.any_eq_false.mpr fun y hy => List.any_eq_false.mp h y (List.mem_of_mem_filter hy)

theorem snapshotChunkCopied_entered {x : CtxId} {k b : Nat} {r : SnpRun} {c : SChunk} {s : State} (hrun : (s.snp x).snp = some r)
    (hwindow : (s.snp x).window = some b) (hchunk : (snpChunks s (s.snp x))[k]? = some c) (hsigned : r.signed = false)
    (hlevel : (s.snp x).level = false) (hnew : (r.table.any fun y => y.1 == k) = false)
    (hnotice : (r.notices.any fun y => y.2.1 % 16 == k % 16) = false) (hidle : chunkIdle s c = true)
    (hclean : ∀ i, i < c.rows → readEcc s (c.addr + 512 * i) .clean = .clean) :
    Completes (.snapshotChunkCopied x ⟨k, []⟩) s fun t =>
    ∃ r', (t.snp x).snp = some r' ∧ r'.window = r.window + 1 ∧ r'.seq = r.seq ∧ t.mem = s.mem ∧
      tableEntry r'.table k = chunkEntry k b c (readRows s c.addr c.rows) := by
  have hexec : exec (.snapshotChunkCopied x ⟨k, []⟩) s = execSnapshotChunkCopied x ⟨k, []⟩ s := rfl
  unfold execSnapshotChunkCopied at hexec
  dsimp only at hexec
  rw [hrun, hwindow, hchunk] at hexec
  dsimp only at hexec
  rw [hsigned, hlevel, hnew, hnotice, hidle, Bool.not_false, Bool.true_or, Bool.true_or, Bool.true_or, whenDue, if_pos (by rfl),
    readCopied_clean hclean] at hexec
  refine completes_of_next hexec ?_
  generalize hu : (State.onSnp _ x _) = u
  obtain ⟨hunnoted, hmem⟩ := forAll_sendPartnerChunk x (partnersOf (s.snp x)) k (chunkEntry k b c (readRows s c.addr c.rows))
    (readRows s c.addr c.rows) u
  have hsnp : (u.snp x).snp = _ := hu ▸ congrArg SnpCtx.snp (snp_onSnp_self ..)
  obtain ⟨l, hl⟩ := run_of_unnoted hunnoted hsnp
  exact ⟨_, hl, rfl, rfl, hmem.trans (hu ▸ rfl), tableEntry_append _ (dropLinked_lacks _ _ _ hnew)⟩

/-! ### Copies that this module hosts, and notices without an answer -/

theorem sendMgmt_sends (pos : Nat) (f : Flit) (s : State) : Sends s (sendMgmt pos f s) := by
  unfold sendMgmt
  exact putItem_sends (Sends.refl s) _

/-- A notice for a module that this one hosts: rows that agree go into the hosted copy (R445). -/
theorem partnerChunkNotice_hosted {p : BitVec 16} {x : CtxId} {q : Nat} {e : BitVec 512} {s : State}
    (hhosted : s.hub.hl.hosted.contains p.toNat = true)
    (hfit : (ceChunk e != commitChunk || s.hub.pwr.mainOk || s.hub.pwr.backupOk) = true) :
    Completes (.partnerChunkNotice p x q e) s fun t => t.mem = s.mem ∧ t.cores = s.cores ∧ t.hub.store =
      (if digestNat (sha256 (rowBytes (readRows s q (ceRows e)))) = ceDigest e then hostRows p.toNat x.val e (readRows s q (ceRows e)) s
        else s).hub.store := by
  have hexec : exec (.partnerChunkNotice p x q e) s = execPartnerChunkNotice p x q e s := rfl
  unfold execPartnerChunkNotice at hexec
  dsimp only at hexec
  rw [hhosted, Bool.not_true, if_neg Bool.false_ne_true, hfit, whenDue, if_pos rfl] at hexec
  refine completes_of_next hexec ?_
  have hhost (b : Bool) : (if b then hostRows p.toNat x.val e (readRows s q (ceRows e)) s else s).mem = s.mem ∧
      (if b then hostRows p.toNat x.val e (readRows s q (ceRows e)) s else s).cores = s.cores := by
    unfold hostRows
    dsimp only
    split
    · split <;> exact ⟨rfl, rfl⟩
    · exact ⟨rfl, rfl⟩
  obtain ⟨hmem, hcores⟩ := hhost (digestNat (sha256 (rowBytes (readRows s q (ceRows e)))) == ceDigest e)
  have hsent := fun f u => sendMgmt_sends p.toNat f u
  obtain ⟨-, hmem', hcores', -, -⟩ := hsent _ _
  refine ⟨hmem'.trans hmem, hcores'.trans hcores, ((hsent _ _).hub (·.store)).trans ?_⟩
  simp only [beq_iff_eq]

theorem abandonSnapshot_snp {x : CtxId} {r : SnpRun} {s : State} (h : (s.snp x).snp = some r) :
    (abandonSnapshot x s).snp x = { s.snp x with snp := none, state := 0 } ∧
      (abandonSnapshot x s).hub.abandoned = min 0xFFFF (s.hub.abandoned + 1) := by
  unfold abandonSnapshot
  rw [h, if_neg (by exact Bool.false_ne_true)]
  exact ⟨snp_onSnp_self s x fun n => { n with snp := none, state := 0 }, satAdd_eq_min _ _ _⟩

theorem partnerNoticeTimeout_abandons {x : CtxId} {ns : Nat} {r : SnpRun} {y : Nat × Nat × Nat} {s : State}
    (hrun : (s.snp x).snp = some r) (hfind : r.notices.find? (fun y => y.2.2 + 100000000 ≤ (s.atNs ns).hub.ns) = some y) :
    Completes (.partnerNoticeTimeout x ns) s fun t => (t.snp x).snp = none ∧ (t.snp x).state = 0 ∧
    t.hub.abandoned = min 0xFFFF (s.hub.abandoned + 1) ∧ (t.snp x).seq = (s.snp x).seq := by
  have hexec : exec (.partnerNoticeTimeout x ns) s = execPartnerNoticeTimeout x ns s := rfl
  unfold execPartnerNoticeTimeout at hexec
  dsimp only at hexec
  rw [show ((s.atNs ns).snp x).snp = some r from hrun] at hexec
  dsimp only at hexec
  rw [hfind] at hexec
  refine completes_of_next hexec ?_
  obtain ⟨hsnp, hcount⟩ := abandonSnapshot_snp (s := s.atNs ns) hrun
  have hfault := fun f u => headlandFault_sends (Sends.refl u) f
  rw [(hfault _ _).snp, (hfault _ _).hub (·.abandoned), hsnp, hcount]
  exact ⟨rfl, rfl, rfl, rfl⟩

/-- Settles O39: the start of a snapshot, a chunk's entry in the table, and what a hosted copy and an unanswered notice lead to. -/
theorem snapshotsAreTaken : Obligations.SnapshotsAreTaken := by
  unfold Obligations.SnapshotsAreTaken
  rintro x w ns k s a rfl
  refine ⟨updEnd_opens, updEnd_ignored, snapshotNow_starts, snapshotNow_ignored, fun b hstart hwindow hover => ?_, fun hstart hpressure => ?_,
    fun r b c => snapshotChunkCopied_entered, fun p q e hhosted hchunk => ?_, fun p q e hhosted hchunk hpwr hgood => ?_,
    fun r y => partnerNoticeTimeout_abandons⟩
  · have hdue : (jnlPressure (s.snp x) || ((s.snp x).window.isSome &&
        decide ((s.snp x).lastStart + snpIntervalMs s x * 1000000 ≤ tbNow s))) = true := by
      rw [hwindow, decide_eq_true hover, Option.isSome_some, Bool.true_and, Bool.or_true]
    exact completes_imp (snapshotStart_starts hstart hdue) fun t ⟨r, hrun, hseq, hstate, hlast, _⟩ => ⟨r, hrun, hseq, hstate, hlast⟩
  · refine snapshotStart_starts hstart ?_
    rw [hpressure, Bool.true_or]
  · have hfit : (ceChunk e != commitChunk || s.hub.pwr.mainOk || s.hub.pwr.backupOk) = true := by
      rw [bne_iff_ne.mpr hchunk, Bool.true_or, Bool.true_or]
    refine completes_imp (partnerChunkNotice_hosted hhosted hfit) fun t ⟨hmem, hcores, hstore⟩ => ⟨hmem, hcores, hstore.trans ?_⟩
    rw [hostRows, if_neg (mt beq_iff_eq.mp hchunk), apply_ite (fun u : State => u.hub.store)]
    rfl
  · have hfit : (ceChunk e != commitChunk || s.hub.pwr.mainOk || s.hub.pwr.backupOk) = true := by
      rcases hpwr with h | h <;> simp only [h, Bool.or_true, Bool.true_or]
    refine completes_imp (partnerChunkNotice_hosted hhosted hfit) fun t ⟨hmem, hcores, hstore⟩ => ⟨hmem, hcores, hstore.trans ?_⟩
    rw [hostRows, if_pos hgood, if_pos (beq_iff_eq.mpr hchunk)]
    rfl

end Sys2Proof.Machine
end

section
/-! SUPPORT. Settles O40: signing and committing a snapshot, the pairing with a partner, and the failure risk (R443, R444, R446, R448). -/

namespace Sys2Proof.Machine

open Sys2Proof

/- Elaborated one by one, the proofs do not wait for one another's equation lemmas. -/
set_option Elab.async false

theorem snapshotSigned_signs {x : CtxId} {r : SnpRun} {s : State} (hrun : (s.snp x).snp = some r) (hsigned : r.signed = false)
    (hcopied : snpCopied s (s.snp x) r = true) : Completes (.snapshotSigned x) s fun t =>
    (t.snp x).state = 2 ∧ t.mem = s.mem ∧ ∃ l, (t.snp x).snp = some { r with signed := true, record := commitRecord s x r, notices := l } := by
  have hexec : exec (.snapshotSigned x) s = execSnapshotSigned x s := rfl
  unfold execSnapshotSigned at hexec
  dsimp only at hexec
  rw [hrun] at hexec
  dsimp only at hexec
  rw [hsigned, hcopied, whenDue, if_pos (by rfl)] at hexec
  refine completes_of_next hexec ?_
  generalize hu : State.onSnp (writeStore _ _ s) x _ = u
  have hsnp : u.snp x = { s.snp x with state := 2, snp := some { r with signed := true, record := commitRecord s x r } } :=
    hu ▸ snp_onSnp_self ..
  obtain ⟨hunnoted, hmem⟩ := forAll_sendPartnerChunk x (partnersOf (s.snp x)) commitChunk
    (commitEntry (sigRows (commitM (commitHead s x r)) ++ commitRecord s x r)) (sigRows (commitM (commitHead s x r)) ++ commitRecord s x r) u
  refine ⟨(congrArg SnpCtx.state hunnoted :).trans (congrArg SnpCtx.state hsnp), hmem.trans (hu ▸ rfl), ?_⟩
  exact run_of_unnoted hunnoted (congrArg SnpCtx.snp hsnp)

/-! ### Commit pages -/

theorem copiesOf_of_uncorrelated {n : SnpCtx} (h : n.correlated = false) : copiesOf n = [0, 1] := by
  rw [copiesOf, h, if_neg Bool.false_ne_true]

theorem copiesOf_contains_own (n : SnpCtx) : (copiesOf n).contains 0 = true := by
  unfold copiesOf
  split <;> rfl

theorem copiesOf_contains_partner (n : SnpCtx) : (copiesOf n).contains 1 = true := by
  unfold copiesOf
  split <;> rfl

theorem copiesOf_not_all (n : SnpCtx) : (copiesOf n).all [1].contains = false := by
  unfold copiesOf
  split <;> rfl

/-- With the partner's copy there, the local commit page commits the snapshot (R443 step 4). -/
theorem commitPageWritten_last {x : CtxId} {r : SnpRun} {s : State} (hrun : (s.snp x).snp = some r) (hsigned : r.signed = true)
    (hcorr : (s.snp x).correlated = false) (hcommits : r.commits = [1]) (hmain : s.hub.pwr.mainOk = true) (hheld : (s.snp x).jHeld = none) :
    Completes (.commitPageWritten x 0 true) s fun t => (t.snp x).snp = none ∧ (t.snp x).committed = true ∧
    (t.snp x).seq = r.seq ∧ (t.snp x).slot = r.slot ∧ (t.snp x).state = 0 ∧ t.mem = s.mem ∧
    t.hub.store = writeCells s.hub.store (4096 * slotPage (s.snp x) r.slot.val) (rowBytes r.record) := by
  have hexec : exec (.commitPageWritten x 0 true) s = execCommitPageWritten x 0 true s := rfl
  unfold execCommitPageWritten at hexec
  dsimp only at hexec
  rw [hrun] at hexec
  dsimp only at hexec
  rw [hsigned, copiesOf_of_uncorrelated hcorr, hcommits, hmain, whenDue, if_pos (by rfl), if_neg (by decide), if_pos (by rfl), if_pos (by rfl)]
    at hexec
  refine completes_of_next hexec ?_
  generalize hu : writeStore (4096 * slotPage (s.snp x) r.slot.val) (rowBytes r.record) s = u
  have husnp : u.snp x = s.snp x := hu ▸ rfl
  unfold commitSnapshot jnlRelease
  dsimp only
  rw [snp_onSnp_self, husnp]
  dsimp only
  rw [hheld]
  dsimp only
  rw [snp_onSnp_self]
  exact ⟨rfl, rfl, rfl, rfl, rfl, hu ▸ rfl, hu ▸ rfl⟩

theorem commitPageWritten_partner {x : CtxId} {r : SnpRun} {s : State} (hrun : (s.snp x).snp = some r) (hsigned : r.signed = true)
    (hcommits : r.commits = []) (hpartner : (s.snp x).partnerRes = 1) (hnotices : (r.notices.any fun y => y.1 == 1) = false) :
    Completes (.commitPageWritten x 1 true) s fun t => (t.snp x).snp = some { r with commits := [1] } ∧
    (t.snp x).seq = (s.snp x).seq ∧ t.hub.store = s.hub.store := by
  have hexec : exec (.commitPageWritten x 1 true) s = execCommitPageWritten x 1 true s := rfl
  unfold execCommitPageWritten at hexec
  dsimp only at hexec
  rw [hrun] at hexec
  dsimp only at hexec
  have hres : (partnerOf (s.snp x) (1 : Fin 3).val).2 = 1 := hpartner
  have hwaits : (r.notices.any fun y => y.1 == (1 : Fin 3).val) = false := hnotices
  rw [hsigned, copiesOf_contains_partner, hcommits, hres, hwaits, whenDue, if_pos (by rfl), if_neg (by decide),
    List.nil_append, copiesOf_not_all, if_neg Bool.false_ne_true, if_neg (by decide)] at hexec
  refine completes_of_next hexec ?_
  rw [snp_onSnp_self, hsigned]
  exact ⟨rfl, rfl, rfl⟩

theorem commitPageWritten_fails {x : CtxId} {r : SnpRun} {s : State} (hrun : (s.snp x).snp = some r) (hsigned : r.signed = true)
    (hcommits : r.commits = []) (hbackup : s.hub.pwr.backupOk = true) (hspares : 2 ≤ s.hub.spares) :
    Completes (.commitPageWritten x 0 false) s fun t => t.hub.pageFail = min 0xFFFF (s.hub.pageFail + 1) ∧
    t.hub.spares = s.hub.spares - 1 ∧ (t.snp x).snp = some r := by
  have hexec : exec (.commitPageWritten x 0 false) s = execCommitPageWritten x 0 false s := rfl
  unfold execCommitPageWritten at hexec
  dsimp only at hexec
  rw [hrun] at hexec
  dsimp only at hexec
  have hleft : (s.hub.spares - 1 != 0) = true := bne_iff_ne.mpr (by omega)
  rw [hsigned, copiesOf_contains_own, hcommits, hbackup, Bool.or_true, whenDue, if_pos (by rfl), if_pos (by rfl), if_pos (by rfl), pageFails]
    at hexec
  dsimp only at hexec
  rw [if_pos (by exact hleft)] at hexec
  exact completes_of_next hexec ⟨satAdd_eq_min _ _ _, rfl, hrun⟩

/-! ### Partners and the failure risk -/

theorem partnerCheck_refused {x : CtxId} {v : Word} {s : State} (hen : v.getLsbD 16 = true)
    (hway : wayTo s (bitsOf v.toNat 0 16) 0 = .refused) : Completes (.partnerCheck x false v) s fun t =>
    (t.snp x).partner = bitsOf v.toNat 0 16 ∧ (t.snp x).partnerEn = true ∧ (t.snp x).partnerRes = 3 ∧ t.net = s.net := by
  have hexec : exec (.partnerCheck x false v) s = .next (partnerWrite .headland x false v s) := rfl
  unfold partnerWrite at hexec
  dsimp only at hexec
  rw [hen, hway] at hexec
  refine completes_of_next hexec ?_
  have hsnp := snp_onSnp_self s x fun n => { n with partner := bitsOf v.toNat 0 16, partnerEn := true, partnerRes := 3, correlated := false }
  exact ⟨congrArg SnpCtx.partner hsnp, congrArg SnpCtx.partnerEn hsnp, congrArg SnpCtx.partnerRes hsnp, rfl⟩

theorem partnerCheck_disabled {x : CtxId} {v : Word} {s : State} (hen : v.getLsbD 16 = false) :
    Completes (.partnerCheck x true v) s fun t =>
    (t.snp x).partner2 = bitsOf v.toNat 0 16 ∧ (t.snp x).partner2En = false ∧ (t.snp x).partner2Res = 0 ∧ t.net = s.net := by
  have hexec : exec (.partnerCheck x true v) s = .next (partnerWrite .headland x true v s) := rfl
  unfold partnerWrite at hexec
  dsimp only at hexec
  rw [hen] at hexec
  refine completes_of_next hexec ?_
  have hsnp := snp_onSnp_self s x fun n => { n with partner2 := bitsOf v.toNat 0 16, partner2En := false, partner2Res := 0 }
  exact ⟨congrArg SnpCtx.partner2 hsnp, congrArg SnpCtx.partner2En hsnp, congrArg SnpCtx.partner2Res hsnp, rfl⟩

/-- What the start of a snapshot leaves of the failure risk and memory. -/
theorem startSnapshot_risk (x : CtxId) (s : State) : (startSnapshot x s).hub.riskLevel = s.hub.riskLevel ∧
    (startSnapshot x s).hub.riskIn = s.hub.riskIn ∧ (startSnapshot x s).hub.riskAt = s.hub.riskAt := ⟨rfl, rfl, rfl⟩

theorem riskEvaluation_evaluates {ns : Nat} {s : State} (hdue : s.hub.riskAt + 1000000000 ≤ (s.atNs ns).hub.ns) :
    Completes (.riskEvaluation ns) s fun t =>
    t.hub.riskLevel = riskLevelOf ((List.range 4).filter fun i => riskBeyond s i false) ((List.range 4).filter fun i => riskBeyond s i true) ∧
    t.hub.riskIn = (0, 0, 0) ∧ t.hub.riskAt = (s.atNs ns).hub.ns ∧ t.mem = s.mem := by
  have hexec : exec (.riskEvaluation ns) s = execRiskEvaluation ns s := rfl
  unfold execRiskEvaluation at hexec
  dsimp only at hexec
  rw [whenDue, if_pos (by exact decide_eq_true hdue)] at hexec
  refine completes_of_next hexec ?_
  have hkeep (b : Bool) (u : State) : ∀ t, t = (if b then forAll (List.finRange 8) (fun x s =>
      if (s.snp x).phase != 0 && snpCanStart (s.snp x) then startSnapshot x s else s) u else u) →
      t.hub.riskLevel = u.hub.riskLevel ∧ t.hub.riskIn = u.hub.riskIn ∧ t.hub.riskAt = u.hub.riskAt ∧ t.mem = u.mem := by
    rintro t rfl
    split
    · refine forAll_inv (fun t => t.hub.riskLevel = u.hub.riskLevel ∧ t.hub.riskIn = u.hub.riskIn ∧ t.hub.riskAt = u.hub.riskAt ∧
        t.mem = u.mem) _ _ _ ⟨rfl, rfl, rfl, rfl⟩ fun x _ v hv => ?_
      split
      · exact hv
      · exact hv
    · exact ⟨rfl, rfl, rfl, rfl⟩
  exact hkeep _ _ _ rfl

/-- Settles O40: a snapshot is signed and committed, a page fails, a partner is checked, the risk is evaluated. -/
theorem snapshotsAreCommitted : Obligations.SnapshotsAreCommitted := by
  unfold Obligations.SnapshotsAreCommitted
  rintro x ns v s a rfl
  exact ⟨fun r => snapshotSigned_signs, fun r => commitPageWritten_last, fun r => commitPageWritten_partner, fun r => commitPageWritten_fails,
    partnerCheck_refused, partnerCheck_disabled, riskEvaluation_evaluates⟩

end Sys2Proof.Machine
end

section
/-! SUPPORT. Settles O30: rows that other modules, and the host, read and write here (R84, R88, R104, R107, R119, R122, R375, R487). -/

namespace Sys2Proof.Machine

open Sys2Proof

/- Elaborated one by one, the proofs do not wait for one another's equation lemmas. -/
set_option Elab.async false

/-! ### Writes that reach their place -/

theorem hubRelease_sends (s : State) : Sends s (hubRelease s) := by
  unfold hubRelease
  dsimp only
  split
  · exact Sends.refl s
  · exact forAll_sends (onHl_sends ⟨rfl, rfl, rfl, rfl, rfl⟩ (by exact fun _ => rfl)) _ fun _ _ ht => hubDepart_sends ht _

/-- With no write of the hub on its way, no acknowledgement is taken up. -/
theorem hubRelease_of_none {s : State} (h : s.hub.hl.wout = []) : hubRelease s = s := by
  have hnone (i : Item) : (i.acked.any fun y => s.hub.hl.wout.any fun w => (w.1, w.2.1) == y) = false :=
    List.any_eq_false.mpr fun y _ => by rw [h, List.any_nil]; exact Bool.false_ne_true
  unfold hubRelease
  simp only [hnone, Bool.and_false, List.filter_false, List.flatMap_nil, List.isEmpty_nil, if_true]

theorem takeWrite_plot {x : Item} {c : CoreId} {r : Nat} (s : State) (h : placeOf x.row = .plot c r) : takeWrite x s =
    s.onM c fun m => { m with land := m.land ++ [⟨.plot r, x.data, (s.sc c).wall, .write x.srcPos x.srcCore x.tag x.plane⟩] } := by
  unfold takeWrite
  rw [show populated x.row = true by rw [populated, h], if_pos rfl, h]

theorem takeWrite_commons {x : Item} {d : DieId} {r : Nat} (s : State) (h : placeOf x.row = .commons d r) : takeWrite x s =
    s.onM (coreNo (16 * d.val)) fun m => { m with cmnIn := m.cmnIn ++
      [⟨rowBase x.row, x.data, .write x.srcPos x.srcCore x.tag x.plane, (s.sc (coreNo (16 * d.val))).wall⟩] } := by
  unfold takeWrite
  rw [show populated x.row = true by rw [populated, h], if_pos rfl, h]

theorem ackWrite_mem (srcPos srcCore tag plane a : Nat) (s : State) : (ackWrite srcPos srcCore tag plane a s).mem = s.mem := by
  unfold ackWrite
  split
  · unfold ackLocal
    split <;> rfl
  · exact (putItem_sends (Sends.refl s) _).mem

/-- The address of a row's byte 0 lies where the row does. -/
theorem placeOf_rowBase (a : Nat) : placeOf (rowBase a) = placeOf a := by
  have hlt (n : Nat) (hn : n % 512 = 0) : (rowBase a < n) = (a < n) := by
    unfold rowBase
    exact propext (by omega)
  have hdiv (n m : Nat) (hm : m % 512 = 0) : (rowBase a - 512 * n) / m = (a - 512 * n) / m := by
    obtain ⟨q, rfl⟩ := Nat.dvd_of_mod_eq_zero hm
    rw [← Nat.div_div_eq_div_mul, ← Nat.div_div_eq_div_mul, show (rowBase a - 512 * n) / 512 = (a - 512 * n) / 512 by unfold rowBase; omega]
  have hrow (n m : Nat) (hm : m % 512 = 0) : (rowBase a - 512 * n) % m / 0x200 = (a - 512 * n) % m / 0x200 := by
    obtain ⟨q, rfl⟩ := Nat.dvd_of_mod_eq_zero hm
    rw [Nat.mod_mul_right_div_self, Nat.mod_mul_right_div_self, show (rowBase a - 512 * n) / 0x200 = (a - 512 * n) / 0x200 by unfold rowBase; omega]
  have hplot := hdiv 0 0x1000000 rfl
  have hplotRow := hrow 0 0x1000000 rfl
  have hcmn := hdiv 0x800000 0x80000000 rfl
  have hcmnRow := hrow 0x800000 0x80000000 rfl
  have hdeep := hdiv 0x8000000 0x300000000 rfl
  have hdeepRow := hrow 0x8000000 0x300000000 rfl
  simp only [Nat.mul_zero, Nat.sub_zero, Nat.reduceMul] at hplot hplotRow hcmn hcmnRow hdeep hdeepRow
  unfold placeOf
  rw [hplot, hplotRow, hcmn, hcmnRow, hdeep, hdeepRow]
  simp only [hlt _ (show 0x80000000 % 512 = 0 from rfl), hlt _ (show 0x100000000 % 512 = 0 from rfl),
    hlt _ (show 0x500000000 % 512 = 0 from rfl), hlt _ (show 0x1000000000 % 512 = 0 from rfl), hlt _ (show 0x2800000000 % 512 = 0 from rfl),
    hlt _ (show 0xF000000000 % 512 = 0 from rfl), hlt _ (show 0xF100000000 % 512 = 0 from rfl),
    hlt _ (show 0x10000000000 % 512 = 0 from rfl), hlt _ (show 0x1000000000000 % 512 = 0 from rfl)]

/-- A row of deep memory is no program image and lies in no region that is being loaded. -/
theorem lockedRow_deep (s : State) {a r : Nat} {d : DieId} (h : placeOf a = .deep d r) : lockedRow s (rowBase a) = false := by
  unfold lockedRow
  rw [placeOf_rowBase, h]

theorem takeWrite_deep_mem {x : Item} {d : DieId} {r : Nat} (s : State) (h : placeOf x.row = .deep d r) :
    (takeWrite x s).mem = (writeRow s (rowBase x.row) x.data).mem := by
  unfold takeWrite
  rw [show populated x.row = true by rw [populated, h], if_pos rfl, h]
  dsimp only
  rw [rowPlaced, ackWrite_mem, inboundWrite, lockedRow_deep s h, if_neg Bool.false_ne_true]

/-! ### Write requests of other modules -/

theorem remoteWriteArrival_takes {i : Nat} {x : Item} {s : State} {p : State → Prop} (hitem : itemHere s .write i = some x)
    (hroom : writeRoom s x = true) (hdeep : deepFirst s i x = true) (hfirst : hostFirst s i x = true)
    (hp : p (hubRelease (takeWrite x (dropItem i s)))) : Completes (.remoteWriteArrival i) s p := by
  have hexec : exec (.remoteWriteArrival i) s = execRemoteWriteArrival i s := rfl
  unfold execRemoteWriteArrival at hexec
  rw [hitem] at hexec
  dsimp only at hexec
  rw [hroom, hdeep, hfirst, whenDue, if_pos (by rfl)] at hexec
  exact completes_of_next hexec hp

theorem remoteWriteArrival_plot {i r : Nat} {c : CoreId} {x : Item} {s : State} (hitem : itemHere s .write i = some x)
    (hfirst : hostFirst s i x = true) (hplace : placeOf x.row = .plot c r) (hroom : (s.cm c).land.length < 64) :
    Completes (.remoteWriteArrival i) s fun t =>
    (t.cm c).land = (s.cm c).land ++ [⟨.plot r, x.data, (s.sc c).wall, .write x.srcPos x.srcCore x.tag x.plane⟩] ∧
    (s.hub.hl.wout = [] → t.net = s.net.eraseIdx i) ∧ t.mem = s.mem := by
  refine remoteWriteArrival_takes hitem ?_ ?_ hfirst ?_
  · rw [writeRoom, hplace]
    exact decide_eq_true hroom
  · rw [deepFirst, hplace]
  · rw [takeWrite_plot _ hplace]
    generalize hu : State.onM (dropItem i s) c _ = u
    refine ⟨?_, fun hnone => ?_, ((hubRelease_sends u).mem).trans (hu ▸ rfl)⟩
    · rw [State.cm, (hubRelease_sends u).core, ← State.cm, ← hu, State.onM_cm_self]
      rfl
    · rw [hubRelease_of_none (hu ▸ hnone), ← hu]
      rfl

theorem remoteWriteArrival_commons {i r : Nat} {d : DieId} {x : Item} {s : State} (hitem : itemHere s .write i = some x)
    (hfirst : hostFirst s i x = true) (hplace : placeOf x.row = .commons d r) : Completes (.remoteWriteArrival i) s fun t =>
    (t.cm (coreNo (16 * d.val))).cmnIn = (s.cm (coreNo (16 * d.val))).cmnIn ++
      [⟨rowBase x.row, x.data, .write x.srcPos x.srcCore x.tag x.plane, (s.sc (coreNo (16 * d.val))).wall⟩] ∧
    (s.hub.hl.wout = [] → t.net = s.net.eraseIdx i) ∧ t.mem = s.mem := by
  refine remoteWriteArrival_takes hitem ?_ ?_ hfirst ?_
  · rw [writeRoom, hplace]
  · rw [deepFirst, hplace]
  · rw [takeWrite_commons _ hplace]
    generalize hu : State.onM (dropItem i s) _ _ = u
    refine ⟨?_, fun hnone => ?_, ((hubRelease_sends u).mem).trans (hu ▸ rfl)⟩
    · rw [State.cm, (hubRelease_sends u).core, ← State.cm, ← hu, State.onM_cm_self]
      rfl
    · rw [hubRelease_of_none (hu ▸ hnone), ← hu]
      rfl

theorem remoteWriteArrival_deep {i r : Nat} {d : DieId} {x : Item} {s : State} (hitem : itemHere s .write i = some x)
    (hfirst : hostFirst s i x = true) (hdeep : deepFirst s i x = true) (hplace : placeOf x.row = .deep d r) :
    Completes (.remoteWriteArrival i) s fun t => readRow t x.row = x.data ∧ ∀ y, rowBase y ≠ rowBase x.row → readRow t y = readRow s y := by
  refine remoteWriteArrival_takes hitem ?_ hdeep hfirst ?_
  · rw [writeRoom, hplace]
  · have hmem := (hubRelease_sends _).mem.trans (takeWrite_deep_mem (dropItem i s) hplace)
    have hpop : populated (rowBase x.row) = true := by rw [populated_rowBase, populated, hplace]
    refine ⟨?_, fun y hy => ?_⟩
    · rw [readRow_congr hmem, readRow_writeRow, rowBase_rowBase, if_pos ⟨hpop, rfl⟩]
    · rw [readRow_congr hmem, readRow_writeRow_ne _ _ (by rwa [rowBase_rowBase])]
      rfl

/-! ### Read requests of other modules -/

/-- The item that returns row `k` of a read request (R107). -/
def returnItem (x : Item) (k : Nat) (d : Row) : Item :=
  ⟨.readRet, x.plane, x.srcPos, x.srcCore, x.srcPos, x.srcCore, x.tag, x.row + 512 * k, k, x.count, x.aux, k + 1 == x.count, d⟩

/-- The source can read the row: it gives its data, and no error hides it (R119, R122). -/
def Readable (s : State) (a : Nat) : Prop :=
  readEcc s a .clean = .clean ∧ ∀ d r, placeOf a = .commons d r → gatedFor s d r false = false

theorem serveRead_unpopulated {x : Item} {k : Nat} (err : ReadErr) (n : Nat) (s : State) (hpop : populated (x.row + 512 * k) = false) :
    serveRead x err (n + 1) k s = serveRead x err n (k + 1) (putItem (returnItem x k 0) s) := by
  rw [serveRead]
  simp only [hpop, Bool.not_false, if_true]
  rfl

theorem serveRead_populated {x : Item} {k : Nat} (err : ReadErr) (n : Nat) {s : State} (hpop : populated (x.row + 512 * k) = true)
    (hgate : ∀ d r, placeOf (x.row + 512 * k) = .commons d r → gatedFor s d r false = false) : serveRead x err (n + 1) k s =
      if eccBad (readEcc s (x.row + 512 * k) (errAt err k)) then
        notice x 0 (x.row + 512 * k) (eccCw (readEcc s (x.row + 512 * k) (errAt err k)) + 1)
          (readNoted s (x.row + 512 * k) (readEcc s (x.row + 512 * k) (errAt err k))).2
      else serveRead x err n (k + 1) (putItem (returnItem x k (readNoted s (x.row + 512 * k) (readEcc s (x.row + 512 * k) (errAt err k))).1)
        (readNoted s (x.row + 512 * k) (readEcc s (x.row + 512 * k) (errAt err k))).2) := by
  rw [serveRead]
  simp only [hpop, Bool.not_true, Bool.false_eq_true, if_false]
  refine if_neg (Bool.eq_false_iff.mp ?_)
  split
  · exact hgate _ _ ‹_›
  all_goals rfl

/-- The items that return `n` rows of a read request from row `k` on. -/
def returnItems (x : Item) (s : State) (k n : Nat) : List Item :=
  (List.range' k n).map fun j => returnItem x j (if populated (x.row + 512 * j) then readRow s (x.row + 512 * j) else 0)

/-- Rows that can be read return in order, and zeros for one that is not populated (R107). -/
theorem serveRead_readable {x : Item} {s : State} (hown : x.srcPos = s.hub.position) (n : Nat) : ∀ (k : Nat) (l : List Item),
    (∀ j, k ≤ j → j < k + n → populated (x.row + 512 * j) = true → Readable s (x.row + 512 * j)) →
    serveRead x [] n k { s with net := l } = { s with net := l ++ returnItems x s k n } := by
  induction n with
  | zero => intro k l _; rw [serveRead, returnItems, List.range'_zero, List.map_nil, List.append_nil]
  | succ n ih =>
    intro k l h
    have hput (d : Row) : putItem (returnItem x k d) { s with net := l } = { s with net := l ++ [returnItem x k d] } := putItem_own hown
    have hrest := fun d => ih (k + 1) (l ++ [returnItem x k d]) fun j hj hj' => h j (by omega) (by omega)
    rw [returnItems, List.range'_succ, List.map_cons, List.append_cons, ← returnItems, ← hrest]
    by_cases hpop : populated (x.row + 512 * k) = true
    · obtain ⟨hclean, hgate⟩ := h k (Nat.le_refl k) (by omega) hpop
      have hread : readEcc { s with net := l } (x.row + 512 * k) (errAt [] k) = .clean := hclean
      rw [serveRead_populated (s := { s with net := l }) _ _ hpop (by exact hgate), hread, if_neg (by decide), if_pos hpop, ← hput]
      rfl
    · rw [serveRead_unpopulated _ _ _ (Bool.eq_false_iff.mpr hpop), if_neg hpop, hput]

theorem remoteReadRequest_due {i : Nat} {x : Item} {err : ReadErr} {s : State} {p : State → Prop} (hitem : itemHere s .readReq i = some x)
    (hdeep : deepFirst s i x = true) (hp : p (serveRead x err x.count 0 (dropItem i s))) : Completes (.remoteReadRequest i err) s p := by
  have hexec : exec (.remoteReadRequest i err) s = execRemoteReadRequest i err s := rfl
  unfold execRemoteReadRequest at hexec
  rw [hitem] at hexec
  dsimp only at hexec
  rw [hdeep, whenDue, if_pos rfl] at hexec
  exact completes_of_next hexec hp

theorem remoteReadRequest_returns {i : Nat} {x : Item} {s : State} (hitem : itemHere s .readReq i = some x) (hdeep : deepFirst s i x = true)
    (hown : x.srcPos = s.hub.position) (hread : ∀ k, k < x.count → populated (x.row + 512 * k) = true → Readable s (x.row + 512 * k)) :
    Completes (.remoteReadRequest i []) s fun t => t.net.map (·.data) = (s.net.eraseIdx i).map (·.data) ++
      (List.range x.count).map (fun k => if populated (x.row + 512 * k) then readRow s (x.row + 512 * k) else 0) ∧ t.mem = s.mem := by
  refine remoteReadRequest_due hitem hdeep ?_
  rw [dropItem, serveRead_readable hown x.count 0 _ fun j _ hj => hread j (by omega)]
  refine ⟨?_, rfl⟩
  rw [List.map_append, returnItems, List.map_map, List.range_eq_range']
  rfl

theorem remoteReadRequest_loses {i w : Nat} {x : Item} {s : State} (hitem : itemHere s .readReq i = some x) (hdeep : deepFirst s i x = true)
    (hown : x.srcPos = s.hub.position) (hcount : x.count = 1) (hpop : populated x.row = true)
    (hgate : ∀ d r, placeOf x.row = .commons d r → gatedFor s d r false = false) :
    Completes (.remoteReadRequest i [(0, .bad w)]) s fun t =>
    (∃ y, y.kind = .loss ∧ y.destCore = x.srcCore ∧ y.tag = x.tag ∧ y.row = x.row ∧ t.net = s.net.eraseIdx i ++ [y]) ∧ t.mem = s.mem := by
  refine remoteReadRequest_due hitem hdeep ?_
  have hbad : eccBad (readEcc (dropItem i s) x.row (errAt [(0, .bad w)] 0)) = true := by
    unfold readEcc
    split
    · split <;> rfl
    all_goals rfl
  rw [hcount, serveRead_populated (k := 0) (s := dropItem i s) _ _ hpop (by exact hgate), if_pos (by exact hbad), notice,
    putItem_own (by rw [readNoted, noteEcc_hub_position]; exact hown)]
  refine ⟨⟨_, ?_, ?_, ?_, ?_, congrArg (· ++ _) (noteEcc_net ..)⟩, noteEcc_mem ..⟩
  all_goals rfl

/-- Settles O30: a read request by the rows it can read, a write by the place it reaches. -/
theorem remoteRowsAreServed : Obligations.RemoteRowsAreServed := by
  unfold Obligations.RemoteRowsAreServed
  exact fun i x s => ⟨remoteReadRequest_returns, fun w => remoteReadRequest_loses, fun c r => remoteWriteArrival_plot,
    fun d r => remoteWriteArrival_commons, fun d r => remoteWriteArrival_deep⟩

end Sys2Proof.Machine
end

section
/-! SUPPORT. Settles O47: the host link (R88, R104, R303, R335, R338 to R340, R349, R364, R486, R487, R489, R490). -/

namespace Sys2Proof.Machine

open Sys2Proof

/- Elaborated one by one, the proofs do not wait for one another's equation lemmas. -/
set_option Elab.async false

theorem writeRow_mem_congr {s t : State} (h : t.mem = s.mem) (a : Nat) (r : Row) : (writeRow t a r).mem = (writeRow s a r).mem := by
  unfold writeRow
  split
  · rw [dropScrub_mem, dropScrub_mem, h]
  · exact h

/-! ### Records raise attention (R510) -/

theorem keepRecord_attn (bits : BitVec 512) (s : State) : (keepRecord bits s).hub.hl.attn.getLsbD 0 = true :=
  attention_attn_self _ (by decide)

theorem headlandFault_attn (f : Flt) (s : State) : (headlandFault f s).hub.hl.attn.getLsbD 0 = true := by
  unfold headlandFault headlandCopy
  dsimp only
  split
  · exact hostFault_attn_mono (keepRecord_attn _ s) _
  · exact keepRecord_attn _ s

/-! ### Row writes of the host -/

theorem hostRowWrite_due {addr : Nat} {row : Row} {s : State} {p : State → Prop} (hup : malobUp s = true) (hpop : populated addr = true)
    (hopen : lockedRow s addr = false) (hrails : s.hub.pwr.railsUp = true) (hp : p (hostWrite (rowBase addr) row s)) :
    Completes (.hostRowWrite addr row) s p := by
  have hexec : exec (.hostRowWrite addr row) s = execHostRowWrite addr row s := rfl
  unfold execHostRowWrite at hexec
  rw [hup, whenDue, if_pos rfl, hpop, hopen, hrails, Bool.not_true, if_neg Bool.false_ne_true, if_neg Bool.false_ne_true,
    if_neg Bool.false_ne_true] at hexec
  exact completes_of_next hexec hp

/-- A row write of the host that goes to its place at once. -/
theorem hostWrite_takes {a : Nat} {row : Row} {s : State} (hroom : writeRoom s (hostItem s a row) = true)
    (hfirst : hostFirst s s.net.length (hostItem s a row) = true) (hdeep : deepFirst s s.net.length (hostItem s a row) = true) :
    hostWrite a row s = hubRelease (takeWrite (hostItem s a row) (s.onHl fun l => { l with wout := l.wout ++ [(s.hub.position, a, 0)] })) := by
  unfold hostWrite
  exact if_pos (by
    rw [Bool.and_eq_true, Bool.and_eq_true]
    exact ⟨⟨hroom, hfirst⟩, hdeep⟩)

theorem hostWrite_waits {a : Nat} {row : Row} {s : State} (hfirst : hostFirst s s.net.length (hostItem s a row) = false) :
    hostWrite a row s = { s.onHl fun l => { l with wout := l.wout ++ [(s.hub.position, a, 0)] } with net := s.net ++ [hostItem s a row] } := by
  unfold hostWrite
  refine if_neg (Bool.eq_false_iff.mp ?_)
  exact Bool.and_eq_false_imp.mpr fun h => absurd (Bool.and_eq_true_iff.mp h).2 (Bool.eq_false_iff.mp hfirst)

theorem hostWrite_plot {a r : Nat} {c : CoreId} {row : Row} {s : State} (hplace : placeOf a = .plot c r) (hroom : (s.cm c).land.length < 64)
    (hfirst : hostFirst s s.net.length (hostItem s a row) = true) (hdeep : deepFirst s s.net.length (hostItem s a row) = true) :
    ((hostWrite a row s).cm c).land =
      (s.cm c).land ++ [⟨.plot r, row, (s.sc c).wall, .write s.hub.position 0xFF 0 (rowPlane 0xFF a)⟩] ∧ (hostWrite a row s).mem = s.mem := by
  have hfits : writeRoom s (hostItem s a row) = true := by
    rw [writeRoom, show placeOf (hostItem s a row).row = .plot c r from hplace]
    exact decide_eq_true hroom
  rw [hostWrite_takes hfits hfirst hdeep, takeWrite_plot _ hplace, State.cm, (hubRelease_sends _).core, ← State.cm, State.onM_cm_self]
  exact ⟨rfl, (hubRelease_sends _).mem⟩

theorem hostWrite_commons {a r : Nat} {d : DieId} {row : Row} {s : State} (hplace : placeOf a = .commons d r)
    (hfirst : hostFirst s s.net.length (hostItem s a row) = true) (hdeep : deepFirst s s.net.length (hostItem s a row) = true) :
    ((hostWrite a row s).cm (coreNo (16 * d.val))).cmnIn = (s.cm (coreNo (16 * d.val))).cmnIn ++
      [⟨rowBase a, row, .write s.hub.position 0xFF 0 (rowPlane 0xFF a), (s.sc (coreNo (16 * d.val))).wall⟩] ∧
      (hostWrite a row s).mem = s.mem := by
  have hfits : writeRoom s (hostItem s a row) = true := by
    rw [writeRoom, show placeOf (hostItem s a row).row = .commons d r from hplace]
  rw [hostWrite_takes hfits hfirst hdeep, takeWrite_commons _ hplace, State.cm, (hubRelease_sends _).core, ← State.cm, State.onM_cm_self]
  exact ⟨rfl, (hubRelease_sends _).mem⟩

theorem hostWrite_deep_mem {a r : Nat} {d : DieId} {row : Row} {s : State} (hplace : placeOf a = .deep d r)
    (hfirst : hostFirst s s.net.length (hostItem s a row) = true) (hdeep : deepFirst s s.net.length (hostItem s a row) = true) :
    (hostWrite a row s).mem = (writeRow s (rowBase a) row).mem := by
  have hfits : writeRoom s (hostItem s a row) = true := by
    rw [writeRoom, show placeOf (hostItem s a row).row = .deep d r from hplace]
  rw [hostWrite_takes hfits hfirst hdeep, (hubRelease_sends _).mem, takeWrite_deep_mem _ hplace]
  exact writeRow_mem_congr (by exact rfl) _ _

/-- A row write of the host to a row that is not there, or not its to write, is discarded with a record (R107, R303). -/
theorem hostRowWrite_discarded {addr : Nat} {row : Row} {s : State} (hup : malobUp s = true)
    (hbad : populated addr = false ∨ lockedRow s addr = true) : Completes (.hostRowWrite addr row) s fun t =>
    t.mem = s.mem ∧ t.cores = s.cores ∧ t.net = s.net ∧ t.hub.hl.attn.getLsbD 0 = true := by
  have hfault (f : Flt) : (headlandFault f s).mem = s.mem ∧ (headlandFault f s).cores = s.cores ∧ (headlandFault f s).net = s.net ∧
      (headlandFault f s).hub.hl.attn.getLsbD 0 = true := by
    obtain ⟨-, hmem, hcores, -, -⟩ := headlandFault_sends (Sends.refl s) f
    exact ⟨hmem, hcores, headlandFault_net f s, headlandFault_attn f s⟩
  have hexec : exec (.hostRowWrite addr row) s = execHostRowWrite addr row s := rfl
  unfold execHostRowWrite at hexec
  rw [hup, whenDue, if_pos rfl] at hexec
  by_cases hpop : populated addr = true
  · have hlocked : lockedRow s addr = true := hbad.resolve_left (by rw [hpop]; exact Bool.true_eq_false.mp)
    rw [hpop, hlocked, Bool.not_true, if_neg Bool.false_ne_true, if_pos rfl] at hexec
    exact completes_of_next hexec (hfault _)
  · rw [Bool.eq_false_iff.mpr hpop, Bool.not_false, if_pos rfl] at hexec
    exact completes_of_next hexec (hfault _)

/-! ### Row reads of the host -/

/-- A state that reads as another one does, whatever its hub has sent and recorded. -/
def ReadsAs (s t : State) : Prop :=
  t.mem = s.mem ∧ t.cores = s.cores ∧ t.dies = s.dies ∧ t.net = s.net ∧ t.hub.position = s.hub.position

theorem readEcc_of_readsAs {s t : State} (h : ReadsAs s t) (a : Nat) (e : Ecc) : readEcc t a e = readEcc s a e := by
  obtain ⟨-, -, hd, -, -⟩ := h
  have hdie : t.die = s.die := funext fun d => by rw [State.die, State.die, hd]
  unfold readEcc
  rw [hdie]

theorem gatedFor_of_readsAs {s t : State} (h : ReadsAs s t) (d : DieId) (r : Nat) (w : Bool) : gatedFor t d r w = gatedFor s d r w := by
  obtain ⟨-, -, hd, -, -⟩ := h
  have hdie : t.die = s.die := funext fun d => by rw [State.die, State.die, hd]
  unfold gatedFor
  rw [hdie]

theorem hostPending_of_readsAs {s t : State} (h : ReadsAs s t) (a : Nat) : hostPending t a = hostPending s a := by
  obtain ⟨-, hc, -, hn, hp⟩ := h
  have hcm : t.cm = s.cm := funext fun c => by rw [State.cm, State.cm, State.core, State.core, hc]
  unfold hostPending
  rw [hcm, hn, hp]

/-- The host reads the row as memory holds it: no error, no gated group and no earlier write of the host stands before it. -/
def HostReadable (s : State) (a : Nat) : Prop := readEcc s a .clean = .clean ∧ hostPending s a = none ∧
  ∀ d r, placeOf a = .commons d r → gatedFor s d r false = false

theorem hostRead_unpopulated (tag : Nat) (err : ReadErr) (n k : Nat) {a : Nat} (s : State) (hpop : populated a = false) :
    hostRead tag err (n + 1) k a s = hostRead tag err n (k + 1) (a + 512) ((headlandFault (addressFault 5 tag 0 0 0 0 (rowField s a)) s).onHl
      fun l => { l with returns := l.returns ++ [(tag % 2 ^ 24, k, 0)] }) := by
  rw [hostRead]
  simp only [hpop, Bool.not_false, if_true]

/-- A row of a host read comes back, and the rest of the read goes on in a state that reads as before. -/
theorem hostRead_step (tag n k : Nat) {a : Nat} {s t : State} (h : ReadsAs s t) (hread : populated a = true → HostReadable s a) :
    ∃ u, ReadsAs s u ∧ u.hub.hl.returns = t.hub.hl.returns ++ [(tag % 2 ^ 24, k, readRow s a)] ∧
      hostRead tag [] (n + 1) k a t = hostRead tag [] n (k + 1) (a + 512) u := by
  by_cases hpop : populated a = true
  · obtain ⟨hclean, hnone, hgate⟩ := hread hpop
    have hecc : readEcc t a (errAt [] k) = .clean := (readEcc_of_readsAs h a _).trans hclean
    have hone := hostRead_succ_of_readable tag [] n k hpop (fun d r hp => (gatedFor_of_readsAs h d r _).trans (hgate d r hp))
      ((hostPending_of_readsAs h a).trans hnone) (by rw [hecc]; rfl)
    rw [hecc] at hone
    refine ⟨_, ?_, ?_, hone⟩
    · exact h
    · rw [← readRow_congr h.1 a]
      rfl
  · have hpop' := Bool.eq_false_iff.mpr hpop
    refine ⟨_, ?_, ?_, hostRead_unpopulated tag [] n k t hpop'⟩
    · obtain ⟨hm, hc, hd, hn, hp⟩ := h
      have hfault := headlandFault_sends (Sends.refl t) (addressFault 5 tag 0 0 0 0 (rowField t a))
      have hpos := hfault.hub (·.position)
      obtain ⟨-, hm', hc', hd', -⟩ := hfault
      exact ⟨hm'.trans hm, hc'.trans hc, hd'.trans hd, (headlandFault_net _ t).trans hn, hpos.trans hp⟩
    · rw [show readRow s a = 0 from if_neg hpop, State.onHl_hub]
      exact congrArg (· ++ _) ((headlandFault_sends (Sends.refl t) _).hub (·.hl.returns))

theorem readRows_succ (s : State) (a n : Nat) : readRows s a (n + 1) = readRow s a :: readRows s (a + 512) n := by
  unfold readRows
  rw [List.range_succ_eq_map, List.map_cons, List.map_map]
  refine congrArg (_ :: ·) (List.map_congr_left fun i _ => ?_)
  rw [Function.comp_apply, Nat.mul_succ, Nat.add_comm (512 * i), Nat.add_assoc]

theorem hostRead_returns (tag : Nat) (s : State) (n : Nat) : ∀ (k a : Nat) (t : State), ReadsAs s t →
    (∀ i, i < n → populated (a + 512 * i) = true → HostReadable s (a + 512 * i)) →
    ReadsAs s (hostRead tag [] n k a t) ∧ (hostRead tag [] n k a t).hub.hl.returns =
      t.hub.hl.returns ++ ((readRows s a n).zipIdx k).map fun x => (tag % 2 ^ 24, x.2, x.1) := by
  induction n with
  | zero => intro k a t h _; exact ⟨h, (List.append_nil _).symm⟩
  | succ n ih =>
    intro k a t h hread
    obtain ⟨u, hu, hreturn, hstep⟩ := hostRead_step tag n k (a := a) h (hread 0 (Nat.succ_pos n))
    obtain ⟨hrest, hreturns⟩ := ih (k + 1) (a + 512) u hu fun i hi => by
      have := hread (i + 1) (by omega)
      rwa [show a + 512 * (i + 1) = a + 512 + 512 * i by omega] at this
    rw [hstep, hreturns, hreturn, readRows_succ, List.zipIdx_cons, List.map_cons, List.append_assoc]
    exact ⟨hrest, rfl⟩

theorem hostRowRead_returns {addr n tag : Nat} {s : State} (hup : malobUp s = true) (hmin : 1 ≤ n) (hmax : n ≤ 256)
    (hread : ∀ i, i < n → populated (rowBase addr + 512 * i) = true → HostReadable s (rowBase addr + 512 * i)) :
    Completes (.hostRowRead addr n tag []) s fun t =>
    t.hub.hl.returns = s.hub.hl.returns ++ (readRows s (rowBase addr) n).zipIdx.map (fun x => (tag % 2 ^ 24, x.2, x.1)) ∧
    t.mem = s.mem ∧ t.cores = s.cores := by
  have hexec := exec_hostRowRead addr n tag [] s
  rw [execHostRowRead, hup, decide_eq_true hmin, decide_eq_true hmax, whenDue, if_pos (by rfl)] at hexec
  obtain ⟨⟨hmem, hcores, -, -, -⟩, hreturns⟩ := hostRead_returns tag s n 0 (rowBase addr) s ⟨rfl, rfl, rfl, rfl, rfl⟩ hread
  exact completes_of_next hexec ⟨hreturns, hmem, hcores⟩

/-! ### Messages of the host -/

theorem mhDestCore_hostStamp (s : State) (hdr : Row) : mhDestCore (hostStamp s hdr) = mhDestCore hdr :=
  stampHdr_field _ _ _ _ _ (by omega) (by omega)

theorem mhSendCore_hostStamp (s : State) (hdr : Row) : mhSendCore (hostStamp s hdr) = 0xFF := by
  rw [hostStamp, mhSendCore_stampHdr, Nat.mod_eq_of_lt (by decide)]

theorem hostMessage_due {hdr : Row} {pl : List Row} {s : State} {p : State → Prop} (hup : malobUp s = true)
    (hroom : hostOutstanding s < 64)
    (hlen : mhMalformed (hostStamp s hdr) 0xFF true = false → pl.length + 1 = mhLen (hostStamp s hdr))
    (hp : p (if mhMalformed (hostStamp s hdr) 0xFF true then hubBounce (hostStamp s hdr) 8 (s.onHl fun l => { l with seq := (l.seq + 1) % 2 ^ 16 })
      else hostDepart (hostStamp s hdr :: pl) (s.onHl fun l => { l with seq := (l.seq + 1) % 2 ^ 16 }))) :
    Completes (.hostMessage hdr pl) s p := by
  have hexec : exec (.hostMessage hdr pl) s = execHostMessage hdr pl s := rfl
  unfold execHostMessage at hexec
  dsimp only at hexec
  have hwhole : (mhMalformed (hostStamp s hdr) 0xFF true || pl.length + 1 == mhLen (hostStamp s hdr)) = true := by
    cases hbad : mhMalformed (hostStamp s hdr) 0xFF true with
    | true => exact Bool.true_or _
    | false => rw [Bool.false_or]; exact beq_iff_eq.mpr (hlen hbad)
  rw [hup, decide_eq_true hroom, hwhole, whenDue, if_pos (by rfl)] at hexec
  exact completes_of_next hexec hp

theorem hostMessage_departs {hdr : Row} {pl : List Row} {s : State} (hup : malobUp s = true) (hroom : hostOutstanding s < 64)
    (hgood : mhMalformed (hostStamp s hdr) 0xFF true = false) (hlen : pl.length + 1 = mhLen (hostStamp s hdr))
    (hfree : mhOrdered (hostStamp s hdr) = false) (hcore : mhDestCore hdr < 128) : Completes (.hostMessage hdr pl) s fun t =>
    t.hub.hl.seq = (s.hub.hl.seq + 1) % 2 ^ 16 ∧
    t.hub.hl.hostMsgs = s.hub.hl.hostMsgs ++ [hostStamp s hdr :: pl] ∧ t.mem = s.mem ∧ t.cores = s.cores := by
  refine hostMessage_due hup hroom (fun _ => hlen) ?_
  generalize hh : hostStamp s hdr = h at *
  have hdest : mhDestCore h < 128 := by rw [← hh, mhDestCore_hostStamp]; exact hcore
  rw [hgood, if_neg Bool.false_ne_true, hostDepart, List.head?_cons, Option.any_some, hfree, if_neg Bool.false_ne_true]
  rw [if_pos (by rfl), hubDepart]
  rw [beq_eq_false_iff_ne.mpr (show mhDestCore h ≠ 0xFF by omega), beq_eq_false_iff_ne.mpr (show mhDestCore h ≠ 0xFE by omega), Bool.and_false,
    if_neg Bool.false_ne_true, if_neg Bool.false_ne_true]
  generalize hu : State.onHl (s.onHl _) _ = u
  have hhub : ∀ l : List Item, (forAll l putItem u).hub = u.hub := fun l => forAll_keep State.hub _ _ _ fun i _ t => putItem_hub i t
  have hsent := fun l => forAll_sends (Sends.refl u) l fun i t ht => putItem_sends ht i
  obtain ⟨-, hmem, hcores, -, -⟩ := hsent (msgItems u (h :: pl))
  rw [hhub, hmem, hcores, ← hu]
  exact ⟨rfl, rfl, rfl, rfl⟩

theorem hostMessage_waits {hdr : Row} {pl : List Row} {s : State} (hup : malobUp s = true) (hroom : hostOutstanding s < 64)
    (hgood : mhMalformed (hostStamp s hdr) 0xFF true = false) (hlen : pl.length + 1 = mhLen (hostStamp s hdr))
    (hordered : mhOrdered (hostStamp s hdr) = true) (hwrites : (s.hub.hl.wout.any fun y => y.1 == s.hub.position) = true) :
    Completes (.hostMessage hdr pl) s fun t => t.hub.hl.seq = (s.hub.hl.seq + 1) % 2 ^ 16 ∧ t.hub.hl.hostMsgs = s.hub.hl.hostMsgs ∧
    t.hub.hl.held.map (·.1) = s.hub.hl.held.map (·.1) ++ [hostStamp s hdr :: pl] ∧ t.net = s.net ∧ t.ports = s.ports ∧ t.mem = s.mem := by
  refine hostMessage_due hup hroom (fun _ => hlen) ?_
  generalize hostStamp s hdr = h at *
  obtain ⟨y, hy, hpos⟩ := List.any_eq_true.mp hwrites
  have hset : ((s.hub.hl.wout.filter fun y => y.1 == s.hub.position).map fun y => (y.1, y.2.1)).isEmpty = false := by
    rw [List.isEmpty_eq_false_iff_exists_mem]
    exact ⟨_, List.mem_map_of_mem (List.mem_filter.mpr ⟨hy, hpos⟩)⟩
  rw [hgood, if_neg Bool.false_ne_true, hostDepart, List.head?_cons, Option.any_some, hordered, if_pos rfl]
  rw [if_neg (by exact Bool.eq_false_iff.mp hset)]
  exact ⟨rfl, rfl, List.map_append, rfl, rfl, rfl⟩

theorem hubBounce_host {h : Row} {s : State} (reason : Nat) (hsender : mhSendCore h = 0xFF) :
    (hubBounce h reason s).hub.hl.seq = s.hub.hl.seq ∧ (hubBounce h reason s).net = s.net ∧ (hubBounce h reason s).ports = s.ports ∧
      (hubBounce h reason s).hub.hl.attn.getLsbD 0 = true := by
  have hform : ∃ bits, hubBounce h reason s = hostFault bits (keepRecord bits (hubDone (mhSendCore h) (mhSeq h) s)) := by
    unfold hubBounce
    dsimp only
    rw [hsender, show (0xFF == 0xFE) = false from rfl, Bool.false_and, if_neg Bool.false_ne_true, if_pos (by rfl)]
    exact ⟨_, rfl⟩
  refine ⟨(hubBounce_sends (Sends.refl s) h reason).hub (·.hl.seq), ?_, ?_, ?_⟩
  · obtain ⟨bits, hbits⟩ := hform
    rw [hbits, hostFault_net, keepRecord_net]
    rfl
  · exact (hubBounce_within (P := ⟨false, false, false, false⟩) (within_refl _ s) h reason).2.2.2 rfl
  · obtain ⟨bits, hbits⟩ := hform
    rw [hbits]
    exact hostFault_attn_mono (keepRecord_attn _ _) _

theorem hostMessage_malformed {hdr : Row} {pl : List Row} {s : State} (hup : malobUp s = true) (hroom : hostOutstanding s < 64)
    (hbad : mhMalformed (hostStamp s hdr) 0xFF true = true) : Completes (.hostMessage hdr pl) s fun t =>
    t.hub.hl.seq = (s.hub.hl.seq + 1) % 2 ^ 16 ∧ t.net = s.net ∧ t.ports = s.ports ∧ t.hub.hl.attn.getLsbD 0 = true := by
  refine hostMessage_due hup hroom (fun hgood => absurd (hbad.symm.trans hgood) Bool.true_eq_false.mp) ?_
  rw [hbad, if_pos rfl]
  exact hubBounce_host 8 (mhSendCore_hostStamp s hdr)

theorem hostInboxPlace_places {h : Row} {rows : List Row} {rest : List (List Row)} {f : Nat} {s : State} (hup : malobUp s = true)
    (hq : s.hub.hl.inQ = (h :: rows) :: rest)
    (hfit : fitAt s.hub.hl.inRows s.hub.hl.inWptr s.hub.hl.inRptr (1 + rows.length) = some (false, f)) (hsender : mhSendCore h < 128) :
    Completes .hostInboxPlace s fun t => t.hub.hl.inQ = rest ∧
    t.hub.hl.inWptr = (f + 1 + rows.length) % s.hub.hl.inRows ∧ t.hub.hl.inRptr = s.hub.hl.inRptr ∧
    (t.hub.hl.toHost.map (·.2)) = s.hub.hl.toHost.map (·.2) ++ landedRows s h rows := by
  have hexec : exec .hostInboxPlace s = execHostInboxPlace s := rfl
  unfold execHostInboxPlace at hexec
  dsimp only at hexec
  rw [hq] at hexec
  dsimp only at hexec
  rw [hfit] at hexec
  dsimp only at hexec
  rw [hup, whenDue, if_pos rfl, placeInbox] at hexec
  dsimp only at hexec
  rw [decide_eq_false (Nat.not_le.mpr hsender), Bool.false_and, if_neg Bool.false_ne_true, if_neg Bool.false_ne_true] at hexec
  refine completes_of_next hexec ?_
  have hacked (u : State) : (answerMsg .msgAck (msgPlane h) 0 h u).hub = u.hub := by
    unfold answerMsg
    exact putItem_hub _ u
  rw [hacked]
  refine ⟨congrArg List.tail hq, rfl, rfl, ?_⟩
  have hdata (g : Nat → Nat) (l : List Row) : ((l.zipIdx.map fun x => (g x.2, x.1)).map (·.2)) = l := by
    rw [List.map_map]
    exact List.zipIdx_map_fst 0 l
  refine Eq.trans ?_ (congrArg (_ ++ ·) (hdata (fun i => s.hub.hl.inBase + 512 * (f + i)) (landedRows s h rows)))
  rw [← List.map_append, State.onHl_hub, List.append_nil]

/-! ### Registers -/

theorem hostRegisterOp_reads {op : BitVec 128} {k : Nat} {s : State} (hup : malobUp s = true) (hop : bitsOf op.toNat 0 2 = 1) :
    Completes (.hostRegisterOp ⟨op, k⟩) s fun t => t.hub.hl.responses = (atCycle (bitsOf op.toNat 2 48 * 4) k s).hub.hl.responses ++
        [hostResponse op (regRead none (bitsOf op.toNat 2 48 * 4) (atCycle (bitsOf op.toNat 2 48 * 4) k s)).1] ∧
      t.cores = (atCycle (bitsOf op.toNat 2 48 * 4) k s).cores ∧ t.dies = (atCycle (bitsOf op.toNat 2 48 * 4) k s).dies ∧
      t.mem = (atCycle (bitsOf op.toNat 2 48 * 4) k s).mem := by
  have hexec : exec (.hostRegisterOp ⟨op, k⟩) s = execHostRegisterOp ⟨op, k⟩ s := rfl
  unfold execHostRegisterOp hostRegOp at hexec
  dsimp only at hexec
  rw [hup, hop, whenDue, if_pos rfl] at hexec
  refine completes_of_next hexec ?_
  generalize atCycle (bitsOf op.toNat 2 48 * 4) k s = b
  have hread : (regRead none (bitsOf op.toNat 2 48 * 4) b).2.hub.hl = b.hub.hl ∧ (regRead none (bitsOf op.toNat 2 48 * 4) b).2.cores = b.cores ∧
      (regRead none (bitsOf op.toNat 2 48 * 4) b).2.dies = b.dies ∧ (regRead none (bitsOf op.toNat 2 48 * 4) b).2.mem = b.mem := by
    unfold regRead
    dsimp only
    split <;> exact ⟨rfl, rfl, rfl, rfl⟩
  obtain ⟨hhl, hcores, hdies, hmem⟩ := hread
  exact ⟨congrArg (fun l : Hl => l.responses ++ _) hhl, hcores, hdies, hmem⟩

theorem hostRegisterOp_unmapped {op : BitVec 128} {k : Nat} {s : State} (hup : malobUp s = true) (hop : bitsOf op.toNat 0 2 = 2)
    (hnone : regBlock (bitsOf op.toNat 2 48 * 4) = none) : Completes (.hostRegisterOp ⟨op, k⟩) s fun t =>
    t.hub.hl.responses = s.hub.hl.responses ++ [hostResponse op (BitVec.ofNat 32 (bitsOf op.toNat 50 32))] ∧
    t.cores = s.cores ∧ t.dies = s.dies ∧ t.mem = s.mem := by
  have hexec : exec (.hostRegisterOp ⟨op, k⟩) s = execHostRegisterOp ⟨op, k⟩ s := rfl
  unfold execHostRegisterOp hostRegOp at hexec
  dsimp only at hexec
  rw [hup, hop, whenDue, if_pos rfl, atCycle, hnone] at hexec
  refine completes_of_next hexec ?_
  unfold regWrite
  dsimp only
  rw [hnone]
  exact ⟨rfl, rfl, rfl, rfl⟩

/-- Settles O47: rows, messages and register operations of the host link. -/
theorem hostLink : Obligations.HostLink := by
  unfold Obligations.HostLink
  rintro addr n k row hdr pl v s b hup
  refine ⟨?_, hostRowWrite_discarded hup, fun tag hmin hmax hread => hostRowRead_returns hup hmin hmax hread,
    hostMessage_departs hup, hostMessage_waits hup, hostMessage_malformed hup, fun h rows rest f => hostInboxPlace_places hup,
    completes_of_next rfl ⟨rfl, rfl, rfl⟩, completes_of_next rfl ⟨rfl, rfl, rfl⟩, ?_, fun op => hostRegisterOp_unmapped hup⟩
  · rintro x rfl hpop hopen hrails
    refine ⟨fun hfirst hdeep => ⟨fun c r hplace hroom => ?_, fun d r hplace => ?_, fun d r hplace => ?_⟩, fun hfirst => ?_⟩
    · exact hostRowWrite_due hup hpop hopen hrails (hostWrite_plot hplace hroom hfirst hdeep)
    · refine hostRowWrite_due hup hpop hopen hrails ?_
      have hcommons := hostWrite_commons hplace hfirst hdeep
      rw [rowBase_rowBase] at hcommons
      exact hcommons
    · refine hostRowWrite_due hup hpop hopen hrails ?_
      have hmem := hostWrite_deep_mem hplace hfirst hdeep
      rw [rowBase_rowBase] at hmem
      refine ⟨?_, fun y hy => ?_⟩
      · rw [readRow_congr hmem, readRow_writeRow, rowBase_rowBase, if_pos ⟨(populated_rowBase addr).trans hpop, rfl⟩]
      · rw [readRow_congr hmem, readRow_writeRow_ne _ _ (by rwa [rowBase_rowBase])]
    · exact hostRowWrite_due hup hpop hopen hrails (hostWrite_waits hfirst ▸ ⟨rfl, rfl⟩)
  · rintro op rfl hop
    exact hostRegisterOp_reads hup hop

end Sys2Proof.Machine
end

section
/-! SUPPORT. Refutes O49: writing the report of ATTEST cancels the scrub write-backs due to its rows (R120), and these are part of the cores. -/

namespace Sys2Proof.Machine

open Sys2Proof

/- Elaborated one by one, the proofs do not wait for one another's equation lemmas. -/
set_option Elab.async false

/-! ### Rows that are written, and the scrub write-backs of a core -/

theorem writeRow_scrub_plot {c : CoreId} {r : Nat} (s : State) {a : Nat} (d : Row) (h : placeOf a = .plot c r) :
    ((writeRow s a d).cm c).scrub = (s.cm c).scrub.filter fun x => x.2.1 != r := by
  unfold writeRow
  rw [populated, h, if_pos rfl]
  unfold dropScrub
  rw [h]
  dsimp only
  split
  next hnone =>
    rw [List.isEmpty_iff] at hnone
    exact hnone.trans (congrArg (List.filter _) hnone).symm
  next => rw [State.onM_cm_self]; rfl

theorem writeRow_scrub_nil {c : CoreId} {s : State} (a : Nat) (d : Row) (h : (s.cm c).scrub = []) : ((writeRow s a d).cm c).scrub = [] := by
  by_cases hplace : ∃ r, placeOf a = .plot c r
  · obtain ⟨r, hr⟩ := hplace
    rw [writeRow_scrub_plot s d hr, h, List.filter_nil]
  · have hother : (writeRow s a d).cm c = s.cm c := by
      unfold writeRow
      split
      · unfold dropScrub
        split
        next c' r hr =>
          split
          · rfl
          · exact State.onM_cm_ne _ _ _ _ fun hc => hplace ⟨r, hc ▸ hr⟩
        next => split <;> rfl
        next => split <;> rfl
        all_goals rfl
      · rfl
    rw [hother, h]

theorem writeRows_scrub_nil {c : CoreId} (rs : List Row) {s : State} (a : Nat) (h : (s.cm c).scrub = []) :
    ((writeRows s a rs).cm c).scrub = [] := by
  induction rs generalizing s a with
  | nil => exact h
  | cons r rs ih => exact ih _ (writeRow_scrub_nil a r h)

/-! ### The counterexample -/

/-- A powered module in which a scrub write-back is due to row 0 of core 0's Plot. -/
def attestOverScrub : State := (State.reset.onPwr fun p => { p with alwaysOn := true }).onM 0 fun m => { m with scrub := [(0, 0, 0)] }

theorem attestOverScrub_scrub : (attestOverScrub.cm 0).scrub = [(0, 0, 0)] := by
  unfold attestOverScrub
  rw [State.onM_cm_self]

theorem attestRows_ne_nil (s : State) (nonce : BitVec 256) : attestRows s nonce ≠ [] := by
  unfold attestRows
  simp

/-- The report written at row 0 leaves no write-back due to that row. -/
theorem attest_attestOverScrub : ∃ t, exec (.attest ⟨.manager, 0, 0, 0⟩ 0 0) attestOverScrub = .next t ∧ (t.cm 0).scrub = [] := by
  have htakes : TakesCommand attestOverScrub 0x0A whoHS ⟨.manager, 0, 0, 0⟩ := ⟨rfl, rfl, rfl, rfl⟩
  refine completes_of_takes (execAttest _ 0 0) htakes ?_
  have htake := takeCmd_sends (Sends.refl attestOverScrub) 0 0x0A ⟨.manager, 0, 0, 0⟩
  generalize takeCmd 0 0x0A ⟨.manager, 0, 0, 0⟩ attestOverScrub = u at htake ⊢
  rw [State.cm, (reply_sends (Sends.refl _) ..).core, ← State.cm]
  have hscrub : (u.cm 0).scrub = [(0, 0, 0)] := by
    rw [State.cm, htake.core, ← State.cm, attestOverScrub_scrub]
  obtain ⟨r, rs, hrows⟩ := List.exists_cons_of_ne_nil (attestRows_ne_nil u 0)
  rw [hrows, writeRows]
  refine writeRows_scrub_nil rs _ ?_
  rw [writeRow_scrub_plot u r (show placeOf 0 = .plot 0 0 from rfl), hscrub]
  rfl

/-- Refutes O49: ATTEST need not leave the cores as they were. A report that is written over a row of a core's Plot whose scrub write-back
is due cancels the write-back (R120), so the core's list of write-backs changes. -/
theorem not_bootAndTrust : ¬ Obligations.BootAndTrust := by
  unfold Obligations.BootAndTrust
  intro h
  obtain ⟨-, -, -, -, -, -, -, hattest⟩ := h ⟨.manager, 0, 0, 0⟩ 0 0 0 0 0 attestOverScrub (attestOverScrub.atNs 0) rfl
  obtain ⟨t, ht, -, hcores, -⟩ := hattest ⟨rfl, rfl, rfl, rfl⟩
  obtain ⟨u, hu, hnone⟩ := attest_attestOverScrub
  have htu : t = u := Host.Outcome.next.inj (ht.symm.trans hu)
  have hsome : (t.cm 0).scrub = [(0, 0, 0)] := by
    rw [State.cm, State.core, hcores]
    exact attestOverScrub_scrub
  rw [htu, hnone] at hsome
  exact List.cons_ne_nil _ _ hsome.symm

end Sys2Proof.Machine
end

section
/-! SUPPORT. Weight slots: the operations on loads move shards, queues of digests and messages, and leave the reference counts (R413 to R427). -/

namespace Sys2Proof.Machine

open Sys2Proof

/- Elaborated one by one, the proofs do not wait for one another's equation lemmas. -/
set_option Elab.async false

/-- The hub without its weight slots, the queues and engines of digests, and what sending a message may alter. -/
def Hub.unweighed (h : Hub) : Hub := { h.unsent with wgt := Hub.reset.wgt, digQ := Hub.reset.digQ, digEng := Hub.reset.digEng }

/-- Only weight slots, digests and messages of the Headland differ between two states, and no reference count does. -/
structure Weighs (s t : State) : Prop where
  pending : t.pending = s.pending
  mem : t.mem = s.mem
  cores : t.cores = s.cores
  dies : t.dies = s.dies
  hubEq : t.hub.unweighed = s.hub.unweighed
  refs : ∀ x, (t.wgt x).refs = (s.wgt x).refs

theorem Weighs.refl (s : State) : Weighs s s := ⟨rfl, rfl, rfl, rfl, rfl, fun _ => rfl⟩

theorem Weighs.trans {s t u : State} (hst : Weighs s t) (htu : Weighs t u) : Weighs s u where
  pending := htu.pending.trans hst.pending
  mem := htu.mem.trans hst.mem
  cores := htu.cores.trans hst.cores
  dies := htu.dies.trans hst.dies
  hubEq := htu.hubEq.trans hst.hubEq
  refs x := (htu.refs x).trans (hst.refs x)

theorem Weighs.hub {α : Type} {s t : State} (h : Weighs s t) (π : Hub → α) (hπ : ∀ k, π k.unweighed = π k := by exact fun _ => rfl) :
    π t.hub = π s.hub :=
  (hπ _).symm.trans ((congrArg π h.hubEq).trans (hπ _))

theorem Sends.weighs {s t : State} (h : Sends s t) : Weighs s t where
  pending := h.1
  mem := h.mem
  cores := h.2.2.1
  dies := h.2.2.2.1
  hubEq := congrArg (fun k : Hub => { k with wgt := Hub.reset.wgt, digQ := Hub.reset.digQ, digEng := Hub.reset.digEng }) h.2.2.2.2
  refs x := by rw [h.wgt]

section
variable {s₀ s : State} (h : Weighs s₀ s) (x : CtxId)
include h

theorem onWgt_weighs {f : WgtCtx → WgtCtx} (hf : ∀ w, (f w).refs = w.refs) : Weighs s₀ (s.onWgt x f) := by
  refine h.trans ⟨rfl, rfl, rfl, rfl, rfl, fun y => ?_⟩
  by_cases hy : x = y
  · subst hy
    rw [wgt_onWgt_self, hf]
  · rw [wgt_onWgt_ne _ _ hy]

theorem onSlot_weighs (k : Nat) (f : WLoad → WLoad) : Weighs s₀ (s.onSlot x k f) := onWgt_weighs h x fun _ => rfl

theorem onShard_weighs (k j : Nat) (f : Shard → Shard) : Weighs s₀ (s.onShard x k j f) := onSlot_weighs h x k _

theorem dropDigests_weighs (k : Nat) : Weighs s₀ (dropDigests x k s) := h.trans ⟨rfl, rfl, rfl, rfl, rfl, fun _ => rfl⟩

theorem wgtReply_weighs (k status : Nat) : Weighs s₀ (wgtReply x k status s) := by
  unfold wgtReply
  dsimp only
  split
  · exact h
  · exact (onSlot_weighs h x k _).trans (replyDone_sends (Sends.refl _) ..).weighs

theorem wgtFail_weighs (k j : Nat) : Weighs s₀ (wgtFail x k j s) := by
  unfold wgtFail
  refine wgtReply_weighs (dropDigests_weighs (onSlot_weighs (onWgt_weighs ?_ x fun w => ?_) x k _) x k) x k _
  · split
    · exact h
    · exact h.trans (headlandFault_sends (Sends.refl s) _).weighs
  · unfold wgtOver
    split <;> rfl

theorem askShard_weighs (k j : Nat) : Weighs s₀ (askShard x k j s) := by
  unfold askShard
  dsimp only
  split
  · exact (onShard_weighs (onSlot_weighs h x k _) x k j _).trans (wgtNotice_sends (Sends.refl _) ..).weighs
  · exact h

theorem refetch_weighs (k : Nat) : Weighs s₀ (refetch x k s) := by
  unfold refetch
  refine forAll_inv (Weighs s₀) _ _ _ (onWgt_weighs h x fun w => ?_) fun j _ t ht => askShard_weighs (onShard_weighs ht x k j _) x k j
  split <;> rfl

theorem emptySlot_weighs (k : Nat) : Weighs s₀ (emptySlot x k s) := dropDigests_weighs (onSlot_weighs h x k _) x k
end

/-- A context reset ends the load in progress and gives up every reference (R427). -/
theorem wgtContextReset_weighs (x : CtxId) (s : State) : ∃ u, Weighs s u ∧
    Weighs (u.onWgt x fun w => { w with refs := Vector.replicate 2 0 }) (wgtContextReset x s) := by
  have hrest (v : State) (b : Bool) (k : Nat) : Weighs v (forAll [0, 1]
      (fun k s => if (slotW (s.wgt x) k).state == .draining then emptySlot x k s else s) (if b then refetch x k v else v)) := by
    refine forAll_inv (Weighs v) _ _ _ ?_ fun k _ t ht => ?_
    · split
      · exact refetch_weighs (Weighs.refl v) x k
      · exact Weighs.refl v
    · split
      · exact emptySlot_weighs ht x k
      · exact ht
  unfold wgtContextReset
  dsimp only
  cases (s.wgt x).loading with
  | none => exact ⟨s, Weighs.refl s, hrest _ _ _⟩
  | some k => exact ⟨wgtFail x k.val 0 s, wgtFail_weighs (Weighs.refl s) x _ 0, hrest _ _ _⟩

end Sys2Proof.Machine
end

section
/-! SUPPORT. Resets of cores and their rings: what one core's reset leaves of the module and of the other cores (R110 to R112, R352, R495). -/

namespace Sys2Proof.Machine

open Sys2Proof

/- Elaborated one by one, the proofs do not wait for one another's equation lemmas. -/
set_option Elab.async false

/-! ### The frame -/

/-- A scheduler without its request for current. -/
def Sched.unrequested (k : Sched) : Sched := { k with request := 0 }

/-- A control core without its rings, dispatch pointers, count of bounces and waiting operations. -/
def Cc.unringed (k : Cc) : Cc := { k with rings := Cc.reset.rings, dptr := Cc.reset.dptr, rxBounce := 0, winOp := none, halloc := none }

/-- Clearing the rings, handles and requests of core `c` leaves other cores but for what the allocator does to handles, and leaves the rest
of core `c`. -/
structure Clears (c : CoreId) (s t : State) : Prop where
  pending : t.pending = s.pending
  mem : t.mem = s.mem
  hubEq : t.hub.unsent = s.hub.unsent
  sc : ∀ e, e ≠ c → t.sc e = s.sc e
  cc : ∀ e, e ≠ c → t.cc e = s.cc e
  en : ∀ e, t.en e = s.en e
  scEq : (t.sc c).unrequested = (s.sc c).unrequested
  ccEq : (t.cc c).unringed = (s.cc c).unringed

section
variable {c : CoreId} {s t u : State}

theorem Clears.refl (c : CoreId) (s : State) : Clears c s s := ⟨rfl, rfl, rfl, fun _ _ => rfl, fun _ _ => rfl, fun _ => rfl, rfl, rfl⟩

theorem Clears.trans (hst : Clears c s t) (htu : Clears c t u) : Clears c s u where
  pending := htu.pending.trans hst.pending
  mem := htu.mem.trans hst.mem
  hubEq := htu.hubEq.trans hst.hubEq
  sc e he := (htu.sc e he).trans (hst.sc e he)
  cc e he := (htu.cc e he).trans (hst.cc e he)
  en e := (htu.en e).trans (hst.en e)
  scEq := htu.scEq.trans hst.scEq
  ccEq := htu.ccEq.trans hst.ccEq

theorem Clears.hub {α : Type} (h : Clears c s t) (π : Hub → α) (hπ : ∀ k, π k.unsent = π k := by exact fun _ => rfl) : π t.hub = π s.hub :=
  (hπ _).symm.trans ((congrArg π h.hubEq).trans (hπ _))

theorem Clears.wall (h : Clears c s t) : (t.sc c).wall = (s.sc c).wall := (congrArg Sched.wall h.scEq :)

theorem Sends.clears (h : Sends s t) : Clears c s t where
  pending := h.1
  mem := h.mem
  hubEq := h.hub Hub.unsent
  sc e _ := by rw [State.sc, h.core, State.sc]
  cc e _ := by rw [State.cc, h.core, State.cc]
  en e := by rw [State.en, h.core, State.en]
  scEq := by rw [State.sc, h.core, State.sc]
  ccEq := by rw [State.cc, h.core, State.cc]
end

/-! ### The operations -/

section
variable {c : CoreId} {s₀ s : State} (h : Clears c s₀ s)
include h

theorem onM_clears (e : CoreId) (f : Mem1 → Mem1) : Clears c s₀ (s.onM e f) :=
  h.trans ⟨rfl, rfl, rfl, fun _ _ => State.onM_sc .., fun _ _ => State.onM_cc .., fun _ => State.onM_en ..,
    by rw [State.onM_sc], by rw [State.onM_cc]⟩

theorem onDie_clears (d : DieId) (f : Die → Die) : Clears c s₀ (s.onDie d f) :=
  h.trans ⟨rfl, rfl, rfl, fun _ _ => rfl, fun _ _ => rfl, fun _ => rfl, rfl, rfl⟩

theorem onCc_clears {f : Cc → Cc} (hf : ∀ k, (f k).unringed = k.unringed) : Clears c s₀ (s.onCc c f) :=
  h.trans ⟨rfl, rfl, rfl, fun _ _ => State.onCc_sc .., fun _ he => State.onCc_cc_ne _ _ _ _ he.symm, fun _ => State.onCc_en ..,
    by rw [State.onCc_sc], by rw [State.onCc_cc_self, hf]⟩

theorem onSc_clears {f : Sched → Sched} (hf : ∀ k, (f k).unrequested = k.unrequested) : Clears c s₀ (s.onSc c f) :=
  h.trans ⟨rfl, rfl, rfl, fun _ he => State.onSc_sc_ne _ _ _ _ he.symm, fun _ _ => State.onSc_cc .., fun _ => State.onSc_en ..,
    by rw [State.onSc_sc_self, hf], by rw [State.onSc_cc]⟩

theorem onRing_clears (r : Nat) (f : Ring → Ring) : Clears c s₀ (s.onRing c r f) := onCc_clears h fun _ => rfl

theorem forAll_clears {α : Type} (l : List α) {f : α → State → State} (hf : ∀ x t, Clears c s₀ t → Clears c s₀ (f x t)) :
    Clears c s₀ (forAll l f s) :=
  forAll_inv (Clears c s₀) l f s h fun x _ t ht => hf x t ht

theorem rxBounce_clears (plane reason : Nat) (hdr : Row) : Clears c s₀ (rxBounce c plane reason hdr s) := by
  unfold rxBounce
  exact (onCc_clears h (by exact fun _ => rfl)).trans (bounceMsg_sends (Sends.refl _) ..).clears

theorem bounceWaiting_clears (r reason : Nat) : Clears c s₀ (bounceWaiting c r reason s) := by
  unfold bounceWaiting
  exact forAll_clears (onRing_clears h r _) _ fun hdr t ht => rxBounce_clears ht _ reason hdr

/-- The rings of a core go through steps 1 to 3 of R352. -/
theorem resetRing_clears (r : Nat) : Clears c s₀ (resetRing c r s) := by
  unfold resetRing
  refine onCc_clears (onRing_clears (onM_clears (bounceWaiting_clears (forAll_clears ?_ _ fun hdr t ht => rxBounce_clears ht _ 7 hdr) r 7) c _) r _)
    fun _ => rfl
  split
  · exact onRing_clears h r _
  · exact h

theorem setRes_clears (e : CoreId) (hd v : Nat) : Clears c s₀ (setRes e hd v s) := by
  unfold setRes
  split
  · exact h
  · exact onM_clears h e _

theorem startPageOut_clears (d : DieId) (e : CoreId) (hd : Nat) : Clears c s₀ (startPageOut d e hd s) := by
  unfold startPageOut
  dsimp only
  split
  · exact h
  · exact setRes_clears (onDie_clears h d _) e hd 2

theorem makeRoom_clears (d : DieId) (x n : Nat) : Clears c s₀ (makeRoom d x n s) := by
  unfold makeRoom
  refine forAll_clears h _ fun e t ht => ?_
  split
  · exact ht
  · exact startPageOut_clears ht d _ _

theorem beginPageIn_clears (e : CoreId) (hd p n : Nat) : Clears c s₀ (beginPageIn e hd p n s) := by
  unfold beginPageIn
  exact onM_clears (onDie_clears h _ _) e _

omit h in
theorem serveAlloc_clears (d : DieId) (fuel : Nat) : ∀ {t : State}, Clears c s₀ t → Clears c s₀ (serveAlloc d fuel t) := by
  induction fuel with
  | zero => exact fun ht => ht
  | succ fuel ih =>
    intro t ht
    unfold serveAlloc
    split
    · exact ht
    · split
      · exact ht
      · split
        · split
          · exact ht
          · exact ih (beginPageIn_clears ht _ _ _ _)
        · exact ht
        · exact makeRoom_clears ht d _ _

theorem serve_clears (d : DieId) : Clears c s₀ (serve d s) := serveAlloc_clears d _ h

theorem freeHandle_clears (hd : Nat) : Clears c s₀ (freeHandle c hd s) := by
  unfold freeHandle
  exact serve_clears (onM_clears (onDie_clears h _ _) c _) _

theorem dropRequests_clears : Clears c s₀ (dropRequests c s) := by
  unfold dropRequests
  exact onSc_clears (onDie_clears h _ _) fun _ => rfl

theorem ccDrop_clears : Clears c s₀ (ccDrop c s) := by
  unfold ccDrop
  exact serve_clears (onCc_clears (onDie_clears h _ _) (by exact fun _ => rfl)) _
end

/-- A core reset: the core is as after a reset, and no other core's schedule, engine or control core differs (R495). -/
theorem coreResetOp_core (c : CoreId) (s : State) : ∃ u, Clears c s u ∧ coreResetOp c s = u.onCore c coreAfterReset := by
  unfold coreResetOp
  exact ⟨_, onDie_clears (forAll_clears (dropRequests_clears (forAll_clears (Clears.refl c s) _ fun r t ht => resetRing_clears ht r)) _
    fun hd t ht => freeHandle_clears ht hd) _ _, rfl⟩

/-! ### One core of a list -/

/-- In a walk over a list that names `c` once, the steps of the others leave what `R` relates, and `c`'s own step is found inside. -/
theorem forAll_once {α : Type} {R : State → State → Prop} (hrefl : ∀ s, R s s) (htrans : ∀ s t u, R s t → R t u → R s u)
    {f : α → State → State} {c : α} (hother : ∀ x s, x ≠ c → R s (f x s)) {l : List α} (hnd : l.Nodup) (hc : c ∈ l) (s : State) :
    ∃ u, R s u ∧ R (f c u) (forAll l f s) := by
  have hrest : ∀ (l : List α) (s : State), c ∉ l → R s (forAll l f s) := fun l s hl =>
    forAll_inv (R s) l f s (hrefl s) fun x hx t ht => htrans s t _ ht (hother x t fun hxc => hl (hxc ▸ hx))
  induction l generalizing s with
  | nil => exact absurd hc List.not_mem_nil
  | cons x xs ih =>
    obtain ⟨hx, hxs⟩ := List.nodup_cons.mp hnd
    rw [forAll_cons]
    by_cases hxc : x = c
    · subst hxc
      exact ⟨s, hrefl s, hrest xs _ hx⟩
    · obtain ⟨u, hu, hfu⟩ := ih hxs ((List.mem_cons.mp hc).resolve_left (Ne.symm hxc)) (f x s)
      exact ⟨u, htrans s _ u (hother x s hxc) hu, hfu⟩

/-- The schedule, engine and control core of `c` agree. -/
def SameCore (c : CoreId) (s t : State) : Prop := t.sc c = s.sc c ∧ t.cc c = s.cc c ∧ t.en c = s.en c

theorem SameCore.refl (c : CoreId) (s : State) : SameCore c s s := ⟨rfl, rfl, rfl⟩

theorem SameCore.trans {c : CoreId} (s t u : State) (hst : SameCore c s t) (htu : SameCore c t u) : SameCore c s u := by
  obtain ⟨hsc, hcc, hen⟩ := hst
  obtain ⟨hsc', hcc', hen'⟩ := htu
  exact ⟨hsc'.trans hsc, hcc'.trans hcc, hen'.trans hen⟩

theorem Clears.sameCore {c e : CoreId} {s t : State} (h : Clears c s t) (he : e ≠ c) : SameCore e s t := ⟨h.sc e he, h.cc e he, h.en e⟩

theorem coreResetOp_other {c e : CoreId} (s : State) (he : c ≠ e) : SameCore e s (coreResetOp c s) := by
  obtain ⟨u, hu, hop⟩ := coreResetOp_core c s
  rw [hop]
  refine SameCore.trans _ u _ (hu.sameCore he.symm) ⟨?_, ?_, ?_⟩
  · rw [State.sc, State.onCore_core_ne _ _ _ _ he, State.sc]
  · rw [State.cc, State.onCore_core_ne _ _ _ _ he, State.cc]
  · rw [State.en, State.onCore_core_ne _ _ _ _ he, State.en]

theorem nodup_maskCores (s : State) (mask : BitVec 128) : (maskCores s mask).Nodup := (List.nodup_finRange 128).filter _

theorem mem_maskCores {s : State} {mask : BitVec 128} {c : CoreId} :
    c ∈ maskCores s mask ↔ mask.getLsbD c.val = true ∧ fusedOff s c = false := by
  unfold maskCores
  simp [List.mem_filter, mem_allCores]

end Sys2Proof.Machine
end

section
/-! SUPPORT. Settles O50: contexts are configured and locked, and resets begin and complete (R45, R80, R168, R352, R406, R476, R491 to R496, R524). -/

namespace Sys2Proof.Machine

open Sys2Proof

/- Elaborated one by one, the proofs do not wait for one another's equation lemmas. -/
set_option Elab.async false

/-! ### Configuring a context -/

/-- Writing entries `j` to `j + n` of a vector one after another. -/
theorem vget_foldl_vset {α : Type} {m : Nat} (d : α) (g : Nat → α) (b i n : Nat) (v : Vector α m) (hi : i < n) (hb : b + n ≤ m) :
    vget ((List.range n).foldl (fun v i => vset v (b + i) (g i)) v) d (b + i) = g i := by
  induction n with
  | zero => exact absurd hi (Nat.not_lt_zero i)
  | succ n ih =>
    rw [List.range_succ, List.foldl_append, List.foldl_cons, List.foldl_nil]
    by_cases hin : i = n
    · subst hin
      exact vget_vset_self _ _ _ _ (by omega)
    · rw [vget_vset_ne _ _ _ _ _ (by omega)]
      exact ih (by omega) (by omega)

theorem configCore_core (x : CtxId) (slot : Fin 4) (sh rt : Bool) (seed : BitVec 64) (map : List (BitVec 8)) (c : CoreId) (s : State)
    {e : CoreId} (he : c ≠ e) : (configCore x slot sh rt seed map c s).core e = s.core e := by
  unfold configCore
  rw [State.onE, State.onCore_core_ne _ _ _ _ he, State.onSc, State.onCore_core_ne _ _ _ _ he]

theorem contextCfg_configures {src : CmdSrc} {x : CtxId} {c : CoreId} {mask : BitVec 128} {k : Fin 4} {sh rt : Bool} {seed : BitVec 64}
    {map : List (BitVec 8)} {s : State} (htakes : TakesCommand s 3 whoHS src) (hlen : map.length = 12) (hmap : ∀ b, b ∈ map → b.toNat < 48)
    (hfree : ∀ e, (s.sc e).commit = false) (hmask : mask.getLsbD c.val = true) (hfused : fusedOff s c = false) :
    Completes (.contextCfg src x mask k sh rt seed map) s fun t => (t.sc c).ctxCfg = cfgWithSlot (s.sc c).ctxCfg k.val x.val sh rt ∧
    vget (t.en c).seeds 0 k.val = seed ∧ (t.sc c).commit = false ∧
    (∀ i, i < 12 → (vget (t.sc c).stkMap 0 (12 * k.val + i)).toNat = (map.getD i 0).toNat) ∧
    (∀ e, mask.getLsbD e.val = false → t.core e = s.core e) ∧ Replies src 3 0 0 t := by
  refine completes_of_takes (execContextCfg src x mask k sh rt seed map) htakes ?_
  have htake := takeCmd_sends (Sends.refl s) 0 3 src
  generalize takeCmd 0 3 src s = u at htake ⊢
  have hsc (e : CoreId) : u.sc e = s.sc e := by rw [State.sc, htake.core, State.sc]
  have hen (e : CoreId) : u.en e = s.en e := by rw [State.en, htake.core, State.en]
  have hfused' : fusedOff u c = false := by
    unfold fusedOff
    rw [htake.hub (·.fuses)]
    exact hfused
  have hmem : c ∈ maskCores u mask := mem_maskCores.mpr ⟨hmask, hfused'⟩
  have hgood : ((maskCores u mask).isEmpty || map.length != 12 || map.any fun k => decide (48 ≤ k.toNat)) = false := by
    rw [List.isEmpty_eq_false_iff_exists_mem.mpr ⟨c, hmem⟩, hlen]
    exact List.any_eq_false.mpr fun b hb => by rw [decide_eq_true_eq]; exact Nat.not_le.mpr (hmap b hb)
  have hopen : ((maskCores u mask).any fun c => (u.sc c).commit) = false :=
    List.any_eq_false.mpr fun e _ => by rw [hsc, hfree]; exact Bool.false_ne_true
  dsimp only
  rw [hgood, if_neg Bool.false_ne_true, hopen, if_neg Bool.false_ne_true]
  have hothers (e : CoreId) (he : mask.getLsbD e.val = false) : (forAll (maskCores u mask) (configCore x k sh rt seed map) u).core e = u.core e :=
    forAll_keep (fun t => t.core e) _ _ _ fun c hc t => configCore_core x k sh rt seed map c t fun hce => by
      have hbit := (mem_maskCores.mp hc).1
      rw [hce, he] at hbit
      exact Bool.false_ne_true hbit
  have hreply := fun t => reply_sends (Sends.refl t) src 3 0 0
  obtain ⟨v, hv, hdone⟩ := forAll_once (R := fun s t => t.core c = s.core c) (f := configCore x k sh rt seed map) (fun _ => rfl)
    (fun _ _ _ h h' => h'.trans h) (fun e t he => configCore_core x k sh rt seed map e t he) (nodup_maskCores u mask) hmem u
  have hmapBit (i : Nat) (hi : i < 12) : (BitVec.ofNat 6 (map.getD i 0).toNat).toNat = (map.getD i 0).toNat := by
    have hlt : (map.getD i 0).toNat < 48 := by
      rw [List.getD_eq_getElem _ _ (hlen ▸ hi)]
      exact hmap _ (List.getElem_mem _)
    rw [BitVec.toNat_ofNat, Nat.mod_eq_of_lt (by omega)]
  have hk := k.isLt
  generalize forAll (maskCores u mask) (configCore x k sh rt seed map) u = w at hdone hothers ⊢
  have hscW : w.sc c = (configCore x k sh rt seed map c v).sc c := by rw [State.sc, hdone, State.sc]
  have henW : w.en c = (configCore x k sh rt seed map c v).en c := by rw [State.en, hdone, State.en]
  rw [State.sc, State.en, (hreply w).core, ← State.sc, ← State.en, hscW, henW, configCore, State.onE_sc, State.onSc_sc_self, State.onE_en_self,
    show v.sc c = s.sc c by rw [State.sc, hv, ← State.sc, hsc]]
  refine ⟨rfl, vget_vset_self _ _ _ _ hk, hfree c, fun i hi => ?_, fun e he => ?_, replies_reply _ _ _ _ _⟩
  · exact (congrArg BitVec.toNat (vget_foldl_vset 0 (fun i => BitVec.ofNat 6 (map.getD i 0).toNat) _ i 12 _ hi (by omega))).trans (hmapBit i hi)
  · rw [(hreply w).core, hothers e he, htake.core]

theorem ctxCfgCommit_open {c : CoreId} {v : Word} {s : State} (hopen : (s.sc c).commit = false) :
    Completes (.ctxCfgCommit c v) s fun t => (t.sc c).ctxCfg = v &&& 0x00FFFFF1#32 ∧
    ((t.sc c).commit = true ↔ v.getLsbD 31 = true ∧ (v.getLsbD 0 = false ∨ mapsOk (s.sc c) (v &&& 0x00FFFFF1#32) = true)) ∧ OnlyCore c s t := by
  have hexec : exec (.ctxCfgCommit c v) s = .next (ctxCfgWrite c v s) := rfl
  unfold ctxCfgWrite at hexec
  refine completes_of_next hexec ⟨?_, ?_, onlyCore_onSc c s _⟩
  · rw [State.onSc_sc_self, hopen]
    rfl
  · rw [State.onSc_sc_self, hopen, if_neg Bool.false_ne_true]
    have hbit : (v &&& 0x00FFFFF1#32).getLsbD 0 = v.getLsbD 0 := by
      rw [BitVec.getLsbD_and]
      exact Bool.and_true _
    dsimp only
    rw [hbit, Bool.and_eq_true, Bool.or_eq_true, Bool.not_eq_true']

theorem ctxCfgCommit_locked {c : CoreId} {v : Word} {s : State} (hlocked : (s.sc c).commit = true) :
    Completes (.ctxCfgCommit c v) s fun t => t.sc c = s.sc c ∧ OnlyCore c s t := by
  have hexec : exec (.ctxCfgCommit c v) s = .next (ctxCfgWrite c v s) := rfl
  unfold ctxCfgWrite at hexec
  refine completes_of_next hexec ⟨?_, onlyCore_onSc c s _⟩
  rw [State.onSc_sc_self, hlocked, if_pos rfl]

/-! ### Resets begin -/

/-- The step of a context reset at one of the context's cores (R80, R352). -/
def resetContextAt (x : CtxId) (c : CoreId) (s : State) : State :=
  forAll (ringsOf s c x.val) (resetRing c) (s.onSc c fun sc => { sc with commit := false })

theorem resetContextAt_clears (x : CtxId) (c : CoreId) (s : State) :
    Clears c (s.onSc c fun sc => { sc with commit := false }) (resetContextAt x c s) :=
  forAll_clears (Clears.refl c _) _ fun r _ ht => resetRing_clears ht r

theorem resetContextAt_sc_ne (x : CtxId) {c e : CoreId} (s : State) (he : c ≠ e) : (resetContextAt x c s).sc e = s.sc e := by
  rw [(resetContextAt_clears x c s).sc e he.symm, State.onSc_sc_ne _ _ _ _ he]

theorem resetContextAt_commit (x : CtxId) (c : CoreId) (s : State) : ((resetContextAt x c s).sc c).commit = false := by
  have hsc := (resetContextAt_clears x c s).scEq
  rw [State.onSc_sc_self] at hsc
  generalize (resetContextAt x c s).sc c = sc at hsc ⊢
  exact (congrArg Sched.commit hsc :)

theorem releaseImage_sc (x : Nat) (s : State) (e : CoreId) : (releaseImage x s).sc e = s.sc e :=
  forAll_keep (fun t => t.sc e) _ _ _ fun _ _ _ => State.onCc_sc ..

theorem releaseImage_hub (x : Nat) (s : State) : (releaseImage x s).hub = s.hub :=
  forAll_keep State.hub _ _ _ fun _ _ _ => rfl

/-- A context's image part as a reset of the context leaves it (R497). -/
def unloaded (l : LoadCtx) : LoadCtx :=
  { l with state := if l.state == 2 then 0 else l.state, regions := [], stepMask := 0xFF, coupled := [], mode := 0, quahamId := 0 }

/-- A context reset as its four parts: the cores, the program image, the weights and the snapshot's window. -/
theorem contextResetOp_eq (x : CtxId) (s : State) : contextResetOp x s =
    (wgtContextReset x ((releaseImage x.val (forAll (ctxCores s x.val) (resetContextAt x) s)).onLoad x unloaded)).onSnp x
      fun n => { n with window := none } := rfl

/-- What a context reset does at once: the resets in progress stay noted, and the context's cores, references and window are given up. -/
theorem contextResetOp_effects (x : CtxId) (s : State) : (contextResetOp x s).hub.hl.resets = s.hub.hl.resets ∧
    ((contextResetOp x s).snp x).window = none ∧ ((contextResetOp x s).wgt x).refs = Vector.replicate 2 0 ∧
    ∀ e, e ∈ ctxCores s x.val → ((contextResetOp x s).sc e).commit = false := by
  rw [contextResetOp_eq]
  generalize hu' : forAll (ctxCores s x.val) (resetContextAt x) s = u
  have hrelSc := releaseImage_sc x.val u
  have hrelHub := releaseImage_hub x.val u
  generalize releaseImage x.val u = r at hrelSc hrelHub ⊢
  generalize hv : State.onLoad r x unloaded = v
  have hvSc (e : CoreId) : v.sc e = u.sc e := by rw [← hrelSc, ← hv, State.onLoad, State.onHub_sc]
  have hvResets : v.hub.hl.resets = u.hub.hl.resets := by
    rw [← hrelHub, ← hv, State.onLoad, State.onHub_hub]
  obtain ⟨w, hvw, hw⟩ := wgtContextReset_weighs x v
  generalize wgtContextReset x v = z at hw ⊢
  refine ⟨?_, ?_, ?_, fun e he => ?_⟩
  · have hkeep : u.hub.hl.resets = s.hub.hl.resets := by
      rw [← hu']
      exact forAll_keep (fun t => t.hub.hl.resets) _ _ _ fun c _ t => (resetContextAt_clears x c t).hub (·.hl.resets)
    exact (hw.hub (·.hl.resets)).trans ((hvw.hub (·.hl.resets)).trans (hvResets.trans hkeep))
  · exact congrArg SnpCtx.window (snp_onSnp_self z x fun n => { n with window := none })
  · exact (hw.refs x).trans (congrArg WgtCtx.refs (wgt_onWgt_self w x _))
  · obtain ⟨y, -, hdone⟩ := forAll_once (R := fun s t => t.sc e = s.sc e) (f := resetContextAt x) (fun _ => rfl) (fun _ _ _ h h' => h'.trans h)
      (fun c t hc => resetContextAt_sc_ne x t hc) (show (ctxCores s x.val).Nodup from (List.nodup_finRange 128).filter _) he s
    rw [hu'] at hdone
    have hz : z.sc e = v.sc e := by
      rw [State.sc, State.core, hw.cores, State.sc, State.core, ← hvw.cores]
      rfl
    exact (congrArg Sched.commit (hz.trans ((hvSc e).trans hdone))).trans (resetContextAt_commit x e y)

theorem ctxCores_congr {s t : State} (hsc : ∀ e, t.sc e = s.sc e) (x : Nat) : ctxCores t x = ctxCores s x := by
  unfold ctxCores slotOf slotValid slotCtx
  simp only [hsc]

theorem ringsOf_congr {s t : State} {c : CoreId} (hsc : t.sc c = s.sc c) (hcc : t.cc c = s.cc c) (x : Nat) : ringsOf t c x = ringsOf s c x := by
  unfold ringsOf slotValid slotCtx State.ring
  simp only [hsc, hcc]

theorem contextReset_resets {src : CmdSrc} {x : CtxId} {s : State} (htakes : TakesCommand s 9 whoHS src) (hnew : mergesContext s x = false) :
    Completes (.contextReset src x) s fun t => t.hub.hl.resets = s.hub.hl.resets ++
      [⟨1, 0, x, some src, (ctxCores s x.val).flatMap fun c => (ringsOf s c x.val).map fun r => (c, r)⟩] ∧ (t.snp x).window = none ∧
    (t.wgt x).refs = Vector.replicate 2 0 ∧ (∀ e, e ∈ ctxCores s x.val → (t.sc e).commit = false) ∧ t.mem = s.mem := by
  refine completes_of_takes (execContextReset src x) htakes ?_
  have htake := takeCmd_sends (Sends.refl s) 0 9 src
  generalize takeCmd 0 9 src s = u at htake ⊢
  have hsc (e : CoreId) : u.sc e = s.sc e := by rw [State.sc, htake.core, State.sc]
  have hcc (e : CoreId) : u.cc e = s.cc e := by rw [State.cc, htake.core, State.cc]
  have hnew' : mergesContext u x = false := by
    unfold mergesContext
    rw [htake.hub (·.hl.resets)]
    exact hnew
  rw [hnew', if_neg Bool.false_ne_true]
  obtain ⟨hresets, hwindow, hrefs, hcommit⟩ := contextResetOp_effects x (addReset 1 0 x (some src) u)
  have hrings : (fun c => (ringsOf u c x.val).map fun r => (c, r)) = fun c => (ringsOf s c x.val).map fun r => (c, r) :=
    funext fun c => by rw [ringsOf_congr (hsc c) (hcc c)]
  refine ⟨hresets.trans ?_, hwindow, hrefs, fun e he => hcommit e ?_, ?_⟩
  · rw [addReset, if_pos (by rfl), ctxCores_congr hsc, hrings, State.onHl_hub]
    exact congrArg (· ++ _) (htake.hub (·.hl.resets))
  · exact (ctxCores_congr (s := u) (fun _ => rfl) x.val).symm ▸ (ctxCores_congr hsc x.val).symm ▸ he
  · exact ((contextResetOp_within (P := ⟨false, true, true, true⟩) (within_refl _ _) rfl rfl x).1 rfl).trans htake.mem

/-- A core that is named once is reset; the resets of the other cores leave its schedule, engine and control core (R495). -/
theorem coreReset_resets {src : CmdSrc} {c : CoreId} {mask : BitVec 128} {s : State} (htakes : TakesCommand s 9 whoHS src)
    (hnew : mergesCores s mask = false) (hmask : mask.getLsbD c.val = true) (hfused : fusedOff s c = false) :
    Completes (.coreReset src mask) s fun t => t.hub.hl.resets = s.hub.hl.resets ++ [⟨2, mask, 0, some src, []⟩] ∧
    t.sc c = { Sched.reset with wall := (s.sc c).wall, origin := (s.sc c).wall } ∧ (t.cc c).resetting = true ∧ (t.cc c).imem = (s.cc c).imem ∧
    (t.en c).foldEpoch = ((s.en c).foldEpoch + 1) % 256 ∧ t.mem = s.mem := by
  refine completes_of_takes (execCoreReset src mask) htakes ?_
  have htake := takeCmd_sends (Sends.refl s) 0 9 src
  generalize takeCmd 0 9 src s = u at htake ⊢
  have hfused' : fusedOff u c = false := by
    unfold fusedOff
    rw [htake.hub (·.fuses)]
    exact hfused
  have hmem : c ∈ maskCores u mask := mem_maskCores.mpr ⟨hmask, hfused'⟩
  have hnew' : mergesCores u mask = false := by
    unfold mergesCores
    rw [htake.hub (·.hl.resets)]
    exact hnew
  dsimp only
  rw [List.isEmpty_eq_false_iff_exists_mem.mpr ⟨c, hmem⟩, if_neg Bool.false_ne_true, hnew', if_neg Bool.false_ne_true]
  generalize hnoted : addReset 2 mask 0 (some src) u = n
  obtain ⟨v, ⟨hscV, hccV, henV⟩, hscT, hccT, henT⟩ := forAll_once (R := SameCore c) (SameCore.refl c) SameCore.trans
    (fun e t he => coreResetOp_other t he) (nodup_maskCores u mask) hmem n
  obtain ⟨w, hw, hop⟩ := coreResetOp_core c v
  have hcore : (coreResetOp c v).core c = coreAfterReset (w.core c) := by rw [hop, State.onCore_core_self]
  have hwall : (w.core c).sc.wall = (s.sc c).wall := by
    rw [← State.sc, hw.wall, hscV, ← hnoted]
    exact congrArg Sched.wall (by rw [State.sc, State.sc, ← htake.core]; rfl)
  have himem : (w.core c).cc.imem = (s.cc c).imem := by
    have hccW : (w.cc c).imem = (v.cc c).imem := (congrArg Cc.imem hw.ccEq :)
    rw [← State.cc, hccW, hccV, ← hnoted]
    exact congrArg Cc.imem (by rw [State.cc, State.cc, ← htake.core]; rfl)
  have hepoch : (w.core c).e.foldEpoch = (s.en c).foldEpoch := by
    rw [← State.en, hw.en, henV, ← hnoted]
    exact congrArg Eng.foldEpoch (by rw [State.en, State.en, ← htake.core]; rfl)
  rw [hscT, hccT, henT, State.sc, State.cc, State.en, hcore]
  refine ⟨?_, ?_, rfl, himem, ?_, ?_⟩
  · have hkeep : (forAll (maskCores u mask) coreResetOp n).hub.hl.resets = n.hub.hl.resets :=
      forAll_keep (fun t => t.hub.hl.resets) _ _ _ fun e _ t => by
        obtain ⟨y, hy, hyop⟩ := coreResetOp_core e t
        rw [hyop]
        exact hy.hub (·.hl.resets)
    rw [hkeep, ← hnoted, addReset, if_neg (by decide), State.onHl_hub]
    exact congrArg (· ++ _) (htake.hub (·.hl.resets))
  · unfold coreAfterReset
    rw [hwall]
  · unfold coreAfterReset
    rw [hepoch]
  · have hmem' : (forAll (maskCores u mask) coreResetOp n).mem = n.mem := forAll_keep State.mem _ _ _ fun e _ t =>
      (coreResetOp_within (P := ⟨false, true, true, true⟩) (within_refl _ t) rfl rfl rfl e).1 rfl
    rw [hmem', ← hnoted]
    exact htake.mem

/-! ### Module resets -/

theorem abortCommands_sends (s : State) : Sends s (abortCommands s) := by
  unfold abortCommands
  extract_lets l s₁ s₂
  have h₁ : Sends s s₁ := forAll_sends (Sends.refl s) _ fun p t ht => replyDone_sends ht ..
  have h₂ : Sends s s₂ := by
    refine forAll_sends h₁ _ fun x t ht => ?_
    extract_lets t₁ t₂ t₃ t₄ t₅
    have k₁ : Sends s t₁ := by
      unfold t₁
      split
      · exact reply_sends ht ..
      · exact ht
    have k₂ : Sends s t₂ := by
      unfold t₂
      split
      · exact reply_sends k₁ ..
      · exact k₁
    have k₃ : Sends s t₃ := forAll_sends k₂ _ fun k u hu => by
      split
      · exact replyDone_sends hu ..
      · exact hu
    have k₄ : Sends s t₄ := by
      unfold t₄
      split
      · exact replyDone_sends k₃ ..
      · exact k₃
    have k₅ : Sends s t₅ := by
      unfold t₅
      split
      · exact replyInline_sends k₄ ..
      · exact k₄
    split
    · exact replyInline_sends k₅ ..
    · exact k₅
  refine forAll_sends h₂ _ fun r t ht => ?_
  split
  · exact reply_sends ht ..
  · exact ht

theorem useCalibration_kept (s : State) : (useCalibration s).cores = s.cores ∧ (useCalibration s).mem = s.mem ∧
    (useCalibration s).net = s.net ∧ (useCalibration s).pending = s.pending ∧ (useCalibration s).hub.hl.resets = s.hub.hl.resets ∧
    (useCalibration s).hub.store = s.hub.store ∧ (useCalibration s).hub.fuses = s.hub.fuses ∧
    (useCalibration s).hub.position = s.hub.position := by
  unfold useCalibration
  dsimp only
  generalize hu : forAll allDies _ s = u
  have hkeep : u.cores = s.cores ∧ u.mem = s.mem ∧ u.net = s.net ∧ u.pending = s.pending ∧ u.hub = s.hub := by
    rw [← hu]
    exact forAll_inv (fun t : State => t.cores = s.cores ∧ t.mem = s.mem ∧ t.net = s.net ∧ t.pending = s.pending ∧ t.hub = s.hub) _ _ _
      ⟨rfl, rfl, rfl, rfl, rfl⟩ fun d _ t ht => ht
  obtain ⟨hcores, hmem, hnet, hpending, hhub⟩ := hkeep
  exact ⟨hcores, hmem, hnet, hpending, (congrArg (fun h : Hub => h.hl.resets) hhub :), (congrArg Hub.store hhub :),
    (congrArg Hub.fuses hhub :), (congrArg Hub.position hhub :)⟩

theorem onHl_cores (s : State) (f : Hl → Hl) : (s.onHl f).cores = s.cores := rfl

/-- What the state after a module reset keeps, and what it gives up (R495). -/
theorem moduleState_kept (s : State) : (moduleState s).cores = State.reset.cores ∧ (moduleState s).mem = [] ∧ (moduleState s).net = [] ∧
    (moduleState s).pending = s.pending ∧ (moduleState s).hub.hl.resets = [] ∧ (moduleState s).hub.store = s.hub.store ∧
    (moduleState s).hub.fuses = s.hub.fuses ∧ (moduleState s).hub.position = s.hub.position :=
  ⟨rfl, rfl, rfl, rfl, rfl, rfl, rfl, rfl⟩

/-- A module reset begins: the module is as after a reset, but for what it keeps (R495). -/
theorem moduleResetOp_effects (src : Option CmdSrc) (s : State) : (moduleResetOp src s).cores = State.reset.cores ∧
    (moduleResetOp src s).mem = [] ∧ (moduleResetOp src s).net = [] ∧ (moduleResetOp src s).pending = s.pending ∧
    (moduleResetOp src s).hub.hl.resets = [⟨3, 0, 0, src, []⟩] ∧ (moduleResetOp src s).hub.store = s.hub.store ∧
    (moduleResetOp src s).hub.fuses = s.hub.fuses ∧ (moduleResetOp src s).hub.position = s.hub.position := by
  have habort := abortCommands_sends s
  have hadd (u : State) : addReset 3 0 0 src u = u.onHl fun l => { l with resets := l.resets ++ [⟨3, 0, 0, src, []⟩] } := by
    rw [addReset, if_neg (by decide)]
  rw [moduleResetOp, hadd]
  generalize abortCommands s = v at habort ⊢
  obtain ⟨hcores, hmem, hnet, hpending, hresets, hstore, hfuses, hpos⟩ := useCalibration_kept (moduleState v)
  generalize useCalibration (moduleState v) = u at *
  rw [onHl_cores, State.onHl_mem, State.onHl_net, State.onHl_pending, State.onHl_hub]
  obtain ⟨kcores, kmem, knet, kpending, kresets, kstore, kfuses, kpos⟩ := moduleState_kept v
  refine ⟨hcores.trans kcores, hmem.trans kmem, hnet.trans knet, hpending.trans (kpending.trans habort.1), ?_,
    hstore.trans (kstore.trans (habort.hub (·.store))), hfuses.trans (kfuses.trans (habort.hub (·.fuses))),
    hpos.trans (kpos.trans (habort.hub (·.position)))⟩
  exact congrArg (· ++ _) (hresets.trans kresets)

theorem moduleReset_resets {src : CmdSrc} {s : State} (hfail : s.hub.pwr.fail = none) (hon : s.hub.pwr.alwaysOn = true)
    (hwho : whoHS src.who = true) (hmay : moduleMayReset s = true) (hnew : moduleResetting s = false) :
    Completes (.moduleReset src) s fun t => t.cores = State.reset.cores ∧ t.mem = [] ∧ t.net = [] ∧ t.pending = s.pending ∧
    t.hub.hl.resets = [⟨3, 0, 0, some src, []⟩] ∧ t.hub.store = s.hub.store ∧ t.hub.fuses = s.hub.fuses ∧ t.hub.position = s.hub.position := by
  have hexec : exec (.moduleReset src) s = execModuleReset src s := rfl
  unfold execModuleReset at hexec
  rw [hfail, hon, whenDue, if_pos (by rfl)] at hexec
  have htake := takeCmd_sends (Sends.refl s) 0 9 src
  generalize takeCmd 0 9 src s = u at htake hexec
  have hmay' : moduleMayReset u = true := by
    rw [← hmay]
    unfold moduleMayReset hottest
    have hdie : u.die = s.die := funext htake.die
    rw [hdie, htake.hub (·.pwr)]
  have hnew' : moduleResetting u = false := by
    unfold moduleResetting
    rw [htake.hub (·.hl.resets)]
    exact hnew
  dsimp only at hexec
  rw [hwho, hmay', hnew', Bool.not_true, if_neg Bool.false_ne_true, if_neg Bool.false_ne_true, if_neg Bool.false_ne_true] at hexec
  refine completes_of_next hexec ?_
  obtain ⟨hcores, hmem, hnet, hpending, hresets, hstore, hfuses, hpos⟩ := moduleResetOp_effects (some src) u
  exact ⟨hcores, hmem, hnet, hpending.trans htake.1, hresets, hstore.trans (htake.hub (·.store)), hfuses.trans (htake.hub (·.fuses)),
    hpos.trans (htake.hub (·.position))⟩

theorem resetNEdge_resets {l ns : Nat} {s : State} (hlow : 1000 ≤ l) (hfail : s.hub.pwr.fail = none) (hon : s.hub.pwr.alwaysOn = true)
    (hmay : moduleMayReset s = true) (hnew : moduleResetting s = false) : Completes (.resetNEdge l ns) s fun t =>
    t.cores = State.reset.cores ∧ t.mem = [] ∧ t.net = [] ∧ t.hub.hl.resets = [⟨3, 0, 0, none, []⟩] ∧ t.hub.store = s.hub.store ∧
    t.hub.fuses = s.hub.fuses := by
  have hexec : exec (.resetNEdge l ns) s = whenDue (decide (1000 ≤ l) && s.hub.pwr.fail.isNone && s.hub.pwr.alwaysOn && moduleMayReset s &&
    !moduleResetting s) (moduleResetOp none) (s.atNs ns) := rfl
  rw [decide_eq_true hlow, hfail, hon, hmay, hnew, whenDue, if_pos (by rfl)] at hexec
  obtain ⟨hcores, hmem, hnet, -, hresets, hstore, hfuses, -⟩ := moduleResetOp_effects none (s.atNs ns)
  exact completes_of_next hexec ⟨hcores, hmem, hnet, hresets, hstore, hfuses⟩

/-! ### Resets complete -/

theorem finishRings_clears (c : CoreId) (s : State) : Clears c s (forAll (List.range 16) (finishRing [] c) s) :=
  forAll_clears (Clears.refl c s) _ fun r t ht => by
    unfold finishRing
    split
    · exact onRing_clears ht r _
    · exact onRing_clears ht r _

/-- A core whose program is in order starts at instruction 0 when its reset completes (R309, R495). -/
theorem finishCore_core (c : CoreId) {s : State} (hfused : fusedOff s c = false) : ((finishCore [] c s).cc c).resetting = false ∧
    ((s.cc c).progOk = true → ((finishCore [] c s).cc c).run = .running ∧ ((finishCore [] c s).cc c).pc = 0) := by
  have hrings := finishRings_clears c s
  unfold finishCore
  rw [List.any_nil, if_neg Bool.false_ne_true]
  generalize forAll (List.range 16) (finishRing [] c) s = u at hrings ⊢
  have hprog : (u.cc c).progOk = (s.cc c).progOk := (congrArg Cc.progOk hrings.ccEq :)
  have hfused' : fusedOff (u.onCc c fun k => { k with resetting := false }) c = false := by
    unfold fusedOff
    rw [State.onCc_hub, hrings.hub (·.fuses)]
    exact hfused
  dsimp only
  rw [State.onCc_cc_self]
  by_cases hok : (s.cc c).progOk = true
  · rw [if_pos (hprog.trans hok), ccStartOp, hfused', if_neg Bool.false_ne_true, State.onCc_cc_self]
    have hdrop := ccDrop_clears (Clears.refl c (u.onCc c fun k => { k with resetting := false }))
    have hresetting : ((ccDrop c (u.onCc c fun k => { k with resetting := false })).cc c).resetting = false :=
      (congrArg Cc.resetting hdrop.ccEq :).trans (by rw [State.onCc_cc_self]; rfl)
    exact ⟨hresetting, fun _ => ⟨rfl, rfl⟩⟩
  · rw [if_neg (fun h => hok (hprog.symm.trans h)), State.onCc_cc_self]
    exact ⟨rfl, fun h => absurd h hok⟩

/-- A core's end of its reset leaves the other cores, and the hub but for messages. -/
theorem finishCore_other {c e : CoreId} (s : State) (he : c ≠ e) : SameCore e s (finishCore [] c s) := by
  have hrings := finishRings_clears c s
  have honCc (u : State) (f : Cc → Cc) : SameCore e u (u.onCc c f) := ⟨State.onCc_sc .., State.onCc_cc_ne _ _ _ _ he, State.onCc_en ..⟩
  unfold finishCore
  rw [List.any_nil, if_neg Bool.false_ne_true]
  generalize forAll (List.range 16) (finishRing [] c) s = u at hrings ⊢
  refine SameCore.trans _ _ _ ((hrings.sameCore he.symm).trans _ _ _ (honCc u fun k => { k with resetting := false })) ?_
  generalize State.onCc u c _ = v
  dsimp only
  split
  · unfold ccStartOp
    dsimp only
    split
    · exact SameCore.refl e v
    · exact SameCore.trans _ _ _ ((ccDrop_clears (Clears.refl c v)).sameCore he.symm) (honCc _ _)
  · exact SameCore.refl e v

theorem finishCore_hub (c : CoreId) (s : State) : (finishCore [] c s).hub.unsent = s.hub.unsent := by
  have hrings := finishRings_clears c s
  unfold finishCore
  rw [List.any_nil, if_neg Bool.false_ne_true]
  generalize forAll (List.range 16) (finishRing [] c) s = u at hrings ⊢
  have hstart (v : State) : (ccStartOp c 0 v).hub.unsent = v.hub.unsent := by
    unfold ccStartOp
    dsimp only
    split
    · rfl
    · exact (ccDrop_clears (Clears.refl c v)).hubEq
  dsimp only
  split
  · exact (hstart _).trans hrings.hubEq
  · exact hrings.hubEq

theorem resetComplete_cores {src : CmdSrc} {x : CtxId} {c : CoreId} {mask : BitVec 128} {l : List (CoreId × Nat)} {s : State}
    (hresets : s.hub.hl.resets = [⟨2, mask, x, some src, l⟩]) (hmask : mask.getLsbD c.val = true) (hfused : fusedOff s c = false) :
    Completes .resetComplete s fun t => t.hub.hl.resets = [] ∧ (t.cc c).resetting = false ∧
    ((s.cc c).progOk = true → (t.cc c).run = .running ∧ (t.cc c).pc = 0) ∧ Replies src 9 0 0 t ∧ t.mem = s.mem := by
  have hexec : exec .resetComplete s = execResetComplete s := rfl
  unfold execResetComplete at hexec
  rw [hresets] at hexec
  dsimp only at hexec
  rw [if_neg (by decide), if_pos (by rfl)] at hexec
  refine completes_of_next hexec ?_
  generalize hn : (s.onHl fun l => { l with resets := [] }) = n
  have hmem : c ∈ maskCores n mask := mem_maskCores.mpr ⟨hmask, hn ▸ hfused⟩
  have hfuses {u v : State} (h : v.hub.unsent = u.hub.unsent) : v.hub.fuses = u.hub.fuses := (congrArg Hub.fuses h :)
  obtain ⟨v, ⟨⟨-, hccV, -⟩, hfusesV⟩, ⟨-, hccT, -⟩, -⟩ := forAll_once (R := fun s t => SameCore c s t ∧ t.hub.fuses = s.hub.fuses)
    (fun s => ⟨SameCore.refl c s, rfl⟩) (fun s t u h h' => ⟨h.1.trans _ _ _ h'.1, h'.2.trans h.2⟩)
    (fun e t he => ⟨finishCore_other t he, hfuses (finishCore_hub e t)⟩) (nodup_maskCores n mask) hmem n
  have hfused' : fusedOff v c = false := by
    unfold fusedOff
    rw [hfusesV, ← hn]
    exact hfused
  obtain ⟨hresetting, hstarts⟩ := finishCore_core c hfused'
  have hhub : (forAll (maskCores n mask) (finishCore []) n).hub.unsent = n.hub.unsent :=
    forAll_keep (fun t => t.hub.unsent) _ _ _ fun e _ t => finishCore_hub e t
  have hmem' : (forAll (maskCores n mask) (finishCore []) n).mem = n.mem := forAll_keep State.mem _ _ _ fun e _ t =>
    (finishCore_within (P := ⟨false, true, true, true⟩) (within_refl _ t) rfl rfl [] e).1 rfl
  generalize forAll (maskCores n mask) (finishCore []) n = w at hccT hhub hmem' ⊢
  have hreply := reply_sends (Sends.refl w) src 9 0 0
  have hprog : (v.cc c).progOk = (s.cc c).progOk := by rw [hccV, ← hn]; rfl
  rw [State.cc, hreply.core, ← State.cc, hccT]
  refine ⟨(hreply.hub (·.hl.resets)).trans ((congrArg (fun h : Hub => h.hl.resets) hhub :).trans (hn ▸ rfl)), hresetting,
    fun h => hstarts (hprog.trans h), replies_reply _ _ _ _ _, hreply.mem.trans (hmem'.trans (hn ▸ rfl))⟩

theorem resetComplete_module {x : CtxId} {mask : BitVec 128} {r : Option CmdSrc} {l : List (CoreId × Nat)} {rest : List ResetRun} {s : State}
    (hresets : s.hub.hl.resets = ⟨3, mask, x, r, l⟩ :: rest) : Completes .resetComplete s fun t => t.hub.hl.resets = rest ∧
    t.cores = s.cores ∧ (s.hub.tb.master = true → s.hub.tb.extRef = false → t.hub.tb.locked = true) := by
  have hexec : exec .resetComplete s = execResetComplete s := rfl
  unfold execResetComplete at hexec
  rw [hresets] at hexec
  dsimp only at hexec
  rw [if_neg (by decide), if_neg (by decide), if_pos (by rfl)] at hexec
  refine completes_of_next hexec ?_
  have htrain (u : State) : (trainDeep u).hub = u.hub ∧ (trainDeep u).cores = u.cores := by
    unfold trainDeep
    exact ⟨forAll_keep State.hub _ _ _ fun _ _ _ => rfl, forAll_keep State.cores _ _ _ fun _ _ _ => rfl⟩
  generalize hu : (State.onTb _ fun t => { t with locked := t.locked || (t.master && !t.extRef) }) = u
  obtain ⟨hhub, hcores⟩ := htrain u
  have hlocked : s.hub.tb.master = true → s.hub.tb.extRef = false → u.hub.tb.locked = true := fun hmaster hext => by
    rw [← hu]
    show (s.hub.tb.locked || (s.hub.tb.master && !s.hub.tb.extRef)) = true
    rw [hmaster, hext]
    exact Bool.or_true _
  have hended : ((trainDeep u).onHl fun l => { l with malob := .up }).hub.hl.resets = rest ∧
      ((trainDeep u).onHl fun l => { l with malob := .up }).cores = s.cores ∧
      ((trainDeep u).onHl fun l => { l with malob := .up }).hub.tb = u.hub.tb :=
    ⟨(congrArg (fun h : Hub => h.hl.resets) hhub :).trans (hu ▸ rfl), hcores.trans (hu ▸ rfl), (congrArg Hub.tb hhub :)⟩
  generalize ((trainDeep u).onHl fun l => { l with malob := .up }) = w at hended ⊢
  obtain ⟨hresets', hcores', htb⟩ := hended
  cases r with
  | none => exact ⟨hresets', hcores', fun hm he => by rw [htb]; exact hlocked hm he⟩
  | some b =>
    have hreply := reply_sends (Sends.refl w) b 9 0 0
    have htbT := hreply.hub (·.tb)
    have hresetsT := hreply.hub (·.hl.resets)
    obtain ⟨-, -, hcoresT, -, -⟩ := hreply
    exact ⟨hresetsT.trans hresets', hcoresT.trans hcores', fun hm he => (congrArg Tb.locked (htbT.trans htb)).trans (hlocked hm he)⟩

/-- Settles O50: configurations core by core; a reset by what it notes and clears, and its end by the kind of reset. -/
theorem contextsAndResets : Obligations.ContextsAndResets := by
  unfold Obligations.ContextsAndResets
  exact fun src x c mask v s => ⟨fun k sh rt seed map => contextCfg_configures, ctxCfgCommit_open, ctxCfgCommit_locked, contextReset_resets,
    coreReset_resets, moduleReset_resets, fun l ns => resetNEdge_resets, fun l => resetComplete_cores, fun r l rest => resetComplete_module⟩

end Sys2Proof.Machine
end

section
/-! SUPPORT. Settles O28: frames on a link port (R361 to R369, R382). -/

namespace Sys2Proof.Machine

open Sys2Proof

/- Elaborated one by one, the proofs do not wait for one another's equation lemmas. -/
set_option Elab.async false

/-! ### What messages of the hub leave of a port -/

theorem hubBounce_port (h : Row) (reason : Nat) (s : State) (p : PortId) : (hubBounce h reason s).port p = s.port p := by
  have hports := (hubBounce_within (P := ⟨false, false, false, false⟩) (within_refl _ s) h reason).2.2.2 rfl
  rw [State.port, State.port, hports]

theorem bounceMsg_unrouted (plane reason : Nat) (h : Row) (s : State) (p : PortId) :
    ((bounceMsg plane reason h s).port p).unrouted = (s.port p).unrouted := by
  unfold bounceMsg
  split
  · rw [hubBounce_port]
  · exact putItem_unrouted _ s p

theorem hostEnqueue_unrouted (plane : Nat) (rows : List Row) (s : State) (p : PortId) :
    ((hostEnqueue plane rows s).port p).unrouted = (s.port p).unrouted := by
  unfold hostEnqueue
  split
  · rfl
  · dsimp only
    split_ifs
    iterate 4 exact bounceMsg_unrouted _ _ _ s p
    rfl

theorem headlandLand_unrouted (plane : Nat) (rows : List Row) (s : State) (p : PortId) :
    ((headlandLand plane rows s).port p).unrouted = (s.port p).unrouted := by
  unfold headlandLand
  split
  · rfl
  · dsimp only
    split_ifs
    · exact bounceMsg_unrouted _ _ _ s p
    · exact bounceMsg_unrouted _ _ _ s p
    · rfl
    · exact putItem_unrouted _ _ p

theorem hubDepart_unrouted (rows : List Row) (s : State) (p : PortId) : ((hubDepart rows s).port p).unrouted = (s.port p).unrouted := by
  unfold hubDepart
  split
  · rfl
  · dsimp only
    split
    · exact hostEnqueue_unrouted _ _ _ p
    · split
      · exact headlandLand_unrouted _ _ _ p
      · exact forAll_putItem_unrouted _ _ p

theorem hubRelease_unrouted (s : State) (p : PortId) : ((hubRelease s).port p).unrouted = (s.port p).unrouted := by
  unfold hubRelease
  dsimp only
  split
  · rfl
  · exact forAll_keep (fun t => (t.port p).unrouted) _ _ _ fun m _ t => hubDepart_unrouted m.1 t p

/-! ### Frames leave -/

section
variable {p : PortId} {ns : Nat} {s : State} (hup : (s.port p).state = .up)
include hup

theorem frameTransmit_new {k' : Port} {xs : List OutFlit} (hresend : (s.port p).resend = 0) (hroom : (s.port p).replay.length < 256)
    (hfill : fillSlots 13 (s.port p) [] = (k', xs)) (hxs : xs ≠ []) : Completes (.frameTransmit p ns) s fun t =>
      ∃ e ts g, g = frameOf (leadBits (s.port p).fseq false (s.port p).rseq (s.port p).nakDue e ts
        (sendsLocked (s.atNs ns).hub.tb) p.val (s.atNs ns).hub.position (s.port p).freed) xs ∧ (t.port p).wire = some g ∧
      (t.port p).replay = (s.port p).replay ++ [((s.port p).fseq, g)] ∧ (t.port p).fseq = ((s.port p).fseq + 1) % 4096 ∧
      (t.port p).seqs = (s.port p).seqs ++ [((s.port p).fseq, xs.map fun x => x.2.2)] ∧ (t.port p).nakDue = false ∧
      (t.port p).credit = k'.credit ∧ (t.port p).out = k'.out ∧ (t.port p).freed = 0 ∧ ∀ q, q ≠ p → t.port q = s.port q := by
  have hexec : exec (.frameTransmit p ns) s = execFrameTransmit p ns s := rfl
  unfold execFrameTransmit at hexec
  dsimp only at hexec
  rw [show (s.atNs ns).port p = s.port p from rfl, hup, whenDue, if_pos (by rfl), hresend, if_neg (by decide), if_pos hroom, hfill] at hexec
  refine completes_of_next hexec ?_
  have hsome : xs.isEmpty = false := List.isEmpty_eq_false_iff.mpr hxs
  rw [State.setPort_port_self, hsome]
  exact ⟨_, _, _, rfl, rfl, rfl, rfl, rfl, rfl, rfl, rfl, rfl, fun q hq => State.setPort_port_ne _ _ _ _ hq.symm⟩

theorem frameTransmit_idle (hresend : (s.port p).resend = 0) (hfill : (fillSlots 13 (s.port p) []).2 = []) :
    Completes (.frameTransmit p ns) s fun t => (t.port p).replay = (s.port p).replay ∧ (t.port p).fseq = (s.port p).fseq ∧
      (t.port p).wire.isSome ∧ ∀ q, q ≠ p → t.port q = s.port q := by
  have hexec : exec (.frameTransmit p ns) s = execFrameTransmit p ns s := rfl
  unfold execFrameTransmit at hexec
  dsimp only at hexec
  rw [show (s.atNs ns).port p = s.port p from rfl, hup, whenDue, if_pos (by rfl), hresend, if_neg (by decide)] at hexec
  obtain ⟨k', hk⟩ : ∃ k', fillSlots 13 (s.port p) [] = (k', []) := ⟨_, Prod.ext rfl hfill⟩
  by_cases hroom : (s.port p).replay.length < 256
  · rw [if_pos hroom, hk] at hexec
    refine completes_of_next hexec ?_
    rw [State.setPort_port_self]
    exact ⟨rfl, rfl, rfl, fun q hq => State.setPort_port_ne _ _ _ _ hq.symm⟩
  · rw [if_neg hroom] at hexec
    refine completes_of_next hexec ?_
    rw [State.setPort_port_self]
    exact ⟨rfl, rfl, rfl, fun q hq => State.setPort_port_ne _ _ _ _ hq.symm⟩

theorem frameTransmit_resent {n : Nat} {g : Frame} (hresend : 0 < (s.port p).resend)
    (hg : (s.port p).replay[(s.port p).replay.length - (s.port p).resend]? = some (n, g)) :
    Completes (.frameTransmit p ns) s fun t => (t.port p).resend = (s.port p).resend - 1 ∧ (t.port p).replay = (s.port p).replay ∧
      (t.port p).fseq = (s.port p).fseq ∧ (t.port p).out = (s.port p).out ∧
      (t.port p).wire = some { g with lead := resentLead g.lead (s.port p) (sendsLocked (s.atNs ns).hub.tb) } ∧
      ∀ q, q ≠ p → t.port q = s.port q := by
  have hexec : exec (.frameTransmit p ns) s = execFrameTransmit p ns s := rfl
  unfold execFrameTransmit at hexec
  dsimp only at hexec
  rw [show (s.atNs ns).port p = s.port p from rfl, hup, whenDue, if_pos (by rfl), if_pos hresend, hg] at hexec
  refine completes_of_next hexec ?_
  rw [State.setPort_port_self]
  exact ⟨rfl, rfl, rfl, rfl, rfl, fun q hq => State.setPort_port_ne _ _ _ _ hq.symm⟩

/-! ### Frames arrive -/

theorem frameReceive_uncorrectable (f : Frame) (n m : Nat) : Completes (.frameReceive p ns f (.uncorrectable n m)) s fun t =>
      (t.port p).uncorr = min 0xFF ((s.port p).uncorr + n) ∧ (t.port p).corr = min 0xFFFFFF ((s.port p).corr + m) ∧
      (t.port p).freed = min 4095 ((s.port p).freed + (frameItems f).length) ∧ (t.port p).nakDue = true ∧ (t.port p).nakOut = true ∧
      (t.port p).rseq = (s.port p).rseq ∧ (t.port p).state = .up ∧ t.net = s.net ∧ ∀ q, q ≠ p → t.port q = s.port q := by
  have hexec : exec (.frameReceive p ns f (.uncorrectable n m)) s = execFrameReceive p ns f (.uncorrectable n m) s := rfl
  unfold execFrameReceive at hexec
  dsimp only at hexec
  rw [show (s.atNs ns).port p = s.port p from rfl, hup, whenDue, if_pos (by rfl)] at hexec
  refine completes_of_next hexec ?_
  unfold discardFrame
  rw [State.onPort_port_self, State.onPort_port_self]
  refine ⟨satAdd_eq_min .., satAdd_eq_min .., satAdd_eq_min .., Bool.or_true _, Bool.or_true _, rfl, hup, rfl, fun q hq => ?_⟩
  rw [State.onPort_port_ne _ _ _ _ hq.symm, State.onPort_port_ne _ _ _ _ hq.symm]
  rfl

/-- The port when a frame that the code could read has been counted. -/
def Port.heard (n now : Nat) (k : Port) : Port := { k with corr := satAdd 0xFFFFFF k.corr n, lastLead := now }

theorem frameReceive_good {f : Frame} {n : Nat} {q : State → Prop}
    (hq : q (let u := (s.atNs ns).onPort p (Port.heard n (s.atNs ns).hub.ns)
      if ldSrcPos f.lead != (s.port p).peerPos || ldPort f.lead != (s.port p).peerPort then leaveUp p .failed u
      else if ldIdle f.lead then acceptFrame p f u
      else if ldFseq f.lead == ((s.port p).rseq + 1) % 4096 then acceptFrame p f (u.onPort p fun k => { k with rseq := (k.rseq + 1) % 4096 })
      else discardFrame p f false u)) : Completes (.frameReceive p ns f (.good n)) s q := by
  have hexec : exec (.frameReceive p ns f (.good n)) s = execFrameReceive p ns f (.good n) s := rfl
  unfold execFrameReceive at hexec
  dsimp only at hexec
  rw [show (s.atNs ns).port p = s.port p from rfl, hup, whenDue, if_pos (by rfl), State.onPort_port_self] at hexec
  exact completes_of_next hexec hq

theorem frameReceive_outOfOrder {f : Frame} {n : Nat} (hpos : ldSrcPos f.lead = (s.port p).peerPos) (hport : ldPort f.lead = (s.port p).peerPort)
    (hdata : ldIdle f.lead = false) (hseq : ldFseq f.lead ≠ ((s.port p).rseq + 1) % 4096) : Completes (.frameReceive p ns f (.good n)) s fun t =>
      (t.port p).rseq = (s.port p).rseq ∧ (t.port p).corr = min 0xFFFFFF ((s.port p).corr + n) ∧ (t.port p).lastLead = (s.atNs ns).hub.ns ∧
      (t.port p).freed = min 4095 ((s.port p).freed + (frameItems f).length) ∧ t.net = s.net := by
  refine frameReceive_good hup ?_
  dsimp only
  rw [bne_eq_false_iff_eq.mpr hpos, bne_eq_false_iff_eq.mpr hport, Bool.or_false, if_neg Bool.false_ne_true, hdata, if_neg Bool.false_ne_true,
    if_neg (mt beq_iff_eq.mp hseq)]
  unfold discardFrame
  rw [State.onPort_port_self, State.onPort_port_self]
  exact ⟨rfl, satAdd_eq_min .., rfl, satAdd_eq_min .., rfl⟩

theorem frameReceive_wrongPeer {f : Frame} {n : Nat} (hpeer : ldSrcPos f.lead ≠ (s.port p).peerPos ∨ ldPort f.lead ≠ (s.port p).peerPort) :
    Completes (.frameReceive p ns f (.good n)) s fun t =>
      (t.port p).state = .failed ∧ (t.port p).replay = [] ∧ (t.port p).fails = min 0xFF ((s.port p).fails + 1) := by
  refine frameReceive_good hup ?_
  dsimp only
  rw [if_pos (by rwa [Bool.or_eq_true, bne_iff_ne, bne_iff_ne])]
  obtain ⟨hstate, hreplay, hfails⟩ := leaveUp_port p .failed ((s.atNs ns).onPort p (Port.heard n (s.atNs ns).hub.ns))
  refine ⟨hstate, hreplay, hfails.trans ?_⟩
  rw [if_pos rfl, State.onPort_port_self]
  rfl

omit hup in
theorem timeFields_of_none {l : BitVec 384} (t4 : Nat) (u : State) (hts : ldTs l = none) : timeFields p l t4 u = u := by
  unfold timeFields
  rw [hts]

omit hup in
/-- A frame without flits and without a time stamp brings credit and acknowledgements alone (R366, R367). -/
theorem acceptFrame_empty {f : Frame} (hdata : ldIdle f.lead = false) (hts : ldTs f.lead = none) (hnak : ldNak f.lead = false)
    (hnone : frameItems f = []) : ∃ v, acceptFrame p f s = hubRelease v ∧ (v.port p).rseq = (s.port p).rseq ∧
      (v.port p).credit = min 1024 ((s.port p).credit + ldCredit f.lead) ∧ (v.port p).state = (s.port p).state ∧ (v.port p).nakOut = false ∧
      (v.port p).nakDue = (s.port p).nakDue ∧ v.hub = s.hub ∧ v.net = s.net := by
  unfold acceptFrame
  rw [hnone, hdata, hnak]
  simp only [timeFields_of_none _ _ hts, ite_self]
  refine ⟨_, rfl, ?_⟩
  rw [forAll_nil, ackFrames]
  dsimp only
  rw [if_neg Bool.false_ne_true, State.setPort_port_self, State.onPort_port_self]
  exact ⟨rfl, satAdd_eq_min .., rfl, rfl, rfl, rfl, rfl⟩

theorem frameReceive_inOrder {f : Frame} {n : Nat} (hpos : ldSrcPos f.lead = (s.port p).peerPos) (hport : ldPort f.lead = (s.port p).peerPort)
    (hdata : ldIdle f.lead = false) (hseq : ldFseq f.lead = ((s.port p).rseq + 1) % 4096) (hts : ldTs f.lead = none)
    (hnak : ldNak f.lead = false) (hnone : frameItems f = []) : Completes (.frameReceive p ns f (.good n)) s fun t =>
      (t.port p).rseq = ldFseq f.lead ∧ (t.port p).credit = min 1024 ((s.port p).credit + ldCredit f.lead) ∧ (t.port p).state = .up ∧
      (t.port p).nakOut = false ∧ (s.port p).nakDue = (t.port p).nakDue ∧ (s.hub.hl.wout = [] → t.net = s.net) := by
  refine frameReceive_good hup ?_
  dsimp only
  rw [bne_eq_false_iff_eq.mpr hpos, bne_eq_false_iff_eq.mpr hport, Bool.or_false, if_neg Bool.false_ne_true, hdata, if_neg Bool.false_ne_true,
    if_pos (beq_iff_eq.mpr hseq)]
  generalize hu : State.onPort (State.onPort _ p (Port.heard n _)) p _ = u
  have huport : u.port p = { (s.port p).heard n (s.atNs ns).hub.ns with rseq := ((s.port p).rseq + 1) % 4096 } := by
    rw [← hu, State.onPort_port_self, State.onPort_port_self]
    rfl
  have huhub : u.hub = (s.atNs ns).hub := by rw [← hu]; rfl
  have hunet : u.net = s.net := by rw [← hu]; rfl
  obtain ⟨v, hv, hrseq, hcredit, hstate, hout, hdue, hhub, hnet⟩ := acceptFrame_empty (p := p) (f := f) (s := u) hdata hts hnak hnone
  rw [huport] at hrseq hcredit hstate hdue
  have hkept := hubRelease_unrouted v p
  rw [hv]
  refine ⟨?_, ?_, ?_, ?_, ?_, fun hwout => ?_⟩
  · exact (congrArg Port.rseq hkept :).trans (hrseq.trans hseq.symm)
  · exact (congrArg Port.credit hkept :).trans hcredit
  · exact (congrArg Port.state hkept :).trans (hstate.trans hup)
  · exact (congrArg Port.nakOut hkept :).trans hout
  · exact ((congrArg Port.nakDue hkept :).trans hdue).symm
  · rw [hubRelease_of_none (by rw [hhub, huhub]; exact hwout), hnet, hunet]
end

/-- Settles O28: what a port sends by the state of its buffers, and what it takes from a frame by its lead flit. -/
theorem framesAreSentAndReceived : Obligations.FramesAreSentAndReceived := by
  unfold Obligations.FramesAreSentAndReceived
  rintro p ns n f s a rfl
  simp only [show (s.atNs ns).port p = s.port p from rfl]
  intro hup
  exact ⟨fun k' xs => frameTransmit_new hup, frameTransmit_idle hup, fun g => frameTransmit_resent hup, fun m => frameReceive_uncorrectable hup f n m,
    frameReceive_outOfOrder hup, frameReceive_inOrder hup, frameReceive_wrongPeer hup⟩

end Sys2Proof.Machine
end

section
/-! SUPPORT. How an instruction of a control core is fetched, retires and traps; and settles O18 and O19: the instructions of RV32IM
(R308 to R313). -/

namespace Sys2Proof.Machine

open Sys2Proof

/- Elaborated one by one, the proofs do not wait for one another's equation lemmas. -/
set_option Elab.async false

/-! ### Registers -/

/-- A register as it reads after a write of register `rd` (R308: x0 stays 0). -/
theorem regGet_regSet {r : Nat} (rd : Nat) (v : Word) (k : Cc) (hr : r < 32) :
    regGet (regSet rd v k) r = if r = 0 then 0 else if r = rd then v else regGet k r := by
  by_cases h0 : r = 0
  · simp [regGet, h0]
  · by_cases hrd : r = rd
    · subst hrd
      simp [regGet, regSet, h0, hr]
    · have hne : rd ≠ r := fun h => hrd h.symm
      by_cases hz : rd = 0 <;> simp [regGet, regSet, h0, hrd, hz, vget_vset_ne _ _ _ _ _ hne]

/-- A register part without its registers and what retirement alters. -/
def Cc.unretired (k : Cc) : Cc := { k with regs := Cc.reset.regs, pc := 0, minstret := 0, readyAt := 0 }

theorem regSet_unretired (rd : Nat) (v : Word) (k : Cc) : (regSet rd v k).unretired = k.unretired := by
  by_cases h : (rd == 0) = true <;> simp [regSet, h, Cc.unretired]

theorem regSet_of_zero (v : Word) (k : Cc) : regSet 0 v k = k := rfl

section
variable (c : CoreId) (s : State)

theorem regGet_congr {k k' : Cc} (h : k.regs = k'.regs) (r : Nat) : regGet k r = regGet k' r := by
  rw [regGet, regGet, h]

@[simp] theorem setReg_cc_self (rd : Reg) (v : Nat) : (setReg c rd v s).cc c = regSet rd.val (BitVec.ofNat 32 v) (s.cc c) :=
  State.onCc_cc_self s c _

@[simp] theorem ccRetire_cc_self (pc : Word) (n : Nat) :
    (ccRetire c pc n s).cc c = { s.cc c with pc := pc, minstret := (s.cc c).minstret + 1, readyAt := (s.sc c).wall + 4 * n } :=
  State.onCc_cc_self s c _

theorem onlyCore_setReg (rd : Reg) (v : Nat) : OnlyCore c s (setReg c rd v s) := onlyCore_onCc c s _

theorem onlyCore_ccRetire (pc : Word) (n : Nat) : OnlyCore c s (ccRetire c pc n s) := onlyCore_onCc c s _

theorem onlyCore_ccNext (n : Nat) : OnlyCore c s (ccNext c n s) := onlyCore_ccRetire c s _ n

theorem ccNext_pc (n : Nat) : ((ccNext c n s).cc c).pc = (s.cc c).pc + 4 := by rw [ccNext, ccRetire_cc_self]

theorem ccNext_regs (n : Nat) : ((ccNext c n s).cc c).regs = (s.cc c).regs := by rw [ccNext, ccRetire_cc_self]

theorem regSet_pc (rd : Nat) (v : Word) (k : Cc) : (regSet rd v k).pc = k.pc := by
  by_cases h : (rd == 0) = true <;> simp [regSet, h]

/-- The retirement of an instruction with result `v` in `rd` (R310). -/
theorem retires_regSet (pc : Word) (n rd : Nat) (v : Word) : Retires c pc n rd v s (ccRetire c pc n (s.onCc c (regSet rd v))) := by
  have hmask := regSet_unretired rd v (s.cc c)
  have hcount : (regSet rd v (s.cc c)).minstret = (s.cc c).minstret := by
    by_cases h : (rd == 0) = true <;> simp [regSet, h]
  refine ⟨?_, ?_, ?_, ?_, fun r hr => ?_⟩
  · rw [ccRetire_cc_self]
  · rw [ccRetire_cc_self]
    exact congrArg (· + 1) ((congrArg Cc.minstret (State.onCc_cc_self s c _)).trans hcount)
  · rw [ccRetire_cc_self, State.onCc_sc]
  · rw [ccRetire_cc_self, State.onCc_cc_self]
    exact (congrArg Cc.run hmask :)
  · rw [ccRetire_cc_self, State.onCc_cc_self]
    exact regGet_regSet rd v _ hr

theorem onlyCore_retire (pc : Word) (n : Nat) (f : Cc → Cc) : OnlyCore c s (ccRetire c pc n (s.onCc c f)) :=
  (onlyCore_onCc c s f).trans (onlyCore_ccRetire c _ pc n)

/-- The retirement of an instruction without a result, after an effect that leaves the registers, the count and the mode as they were. -/
theorem retires_plain {s t : State} (pc : Word) (n : Nat) (v : Word) (hregs : (t.cc c).regs = (s.cc c).regs)
    (hcount : (t.cc c).minstret = (s.cc c).minstret) (hrun : (t.cc c).run = (s.cc c).run) (hwall : (t.sc c).wall = (s.sc c).wall) :
    Retires c pc n 0 v s (ccRetire c pc n t) := by
  refine ⟨?_, ?_, ?_, ?_, fun r hr => ?_⟩
  · rw [ccRetire_cc_self]
  · rw [ccRetire_cc_self, hcount]
  · rw [ccRetire_cc_self, hwall]
  · rw [ccRetire_cc_self, hrun]
  · rw [ccRetire_cc_self]
    refine (regGet_congr hregs r).trans ?_
    by_cases h0 : r = 0 <;> simp [h0, regGet]

/-- A custom instruction that returns `v`, after an effect that leaves program counter and registers as they were (R317). -/
theorem returns_of_setReg {s t : State} (rd : Reg) (v n : Nat) (hpc : (t.cc c).pc = (s.cc c).pc) :
    Returns c rd v s (ccNext c n (setReg c rd v t)) := by
  constructor
  · rw [ccNext_pc, setReg_cc_self, regSet_pc, hpc]
  · rw [regGet_congr (ccNext_regs c _ n), setReg_cc_self, regGet_regSet _ _ _ rd.isLt, if_pos rfl]
end

/-! ### Faults and traps -/

/-- A control core's registers without what a fault record and the trace unit alter (R300, R320, R328). -/
def Cc.unposted (k : Cc) : Cc :=
  { k with ring := [], lost := 0, lostBefore := false, seq := 0, events := 0, evAt := Cc.reset.evAt, traceBuf := [], traceDrop := 0 }

theorem cc_onCc_mask {c : CoreId} {f : Cc → Cc} (s : State) (hf : ∀ k, (f k).unposted = k.unposted) :
    ((s.onCc c f).cc c).unposted = (s.cc c).unposted := by
  rw [State.onCc_cc_self, hf]

theorem trace_unposted (c : CoreId) (q kind tag : Nat) (s : State) : ((trace c q kind tag s).cc c).unposted = (s.cc c).unposted := by
  unfold trace
  dsimp only
  split
  · exact cc_onCc_mask s fun k => by split <;> rfl
  · rfl

/-- A fault record takes its place in the core's ring, or is counted as lost, and changes nothing else of the control core. -/
theorem postFault_unposted (c : CoreId) (f : Flt) (s : State) : ((postFault c f s).cc c).unposted = (s.cc c).unposted := by
  unfold postFault
  extract_lets sc cc room inStall flags strip bits u v
  have hu : (u.cc c).unposted = (s.cc c).unposted := cc_onCc_mask s fun k => by split <;> rfl
  have hv : (v.cc c).unposted = (u.cc c).unposted := by
    unfold v
    split
    · exact (congrArg Cc.unposted (State.onCore_cc_self u c (raiseEvent 2))).trans rfl
    · rfl
  rw [trace_unposted, headlandCopy_cc, hv, hu]

/-- The registers of a control core that has trapped (R311). -/
def Cc.halted (cause : Nat) (info : Word) (k : Cc) : Cc :=
  { k with mcause := BitVec.ofNat 32 cause, mepc := k.pc, mtval := Config.trapVal cause info,
           trap := (BitVec.ofNat 32 cause, k.pc, Config.trapVal cause info), trapped := true, run := .halted, hdlActive := false }

theorem ccTrap_unposted (c : CoreId) (cause : Nat) (info : Word) (s : State) :
    ((ccTrap c cause info s).cc c).unposted = ((s.cc c).halted cause info).unposted := by
  unfold ccTrap
  dsimp only
  rw [postFault_unposted, State.onCc_cc_self]
  rfl

theorem ccTrap_unflagged (c c' : CoreId) (cause : Nat) (info : Word) (s : State) :
    ((ccTrap c cause info s).sc c').unflagged = (s.sc c').unflagged := by
  unfold ccTrap
  dsimp only
  rw [postFault_unflagged, State.onCc_sc]

theorem sc_of_unflagged {a b : Sched} (h : a.unflagged = b.unflagged) : a = { b with hwSet := a.hwSet } :=
  congrArg (fun k : Sched => { k with hwSet := a.hwSet }) h

/-- A trap halts the control core with its cause and place noted; the schedule goes on (R311). -/
theorem ccTrap_halts (c : CoreId) (cause : Nat) (info : Word) (s : State) :
    ((ccTrap c cause info s).cc c).run = .halted ∧ ((ccTrap c cause info s).cc c).mcause = BitVec.ofNat 32 cause ∧
    ((ccTrap c cause info s).cc c).mepc = (s.cc c).pc ∧ ((ccTrap c cause info s).cc c).trapped = true ∧
    ((ccTrap c cause info s).cc c).regs = (s.cc c).regs ∧
    (ccTrap c cause info s).sc c = { s.sc c with hwSet := ((ccTrap c cause info s).sc c).hwSet } := by
  have hcc := ccTrap_unposted c cause info s
  exact ⟨(congrArg Cc.run hcc :), (congrArg Cc.mcause hcc :), (congrArg Cc.mepc hcc :), (congrArg Cc.trapped hcc :),
    (congrArg Cc.regs hcc :), sc_of_unflagged (ccTrap_unflagged c c cause info s)⟩

/-! ### Fetch -/

theorem rvStep_of_fetches {c : CoreId} {w : Nat} {a : State} (e : Ecc) (h : Fetches a c w) :
    rvStep c .clean e a = rvExec c e (BitVec.ofNat 32 w) 4 w a := by
  obtain ⟨-, hpc, hlen, hw⟩ := h
  rw [rvStep]
  dsimp only [ccMemEcc]
  rw [if_neg (by omega), if_neg (by decide), hlen, if_neg (by decide), if_neg (by omega), hw]

theorem completes_of_fetches {c : CoreId} {n w : Nat} {e : Ecc} {s a : State} {p : State → Prop} (ha : a = advance c n s)
    (h : Fetches a c w) (hp : p (rvExec c e (BitVec.ofNat 32 w) 4 w a)) : Completes (.ccInstruction c n .clean e) s p := by
  subst ha
  refine completes_of_dueAt (due := (ccIssues · c)) (f := rvStep c .clean e) (execCcInstruction c n .clean e) h.1 ?_
  rwa [rvStep_of_fetches e h]

/-! ### Arithmetic -/

/-- An instruction with a result retires, and nothing outside its core changes. -/
theorem rvResult_retires (c : CoreId) (n rd : Nat) (v : Word) (a : State) :
    Retires c ((a.cc c).pc + 4) n rd v a (rvResult c 4 n rd v a) ∧ OnlyCore c a (rvResult c 4 n rd v a) := by
  have hpc : ((a.onCc c (regSet rd v)).cc c).pc = (a.cc c).pc := by rw [State.onCc_cc_self, regSet_pc]
  rw [rvResult, rvNext, hpc]
  exact ⟨retires_regSet c a _ n rd v, onlyCore_retire c a _ n _⟩

theorem rvCsr_hartid {c : CoreId} {raw : Word} {rd : Nat} {a : State} :
    rvCsr c raw 4 2 rd 0 0xF14 a = rvResult c 4 1 rd (BitVec.ofNat 32 c.val) a := rfl

/-- Settles O18: by the opcode and funct fields, each arithmetic instruction is one operation with a result. -/
theorem arithmeticInstructions : Obligations.ArithmeticInstructions := by
  unfold Obligations.ArithmeticInstructions
  intro c n w e s a ha hf rd f3 f7 x y hrd h3 h7 hx hy
  subst hrd hx hy
  have hresult : ∀ k v, rvExec c e (BitVec.ofNat 32 w) 4 w a = rvResult c 4 k (bitsOf w 7 5) v a →
      Completes (.ccInstruction c n .clean e) s fun t =>
        Retires c ((a.cc c).pc + 4) k (bitsOf w 7 5) v a t ∧ OnlyCore c a t := fun k v h =>
    completes_of_fetches ha hf (h ▸ rvResult_retires c k _ v a)
  refine ⟨fun hop hf7 => hresult _ _ ?_, fun hop hf7 hf3 => hresult _ _ ?_, fun hop hf7 => hresult _ _ ?_, fun hop h1 h5 => hresult _ _ ?_,
    fun hop => hresult _ _ ?_, fun hop => hresult _ _ ?_, fun hop hsh => hresult _ _ ?_, fun hop hf3 hr1 hn => hresult _ _ ?_⟩
  · simp [rvExec, hop, ← h7, ← h3, hf7]
  · simp [rvExec, hop, ← h7, ← h3, hf7, hf3]
  · simp [rvExec, hop, ← h7, ← h3, hf7]
  · simp [rvExec, hop, ← h7, ← h3, h1, beq_false_of_ne h5]
  · simp [rvExec, hop]
  · simp [rvExec, hop]
  · rcases hsh with ⟨hf3, hf7⟩ | ⟨hf3, hf7⟩ | ⟨hf3, hf7⟩ <;> simp [rvExec, hop, ← h7, ← h3, hf3, hf7, aluOp]
  · have hne : (w == 0x73) = false ∧ (w == 0x100073) = false := by
      constructor <;> refine beq_false_of_ne fun h => ?_ <;> subst h <;> rw [h3] at hf3 <;> exact absurd hf3 (by decide)
    simp only [rvExec, hop, rvSystem, ← h3, hf3, hr1, hn, hne]
    rw [if_neg (by decide), if_neg (by decide), if_neg (by decide), rvCsr_hartid]

end Sys2Proof.Machine
end

section
/-! SUPPORT. Settles O19: jumps, branches, loads, stores and traps (R308, R310 to R312). -/

namespace Sys2Proof.Machine

open Sys2Proof

/- Elaborated one by one, the proofs do not wait for one another's equation lemmas. -/
set_option Elab.async false

/-! ### Bytes -/

theorem cellGet_filter {p : Host.Cell → Bool} {b : Nat} (m : List Host.Cell) (h : ∀ x ∈ m, x.1 = b → p x = true) :
    cellGet (m.filter p) b = cellGet m b := by
  induction m with
  | nil => rfl
  | cons x m ih =>
    obtain ⟨hx, hm⟩ := List.forall_mem_cons.mp h
    by_cases hp : p x = true
    · rw [List.filter_cons_of_pos hp, cellGet_cons, cellGet_cons, ih hm]
    · rw [List.filter_cons_of_neg hp, ih hm, cellGet_cons, if_neg fun hb => hp (hx hb)]

/-- A byte outside the written ones stays as it was. -/
theorem cellGet_writeCells_ne (m : List Host.Cell) (bs : List Byte) {a b : Nat} (h : b < a ∨ a + bs.length ≤ b) :
    cellGet (writeCells m a bs) b = cellGet m b := by
  have hnew : ∀ x ∈ newCells a bs, x.1 ≠ b := fun x hx => by
    have := (mem_newCells hx)
    omega
  rw [writeCells]
  rcases h with hb | hb
  · have habove : ∀ x ∈ m.filter (fun x => a + bs.length ≤ x.1), x.1 ≠ b := fun x hx => by
      have := of_decide_eq_true (List.mem_filter.mp hx).2
      omega
    rw [cellGet_append_of_absent_right _ habove, cellGet_append_of_absent_right _ hnew, cellGet_filter]
    exact fun x _ hx => decide_eq_true (hx ▸ hb)
  · have hbelow : ∀ x ∈ m.filter (fun x => x.1 < a), x.1 ≠ b := fun x hx => by
      have := of_decide_eq_true (List.mem_filter.mp hx).2
      omega
    rw [List.append_assoc, cellGet_append_of_absent_left _ hbelow, cellGet_append_of_absent_left _ hnew, cellGet_filter]
    exact fun x _ hx => decide_eq_true (hx ▸ hb)

/-- A stored number's bytes read back, lowest first. -/
theorem cellGet_writeCells_leBytes (m : List Host.Cell) (a k v : Nat) {i : Nat} (hi : i < k) :
    cellGet (writeCells m a (leBytes k v)) (a + i) = BitVec.ofNat 8 (v / 2 ^ (8 * i)) := by
  have hlen : i < (leBytes k v).length := by rwa [leBytes_length]
  have hget := leBytes_getElem? v hi
  rw [List.getElem?_eq_getElem hlen] at hget
  rw [cellGet_writeCells_self m a hlen, Option.some.inj hget, pow_256_eq]

/-! ### Jumps and branches -/

theorem rvJump_retires (c : CoreId) (rd : Nat) (target : Word) (a : State) :
    Retires c (target &&& 0xFFFFFFFE#32) 2 rd ((a.cc c).pc + 4) a (rvJump c 4 rd target a) ∧ OnlyCore c a (rvJump c 4 rd target a) :=
  ⟨retires_regSet c a _ 2 rd _, onlyCore_retire c a _ 2 _⟩

theorem ccRetire_retires (c : CoreId) (pc : Word) (n : Nat) (a : State) :
    Retires c pc n 0 0 a (ccRetire c pc n a) ∧ OnlyCore c a (ccRetire c pc n a) :=
  ⟨retires_plain c pc n 0 rfl rfl rfl rfl, onlyCore_ccRetire c a pc n⟩

/-! ### Loads and stores of data memory -/

theorem ccPlace_dmem {b : Nat} (hlo : 0x10000 ≤ b) (hhi : b < 0x20000) : ccPlace b = .dmem := by
  rw [ccPlace, if_neg (by omega), if_pos hhi]

theorem rvLoad_dmem {c : CoreId} {f3 size rd b : Nat} {a : State} (hal : b % size = 0) (hlo : 0x10000 ≤ b) (hhi : b < 0x20000) :
    rvLoad c .clean 4 f3 size rd b a =
      rvResult c 4 2 rd (BitVec.ofNat 32 (loadExt f3 size (readCells (a.cc c).dmem (b - 0x10000) size))) a := by
  simp [rvLoad, hal, ccPlace_dmem hlo hhi, ccMemEcc, eccBad, rvResult]

/-- The store of the low `k` bytes of `v` in data memory. -/
def storeBytes (c : CoreId) (b k : Nat) (v : Word) (a : State) : State :=
  a.onCc c fun m => { m with dmem := writeCells m.dmem (b - 0x10000) (leBytes k v.toNat) }

theorem storeBytes_cc (c : CoreId) (b k : Nat) (v : Word) (a : State) :
    (storeBytes c b k v a).cc c = { a.cc c with dmem := writeCells (a.cc c).dmem (b - 0x10000) (leBytes k v.toNat) } :=
  State.onCc_cc_self a c _

theorem rvStore_dmem {c : CoreId} {size b : Nat} {v : Word} {a : State} (hal : b % size = 0) (hlo : 0x10000 ≤ b) (hhi : b < 0x20000) :
    rvStore c 4 size b v a =
      rvNext c 4 2 (storeBytes c b size v a) := by
  simp [storeBytes, rvStore, hal, ccPlace_dmem hlo hhi]

theorem rvResult_dmem (c : CoreId) (n rd : Nat) (v : Word) (a : State) : ((rvResult c 4 n rd v a).cc c).dmem = (a.cc c).dmem := by
  rw [rvResult, rvNext, ccRetire_cc_self, State.onCc_cc_self]
  exact (congrArg Cc.dmem (regSet_unretired rd v (a.cc c)) :)

/-- A store's retirement, the bytes it writes and those it leaves. -/
theorem rvStore_dmem_retires (c : CoreId) (b k : Nat) (v : Word) (a : State) :
    let t := rvNext c 4 2 (storeBytes c b k v a)
    Retires c ((a.cc c).pc + 4) 2 0 0 a t ∧ OnlyCore c a t ∧
    (∀ i, i < k → cellGet (t.cc c).dmem (b - 0x10000 + i) = BitVec.ofNat 8 (v.toNat / 2 ^ (8 * i))) ∧
    ∀ i, i < b - 0x10000 ∨ b - 0x10000 + k ≤ i → cellGet (t.cc c).dmem i = cellGet (a.cc c).dmem i := by
  intro t
  have hcc := storeBytes_cc c b k v a
  have ht : t = ccRetire c ((a.cc c).pc + 4) 2 (storeBytes c b k v a) := by
    unfold t
    rw [rvNext, hcc]
    rfl
  have hd : (t.cc c).dmem = writeCells (a.cc c).dmem (b - 0x10000) (leBytes k v.toNat) := by
    rw [ht, ccRetire_cc_self, hcc]
  refine ⟨?_, ?_, fun i hi => ?_, fun i hi => ?_⟩
  · rw [ht]
    exact retires_plain c _ 2 0 (by rw [hcc]) (by rw [hcc]) (by rw [hcc]) (by rw [storeBytes, State.onCc_sc])
  · rw [ht]
    exact onlyCore_retire c a _ 2 _
  · rw [hd, cellGet_writeCells_leBytes _ _ _ _ hi]
  · rw [hd, cellGet_writeCells_ne _ _ (by rwa [leBytes_length])]

/-! ### Traps -/

theorem rvLoad_misaligned {c : CoreId} {f3 size rd b : Nat} {a : State} (hal : b % size ≠ 0) :
    rvLoad c .clean 4 f3 size rd b a = ccTrap c 4 (BitVec.ofNat 32 b) a := by
  simp [rvLoad, hal]

/-- Settles O19: by the opcode and funct3, and by the address for the loads and stores. -/
theorem controlAndMemoryInstructions : Obligations.ControlAndMemoryInstructions := by
  unfold Obligations.ControlAndMemoryInstructions
  intro c n w s a ha hf rd f3 x y hrd h3 hx hy
  subst hrd hx hy
  have hrun : ∀ {t : State} {p : State → Prop}, rvExec c .clean (BitVec.ofNat 32 w) 4 w a = t → p t →
      Completes (.ccInstruction c n .clean .clean) s p := fun h hp => completes_of_fetches ha hf (h ▸ hp)
  refine ⟨fun hop => hrun ?_ (rvJump_retires c _ _ a), fun hop hf3 => hrun ?_ (rvJump_retires c _ _ a), fun b hop hb => ?_,
    fun b hop hn3 h5 hb hal hlo hhi => ?_, fun b hop h2 hb hal hlo hhi => ?_,
    fun b hop hn3 h5 hb hal => hrun ?_ (ccTrap_halts c 4 (BitVec.ofNat 32 b) a),
    fun hw => hrun ?_ (ccTrap_halts c 11 0 a), fun hop => hrun ?_ (ccTrap_halts c 2 (BitVec.ofNat 32 w) a)⟩
  · simp [rvExec, hop]
  · simp [rvExec, hop, ← h3, hf3]
  · refine hrun ?_ (ccRetire_retires c _ _ a)
    cases b <;> simp [rvExec, hop, ← h3, hb, rvNext]
  · refine hrun (t := rvResult c 4 2 _ _ a) ?_ ⟨(rvResult_retires c 2 _ _ a).1, rvResult_dmem c 2 _ _ a, (rvResult_retires c 2 _ _ a).2⟩
    rw [← rvLoad_dmem hal hlo hhi, hb]
    simp [rvExec, hop, ← h3, hn3, h5]
  · refine hrun ?_ (rvStore_dmem_retires c b (2 ^ f3) _ a)
    rw [← rvStore_dmem hal hlo hhi, hb]
    simp [rvExec, hop, ← h3, h2]
  · rw [← rvLoad_misaligned hal (rd := bitsOf w 7 5) (f3 := f3), hb]
    simp [rvExec, hop, ← h3, hn3, h5]
  · subst hw
    rfl
  · simp only [rvExec, hop]
    rfl

end Sys2Proof.Machine
end

section
/-! SUPPORT. Starting, halting and programming control cores (R6, R311, R316, R331): the first part of O20. -/

namespace Sys2Proof.Machine

open Sys2Proof

/- Elaborated one by one, the proofs do not wait for one another's equation lemmas. -/
set_option Elab.async false

/-! ### What halting leaves -/

theorem exists_core_ne (c : CoreId) : ∃ e : CoreId, e ≠ c := by
  by_cases h : c = 0
  · exact ⟨1, by rw [h]; decide⟩
  · exact ⟨0, fun h' => h h'.symm⟩

/-- The allocator's work leaves every core's schedule, engine and control core. -/
theorem serve_sameCore (d : DieId) (c : CoreId) (s : State) : SameCore c s (serve d s) := by
  obtain ⟨e, he⟩ := exists_core_ne c
  exact (serve_clears (Clears.refl e s) d).sameCore he.symm

theorem ccDrop_sc (c : CoreId) (s : State) : (ccDrop c s).sc c = s.sc c := by
  unfold ccDrop
  dsimp only
  rw [(serve_sameCore _ _ _).1, State.onCc_sc]
  rfl

theorem ccDrop_cc (c : CoreId) (s : State) : (ccDrop c s).cc c = { s.cc c with winOp := none, halloc := none } := by
  unfold ccDrop
  dsimp only
  rw [(serve_sameCore _ _ _).2.1, State.onCc_cc_self]
  rfl

theorem ccHaltOp_cc (c : CoreId) (s : State) :
    (ccHaltOp c s).cc c = { s.cc c with winOp := none, halloc := none, run := .halted, hdlActive := false } := by
  rw [ccHaltOp, State.onCc_cc_self, ccDrop_cc]

theorem ccHaltOp_sc (c : CoreId) (s : State) : (ccHaltOp c s).sc c = s.sc c := by
  rw [ccHaltOp, State.onCc_sc, ccDrop_sc]

/-- The control core of a position that has one starts (R6, R331). -/
theorem ccStartOp_cc {c : CoreId} (pc : Nat) {s : State} (h : fusedOff s c = false) :
    (ccStartOp c pc s).cc c =
      { s.cc c with winOp := none, halloc := none, pc := BitVec.ofNat 32 (pc / 2 * 2), trapped := false, run := .running, hdlActive := false,
                    readyAt := (s.sc c).wall } := by
  unfold ccStartOp
  dsimp only
  rw [h, if_neg (by decide), State.onCc_cc_self, ccDrop_cc]

theorem ccStartOp_fused {c : CoreId} (pc : Nat) {s : State} (h : fusedOff s c = true) : ccStartOp c pc s = s := by
  unfold ccStartOp
  exact if_pos h

/-! ### Start and halt -/

section
variable (c : CoreId) (s : State)

theorem ccStart_starts (pc : BitVec 16) (h : fusedOff s c = false) : Completes (.ccStart c pc) s fun t =>
    (t.cc c).run = .running ∧ (t.cc c).pc = BitVec.ofNat 32 (pc.toNat / 2 * 2) ∧ (t.cc c).trapped = false ∧
    (t.cc c).regs = (s.cc c).regs ∧ (t.cc c).dmem = (s.cc c).dmem := by
  have hcc := ccStartOp_cc (c := c) pc.toNat (s := s.onCc c fun k => { k with startPc := pc.toNat / 2 * 2 }) h
  rw [State.onCc_cc_self] at hcc
  exact completes_of_next rfl
    ⟨(congrArg Cc.run hcc :), (congrArg Cc.pc hcc :), (congrArg Cc.trapped hcc :), (congrArg Cc.regs hcc :), (congrArg Cc.dmem hcc :)⟩

theorem ccStart_fused (pc : BitVec 16) (h : fusedOff s c = true) :
    Completes (.ccStart c pc) s fun t => (t.cc c).run = (s.cc c).run ∧ OnlyCore c s t := by
  refine completes_of_next rfl ?_
  rw [ccStartOp_fused _ (by exact h), State.onCc_cc_self]
  exact ⟨rfl, onlyCore_onCc c s _⟩

theorem ccHalt_halts : Completes (.ccHalt c) s fun t => (t.cc c).run = .halted ∧ (t.cc c).hdlActive = false ∧
    (t.cc c).pc = (s.cc c).pc ∧ (t.cc c).regs = (s.cc c).regs ∧ t.sc c = s.sc c := by
  have hcc := ccHaltOp_cc c s
  exact completes_of_next rfl 
    ⟨(congrArg Cc.run hcc :), (congrArg Cc.hdlActive hcc :), (congrArg Cc.pc hcc :), (congrArg Cc.regs hcc :), ccHaltOp_sc c s⟩

theorem faultLostClear_clears : Completes (.faultLostClear c) s fun t => t.cc c = { s.cc c with lost := 0 } ∧ OnlyCore c s t :=
  completes_of_next rfl ⟨State.onCc_cc_self s c _, onlyCore_onCc c s _⟩

/-! ### Core programs -/

/-- The named cores but those on fused-off positions (R6, R316). -/
def programmed (s : State) (mask : BitVec 128) : List CoreId := allCores.filter fun c => mask.getLsbD c.val && !fusedOff s c

/-- One core is halted and its copy begins. -/
def beginCopy (row rows : Nat) (dg : BitVec 256) (c : CoreId) (s : State) : State :=
  (ccHaltOp c s).onCc c fun k => { k with progCopy := some ⟨row, rows, dg, (s.sc c).wall, [], 0⟩ }

theorem beginCopy_other (row rows : Nat) (dg : BitVec 256) {e : CoreId} (he : e ≠ c) : SameCore c s (beginCopy row rows dg e s) := by
  have hdrop := (ccDrop_clears (Clears.refl e s)).sameCore he.symm
  unfold beginCopy ccHaltOp
  refine SameCore.trans s _ _ hdrop ⟨?_, ?_, ?_⟩
  · rw [State.onCc_sc, State.onCc_sc]
  · rw [State.onCc_cc_ne _ _ _ _ he, State.onCc_cc_ne _ _ _ _ he]
  · rw [State.onCc_en, State.onCc_en]

theorem beginCopy_cc (row rows : Nat) (dg : BitVec 256) : ((beginCopy row rows dg c s).cc c).run = .halted ∧
    ((beginCopy row rows dg c s).cc c).progCopy = some ⟨row, rows, dg, (s.sc c).wall, [], 0⟩ := by
  rw [beginCopy, State.onCc_cc_self, ccHaltOp_cc]
  exact ⟨rfl, rfl⟩

theorem coreProgram_begins {src : CmdSrc} {mask : BitVec 128} {row rows : Nat} {dg : BitVec 256} (h : TakesCommand s 2 whoHS src)
    (hmask : mask.getLsbD c.val = true) (hfused : fusedOff s c = false) (hrows : rows ≤ 128) (hfit : row + 128 + rows ≤ 12288)
    (hidle : ∀ k, (s.cc k).progCopy = none) : Completes (.coreProgram src mask row rows dg) s fun t =>
      (t.cc c).run = .halted ∧ (t.cc c).progCopy = some ⟨row, rows, dg, (s.sc c).wall, [], 0⟩ ∧ Replies src 2 0 0 t := by
  have hmem : c ∈ programmed s mask := by
    simp [programmed, mem_allCores, hmask, hfused]
  have hempty : (programmed s mask).isEmpty = false := List.isEmpty_eq_false_iff_exists_mem.mpr ⟨c, hmem⟩
  have hany : ((programmed s mask).any fun c => (s.cc c).progCopy.isSome) = false :=
    List.any_eq_false.mpr fun k _ => by simp [hidle k]
  have hexec := hlCommand_of_takes (s := s) (allowed := whoHS) (src := src) (fun s =>
    let cs := programmed s mask
    if 128 < rows || 12288 < row + 128 + rows || cs.isEmpty then reply src 2 3 0 s
    else if cs.any fun c => (s.cc c).progCopy.isSome then reply src 2 1 0 s
    else
      let named : BitVec 128 := BitVec.ofNat 128 (cs.foldl (fun n c => n + 2 ^ c.val) 0)
      reply src 2 0 0 ((forAll cs (beginCopy row rows dg) s).onHl fun l => { l with progs := l.progs ++ [(src, named, false)] })) h
  generalize hv : takeCmd 0 2 src s = v at hexec
  have hvc : ∀ k, v.cc k = s.cc k := fun k => hv ▸ rfl
  have hvs : v.sc c = s.sc c := hv ▸ rfl
  have hcs : programmed v mask = programmed s mask := hv ▸ rfl
  dsimp only at hexec
  have hrange : (decide (128 < rows) || decide (12288 < row + 128 + rows) || (programmed v mask).isEmpty) = false := by
    rw [hcs, hempty, decide_eq_false (by omega), decide_eq_false (by omega)]
    rfl
  have hbusy : ((programmed v mask).any fun c => (v.cc c).progCopy.isSome) = false := by
    simp only [hvc, hcs, hany]
  rw [if_neg (by rw [hrange]; decide), if_neg (by rw [hbusy]; decide)] at hexec
  refine completes_of_next hexec ?_
  obtain ⟨u, hu, hlast⟩ := forAll_once (SameCore.refl c) (SameCore.trans (c := c)) (f := beginCopy row rows dg)
    (fun e t he => beginCopy_other c t row rows dg he) ((List.nodup_finRange 128).filter _) (hcs ▸ hmem) v
  obtain ⟨hrun, hcopy⟩ := beginCopy_cc c u row rows dg
  refine ⟨?_, ?_, replies_reply _ _ _ _ _⟩
  · rw [State.cc, (reply_sends (Sends.refl _) ..).core]
    exact (congrArg Cc.run hlast.2.1).trans hrun
  · rw [State.cc, (reply_sends (Sends.refl _) ..).core]
    refine (congrArg Cc.progCopy hlast.2.1).trans ?_
    rw [hcopy, hu.1, hvs]

/-! ### The end of a copy -/

theorem noteEcc_clean (a : Nat) : noteEcc s a .clean = s := rfl

theorem progRows_clean (g : ProgCopy) : progRows c g [] s = (g.got, s) := by
  have h : ∀ (l : List (Row × Nat)) (acc : List Row) (t : State),
      l.foldl (fun (a : List Row × State) y => (a.1 ++ [eccRow (errAt [] y.2) y.1],
        noteEcc a.2 (plotAddr c (g.row + y.2)) (errAt [] y.2))) (acc, t) = (acc ++ l.map Prod.fst, t) := by
    intro l
    induction l with
    | nil => intro acc t; simp
    | cons y ys ih => intro acc t; simpa [errAt, eccRow, noteEcc_clean] using ih (acc ++ [y.1]) t
  have hz := h g.got.zipIdx [] s
  rw [List.nil_append, List.zipIdx_map_fst] at hz
  exact hz

theorem progDone_cc (failed : Bool) (e : CoreId) : (progDone c failed s).cc e = s.cc e := by
  unfold progDone
  split
  · rfl
  · dsimp only
    split
    · rw [State.cc, (replyDone_sends (Sends.refl _) ..).core]
      rfl
    · rfl

/-- The registers of a control core whose program memory is written (R316). -/
def Cc.loaded (bytes : List Byte) (k : Cc) : Cc :=
  { k with progCopy := none, imem := newCells 0 (bytes.take 65536), dmem := newCells 0 (bytes.drop 65536) }

theorem cellGet_newCells_take {bytes : List Byte} (hlen : 65536 ≤ bytes.length) {i : Nat} (hi : i < 65536) :
    cellGet (newCells 0 (bytes.take 65536)) i = bytes.getD i 0 := by
  have hlt : i < (bytes.take 65536).length := by rw [List.length_take]; omega
  have hget := cellGet_newCells 0 hlt
  rw [Nat.zero_add] at hget
  rw [hget, List.getElem_take, List.getD_eq_getElem _ _ (by omega)]

theorem length_flatMap_bytes (rows : List Row) : (rows.flatMap Row.bytes).length = 512 * rows.length := by
  induction rows with
  | nil => rfl
  | cons r rs ih => rw [List.flatMap_cons, List.length_append, ih, Row.bytes_length, List.length_cons]; omega

section
variable {c} {g : ProgCopy} {n : Nat} {s a : State} (ha : a = advance c n s) (hg : (a.cc c).progCopy = some g)
  (hlen : g.got.length = 128 + g.dataRows)
include hg hlen

/-- A copy without read errors ends by its digest (R316). -/
theorem copyDone_clean : copyDone c [] a = .next
    (if BitVec.ofNat 256 (digestNat (sha256 (g.got.flatMap Row.bytes))) = g.digest then
      progDone c false (ccStartOp c 0 ((a.onCc c (Cc.loaded (g.got.flatMap Row.bytes))).onCc c fun k =>
        { k with progOk := true, progDigest := g.digest }))
    else progDone c true ((a.onCc c (Cc.loaded (g.got.flatMap Row.bytes))).onCc c fun k => { k with imem := [] })) := by
  have hclean : ((List.range g.got.length).all fun k => !eccBad (errAt [] k)) = true := List.all_eq_true.mpr fun _ _ => rfl
  rw [copyDone, hg]
  dsimp only
  rw [whenDue_of_due (by rw [hlen]; exact beq_self_eq_true _), progRows_clean]
  dsimp only
  rw [hclean, Bool.and_true]
  simp only [beq_iff_eq]
  rfl

include ha

theorem coreProgramCopyDone_accepts (hfused : fusedOff a c = false)
    (hdg : BitVec.ofNat 256 (digestNat (sha256 (g.got.flatMap Row.bytes))) = g.digest) :
    Completes (.coreProgramCopyDone ⟨⟨c, n⟩, []⟩) s fun t =>
      (t.cc c).run = .running ∧ (t.cc c).pc = 0 ∧ (t.cc c).progOk = true ∧ (t.cc c).progDigest = g.digest ∧ (t.cc c).progCopy = none ∧
      ∀ i, i < 65536 → cellGet (t.cc c).imem i = (g.got.flatMap Row.bytes).getD i 0 := by
  have hbytes : 65536 ≤ (g.got.flatMap Row.bytes).length := by rw [length_flatMap_bytes, hlen]; omega
  have hexec := copyDone_clean hg hlen
  rw [if_pos hdg] at hexec
  generalize g.got.flatMap Row.bytes = bytes at hexec hbytes ⊢
  subst ha
  refine completes_of_next hexec ?_
  generalize hu : ((advance c n s).onCc c (Cc.loaded bytes)).onCc c (fun k => { k with progOk := true, progDigest := g.digest }) = u
  have hfu : fusedOff u c = false := hu ▸ hfused
  have huc : u.cc c = { ((advance c n s).cc c).loaded bytes with progOk := true, progDigest := g.digest } := by
    rw [← hu, State.onCc_cc_self, State.onCc_cc_self]
  have hcc := (progDone_cc c (ccStartOp c 0 u) false c).trans (ccStartOp_cc 0 hfu)
  rw [huc] at hcc
  refine ⟨(congrArg Cc.run hcc :), (congrArg Cc.pc hcc :), (congrArg Cc.progOk hcc :), (congrArg Cc.progDigest hcc :),
    (congrArg Cc.progCopy hcc :), fun i hi => ?_⟩
  rw [show _ = newCells 0 (bytes.take 65536) from congrArg Cc.imem hcc, cellGet_newCells_take hbytes hi]

theorem coreProgramCopyDone_refuses (hdg : BitVec.ofNat 256 (digestNat (sha256 (g.got.flatMap Row.bytes))) ≠ g.digest) :
    Completes (.coreProgramCopyDone ⟨⟨c, n⟩, []⟩) s fun t =>
      (t.cc c).run = (a.cc c).run ∧ (t.cc c).imem = [] ∧ (t.cc c).progCopy = none ∧ (t.cc c).progOk = (a.cc c).progOk := by
  have hexec := copyDone_clean hg hlen
  rw [if_neg hdg] at hexec
  generalize g.got.flatMap Row.bytes = bytes at hexec
  subst ha
  refine completes_of_next hexec ?_
  rw [progDone_cc, State.onCc_cc_self, State.onCc_cc_self]
  exact ⟨rfl, rfl, rfl, rfl⟩
end
end

end Sys2Proof.Machine
end

section
/-! SUPPORT. Settles O20: ctl.wfe, ctl.hret, ctl.fclr, ctl.sum and the stake instructions (R317, R319, R329 to R331), with the commands that start,
halt and program control cores. -/

namespace Sys2Proof.Machine

open Sys2Proof

/- Elaborated one by one, the proofs do not wait for one another's equation lemmas. -/
set_option Elab.async false

/-! ### When a custom instruction takes effect -/

section
variable {c : CoreId} {n : Nat} {s a : State} {i : Instr} {p : State → Prop}

theorem ccCommand_of_issues (f : State → State) (ha : a = advance c n s) (h : ccIssues a c = true) : ccCommand c n f s = .next (f a) := by
  subst ha
  exact atCore_of_due (due := (ccIssues · c)) f h

theorem completes_of_issues {f : State → State} (e : State → Answer) (ha : a = advance c n s) (h : ccIssues a c = true) (hp : p (f a))
    (hi : exec i s = e s := by rfl) (he : e s = ccCommand c n f s := by rfl) : Completes i s p :=
  completes_of_next (hi.trans (he.trans (ccCommand_of_issues f ha h))) hp
end

theorem ctlGuard_of_ok {ok : Bool} (c : CoreId) (word : Word) (f : State → State) (s : State) (h : ok = true) :
    ctlGuard ok c word f s = f s := by
  rw [ctlGuard, if_pos h]

theorem onlyCore_ccNext_setReg {c : CoreId} {s t : State} (rd : Reg) (v n : Nat) (h : OnlyCore c s t) :
    OnlyCore c s (ccNext c n (setReg c rd v t)) :=
  (h.trans (onlyCore_setReg c t rd v)).trans (onlyCore_ccNext c _ n)

/-! ### ctl.wfe and ctl.hret -/

section
variable (c : CoreId) (s : State)

/-- ctl.wfe clears the events it returns (R319). -/
theorem wfeReturn_cc (rd : Nat) (mask : BitVec 6) : (wfeReturn c rd mask s).cc c =
    { regSet rd (BitVec.ofNat 32 (eventsSeen s c &&& mask).toNat)
        { s.cc c with events := (s.cc c).events &&& ~~~(eventsSeen s c &&& mask), run := .running } with
      pc := (s.cc c).pc + 4, minstret := (s.cc c).minstret + 1, readyAt := (s.sc c).wall + 4 } := by
  unfold wfeReturn
  dsimp only
  rw [ccNext, ccRetire_cc_self, State.onCc_cc_self, State.onCc_sc, regSet_pc]
  by_cases h : (rd == 0) = true <;> simp [regSet, h]

theorem onlyCore_wfeReturn (rd : Nat) (mask : BitVec 6) : OnlyCore c s (wfeReturn c rd mask s) :=
  (onlyCore_onCc c s _).trans (onlyCore_ccNext c _ 1)

theorem wfeReturn_events (rd : Nat) (mask : BitVec 6) :
    ((wfeReturn c rd mask s).cc c).events = (s.cc c).events &&& ~~~(eventsSeen s c &&& mask) := by
  rw [wfeReturn_cc]
  exact (congrArg Cc.events (regSet_unretired rd _ _) :)

theorem wfeReturn_run (rd : Nat) (mask : BitVec 6) : ((wfeReturn c rd mask s).cc c).run = .running := by
  rw [wfeReturn_cc]
  exact (congrArg Cc.run (regSet_unretired rd _ _) :)

theorem wfeReturn_regGet {rd r : Nat} (mask : BitVec 6) (hr : r < 32) : regGet ((wfeReturn c rd mask s).cc c) r =
    if r = 0 then 0 else if r = rd then BitVec.ofNat 32 (eventsSeen s c &&& mask).toNat else regGet (s.cc c) r := by
  rw [wfeReturn_cc]
  exact regGet_regSet rd _ _ hr
end

section
variable {c : CoreId} {n : Nat} {rd r1 r2 : Reg} {s a : State} (ha : a = advance c n s)
include ha

theorem ctlWfe_waited (hrun : (a.cc c).run = .wfe) (hrd : (a.cc c).wfeRd < 32) (hedge : ccEdge (a.sc c) = true)
    (hdue : wfeDue a c = some (ccCyc (a.sc c))) (hmsg : dispatches a c = false) : Completes (.ctlWfe c n rd r1) s fun t =>
      (t.cc c).run = .running ∧ (t.cc c).pc = (a.cc c).pc + 4 ∧
      (t.cc c).events = (a.cc c).events &&& ~~~(eventsSeen a c &&& (a.cc c).wfeMask) ∧
      regGet (t.cc c) (a.cc c).wfeRd =
        (if (a.cc c).wfeRd = 0 then 0 else BitVec.ofNat 32 (eventsSeen a c &&& (a.cc c).wfeMask).toNat) ∧ OnlyCore c a t := by
  have hexec : exec (.ctlWfe c n rd r1) s = execCtlWfe c n rd r1 s := rfl
  unfold execCtlWfe at hexec
  dsimp only at hexec
  rw [← ha, hrun, if_pos (by rfl), hedge, hdue, hmsg, whenDue_of_due (by simp)] at hexec
  refine completes_of_next hexec ⟨wfeReturn_run .., ?_, wfeReturn_events .., ?_, onlyCore_wfeReturn ..⟩
  · rw [wfeReturn_cc]
  · rw [wfeReturn_regGet c a _ hrd, if_pos rfl]

section
variable (h : ccIssues a c = true)
include h

theorem ctlWfe_of_running (hrun : (a.cc c).run = .running) : exec (.ctlWfe c n rd r1) s = .next (instWfe c rd r1 a) := by
  have hexec : exec (.ctlWfe c n rd r1) s = execCtlWfe c n rd r1 s := rfl
  unfold execCtlWfe at hexec
  dsimp only at hexec
  rwa [← ha, hrun, if_neg (by decide), whenDue_of_due h] at hexec

theorem ctlWfe_returns (hrun : (a.cc c).run = .running) (hmask : a.reg c r1 < 64) (hev : eventsSeen a c &&& BitVec.ofNat 6 (a.reg c r1) ≠ 0)
    (hmsg : dispatches a c = false) : Completes (.ctlWfe c n rd r1) s fun t =>
      (t.cc c).events = (a.cc c).events &&& ~~~(eventsSeen a c &&& BitVec.ofNat 6 (a.reg c r1)) ∧
      Returns c rd (eventsSeen a c &&& BitVec.ofNat 6 (a.reg c r1)).toNat a t ∧ OnlyCore c a t := by
  have hinst : instWfe c rd r1 a = wfeReturn c rd.val (BitVec.ofNat 6 (a.reg c r1)) a := by
    unfold instWfe
    dsimp only
    rw [ctlGuard_of_ok _ _ _ _ (by simp [hrun, hmask]), if_pos (by rw [hmsg, Bool.not_false, Bool.and_true]; exact bne_iff_ne.mpr hev)]
  refine completes_of_next (ctlWfe_of_running ha h hrun) ?_
  rw [hinst]
  refine ⟨wfeReturn_events .., ⟨?_, ?_⟩, onlyCore_wfeReturn ..⟩
  · rw [wfeReturn_cc]
  · rw [wfeReturn_regGet c a _ rd.isLt, if_pos rfl]

theorem ctlWfe_waits (hrun : (a.cc c).run = .running) (hmask : a.reg c r1 < 64) (hev : eventsSeen a c &&& BitVec.ofNat 6 (a.reg c r1) = 0) :
    Completes (.ctlWfe c n rd r1) s fun t =>
      (t.cc c).run = .wfe ∧ (t.cc c).pc = (a.cc c).pc ∧ (t.cc c).regs = (a.cc c).regs ∧ OnlyCore c a t := by
  refine completes_of_next (ctlWfe_of_running ha h hrun) ?_
  unfold instWfe
  dsimp only
  rw [ctlGuard_of_ok _ _ _ _ (by simp [hrun, hmask]), if_neg (by simp [hev]), State.onCc_cc_self]
  exact ⟨rfl, rfl, rfl, onlyCore_onCc c a _⟩

theorem ctlHret_returns (hrun : (a.cc c).run = .handler) : Completes (.ctlHret c n) s fun t =>
      (t.cc c).run = .running ∧ (t.cc c).pc = (a.cc c).wfePc ∧ (t.cc c).hdlActive = false ∧ (t.cc c).regs = (a.cc c).regs ∧ OnlyCore c a t := by
  refine completes_of_issues (execCtlHret c n) ha h ?_
  unfold instHret
  rw [ctlGuard_of_ok _ _ _ _ (by rw [hrun]; rfl), ccRetire_cc_self, State.onCc_cc_self]
  exact ⟨rfl, rfl, rfl, rfl, onlyCore_retire c a _ 2 _⟩

/-! ### The faulted state and the summaries -/

theorem ctlFclr_clears (hrun : (a.sc c).run = .faulted) (hlaunch : (a.sc c).launch = none) : Completes (.ctlFclr c n) s fun t =>
      (t.sc c).run = .idle ∧ (t.sc c).cause = .none ∧ (t.sc c).stk = (a.sc c).stk ∧ (t.sc c).hq = (a.sc c).hq ∧
      (t.cc c).pc = (a.cc c).pc + 4 ∧ OnlyCore c a t := by
  have hclear : clearFaulted c a = (a.onSc c fun sc => { sc with stopping := false }).onSc c fun sc =>
      { sc with run := .idle, cause := .none, which := 0 } := by
    unfold clearFaulted launchStep
    dsimp only
    rw [hrun, if_pos (by rfl), State.onSc_sc_self, State.onSc_sc_self, hlaunch]
  refine completes_of_issues (execCtlFclr c n) ha h ?_
  unfold instFclr
  rw [hclear, ccNext_pc, State.onSc_cc, State.onSc_cc, ccNext, ccRetire_sc, State.onSc_sc_self, State.onSc_sc_self]
  exact ⟨rfl, rfl, rfl, rfl, rfl, ((onlyCore_onSc c a _).trans (onlyCore_onSc c _ _)).trans (onlyCore_ccNext c _ 1)⟩

theorem ctlSum_reads (hn : a.reg c r1 < 8) : Completes (.ctlSum c n rd r1) s fun t =>
      Returns c rd ((vget (sumsNow a c) SumSlot.reset (a.reg c r1)).value.toNat % 2 ^ 32) a t ∧ (t.en c).sums = (a.en c).sums ∧
      OnlyCore c a t := by
  have hdiv : a.reg c r1 / 8 = 0 := Nat.div_eq_of_lt hn
  have hmod : a.reg c r1 % 8 = a.reg c r1 := Nat.mod_eq_of_lt hn
  refine completes_of_issues (execCtlSum c n rd r1) ha h ?_
  unfold instSum
  dsimp only
  rw [ctlGuard_of_ok _ _ _ _ (decide_eq_true (by omega)), hdiv, hmod, if_pos (by rfl)]
  simp only [sumWord, BitVec.toNat_ofNat, Nat.mod_mod]
  refine ⟨returns_of_setReg c rd _ 1 (by rw [State.onE_cc]), ?_, onlyCore_ccNext_setReg rd _ 1 (onlyCore_onE c a _)⟩
  rw [ccNext, ccRetire_en, setReg_en, State.onE_en_self]

/-! ### Stakes -/

theorem ctlStkrd_reads (hk : a.reg c r1 < 48) : Completes (.ctlStkrd c n rd r1) s fun t =>
      Returns c rd (vget (a.sc c).stk0 0 (a.reg c r1)).toNat a t ∧ t.sc c = a.sc c ∧ OnlyCore c a t := by
  refine completes_of_issues (execCtlStkrd c n rd r1) ha h ?_
  unfold instStkrd
  dsimp only
  rw [ctlGuard_of_ok _ _ _ _ (decide_eq_true hk)]
  refine ⟨returns_of_setReg c rd _ 1 rfl, ?_, onlyCore_ccNext_setReg rd _ 1 (OnlyCore.refl c a)⟩
  rw [ccNext, ccRetire_sc, setReg_sc]

theorem ctlStkclr_clears (hk : a.reg c r1 < 48) (hstrip : (a.sc c).strip = none) (hlaunch : (a.sc c).launch = none) :
    Completes (.ctlStkclr c n rd r1) s fun t =>
      (t.sc c).stk = vset (a.sc c).stk (a.reg c r1) 0 ∧ Returns c rd 0 a t ∧ OnlyCore c a t := by
  refine completes_of_issues (execCtlStkclr c n rd r1) ha h ?_
  unfold instStkclr
  dsimp only
  rw [ctlGuard_of_ok _ _ _ _ (decide_eq_true hk), hstrip, hlaunch, if_neg (by decide)]
  refine ⟨?_, returns_of_setReg c rd _ 1 (by rw [State.onSc_cc]), onlyCore_ccNext_setReg rd _ 1 (onlyCore_onSc c a _)⟩
  rw [ccNext, ccRetire_sc, setReg_sc, State.onSc_sc_self]

theorem ctlStkclr_refused (hk : a.reg c r1 < 48) (hbusy : (a.sc c).strip.isSome ∨ (a.sc c).launch.isSome) :
    Completes (.ctlStkclr c n rd r1) s fun t => (t.sc c).stk = (a.sc c).stk ∧ Returns c rd 1 a t ∧ OnlyCore c a t := by
  refine completes_of_issues (execCtlStkclr c n rd r1) ha h ?_
  unfold instStkclr
  dsimp only
  rw [ctlGuard_of_ok _ _ _ _ (decide_eq_true hk), if_pos (by simpa using hbusy)]
  refine ⟨?_, returns_of_setReg c rd _ 1 rfl, onlyCore_ccNext_setReg rd _ 1 (OnlyCore.refl c a)⟩
  rw [ccNext, ccRetire_sc, setReg_sc]

theorem ctlStkadd_adds (hk : a.reg c r1 < 48) (hlo : 1 ≤ a.reg c r2) (hhi : a.reg c r2 ≤ 255)
    (hdebug : debugMode a c = true → (vget (a.sc c).stk 0 (a.reg c r1)).toNat + a.reg c r2 ≤ 255) :
    Completes (.ctlStkadd c n r1 r2) s fun t =>
      (vget (t.sc c).stk 0 (a.reg c r1)).toNat = min 255 ((vget (a.sc c).stk 0 (a.reg c r1)).toNat + a.reg c r2) ∧
      (t.sc c).stk0 = (a.sc c).stk0 ∧ (t.cc c).pc = (a.cc c).pc + 4 ∧ (t.cc c).regs = (a.cc c).regs := by
  refine completes_of_issues (execCtlStkadd c n r1 r2) ha h ?_
  unfold instStkadd
  dsimp only
  rw [ctlGuard_of_ok _ _ _ _ (by simp [hk, hlo, hhi])]
  have harr : arriveNow c none 0 (a.reg c r1) (a.reg c r2) (a.cc c).tag a =
      addStake c (a.reg c r1) (a.reg c r2) 5 (a.cc c).tag (trace c 3 2 (a.cc c).tag a) := rfl
  generalize htr : trace c 3 2 (a.cc c).tag a = u at harr
  have husc : u.sc c = a.sc c := by rw [← htr, trace_sc]
  have hover : (stakeOverflows u c (a.reg c r1) (a.reg c r2) && debugMode u c) = false := by
    have hdie : debugMode u c = debugMode a c := by rw [debugMode, ← htr, trace_die, debugMode]
    rw [hdie, stakeOverflows, husc]
    cases hd : debugMode a c
    · exact Bool.and_false _
    · rw [decide_eq_false (Nat.not_lt.mpr (hdebug hd)), Bool.and_false, Bool.false_and]
  have hadd : addStake c (a.reg c r1) (a.reg c r2) 5 (a.cc c).tag u = arriveStake c (a.reg c r1) (a.reg c r2) u := by
    unfold addStake
    dsimp only
    rw [hover, Bool.false_and, if_neg (by decide)]
  have hcc : ((arriveStake c (a.reg c r1) (a.reg c r2) u).cc c).unposted = (a.cc c).unposted := by
    rw [arriveStake_cc, ← htr, trace_unposted]
  rw [harr, ccNext, ccRetire_sc, ccRetire_cc_self]
  refine ⟨?_, ?_, ?_, ?_⟩
  · rw [(addStake_stk_stkOvf c _ _ _ _ u).1, toNat_vget_stakeAdd_stk _ _ hk, husc, Nat.min_comm]
  · rw [eq_of_mask Sched.unstaked Sched.stk0 (addStake_unstaked c c _ _ _ _ u), husc]
  · rw [hadd]
    exact congrArg (· + 4) ((congrArg Cc.pc hcc :))
  · rw [hadd]
    exact ((congrArg Cc.regs hcc :))
end
end

/-- Settles O20: each command and instruction by its own lemma. -/
theorem coreControlInstructions : Obligations.CoreControlInstructions := by
  unfold Obligations.CoreControlInstructions
  refine ⟨fun c s => ⟨fun pc h => ccStart_starts c s pc h, fun pc h => ccStart_fused c s pc h, ccHalt_halts c s,
      fun src mask row rows dg h hm hf hr hfit hidle => coreProgram_begins c s h hm hf hr hfit hidle,
      fun n a g ha hg hlen hf hdg => coreProgramCopyDone_accepts ha hg hlen hf hdg,
      fun n a g ha hg hlen hdg => coreProgramCopyDone_refuses ha hg hlen hdg, faultLostClear_clears c s⟩,
    fun c n rd r1 s a ha hrun hrd he hd hm => ctlWfe_waited ha hrun hrd he hd hm, fun c n rd r1 r2 s a ha h => ?_⟩
  exact ⟨fun hrun hm hev hd => ctlWfe_returns ha h hrun hm hev hd, fun hrun hm hev => ctlWfe_waits ha h hrun hm hev,
    fun hrun => ctlHret_returns ha h hrun, fun hrun hl => ctlFclr_clears ha h hrun hl, fun hn => ctlSum_reads ha h hn,
    fun hk => ctlStkrd_reads ha h hk, fun hk hlo hhi hd => ctlStkadd_adds ha h hk hlo hhi hd,
    fun hk hs hl => ctlStkclr_clears ha h hk hs hl, fun hk hb => ctlStkclr_refused ha h hk hb⟩

end Sys2Proof.Machine
end

section
/-! SUPPORT. Settles O21: handles and the allocator's answers (R105 to R111, R317, R318). -/

namespace Sys2Proof.Machine

open Sys2Proof

/- Elaborated one by one, the proofs do not wait for one another's equation lemmas. -/
set_option Elab.async false

/-! ### Fields of handles -/

theorem fld_hPut_self (w : IWord) {lo len : Nat} (v : Nat) (h : lo + len ≤ 128) : (hPut w lo len v).fld lo len = v % 2 ^ len := by
  refine Nat.eq_of_testBit_eq fun j => ?_
  rw [IWord.fld, bitsOf, hPut, BitVec.toNat_ofNat, Nat.testBit_mod_two_pow, Nat.testBit_mod_two_pow, Nat.testBit_div_two_pow]
  by_cases hj : j < len
  · rw [Nat.testBit_mod_two_pow, decide_eq_true (by omega : j + lo < 128), Bool.true_and, testBit_setBits, if_pos (by omega),
      Nat.add_sub_cancel]
  · rw [decide_eq_false hj, Bool.false_and, Bool.false_and]

/-- A field keeps its value when a field before or behind it is put. -/
theorem fld_hPut_of_disjoint (w : IWord) {lo len lo' len' : Nat} (v : Nat) (h : lo + len ≤ 128) (hdis : lo' + len' ≤ lo ∨ lo + len ≤ lo') :
    (hPut w lo' len' v).fld lo len = w.fld lo len := by
  refine Nat.eq_of_testBit_eq fun j => ?_
  rw [IWord.fld, IWord.fld, bitsOf, bitsOf, hPut, BitVec.toNat_ofNat, Nat.testBit_mod_two_pow, Nat.testBit_mod_two_pow,
    Nat.testBit_div_two_pow, Nat.testBit_div_two_pow]
  by_cases hj : j < len
  · rw [Nat.testBit_mod_two_pow, decide_eq_true (by omega : j + lo < 128), Bool.true_and, testBit_setBits, if_neg (by omega)]
  · rw [decide_eq_false hj, Bool.false_and, Bool.false_and]

/-- A write of a handle keeps its generation (R108). -/
theorem hGen_handleWrite (old v : IWord) : hGen (handleWrite old v) = hGen old := by
  have hlt : hGen old < 2 ^ 8 := Nat.mod_lt _ (by decide)
  rw [hGen, handleWrite, fld_hPut_of_disjoint, fld_hPut_of_disjoint, fld_hPut_of_disjoint, fld_hPut_of_disjoint, fld_hPut_self,
    Nat.mod_eq_of_lt hlt] <;> omega

theorem hRes_released (w : IWord) : hRes (hPut (hPut w 6 8 (hGen w + 1)) 4 2 3) = 3 := by
  rw [hRes, fld_hPut_self _ _ (by decide)]
  rfl

theorem hGen_released (w : IWord) : hGen (hPut (hPut w 6 8 (hGen w + 1)) 4 2 3) = (hGen w + 1) % 256 := by
  rw [hGen, fld_hPut_of_disjoint _ _ (by decide) (by decide), fld_hPut_self _ _ (by decide)]
  rfl

/-! ### Handles of a core -/

theorem handle_setHandle_self (c : CoreId) {h : Nat} (w : IWord) (s : State) (hh : h < 64) : handle (setHandle c h w s) c h = w := by
  rw [handle, setHandle, State.onM_cm_self, vget_vset_self _ _ _ _ hh]

theorem handle_setHandle_ne (c : CoreId) {h k : Nat} (w : IWord) (s : State) (hk : k ≠ h) : handle (setHandle c h w s) c k = handle s c k := by
  rw [handle, setHandle, State.onM_cm_self, vget_vset_ne _ _ _ _ _ hk.symm, handle]

theorem handle_congr {s t : State} {c : CoreId} (h : t.cm c = s.cm c) (k : Nat) : handle t c k = handle s c k := by
  rw [handle, h, handle]

section
variable {c : CoreId} {n : Nat} {rd r1 r2 : Reg} {s a : State} (ha : a = advance c n s) (h : ccIssues a c = true)

/-! ### ctl.hset -/

theorem writeHandle_cm (c : CoreId) (k : Nat) (v : IWord) (s : State) :
    (writeHandle c k v s).cm c = { s.cm c with handles := vset (s.cm c).handles k (handleWrite (vget (s.cm c).handles 0 k) v) } := by
  rw [writeHandle, State.onCore_cm_self]
  rfl

theorem handle_writeHandle_self (c : CoreId) {k : Nat} (v : IWord) (s : State) (hk : k < 64) :
    handle (writeHandle c k v s) c k = handleWrite (handle s c k) v := by
  rw [handle, writeHandle_cm, vget_vset_self _ _ _ _ hk, handle]

theorem handle_writeHandle_ne (c : CoreId) {k j : Nat} (v : IWord) (s : State) (hj : j ≠ k) :
    handle (writeHandle c k v s) c j = handle s c j := by
  rw [handle, writeHandle_cm, vget_vset_ne _ _ _ _ _ hj.symm, handle]

theorem writeHandle_pc (c : CoreId) (k : Nat) (v : IWord) (s : State) : ((writeHandle c k v s).cc c).pc = (s.cc c).pc := by
  rw [writeHandle, State.onCore_cc_self]
  rfl

/-- The handle that ctl.hset leaves, and what it returns. -/
theorem hset_retires {k : Nat} (v : IWord) (hk : k < 64) :
    let t := ccNext c 5 (setReg c rd 0 (writeHandle c k v a))
    handle t c k = handleWrite (handle a c k) v ∧ hGen (handle t c k) = hGen (handle a c k) ∧
    (∀ j, j ≠ k → handle t c j = handle a c j) ∧ Returns c rd 0 a t ∧ OnlyCore c a t := by
  intro t
  have ht : ∀ j, handle t c j = handle (writeHandle c k v a) c j := handle_congr (by unfold t; rw [ccNext_cm, setReg_cm])
  have hself : handle t c k = handleWrite (handle a c k) v := (ht k).trans (handle_writeHandle_self c v a hk)
  exact ⟨hself, by rw [hself, hGen_handleWrite], fun j hj => (ht j).trans (handle_writeHandle_ne c v a hj),
    returns_of_setReg c rd 0 5 (writeHandle_pc c _ v a), onlyCore_ccNext_setReg rd 0 5 (onlyCore_onCore c a _)⟩

include ha h

theorem ctlHset_sets (hk : a.reg c r1 < 64) (hal : a.reg c r2 % 16 = 0) (hlo : 0x10000 ≤ a.reg c r2) (hhi : a.reg c r2 < 0x20000) :
    Completes (.ctlHset c n rd r1 ⟨r2, []⟩) s fun t =>
      handle t c (a.reg c r1) = handleWrite (handle a c (a.reg c r1))
        (BitVec.ofNat 128 (readCells (a.cc c).dmem (a.reg c r2 - 0x10000) 16)) ∧
      hGen (handle t c (a.reg c r1)) = hGen (handle a c (a.reg c r1)) ∧
      (∀ k, k ≠ a.reg c r1 → handle t c k = handle a c k) ∧ Returns c rd 0 a t ∧ OnlyCore c a t := by
  refine completes_of_issues (execCtlHset c n rd r1 ⟨r2, []⟩) ha h ?_
  have hrange : (decide (a.reg c r2 < dmemBase) || decide (2 * dmemBase ≤ a.reg c r2)) = false := by
    rw [decide_eq_false (by unfold dmemBase; omega), decide_eq_false (by unfold dmemBase; omega)]
    rfl
  unfold instHset
  dsimp only
  rw [ctlGuard_of_ok _ _ _ _ (by simp [hk, hal]), hrange, if_neg (by decide), if_neg (by decide)]
  exact hset_retires _ hk

/-! ### ctl.hrel -/

omit ha h in
theorem freeHandle_cc_kept (k : Nat) (s : State) : ((freeHandle c k s).cc c).unringed = (s.cc c).unringed :=
  (freeHandle_clears (Clears.refl c s) k).ccEq

omit ha h in
/-- Releasing a handle frees its extent and leaves it free with the next generation (R108). -/
theorem releaseHandle_handle {k : Nat} (b : State) (hk : k < 64) (hb : b = freeHandle c k a) :
    handle (ccNext c 1 (releaseHandle c k a)) c k = hPut (hPut (handle b c k) 6 8 (hGen (handle b c k) + 1)) 4 2 3 ∧
    (∀ j, j ≠ k → handle (ccNext c 1 (releaseHandle c k a)) c j = handle b c j) ∧
    ((ccNext c 1 (releaseHandle c k a)).cc c).pc = (a.cc c).pc + 4 := by
  have hcm : ∀ j, handle (ccNext c 1 (releaseHandle c k a)) c j =
      handle (setHandle c k (hPut (hPut (handle b c k) 6 8 (hGen (handle b c k) + 1)) 4 2 3) b) c j := fun j => by
    subst hb
    refine handle_congr ?_ j
    rw [ccNext_cm, releaseHandle, State.onSc_cm]
  refine ⟨(hcm k).trans (handle_setHandle_self c _ b hk), fun j hj => (hcm j).trans (handle_setHandle_ne c _ b hj), ?_⟩
  rw [ccNext_pc, releaseHandle, State.onSc_cc, setHandle, State.onM_cc]
  exact congrArg (· + 4) ((congrArg Cc.pc (freeHandle_cc_kept k a) :))

theorem ctlHrel_releases {b : State} (hk : a.reg c r1 < 64) (hb : b = freeHandle c (a.reg c r1) a) : Completes (.ctlHrel c n r1) s fun t =>
    handle t c (a.reg c r1) = hPut (hPut (handle b c (a.reg c r1)) 6 8 (hGen (handle b c (a.reg c r1)) + 1)) 4 2 3 ∧
    (∀ k, k ≠ a.reg c r1 → handle t c k = handle b c k) ∧ (t.cc c).pc = (a.cc c).pc + 4 := by
  refine completes_of_issues (execCtlHrel c n r1) ha h ?_
  unfold instHrel
  dsimp only
  rw [ctlGuard_of_ok _ _ _ _ (decide_eq_true hk)]
  exact releaseHandle_handle b hk hb

omit ha h in
/-- Without waiting requests the allocator has nothing to do. -/
theorem serve_of_empty {d : DieId} {s : State} (hq : (s.die d).allocQ = []) : serve d s = s := by
  unfold serve serveAlloc
  rw [hq]

omit ha h in
theorem handle_freeHandle_of_empty {k : Nat} (hq : (a.die (dieOf c)).allocQ = []) (j : Nat) : handle (freeHandle c k a) c j = handle a c j := by
  unfold freeHandle
  dsimp only
  rw [serve_of_empty (by rw [State.onM_die, State.onDie_die_self, hq, List.filter_nil])]
  rw [handle, State.onM_cm_self, State.onDie_cm, handle]

theorem ctlHrel_frees (hk : a.reg c r1 < 64) (hq : (a.die (dieOf c)).allocQ = []) : Completes (.ctlHrel c n r1) s fun t =>
    hRes (handle t c (a.reg c r1)) = 3 ∧ hGen (handle t c (a.reg c r1)) = (hGen (handle a c (a.reg c r1)) + 1) % 256 ∧
    (∀ k, k ≠ a.reg c r1 → handle t c k = handle a c k) ∧ (t.cc c).pc = (a.cc c).pc + 4 := by
  refine completes_imp (ctlHrel_releases ha h hk rfl) fun t ht => ?_
  obtain ⟨hself, hne, hpc⟩ := ht
  rw [hself, hRes_released, hGen_released, handle_freeHandle_of_empty hq]
  exact ⟨rfl, rfl, fun k hk' => (hne k hk').trans (handle_freeHandle_of_empty hq k), hpc⟩

/-! ### ctl.halloc -/

omit ha h in
theorem mem_insertAlloc (e : AllocReq) (l : List AllocReq) : e ∈ insertAlloc e l := by
  induction l with
  | nil => exact List.mem_singleton_self e
  | cons x xs ih =>
    unfold insertAlloc
    split
    · exact List.mem_cons_self
    · exact List.mem_cons_of_mem x ih

omit ha h in
theorem setRes_die (e : CoreId) (k v : Nat) (s : State) (d : DieId) : (setRes e k v s).die d = s.die d := by
  unfold setRes
  split
  · rfl
  · exact setHandle_die e k _ s d

omit ha h in
theorem makeRoom_allocQ (d d' : DieId) (x k : Nat) (s : State) : ((makeRoom d x k s).die d').allocQ = (s.die d').allocQ := by
  unfold makeRoom
  refine forAll_keep (fun t => (t.die d').allocQ) _ _ _ fun e _ t => ?_
  unfold startPageOut
  dsimp only
  split
  · rfl
  · split
    · rfl
    · rw [setRes_die]
      by_cases hd : d = d'
      · subst hd
        rw [State.onDie_die_self]
      · rw [State.onDie_die_ne _ _ _ _ hd]

omit ha h in
/-- The allocator takes requests for pages of handles from its queue, and answers none of ctl.halloc by itself (R112). -/
theorem mem_serveAlloc {d : DieId} {r : AllocReq} (hr : r.h = none) (fuel : Nat) :
    ∀ {t : State}, r ∈ (t.die d).allocQ → r ∈ ((serveAlloc d fuel t).die d).allocQ := by
  induction fuel with
  | zero => exact id
  | succ fuel ih =>
    intro t ht
    unfold serveAlloc
    split
    next hnil => exact ht
    next x xs hcons =>
      split
      · exact ht
      · split
        · next hd hx hext =>
          split
          · exact ht
          · refine ih ?_
            have hmem : r ∈ xs := by
              rw [hcons] at ht
              refine (List.mem_cons.mp ht).resolve_left fun hrx => ?_
              rw [← hrx, hr] at hx
              exact absurd hx (by simp)
            unfold beginPageIn
            dsimp only
            rw [State.onM_die]
            by_cases hdie : dieOf x.core = d
            · rw [hdie, State.onDie_die_self, hcons]
              exact hmem
            · rw [State.onDie_die_ne _ _ _ _ hdie]
              exact ht
        · exact ht
        · rw [makeRoom_allocQ]
          exact ht

theorem ctlHalloc_asks (ha1 : a.reg c r1 < 1024) (hb1 : bitsOf (a.reg c r1) 6 2 = 0) (hb2 : bitsOf (a.reg c r2) 0 16 ≠ 0)
    (hb3 : bitsOf (a.reg c r2) 16 15 = 0) : Completes (.ctlHalloc c n rd r1 r2) s fun t =>
      (t.cc c).halloc = some (rd.val, a.reg c r1 % 64, Fin.ofNat 4 (a.reg c r1 / 256), a.reg c r2 % 2 ^ 16, bitOf (a.reg c r2) 31) ∧
      ⟨c, (a.sc c).wall, none⟩ ∈ (t.die (dieOf c)).allocQ ∧ (t.cc c).pc = (a.cc c).pc ∧ (t.cc c).regs = (a.cc c).regs := by
  refine completes_of_issues (execCtlHalloc c n rd r1 r2) ha h ?_
  unfold instHalloc
  dsimp only
  rw [ctlGuard_of_ok _ _ _ _ (by simp [ha1, hb1, hb2, hb3]), askAlloc, (serve_sameCore _ _ _).2.1]
  have hcc : ∀ f : Cc → Cc, ∀ g : Die → Die, ((a.onCc c f).onDie (dieOf c) g).cc c = f (a.cc c) := fun f g => State.onCc_cc_self a c f
  rw [hcc]
  refine ⟨rfl, mem_serveAlloc rfl _ ?_, rfl, rfl⟩
  rw [State.onDie_die_self, State.onCc_sc]
  exact mem_insertAlloc _ _
end

/-! ### The allocator's answer -/

/-- A register in which 0 is written reads 0, as does one that the core lacks. -/
theorem regGet_regSet_zero (g : Nat) (k : Cc) : regGet (regSet g 0 k) g = 0 := by
  by_cases hg : g < 32
  · rw [regGet_regSet _ _ _ hg, if_pos rfl]
    exact ite_self _
  · have hout : ∀ v : Vector Word 32, vget v 0 g = 0 := fun v => by simp [vget, Array.getD_eq_getD_getElem?, hg]
    unfold regGet
    split
    · rfl
    · exact hout _

section
variable {d : DieId} {c : CoreId} {n : Nat} {s b q : State} {x : Nat} {rest : List AllocReq} {g h pages : Nat} {slot : Fin 4} {pg : Bool}

theorem completes_allocatorAnswer {p : State → Prop} (hb : b = serve d s) (hq : (b.die d).allocQ = ⟨c, x, none⟩ :: rest)
    (ha : q = advance c n b) (hreq : (q.cc c).halloc = some (g, h, slot, pages, pg)) (hp : p (hallocAnswer d c (g, h, slot, pages, pg) q)) :
    Completes (.allocatorAnswer d n) s p := by
  have hexec : exec (.allocatorAnswer d n) s = execAllocatorAnswer d n s := rfl
  unfold execAllocatorAnswer at hexec
  dsimp only at hexec
  rw [← hb, hq] at hexec
  dsimp only at hexec
  rw [← ha, hreq] at hexec
  exact completes_of_next hexec hp

/-- The answer returns its status, ends the wait and goes on to the die's next request. -/
theorem allocAnswer_answers (status : Nat) (u : State) : ∃ y, allocAnswer d c g status u = ccLate c 1 (allocDone d y) ∧
    y = u.onCc c (fun k => regSet g (BitVec.ofNat 32 status) { k with halloc := none }) ∧
    ((allocAnswer d c g status u).cc c).halloc = none ∧ ((allocAnswer d c g status u).cc c).pc = (u.cc c).pc + 4 ∧
    ∀ r, regGet ((allocAnswer d c g status u).cc c) r =
      regGet (regSet g (BitVec.ofNat 32 status) (u.cc c)) r := by
  refine ⟨_, rfl, rfl, ?_⟩
  have hcc : (allocAnswer d c g status u).cc c =
      { regSet g (BitVec.ofNat 32 status) { u.cc c with halloc := none } with
        pc := (u.cc c).pc + 4, minstret := (u.cc c).minstret + 1,
        readyAt := ccStart ((allocDone d (u.onCc c fun k => regSet g (BitVec.ofNat 32 status) { k with halloc := none })).sc c) 1 } := by
    unfold allocAnswer ccLate
    dsimp only
    rw [State.onCc_cc_self, allocDone, (serve_sameCore _ _ _).2.1, State.onDie_cc, State.onCc_cc_self]
    by_cases hg : (g == 0) = true <;> simp [regSet, hg]
  rw [hcc]
  refine ⟨?_, rfl, fun r => ?_⟩
  · exact (congrArg Cc.halloc (regSet_unretired g _ _) :)
  · by_cases hg : (g == 0) = true <;> simp [regSet, hg, regGet]


theorem allocatorAnswer_gives {p : Nat} (hb : b = serve d s) (hq : (b.die d).allocQ = ⟨c, x, none⟩ :: rest) (ha : q = advance c n b)
    (hreq : (q.cc c).halloc = some (g, h, slot, pages, pg)) (hh : h < 64) (hres : hRes (handle q c h) = 3)
    (hext : findExtent (q.die d) (slotCtx q c slot.val) pages = some p) : Completes (.allocatorAnswer d n) s fun t =>
    (∃ y, t = ccLate c 1 (allocDone d y) ∧ handle y c h = allocHandle (handle q c h) d (slotCtx q c slot.val) p pages pg ∧
      (∀ k, k ≠ h → handle y c k = handle q c k) ∧ (y.die d).extents = insertExt (p, pages) (q.die d).extents) ∧
    (t.cc c).halloc = none ∧ regGet (t.cc c) g = 0 ∧ (t.cc c).pc = (q.cc c).pc + 4 := by
  refine completes_allocatorAnswer hb hq ha hreq ?_
  unfold hallocAnswer
  dsimp only
  rw [hres, if_neg (by decide), hext]
  dsimp only
  generalize hv : (q.onDie d fun k => { k with extents := insertExt (p, pages) k.extents }) = v
  generalize hw : setHandle c h (allocHandle (handle v c h) d (slotCtx q c slot.val) p pages pg) v = w
  have hvh : ∀ k, handle v c k = handle q c k := handle_congr (by rw [← hv, State.onDie_cm])
  have hvd : (v.die d).extents = insertExt (p, pages) (q.die d).extents := by rw [← hv, State.onDie_die_self]
  obtain ⟨y, ht, hy, hnone, hpc, hreg⟩ := allocAnswer_answers (d := d) (c := c) (g := g) 0
    (w.onM c fun m => { m with owned := vset m.owned h (p + 1) })
  have hyh : ∀ k, handle y c k = handle w c k := fun k => by
    rw [handle, hy, State.onCc_cm, State.onM_cm_self, handle]
  refine ⟨⟨y, ht, ?_, fun k hk => ?_, ?_⟩, hnone, ?_, ?_⟩
  · rw [hyh, ← hw, handle_setHandle_self c _ v hh, hvh]
  · rw [hyh, ← hw, handle_setHandle_ne c _ v hk, hvh]
  · rw [hy, State.onCc_die, State.onM_die, ← hw, setHandle_die, hvd]
  · rw [hreg]
    exact regGet_regSet_zero g _
  · rw [hpc, State.onM_cc, ← hw, setHandle, State.onM_cc, ← hv, State.onDie_cc]

theorem allocatorAnswer_denies {v : Word} (hb : b = serve d s) (hq : (b.die d).allocQ = ⟨c, x, none⟩ :: rest) (ha : q = advance c n b)
    (hreq : (q.cc c).halloc = some (g, h, slot, pages, pg))
    (hwhy : (hRes (handle q c h) ≠ 3 ∧ v = 2) ∨ (hRes (handle q c h) = 3 ∧ v = 1 ∧ allocFails q d (slotCtx q c slot.val) pages = true)) :
    Completes (.allocatorAnswer d n) s fun t =>
    (∃ y, t = ccLate c 1 (allocDone d y) ∧ (∀ k, handle y c k = handle q c k) ∧ (y.die d).extents = (q.die d).extents) ∧
    (t.cc c).halloc = none ∧ (t.cc c).pc = (q.cc c).pc + 4 ∧ (0 < g → g < 32 → regGet (t.cc c) g = v) := by
  have hans : hallocAnswer d c (g, h, slot, pages, pg) q = allocAnswer d c g v.toNat q := by
    unfold hallocAnswer
    dsimp only
    rcases hwhy with ⟨hres, hv⟩ | ⟨hres, hv, hfails⟩
    · rw [if_pos (bne_iff_ne.mpr hres), hv]
      rfl
    · have hext : findExtent (q.die d) (slotCtx q c slot.val) pages = none := by
        rw [allocFails, Bool.and_eq_true] at hfails
        exact Option.isNone_iff_eq_none.mp hfails.1
      rw [hres, if_neg (by decide), hext]
      dsimp only
      rw [if_pos hfails, hv]
      rfl
  refine completes_allocatorAnswer hb hq ha hreq ?_
  rw [hans]
  obtain ⟨y, ht, hy, hnone, hpc, hreg⟩ := allocAnswer_answers (d := d) (c := c) (g := g) v.toNat q
  refine ⟨⟨y, ht, handle_congr (by rw [hy, State.onCc_cm]), by rw [hy, State.onCc_die]⟩, hnone, hpc, fun hpos hlt => ?_⟩
  rw [hreg, regGet_regSet _ _ _ hlt, if_neg (by omega), if_pos rfl, BitVec.ofNat_toNat, BitVec.setWidth_eq]
end

/-- Settles O21: each instruction and each answer by its own lemma. -/
theorem handleInstructions : Obligations.HandleInstructions := by
  unfold Obligations.HandleInstructions
  intro c d n rd r1 r2 s a ha
  exact ⟨fun h hk hal hlo hhi => ctlHset_sets ha h hk hal hlo hhi, fun h hk hq => ctlHrel_frees ha h hk hq,
    fun b h hk hb => ctlHrel_releases ha h hk hb, fun h h1 h2 h3 h4 => ctlHalloc_asks ha h h1 h2 h3 h4,
    fun b x rest q g hd slot pages pg p hb hq hadv hreq hh hres hext => allocatorAnswer_gives hb hq hadv hreq hh hres hext,
    fun b x rest q g hd slot pages pg v hb hq hadv hreq hwhy => allocatorAnswer_denies hb hq hadv hreq hwhy⟩

end Sys2Proof.Machine
end

section
/-! SUPPORT. Settles O22: the row window, the fault ring and the dispatch of a handler (R314, R320 to R323, R328). -/

namespace Sys2Proof.Machine

open Sys2Proof

/- Elaborated one by one, the proofs do not wait for one another's equation lemmas. -/
set_option Elab.async false

/-! ### The row window -/

theorem ccLate_cc_self (c : CoreId) (n : Nat) (s : State) : (ccLate c n s).cc c =
    { s.cc c with pc := (s.cc c).pc + 4, minstret := (s.cc c).minstret + 1, readyAt := ccStart (s.sc c) n } :=
  State.onCc_cc_self s c _

theorem readRow_ccLate (c : CoreId) (n : Nat) (s : State) (x : Nat) : readRow (ccLate c n s) x = readRow s x := readRow_congr rfl x

theorem onlyCore_ccLate (c : CoreId) (n : Nat) (s : State) : OnlyCore c s (ccLate c n s) := onlyCore_onCc c s _

/-- What an instruction with a result and another effect on its control core leaves. -/
theorem ccNext_regSet (c : CoreId) (a : State) (n : Nat) (rd : Reg) (v : Nat) (f : Cc → Cc) (hf : ∀ k, (f k).pc = k.pc) :
    let t := ccNext c n (a.onCc c fun k => regSet rd.val (BitVec.ofNat 32 v) (f k))
    Returns c rd v a t ∧ (t.cc c).unretired = (f (a.cc c)).unretired ∧ OnlyCore c a t := by
  refine ⟨⟨?_, ?_⟩, ?_, (onlyCore_onCc c a _).trans (onlyCore_ccNext c _ n)⟩
  · rw [ccNext_pc, State.onCc_cc_self, regSet_pc, hf]
  · rw [regGet_congr (ccNext_regs c _ n), State.onCc_cc_self, regGet_regSet _ _ _ rd.isLt, if_pos rfl]
  · rw [ccNext, ccRetire_cc_self, State.onCc_cc_self]
    exact regSet_unretired rd.val _ _

/-- The same for an instruction that waited (R310). -/
theorem ccLate_regSet (c : CoreId) (a : State) (n rd : Nat) (f : Cc → Cc) (hf : ∀ k, (f k).pc = k.pc) :
    let t := ccLate c n (a.onCc c fun k => regSet rd 0 (f k))
    (t.cc c).pc = (a.cc c).pc + 4 ∧ regGet (t.cc c) rd = 0 ∧ (t.cc c).unretired = (f (a.cc c)).unretired ∧ OnlyCore c a t := by
  refine ⟨?_, ?_, ?_, (onlyCore_onCc c a _).trans (onlyCore_ccLate c n _)⟩
  · rw [ccLate_cc_self, State.onCc_cc_self]
    exact congrArg (· + 4) ((regSet_pc rd 0 _).trans (hf _))
  · rw [ccLate_cc_self, State.onCc_cc_self]
    exact regGet_regSet_zero rd _
  · rw [ccLate_cc_self, State.onCc_cc_self]
    exact regSet_unretired rd _ _

section
variable {c : CoreId} {n : Nat} {rd r1 : Reg} {s a : State} (ha : a = advance c n s)
include ha

section
variable (h : ccIssues a c = true)
include h

theorem ctlWrd_waits (hrow : a.reg c r1 < 12288) : Completes (.ctlWrd c n rd r1) s fun t =>
    (t.cc c).winOp = some ⟨false, a.reg c r1, rd.val, (a.sc c).wall⟩ ∧ (t.cc c).pc = (a.cc c).pc ∧ OnlyCore c a t := by
  refine completes_of_issues (execCtlWrd c n rd r1) ha h ?_
  unfold instWrd winRequest
  dsimp only
  rw [ctlGuard_of_ok _ _ _ _ (decide_eq_true hrow), State.onCc_cc_self]
  exact ⟨rfl, rfl, onlyCore_onCc c a _⟩

theorem ctlWwr_waits (hrow : a.reg c r1 < 12288) : Completes (.ctlWwr c n r1) s fun t =>
    (t.cc c).winOp = some ⟨true, a.reg c r1, 0, (a.sc c).wall⟩ ∧ (t.cc c).pc = (a.cc c).pc ∧ OnlyCore c a t := by
  refine completes_of_issues (execCtlWwr c n r1) ha h ?_
  unfold instWwr winRequest
  dsimp only
  rw [ctlGuard_of_ok _ _ _ _ (decide_eq_true hrow), State.onCc_cc_self]
  exact ⟨rfl, rfl, onlyCore_onCc c a _⟩

/-! ### The fault ring -/

theorem ctlFpop_empty (hal : a.reg c r1 % 64 = 0) (hring : (a.cc c).ring = []) : Completes (.ctlFpop c n rd r1) s fun t =>
    Returns c rd 0 a t ∧ (t.cc c).ring = [] ∧ (t.cc c).dmem = (a.cc c).dmem ∧ OnlyCore c a t := by
  refine completes_of_issues (execCtlFpop c n rd r1) ha h ?_
  have hcc : ((ccNext c 1 (setReg c rd 0 a)).cc c).unretired = (a.cc c).unretired := by
    rw [ccNext, ccRetire_cc_self, setReg_cc_self]
    exact (rfl : Cc.unretired _ = (regSet rd.val _ (a.cc c)).unretired).trans (regSet_unretired _ _ _)
  unfold instFpop
  dsimp only
  rw [ctlGuard_of_ok _ _ _ _ (by simp [hal]), hring]
  exact ⟨returns_of_setReg c rd 0 1 rfl, (congrArg Cc.ring hcc :).trans hring, (congrArg Cc.dmem hcc :),
    onlyCore_ccNext_setReg rd 0 1 (OnlyCore.refl c a)⟩

omit ha h in
/-- The control core's registers when its oldest fault record goes to data memory (R328). -/
def Cc.popped (fs : List (BitVec 512)) (w at_ : Nat) (f : BitVec 512) (k : Cc) : Cc :=
  { k with ring := fs, popAt := some w, dmem := writeCells k.dmem at_ (leBytes 64 f.toNat) }

omit ha h in
theorem readCells_popped (fs : List (BitVec 512)) (w at_ : Nat) (f : BitVec 512) (k : Cc) :
    readCells (Cc.popped fs w at_ f k).dmem at_ 64 = f.toNat := by
  have hread := readCells_writeCells_self k.dmem at_ (leBytes 64 f.toNat)
  rw [leBytes_length, ofLe_leBytes] at hread
  refine hread.trans (Nat.mod_eq_of_lt ?_)
  rw [pow_256_eq]
  exact f.isLt

theorem ctlFpop_pops {f : BitVec 512} {fs : List (BitVec 512)} (hal : a.reg c r1 % 64 = 0) (hlo : 0x10000 ≤ a.reg c r1)
    (hhi : a.reg c r1 < 0x20000) (hring : (a.cc c).ring = f :: fs) : Completes (.ctlFpop c n rd r1) s fun t =>
    Returns c rd (fs.length + 1) a t ∧ (t.cc c).ring = fs ∧ readCells (t.cc c).dmem (a.reg c r1 - 0x10000) 64 = f.toNat ∧ OnlyCore c a t := by
  have hrange : (decide (a.reg c r1 < dmemBase) || decide (2 * dmemBase ≤ a.reg c r1)) = false := by
    rw [decide_eq_false (by unfold dmemBase; omega), decide_eq_false (by unfold dmemBase; omega)]
    rfl
  have hinst : instFpop c rd r1 a = ccNext c 17 (a.onCc c fun k =>
      regSet rd.val (BitVec.ofNat 32 (fs.length + 1)) (Cc.popped fs (a.sc c).wall (a.reg c r1 - 0x10000) f k)) := by
    unfold instFpop
    dsimp only
    rw [ctlGuard_of_ok _ _ _ _ (by simp [hal]), hring]
    dsimp only
    rw [hrange, if_neg (by decide)]
    rfl
  refine completes_of_issues (execCtlFpop c n rd r1) ha h ?_
  rw [hinst]
  generalize a.reg c r1 - 0x10000 = x
  obtain ⟨hret, hmask, honly⟩ := ccNext_regSet c a 17 rd (fs.length + 1) (Cc.popped fs (a.sc c).wall x f) fun _ => rfl
  generalize ccNext c 17 _ = t at hret hmask honly ⊢
  have hdmem : (t.cc c).dmem = (Cc.popped fs (a.sc c).wall x f (a.cc c)).dmem := (congrArg Cc.dmem hmask :)
  exact ⟨hret, (congrArg Cc.ring hmask :), by rw [hdmem, readCells_popped], honly⟩
end

/-! ### Window accesses -/

section
variable {op : WinOp} (hop : (a.cc c).winOp = some op) (hslot : first7 a c 3 op.row (op.issued + 1) = true)
include hop hslot

omit ha hop hslot in
/-- The access takes its slot 7, and the instruction waits no more. -/
def winTaken (c : CoreId) (row : Nat) (s : State) : State := (use7 c row s).onCc c fun k => { k with winOp := none }

omit ha hop hslot in
theorem winTaken_cc (c : CoreId) (row : Nat) (s : State) : (winTaken c row s).cc c = { s.cc c with winOp := none } := by
  rw [winTaken, State.onCc_cc_self, use7, State.onM_cc]

omit ha hop hslot in
theorem onlyCore_winTaken (c : CoreId) (row : Nat) (s : State) : OnlyCore c s (winTaken c row s) :=
  (onlyCore_onM c s _).trans (onlyCore_onCc c _ _)

theorem rowWindowAccess_reads (hread : op.write = false) : Completes (.rowWindowAccess c n .clean) s fun t =>
    (t.cc c).win = readRow a (plotAddr c op.row) ∧ (t.cc c).winOp = none ∧ regGet (t.cc c) op.rd = 0 ∧
    (t.cc c).pc = (a.cc c).pc + 4 ∧ OnlyCore c a t := by
  have hexec : exec (.rowWindowAccess c n .clean) s = execRowWindowAccess c n .clean s := rfl
  unfold execRowWindowAccess at hexec
  dsimp only at hexec
  rw [← ha, hop] at hexec
  dsimp only at hexec
  rw [hslot, whenDue_of_due rfl, hread, if_neg (by decide)] at hexec
  dsimp only [readNoted] at hexec
  rw [if_neg (by decide)] at hexec
  refine completes_of_next hexec ?_
  obtain ⟨hpc, hreg, hmask, honly⟩ := ccLate_regSet c (winTaken c op.row a) 2 op.rd
    (fun k => { k with win := readRow a (plotAddr c op.row) }) fun _ => rfl
  rw [winTaken_cc] at hpc hmask
  exact ⟨(congrArg Cc.win hmask :), (congrArg Cc.winOp hmask :), hreg, hpc, (onlyCore_winTaken c op.row a).trans honly⟩

theorem rowWindowAccess_writes (hwrite : op.write = true) (hrow : op.row < 12288) (hopen : lockedRow a (plotAddr c op.row) = false) :
    Completes (.rowWindowAccess c n .clean) s fun t =>
    readRow t (plotAddr c op.row) = (a.cc c).win ∧ (t.cc c).winOp = none ∧ (t.cc c).pc = (a.cc c).pc + 4 ∧
    ∀ x, rowBase x ≠ plotAddr c op.row → readRow t x = readRow a x := by
  have hexec : exec (.rowWindowAccess c n .clean) s = execRowWindowAccess c n .clean s := rfl
  unfold execRowWindowAccess at hexec
  dsimp only at hexec
  rw [← ha, hop] at hexec
  dsimp only at hexec
  rw [hslot, whenDue_of_due rfl, hwrite, if_pos rfl] at hexec
  have hcc := winTaken_cc c op.row a
  have hlocked : lockedRow (winTaken c op.row a) (plotAddr c op.row) = false := by
    rw [← hopen]
    refine lockedRow_congr (s := a) (t := winTaken c op.row a) (fun e => ?_) rfl _
    by_cases he : e = c
    · rw [he, hcc]
    · rw [State.cc, (onlyCore_winTaken c op.row a).2.2.2.2.2.2 e he, State.cc]
  have hpop : populated (plotAddr c op.row) = true := populated_plotAddr c hrow
  have hwr : coreWrite c 4 ((winTaken c op.row a).cc c).tag (stripCtx (winTaken c op.row a) c) 0 0 (plotAddr c op.row)
      ((winTaken c op.row a).cc c).win (winTaken c op.row a) = writeRow (winTaken c op.row a) (plotAddr c op.row) (a.cc c).win := by
    rw [coreWrite_of_open c 4 _ _ _ _ _ hpop hlocked, hcc]
  refine completes_of_next (hexec.trans (congrArg _ (congrArg (ccLate c 2) hwr))) ⟨?_, ?_, ?_, fun x hx => ?_⟩
  · rw [readRow_ccLate, readRow_writeRow_self _ _ hpop]
  · rw [ccLate_cc_self, writeRow_cc, hcc]
  · rw [ccLate_cc_self, writeRow_cc, hcc]
  · rw [readRow_ccLate, readRow_writeRow_ne _ _ (by rwa [rowBase_plotAddr])]
    exact readRow_congr rfl x
end
end

/-! ### The dispatch of a handler -/

section
variable {c : CoreId} {s : State}

/-- The message that is picked is the oldest landed one of its ring. -/
theorem ringHead_of_dispatchPick {r : Nat} {l : Landed} (h : dispatchPick s c = some (r, l)) : ringHead s c r = some l := by
  have hfold : ∀ (rs : List Nat) (best : Option (Nat × Landed)), (∀ x, best = some x → ringHead s c x.1 = some x.2) →
      ∀ x, rs.foldl (fun best r =>
        match ringHead s c r, best with
        | none, _ => best
        | some l, none => some (r, l)
        | some l, some b =>
          if ringPrio (s.cc c) b.1 < ringPrio (s.cc c) r || (ringPrio (s.cc c) b.1 == ringPrio (s.cc c) r && l.cyc < b.2.cyc) then some (r, l)
          else best) best = some x → ringHead s c x.1 = some x.2 := by
    intro rs
    induction rs with
    | nil => exact fun best hbest => hbest
    | cons r rs ih =>
      intro best hbest
      rw [List.foldl_cons]
      refine ih _ fun x hx => ?_
      cases hr : ringHead s c r with
      | none =>
        rw [hr] at hx
        exact hbest x hx
      | some l =>
        rw [hr] at hx
        cases best with
        | none =>
          cases hx
          exact hr
        | some b =>
          dsimp only at hx
          split at hx
          · cases hx
            exact hr
          · exact hbest x hx
  exact hfold (List.range 16) none (fun _ hx => absurd hx (by simp)) (r, l) h

/-- A ring with a message to dispatch holds one. -/
theorem landedCount_pos {r : Nat} {l : Landed} (hr : r < 16) (h : ringHead s c r = some l) : 0 < landedCount (s.cc c) := by
  have hhead : (vget (s.cc c).rings Ring.reset r).landed ≠ [] := by
    intro hnil
    unfold ringHead at h
    dsimp only at h
    split at h
    · rw [hnil] at h
      exact absurd h (by simp)
    · exact absurd h (by simp)
  have hmem : vget (s.cc c).rings Ring.reset r ∈ (s.cc c).rings.toList := by
    have hget : vget (s.cc c).rings Ring.reset r = (s.cc c).rings[r] := by
      simp [vget, Array.getD_eq_getD_getElem?, hr]
    rw [hget]
    simp
  have hle := List.le_sum_of_mem (List.mem_map_of_mem (f := fun g : Ring => g.landed.length) hmem)
  exact (List.length_pos_iff.mpr hhead).trans_le hle

/-- A message that has been passed leaves what R321 and R322 look at. -/
theorem passLanded_first (r : Nat) (l : Landed) : dispatchFirst (passLanded c r l s) c = dispatchFirst s c := by
  have hready : ((passLanded c r l s).cc c).readyAt = (s.cc c).readyAt := by
    rw [passLanded, State.onCc_cc_self]
  have hsc : (passLanded c r l s).sc c = s.sc c := by rw [passLanded, State.onCc_sc]
  rw [dispatchFirst, hready, hsc, dispatchFirst]

/-- The control core's registers when a handler starts (R322). -/
def Cc.handling (r ready : Nat) (l : Landed) (entry : BitVec 16) (k : Cc) : Cc :=
  { k with pc := BitVec.ofNat 32 (entry.toNat / 2 * 2), run := .handler, hdlActive := true, hdlRing := r,
           hdlClass := mhTag l.hdr / 2 ^ 16, hdlCnt := satAdd 0xFFFFFFFF k.hdlCnt 1, readyAt := ready }

/-- What a handler finds in its registers and when its first instruction issues. -/
theorem startHandler_starts (r : Nat) (l : Landed) (entry : BitVec 16) :
    let t := startHandler c r l entry s
    (t.cc c).run = .handler ∧ (t.cc c).hdlActive = true ∧ (t.cc c).hdlRing = r ∧
    (t.cc c).pc = BitVec.ofNat 32 (entry.toNat / 2 * 2) ∧
    regGet (t.cc c) 10 = BitVec.ofNat 32 r ∧ regGet (t.cc c) 12 = BitVec.ofNat 32 (mhTag l.hdr) ∧
    regGet (t.cc c) 13 = BitVec.ofNat 32 (mhLen l.hdr) ∧
    (t.cc c).readyAt = (s.sc c).origin + 4 * (max (dispatchFirst s c) (ccOf (s.sc c) l.cyc) + 12) ∧ OnlyCore c s t := by
  intro t
  have hmax : (if dispatchFirst s c < ccOf (s.sc c) l.cyc then ccOf (s.sc c) l.cyc else dispatchFirst s c) =
      max (dispatchFirst s c) (ccOf (s.sc c) l.cyc) := by
    split <;> omega
  have hcc : t.cc c = regSet 13 (BitVec.ofNat 32 (mhLen l.hdr)) (regSet 12 (BitVec.ofNat 32 (mhTag l.hdr))
      (regSet 11 (BitVec.ofNat 32 ((vget (s.cc c).rings Ring.reset r).base + l.at_)) (regSet 10 (BitVec.ofNat 32 r)
        (Cc.handling r ((s.sc c).origin + 4 * (max (dispatchFirst s c) (ccOf (s.sc c) l.cyc) + 12)) l entry (s.cc c))))) := by
    rw [← hmax]
    exact State.onCc_cc_self s c _
  rw [hcc]
  refine ⟨rfl, rfl, rfl, rfl, ?_, ?_, ?_, rfl, onlyCore_onCc c s _⟩
  all_goals simp [regGet_regSet]

theorem handlerDispatch_starts {n r : Nat} {l : Landed} {a : State} (ha : a = advance c n s) (hrun : (a.cc c).run = .wfe)
    (hmay : mayDispatch a c = true) (hdue : dispatchDue a c = some (ccCyc (a.sc c))) (hpick : dispatchPick a c = some (r, l)) (hr : r < 16)
    (hentry : (hdlEntry (a.cc c) (mhTag l.hdr / 2 ^ 16)).getLsbD 0 = true) : Completes (.handlerDispatch c n) s fun t =>
    (t.cc c).run = .handler ∧ (t.cc c).hdlActive = true ∧ (t.cc c).hdlRing = r ∧
    (t.cc c).pc = BitVec.ofNat 32 ((hdlEntry (a.cc c) (mhTag l.hdr / 2 ^ 16)).toNat / 2 * 2) ∧
    regGet (t.cc c) 10 = BitVec.ofNat 32 r ∧ regGet (t.cc c) 12 = BitVec.ofNat 32 (mhTag l.hdr) ∧
    regGet (t.cc c) 13 = BitVec.ofNat 32 (mhLen l.hdr) ∧
    (t.cc c).readyAt = (a.sc c).origin + 4 * (max (dispatchFirst a c) (ccOf (a.sc c) l.cyc) + 12) ∧ OnlyCore c a t := by
  have hstart : dispatchFrom c (landedCount (a.cc c)) a =
      startHandler c r l (hdlEntry (a.cc c) (mhTag l.hdr / 2 ^ 16)) (passLanded c r l a) := by
    obtain ⟨k, hk⟩ := Nat.exists_eq_succ_of_ne_zero (landedCount_pos hr (ringHead_of_dispatchPick hpick)).ne'
    rw [hk, dispatchFrom, hpick]
    dsimp only
    rw [if_pos hentry]
  refine completes_of_next (t := dispatchFrom c (landedCount (a.cc c)) a) ?_ ?_
  · have hexec : exec (.handlerDispatch c n) s = execHandlerDispatch c n s := rfl
    unfold execHandlerDispatch at hexec
    dsimp only at hexec
    rwa [← ha, hrun, hmay, hdue, whenDue_of_due (by simp)] at hexec
  have hcc : (passLanded c r l a).sc c = a.sc c := by rw [passLanded, State.onCc_sc]
  obtain ⟨h1, h2, h3, h4, h5, h6, h7, h8, honly⟩ := startHandler_starts (c := c) (s := passLanded c r l a) r l
    (hdlEntry (a.cc c) (mhTag l.hdr / 2 ^ 16))
  rw [passLanded_first, hcc] at h8
  rw [hstart]
  exact ⟨h1, h2, h3, h4, h5, h6, h7, h8, (onlyCore_onCc c a _).trans honly⟩
end

/-- Settles O22: the window's, the fault ring's and the dispatch's lemmas. -/
theorem windowRingAndHandlers : Obligations.WindowRingAndHandlers := by
  unfold Obligations.WindowRingAndHandlers
  intro c n rd r1 s a ha
  exact ⟨fun h hrow => ctlWrd_waits ha h hrow, fun h hrow => ctlWwr_waits ha h hrow,
    fun op hop hslot hread => rowWindowAccess_reads ha hop hslot hread,
    fun op hop hslot hwrite hrow hopen => rowWindowAccess_writes ha hop hslot hwrite hrow hopen,
    fun h hal hring => ctlFpop_empty ha h hal hring, fun f fs h hal hlo hhi hring _ => ctlFpop_pops ha h hal hlo hhi hring,
    fun r l hrun hmay hdue hpick hr hentry => handlerDispatch_starts ha hrun hmay hdue hpick hr hentry⟩

end Sys2Proof.Machine
end

section
/-! SUPPORT. Settles O23: ctl.send, the send engine and the release of rows that waited (R317, R334, R335, R349, R354). -/

namespace Sys2Proof.Machine

open Sys2Proof

/- Elaborated one by one, the proofs do not wait for one another's equation lemmas. -/
set_option Elab.async false

/-! ### ctl.send -/

section
variable {c : CoreId} {n : Nat} {rd rs : Reg} {s a : State} (ha : a = advance c n s) (h : ccIssues a c = true)
include ha h

theorem ctlSend_takes (hrow : a.reg c rs < 12288) (hfree : (a.cc c).sends.length < 4) : Completes (.ctlSend c n rd rs) s fun t =>
    (t.cc c).sends = (a.cc c).sends ++ [⟨a.reg c rs, 0, 0, .queued, (a.en c).writes, [], (a.sc c).wall, false, none, 0⟩] ∧
    Returns c rd 0 a t ∧ OnlyCore c a t := by
  refine completes_of_issues (execCtlSend c n rd rs) ha h ?_
  unfold instSend
  dsimp only
  rw [ctlGuard_of_ok _ _ _ _ (decide_eq_true hrow), if_neg (Nat.not_le.mpr hfree)]
  refine ⟨?_, returns_of_setReg c rd 0 1 (by rw [State.onCc_cc_self]), onlyCore_ccNext_setReg rd 0 1 (onlyCore_onCc c a _)⟩
  rw [ccNext, ccRetire_cc_self, setReg_cc_self, State.onCc_cc_self]
  exact (congrArg Cc.sends (regSet_unretired _ _ _) :)

theorem ctlSend_full (hrow : a.reg c rs < 12288) (hfull : 4 ≤ (a.cc c).sends.length) : Completes (.ctlSend c n rd rs) s fun t =>
    (t.cc c).sends = (a.cc c).sends ∧ Returns c rd 1 a t ∧ OnlyCore c a t := by
  refine completes_of_issues (execCtlSend c n rd rs) ha h ?_
  unfold instSend
  dsimp only
  rw [ctlGuard_of_ok _ _ _ _ (decide_eq_true hrow), if_pos hfull]
  refine ⟨?_, returns_of_setReg c rd 1 1 rfl, onlyCore_ccNext_setReg rd 1 1 (OnlyCore.refl c a)⟩
  rw [ccNext, ccRetire_cc_self, setReg_cc_self]
  exact (congrArg Cc.sends (regSet_unretired _ _ _) :)
end

/-! ### Rows leave the Square -/

/-- Row `k` of the message of header `h`, as an item for this module. -/
def rowItem (s : State) (h : Row) (k0 : Nat) (x : Row × Nat) : Item :=
  ⟨.msgRow, msgPlane h, mhDest s h, mhDestCore h, mhSendPos h, mhSendCore h, mhTag h, mhSeq h, k0 + x.2, mhLen h, 0,
    k0 + x.2 + 1 == mhLen h, x.1⟩

/-- The state with items behind those that the net holds. -/
def netAppend (s : State) (l : List Item) : State := { s with net := s.net ++ l }

theorem putItem_netAppend {i : Item} {s : State} (h : i.destPos = s.hub.position) : putItem i s = netAppend s [i] := putItem_own h

theorem netAppend_append (s : State) (l m : List Item) : netAppend (netAppend s l) m = netAppend s (l ++ m) := by
  rw [netAppend, netAppend, netAppend, List.append_assoc]

/-- Rows for this module go to the end of what the net holds (R19, R347). -/
theorem departRows_own {h : Row} (k0 : Nat) (rows : List Row) {s : State} (hown : mhDest s h = s.hub.position) :
    departRows h k0 rows s = netAppend s (rows.zipIdx.map (rowItem s h k0)) := by
  have hall : ∀ (l : List (Row × Nat)) (t : State), t.hub = s.hub →
      forAll l (fun x t => putItem (rowItem t h k0 x) t) t = netAppend t (l.map (rowItem s h k0)) := by
    intro l
    induction l with
    | nil =>
      intro t _
      rw [netAppend, List.map_nil, List.append_nil]
      rfl
    | cons x xs ih =>
      intro t ht
      have hitem : rowItem t h k0 x = rowItem s h k0 x := by
        rw [rowItem, mhDest, ht, rowItem, mhDest]
      have hpos : (rowItem s h k0 x).destPos = t.hub.position := by
        rw [ht]
        exact hown
      rw [forAll_cons, hitem, putItem_netAppend hpos, ih (netAppend t _) ht, netAppend_append]
      rfl
  exact hall rows.zipIdx s rfl

theorem map_data_rowItem (s : State) (h : Row) (k0 : Nat) (rows : List Row) :
    (rows.zipIdx.map (rowItem s h k0)).map (·.data) = rows := by
  rw [List.map_map]
  exact (List.map_congr_left fun _ _ => rfl).trans (List.zipIdx_map_fst 0 rows)

theorem setSend_cc (c : CoreId) (i : Nat) (x : Send) (s : State) : (setSend c i x s).cc c = { s.cc c with sends := (s.cc c).sends.set i x } :=
  State.onCc_cc_self s c _

section
variable {c : CoreId} {n i : Nat} {s a : State} {x : Send} (ha : a = advance c n s)
include ha

theorem orderedRelease_releases (hx : (a.cc c).sends[i]? = some x) (hord : x.ordered = []) (hrows : x.rows ≠ [])
    (hfree : x.freeAt < (a.sc c).wall) (hbehind : behindEarlier a (sendsBefore a c i) x = false) (hown : mhDest a x.hdr = a.hub.position) :
    Completes (.orderedRelease c n i) s fun t =>
    (t.cc c).sends[i]? = some { x with rows := [] } ∧ t.net.map (·.data) = a.net.map (·.data) ++ x.rows ∧ t.sc c = a.sc c := by
  have hdue : releaseDue a c (sendsBefore a c i) x = true := by
    rw [releaseDue, hord, hbehind, decide_eq_true hfree, List.isEmpty_eq_false_iff.mpr hrows]
    rfl
  have hexec : exec (.orderedRelease c n i) s = execOrderedRelease c n i s := rfl
  unfold execOrderedRelease at hexec
  dsimp only at hexec
  rw [← ha, hx] at hexec
  dsimp only at hexec
  rw [whenDue_of_due hdue] at hexec
  refine completes_of_next hexec ?_
  have hlen : i < (a.cc c).sends.length := (List.getElem?_eq_some_iff.mp hx).1
  generalize hu : setSend c i { x with rows := [] } a = u
  have hcc : u.cc c = { a.cc c with sends := (a.cc c).sends.set i { x with rows := [] } } := hu ▸ setSend_cc c i _ a
  have hsc : u.sc c = a.sc c := by rw [← hu, setSend, State.onCc_sc]
  have hnet : u.net = a.net := hu ▸ rfl
  rw [departRows_own 0 x.rows (s := u) (hu ▸ hown)]
  refine ⟨?_, ?_, hsc⟩
  · rw [show (netAppend u _).cc c = u.cc c from rfl, hcc]
    exact List.getElem?_set_self hlen
  · rw [netAppend, List.map_append, map_data_rowItem, hnet]

/-! ### The send engine reads a header -/

omit ha in
/-- A header that waits for nothing and is not the whole message leaves for the net. -/
theorem sendRow_leaves {h : Row} {y : Send} {u : State} (hh : y.hdr = h) (hk : y.k = 0) (hord : mhOrdered h = false) (hrows : y.rows = [])
    (hsends : (u.cc c).sends = [x]) (hending : (u.cc c).ending = []) (hlen : mhLen h ≠ 1) (hown : mhDest u h = u.hub.position) :
    sendRow c 0 y h u = netAppend (setSend c 0 { y with k := 1, state := .reading } u) [rowItem u h 0 (h, 0)] := by
  have hbefore : sendsBefore u c 0 = [] := by rw [sendsBefore, hending, hsends]; rfl
  unfold sendRow
  extract_lets x1 hold x2 x3 k0 u1
  have hhold : hold = false := by
    unfold hold x1
    rw [hh, hord, hrows, hbefore]
    rfl
  have hx2 : x2 = { y with k := 1, state := .reading } := by
    unfold x2
    rw [hhold, if_neg (by decide)]
    unfold x1
    rw [hk]
  have hx3 : x3 = { y with k := 1, state := .reading } := by
    unfold x3
    rw [hx2, if_pos (bne_iff_ne.mpr (by rw [hh]; exact hlen.symm))]
  have hk0 : k0 = 0 := by
    unfold k0
    rw [hx3]
    rfl
  have hu1 : u1 = setSend c 0 { y with k := 1, state := .reading } u := by
    unfold u1
    rw [hx3]
  rw [hhold, if_neg (by decide), hk0, hx3, hu1, show Send.hdr { y with k := 1, state := .reading } = h from hh]
  exact departRows_own 0 [h] (s := setSend c 0 _ u) hown

omit ha in
/-- The next message of slot `slot` takes its SEQ (R335). -/
def takeSeq (c : CoreId) (slot : Nat) (s : State) : State :=
  s.onCc c fun k => { k with msgSeq := vset k.msgSeq slot ((vget k.msgSeq 0 slot + 1) % 2 ^ 16) }

omit ha in
theorem takeSeq_cc (c : CoreId) (slot : Nat) (s : State) : (takeSeq c slot s).cc c =
    { s.cc c with msgSeq := vset (s.cc c).msgSeq slot ((vget (s.cc c).msgSeq 0 slot + 1) % 2 ^ 16) } :=
  State.onCc_cc_self s c _

omit ha in
theorem takeSeq_sc (c : CoreId) (slot : Nat) (s : State) (e : CoreId) : (takeSeq c slot s).sc e = s.sc e := State.onCc_sc s c _ e

omit ha in
/-- A fresh, well-formed header that is not ordered is stamped with its slot's next SEQ and sent (R335). -/
theorem sendHeader_fresh {d h : Row} {u : State} (hhdr : x.hdr = 0)
    (hh : h = stampHdr d u.hub.position c.val (slotCtx u c (mhSlot d)) (vget (u.cc c).msgSeq 0 (mhSlot d)))
    (hgood : mhMalformed h c.val (slotValid u c (mhSlot d)) = false) (hord : mhOrdered h = false) :
    sendHeader c 0 x d u = sendRow c 0 { x with hdr := h, ordered := [] } h (takeSeq c (mhSlot d) u) := by
  have hbeq : (x.hdr == 0) = true := by rw [hhdr]; exact BEq.rfl
  unfold sendHeader
  extract_lets slot fresh seq v h' dest
  have hv : v = takeSeq c (mhSlot d) u := by
    unfold v
    exact if_pos hbeq
  have hh' : h' = h := by
    unfold h'
    have hseq : seq = vget (u.cc c).msgSeq 0 (mhSlot d) := by
      unfold seq
      exact if_pos hbeq
    have hctx : slotCtx (takeSeq c (mhSlot d) u) c (mhSlot d) = slotCtx u c (mhSlot d) := by rw [slotCtx, takeSeq_sc, slotCtx]
    rw [hh, hseq, hv]
    exact congrArg (stampHdr d u.hub.position c.val · _) hctx
  have hvalid : slotValid (takeSeq c (mhSlot d) u) c (mhSlot d) = slotValid u c (mhSlot d) := by rw [slotValid, takeSeq_sc, slotValid]
  rw [hh', hv, show slot = mhSlot d from rfl, hvalid, hgood, if_neg (by decide), hord, if_neg (by decide)]

/-- The first row of the only send: the header, stamped and numbered, leaves. -/
theorem sendRowRead_header {d h : Row} (hpick : sendPick (a.cc c).sends = some (0, x)) (hsends : (a.cc c).sends = [x]) (hhdr : x.hdr = 0)
    (hk : x.k = 0) (hrows : x.rows = []) (hending : (a.cc c).ending = []) (hrow : x.row < 12288)
    (hslot : first7 a c 4 x.row (sendFrom (a.cc c) x) = true) (hd : d = readRow a (plotAddr c x.row))
    (hh : h = stampHdr d a.hub.position c.val (slotCtx a c (mhSlot d)) (vget (a.cc c).msgSeq 0 (mhSlot d)))
    (hgood : mhMalformed h c.val (slotValid a c (mhSlot d)) = false) (hord : mhOrdered h = false) (hown : mhDest a h = a.hub.position)
    (hlen : mhLen h ≠ 1) : Completes (.sendRowRead c n .clean) s fun t =>
    (t.cc c).sends = [{ x with hdr := h, k := 1, state := .reading, ordered := [] }] ∧
    vget (t.cc c).msgSeq 0 (mhSlot d) = (vget (a.cc c).msgSeq 0 (mhSlot d) + 1) % 2 ^ 16 ∧
    (t.cc c).sendRead = some (a.sc c).wall ∧ t.net.length = a.net.length + 1 ∧ t.net.getLast?.map (·.data) = some h ∧ t.mem = a.mem := by
  have hexec : exec (.sendRowRead c n .clean) s = execSendRowRead c n .clean s := rfl
  unfold execSendRowRead at hexec
  dsimp only at hexec
  rw [← ha, hpick] at hexec
  dsimp only at hexec
  rw [hk, Nat.add_zero, whenDue_of_due hslot] at hexec
  refine completes_of_next hexec ?_
  clear hexec
  unfold sendRead
  dsimp only
  rw [hk, Nat.add_zero]
  generalize hu : ((use7 c x.row a).onCc c fun k => { k with sendRead := some (a.sc c).wall }) = u
  have hucc : u.cc c = { a.cc c with sendRead := some (a.sc c).wall } := by rw [← hu, State.onCc_cc_self, use7, State.onM_cc]
  have husc : u.sc c = a.sc c := by rw [← hu, State.onCc_sc, use7, State.onM_sc]
  have hread : readNoted u (plotAddr c x.row) .clean = (d, u) := by
    rw [hd]
    exact congrArg (·, u) (readRow_congr (hu ▸ rfl) _)
  rw [if_pos hrow, hread]
  dsimp only
  rw [if_neg (by simp [eccBad]), if_pos (by rfl)]
  have hhub : u.hub = a.hub := hu ▸ rfl
  have hctx : slotCtx u c (mhSlot d) = slotCtx a c (mhSlot d) := by rw [slotCtx, husc, slotCtx]
  have hvalid : slotValid u c (mhSlot d) = slotValid a c (mhSlot d) := by rw [slotValid, husc, slotValid]
  have hseq : (u.cc c).msgSeq = (a.cc c).msgSeq := by rw [hucc]
  have hstamp : h = stampHdr d u.hub.position c.val (slotCtx u c (mhSlot d)) (vget (u.cc c).msgSeq 0 (mhSlot d)) := by
    rw [hhub, hctx, hseq]
    exact hh
  rw [sendHeader_fresh hhdr hstamp (hvalid ▸ hgood) hord]
  have hslotlt : mhSlot d < 4 := Nat.mod_lt _ (by decide)
  generalize hv : takeSeq c (mhSlot d) u = v
  have hvcc : v.cc c = { u.cc c with msgSeq := vset (u.cc c).msgSeq (mhSlot d) ((vget (u.cc c).msgSeq 0 (mhSlot d) + 1) % 2 ^ 16) } :=
    hv ▸ takeSeq_cc c _ u
  have hvnet : v.net = a.net := by rw [← hv, ← hu]; rfl
  have hvmem : v.mem = a.mem := by rw [← hv, ← hu]; rfl
  have hvown : mhDest v h = v.hub.position := by
    have hvhub : v.hub = a.hub := by rw [← hv, ← hhub]; rfl
    rw [mhDest, hvhub]
    exact hown
  rw [sendRow_leaves (x := x) (y := { x with hdr := h, ordered := [] }) (u := v) rfl hk hord hrows (by rw [hvcc, hucc]; exact hsends)
    (by rw [hvcc, hucc]; exact hending) hlen hvown]
  generalize hw : setSend c 0 _ v = w
  have hwcc : w.cc c = { v.cc c with sends := (v.cc c).sends.set 0 { x with hdr := h, k := 1, state := .reading, ordered := [] } } :=
    hw ▸ setSend_cc c 0 _ v
  have hwnet : w.net = a.net := by rw [← hvnet, ← hw]; rfl
  have hwmem : w.mem = a.mem := by rw [← hvmem, ← hw]; rfl
  refine ⟨?_, ?_, ?_, ?_, ?_, hwmem⟩
  · rw [show (netAppend w _).cc c = w.cc c from rfl, hwcc, hvcc, hucc, hsends]
    rfl
  · rw [show (netAppend w _).cc c = w.cc c from rfl, hwcc, hvcc, hucc, vget_vset_self _ _ _ _ hslotlt]
  · rw [show (netAppend w _).cc c = w.cc c from rfl, hwcc, hvcc, hucc]
  · rw [netAppend, List.length_append, hwnet]
    rfl
  · rw [netAppend, List.getLast?_concat]
    rfl
end

/-- Settles O23: ctl.send, the send engine's header read and the release by their lemmas. -/
theorem messagesAreSent : Obligations.MessagesAreSent := by
  unfold Obligations.MessagesAreSent
  intro c n i rd rs s a ha
  exact ⟨fun h hrow hfree => ctlSend_takes ha h hrow hfree, fun h hrow hfull => ctlSend_full ha h hrow hfull,
    fun x d h hpick hsends hhdr hk _ hrows hending hrow hslot hd hh hgood hord hown hlen =>
      sendRowRead_header ha hpick hsends hhdr hk hrows hending hrow hslot hd hh hgood hord hown hlen,
    fun x hx hord hrows hfree hbehind hown => orderedRelease_releases ha hx hord hrows hfree hbehind hown⟩

end Sys2Proof.Machine
end

section
/-! SUPPORT. Settles O25: spill, hold, drain and grant (R339, R342 to R345). -/

namespace Sys2Proof.Machine

open Sys2Proof

/- Elaborated one by one, the proofs do not wait for one another's equation lemmas. -/
set_option Elab.async false

/-! ### Rings -/

theorem cc_onRing (c : CoreId) (r : Nat) (f : Ring → Ring) (s : State) :
    (s.onRing c r f).cc c = { s.cc c with rings := vset (s.cc c).rings r (f (s.ring c r)) } :=
  State.onCc_cc_self s c _

theorem ring_onRing_self {c : CoreId} {r : Nat} (f : Ring → Ring) (s : State) (hr : r < 16) : (s.onRing c r f).ring c r = f (s.ring c r) := by
  rw [State.ring, cc_onRing, vget_vset_self _ _ _ _ hr]

theorem ring_congr {s t : State} {c : CoreId} (h : (t.cc c).rings = (s.cc c).rings) (r : Nat) : t.ring c r = s.ring c r := by
  rw [State.ring, h, State.ring]

theorem ring_onCc {c : CoreId} {f : Cc → Cc} (hf : ∀ k, (f k).rings = k.rings) (r : Nat) (s : State) : (s.onCc c f).ring c r = s.ring c r :=
  ring_congr (by rw [State.onCc_cc_self, hf]) r

theorem readRow_onRing (c : CoreId) (r : Nat) (f : Ring → Ring) (s : State) (x : Nat) : readRow (s.onRing c r f) x = readRow s x :=
  readRow_congr rfl x

theorem onlyCore_onRing (c : CoreId) (r : Nat) (f : Ring → Ring) (s : State) : OnlyCore c s (s.onRing c r f) := onlyCore_onCc c s _

/-! ### A header is placed -/

/-- Without granted messages that wait, a header that passes the checks is placed (R338, R339). -/
theorem coreHeader_placed {c : CoreId} {plane : Nat} {h : Row} {s : State} {r : RingId} (hr : r = Fin.ofNat 16 (mhRing h))
    (hmsgs : ∀ m, m ∈ (s.ring c r.val).msgs → m.wait = false) (hspill : (s.ring c r.val).spill = []) (hok : headerBounce s c h = none) :
    coreHeader c plane h s = placeMsg c r plane h s := by
  have hnone : (s.ring c r.val).msgs.find? (fun m => m.wait && keyed (mhSendPos h) (mhSendCore h) (mhSeq h) m) = none :=
    List.find?_eq_none.mpr fun m hm => by rw [hmsgs m hm, Bool.false_and]; decide
  unfold coreHeader
  dsimp only
  rw [← hr, hnone, hspill, hok]
  rfl

theorem ring_of_header {h : Row} {r : RingId} (hr : r = Fin.ofNat 16 (mhRing h)) : mhRing h = r.val := by
  rw [hr]
  exact (Nat.mod_mod _ 16).symm

section
variable {c : CoreId} {n i : Nat} {s a : State} {x : Item} {r : RingId} (ha : a = advance c n s) (hx : itemHere a .msgRow i = some x)
  (hk : x.k = 0) (hfirst : firstOfPath a i x = true) (hdest : x.destCore = c.val) (hr : r = Fin.ofNat 16 (mhRing x.data))
  (hturn : headerTurn a c r.val (inputRank a.hub.position (dieOf c).val (posOf c) x.srcPos x.srcCore) = true)
include ha hx hk hfirst hdest hr hturn

theorem completes_headerArrival {u : State} {p : State → Prop} (hu : coreHeader c x.plane x.data (dropItem i a) = u)
    (hroom : (u.cm c).land = (a.cm c).land)
    (hp : ∀ k, p (u.onRing c r.val fun g => { g with headAt := k })) : Completes (.messageHeaderArrival c n i) s p := by
  have hexec : exec (.messageHeaderArrival c n i) s = execMessageHeaderArrival c n i s := rfl
  unfold execMessageHeaderArrival at hexec
  dsimp only at hexec
  rw [← ha, hx] at hexec
  dsimp only at hexec
  have hlt := c.isLt
  rw [hk, hfirst, if_neg (by decide), hdest, if_neg (by simp; omega)] at hexec
  unfold takeHeader at hexec
  dsimp only at hexec
  rw [hu, ring_of_header hr, hturn] at hexec
  have hland : landRoom c a (u.onRing c r.val fun g =>
      { g with headAt := ((a.sc c).wall, inputRank a.hub.position (dieOf c).val (posOf c) x.srcPos x.srcCore) }) = true := by
    rw [landRoom, State.onRing, State.onCc_cm, hroom, decide_eq_true (le_refl _), Bool.or_true]
  rw [hland, BEq.rfl, if_pos (by decide)] at hexec
  exact completes_of_next hexec (hp _)
end

/-- A message joins an empty spill area (R342). -/
theorem appendSpill_empty {c : CoreId} {r : RingId} {h : Row} {at_ : Nat} {s : State} (hspill : (s.ring c r.val).spill = []) :
    let t := appendSpill c r.val h false (false, at_) s
    (t.ring c r.val).spill = [⟨at_, mhLen h, 0, h, false, false, [h], false, false, (s.sc c).wall, 0⟩] ∧
    (t.ring c r.val).msgs = (s.ring c r.val).msgs ∧ (t.cc c).spillCnt = min 0xFFFFFFFF ((s.cc c).spillCnt + 1) ∧ t.cm c = s.cm c := by
  unfold appendSpill
  dsimp only
  rw [if_neg (by decide), if_neg (by decide), if_neg (by decide), ring_onCc ?_, ring_onRing_self _ _ r.isLt, hspill]
  rotate_left
  · exact fun _ => rfl
  refine ⟨rfl, rfl, ?_, by rw [State.onCc_cm, State.onRing, State.onCc_cm]⟩
  rw [State.onCc_cc_self, cc_onRing, satAdd_eq_min]

/-- A message that fits neither area is held (R345). -/
theorem holdMsg_empty {c : CoreId} {r : RingId} {plane : Nat} {h : Row} {s : State} (hhold : (s.ring c r.val).hold = []) :
    let t := holdMsg c r.val plane h s
    (t.ring c r.val).hold = [h] ∧ (t.ring c r.val).msgs = (s.ring c r.val).msgs ∧
    (t.cc c).holdCnt = min 0xFFFFFFFF ((s.cc c).holdCnt + 1) ∧ t.cm c = s.cm c := by
  unfold holdMsg
  dsimp only
  rw [hhold, if_neg (by decide), ring_onCc ?_, ring_onRing_self _ _ r.isLt, hhold]
  rotate_left
  · exact fun _ => rfl
  refine ⟨rfl, rfl, ?_, by rw [State.onCc_cm, State.onRing, State.onCc_cm]⟩
  rw [State.onCc_cc_self, cc_onRing, satAdd_eq_min]

section
variable {c : CoreId} {n i : Nat} {s a : State} {x : Item} {r : RingId} (ha : a = advance c n s) (hx : itemHere a .msgRow i = some x)
  (hk : x.k = 0) (hfirst : firstOfPath a i x = true) (hdest : x.destCore = c.val) (hr : r = Fin.ofNat 16 (mhRing x.data))
  (hok : headerBounce a c x.data = none)
  (hturn : headerTurn a c r.val (inputRank a.hub.position (dieOf c).val (posOf c) x.srcPos x.srcCore) = true)
  (hmsgs : ∀ m, m ∈ (a.ring c r.val).msgs → m.wait = false) (hspill : (a.ring c r.val).spill = []) (hhold : (a.ring c r.val).hold = [])
  (hgrant : (a.ring c r.val).grantAt ≠ some (a.sc c).wall) (hfit : (a.ring c r.val).fit (a.sc c).wall (mhLen x.data) = none)
include hr hok hmsgs hspill hhold hgrant hfit

/-- A header that does not fit its ring is tried in the spill area, and held where that does not take it either (R339). -/
theorem coreHeader_unfit : coreHeader c x.plane x.data (dropItem i a) =
    match (a.ring c r.val).spillFit (mhLen x.data) with
    | some f => appendSpill c r.val x.data false f (dropItem i a)
    | none => holdMsg c r.val x.plane x.data (dropItem i a) := by
  rw [coreHeader_placed (s := dropItem i a) hr hmsgs hspill hok]
  have hring : (dropItem i a).ring c r.val = a.ring c r.val := rfl
  have hwall : ((dropItem i a).sc c).wall = (a.sc c).wall := rfl
  have hheld : (!(a.ring c r.val).hold.isEmpty || (a.ring c r.val).grantAt == some (a.sc c).wall) = false := by
    rw [hhold, beq_false_of_ne hgrant]
    rfl
  have hcount : (a.ring c r.val).spillMsgs = 0 := by
    rw [Ring.spillMsgs, hspill]
    rfl
  unfold placeMsg
  dsimp only
  rw [hring, hwall, hheld, hcount, if_neg (by decide), if_neg (by decide), hfit] <;> rfl

include ha hx hk hfirst hdest hturn

theorem messageHeaderArrival_spills {at_ : Nat} (hsp : (a.ring c r.val).spillFit (mhLen x.data) = some (false, at_)) :
    Completes (.messageHeaderArrival c n i) s fun t =>
    (t.ring c r.val).spill = [⟨at_, mhLen x.data, 0, x.data, false, false, [x.data], false, false, (a.sc c).wall, 0⟩] ∧
    (t.ring c r.val).msgs = (a.ring c r.val).msgs ∧ (t.cc c).spillCnt = min 0xFFFFFFFF ((a.cc c).spillCnt + 1) := by
  have hu := coreHeader_unfit (c := c) (i := i) (a := a) (x := x) hr hok hmsgs hspill hhold hgrant hfit
  rw [hsp] at hu
  obtain ⟨h1, h2, h3, h4⟩ := appendSpill_empty (c := c) (r := r) (h := x.data) (at_ := at_) (s := dropItem i a) hspill
  refine completes_headerArrival ha hx hk hfirst hdest hr hturn hu (congrArg Mem1.land h4) fun k => ?_
  rw [ring_onRing_self _ _ r.isLt, cc_onRing]
  exact ⟨h1, h2, h3⟩

theorem messageHeaderArrival_holds (hsp : (a.ring c r.val).spillFit (mhLen x.data) = none) :
    Completes (.messageHeaderArrival c n i) s fun t =>
    (t.ring c r.val).hold = [x.data] ∧ (t.ring c r.val).msgs = (a.ring c r.val).msgs ∧
    (t.cc c).holdCnt = min 0xFFFFFFFF ((a.cc c).holdCnt + 1) := by
  have hu := coreHeader_unfit (c := c) (i := i) (a := a) (x := x) hr hok hmsgs hspill hhold hgrant hfit
  rw [hsp] at hu
  dsimp only at hu
  obtain ⟨h1, h2, h3, h4⟩ := holdMsg_empty (c := c) (r := r) (plane := x.plane) (h := x.data) (s := dropItem i a) hhold
  have hring : (dropItem i a).ring c r.val = a.ring c r.val := rfl
  have hcc : (dropItem i a).cc c = a.cc c := rfl
  rw [hring] at h2
  rw [hcc] at h3
  generalize holdMsg c r.val x.plane x.data (dropItem i a) = v at hu h1 h2 h3 h4
  refine completes_headerArrival ha hx hk hfirst hdest hr hturn hu (congrArg Mem1.land h4) fun k => ?_
  rw [ring_onRing_self _ _ r.isLt, cc_onRing]
  exact ⟨h1, h2, h3⟩
end

/-! ### The spill area is written and drained -/

theorem writeRows_singleton (s : State) (a : Nat) (d : Row) : writeRows s a [d] = writeRow s a d := rfl

section
variable {c : CoreId} {n : Nat} {s a : State} {r : RingId} {m : RMsg} (ha : a = advance c n s)
include ha

theorem spillWriteComplete_writes {d : Row} (hspill : (a.ring c r.val).spill = [m]) (hdone : m.done = false) (hfill : m.filler = false)
    (hrows : m.rows = [d]) (hlen : m.len = 1) (hbank : bankWaits a (dieOf c) ((a.ring c r.val).spillBase + m.at_) = false)
    (hrow : (a.ring c r.val).spillBase + m.at_ < 2 ^ 22) (hopen : gatedFor a (dieOf c) ((a.ring c r.val).spillBase + m.at_) true = false) :
    Completes (.spillWriteComplete c n r) s fun t =>
    (t.ring c r.val).spill = [{ m with done := true, rows := [] }] ∧ readRow t (spillAddr a c r.val m.at_) = d ∧
    ∀ y, rowBase y ≠ spillAddr a c r.val m.at_ → readRow t y = readRow a y := by
  have hexec : exec (.spillWriteComplete c n r) s = execSpillWriteComplete c n r s := rfl
  unfold execSpillWriteComplete at hexec
  dsimp only at hexec
  have hfind : (a.ring c r.val).spill.find? (fun m => !m.done && m.rows.length == m.len) = some m := by
    rw [hspill, List.find?_cons_of_pos (by rw [hdone, hrows, hlen]; rfl)]
  rw [← ha, hfind] at hexec
  dsimp only at hexec
  rw [hlen, Nat.add_sub_cancel, hbank, whenDue_of_due (by rfl)] at hexec
  unfold writeSpill at hexec
  dsimp only at hexec
  rw [hopen, if_neg (by decide), hrows] at hexec
  rw [writeRows_singleton] at hexec
  refine completes_of_next hexec ⟨?_, ?_, fun y hy => ?_⟩
  · rw [ring_onRing_self _ _ r.isLt, ring_congr (s := a) (by rw [writeRow_cc]), hspill]
    simp [hfill]
  · rw [readRow_onRing, spillAddr, readRow_writeRow_self a d (populated_cmnAddr (dieOf c) hrow)]
  · rw [readRow_onRing, readRow_writeRow_ne a d]
    rwa [rowBase_cmnAddr]

omit ha in
/-- A drain without read errors reads the message's rows (R343). -/
theorem spillRows_clean (addr k : Nat) (s : State) : spillRows addr k [] s = (readRows s addr k, none, s) := by
  have h : ∀ (l : List Nat) (acc : List Row), l.foldl (fun (x : List Row × Option (Nat × Ecc) × State) k =>
      let y := readNoted x.2.2 (addr + 512 * k) (errAt [] k)
      (x.1 ++ [y.1], if x.2.1.isNone && eccBad (errAt [] k) then some (k, errAt [] k) else x.2.1, y.2)) (acc, none, s) =
      (acc ++ l.map fun i => readRow s (addr + 512 * i), none, s) := by
    intro l
    induction l with
    | nil => intro acc; rw [List.map_nil, List.append_nil]; rfl
    | cons y ys ih =>
      intro acc
      refine (ih (acc ++ [readRow s (addr + 512 * y)])).trans ?_
      rw [List.map_cons, List.append_assoc]
      rfl
  exact h (List.range k) []

omit ha in
/-- Rows read back wait to land, and nothing else changes (R343). -/
theorem landRows_waits (h : Row) (rows : List Row) : ∀ (at_ : Nat) (s : State),
    ((landRows c r h at_ rows s).cm c).land.map (·.data) = (s.cm c).land.map (·.data) ++ rows ∧
    (landRows c r h at_ rows s).cc c = s.cc c ∧ OnlyCore c s (landRows c r h at_ rows s) := by
  induction rows with
  | nil => exact fun at_ s => ⟨(List.append_nil _).symm, rfl, OnlyCore.refl c s⟩
  | cons d ds ih =>
    intro at_ s
    obtain ⟨h1, h2, h3⟩ := ih (at_ + 1) (landMsgRow c r h at_ d s)
    rw [landRows]
    refine ⟨?_, ?_, (onlyCore_onM c s _).trans h3⟩
    · rw [h1, landMsgRow, State.onM_cm_self, List.map_append, List.append_assoc]
      rfl
    · rw [h2, landMsgRow, State.onM_cc]

omit ha in
/-- What a reservation at the ring's end leaves of it. -/
theorem reserveRing_plain {h : Row} {wait : Bool} {at_ : Nat} (s : State) :
    let t := reserveRing c r.val h wait (false, at_) s
    (t.ring c r.val).resv = (at_ + mhLen h) % (s.ring c r.val).size ∧ (t.ring c r.val).size = (s.ring c r.val).size ∧
    (t.ring c r.val).spill = (s.ring c r.val).spill ∧ (t.ring c r.val).hold = (s.ring c r.val).hold ∧ t.cm c = s.cm c ∧ OnlyCore c s t := by
  unfold reserveRing
  dsimp only
  rw [if_neg (by decide), if_neg (by decide), ring_onRing_self _ _ r.isLt]
  exact ⟨rfl, rfl, rfl, rfl, by rw [State.onRing, State.onCc_cm], onlyCore_onRing c r.val _ s⟩

theorem spillDrain_drains {at_ : Nat} (hspill : (a.ring c r.val).spill = [m]) (hdone : m.done = true) (hfill : m.filler = false)
    (hvoid : m.void = false) (hfit : (a.ring c r.val).fit (a.sc c).wall m.len = some (false, at_))
    (hopen : gatedFor a (dieOf c) ((a.ring c r.val).spillBase + m.at_) false = false) : Completes (.spillDrain c n r []) s fun t =>
    (t.ring c r.val).spill = [] ∧ (t.ring c r.val).resv = (at_ + mhLen m.hdr) % (a.ring c r.val).size ∧
    (t.cm c).land.map (·.data) = (a.cm c).land.map (·.data) ++ readRows a (spillAddr a c r.val m.at_) m.len ∧ OnlyCore c a t := by
  have hexec : exec (.spillDrain c n r []) s = execSpillDrain c n r [] s := rfl
  unfold execSpillDrain at hexec
  dsimp only at hexec
  rw [← ha, hspill, drainSpill, hfill, hvoid, if_neg (by decide), hdone, if_pos rfl, hfit] at hexec
  dsimp only [drainMsg] at hexec
  refine completes_of_next hexec ?_
  clear hexec
  obtain ⟨hresv, hsize, hspl, -, hcm, honly⟩ := reserveRing_plain (c := c) (r := r) (h := m.hdr) (wait := false) (at_ := at_) a
  generalize reserveRing c r.val m.hdr false (false, at_) a = b at hresv hsize hspl hcm honly ⊢
  generalize hu : popSpill c r.val m b = u
  have huring : u.ring c r.val =
      { b.ring c r.val with spill := (b.ring c r.val).spill.tail, spillRptr := (m.at_ + m.len) % (b.ring c r.val).spillSize } :=
    hu ▸ ring_onRing_self _ b r.isLt
  have hucm : u.cm c = a.cm c := by rw [← hu, popSpill, State.onRing, State.onCc_cm, hcm]
  have huonly : OnlyCore c a u := honly.trans (hu ▸ onlyCore_onRing c r.val _ b)
  have hgate : gatedFor u (dieOf c) ((a.ring c r.val).spillBase + m.at_) false = false := by
    rw [gatedFor, huonly.2.2.2.2.1]
    exact hopen
  rw [hgate, if_neg (by decide), spillRows_clean]
  dsimp only
  obtain ⟨hland, hcc, hlast⟩ := landRows_waits (c := c) (r := r) m.hdr (readRows u (spillAddr a c r.val m.at_) m.len) at_ u
  have hring := ring_congr (congrArg Cc.rings hcc) r.val
  refine ⟨?_, ?_, ?_, huonly.trans hlast⟩
  · rw [hring, huring, hspl, hspill]
    rfl
  · rw [hring, huring]
    exact hresv
  · rw [hland, hucm, readRows_congr huonly.2.1]

/-! ### Grants -/

theorem holdGrant_grants {h : Row} {hs : List Row} {at_ : Nat} (hhold : (a.ring c r.val).hold = h :: hs)
    (hgrant : (a.ring c r.val).grantAt ≠ some (a.sc c).wall) (hspill : (a.ring c r.val).spill = [])
    (hfit : (a.ring c r.val).fit (a.sc c).wall (mhLen h) = some (false, at_)) (hown : mhSendPos h = a.hub.position) :
    Completes (.holdGrant c n r) s fun t =>
    (t.ring c r.val).hold = hs ∧ (t.ring c r.val).resv = (at_ + mhLen h) % (a.ring c r.val).size ∧
    t.net.length = a.net.length + 1 ∧ t.net.getLast?.map (fun x => (x.kind, x.destCore, x.row)) = some (.grant, mhSendCore h, mhSeq h) := by
  have hcount : (a.ring c r.val).spillMsgs = 0 := by
    rw [Ring.spillMsgs, hspill]
    rfl
  have hspace : grantSpace c r.val h a = some (reserveRing c r.val h true (false, at_) a) := by
    unfold grantSpace
    dsimp only
    rw [hcount, if_neg (by decide), hfit]
  have hexec : exec (.holdGrant c n r) s = execHoldGrant c n r s := rfl
  unfold execHoldGrant at hexec
  dsimp only at hexec
  rw [← ha, if_neg (by simpa using hgrant), hhold] at hexec
  dsimp only [List.head?_cons] at hexec
  rw [hspace] at hexec
  dsimp only at hexec
  refine completes_of_next hexec ?_
  clear hexec hspace
  obtain ⟨hresv, -, -, hhld, -, honly⟩ := reserveRing_plain (c := c) (r := r) (h := h) (wait := true) (at_ := at_) a
  generalize reserveRing c r.val h true (false, at_) a = b at hresv hhld honly ⊢
  generalize hu : (b.onRing c r.val fun g => { g with hold := g.hold.tail, grantAt := some (a.sc c).wall }) = u
  have huring : u.ring c r.val = { b.ring c r.val with hold := (b.ring c r.val).hold.tail, grantAt := some (a.sc c).wall } :=
    hu ▸ ring_onRing_self _ b r.isLt
  have huonly : OnlyCore c a u := honly.trans (hu ▸ onlyCore_onRing c r.val _ b)
  have hunet : u.net = a.net := huonly.2.2.1
  rw [answerMsg, putItem_netAppend (by rw [huonly.2.2.2.1]; exact hown)]
  refine ⟨?_, ?_, ?_, ?_⟩
  · rw [show (netAppend u _).ring c r.val = u.ring c r.val from rfl, huring, hhld, hhold]
    rfl
  · rw [show (netAppend u _).ring c r.val = u.ring c r.val from rfl, huring]
    exact hresv
  · rw [netAppend, List.length_append, hunet]
    rfl
  · rw [netAppend, List.getLast?_concat]
    rfl
end

theorem coreNo_val (k : CoreId) : coreNo k.val = k := Fin.ofNat_val_eq_self k

theorem holdGrantArrival_resends {i : Nat} {s : State} {x : Item} {y : Send} {k : CoreId} (hx : itemHere s .grant i = some x)
    (hdest : x.destCore = k.val) (hsends : (s.cc k).sends = [y]) (hsend : sendOf s x y = true) (hstate : y.state ≠ .reading) :
    Completes (.holdGrantArrival i) s fun t =>
    (t.cc k).sends = [{ y with k := 0, state := .queued, due := (s.sc k).wall, retx := true, rows := [] }] ∧ t.net = s.net.eraseIdx i := by
  have hexec : exec (.holdGrantArrival i) s = execHoldGrantArrival i s := rfl
  unfold execHoldGrantArrival at hexec
  rw [hx] at hexec
  dsimp only at hexec
  have hlt := k.isLt
  have hany : ((dropItem i s).cc k).sends.any (sendOf (dropItem i s) x) = true := by
    rw [show (dropItem i s).cc k = s.cc k from rfl, hsends, List.any_cons]
    exact Bool.or_eq_true_iff.mpr (Or.inl hsend)
  rw [hdest, if_neg (by omega), coreNo_val, hany, if_pos rfl] at hexec
  refine completes_of_next hexec ⟨?_, rfl⟩
  rw [State.onCc_cc_self]
  refine (congrArg (List.map _) hsends).trans ?_
  have hsend' : sendOf (dropItem i s) x y = true := hsend
  rw [List.map_cons, List.map_nil, hsend', if_pos rfl, granted, beq_false_of_ne hstate, if_neg (by decide)]
  rfl

/-- Settles O25: header arrivals that do not fit, the spill area's writes and drain, and the grants, by their lemmas. -/
theorem spillHoldAndGrant : Obligations.SpillHoldAndGrant := by
  unfold Obligations.SpillHoldAndGrant
  intro c n i r s a ha
  exact ⟨fun x at_ hx hk hf hd hr hok hturn hm hs hh hg hfit hsp =>
      messageHeaderArrival_spills ha hx hk hf hd hr hok hturn hm hs hh hg hfit hsp,
    fun x hx hk hf hd hr hok hturn hm hs hh hg hfit hsp => messageHeaderArrival_holds ha hx hk hf hd hr hok hturn hm hs hh hg hfit hsp,
    fun m d hs hdone hf hrows hlen hb hrow hopen => spillWriteComplete_writes ha hs hdone hf hrows hlen hb hrow hopen,
    fun m at_ hs hdone hf hv hfit hopen => spillDrain_drains ha hs hdone hf hv hfit hopen,
    fun h hs at_ hh hg hsp hfit hown => holdGrant_grants ha hh hg hsp hfit hown,
    fun x y k hx hd hs hsend hstate => holdGrantArrival_resends hx hd hs hsend hstate⟩

end Sys2Proof.Machine
end

section
/-! SUPPORT. Settles O11, O12 and O13: the Plough's and the Harrow's instructions, windows and rows (R188 to R244). -/

namespace Sys2Proof.Machine

open Sys2Proof

/- Elaborated one by one, the proofs do not wait for one another's equation lemmas. -/
set_option Elab.async false

theorem completes_inCycle {i : Instr} {c : CoreId} {n : Nat} {s a : State} {f : State → State} {p : State → Prop} (e : State → Answer)
    (ha : a = hazardCheck c (advance c n s)) (hrun : (a.sc c).run = .running) (hcyc : (a.sc c).stripCyc < stripLen (a.sc c))
    (hblocked : blockedNow a c = []) (hp : p (f a)) (hi : exec i s = e s := by rfl) (he : e s = inCycle c n f s := by rfl) :
    Completes i s p :=
  completes_of_next (hi.trans (he.trans (inCycle_of_running f ha hrun hcyc hblocked))) hp

/-! ### What writes through handles leave of an engine -/

theorem postFault_en (c : CoreId) (f : Flt) (s : State) (e : CoreId) : (postFault c f s).en e = s.en e := by
  unfold postFault
  extract_lets sc cc room inStall flags strip bits u v
  have hv : v.en e = u.en e := by
    unfold v
    split
    · by_cases h : c = e
      · subst h
        rw [State.onCore_en_self]
        rfl
      · rw [State.onCore_en_ne _ _ _ _ h]
    · rfl
  rw [trace_en, headlandCopy_en, hv, State.onCc_en]

theorem writeH_en (c : CoreId) (source tag ctx h : Nat) (i : Int) (r : Row) (s : State) (e : CoreId) :
    (writeH c source tag ctx h i r s).en e = s.en e := by
  unfold writeH
  dsimp only
  split
  · exact postFault_en ..
  · split
    · exact postFault_en ..
    · rw [writeRow_en, State.onM_en]

theorem writeH_unflagged (c : CoreId) (source tag ctx h : Nat) (i : Int) (r : Row) (s : State) (e : CoreId) :
    ((writeH c source tag ctx h i r s).sc e).unflagged = (s.sc e).unflagged := by
  unfold writeH
  dsimp only
  split
  · exact postFault_unflagged ..
  · split
    · exact postFault_unflagged ..
    · rw [writeRow_sc, State.onM_sc]

/-- An engine without its folds (R304). -/
def Eng.unfolded (e : Eng) : Eng := { e with fold := Vector.replicate 4 0, foldTag := Vector.replicate 4 0 }

theorem foldWrite_unfolded (c : CoreId) (q tag a : Nat) (d : Row) (s : State) :
    ((foldWrite c q tag a d s).en c).unfolded = (s.en c).unfolded := by
  rw [foldWrite, State.onE_en_self]
  rfl

theorem foldWrite_sc (c : CoreId) (q tag a : Nat) (d : Row) (s : State) (e : CoreId) : (foldWrite c q tag a d s).sc e = s.sc e := by
  rw [foldWrite, State.onE_sc]

/-! ### Plough instructions issue -/

section
variable {c : CoreId} {n : Nat} {w : IWord} {st : Strip} {s a : State}

/-- The Plough's registers when operation `r` enters it (R212, R215). -/
def ploughEnters (r : PlgRun) (ramp : Bool) (e : Eng) : Eng :=
  { e with plg := e.plg ++ [r], plgActive := some (r.comp + 1), plgAu := classAu r.cls, plgRamps := satAdd 0xFFFFFFFF e.plgRamps (b2n ramp),
           plgArrays := pbArrays r.block, plgFold := pbFold r.block }

/-- An instruction that issues with an effect on the engines. -/
theorem issueWord_onE {q : Queue} (base busy comp : Nat) (own sum : Bool) (f : Eng → Eng) (hstrip : (a.sc c).strip = some st) :
    let t := issueWord c q w base busy comp own sum (a.onE c f)
    t.en c = f (a.en c) ∧ (t.sc c).flights = (a.sc c).flights ++ [⟨q, wTag w, comp, physStk (a.sc c) st (wCstk w), wCstkN w, own, sum⟩] ∧
    vget (t.sc c).qpos ⟨0, 0, 0⟩ (qIdx q) = ⟨(vget (a.sc c).qpos ⟨0, 0, 0⟩ (qIdx q)).idx + 1, base, busy⟩ ∧ (t.sc c).stk = (a.sc c).stk ∧
    OnlyCore c a t := by
  have hstrip' : ((a.onE c f).sc c).strip = some st := by rw [State.onE_sc, hstrip]
  dsimp only
  rw [issueWord_sc_self q w base busy comp own sum hstrip', issueWord_en, State.onE_en_self, State.onE_sc]
  exact ⟨rfl, rfl, vget_vset_self _ _ _ _ (qIdx_lt q), rfl, (onlyCore_onE c a f).trans (onlyCore_issueWord c _ q w base busy comp own sum)⟩

/-- A Plough operation enters the Plough and takes its place in MQ (R188, R212). -/
theorem issuePlough_issues {op : Nat} {ramp : Bool} {r : PlgRun} (hstrip : (a.sc c).strip = some st)
    (hramp : ramp = plgRamp st (plgIdle (a.en c) (a.sc c).stripCyc)) (hr : r = plgOf a c op w st (a.sc c).stripCyc ramp) :
    let t := issuePlough c op w st a
    (t.en c).plg = (a.en c).plg ++ [r] ∧ (t.en c).plgRamps = min 0xFFFFFFFF ((a.en c).plgRamps + if ramp then 1 else 0) ∧
    (t.sc c).flights = (a.sc c).flights ++ [⟨.mq, wTag w, r.comp, physStk (a.sc c) st (wCstk w), wCstkN w, true, false⟩] ∧
    vget (t.sc c).qpos ⟨0, 0, 0⟩ 0 = ⟨(vget (a.sc c).qpos ⟨0, 0, 0⟩ 0).idx + 1, (a.sc c).stripCyc, r.occEnd⟩ ∧
    (t.sc c).stk = (a.sc c).stk ∧ OnlyCore c a t := by
  have hop : issuePlough c op w st a =
      issueWord c .mq w (a.sc c).stripCyc r.occEnd r.comp true false (a.onE c (ploughEnters r ramp)) := by
    rw [hr, hramp]
    rfl
  obtain ⟨hen, hflights, hqpos, hstk, honly⟩ := issueWord_onE (w := w) (q := .mq) (a.sc c).stripCyc r.occEnd r.comp true false
    (ploughEnters r ramp) hstrip
  have hcount : satAdd 0xFFFFFFFF (a.en c).plgRamps (b2n ramp) = min 0xFFFFFFFF ((a.en c).plgRamps + if ramp then 1 else 0) :=
    satAdd_eq_min _ _ _
  dsimp only
  rw [hop, hen]
  exact ⟨rfl, hcount, hflights, hqpos, hstk, honly⟩
end

/-- Settles O11: each of the seven operations is the same issue with its own opcode. -/
theorem ploughIssues : Obligations.PloughIssues := by
  unfold Obligations.PloughIssues
  intro c n w st s a ha i op hi hissues ramp r hramp hr
  have hstrip := hissues.2.2.2.2.1
  have hp := issuePlough_issues (op := op) (w := w) hstrip hramp hr
  have hstep : ∀ e : State → Answer, e s = issueCmd c .mq op n (issuePlough c op) s → exec i s = e s →
      exec i s = .next (issuePlough c op w st a) := fun e he hie => hie.trans (he.trans (issueCmd_of_issues _ ha hissues))
  refine completes_of_next ?_ hp
  simp only [List.mem_cons, Prod.mk.injEq, List.not_mem_nil, or_false] at hi
  rcases hi with ⟨rfl, rfl⟩ | ⟨rfl, rfl⟩ | ⟨rfl, rfl⟩ | ⟨rfl, rfl⟩ | ⟨rfl, rfl⟩ | ⟨rfl, rfl⟩ | ⟨rfl, rfl⟩
  · exact hstep (execPlgMm c n) rfl rfl
  · exact hstep (execPlgSqd c n) rfl rfl
  · exact hstep (execPlgAbd c n) rfl rfl
  · exact hstep (execPlgMinplus c n) rfl rfl
  · exact hstep (execPlgMaxplus c n) rfl rfl
  · exact hstep (execPlgXorpop c n) rfl rfl
  · exact hstep (execPlgCmpcnt c n) rfl rfl

end Sys2Proof.Machine
end

section
/-! SUPPORT. Settles O12: feed windows, releases and drain rows of the Plough (R195, R203 to R210, R215). -/

namespace Sys2Proof.Machine

open Sys2Proof

/- Elaborated one by one, the proofs do not wait for one another's equation lemmas. -/
set_option Elab.async false

/-! ### Additions that stay within a stake -/

/-- An addition that debug mode does not stop (R44, R77). -/
theorem addStake_of_fits {c : CoreId} {k n : Nat} {s : State} (source tag : Nat)
    (h : debugMode s c = true → (vget (s.sc c).stk 0 k).toNat + n ≤ 255) : addStake c k n source tag s = arriveStake c k n s := by
  have hover : (stakeOverflows s c k n && debugMode s c) = false := by
    rw [stakeOverflows]
    cases hd : debugMode s c
    · exact Bool.and_false _
    · rw [decide_eq_false (Nat.not_lt.mpr (h hd)), Bool.and_false, Bool.false_and]
  unfold addStake
  dsimp only
  rw [hover, Bool.false_and, if_neg (by decide)]

theorem toNat_stk_addStake {c : CoreId} {k : Nat} (n source tag : Nat) (s : State) (hk : k < 48) :
    (vget ((addStake c k n source tag s).sc c).stk 0 k).toNat = min 255 ((vget (s.sc c).stk 0 k).toNat + n) := by
  rw [(addStake_stk_stkOvf c k n source tag s).1, toNat_vget_stakeAdd_stk _ _ hk, Nat.min_comm]

/-! ### Executions -/

section
variable {c : CoreId} {n : Nat} {s a : State} {r : PlgRun}

theorem onPlg_single {f : PlgRun → PlgRun} {u : State} (h : (u.en c).plg = [r]) : ((onPlg c r.t0 f u).en c).plg = [f r] := by
  rw [onPlg, State.onE_en_self]
  simp [h]

theorem onPlg_set {f : PlgRun → PlgRun} (t0 : Nat) (u : State) : ((onPlg c t0 f u).en c).set = (u.en c).set := by
  rw [onPlg, State.onE_en_self]

theorem onlyCore_onPlg (t0 : Nat) (f : PlgRun → PlgRun) (u : State) : OnlyCore c u (onPlg c t0 f u) := onlyCore_onE c u _

/-- A strip in progress has a strip. -/
theorem strip_of_cycle {sc : Sched} (h : sc.stripCyc < stripLen sc) : ∃ st, sc.strip = some st := by
  unfold stripLen at h
  split at h
  · exact ⟨_, by assumption⟩
  · exact absurd h (Nat.not_lt_zero _)

variable (ha : a = hazardCheck c (advance c n s)) (hrun : (a.sc c).run = .running) (hcyc : (a.sc c).stripCyc < stripLen (a.sc c))
  (hblocked : blockedNow a c = []) (hplg : (a.en c).plg = [r])
include ha hrun hcyc hblocked hplg

theorem plgExecutionStart_first (e : ReadErr)
    (hfind : (a.en c).plg.find? (fun r => r.execs < r.total && r.begin_ r.execs == (a.sc c).stripCyc) = some r) (hexecs : r.execs = 0) :
    Completes (.plgExecutionStart c n e) s fun t =>
      (t.en c).plg = [{ r with execs := 1, rows := [], err := e }] ∧ (t.en c).set = r.set0 ∧ t.sc c = a.sc c ∧ OnlyCore c a t := by
  refine completes_inCycle (execPlgExecutionStart c n e) ha hrun hcyc hblocked ?_
  obtain ⟨st, hstrip⟩ := strip_of_cycle hcyc
  have hwant : plgWant (a.sc c) r = [] := by
    rw [plgWant, hstrip, hexecs]
    exact if_neg (by simp)
  have hset : (if r.execs / r.chunks % 2 == 1 then !r.set0 else r.set0) = r.set0 := by
    rw [hexecs, Nat.zero_div]
    rfl
  dsimp only
  rw [hfind]
  dsimp only
  rw [hwant, forAll_nil, hset]
  generalize hu : (a.onE c fun e => { e with set := r.set0 }) = u
  have hen : u.en c = { a.en c with set := r.set0 } := hu ▸ State.onE_en_self ..
  have hset' : (u.en c).set = r.set0 := congrArg Eng.set hen
  rw [onPlg_single ((congrArg Eng.plg hen).trans hplg), onPlg_set, hset', hexecs, onPlg, State.onE_sc, ← hu, State.onE_sc]
  exact ⟨rfl, rfl, rfl, (onlyCore_onE c a _).trans (onlyCore_onE c _ _)⟩

theorem plgExecutionStart_waits {st : Strip} (e : ReadErr)
    (hfind : (a.en c).plg.find? (fun r => r.execs < r.total && r.begin_ r.execs == (a.sc c).stripCyc) = some r) (hexecs : 1 ≤ r.execs)
    (hstrip : (a.sc c).strip = some st) (hf : pwFstk r.word ≠ 63) : Completes (.plgExecutionStart c n e) s fun t =>
      (t.en c).plg = [{ r with execs := r.execs + 1, rows := [], err := e }] ∧
      (t.sc c).stk = vset (a.sc c).stk (physStk (a.sc c) st (pwFstk r.word))
        (vget (a.sc c).stk 0 (physStk (a.sc c) st (pwFstk r.word)) - BitVec.ofNat 8 (pwFstkN r.word)) ∧ OnlyCore c a t := by
  refine completes_inCycle (execPlgExecutionStart c n e) ha hrun hcyc hblocked ?_
  have hdue := List.find?_some hfind
  have hwant : plgWant (a.sc c) r = [⟨.mq, .stake (physStk (a.sc c) st (pwFstk r.word)) (pwFstkN r.word), r.tag, true⟩] := by
    rw [Bool.and_eq_true, decide_eq_true_eq] at hdue
    rw [plgWant, hstrip]
    simp [hexecs, hdue.1, hf, beq_iff_eq.mp hdue.2]
  dsimp only
  rw [hfind]
  dsimp only
  rw [hwant, forAll_cons, forAll_nil]
  dsimp only
  generalize hv : takeStake c (physStk (a.sc c) st (pwFstk r.word)) (pwFstkN r.word) a = v
  have hven : v.en c = a.en c := by rw [← hv, takeStake, State.onSc_en]
  have honly : OnlyCore c a v := hv ▸ onlyCore_onSc ..
  have hstk : (v.sc c).stk = vset (a.sc c).stk (physStk (a.sc c) st (pwFstk r.word))
      (vget (a.sc c).stk 0 (physStk (a.sc c) st (pwFstk r.word)) - BitVec.ofNat 8 (pwFstkN r.word)) := by
    rw [← hv, takeStake, State.onSc_sc_self]
  generalize (if r.execs / r.chunks % 2 == 1 then !r.set0 else r.set0) = set
  have hplg' : ((v.onE c fun e => { e with set := set }).en c).plg = [r] := by
    rw [State.onE_en_self, hven]
    exact hplg
  rw [onPlg_single hplg', onPlg, State.onE_sc, State.onE_sc, hstk]
  exact ⟨rfl, rfl, honly.trans ((onlyCore_onE c v _).trans (onlyCore_onE c _ _))⟩

theorem plgFeedRelease_releases {st : Strip}
    (hfind : (a.en c).plg.find? (fun r => r.rels < r.execs && r.begin_ r.rels + r.feed == (a.sc c).stripCyc + 1) = some r)
    (hstrip : (a.sc c).strip = some st) (hr : pwRstk r.word ≠ 63) (hk : physStk (a.sc c) st (pwRstk r.word) < 48)
    (hd : debugMode a c = true → (vget (a.sc c).stk 0 (physStk (a.sc c) st (pwRstk r.word))).toNat + pwRstkN r.word ≤ 255) :
    Completes (.plgFeedRelease c n) s fun t =>
      (t.en c).plg = [{ r with rels := r.rels + 1 }] ∧
      (vget (t.sc c).stk 0 (physStk (a.sc c) st (pwRstk r.word))).toNat =
        min 255 ((vget (a.sc c).stk 0 (physStk (a.sc c) st (pwRstk r.word))).toNat + pwRstkN r.word) := by
  refine completes_inCycle (execPlgFeedRelease c n) ha hrun hcyc hblocked ?_
  dsimp only
  rw [hfind, hstrip]
  dsimp only
  rw [if_neg (by simpa using hr)]
  generalize hu : onPlg c r.t0 (fun r => { r with rels := r.rels + 1 }) a = u
  have hsc : u.sc c = a.sc c := by rw [← hu, onPlg, State.onE_sc]
  have hplg' : (u.en c).plg = [{ r with rels := r.rels + 1 }] := hu ▸ onPlg_single hplg
  have hdebug : debugMode u c = true → (vget (u.sc c).stk 0 (physStk (a.sc c) st (pwRstk r.word))).toNat + pwRstkN r.word ≤ 255 := by
    have hmode : debugMode u c = debugMode a c := by
      rw [← hu]
      rfl
    rw [hmode, hsc]
    exact hd
  rw [hsc, toNat_stk_addStake _ _ _ _ hk, hsc, addStake_of_fits _ _ hdebug, arriveStake_en]
  exact ⟨hplg', rfl⟩

omit ha hrun hcyc hblocked hplg in
theorem drainWrite_unfolded (row : Int) (h : Nat) (d : Row) (u : State) :
    ((drainWrite c r h row d u).en c).unfolded = (u.en c).unfolded := by
  rw [drainWrite]
  rw [foldWrite_unfolded, writeH_en]

omit ha hrun hcyc hblocked hplg in
theorem drainWrite_unflagged (row : Int) (h : Nat) (d : Row) (u : State) :
    ((drainWrite c r h row d u).sc c).unflagged = (u.sc c).unflagged := by
  rw [drainWrite]
  rw [foldWrite_sc, writeH_unflagged]

omit ha hrun hcyc hblocked hplg in
theorem drainWrites_unfolded (p d : Nat) (cells : List (BitVec 48)) (u : State) :
    ((drainWrites c r p d cells u).en c).unfolded = (u.en c).unfolded := by
  unfold drainWrites
  dsimp only
  split
  · rw [drainWrite_unfolded, drainWrite_unfolded]
  · split <;> split <;> simp only [drainWrite_unfolded]

omit ha hrun hcyc hblocked hplg in
theorem drainWrites_unflagged (p d : Nat) (cells : List (BitVec 48)) (u : State) :
    ((drainWrites c r p d cells u).sc c).unflagged = (u.sc c).unflagged := by
  unfold drainWrites
  dsimp only
  split
  · rw [drainWrite_unflagged, drainWrite_unflagged]
  · split <;> split <;> simp only [drainWrite_unflagged]

omit ha hrun hcyc hblocked hplg in
/-- The cells of the pass whose next row `r` drains. -/
def PlgRun.cellsNow (r : PlgRun) : List (BitVec 48) := (r.passes.find? fun x => x.1 == r.drained / 32).elim [] (·.2)

omit ha hrun hcyc hblocked hplg in
/-- The instruction once its next row is drained (R203). -/
def PlgRun.rowDone (r : PlgRun) : PlgRun :=
  { r with scales := r.stageScales (r.drained / 32) (r.drained % 32) r.cellsNow, drained := r.drained + 1,
           passes := if r.drained % 32 == 31 then r.passes.filter (fun x => x.1 != r.drained / 32) else r.passes }

omit ha hrun hcyc hblocked hplg in
/-- The counters once the values of a drain row are counted (R215). -/
def countDrained (r : PlgRun) (e : Eng) : Eng :=
  let vals := (r.drainRow (r.drained / 32) r.cellsNow (r.drained % 32)).flatMap (·.2)
  { e with plgSat := satAdd 0xFFFFFFFF e.plgSat (vals.filter (·.sat)).length,
           plgNonfin := satAdd 0xFFFFFFFF e.plgNonfin (vals.filter (·.nonfin)).length }

omit ha hrun hcyc hblocked hplg in
/-- The next row of `r` is drained. -/
def drainOne (c : CoreId) (r : PlgRun) (s : State) : State :=
  retire c ((drainWrites c r.rowDone (r.drained / 32) (r.drained % 32) r.cellsNow (setPlg c r.rowDone s)).onE c (countDrained r))

omit ha hrun hcyc hblocked hplg in
/-- An instruction that has not drained all its rows stays in the Plough. -/
theorem retireRuns_plg {sc : Sched} {e : Eng} (h : e.plg = [r]) (hmore : r.drained ≠ 32 * r.npass) : (retireRuns sc e).plg = [r] := by
  unfold retireRuns
  dsimp only
  rw [h, List.filter_cons_of_pos (by simp [hmore]), List.filter_nil]

theorem plgDrainRow_drains
    (hfind : (a.en c).plg.find? (fun r => r.drained < 32 * r.npass && r.drainCyc (r.drained / 32) (r.drained % 32) == (a.sc c).stripCyc) =
      some r) (hmore : r.drained + 1 ≠ 32 * r.npass) : Completes (.plgDrainRow c n) s fun t =>
    (∃ r', (t.en c).plg = [r'] ∧ r'.drained = r.drained + 1) ∧ (t.sc c).stk = (a.sc c).stk ∧
      (t.en c).plgSat = min 0xFFFFFFFF ((a.en c).plgSat + (((r.drainRow (r.drained / 32)
        ((r.passes.find? fun x => x.1 == r.drained / 32).elim [] (·.2)) (r.drained % 32)).flatMap (·.2)).filter (·.sat)).length) := by
  refine completes_inCycle (execPlgDrainRow c n) ha hrun hcyc hblocked ?_
  dsimp only
  rw [hfind]
  show (∃ r', ((drainOne c r a).en c).plg = [r'] ∧ r'.drained = r.drained + 1) ∧ ((drainOne c r a).sc c).stk = (a.sc c).stk ∧
    ((drainOne c r a).en c).plgSat = _
  generalize hu : drainWrites c (PlgRun.rowDone r) (r.drained / 32) (r.drained % 32) (PlgRun.cellsNow r) (setPlg c (PlgRun.rowDone r) a) = u
  have hen : (u.en c).unfolded = ((setPlg c (PlgRun.rowDone r) a).en c).unfolded := hu ▸ drainWrites_unfolded ..
  have hset : (setPlg c (PlgRun.rowDone r) a).en c = _ := State.onE_en_self ..
  have hsc : (u.sc c).stk = (a.sc c).stk := by
    rw [← hu, eq_of_mask Sched.unflagged Sched.stk (drainWrites_unflagged ..), setPlg, State.onE_sc]
  have hplg' : (u.en c).plg = [PlgRun.rowDone r] := by
    refine (congrArg Eng.plg hen :).trans ((congrArg Eng.plg hset :).trans ?_)
    simp [hplg, PlgRun.rowDone]
  have hsat : (u.en c).plgSat = (a.en c).plgSat := (congrArg Eng.plgSat hen :).trans (congrArg Eng.plgSat hset :)
  have hone : drainOne c r a = retire c (u.onE c fun e => countDrained r e) := by rw [← hu]; rfl
  rw [hone, retire, State.onCore_en_self, State.onCore_sc_self]
  refine ⟨⟨PlgRun.rowDone r, retireRuns_plg ?_ hmore, rfl⟩, ?_, ?_⟩
  · exact (congrArg Eng.plg (State.onE_en_self u c _)).trans hplg'
  · exact (congrArg Sched.stk (State.onE_sc u c _ c)).trans hsc
  · refine (congrArg Eng.plgSat (State.onE_en_self u c _)).trans ?_
    rw [countDrained, satAdd_eq_min, hsat]
    rfl
end

theorem plgCounterClear_clears (c : CoreId) (s : State) : Completes (.plgCounterClear c) s fun t =>
    (t.en c) = { s.en c with plgRamps := 0, plgSat := 0, plgNonfin := 0 } ∧ OnlyCore c s t :=
  completes_of_next rfl ⟨State.onE_en_self s c _, onlyCore_onE c s _⟩

/-- Settles O12: windows, releases, rows and counters by their lemmas. -/
theorem ploughWindows : Obligations.PloughWindows := by
  unfold Obligations.PloughWindows
  intro c n e s a ha
  exact ⟨fun r hrun hcyc hb hfind hplg hexecs => plgExecutionStart_first ha hrun hcyc hb hplg e hfind hexecs,
    fun r st hrun hcyc hb hfind hplg hexecs hstrip hf => plgExecutionStart_waits ha hrun hcyc hb hplg e hfind hexecs hstrip hf,
    fun r st hrun hcyc hb hfind hplg hstrip hr hk hd => plgFeedRelease_releases ha hrun hcyc hb hplg hfind hstrip hr hk hd,
    fun r hrun hcyc hb hfind hplg hmore => plgDrainRow_drains ha hrun hcyc hb hplg hfind hmore, plgCounterClear_clears c s⟩

end Sys2Proof.Machine
end

section
/-! SUPPORT. Settles O13: chains, broadcast loads and rows of the Harrow (R219 to R244). -/

namespace Sys2Proof.Machine

open Sys2Proof

/- Elaborated one by one, the proofs do not wait for one another's equation lemmas. -/
set_option Elab.async false

section
variable {c : CoreId} {n : Nat} {w : IWord} {st : Strip} {s a : State} {r : HrwRun}

/-! ### Harrow instructions issue -/

/-- The Harrow's registers when the chain `r` enters it (R219, R244). -/
def chainEnters (r : HrwRun) (d : BitVec 2048) (w : IWord) (e : Eng) : Eng :=
  { e with hrw := e.hrw ++ [r], hrwStages := chStages d - 1, hrwChain := hwChain w }

theorem issueChain_issues (e : ReadErr) (hstrip : (a.sc c).strip = some st)
    (hr : r = hrwOf a c (accStart (vget (sumsNow a c) SumSlot.reset (hwSlot w)) (hwAcc w)
      (chSummary (st.chain (hwChain w)))) e w st (a.sc c).stripCyc) :
    let t := issueChain c e w st a
    (t.en c).hrw = (a.en c).hrw ++ [r] ∧ (t.en c).sums = (a.en c).sums ∧
    (t.sc c).flights = (a.sc c).flights ++ [⟨.vq, wTag w, r.comp, physStk (a.sc c) st (wCstk w), wCstkN w, true,
      (chSummary (st.chain (hwChain w))).isSome⟩] ∧ OnlyCore c a t := by
  have hop : issueChain c e w st a =
      issueWord c .vq w (a.sc c).stripCyc ((a.sc c).stripCyc + r.execs * r.beats) r.comp true (chSummary (st.chain (hwChain w))).isSome
        (a.onE c (chainEnters r (st.chain (hwChain w)) w)) := by
    rw [hr]
    rfl
  obtain ⟨hen, hflights, -, -, honly⟩ := issueWord_onE (w := w) (q := .vq) (a.sc c).stripCyc ((a.sc c).stripCyc + r.execs * r.beats) r.comp
    true (chSummary (st.chain (hwChain w))).isSome (chainEnters r (st.chain (hwChain w)) w) hstrip
  dsimp only
  rw [hop, hen]
  exact ⟨rfl, rfl, hflights, honly⟩

/-- The load that the instruction `w` begins (R226). -/
def bloadOf (sc : Sched) (w : IWord) (st : Strip) (e : ReadErr) : BloadRun :=
  ⟨wTag w, physH (hdrShared st.hdr) st.slot (w.fld 64 6), w.fld 70 24, w.fld 94 5 + 1, sc.stripCyc, 0, e⟩

/-- A broadcast load enters the engines. -/
def bloadEnters (l : BloadRun) (e : Eng) : Eng := { e with bload := e.bload ++ [l] }

theorem issueBload_issues (e : ReadErr) (hstrip : (a.sc c).strip = some st) :
    let t := issueBload c e w st a
    (t.en c).bload = (a.en c).bload ++ [bloadOf (a.sc c) w st e] ∧
    (t.sc c).flights = (a.sc c).flights ++ [⟨.vq, wTag w, (a.sc c).stripCyc + (w.fld 94 5 + 1), physStk (a.sc c) st (wCstk w),
      wCstkN w, true, false⟩] ∧ OnlyCore c a t := by
  have hop : issueBload c e w st a =
      issueWord c .vq w (a.sc c).stripCyc ((a.sc c).stripCyc + (w.fld 94 5 + 1)) ((a.sc c).stripCyc + (w.fld 94 5 + 1)) true false
        (a.onE c (bloadEnters (bloadOf (a.sc c) w st e))) := rfl
  obtain ⟨hen, hflights, -, -, honly⟩ := issueWord_onE (w := w) (q := .vq) (a.sc c).stripCyc ((a.sc c).stripCyc + (w.fld 94 5 + 1))
    ((a.sc c).stripCyc + (w.fld 94 5 + 1)) true false (bloadEnters (bloadOf (a.sc c) w st e)) hstrip
  dsimp only
  rw [hop, hen]
  exact ⟨rfl, hflights, honly⟩

/-! ### Rows written -/

/-- The chain `r` once its next row is written (R223). -/
def HrwRun.rowWritten (r : HrwRun) : HrwRun := { r with wrote := r.wrote + 1 }

/-- The counters once the values `d` of a row are counted (R235). -/
def countWritten (sat nonfin : Nat) (e : Eng) : Eng :=
  { e with hrwSat := satAdd 0xFFFFFFFF e.hrwSat sat, hrwNonfin := satAdd 0xFFFFFFFF e.hrwNonfin nonfin }

/-- The next row of `r` is stored and folded (R223, R304). -/
def storeNext (c : CoreId) (r : HrwRun) (s : State) : State :=
  let d := r.writeRowOf (s.en c).bbuf (r.wrote / r.rowsPer) (r.wrote % r.rowsPer)
  let h := physH r.shared r.slot (hwWH r.word)
  let i : Int := (bfld r.block 0x08 4 : Int) + loopOff r.loop 2 (r.wrote / r.rowsPer) + (r.wrote % r.rowsPer : Nat)
  foldWrite c 1 r.tag (hAddr (handle s c h) i).1 d.1 (writeH c 1 r.tag (slotCtx s c r.slot.val) h i d.1 s)

/-- The next row of `r` is written and counted. -/
def writeNext (c : CoreId) (r : HrwRun) (s : State) : State :=
  let d := r.writeRowOf (s.en c).bbuf (r.wrote / r.rowsPer) (r.wrote % r.rowsPer)
  retire c ((onHrw c r.t0 HrwRun.rowWritten (storeNext c r s)).onE c (countWritten d.2.1 d.2.2))

theorem storeNext_unfolded (u : State) : ((storeNext c r u).en c).unfolded = (u.en c).unfolded := by
  rw [storeNext, foldWrite_unfolded, writeH_en]

theorem storeNext_unflagged (u : State) : ((storeNext c r u).sc c).unflagged = (u.sc c).unflagged := by
  rw [storeNext, foldWrite_sc, writeH_unflagged]

/-- A chain that has not written all its rows stays in the Harrow. -/
theorem retireRuns_hrw {sc : Sched} {e : Eng} (h : e.hrw = [r]) (hmore : r.wrote ≠ r.execs * r.rowsPer) : (retireRuns sc e).hrw = [r] := by
  unfold retireRuns
  dsimp only
  rw [h, List.filter_cons_of_pos (by simp [hmore]), List.filter_nil]

theorem onHrw_single {f : HrwRun → HrwRun} {u : State} (h : (u.en c).hrw = [r]) : ((onHrw c r.t0 f u).en c).hrw = [f r] := by
  rw [onHrw, State.onE_en_self]
  simp [h]

theorem hrwWriteRow_writes (ha : a = hazardCheck c (advance c n s)) (hrun : (a.sc c).run = .running)
    (hcyc : (a.sc c).stripCyc < stripLen (a.sc c)) (hblocked : blockedNow a c = [])
    (hfind : (a.en c).hrw.find? (fun r => r.wrote < r.execs * r.rowsPer &&
      r.writeCyc (r.wrote / r.rowsPer) (r.wrote % r.rowsPer) == (a.sc c).stripCyc) = some r)
    (hhrw : (a.en c).hrw = [r]) (hmore : r.wrote + 1 ≠ r.execs * r.rowsPer) : Completes (.hrwWriteRow c n) s fun t =>
      (t.en c).hrw = [{ r with wrote := r.wrote + 1 }] ∧
      (t.en c).hrwSat = min 0xFFFFFFFF ((a.en c).hrwSat +
        (r.writeRowOf (a.en c).bbuf (r.wrote / r.rowsPer) (r.wrote % r.rowsPer)).2.1) ∧ (t.sc c).stk = (a.sc c).stk := by
  refine completes_inCycle (execHrwWriteRow c n) ha hrun hcyc hblocked ?_
  dsimp only
  rw [hfind]
  show ((writeNext c r a).en c).hrw = [r.rowWritten] ∧ ((writeNext c r a).en c).hrwSat = _ ∧ ((writeNext c r a).sc c).stk = _
  rw [writeNext]
  generalize r.writeRowOf (a.en c).bbuf (r.wrote / r.rowsPer) (r.wrote % r.rowsPer) = d
  generalize hu : storeNext c r a = u
  have hen : (u.en c).unfolded = (a.en c).unfolded := hu ▸ storeNext_unfolded ..
  have hsc : (u.sc c).stk = (a.sc c).stk := by rw [← hu, eq_of_mask Sched.unflagged Sched.stk (storeNext_unflagged ..)]
  generalize hv : onHrw c r.t0 HrwRun.rowWritten u = v
  have hv1 : (v.en c).hrw = [r.rowWritten] := hv ▸ onHrw_single ((congrArg Eng.hrw hen :).trans hhrw)
  have hv2 : (v.en c).hrwSat = (a.en c).hrwSat := by
    rw [← hv, onHrw, State.onE_en_self]
    exact (congrArg Eng.hrwSat hen :)
  have hv3 : (v.sc c).stk = (a.sc c).stk := by rw [← hv, onHrw, State.onE_sc, hsc]
  rw [retire, State.onCore_en_self, State.onCore_sc_self]
  refine ⟨?_, ?_, ?_⟩
  · exact retireRuns_hrw ((congrArg Eng.hrw (State.onE_en_self v c _)).trans hv1) hmore
  · refine (congrArg Eng.hrwSat (State.onE_en_self v c _)).trans ?_
    rw [countWritten, satAdd_eq_min, hv2]
  · exact (congrArg Sched.stk (State.onE_sc v c _ c)).trans hv3
end

/-! ### Clearing counters and slots -/

theorem hrwCounterClear_clears (c : CoreId) (s : State) : Completes (.hrwCounterClear c) s fun t =>
    t.en c = { s.en c with hrwSat := 0, hrwNonfin := 0 } ∧ OnlyCore c s t :=
  completes_of_next rfl ⟨State.onE_en_self s c _, onlyCore_onE c s _⟩

/-- A clear takes from a slot what no posting sets in the same control-core cycle (R12, R244). -/
theorem clearSum_both (s : State) (c : CoreId) (k : Nat) :
    clearSum s c k true true = { vget (s.en c).sums SumSlot.reset k with
      valid := (vget (s.en c).sums SumSlot.reset k).valid && bitSet (s.sc c) (0xB48 + 16 * k) 0,
      mism := (vget (s.en c).sums SumSlot.reset k).mism && bitSet (s.sc c) (0xB48 + 16 * k) 1 } := by
  simp [clearSum]

theorem hrwSumClear_clears (c : CoreId) (s : State) : Completes (.hrwSumClear c) s fun t => OnlyCore c s t ∧ ∀ k, k < 8 →
    vget (t.en c).sums SumSlot.reset k = { vget (s.en c).sums SumSlot.reset k with
      valid := (vget (s.en c).sums SumSlot.reset k).valid && bitSet (s.sc c) (0xB48 + 16 * k) 0,
      mism := (vget (s.en c).sums SumSlot.reset k).mism && bitSet (s.sc c) (0xB48 + 16 * k) 1 } := by
  refine completes_of_next rfl ⟨onlyCore_onE c s _, fun k hk => ?_⟩
  rw [State.onE_en_self, ← clearSum_both]
  simp [vget, hk]

/-- Settles O13: chains, loads, rows, counters and slots by their lemmas. -/
theorem harrowChains : Obligations.HarrowChains := by
  unfold Obligations.HarrowChains
  intro c n e w st s a ha
  exact ⟨fun hi r hr => completes_of_next ((issueCmd_of_issues _ ha hi : execHrwChain c n e s = _)) (issueChain_issues e hi.2.2.2.2.1 hr),
    fun hi => completes_of_next ((issueCmd_of_issues _ ha hi : execHrwBload c n e s = _)) (issueBload_issues e hi.2.2.2.2.1),
    fun r hrun hcyc hb hfind hhrw hmore => hrwWriteRow_writes ha hrun hcyc hb hfind hhrw hmore,
    hrwCounterClear_clears c s, hrwSumClear_clears c s⟩

end Sys2Proof.Machine
end

section
/-! SUPPORT. Settles O6: late items and held arrivals (R49, R60, R293). -/

namespace Sys2Proof.Machine

open Sys2Proof

/- Elaborated one by one, the proofs do not wait for one another's equation lemmas. -/
set_option Elab.async false

/-! ### An arrival is performed -/

section
variable {c : CoreId} {k n : Nat} {s : State}

/-- The core's queue once handle `h` is pushed to it by an arrival. -/
def arrivalPushed (c : CoreId) (q h : Nat) (s : State) : State := s.onCore c fun k => { k with sc := hqAppend k.m k.sc q h }

theorem arrivalPushed_sc (q h : Nat) : (arrivalPushed c q h s).sc c = hqAppend (s.cm c) (s.sc c) q h := State.onCore_sc_self ..

theorem trace_debug (q kind tag : Nat) (u : State) : debugMode (trace c q kind tag u) c = debugMode u c :=
  congrArg Die.debug (trace_die ..)

theorem performArrival_some_of_fits (q h tag : Nat) (hfits : debugMode s c = true → (vget (s.sc c).stk 0 k).toNat + n ≤ 255) :
    performArrival c (some q) h k n tag s = arriveStake c k n (trace c 3 2 tag (arrivalPushed c q h s)) := by
  refine addStake_of_fits 5 tag ?_
  dsimp only
  rw [trace_sc, ← arrivalPushed, arrivalPushed_sc, (hqAppend_hq0_stk _ _ _ _).2]
  rw [trace_debug]
  exact hfits

theorem performArrival_none_of_fits (h tag : Nat) (hfits : debugMode s c = true → (vget (s.sc c).stk 0 k).toNat + n ≤ 255) :
    performArrival c none h k n tag s = arriveStake c k n (trace c 3 2 tag s) := by
  refine addStake_of_fits 5 tag ?_
  dsimp only
  rw [trace_sc]
  rw [trace_debug]
  exact hfits

/-- The stake of an arrival takes its amount, at most 255, whether or not a handle is pushed (R49). -/
theorem toNat_stk_performArrival (ahq : Option Nat) (h tag : Nat) (hk : k < 48) :
    (vget ((performArrival c ahq h k n tag s).sc c).stk 0 k).toNat = min 255 ((vget (s.sc c).stk 0 k).toNat + n) := by
  cases ahq with
  | none =>
    rw [performArrival]
    rw [toNat_stk_addStake _ _ _ _ hk, trace_sc]
  | some q =>
    rw [performArrival]
    rw [toNat_stk_addStake _ _ _ _ hk, trace_sc, ← arrivalPushed, arrivalPushed_sc, (hqAppend_hq0_stk _ _ _ _).2]

/-- The handle of an arrival joins its queue, with the generation that the handle has (R49). -/
theorem hq_performArrival {q : Nat} (h tag : Nat) (hq : q < 8) (hroom : (vget (s.sc c).hq [] q).length < 8) :
    vget ((performArrival c (some q) h k n tag s).sc c).hq [] q = vget (s.sc c).hq [] q ++ [⟨h, hGen (handle s c h)⟩] := by
  rw [performArrival]
  rw [eq_of_mask Sched.unstaked Sched.hq (addStake_unstaked ..), trace_sc, ← arrivalPushed, arrivalPushed_sc,
    hqAppend_hq_of_room _ _ hq hroom]
  rfl

theorem heldArr_performArrival (q h tag : Nat) :
    ((performArrival c (some q) h k n tag s).sc c).heldArr = (s.sc c).heldArr := by
  rw [performArrival]
  rw [eq_of_mask Sched.unstaked Sched.heldArr (addStake_unstaked ..), trace_sc, ← arrivalPushed, arrivalPushed_sc, hqAppend]
  dsimp only
  split <;> rfl
end

/-! ### A late item leaves the list -/

/-- The late item `l` leaves its core's list; the power gating that waits for it goes on (R471). -/
def lateLeaves (c : CoreId) (l : LateItem) (s : State) : State :=
  let x := l.x
  let s := s.onE c fun e => { e with late := e.late.filter fun y => y.x.id != x.id }
  let s := if l.inbound && x.hop != 8 && (s.core c).gate == .clockGated then
      s.onCore c fun k => { k with gatedAt := k.sc.wall } else s
  if (s.core c).gateCmd && (s.core c).gate == .clockGated && !hopperLate s c then powerGate c s else s

section
variable {c : CoreId} {n i : Nat} {l : LateItem} {s a : State}

theorem lateArrive_uncut (hcut : l.cut = false) :
    lateArrive c l a = arriveNow c l.x.ahq l.x.dstH l.x.astk l.x.astkN l.x.tag (lateLeaves c l a) := by
  have h : lateArrive c l a = if l.cut then lateLeaves c l a
    else arriveNow c l.x.ahq l.x.dstH l.x.astk l.x.astkN l.x.tag (lateLeaves c l a) := rfl
  rw [h, hcut]
  rfl

/-- A core part without what power gating alters, and the time from which its delay runs. -/
def Core.ungated (k : Core) : Core :=
  { k with gate := .awake, gateCmd := false, gatedAt := 0, m := { k.m with hop := [] }, e := { k.e with acc := Vector.replicate 2 [] },
           sc := { k.sc with held := 0 } }

/-- What leaves the list alters of a core. -/
def withoutLate (id : Nat) (k : Core) : Core := { k with e := { k.e with late := k.e.late.filter fun y => y.x.id != id } }

theorem lateLeaves_ungated : ((lateLeaves c l a).core c).ungated = (withoutLate l.x.id (a.core c)).ungated := by
  have hgate (u : State) : ((powerGate c u).core c).ungated = (u.core c).ungated := by
    rw [powerGate, State.onCore_core_self]
    rfl
  have hat (u : State) : ((u.onCore c fun k => { k with gatedAt := k.sc.wall }).core c).ungated = (u.core c).ungated := by
    rw [State.onCore_core_self]
    rfl
  have hfirst : (a.onE c fun e => { e with late := e.late.filter fun y => y.x.id != l.x.id }).core c = withoutLate l.x.id (a.core c) :=
    State.onCore_core_self ..
  rw [lateLeaves]
  split <;> split <;> simp only [hgate, hat, hfirst]

theorem lateLeaves_die (d : DieId) : (lateLeaves c l a).die d = a.die d := by
  rw [lateLeaves]
  split <;> split <;> simp only [powerGate_die, State.onCore_die, State.onE_die]

theorem lateLeaves_late : ((lateLeaves c l a).en c).late = (a.en c).late.filter fun y => y.x.id != l.x.id :=
  (congrArg (fun k => Eng.late (Core.e k)) lateLeaves_ungated :)

theorem lateLeaves_stk : ((lateLeaves c l a).sc c).stk = (a.sc c).stk :=
  (congrArg (fun k => Sched.stk (Core.sc k)) lateLeaves_ungated :)

theorem lateLeaves_hq : ((lateLeaves c l a).sc c).hq = (a.sc c).hq :=
  (congrArg (fun k => Sched.hq (Core.sc k)) lateLeaves_ungated :)

theorem lateLeaves_heldArr : ((lateLeaves c l a).sc c).heldArr = (a.sc c).heldArr :=
  (congrArg (fun k => Sched.heldArr (Core.sc k)) lateLeaves_ungated :)

theorem lateLeaves_handle (h : Nat) : handle (lateLeaves c l a) c h = handle a c h :=
  (congrArg (fun k => vget (Mem1.handles (Core.m k)) 0 h) lateLeaves_ungated :)

theorem sc_of_ungated {j k : Core} (h : j.ungated = k.ungated) : ∃ held, j.sc = { k.sc with held := held } :=
  ⟨_, (congrArg (fun i => { Core.sc i with held := j.sc.held }) h :)⟩

theorem lateLeaves_sc : ∃ h, (lateLeaves c l a).sc c = { a.sc c with held := h } := by
  have h := sc_of_ungated (lateLeaves_ungated (c := c) (l := l) (a := a))
  exact h

/-- What the queues are about to push does not depend on the list of late items. -/
theorem lateLeaves_pushesDue (k : Nat) : pushesDue (lateLeaves c l a) c k = pushesDue a c k := by
  obtain ⟨h, hsc⟩ := lateLeaves_sc (c := c) (l := l) (a := a)
  have hplg : ((lateLeaves c l a).en c).plg = (a.en c).plg := (congrArg (fun k => Eng.plg (Core.e k)) lateLeaves_ungated :)
  have htlr : ((lateLeaves c l a).en c).tlr = (a.en c).tlr := (congrArg (fun k => Eng.tlr (Core.e k)) lateLeaves_ungated :)
  have hwants : dueWants (lateLeaves c l a) c = dueWants a c := by
    unfold dueWants
    dsimp only
    rw [hsc, hplg, htlr]
    rfl
  unfold pushesDue blockedNow
  dsimp only
  rw [hwants, hsc]
  rfl

/-- The room that an arrival finds does not depend on the list of late items. -/
theorem lateLeaves_room (k : Nat) : arrivalRoom ((lateLeaves c l a).sc c) k (pushesDue (lateLeaves c l a) c k) =
    arrivalRoom (a.sc c) k (pushesDue a c k) := by
  obtain ⟨h, hsc⟩ := lateLeaves_sc (c := c) (l := l) (a := a)
  rw [lateLeaves_pushesDue, hsc]
  rfl

/-! ### The commands -/

variable (ha : a = advance c n s)
include ha

/-- A whole late item that awaits no acknowledgement arrives. -/
theorem completes_lateArrival {p : State → Prop} (hl : (a.en c).late[i]? = some l)
    (hin : l.inbound = true ∨ (l.x.hostEnd a c = false ∧ (a.net.all fun x => x.kind != .writeAck) = true)) (hwhole : l.whole = true)
    (hcut : l.cut = false) (hp : p (arriveNow c l.x.ahq l.x.dstH l.x.astk l.x.astkN l.x.tag (lateLeaves c l a))) :
    Completes (.lateArrival c n i) s p := by
  rw [← lateArrive_uncut hcut] at hp
  have hexec : exec (.lateArrival c n i) s = execLateArrival c n i s := rfl
  unfold execLateArrival at hexec
  dsimp only at hexec
  rw [← ha, hl] at hexec
  dsimp only at hexec
  refine completes_of_next ?_ hp
  rcases hin with hin | ⟨hhost, hnet⟩
  · rw [hin, Bool.not_true, Bool.false_and, if_neg (by decide), Bool.true_or, if_pos rfl, hl] at hexec
    dsimp only at hexec
    rw [hexec, hwhole, if_pos rfl]
  · have hnone : a.net.filter (fun x => x.kind == .writeAck && x.destPos == a.hub.position && x.destCore == c.val && x.tag == l.x.tag) = [] :=
      List.filter_eq_nil_iff.mpr fun x hx => by
        have hkind : (x.kind == .writeAck) = false := by simpa using List.all_eq_true.mp hnet x hx
        simp [hkind]
    rw [hhost, Bool.and_false, if_neg (by decide), hnone, List.isEmpty_nil, Bool.or_true, if_pos rfl, hl] at hexec
    dsimp only at hexec
    rw [hexec, hwhole, if_pos rfl]

theorem lateArrival_adds (hl : (a.en c).late[i]? = some l)
    (hin : l.inbound = true ∨ (l.x.hostEnd a c = false ∧ (a.net.all fun x => x.kind != .writeAck) = true)) (hwhole : l.whole = true)
    (hcut : l.cut = false) (hq : l.x.ahq = none) (hk : l.x.astk < 48)
    (hfits : debugMode a c = true → (vget (a.sc c).stk 0 l.x.astk).toNat + l.x.astkN ≤ 255) :
    Completes (.lateArrival c n i) s fun t =>
      (t.en c).late = (a.en c).late.filter (fun y => y.x.id != l.x.id) ∧
      (vget (t.sc c).stk 0 l.x.astk).toNat = min 255 ((vget (a.sc c).stk 0 l.x.astk).toNat + l.x.astkN) := by
  refine completes_lateArrival ha hl hin hwhole hcut ?_
  have hfits' : debugMode (lateLeaves c l a) c = true → (vget ((lateLeaves c l a).sc c).stk 0 l.x.astk).toNat + l.x.astkN ≤ 255 := by
    rw [debugMode, lateLeaves_die, lateLeaves_stk]
    exact hfits
  rw [arriveNow, hq, arrive]
  rw [toNat_stk_performArrival _ _ _ hk, lateLeaves_stk, performArrival_none_of_fits _ _ hfits', arriveStake_en, trace_en, lateLeaves_late]
  exact ⟨rfl, rfl⟩

theorem lateArrival_pushes {k : Nat} (hl : (a.en c).late[i]? = some l) (hin : l.inbound = true) (hwhole : l.whole = true)
    (hcut : l.cut = false) (hq : l.x.ahq = some k) (hk8 : k < 8) (hheld : ((a.sc c).heldArr.any fun x => x.q == k) = false)
    (hroom : arrivalRoom (a.sc c) k (pushesDue a c k) = true) (hlen : (vget (a.sc c).hq [] k).length < 8) (hk : l.x.astk < 48) :
    Completes (.lateArrival c n i) s fun t =>
      vget (t.sc c).hq [] k = vget (a.sc c).hq [] k ++ [⟨l.x.dstH, hGen (handle a c l.x.dstH)⟩] ∧
      (vget (t.sc c).stk 0 l.x.astk).toNat = min 255 ((vget (a.sc c).stk 0 l.x.astk).toNat + l.x.astkN) := by
  refine completes_lateArrival ha hl (.inl hin) hwhole hcut ?_
  have hfree : ((lateLeaves c l a).sc c).heldArr.all (fun x => x.q != k) = true := by
    rw [lateLeaves_heldArr, List.all_eq_not_any_not]
    simpa using hheld
  have hlen' : (vget ((lateLeaves c l a).sc c).hq [] k).length < 8 := by
    rw [lateLeaves_hq]
    exact hlen
  rw [arriveNow, hq, arrive]
  rw [hfree, lateLeaves_room, hroom, Bool.and_self, if_pos rfl, toNat_stk_performArrival _ _ _ hk, hq_performArrival _ _ hk8 hlen', lateLeaves_stk,
    lateLeaves_hq, lateLeaves_handle]
  exact ⟨rfl, rfl⟩

theorem lateArrival_holds {k : Nat} (hl : (a.en c).late[i]? = some l) (hin : l.inbound = true) (hwhole : l.whole = true)
    (hcut : l.cut = false) (hq : l.x.ahq = some k)
    (hno : ((a.sc c).heldArr.any fun x => x.q == k) = true ∨ arrivalRoom (a.sc c) k (pushesDue a c k) = false) :
    Completes (.lateArrival c n i) s fun t =>
      (t.sc c).heldArr = (a.sc c).heldArr ++ [⟨k, l.x.dstH, l.x.astk, l.x.astkN, l.x.tag⟩] ∧ (t.sc c).stk = (a.sc c).stk ∧
      (t.sc c).hq = (a.sc c).hq := by
  refine completes_lateArrival ha hl (.inl hin) hwhole hcut ?_
  have hblock : (((lateLeaves c l a).sc c).heldArr.all (fun x => x.q != k) &&
      arrivalRoom ((lateLeaves c l a).sc c) k (pushesDue (lateLeaves c l a) c k)) = false := by
    rw [lateLeaves_room, lateLeaves_heldArr]
    rcases hno with h | h
    · rw [Bool.and_eq_false_iff, List.all_eq_not_any_not]
      exact .inl (by simpa using h)
    · rw [h, Bool.and_false]
  rw [arriveNow, hq, arrive]
  rw [hblock, if_neg (by decide), State.onSc_sc_self]
  dsimp only
  rw [lateLeaves_heldArr, lateLeaves_stk, lateLeaves_hq]
  exact ⟨rfl, rfl, rfl⟩

theorem heldArrivalRetry_performs {q : Fin 8} {h : Held} (hfind : (a.sc c).heldArr.find? (fun x => x.q == q.val) = some h)
    (hroom : arrivalRoom (a.sc c) q.val (pushesDue a c q.val) = true) (hlen : (vget (a.sc c).hq [] q.val).length < 8) (hk : h.stk < 48)
    (hfits : debugMode a c = true → (vget (a.sc c).stk 0 h.stk).toNat + h.n ≤ 255) :
    Completes (.heldArrivalRetry c n q) s fun t =>
      (t.sc c).heldArr = (a.sc c).heldArr.eraseP (fun x => x.q == q.val) ∧
      vget (t.sc c).hq [] q.val = vget (a.sc c).hq [] q.val ++ [⟨h.h, hGen (handle a c h.h)⟩] ∧
      (vget (t.sc c).stk 0 h.stk).toNat = min 255 ((vget (a.sc c).stk 0 h.stk).toNat + h.n) ∧
      t.mem = a.mem ∧ t.net = a.net ∧ ∀ c', c' ≠ c → t.core c' = a.core c' := by
  have hexec : exec (.heldArrivalRetry c n q) s = execHeldArrivalRetry c n q s := rfl
  unfold execHeldArrivalRetry at hexec
  dsimp only at hexec
  rw [← ha, hfind] at hexec
  dsimp only at hexec
  rw [whenDue_of_due hroom] at hexec
  refine completes_of_next hexec ?_
  generalize hu : (a.onSc c fun sc => { sc with heldArr := sc.heldArr.eraseP fun x => x.q == q.val }) = u
  have hsc : u.sc c = { a.sc c with heldArr := (a.sc c).heldArr.eraseP fun x => x.q == q.val } := hu ▸ State.onSc_sc_self ..
  have hdebug : debugMode u c = debugMode a c := hu ▸ rfl
  have hlen' : (vget (u.sc c).hq [] q.val).length < 8 := hsc ▸ hlen
  have hfits' : debugMode u c = true → (vget (u.sc c).stk 0 h.stk).toNat + h.n ≤ 255 := by
    rw [hdebug, hsc]
    exact hfits
  have hhandle : handle u c h.h = handle a c h.h := by rw [handle, ← hu, State.onSc_cm, handle]
  refine ⟨?_, ?_, ?_, ?_, ?_, fun c' hc => ?_⟩
  · rw [heldArr_performArrival, hsc]
  · rw [hq_performArrival _ _ q.isLt hlen', hhandle, hsc]
  · rw [toNat_stk_performArrival _ _ _ hk, hsc]
  · rw [performArrival_some_of_fits _ _ _ hfits', arriveStake_mem, trace_mem, arrivalPushed, State.onCore_mem, ← hu, State.onSc_mem]
  · rw [performArrival_some_of_fits _ _ _ hfits', arriveStake_net, trace_net, arrivalPushed, State.onCore_net, ← hu, State.onSc_net]
  · rw [performArrival_some_of_fits _ _ _ hfits', arriveStake_core_ne _ _ _ _ _ hc.symm, trace_core_ne _ _ _ _ _ _ hc.symm, arrivalPushed,
      State.onCore_core_ne _ _ _ _ hc.symm, ← hu, State.onSc_core_ne _ _ _ _ hc.symm]
end

/-- Settles O6: an arrival without a queue, one that is pushed, one that is held, and its retry. -/
theorem lateItemsArrive : Obligations.LateItemsArrive := by
  unfold Obligations.LateItemsArrive
  intro c n i q s a ha
  exact ⟨fun l hl hin hw hcut hq hk hf => lateArrival_adds ha hl hin hw hcut hq hk hf,
    fun l k hl hin hw hcut hq hk8 hh hroom hlen hk _ => lateArrival_pushes ha hl hin hw hcut hq hk8 hh hroom hlen hk,
    fun l k hl hin hw hcut hq hno => lateArrival_holds ha hl hin hw hcut hq hno,
    fun h hf hroom hlen hk hfits => heldArrivalRetry_performs ha hf hroom hlen hk hfits⟩

end Sys2Proof.Machine
end

section
/-! SUPPORT. Settles O8: requests and inbound rows of the Commons (R95, R99, R101, R121, R293). -/

namespace Sys2Proof.Machine

open Sys2Proof

/- Elaborated one by one, the proofs do not wait for one another's equation lemmas. -/
set_option Elab.async false

theorem populated_of_commons {a row : Nat} {d : DieId} (h : placeOf a = .commons d row) : populated a = true := by
  rw [populated, h]

/-! ### What an arrival leaves of memory -/

section
variable {c : CoreId} {l : LateItem}

theorem arriveNow_mem (ahq : Option Nat) (h k n tag : Nat) (s : State) : (arriveNow c ahq h k n tag s).mem = s.mem :=
  (arriveNow_stirs (.refl s) c ahq h k n tag).mem

theorem lateLeaves_mem (s : State) : (lateLeaves c l s).mem = s.mem := by
  rw [lateLeaves]
  split <;> split <;> simp only [powerGate_mem, State.onCore_mem, State.onE_mem]

theorem lateLeaves_cmnIn (s : State) : ((lateLeaves c l s).cm c).cmnIn = (s.cm c).cmnIn :=
  (congrArg (fun k => Mem1.cmnIn (Core.m k)) lateLeaves_ungated :)

theorem lateLeaves_land (s : State) : ((lateLeaves c l s).cm c).land = (s.cm c).land :=
  (congrArg (fun k => Mem1.land (Core.m k)) lateLeaves_ungated :)

/-- A late item's arrival alters no row of memory, nor which rows wait for their place. -/
theorem lateArrive_memory (s : State) : (lateArrive c l s).mem = s.mem ∧ ((lateArrive c l s).cm c).cmnIn = (s.cm c).cmnIn ∧
    ((lateArrive c l s).cm c).land = (s.cm c).land := by
  have h : lateArrive c l s = if l.cut then lateLeaves c l s
    else arriveNow c l.x.ahq l.x.dstH l.x.astk l.x.astkN l.x.tag (lateLeaves c l s) := rfl
  rw [h]
  split
  · exact ⟨lateLeaves_mem s, lateLeaves_cmnIn s, lateLeaves_land s⟩
  · have hcm := (arriveNow_stirs (.refl (lateLeaves c l s)) c l.x.ahq l.x.dstH l.x.astk l.x.astkN l.x.tag).cm c
    rw [arriveNow_mem, hcm]
    exact ⟨lateLeaves_mem s, lateLeaves_cmnIn s, lateLeaves_land s⟩

theorem writeOut_cm (id a : Nat) (s : State) (e : CoreId) : (writeOut c id a s).cm e = s.cm e := by
  rw [writeOut, State.onCc_cm, State.onE_cm]

theorem ackLocal_memory (tag a : Nat) (s : State) (e : CoreId) : (ackLocal c tag a s).mem = s.mem ∧ (ackLocal c tag a s).cm e = s.cm e := by
  unfold ackLocal
  split
  · exact ⟨rfl, rfl⟩
  · rw [writeOut_cm, State.onE_cm]
    exact ⟨rfl, rfl⟩

theorem putItem_cores (i : Item) (s : State) : (putItem i s).cores = s.cores :=
  (putItem_within (P := ⟨true, false, true, true⟩) (within_refl _ s) rfl i).2.1 rfl

theorem putItem_core (i : Item) (s : State) (e : CoreId) : (putItem i s).en e = s.en e ∧ (putItem i s).sc e = s.sc e :=
  ⟨congrArg (fun cores : Vector Core 128 => cores[e].e) (putItem_cores i s),
    congrArg (fun cores : Vector Core 128 => cores[e].sc) (putItem_cores i s)⟩

theorem putItem_memory (i : Item) (s : State) (e : CoreId) : (putItem i s).mem = s.mem ∧ (putItem i s).cm e = s.cm e :=
  ⟨(putItem_within (P := ⟨false, true, true, true⟩) (within_refl _ s) rfl i).1 rfl,
    congrArg (fun cores : Vector Core 128 => cores[e].m) (putItem_cores i s)⟩

/-- Telling the owner of a row that it is placed alters no row of memory, nor which rows wait for their place. -/
theorem rowPlaced_memory (o : LandOwner) (a : Nat) (s : State) : (rowPlaced c o a s).mem = s.mem ∧
    ((rowPlaced c o a s).cm c).cmnIn = (s.cm c).cmnIn ∧ ((rowPlaced c o a s).cm c).land = (s.cm c).land := by
  cases o with
  | late id =>
    rw [rowPlaced, sweepLate]
    split
    · rw [(lateArrive_memory _).1, (lateArrive_memory _).2.1, (lateArrive_memory _).2.2, State.onE_mem, State.onE_cm]
      exact ⟨rfl, rfl, rfl⟩
    · rw [State.onE_mem, State.onE_cm]
      exact ⟨rfl, rfl, rfl⟩
  | msg r seq sendCore sendPos =>
    rw [rowPlaced, State.onCore_mem, State.onCore_cm_self]
    exact ⟨rfl, rfl, rfl⟩
  | write srcPos srcCore tag plane =>
    rw [rowPlaced, ackWrite]
    split
    · obtain ⟨hmem, hcm⟩ := ackLocal_memory (c := coreNo srcCore) tag a s c
      exact ⟨hmem, congrArg Mem1.cmnIn hcm, congrArg Mem1.land hcm⟩
    · obtain ⟨hmem, hcm⟩ := putItem_memory ⟨.writeAck, plane, srcPos, srcCore, s.hub.position, a / 0x1000000 % 128, tag, a, 0, 1, 0,
        true, 0⟩ s c
      exact ⟨hmem, congrArg Mem1.cmnIn hcm, congrArg Mem1.land hcm⟩

theorem hubRelease_memory (s : State) (e : CoreId) : (hubRelease s).mem = s.mem ∧ (hubRelease s).cm e = s.cm e :=
  ⟨(hubRelease_within (P := ⟨false, true, true, true⟩) (within_refl _ s) rfl).1 rfl,
    congrArg (fun cores : Vector Core 128 => cores[e].m) ((hubRelease_within (P := ⟨true, false, true, true⟩) (within_refl _ s) rfl).2.1 rfl)⟩
end

/-! ### The bank access -/

section
variable {c : CoreId} {n i w : Nat} {s a b : State} {r : CmnReq}

theorem onlyCore_bankDone (d : Row) (u : State) : OnlyCore c u (bankDone c i d u) := onlyCore_onE ..

theorem bankDone_cmn {u : State} (d : Row) (hr : (u.en c).cmn[i]? = some r) :
    ((bankDone c i d u).en c).cmn[i]? = some { r with done := true, data := d } := by
  rw [bankDone, State.onE_en_self]
  simp [hr]

/-- A request's bank access, with its conditions met (R95). -/
theorem commonsBankAccess_due (ha : a = advance c n s) (hr : (a.en c).cmn[i]? = some r) (hdone : r.done = false)
    (hreq : r.req < (a.sc c).stripCyc) (hland : (a.sc c).stripCyc < r.land ∨ ((a.sc c).run = .stalled ∧ (a.sc c).stripCyc = r.land))
    (hbefore : (((a.en c).cmn.take i).all fun x => x.done || x.addr != r.addr) = true) (hok : r.ok = true)
    {d : DieId} {row : Nat} (hplace : placeOf r.addr = .commons d row) (hw : w ≤ 7) (hmade : r.made + w < (a.sc c).wall) :
    exec (.commonsBankAccess c n i w .clean) s = .next (
      if gatedFor a d row r.isWrite && !(r.isWrite && acceptedBefore a d row ((a.sc c).wall - w)) then
        bankDone c i (if r.isWrite then r.data else 0)
          (postFault c (gatedFlt a 3 r.tag (stripCtx a c) row (if r.isWrite then 1 else 0) r.addr) a)
      else if r.isWrite then bankDone c i r.data (writeRow a r.addr r.data)
      else bankDone c i (readRow a r.addr) a) := by
  have hexec : exec (.commonsBankAccess c n i w .clean) s = execCommonsBankAccess c n i w .clean s := rfl
  unfold execCommonsBankAccess at hexec
  dsimp only at hexec
  rw [← ha, hr] at hexec
  dsimp only at hexec
  have hdue : (!r.done && r.req < (a.sc c).stripCyc && ((a.sc c).stripCyc < r.land || ((a.sc c).run == .stalled &&
      (a.sc c).stripCyc == r.land)) && (((a.en c).cmn.take i).all fun x => x.done || x.addr != r.addr) &&
      r.made + w < (a.sc c).wall) = true := by
    rw [hbefore, hdone]
    simpa [hreq, hmade] using hland
  rw [whenDue_of_due hdue, hok, if_pos rfl, hplace] at hexec
  dsimp only at hexec
  rw [if_neg (Nat.not_lt.mpr hw)] at hexec
  exact hexec

/-- A Commons request lands (R99, R101). -/
def landRequest (c : CoreId) (i : Nat) (r : CmnReq) (s : State) : State :=
  let s := s.onE c fun e => { e with cmn := e.cmn.eraseIdx i }
  let s := if r.isWrite then writeOut c r.xfer (rowBase r.addr) (foldWrite c 3 r.tag r.addr r.data s) else landRead c r s
  s.onE c fun e => { e with xfers := e.xfers.filter fun x => !x.over }

theorem foldWrite_cmn (q tag at_ : Nat) (d : Row) (u : State) : ((foldWrite c q tag at_ d u).en c).cmn = (u.en c).cmn :=
  (congrArg Eng.cmn (foldWrite_unfolded c q tag at_ d u) :)

/-- A transfer's first row joins the late items of its core (R293). -/
def firstOut (c : CoreId) (x : Xfer) (k : Nat) (s : State) : State :=
  if k == 0 then s.onE c fun e => { e with late := e.late ++ [⟨x, false, x.total, 0, 0, [], [], false⟩] } else s

theorem firstOut_keeps (x : Xfer) (k : Nat) (u : State) :
    ((firstOut c x k u).en c).cmn = (u.en c).cmn ∧ (firstOut c x k u).sc c = u.sc c := by
  unfold firstOut
  split
  · rw [State.onE_en_self, State.onE_sc]
    exact ⟨rfl, rfl⟩
  · exact ⟨rfl, rfl⟩

/-- Where a row that leaves goes: to the host, to no place, or on the ring and the links (R293). -/
def rowLeaves (c : CoreId) (x : Xfer) (k a : Nat) (ok : Bool) (d : Row) (s : State) : State :=
  if x.hostEnd s c then s.onHl fun l => { l with toHost := l.toHost ++ [(rowBase a, d)] }
  else if !(ok && populated a) then
    (postFault c (addressFault 3 x.tag (slotCtx s c x.slot.val) x.dstH 0 (wrap 32 (x.dstRow k))
      (rowBase a % 2 ^ 48 + x.farPos s % 2 ^ 16 * 2 ^ 48)) s).onE c fun e =>
      { e with late := e.late.map fun l => if l.x.id == x.id then { l with arrived := l.arrived + 1 } else l }
  else putItem ⟨.write, rowPlane c.val a, x.farPos s, a / 0x1000000 % 128, s.hub.position, c.val, x.tag, a, k, x.total,
      0, k + 1 == x.total, d⟩ (s.onE c fun e => { e with writes := e.writes ++ [(x.id, x.farPos s, rowBase a)] })

theorem rowLeaves_keeps (x : Xfer) (k at_ : Nat) (ok : Bool) (d : Row) (u : State) : ((rowLeaves c x k at_ ok d u).en c).cmn = (u.en c).cmn ∧
    ((rowLeaves c x k at_ ok d u).sc c).unflagged = (u.sc c).unflagged := by
  unfold rowLeaves
  split
  · exact ⟨rfl, rfl⟩
  · split
    · rw [State.onE_en_self, State.onE_sc, postFault_unflagged, postFault_en]
      exact ⟨rfl, rfl⟩
    · rw [(putItem_core ..).1, (putItem_core ..).2, State.onE_en_self, State.onE_sc]
      exact ⟨rfl, rfl⟩

/-- Handing out a row leaves the core's requests and, but for the flags of a cycle, its schedule. -/
theorem handOut_keeps_requests (x : Xfer) (k : Nat) (d : Row) (u : State) : ((handOut c x k d u).en c).cmn = (u.en c).cmn ∧
    ((handOut c x k d u).sc c).unflagged = (u.sc c).unflagged := by
  have h : handOut c x k d u = rowLeaves c x k (xAddr u c x.dstH (x.dstRow k)).1 (xAddr u c x.dstH (x.dstRow k)).2 d
      (firstOut c x k (foldWrite c 3 x.tag (xAddr u c x.dstH (x.dstRow k)).1 d u)) := rfl
  rw [h, (rowLeaves_keeps ..).1, (rowLeaves_keeps ..).2, (firstOut_keeps ..).1, (firstOut_keeps ..).2, foldWrite_cmn, foldWrite_sc]
  exact ⟨rfl, rfl⟩

theorem setXfer_keeps_requests (x : Xfer) (u : State) : ((setXfer c x u).en c).cmn = (u.en c).cmn ∧ (setXfer c x u).sc c = u.sc c := by
  rw [setXfer, State.onE_en_self, State.onE_sc]
  exact ⟨rfl, rfl⟩

theorem landRead_keeps_requests (u : State) : ((landRead c r u).en c).cmn = (u.en c).cmn ∧
    ((landRead c r u).sc c).unflagged = (u.sc c).unflagged := by
  unfold landRead
  split
  · exact ⟨rfl, rfl⟩
  · split
    · rw [(setXfer_keeps_requests ..).1, (setXfer_keeps_requests ..).2, foldWrite_cmn, foldWrite_sc, writeH_en, writeH_unflagged]
      exact ⟨rfl, rfl⟩
    · rw [(setXfer_keeps_requests ..).1, (setXfer_keeps_requests ..).2]
      exact handOut_keeps_requests ..
    all_goals
      rw [(setXfer_keeps_requests ..).1, (setXfer_keeps_requests ..).2]
      exact ⟨rfl, rfl⟩

theorem landRequest_erases (u : State) : ((landRequest c i r u).en c).cmn = (u.en c).cmn.eraseIdx i ∧
    ((landRequest c i r u).sc c).stk = (u.sc c).stk := by
  have hfirst : ((u.onE c fun e => { e with cmn := e.cmn.eraseIdx i }).en c).cmn = (u.en c).cmn.eraseIdx i := by
    rw [State.onE_en_self]
  have hlast (v : State) : ((v.onE c fun e => { e with xfers := e.xfers.filter fun x => !x.over }).en c).cmn = (v.en c).cmn := by
    rw [State.onE_en_self]
  rw [landRequest]
  rw [hlast, State.onE_sc]
  split
  · rw [writeOut, State.onCc_en, State.onE_en_self, State.onCc_sc, State.onE_sc, foldWrite_sc, State.onE_sc]
    exact ⟨(foldWrite_cmn ..).trans hfirst, rfl⟩
  · rw [(landRead_keeps_requests _).1, eq_of_mask Sched.unflagged Sched.stk (landRead_keeps_requests _).2, State.onE_sc]
    exact ⟨hfirst, rfl⟩

theorem commonsRowLands_due (hb : b = hazardCheck c (advance c n s)) (hrun : (b.sc c).run = .running)
    (hcyc : (b.sc c).stripCyc < stripLen (b.sc c)) (hblocked : blockedNow b c = []) (hr : (b.en c).cmn[i]? = some r) (hdone : r.done = true)
    (hland : r.land = (b.sc c).stripCyc) {p : State → Prop} (hp : p (landRequest c i r b)) : Completes (.commonsRowLands c n i) s p := by
  refine completes_inCycle (execCommonsRowLands c n i) hb hrun hcyc hblocked ?_
  dsimp only
  rw [hr]
  dsimp only
  rw [hdone, hland, beq_self_eq_true, Bool.and_self, if_pos rfl]
  exact hp

theorem onlyCore_landRequest_fill {x : Xfer} (u : State) (hread : r.isWrite = false)
    (hx : (u.en c).xfers.find? (fun x => x.id == r.xfer) = some x) (hkind : x.kind = .cmnFill) :
    OnlyCore c u (landRequest c i r u) ∧ ({ x with buf := (r.k, r.data) :: x.buf }.over = false →
      { x with buf := (r.k, r.data) :: x.buf } ∈ ((landRequest c i r u).en c).xfers) := by
  have hop : landRequest c i r u = (setXfer c { x with buf := (r.k, r.data) :: x.buf }
      (u.onE c fun e => { e with cmn := e.cmn.eraseIdx i })).onE c fun e => { e with xfers := e.xfers.filter fun x => !x.over } := by
    rw [landRequest]
    rw [if_neg (by rw [hread]; decide), landRead, State.onE_en_self]
    dsimp only
    rw [hx]
    dsimp only
    rw [hkind]
  rw [hop]
  refine ⟨(onlyCore_onE ..).trans ((onlyCore_onE ..).trans (onlyCore_onE ..)), fun hover => ?_⟩
  rw [State.onE_en_self, setXfer, State.onE_en_self, State.onE_en_self]
  refine List.mem_filter.mpr ⟨List.mem_map.mpr ⟨x, List.mem_of_find?_eq_some hx, if_pos (beq_self_eq_true _)⟩, ?_⟩
  rw [hover]
  rfl

/-! ### Inbound rows -/

/-- A core's memory without the write-backs that wait (R120). -/
def Mem1.unscrubbed (m : Mem1) : Mem1 := { m with scrub := [] }

theorem writeRow_unscrubbed (at_ : Nat) (d : Row) (u : State) : ((writeRow u at_ d).cm c).unscrubbed = (u.cm c).unscrubbed := by
  unfold writeRow dropScrub
  split
  · split
    · split
      · rfl
      · rename_i c' row _ _
        by_cases h : c' = c
        · subst h
          rw [State.onM_cm_self]
          rfl
        · rw [State.onM_cm_ne _ _ _ _ h]
          rfl
    · split <;> rfl
    · split <;> rfl
    all_goals rfl
  · rfl

theorem writeRow_queues (at_ : Nat) (d : Row) (u : State) :
    ((writeRow u at_ d).cm c).cmnIn = (u.cm c).cmnIn ∧ ((writeRow u at_ d).cm c).land = (u.cm c).land := by
  have h := writeRow_unscrubbed (c := c) at_ d u
  generalize (writeRow u at_ d).cm c = m at h ⊢
  exact ⟨(congrArg Mem1.cmnIn h :), (congrArg Mem1.land h :)⟩

theorem commonsInboundRowPerform_performs (ha : a = advance c n s) {x : CmnIn} {d : DieId} {row : Nat} {rest : List CmnIn}
    (hin : (a.cm c).cmnIn = x :: rest) (hat : x.at_ + 22 ≤ (a.sc c).wall) (hplace : placeOf x.addr = .commons d row)
    (hwaits : bankWaits a d row = false) (hgate : gatedFor a d row true = false) : Completes (.commonsInboundRowPerform c n) s fun t =>
      readRow t x.addr = x.data ∧ (t.cm c).cmnIn = rest ∧ ∀ y, rowBase y ≠ rowBase x.addr → readRow t y = readRow a y := by
  generalize hu : (a.onM c fun m => { m with cmnIn := rest }) = u
  have hgate' : gatedFor u d row true = false := hu ▸ hgate
  have hmem' : u.mem = a.mem := hu ▸ rfl
  have hcm : (u.cm c).cmnIn = rest := by rw [← hu, State.onM_cm_self]
  have hexec : exec (.commonsInboundRowPerform c n) s = thenRelease (performCmnRow c n s) := rfl
  unfold performCmnRow at hexec
  dsimp only at hexec
  rw [← ha, hin] at hexec
  dsimp only at hexec
  rw [whenDue_of_due (by simpa [hplace, hwaits] using hat), thenRelease, hplace, hu] at hexec
  dsimp only at hexec
  rw [hgate', if_neg (by decide)] at hexec
  refine completes_of_next hexec ?_
  rw [(hubRelease_memory _ c).2]
  generalize hv : rowPlaced c x.owner x.addr (writeRow u x.addr x.data) = v
  have hvmem : v.mem = (writeRow u x.addr x.data).mem := hv ▸ (rowPlaced_memory ..).1
  have hvcm : (v.cm c).cmnIn = rest := by
    rw [← hv, (rowPlaced_memory ..).2.1]
    exact (writeRow_queues ..).1.trans hcm
  have hread (t : State) (hmem : t.mem = v.mem) (hcm : (t.cm c).cmnIn = (v.cm c).cmnIn) : readRow (hubRelease t) x.addr = x.data ∧
      (t.cm c).cmnIn = rest ∧ ∀ y, rowBase y ≠ rowBase x.addr → readRow (hubRelease t) y = readRow a y := by
    have hlast (y : Nat) : readRow (hubRelease t) y = readRow (writeRow u x.addr x.data) y :=
      readRow_congr ((hubRelease_memory t c).1.trans (hmem.trans hvmem)) y
    refine ⟨?_, hcm.trans hvcm, fun y hy => ?_⟩
    · rw [hlast, readRow_writeRow_self _ _ (populated_of_commons hplace)]
    · rw [hlast, readRow_writeRow_ne _ _ hy, readRow_congr hmem' y]
  split
  · split
    · exact hread _ (lateArrive_memory _).1 (lateArrive_memory _).2.1
    · exact hread v rfl rfl
  · exact hread v rfl rfl
end

/-- Settles O8: a request's access and landing, and an inbound row, by their lemmas. -/
theorem commonsRowsMove : Obligations.CommonsRowsMove := by
  unfold Obligations.CommonsRowsMove
  intro c n i w s a b ha hb
  have hbc : b = hazardCheck c (advance c n s) := ha ▸ hb
  refine ⟨fun r d row hr hdone hreq hland hbefore hok hplace hw hmade hwrite hgate => ?_,
    fun r d row hr hdone hreq hland hbefore hok hplace hw hmade hread hgate => ?_,
    fun r hrun hcyc hblocked hr hdone hland => commonsRowLands_due hbc hrun hcyc hblocked hr hdone hland (landRequest_erases b),
    fun r x hrun hcyc hblocked hr hdone hland hread hx hkind =>
      commonsRowLands_due hbc hrun hcyc hblocked hr hdone hland (onlyCore_landRequest_fill b hread hx hkind),
    fun x d row rest hin hat hplace hwaits hgate => commonsInboundRowPerform_performs ha hin hat hplace hwaits hgate⟩
  · refine completes_of_next (commonsBankAccess_due ha hr hdone hreq hland hbefore hok hplace hw hmade) ?_
    have hopen : (gatedFor a d row r.isWrite && !(r.isWrite && acceptedBefore a d row ((a.sc c).wall - w))) = false := by
      rw [hwrite]
      rcases hgate with h | h <;> simp [h]
    rw [hopen, if_neg (by decide), if_pos hwrite]
    have hmem (x : Nat) : readRow (bankDone c i r.data (writeRow a r.addr r.data)) x = readRow (writeRow a r.addr r.data) x :=
      readRow_congr rfl x
    refine ⟨?_, ?_, fun x hx => ?_⟩
    · rw [hmem, readRow_writeRow_self _ _ (populated_of_commons hplace)]
    · rw [bankDone_cmn _ (by rw [writeRow_en]; exact hr)]
    · rw [hmem, readRow_writeRow_ne _ _ hx]
  · refine completes_of_next (commonsBankAccess_due ha hr hdone hreq hland hbefore hok hplace hw hmade) ?_
    rw [if_neg (by simp [hread, hgate]), if_neg (by simp [hread])]
    exact ⟨bankDone_cmn _ hr, onlyCore_bankDone ..⟩

end Sys2Proof.Machine
end

section
/-! SUPPORT. Settles O7: inbound rows wait and land (R83, R88, R91, R104, R293). -/

namespace Sys2Proof.Machine

open Sys2Proof

/- Elaborated one by one, the proofs do not wait for one another's equation lemmas. -/
set_option Elab.async false

section
variable {c : CoreId} {n i : Nat} {s a : State} {l : LateItem}

/-! ### A row reaches the Square -/

/-- One more row of the late item `id` has reached the Square. -/
def countRow (c : CoreId) (id : Nat) (s : State) : State :=
  s.onE c fun e => { e with late := e.late.map fun y => if y.x.id == id then { y with arrived := y.arrived + 1 } else y }

theorem countRow_late (hl : (a.en c).late[i]? = some l) :
    ((countRow c l.x.id a).en c).late[i]? = some { l with arrived := l.arrived + 1 } := by
  rw [countRow, State.onE_en_self]
  simp [hl]

/-- A row with a place in the core's landing buffer waits there (R88). -/
theorem takeIn_lands {p : LandDst} (k : Nat) (d : Row) (hp : l.x.landAt a c k = some p) :
    takeIn c l k d a = (countRow c l.x.id a).onM c fun m => { m with land := m.land ++ [⟨p, d, (a.sc c).wall, .late l.x.id⟩] } := by
  have hp' : l.x.landAt (countRow c l.x.id a) c k = some p := by
    rw [← hp]
    unfold Xfer.landAt xAddr handle
    rw [countRow, State.onE_cm]
  rw [takeIn]
  dsimp only
  rw [← countRow, hp', countRow, State.onE_sc]

/-- A row whose place is in the Commons waits for its bank (R293). -/
theorem takeIn_waits {e : DieId} {r : Nat} (k : Nat) (d : Row) (hhop : l.x.hop = 8) (hok : (xAddr a c l.x.dstH (l.x.dstRow k)).2 = true)
    (hplace : placeOf (xAddr a c l.x.dstH (l.x.dstRow k)).1 = .commons e r) :
    takeIn c l k d a = (countRow c l.x.id a).onM c fun m =>
      { m with cmnIn := m.cmnIn ++ [⟨(xAddr a c l.x.dstH (l.x.dstRow k)).1, d, .late l.x.id, (a.sc c).wall⟩] } := by
  have haddr : xAddr (countRow c l.x.id a) c l.x.dstH (l.x.dstRow k) = xAddr a c l.x.dstH (l.x.dstRow k) := by
    unfold xAddr handle
    rw [countRow, State.onE_cm]
  have hnone : l.x.landAt (countRow c l.x.id a) c k = none := by
    unfold Xfer.landAt
    rw [haddr, hhop, if_neg (by decide)]
    dsimp only
    rw [hok, if_pos rfl, hplace]
  rw [takeIn]
  dsimp only
  rw [← countRow, hnone]
  dsimp only
  rw [haddr, hok, if_pos rfl, hplace, countRow, State.onE_sc]

theorem landAt_commons {e : DieId} {r k : Nat} (hhop : l.x.hop = 8) (hok : (xAddr a c l.x.dstH (l.x.dstRow k)).2 = true)
    (hplace : placeOf (xAddr a c l.x.dstH (l.x.dstRow k)).1 = .commons e r) : l.x.landAt a c k = none := by
  unfold Xfer.landAt
  rw [hhop, if_neg (by decide)]
  dsimp only
  rw [hok, if_pos rfl, hplace]

/-- The source row `a` can be read: its memory gives it, and its turn has come (R104, R122). -/
def SourceReady (s : State) (c : CoreId) (i at_ : Nat) : Prop :=
  match placeOf at_ with
  | .plot _ _ => True
  | .commons d r => gatedFor s d r false = false
  | .deep d r => deepTurn s c d.val i = true ∧ (s.die d).dmStatus.getLsbD (3 + r % 3) = false
  | .control | .window | .unpopulated => False

theorem lateRead_ready {k : Nat} (hhost : l.x.hostEnd a c = false) (hok : (xAddr a c l.x.srcH (l.x.srcRow k)).2 = true)
    (hready : SourceReady a c i (xAddr a c l.x.srcH (l.x.srcRow k)).1) :
    lateRead c l.x k .clean a = (readRow a (xAddr a c l.x.srcH (l.x.srcRow k)).1, a) := by
  unfold SourceReady at hready
  unfold lateRead
  dsimp only
  rw [hhost, if_neg (by decide), hok, if_pos rfl]
  split at hready
  · rename_i hplace
    rw [hplace]
    rfl
  · rename_i hplace
    rw [hplace]
    dsimp only
    rw [hready, if_neg (by decide)]
    rfl
  · rename_i hplace
    rw [hplace]
    rfl
  all_goals exact hready.elim

theorem readEcc_ready {at_ : Nat} (hready : SourceReady a c i at_) : readEcc a at_ .clean = .clean := by
  unfold SourceReady at hready
  unfold readEcc
  split
  · rename_i hplace
    rw [hplace] at hready
    dsimp only at hready
    rw [hready.2, if_neg (by decide)]
  all_goals rfl

/-- The turn of a read of the row `at_`: the deep memory serves a core's requests in order (R104). -/
def sourceTurn (s : State) (c : CoreId) (i at_ : Nat) : Bool :=
  match placeOf at_ with
  | .deep d _ => deepTurn s c d.val i
  | .plot _ _ | .commons _ _ | .control | .window | .unpopulated => true

theorem sourceTurn_ready {at_ : Nat} (hready : SourceReady a c i at_) : sourceTurn a c i at_ = true := by
  unfold SourceReady at hready
  unfold sourceTurn
  split
  · rename_i hplace
    rw [hplace] at hready
    exact hready.1
  all_goals rfl

theorem inboundRowArrival_takes (ha : a = advance c n s) (hl : (a.en c).late[i]? = some l) (hin : l.inbound = true)
    (hmore : l.arrived < l.total) (hroom : (a.cm c).land.length < 64 ∨ l.x.landAt a c l.arrived = none) (hremote : l.x.remoteSrc c a = false)
    (hhost : l.x.hostEnd a c = false) (hok : (xAddr a c l.x.srcH (l.x.srcRow l.arrived)).2 = true)
    (hready : SourceReady a c i (xAddr a c l.x.srcH (l.x.srcRow l.arrived)).1) :
    exec (.inboundRowArrival c n i .clean) s =
      .next (takeIn c l l.arrived (readRow a (xAddr a c l.x.srcH (l.x.srcRow l.arrived)).1) a) := by
  have hexec : exec (.inboundRowArrival c n i .clean) s = execInboundRowArrival c n i .clean s := rfl
  unfold execInboundRowArrival at hexec
  dsimp only at hexec
  have hfull : (decide (64 ≤ (a.cm c).land.length) && (l.x.landAt a c l.arrived).isSome) = false := by
    rcases hroom with h | h
    · rw [decide_eq_false (Nat.not_le.mpr h), Bool.false_and]
    · rw [h, Option.isSome_none, Bool.and_false]
  rw [← ha, hl] at hexec
  dsimp only at hexec
  rw [hin, Bool.not_true, Bool.false_or, if_neg (by simpa using hmore), hremote, if_neg (by decide), hfull,
    whenDue_of_due (by rw [hok]; exact sourceTurn_ready hready), hok, if_pos rfl, readEcc_ready hready,
    lateRead_ready hhost hok hready] at hexec
  dsimp only at hexec
  rw [hexec, if_neg (by decide)]

/-! ### Rows land -/

/-- The row waits for a place in the Plot (R91). -/
def LandRow.isPlot (x : LandRow) : Bool :=
  match x.dst with
  | .plot _ => true
  | .hopper _ _ | .source _ _ => false

/-- The row waits for hopper port `b` (R88). -/
def LandRow.isPort (b : Bool) (x : LandRow) : Bool :=
  match x.dst with
  | .plot _ => false
  | .hopper p _ | .source p _ => p == b

/-- The row `x` lands in the Plot, unless its bank takes another one in the same cycle (R91). -/
def landInPlot (c : CoreId) (s : State) (x : LandRow) (row : Nat) : Answer :=
  let w := (s.sc c).wall
  let banks := if (s.cm c).landedAt.1 == w then (s.cm c).landedAt.2 else []
  whenDue (x.arrived < w && slotNow s c 6 row && !banks.contains (row % 16)) (fun s =>
    rowPlaced c x.owner (plotAddr c row) (inboundWrite c x.owner (plotAddr c row) x.data
      (s.onM c fun m => { m with land := m.land.eraseP LandRow.isPlot, landedAt := (w, row % 16 :: banks) }))) s

/-- The first row that waits for the Plot, if there is one, lands. -/
def landFirstPlot (c : CoreId) (s : State) (first : Option LandRow) : Answer :=
  match first with
  | none => .next s
  | some x => match x.dst with
    | .hopper _ _ | .source _ _ => .next s
    | .plot row => landInPlot c s x row

theorem landPlotRow_eq (s : State) :
    landPlotRow c n s = landFirstPlot c (advance c n s) (((advance c n s).cm c).land.find? LandRow.isPlot) := rfl

theorem plotRowLanding_lands (ha : a = advance c n s) {x : LandRow} {row : Nat} (hfind : (a.cm c).land.find? LandRow.isPlot = some x)
    (hdst : x.dst = .plot row) (hrow : row < 12288) (hat : x.arrived < (a.sc c).wall) (hslot : slotNow a c 6 row = true)
    (hbank : (a.cm c).landedAt.1 ≠ (a.sc c).wall ∨ row % 16 ∉ (a.cm c).landedAt.2) (hopen : lockedRow a (plotAddr c row) = false) :
    Completes (.plotRowLanding c n) s fun t => readRow t (plotAddr c row) = x.data ∧ (t.cm c).land = (a.cm c).land.eraseP LandRow.isPlot ∧
      ∀ r, rowBase r ≠ plotAddr c row → readRow t r = readRow a r := by
  have hbanks : (if (a.cm c).landedAt.1 == (a.sc c).wall then (a.cm c).landedAt.2 else []).contains (row % 16) = false := by
    rcases hbank with h | h
    · rw [if_neg (by simpa using h)]
      rfl
    · split
      · simpa using h
      · rfl
  have hexec : exec (.plotRowLanding c n) s = thenRelease (landPlotRow c n s) := rfl
  rw [landPlotRow_eq, ← ha, hfind, landFirstPlot] at hexec
  rw [hdst] at hexec
  dsimp only at hexec
  rw [landInPlot] at hexec
  rw [whenDue_of_due (by rw [hslot, hbanks]; simpa using hat), thenRelease] at hexec
  refine completes_of_next hexec ?_
  generalize (if (a.cm c).landedAt.1 == (a.sc c).wall then (a.cm c).landedAt.2 else []) = banks
  generalize hu : (a.onM c fun m => { m with land := m.land.eraseP LandRow.isPlot, landedAt := ((a.sc c).wall, row % 16 :: banks) }) = u
  have hlock : lockedRow u (plotAddr c row) = false := by
    rw [← hopen]
    exact hu ▸ lockedRow_congr (fun e => congrArg Cc.img (State.onM_cc a c _ e)) rfl _
  have hland : (u.cm c).land = (a.cm c).land.eraseP LandRow.isPlot := by
    rw [← hu, State.onM_cm_self]
  have hmem : u.mem = a.mem := hu ▸ rfl
  have hread (y : Nat) : readRow (hubRelease (rowPlaced c x.owner (plotAddr c row) (inboundWrite c x.owner (plotAddr c row) x.data u))) y =
      readRow (writeRow u (plotAddr c row) x.data) y := by
    refine readRow_congr ((hubRelease_memory _ c).1.trans ((rowPlaced_memory ..).1.trans ?_)) y
    rw [inboundWrite, hlock, if_neg (by decide)]
  refine ⟨?_, ?_, fun r hr => ?_⟩
  · rw [hread, readRow_writeRow_self _ _ (populated_plotAddr c hrow)]
  · rw [(hubRelease_memory _ c).2, (rowPlaced_memory ..).2.2, inboundWrite, hlock, if_neg (by decide)]
    exact (writeRow_queues ..).2.trans hland
  · rw [hread, readRow_writeRow_ne _ _ (by rw [rowBase_plotAddr]; exact hr), readRow_congr hmem]

/-- The row `x` is written through hopper port `b`, once the half is not reserved and the port is free (R88). -/
def landInHopper (c : CoreId) (b : Bool) (s : State) (x : LandRow) (row : Nat) : Answer :=
  whenDue (x.arrived < (s.sc c).wall && !hopReserved s c row && !portBusy s c b) (fun s =>
    rowPlaced c x.owner 0 (lateWrite c b row x.data (s.onM c fun m => { m with land := m.land.eraseP (LandRow.isPort b) }))) s

/-- A row whose place is a hopper row lands there. -/
theorem hopperRowLanding_eq {b : Bool} {x : LandRow} {row : Nat} (ha : a = advance c n s)
    (hfind : (a.cm c).land.find? (LandRow.isPort b) = some x) (hdst : x.dst = .hopper b row) :
    exec (.hopperRowLanding c n b) s = landInHopper c b a x row := by
  obtain ⟨dst, data, arrived, owner⟩ := x
  dsimp only at hdst
  subst hdst
  have hexec : exec (.hopperRowLanding c n b) s = execHopperRowLanding c n b s := rfl
  unfold execHopperRowLanding at hexec
  dsimp only at hexec
  rw [← ha] at hexec
  split at hexec
  · rename_i hnone
    exact absurd (hfind.symm.trans hnone) (by simp)
  · rename_i y hy
    obtain rfl : _ = y := Option.some.inj (hfind.symm.trans hy)
    exact hexec

/-- Power is not taken from a core's furrow by an item that leaves (R471). -/
def StaysPowered (s : State) (c : CoreId) : Prop := (s.core c).gateCmd = true → (s.core c).gate ≠ .clockGated

/-- A late item that leaves the list of a core that stays powered leaves the hoppers. -/
theorem lateLeaves_hop {u : State} (hgate : StaysPowered u c) : ((lateLeaves c l u).cm c).hop = (u.cm c).hop := by
  have hkeep (v : State) (hcmd : (v.core c).gateCmd = (u.core c).gateCmd) (hg : (v.core c).gate = (u.core c).gate) :
      ((v.core c).gateCmd && (v.core c).gate == .clockGated && !hopperLate v c) = false := by
    rw [hcmd, hg]
    cases hc : (u.core c).gateCmd
    · rfl
    · rw [beq_false_of_ne (hgate hc)]
      rfl
  unfold lateLeaves
  dsimp only
  split
  · rw [hkeep _ (by rw [State.onCore_core_self, State.onE_gateCmd]) (by rw [State.onCore_core_self, State.onE_gate]), if_neg (by decide),
      State.onCore_cm_self]
    exact congrArg Mem1.hop (State.onE_cm ..)
  · rw [hkeep _ (State.onE_gateCmd ..) (State.onE_gate ..), if_neg (by decide), State.onE_cm]

/-- Telling the owner of a row that it is placed leaves the hoppers of a core that stays powered. -/
theorem rowPlaced_hop {u : State} (o : LandOwner) (at_ : Nat) (hgate : StaysPowered u c) :
    ((rowPlaced c o at_ u).cm c).hop = (u.cm c).hop := by
  cases o with
  | late id =>
    rw [rowPlaced, sweepLate]
    generalize hv : (u.onE c fun e => { e with late := e.late.map fun l => if l.x.id == id then { l with placed := l.placed + 1 } else l }) = v
    have hvgate : StaysPowered v c := by
      rw [StaysPowered, ← hv, State.onE_gateCmd, State.onE_gate]
      exact hgate
    have hvcm : v.cm c = u.cm c := by rw [← hv, State.onE_cm]
    rw [← hvcm]
    split
    · rename_i y hy
      have hcut := List.find?_some hy
      rw [Bool.and_eq_true] at hcut
      have hop : lateArrive c y v = if y.cut then lateLeaves c y v
        else arriveNow c y.x.ahq y.x.dstH y.x.astk y.x.astkN y.x.tag (lateLeaves c y v) := rfl
      rw [hop, if_pos hcut.1]
      exact lateLeaves_hop hvgate
    · rfl
  | msg r seq sendCore sendPos =>
    rw [rowPlaced, State.onCore_cm_self]
    rfl
  | write srcPos srcCore tag plane =>
    rw [rowPlaced, ackWrite]
    split
    · rw [(ackLocal_memory _ _ _ c).2]
    · rw [(putItem_memory _ _ c).2]

theorem lateWrite_hop {b : Bool} {row : Nat} (d : Row) (u : State) (hrow : row < 1280) :
    readRowAt ((lateWrite c b row d u).cm c).hop (512 * row) = d ∧ (lateWrite c b row d u).mem = u.mem ∧
    ((lateWrite c b row d u).cm c).land = (u.cm c).land ∧ (StaysPowered u c → StaysPowered (lateWrite c b row d u) c) := by
  unfold lateWrite
  dsimp only
  rw [if_pos hrow, hopWrite, StaysPowered, StaysPowered]
  refine ⟨?_, rfl, ?_, ?_⟩
  · rw [State.onM_cm_self]
    exact readRowAt_writeRowAt_self ..
  · rw [State.onM_cm_self, State.onM_cm_self]
    rfl
  · rw [State.onM_gate, State.onM_gate, State.onM_gateCmd, State.onM_gateCmd]
    exact id

theorem hopperRowLanding_lands {b : Bool} (ha : a = advance c n s) {x : LandRow} {row : Nat}
    (hfind : (a.cm c).land.find? (LandRow.isPort b) = some x) (hdst : x.dst = .hopper b row) (hrow : row < 1280)
    (hat : x.arrived < (a.sc c).wall) (hres : hopReserved a c row = false) (hport : portBusy a c b = false)
    (hgate : StaysPowered a c) : Completes (.hopperRowLanding c n b) s fun t =>
      readRowAt (t.cm c).hop (512 * row) = x.data ∧ t.mem = a.mem ∧ (t.cm c).land = (a.cm c).land.eraseP (LandRow.isPort b) := by
  have hexec := hopperRowLanding_eq ha hfind hdst
  rw [landInHopper, whenDue_of_due (by rw [hres, hport]; simpa using hat)] at hexec
  refine completes_of_next hexec ?_
  generalize hu : (a.onM c fun m => { m with land := m.land.eraseP (LandRow.isPort b) }) = u
  have hland : (u.cm c).land = (a.cm c).land.eraseP (LandRow.isPort b) := by rw [← hu, State.onM_cm_self]
  have hmem : u.mem = a.mem := by rw [← hu, State.onM_mem]
  have hgate' : StaysPowered u c := by
    rw [StaysPowered, ← hu, State.onM_gate, State.onM_gateCmd]
    exact hgate
  obtain ⟨hop, hmem', hland', hgate''⟩ := lateWrite_hop (c := c) (b := b) x.data u hrow
  rw [(rowPlaced_memory ..).1, (rowPlaced_memory ..).2.2, rowPlaced_hop _ _ (hgate'' hgate')]
  exact ⟨hop, hmem'.trans hmem, hland'.trans hland⟩
end

/-- Settles O7: rows that reach the Square and rows that land, by their lemmas. -/
theorem inboundRowsLand : Obligations.InboundRowsLand := by
  unfold Obligations.InboundRowsLand
  intro c n i b s a ha
  refine ⟨fun l p hl hin hmore hlen hremote hhost hok hready hp => ?_,
    fun l d r e k hl hin hmore hremote hhost hhop hok hsrc hdstok hdst => ?_,
    fun x row hfind hdst hrow hat hslot hbank hopen => plotRowLanding_lands ha hfind hdst hrow hat hslot hbank hopen,
    fun x row hfind hdst hrow hat hres hport hgate => hopperRowLanding_lands ha hfind hdst hrow hat hres hport hgate⟩
  · refine completes_of_next (inboundRowArrival_takes ha hl hin hmore (.inl hlen) hremote hhost hok hready) ?_
    rw [takeIn_lands _ _ hp, State.onM_cm_self, State.onM_en]
    refine ⟨?_, countRow_late hl, (onlyCore_onE ..).trans (onlyCore_onM ..)⟩
    rw [countRow, State.onE_cm]
  · have hready : SourceReady a c i (xAddr a c l.x.srcH (l.x.srcRow l.arrived)).1 := by
      rw [SourceReady, hsrc]
      exact trivial
    refine completes_of_next (inboundRowArrival_takes ha hl hin hmore (.inr (landAt_commons hhop hdstok hdst)) hremote hhost hok hready) ?_
    rw [takeIn_waits _ _ hhop hdstok hdst, State.onM_cm_self]
    refine ⟨?_, ?_, (onlyCore_onE ..).trans (onlyCore_onM ..)⟩ <;> rw [countRow, State.onE_cm]

end Sys2Proof.Machine
end

section
/-! SUPPORT. Settles O9: scrub reads and write-backs (R90, R100, R118, R120). -/

namespace Sys2Proof.Machine

open Sys2Proof

/- Elaborated one by one, the proofs do not wait for one another's equation lemmas. -/
set_option Elab.async false

section
variable {u : ScrubUnit} {n : Nat} {s a : State}

/-! ### A unit's registers -/

theorem scrubState_useScrubSlot (row : Nat) (v : State) : scrubState (useScrubSlot u row v) u = scrubState v u := by
  cases u with
  | plot c b =>
    rw [useScrubSlot, use7, scrubState, State.onM_cm_self]
    rfl
  | commons d b => rfl
  | deep d v => rfl

theorem scrubDue_useScrubSlot (row : Nat) (v : State) : scrubDue (useScrubSlot u row v) u = scrubDue v u := by
  cases u with
  | plot c b =>
    rw [useScrubSlot, use7, scrubDue, State.onM_cm_self]
    rfl
  | commons d b => rfl
  | deep d v => rfl

theorem useScrubSlot_frame (row : Nat) (v : State) : (useScrubSlot u row v).mem = v.mem ∧ ∀ d, (useScrubSlot u row v).die d = v.die d := by
  cases u with
  | plot c b => exact ⟨State.onM_mem .., fun d => State.onM_die ..⟩
  | commons d b => exact ⟨rfl, fun _ => rfl⟩
  | deep d v => exact ⟨rfl, fun _ => rfl⟩

/-- A turn counts the turns that are late and keeps the unit's other counts (R120). -/
theorem scrubState_setScrub (i turn late : Nat) (v : State) : (scrubState (setScrub u i turn late v) u).2 = (i, turn) ∧
    (scrubState (setScrub u i turn late v) u).1 =
      { (scrubState v u).1 with late := satAdd 0x7F (scrubState v u).1.late late } := by
  cases u with
  | plot c b =>
    rw [setScrub, scrubState, State.onM_cm_self]
    exact ⟨vget_vset_self _ _ _ _ b.isLt, rfl⟩
  | commons d b =>
    rw [setScrub, scrubState, State.onDie_die_self]
    exact ⟨by simp, rfl⟩
  | deep d v =>
    rw [setScrub, scrubState, State.onDie_die_self]
    exact ⟨by simp, rfl⟩

theorem setScrub_mem (i turn late : Nat) (v : State) : (setScrub u i turn late v).mem = v.mem := by
  cases u with
  | plot c b => exact State.onM_mem ..
  | commons d b => exact State.onDie_mem ..
  | deep d v => exact State.onDie_mem ..

theorem setScrub_dmStatus (i turn late : Nat) (v : State) (d : DieId) :
    ((setScrub u i turn late v).die d).dmStatus = (v.die d).dmStatus := by
  have hdie (e : DieId) (f : Die → Die) (hf : ∀ k, (f k).dmStatus = k.dmStatus) : ((v.onDie e f).die d).dmStatus = (v.die d).dmStatus := by
    by_cases h : e = d
    · subst h
      rw [State.onDie_die_self, hf]
    · rw [State.onDie_die_ne _ _ _ _ h]
  cases u with
  | plot c b => rw [setScrub, State.onM_die]
  | commons e b => exact hdie e _ fun _ => rfl
  | deep e b => exact hdie e _ fun _ => rfl

theorem readEcc_congr {v w : State} (h : ∀ d, (w.die d).dmStatus = (v.die d).dmStatus) (at_ : Nat) (e : Ecc) :
    readEcc w at_ e = readEcc v at_ e := by
  unfold readEcc
  split <;> simp only [h]

/-! ### The read of a turn -/

/-- The state in which the row of a unit's turn is read: the turn is taken (R120). -/
def turnTaken (u : ScrubUnit) (n : Nat) (s : State) : State :=
  let turn := (scrubState s u).2.2 + 2 ^ clampN 8 28 (scrubState s u).1.scrubLog2
  setScrub u (((scrubState s u).2.1 + 1) % scrubRows u) turn (if turn + 2 ^ clampN 8 28 (scrubState s u).1.scrubLog2 ≤ n then 1 else 0)
    (useScrubSlot u (scrubRow u (scrubState s u).2.1).1 s)

theorem turnTaken_mem (v : State) : (turnTaken u n v).mem = v.mem := by
  rw [turnTaken, setScrub_mem, (useScrubSlot_frame ..).1]

theorem readEcc_turnTaken (at_ : Nat) (e : Ecc) (v : State) : readEcc (turnTaken u n v) at_ e = readEcc v at_ e :=
  readEcc_congr (fun d => by rw [turnTaken, setScrub_dmStatus, (useScrubSlot_frame ..).2]) at_ e

/-- What a scrub read that meets `x` makes of the state in which its row is read. -/
def scrubReads (u : ScrubUnit) (row at_ : Nat) (x : Ecc) (s : State) : State :=
  match x with
  | .clean | .wrong _ none => noteEcc s at_ x
  | .corrected _ | .wrong _ (some _) => queueScrub u row (eccRow x (readRow s at_)) (noteEcc s at_ x)
  | .bad cw => scrubFault u { cls := 0x03, source := 7, tag := 0, ctx := 0, row := rowField (noteEcc s at_ x) at_,
                              detail := tierOf at_ + cw * 256 + 5 * 65536 } (noteEcc s at_ x)

theorem scrubRead_due {e : Ecc} (ha : a = scrubTime u n s) (hen : (scrubState a u).1.scrubEn = true)
    (hturn : (scrubState a u).2.2 + 2 ^ clampN 8 28 (scrubState a u).1.scrubLog2 ≤ n)
    (hslot : scrubSlot a u (scrubRow u (scrubState a u).2.1).1 = true) :
    exec (.scrubRead u n e) s = .next (scrubReads u (scrubRow u (scrubState a u).2.1).1 (scrubRow u (scrubState a u).2.1).2
      (readEcc (turnTaken u n a) (scrubRow u (scrubState a u).2.1).2 e) (turnTaken u n a)) := by
  have hexec : exec (.scrubRead u n e) s = execScrubRead u n e s := rfl
  unfold execScrubRead at hexec
  dsimp only at hexec
  rw [← ha, whenDue_of_due (by rw [hen, hslot]; simpa using hturn)] at hexec
  refine hexec.trans (congrArg _ ?_)
  rw [← turnTaken]
  generalize readEcc (turnTaken u n a) (scrubRow u (scrubState a u).2.1).2 e = x
  cases x with
  | clean => rfl
  | corrected k => rfl
  | bad k => rfl
  | wrong f o => cases o <;> rfl

theorem scrubRead_clean (ha : a = scrubTime u n s) (hen : (scrubState a u).1.scrubEn = true)
    (hturn : (scrubState a u).2.2 + 2 ^ clampN 8 28 (scrubState a u).1.scrubLog2 ≤ n)
    (hslot : scrubSlot a u (scrubRow u (scrubState a u).2.1).1 = true)
    (hclean : readEcc a (scrubRow u (scrubState a u).2.1).2 .clean = .clean) : Completes (.scrubRead u n .clean) s fun t =>
      (scrubState t u).2 = (((scrubState a u).2.1 + 1) % scrubRows u,
        (scrubState a u).2.2 + 2 ^ clampN 8 28 (scrubState a u).1.scrubLog2) ∧
      (scrubState t u).1.ce = (scrubState a u).1.ce ∧ (scrubState t u).1.ue = (scrubState a u).1.ue ∧ t.mem = a.mem := by
  refine completes_of_next (scrubRead_due ha hen hturn hslot) ?_
  rw [readEcc_turnTaken, hclean]
  show (scrubState (turnTaken u n a) u).2 = _ ∧ (scrubState (turnTaken u n a) u).1.ce = _ ∧
    (scrubState (turnTaken u n a) u).1.ue = _ ∧ (turnTaken u n a).mem = _
  rw [turnTaken_mem, turnTaken, (scrubState_setScrub ..).1, (scrubState_setScrub ..).2, scrubState_useScrubSlot]
  exact ⟨rfl, rfl, rfl, rfl⟩

theorem placeOf_scrubRow_commons {d : DieId} {b : Fin 256} {i : Nat} (h : i < 16384) :
    placeOf (scrubRow (.commons d b) i).2 = .commons d (scrubRow (.commons d b) i).1 := by
  have hb := b.isLt
  rw [scrubRow]
  dsimp only
  exact placeOf_cmnAddr d (by omega)

theorem note_corrected_ce (r : ErrReg) (ueBit base k cwBit : Nat) :
    (r.note ueBit base (.corrected k) cwBit).ce = min 0xFFFF (r.ce + 1) := satAdd_eq_min ..

theorem noteEcc_commons_die {v : State} {at_ row k : Nat} {d : DieId} (hplace : placeOf at_ = .commons d row) :
    (noteEcc v at_ (.corrected k)).die d = { v.die d with cmnErr := (v.die d).cmnErr.note 26 row (.corrected (k % 16)) 22 } := by
  unfold noteEcc
  dsimp only
  rw [hplace]
  rw [hubSetBit_die, State.onDie_die_self, noteRisk_die, eccWithin]

theorem scrubRead_corrects {d : DieId} {b : Fin 256} {k : Nat} (hen : (s.die d).cmnErr.scrubEn = true)
    (hturn : (scrubState s (.commons d b)).2.2 + 2 ^ clampN 8 28 (s.die d).cmnErr.scrubLog2 ≤ n)
    (hindex : (scrubState s (.commons d b)).2.1 < 16384)
    (hslot : scrubSlot s (.commons d b) (scrubRow (.commons d b) (scrubState s (.commons d b)).2.1).1 = true) :
    Completes (.scrubRead (.commons d b) n (.corrected k)) s fun t =>
      (t.die d).cmnErr.ce = min 0xFFFF ((s.die d).cmnErr.ce + 1) ∧
      (t.die d).scrub = (s.die d).scrub ++ [(b.val, (scrubRow (.commons d b) (scrubState s (.commons d b)).2.1).1,
        readRow s (scrubRow (.commons d b) (scrubState s (.commons d b)).2.1).2)] ∧ t.mem = s.mem := by
  refine completes_of_next (scrubRead_due (a := s) rfl hen hturn hslot) ?_
  generalize hrow : scrubRow (.commons d b) (scrubState s (.commons d b)).2.1 = x
  have hplace : placeOf x.2 = .commons d x.1 := by
    rw [← hrow]
    exact placeOf_scrubRow_commons hindex
  generalize hv : turnTaken (.commons d b) n s = v
  have hmem : v.mem = s.mem := hv ▸ turnTaken_mem s
  have hread : readRow v x.2 = readRow s x.2 := readRow_congr hmem _
  have hecc : readEcc v x.2 (.corrected k) = .corrected k := by
    rw [readEcc, hplace]
  obtain ⟨hce, hscrub⟩ : (v.die d).cmnErr.ce = (s.die d).cmnErr.ce ∧ (v.die d).scrub = (s.die d).scrub := by
    rw [← hv, turnTaken, setScrub, State.onDie_die_self]
    exact ⟨rfl, rfl⟩
  rw [hecc, scrubReads, queueScrub, State.onDie_die_self, State.onDie_mem, noteEcc_mem]
  rw [noteEcc_commons_die hplace, hscrub, eccRow, hread, hmem, note_corrected_ce, hce]
  exact ⟨rfl, rfl, rfl⟩

/-! ### Write-backs -/

/-- How many rows a unit's memory has. -/
def unitRows : ScrubUnit → Nat
  | .plot _ _ => 12288
  | .commons _ _ => 2 ^ 22
  | .deep _ _ => 23592960

theorem populated_unitAddr {row : Nat} (h : row < unitRows u) : populated (unitAddr u row) = true ∧ rowBase (unitAddr u row) = unitAddr u row := by
  cases u with
  | plot c b => exact ⟨populated_plotAddr c h, rowBase_plotAddr c row⟩
  | commons d b => exact ⟨populated_cmnAddr d h, rowBase_cmnAddr d row⟩
  | deep d b => exact ⟨populated_deepAddr d h, rowBase_deepAddr d row⟩

/-- The write-backs that a write of row `row` of the unit's memory leaves (R120). -/
def keepsScrub (u : ScrubUnit) (row : Nat) (x : Nat × Nat × Row) : Bool :=
  match u with
  | .plot _ _ => x.2.1 != row
  | .commons _ _ => !(x.1 < 256 && x.2.1 == row)
  | .deep _ _ => !(256 ≤ x.1 && x.2.1 == row)

/-- The unit's number among those of its memory, and the write-backs of that memory. -/
def scrubNumber : ScrubUnit → Nat
  | .plot _ b => b.val
  | .commons _ b => b.val
  | .deep _ v => 256 + v.val

def scrubList (s : State) : ScrubUnit → List (Nat × Nat × Row)
  | .plot c _ => (s.cm c).scrub
  | .commons d _ | .deep d _ => (s.die d).scrub

theorem scrubDue_eq (v : State) : scrubDue v u = ((scrubList v u).find? fun x => x.1 == scrubNumber u).map (·.2) := by
  cases u <;> rfl

theorem keepsScrub_ne {row : Nat} {x : Nat × Nat × Row} (h : keepsScrub u row x = true) (hnum : x.1 = scrubNumber u) : x.2.1 ≠ row := by
  cases u with
  | plot c b => simpa [keepsScrub] using h
  | commons d b =>
    have hb : x.1 < 256 := hnum ▸ b.isLt
    simpa [keepsScrub, hb] using h
  | deep d b =>
    have hb : 256 ≤ x.1 := hnum ▸ Nat.le_add_right 256 b.val
    simpa [keepsScrub, hb] using h

/-- A write of a row drops its write-backs and leaves the unit's registers. -/
theorem scrubList_writeRow {row : Nat} (d : Row) (v : State) (h : row < unitRows u) :
    scrubList (writeRow v (unitAddr u row) d) u = (scrubList v u).filter (keepsScrub u row) ∧
    scrubState (writeRow v (unitAddr u row) d) u = scrubState v u := by
  rw [writeRow, if_pos (populated_unitAddr h).1]
  generalize hw : ({ v with mem := writeRowAt v.mem (rowBase (unitAddr u row)) d } : State) = w
  have hlist : scrubList w u = scrubList v u := hw ▸ by cases u <;> rfl
  have hstate : scrubState w u = scrubState v u := hw ▸ by cases u <;> rfl
  rw [← hlist, ← hstate]
  cases u with
  | plot c b =>
    rw [unitAddr, dropScrub, placeOf_plotAddr c h]
    dsimp only
    split
    · rename_i hempty
      rw [scrubList, List.isEmpty_iff.mp hempty]
      exact ⟨rfl, rfl⟩
    · rw [scrubList, scrubState, State.onM_cm_self]
      exact ⟨rfl, rfl⟩
  | commons e b =>
    rw [unitAddr, dropScrub, placeOf_cmnAddr e h]
    dsimp only
    split
    · rename_i hempty
      rw [scrubList, List.isEmpty_iff.mp hempty]
      exact ⟨rfl, rfl⟩
    · rw [scrubList, scrubState, State.onDie_die_self]
      exact ⟨rfl, rfl⟩
  | deep e b =>
    rw [unitAddr, dropScrub, placeOf_deepAddr e h]
    dsimp only
    split
    · rename_i hempty
      rw [scrubList, List.isEmpty_iff.mp hempty]
      exact ⟨rfl, rfl⟩
    · rw [scrubList, scrubState, State.onDie_die_self]
      exact ⟨rfl, rfl⟩

/-- A row that is written leaves no write-back of its own, and leaves the unit's counts (R120). -/
theorem scrub_writeRow {row : Nat} (d : Row) (v : State) (h : row < unitRows u) :
    (∀ y, scrubDue (writeRow v (unitAddr u row) d) u = some y → y.1 ≠ row) ∧
    (scrubState (writeRow v (unitAddr u row) d) u).1 = (scrubState v u).1 := by
  obtain ⟨hlist, hstate⟩ := scrubList_writeRow d v h
  refine ⟨fun y hy => ?_, congrArg Prod.fst hstate⟩
  rw [scrubDue_eq, hlist, Option.map_eq_some_iff] at hy
  obtain ⟨x, hx, rfl⟩ := hy
  have hnum := List.find?_some hx
  exact keepsScrub_ne (List.mem_filter.mp (List.mem_of_find?_eq_some hx)).2 (beq_iff_eq.mp hnum)

theorem scrubWriteBack_writes {x : Nat × Row} (ha : a = scrubTime u n s) (hdue : scrubDue a u = some x) (hslot : scrubSlot a u x.1 = true)
    (hrow : x.1 < unitRows u) : Completes (.scrubWriteBack u n) s fun t =>
      readRow t (unitAddr u x.1) = x.2 ∧ (∀ y, rowBase y ≠ unitAddr u x.1 → readRow t y = readRow a y) ∧
      (∀ y, scrubDue t u = some y → y.1 ≠ x.1) ∧ (scrubState t u).1 = (scrubState a u).1 := by
  have hexec : exec (.scrubWriteBack u n) s = execScrubWriteBack u n s := rfl
  unfold execScrubWriteBack at hexec
  dsimp only at hexec
  rw [← ha, hdue] at hexec
  dsimp only at hexec
  rw [whenDue_of_due hslot, writeBack] at hexec
  refine completes_of_next hexec ?_
  obtain ⟨hpop, hbase⟩ := populated_unitAddr hrow
  obtain ⟨hnone, hstate⟩ := scrub_writeRow x.2 (useScrubSlot u x.1 a) hrow
  rw [scrubState_useScrubSlot] at hstate
  refine ⟨readRow_writeRow_self _ _ hpop, fun y hy => ?_, hnone, hstate⟩
  rw [readRow_writeRow_ne _ _ (by rw [hbase]; exact hy), readRow_congr (useScrubSlot_frame ..).1]
end

/-- Settles O9: reads that meet a clean and a corrected row, and the write-back, by their lemmas. -/
theorem scrubbingTurns : Obligations.ScrubbingTurns := by
  unfold Obligations.ScrubbingTurns
  intro u d b n k s a ha
  refine ⟨fun hen hturn hslot hclean => scrubRead_clean ha hen hturn hslot hclean, fun hu hen hturn hindex hk hslot => ?_,
    fun x hdue hslot hrow => scrubWriteBack_writes ha hdue hslot (by cases u <;> exact hrow)⟩
  subst hu
  exact scrubRead_corrects hen hturn hindex hslot

end Sys2Proof.Machine
end

section
/-! SUPPORT. Settles O10: page-outs and the power of bank groups (R100, R113, R121 to R123). -/

namespace Sys2Proof.Machine

open Sys2Proof

/- Elaborated one by one, the proofs do not wait for one another's equation lemmas. -/
set_option Elab.async false

/-! ### What a copy of rows leaves -/

/-- A die without its error registers and the write-backs that wait. -/
def Die.unscrubbed (k : Die) : Die := { k with cmnErr := ErrReg.reset 0, dmErr := ErrReg.reset 0, scrub := [] }

/-- A core's memory without its error register and the write-backs that wait. -/
def Mem1.uncopied (m : Mem1) : Mem1 := { m with err := ErrReg.reset 0, scrub := [] }

/-- Copying rows alters rows, error registers and write-backs, and flags of the cycle (R113, R118). -/
structure Copies (s t : State) : Prop where
  cm : ∀ c, (t.cm c).uncopied = (s.cm c).uncopied
  sc : ∀ c, (t.sc c).unflagged = (s.sc c).unflagged
  die : ∀ d, (t.die d).unscrubbed = (s.die d).unscrubbed

section
variable {s t : State}

theorem Copies.refl (s : State) : Copies s s := ⟨fun _ => rfl, fun _ => rfl, fun _ => rfl⟩

theorem Copies.trans {u : State} (hst : Copies s t) (htu : Copies t u) : Copies s u :=
  ⟨fun c => (htu.cm c).trans (hst.cm c), fun c => (htu.sc c).trans (hst.sc c), fun d => (htu.die d).trans (hst.die d)⟩

theorem copies_onM (h : Copies s t) (c : CoreId) {f : Mem1 → Mem1} (hf : ∀ m, (f m).uncopied = m.uncopied) : Copies s (t.onM c f) := by
  refine h.trans ⟨fun e => ?_, fun e => by rw [State.onM_sc], fun d => by rw [State.onM_die]⟩
  by_cases h : c = e
  · subst h
    rw [State.onM_cm_self, hf]
  · rw [State.onM_cm_ne _ _ _ _ h]

theorem copies_onSc (h : Copies s t) (c : CoreId) {f : Sched → Sched} (hf : ∀ k, (f k).unflagged = k.unflagged) : Copies s (t.onSc c f) :=
  h.trans ⟨fun e => by rw [State.onSc_cm], fun e => proj_onSc Sched.unflagged c e t hf, fun d => by rw [State.onSc_die]⟩

theorem copies_onDie (h : Copies s t) (d : DieId) {f : Die → Die} (hf : ∀ k, (f k).unscrubbed = k.unscrubbed) : Copies s (t.onDie d f) := by
  refine h.trans ⟨fun e => by rw [State.onDie_cm], fun e => by rw [State.onDie_sc], fun e => ?_⟩
  by_cases h : d = e
  · subst h
    rw [State.onDie_die_self, hf]
  · rw [State.onDie_die_ne _ _ _ _ h]

/-- What alters neither cores nor dies is no part of the frame. -/
theorem copies_of_eq (h : Copies s t) {u : State} (hcores : u.core = t.core) (hdies : u.die = t.die) : Copies s u :=
  h.trans ⟨fun e => congrArg (fun f : CoreId → Core => (f e).m.uncopied) hcores,
    fun e => congrArg (fun f : CoreId → Core => (f e).sc.unflagged) hcores, fun d => congrArg (fun f : DieId → Die => (f d).unscrubbed) hdies⟩

theorem noteEcc_copies (h : Copies s t) (a : Nat) (e : Ecc) : Copies s (noteEcc t a e) := by
  have hrisk : Copies s (noteRisk t e) := by
    unfold noteRisk
    split <;> exact copies_of_eq h rfl rfl
  have hbit {u : State} (hu : Copies s u) (x m : Nat) : Copies s (hubSetBit x m u) := copies_of_eq hu rfl rfl
  unfold noteEcc
  split
  · exact h
  · exact h
  · dsimp only
    split
    · exact copies_onSc (copies_onM hrisk _ (by exact fun _ => rfl)) _ (by exact fun _ => rfl)
    · exact hbit (copies_onDie hrisk _ (by exact fun _ => rfl)) _ _
    · exact hbit (copies_onDie hrisk _ (by exact fun _ => rfl)) _ _
    all_goals exact hrisk

theorem writeRow_copies (h : Copies s t) (a : Nat) (d : Row) : Copies s (writeRow t a d) := by
  have hmem : Copies s { t with mem := writeRowAt t.mem (rowBase a) d } := copies_of_eq h rfl rfl
  unfold writeRow
  split
  · generalize ({ t with mem := writeRowAt t.mem (rowBase a) d } : State) = u at hmem ⊢
    unfold dropScrub
    split
    · split
      · exact hmem
      · exact copies_onM hmem _ (by exact fun _ => rfl)
    · split
      · exact hmem
      · exact copies_onDie hmem _ (by exact fun _ => rfl)
    · split
      · exact hmem
      · exact copies_onDie hmem _ (by exact fun _ => rfl)
    all_goals exact hmem
  · exact h

theorem copyRows_copies (h : Copies s t) (a b n : Nat) (err : ReadErr) : Copies s (copyRows a b n err t) := by
  refine forAll_inv (Copies s) _ _ _ h fun k _ u hu => ?_
  have hnote : Copies s (readNoted u (a + 512 * k) (readEcc u (a + 512 * k) (errAt err k))).2 := noteEcc_copies hu _ _
  dsimp only
  generalize readNoted u (a + 512 * k) (readEcc u (a + 512 * k) (errAt err k)) = x at hnote ⊢
  have hfresh : Copies s x.2.fresh := copies_of_eq hnote rfl rfl
  split
  · exact writeRow_copies hfresh _ _
  · exact writeRow_copies hnote _ _

theorem Copies.handle (h : Copies s t) (c : CoreId) (k : Nat) : handle t c k = Machine.handle s c k :=
  (congrArg (fun m => vget (Mem1.handles m) 0 k) (h.cm c) :)
end

/-! ### A page-out is complete -/

section
variable {d : DieId} {n i : Nat} {j : PageJob} {s a : State}

/-- The state in which a page-out is complete, but for the handle's residence (R113). -/
def pagedOut (d : DieId) (i : Nat) (j : PageJob) (s : State) : State :=
  ((copyRows (cmnAddr d j.src) (deepAddr d j.area) (64 * j.pages) [] s).onDie d fun k =>
    { k with pageOuts := k.pageOuts.eraseIdx i, extents := k.extents.filter fun e => !(e.1 == j.src / 64) }).onM j.core
      fun m => { m with owned := vset m.owned j.h 0 }

theorem pagedOut_effects (hh : j.h < 64) : handle (pagedOut d i j a) j.core j.h = handle a j.core j.h ∧
    vget ((pagedOut d i j a).cm j.core).owned 0 j.h = 0 ∧ ((pagedOut d i j a).die d).pageOuts = (a.die d).pageOuts.eraseIdx i ∧
    ((pagedOut d i j a).die d).extents = (a.die d).extents.filter (fun e => !(e.1 == j.src / 64)) ∧
    pagingIn (pagedOut d i j a) j.core j.h = pagingIn a j.core j.h ∧
    ((pagedOut d i j a).sc j.core).unflagged = (a.sc j.core).unflagged := by
  have hcopies := copyRows_copies (.refl a) (cmnAddr d j.src) (deepAddr d j.area) (64 * j.pages) []
  unfold pagedOut
  generalize copyRows (cmnAddr d j.src) (deepAddr d j.area) (64 * j.pages) [] a = u at hcopies ⊢
  have hdie := hcopies.die
  have hcm := hcopies.cm j.core
  have hsc := hcopies.sc j.core
  refine ⟨?_, ?_, ?_, ?_, ?_, ?_⟩
  · rw [handle, State.onM_cm_self, State.onDie_cm]
    exact (congrArg (fun m => vget (Mem1.handles m) 0 j.h) hcm :)
  · rw [State.onM_cm_self]
    exact vget_vset_self _ _ _ _ hh
  · rw [State.onM_die, State.onDie_die_self]
    exact (congrArg (fun k => (Die.pageOuts k).eraseIdx i) (hdie d) :)
  · rw [State.onM_die, State.onDie_die_self]
    exact (congrArg (fun k => (Die.extents k).filter fun e => !(e.1 == j.src / 64)) (hdie d) :)
  · have hins (e : DieId) : (u.die e).pageIns = (a.die e).pageIns := (congrArg Die.pageIns (hdie e) :)
    have hqueue (e : DieId) : (u.die e).allocQ = (a.die e).allocQ := (congrArg Die.allocQ (hdie e) :)
    unfold pagingIn
    rw [State.onM_die]
    by_cases h : d = dieOf j.core
    · rw [← h, State.onDie_die_self]
      dsimp only
      rw [hins, hqueue]
    · rw [State.onDie_die_ne _ _ _ _ h, hins, hqueue]
  · rw [State.onM_sc, State.onDie_sc, hsc]

theorem setRes_free {c : CoreId} {h : Nat} (v : Nat) (hset : (s.sc c).swSet.1 ≠ ccCyc (s.sc c)) :
    setRes c h v s = setHandle c h (hPut (handle s c h) 4 2 v) s := by
  rw [setRes, beq_false_of_ne hset, Bool.false_and, if_neg (by decide)]

theorem pageOutComplete_pages (hj : (s.die d).pageOuts[i]? = some j) (ha : a = advance j.core n s) (hh : j.h < 64)
    (hwaits : (List.range 16).any (fun k => bankWaits a d (j.src / 16 * 16 + k)) = false)
    (hset : (a.sc j.core).swSet.1 ≠ ccCyc (a.sc j.core)) : Completes (.pageOutComplete d n ⟨i, []⟩) s fun t => ∃ b, t = serve d b ∧
      handle b j.core j.h = hPut (handle a j.core j.h) 4 2 (if pagingIn a j.core j.h then 2 else 1) ∧
      vget (b.cm j.core).owned 0 j.h = 0 ∧ (b.die d).pageOuts = (a.die d).pageOuts.eraseIdx i ∧
      (b.die d).extents = (a.die d).extents.filter (fun e => !(e.1 == j.src / 64)) ∧
      b.mem = (copyRows (cmnAddr d j.src) (deepAddr d j.area) (64 * j.pages) [] a).mem := by
  have hexec : exec (.pageOutComplete d n ⟨i, []⟩) s = execPageOutComplete d n ⟨i, []⟩ s := rfl
  unfold execPageOutComplete at hexec
  dsimp only at hexec
  rw [hj] at hexec
  dsimp only at hexec
  rw [← ha, whenDue_of_due (by rw [hwaits]; rfl)] at hexec
  refine completes_of_next hexec ⟨_, rfl, ?_⟩
  have hmem : (pagedOut d i j a).mem = (copyRows (cmnAddr d j.src) (deepAddr d j.area) (64 * j.pages) [] a).mem := by
    rw [pagedOut, State.onM_mem, State.onDie_mem]
  obtain ⟨hhandle, howned, houts, hext, hpaging, hsc⟩ := pagedOut_effects (d := d) (i := i) (a := a) hh
  rw [← pagedOut, ← hmem]
  generalize pagedOut d i j a = u at *
  have hset' : (u.sc j.core).swSet.1 ≠ ccCyc (u.sc j.core) := by
    rw [ccCyc, eq_of_mask Sched.unflagged Sched.swSet hsc, eq_of_mask Sched.unflagged Sched.wall hsc,
      eq_of_mask Sched.unflagged Sched.origin hsc]
    exact hset
  rw [setRes_free _ hset', handle_setHandle_self _ _ _ hh, setHandle_die, setHandle_mem, hpaging, hhandle]
  refine ⟨rfl, ?_, houts, hext, rfl⟩
  rw [setHandle, State.onM_cm_self]
  exact howned
end

/-! ### Bank groups -/

section
variable {d : DieId} {n : Nat} {g : Fin 16} {j : GateJob} {s a : State}

theorem readCells_clearCells {m : List Host.Cell} {b k x n : Nat} (hlo : b ≤ x) (hhi : x + n ≤ b + k) : readCells (clearCells m b k) x n = 0 := by
  have hnone : cellsIn (clearCells m b k) x n = [] := by
    rw [cellsIn, clearCells, List.filter_filter]
    refine List.filter_eq_nil_iff.mpr fun y _ => ?_
    simp only [Bool.and_eq_true, Bool.or_eq_true, decide_eq_true_eq]
    omega
  rw [readCells, hnone]
  rfl

/-- The rows of a bank group that is zeroed read as zeros (R121, R122). -/
theorem readRow_zeroGroup {r : Nat} (hr : r < 2 ^ 18) (u : State) : readRow (zeroGroup d g.val u) (cmnAddr d (g.val * 2 ^ 18 + r)) = 0 := by
  have hg := g.isLt
  rw [readRow, populated_cmnAddr d (by omega), if_pos rfl, rowBase_cmnAddr, readRowAt, zeroGroup]
  dsimp only
  rw [readCells_clearCells (by unfold cmnAddr; omega) (by unfold cmnAddr; omega)]
  rfl

/-- The state of a group that its job leaves in state `v`, before the job's arrival (R121, R123). -/
def groupDone (d : DieId) (j : GateJob) (g v : Nat) (s : State) : State :=
  (zeroGroup d g (setGroup d g v s)).onDie d fun k => { k with gates := k.gates.eraseP fun x => x == j }

theorem gateArrive_effects (v : Nat) (hstk : j.stk < 48) (u : State) :
    vget ((gateArrive d j (zeroGroup d g.val (setGroup d g.val v u))).die d).groupState 0 g.val = v ∧
    (∀ r, r < 2 ^ 18 → readRow (gateArrive d j (zeroGroup d g.val (setGroup d g.val v u))) (cmnAddr d (g.val * 2 ^ 18 + r)) = 0) ∧
    (vget ((gateArrive d j (zeroGroup d g.val (setGroup d g.val v u))).sc j.core).stk 0 j.stk).toNat =
      min 255 ((vget (u.sc j.core).stk 0 j.stk).toNat + 1) := by
  have hop : gateArrive d j (zeroGroup d g.val (setGroup d g.val v u)) = performArrival j.core none 0 j.stk 1 j.tag (groupDone d j g.val v u) := rfl
  have hstirs := performArrival_stirs (Stirs.refl (groupDone d j g.val v u)) j.core none 0 j.stk 1 j.tag
  have hsc : (groupDone d j g.val v u).sc j.core = u.sc j.core := by rw [groupDone, State.onDie_sc]; rfl
  rw [hop, toNat_stk_performArrival _ _ _ hstk, hsc]
  refine ⟨?_, fun r hr => ?_, rfl⟩
  · rw [hstirs.die d (·.groupState), groupDone, State.onDie_die_self]
    show vget ((setGroup d g.val v u).die d).groupState 0 g.val = v
    rw [setGroup, State.onDie_die_self]
    exact vget_vset_self _ _ _ _ g.isLt
  · rw [readRow_congr hstirs.mem, groupDone]
    exact readRow_zeroGroup hr _
end

/-- Settles O10: a page-out, and the two ways a bank group's job ends. -/
theorem pagesAndGroups : Obligations.PagesAndGroups := by
  unfold Obligations.PagesAndGroups
  intro d n i g s a
  refine ⟨fun j hj ha hh hwaits hset => pageOutComplete_pages hj ha hh hwaits hset, fun j hfind ha hat hstate hwrites hstk _ => ?_,
    fun j hfind ha hat hstate hstk _ => ?_⟩
  · have hexec : exec (.gateArrival d n g) s = execGateArrival d n g s := rfl
    unfold execGateArrival at hexec
    rw [hfind] at hexec
    dsimp only at hexec
    rw [← ha, whenDue_of_due (by rw [hstate, hwrites]; simpa using hat)] at hexec
    exact completes_of_next hexec (gateArrive_effects 2 hstk a)
  · have hexec : exec (.ungateArrival d n g) s = execUngateArrival d n g s := rfl
    unfold execUngateArrival at hexec
    rw [hfind] at hexec
    dsimp only at hexec
    rw [← ha, whenDue_of_due (by rw [hstate]; simpa using hat)] at hexec
    exact completes_of_next hexec (gateArrive_effects 0 hstk a)

end Sys2Proof.Machine
end

section
/-! SUPPORT. Settles O5: credit grants, wakes and power gating (R68, R69, R182, R468 to R471). -/

namespace Sys2Proof.Machine

open Sys2Proof

/- Elaborated one by one, the proofs do not wait for one another's equation lemmas. -/
set_option Elab.async false

/-! ### A launch step -/

/-- A core without its schedule part. -/
def Core.unscheduled (k : Core) : Core := { k with sc := Sched.reset }

section
variable {c : CoreId} {s : State}

theorem onSc_unscheduled (f : Sched → Sched) (s : State) (e : CoreId) : ((s.onSc c f).core e).unscheduled = (s.core e).unscheduled := by
  by_cases h : c = e
  · subst h
    rw [State.onSc, State.onCore_core_self]
    rfl
  · rw [State.onSc_core_ne _ _ _ _ h]

theorem launchWait_unscheduled (cause : Cause) (s : State) (e : CoreId) :
    ((launchWait c cause s).core e).unscheduled = (s.core e).unscheduled := onSc_unscheduled ..

theorem setGranted_unscheduled (k : Nat) (s : State) (e : CoreId) : ((setGranted c k s).core e).unscheduled = (s.core e).unscheduled := by
  unfold setGranted
  dsimp only
  split
  · rw [State.onDie_core, onSc_unscheduled]
  · rw [onSc_unscheduled]

theorem pushReq_unscheduled (n : Nat) (s : State) (e : CoreId) : ((pushReq c n s).core e).unscheduled = (s.core e).unscheduled := by
  unfold pushReq
  dsimp only
  rw [onSc_unscheduled, State.onDie_core]

theorem creditStep_unscheduled (k : Nat) (s : State) (e : CoreId) : ((creditStep c k s).core e).unscheduled = (s.core e).unscheduled := by
  unfold creditStep
  dsimp only
  split
  · rw [setGranted_unscheduled, onSc_unscheduled]
  · split
    · rw [onSc_unscheduled]
    · rw [pushReq_unscheduled, onSc_unscheduled]

/-- A launch step alters the schedule part of its core, and the die's requests (R66 to R69). -/
theorem launchStep_unscheduled (s : State) (e : CoreId) : ((launchStep c s).core e).unscheduled = (s.core e).unscheduled := by
  unfold launchStep
  split
  · rfl
  · split
    · rfl
    · split
      · exact launchWait_unscheduled ..
      · dsimp only
        split
        · exact launchWait_unscheduled ..
        · rename_i l _ _ _ st _ _
          generalize hu : (if l.credited then s else creditStep c (hdrClass st.hdr) s) = u
          have hcredit : (u.core e).unscheduled = (s.core e).unscheduled := by
            rw [← hu]
            split
            · rfl
            · exact creditStep_unscheduled ..
          rw [← hcredit]
          split
          · exact launchWait_unscheduled ..
          · split
            · exact launchWait_unscheduled ..
            · exact onSc_unscheduled ..

/-- A step of a launch that has its credit alters, of the credit, nothing (R69). -/
theorem launchStep_credited {l : Launch} (hl : (s.sc c).launch = some l) (hcredit : l.credited = true) :
    (∀ e, (launchStep c s).die e = s.die e) ∧ ((launchStep c s).sc c).held = (s.sc c).held ∧
    ((launchStep c s).sc c).request = (s.sc c).request ∧ ∃ l', ((launchStep c s).sc c).launch = some l' ∧ l'.granted = l.granted := by
  have hwait (cause : Cause) : (∀ e, (launchWait c cause s).die e = s.die e) ∧ ((launchWait c cause s).sc c).held = (s.sc c).held ∧
      ((launchWait c cause s).sc c).request = (s.sc c).request ∧
      ∃ l', ((launchWait c cause s).sc c).launch = some l' ∧ l'.granted = l.granted := by
    rw [launchWait, State.onSc_sc_self]
    exact ⟨fun _ => State.onSc_die .., rfl, rfl, l, hl, rfl⟩
  have hsame : (∀ e, s.die e = s.die e) ∧ (s.sc c).held = (s.sc c).held ∧ (s.sc c).request = (s.sc c).request ∧
      ∃ l', (s.sc c).launch = some l' ∧ l'.granted = l.granted := ⟨fun _ => rfl, rfl, rfl, l, hl, rfl⟩
  unfold launchStep
  rw [hl]
  dsimp only
  split
  · exact hsame
  · split
    · exact hwait _
    · split
      · exact hwait _
      · split
        · exact hwait _
        · split
          · exact hwait _
          · rw [State.onSc_sc_self]
            dsimp only
            rw [hl]
            exact ⟨fun _ => State.onSc_die .., rfl, rfl, _, rfl, rfl⟩
end

/-! ### Grants -/

section
variable {c : CoreId} {d : DieId} {n : Nat} {s a : State}

theorem setGranted_grants {k : Nat} {l : Launch} {u : State} (hl : (u.sc c).launch = some l) :
    (∀ e, ((setGranted c k u).die e).reqs = (u.die e).reqs) ∧ ((setGranted c k u).sc c).held = min k (u.sc c).held ∧
    ((setGranted c k u).sc c).request = (u.sc c).request ∧
    ∃ l', ((setGranted c k u).sc c).launch = some l' ∧ l'.credited = true ∧ l'.granted = some (u.sc c).wall := by
  have hreqs (v : State) (f : List CoreId → List CoreId) (e : DieId) :
      ((v.onDie (dieOf c) fun d => { d with wakeQ := f d.wakeQ }).die e).reqs = (v.die e).reqs := by
    by_cases h : dieOf c = e
    · rw [← h, State.onDie_die_self]
    · rw [State.onDie_die_ne _ _ _ _ h]
  have hmin : (if k ≤ (u.sc c).held then k else (u.sc c).held) = min k (u.sc c).held := (Nat.min_def ..).symm
  unfold setGranted
  dsimp only
  split
  · rw [State.onDie_sc, State.onSc_sc_self]
    dsimp only
    rw [hl, hmin]
    exact ⟨fun e => (hreqs _ (· ++ [c]) e).trans (by rw [State.onSc_die]), rfl, rfl, _, rfl, rfl, rfl⟩
  · rw [State.onSc_sc_self]
    dsimp only
    rw [hl, hmin]
    exact ⟨fun e => by rw [State.onSc_die], rfl, rfl, _, rfl, rfl, rfl⟩

theorem creditGrant_grants {l : Launch} {m : Nat × Nat} {rest : List (CoreId × Nat × Nat)} (ha : a = advance c n s)
    (hreqs : (s.die d).reqs = (c, m) :: rest) (hmade : m.2 ≤ (a.sc c).wall) (hreqs' : (a.die d).reqs = (c, m) :: rest)
    (hfree : (m.1 : Int) ≤ dieFree a d) (hrec : reclaiming (a.sc c) = false) (hl : (a.sc c).launch = some l) (hcredit : l.credited = true) :
    Completes (.creditGrant d n) s fun t =>
      (t.die d).reqs = rest ∧ (t.sc c).request = (a.sc c).request - m.1 ∧ (t.sc c).held = min (a.sc c).cls ((a.sc c).held + m.1) ∧
      ∃ l', (t.sc c).launch = some l' ∧ l'.granted = some (a.sc c).wall := by
  have hexec : exec (.creditGrant d n) s = execCreditGrant d n s := rfl
  unfold execCreditGrant at hexec
  rw [hreqs] at hexec
  dsimp only at hexec
  rw [← ha, whenDue_of_due (by rw [hrec]; simpa using And.intro hmade hfree)] at hexec
  refine completes_of_next hexec ?_
  generalize hu : grantHead d c m.1 a = u
  have hsc : u.sc c = { a.sc c with held := (a.sc c).held + m.1, lent := false, request := (a.sc c).request - m.1 } := by
    rw [← hu, grantHead, State.onSc_sc_self, State.onDie_sc]
  have hdie : (u.die d).reqs = rest := by
    rw [← hu, grantHead, State.onSc_die, State.onDie_die_self]
    dsimp only
    rw [hreqs', List.tail_cons]
  have hlu : (u.sc c).launch = some l := by rw [hsc]; exact hl
  have hcls : (u.sc c).cls = (a.sc c).cls := by rw [hsc]
  rw [if_pos (by rw [hlu]; exact hcredit), hcls]
  obtain ⟨hr, hh, hq, l', hl', hc', hg'⟩ := setGranted_grants (k := (a.sc c).cls) hlu
  obtain ⟨hdie', hheld', hreq', l'', hl'', hg''⟩ := launchStep_credited hl' hc'
  rw [hdie', hheld', hreq', hr, hh, hq, hdie, hsc]
  refine ⟨rfl, rfl, rfl, l'', hl'', ?_⟩
  rw [hg'', hg', hsc]
end

/-! ### Wakes and power -/

/-- Eight reference cycles of the die have passed since its last wake (R470). -/
def wakeSpaced (s : State) (d : DieId) (w : Nat) : Bool :=
  match (s.die d).lastWake with
  | some l => l + 8 * stepK s d ≤ w
  | none => true

section
variable {c : CoreId} {n : Nat} {s a : State} (ha : a = advance c n s)
include ha

theorem wakeBegin_wakes {l : Launch} {r : Nat} (hgate : (a.core c).gate = .powerGated) (hfused : fusedOff a c = false)
    (hq : c ∈ (a.die (dieOf c)).wakeQ) (hl : (a.sc c).launch = some l) (hr : l.wakeReq = some r) (hr' : r ≤ (a.sc c).wall)
    (hedge : (a.sc c).wall % stepK a (dieOf c) = 0)
    (hlast : ∀ x, (a.die (dieOf c)).lastWake = some x → x + 8 * stepK a (dieOf c) ≤ (a.sc c).wall) (hbefore : wakeBefore a c = []) :
    Completes (.wakeBegin c n) s fun t =>
      (t.core c).gate = .waking ∧ (t.core c).gatedAt = (a.sc c).wall + 1000 * stepK a (dieOf c) ∧
      (t.die (dieOf c)).lastWake = some (a.sc c).wall ∧ (t.die (dieOf c)).wakes = min 0xFFFF ((a.die (dieOf c)).wakes + 1) := by
  have hspaced : wakeSpaced a (dieOf c) (a.sc c).wall = true := by
    unfold wakeSpaced
    split
    · rename_i x hx
      exact decide_eq_true (hlast x hx)
    · rfl
  have hdue : ((a.core c).gate == .powerGated && !fusedOff a c && (a.die (dieOf c)).wakeQ.contains c && decide (r ≤ (a.sc c).wall) &&
      (a.sc c).wall % stepK a (dieOf c) == 0 && wakeSpaced a (dieOf c) (a.sc c).wall && (wakeBefore a c).isEmpty) = true := by
    rw [hgate, hfused, List.contains_iff_mem.mpr hq, decide_eq_true hr', hedge, hspaced, hbefore]
    rfl
  have hexec : exec (.wakeBegin c n) s = execWakeBegin c n s := rfl
  unfold execWakeBegin at hexec
  dsimp only at hexec
  rw [← ha, hl, Option.bind_some, hr] at hexec
  dsimp only at hexec
  rw [whenDue_of_due (by exact hdue)] at hexec
  refine completes_of_next hexec ?_
  rw [State.onCore_core_self, State.onCore_die, State.onDie_die_self]
  exact ⟨rfl, rfl, rfl, satAdd_eq_min ..⟩

omit ha in
theorem launchStep_furrow (u : State) (e : CoreId) : ((launchStep c u).core e).gate = (u.core e).gate ∧
    (launchStep c u).cm e = u.cm e ∧ (launchStep c u).en e = u.en e := by
  have h := launchStep_unscheduled (c := c) u e
  rw [State.cm, State.en, State.cm, State.en]
  generalize (launchStep c u).core e = k at h ⊢
  exact ⟨(congrArg Core.gate h :), (congrArg Core.m h :), (congrArg Core.e h :)⟩

theorem wakeComplete_clock {l : Launch} {r : Nat} (b : Bool) (hgate : (a.core c).gate = .clockGated) (hl : (a.sc c).launch = some l)
    (hr : l.wakeReq = some r) (hat : r + 12 = (a.sc c).wall) : Completes (.wakeComplete c n b) s fun t => (t.core c).gate = .awake := by
  have hexec : exec (.wakeComplete c n b) s = execWakeComplete c n b s := rfl
  unfold execWakeComplete at hexec
  dsimp only at hexec
  rw [← ha, hgate] at hexec
  dsimp only at hexec
  rw [whenDue_of_due (by rw [hl, Option.any_some, hr, Option.any_some, hat]; exact beq_self_eq_true _)] at hexec
  refine completes_of_next hexec ?_
  rw [(launchStep_furrow _ c).1, State.onCore_core_self]

/-- The furrow once its power is back (R182, R470). -/
def furrowWoken (c : CoreId) (b : Bool) (s : State) : State :=
  (s.onCore c fun k =>
    { k with gate := .awake, m := { k.m with hop := [] }, e := { k.e with drlTested := true, drlFail := !b } }).onSc c fun sc =>
      { sc with ended := if sc.launch.isNone then some (s.sc c).wall else sc.ended }

omit ha in
theorem furrowWoken_furrow (b : Bool) (u : State) : ((furrowWoken c b u).core c).gate = .awake ∧ ((furrowWoken c b u).cm c).hop = [] ∧
    ((furrowWoken c b u).en c).drlTested = true ∧ ((furrowWoken c b u).en c).drlFail = !b := by
  rw [furrowWoken, State.onSc_gate, State.onSc_cm, State.onSc_en, State.onCore_core_self, State.onCore_cm_self, State.onCore_en_self]
  exact ⟨rfl, rfl, rfl, rfl⟩

omit ha in
theorem launchFault_furrow (cls detail : Nat) (u : State) : ((launchFault c cls detail u).core c).gate = (u.core c).gate ∧
    (launchFault c cls detail u).cm c = u.cm c ∧ (launchFault c cls detail u).en c = u.en c ∧
    ((launchFault c cls detail u).sc c).launch = (u.sc c).launch := by
  rw [launchFault, postFault_gate, (postFault_stirs (.refl u) ..).cm, postFault_en, eq_of_mask Sched.unflagged Sched.launch (postFault_unflagged ..)]
  exact ⟨rfl, rfl, rfl, rfl⟩

omit ha in
theorem refuseLaunch_launch (u : State) : ((refuseLaunch c u).sc c).launch = none := by
  rw [refuseLaunch]
  rw [State.onSc_sc_self]
  split <;> rfl

theorem wakeComplete_power (b : Bool) (hgate : (a.core c).gate = .waking) (hat : (a.core c).gatedAt = (a.sc c).wall) :
    Completes (.wakeComplete c n b) s fun t =>
      (t.core c).gate = .awake ∧ (t.cm c).hop = [] ∧ (t.en c).drlTested = true ∧ (t.en c).drlFail = !b ∧
      (b = false → (t.sc c).launch = none) := by
  have hexec : exec (.wakeComplete c n b) s = execWakeComplete c n b s := rfl
  unfold execWakeComplete at hexec
  dsimp only at hexec
  rw [← ha, hgate] at hexec
  dsimp only at hexec
  rw [whenDue_of_due (by rw [hat]; exact beq_self_eq_true _)] at hexec
  refine completes_of_next hexec ?_
  rw [← furrowWoken]
  obtain ⟨hg, hhop, htested, hfail⟩ := furrowWoken_furrow (c := c) b a
  generalize furrowWoken c b a = u at hg hhop htested hfail ⊢
  have hkeep (t : State) (h : (t.core c).gate = (u.core c).gate ∧ t.cm c = u.cm c ∧ t.en c = u.en c)
      (hlaunch : b = false → (t.sc c).launch = none) : (t.core c).gate = .awake ∧ (t.cm c).hop = [] ∧ (t.en c).drlTested = true ∧
      (t.en c).drlFail = !b ∧ (b = false → (t.sc c).launch = none) := by
    rw [h.1, h.2.1, h.2.2]
    exact ⟨hg, hhop, htested, hfail, hlaunch⟩
  obtain ⟨fgate, fcm, fen, flaunch⟩ := launchFault_furrow (c := c) 0x09 0 u
  cases b with
  | true => exact hkeep _ (launchStep_furrow u c) fun h => absurd h (by decide)
  | false =>
    rw [if_neg (by decide)]
    split
    · refine hkeep _ ⟨?_, ?_, ?_⟩ fun _ => refuseLaunch_launch _
      · rw [refuseLaunch_gate, fgate]
      · rw [refuseLaunch_cm, fcm]
      · rw [refuseLaunch_en, fen]
    · rename_i hnone
      exact hkeep _ ⟨fgate, fcm, fen⟩ fun _ => flaunch.trans (Option.not_isSome_iff_eq_none.mp hnone)

omit ha in
/-- A core that has been idle for 256 cycles (R468). -/
def idleGated (w : Nat) (k : Core) : Core := if k.gate == .awake then { k with gate := .clockGated, gatedAt := w } else k

omit ha in
theorem idleGated_sc (w : Nat) (k : Core) : (idleGated w k).sc = k.sc := by
  unfold idleGated
  split <;> rfl

omit ha in
theorem idleGated_gate {w : Nat} {k : Core} (h : k.gate = .awake) : (idleGated w k).gate = .clockGated := by
  rw [idleGated, h]
  rfl

omit ha in
theorem held_min (h : Nat) : (if 1 < h then 1 else h) = min 1 h := by
  split <;> omega

theorem creditIdleReturn_returns {e : Nat} (hended : (a.sc c).ended = some e) (hat : e + 256 = (a.sc c).wall)
    (hl : (a.sc c).launch = none) (hstrip : (a.sc c).strip = none) : Completes (.creditIdleReturn c n) s fun t =>
      (t.sc c).held = min 1 (a.sc c).held ∧ ((a.core c).gate = .awake → (t.core c).gate = .clockGated) ∧ OnlyCore c a t := by
  subst ha
  refine completes_of_dueAt (execCreditIdleReturn c n) ?_ ?_
  · dsimp only
    rw [hended, hl, hstrip, Option.any_some, hat, beq_self_eq_true]
    rfl
  generalize advance c n s = a at *
  have hop : ((a.onSc c fun sc => { sc with ended := none, held := if 1 < sc.held then 1 else sc.held }).onCore c
      (idleGated (a.sc c).wall)) = _ := rfl
  refine hop ▸ ⟨?_, fun h => ?_, (onlyCore_onSc ..).trans (onlyCore_onCore ..)⟩
  · rw [State.onCore_sc_self, idleGated_sc, ← State.sc, State.onSc_sc_self]
    exact held_min _
  · rw [State.onCore_core_self, idleGated_gate (by rw [State.onSc_gate, h])]

omit ha in
theorem powerGate_gates (u : State) : ((powerGate c u).core c).gate = .powerGated ∧ ((powerGate c u).sc c).held = 0 ∧
    ((powerGate c u).cm c).hop = [] ∧ ((powerGate c u).en c).acc = Vector.replicate 2 [] ∧ OnlyCore c u (powerGate c u) := by
  rw [powerGate, State.onCore_core_self, State.onCore_sc_self, State.onCore_cm_self, State.onCore_en_self]
  exact ⟨rfl, rfl, rfl, rfl, onlyCore_onCore ..⟩

theorem powerGateTimeout_gates (hgate : (a.core c).gate = .clockGated) (hl : (a.sc c).launch = none) (hlate : hopperLate a c = false)
    (hlog : clampN 10 31 (a.die (dieOf c)).pgLog2 < 31) (hat : (a.sc c).wall = (a.core c).gatedAt + 2 ^ clampN 10 31 (a.die (dieOf c)).pgLog2) :
    Completes (.powerGateTimeout c n) s fun t =>
      (t.core c).gate = .powerGated ∧ (t.sc c).held = 0 ∧ (t.cm c).hop = [] ∧ (t.en c).acc = Vector.replicate 2 [] ∧ OnlyCore c a t := by
  subst ha
  refine completes_of_dueAt (execPowerGateTimeout c n) ?_ (powerGate_gates _)
  dsimp only
  rw [hgate, hl, hlate, ← hat]
  simp [Nat.ne_of_lt hlog]

theorem powerGateCommand_gates (hgate : (a.core c).gate = .clockGated) : Completes (.powerGateCommand c n) s fun t => OnlyCore c a t ∧
      if hopperLate a c then (t.core c).gate = .clockGated ∧ (t.core c).gateCmd = true
      else (t.core c).gate = .powerGated ∧ (t.sc c).held = 0 ∧ (t.cm c).hop = [] := by
  subst ha
  refine completes_of_dueAt (execPowerGateCommand c n) ?_ ?_
  · rw [hgate]
    rfl
  generalize advance c n s = a at *
  cases hopperLate a c with
  | true =>
    rw [if_pos rfl, if_pos rfl, State.onCore_core_self]
    exact ⟨onlyCore_onCore .., hgate, rfl⟩
  | false =>
    obtain ⟨hg, hheld, hhop, -, honly⟩ := powerGate_gates (c := c) a
    exact ⟨honly, hg, hheld, hhop⟩
end

/-- Settles O5: grants, wakes, the idle return and power gating by their lemmas. -/
theorem creditAndWake : Obligations.CreditAndWake := by
  unfold Obligations.CreditAndWake
  intro c d n s a ha
  exact ⟨fun l m rest hreqs hmade hreqs' hfree hrec hl hcredit => creditGrant_grants ha hreqs hmade hreqs' hfree hrec hl hcredit,
    fun l r hgate hfused hq hl hr hr' hedge hlast hbefore => wakeBegin_wakes ha hgate hfused hq hl hr hr' hedge hlast hbefore,
    fun l r b hgate hl hr hat => wakeComplete_clock ha b hgate hl hr hat, fun b hgate hat => wakeComplete_power ha b hgate hat,
    fun e hended hat hl hstrip => creditIdleReturn_returns ha hended hat hl hstrip,
    fun hgate hl hlate hlog hat => powerGateTimeout_gates ha hgate hl hlate hlog hat, fun hgate => powerGateCommand_gates ha hgate⟩

end Sys2Proof.Machine
end

section
/-! SUPPORT. Refutes O4: two blocked operations of one queue may be due in one cycle, and then the second is another one than R54 blocked. -/

namespace Sys2Proof.Machine

open Sys2Proof

/- Elaborated one by one, the proofs do not wait for one another's equation lemmas. -/
set_option Elab.async false

theorem advance_elapsed {c : CoreId} {n : Nat} {s : State} (h : n ≤ (s.sc c).wall) : advance c n s = s := by
  rw [advance, Nat.sub_eq_zero_of_le h]
  rfl

/-! ### A blocked operation is performed -/

section
variable {c : CoreId} {b : Blocked} {w : IWord} {st : Strip} {s : State}

theorem performBlocked_stkWait (hdue : dueWord (s.sc c) b.q = some w) (hstrip : (s.sc c).strip = some st) (hfeed : b.feed = false)
    (hop : wOp w = 2) : performBlocked c b s = performStkWait c b.q w st s := by
  rw [performBlocked, hdue, hstrip, hfeed]
  dsimp only
  rw [hop]
  rfl

theorem performBlocked_hqPop (hdue : dueWord (s.sc c) b.q = some w) (hstrip : (s.sc c).strip = some st) (hfeed : b.feed = false)
    (hop : wOp w = 4) : performBlocked c b s = performHqPop c b.q w st s := by
  rw [performBlocked, hdue, hstrip, hfeed]
  dsimp only
  rw [hop]
  rfl

theorem performHqPop_empty {q : Queue} (hq : vget (s.sc c).hq [] (wHq w) = []) (hdebug : debugMode s c = true) :
    performHqPop c q w st s = hazardStop c (qIdx q) (wTag w) 5 0 s := by
  rw [performHqPop, hq, hdebug]
  rfl
end

/-! ### The counterexample -/

/-- STK_WAIT and HQ_POP without a delay: both are due in one schedule cycle. -/
def stkWaitWord : IWord := BitVec.ofNat 128 (2 * 2 ^ 12)
def hqPopWord : IWord := BitVec.ofNat 128 (4 * 2 ^ 12)

def waitThenPop : Strip := ⟨0, 0, 0, [stkWaitWord, hqPopWord], [], [], [], []⟩

/-- A blocked operation of MQ. -/
def blockedMq : Blocked := ⟨.mq, .stake 0 0, 0, false⟩

/-- A schedule part whose stall names MQ twice and is to end in the present cycle. -/
def stalledTwice (k : Sched) : Sched :=
  { k with run := .stalled, wall := 3, stripCyc := 0, strip := some waitThenPop, qpos := Vector.replicate 4 ⟨0, 0, 0⟩,
           hq := Vector.replicate 8 [], stall := some ⟨0, [blockedMq, blockedMq], some 0, 0, none, 0⟩ }

/-- A core in debug mode whose stall names MQ twice. -/
def stalledTwiceState : State := (State.reset.onDie (dieOf 0) fun k => { k with debug := true }).onSc 0 stalledTwice

theorem stalledTwiceState_sc : ∃ k, stalledTwiceState.sc 0 = stalledTwice k := ⟨_, State.onSc_sc_self ..⟩

theorem stalledTwiceState_debug : debugMode stalledTwiceState 0 = true := by
  rw [debugMode, stalledTwiceState, State.onSc_die, State.onDie_die_self]

/-- The second of the two is the HQ_POP, which finds its queue empty. -/
theorem resume_stalledTwiceState : ((resume 0 stalledTwiceState).sc 0).run = .faulted := by
  obtain ⟨k, hk⟩ := stalledTwiceState_sc
  rw [resume, show (stalledTwiceState.sc 0).stall = some ⟨0, [blockedMq, blockedMq], some 0, 0, none, 0⟩ by rw [hk]; rfl]
  dsimp only
  rw [forAll_cons, forAll_cons, forAll_nil]
  generalize hv : trace 0 _ 4 _ _ = v
  have hvsc : v.sc 0 = { stalledTwice k with run := .running, cause := .none, which := 0, stall := none, lent := false } := by
    rw [← hv, trace_sc, State.onSc_sc_self, hk]
  have hvdebug : debugMode v 0 = true := by
    rw [← hv, trace_debug, debugMode, State.onSc_die]
    exact stalledTwiceState_debug
  rw [performBlocked_stkWait (b := blockedMq) (s := v) (w := stkWaitWord) (st := waitThenPop) (by rw [hvsc]; rfl) (by rw [hvsc]; rfl) rfl rfl,
    performStkWait]
  generalize hu : takeStake 0 _ (wStkN stkWaitWord) v = u
  have husc : (u.sc 0).strip = some waitThenPop ∧ (u.sc 0).stripCyc = 0 ∧ (u.sc 0).qpos = Vector.replicate 4 ⟨0, 0, 0⟩ ∧
      (u.sc 0).hq = Vector.replicate 8 [] := by
    rw [← hu, takeStake, State.onSc_sc_self, hvsc]
    exact ⟨rfl, rfl, rfl, rfl⟩
  obtain ⟨hstrip, hcyc, hqpos, hhq⟩ := husc
  have hudebug : debugMode (issueNeutral 0 blockedMq.q stkWaitWord u) 0 = true := by
    have hmode : debugMode (issueNeutral 0 blockedMq.q stkWaitWord u) 0 = debugMode v 0 := by
      rw [debugMode, debugMode, issueNeutral, issueWord_die, ← hu, takeStake, State.onSc_die]
    exact hmode.trans hvdebug
  have hisc : (issueNeutral 0 blockedMq.q stkWaitWord u).sc 0 = _ := issueWord_sc_self _ _ _ _ _ _ _ hstrip
  rw [performBlocked_hqPop (b := blockedMq) (w := hqPopWord) (st := waitThenPop) ?_ ?_ rfl rfl, performHqPop_empty ?_ hudebug, hazardStop_run]
  · rw [hisc]
    dsimp only
    rw [hhq]
    rfl
  · rw [hisc]
    unfold dueWord nextWord dueCyc
    dsimp only
    rw [hqpos, hcyc, hstrip]
    rfl
  · rw [hisc]
    exact hstrip

theorem stallResume_stalledTwiceState :
    ∃ t, exec (.stallResume 0 0) stalledTwiceState = .next t ∧ (t.sc 0).run = .faulted := by
  have hnow : advance 0 0 stalledTwiceState = stalledTwiceState := advance_elapsed (Nat.zero_le _)
  refine completes_of_dueAt (execStallResume 0 0) ?_ ?_
  · rw [hnow]
    obtain ⟨k, hk⟩ := stalledTwiceState_sc
    rw [hk]
    rfl
  · rw [hnow]
    exact resume_stalledTwiceState

/-- Refutes O4: a stall may name one queue twice. When it ends, the first of the two performs STK_WAIT; the second performs what is then
due, an HQ_POP without a delay, which in debug mode stops the core where its handle queue is empty (R44, R77). -/
theorem not_stallsEnd : ¬ Obligations.StallsEnd := by
  unfold Obligations.StallsEnd
  intro h
  have hnow : stalledTwiceState = advance 0 0 stalledTwiceState := (advance_elapsed (Nat.zero_le _)).symm
  obtain ⟨hresume, -⟩ := h 0 0 stalledTwiceState stalledTwiceState hnow
  obtain ⟨k, hk⟩ := stalledTwiceState_sc
  rw [hk] at hresume
  obtain ⟨t, ht, hrun, -, -⟩ := hresume _ rfl rfl rfl le_rfl fun _ b hb => by
    refine .inr fun w hw => ?_
    obtain rfl : b = blockedMq := by simpa using hb
    have hword : dueWord (stalledTwice k) .mq = some stkWaitWord := rfl
    obtain rfl : stkWaitWord = w := Option.some.inj (hword.symm.trans hw)
    decide
  obtain ⟨u, hu, hfaulted⟩ := stallResume_stalledTwiceState
  have htu : t = u := Host.Outcome.next.inj (ht.symm.trans hu)
  rw [htu, hfaulted] at hrun
  exact absurd hrun (by decide)

end Sys2Proof.Machine
end

section
/-! SUPPORT. What the steps of a launch leave, and where launches begin (R32, R33, R66 to R69, R78): the first part of O2. -/

namespace Sys2Proof.Machine

open Sys2Proof

/- Elaborated one by one, the proofs do not wait for one another's equation lemmas. -/
set_option Elab.async false

/-! ### Launches -/

/-- A schedule part without what the steps of a launch alter (R32, R66 to R69): of the launch itself, its launch point stays. -/
def Sched.unstepped (sc : Sched) : Sched :=
  { sc with run := .idle, cause := .none, which := 0, held := 0, request := 0, cls := 0,
            launch := sc.launch.map fun l => { l with credited := false, granted := none, wakeReq := none, since := none } }

section
variable {c : CoreId}

theorem launchWait_unstepped (cause : Cause) (s : State) (e : CoreId) :
    ((launchWait c cause s).sc e).unstepped = (s.sc e).unstepped :=
  proj_onSc Sched.unstepped c e s fun _ => rfl

theorem pushReq_unstepped (n : Nat) (s : State) (e : CoreId) : ((pushReq c n s).sc e).unstepped = (s.sc e).unstepped := by
  unfold pushReq
  dsimp only
  rw [proj_onSc Sched.unstepped, State.onDie_sc]
  exact fun _ => rfl

theorem setGranted_unstepped (k : Nat) (s : State) (e : CoreId) : ((setGranted c k s).sc e).unstepped = (s.sc e).unstepped := by
  have hgrant (w : Nat) (f : Option Nat → Option Nat) : ((s.onSc c fun sc =>
      { sc with held := if k ≤ sc.held then k else sc.held, launch := sc.launch.map fun l =>
        { l with credited := true, granted := some w, wakeReq := f l.wakeReq } }).sc e).unstepped = (s.sc e).unstepped :=
    proj_onSc Sched.unstepped c e s fun sc => by cases hl : sc.launch <;> simp [Sched.unstepped, hl]
  unfold setGranted
  dsimp only
  split
  · rw [State.onDie_sc]
    exact hgrant _ fun r => if r.isNone && (s.core c).gate != .awake then some ((s.sc c).wall + 1) else r
  · exact hgrant _ fun r => if r.isNone && (s.core c).gate != .awake then some ((s.sc c).wall + 1) else r

theorem creditStep_unstepped (k : Nat) (s : State) (e : CoreId) : ((creditStep c k s).sc e).unstepped = (s.sc e).unstepped := by
  have hcredit : ((s.onSc c fun sc => { sc with cls := k, launch := sc.launch.map fun l => { l with credited := true } }).sc e).unstepped =
      (s.sc e).unstepped := proj_onSc Sched.unstepped c e s fun sc => by cases hl : sc.launch <;> simp [Sched.unstepped, hl]
  unfold creditStep
  dsimp only
  split
  · rw [setGranted_unstepped, hcredit]
  · split
    · exact hcredit
    · rw [pushReq_unstepped, hcredit]

theorem launchStep_unstepped (s : State) (e : CoreId) : ((launchStep c s).sc e).unstepped = (s.sc e).unstepped := by
  unfold launchStep
  split
  · rfl
  · split
    · rfl
    · split
      · exact launchWait_unstepped ..
      · dsimp only
        split
        · exact launchWait_unstepped ..
        · rename_i l _ _ _ st _ _
          generalize hu : (if l.credited then s else creditStep c (hdrClass st.hdr) s) = u
          have hcredit : (u.sc e).unstepped = (s.sc e).unstepped := by
            rw [← hu]
            split
            · rfl
            · exact creditStep_unstepped ..
          rw [← hcredit]
          split
          · exact launchWait_unstepped ..
          · split
            · exact launchWait_unstepped ..
            · exact proj_onSc Sched.unstepped c e u fun sc => by cases hl : sc.launch <;> simp [Sched.unstepped, hl]

/-- A launch that steps keeps its launch point. -/
theorem launch_of_unstepped {a b : Sched} {l : Launch} (h : a.unstepped = b.unstepped) (hl : b.launch = some l) :
    ∃ l', a.launch = some l' ∧ l'.point = l.point := by
  have hmap := (congrArg Sched.launch h :)
  rw [Sched.unstepped, Sched.unstepped, hl] at hmap
  obtain ⟨l', hl', hpoint⟩ := Option.map_eq_some_iff.mp hmap
  exact ⟨l', hl', (congrArg Launch.point hpoint :)⟩

/-- The launch point begins the count of the cycles of R33 (R63, R75). -/
theorem launchPoint_launches {l : Launch} {s : State} (hl : (s.sc c).launch = some l) :
    (∃ l', ((launchPoint c s).sc c).launch = some l' ∧ l'.point = some (s.sc c).wall) ∧
    ((launchPoint c s).sc c).launchPoint = (s.sc c).wall ∧ ((launchPoint c s).sc c).stripStall = 0 ∧
    ((launchPoint c s).sc c).strip = (s.sc c).strip ∧ ((launchPoint c s).sc c).stk = (s.sc c).stk ∧
    ((launchPoint c s).sc c).hq = (s.sc c).hq ∧ ((launchPoint c s).core c).unscheduled = (s.core c).unscheduled := by
  rw [launchPoint, launchStep_unscheduled, onSc_unscheduled]
  generalize hu : s.onSc c _ = u
  have hstep := launchStep_unstepped (c := c) u c
  have hsc : u.sc c = { s.sc c with stripCyc := 0, stripStall := 0, launchPoint := (s.sc c).wall, dlPosted := false, lent := false,
                                    launch := some { l with point := some (s.sc c).wall } } := by
    rw [← hu, State.onSc_sc_self, hl]
    rfl
  refine ⟨launch_of_unstepped hstep (l := { l with point := some (s.sc c).wall }) (by rw [hsc]), ?_, ?_, ?_, ?_, ?_, rfl⟩
  · exact (eq_of_mask Sched.unstepped Sched.launchPoint hstep).trans (by rw [hsc])
  · exact (eq_of_mask Sched.unstepped Sched.stripStall hstep).trans (by rw [hsc])
  · exact (eq_of_mask Sched.unstepped Sched.strip hstep).trans (by rw [hsc])
  · exact (eq_of_mask Sched.unstepped Sched.stk hstep).trans (by rw [hsc])
  · exact (eq_of_mask Sched.unstepped Sched.hq hstep).trans (by rw [hsc])

theorem askAlloc_clears {e : CoreId} {s₀ s : State} (h : Clears e s₀ s) (hd : Option Nat) : Clears e s₀ (askAlloc c hd s) :=
  serve_clears (onDie_clears h _ _) _

/-- Handles that are paged out are asked for; the core's schedule part and control core stay (R113). -/
theorem startPageIns_sameCore (hs : List Nat) (s : State) : SameCore c s (startPageIns c hs s) := by
  obtain ⟨e, he⟩ := exists_core_ne c
  refine Clears.sameCore (forAll_clears (Clears.refl e s) hs fun h t ht => ?_) he.symm
  dsimp only
  split
  · exact askAlloc_clears (setRes_clears ht c h 2) _
  · exact ht

/-- CTL_LAUNCH on an idle core (R33, R68, R78). -/
theorem launchOp_launches {st : Strip} {a : State} (hstaged : (a.sc c).staged = some st) (hlisted : stillListed a c st.row st.slot = true)
    (hlaunch : (a.sc c).launch = none) (hstrip : (a.sc c).strip = none) (hrun : (a.sc c).run ≠ .faulted)
    (hstopping : (a.sc c).stopping = false) (hdrill : (a.en c).drlFail = false) (hdebug : debugRefused a c st.hdr = false) :
    ∃ u, launchOp c a = (0, launchPoint c u) ∧ (u.sc c).wall = (a.sc c).wall ∧ (u.sc c).launch.isSome ∧ (u.cc c).pc = (a.cc c).pc := by
  have hat : stagedAt (a.sc c) = some (st.row, st.slot) := by rw [stagedAt, hstaged]
  have hhdr : stagedHdr (a.sc c) = some st.hdr := by rw [stagedHdr, hstaged]
  have hfaulted : ((a.sc c).run == .faulted) = false := beq_false_of_ne hrun
  unfold launchOp
  simp only [hstaged, hlaunch, hat, hhdr, hfaulted, hstopping, hdrill, hlisted, hdebug, Option.isNone_some, Bool.false_and, Option.isSome_none,
    Bool.false_eq_true, if_false, Bool.or_self, Option.any_some, Bool.not_true]
  generalize hv : a.onSc c _ = v
  have hsame := startPageIns_sameCore (c := c) (stripHandles st) v
  obtain ⟨hsc, hcc, -⟩ := hsame
  have hvsc : v.sc c = { a.sc c with launch := some ⟨none, false, none, none, none, false, none⟩, ended := none } := by
    rw [← hv, State.onSc_sc_self]
  refine ⟨startPageIns c (stripHandles st) v, ?_, ?_, ?_, ?_⟩
  · rw [hstrip]
    rfl
  · rw [hsc, hvsc]
  · rw [hsc, hvsc]
    rfl
  · rw [hcc, ← hv, State.onSc_cc]

theorem ctlLaunch_launches {n : Nat} {rd : Reg} {st : Strip} {s a : State} (ha : a = advance c n s) (hissues : ccIssues a c = true)
    (hstaged : (a.sc c).staged = some st) (hlisted : stillListed a c st.row st.slot = true) (hlaunch : (a.sc c).launch = none)
    (hstrip : (a.sc c).strip = none) (hrun : (a.sc c).run ≠ .faulted) (hstopping : (a.sc c).stopping = false)
    (hdrill : (a.en c).drlFail = false) (hdebug : debugRefused a c st.hdr = false) : Completes (.ctlLaunch c n rd) s fun t =>
      (∃ l, (t.sc c).launch = some l ∧ l.point = some (a.sc c).wall) ∧ (t.sc c).launchPoint = (a.sc c).wall ∧
      (t.sc c).stripStall = 0 ∧ Returns c rd 0 a t := by
  obtain ⟨u, hop, hwall, hsome, hpc⟩ := launchOp_launches hstaged hlisted hlaunch hstrip hrun hstopping hdrill hdebug
  obtain ⟨l, hl⟩ := Option.isSome_iff_exists.mp hsome
  obtain ⟨hpoint, hat, hstall, -, -, -, hrest⟩ := launchPoint_launches hl
  rw [hwall] at hpoint hat
  refine completes_of_issues (execCtlLaunch c n rd) ha hissues ?_
  rw [instLaunch, hop]
  dsimp only
  rw [ccNext_sc, setReg_sc]
  refine ⟨hpoint, hat, hstall, returns_of_setReg c rd 0 1 ?_⟩
  rw [← hpc, State.cc, State.cc]
  exact (congrArg (fun k : Core => k.cc.pc) hrest :)

theorem launchReady_notes {n : Nat} {l : Launch} {s a : State} (ha : a = advance c n s) (hl : (a.sc c).launch = some l)
    (hsince : l.since = some (a.sc c).wall) (hready : l.ready = none) : Completes (.launchReady c n) s fun t =>
      (t.sc c).launch = some { l with ready := some (a.sc c).wall } ∧ OnlyCore c a t := by
  refine completes_of_dueAt (execLaunchReady c n) ?_ ?_
  · rw [← ha, hl, Option.any_some, hsince, hready]
    simp
  · rw [← ha]
    refine ⟨?_, onlyCore_onSc ..⟩
    rw [State.onSc_sc_self, hl, ← hsince]
    rfl
end

end Sys2Proof.Machine
end

section
/-! SUPPORT. Settles O2: strips start and end, and their instructions complete (R26, R34, R35, R39, R172, R226, R317). -/

namespace Sys2Proof.Machine

open Sys2Proof

/- Elaborated one by one, the proofs do not wait for one another's equation lemmas. -/
set_option Elab.async false

/-! ### Strips start -/

section
variable {α : Type} {m : Nat} (g : Nat → α) (d : α)

theorem vget_foldl_vset_notMem {ks : List Nat} {j : Nat} (h : j ∉ ks) (v : Vector α m) :
    vget (ks.foldl (fun v k => vset v k (g k)) v) d j = vget v d j := by
  induction ks generalizing v with
  | nil => rfl
  | cons k ks ih =>
    obtain ⟨hk, hks⟩ := not_or.mp (mt List.mem_cons.mpr h)
    rw [List.foldl_cons, ih hks, vget_vset_ne _ _ _ _ _ (Ne.symm hk)]

theorem vget_foldl_vset_mem {ks : List Nat} {j : Nat} (h : j ∈ ks) (hj : j < m) (v : Vector α m) :
    vget (ks.foldl (fun v k => vset v k (g k)) v) d j = g j := by
  induction ks generalizing v with
  | nil => exact absurd h List.not_mem_nil
  | cons k ks ih =>
    rw [List.foldl_cons]
    by_cases hks : j ∈ ks
    · exact ih hks _
    · obtain rfl : j = k := (List.mem_cons.mp h).resolve_right hks
      rw [vget_foldl_vset_notMem g d hks, vget_vset_self _ _ _ _ hj]
end

theorem mem_maskList {k n j : Nat} : j ∈ maskList k n ↔ j < k ∧ n.testBit j = true := by
  rw [maskList, List.mem_filter, List.mem_range]

section
variable {c : CoreId} {n : Nat} {st : Strip} {s a : State}

theorem stripStart_starts {l : Launch} {p r : Nat} (ha : a = advance c n s) (hl : (a.sc c).launch = some l)
    (hstaged : (a.sc c).staged = some st) (hpoint : l.point = some p) (hready : l.ready = some r) (hwall : (a.sc c).wall = max p r + 8)
    (hidle : (a.sc c).run = .idle) : Completes (.stripStart c n) s fun t => t = startStrip c st a := by
  have hexec : exec (.stripStart c n) s = execStripStart c n s := rfl
  unfold execStripStart at hexec
  rw [← ha] at hexec
  dsimp only at hexec
  rw [hl, hstaged] at hexec
  dsimp only at hexec
  rw [hpoint, hready] at hexec
  refine completes_of_next (hexec.trans (whenDue_of_due ?_ _ _)) rfl
  rw [hwall, hidle, Nat.max_def]
  exact Bool.and_eq_true_iff.mpr ⟨beq_self_eq_true _, rfl⟩

/-- A strip starts with cleared stakes and queues, its counter at 0 (R34, R172, R226, R398). -/
theorem startStrip_sc (c : CoreId) (st : Strip) (a : State) :
    ((startStrip c st a).sc c).run = .running ∧ ((startStrip c st a).sc c).strip = some st ∧ ((startStrip c st a).sc c).staged = none ∧
    ((startStrip c st a).sc c).launch = none ∧ ((startStrip c st a).sc c).stripCyc = 0 ∧
    ((startStrip c st a).sc c).stripId = hdrStripId st.hdr ∧
    ((startStrip c st a).sc c).stk = (maskStakes (a.sc c) st (hdrStkClear st.hdr)).foldl (fun v k => vset v k
      (BitVec.ofNat 8 ((vget (a.sc c).stk 0 k).toNat - (vget (a.sc c).stk0 0 k).toNat))) (a.sc c).stk ∧
    ((startStrip c st a).sc c).hq = (maskList 8 (hdrHqClear st.hdr)).foldl (fun v q => vset v q
      ((vget (a.sc c).hq [] q).drop (vget (a.sc c).hq0 0 q))) (a.sc c).hq ∧
    ((startStrip c st a).sc c).draw = (vget a.hub.adv AdvCtx.reset (hdrContext st.hdr % 8)).step ∧
    ((startStrip c st a).en c).fold = Vector.replicate 4 0 ∧ ((startStrip c st a).en c).bbuf = [] := by
  unfold startStrip
  dsimp only
  rw [trace_sc, State.onTb_sc, State.onM_sc, State.onE_sc, State.onSc_sc_self, trace_en, State.onTb_en, State.onM_en, State.onE_en_self]
  exact ⟨rfl, rfl, rfl, rfl, rfl, rfl, rfl, rfl, rfl, rfl, rfl⟩

theorem startStrip_stakes (c : CoreId) (st : Strip) (a : State) :
    (∀ k, k < 48 → k ∈ maskStakes (a.sc c) st (hdrStkClear st.hdr) → vget ((startStrip c st a).sc c).stk 0 k =
      BitVec.ofNat 8 ((vget (a.sc c).stk 0 k).toNat - (vget (a.sc c).stk0 0 k).toNat)) ∧
    (∀ k, k ∉ maskStakes (a.sc c) st (hdrStkClear st.hdr) → vget ((startStrip c st a).sc c).stk 0 k = vget (a.sc c).stk 0 k) ∧
    (∀ k, k < 8 → vget ((startStrip c st a).sc c).hq [] k =
      if (hdrHqClear st.hdr).testBit k then (vget (a.sc c).hq [] k).drop (vget (a.sc c).hq0 0 k) else vget (a.sc c).hq [] k) := by
  obtain ⟨-, -, -, -, -, -, hstk, hhq, -⟩ := startStrip_sc c st a
  rw [hstk, hhq]
  refine ⟨fun k hk hmem => ?_, fun k hmem => ?_, fun k hk => ?_⟩
  · exact vget_foldl_vset_mem (fun k => BitVec.ofNat 8 ((vget (a.sc c).stk 0 k).toNat - (vget (a.sc c).stk0 0 k).toNat)) 0 hmem hk _
  · exact vget_foldl_vset_notMem (fun k => BitVec.ofNat 8 ((vget (a.sc c).stk 0 k).toNat - (vget (a.sc c).stk0 0 k).toNat)) 0 hmem _
  · cases hbit : (hdrHqClear st.hdr).testBit k with
    | true =>
      exact vget_foldl_vset_mem (fun q => (vget (a.sc c).hq [] q).drop (vget (a.sc c).hq0 0 q)) [] (mem_maskList.mpr ⟨hk, hbit⟩) hk _
    | false =>
      refine vget_foldl_vset_notMem (fun q => (vget (a.sc c).hq [] q).drop (vget (a.sc c).hq0 0 q)) [] (fun hmem => ?_) _
      rw [(mem_maskList.mp hmem).2] at hbit
      exact absurd hbit (by decide)

/-! ### Strips end -/

theorem lsCompare_en (x y : FoldRec) (ctx cyc : Nat) (s : State) (e : CoreId) : (lsCompare x y ctx cyc s).en e = s.en e := by
  unfold lsCompare
  dsimp only
  split
  · split <;> simp only [State.onLs_en]
  · split
    · simp only [State.onLs_en, headlandFault_en, attention_en, hubSetBit_en]
    · split <;> simp only [faultCore_en, postFault_en, State.onLs_en, attention_en, hubSetBit_en]

theorem lsKeep_en (x : FoldRec) (ctx cyc : Nat) (s : State) (e : CoreId) : (lsKeep x ctx cyc s).en e = s.en e := by
  have hgap (k : Nat) (u : State) : (lsGap k u).en e = u.en e :=
    congrArg Core.e ((lsGap_sends (Sends.refl u) k).core e)
  unfold lsKeep
  dsimp only
  (repeat' split) <;> simp only [lsCompare_en, hgap, State.onLs_en]

/-- The fold record that leaves is final (R400). -/
theorem handFold_en (fault : Bool) (s : State) :
    (handFold c fault s).en c = { s.en c with foldFinal := true, foldFault := fault } := by
  unfold handFold lsLocal
  dsimp only
  split
  · rw [State.onE_en_self]
  · rw [lsKeep_en, State.onLs_en, State.onE_en_self]

/-- Without lockstep, the fold record of a strip goes to no comparator. -/
theorem handFold_sc_of_disabled (fault : Bool) {s : State} (h : s.hub.ls.enable = false) : (handFold c fault s).sc c = s.sc c := by
  unfold handFold lsLocal
  dsimp only
  rw [State.onE_hub, h, if_pos (by decide), State.onE_sc]

/-- The end of a strip before its next launch (R35, R319). -/
def endedStrip (c : CoreId) (s : State) : State :=
  ((ccEvent c 0 (trace c 0 6 0 (handFold c false s))).onE c dropEngines).onSc c fun sc =>
    { sc with run := if sc.stopping then .faulted else .idle, cause := .none, strip := none, flights := [], stopping := false }

theorem endStrip_eq (c : CoreId) (s : State) : endStrip c s =
    if ((endedStrip c s).sc c).launch.isSome then launchPoint c (endedStrip c s)
    else (endedStrip c s).onSc c fun sc => { sc with ended := some sc.wall } := rfl

theorem endedStrip_sc (s : State) : ∃ k : Sched, k.unsettled = (s.sc c).unsettled ∧
    (s.hub.ls.enable = false → k.stopping = (s.sc c).stopping) ∧
    (endedStrip c s).sc c = { k with run := if k.stopping then .faulted else .idle, cause := .none, strip := none, flights := [],
                                     stopping := false } := by
  refine ⟨_, ?_, fun h => ?_, State.onSc_sc_self ..⟩
  · rw [State.onE_sc, unsettled_of_unflagged (ccEvent_unflagged _ _ _ _), trace_sc, handFold_unsettled]
  · rw [State.onE_sc, eq_of_mask Sched.unflagged Sched.stopping (ccEvent_unflagged _ _ _ _), trace_sc, handFold_sc_of_disabled _ h]

theorem ccEvent_en (b : Nat) (s : State) (e : CoreId) : (ccEvent c b s).en e = s.en e := by
  by_cases h : c = e
  · rw [← h, ccEvent, State.en, State.onCore_core_self]
    rfl
  · rw [State.en, ccEvent_core_ne _ _ _ _ h, State.en]

theorem endedStrip_en (s : State) :
    (endedStrip c s).en c = dropEngines { s.en c with foldFinal := true, foldFault := false } := by
  rw [endedStrip, State.onSc_en, State.onE_en_self, ccEvent_en, trace_en, handFold_en]

theorem ccEvent_events (b : Nat) (s : State) (hb : b < 6) : ((ccEvent c b s).cc c).events.getLsbD b = true := by
  rw [ccEvent, State.cc, State.onCore_core_self, raiseEvent, BitVec.getLsbD_or, BitVec.getLsbD_ofNat, Nat.testBit_two_pow_self]
  simp [hb]

theorem endedStrip_events (s : State) : ((endedStrip c s).cc c).events.getLsbD 0 = true := by
  rw [endedStrip, State.onSc_cc, State.onE_cc]
  exact ccEvent_events 0 _ (by decide)

theorem stripEnd_ends (ha : a = advance c n s) (hstrip : (a.sc c).strip = some st) (hrun : (a.sc c).run = .running)
    (hcyc : (a.sc c).stripCyc = hdrLength st.hdr) (hcarry : debugMode a c = true → carryBroken (a.sc c) st = false) :
    Completes (.stripEnd c n) s fun t => t = endStrip c a := by
  have hexec : exec (.stripEnd c n) s = execStripEnd c n s := rfl
  unfold execStripEnd at hexec
  rw [← ha] at hexec
  dsimp only at hexec
  rw [hstrip] at hexec
  refine completes_of_next (hexec.trans (whenDue_of_due ?_ _ _)) (if_neg ?_)
  · rw [hrun, hcyc]
    exact Bool.and_eq_true_iff.mpr ⟨rfl, beq_self_eq_true _⟩
  · intro h
    obtain ⟨hdebug, hbroken⟩ := Bool.and_eq_true_iff.mp h
    rw [hcarry hdebug] at hbroken
    exact absurd hbroken (by decide)

theorem endStrip_ends (c : CoreId) (a : State) :
    ((endStrip c a).sc c).strip = none ∧ ((endStrip c a).cc c).events.getLsbD 0 = true ∧ ((endStrip c a).en c).foldFinal = true ∧
    ((endStrip c a).en c).foldFault = false ∧ ((endStrip c a).sc c).stk = (a.sc c).stk ∧ ((endStrip c a).sc c).hq = (a.sc c).hq ∧
    ((endStrip c a).en c).late = (a.en c).late ∧
    ((a.sc c).launch = none → (a.sc c).stopping = false → a.hub.ls.enable = false →
      ((endStrip c a).sc c).run = .idle ∧ ((endStrip c a).sc c).ended = some (a.sc c).wall) ∧
    ((a.sc c).launch.isSome → ∃ l, ((endStrip c a).sc c).launch = some l ∧ l.point = some (a.sc c).wall) := by
  obtain ⟨k, hk, hstop, hsc⟩ := endedStrip_sc (c := c) a
  have hen := endedStrip_en (c := c) a
  have hevents := endedStrip_events (c := c) a
  have hstk : k.stk = (a.sc c).stk := eq_of_mask Sched.unsettled Sched.stk hk
  have hhq : k.hq = (a.sc c).hq := eq_of_mask Sched.unsettled Sched.hq hk
  have hwall : k.wall = (a.sc c).wall := eq_of_mask Sched.unsettled Sched.wall hk
  have hlaunch : k.launch = (a.sc c).launch := eq_of_mask Sched.unsettled Sched.launch hk
  rw [endStrip_eq]
  generalize endedStrip c a = u at *
  cases hl : (a.sc c).launch with
  | none =>
    have hnone : (u.sc c).launch.isSome = false := by
      rw [hsc]
      dsimp only
      rw [hlaunch, hl]
      rfl
    rw [if_neg (by rw [hnone]; decide), State.onSc_sc_self, State.onSc_cc, State.onSc_en, hsc, hen]
    refine ⟨rfl, hevents, rfl, rfl, hstk, hhq, rfl, fun _ hstopping hls => ⟨?_, congrArg some hwall⟩, fun h => absurd h (by decide)⟩
    dsimp only
    rw [hstop hls, hstopping]
    rfl
  | some l =>
    have hul : (u.sc c).launch = some l := by
      rw [hsc]
      dsimp only
      rw [hlaunch, hl]
    obtain ⟨hpoint, -, -, hstrip, hstk', hhq', hrest⟩ := launchPoint_launches hul
    have hcc : (launchPoint c u).cc c = u.cc c := (congrArg (fun k : Core => k.cc) hrest :)
    have hen' : (launchPoint c u).en c = u.en c := (congrArg (fun k : Core => k.e) hrest :)
    rw [if_pos (by rw [hul]; rfl), hstrip, hcc, hen', hstk', hhq', hen]
    rw [hsc] at hpoint ⊢
    refine ⟨rfl, hevents, rfl, rfl, hstk, hhq, rfl, fun h => absurd h (by simp), fun _ => ?_⟩
    dsimp only at hpoint
    rw [hwall] at hpoint
    exact hpoint

/-! ### Instructions complete -/

theorem retire_sc (s : State) (e : CoreId) : (retire c s).sc e = s.sc e := proj_onCore id c e s fun _ => rfl

theorem postSummary_unflagged (r : HrwRun) (s : State) (e : CoreId) : ((postSummary c r s).sc e).unflagged = (s.sc e).unflagged := by
  unfold postSummary
  split
  · rfl
  · dsimp only
    rw [ccEvent_unflagged, State.onE_sc]
    exact proj_onSc Sched.unflagged c e s fun _ => rfl

theorem rootWrite_unflagged (r : RootRun) (s : State) (e : CoreId) : ((rootWrite c r s).sc e).unflagged = (s.sc e).unflagged := by
  unfold rootWrite
  dsimp only
  rw [State.onE_sc]
  split
  · rw [foldWrite_sc, writeH_unflagged]
  · rw [proj_onSc Sched.unflagged, foldWrite_sc, writeH_unflagged]
    exact fun _ => rfl

/-- What an engine does as its instruction completes leaves the schedule (R215, R240, R244, R275). -/
theorem unitComplete_unflagged (q : Queue) (f : Flight) (s : State) (e : CoreId) :
    ((unitComplete c q f s).sc e).unflagged = (s.sc e).unflagged := by
  unfold unitComplete
  dsimp only
  split
  · rfl
  · cases q with
    | mq => exact congrArg Sched.unflagged ((retire_sc _ e).trans (State.onE_sc ..))
    | vq =>
      refine (congrArg Sched.unflagged ((retire_sc _ e).trans (State.onE_sc ..))).trans ?_
      split
      · split
        · exact postSummary_unflagged ..
        · rfl
      · rfl
    | uq =>
      refine (congrArg Sched.unflagged ((retire_sc _ e).trans (State.onE_sc ..))).trans ?_
      split
      · exact rootWrite_unflagged ..
      · rfl
    | tq => rfl

theorem addStake_none {k : Nat} (hk : 48 ≤ k) (m source tag : Nat) (s : State) :
    ((addStake c k m source tag s).sc c).unsettled = (s.sc c).unsettled := by
  have hbeyond : stakeOverflows s c k m = false := by
    rw [stakeOverflows, decide_eq_false (Nat.not_lt.mpr hk), Bool.false_and]
  have hadd (sc : Sched) : stakeAdd sc k m = sc := if_neg (Nat.not_lt.mpr hk)
  unfold addStake
  rw [hbeyond]
  refine (checkRelease_unsettled c c _).trans ?_
  exact proj_onSc Sched.unsettled c c s fun sc => by rw [hadd]

/-- A schedule part without the first instruction of queue `q` that completes in the present cycle. -/
def Sched.completed (q : Queue) (sc : Sched) : Sched :=
  { sc with flights := sc.flights.eraseP fun f => f.q == q && f.comp == sc.stripCyc }

/-- INSTRUCTION_COMPLETE adds to a stake after the instruction has left (R39). -/
theorem instructionComplete_adds {q : Queue} {f : Flight} {b : State} (hb : b = hazardCheck c (advance c n s))
    (hrun : (b.sc c).run = .running) (hcyc : (b.sc c).stripCyc < stripLen (b.sc c)) (hblocked : blockedNow b c = [])
    (hf : ((b.sc c).flights.find? fun f => f.q == q && f.comp == (b.sc c).stripCyc) = some f) :
    Completes (.instructionComplete c q n) s fun t => ∃ u : State,
      (u.sc c).unflagged = ((b.sc c).completed q).unflagged ∧ t = addStake c f.cstk f.cstkN (qIdx q) f.tag u := by
  refine completes_inCycle (execInstructionComplete c q n) hb hrun hcyc hblocked ?_
  dsimp only
  rw [hf]
  refine ⟨_, ?_, rfl⟩
  rw [trace_sc, unitComplete_unflagged, State.onSc_sc_self]
  rfl
end

/-- Settles O2: each command is one operation on the core; a launch that steps keeps its launch point, and completion adds to one stake. -/
theorem stripsRun : Obligations.StripsRun := by
  unfold Obligations.StripsRun
  intro c q n rd s a ha
  refine ⟨?_, ?_, ?_, ?_, ?_, ?_⟩
  · intro st hissues hstaged hlisted hlaunch hstrip hrun hstopping hdrill hdebug
    exact ctlLaunch_launches ha hissues hstaged hlisted hlaunch hstrip hrun hstopping hdrill hdebug
  · intro l hl hsince hready
    exact launchReady_notes ha hl hsince hready
  · intro l st p r hl hstaged hpoint hready hwall hidle
    refine completes_imp (stripStart_starts ha hl hstaged hpoint hready hwall hidle) fun t ht => ?_
    rw [ht]
    obtain ⟨hrun, hstrip, hnone, hlaunch, hcyc, hid, -, -, hdraw, hfold, hbbuf⟩ := startStrip_sc c st a
    obtain ⟨hclear, hkeep, hhq⟩ := startStrip_stakes c st a
    exact ⟨hrun, hstrip, hnone, hlaunch, hcyc, hid, hclear, hkeep, hhq, hdraw, hfold, hbbuf⟩
  · intro st hstrip hrun hcyc hcarry
    refine completes_imp (stripEnd_ends ha hstrip hrun hcyc hcarry) fun t ht => ?_
    rw [ht]
    exact endStrip_ends c a
  · intro b f hb hrun hcyc hblocked hf hcstk
    rw [ha] at hb
    refine completes_imp (instructionComplete_adds hb hrun hcyc hblocked hf) fun t ht => ?_
    obtain ⟨u, hu, rfl⟩ := ht
    have hadd := (addStake_none (c := c) (k := f.cstk) (by omega) f.cstkN (qIdx q) f.tag u).trans (unsettled_of_unflagged hu)
    have hflights := eq_of_mask Sched.unsettled Sched.flights hadd
    have hstk := eq_of_mask Sched.unsettled Sched.stk hadd
    exact ⟨hflights, hstk⟩
  · intro b f hb hrun hcyc hblocked hf hcstk
    rw [ha] at hb
    refine completes_imp (instructionComplete_adds hb hrun hcyc hblocked hf) fun t ht => ?_
    obtain ⟨u, hu, rfl⟩ := ht
    have hstk : (u.sc c).stk = (b.sc c).stk := (eq_of_mask Sched.unflagged Sched.stk hu :)
    have hstk0 : (u.sc c).stk0 = (b.sc c).stk0 := (eq_of_mask Sched.unflagged Sched.stk0 hu :)
    rw [toNat_stk_addStake _ _ _ _ hcstk, hstk]
    exact ⟨rfl, (eq_of_mask Sched.unstaked Sched.stk0 (addStake_unstaked c c f.cstk f.cstkN (qIdx q) f.tag u)).trans hstk0⟩

end Sys2Proof.Machine
end
